-- ==== Sys2Proof/Word.lean ====
section
/-! DEFINITION. The machine word and the byte of the setup space, of host memory structures and of the sample store (spec 00, R6). -/

namespace Sys2Proof

/-- A word is 32 bits (R6). -/
abbrev Word := BitVec 32

/-- A byte is 8 bits (R6). -/
abbrev Byte := BitVec 8

end Sys2Proof
end

