-- ==== Sys2Proof/Machine/Bits.lean ====
section
/-! DEFINITION. Bit fields of words, signed readings, saturating counters, and the one canonical sparse map (address, value) that
the register file, the staged images and the sample store are kept in. -/

namespace Sys2Proof.Machine

/-- Bits `lo + n − 1 : lo` of a word as a number (R5). -/
def getF (w : Word) (lo n : Nat) : Nat := (w.toNat >>> lo) % 2 ^ n

/-- The word with bits `lo + n − 1 : lo` set to `v` modulo `2 ^ n` (R5). -/
def setF (w : Word) (lo n v : Nat) : Word :=
  (w &&& ~~~(BitVec.ofNat 32 ((2 ^ n - 1) <<< lo))) ||| BitVec.ofNat 32 ((v % 2 ^ n) <<< lo)

/-- A Bool as one bit. -/
def b2n (b : Bool) : Nat := if b then 1 else 0

/-- A word of fields, each `(lo, width, value)`, every other bit 0. -/
def packW (fs : List (Nat × Nat × Nat)) : Word :=
  fs.foldl (fun w f => setF w f.1 f.2.1 f.2.2) 0

/-- The two's-complement reading of the low `n` bits of `v`. -/
def sgn (n v : Nat) : Int :=
  let r := v % 2 ^ n
  if 2 ^ n ≤ 2 * r then (r : Int) - (2 ^ n : Nat) else r

/-- The low `n` bits of an integer, two's complement. -/
def unsgn (n : Nat) (v : Int) : Nat := (v % ((2 ^ n : Nat) : Int)).toNat

/-- A counter that stays at its highest value `m`. -/
def satAdd (m a b : Nat) : Nat := min m (a + b)

/-- An integer kept within `lo` and `hi`. -/
def clampI (lo hi v : Int) : Int := if v < lo then lo else if hi < v then hi else v

/-- Little-endian bytes of a word (R7). -/
def wordBytes (w : Word) : List Byte :=
  [w.extractLsb' 0 8, w.extractLsb' 8 8, w.extractLsb' 16 8, w.extractLsb' 24 8]

/-- Little-endian bytes of a list of words (R7). -/
def wordsBytes (ws : List Word) : List Byte := ws.flatMap wordBytes

/-- The word of four little-endian bytes. -/
def bytesWord (b : List Byte) : Word :=
  BitVec.ofNat 32 ((b.getD 0 0).toNat + (b.getD 1 0).toNat <<< 8 + (b.getD 2 0).toNat <<< 16 + (b.getD 3 0).toNat <<< 24)

/-- A number from bytes, the first byte the least significant. -/
def leNat : List Byte → Nat
  | [] => 0
  | b :: bs => b.toNat + 256 * leNat bs

/-- A number from bytes, the first byte the most significant. -/
def beNat (bs : List Byte) : Nat := bs.foldl (fun a b => a * 256 + b.toNat) 0

/-- `n` bytes of a number, the most significant first. -/
def natBe : Nat → Nat → List Byte
  | 0, _ => []
  | n + 1, v => BitVec.ofNat 8 (v >>> (8 * n)) :: natBe n v

/-- `n` bytes of a number, the least significant first. -/
def natLe : Nat → Nat → List Byte
  | 0, _ => []
  | n + 1, v => BitVec.ofNat 8 v :: natLe n (v >>> 8)

/-- The value listed at a key of a sorted list of pairs. -/
def Sparse.find {α : Type} : List (Nat × α) → Nat → Option α
  | [], _ => none
  | (k, v) :: m, a => if k = a then some v else Sparse.find m a

/-- Insert or replace, keeping the keys strictly rising. -/
def Sparse.insert {α : Type} : List (Nat × α) → Nat → α → List (Nat × α)
  | [], a, x => [(a, x)]
  | (k, v) :: m, a, x =>
    if a < k then (a, x) :: (k, v) :: m
    else if a = k then (a, x) :: m
    else (k, v) :: Sparse.insert m a x

/-- Take a key out. -/
def Sparse.erase {α : Type} (m : List (Nat × α)) (a : Nat) : List (Nat × α) := m.filter (fun e => e.1 != a)

/-- Read: an unlisted key reads as `d key`. DESIGN CHOICE, log 2. -/
def Sparse.get {α : Type} (d : Nat → α) (m : List (Nat × α)) (a : Nat) : α :=
  (Sparse.find m a).getD (d a)

/-- Write in canonical form: a value equal to what an unlisted key reads as removes the entry. DESIGN CHOICE, log 2. -/
def Sparse.put {α : Type} [DecidableEq α] (d : Nat → α) (m : List (Nat × α)) (a : Nat) (x : α) : List (Nat × α) :=
  if x = d a then Sparse.erase m a else Sparse.insert m a x

/-- Take out every key from `lo` up to, but not with, `hi`. -/
def Sparse.eraseRange {α : Type} (m : List (Nat × α)) (lo hi : Nat) : List (Nat × α) :=
  m.filter (fun e => e.1 < lo || hi ≤ e.1)

/-- Keys strictly rising. -/
def Sparse.sorted {α : Type} : List (Nat × α) → Bool
  | [] => true
  | [_] => true
  | (k, _) :: (k', v') :: m => decide (k < k') && Sparse.sorted ((k', v') :: m)

/-- The canonical form: keys strictly rising, no entry equal to what an unlisted key reads as. -/
def Sparse.wf {α : Type} [DecidableEq α] (d : Nat → α) (m : List (Nat × α)) : Bool :=
  Sparse.sorted m && m.all (fun e => decide (e.2 ≠ d e.1))

/-- Change one entry of a fixed row of things. -/
def upd {α : Type} {n : Nat} (v : Vector α n) (i : Fin n) (f : α → α) : Vector α n := v.set i (f v[i])

/-- The numbers `0 … n − 1` for which `p` holds, as a mask. -/
def maskOf (n : Nat) (p : Nat → Bool) : Nat :=
  (List.range n).foldl (fun a i => if p i then a + 2 ^ i else a) 0

/-- Bit `i` of a number. -/
def tb (v i : Nat) : Bool := v.testBit i

/-- The bits set among the low `n`, ascending. -/
def bitsOf (n v : Nat) : List Nat := (List.range n).filter (fun i => v.testBit i)

/-- A list kept as a set of numbers in ascending order. -/
def setIns : List Nat → Nat → List Nat
  | [], a => [a]
  | k :: m, a => if a < k then a :: k :: m else if a = k then k :: m else k :: setIns m a

end Sys2Proof.Machine
end

