-- ==== Sys2Proof/Machine/Terms.lean ====
section
/-! DEFINITION. The plain data that commands, messages and the state are made of: rails, ports, blocks, descriptors, records,
Lace messages and the transactions the device makes towards the outside. -/

namespace Sys2Proof.Machine

/-- The eight supply rails of Table 2.1, in its order. -/
inductive Rail where
  | vbatAo | core | mem | rf | ana | pa | ser | io
  deriving DecidableEq, Repr

/-- Supply index of a rail (Table 2.1, column Monitor). -/
def Rail.idx : Rail → Nat
  | .vbatAo => 0 | .core => 1 | .mem => 2 | .rf => 3 | .ana => 4 | .pa => 5 | .ser => 6 | .io => 7

/-- Levels of the ten strap balls and the VDD_IO range (R38, R50). -/
structure Straps where
  id : BitVec 6
  head : Bool
  compat6 : Bool
  bootsrc : BitVec 2
  io3v3 : Bool
  deriving DecidableEq, Repr

/-- The four access ports of Table 5.2. -/
inductive Port where
  | pcie | spi | jtag | svc
  deriving DecidableEq, Repr

/-- TOP_ERR_ADDR.PORT, and the place of a port's shadows. -/
def Port.idx : Port → Fin 4
  | .pcie => 0 | .spi => 1 | .jtag => 2 | .svc => 3

/-- The blocks that TOP_BLOCK_RESET can hold (Table 5.1). -/
inductive Blk where
  | hif | pip | radio | samp | cal | bcst | aud | tag | lnk | exch
  deriving DecidableEq, Repr

/-- Every block with a bit, in bit order. -/
def Blk.all : List Blk := [.hif, .pip, .radio, .samp, .cal, .bcst, .aud, .tag, .lnk, .exch]

/-- TOP_BLOCK_RESET bit of a block: its base divided by 0x400 (Table 5.1). -/
def Blk.bit : Blk → Nat
  | .hif => 2 | .pip => 6 | .radio => 8 | .samp => 10 | .cal => 12 | .bcst => 14 | .aud => 16 | .tag => 18
  | .lnk => 22 | .exch => 24

/-- Place of a block in the rows kept per block. -/
def Blk.idx : Blk → Fin 10
  | .hif => 0 | .pip => 1 | .radio => 2 | .samp => 3 | .cal => 4 | .bcst => 5 | .aud => 6 | .tag => 7
  | .lnk => 8 | .exch => 9

/-- Base offset of a block. -/
def Blk.base (b : Blk) : Nat := b.bit * 0x400

/-- Bytes of a block (Table 5.1). -/
def Blk.size : Blk → Nat
  | .hif | .pip => 0x400
  | _ => 0x800

/-- A block served, held in reset, or released and not yet serving (R176, R180). -/
inductive Hold where
  | free | held | releasing
  deriving DecidableEq, Repr

/-- The two images. -/
inductive Img where
  | svc | seq
  deriving DecidableEq, Repr

/-- A descriptor: its ring, its entry and its eight words (Table 6.7). -/
structure Desc where
  ring : Fin 8
  index : Nat
  words : List Word
  deriving DecidableEq, Repr

/-- Word `i` of a descriptor. -/
def Desc.w (d : Desc) (i : Nat) : Word := d.words.getD i 0
/-- Field of a descriptor word. -/
def Desc.f (d : Desc) (i lo n : Nat) : Nat := getF (d.w i) lo n
def Desc.opcode (d : Desc) : Nat := d.f 0 0 8
def Desc.member (d : Desc) : Nat := d.f 0 8 6
def Desc.tag (d : Desc) : Nat := d.f 0 16 16
/-- The address that two words carry. -/
def Desc.addr (d : Desc) (i : Nat) : Nat := (d.w i).toNat + (d.w (i + 1)).toNat * 2 ^ 32
/-- Two descriptors are the same: the same words in the same entry of the same ring. -/
def Desc.same (d e : Desc) : Bool := d == e

/-- What a completion carries beyond its descriptor (Table 6.9). -/
structure Result where
  status : Nat
  detail : Nat := 0
  r0 : Word := 0
  r1 : Word := 0
  r2 : Word := 0
  r3 : Word := 0
  deriving DecidableEq, Repr

/-- An event record before it is given to a ring (Table 6.10): PHASE, UNTESTED and SEQ are added when it is written. -/
structure Rec where
  typ : Nat
  member : Nat
  pip : Int
  frac : Nat
  tile : Nat
  body : List Word
  ring : Option (Fin 24) := none
  deriving DecidableEq, Repr

/-- A store access whose requester waits or that holds the port (R617, R621). `addr` is a logical word address; a plain access
moves `beats` beats of 8 words, `made` of them made so far; a stitch reads its beats first and writes at its end. `mode` is
ARB_MODE's bit of its bank group as it stood at the grant (R619). -/
structure Access where
  rank : Nat
  stitch : Bool
  write : Bool
  addr : Nat
  beats : Nat
  span : Nat
  data : List Word
  desc : Option Desc
  made : Nat
  mode : Bool
  deriving DecidableEq, Repr

/-- A flit (Table 16.7). -/
structure Flit where
  dest : Nat
  src : Nat
  vc : Nat
  epoch : Nat
  kind : Nat
  first : Bool
  last : Bool
  bcast : Bool
  data : List Word
  res : List Nat
  crc : Nat
  deriving DecidableEq, Repr

/-- A control block of the link protocol (Table 16.8). -/
inductive Ctl where
  | idle
  | flow (ack vc0 vc1 boot : Nat)
  | nak (expect : Nat)
  | train (lane link member : Nat) (head : Bool) (token : Nat)
  | dist (member dist uid : Nat)
  | brk (kind reporter link partner epoch count : Nat)
  | sleep (entering : Bool)
  | laneChk (lane : Nat)
  deriving DecidableEq, Repr

/-- A message of the Lace (R685): its kind of Table 16.7, its MSG code, its TAG and its words after the message word. DESIGN CHOICE, log 10. -/
structure Msg where
  dst : Nat
  src : Nat
  kind : Nat
  code : Nat
  tag : Nat
  bcast : Bool := false
  words : List Word
  deriving DecidableEq, Repr

/-- What the head finds about a link of a member when it forms an epoch (R657, R673): it carries no epoch traffic, or it is wired against
Table 16.1. -/
structure LinkFault where
  member : Nat
  link : Nat
  miswired : Bool
  deriving DecidableEq, Repr

/-- What the device does towards the outside, in the order it does it. -/
inductive Out where
  /-- Words returned by a setup read through a port. -/
  | words (port : Port) (ws : List Word)
  /-- A completion with status Unsupported Request (R152). -/
  | unsupported
  /-- Bits shifted out of a JTAG data register, as a number. -/
  | jtag (value : Nat)
  /-- A read request to host memory. -/
  | hostRead (addr bytes : Nat)
  /-- A posted write to host memory. -/
  | hostWrite (addr : Nat) (ws : List Word)
  /-- An MSI-X message. -/
  | msix (vec addr : Nat) (data : Word)
  /-- A message handed to the fabric or to the boot tree. -/
  | msg (m : Msg)
  /-- A flit sent on a link. -/
  | flit (link : Fin 4) (f : Flit)
  /-- A control block sent on a link. -/
  | ctl (link : Fin 4) (c : Ctl)
  /-- A pulse of SYNC_OUT. -/
  | syncPulse
  /-- A beacon body sent on the air, as its bits, on a frequency. -/
  | air (freqHz : Nat) (bits : List Bool)
  /-- A frame of SPDO: whether it starts a block, its C bits in subframes A and B, and V (R532 to R537). -/
  | spdo (block cA cB v : Bool)
  deriving DecidableEq, Repr

/-- A posted write that waits while the host accepts none (R257), with what it carries. -/
inductive HostWrite where
  | completion (ring : Fin 24) (addr : Nat) (ws : List Word)
  | record (ring : Fin 24) (addr : Nat) (ws : List Word)
  | tile (ring : Fin 24) (addr : Nat) (ws : List Word)
  | data (addr : Nat) (ws : List Word)
  deriving DecidableEq, Repr

/-- What a round has summed over the qualified samples of one path of this member (Table 11.1, R811): their number, the sums of I and Q, and
those of I², Q² and IQ. -/
structure CalStat where
  path : Fin 4
  n : Nat
  sumI : Int
  sumQ : Int
  sumII : Int
  sumQQ : Int
  sumIQ : Int
  deriving DecidableEq, Repr

/-- What an owner has summed for one path of a member (R433): sub-band samples, powers of the reference path and of the path, and the
complex sum of PHASE. -/
structure CalSum where
  member : Nat
  path : Fin 4
  n : Nat
  refPow : Nat
  pathPow : Nat
  re : Int
  im : Int
  deriving DecidableEq, Repr

/-- Values of GAIN and PHASE for one path, none for an item without enough samples. -/
structure CalValue where
  path : Fin 4
  gain : Option Int
  phase : Option Int
  deriving DecidableEq, Repr

/-- What a frame's FIC or MSC tells of an ensemble, as decoded (R473, R479). -/
inductive DabFact where
  /-- FIG 0/0 and 1/0: EId and label. -/
  | ensemble (eid : Nat) (label : List Word)
  /-- FIG 0/1 to 0/3, 0/8, 0/13, 1/1: a service component: codec 1 Layer II, 2 HE-AAC v2, 3 packet data; sub-channel, bit rate, label. -/
  | service (sid scids codec subch rate : Nat) (label : List Word)
  /-- FIG 0/6: a linkage set. -/
  | link (hard : Bool) (sids pis : List Nat)
  /-- FIG 0/21: a frequency of a linked service. -/
  | frequency (dab : Bool) (id freq : Nat)
  /-- FIG 0/10: time. -/
  | time (mjd hour minute second ms : Nat)
  /-- FIG 0/18: clusters of a service, and the types it supports. -/
  | support (sid flags : Nat) (clusters : List Nat)
  /-- FIG 0/19: active announcements of a cluster, 0 when ended. -/
  | announce (cluster flags subch : Nat)
  /-- The FIC has told the whole configuration. -/
  | complete
  deriving DecidableEq, Repr

/-- A meter reading of a station (R466, R475): path, frequency, L in dBm, MP, and the pilot. -/
structure BcstMeter where
  path : Fin 4
  freq : Nat
  level : Int
  mp : Nat
  stereo : Bool
  deriving DecidableEq, Repr

/-- A candidate sighting (R576, Table 18.10). `sets` are the open listen sets it came in by, `implicit` whether a beacon's window. -/
structure Candidate where
  pool : Nat
  serial : Nat
  seq : Nat
  mac : Nat
  keyid : Nat
  side : Nat
  rssi : Int
  owner : Nat
  band : Nat
  channel : Nat
  beam : Nat
  mode : Nat
  tile : Nat
  sets : List Nat
  implicit : Bool
  deriving DecidableEq, Repr

/-- What a datacast subscription delivers (R496 to R498): an RDS ODA unit of 37 bits, the data field of a DAB data group, or a loss. -/
inductive DataUnit where
  | rds (v : Nat)
  | dab (bytes : List Byte)
  | lost
  deriving DecidableEq, Repr

/-- What one output's FIFO did within a count of the audio frame counter: frames that came from the engine, and frames that a follower's
clock took. -/
structure AudFlow where
  come : Nat
  taken : Nat
  deriving DecidableEq, Repr

end Sys2Proof.Machine
end

