-- ==== Sys2Proof/Syntax.lean ====
section
/-! DEFINITION. The commands of the device: one constructor per row of spec/opcode_table.json, in the table's order. The
operands are what the row's rule reads from outside: an address, a value, words read from host memory, a message's words, a level
at a ball, a measured value. -/

namespace Sys2Proof

open Sys2Proof.Machine

/-- A command: a register access, a protocol step or an event. -/
inductive Instr where
  /-- RAIL_GOOD (R35). A rail rises above its Good above value and is declared good within 5 µs. -/
  | railGood (rail : Rail)
  /-- RAIL_LOST (R35). A rail falls below its Lost below value and is declared lost within 5 µs. -/
  | railLost (rail : Rail)
  /-- POWER_ON_RESET_RELEASE (R36). Power-on reset releases once VBAT_AO and core supply good hold, and the boot timeline of Table 3.2 begins. -/
  | powerOnResetRelease (straps : Straps)
  /-- RADIO_RAIL_WAIT_TIMEOUT (R65). A radio move out of SLEEP whose rails are not good within 1 ms completes TIMEOUT. -/
  | radioRailWaitTimeout (unit : Fin 5)
  /-- RESET_N_ASSERT (R49). RESET_N low in D0 to D3 resets the device as power-on reset does. -/
  | resetNAssert (ns : Nat)
  /-- RESET_N_RELEASE (R49). Release of RESET_N samples straps and starts the boot timeline, also from D4. -/
  | resetNRelease (straps : Straps) (ns : Nat)
  /-- REF_DETECT_WINDOW_END (R71). At the end of the 40 µs detection window the boot ROM selects REFCLK or the crystal. -/
  | refDetectWindowEnd
  /-- REFCLK_DETECTED (R315). The REFCLK receiver sees 512 edges within the rate test and REFCLK counts as detected. -/
  | refclkDetected
  /-- CRYSTAL_STARTED (R315). The crystal oscillator reaches full swing and passes 1024 cycles of the rate test. -/
  | crystalStarted
  /-- ADPLL_LOCK (R320). An ADPLL holds phase error within ±200 ps for 1024 REF edges and declares lock. -/
  | adpllLock (unit : Fin 7) (cycle : Nat)
  /-- ADPLL_LOSS_OF_LOCK (R321). Phase error exceeds ±2 ns on two edges; the ADPLL gates its outputs, sets LOL and posts FAULT. -/
  | adpllLossOfLock (unit : Fin 7)
  /-- ADPLL_LOSS_OF_REF (R321). No REF edge for 1.5 periods; the ADPLL gates its outputs, sets LOR and posts FAULT. -/
  | adpllLossOfRef
  /-- LINK_TRAINING_START (R639). At 2 ms after release link training starts on every Bobbin link. -/
  | linkTrainingStart
  /-- PCIE_RETRY_END (R73). 20 ms after the later of reset and PERST_N release the function stops answering with retry status. -/
  | pcieRetryEnd
  /-- BOOT_START (R74). A write of 1 to BOOT_CTL.START fetches or takes the staged images and checks them. -/
  | bootStart (port : Port) (w : Word) (busMaster : Bool) (mrrs : Fin 6)
  /-- BOOT_FORCE_UNTESTED (R88). FORCE_UNTESTED set while HELD_STEP or HELD_IFG starts the held pair and sets UNTESTED. -/
  | bootForceUntested (port : Port) (w : Word)
  /-- BOOT_WINDOW_WRITE (R81). A word written to BOOT_WIN_DATA is staged at OFFSET and OFFSET advances by 4, or is discarded with WIN_ERR. -/
  | bootWindowWrite (port : Port) (index : Fin 64) (w : Word)
  /-- IMAGE_READ_COMPLETE (R863). A DMA image read request completes. -/
  | imageReadComplete (img : Nat) (data : Option (List Word))
  /-- BUS_MASTER_CLEAR (R77). Bus Master Enable cleared during FETCH ends the load under R80. -/
  | busMasterClear
  /-- TOP_SOFT_RESET (R182). A write of 0x50F7_0001 to TOP_SOFT_RESET fires a soft reset of the reach of Table 3.1. -/
  | topSoftReset (port : Port) (w : Word)
  /-- SOFT_RESET_SILENT_END (R183). 100 µs after a soft reset the ports answer again. -/
  | softResetSilentEnd
  /-- SOFT_RESET_DEFERRED_FIRE (R184). When the completion cannot be written, the soft reset on the head takes effect 10 ms after the firing word. -/
  | softResetDeferredFire
  /-- HELLO_SEND (R94). A member resends HELLO after BUSY_RETRY or no answer, 1 ms × (1 + member number) after the last. -/
  | helloSend
  /-- HELLO_RECEIVE (R95). The head answers a HELLO with BUSY_RETRY, ACCEPT or REFUSE and may start a push. -/
  | helloReceive (member phase : Nat) (untested : Bool) (svcCrc seqCrc : Word) (uid : BitVec 64) (tag : Nat) (faults : List LinkFault)
  /-- PUSH_END (R96). A push ends and a pending push starts. -/
  | pushEnd
  /-- ANSWER_RECEIVE (R100). A member takes ACCEPT, BUSY_RETRY or REFUSE from the head. -/
  | answerReceive (member status tag : Nat)
  /-- PUSH_RECEIVE (R97). A member in WAIT_IMAGES takes a whole push and checks the pair under R98. -/
  | pushReceive (first force : Bool) (svc seq : List Word)
  /-- EPOCH_ONE_TIMEOUT (R101). At 1000 ms after reset the head forms epoch 1 with the members accepted so far. -/
  | epochOneTimeout (faults : List LinkFault)
  /-- PERST_N_ASSERT (R258). PERST_N low resets the HIF block and discards ring traffic in flight. -/
  | perstNAssert
  /-- PERST_N_RELEASE (R73). PERST_N release retrains the link and restarts the 20 ms retry period. -/
  | perstNRelease
  /-- FUNCTION_LEVEL_RESET (R258). FLR resets the HIF block with the effects of R258. -/
  | functionLevelReset
  /-- PCI_PM_D3HOT_ENTER (R785). The function enters PCI-PM D3hot and stops all host writes and reads. -/
  | pciPmD3hotEnter
  /-- PCI_PM_D0_RETURN (R785). The function returns to PCI-PM D0 and held fetches and completions proceed. -/
  | pciPmD0Return
  /-- REGISTER_WRITE (R161). A write to a register with no row of its own applies to each field under its access code. -/
  | registerWrite (port : Port) (off : Nat) (words : List Word) (full : Bool)
  /-- BAR0_OTHER_REQUEST (R152). A request type other than memory read or write to BAR0 is answered Unsupported Request. -/
  | bar0OtherRequest
  /-- LO_HALF_READ (R168). A read of a _LO register captures the _HI into the port's read shadow. -/
  | loHalfRead (port : Port) (off n : Nat)
  /-- PAIRED_LO_WRITE (R172). A write to _LO of a paired register is held in the port's write shadow. -/
  | pairedLoWrite (port : Port) (pip : Bool) (w : Word)
  /-- PAIRED_HI_WRITE (R172). A write to _HI of a paired register lands both halves in one access. -/
  | pairedHiWrite (port : Port) (pip : Bool) (w : Word) (ns cycle : Nat)
  /-- JTAG_REGACC (R154). Update-DR of REGACC with VALID = 1 starts one setup register access. -/
  | jtagRegacc (wr valid : Bool) (off : BitVec 16) (data : Word) (busy : Bool)
  /-- JTAG_EXTEST (R846). EXTEST drives the balls from the boundary register, EN_MAIN and EN_RF excepted. -/
  | jtagExtest (balls value : BitVec 214)
  /-- JTAG_IDCODE (R846). IDCODE selects the 32-bit register that reads 0x1734_0B4D. -/
  | jtagIdcode
  /-- JTAG_SAMPLE_PRELOAD (R846). SAMPLE/PRELOAD captures the balls and loads the boundary register. -/
  | jtagSamplePreload (balls value : BitVec 214)
  /-- JTAG_CLAMP (R846). CLAMP holds the balls at the boundary register's values. -/
  | jtagClamp
  /-- JTAG_HIGHZ (R846). HIGHZ places every boundary-scanned output in high impedance. -/
  | jtagHighz
  /-- JTAG_BYPASS (R846). BYPASS, and every unknown code, selects the 1-bit bypass register. -/
  | jtagBypass (code : BitVec 6)
  /-- BLOCK_RESET_HOLD (R176). A write of 1 to a TOP_BLOCK_RESET bit holds the block, resets its registers and advances its generation. -/
  | blockResetHold (port : Port) (w : Word)
  /-- BLOCK_RESET_RELEASE (R180). A write of 0 starts the release of a held block. -/
  | blockResetRelease (port : Port) (w : Word)
  /-- BLOCK_RELEASE_DONE (R180). Within 20 µs of the write of 0 the block serves accesses again. -/
  | blockReleaseDone (block : Blk)
  /-- STALE_REPLY (R179). A reply carrying an earlier block generation is discarded and counted in TOP_STALE_CNT. -/
  | staleReply (block : Blk) (gen : BitVec 8)
  /-- COMPAT6_WRITE (R185). A write changing TOP_CFG.COMPAT6 takes effect, or is discarded with CFG_REJ while the ring engine runs. -/
  | compat6Write (port : Port) (w : Word)
  /-- DBG_GO (R190). DBG_CTL.GO performs one word access to the sample store through the JTAG debug requester. -/
  | dbgGo (w : Word) (flips : List (Nat × Bool))
  /-- SPI_READ (R124). A READ frame reads words from its address, each taking effect at its first data clock. -/
  | spiRead (addr : BitVec 16) (n : Nat) (tooFast : Bool)
  /-- SPI_FAST_READ (R124). A FAST_READ frame reads words after 8 dummy clocks. -/
  | spiFastRead (addr : BitVec 16) (n : Nat) (tooFast : Bool)
  /-- SPI_WRITE (R128). A WRITE frame commits each word at its 32nd data clock in ascending order. -/
  | spiWrite (addr : BitVec 16) (words : List Word) (cut : Bool)
  /-- SPI_STATUS (R135). A STATUS frame returns fresh status words for as long as SCLK runs. -/
  | spiStatus (n : Nat) (tooFast : Bool)
  /-- SPI_WAKE (R136). A WAKE frame wakes the device from D1, D2 or D3. -/
  | spiWake
  /-- SPI_RESET_ARM (R137). A RESET_ARM frame of exactly 8 clocks arms the soft reset. -/
  | spiResetArm (clocks : Nat)
  /-- SPI_RESET_FIRE (R138). A RESET_FIRE frame after a valid arm fires the soft reset at SPI_CS_N rising. -/
  | spiResetFire (clocks : Nat)
  /-- SPI_ARM_EXPIRY (R139). 1 ms after the arming frame the soft reset disarms. -/
  | spiArmExpiry
  /-- SPI_UNKNOWN_COMMAND (R123). A frame with an unknown command byte is ignored and sets BADCMD. -/
  | spiUnknownCommand (cmd : BitVec 8)
  /-- SPI_SHORT_FRAME (R132). A frame ending before its address is complete does nothing and sets SHORT. -/
  | spiShortFrame (cmd : Option (BitVec 8))
  /-- SPI_NO_CLOCK_FRAME (R134). A frame with no rising SCLK edge has no effect and is not counted. -/
  | spiNoClockFrame
  /-- SPI_D4_WAKE_EDGE (R142). The first falling edge of SPI_CS_N in D4 wakes the device and its frame is ignored. -/
  | spiD4WakeEdge
  /-- HIF_ENGINE_ENABLE (R197). ENGINE_EN = 1 enables the ring engine, or is refused with NOT_HEAD on a member. -/
  | hifEngineEnable (port : Port) (w : Word) (busMaster : Bool)
  /-- HIF_ENGINE_DISABLE (R198). ENGINE_EN = 0 disables the engine, or is refused with CFG_ERR while a ring is ACTIVE. -/
  | hifEngineDisable (port : Port) (w : Word)
  /-- RING_ENABLE (R199). Setting a ring's EN checks base and size and zeroes both indices. -/
  | ringEnable (port : Port) (ring : Fin 24) (w : Word)
  /-- RING_DISABLE (R201). Clearing a ring's EN stops it with the effects of R201 to R203. -/
  | ringDisable (port : Port) (ring : Fin 24) (w : Word)
  /-- DOORBELL_ARRIVAL (R206). A doorbell write is judged on arrival and discarded with DB_ERR when invalid. -/
  | doorbellArrival (off : Nat) (w : Word) (full : Bool)
  /-- DOORBELL_TAKE (R207). The device takes a doorbell, judges it again and moves the host-owned index. -/
  | doorbellTake (ring : Fin 24)
  /-- DESCRIPTOR_FETCH_COMPLETE (R867). A descriptor read completes and the descriptor is held for starting. -/
  | descriptorFetchComplete (words : List Word)
  /-- DESCRIPTOR_FETCH_FAIL (R263). A failed descriptor fetch halts the ring and posts a BAD_DESC completion with DMA_READ. -/
  | descriptorFetchFail
  /-- DESCRIPTOR_START (R216). A fetched descriptor starts once its completion ring has room and no FENCE holds it. -/
  | descriptorStart (ring : Fin 8)
  /-- NOP (R238). NOP completes OK with no other effect. -/
  | nop (d : Desc)
  /-- FENCE (R237). FENCE starts when earlier descriptors have completed and completes OK at once. -/
  | fence (d : Desc)
  /-- CANCEL (R239). CANCEL matches the oldest outstanding descriptor with the TAG in the named ring. -/
  | cancel (d : Desc)
  /-- CANCEL_ARRIVAL (R239). A CANCEL reaches its target's block and the outcome of Table 6.5 is decided. -/
  | cancelArrival (d target : Desc)
  /-- REG_READ (R155). REG_READ reads up to 128 words of the named member's setup space into host memory. -/
  | regRead (d : Desc)
  /-- REG_WRITE (R155). REG_WRITE writes up to 4 words to the named member's setup space. -/
  | regWrite (d : Desc) (ns cycle : Nat) (near : Bool) (flips : List (Nat × Bool))
  /-- FORWARDED_REQUEST_RECEIVE (R155). A member's service core takes a forwarded register request and serves it. -/
  | forwardedRequestReceive (m : Msg) (ns cycle : Nat) (near : Bool) (flips : List (Nat × Bool))
  /-- RESPONSE_RECEIVE (R659). A response lands in the requester's reserved slot and completes its request. -/
  | responseReceive (src tag : Nat) (late : Bool) (r : Result) (data : List Word)
  /-- UPDATE_REGION_RUN (R243). A waiting UPDATE_REGION starts running when the running one ends. -/
  | updateRegionRun (region : Fin 8)
  /-- REGION_DATA_READ_COMPLETE (R244). The host data of a running update has been read. -/
  | regionDataReadComplete (d : Desc) (data : Option (List Word))
  /-- UPDATE_BEAM_WEIGHTS (R722). UPDATE_REGION region 0 loads beam weights, taking effect at a tile boundary. -/
  | updateBeamWeights (d : Desc)
  /-- UPDATE_OWNERSHIP_MAP (R692). UPDATE_REGION region 1 gives every member of the epoch the octet ownership map. -/
  | updateOwnershipMap (d : Desc)
  /-- UPDATE_AF_LIST (R503). UPDATE_REGION region 2 replaces the AF and linkage list. -/
  | updateAfList (d : Desc)
  /-- UPDATE_RECALL_LIST (R748). UPDATE_REGION region 3 replaces the recall list at one instant. -/
  | updateRecallList (d : Desc)
  /-- UPDATE_SPDO_TEMPLATE (R553). UPDATE_REGION region 4 writes SPDO_CS0 to SPDO_CS5 and loads them at a block start. -/
  | updateSpdoTemplate (d : Desc)
  /-- UPDATE_TAG_PLAN (R595). UPDATE_REGION region 5 loads the tag channel plan at a boundary with no beacon pending. -/
  | updateTagPlan (d : Desc)
  /-- UPDATE_ROSTER (R763). UPDATE_REGION region 6 replaces or merges roster entries. -/
  | updateRoster (d : Desc)
  /-- UPDATE_PIP_TABLE (R297). UPDATE_REGION region 7 replaces or edits the event table at one instant. -/
  | updatePipTable (d : Desc)
  /-- SNAPSHOT (R246). SNAPSHOT writes a restore blob of the selected sections into host memory. -/
  | snapshot (d : Desc) (others : List (Nat × List Word)) (stitch : Nat)
  /-- RESTORE (R251). RESTORE checks a blob and applies its selected sections member by member. -/
  | restore (d : Desc) (remoteBusy : Bool)
  /-- OVERLOAD_POST (R225). Once an entry of a full event ring is free, an OVERLOAD record with SOURCE 1 reports the drops. -/
  | overloadPost (ring : Fin 24)
  /-- CAPTURE_DROP_REPORT (R229). Once capture ring and outbound buffer have room, an OVERLOAD with SOURCE 2 is posted. -/
  | captureDropReport (ring : Fin 4)
  /-- MSIX_SEND (R231). After the ring's holdoff expires the MSI-X message is sent for unsignalled events. -/
  | msixSend (ring : Fin 24)
  /-- HOST_WRITE_RESUME (R257). When the host accepts posted writes again, kept records and completions are written. -/
  | hostWriteResume (accepts : Bool)
  /-- PIP_EDGE_QUAD (R268). A quadrature edge steps the pip count and qualifies events. -/
  | pipEdgeQuad (a b : Bool) (ns cycle : Nat)
  /-- PIP_EDGE_PULSE (R265). A rising edge of PIP_A steps the count by PIP_DIR. -/
  | pipEdgePulse (dir : Bool) (ns cycle : Nat)
  /-- PIP_EDGE_DAB (R265). A DAB null symbol steps the count up. -/
  | pipEdgeDab (ns cycle : Nat)
  /-- PIP_EDGE_RDS (R265). The end of an RDS block D steps the count up. -/
  | pipEdgeRds (ns cycle : Nat)
  /-- PIP_COUNT_HOST_WRITE (R272). A write to PIP_COUNT with SRC HOST steps or jumps the count. -/
  | pipCountHostWrite (port : Port) (value : BitVec 64) (ns cycle : Nat)
  /-- PIP_HOMING (R271). A rising edge of PIP_Z while armed sets the count to 0 as a jump. -/
  | pipHoming (cycle : Nat)
  /-- PIP_Z_ARM (R271). A write of 1 to PIP_CTL.Z_ARM arms homing. -/
  | pipZArm (port : Port) (w : Word)
  /-- PIP_SRC_WRITE (R275). A change of PIP_SRC.SRC keeps the count and zeroes fraction and rate. -/
  | pipSrcWrite (port : Port) (w : Word)
  /-- PIP_QUAL_INSTANT (R281). The sub-pip qualifying instant arrives and the scheduler commits the firing. -/
  | pipQualInstant (slot : Nat)
  /-- PIP_WIN_OPEN (R571). A WIN_OPEN action opens its listen set on owned octets. -/
  | pipWinOpen (slot lateNs : Nat)
  /-- PIP_WIN_CLOSE (R571). A WIN_CLOSE action closes its listen set. -/
  | pipWinClose (slot lateNs : Nat)
  /-- PIP_BEACON (R583). A BEACON action reserves one send and queues a beacon request, or is dropped. -/
  | pipBeacon (slot lateNs : Nat) (otherHears : Bool)
  /-- PIP_AUDIO_START (R543). An AUDIO_START action triggers the armed outputs. -/
  | pipAudioStart (slot lateNs : Nat) (near : Bool)
  /-- PIP_CAPTURE_START (R417). A CAPTURE_START action begins the waiting capture on its ring. -/
  | pipCaptureStart (slot lateNs : Nat)
  /-- PIP_CAL_SLOT (R437). A CAL_SLOT action opens a calibration window for its paths and tiles. -/
  | pipCalSlot (slot lateNs : Nat)
  /-- CAL_SLOT_END (R437). A CAL_SLOT window closes after its length in tiles. -/
  | calSlotEnd
  /-- PIP_GPIO_SET (R285). A GPIO_SET action drives its ball high. -/
  | pipGpioSet (slot lateNs : Nat)
  /-- PIP_GPIO_CLEAR (R285). A GPIO_CLEAR action drives its ball low. -/
  | pipGpioClear (slot lateNs : Nat)
  /-- PIP_POST_RECORD (R287). A POST_RECORD action posts a PIP_FIRED record. -/
  | pipPostRecord (slot lateNs : Nat)
  /-- PIP_EVENT_ARM (R293). PIP_EVENT_ARM writes an entry into the named slot. -/
  | pipEventArm (d : Desc)
  /-- PIP_EVENT_DISARM (R294). PIP_EVENT_DISARM empties one slot or all slots. -/
  | pipEventDisarm (d : Desc)
  /-- PIP_BEACON_SEND (R298). Every 100 µs the head sends a pip beacon to every member. -/
  | pipBeaconSend (sinceNs cycle : Nat)
  /-- PIP_BEACON_RECEIVE (R298). A member with SRC LACE sets count, fraction and rate from a beacon. -/
  | pipBeaconReceive (count : Int) (frac : Nat) (rate : Word)
  /-- PIP_NOTICE_RECEIVE (R300). A member commits a firing for the qualifying instant carried by a notice. -/
  | pipNoticeReceive (edgeDir : Nat) (old count : Int) (frac tile cycle : Nat) (revised : Bool)
  /-- PIP_LOCK_LOSS (R303). With no beacon for 1 ms a LACE member clears LOCKED and holds its count. -/
  | pipLockLoss
  /-- PIP_STOPPED (R276). With no edge for 1 s PERIOD reads 0 and STOPPED reads 1. -/
  | pipStopped
  /-- REF_SELECT_WRITE (R317). A change of CLK_REF_SEL.SEL acts as loss and return of reference, or is rejected. -/
  | refSelectWrite (port : Port) (w : Word)
  /-- AUDIO_EXT_LOST (R329). The audio ADPLL's external input is lost and it enters holdover. -/
  | audioExtLost
  /-- AUDIO_HOLDOVER_EXIT (R330). After 1024 good input periods the audio ADPLL leaves holdover and slews. -/
  | audioHoldoverExit
  /-- AUDIO_FAMILY_CHANGE (R330). A change of CLK_AUD_CTL.FAMILY re-locks the audio ADPLL with its output gated. -/
  | audioFamilyChange (port : Port) (w : Word)
  /-- AUDIO_SRC_CHANGE (R330). A change of CLK_AUD_CTL.SRC between REF and an external input slews without gating. -/
  | audioSrcChange (port : Port) (w : Word)
  /-- SYNC_FIRE (R336). A write of FIRE on the head sends a SYNC. -/
  | syncFire (port : Port) (w : Word)
  /-- SYNC_ARM_RECEIVE (R335). A member takes SYNC_ARM and acknowledges it. -/
  | syncArmReceive (tile frame : Nat)
  /-- SYNC_PULSE_DRIVE (R335). After all acknowledgements and 100 µs the head drives SYNC_OUT for 8 periods. -/
  | syncPulseDrive (acked : List Nat)
  /-- SYNC_PULSE_SAMPLE (R332). A member samples a valid SYNC pulse at edge S, or ignores a glitch. -/
  | syncPulseSample (valid : Bool)
  /-- SYNC_EFFECT (R333). At the 16th edge after S the member resets its counts and re-phases its ADPLLs. -/
  | syncEffect (movesSys : Bool) (movesLo : Nat) (movesAud : Bool)
  /-- SYNC_ARM_EXPIRY (R337). An arm with no valid pulse within 1 ms sets MISSED and reports SYNC_MISSED. -/
  | syncArmExpiry
  /-- SYNC_DONE_RECEIVE (R336). The head takes a member's SYNC_DONE. -/
  | syncDoneReceive (member : Nat)
  /-- SYNC_FIRE_TIMEOUT (R336). FIRE clears 2 ms after the pulse when not all members reported. -/
  | syncFireTimeout
  /-- LO_TARGET_WRITE (R358). A write of _CTL.TARGET requests a synthesiser state change. -/
  | loTargetWrite (port : Port) (unit : Fin 5) (w : Word)
  /-- LO_TUNE_WRITE (R358). A write of 1 to _CTL.TUNE requests a retune to _FREQ. -/
  | loTuneWrite (port : Port) (unit : Fin 5) (w : Word)
  /-- LO_CAL_INVALIDATE (R361). A write of 1 to _CALMODE.INVALIDATE discards every held calibration set. -/
  | loCalInvalidate (port : Port) (unit : Fin 5) (w : Word)
  /-- TUNE (R359). TUNE retunes a synthesiser, or stores the frequency when it is not locked. -/
  | tune (d : Desc)
  /-- RADIO_STATE (R359). RADIO_STATE moves the named synthesisers to a target state. -/
  | radioState (d : Desc)
  /-- SYNTH_STEP_DONE (R355). A synthesiser completes one state step or retune. -/
  | synthStepDone (unit : Fin 5) (cycle : Nat)
  /-- SYNTH_LOCK_TIMEOUT (R359). No lock within 1 ms of a step; the request completes TIMEOUT and the synthesiser returns to STANDBY. -/
  | synthLockTimeout (unit : Fin 5)
  /-- TX_GRANT (R588). The radio scheduler grants a beacon, fixes its body and blanks the UHF paths. -/
  | txGrant
  /-- PA_EN_RISE (R371). PA_EN rises PA_LEAD before the ramp-up. -/
  | paEnRise
  /-- TX_RAMP_UP_START (R372). LOT's ramp-up starts 15 µs after the grant. -/
  | txRampUpStart
  /-- TX_FULL_POWER (R372). 25 µs after the grant LOT reaches full power and modulation starts. -/
  | txFullPower
  /-- TX_LAST_SYMBOL (R372). The last modulated symbol ends and the ramp-down starts. -/
  | txLastSymbol
  /-- TX_RAMP_DOWN_END (R372). The ramp-down ends and LOT returns to SYNTH. -/
  | txRampDownEnd
  /-- PA_EN_FALL (R371). PA_EN falls PA_HOLD after the ramp-down. -/
  | paEnFall
  /-- BLANKING_END (R373). 18 µs after the ramp-down the UHF paths deliver samples again. -/
  | blankingEnd (cycle : Nat)
  /-- TILE_BOUNDARY (R387). A tile start boundary advances TILE_SEQ and applies boundary-timed changes. -/
  | tileBoundary (peaks : List Int) (stats : List CalStat) (sums : List CalSum)
  /-- ADC_CLIP (R413). A clipped ADC sample sets OVR and a new clip event advances OVRn_CNT. -/
  | adcClip (path : Fin 4) (cycle : Nat)
  /-- AGC_ATTACK (R404). The fast loop lowers A by 6 dB every 2 µs while samples reach −1 dBFS. -/
  | agcAttack (path : Fin 4)
  /-- TILE_WRITE_DONE (R397). The tile writer places a tile, header last, in the store. -/
  | tileWriteDone (octet : Nat) (exps : List Nat) (data : List Word)
  /-- SENTINEL_FREEZE (R407). The sentinel detects a preamble or null symbol and freezes the loop. -/
  | sentinelFreeze (path : Fin 4) (cond : Fin 3)
  /-- SENTINEL_RELEASE (R407). The sentinel releases the freeze when its condition ends. -/
  | sentinelRelease (path : Fin 4)
  /-- FREEZE_MAX_EXPIRY (R408). A freeze not released ends after FREEZE_MAX tiles. -/
  | freezeMaxExpiry (path : Fin 4)
  /-- OVERLOAD_EPISODE_END (R414). An overload episode ends and its OVERLOAD record with SOURCE 4 is posted. -/
  | overloadEpisodeEnd
  /-- OVERLOAD_ONGOING (R415). An episode lasting 1 s posts with ONGOING and a new episode opens. -/
  | overloadOngoing
  /-- CAPTURE_START (R416). CAPTURE_START starts a capture of one octet into a capture ring. -/
  | captureStart (d : Desc)
  /-- CAPTURE_STOP (R420). CAPTURE_STOP ends the capture of a ring at the next boundary. -/
  | captureStop (d : Desc)
  /-- CAPTURE_TILE_WRITE (R421). A captured tile is written into its ring entry, or dropped. -/
  | captureTileWrite (ring : Fin 4) (seq : Nat) (words : List Word)
  /-- CAL_RUN (R455). CAL_RUN triggers a calibration round and completes at its CALSTEP tile. -/
  | calRun (d : Desc)
  /-- CAL_ROUND_START (R436). A round's first accumulation tile starts after the trigger wait or slot. -/
  | calRoundStart (cause items mask : Nat)
  /-- CAL_SUMS_RECEIVE (R433). The head adds an owner's GAIN and PHASE sums and solves. -/
  | calSumsReceive (owner : Nat) (sums : List CalSum)
  /-- CAL_VALUES_RECEIVE (R433). A member takes its solved values from the head. -/
  | calValuesReceive (values : List CalValue)
  /-- CAL_COEFF_WRITE (R450). A host write of a coefficient register takes effect at a later boundary. -/
  | calCoeffWrite (port : Port) (path : Fin 4) (item : Fin 6) (w : Word)
  /-- CAL_RUN_TIMEOUT (R455). A round without CALSTEP within 1 s of CAL_RUN ends and the CAL_RUN completes TIMEOUT. -/
  | calRunTimeout (d : Desc)
  /-- BCST_SELECT (R458). BCST_SELECT sets or stops a broadcast source on a path. -/
  | bcstSelect (d : Desc)
  /-- BCST_SELECT_TIMEOUT (R502). A source not decoding in time completes TIMEOUT and stops. -/
  | bcstSelectTimeout (source : Fin 4)
  /-- BCST_FOLLOW (R483). BCST_FOLLOW sets the following of one source. -/
  | bcstFollow (d : Desc)
  /-- DATACAST_SUBSCRIBE (R495). DATACAST_SUBSCRIBE writes one subscription slot on the head. -/
  | datacastSubscribe (d : Desc)
  /-- FM_AUDIO_READY (R467). FM audio reaches the audio engine after the first clean tile. -/
  | fmAudioReady (source : Fin 4)
  /-- RDS_BLOCK (R468). An RDS block is decoded with burst correction and synchronisation tracked. -/
  | rdsBlock (path : Fin 4) (freq : Nat) (kind : Fin 5) (info corr : Nat)
  /-- DAB_NULL_SYMBOL (R472). A DAB null symbol is found and frame synchronisation tracked. -/
  | dabNullSymbol (path : Fin 4)
  /-- DAB_FRAME (R471). A 96 ms DAB frame is equalised and demodulated. -/
  | dabFrame (path : Fin 4) (fibs : List Bool) (audBad audAll : Nat) (facts : List DabFact)
  /-- DAB_RECONFIG (R473). A signalled reconfiguration takes effect at its CIF count. -/
  | dabReconfig (path : Fin 4) (cif : Nat) (services : List DabFact)
  /-- DAB_AUDIO_READY (R476). DAB audio reaches the audio engine. -/
  | dabAudioReady (source : Fin 4)
  /-- ANNOUNCEMENT_TIMEOUT (R492). 60 s without FIG 0/19 switches the announcement back. -/
  | announcementTimeout (source : Fin 4)
  /-- FOLLOW_EVALUATE (R485). Every 100 ms following is evaluated and a source may switch. -/
  | followEvaluate
  /-- SWITCH_CONFIRM_TIMEOUT (R488). A switch unconfirmed within 200 ms or 700 ms returns and bars the candidate. -/
  | switchConfirmTimeout (source : Fin 4)
  /-- AF_BAR_EXPIRY (R488). 60 s after a failed switch the candidate is no longer barred. -/
  | afBarExpiry (source : Fin 4) (mode freq : Nat)
  /-- DAB_PROBE (R481). The background path retunes to a DAB candidate to confirm it. -/
  | dabProbe (source : Fin 4) (freq id scids : Nat)
  /-- DAB_PROBE_END (R481). A probe ends and the background path returns to its LOn_FREQ. -/
  | dabProbeEnd (qual : Nat)
  /-- BCST_METER_UPDATE (R466). Every 100 ms the source meters are renewed. -/
  | bcstMeterUpdate (meters : List BcstMeter)
  /-- DATACAST_UNIT (R498). A datacast unit or loss is passed to Pool Notice reassembly. -/
  | datacastUnit (slot : Fin 8) (unit : DataUnit)
  /-- AUDIO_ROUTE (R517). AUDIO_ROUTE writes one output route with fade and ramp. -/
  | audioRoute (d : Desc)
  /-- AUDIO_ROUTE_RAMP_START (R517). After the old input's fade the new input ramps in. -/
  | audioRouteRampStart (output : Fin 4)
  /-- AUDIO_FRAME_BOUNDARY (R515). The audio frame counter advances and EN changes of ports take effect. -/
  | audioFrameBoundary (flows : List AudFlow)
  /-- SAP_CTL_WRITE (R510). A SAPn_CTL write is taken or discarded with CFG_ERR. -/
  | sapCtlWrite (port : Port) (sap : Fin 3) (w : Word)
  /-- AUDIO_UNDERRUN (R524). An output FIFO falls to L_F and the output fades to silence. -/
  | audioUnderrun (port : Fin 6)
  /-- AUDIO_OVERRUN (R525). An output FIFO reaches 2048 frames, fades and discards to 1024. -/
  | audioOverrun (port : Fin 6)
  /-- AUDIO_RESUME (R524). The FIFO reaches 1024 frames again and the output ramps in. -/
  | audioResume (port : Fin 6)
  /-- FOLLOWER_CLOCK_LOST (R527). A follower port loses its clock and mutes. -/
  | followerClockLost (port : Fin 3) (bclk : Nat)
  /-- FOLLOWER_CLOCK_BACK (R529). After 50 ms of good clock the follower port ramps in. -/
  | followerClockBack (port : Fin 3)
  /-- SPDO_BLOCK_START (R533). SPDO begins a 192-frame block with the B preamble and loads a pending template. -/
  | spdoBlockStart
  /-- SPDO_CS_LOAD (R535). A write of 1 to CS_LOAD loads the template at the next block start. -/
  | spdoCsLoad (port : Port) (w : Word)
  /-- SPDI_LOCK (R538). SPDI declares lock after two complete blocks. -/
  | spdiLock (rate : Fin 8)
  /-- SPDI_LOSS (R538). SPDI declares loss of lock and sets LOST. -/
  | spdiLoss
  /-- SPDI_NONPCM (R539). NONPCM becomes 1 and the SPDI input stops delivering. -/
  | spdiNonpcm
  /-- SPDI_ERASURE (R540). A subframe with bad parity or V = 1 is erased and repeated. -/
  | spdiErasure (parity : Bool)
  /-- AUD_START_GO (R543). A write of GO is the common start trigger. -/
  | audStartGo (port : Port) (w : Word) (near : Bool)
  /-- AUD_START_BALL (R543). A filtered rising edge on AUD_START is the common start trigger. -/
  | audStartBall (near : Bool)
  /-- AUD_START_FRAME (R544). At the start frame the armed outputs send their first audio frame. -/
  | audStartFrame
  /-- TAG_BURST (R570). A burst whose sync word ends in an open window is demodulated at its owner. -/
  | tagBurst (entry mode errors : Nat) (bytes : List Byte) (rssi : Int) (beam cycle : Nat)
  /-- CANDIDATE_RECEIVE (R730). A candidate reaches the head and waits, or is dropped when 4096 wait. -/
  | candidateReceive (c : Candidate)
  /-- CANDIDATE_HANDLE (R731). The head takes a waiting candidate through the steps of Table 18.1. -/
  | candidateHandle (cut : Nat) (bad : Bool)
  /-- ACK_MAC_EXPIRY (R579). A MAC leaves a queue 10 s after its acceptance. -/
  | ackMacExpiry (band channel mac : Nat)
  /-- TAG_BEACON (R582). TAG_BEACON reserves duty and queues a beacon series. -/
  | tagBeacon (d : Desc) (otherHears : Bool)
  /-- BEACON_SERVE (R585). The scheduler takes the next request and brings LOT to SYNTH at the channel. -/
  | beaconServe
  /-- LBT_JUDGE (R586). At a boundary the channel is judged busy or free from the survey. -/
  | lbtJudge (power count : Nat)
  /-- LBT_RETRY_WAIT (R587). After the random wait of 1 to 8 tiles a busy channel is judged again. -/
  | lbtRetryWait
  /-- IMPLICIT_WINDOW_OPEN (R574). 0.2 ms before slot 0 the beacon's implicit window opens. -/
  | implicitWindowOpen (chan mode : Nat) (mine : Bool)
  /-- IMPLICIT_WINDOW_CLOSE (R574). 0.5 ms after the response window the implicit window closes. -/
  | implicitWindowClose (chan mode : Nat) (mine : Bool)
  /-- BEACON_DECISION (R588). 2 ms after the response window the send is judged answered or not. -/
  | beaconDecision (crc accepted : Nat)
  /-- BEACON_REPEAT (R589). REPEAT_GAP after an unanswered send the next send is requested. -/
  | beaconRepeat (d : Desc)
  /-- DUTY_WINDOW_TICK (R581). Each 1 s step moves the 3600 s window of TAG_DUTY_USED. -/
  | dutyWindowTick
  /-- TAG_LISTEN (R572). TAG_LISTEN opens a listen set on every member at a boundary. -/
  | tagListen (d : Desc)
  /-- TAG_LISTEN_CLOSE (R573). TAG_LISTEN with CLOSE = 1 closes its set at the next boundary. -/
  | tagListenClose (d : Desc)
  /-- TAG_LISTEN_DURATION_END (R572). A set with DURATION closes at the first boundary after it. -/
  | tagListenDurationEnd (set : Nat)
  /-- REFRESH_DUE (R610). A refresh command falls due and joins the refresh debt. -/
  | refreshDue
  /-- REFRESH_COMMAND (R609). Refresh issues a row command to all banks at a grant point. -/
  | refreshCommand
  /-- STORE_GRANT (R616). At a grant point the arbiter grants the port to the highest waiting requester. -/
  | storeGrant (requests : List Access) (progress : Nat) (flips : List (Nat × Bool))
  /-- SCRUB_WRITE_BACK (R604). The scrubber writes a corrected word back and reads it again. -/
  | scrubWriteBack (addr : Nat) (again : Option Bool)
  /-- STITCH_END (R623). A stitch ends and its writes land together. -/
  | stitchEnd (writes : List (Nat × Word))
  /-- HOLD_CUTOFF (R625). An access held 16 cycles beyond its declared length is cut off with HOLD_VIOLATION. -/
  | holdCutoff (progress : Nat)
  /-- SCRUB_PASS_END (R614). A scrubber pass ends and the next starts at address 0. -/
  | scrubPassEnd (late : Bool)
  /-- BANK_COPY_DONE (R631). The copy of a retired bank's logical bank ends. -/
  | bankCopyDone
  /-- LINK_TRAINING_DONE (R639). A link completes training and enters UP at full or half width. -/
  | linkTrainingDone (link : Fin 4) (lanes inverted skew member plink : Nat) (phead : Bool) (token : Nat)
  /-- LINK_GIVE_UP (R640). 50 ms without training sets GAVE_UP and may make a Lace of one. -/
  | linkGiveUp (link : Fin 4)
  /-- LANE_LOCK_LOSS (R641). A lane loses block lock and a fast retrain starts. -/
  | laneLockLoss (link : Fin 4) (lane : Fin 2) (errors : Nat)
  /-- FAST_RETRAIN_END (R641). A fast retrain succeeds and replays, or the link goes DOWN. -/
  | fastRetrainEnd (link : Fin 4) (lanes token : Nat)
  /-- DIST_BLOCK (R642). A DIST block updates parent, distance and adopted head. -/
  | distBlock (link : Fin 4) (head dist uid : Nat) (child : Bool)
  /-- BOOT_TREE_MESSAGE (R643). A boot tree message is forwarded up or down and taken when addressed. -/
  | bootTreeMessage (link : Fin 4) (up : Bool) (m : Msg)
  /-- FLIT_RECEIVE (R647). A flit is received, or discarded with a NAK when its CRC fails. -/
  | flitReceive (link : Fin 4) (f : Flit) (again : Bool)
  /-- ACK_BLOCK (R648). An ACK releases flits from the replay buffer. -/
  | ackBlock (link : Fin 4) (no : Nat)
  /-- NAK_BLOCK (R648). A NAK resends from the named flit. -/
  | nakBlock (link : Fin 4) (expect : Nat)
  /-- REPLAY_TIMEOUT (R648). 4 µs without ACK or NAK resends from the oldest unacknowledged flit. -/
  | replayTimeout (link : Fin 4)
  /-- ACK_SEND (R648). A receiver sends an ACK after 8 flits or 0.5 µs. -/
  | ackSend (link : Fin 4)
  /-- FLOW_BLOCK (R649). A FLOW block returns link credits. -/
  | flowBlock (link : Fin 4) (ack vc0 vc1 boot : Nat)
  /-- LANE_CHK_SEND (R810). Every 1 ms a LANE_CHK block is sent on each lane. -/
  | laneChkSend (link : Fin 4) (lane : Fin 2)
  /-- LINK_DOWN_DETECT (R676). A device sees a link go down and floods a BREAK block. -/
  | linkDownDetect (link : Fin 4)
  /-- BREAK_BLOCK (R676). A BREAK block is taken, forwarded and ends collectives of the epoch. -/
  | breakBlock (link : Fin 4) (kind reporter rlink partner epoch count : Nat)
  /-- REQUEST_BREAK_TIMEOUT (R679). A request without response 1 ms after a break completes PEER_LOST. -/
  | requestBreakTimeout (tag : Nat)
  /-- SLEEP_BLOCK (R681). A SLEEP block puts a link into or out of low-power idle. -/
  | sleepBlock (link : Fin 4) (entering : Bool)
  /-- LACE_FORM (R672). LACE_FORM forms a new epoch from the candidates. -/
  | laceForm (d : Desc) (faults : List LinkFault)
  /-- EPOCH_SET_RECEIVE (R674). A candidate adopts the new epoch and answers EPOCH_ACK. -/
  | epochSetReceive (epoch : Nat) (shape : Word) (mask : Nat) (faults : List LinkFault)
  /-- EPOCH_ACK_RECEIVE (R674). The head takes a candidate's EPOCH_ACK. -/
  | epochAckReceive (member epoch : Nat)
  /-- EPOCH_ACK_TIMEOUT (R674). A candidate silent for 1 ms is removed and EPOCH_SET repeats. -/
  | epochAckTimeout
  /-- SYNC_REPORT_TIMEOUT (R674). A candidate with no report 2 ms after the pulse is removed. -/
  | syncReportTimeout
  /-- LACE_REST_START (R777). The head sends REST after 16 ms with nothing needing the links. -/
  | laceRestStart
  /-- REST_RECEIVE (R777). A member clears its LACE hold on REST. -/
  | restReceive
  /-- LACE_REST_END (R778). The head sends RESUME and resumes pip beacons. -/
  | laceRestEnd
  /-- RESUME_RECEIVE (R778). A member sets its LACE hold and acknowledges RESUME. -/
  | resumeReceive
  /-- EXCH_DEFINE (R688). EXCH_DEFINE captures epoch, octet set, owners and masks of a slot. -/
  | exchDefine (d : Desc) (barred : List Nat)
  /-- EXCH_START (R698). EXCH_START begins a defined exchange. -/
  | exchStart (d : Desc) (barred addBarred : List Nat)
  /-- EXCH_STOP (R701). EXCH_STOP sets the last period of a running slot. -/
  | exchStop (d : Desc)
  /-- EXCH_POST_RECEIVE (R698). A source takes an owner's POST naming its windows. -/
  | exchPostReceive (xid octet : Nat)
  /-- EXCH_CONFIRM_RECEIVE (R698). The head takes a source's confirmation and fixes period S. -/
  | exchConfirmReceive (xid src : Nat)
  /-- EXCH_TILE_SEND (R704). A source sends a tile with residues into a free window slot. -/
  | exchTileSend
  /-- EXCH_TILE_ARRIVE (R707). An owner checks an arriving tile's residues and answers ACK or NACK. -/
  | exchTileArrive (src : Nat) (words : List Word) (res : List Nat)
  /-- EXCH_ACK_RECEIVE (R705). A source takes ACK, LATE or a release and frees its copy. -/
  | exchAckReceive (xid octet tile released : Nat)
  /-- EXCH_NACK_RECEIVE (R707). A source resends a NACKed tile. -/
  | exchNackReceive (xid octet tile released : Nat)
  /-- EXCH_TILE_DEADLINE (R708). At T_end + 300 µs missing tiles count as lost and GAP. -/
  | exchTileDeadline (xid tile elsewhere : Nat)
  /-- EXCH_WINDOW_RELEASE (R709). An owner releases a window slot after forming beams. -/
  | exchWindowRelease (octet tile : Nat)
  /-- BEAMFORM (R720). An owner forms the beams of an owned octet for a tile period. -/
  | beamform (octet tile : Nat)
  /-- SURVEY_CONTRIBUTION (R711). A member's sequencer makes and sends survey contributions for a period. -/
  | surveyContribution (octet tile : Nat)
  /-- ADD_ARRIVAL (R712). An owner adds a contribution into its accumulator in one stitch. -/
  | addArrival (src : Nat) (words : List Word) (res : List Nat) (fails : List (Nat × Nat))
  /-- ACCUMULATOR_COMPLETE (R713). An accumulator is complete and its sums kept. -/
  | accumulatorComplete (octet tile : Nat)
  /-- SURVEY_QUERY (R714). The owner answers a listen-before-talk query with survey totals. -/
  | surveyQuery (src tag k periods : Nat)
  /-- ROSTER_EDIT (R740). ROSTER_EDIT creates, writes or deletes an entry in one stitch. -/
  | rosterEdit (d : Desc) (stitch : Nat)
  /-- ROSTER_QUERY (R743). ROSTER_QUERY copies roster entries to host memory. -/
  | rosterQuery (d : Desc) (bad : Option (Nat × Nat))
  /-- KEY_LOAD (R751). KEY_LOAD installs or erases a named key on every member. -/
  | keyLoad (d : Desc)
  /-- ROSTER_SIZE_WRITE (R733). A write of SVC_ROSTER_SIZE empties the roster, or is refused while EN is 1. -/
  | rosterSizeWrite (port : Port) (w : Word)
  /-- NOTICE_SEGMENT (R754). A segment extends, starts or abandons the object of its slot. -/
  | noticeSegment (slot : Fin 8)
  /-- NOTICE_RECALL_APPLY (R749). A RECALL_ADD or RECALL_REMOVE object runs as a region 3 application. -/
  | noticeRecallApply
  /-- NOTICE_ABANDON_TIMEOUT (R754). An object with no segment for 60 s is abandoned. -/
  | noticeAbandonTimeout (slot : Fin 8)
  /-- LAT_TOL_WRITE (R768). A write of PWR_LAT_TOL sets the tolerance and may start an exit. -/
  | latTolWrite (port : Port) (w : Word)
  /-- POWER_STATE_ENTRY (R771). A due state is entered through D0. -/
  | powerStateEntry (target : Fin 4)
  /-- POWER_OWN_EXIT (R772). The device begins an exit of its own for the lead or a register write. -/
  | powerOwnExit
  /-- POWER_EXIT_COMPLETE (R766). The device is back in D0 with every block serving. -/
  | powerExitComplete
  /-- WAKE_IN_EDGE (R775). A rising edge on WAKE_IN wakes the device. -/
  | wakeInEdge
  /-- DWELL_EXPIRY (R774). The dwell after a wake ends. -/
  | dwellExpiry
  /-- D4_ENTRY (R780). After 100 ms of R779 conditions in D3 the device enters D4 and EN_MAIN falls. -/
  | d4Entry (enMainFalls : Bool)
  /-- D4_ABANDON (R869). A wake before EN_MAIN falls abandons the D4 entry. -/
  | d4Abandon (event : Fin 12)
  /-- D4_WAKE (R782). A D4 wake raises EN_MAIN and boots the device. -/
  | d4Wake (straps : Straps)
  /-- D4_TIMER_EXPIRY (R781). The D4 wake timer expires after TIMER minutes. -/
  | d4TimerExpiry
  /-- SENSOR_CONVERSION (R804). Every sensor and supply is converted once per millisecond, or per 10 ms in D3. -/
  | sensorConversion (temps : List (Option Int)) (mv : List Nat)
  /-- SUPPLY_RANGE (R809). A switched-on rail outside its range for 1 ms posts SUPPLY_RANGE. -/
  | supplyRange (supply : Fin 8)
  /-- TELEMETRY (R812). At the end of each interval a TELEMETRY record is posted. -/
  | telemetry
  /-- FAULT_SUPPRESS_WINDOW_END (R803). At the end of a limit window a SUPPRESSED record is posted per code. -/
  | faultSuppressWindowEnd (code : Nat)
  /-- RETIRE_MAP_WRITE (R797). A host write of 1 to a map bit retires the instance and posts RETIRE. -/
  | retireMapWrite (port : Port) (n : Fin 3) (w : Word)
  /-- PATH_STUCK_ERROR (R787). An ADC repeating one code for 65,536 samples powers the path down for one tile. -/
  | pathStuckError (path : Fin 4)
  /-- PATH_RETRY_RESTORE (R787). A path powered down for its retry is restored after one tile. -/
  | pathRetryRestore (path : Fin 4) (cycle : Nat)
  /-- PATH_TRANSIENT_WINDOW (R787). 100 ms after a restore without recurrence the path error is transient. -/
  | pathTransientWindow (path : Fin 4)
  /-- STRAP_PULL_DOWN_OFF (R51). 10 µs after a strap sampling event the internal pull-downs of the strap balls switch off. -/
  | strapPullDownOff
  /-- REF_DET_FALL (R317). REFCLK stops meeting the detection test of R315 and CLK_REF_SEL.REF_DET falls to 0. -/
  | refDetFall
  /-- SYNC_MISSED_RECEIVE (R674). The head takes a candidate's SYNC_MISSED, removes it and repeats the formation from step 1. -/
  | syncMissedReceive (member : Nat)
  /-- RESUME_ACK_RECEIVE (R778). The head takes a member's acknowledgement of RESUME and, at the last one, starts the work that ended Lace rest. -/
  | resumeAckReceive (member : Nat)
  /-- DAB_NULL_SYMBOL_ABSENT (R472). No null symbol is found at its expected 96 ms interval, counting towards loss of DAB frame synchronisation after 4 such frames. -/
  | dabNullSymbolAbsent (path : Fin 4)
  /-- SPDI_BLOCK (R539). A complete 192-frame block on SPDI updates SPDI_STAT.CS and NONPCM, which can return to 0 and resume delivery. -/
  | spdiBlock (cs : BitVec 16) (v : Bool)
  /-- POWER_ENTRY_COMPLETE (R771). The entry into D1, D2 or D3 completes within 1 µs, 20 µs or 100 µs and PWR_STATE.STATE shows the new state. -/
  | powerEntryComplete
  /-- SYNTH_RELOCK_TIMEOUT (R787). A synthesiser that lost lock while REF is present has not relocked within 1 ms, which counts as a failure of the synthesiser class. -/
  | synthRelockTimeout (unit : Fin 5)
  /-- RESTORE_BLOB_READ_COMPLETE (R251). The host read of a RESTORE blob completes, or fails, and the blob is checked and applied. -/
  | restoreBlobReadComplete (d : Desc) (blob : Option (List Word))
  /-- ROSTER_IMAGE_READ_COMPLETE (R740). The host read of a ROSTER_EDIT image completes and the edit's stitch starts. -/
  | rosterImageReadComplete (d : Desc) (image : Option (List Word)) (stitch : Nat)
  /-- MSIX_TABLE_WRITE (R232). A host write to the MSI-X table or its masks; unmasking a vector whose pending bit is set sends its message. -/
  | msixTableWrite (off : Option Nat) (w : Word)
  /-- ASPM_L1_ENTRY (R784). The PCI Express link enters ASPM L1, L1.1 or L1.2 under the host's enables. -/
  | aspmL1Entry (sub : Fin 3)
  /-- ASPM_L1_EXIT (R784). The PCI Express link leaves ASPM L1 or its substates, with the exit latency of Link Capabilities. -/
  | aspmL1Exit
  deriving DecidableEq, Repr

end Sys2Proof
end

