-- ==== Sys2Proof/Decode.lean ====
section
/-! DEFINITION. Commands from words. No row of spec/opcode_table.json gives bits, so no word spells a command of the table; a descriptor's
OPCODE byte selects an event row, and the block of a setup access selects a register, both on data that a command carries. -/

namespace Sys2Proof

/-- The command that a word spells by the table's bits: none, since no row gives bits. DESIGN CHOICE, log 15. -/
def decodeTableWord (_nbits _w : Nat) : Option Instr := none

end Sys2Proof
end

