-- ==== Sys2Proof/Machine/Codes.lean ====
section
/-! DEFINITION. The codes the spec computes with: CRC-32 (R111), CRC-16 (R562), residues modulo 7 (R646), whitening (R560), the
convolutional code of MODE 2 (R561), AES-128 with CMAC (R563) and the RFC 3394 key unwrap (Table 1.6). -/

namespace Sys2Proof.Machine

/-- One bit step of the reflected CRC-32 of polynomial 0x04C1_1DB7. -/
def crc32Bit (c : Nat) : Nat := if c % 2 == 1 then (c / 2) ^^^ 0xEDB88320 else c / 2
/-- One byte of the CRC-32. -/
def crc32Byte (c : Nat) (b : Byte) : Nat := (List.range 8).foldl (fun c _ => crc32Bit c) (c ^^^ b.toNat)
/-- CRC-32 of bytes (R111): initial value and final XOR 0xFFFF_FFFF. -/
def crc32 (bs : List Byte) : Word := BitVec.ofNat 32 (bs.foldl crc32Byte 0xFFFFFFFF ^^^ 0xFFFFFFFF)

/-- One bit step of the CRC-16 of polynomial 0x1021. -/
def crc16Bit (c : Nat) : Nat := if c ≥ 0x8000 then ((2 * c) % 0x10000) ^^^ 0x1021 else 2 * c
/-- CRC-16 of bytes (R562): initial value 0xFFFF, no reflection, no final XOR. -/
def crc16 (bs : List Byte) : Nat :=
  bs.foldl (fun c b => (List.range 8).foldl (fun c _ => crc16Bit c) (c ^^^ (b.toNat * 256))) 0xFFFF

/-- Residue modulo 7 of a word (R646). -/
def res7 (w : Word) : Nat := w.toNat % 7

/-- Bits of a number, the most significant first. -/
def bitsBe : Nat → Nat → List Bool
  | 0, _ => []
  | n + 1, v => v.testBit n :: bitsBe n v
/-- A number from bits, the most significant first. -/
def ofBitsBe (bs : List Bool) : Nat := bs.foldl (fun a b => 2 * a + b2n b) 0
/-- Bytes from bits, the most significant first, eight at a time. -/
def bytesOfBits : Nat → List Bool → List Byte
  | 0, _ => []
  | n + 1, bs => BitVec.ofNat 8 (ofBitsBe (bs.take 8)) :: bytesOfBits n (bs.drop 8)
def bitsOfBytes (bs : List Byte) : List Bool := bs.flatMap (fun b => bitsBe 8 b.toNat)

/-- `n` bits of the whitening sequence from a state of 9 bits (R560). -/
def whitenSeq : Nat → Nat → List Bool
  | 0, _ => []
  | n + 1, s => s.testBit 0 :: whitenSeq n (s / 2 + if s.testBit 0 != s.testBit 5 then 256 else 0)
/-- Bits whitened, or dewhitened, from the start of a frame (R560). -/
def whiten (bs : List Bool) : List Bool := List.zipWith (· != ·) bs (whitenSeq bs.length 0x1FF)
/-- One output of the convolutional encoder: the current bit and the six before it, under a generator of 7 bits (R561). -/
def convBit (g st : Nat) : Bool := ((List.range 7).filter (fun i => g.testBit i && st.testBit i)).length % 2 == 1
/-- The encoder of MODE 2 (R561); the state holds the current bit as its most significant. -/
def convEnc : Nat → List Bool → List Bool
  | _, [] => []
  | st, b :: bs =>
    let w := st / 2 + (if b then 64 else 0)
    convBit 0o171 w :: convBit 0o133 w :: convEnc w bs
/-- The stream of MODE 2 after its sync word: the whitened bits, six tail bits of 0, encoded from state 0 (R561). -/
def longEnc (bs : List Bool) : List Bool := convEnc 0 (bs ++ List.replicate 6 false)

/-! ### AES-128 -/

/-- Multiplication by x in GF(2^8) of AES. -/
def xtime (b : Nat) : Nat := if b ≥ 128 then ((2 * b) ^^^ 0x11B) % 256 else 2 * b
/-- Product in GF(2^8) of AES. -/
def gmul (a b : Nat) : Nat :=
  ((List.range 8).foldl (fun (acc : Nat × Nat) i => (if b.testBit i then acc.1 ^^^ acc.2 else acc.1, xtime acc.2)) (0, a)).1
/-- Inverse in GF(2^8), as the power 254; 0 maps to 0. -/
def ginv (a : Nat) : Nat :=
  let a2 := gmul a a
  let a4 := gmul a2 a2
  let a8 := gmul a4 a4
  let a16 := gmul a8 a8
  let a32 := gmul a16 a16
  let a64 := gmul a32 a32
  let a128 := gmul a64 a64
  gmul a128 (gmul a64 (gmul a32 (gmul a16 (gmul a8 (gmul a4 a2)))))
def rotl8 (b n : Nat) : Nat := ((b <<< n) ||| (b >>> (8 - n))) % 256
/-- The substitution of AES: the inverse, then the affine map. -/
def sbox (b : Nat) : Nat :=
  let i := ginv b
  i ^^^ rotl8 i 1 ^^^ rotl8 i 2 ^^^ rotl8 i 3 ^^^ rotl8 i 4 ^^^ 0x63
/-- The inverse substitution. -/
def invSbox (b : Nat) : Nat := ginv (rotl8 b 1 ^^^ rotl8 b 3 ^^^ rotl8 b 6 ^^^ 0x05)

def xorL (a b : List Nat) : List Nat := List.zipWith (· ^^^ ·) a b

/-- The next round key of AES-128 from the last, with its round constant. -/
def nextKey (k : List Nat) (rcon : Nat) : List Nat :=
  let t := [sbox (k.getD 13 0) ^^^ rcon, sbox (k.getD 14 0), sbox (k.getD 15 0), sbox (k.getD 12 0)]
  let w0 := xorL (k.take 4) t
  let w1 := xorL ((k.drop 4).take 4) w0
  let w2 := xorL ((k.drop 8).take 4) w1
  let w3 := xorL ((k.drop 12).take 4) w2
  w0 ++ w1 ++ w2 ++ w3
/-- The eleven round keys. -/
def roundKeys (k : List Nat) : List (List Nat) :=
  ((List.range 10).foldl (fun (acc : List (List Nat) × List Nat × Nat) _ =>
    let n := nextKey acc.2.1 acc.2.2
    (acc.1 ++ [n], n, xtime acc.2.2)) ([k], k, 1)).1
/-- Row shift: byte `4c + r` comes from column `c + r`. -/
def shiftRows (s : List Nat) : List Nat := (List.range 16).map (fun i => s.getD ((4 * (i / 4 + i % 4) + i % 4) % 16) 0)
def invShiftRows (s : List Nat) : List Nat := (List.range 16).map (fun i => s.getD ((4 * (i / 4 + 4 - i % 4) + i % 4) % 16) 0)
def mixWith (m : List Nat) (s : List Nat) : List Nat :=
  (List.range 16).map (fun i =>
    (List.range 4).foldl (fun a j => a ^^^ gmul (m.getD ((j + 4 - i % 4) % 4) 0) (s.getD (4 * (i / 4) + j) 0)) 0)
def mixColumns (s : List Nat) : List Nat := mixWith [2, 3, 1, 1] s
def invMixColumns (s : List Nat) : List Nat := mixWith [14, 11, 13, 9] s
/-- AES-128 of one block of 16 bytes. -/
def aesEnc (key : List Nat) (b : List Nat) : List Nat :=
  let ks := roundKeys key
  let s := xorL b (ks.getD 0 [])
  let s := (List.range 9).foldl (fun s r => xorL (mixColumns (shiftRows (s.map sbox))) (ks.getD (r + 1) [])) s
  xorL (shiftRows (s.map sbox)) (ks.getD 10 [])
/-- The inverse of AES-128. -/
def aesDec (key : List Nat) (b : List Nat) : List Nat :=
  let ks := roundKeys key
  let s := xorL b (ks.getD 10 [])
  let s := (List.range 9).foldl (fun s r => invMixColumns (xorL ((invShiftRows s).map invSbox) (ks.getD (9 - r) []))) s
  xorL ((invShiftRows s).map invSbox) (ks.getD 0 [])

/-- A number of 128 bits as 16 bytes, the most significant first. -/
def bytes16 (v : Nat) : List Nat := (natBe 16 v).map (·.toNat)
def nat16 (l : List Nat) : Nat := l.foldl (fun a b => a * 256 + b) 0
/-- AES-128 on numbers of 128 bits. -/
def aes (key v : Nat) : Nat := nat16 (aesEnc (bytes16 key) (bytes16 v))
def aesInv (key v : Nat) : Nat := nat16 (aesDec (bytes16 key) (bytes16 v))

/-- Doubling in the field of CMAC. -/
def cmacDbl (v : Nat) : Nat := if v ≥ 2 ^ 127 then ((2 * v) % 2 ^ 128) ^^^ 0x87 else 2 * v
/-- AES-128 CMAC of a message given as whole bytes (NIST SP 800-38B). -/
def cmac (key : Nat) (msg : List Byte) : Nat :=
  let l := aes key 0
  let k1 := cmacDbl l
  let k2 := cmacDbl k1
  let n := (msg.length + 15) / 16
  let full := msg.length % 16 == 0 && n > 0
  let blocks := if n == 0 then 1 else n
  let pre := (List.range (blocks - 1)).foldl (fun c i => aes key (c ^^^ beNat ((msg.drop (16 * i)).take 16))) 0
  let last := msg.drop (16 * (blocks - 1))
  let m := if full then beNat last ^^^ k1
           else beNat (last ++ (0x80 :: List.replicate (15 - last.length) (0 : Byte))) ^^^ k2
  aes key (pre ^^^ m)
/-- The most significant 32 bits of the CMAC (R563). -/
def cmac32 (key : Nat) (msg : List Byte) : Nat := cmac key msg / 2 ^ 96

/-- One inverse step of the RFC 3394 unwrap over two key halves; `a` is the integrity register. -/
def unwrapStep (kek : Nat) (st : Nat × Nat × Nat) (t : Nat) : Nat × Nat × Nat :=
  let (a, r1, r2) := st
  if t % 2 == 0 then
    let b := aesInv kek ((a ^^^ t) * 2 ^ 64 + r2)
    (b / 2 ^ 64, r1, b % 2 ^ 64)
  else
    let b := aesInv kek ((a ^^^ t) * 2 ^ 64 + r1)
    (b / 2 ^ 64, b % 2 ^ 64, r2)
/-- RFC 3394 unwrap of a wrapped 128-bit key of 24 bytes: the key, when the integrity value holds. -/
def unwrapKey (kek : Nat) (c : List Byte) : Option Nat :=
  let a := beNat (c.take 8)
  let r1 := beNat ((c.drop 8).take 8)
  let r2 := beNat ((c.drop 16).take 8)
  let f := ((List.range 12).map (fun i => 12 - i)).foldl (unwrapStep kek) (a, r1, r2)
  if f.1 == 0xA6A6A6A6A6A6A6A6 then some (f.2.1 * 2 ^ 64 + f.2.2) else none

end Sys2Proof.Machine
end

