-- ==== Sys2Proof/Config.lean ====
section
/-! DEFINITION. Free values: what the spec leaves open. Each is a constant with no body, so no proof can see what it is. -/

namespace Sys2Proof

/-- TOP_UNIQUE, the 64-bit identity fused into the die (R189). DESIGN CHOICE, log 26. -/
opaque Config.unique : BitVec 64

/-- A staged image word that the host never wrote (R82): by image and word index. DESIGN CHOICE, log 14. -/
opaque Config.stagedWord : Nat → Nat → Word

/-- A word returned by an SPI frame clocked above its command's highest rate (R119), by the model's counter. DESIGN CHOICE, log 12. -/
opaque Config.overclocked : Nat → Word

/-- A RESET_N pulse, or a release of it, from 1 µs to 10 µs resets the device or ends its reset (R844), by the model's counter: the spec states that
it either does or does not. DESIGN CHOICE, log 9. -/
opaque Config.resetShort : Nat → Bool

/-- A link token that this device picks at a training (R641), by the model's counter. DESIGN CHOICE, log 27. -/
opaque Config.linkToken : Nat → Nat

/-- The DC coefficient that a round solves (R428): the old value, the sum of the qualified samples and their number. The spec gives the
statistic and leaves the arithmetic's rounding open. DESIGN CHOICE, log 49. -/
opaque Config.calDc : Int → Int → Nat → Int

/-- IQ_GAIN that a round solves (R428): the old value and the sums of I², Q² and IQ. DESIGN CHOICE, log 49. -/
opaque Config.calIqGain : Int → Int → Int → Int → Int

/-- IQ_PHASE that a round solves (R428): the old value and the sums of I², Q² and IQ. -/
opaque Config.calIqPhase : Int → Int → Int → Int → Int

/-- The residual of PATH_GAIN (R428): from the summed powers of the reference path and of this path. -/
opaque Config.calGainRes : Nat → Nat → Int

/-- The residual of PATH_PHASE (R428): from the real and imaginary parts of the sum. -/
opaque Config.calPhaseRes : Int → Int → Int

/-- PATH_GAIN composed with a residual (R428): the old value and the residual. -/
opaque Config.calPathGain : Int → Int → Int

/-- 0.5 × (1 − cos(π × (k + 1) ÷ L)) in units of 2^−24 (R522): k and L. The spec states the law and leaves its rounding open. DESIGN CHOICE, log 51. -/
opaque Config.rampGain : Nat → Nat → Nat

/-- CLK_AUD_STAT.PPM while the audio ADPLL follows an external input (R328), by the model's counter. DESIGN CHOICE, log 52. -/
opaque Config.audioPpm : Nat → Nat

/-- A listen-before-talk judgement when every tile of its time is left out (R586), by the model's counter: the spec states no mean of no
tiles. DESIGN CHOICE, log 53. -/
opaque Config.lbtBlind : Nat → Bool

/-- RESULT0 to RESULT3 of a TAG_BEACON whose transmitting member is lost (R594), by the model's counter and the result's number: sends already
made stand in RESULT0, and what the lost member had done is no fact of the head's. DESIGN CHOICE, log 54. -/
opaque Config.lostSeries : Nat → Nat → Word

/-- SVC_ROSTER_BASE once the SVC image runs (R732): where the image places entry 0. DESIGN CHOICE, log 26. -/
opaque Config.rosterBase : BitVec 32

/-- The outcome of a KEY object that would install a 65th key (R751, R758): the spec states none. DESIGN CHOICE, log 55. -/
opaque Config.keyFullOutcome : Nat

/-- The antenna-referred value of a sample component (R390, R719): component, exponent and gain code. The spec states the law and leaves its
rounding open. DESIGN CHOICE, log 56. -/
opaque Config.antenna : Int → Nat → Nat → Int

/-- POWER of one sub-band before it saturates (R711): components with the exponent and gain code of their path. The antenna-referred values
of R390 are not whole numbers, and the spec leaves their precision open. DESIGN CHOICE, log 56. -/
opaque Config.surveyPower : List (Int × Int × Nat × Nat) → Nat

end Sys2Proof
end

