-- ==== Sys2Proof/Machine/RegMap.lean ====
section
/-! DEFINITION. The setup register map (spec 05, Tables 5.1 and 5.7 to 5.14, and the register entries that end the chapters):
every register's offset and reset value, every field with its place and access code (Table 0.5), and the values a field's table
defines (R165). -/

namespace Sys2Proof.Machine

/-- The access codes of Table 0.5. -/
inductive Acc where
  | rw | ro | w1c | wo | sc
  deriving DecidableEq, Repr

/-- One field of a register entry. `dom` lists the defined values as ranges; an empty list defines every value. -/
structure Field where
  lo : Nat
  width : Nat
  acc : Acc
  dom : List (Nat × Nat) := []
  deriving DecidableEq, Repr

/-- One register entry, or an array of `count` like entries `stride` bytes apart. -/
structure RegRow where
  base : Nat
  stride : Nat
  count : Nat
  reset : Nat
  fields : List Field
  deriving DecidableEq, Repr

/-- A named field of a register: offset, lowest bit, width. -/
structure FieldRef where
  off : Nat
  lo : Nat
  width : Nat
  deriving DecidableEq, Repr

/-- BOOT_CTL. -/
abbrev Reg.bootCtl : Nat := 0x0400
/-- BOOT_STAT. -/
abbrev Reg.bootStat : Nat := 0x0404
/-- BOOT_SVC_ADDR_LO. -/
abbrev Reg.bootSvcAddrLo : Nat := 0x0408
/-- BOOT_SVC_ADDR_HI. -/
abbrev Reg.bootSvcAddrHi : Nat := 0x040C
/-- BOOT_SVC_LEN. -/
abbrev Reg.bootSvcLen : Nat := 0x0410
/-- BOOT_SEQ_ADDR_LO. -/
abbrev Reg.bootSeqAddrLo : Nat := 0x0414
/-- BOOT_SEQ_ADDR_HI. -/
abbrev Reg.bootSeqAddrHi : Nat := 0x0418
/-- BOOT_SEQ_LEN. -/
abbrev Reg.bootSeqLen : Nat := 0x041C
/-- BOOT_SVC_VER. -/
abbrev Reg.bootSvcVer : Nat := 0x0420
/-- BOOT_SEQ_VER. -/
abbrev Reg.bootSeqVer : Nat := 0x0424
/-- BOOT_IFG. -/
abbrev Reg.bootIfg : Nat := 0x0428
/-- BOOT_MISMATCH. -/
abbrev Reg.bootMismatch : Nat := 0x042C
/-- BOOT_WIN_ADDR. -/
abbrev Reg.bootWinAddr : Nat := 0x0430
/-- BOOT_SVC_CRC. -/
abbrev Reg.bootSvcCrc : Nat := 0x0434
/-- BOOT_SEQ_CRC. -/
abbrev Reg.bootSeqCrc : Nat := 0x0438
/-- BOOT_WIN_DATA. -/
abbrev Reg.bootWinData (n : Nat) : Nat := 0x0500 + 0x4 * n
/-- SPI_CFG. -/
abbrev Reg.spiCfg : Nat := 0x0C00
/-- SPI_STAT. -/
abbrev Reg.spiStat : Nat := 0x0C04
/-- SPI_FRAME_CNT. -/
abbrev Reg.spiFrameCnt : Nat := 0x0C08
/-- TOP_PART. -/
abbrev Reg.topPart : Nat := 0x0000
/-- TOP_STEP. -/
abbrev Reg.topStep : Nat := 0x0004
/-- TOP_STRAPS. -/
abbrev Reg.topStraps : Nat := 0x0008
/-- TOP_CFG. -/
abbrev Reg.topCfg : Nat := 0x000C
/-- TOP_STATUS. -/
abbrev Reg.topStatus : Nat := 0x0010
/-- TOP_BLOCK_RESET. -/
abbrev Reg.topBlockReset : Nat := 0x0014
/-- TOP_SOFT_RESET. -/
abbrev Reg.topSoftReset : Nat := 0x0018
/-- TOP_UNIQUE_LO. -/
abbrev Reg.topUniqueLo : Nat := 0x0020
/-- TOP_UNIQUE_HI. -/
abbrev Reg.topUniqueHi : Nat := 0x0024
/-- TOP_STALE_CNT. -/
abbrev Reg.topStaleCnt : Nat := 0x0028
/-- TOP_ERR_ADDR. -/
abbrev Reg.topErrAddr : Nat := 0x002C
/-- TOP_SCRATCHn. -/
abbrev Reg.topScratch (n : Nat) : Nat := 0x0030 + 0x4 * n
/-- DBG_ID. -/
abbrev Reg.dbgId : Nat := 0xF000
/-- DBG_CTL. -/
abbrev Reg.dbgCtl : Nat := 0xF004
/-- DBG_STORE_ADDR. -/
abbrev Reg.dbgStoreAddr : Nat := 0xF008
/-- DBG_STORE_DATA. -/
abbrev Reg.dbgStoreData : Nat := 0xF00C
/-- HIF_CTL. -/
abbrev Reg.hifCtl : Nat := 0x0800
/-- HIF_STAT. -/
abbrev Reg.hifStat : Nat := 0x0804
/-- HIF_RINGn_BASE_LO. -/
abbrev Reg.hifRingBaseLo (n : Nat) : Nat := 0x0810 + 0x20 * n
/-- HIF_RINGn_BASE_HI. -/
abbrev Reg.hifRingBaseHi (n : Nat) : Nat := 0x0814 + 0x20 * n
/-- HIF_RINGn_SIZE. -/
abbrev Reg.hifRingSize (n : Nat) : Nat := 0x0818 + 0x20 * n
/-- HIF_RINGn_CTL. -/
abbrev Reg.hifRingCtl (n : Nat) : Nat := 0x081C + 0x20 * n
/-- HIF_RINGn_HEAD. -/
abbrev Reg.hifRingHead (n : Nat) : Nat := 0x0820 + 0x20 * n
/-- HIF_RINGn_TAIL. -/
abbrev Reg.hifRingTail (n : Nat) : Nat := 0x0824 + 0x20 * n
/-- HIF_MSIX_MAPn. -/
abbrev Reg.hifMsixMap (n : Nat) : Nat := 0x0B10 + 0x4 * n
/-- HIF_DROP_CNTn. -/
abbrev Reg.hifDropCnt (n : Nat) : Nat := 0x0B40 + 0x4 * n
/-- PIP_SRC. -/
abbrev Reg.pipSrc : Nat := 0x1800
/-- PIP_CTL. -/
abbrev Reg.pipCtl : Nat := 0x1804
/-- PIP_COUNT_LO. -/
abbrev Reg.pipCountLo : Nat := 0x1808
/-- PIP_COUNT_HI. -/
abbrev Reg.pipCountHi : Nat := 0x180C
/-- PIP_FRAC. -/
abbrev Reg.pipFrac : Nat := 0x1810
/-- PIP_RATE. -/
abbrev Reg.pipRate : Nat := 0x1814
/-- PIP_BACKSTEP_CNT. -/
abbrev Reg.pipBackstepCnt : Nat := 0x1818
/-- CLK_REF_SEL. -/
abbrev Reg.clkRefSel : Nat := 0x1400
/-- CLK_SYS_CTL. -/
abbrev Reg.clkSysCtl : Nat := 0x1404
/-- CLK_SYS_STAT. -/
abbrev Reg.clkSysStat : Nat := 0x1408
/-- CLK_SYNC_CTL. -/
abbrev Reg.clkSyncCtl : Nat := 0x140C
/-- CLK_SYNC_STAT. -/
abbrev Reg.clkSyncStat : Nat := 0x1410
/-- CLK_AUD_CTL. -/
abbrev Reg.clkAudCtl : Nat := 0x1414
/-- CLK_AUD_STAT. -/
abbrev Reg.clkAudStat : Nat := 0x1418
/-- LOn_CTL, n = 4 the LOT register. -/
abbrev Reg.loCtl (n : Nat) : Nat := 0x2000 + 0x20 * n
/-- LOn_FREQ, n = 4 the LOT register. -/
abbrev Reg.loFreq (n : Nat) : Nat := 0x2004 + 0x20 * n
/-- LOn_STAT, n = 4 the LOT register. -/
abbrev Reg.loStat (n : Nat) : Nat := 0x2008 + 0x20 * n
/-- LOn_CALMODE, n = 4 the LOT register. -/
abbrev Reg.loCalmode (n : Nat) : Nat := 0x200C + 0x20 * n
/-- PATHn_CTL. -/
abbrev Reg.pathCtl (n : Nat) : Nat := 0x2100 + 0x4 * n
/-- RADIO_STATE. -/
abbrev Reg.radioState : Nat := 0x2120
/-- TX_CTL. -/
abbrev Reg.txCtl : Nat := 0x2130
/-- TX_POWER. -/
abbrev Reg.txPower : Nat := 0x2134
/-- SAMP_CTL. -/
abbrev Reg.sampCtl : Nat := 0x2800
/-- SAMP_OCTET_MASK_LO. -/
abbrev Reg.sampOctetMaskLo : Nat := 0x2808
/-- SAMP_OCTET_MASK_HI. -/
abbrev Reg.sampOctetMaskHi : Nat := 0x280C
/-- AGCn_CTL. -/
abbrev Reg.agcCtl (n : Nat) : Nat := 0x2810 + 0x4 * n
/-- OVR_STAT. -/
abbrev Reg.ovrStat : Nat := 0x2820
/-- OVRn_CNT. -/
abbrev Reg.ovrCnt (n : Nat) : Nat := 0x2830 + 0x4 * n
/-- CAL_CTL. -/
abbrev Reg.calCtl : Nat := 0x3000
/-- CAL_DTEMP. -/
abbrev Reg.calDtemp : Nat := 0x3004
/-- CAL_STAT. -/
abbrev Reg.calStat : Nat := 0x3008
/-- CALn_DC_I. -/
abbrev Reg.calDcI (n : Nat) : Nat := 0x3100 + 0x20 * n
/-- CALn_DC_Q. -/
abbrev Reg.calDcQ (n : Nat) : Nat := 0x3104 + 0x20 * n
/-- CALn_IQ_GAIN. -/
abbrev Reg.calIqGain (n : Nat) : Nat := 0x3108 + 0x20 * n
/-- CALn_IQ_PHASE. -/
abbrev Reg.calIqPhase (n : Nat) : Nat := 0x310C + 0x20 * n
/-- CALn_PATH_GAIN. -/
abbrev Reg.calPathGain (n : Nat) : Nat := 0x3110 + 0x20 * n
/-- CALn_PATH_PHASE. -/
abbrev Reg.calPathPhase (n : Nat) : Nat := 0x3114 + 0x20 * n
/-- CALn_LAST_TEMP. -/
abbrev Reg.calLastTemp (n : Nat) : Nat := 0x3118 + 0x20 * n
/-- BCST_CTL. -/
abbrev Reg.bcstCtl : Nat := 0x3800
/-- BCST_STAT. -/
abbrev Reg.bcstStat : Nat := 0x3804
/-- RDS_STAT. -/
abbrev Reg.rdsStat : Nat := 0x3808
/-- DAB_STAT. -/
abbrev Reg.dabStat : Nat := 0x380C
/-- SAPn_CTL. -/
abbrev Reg.sapCtl (n : Nat) : Nat := 0x4000 + 0x8 * n
/-- SAPn_STAT. -/
abbrev Reg.sapStat (n : Nat) : Nat := 0x4004 + 0x8 * n
/-- SPDO_CTL. -/
abbrev Reg.spdoCtl : Nat := 0x4020
/-- SPDO_CSn. -/
abbrev Reg.spdoCs (n : Nat) : Nat := 0x4024 + 0x4 * n
/-- SPDI_CTL. -/
abbrev Reg.spdiCtl : Nat := 0x4040
/-- SPDI_STAT. -/
abbrev Reg.spdiStat : Nat := 0x4044
/-- AUD_START_CTL. -/
abbrev Reg.audStartCtl : Nat := 0x4050
/-- AUD_FADE_CFG. -/
abbrev Reg.audFadeCfg : Nat := 0x4054
/-- TAG_CTL. -/
abbrev Reg.tagCtl : Nat := 0x4800
/-- TAG_BAND. -/
abbrev Reg.tagBand : Nat := 0x4804
/-- TAG_CHAN_MASK. -/
abbrev Reg.tagChanMask : Nat := 0x4808
/-- TAG_DUTY_BUDGET. -/
abbrev Reg.tagDutyBudget : Nat := 0x480C
/-- TAG_DUTY_USED. -/
abbrev Reg.tagDutyUsed : Nat := 0x4810
/-- TAG_SYNC. -/
abbrev Reg.tagSync : Nat := 0x4814
/-- STORE_CTL. -/
abbrev Reg.storeCtl : Nat := 0x5000
/-- ARB_MODE. -/
abbrev Reg.arbMode : Nat := 0x5004
/-- ARB_HOLD_VIOL. -/
abbrev Reg.arbHoldViol : Nat := 0x5008
/-- ARB_STITCH_MAX. -/
abbrev Reg.arbStitchMax : Nat := 0x500C
/-- REFRESH_STAT. -/
abbrev Reg.refreshStat : Nat := 0x5010
/-- SCRUB_CTL. -/
abbrev Reg.scrubCtl : Nat := 0x5014
/-- SCRUB_STAT. -/
abbrev Reg.scrubStat : Nat := 0x5018
/-- ECC_CE_CNT. -/
abbrev Reg.eccCeCnt : Nat := 0x5020
/-- ECC_UE_CNT. -/
abbrev Reg.eccUeCnt : Nat := 0x5024
/-- BANK_RETIRED. -/
abbrev Reg.bankRetired : Nat := 0x5028
/-- LACE_SHAPE. -/
abbrev Reg.laceShape : Nat := 0x5800
/-- LACE_EPOCH. -/
abbrev Reg.laceEpoch : Nat := 0x5804
/-- LACE_MEMBERS_LO. -/
abbrev Reg.laceMembersLo : Nat := 0x5808
/-- LACE_MEMBERS_HI. -/
abbrev Reg.laceMembersHi : Nat := 0x580C
/-- LNK_x_STAT. -/
abbrev Reg.lnkStat (n : Nat) : Nat := 0x5840 + 0x40 * n
/-- LNK_x_LANES. -/
abbrev Reg.lnkLanes (n : Nat) : Nat := 0x5844 + 0x40 * n
/-- LNK_x_CRC_CNT. -/
abbrev Reg.lnkCrcCnt (n : Nat) : Nat := 0x5848 + 0x40 * n
/-- LNK_x_REPLAY_CNT. -/
abbrev Reg.lnkReplayCnt (n : Nat) : Nat := 0x584C + 0x40 * n
/-- LNK_x_PARTNER. -/
abbrev Reg.lnkPartner (n : Nat) : Nat := 0x5850 + 0x40 * n
/-- EXCH_CTL. -/
abbrev Reg.exchCtl : Nat := 0x6000
/-- EXCH_STAT. -/
abbrev Reg.exchStat : Nat := 0x6004
/-- EXCH_RES_FAULT_CNT. -/
abbrev Reg.exchResFaultCnt : Nat := 0x6008
/-- EXCH_LANE_MAP. -/
abbrev Reg.exchLaneMap : Nat := 0x600C
/-- EXCH_GAP_CNT. -/
abbrev Reg.exchGapCnt : Nat := 0x6010
/-- SVC_CTL. -/
abbrev Reg.svcCtl : Nat := 0x6800
/-- SVC_ROSTER_BASE. -/
abbrev Reg.svcRosterBase : Nat := 0x6804
/-- SVC_ROSTER_SIZE. -/
abbrev Reg.svcRosterSize : Nat := 0x6808
/-- SVC_RECALL_CNT. -/
abbrev Reg.svcRecallCnt : Nat := 0x680C
/-- PWR_LAT_TOL. -/
abbrev Reg.pwrLatTol : Nat := 0x1000
/-- PWR_CTL. -/
abbrev Reg.pwrCtl : Nat := 0x1004
/-- PWR_STATE. -/
abbrev Reg.pwrState : Nat := 0x1008
/-- PWR_NEXT_LEAD. -/
abbrev Reg.pwrNextLead : Nat := 0x100C
/-- PWR_WAKE_SRC. -/
abbrev Reg.pwrWakeSrc : Nat := 0x1010
/-- FLT_STAT. -/
abbrev Reg.fltStat : Nat := 0x7000
/-- FLT_RETIRE_MAP0. -/
abbrev Reg.fltRetireMap0 : Nat := 0x7010
/-- FLT_RETIRE_MAP1. -/
abbrev Reg.fltRetireMap1 : Nat := 0x7014
/-- FLT_RETIRE_MAP2. -/
abbrev Reg.fltRetireMap2 : Nat := 0x7018
/-- FLT_RETIRE_MAP3. -/
abbrev Reg.fltRetireMap3 : Nat := 0x701C
/-- FLT_TRANSIENT_CNT. -/
abbrev Reg.fltTransientCnt : Nat := 0x7020
/-- FLT_POLICYn. -/
abbrev Reg.fltPolicy (n : Nat) : Nat := 0x7040 + 0x4 * n
/-- TELEM_INTERVAL. -/
abbrev Reg.telemInterval : Nat := 0x7060
/-- TEMPn. -/
abbrev Reg.temp (n : Nat) : Nat := 0x7800 + 0x4 * n
/-- SUPPLYn. -/
abbrev Reg.supply (n : Nat) : Nat := 0x7820 + 0x4 * n

abbrev Fld.bootCtlForceUntested : FieldRef := ⟨0x0400, 1, 1⟩
abbrev Fld.bootCtlStart : FieldRef := ⟨0x0400, 0, 1⟩
abbrev Fld.bootStatHelloCnt : FieldRef := ⟨0x0404, 24, 8⟩
abbrev Fld.bootStatSource : FieldRef := ⟨0x0404, 16, 2⟩
abbrev Fld.bootStatWinErr : FieldRef := ⟨0x0404, 9, 1⟩
abbrev Fld.bootStatPushed : FieldRef := ⟨0x0404, 8, 1⟩
abbrev Fld.bootStatPhase : FieldRef := ⟨0x0404, 0, 4⟩
abbrev Fld.bootSvcAddrLoAddr : FieldRef := ⟨0x0408, 6, 26⟩
abbrev Fld.bootSvcAddrHiAddr : FieldRef := ⟨0x040C, 0, 32⟩
abbrev Fld.bootSvcLenLen : FieldRef := ⟨0x0410, 0, 32⟩
abbrev Fld.bootSeqAddrLoAddr : FieldRef := ⟨0x0414, 6, 26⟩
abbrev Fld.bootSeqAddrHiAddr : FieldRef := ⟨0x0418, 0, 32⟩
abbrev Fld.bootSeqLenLen : FieldRef := ⟨0x041C, 0, 32⟩
abbrev Fld.bootSvcVerMajor : FieldRef := ⟨0x0420, 24, 8⟩
abbrev Fld.bootSvcVerMinor : FieldRef := ⟨0x0420, 16, 8⟩
abbrev Fld.bootSvcVerPatch : FieldRef := ⟨0x0420, 0, 16⟩
abbrev Fld.bootSeqVerMajor : FieldRef := ⟨0x0424, 24, 8⟩
abbrev Fld.bootSeqVerMinor : FieldRef := ⟨0x0424, 16, 8⟩
abbrev Fld.bootSeqVerPatch : FieldRef := ⟨0x0424, 0, 16⟩
abbrev Fld.bootIfgReqMax : FieldRef := ⟨0x0428, 24, 8⟩
abbrev Fld.bootIfgReqMin : FieldRef := ⟨0x0428, 16, 8⟩
abbrev Fld.bootIfgIfgSeq : FieldRef := ⟨0x0428, 8, 8⟩
abbrev Fld.bootIfgIfgSvc : FieldRef := ⟨0x0428, 0, 8⟩
abbrev Fld.bootMismatchRefused : FieldRef := ⟨0x042C, 17, 1⟩
abbrev Fld.bootMismatchFetch : FieldRef := ⟨0x042C, 16, 1⟩
abbrev Fld.bootMismatchMember : FieldRef := ⟨0x042C, 8, 6⟩
abbrev Fld.bootMismatchImage : FieldRef := ⟨0x042C, 4, 2⟩
abbrev Fld.bootMismatchCode : FieldRef := ⟨0x042C, 0, 4⟩
abbrev Fld.bootWinAddrTarget : FieldRef := ⟨0x0430, 30, 2⟩
abbrev Fld.bootWinAddrOffset : FieldRef := ⟨0x0430, 2, 19⟩
abbrev Fld.bootSvcCrcCrc : FieldRef := ⟨0x0434, 0, 32⟩
abbrev Fld.bootSeqCrcCrc : FieldRef := ⟨0x0438, 0, 32⟩
abbrev Fld.bootWinDataData (n : Nat) : FieldRef := ⟨0x0500 + 0x4 * n, 0, 32⟩
abbrev Fld.spiCfgIeErr : FieldRef := ⟨0x0C00, 3, 1⟩
abbrev Fld.spiCfgIeReady : FieldRef := ⟨0x0C00, 2, 1⟩
abbrev Fld.spiCfgIeFault : FieldRef := ⟨0x0C00, 1, 1⟩
abbrev Fld.spiCfgIeBoot : FieldRef := ⟨0x0C00, 0, 1⟩
abbrev Fld.spiStatLastCmd : FieldRef := ⟨0x0C04, 24, 8⟩
abbrev Fld.spiStatReady : FieldRef := ⟨0x0C04, 10, 1⟩
abbrev Fld.spiStatFault : FieldRef := ⟨0x0C04, 9, 1⟩
abbrev Fld.spiStatBootDone : FieldRef := ⟨0x0C04, 8, 1⟩
abbrev Fld.spiStatLate : FieldRef := ⟨0x0C04, 4, 1⟩
abbrev Fld.spiStatAlign : FieldRef := ⟨0x0C04, 3, 1⟩
abbrev Fld.spiStatBadcmd : FieldRef := ⟨0x0C04, 2, 1⟩
abbrev Fld.spiStatShort : FieldRef := ⟨0x0C04, 1, 1⟩
abbrev Fld.spiStatPartial : FieldRef := ⟨0x0C04, 0, 1⟩
abbrev Fld.spiFrameCntCount : FieldRef := ⟨0x0C08, 0, 32⟩
abbrev Fld.topPartPart : FieldRef := ⟨0x0000, 0, 32⟩
abbrev Fld.topStepLetter : FieldRef := ⟨0x0004, 4, 4⟩
abbrev Fld.topStepDigit : FieldRef := ⟨0x0004, 0, 4⟩
abbrev Fld.topStrapsIo3v3 : FieldRef := ⟨0x0008, 16, 1⟩
abbrev Fld.topStrapsBootsrc : FieldRef := ⟨0x0008, 12, 2⟩
abbrev Fld.topStrapsCompat6 : FieldRef := ⟨0x0008, 9, 1⟩
abbrev Fld.topStrapsHead : FieldRef := ⟨0x0008, 8, 1⟩
abbrev Fld.topStrapsId : FieldRef := ⟨0x0008, 0, 6⟩
abbrev Fld.topCfgCompat6 : FieldRef := ⟨0x000C, 0, 1⟩
abbrev Fld.topStatusDozeAcc : FieldRef := ⟨0x0010, 13, 1⟩
abbrev Fld.topStatusCfgRej : FieldRef := ⟨0x0010, 12, 1⟩
abbrev Fld.topStatusBlkAcc : FieldRef := ⟨0x0010, 11, 1⟩
abbrev Fld.topStatusBeErr : FieldRef := ⟨0x0010, 10, 1⟩
abbrev Fld.topStatusEncErr : FieldRef := ⟨0x0010, 9, 1⟩
abbrev Fld.topStatusRsvdAcc : FieldRef := ⟨0x0010, 8, 1⟩
abbrev Fld.topStatusRingEn : FieldRef := ⟨0x0010, 2, 1⟩
abbrev Fld.topStatusHead : FieldRef := ⟨0x0010, 1, 1⟩
abbrev Fld.topStatusUntested : FieldRef := ⟨0x0010, 0, 1⟩
abbrev Fld.topBlockResetExch : FieldRef := ⟨0x0014, 24, 1⟩
abbrev Fld.topBlockResetLnk : FieldRef := ⟨0x0014, 22, 1⟩
abbrev Fld.topBlockResetTag : FieldRef := ⟨0x0014, 18, 1⟩
abbrev Fld.topBlockResetAud : FieldRef := ⟨0x0014, 16, 1⟩
abbrev Fld.topBlockResetBcst : FieldRef := ⟨0x0014, 14, 1⟩
abbrev Fld.topBlockResetCal : FieldRef := ⟨0x0014, 12, 1⟩
abbrev Fld.topBlockResetSamp : FieldRef := ⟨0x0014, 10, 1⟩
abbrev Fld.topBlockResetRadio : FieldRef := ⟨0x0014, 8, 1⟩
abbrev Fld.topBlockResetPip : FieldRef := ⟨0x0014, 6, 1⟩
abbrev Fld.topBlockResetHif : FieldRef := ⟨0x0014, 2, 1⟩
abbrev Fld.topSoftResetKey : FieldRef := ⟨0x0018, 16, 16⟩
abbrev Fld.topSoftResetGo : FieldRef := ⟨0x0018, 0, 1⟩
abbrev Fld.topUniqueLoUid : FieldRef := ⟨0x0020, 0, 32⟩
abbrev Fld.topUniqueHiUid : FieldRef := ⟨0x0024, 0, 32⟩
abbrev Fld.topStaleCntCount : FieldRef := ⟨0x0028, 0, 32⟩
abbrev Fld.topErrAddrCause : FieldRef := ⟨0x002C, 28, 4⟩
abbrev Fld.topErrAddrWrite : FieldRef := ⟨0x002C, 24, 1⟩
abbrev Fld.topErrAddrPort : FieldRef := ⟨0x002C, 16, 2⟩
abbrev Fld.topErrAddrOffset : FieldRef := ⟨0x002C, 0, 16⟩
abbrev Fld.topScratchData (n : Nat) : FieldRef := ⟨0x0030 + 0x4 * n, 0, 32⟩
abbrev Fld.dbgIdPart : FieldRef := ⟨0xF000, 16, 16⟩
abbrev Fld.dbgIdStep : FieldRef := ⟨0xF000, 0, 8⟩
abbrev Fld.dbgCtlErr : FieldRef := ⟨0xF004, 3, 1⟩
abbrev Fld.dbgCtlWr : FieldRef := ⟨0xF004, 2, 1⟩
abbrev Fld.dbgCtlGo : FieldRef := ⟨0xF004, 1, 1⟩
abbrev Fld.dbgCtlEn : FieldRef := ⟨0xF004, 0, 1⟩
abbrev Fld.dbgStoreAddrWord : FieldRef := ⟨0xF008, 2, 22⟩
abbrev Fld.dbgStoreDataData : FieldRef := ⟨0xF00C, 0, 32⟩
abbrev Fld.hifCtlEngineEn : FieldRef := ⟨0x0800, 0, 1⟩
abbrev Fld.hifStatErrRing : FieldRef := ⟨0x0804, 16, 5⟩
abbrev Fld.hifStatFetchErr : FieldRef := ⟨0x0804, 4, 1⟩
abbrev Fld.hifStatCfgErr : FieldRef := ⟨0x0804, 3, 1⟩
abbrev Fld.hifStatDbErr : FieldRef := ⟨0x0804, 2, 1⟩
abbrev Fld.hifStatNotHead : FieldRef := ⟨0x0804, 1, 1⟩
abbrev Fld.hifStatActive : FieldRef := ⟨0x0804, 0, 1⟩
abbrev Fld.hifRingBaseLoAddr (n : Nat) : FieldRef := ⟨0x0810 + 0x20 * n, 12, 20⟩
abbrev Fld.hifRingBaseHiAddr (n : Nat) : FieldRef := ⟨0x0814 + 0x20 * n, 0, 32⟩
abbrev Fld.hifRingSizeLog2 (n : Nat) : FieldRef := ⟨0x0818 + 0x20 * n, 0, 5⟩
abbrev Fld.hifRingCtlTypeMask (n : Nat) : FieldRef := ⟨0x081C + 0x20 * n, 17, 15⟩
abbrev Fld.hifRingCtlHoldoff (n : Nat) : FieldRef := ⟨0x081C + 0x20 * n, 8, 8⟩
abbrev Fld.hifRingCtlHalted (n : Nat) : FieldRef := ⟨0x081C + 0x20 * n, 3, 1⟩
abbrev Fld.hifRingCtlActive (n : Nat) : FieldRef := ⟨0x081C + 0x20 * n, 2, 1⟩
abbrev Fld.hifRingCtlEn (n : Nat) : FieldRef := ⟨0x081C + 0x20 * n, 0, 1⟩
abbrev Fld.hifRingHeadPhase (n : Nat) : FieldRef := ⟨0x0820 + 0x20 * n, 16, 1⟩
abbrev Fld.hifRingHeadProducer (n : Nat) : FieldRef := ⟨0x0820 + 0x20 * n, 0, 16⟩
abbrev Fld.hifRingTailConsumer (n : Nat) : FieldRef := ⟨0x0824 + 0x20 * n, 0, 16⟩
abbrev Fld.hifMsixMapEn0 (n : Nat) : FieldRef := ⟨0x0B10 + 0x4 * n, 7, 1⟩
abbrev Fld.hifMsixMapVector0 (n : Nat) : FieldRef := ⟨0x0B10 + 0x4 * n, 0, 5⟩
abbrev Fld.hifMsixMapEn1 (n : Nat) : FieldRef := ⟨0x0B10 + 0x4 * n, 15, 1⟩
abbrev Fld.hifMsixMapVector1 (n : Nat) : FieldRef := ⟨0x0B10 + 0x4 * n, 8, 5⟩
abbrev Fld.hifMsixMapEn2 (n : Nat) : FieldRef := ⟨0x0B10 + 0x4 * n, 23, 1⟩
abbrev Fld.hifMsixMapVector2 (n : Nat) : FieldRef := ⟨0x0B10 + 0x4 * n, 16, 5⟩
abbrev Fld.hifMsixMapEn3 (n : Nat) : FieldRef := ⟨0x0B10 + 0x4 * n, 31, 1⟩
abbrev Fld.hifMsixMapVector3 (n : Nat) : FieldRef := ⟨0x0B10 + 0x4 * n, 24, 5⟩
abbrev Fld.hifDropCntCount (n : Nat) : FieldRef := ⟨0x0B40 + 0x4 * n, 0, 32⟩
abbrev Fld.pipSrcQerr : FieldRef := ⟨0x1800, 18, 1⟩
abbrev Fld.pipSrcStopped : FieldRef := ⟨0x1800, 17, 1⟩
abbrev Fld.pipSrcLocked : FieldRef := ⟨0x1800, 16, 1⟩
abbrev Fld.pipSrcInvert : FieldRef := ⟨0x1800, 6, 1⟩
abbrev Fld.pipSrcPath : FieldRef := ⟨0x1800, 4, 2⟩
abbrev Fld.pipSrcSrc : FieldRef := ⟨0x1800, 0, 3⟩
abbrev Fld.pipCtlJumpLimit : FieldRef := ⟨0x1804, 16, 16⟩
abbrev Fld.pipCtlGuard : FieldRef := ⟨0x1804, 8, 8⟩
abbrev Fld.pipCtlFilter : FieldRef := ⟨0x1804, 4, 2⟩
abbrev Fld.pipCtlTimeAlign : FieldRef := ⟨0x1804, 3, 1⟩
abbrev Fld.pipCtlZArm : FieldRef := ⟨0x1804, 1, 1⟩
abbrev Fld.pipCtlQx4 : FieldRef := ⟨0x1804, 0, 1⟩
abbrev Fld.pipCountLoCount : FieldRef := ⟨0x1808, 0, 32⟩
abbrev Fld.pipCountHiCount : FieldRef := ⟨0x180C, 0, 32⟩
abbrev Fld.pipFracFrac : FieldRef := ⟨0x1810, 0, 16⟩
abbrev Fld.pipRateDir : FieldRef := ⟨0x1814, 31, 1⟩
abbrev Fld.pipRatePeriod : FieldRef := ⟨0x1814, 0, 31⟩
abbrev Fld.pipBackstepCntCount : FieldRef := ⟨0x1818, 0, 32⟩
abbrev Fld.clkRefSelRej : FieldRef := ⟨0x1400, 16, 1⟩
abbrev Fld.clkRefSelXtalRun : FieldRef := ⟨0x1400, 9, 1⟩
abbrev Fld.clkRefSelRefDet : FieldRef := ⟨0x1400, 8, 1⟩
abbrev Fld.clkRefSelSel : FieldRef := ⟨0x1400, 0, 1⟩
abbrev Fld.clkSysCtlXtalKeep : FieldRef := ⟨0x1404, 1, 1⟩
abbrev Fld.clkSysCtlNoRec : FieldRef := ⟨0x1404, 0, 1⟩
abbrev Fld.clkSysStatLossCnt : FieldRef := ⟨0x1408, 24, 8⟩
abbrev Fld.clkSysStatGated : FieldRef := ⟨0x1408, 3, 1⟩
abbrev Fld.clkSysStatLor : FieldRef := ⟨0x1408, 2, 1⟩
abbrev Fld.clkSysStatLol : FieldRef := ⟨0x1408, 1, 1⟩
abbrev Fld.clkSysStatLock : FieldRef := ⟨0x1408, 0, 1⟩
abbrev Fld.clkSyncCtlInIgnore : FieldRef := ⟨0x140C, 2, 1⟩
abbrev Fld.clkSyncCtlOutDis : FieldRef := ⟨0x140C, 1, 1⟩
abbrev Fld.clkSyncCtlFire : FieldRef := ⟨0x140C, 0, 1⟩
abbrev Fld.clkSyncStatCount : FieldRef := ⟨0x1410, 16, 16⟩
abbrev Fld.clkSyncStatMissed : FieldRef := ⟨0x1410, 4, 1⟩
abbrev Fld.clkSyncStatGlitch : FieldRef := ⟨0x1410, 3, 1⟩
abbrev Fld.clkSyncStatUnarmed : FieldRef := ⟨0x1410, 2, 1⟩
abbrev Fld.clkSyncStatStepped : FieldRef := ⟨0x1410, 1, 1⟩
abbrev Fld.clkSyncStatAligned : FieldRef := ⟨0x1410, 0, 1⟩
abbrev Fld.clkAudCtlMclk : FieldRef := ⟨0x1414, 10, 2⟩
abbrev Fld.clkAudCtlFamily : FieldRef := ⟨0x1414, 8, 1⟩
abbrev Fld.clkAudCtlSrc : FieldRef := ⟨0x1414, 0, 3⟩
abbrev Fld.clkAudStatPpm : FieldRef := ⟨0x1418, 16, 16⟩
abbrev Fld.clkAudStatExtLost : FieldRef := ⟨0x1418, 5, 1⟩
abbrev Fld.clkAudStatLor : FieldRef := ⟨0x1418, 4, 1⟩
abbrev Fld.clkAudStatLol : FieldRef := ⟨0x1418, 3, 1⟩
abbrev Fld.clkAudStatHoldover : FieldRef := ⟨0x1418, 2, 1⟩
abbrev Fld.clkAudStatGated : FieldRef := ⟨0x1418, 1, 1⟩
abbrev Fld.clkAudStatLock : FieldRef := ⟨0x1418, 0, 1⟩
abbrev Fld.loCtlForceCal (n : Nat) : FieldRef := ⟨0x2000 + 0x20 * n, 9, 1⟩
abbrev Fld.loCtlTune (n : Nat) : FieldRef := ⟨0x2000 + 0x20 * n, 8, 1⟩
abbrev Fld.loCtlTarget (n : Nat) : FieldRef := ⟨0x2000 + 0x20 * n, 0, 3⟩
abbrev Fld.loFreqHz (n : Nat) : FieldRef := ⟨0x2004 + 0x20 * n, 0, 32⟩
abbrev Fld.loStatDiv (n : Nat) : FieldRef := ⟨0x2008 + 0x20 * n, 24, 8⟩
abbrev Fld.loStatCalTemp (n : Nat) : FieldRef := ⟨0x2008 + 0x20 * n, 16, 8⟩
abbrev Fld.loStatRetired (n : Nat) : FieldRef := ⟨0x2008 + 0x20 * n, 11, 1⟩
abbrev Fld.loStatCalDue (n : Nat) : FieldRef := ⟨0x2008 + 0x20 * n, 10, 1⟩
abbrev Fld.loStatLor (n : Nat) : FieldRef := ⟨0x2008 + 0x20 * n, 9, 1⟩
abbrev Fld.loStatLol (n : Nat) : FieldRef := ⟨0x2008 + 0x20 * n, 8, 1⟩
abbrev Fld.loStatLock (n : Nat) : FieldRef := ⟨0x2008 + 0x20 * n, 4, 1⟩
abbrev Fld.loStatBusy (n : Nat) : FieldRef := ⟨0x2008 + 0x20 * n, 3, 1⟩
abbrev Fld.loStatState (n : Nat) : FieldRef := ⟨0x2008 + 0x20 * n, 0, 3⟩
abbrev Fld.loCalmodeDtemp (n : Nat) : FieldRef := ⟨0x200C + 0x20 * n, 8, 8⟩
abbrev Fld.loCalmodeInvalidate (n : Nat) : FieldRef := ⟨0x200C + 0x20 * n, 1, 1⟩
abbrev Fld.loCalmodePolicy (n : Nat) : FieldRef := ⟨0x200C + 0x20 * n, 0, 1⟩
abbrev Fld.pathCtlLna (n : Nat) : FieldRef := ⟨0x2100 + 0x4 * n, 6, 2⟩
abbrev Fld.pathCtlLoSel (n : Nat) : FieldRef := ⟨0x2100 + 0x4 * n, 4, 1⟩
abbrev Fld.pathCtlInput (n : Nat) : FieldRef := ⟨0x2100 + 0x4 * n, 1, 1⟩
abbrev Fld.pathCtlEn (n : Nat) : FieldRef := ⟨0x2100 + 0x4 * n, 0, 1⟩
abbrev Fld.radioStateBlanked : FieldRef := ⟨0x2120, 24, 4⟩
abbrev Fld.radioStateClean : FieldRef := ⟨0x2120, 20, 4⟩
abbrev Fld.radioStateLot : FieldRef := ⟨0x2120, 16, 3⟩
abbrev Fld.radioStateLo3 : FieldRef := ⟨0x2120, 12, 3⟩
abbrev Fld.radioStateLo2 : FieldRef := ⟨0x2120, 8, 3⟩
abbrev Fld.radioStateLo1 : FieldRef := ⟨0x2120, 4, 3⟩
abbrev Fld.radioStateLo0 : FieldRef := ⟨0x2120, 0, 3⟩
abbrev Fld.txCtlPaHold : FieldRef := ⟨0x2130, 12, 4⟩
abbrev Fld.txCtlPaLead : FieldRef := ⟨0x2130, 8, 4⟩
abbrev Fld.txCtlPaExt : FieldRef := ⟨0x2130, 0, 1⟩
abbrev Fld.txPowerLock : FieldRef := ⟨0x2134, 31, 1⟩
abbrev Fld.txPowerCap : FieldRef := ⟨0x2134, 16, 7⟩
abbrev Fld.txPowerLevel : FieldRef := ⟨0x2134, 0, 7⟩
abbrev Fld.sampCtlFreezeMax : FieldRef := ⟨0x2800, 8, 6⟩
abbrev Fld.sampCtlOvrRec : FieldRef := ⟨0x2800, 3, 1⟩
abbrev Fld.sampCtlDepth : FieldRef := ⟨0x2800, 1, 2⟩
abbrev Fld.sampCtlEn : FieldRef := ⟨0x2800, 0, 1⟩
abbrev Fld.sampOctetMaskLoMask : FieldRef := ⟨0x2808, 0, 32⟩
abbrev Fld.sampOctetMaskHiMask : FieldRef := ⟨0x280C, 0, 32⟩
abbrev Fld.agcCtlCode (n : Nat) : FieldRef := ⟨0x2810 + 0x4 * n, 26, 6⟩
abbrev Fld.agcCtlMax (n : Nat) : FieldRef := ⟨0x2810 + 0x4 * n, 20, 6⟩
abbrev Fld.agcCtlMin (n : Nat) : FieldRef := ⟨0x2810 + 0x4 * n, 14, 6⟩
abbrev Fld.agcCtlManCode (n : Nat) : FieldRef := ⟨0x2810 + 0x4 * n, 8, 6⟩
abbrev Fld.agcCtlManual (n : Nat) : FieldRef := ⟨0x2810 + 0x4 * n, 7, 1⟩
abbrev Fld.agcCtlTarget (n : Nat) : FieldRef := ⟨0x2810 + 0x4 * n, 4, 3⟩
abbrev Fld.agcCtlSentBeacon (n : Nat) : FieldRef := ⟨0x2810 + 0x4 * n, 3, 1⟩
abbrev Fld.agcCtlSentDab (n : Nat) : FieldRef := ⟨0x2810 + 0x4 * n, 2, 1⟩
abbrev Fld.agcCtlSentTag (n : Nat) : FieldRef := ⟨0x2810 + 0x4 * n, 1, 1⟩
abbrev Fld.agcCtlFreeze (n : Nat) : FieldRef := ⟨0x2810 + 0x4 * n, 0, 1⟩
abbrev Fld.ovrStatAtMin : FieldRef := ⟨0x2820, 12, 4⟩
abbrev Fld.ovrStatFrozen : FieldRef := ⟨0x2820, 8, 4⟩
abbrev Fld.ovrStatContam : FieldRef := ⟨0x2820, 4, 4⟩
abbrev Fld.ovrStatOvr : FieldRef := ⟨0x2820, 0, 4⟩
abbrev Fld.ovrCntCount (n : Nat) : FieldRef := ⟨0x2830 + 0x4 * n, 0, 32⟩
abbrev Fld.calCtlRefMember : FieldRef := ⟨0x3000, 24, 6⟩
abbrev Fld.calCtlRefPath : FieldRef := ⟨0x3000, 16, 2⟩
abbrev Fld.calCtlStepLim : FieldRef := ⟨0x3000, 12, 2⟩
abbrev Fld.calCtlRec : FieldRef := ⟨0x3000, 11, 1⟩
abbrev Fld.calCtlSlotted : FieldRef := ⟨0x3000, 10, 1⟩
abbrev Fld.calCtlNewBand : FieldRef := ⟨0x3000, 9, 1⟩
abbrev Fld.calCtlAutoTemp : FieldRef := ⟨0x3000, 8, 1⟩
abbrev Fld.calCtlFreeze : FieldRef := ⟨0x3000, 4, 4⟩
abbrev Fld.calCtlEn : FieldRef := ⟨0x3000, 0, 4⟩
abbrev Fld.calDtempDtemp : FieldRef := ⟨0x3004, 0, 8⟩
abbrev Fld.calStatRounds : FieldRef := ⟨0x3008, 16, 16⟩
abbrev Fld.calStatNoSignal : FieldRef := ⟨0x3008, 12, 4⟩
abbrev Fld.calStatClamped : FieldRef := ⟨0x3008, 8, 4⟩
abbrev Fld.calStatDue : FieldRef := ⟨0x3008, 4, 4⟩
abbrev Fld.calStatPhase : FieldRef := ⟨0x3008, 0, 2⟩
abbrev Fld.calDcIDc (n : Nat) : FieldRef := ⟨0x3100 + 0x20 * n, 0, 20⟩
abbrev Fld.calDcQDc (n : Nat) : FieldRef := ⟨0x3104 + 0x20 * n, 0, 20⟩
abbrev Fld.calIqGainValue (n : Nat) : FieldRef := ⟨0x3108 + 0x20 * n, 0, 16⟩
abbrev Fld.calIqPhaseValue (n : Nat) : FieldRef := ⟨0x310C + 0x20 * n, 0, 16⟩
abbrev Fld.calPathGainPg (n : Nat) : FieldRef := ⟨0x3110 + 0x20 * n, 0, 16⟩
abbrev Fld.calPathPhasePp (n : Nat) : FieldRef := ⟨0x3114 + 0x20 * n, 0, 16⟩
abbrev Fld.calLastTempValid (n : Nat) : FieldRef := ⟨0x3118 + 0x20 * n, 31, 1⟩
abbrev Fld.calLastTempTemp (n : Nat) : FieldRef := ⟨0x3118 + 0x20 * n, 0, 16⟩
abbrev Fld.bcstCtlBgPath : FieldRef := ⟨0x3800, 10, 2⟩
abbrev Fld.bcstCtlBgEn : FieldRef := ⟨0x3800, 9, 1⟩
abbrev Fld.bcstCtlSwRec : FieldRef := ⟨0x3800, 7, 1⟩
abbrev Fld.bcstCtlDabRec : FieldRef := ⟨0x3800, 6, 1⟩
abbrev Fld.bcstCtlRdsRec : FieldRef := ⟨0x3800, 5, 1⟩
abbrev Fld.bcstCtlRbds : FieldRef := ⟨0x3800, 4, 1⟩
abbrev Fld.bcstCtlMonSrc : FieldRef := ⟨0x3800, 0, 2⟩
abbrev Fld.bcstStatLevel : FieldRef := ⟨0x3804, 24, 8⟩
abbrev Fld.bcstStatQual : FieldRef := ⟨0x3804, 16, 8⟩
abbrev Fld.bcstStatStale : FieldRef := ⟨0x3804, 13, 1⟩
abbrev Fld.bcstStatAnnounce : FieldRef := ⟨0x3804, 12, 1⟩
abbrev Fld.bcstStatProbing : FieldRef := ⟨0x3804, 11, 1⟩
abbrev Fld.bcstStatSwitching : FieldRef := ⟨0x3804, 10, 1⟩
abbrev Fld.bcstStatStereo : FieldRef := ⟨0x3804, 9, 1⟩
abbrev Fld.bcstStatSync : FieldRef := ⟨0x3804, 8, 1⟩
abbrev Fld.bcstStatPath : FieldRef := ⟨0x3804, 4, 2⟩
abbrev Fld.bcstStatMode : FieldRef := ⟨0x3804, 0, 2⟩
abbrev Fld.rdsStatPi : FieldRef := ⟨0x3808, 16, 16⟩
abbrev Fld.rdsStatPty : FieldRef := ⟨0x3808, 11, 5⟩
abbrev Fld.rdsStatTp : FieldRef := ⟨0x3808, 10, 1⟩
abbrev Fld.rdsStatTa : FieldRef := ⟨0x3808, 9, 1⟩
abbrev Fld.rdsStatMs : FieldRef := ⟨0x3808, 8, 1⟩
abbrev Fld.rdsStatSync : FieldRef := ⟨0x3808, 7, 1⟩
abbrev Fld.rdsStatBler : FieldRef := ⟨0x3808, 0, 7⟩
abbrev Fld.dabStatEid : FieldRef := ⟨0x380C, 16, 16⟩
abbrev Fld.dabStatFibErr : FieldRef := ⟨0x380C, 8, 8⟩
abbrev Fld.dabStatAudErr : FieldRef := ⟨0x380C, 0, 8⟩
abbrev Fld.sapCtlInEn (n : Nat) : FieldRef := ⟨0x4000 + 0x8 * n, 8, 1⟩
abbrev Fld.sapCtlFsel (n : Nat) : FieldRef := ⟨0x4000 + 0x8 * n, 6, 2⟩
abbrev Fld.sapCtlWlen (n : Nat) : FieldRef := ⟨0x4000 + 0x8 * n, 4, 2⟩
abbrev Fld.sapCtlFmt (n : Nat) : FieldRef := ⟨0x4000 + 0x8 * n, 2, 2⟩
abbrev Fld.sapCtlMaster (n : Nat) : FieldRef := ⟨0x4000 + 0x8 * n, 1, 1⟩
abbrev Fld.sapCtlEn (n : Nat) : FieldRef := ⟨0x4000 + 0x8 * n, 0, 1⟩
abbrev Fld.sapStatFill (n : Nat) : FieldRef := ⟨0x4004 + 0x8 * n, 16, 12⟩
abbrev Fld.sapStatCfgErr (n : Nat) : FieldRef := ⟨0x4004 + 0x8 * n, 9, 1⟩
abbrev Fld.sapStatInLost (n : Nat) : FieldRef := ⟨0x4004 + 0x8 * n, 8, 1⟩
abbrev Fld.sapStatOverrun (n : Nat) : FieldRef := ⟨0x4004 + 0x8 * n, 7, 1⟩
abbrev Fld.sapStatUnderrun (n : Nat) : FieldRef := ⟨0x4004 + 0x8 * n, 6, 1⟩
abbrev Fld.sapStatClkLost (n : Nat) : FieldRef := ⟨0x4004 + 0x8 * n, 5, 1⟩
abbrev Fld.sapStatFading (n : Nat) : FieldRef := ⟨0x4004 + 0x8 * n, 4, 1⟩
abbrev Fld.sapStatMuted (n : Nat) : FieldRef := ⟨0x4004 + 0x8 * n, 3, 1⟩
abbrev Fld.sapStatClkOk (n : Nat) : FieldRef := ⟨0x4004 + 0x8 * n, 2, 1⟩
abbrev Fld.sapStatRun (n : Nat) : FieldRef := ⟨0x4004 + 0x8 * n, 0, 1⟩
abbrev Fld.spdoCtlCfgErr : FieldRef := ⟨0x4020, 12, 1⟩
abbrev Fld.spdoCtlCsLoad : FieldRef := ⟨0x4020, 8, 1⟩
abbrev Fld.spdoCtlFsel : FieldRef := ⟨0x4020, 4, 2⟩
abbrev Fld.spdoCtlChnum : FieldRef := ⟨0x4020, 2, 1⟩
abbrev Fld.spdoCtlAutoFs : FieldRef := ⟨0x4020, 1, 1⟩
abbrev Fld.spdoCtlEn : FieldRef := ⟨0x4020, 0, 1⟩
abbrev Fld.spdoCsCs (n : Nat) : FieldRef := ⟨0x4024 + 0x4 * n, 0, 32⟩
abbrev Fld.spdiCtlIgnoreV : FieldRef := ⟨0x4040, 1, 1⟩
abbrev Fld.spdiCtlEn : FieldRef := ⟨0x4040, 0, 1⟩
abbrev Fld.spdiStatCs : FieldRef := ⟨0x4044, 16, 16⟩
abbrev Fld.spdiStatRate : FieldRef := ⟨0x4044, 8, 3⟩
abbrev Fld.spdiStatBadV : FieldRef := ⟨0x4044, 5, 1⟩
abbrev Fld.spdiStatParErr : FieldRef := ⟨0x4044, 4, 1⟩
abbrev Fld.spdiStatLost : FieldRef := ⟨0x4044, 3, 1⟩
abbrev Fld.spdiStatValid : FieldRef := ⟨0x4044, 2, 1⟩
abbrev Fld.spdiStatNonpcm : FieldRef := ⟨0x4044, 1, 1⟩
abbrev Fld.spdiStatLock : FieldRef := ⟨0x4044, 0, 1⟩
abbrev Fld.audStartCtlStarted : FieldRef := ⟨0x4050, 10, 1⟩
abbrev Fld.audStartCtlWaiting : FieldRef := ⟨0x4050, 9, 1⟩
abbrev Fld.audStartCtlGo : FieldRef := ⟨0x4050, 8, 1⟩
abbrev Fld.audStartCtlRamp : FieldRef := ⟨0x4050, 6, 1⟩
abbrev Fld.audStartCtlTrig : FieldRef := ⟨0x4050, 4, 2⟩
abbrev Fld.audStartCtlArm : FieldRef := ⟨0x4050, 0, 4⟩
abbrev Fld.audFadeCfgRec : FieldRef := ⟨0x4054, 16, 1⟩
abbrev Fld.audFadeCfgRamp : FieldRef := ⟨0x4054, 8, 4⟩
abbrev Fld.audFadeCfgFade : FieldRef := ⟨0x4054, 0, 4⟩
abbrev Fld.tagCtlAckMax : FieldRef := ⟨0x4800, 24, 5⟩
abbrev Fld.tagCtlLbtThresh : FieldRef := ⟨0x4800, 16, 8⟩
abbrev Fld.tagCtlLbtTime : FieldRef := ⟨0x4800, 8, 8⟩
abbrev Fld.tagCtlLbtTries : FieldRef := ⟨0x4800, 4, 4⟩
abbrev Fld.tagCtlLbtEn : FieldRef := ⟨0x4800, 1, 1⟩
abbrev Fld.tagCtlEn : FieldRef := ⟨0x4800, 0, 1⟩
abbrev Fld.tagBandBand : FieldRef := ⟨0x4804, 0, 2⟩
abbrev Fld.tagChanMaskMask : FieldRef := ⟨0x4808, 0, 32⟩
abbrev Fld.tagDutyBudgetMs : FieldRef := ⟨0x480C, 0, 22⟩
abbrev Fld.tagDutyUsedRefused : FieldRef := ⟨0x4810, 24, 8⟩
abbrev Fld.tagDutyUsedUsed : FieldRef := ⟨0x4810, 0, 22⟩
abbrev Fld.tagSyncSync : FieldRef := ⟨0x4814, 0, 32⟩
abbrev Fld.storeCtlBanksLost : FieldRef := ⟨0x5000, 24, 3⟩
abbrev Fld.storeCtlDepthCut : FieldRef := ⟨0x5000, 20, 2⟩
abbrev Fld.storeCtlMigrating : FieldRef := ⟨0x5000, 9, 1⟩
abbrev Fld.storeCtlNoTiles : FieldRef := ⟨0x5000, 8, 1⟩
abbrev Fld.storeCtlCeRec : FieldRef := ⟨0x5000, 0, 1⟩
abbrev Fld.arbModeMode : FieldRef := ⟨0x5004, 0, 4⟩
abbrev Fld.arbHoldViolLast : FieldRef := ⟨0x5008, 28, 4⟩
abbrev Fld.arbHoldViolViol : FieldRef := ⟨0x5008, 17, 9⟩
abbrev Fld.arbHoldViolCount : FieldRef := ⟨0x5008, 0, 8⟩
abbrev Fld.arbStitchMaxSpan : FieldRef := ⟨0x500C, 16, 11⟩
abbrev Fld.arbStitchMaxBeats : FieldRef := ⟨0x500C, 0, 5⟩
abbrev Fld.refreshStatDebtMax : FieldRef := ⟨0x5010, 24, 4⟩
abbrev Fld.refreshStatBand : FieldRef := ⟨0x5010, 16, 3⟩
abbrev Fld.refreshStatTemp : FieldRef := ⟨0x5010, 8, 8⟩
abbrev Fld.refreshStatOvertemp : FieldRef := ⟨0x5010, 2, 1⟩
abbrev Fld.refreshStatSelf : FieldRef := ⟨0x5010, 1, 1⟩
abbrev Fld.scrubCtlPeriod : FieldRef := ⟨0x5014, 0, 2⟩
abbrev Fld.scrubStatPasses : FieldRef := ⟨0x5018, 16, 16⟩
abbrev Fld.scrubStatLate : FieldRef := ⟨0x5018, 2, 1⟩
abbrev Fld.scrubStatActive : FieldRef := ⟨0x5018, 1, 1⟩
abbrev Fld.eccCeCntCount : FieldRef := ⟨0x5020, 0, 32⟩
abbrev Fld.eccUeCntCount : FieldRef := ⟨0x5024, 0, 32⟩
abbrev Fld.bankRetiredBanks : FieldRef := ⟨0x5028, 0, 8⟩
abbrev Fld.laceShapeY : FieldRef := ⟨0x5800, 16, 5⟩
abbrev Fld.laceShapeX : FieldRef := ⟨0x5800, 8, 5⟩
abbrev Fld.laceShapeKind : FieldRef := ⟨0x5800, 0, 3⟩
abbrev Fld.laceEpochStaleDrop : FieldRef := ⟨0x5804, 24, 8⟩
abbrev Fld.laceEpochForming : FieldRef := ⟨0x5804, 17, 1⟩
abbrev Fld.laceEpochBroken : FieldRef := ⟨0x5804, 16, 1⟩
abbrev Fld.laceEpochEpoch : FieldRef := ⟨0x5804, 0, 16⟩
abbrev Fld.laceMembersLoMask : FieldRef := ⟨0x5808, 0, 32⟩
abbrev Fld.laceMembersHiMask : FieldRef := ⟨0x580C, 0, 32⟩
abbrev Fld.lnkStatDownCnt (n : Nat) : FieldRef := ⟨0x5840 + 0x40 * n, 24, 8⟩
abbrev Fld.lnkStatDiscard (n : Nat) : FieldRef := ⟨0x5840 + 0x40 * n, 16, 8⟩
abbrev Fld.lnkStatNoHead (n : Nat) : FieldRef := ⟨0x5840 + 0x40 * n, 11, 1⟩
abbrev Fld.lnkStatGaveUp (n : Nat) : FieldRef := ⟨0x5840 + 0x40 * n, 10, 1⟩
abbrev Fld.lnkStatDownEv (n : Nat) : FieldRef := ⟨0x5840 + 0x40 * n, 8, 1⟩
abbrev Fld.lnkStatInEpoch (n : Nat) : FieldRef := ⟨0x5840 + 0x40 * n, 3, 1⟩
abbrev Fld.lnkStatState (n : Nat) : FieldRef := ⟨0x5840 + 0x40 * n, 0, 3⟩
abbrev Fld.lnkLanesErr1 (n : Nat) : FieldRef := ⟨0x5844 + 0x40 * n, 24, 8⟩
abbrev Fld.lnkLanesErr0 (n : Nat) : FieldRef := ⟨0x5844 + 0x40 * n, 16, 8⟩
abbrev Fld.lnkLanesSkew (n : Nat) : FieldRef := ⟨0x5844 + 0x40 * n, 8, 8⟩
abbrev Fld.lnkLanesInverted (n : Nat) : FieldRef := ⟨0x5844 + 0x40 * n, 4, 2⟩
abbrev Fld.lnkLanesRetired (n : Nat) : FieldRef := ⟨0x5844 + 0x40 * n, 2, 2⟩
abbrev Fld.lnkLanesActive (n : Nat) : FieldRef := ⟨0x5844 + 0x40 * n, 0, 2⟩
abbrev Fld.lnkCrcCntCount (n : Nat) : FieldRef := ⟨0x5848 + 0x40 * n, 0, 32⟩
abbrev Fld.lnkReplayCntCount (n : Nat) : FieldRef := ⟨0x584C + 0x40 * n, 0, 32⟩
abbrev Fld.lnkPartnerValid (n : Nat) : FieldRef := ⟨0x5850 + 0x40 * n, 31, 1⟩
abbrev Fld.lnkPartnerHead (n : Nat) : FieldRef := ⟨0x5850 + 0x40 * n, 16, 1⟩
abbrev Fld.lnkPartnerMember (n : Nat) : FieldRef := ⟨0x5850 + 0x40 * n, 8, 6⟩
abbrev Fld.lnkPartnerLink (n : Nat) : FieldRef := ⟨0x5850 + 0x40 * n, 0, 2⟩
abbrev Fld.exchCtlResRec : FieldRef := ⟨0x6000, 1, 1⟩
abbrev Fld.exchCtlDropContam : FieldRef := ⟨0x6000, 0, 1⟩
abbrev Fld.exchStatOwned : FieldRef := ⟨0x6004, 24, 6⟩
abbrev Fld.exchStatSrcDrop : FieldRef := ⟨0x6004, 10, 1⟩
abbrev Fld.exchStatLate : FieldRef := ⟨0x6004, 9, 1⟩
abbrev Fld.exchStatNack : FieldRef := ⟨0x6004, 8, 1⟩
abbrev Fld.exchStatRun1 : FieldRef := ⟨0x6004, 3, 1⟩
abbrev Fld.exchStatDef1 : FieldRef := ⟨0x6004, 2, 1⟩
abbrev Fld.exchStatRun0 : FieldRef := ⟨0x6004, 1, 1⟩
abbrev Fld.exchStatDef0 : FieldRef := ⟨0x6004, 0, 1⟩
abbrev Fld.exchResFaultCntTileNack : FieldRef := ⟨0x6008, 16, 16⟩
abbrev Fld.exchResFaultCntAddCorr : FieldRef := ⟨0x6008, 8, 8⟩
abbrev Fld.exchResFaultCntAddFault : FieldRef := ⟨0x6008, 0, 8⟩
abbrev Fld.exchLaneMapAddRetired : FieldRef := ⟨0x600C, 31, 1⟩
abbrev Fld.exchLaneMapSpareUsed : FieldRef := ⟨0x600C, 24, 1⟩
abbrev Fld.exchLaneMapSpareFor : FieldRef := ⟨0x600C, 16, 4⟩
abbrev Fld.exchLaneMapRetired : FieldRef := ⟨0x600C, 0, 9⟩
abbrev Fld.exchGapCntCount : FieldRef := ⟨0x6010, 0, 32⟩
abbrev Fld.svcCtlAggS : FieldRef := ⟨0x6800, 8, 8⟩
abbrev Fld.svcCtlObjBody : FieldRef := ⟨0x6800, 3, 1⟩
abbrev Fld.svcCtlNoticeApply : FieldRef := ⟨0x6800, 2, 1⟩
abbrev Fld.svcCtlAddNew : FieldRef := ⟨0x6800, 1, 1⟩
abbrev Fld.svcCtlEn : FieldRef := ⟨0x6800, 0, 1⟩
abbrev Fld.svcRosterBaseAddr : FieldRef := ⟨0x6804, 0, 32⟩
abbrev Fld.svcRosterSizeCount : FieldRef := ⟨0x6808, 14, 18⟩
abbrev Fld.svcRosterSizeLog2 : FieldRef := ⟨0x6808, 0, 5⟩
abbrev Fld.svcRecallCntCount : FieldRef := ⟨0x680C, 0, 15⟩
abbrev Fld.pwrLatTolUs : FieldRef := ⟨0x1000, 0, 32⟩
abbrev Fld.pwrCtlTimer : FieldRef := ⟨0x1004, 16, 16⟩
abbrev Fld.pwrCtlDwell : FieldRef := ⟨0x1004, 8, 8⟩
abbrev Fld.pwrCtlWakeNEn : FieldRef := ⟨0x1004, 4, 1⟩
abbrev Fld.pwrCtlRetainLinks : FieldRef := ⟨0x1004, 3, 1⟩
abbrev Fld.pwrCtlRetainRef : FieldRef := ⟨0x1004, 2, 1⟩
abbrev Fld.pwrCtlSleepOk : FieldRef := ⟨0x1004, 0, 1⟩
abbrev Fld.pwrStateHold : FieldRef := ⟨0x1008, 16, 13⟩
abbrev Fld.pwrStateDeepest : FieldRef := ⟨0x1008, 8, 3⟩
abbrev Fld.pwrStateRest : FieldRef := ⟨0x1008, 7, 1⟩
abbrev Fld.pwrStateLast : FieldRef := ⟨0x1008, 4, 3⟩
abbrev Fld.pwrStateState : FieldRef := ⟨0x1008, 0, 3⟩
abbrev Fld.pwrNextLeadUs : FieldRef := ⟨0x100C, 0, 32⟩
abbrev Fld.pwrWakeSrcSrc : FieldRef := ⟨0x1010, 0, 12⟩
abbrev Fld.fltStatProtect : FieldRef := ⟨0x7000, 11, 1⟩
abbrev Fld.fltStatRetire : FieldRef := ⟨0x7000, 10, 1⟩
abbrev Fld.fltStatFailure : FieldRef := ⟨0x7000, 9, 1⟩
abbrev Fld.fltStatSensor : FieldRef := ⟨0x7000, 8, 1⟩
abbrev Fld.fltStatRoster : FieldRef := ⟨0x7000, 7, 1⟩
abbrev Fld.fltStatAdd : FieldRef := ⟨0x7000, 6, 1⟩
abbrev Fld.fltStatHold : FieldRef := ⟨0x7000, 5, 1⟩
abbrev Fld.fltStatSupply : FieldRef := ⟨0x7000, 4, 1⟩
abbrev Fld.fltStatOvertemp : FieldRef := ⟨0x7000, 3, 1⟩
abbrev Fld.fltStatEccUe : FieldRef := ⟨0x7000, 2, 1⟩
abbrev Fld.fltStatClock : FieldRef := ⟨0x7000, 1, 1⟩
abbrev Fld.fltStatRail : FieldRef := ⟨0x7000, 0, 1⟩
abbrev Fld.fltRetireMap0Link : FieldRef := ⟨0x7010, 24, 4⟩
abbrev Fld.fltRetireMap0Lane : FieldRef := ⟨0x7010, 16, 8⟩
abbrev Fld.fltRetireMap0Synth : FieldRef := ⟨0x7010, 8, 5⟩
abbrev Fld.fltRetireMap0Path : FieldRef := ⟨0x7010, 0, 4⟩
abbrev Fld.fltRetireMap1Adder : FieldRef := ⟨0x7014, 16, 9⟩
abbrev Fld.fltRetireMap1Bank : FieldRef := ⟨0x7014, 0, 8⟩
abbrev Fld.fltRetireMap2Req : FieldRef := ⟨0x7018, 1, 9⟩
abbrev Fld.fltRetireMap3Count : FieldRef := ⟨0x701C, 24, 8⟩
abbrev Fld.fltRetireMap3AddRetired : FieldRef := ⟨0x701C, 16, 1⟩
abbrev Fld.fltRetireMap3Uid : FieldRef := ⟨0x701C, 0, 16⟩
abbrev Fld.fltTransientCntCount : FieldRef := ⟨0x7020, 0, 32⟩
abbrev Fld.fltPolicyW (n : Nat) : FieldRef := ⟨0x7040 + 0x4 * n, 16, 16⟩
abbrev Fld.fltPolicyK (n : Nat) : FieldRef := ⟨0x7040 + 0x4 * n, 0, 8⟩
abbrev Fld.fltPolicyTrec (n : Nat) : FieldRef := ⟨0x7040 + 0x4 * n, 8, 1⟩
abbrev Fld.telemIntervalMs : FieldRef := ⟨0x7060, 0, 20⟩
abbrev Fld.tempValid (n : Nat) : FieldRef := ⟨0x7800 + 0x4 * n, 31, 1⟩
abbrev Fld.tempFailed (n : Nat) : FieldRef := ⟨0x7800 + 0x4 * n, 30, 1⟩
abbrev Fld.tempStale (n : Nat) : FieldRef := ⟨0x7800 + 0x4 * n, 29, 1⟩
abbrev Fld.tempTemp (n : Nat) : FieldRef := ⟨0x7800 + 0x4 * n, 0, 16⟩
abbrev Fld.supplyValid (n : Nat) : FieldRef := ⟨0x7820 + 0x4 * n, 31, 1⟩
abbrev Fld.supplyLow (n : Nat) : FieldRef := ⟨0x7820 + 0x4 * n, 30, 1⟩
abbrev Fld.supplyHigh (n : Nat) : FieldRef := ⟨0x7820 + 0x4 * n, 29, 1⟩
abbrev Fld.supplyMv (n : Nat) : FieldRef := ⟨0x7820 + 0x4 * n, 0, 16⟩

/-- Register entries of the TOP block. -/
def regsTop : List RegRow := [
  -- TOP_PART: PART
  ⟨0x0000, 0x0, 1, 0x00007340, [⟨0, 32, .ro, []⟩]⟩,
  -- TOP_STEP: LETTER, DIGIT
  ⟨0x0004, 0x0, 1, 0x000000B1, [⟨4, 4, .ro, []⟩, ⟨0, 4, .ro, []⟩]⟩,
  -- TOP_STRAPS: IO_3V3, BOOTSRC, COMPAT6, HEAD, ID
  ⟨0x0008, 0x0, 1, 0x00000000, [⟨16, 1, .ro, []⟩, ⟨12, 2, .ro, []⟩, ⟨9, 1, .ro, []⟩, ⟨8, 1, .ro, []⟩, ⟨0, 6, .ro, []⟩]⟩,
  -- TOP_CFG: COMPAT6
  ⟨0x000C, 0x0, 1, 0x00000000, [⟨0, 1, .rw, []⟩]⟩,
  -- TOP_STATUS: DOZE_ACC, CFG_REJ, BLK_ACC, BE_ERR, ENC_ERR, RSVD_ACC, RING_EN, HEAD, UNTESTED
  ⟨0x0010, 0x0, 1, 0x00000000, [⟨13, 1, .w1c, []⟩, ⟨12, 1, .w1c, []⟩, ⟨11, 1, .w1c, []⟩, ⟨10, 1, .w1c, []⟩, ⟨9, 1, .w1c, []⟩, ⟨8, 1, .w1c, []⟩, ⟨2, 1, .ro, []⟩, ⟨1, 1, .ro, []⟩, ⟨0, 1, .ro, []⟩]⟩,
  -- TOP_BLOCK_RESET: EXCH, LNK, TAG, AUD, BCST, CAL, SAMP, RADIO, PIP, HIF
  ⟨0x0014, 0x0, 1, 0x00000000, [⟨24, 1, .rw, []⟩, ⟨22, 1, .rw, []⟩, ⟨18, 1, .rw, []⟩, ⟨16, 1, .rw, []⟩, ⟨14, 1, .rw, []⟩, ⟨12, 1, .rw, []⟩, ⟨10, 1, .rw, []⟩, ⟨8, 1, .rw, []⟩, ⟨6, 1, .rw, []⟩, ⟨2, 1, .rw, []⟩]⟩,
  -- TOP_SOFT_RESET: KEY, GO
  ⟨0x0018, 0x0, 1, 0x00000000, [⟨16, 16, .wo, []⟩, ⟨0, 1, .wo, []⟩]⟩,
  -- TOP_UNIQUE_LO: UID
  ⟨0x0020, 0x0, 1, 0x00000000, [⟨0, 32, .ro, []⟩]⟩,
  -- TOP_UNIQUE_HI: UID
  ⟨0x0024, 0x0, 1, 0x00000000, [⟨0, 32, .ro, []⟩]⟩,
  -- TOP_STALE_CNT: COUNT
  ⟨0x0028, 0x0, 1, 0x00000000, [⟨0, 32, .ro, []⟩]⟩,
  -- TOP_ERR_ADDR: CAUSE, WRITE, PORT, OFFSET
  ⟨0x002C, 0x0, 1, 0x00000000, [⟨28, 4, .ro, []⟩, ⟨24, 1, .ro, []⟩, ⟨16, 2, .ro, []⟩, ⟨0, 16, .ro, []⟩]⟩,
  -- TOP_SCRATCHn: DATA
  ⟨0x0030, 0x4, 4, 0x00000000, [⟨0, 32, .rw, []⟩]⟩]

/-- Register entries of the BOOT block. -/
def regsBoot : List RegRow := [
  -- BOOT_CTL: FORCE_UNTESTED, START
  ⟨0x0400, 0x0, 1, 0x00000000, [⟨1, 1, .rw, []⟩, ⟨0, 1, .sc, []⟩]⟩,
  -- BOOT_STAT: HELLO_CNT, SOURCE, WIN_ERR, PUSHED, PHASE
  ⟨0x0404, 0x0, 1, 0x00000000, [⟨24, 8, .ro, []⟩, ⟨16, 2, .ro, []⟩, ⟨9, 1, .w1c, []⟩, ⟨8, 1, .ro, []⟩, ⟨0, 4, .ro, []⟩]⟩,
  -- BOOT_SVC_ADDR_LO: ADDR
  ⟨0x0408, 0x0, 1, 0x00000000, [⟨6, 26, .rw, []⟩]⟩,
  -- BOOT_SVC_ADDR_HI: ADDR
  ⟨0x040C, 0x0, 1, 0x00000000, [⟨0, 32, .rw, []⟩]⟩,
  -- BOOT_SVC_LEN: LEN
  ⟨0x0410, 0x0, 1, 0x00000000, [⟨0, 32, .rw, []⟩]⟩,
  -- BOOT_SEQ_ADDR_LO: ADDR
  ⟨0x0414, 0x0, 1, 0x00000000, [⟨6, 26, .rw, []⟩]⟩,
  -- BOOT_SEQ_ADDR_HI: ADDR
  ⟨0x0418, 0x0, 1, 0x00000000, [⟨0, 32, .rw, []⟩]⟩,
  -- BOOT_SEQ_LEN: LEN
  ⟨0x041C, 0x0, 1, 0x00000000, [⟨0, 32, .rw, []⟩]⟩,
  -- BOOT_SVC_VER: MAJOR, MINOR, PATCH
  ⟨0x0420, 0x0, 1, 0x00000000, [⟨24, 8, .ro, []⟩, ⟨16, 8, .ro, []⟩, ⟨0, 16, .ro, []⟩]⟩,
  -- BOOT_SEQ_VER: MAJOR, MINOR, PATCH
  ⟨0x0424, 0x0, 1, 0x00000000, [⟨24, 8, .ro, []⟩, ⟨16, 8, .ro, []⟩, ⟨0, 16, .ro, []⟩]⟩,
  -- BOOT_IFG: REQ_MAX, REQ_MIN, IFG_SEQ, IFG_SVC
  ⟨0x0428, 0x0, 1, 0x00000000, [⟨24, 8, .ro, []⟩, ⟨16, 8, .ro, []⟩, ⟨8, 8, .ro, []⟩, ⟨0, 8, .ro, []⟩]⟩,
  -- BOOT_MISMATCH: REFUSED, FETCH, MEMBER, IMAGE, CODE
  ⟨0x042C, 0x0, 1, 0x00000000, [⟨17, 1, .w1c, []⟩, ⟨16, 1, .ro, []⟩, ⟨8, 6, .ro, []⟩, ⟨4, 2, .ro, []⟩, ⟨0, 4, .ro, []⟩]⟩,
  -- BOOT_WIN_ADDR: TARGET, OFFSET
  ⟨0x0430, 0x0, 1, 0x00000000, [⟨30, 2, .rw, []⟩, ⟨2, 19, .rw, []⟩]⟩,
  -- BOOT_SVC_CRC: CRC
  ⟨0x0434, 0x0, 1, 0x00000000, [⟨0, 32, .ro, []⟩]⟩,
  -- BOOT_SEQ_CRC: CRC
  ⟨0x0438, 0x0, 1, 0x00000000, [⟨0, 32, .ro, []⟩]⟩,
  -- BOOT_WIN_DATA: DATA
  ⟨0x0500, 0x4, 64, 0x00000000, [⟨0, 32, .wo, []⟩]⟩]

/-- Register entries of the HIF block. -/
def regsHif : List RegRow := [
  -- HIF_CTL: ENGINE_EN
  ⟨0x0800, 0x0, 1, 0x00000000, [⟨0, 1, .rw, []⟩]⟩,
  -- HIF_STAT: ERR_RING, FETCH_ERR, CFG_ERR, DB_ERR, NOT_HEAD, ACTIVE
  ⟨0x0804, 0x0, 1, 0x00000000, [⟨16, 5, .ro, []⟩, ⟨4, 1, .w1c, []⟩, ⟨3, 1, .w1c, []⟩, ⟨2, 1, .w1c, []⟩, ⟨1, 1, .w1c, []⟩, ⟨0, 1, .ro, []⟩]⟩,
  -- HIF_RINGn_BASE_LO: ADDR
  ⟨0x0810, 0x20, 24, 0x00000000, [⟨12, 20, .rw, []⟩]⟩,
  -- HIF_RINGn_BASE_HI: ADDR
  ⟨0x0814, 0x20, 24, 0x00000000, [⟨0, 32, .rw, []⟩]⟩,
  -- HIF_RINGn_SIZE: LOG2
  ⟨0x0818, 0x20, 24, 0x00000000, [⟨0, 5, .rw, [(4, 16)]⟩]⟩,
  -- HIF_RINGn_CTL: TYPE_MASK, HOLDOFF, HALTED, ACTIVE, EN
  ⟨0x081C, 0x20, 24, 0x00000000, [⟨17, 15, .rw, []⟩, ⟨8, 8, .rw, []⟩, ⟨3, 1, .ro, []⟩, ⟨2, 1, .ro, []⟩, ⟨0, 1, .rw, []⟩]⟩,
  -- HIF_RINGn_HEAD: PHASE, PRODUCER
  ⟨0x0820, 0x20, 24, 0x00000000, [⟨16, 1, .ro, []⟩, ⟨0, 16, .ro, []⟩]⟩,
  -- HIF_RINGn_TAIL: CONSUMER
  ⟨0x0824, 0x20, 24, 0x00000000, [⟨0, 16, .ro, []⟩]⟩,
  -- HIF_MSIX_MAPn: EN_3, VECTOR_3, EN_2, VECTOR_2, EN_1, VECTOR_1, EN_0, VECTOR_0
  ⟨0x0B10, 0x4, 6, 0x00000000, [⟨31, 1, .rw, []⟩, ⟨24, 5, .rw, []⟩, ⟨23, 1, .rw, []⟩, ⟨16, 5, .rw, []⟩, ⟨15, 1, .rw, []⟩, ⟨8, 5, .rw, []⟩, ⟨7, 1, .rw, []⟩, ⟨0, 5, .rw, []⟩]⟩,
  -- HIF_DROP_CNTn: COUNT
  ⟨0x0B40, 0x4, 24, 0x00000000, [⟨0, 32, .ro, []⟩]⟩]

/-- Register entries of the SPI block. -/
def regsSpi : List RegRow := [
  -- SPI_CFG: IE_ERR, IE_READY, IE_FAULT, IE_BOOT
  ⟨0x0C00, 0x0, 1, 0x00000000, [⟨3, 1, .rw, []⟩, ⟨2, 1, .rw, []⟩, ⟨1, 1, .rw, []⟩, ⟨0, 1, .rw, []⟩]⟩,
  -- SPI_STAT: LAST_CMD, READY, FAULT, BOOT_DONE, LATE, ALIGN, BADCMD, SHORT, PARTIAL
  ⟨0x0C04, 0x0, 1, 0x00000000, [⟨24, 8, .ro, []⟩, ⟨10, 1, .w1c, []⟩, ⟨9, 1, .w1c, []⟩, ⟨8, 1, .w1c, []⟩, ⟨4, 1, .w1c, []⟩, ⟨3, 1, .w1c, []⟩, ⟨2, 1, .w1c, []⟩, ⟨1, 1, .w1c, []⟩, ⟨0, 1, .w1c, []⟩]⟩,
  -- SPI_FRAME_CNT: COUNT
  ⟨0x0C08, 0x0, 1, 0x00000000, [⟨0, 32, .ro, []⟩]⟩]

/-- Register entries of the PWR block. -/
def regsPwr : List RegRow := [
  -- PWR_LAT_TOL: US
  ⟨0x1000, 0x0, 1, 0x00000000, [⟨0, 32, .rw, []⟩]⟩,
  -- PWR_CTL: TIMER, DWELL, WAKE_N_EN, RETAIN_LINKS, RETAIN_REF, SLEEP_OK
  ⟨0x1004, 0x0, 1, 0x00000000, [⟨16, 16, .rw, []⟩, ⟨8, 8, .rw, []⟩, ⟨4, 1, .rw, []⟩, ⟨3, 1, .rw, []⟩, ⟨2, 1, .rw, []⟩, ⟨0, 1, .rw, []⟩]⟩,
  -- PWR_STATE: HOLD, DEEPEST, REST, LAST, STATE
  ⟨0x1008, 0x0, 1, 0x00000000, [⟨16, 13, .ro, []⟩, ⟨8, 3, .ro, []⟩, ⟨7, 1, .ro, []⟩, ⟨4, 3, .ro, []⟩, ⟨0, 3, .ro, []⟩]⟩,
  -- PWR_NEXT_LEAD: US
  ⟨0x100C, 0x0, 1, 0xFFFFFFFF, [⟨0, 32, .ro, []⟩]⟩,
  -- PWR_WAKE_SRC: SRC
  ⟨0x1010, 0x0, 1, 0x00000000, [⟨0, 12, .w1c, []⟩]⟩]

/-- Register entries of the CLK block. -/
def regsClk : List RegRow := [
  -- CLK_REF_SEL: REJ, XTAL_RUN, REF_DET, SEL
  ⟨0x1400, 0x0, 1, 0x00000000, [⟨16, 1, .w1c, []⟩, ⟨9, 1, .ro, []⟩, ⟨8, 1, .ro, []⟩, ⟨0, 1, .rw, []⟩]⟩,
  -- CLK_SYS_CTL: XTAL_KEEP, NO_REC
  ⟨0x1404, 0x0, 1, 0x00000000, [⟨1, 1, .rw, []⟩, ⟨0, 1, .rw, []⟩]⟩,
  -- CLK_SYS_STAT: LOSS_CNT, GATED, LOR, LOL, LOCK
  ⟨0x1408, 0x0, 1, 0x00000000, [⟨24, 8, .ro, []⟩, ⟨3, 1, .ro, []⟩, ⟨2, 1, .w1c, []⟩, ⟨1, 1, .w1c, []⟩, ⟨0, 1, .ro, []⟩]⟩,
  -- CLK_SYNC_CTL: IN_IGNORE, OUT_DIS, FIRE
  ⟨0x140C, 0x0, 1, 0x00000000, [⟨2, 1, .rw, []⟩, ⟨1, 1, .rw, []⟩, ⟨0, 1, .sc, []⟩]⟩,
  -- CLK_SYNC_STAT: COUNT, MISSED, GLITCH, UNARMED, STEPPED, ALIGNED
  ⟨0x1410, 0x0, 1, 0x00000000, [⟨16, 16, .ro, []⟩, ⟨4, 1, .w1c, []⟩, ⟨3, 1, .w1c, []⟩, ⟨2, 1, .w1c, []⟩, ⟨1, 1, .w1c, []⟩, ⟨0, 1, .ro, []⟩]⟩,
  -- CLK_AUD_CTL: MCLK, FAMILY, SRC
  ⟨0x1414, 0x0, 1, 0x00000000, [⟨10, 2, .rw, []⟩, ⟨8, 1, .rw, []⟩, ⟨0, 3, .rw, [(0, 5)]⟩]⟩,
  -- CLK_AUD_STAT: PPM, EXT_LOST, LOR, LOL, HOLDOVER, GATED, LOCK
  ⟨0x1418, 0x0, 1, 0x00000000, [⟨16, 16, .ro, []⟩, ⟨5, 1, .w1c, []⟩, ⟨4, 1, .w1c, []⟩, ⟨3, 1, .w1c, []⟩, ⟨2, 1, .ro, []⟩, ⟨1, 1, .ro, []⟩, ⟨0, 1, .ro, []⟩]⟩]

/-- Register entries of the PIP block. -/
def regsPip : List RegRow := [
  -- PIP_SRC: QERR, STOPPED, LOCKED, INVERT, PATH, SRC
  ⟨0x1800, 0x0, 1, 0x00000000, [⟨18, 1, .w1c, []⟩, ⟨17, 1, .ro, []⟩, ⟨16, 1, .ro, []⟩, ⟨6, 1, .rw, []⟩, ⟨4, 2, .rw, []⟩, ⟨0, 3, .rw, []⟩]⟩,
  -- PIP_CTL: JUMP_LIMIT, GUARD, FILTER, TIME_ALIGN, Z_ARM, QX4
  ⟨0x1804, 0x0, 1, 0x00000000, [⟨16, 16, .rw, []⟩, ⟨8, 8, .rw, []⟩, ⟨4, 2, .rw, []⟩, ⟨3, 1, .rw, []⟩, ⟨1, 1, .sc, []⟩, ⟨0, 1, .rw, []⟩]⟩,
  -- PIP_COUNT_LO: COUNT
  ⟨0x1808, 0x0, 1, 0x00000000, [⟨0, 32, .rw, []⟩]⟩,
  -- PIP_COUNT_HI: COUNT
  ⟨0x180C, 0x0, 1, 0x00000000, [⟨0, 32, .rw, []⟩]⟩,
  -- PIP_FRAC: FRAC
  ⟨0x1810, 0x0, 1, 0x00000000, [⟨0, 16, .ro, []⟩]⟩,
  -- PIP_RATE: DIR, PERIOD
  ⟨0x1814, 0x0, 1, 0x00000000, [⟨31, 1, .ro, []⟩, ⟨0, 31, .ro, []⟩]⟩,
  -- PIP_BACKSTEP_CNT: COUNT
  ⟨0x1818, 0x0, 1, 0x00000000, [⟨0, 32, .ro, []⟩]⟩]

/-- Register entries of the RADIO block. -/
def regsRadio : List RegRow := [
  -- LOn_CTL: FORCE_CAL, TUNE, TARGET
  ⟨0x2000, 0x20, 4, 0x00000000, [⟨9, 1, .wo, []⟩, ⟨8, 1, .sc, []⟩, ⟨0, 3, .rw, []⟩]⟩,
  -- LOn_FREQ: HZ
  ⟨0x2004, 0x20, 4, 0x00000000, [⟨0, 32, .rw, []⟩]⟩,
  -- LOn_STAT: DIV, CAL_TEMP, RETIRED, CAL_DUE, LOR, LOL, LOCK, BUSY, STATE
  ⟨0x2008, 0x20, 4, 0x00000000, [⟨24, 8, .ro, []⟩, ⟨16, 8, .ro, []⟩, ⟨11, 1, .ro, []⟩, ⟨10, 1, .ro, []⟩, ⟨9, 1, .w1c, []⟩, ⟨8, 1, .w1c, []⟩, ⟨4, 1, .ro, []⟩, ⟨3, 1, .ro, []⟩, ⟨0, 3, .ro, []⟩]⟩,
  -- LOn_CALMODE: DTEMP, INVALIDATE, POLICY
  ⟨0x200C, 0x20, 4, 0x00000000, [⟨8, 8, .rw, []⟩, ⟨1, 1, .sc, []⟩, ⟨0, 1, .rw, []⟩]⟩,
  -- LOT_CTL: FORCE_CAL, TUNE, TARGET
  ⟨0x2080, 0x0, 1, 0x00000000, [⟨9, 1, .wo, []⟩, ⟨8, 1, .sc, []⟩, ⟨0, 3, .rw, []⟩]⟩,
  -- LOT_FREQ: HZ
  ⟨0x2084, 0x0, 1, 0x00000000, [⟨0, 32, .rw, []⟩]⟩,
  -- LOT_STAT: DIV, CAL_TEMP, RETIRED, CAL_DUE, LOR, LOL, LOCK, BUSY, STATE
  ⟨0x2088, 0x0, 1, 0x00000000, [⟨24, 8, .ro, []⟩, ⟨16, 8, .ro, []⟩, ⟨11, 1, .ro, []⟩, ⟨10, 1, .ro, []⟩, ⟨9, 1, .w1c, []⟩, ⟨8, 1, .w1c, []⟩, ⟨4, 1, .ro, []⟩, ⟨3, 1, .ro, []⟩, ⟨0, 3, .ro, []⟩]⟩,
  -- LOT_CALMODE: DTEMP, INVALIDATE, POLICY
  ⟨0x208C, 0x0, 1, 0x00000000, [⟨8, 8, .rw, []⟩, ⟨1, 1, .sc, []⟩, ⟨0, 1, .rw, []⟩]⟩,
  -- PATHn_CTL: LNA, LO_SEL, INPUT, EN
  ⟨0x2100, 0x4, 4, 0x00000000, [⟨6, 2, .rw, [(0, 2)]⟩, ⟨4, 1, .rw, []⟩, ⟨1, 1, .rw, []⟩, ⟨0, 1, .rw, []⟩]⟩,
  -- RADIO_STATE: BLANKED, CLEAN, LOT, LO3, LO2, LO1, LO0
  ⟨0x2120, 0x0, 1, 0x00000000, [⟨24, 4, .ro, []⟩, ⟨20, 4, .ro, []⟩, ⟨16, 3, .ro, []⟩, ⟨12, 3, .ro, []⟩, ⟨8, 3, .ro, []⟩, ⟨4, 3, .ro, []⟩, ⟨0, 3, .ro, []⟩]⟩,
  -- TX_CTL: PA_HOLD, PA_LEAD, PA_EXT
  ⟨0x2130, 0x0, 1, 0x00000000, [⟨12, 4, .rw, []⟩, ⟨8, 4, .rw, []⟩, ⟨0, 1, .rw, []⟩]⟩,
  -- TX_POWER: LOCK, CAP, LEVEL
  ⟨0x2134, 0x0, 1, 0x00000000, [⟨31, 1, .rw, []⟩, ⟨16, 7, .rw, [(0, 68)]⟩, ⟨0, 7, .rw, [(0, 68)]⟩]⟩]

/-- Register entries of the SAMP block. -/
def regsSamp : List RegRow := [
  -- SAMP_CTL: FREEZE_MAX, OVR_REC, DEPTH, EN
  ⟨0x2800, 0x0, 1, 0x00000000, [⟨8, 6, .rw, []⟩, ⟨3, 1, .rw, []⟩, ⟨1, 2, .rw, []⟩, ⟨0, 1, .rw, []⟩]⟩,
  -- SAMP_OCTET_MASK_LO: MASK
  ⟨0x2808, 0x0, 1, 0x00000000, [⟨0, 32, .rw, []⟩]⟩,
  -- SAMP_OCTET_MASK_HI: MASK
  ⟨0x280C, 0x0, 1, 0x00000000, [⟨0, 32, .rw, []⟩]⟩,
  -- AGCn_CTL: CODE, MAX, MIN, MAN_CODE, MANUAL, TARGET, SENT_BEACON, SENT_DAB, SENT_TAG, FREEZE
  ⟨0x2810, 0x4, 4, 0x00000000, [⟨26, 6, .ro, []⟩, ⟨20, 6, .rw, []⟩, ⟨14, 6, .rw, []⟩, ⟨8, 6, .rw, []⟩, ⟨7, 1, .rw, []⟩, ⟨4, 3, .rw, []⟩, ⟨3, 1, .rw, []⟩, ⟨2, 1, .rw, []⟩, ⟨1, 1, .rw, []⟩, ⟨0, 1, .rw, []⟩]⟩,
  -- OVR_STAT: AT_MIN, FROZEN, CONTAM, OVR
  ⟨0x2820, 0x0, 1, 0x00000000, [⟨12, 4, .ro, []⟩, ⟨8, 4, .ro, []⟩, ⟨4, 4, .ro, []⟩, ⟨0, 4, .w1c, []⟩]⟩,
  -- OVRn_CNT: COUNT
  ⟨0x2830, 0x4, 4, 0x00000000, [⟨0, 32, .ro, []⟩]⟩]

/-- Register entries of the CAL block. -/
def regsCal : List RegRow := [
  -- CAL_CTL: REF_MEMBER, REF_PATH, STEP_LIM, REC, SLOTTED, NEW_BAND, AUTO_TEMP, FREEZE, EN
  ⟨0x3000, 0x0, 1, 0x00000000, [⟨24, 6, .rw, []⟩, ⟨16, 2, .rw, []⟩, ⟨12, 2, .rw, []⟩, ⟨11, 1, .rw, []⟩, ⟨10, 1, .rw, []⟩, ⟨9, 1, .rw, []⟩, ⟨8, 1, .rw, []⟩, ⟨4, 4, .rw, []⟩, ⟨0, 4, .rw, []⟩]⟩,
  -- CAL_DTEMP: DTEMP
  ⟨0x3004, 0x0, 1, 0x00000010, [⟨0, 8, .rw, [(2, 128)]⟩]⟩,
  -- CAL_STAT: ROUNDS, NO_SIGNAL, CLAMPED, DUE, PHASE
  ⟨0x3008, 0x0, 1, 0x00000000, [⟨16, 16, .ro, []⟩, ⟨12, 4, .w1c, []⟩, ⟨8, 4, .w1c, []⟩, ⟨4, 4, .ro, []⟩, ⟨0, 2, .ro, []⟩]⟩,
  -- CALn_DC_I: DC
  ⟨0x3100, 0x20, 4, 0x00000000, [⟨0, 20, .rw, []⟩]⟩,
  -- CALn_DC_Q: DC
  ⟨0x3104, 0x20, 4, 0x00000000, [⟨0, 20, .rw, []⟩]⟩,
  -- CALn_IQ_GAIN: VALUE
  ⟨0x3108, 0x20, 4, 0x00000000, [⟨0, 16, .rw, []⟩]⟩,
  -- CALn_IQ_PHASE: VALUE
  ⟨0x310C, 0x20, 4, 0x00000000, [⟨0, 16, .rw, []⟩]⟩,
  -- CALn_PATH_GAIN: PG
  ⟨0x3110, 0x20, 4, 0x00000000, [⟨0, 16, .rw, []⟩]⟩,
  -- CALn_PATH_PHASE: PP
  ⟨0x3114, 0x20, 4, 0x00000000, [⟨0, 16, .rw, []⟩]⟩,
  -- CALn_LAST_TEMP: VALID, TEMP
  ⟨0x3118, 0x20, 4, 0x00000000, [⟨31, 1, .ro, []⟩, ⟨0, 16, .ro, []⟩]⟩]

/-- Register entries of the BCST block. -/
def regsBcst : List RegRow := [
  -- BCST_CTL: BG_PATH, BG_EN, SW_REC, DAB_REC, RDS_REC, RBDS, MON_SRC
  ⟨0x3800, 0x0, 1, 0x00000000, [⟨10, 2, .rw, []⟩, ⟨9, 1, .rw, []⟩, ⟨7, 1, .rw, []⟩, ⟨6, 1, .rw, []⟩, ⟨5, 1, .rw, []⟩, ⟨4, 1, .rw, []⟩, ⟨0, 2, .rw, []⟩]⟩,
  -- BCST_STAT: LEVEL, QUAL, STALE, ANNOUNCE, PROBING, SWITCHING, STEREO, SYNC, PATH, MODE
  ⟨0x3804, 0x0, 1, 0x00000000, [⟨24, 8, .ro, []⟩, ⟨16, 8, .ro, []⟩, ⟨13, 1, .ro, []⟩, ⟨12, 1, .ro, []⟩, ⟨11, 1, .ro, []⟩, ⟨10, 1, .ro, []⟩, ⟨9, 1, .ro, []⟩, ⟨8, 1, .ro, []⟩, ⟨4, 2, .ro, []⟩, ⟨0, 2, .ro, []⟩]⟩,
  -- RDS_STAT: PI, PTY, TP, TA, MS, SYNC, BLER
  ⟨0x3808, 0x0, 1, 0x00000000, [⟨16, 16, .ro, []⟩, ⟨11, 5, .ro, []⟩, ⟨10, 1, .ro, []⟩, ⟨9, 1, .ro, []⟩, ⟨8, 1, .ro, []⟩, ⟨7, 1, .ro, []⟩, ⟨0, 7, .ro, []⟩]⟩,
  -- DAB_STAT: EID, FIB_ERR, AUD_ERR
  ⟨0x380C, 0x0, 1, 0x00000000, [⟨16, 16, .ro, []⟩, ⟨8, 8, .ro, []⟩, ⟨0, 8, .ro, []⟩]⟩]

/-- Register entries of the AUD block. -/
def regsAud : List RegRow := [
  -- SAPn_CTL: IN_EN, FSEL, WLEN, FMT, MASTER, EN
  ⟨0x4000, 0x8, 3, 0x00000000, [⟨8, 1, .rw, []⟩, ⟨6, 2, .rw, []⟩, ⟨4, 2, .rw, [(0, 2)]⟩, ⟨2, 2, .rw, [(0, 2)]⟩, ⟨1, 1, .rw, []⟩, ⟨0, 1, .rw, []⟩]⟩,
  -- SAPn_STAT: FILL, CFG_ERR, IN_LOST, OVERRUN, UNDERRUN, CLK_LOST, FADING, MUTED, CLK_OK, RUN
  ⟨0x4004, 0x8, 3, 0x00000000, [⟨16, 12, .ro, []⟩, ⟨9, 1, .w1c, []⟩, ⟨8, 1, .w1c, []⟩, ⟨7, 1, .w1c, []⟩, ⟨6, 1, .w1c, []⟩, ⟨5, 1, .w1c, []⟩, ⟨4, 1, .ro, []⟩, ⟨3, 1, .ro, []⟩, ⟨2, 1, .ro, []⟩, ⟨0, 1, .ro, []⟩]⟩,
  -- SPDO_CTL: CFG_ERR, CS_LOAD, FSEL, CHNUM, AUTO_FS, EN
  ⟨0x4020, 0x0, 1, 0x00000000, [⟨12, 1, .w1c, []⟩, ⟨8, 1, .sc, []⟩, ⟨4, 2, .rw, []⟩, ⟨2, 1, .rw, []⟩, ⟨1, 1, .rw, []⟩, ⟨0, 1, .rw, []⟩]⟩,
  -- SPDO_CSn: CS
  ⟨0x4024, 0x4, 6, 0x00000000, [⟨0, 32, .rw, []⟩]⟩,
  -- SPDI_CTL: IGNORE_V, EN
  ⟨0x4040, 0x0, 1, 0x00000000, [⟨1, 1, .rw, []⟩, ⟨0, 1, .rw, []⟩]⟩,
  -- SPDI_STAT: CS, RATE, BAD_V, PAR_ERR, LOST, VALID, NONPCM, LOCK
  ⟨0x4044, 0x0, 1, 0x00000000, [⟨16, 16, .ro, []⟩, ⟨8, 3, .ro, []⟩, ⟨5, 1, .w1c, []⟩, ⟨4, 1, .w1c, []⟩, ⟨3, 1, .w1c, []⟩, ⟨2, 1, .ro, []⟩, ⟨1, 1, .ro, []⟩, ⟨0, 1, .ro, []⟩]⟩,
  -- AUD_START_CTL: STARTED, WAITING, GO, RAMP, TRIG, ARM
  ⟨0x4050, 0x0, 1, 0x00000000, [⟨10, 1, .w1c, []⟩, ⟨9, 1, .ro, []⟩, ⟨8, 1, .sc, []⟩, ⟨6, 1, .rw, []⟩, ⟨4, 2, .rw, [(0, 2)]⟩, ⟨0, 4, .rw, []⟩]⟩,
  -- AUD_FADE_CFG: REC, RAMP, FADE
  ⟨0x4054, 0x0, 1, 0x00000402, [⟨16, 1, .rw, []⟩, ⟨8, 4, .rw, [(0, 6)]⟩, ⟨0, 4, .rw, [(0, 6)]⟩]⟩]

/-- Register entries of the TAG block. -/
def regsTag : List RegRow := [
  -- TAG_CTL: ACK_MAX, LBT_THRESH, LBT_TIME, LBT_TRIES, LBT_EN, EN
  ⟨0x4800, 0x0, 1, 0x00000000, [⟨24, 5, .rw, [(0, 16)]⟩, ⟨16, 8, .rw, [(0, 0), (50, 127)]⟩, ⟨8, 8, .rw, []⟩, ⟨4, 4, .rw, []⟩, ⟨1, 1, .rw, []⟩, ⟨0, 1, .rw, []⟩]⟩,
  -- TAG_BAND: BAND
  ⟨0x4804, 0x0, 1, 0x00000000, [⟨0, 2, .rw, [(0, 2)]⟩]⟩,
  -- TAG_CHAN_MASK: MASK
  ⟨0x4808, 0x0, 1, 0x00000000, [⟨0, 32, .rw, []⟩]⟩,
  -- TAG_DUTY_BUDGET: MS
  ⟨0x480C, 0x0, 1, 0x00000000, [⟨0, 22, .rw, [(0, 3600000)]⟩]⟩,
  -- TAG_DUTY_USED: REFUSED, USED
  ⟨0x4810, 0x0, 1, 0x00000000, [⟨24, 8, .ro, []⟩, ⟨0, 22, .ro, []⟩]⟩,
  -- TAG_SYNC: SYNC
  ⟨0x4814, 0x0, 1, 0x93D61C4B, [⟨0, 32, .rw, []⟩]⟩]

/-- Register entries of the STORE block. -/
def regsStore : List RegRow := [
  -- STORE_CTL: BANKS_LOST, DEPTH_CUT, MIGRATING, NO_TILES, CE_REC
  ⟨0x5000, 0x0, 1, 0x00000000, [⟨24, 3, .ro, []⟩, ⟨20, 2, .ro, []⟩, ⟨9, 1, .ro, []⟩, ⟨8, 1, .ro, []⟩, ⟨0, 1, .rw, []⟩]⟩,
  -- ARB_MODE: MODE
  ⟨0x5004, 0x0, 1, 0x00000000, [⟨0, 4, .rw, []⟩]⟩,
  -- ARB_HOLD_VIOL: LAST, VIOL, COUNT
  ⟨0x5008, 0x0, 1, 0x00000000, [⟨28, 4, .ro, []⟩, ⟨17, 9, .w1c, []⟩, ⟨0, 8, .ro, []⟩]⟩,
  -- ARB_STITCH_MAX: SPAN, BEATS
  ⟨0x500C, 0x0, 1, 0x00000010, [⟨16, 11, .rw, [(0, 0), (16, 1474)]⟩, ⟨0, 5, .rw, [(1, 16)]⟩]⟩,
  -- REFRESH_STAT: DEBT_MAX, BAND, TEMP, OVERTEMP, SELF
  ⟨0x5010, 0x0, 1, 0x00000000, [⟨24, 4, .ro, []⟩, ⟨16, 3, .ro, []⟩, ⟨8, 8, .ro, []⟩, ⟨2, 1, .w1c, []⟩, ⟨1, 1, .ro, []⟩]⟩,
  -- SCRUB_CTL: PERIOD
  ⟨0x5014, 0x0, 1, 0x00000000, [⟨0, 2, .rw, []⟩]⟩,
  -- SCRUB_STAT: PASSES, LATE, ACTIVE
  ⟨0x5018, 0x0, 1, 0x00000000, [⟨16, 16, .ro, []⟩, ⟨2, 1, .w1c, []⟩, ⟨1, 1, .ro, []⟩]⟩,
  -- ECC_CE_CNT: COUNT
  ⟨0x5020, 0x0, 1, 0x00000000, [⟨0, 32, .ro, []⟩]⟩,
  -- ECC_UE_CNT: COUNT
  ⟨0x5024, 0x0, 1, 0x00000000, [⟨0, 32, .ro, []⟩]⟩,
  -- BANK_RETIRED: BANKS
  ⟨0x5028, 0x0, 1, 0x00000000, [⟨0, 8, .ro, []⟩]⟩]

/-- Register entries of the LNK block. -/
def regsLnk : List RegRow := [
  -- LACE_SHAPE: Y, X, KIND
  ⟨0x5800, 0x0, 1, 0x00000000, [⟨16, 5, .rw, []⟩, ⟨8, 5, .rw, []⟩, ⟨0, 3, .rw, []⟩]⟩,
  -- LACE_EPOCH: STALE_DROP, FORMING, BROKEN, EPOCH
  ⟨0x5804, 0x0, 1, 0x00000000, [⟨24, 8, .ro, []⟩, ⟨17, 1, .ro, []⟩, ⟨16, 1, .ro, []⟩, ⟨0, 16, .ro, []⟩]⟩,
  -- LACE_MEMBERS_LO: MASK
  ⟨0x5808, 0x0, 1, 0x00000000, [⟨0, 32, .ro, []⟩]⟩,
  -- LACE_MEMBERS_HI: MASK
  ⟨0x580C, 0x0, 1, 0x00000000, [⟨0, 32, .ro, []⟩]⟩,
  -- LNK_x_STAT: DOWN_CNT, DISCARD, NO_HEAD, GAVE_UP, DOWN_EV, IN_EPOCH, STATE
  ⟨0x5840, 0x40, 4, 0x00000000, [⟨24, 8, .ro, []⟩, ⟨16, 8, .ro, []⟩, ⟨11, 1, .ro, []⟩, ⟨10, 1, .ro, []⟩, ⟨8, 1, .w1c, []⟩, ⟨3, 1, .ro, []⟩, ⟨0, 3, .ro, []⟩]⟩,
  -- LNK_x_LANES: ERR1, ERR0, SKEW, INVERTED, RETIRED, ACTIVE
  ⟨0x5844, 0x40, 4, 0x00000000, [⟨24, 8, .ro, []⟩, ⟨16, 8, .ro, []⟩, ⟨8, 8, .ro, []⟩, ⟨4, 2, .ro, []⟩, ⟨2, 2, .ro, []⟩, ⟨0, 2, .ro, []⟩]⟩,
  -- LNK_x_CRC_CNT: COUNT
  ⟨0x5848, 0x40, 4, 0x00000000, [⟨0, 32, .ro, []⟩]⟩,
  -- LNK_x_REPLAY_CNT: COUNT
  ⟨0x584C, 0x40, 4, 0x00000000, [⟨0, 32, .ro, []⟩]⟩,
  -- LNK_x_PARTNER: VALID, HEAD, MEMBER, LINK
  ⟨0x5850, 0x40, 4, 0x00000000, [⟨31, 1, .ro, []⟩, ⟨16, 1, .ro, []⟩, ⟨8, 6, .ro, []⟩, ⟨0, 2, .ro, []⟩]⟩]

/-- Register entries of the EXCH block. -/
def regsExch : List RegRow := [
  -- EXCH_CTL: RES_REC, DROP_CONTAM
  ⟨0x6000, 0x0, 1, 0x00000000, [⟨1, 1, .rw, []⟩, ⟨0, 1, .rw, []⟩]⟩,
  -- EXCH_STAT: OWNED, SRC_DROP, LATE, NACK, RUN1, DEF1, RUN0, DEF0
  ⟨0x6004, 0x0, 1, 0x00000000, [⟨24, 6, .ro, []⟩, ⟨10, 1, .w1c, []⟩, ⟨9, 1, .w1c, []⟩, ⟨8, 1, .w1c, []⟩, ⟨3, 1, .ro, []⟩, ⟨2, 1, .ro, []⟩, ⟨1, 1, .ro, []⟩, ⟨0, 1, .ro, []⟩]⟩,
  -- EXCH_RES_FAULT_CNT: TILE_NACK, ADD_CORR, ADD_FAULT
  ⟨0x6008, 0x0, 1, 0x00000000, [⟨16, 16, .ro, []⟩, ⟨8, 8, .ro, []⟩, ⟨0, 8, .ro, []⟩]⟩,
  -- EXCH_LANE_MAP: ADD_RETIRED, SPARE_USED, SPARE_FOR, RETIRED
  ⟨0x600C, 0x0, 1, 0x00000000, [⟨31, 1, .ro, []⟩, ⟨24, 1, .ro, []⟩, ⟨16, 4, .ro, []⟩, ⟨0, 9, .ro, []⟩]⟩,
  -- EXCH_GAP_CNT: COUNT
  ⟨0x6010, 0x0, 1, 0x00000000, [⟨0, 32, .ro, []⟩]⟩]

/-- Register entries of the SVC block. -/
def regsSvc : List RegRow := [
  -- SVC_CTL: AGG_S, OBJ_BODY, NOTICE_APPLY, ADD_NEW, EN
  ⟨0x6800, 0x0, 1, 0x00000000, [⟨8, 8, .rw, []⟩, ⟨3, 1, .rw, []⟩, ⟨2, 1, .rw, []⟩, ⟨1, 1, .rw, []⟩, ⟨0, 1, .rw, []⟩]⟩,
  -- SVC_ROSTER_BASE: ADDR
  ⟨0x6804, 0x0, 1, 0x00000000, [⟨0, 32, .ro, []⟩]⟩,
  -- SVC_ROSTER_SIZE: COUNT, LOG2
  ⟨0x6808, 0x0, 1, 0x00000000, [⟨14, 18, .ro, []⟩, ⟨0, 5, .rw, [(0, 0), (10, 16)]⟩]⟩,
  -- SVC_RECALL_CNT: COUNT
  ⟨0x680C, 0x0, 1, 0x00000000, [⟨0, 15, .ro, []⟩]⟩]

/-- Register entries of the FLT block. -/
def regsFlt : List RegRow := [
  -- FLT_STAT: PROTECT, RETIRE, FAILURE, SENSOR, ROSTER, ADD, HOLD, SUPPLY, OVERTEMP, ECC_UE, CLOCK, RAIL
  ⟨0x7000, 0x0, 1, 0x00000000, [⟨11, 1, .ro, []⟩, ⟨10, 1, .w1c, []⟩, ⟨9, 1, .w1c, []⟩, ⟨8, 1, .w1c, []⟩, ⟨7, 1, .w1c, []⟩, ⟨6, 1, .w1c, []⟩, ⟨5, 1, .w1c, []⟩, ⟨4, 1, .w1c, []⟩, ⟨3, 1, .w1c, []⟩, ⟨2, 1, .w1c, []⟩, ⟨1, 1, .w1c, []⟩, ⟨0, 1, .w1c, []⟩]⟩,
  -- FLT_RETIRE_MAP0: LINK, LANE, SYNTH, PATH
  ⟨0x7010, 0x0, 1, 0x00000000, [⟨24, 4, .rw, []⟩, ⟨16, 8, .rw, []⟩, ⟨8, 5, .rw, []⟩, ⟨0, 4, .rw, []⟩]⟩,
  -- FLT_RETIRE_MAP1: ADDER, BANK
  ⟨0x7014, 0x0, 1, 0x00000000, [⟨16, 9, .rw, []⟩, ⟨0, 8, .rw, []⟩]⟩,
  -- FLT_RETIRE_MAP2: REQ
  ⟨0x7018, 0x0, 1, 0x00000000, [⟨1, 9, .rw, []⟩]⟩,
  -- FLT_RETIRE_MAP3: COUNT, ADD_RETIRED, UID
  ⟨0x701C, 0x0, 1, 0x00000000, [⟨24, 8, .ro, []⟩, ⟨16, 1, .ro, []⟩, ⟨0, 16, .ro, []⟩]⟩,
  -- FLT_TRANSIENT_CNT: COUNT
  ⟨0x7020, 0x0, 1, 0x00000000, [⟨0, 32, .ro, []⟩]⟩,
  -- FLT_POLICYn: W, TREC, K
  ⟨0x7040, 0x4, 8, 0x03E80004, [⟨16, 16, .rw, [(1, 65535)]⟩, ⟨8, 1, .rw, []⟩, ⟨0, 8, .rw, []⟩]⟩,
  -- TELEM_INTERVAL: MS
  ⟨0x7060, 0x0, 1, 0x00000000, [⟨0, 20, .rw, [(0, 0), (10, 1000000)]⟩]⟩]

/-- Register entries of the MON block. -/
def regsMon : List RegRow := [
  -- TEMPn: VALID, FAILED, STALE, TEMP
  ⟨0x7800, 0x4, 8, 0x00000000, [⟨31, 1, .ro, []⟩, ⟨30, 1, .ro, []⟩, ⟨29, 1, .ro, []⟩, ⟨0, 16, .ro, []⟩]⟩,
  -- SUPPLYn: VALID, LOW, HIGH, MV
  ⟨0x7820, 0x4, 8, 0x00000000, [⟨31, 1, .ro, []⟩, ⟨30, 1, .ro, []⟩, ⟨29, 1, .ro, []⟩, ⟨0, 16, .ro, []⟩]⟩]

/-- Register entries of the DBG block. -/
def regsDbg : List RegRow := [
  -- DBG_ID: PART, STEP
  ⟨0xF000, 0x0, 1, 0x734000B1, [⟨16, 16, .ro, []⟩, ⟨0, 8, .ro, []⟩]⟩,
  -- DBG_CTL: ERR, WR, GO, EN
  ⟨0xF004, 0x0, 1, 0x00000000, [⟨3, 1, .w1c, []⟩, ⟨2, 1, .rw, []⟩, ⟨1, 1, .sc, []⟩, ⟨0, 1, .rw, []⟩]⟩,
  -- DBG_STORE_ADDR: WORD
  ⟨0xF008, 0x0, 1, 0x00000000, [⟨2, 22, .rw, []⟩]⟩,
  -- DBG_STORE_DATA: DATA
  ⟨0xF00C, 0x0, 1, 0x00000000, [⟨0, 32, .rw, []⟩]⟩]

/-- Tables 5.7 to 5.14: every setup register. -/
def regTable : List RegRow :=
  regsTop ++ regsBoot ++ regsHif ++ regsSpi ++ regsPwr ++ regsClk ++ regsPip ++ regsRadio ++ regsSamp ++ regsCal ++ regsBcst ++ regsAud ++ regsTag ++ regsStore ++ regsLnk ++ regsExch ++ regsSvc ++ regsFlt ++ regsMon ++ regsDbg

/-- The entry that holds a byte offset. -/
def regRow (off : Nat) : Option RegRow :=
  regTable.find? (fun r => (List.range r.count).any (fun k => r.base + r.stride * k == off))

/-- The reset value of a register (Tables 5.7 to 5.14); an offset of no register reads 0. A "Strap" or "Fused" register is read
through `State.regView`. -/
def resetWord (off : Nat) : Word := ((regRow off).map (fun r => BitVec.ofNat 32 r.reset)).getD 0

end Sys2Proof.Machine
end

