-- ==== Sys2Proof/Machine/StateHost.lean ====
section
/-! DEFINITION. The parts of the state that face the board and the host: rails, straps and pins, resets, images, the SPI and JTAG
ports, the rings, the power states and the fault manager (spec 02 to 06, 19, 20). Every register of the setup map is held in the
register file of `State`; these structures hold what the spec gives the device beside its registers. -/

namespace Sys2Proof.Machine

/-- Rails declared good (R35). -/
structure Rails where
  vbatAo : Bool
  core : Bool
  mem : Bool
  rf : Bool
  ana : Bool
  pa : Bool
  ser : Bool
  io : Bool
  deriving DecidableEq, Repr

/-- What the board and the host hold at the device's balls. DESIGN CHOICE, log 6. -/
structure Env where
  rails : Rails
  resetLow : Bool
  perstLow : Bool
  deriving DecidableEq, Repr

/-- A resettable block: held or not, and its generation number modulo 256 (R176, R179, R180). -/
structure BlkSt where
  hold : Hold
  gen : BitVec 8
  deriving DecidableEq, Repr

/-- A GPIO ball: undriven until its first scheduler action (R47). -/
structure Gpio where
  driven : Bool
  level : Bool
  deriving DecidableEq, Repr

/-- Resets, straps as sampled, blocks, shadows of the ports (R168, R172), and the balls the device drives by events. -/
structure Top where
  por : Bool
  straps : Straps
  pullDowns : Bool
  blk : Vector BlkSt 10
  rdShadow : Vector (Option (Nat × Word)) 4
  wrShadow : Vector (Option (Nat × Word)) 4
  silent : Bool
  softPending : Bool
  paEn : Bool
  gpio : Vector Gpio 8
  deriving DecidableEq, Repr

/-- The PCI Express function: retry status (R73), Bus Master Enable (R77), Max_Read_Request_Size, PCI-PM state (R785), ASPM. PRESUMED, log 8.
DESIGN CHOICE, log 76. -/
structure Pcie where
  retry : Bool
  busMaster : Bool
  mrrs : Nat
  d3hot : Bool
  aspmL1 : Nat
  deriving DecidableEq, Repr

/-- One image read request (R863). -/
structure ReadReq where
  img : Img
  off : Nat
  bytes : Nat
  deriving DecidableEq, Repr

/-- A load from host memory in progress: requests issued and not ended, requests still to issue, the first that failed (R80). -/
structure Fetch where
  out : List ReadReq
  todo : List ReadReq
  failed : Option Img
  deriving DecidableEq, Repr

/-- Images and the joining of a Lace (spec 03). Images are kept by word index; a word not listed was never written (R82). A member: refused
(R100), a HELLO it owes, the TAG of its last. The head: members accepted in RUNNING, the identity of each member accepted, those untested
and those excluded, a push in progress, one that waits, and the number of the last. -/
structure Boot where
  svcImg : List (Nat × Word)
  seqImg : List (Nat × Word)
  fetch : Option Fetch
  refused : Bool
  helloDue : Bool
  helloTag : Nat
  accepted : List Nat
  ids : List (Nat × Nat)
  untested : List Nat
  excluded : List Nat
  pushing : Bool
  pushPending : Bool
  pushNo : Nat
  deriving DecidableEq, Repr

/-- The SPI port beside its registers: the armed soft reset (R137, R139) and the silent period after a wake from D4 (R143). -/
structure Spi where
  armed : Bool
  d4Silent : Bool
  deriving DecidableEq, Repr

/-- The JTAG port (R154, R846): instruction, boundary register, outcome of the last REGACC access. -/
structure Jtag where
  ir : BitVec 6
  boundary : BitVec 214
  drives : Bool
  highz : Bool
  regacc : BitVec 50
  deriving DecidableEq, Repr

/-- A descriptor that the engine holds, with its place in the order of fetching (R237, R867). -/
structure HeldDesc where
  d : Desc
  no : Nat
  deriving DecidableEq, Repr

/-- A descriptor started and not completed. `waits` lists the members whose part is outstanding; `part` is the result so far. Its
completion ring was disabled meanwhile (R202), or the HIF block was reset meanwhile (R258). DEDUCED, log 33. -/
structure StartedDesc where
  d : Desc
  no : Nat
  committed : Bool
  sent : Bool
  waits : List Nat
  part : Result
  dropped : Bool
  orphan : Bool
  deriving DecidableEq, Repr

/-- A CANCEL on its way to its target's block (R239): how the target ended meanwhile, if it did. -/
structure CancelSt where
  d : Desc
  target : Desc
  ended : Option Bool
  deriving DecidableEq, Repr

/-- A completion that waits for an entry of its completion ring (R201, R263). -/
structure CplWait where
  member : Nat
  opcode : Nat
  tag : Nat
  index : Nat
  r : Result
  deriving DecidableEq, Repr

/-- What the engine keeps of one ring beside its registers. -/
structure RingSt where
  seq : BitVec 32
  doorbell : Option Nat
  held : List HeldDesc
  cplWait : List CplWait
  unsignalled : Bool
  drops : Nat
  dropFirst : Nat
  dropLast : Nat
  deriving DecidableEq, Repr

/-- One MSI-X table entry with its pending bit. -/
structure MsixVec where
  addr : BitVec 64
  data : Word
  masked : Bool
  pending : Bool
  deriving DecidableEq, Repr

/-- Updates of one region at this device (R241). -/
structure RegionSt where
  running : Option Desc
  waiting : Option Desc
  data : Option (List Word)
  deriving DecidableEq, Repr

/-- The ring engine (spec 06). `buf` is the internal buffer of 256 records, `outq` the 64 KiB outbound buffer. -/
structure Hif where
  rings : Vector RingSt 24
  rr : Nat
  fetchNo : Nat
  started : List StartedDesc
  cancels : List CancelSt
  buf : List Rec
  bufDrops : Nat
  accepts : Bool
  outq : List HostWrite
  msixEnable : Bool
  msixMask : Bool
  msix : Vector MsixVec 32
  regions : Vector RegionSt 8
  restore : Option Desc
  deriving DecidableEq, Repr

/-- Power states beside the PWR registers (spec 19): an entry or an exit in progress, whether that exit abandons an entry into D4 (R776, R869),
the dwell, the LACE hold outside Lace rest, members whose
acknowledgement of RESUME is outstanding, D4 and the step before it, the wake timer in minutes and the wake record of the always-on logic,
and WAKE_N driven low. -/
structure Pwr where
  entry : Option Nat
  exiting : Bool
  aborted : Bool
  dwell : Bool
  laceHold : Bool
  resumeWait : List Nat
  d4 : Bool
  d4Step : Bool
  d4Timer : Nat
  d4Wake : Nat
  wakeN : Bool
  deriving DecidableEq, Repr

/-- Failures kept of one instance (R789): class, instance, times in milliseconds, newest first. -/
structure FailLog where
  cls : Nat
  inst : Nat
  times : List Nat
  deriving DecidableEq, Repr

/-- FAULT records of one code within the limit window (R803): times of those posted, and how many were suppressed. -/
structure FaultLimit where
  code : Nat
  times : List Nat
  suppressed : Nat
  deriving DecidableEq, Repr

/-- One temperature sensor (R805): runs of failed and of valid conversions, and the latch of R807. -/
structure Sensor where
  failRun : Nat
  okRun : Nat
  hot : Bool
  deriving DecidableEq, Repr

/-- One supply monitor (R809): milliseconds in range in a row, and whether it has posted. -/
structure SupplyMon where
  inRun : Nat
  posted : Bool
  deriving DecidableEq, Repr

/-- Counts of the current telemetry interval (Table 20.9). -/
structure Telem where
  tmax : Int
  tmin : Int
  d0ms : Nat
  ms : Nat
  crcFail : Nat
  verFail : Nat
  noKey : Nat
  macFail : Nat
  replays : Nat
  candDrop : Nat
  objAbandon : Nat
  transient : Nat
  suppressed : Nat
  failures : Nat
  deriving DecidableEq, Repr

/-- The fault manager and the monitors (spec 20). `ms` counts milliseconds, told by the monitors' conversions; `pathTry` is, per path, 0
none, 1 powered down for a retry, 2 within 100 ms of its restore (Table 20.1). -/
structure Flt where
  ms : Nat
  fails : List FailLog
  limits : List FaultLimit
  sensors : Vector Sensor 8
  supplies : Vector SupplyMon 8
  storeHot : Bool
  telem : Telem
  pathTry : Vector Nat 4
  deriving DecidableEq, Repr

end Sys2Proof.Machine
end

