-- ==== Sys2Proof/Machine/StateLace.lean ====
section
/-! DEFINITION. The parts of the state that belong to the Lace: links, routes and epochs (spec 16), exchanges (17), crate services
(18) and the sample store with its arbiter (15). -/

namespace Sys2Proof.Machine

/-- A sent flit kept until it is acknowledged: its number modulo 256, and how often it was resent (R648, R651). -/
structure Sent where
  no : Nat
  f : Flit
  resent : Nat
  deriving DecidableEq, Repr

/-- What a link input buffer holds back or has freed: credits still to return, per VC0, VC1 and boot tree (R649). -/
structure Credits where
  vc0 : Nat
  vc1 : Nat
  boot : Nat
  deriving DecidableEq, Repr

/-- What a partner advertises in DIST blocks (R642, R644). -/
structure Advert where
  dist : Nat
  head : Nat
  uid : Nat
  deriving DecidableEq, Repr

/-- A flit that waits for a link output (R649, R662): where it came from (0 to 3 a link input, 4 the exchange engine, 5 the pip sender,
6 the service core, 7 the head's ring engine), the buffer of that input that it fills (0 VC0, 1 VC1, 2 boot tree), and the number under
which the input took it, when its place there is still to be returned. -/
structure Waiting where
  flit : Flit
  src : Nat
  buf : Nat
  slot : Option Nat
  deriving DecidableEq, Repr

/-- One Bobbin link beside its registers. `token` counts this end's choices of a link token (R641); `failing` holds the lanes whose
error the fast retrain in progress settles (R650); `turn` is the input whose turn it is at the output, 4 for local injection, and
`turnLocal` the local source (R662). -/
structure LinkSt where
  token : Nat
  partnerToken : Option Nat
  retraining : Bool
  failing : Nat
  txNo : Nat
  rxNo : Nat
  rxDiscard : Bool
  unacked : Nat
  replay : List Sent
  txq : List Waiting
  turn : Nat
  turnLocal : Nat
  credit : Credits
  owed : Credits
  advert : Option Advert
  child : Bool
  broken : Bool
  deriving DecidableEq, Repr

/-- A break of the epoch (R657, R676): the reporting member and its link. -/
structure Break where
  kind : Nat
  reporter : Nat
  link : Nat
  partner : Nat
  count : Nat
  deriving DecidableEq, Repr

/-- A formation in progress at the head (Table 16.4): its step, the candidates, those yet to answer, the members of the epoch before, its
descriptor, the candidates removed, and the link faults found. -/
structure Forming where
  step : Nat
  cands : List Nat
  awaiting : List Nat
  prev : List Nat
  desc : Option Desc
  removed : List Nat
  faults : List LinkFault
  deriving DecidableEq, Repr

/-- A request sent to another member whose response is outstanding (R659, R679). -/
structure Request where
  tag : Nat
  peer : Nat
  desc : Option Desc
  afterBreak : Bool
  deriving DecidableEq, Repr

/-- A message being taken flit by flit (R685). -/
structure Partial where
  src : Nat
  kind : Nat
  words : List Word
  bad : Bool
  deriving DecidableEq, Repr

/-- Links, boot tree, routes, epochs and requests (spec 16). `routes` is the member set that routes are made for; `served`
the descriptors forwarded to this member that it works on, each with whether it has passed its commit point. -/
structure Lnk where
  links : Vector LinkSt 4
  parent : Option (Fin 4)
  dist : Nat
  headId : Option (Nat × Nat)
  shape : Word
  routes : Nat
  breaks : List Break
  breakNo : Nat
  forming : Option Forming
  loneLace : Bool
  headLost : Bool
  tagNo : Nat
  requests : List Request
  reqQueue : List Msg
  credit : List (Nat × Nat)
  partials : List Partial
  lost : List Nat
  inEpoch : Bool
  served : List (Desc × Bool)
  deriving DecidableEq, Repr

/-- A bank retirement in progress (Table 15.6): physical bank p, its logical bank, the bank it is copied to, and the step. -/
structure BankMove where
  p : Nat
  logical : Nat
  q : Nat
  step : Nat
  deriving DecidableEq, Repr

/-- The sample store and its arbiter (spec 15). `words` is the canonical sparse memory by logical word address; `ue` the words
that read uncorrectable; `ce` the words that wait for their write-back. -/
structure Store where
  words : List (Nat × Word)
  ue : List Nat
  ce : List Nat
  bankMap : List Nat
  moves : List BankMove
  debt : Nat
  cur : Option Access
  waiting : List Access
  scrubAddr : Nat
  scrubPeriod : Nat
  radioLeft : Bool
  exchStarted : Bool
  deriving DecidableEq, Repr

/-- A definition of an exchange slot (R688): epoch, octet set, owner of each of the 64 octets, contribution mask of each of the 64
members, KIND, ARRIVE, and the load and window results of R695 and R696. -/
structure ExchDef where
  epoch : Nat
  octets : List Nat
  owners : List Nat
  masks : List Nat
  kind : Nat
  arrive : Nat
  load : Nat
  loadMember : Nat
  loadLink : Nat
  window : Nat
  deriving DecidableEq, Repr

/-- A running exchange slot (R698 to R701). `first` is S once fixed; `confirms` the sources yet to confirm at the head, `posts` the
octets whose owner's POST this source awaits; `dead` is the latest tile period whose deadline has passed, `stops` the EXCH_STOPs that wait. -/
structure ExchRun where
  desc : Option Desc
  reqStart : Nat
  first : Option Nat
  count : Nat
  last : Option Nat
  stops : List Desc
  confirms : List Nat
  posts : List Nat
  carried : Nat
  lost : Nat
  sent : Bool
  dead : Option Nat
  deriving DecidableEq, Repr

/-- A tile a source keeps until ACK, LATE or its deadline (R705): octet, tile, and how often it was resent. -/
structure Kept where
  xid : Nat
  octet : Nat
  tile : Nat
  resent : Nat
  words : List Word
  deriving DecidableEq, Repr

/-- A tile landed whole in an owner's window (R707). -/
structure Landed where
  octet : Nat
  src : Nat
  tile : Nat
  words : List Word
  deriving DecidableEq, Repr

/-- An accumulator of the survey (R712, R713): who has been added, the sums, and its marks. -/
structure Accum where
  octet : Nat
  tile : Nat
  added : List Nat
  count : Word
  power : List Word
  invalid : Bool
  complete : Bool
  deriving DecidableEq, Repr

/-- The beams of one octet and tile (R720, R721): per beam its number and its samples, complex. -/
structure BeamSet where
  octet : Nat
  tile : Nat
  beams : List (Nat × List (Int × Int))
  deriving DecidableEq, Repr

/-- The exchange engine (spec 17). As source: `released` the latest tile each owner has released of an octet, `todo` the tiles of the octets
still to send (octet, tile), `again` what was NACKed (slot, octet, tile). As owner: `freed` the latest tile released of an octet.
DESIGN CHOICE, log 74. -/
structure Exch where
  def0 : Option ExchDef
  def1 : Option ExchDef
  run0 : Option ExchRun
  run1 : Option ExchRun
  released : List (Nat × Nat)
  freed : List (Nat × Nat)
  todo : List (Nat × Nat)
  again : List (Nat × Nat × Nat)
  kept : List Kept
  landed : List Landed
  accums : List Accum
  map : Option (List Word)
  weights : Option (List Word)
  nextWeights : Option (Desc × List Word × Nat)
  beams : List BeamSet
  dropContam : Bool
  deriving DecidableEq, Repr

end Sys2Proof.Machine
end

