-- ==== Sys2Proof/Machine/StateSignal.lean ====
section
/-! DEFINITION. The parts of the state that belong to time and signals: the pip timebase (spec 07), clocks and SYNC (08), radio (09),
sampling (10), calibration (11), broadcast reception (12), audio (13), the tag air interface (14) and crate services (18). -/

namespace Sys2Proof.Machine

/-! ### The pip timebase (spec 07) -/

/-- A qualified event that waits for its sub-pip instant (R281): EDGE_DIR, tile and cycle of the edge, PERIOD as that edge set it. -/
structure PipQual where
  edgeDir : Nat
  tile : Nat
  cycle : Nat
  period : Nat
  deriving DecidableEq, Repr

/-- An event of a slot (Table 7.4), with the firings since arming. `left` is REPEATS still to consume, none without limit. -/
structure PipEvent where
  slot : Nat
  frac : Nat
  action : Nat
  recd : Bool
  periodic : Bool
  dir : Nat
  target : Int
  period : Nat
  arg : Word
  left : Option Nat
  fired : Nat
  qual : Option PipQual
  deriving DecidableEq, Repr

/-- A firing committed whose action is yet to take effect (R283): the event as it fired, and the record's facts. -/
structure PipCommit where
  ev : PipEvent
  edgeDir : Nat
  tile : Nat
  cycle : Nat
  count : Nat
  skipped : Nat
  deriving DecidableEq, Repr

/-- The pip timebase and the scheduler. `remote` is what the head knows of the events armed at other members, each with its member
(R299). `since` is the time since the last edge in ns, and `cycle` the cycle within the tile, as the last command that carries time
told them. -/
structure Pip where
  slots : List (Nat × PipEvent)
  commits : List PipCommit
  remote : List (Nat × PipEvent)
  highest : Int
  revWait : Bool
  edged : Bool
  since : Nat
  cycle : Nat
  ballA : Bool
  ballB : Bool
  beaconOk : Bool
  deriving DecidableEq, Repr

/-! ### Clocks and SYNC (spec 08) -/

/-- What SYNC_ARM carries: the tile sequence number and the audio frame count that hold at E (R335). -/
structure SyncArm where
  tile : Nat
  frame : Nat
  deriving DecidableEq, Repr

/-- A SYNC that the head conducts (R335, R336): for FIRE or for a formation, its arm, whether its pulse has been driven, and the members
whose report is outstanding. -/
structure HeadSync where
  fire : Bool
  arm : SyncArm
  pulsed : Bool
  dones : List Nat
  deriving DecidableEq, Repr

/-- Clocks beside the CLK registers: an internal SYNC has been done since images were cleared, REF is lost, the arm held, the pulse
sampled and awaiting its effect edge, the head's SYNC, and the audio frame counter. -/
structure Clk where
  synced : Bool
  refLost : Bool
  arm : Option SyncArm
  hit : Option SyncArm
  headSync : Option HeadSync
  audFrame : Nat
  deriving DecidableEq, Repr

/-! ### The radio (spec 09) -/

/-- A request to a synthesiser (R358): a write of TARGET or of TUNE, a descriptor, the placement of a broadcast source (R460,
R487), a probe's retune (R481), or the radio scheduler's way to SYNTH at a channel (R585). -/
inductive LoReq where
  | target (t : Nat)
  | tune (force : Bool)
  | move (d : Desc) (t : Nat)
  | retune (d : Desc)
  | place (src freq : Nat)
  | probe (freq : Nat)
  | send (freq : Nat)
  deriving DecidableEq, Repr

/-- A request being served: the state its step leads to (5 a retune), the frequency it locks at, whether it calibrates, whether a step
before it did, and whether it waits for its rails (R65). -/
structure LoRun where
  req : LoReq
  next : Nat
  freq : Nat
  cal : Bool
  anyCal : Bool
  waits : Bool
  deriving DecidableEq, Repr

/-- A synthesiser beside its registers: the frequency in effect, the held calibration sets with T1 when each was taken (R361), an output
gated, and a relock awaited while REF is present. -/
structure LoSt where
  run : Option LoRun
  queue : List LoReq
  freq : Nat
  sets : List (Nat × Int)
  gated : Bool
  relock : Bool
  deriving DecidableEq, Repr

/-- A path: PATHn_CTL as it is in effect (R352), the first tile free of GAP when that is settled (R360), its blanking and the first
tile free of BLANK (R374), and of the current tile: BLANK, GAP, RX so far (R391), and whether a retune, a move or PATHn_CTL changed it (R444). -/
structure PathSt where
  ctl : Word
  cleanAt : Option Nat
  blanked : Bool
  blankAt : Option Nat
  blankTile : Bool
  gapTile : Bool
  rxTile : Bool
  moved : Bool
  deriving DecidableEq, Repr

/-- A RADIO_STATE whose synthesisers are still on the way (R359). -/
structure RadioMove where
  d : Desc
  left : List Nat
  cal : Bool
  clean : Nat
  deriving DecidableEq, Repr

/-- A send of LOT (R369 to R372): the level L at its grant, the external PA, the frequency and the bits to send; `phase` is 0 from the
grant, 1 ramping up, 2 at full power, 3 ramping down, 4 ramped down. -/
structure TxSt where
  level : Nat
  ext : Bool
  freq : Nat
  bits : List Bool
  phase : Nat
  deriving DecidableEq, Repr

structure Radio where
  los : Vector LoSt 5
  paths : Vector PathSt 4
  moves : List RadioMove
  tx : Option TxSt
  deriving DecidableEq, Repr

/-! ### Sampling (spec 10) -/

/-- Gain and clip state of one path (R399 to R412): AGCn_CTL as in effect, codes A and G, the tiles a sentinel freeze has lasted, the last
clip, and the flags of the current tile. -/
structure AgcSt where
  ctl : Word
  a : Nat
  g : Nat
  frozen : Option Nat
  clip : Option (Nat × Nat)
  contam : Bool
  contamNext : Bool
  ovr : Bool
  clips : Nat
  frozenTile : Bool
  calstep : Bool
  stale : Bool
  deriving DecidableEq, Repr

/-- What a tile's header says apart from its octet and exponents (Table 10.3). -/
structure TileMeta where
  seq : Nat
  mask : Nat
  gains : List Nat
  flags : List Nat
  clips : List Nat
  octets : Nat
  deriving DecidableEq, Repr

/-- An overload episode (R414, Table 10.5). -/
structure Episode where
  first : Nat
  last : Nat
  paths : Nat
  events : Nat
  samples : Nat
  gainStart : List Nat
  gainEnd : List Nat
  deriving DecidableEq, Repr

/-- A tile in the store. -/
structure TileRec where
  octet : Nat
  seq : Nat
  words : List Word
  deriving DecidableEq, Repr

/-- A capture (R416 to R420). `first` is the first tile to write once it runs, `next` the next, `stop` the descriptor that ends it and
`lastDue` the last tile still written. -/
structure Capture where
  d : Desc
  octet : Nat
  member : Nat
  mode : Nat
  count : Nat
  pretrig : Nat
  start : Nat
  first : Option Nat
  next : Nat
  written : Nat
  dropped : Nat
  last : Nat
  stop : Option Desc
  lastDue : Option Nat
  deriving DecidableEq, Repr

/-- `pend` lists the changes of SAMP_CTL.EN (true) or of the mask (false) that have landed, each with the tile from which it acts
(R395); `making` tells that the current tile is made, `prev` is the tile that ended last. -/
structure Samp where
  agc : Vector AgcSt 4
  en : Bool
  octets : Nat
  depth : Nat
  pend : List (Nat × Bool × Nat)
  making : Bool
  prev : Option TileMeta
  episode : Option Episode
  skip : Option Nat
  tiles : List TileRec
  caps : Vector (Option Capture) 4
  deriving DecidableEq, Repr

/-! ### Calibration (spec 11) -/

/-- A correction set: the six coefficients in register order, and CALn_LAST_TEMP. -/
structure CalSet where
  coeffs : List Word
  temp : Word
  deriving DecidableEq, Repr

/-- The correction of one path: the set in use, stored sets by band (R447), the band in effect, and the tile from which a host write
acts (R450). -/
structure CalPath where
  use : CalSet
  sets : List ((Bool × Nat) × CalSet)
  band : Option (Bool × Nat)
  writeAt : Option Nat
  deriving DecidableEq, Repr

/-- A round (R439): tile S, the items and paths it solves, its cause, CAL_CTL as it started, whether its solve tile has come, paths whose
statistics are lost (R444), paths left out by a host write (R451), sums of the owners, owners yet to send, and this member's values. -/
structure CalRound where
  first : Nat
  items : Nat
  paths : Nat
  cause : Nat
  ctl : Word
  solving : Bool
  lostPaths : Nat
  written : Nat
  stats : List CalStat
  sums : List CalSum
  owners : List Nat
  values : Option (List CalValue)
  deriving DecidableEq, Repr

/-- Calibration: each path, the CAL_SLOT window (its paths and the tile at which it closes), the trigger that waits (the tile of R436 and
its cause), CAL_RUNs whose round is to come, those of the running round, and the members whose CAL_RUN the head has passed on. -/
structure Cal where
  paths : Vector CalPath 4
  slot : Option (Nat × Nat)
  trigger : Option (Nat × Nat)
  waiting : List Desc
  runs : List Desc
  round : Option CalRound
  deriving DecidableEq, Repr

/-! ### Fades and ramps (R522) -/

/-- A level that fades and ramps: 0 silent, 1 full, 2 fading, 3 ramping; frame k of a length, the gain g0 at a fade's start in units of
2^−24, the linear law of COMPAT6, and a ramp that waits for the fade's end (R523). -/
structure Fader where
  mode : Nat
  k : Nat
  len : Nat
  g0 : Nat
  linear : Bool
  rampAfter : Bool
  deriving DecidableEq, Repr

/-! ### Broadcast reception (spec 12) -/

/-- RDS of one station (R468, R469): synchronisation, the blocks of the group in progress, and what complete groups said. -/
structure Rds where
  sync : Bool
  run : Nat
  next : Nat
  hist : List Bool
  cur : List (Nat × Nat)
  pi : Option Nat
  pty : Nat
  tp : Bool
  ta : Bool
  ms : Bool
  ps : List (Nat × Nat × Nat)
  psTold : List Nat
  rtAb : Nat
  rt : List (Nat × Nat)
  rtTold : List Nat
  af : List Nat
  oda : List (Nat × Nat)
  deriving DecidableEq, Repr

/-- DAB reception on one path (R471 to R475): frame synchronisation, null symbols found or missed in a row, bad FIBs in a row, what the
FIC told, and the counts (bad, all) of the frames of the last 2 s. -/
structure Dab where
  sync : Bool
  nulls : Nat
  missing : Nat
  badRun : Nat
  eid : Nat
  facts : List DabFact
  fibs : List (Nat × Nat)
  auds : List (Nat × Nat)
  complete : Bool
  deriving DecidableEq, Repr

/-- What BCST_FOLLOW set (Table 12.5). -/
structure Follow where
  annMask : Nat
  soft : Bool
  region : Bool
  link : Bool
  af : Bool
  prefer : Int
  hyst : Nat
  low : Nat
  probe : Nat
  hold : Nat
  deriving DecidableEq, Repr

/-- A service: 1 FM, 2 DAB; its frequency; PI or SId; SCIdS. -/
structure Service where
  mode : Nat
  freq : Nat
  id : Nat
  scids : Nat
  deriving DecidableEq, Repr

/-- A switch (R487): stage 1 fading, 2 retuning, 3 awaiting audio, 4 ramping, 5 awaiting its confirmation; CAUSE of Table 12.11. -/
structure Switch where
  stage : Nat
  cause : Nat
  old : Service
  new : Service
  oldQ : Nat
  newQ : Nat
  silent : Nat
  trial : Bool
  right : Nat
  wrong : Nat
  asw : Nat
  deriving DecidableEq, Repr

/-- An announcement (R491 to R494): flags, cluster, sub-channel. -/
structure Announce where
  flags : Nat
  cluster : Nat
  subch : Nat
  deriving DecidableEq, Repr

/-- A broadcast source (R458). `erased` counts tiles of an erased run, `lowMs`, `switchMs`, `probeMs` and `trialMs` the time since Q fell
below LOW, since the last switch, probe and trial. -/
structure Source where
  srv : Service
  path : Fin 4
  mask : Nat
  deemph : Bool
  select : Option Desc
  tuned : Bool
  audio : Bool
  level : Int
  qual : Nat
  stereo : Bool
  rds : Rds
  right : Nat
  wrong : Nat
  erased : Nat
  conceal : Bool
  gone : Bool
  fader : Fader
  follow : Option Follow
  lowMs : Nat
  switchMs : Nat
  probeMs : Nat
  trialMs : Nat
  sw : Option Switch
  ann : Option Announce
  annNext : Option Announce
  waits : List Desc
  deriving DecidableEq, Repr

/-- Background knowledge of one candidate (R480, R481): its quality, blocks A with its PI and the age of the first, the age of its
confirmation. -/
structure Candid where
  mode : Nat
  freq : Nat
  id : Nat
  qual : Nat
  blocks : Nat
  blockMs : Nat
  confMs : Option Nat
  deriving DecidableEq, Repr

/-- A datacast subscription (R495): TRANSPORT 1 RDS ODA, 2 DAB packet. -/
structure Subscription where
  transport : Nat
  path : Fin 4
  freq : Nat
  id : Nat
  scids : Nat
  deriving DecidableEq, Repr

/-- Broadcast reception. `bars` are failed candidates (source, mode, frequency), `list` is region 2 with its next content, `stations` the RDS of
stations on the background path. -/
structure Bcst where
  srcs : Vector Source 4
  dab : Vector Dab 4
  list : List (List Word)
  listNext : Option (Desc × List (List Word))
  cands : List Candid
  bars : List (Nat × Nat × Nat)
  probe : Option (Nat × Service)
  subs : Vector (Option Subscription) 8
  stations : List (Nat × Rds)
  deriving DecidableEq, Repr

/-! ### Audio (spec 13) -/

/-- A route (Table 13.3). -/
structure Route where
  input : Nat
  inPair : Nat
  atten : Nat
  mono : Bool
  swap : Bool
  deriving DecidableEq, Repr

/-- A route of an output with its level. -/
structure RouteSt where
  cur : Route
  fader : Fader
  deriving DecidableEq, Repr

/-- An output: 0 to 2 SAP, 3 SPDO. `en` is EN as it is in effect; `run` 0 stopped, 1 armed and waiting, 2 to start at `startAt`, 3 past its
start frame; `why` it is silent: 0 not, 1 underrun, 2 overrun, 3 clock lost, 4 holdover, 5 gated, 6 its FIFO was short at the start, 7 FSEL
left the family. `queue` lists the route changes in arrival order, the first of them in progress (R517, R550). -/
structure OutputSt where
  en : Bool
  run : Nat
  armed : Bool
  startAt : Option Nat
  fill : Nat
  fader : Fader
  why : Nat
  silent : Nat
  routes : Vector RouteSt 4
  queue : List (Desc × Nat × Route)
  deriving DecidableEq, Repr

/-- An audio input: 0 SAP2, 1 SPDI. -/
structure InputSt where
  fill : Nat
  fader : Fader
  why : Nat
  silent : Nat
  erased : Nat
  fresh : Bool
  deriving DecidableEq, Repr

/-- The audio engine. `holdOut` and `lockFor` count frames since holdover or gating ended; `block` frames since the SPDO block start, the
active template, a load that waits, and the region 4 update that waits for it. -/
structure Aud where
  outs : Vector OutputSt 4
  ins : Vector InputSt 2
  gated : Bool
  holdOut : Option Nat
  lockFor : Option Nat
  block : Nat
  active : List Word
  loadNext : Bool
  region : Option Desc
  spdiBlocks : Nat
  deriving DecidableEq, Repr

/-! ### The tag air interface (spec 14) -/

/-- Region 5 as it is in effect (Table 14.9): channel entries (frequency, band), listen sets (mask, mode), beacon entries
(3 words), and the words of the region. -/
structure TagPlan where
  chans : List (Nat × Nat)
  sets : List (Nat × Nat)
  beacons : List (List Word)
  words : List Word
  deriving DecidableEq, Repr

/-- A beacon request: its descriptor, or none for a BEACON action, its operand words 1 to 3, the sends still allowed, on-air time of one
send in ms, results so far (Table 14.11), busy judgements, and how far the present send is: 0 queued, 1 LOT on its way, 2 to be judged
at the next boundary, 3 waiting after a busy judgement, 4 free to be granted, 5 granted. -/
structure BeaconReq where
  d : Option Desc
  words : List Word
  left : Nat
  onAir : Nat
  made : Nat
  crc : Nat
  accepted : Nat
  answered : Bool
  first : Nat
  last : Nat
  tries : Nat
  stage : Nat
  cancelled : Bool
  deriving DecidableEq, Repr

/-- An implicit window of a beacon (R574). `mine` tells that this member sent it. -/
structure ImplWin where
  chan : Nat
  mode : Nat
  mine : Bool
  deriving DecidableEq, Repr

/-- An open listen set with the TAG_LISTEN that opened it and its counts (R570 to R573, Table 14.11). -/
structure OpenSet where
  set : Nat
  d : Option Desc
  crc : Nat
  accepted : Nat
  macFail : Nat
  replays : Nat
  closing : Bool
  deriving DecidableEq, Repr

/-- A MAC in an acknowledgement queue, with the beacons of this member that carried it (R579). -/
structure AckMac where
  band : Nat
  channel : Nat
  mac : Nat
  carried : Nat
  deriving DecidableEq, Repr

/-- A verified burst kept to tell copies (R576): its crate, SEQ and MAC, and when its sync word ended. -/
structure Heard where
  pool : Nat
  serial : Nat
  seq : Nat
  mac : Nat
  tile : Nat
  cycle : Nat
  deriving DecidableEq, Repr

structure Tag where
  plan : Option TagPlan
  planNew : Option (Desc × TagPlan)
  queue : List BeaconReq
  cur : Option BeaconReq
  gaps : List BeaconReq
  counter : BitVec 16
  log : List (Nat × Nat)
  reserved : Nat
  sets : List OpenSet
  opening : List (Desc × Nat)
  windows : List ImplWin
  acks : List AckMac
  heard : List Heard
  sync : Word
  deriving DecidableEq, Repr

/-! ### Crate services (spec 18) -/

/-- A key (R750): USE 0 TAG, 1 NOTICE, 2 KEK. -/
structure Key where
  pool : Nat
  use : Nat
  keyid : Nat
  key : Nat
  deriving DecidableEq, Repr

/-- A recall entry (Table 18.8). -/
structure RecallEntry where
  pool : Nat
  level : Nat
  first : Nat
  last : Nat
  id : Nat
  deriving DecidableEq, Repr

/-- Reassembly of one subscription slot (R754): the object's bytes while one is in progress, the last CONT, when an unauthenticated
object was last reported (R757), and the segments and losses delivered and not yet taken. -/
structure NoticeSlot where
  bytes : Option (List Byte)
  cont : Nat
  loss : Bool
  told : Option Nat
  units : List (Option (Bool × Nat × List Byte))
  deriving DecidableEq, Repr

/-- OBJECT_IDs accepted of a pool (R756): the highest, and those accepted among the 255 below it. -/
structure PoolIds where
  pool : Nat
  highest : Nat
  below : List Nat
  deriving DecidableEq, Repr

/-- A Pool Notice that changes the recall list and waits for a running region 3 update (R749): its slot and bytes. -/
structure NoticeWait where
  slot : Nat
  bytes : List Byte
  deriving DecidableEq, Repr

structure Svc where
  roster : List (Nat × List Word)
  recalls : List RecallEntry
  keys : List Key
  cands : List Candidate
  slots : Vector NoticeSlot 8
  ids : List PoolIds
  notices : List NoticeWait
  edits : List Desc
  deriving DecidableEq, Repr

end Sys2Proof.Machine
end

