-- ==== Sys2Proof/Machine/State.lean ====
section
/-! DEFINITION. The state of the device, its reset value, and the reasons a step can stop. -/

namespace Sys2Proof.Machine

/-- Reasons for a fault. No meaning of this model raises one: the spec gives every command an effect, or none at all, and the
block has no access to an address that does not exist (an access to reserved space completes, R164). -/
inductive Fault where
  /-- Raised by nothing. Safe. -/
  | none
  deriving DecidableEq, Repr

/-- Reasons for a refusal. -/
inductive Refusal where
  /-- Raised by an arm of the dispatch that has no meaning yet. Safe: nothing is claimed of the command. -/
  | notModelled (mnemonic : String)
  deriving DecidableEq, Repr

/-- The state of the device: its registers, the state behind them block by block, what it has put out, and the queue of commands. -/
structure State where
  /-- The register file: canonical sparse list (offset, word); an offset not listed holds its reset value. -/
  regs : List (Nat × Word)
  /-- Supplies, REFCLK and crystal as detected, PERST_N and RESET_N, and what else stands at the balls (spec 02). -/
  env : Env
  /-- The TOP block beside its registers: straps as sampled, power-on reset, block resets, port shadows, GPIO (spec 03, 05). -/
  top : Top
  /-- The PCI Express function: Bus Master Enable, request size, PCI-PM state (spec 06, 19). -/
  pcie : Pcie
  /-- Image loading: staged words, fetches, pushes, HELLO (spec 03). -/
  boot : Boot
  /-- The SPI setup port (spec 04). -/
  spi : Spi
  /-- The test port (spec 21). -/
  jtag : Jtag
  /-- The ring engine: rings, descriptors, region updates, blobs, MSI-X (spec 06). -/
  hif : Hif
  /-- Power states, entry and exit, D4 (spec 19). -/
  pwr : Pwr
  /-- Faults, retirement, monitors, telemetry (spec 20). -/
  flt : Flt
  /-- Bobbin links, the boot tree, the epoch, requests of the Lace (spec 16). -/
  lnk : Lnk
  /-- The sample store, its port, scrubber and banks (spec 15). -/
  store : Store
  /-- Collective exchanges (spec 17). -/
  exch : Exch
  /-- The pip timebase and its events (spec 07). -/
  pip : Pip
  /-- Clocks, ADPLLs and SYNC (spec 08). -/
  clk : Clk
  /-- Synthesisers, paths and transmit (spec 09). -/
  radio : Radio
  /-- Tiles, gain control, overload, captures (spec 10). -/
  samp : Samp
  /-- Blind calibration (spec 11). -/
  cal : Cal
  /-- Broadcast sources, following, subscriptions (spec 12). -/
  bcst : Bcst
  /-- Audio ports and routes (spec 13). -/
  aud : Aud
  /-- The tag air interface (spec 14). -/
  tag : Tag
  /-- Crate services: roster, recall list, keys, notices (spec 18). -/
  svc : Svc
  /-- TILE_SEQ, the tile sequence number. -/
  tile : BitVec 32
  /-- The model's own counter that makes each free value a fresh one. -/
  free : Nat
  /-- What the device has done towards the outside, newest first. -/
  out : List Out
  /-- The commands that wait, first in, first out. -/
  pending : List Instr
  deriving DecidableEq, Repr

/-! ### Reset values of the structures -/

def strapsOpen : Straps := ⟨0, false, false, 0, false⟩
def ringReset : RingSt := ⟨0, none, [], [], false, 0, 0, 0⟩
def msixReset : MsixVec := ⟨0, 0, true, false⟩
/-- A fresh telemetry interval. -/
def telemReset : Telem :=
  { tmax := 0, tmin := 0, d0ms := 0, ms := 0, crcFail := 0, verFail := 0, noKey := 0, macFail := 0, replays := 0, candDrop := 0
    objAbandon := 0, transient := 0, suppressed := 0, failures := 0 }
/-- The fresh credits of a trained link: its partner's empty buffers (R649). -/
def freshCredits : Credits := ⟨16, 16, 4⟩
def linkReset : LinkSt :=
  { token := 0, partnerToken := none, retraining := false, failing := 0, txNo := 0, rxNo := 0, rxDiscard := false, unacked := 0
    replay := [], txq := [], turn := 0, turnLocal := 0, credit := freshCredits, owed := ⟨0, 0, 0⟩, advert := none, child := false, broken := false }
/-- The reset settings of the gain loop. DESIGN CHOICE, log 13. -/
def agcReset : AgcSt := ⟨0, 0, 0, none, none, false, false, false, 0, false, false, false⟩
def loReset : LoSt := ⟨none, [], 0, [], false, false⟩
def pathReset : PathSt := ⟨0, none, false, none, false, false, false, false⟩
def faderOff : Fader := ⟨0, 0, 0, 0, false, false⟩
def faderFull : Fader := ⟨1, 0, 0, 0, false, false⟩
def rdsReset : Rds := ⟨false, 0, 0, [], [], none, 0, false, false, false, [], [], 0, [], [], [], []⟩
def dabReset : Dab := ⟨false, 0, 0, 0, 0, [], [], [], false⟩
def serviceNone : Service := ⟨0, 0, 0, 0⟩
/-- Time since something that never happened: longer than any limit. -/
def longAgo : Nat := 1000000000
def sourceReset : Source :=
  { srv := serviceNone, path := 0, mask := 0, deemph := false, select := none, tuned := false, audio := false, level := 0, qual := 0
    stereo := false, rds := rdsReset, right := 0, wrong := 0, erased := 0, conceal := false, gone := false, fader := faderOff, follow := none
    lowMs := 0, switchMs := longAgo, probeMs := longAgo, trialMs := longAgo, sw := none, ann := none, annNext := none, waits := [] }
def routeOff : Route := ⟨6, 0, 0, false, false⟩
def outReset : OutputSt :=
  { en := false, run := 0, armed := false, startAt := none, fill := 0, fader := faderOff, why := 0, silent := 0
    routes := Vector.replicate 4 ⟨routeOff, faderFull⟩, queue := [] }
def audReset : Aud :=
  { outs := Vector.replicate 4 outReset, ins := Vector.replicate 2 ⟨0, faderOff, 0, 0, 0, false⟩, gated := false, holdOut := none
    lockFor := none, block := 192, active := List.replicate 6 0, loadNext := false, region := none, spdiBlocks := 0 }
def calPathReset : CalPath := ⟨⟨List.replicate 6 0, 0⟩, [], none, none⟩
def tagReset : Tag :=
  { plan := none, planNew := none, queue := [], cur := none, gaps := [], counter := 0, log := [], reserved := 0, sets := [], opening := []
    windows := [], acks := [], heard := [], sync := resetWord Reg.tagSync }
def noticeReset : NoticeSlot := ⟨none, 0, false, none, []⟩

/-- The device right after the release of power-on reset (R36, Table 3.2 step 1): every rail of core supply good is up, VDD_RF and VDD_PA
are not yet, RESET_N and PERST_N are high, no strap is tied (R51), and every register holds its reset value. DESIGN CHOICE, log 6.
DESIGN CHOICE, log 7. PRESUMED, log 8. DESIGN CHOICE, log 13. -/
def State.reset : State where
  regs := []
  env := { rails := ⟨true, true, true, false, true, false, true, true⟩, resetLow := false, perstLow := false }
  top := { por := false, straps := strapsOpen, pullDowns := true, blk := Vector.replicate 10 ⟨.free, 0⟩, rdShadow := Vector.replicate 4 none
           wrShadow := Vector.replicate 4 none, silent := false, softPending := false, paEn := false
           gpio := Vector.replicate 8 ⟨false, false⟩ }
  pcie := { retry := true, busMaster := false, mrrs := 512, d3hot := false, aspmL1 := 0 }
  boot := { svcImg := [], seqImg := [], fetch := none, refused := false, helloDue := false, helloTag := 0, accepted := [], ids := []
            untested := [], excluded := [], pushing := false, pushPending := false, pushNo := 0 }
  spi := { armed := false, d4Silent := false }
  jtag := { ir := 1, boundary := 0, drives := false, highz := false, regacc := 0 }
  hif := { rings := Vector.replicate 24 ringReset, rr := 0, fetchNo := 0, started := [], cancels := [], buf := [], bufDrops := 0, accepts := true
           outq := [], msixEnable := false, msixMask := false, msix := Vector.replicate 32 msixReset
           regions := Vector.replicate 8 ⟨none, none, none⟩, restore := none }
  pwr := { entry := none, exiting := false, aborted := false, dwell := false, laceHold := false, resumeWait := [], d4 := false, d4Step := false, d4Timer := 0
           d4Wake := 0, wakeN := false }
  flt := { ms := 0, fails := [], limits := [], sensors := Vector.replicate 8 ⟨0, 0, false⟩, supplies := Vector.replicate 8 ⟨0, false⟩
           storeHot := false, telem := telemReset, pathTry := Vector.replicate 4 0 }
  lnk := { links := Vector.replicate 4 linkReset, parent := none, dist := 63, headId := none, shape := 0, routes := 0, breaks := [], breakNo := 0
           forming := none, loneLace := false, headLost := false, tagNo := 0, requests := [], reqQueue := [], credit := [], partials := []
           lost := [], inEpoch := false, served := [] }
  store := { words := [], ue := [], ce := [], bankMap := [0, 1, 2, 3, 4, 5, 6, 7], moves := [], debt := 0, cur := none, waiting := []
             scrubAddr := 0, scrubPeriod := 0, radioLeft := false, exchStarted := false }
  exch := { def0 := none, def1 := none, run0 := none, run1 := none, released := [], freed := [], todo := [], again := [], kept := [], landed := []
            accums := [], map := none, weights := none, nextWeights := none, beams := [], dropContam := false }
  pip := { slots := [], commits := [], remote := [], highest := 0, revWait := false, edged := false, since := 0, cycle := 0, ballA := false
           ballB := false, beaconOk := false }
  clk := { synced := false, refLost := false, arm := none, hit := none, headSync := none, audFrame := 0 }
  radio := { los := Vector.replicate 5 loReset, paths := Vector.replicate 4 pathReset, moves := [], tx := none }
  samp := { agc := Vector.replicate 4 agcReset, en := false, octets := 0, depth := 0, pend := [], making := false, prev := none, episode := none
            skip := none, tiles := [], caps := Vector.replicate 4 none }
  cal := { paths := Vector.replicate 4 calPathReset, slot := none, trigger := none, waiting := [], runs := [], round := none }
  bcst := { srcs := Vector.replicate 4 sourceReset, dab := Vector.replicate 4 dabReset, list := [], listNext := none, cands := [], bars := []
            probe := none, subs := Vector.replicate 8 none, stations := [] }
  aud := audReset
  tag := tagReset
  svc := { roster := [], recalls := [], keys := [], cands := [], slots := Vector.replicate 8 noticeReset, ids := [], notices := [], edits := [] }
  tile := 0
  free := 0
  out := []
  pending := []

end Sys2Proof.Machine
end

