-- ==== Sys2Proof/Machine/Ops.lean ====
section
/-! DEFINITION. The named operations over the state: registers and their fields, outputs, the device's own identity, what the
device is in (reset, boot phase, power state), and updates of the structures. -/

namespace Sys2Proof.Machine

/-! ### Outcomes -/

/-- A command that ends in a next state. -/
def done (s : State) : Host.Outcome State Fault Refusal := .next s

/-! ### Registers -/

/-- The word a register holds in the register file. -/
def State.rd (s : State) (off : Nat) : Word := Sparse.get resetWord s.regs off
/-- Set the word a register holds. -/
def State.wr (s : State) (off : Nat) (w : Word) : State := { s with regs := Sparse.put resetWord s.regs off w }
/-- A field of a register as a number. -/
def State.get (s : State) (f : FieldRef) : Nat := getF (s.rd f.off) f.lo f.width
/-- A one-bit field. -/
def State.is (s : State) (f : FieldRef) : Bool := s.get f != 0
/-- Set a field. -/
def State.put (s : State) (f : FieldRef) (v : Nat) : State := s.wr f.off (setF (s.rd f.off) f.lo f.width v)
/-- Set a one-bit field. -/
def State.putB (s : State) (f : FieldRef) (b : Bool) : State := s.put f (b2n b)
/-- Set a status bit (R14: it stays set until cleared). -/
def State.flag (s : State) (f : FieldRef) : State := s.put f (2 ^ f.width - 1)
/-- Advance a counter that wraps. -/
def State.inc (s : State) (f : FieldRef) : State := s.put f (s.get f + 1)
/-- Add to a counter that wraps. -/
def State.add (s : State) (f : FieldRef) (n : Nat) : State := s.put f (s.get f + n)
/-- Advance a counter that saturates. -/
def State.incSat (s : State) (f : FieldRef) : State := s.put f (satAdd (2 ^ f.width - 1) (s.get f) 1)
/-- Every register of a range of offsets to its reset value. -/
def State.clearRegs (s : State) (lo hi : Nat) : State := { s with regs := Sparse.eraseRange s.regs lo hi }
/-- Set one of the bits of a W1C or RO mask field. -/
def State.orF (s : State) (f : FieldRef) (m : Nat) : State := s.put f (s.get f ||| m)

/-! ### The canonical forms of the register file and the sample store -/

/-- The word an unlisted address holds: 0 (DESIGN CHOICE, log 3: the spec states no power-on content). -/
def storeBlank (_ : Nat) : Word := 0
/-- The sample store is in its canonical form: addresses strictly rising, none listed with the word that an unlisted address reads as.
DESIGN CHOICE, log 3. -/
def Memory.wf (m : List (Nat × Word)) : Bool := Sparse.wf storeBlank m
/-- The register file is in its canonical form. -/
def Regs.wf (m : List (Nat × Word)) : Bool := Sparse.wf resetWord m

/-- The two canonical forms hold. -/
def State.canonical (s : State) : Bool := Regs.wf s.regs && Memory.wf s.store.words

/-! ### Outputs and free values -/

/-- The device does something towards the outside. DESIGN CHOICE, log 1. -/
def State.emit (s : State) (o : Out) : State := { s with out := o :: s.out }
def State.emits (s : State) (os : List Out) : State := { s with out := os.reverse ++ s.out }
/-- A fresh free value is drawn at the counter, which advances. DESIGN CHOICE, log 4. -/
def State.draw (s : State) : State := { s with free := s.free + 1 }
/-- As many free values as a list is long are drawn. DESIGN CHOICE, log 4. -/
def State.drawN (s : State) (n : Nat) : State := { s with free := s.free + n }

/-! ### Identity and mode -/

/-- This device's member number. -/
def State.me (s : State) : Nat := s.top.straps.id.toNat
/-- This device is the head of its Lace (R17). -/
def State.head (s : State) : Bool := s.top.straps.head
/-- BOOT_STAT.PHASE values. -/
def phROM : Nat := 0
def phWait : Nat := 1
def phFetch : Nat := 2
def phCheck : Nat := 3
def phHeld : Nat := 4
def phRun : Nat := 6
def State.phase (s : State) : Nat := s.get Fld.bootStatPhase
/-- Power-on reset and RESET_N released, and the device not in D4. -/
def State.alive (s : State) : Bool := !s.top.por && !s.env.resetLow && !s.pwr.d4
/-- The device's images run. -/
def State.runs (s : State) : Bool := s.alive && s.phase == phRun
/-- Power state: 0 D0 to 3 D3 (PWR_STATE.STATE). -/
def State.pst (s : State) : Nat := s.get Fld.pwrStateState
/-- Effective boot source after R54 and R55: 0 PCI Express, 1 SPI, 2 Lace. -/
def State.source (s : State) : Nat :=
  match s.top.straps.bootsrc.toNat with
  | 0 => 0
  | 2 => if s.top.straps.head then 0 else 2
  | _ => 1
/-- State of a block under TOP_BLOCK_RESET. -/
def State.blkSt (s : State) (b : Blk) : BlkSt := s.top.blk[b.idx]
/-- The block is not held in reset. -/
def State.free? (s : State) (b : Blk) : Bool := (s.blkSt b).hold == .free
/-- A member set of the current epoch (LACE_MEMBERS). -/
def State.members (s : State) : Nat := (s.rd Reg.laceMembersLo).toNat + (s.rd Reg.laceMembersHi).toNat * 2 ^ 32
def State.memberList (s : State) : List Nat := bitsOf 64 s.members
def State.isMember (s : State) (m : Nat) : Bool := tb s.members m
/-- The other members of the epoch. -/
def State.others (s : State) : List Nat := s.memberList.filter (· != s.me)
/-- Epoch number. -/
def State.epoch (s : State) : Nat := s.get Fld.laceEpochEpoch

/-- Serial-number order of tile sequence numbers (R393). -/
def seqLater (a b : Nat) : Bool :=
  let d := (a + 2 ^ 32 - b % 2 ^ 32) % 2 ^ 32
  decide (1 ≤ d) && decide (d < 2 ^ 31)
/-- The tile sequence number is at or past `a`. -/
def State.tileAt (s : State) (a : Nat) : Bool := s.tile.toNat == a % 2 ^ 32 || seqLater s.tile.toNat a

/-- What acts only while the device is alive; an event that cannot come about leaves the state as it is. DESIGN CHOICE, log 5. -/
def live (s : State) (f : State → State) : Host.Outcome State Fault Refusal := done (if s.alive then f s else s)
/-- What acts only while the images run. DESIGN CHOICE, log 5. -/
def running (s : State) (f : State → State) : Host.Outcome State Fault Refusal := done (if s.runs then f s else s)
/-- What acts only while the images run and a block is not held in reset. -/
def inBlock (b : Blk) (s : State) (f : State → State) : Host.Outcome State Fault Refusal :=
  done (if s.runs && s.free? b then f s else s)
/-- A state function under a condition. -/
def State.cond (s : State) (b : Bool) (f : State → State) : State := if b then f s else s
/-- A state function over a list. -/
def State.forEach {α : Type} (s : State) (l : List α) (f : State → α → State) : State := l.foldl f s

/-! ### Field updates of the structures -/

def State.modEnv (s : State) (f : Env → Env) : State := { s with env := f s.env }
def State.modPcie (s : State) (f : Pcie → Pcie) : State := { s with pcie := f s.pcie }
def State.modSpi (s : State) (f : Spi → Spi) : State := { s with spi := f s.spi }
def State.modJtag (s : State) (f : Jtag → Jtag) : State := { s with jtag := f s.jtag }
def State.setTile (s : State) (v : BitVec 32) : State := { s with tile := v }
def State.modTop (s : State) (f : Top → Top) : State := { s with top := f s.top }
def State.modBoot (s : State) (f : Boot → Boot) : State := { s with boot := f s.boot }
def State.modHif (s : State) (f : Hif → Hif) : State := { s with hif := f s.hif }
def State.modPwr (s : State) (f : Pwr → Pwr) : State := { s with pwr := f s.pwr }
def State.modFlt (s : State) (f : Flt → Flt) : State := { s with flt := f s.flt }
def State.modLnk (s : State) (f : Lnk → Lnk) : State := { s with lnk := f s.lnk }
def State.modStore (s : State) (f : Store → Store) : State := { s with store := f s.store }
def State.modTelem (s : State) (f : Telem → Telem) : State := { s with flt := { s.flt with telem := f s.flt.telem } }
def State.modPip (s : State) (f : Pip → Pip) : State := { s with pip := f s.pip }
def State.modClk (s : State) (f : Clk → Clk) : State := { s with clk := f s.clk }
def State.modRadio (s : State) (f : Radio → Radio) : State := { s with radio := f s.radio }
def State.modLo (s : State) (n : Fin 5) (f : LoSt → LoSt) : State := { s with radio := { s.radio with los := upd s.radio.los n f } }
def State.modPath (s : State) (n : Fin 4) (f : PathSt → PathSt) : State :=
  { s with radio := { s.radio with paths := upd s.radio.paths n f } }
def State.modSamp (s : State) (f : Samp → Samp) : State := { s with samp := f s.samp }
def State.modAgc (s : State) (n : Fin 4) (f : AgcSt → AgcSt) : State := { s with samp := { s.samp with agc := upd s.samp.agc n f } }
def State.modCal (s : State) (f : Cal → Cal) : State := { s with cal := f s.cal }
def State.modBcst (s : State) (f : Bcst → Bcst) : State := { s with bcst := f s.bcst }
def State.modSrc (s : State) (n : Fin 4) (f : Source → Source) : State := { s with bcst := { s.bcst with srcs := upd s.bcst.srcs n f } }
def State.modAud (s : State) (f : Aud → Aud) : State := { s with aud := f s.aud }
def State.modOut (s : State) (n : Fin 4) (f : OutputSt → OutputSt) : State := { s with aud := { s.aud with outs := upd s.aud.outs n f } }
def State.modTag (s : State) (f : Tag → Tag) : State := { s with tag := f s.tag }
def State.modSvc (s : State) (f : Svc → Svc) : State := { s with svc := f s.svc }
def State.modExch (s : State) (f : Exch → Exch) : State := { s with exch := f s.exch }
def State.modRing (s : State) (n : Fin 24) (f : RingSt → RingSt) : State :=
  { s with hif := { s.hif with rings := upd s.hif.rings n f } }

/-! ### UNTESTED (R90) -/

/-- TOP_STATUS.UNTESTED is set here or on a member of the current epoch. -/
def State.untested (s : State) : Bool :=
  s.is Fld.topStatusUntested || s.boot.untested.any (fun m => s.isMember m)
/-- UNTESTED of a record: of the head, or of the member named (Table 6.10). -/
def State.untestedOf (s : State) (m : Nat) : Bool := s.is Fld.topStatusUntested || s.boot.untested.contains m

end Sys2Proof.Machine
end

