-- ==== Sys2Proof/Machine/Fabric.lean ====
section
/-! DEFINITION. The Lace fabric as a sender sees it: shapes, positions and routes (R653 to R657), flits (R646, R684, R685), the
transmit side of a link with its credits and its replay buffer (R648, R649), and requests with their credits (R659, R660). -/

namespace Sys2Proof.Machine

/-- The value whose Gray code is `v` (R653). -/
def grayInv (v : Nat) : Nat := v ^^^ (v >>> 1) ^^^ (v >>> 2) ^^^ (v >>> 3) ^^^ (v >>> 4) ^^^ (v >>> 5)

/-- A shape: kind 0 ONE, 1 LINE, 2 RING, 3 TORUS, and its sizes. -/
structure Shape where
  kind : Nat
  x : Nat
  y : Nat
  deriving DecidableEq, Repr

/-- The shape that a LACE_SHAPE word names, its sizes as numbers of positions. -/
def shapeOf (w : Word) : Shape :=
  match getF w 0 3 with
  | 1 => ⟨1, getF w 8 5, 1⟩
  | 2 => ⟨2, getF w 8 5, 1⟩
  | 3 => ⟨3, getF w 8 5, getF w 16 5⟩
  | _ => ⟨0, 1, 1⟩

/-- LACE_SHAPE holds defined values (its field table). -/
def shapeOk (w : Word) : Bool :=
  let x := getF w 8 5
  let y := getF w 16 5
  match getF w 0 3 with
  | 0 => x == 0 && y == 0
  | 1 => decide (2 ≤ x) && decide (x ≤ 8) && y == 0
  | 2 => decide (3 ≤ x) && decide (x ≤ 16) && y == 0
  | 3 => [2, 4, 8].contains x && [2, 4, 8].contains y
  | _ => false

/-- Members of a shape. -/
def Shape.count (h : Shape) : Nat := h.x * h.y
/-- Position of a member (R653). -/
def Shape.pos (h : Shape) (m : Nat) : Nat × Nat :=
  if h.kind == 3 then (grayInv (m % h.x), grayInv (m / h.x)) else (m, 0)
/-- The member at a position. -/
def Shape.at? (h : Shape) (p : Nat × Nat) : Option Nat := (List.range h.count).find? (fun m => h.pos m == p)
/-- A dimension wraps: both of a torus, X of a ring. -/
def Shape.wraps (h : Shape) : Bool := h.kind == 2 || h.kind == 3
/-- The neighbour of a position over a link (0 N, 1 E, 2 S, 3 W), as Table 16.1 connects them. -/
def Shape.step (h : Shape) (p : Nat × Nat) (l : Nat) : Option (Nat × Nat) :=
  match l with
  | 1 => if h.wraps then some ((p.1 + 1) % h.x, p.2) else if p.1 + 1 < h.x then some (p.1 + 1, p.2) else none
  | 3 => if h.wraps then some ((p.1 + h.x - 1) % h.x, p.2) else if 0 < p.1 then some (p.1 - 1, p.2) else none
  | 2 => if h.kind == 3 then some (p.1, (p.2 + 1) % h.y) else none
  | 0 => if h.kind == 3 then some (p.1, (p.2 + h.y - 1) % h.y) else none
  | _ => none
/-- The link at the far end: E meets W, S meets N. -/
def opposite (l : Nat) : Nat := (l + 2) % 4

/-- A hop is open: its link is no break from either end, and the member it reaches belongs to the epoch (R657). -/
def hopOpen (h : Shape) (members : Nat) (brk : List (Nat × Nat)) (p : Nat × Nat) (l : Nat) : Bool :=
  match h.step p l, h.at? p with
  | some q, some m =>
    match h.at? q with
    | some m' => tb members m' && !brk.contains (m, l) && !brk.contains (m', opposite l)
    | none => false
  | _, _ => false

/-- `n` hops over one link are open. -/
def runOpen (h : Shape) (members : Nat) (brk : List (Nat × Nat)) : Nat → Nat × Nat → Nat → Bool
  | 0, _, _ => true
  | n + 1, p, l => hopOpen h members brk p l && runOpen h members brk n ((h.step p l).getD p) l

/-- The way in one dimension: positive link, size, from and to coordinates (R654): the shorter way, an offset of exactly half in the
positive direction, and away from a break in a dimension that has one (R657). -/
def dimWay (h : Shape) (members : Nat) (brk : List (Nat × Nat)) (p : Nat × Nat) (pos neg n a b : Nat) : Option Nat :=
  if h.wraps then
    let off := (b + n - a) % n
    let fwd := runOpen h members brk off p pos
    let bwd := runOpen h members brk (n - off) p neg
    if 2 * off ≤ n then (if fwd then some pos else if bwd then some neg else none)
    else (if bwd then some neg else if fwd then some pos else none)
  else if a < b then (if runOpen h members brk (b - a) p pos then some pos else none)
  else (if runOpen h members brk (a - b) p neg then some neg else none)

/-- The link a flit leaves a position by: first X, then Y (R654). -/
def routeLink (h : Shape) (members : Nat) (brk : List (Nat × Nat)) (p q : Nat × Nat) : Option Nat :=
  if p.1 != q.1 then dimWay h members brk p 1 3 h.x p.1 q.1
  else if p.2 != q.2 then dimWay h members brk p 2 0 h.y p.2 q.2
  else none

/-- The whole route in hops, each its link; none when some hop is closed. -/
def routePath (h : Shape) (members : Nat) (brk : List (Nat × Nat)) : Nat → Nat × Nat → Nat × Nat → Option (List Nat)
  | 0, p, q => if p == q then some [] else none
  | f + 1, p, q =>
    if p == q then some []
    else match routeLink h members brk p q with
      | none => none
      | some l => if hopOpen h members brk p l then (routePath h members brk f ((h.step p l).getD p) q).map (l :: ·) else none

/-- The hop crosses the dateline, between position n − 1 and 0 (R655). -/
def crosses (h : Shape) (p : Nat × Nat) (l : Nat) : Bool :=
  h.wraps && match l with
    | 1 => p.1 + 1 == h.x
    | 3 => p.1 == 0
    | 2 => p.2 + 1 == h.y
    | _ => p.2 == 0

/-- The virtual channel on a hop over `l`, coming from a hop over `inL` with `vc` (R655). -/
def nextVc (h : Shape) (p : Nat × Nat) (inL : Option Nat) (vc l : Nat) : Nat :=
  let turned := match inL with
    | some i => (i == 1 || i == 3) && (l == 0 || l == 2)
    | none => false
  let base := if turned then 0 else vc
  if crosses h p l then 1 else base

def State.shape (s : State) : Shape := shapeOf s.lnk.shape
def State.breakPairs (s : State) : List (Nat × Nat) := s.lnk.breaks.map (fun b => (b.reporter, b.link))
def State.pos (s : State) (m : Nat) : Nat × Nat := s.shape.pos m
/-- The first link from this device to a member, in the current epoch. -/
def State.route (s : State) (m : Nat) : Option Nat :=
  if tb s.lnk.routes m then routeLink s.shape s.lnk.routes s.breakPairs (s.pos s.me) (s.pos m) else none
/-- A member can be reached over routes that avoid every break (R679). -/
def State.reaches (s : State) (m : Nat) : Bool :=
  tb s.lnk.routes m && (routePath s.shape s.lnk.routes s.breakPairs 16 (s.pos s.me) (s.pos m)).isSome

/-- The head's member number as this device knows it. -/
def State.headNo (s : State) : Nat := if s.head then s.me else (s.lnk.headId.map (·.1)).getD 0

/-! ### Flits -/

/-- Bits [319:16] of a flit, as one number (Table 16.7). -/
def Flit.bits (f : Flit) : Nat :=
  let hdr := f.dest * 2 ^ 18 + f.src * 2 ^ 12 + f.vc * 2 ^ 11 + f.epoch * 2 ^ 8 + f.kind * 2 ^ 4
    + b2n f.first * 8 + b2n f.last * 4 + b2n f.bcast * 2
  let d := f.data.foldl (fun a w => a * 2 ^ 32 + w.toNat) hdr
  f.res.foldl (fun a r => a * 8 + r % 8) d
/-- CRC of a flit: R562 over bits [319:16] as 38 bytes (R684). -/
def Flit.crcOf (f : Flit) : Nat := crc16 (natBe 38 f.bits)
/-- The flit with its own CRC. -/
def Flit.seal (f : Flit) : Flit := { f with crc := f.crcOf }

/-- Words in groups of eight, the last padded with 0. -/
def chunk8 : Nat → List Word → List (List Word)
  | 0, _ => []
  | n + 1, ws => ((ws ++ List.replicate 8 0).take 8) :: chunk8 n (ws.drop 8)

/-- The message word of R685. -/
def msgWord (code flits tag : Nat) : Word := packW [(24, 8, code), (16, 8, flits), (0, 16, tag)]

/-- The flits of a message: kinds 2 to 7 carry the message word first (R685); a push carries FLITS 0. -/
def flitsOf (m : Msg) (epoch : Nat) : List Flit :=
  let n := if m.kind ≥ 2 then (m.words.length + 1 + 7) / 8 else max 1 ((m.words.length + 7) / 8)
  let ws := if m.kind ≥ 2 then msgWord m.code (if m.kind == 6 && m.code == 3 then 0 else n) m.tag :: m.words else m.words
  let e := if m.kind == 6 then 0 else epoch % 8
  (chunk8 n ws).zipIdx.map (fun (d, i) =>
    { dest := m.dst, src := m.src, vc := 0, epoch := e, kind := m.kind, first := i == 0, last := i + 1 == n, bcast := m.bcast,
      data := d, res := d.map res7, crc := 0 })

/-! ### Sending on a link -/

def State.modLink (s : State) (k : Fin 4) (f : LinkSt → LinkSt) : State :=
  s.modLnk (fun l => { l with links := upd l.links k f })
def State.linkState (s : State) (k : Fin 4) : Nat := s.get (Fld.lnkStatState k.val)
def lkDown : Nat := 0
def lkTraining : Nat := 1
def lkUp : Nat := 2
def lkAsleep : Nat := 3
def lkRetired : Nat := 4
def lkForeign : Nat := 5
def lkMiswired : Nat := 6

/-- The buffer a flit needs a link credit for (R649). -/
def Credits.has (c : Credits) (f : Flit) : Bool :=
  if f.kind == 6 then decide (0 < c.boot) else if f.vc == 1 then decide (0 < c.vc1) else decide (0 < c.vc0)
def Credits.take (c : Credits) (f : Flit) : Credits :=
  if f.kind == 6 then { c with boot := c.boot - 1 }
  else if f.vc == 1 then { c with vc1 := c.vc1 - 1 } else { c with vc0 := c.vc0 - 1 }
def Credits.give (c : Credits) (buf : Nat) : Credits :=
  if buf == 2 then { c with boot := c.boot + 1 }
  else if buf == 1 then { c with vc1 := c.vc1 + 1 } else { c with vc0 := c.vc0 + 1 }

/-- The input buffer that a flit fills where it arrives (R649). -/
def Flit.buf (f : Flit) : Nat := if f.kind == 6 then 2 else f.vc

/-- The local source of a kind of flit (R662): exchange engine, pip sender, ring engine of the head, else the service core. DEDUCED, log 77. -/
def State.localSource (s : State) (kind : Nat) : Nat :=
  if kind ≤ 1 then 4 else if kind == 4 then 5 else if kind == 2 && s.head then 7 else 6

/-- A link carries flits of a kind: UP, not retraining; a FOREIGN link carries none, a MISWIRED one boot tree messages only. -/
def State.carries (s : State) (k : Fin 4) (f : Flit) : Bool :=
  let l := s.lnk.links[k]
  !l.retraining && (s.linkState k == lkUp || (s.linkState k == lkMiswired && f.kind == 6))

/-- The first flit of a source that can go: a flit behind another of its input buffer waits for that one. -/
def firstOf (can : Flit → Bool) (src : Nat) : List Nat → List Waiting → Option Waiting
  | _, [] => none
  | held, w :: rest =>
    if w.src != src || held.contains w.buf then firstOf can src held rest
    else if can w.flit then some w
    else firstOf can src (w.buf :: held) rest

/-- `n` numbers in turn, from `i` on. -/
def inTurn (n i : Nat) : List Nat := (List.range n).map (fun j => (i + j) % n)

/-- The flit that an output sends next (R662): round-robin over the four inputs and local injection, and there over its four sources. -/
def LinkSt.nextOut (l : LinkSt) (can : Flit → Bool) : Option Waiting :=
  (inTurn 5 l.turn).findSome? (fun g =>
    if g < 4 then firstOf can g [] l.txq
    else (inTurn 4 l.turnLocal).findSome? (fun i => firstOf can (4 + i) [] l.txq))

/-- The turns after a flit of a source has gone. -/
def LinkSt.passTurn (l : LinkSt) (src : Nat) : LinkSt :=
  if src < 4 then { l with turn := src + 1 } else { l with turn := 0, turnLocal := (src - 3) % 4 }

/-- A flit has left its input: once no other output holds a copy, its place in the buffer is owed back (R649). -/
def State.placeFree (s : State) (w : Waiting) : State :=
  if w.slot.isNone || s.lnk.links.toList.any (fun l => l.txq.any (fun v => v.src == w.src && v.slot == w.slot)) then s
  else s.modLink (Fin.ofNat 4 w.src) (fun l => { l with owed := l.owed.give w.buf })

/-- Send waiting flits while credits and the replay buffer of 64 flits allow (R648, R649, R662). -/
def pumpN : Nat → State → Fin 4 → State
  | 0, s, _ => s
  | n + 1, s, k =>
    let l := s.lnk.links[k]
    match l.nextOut (fun f => s.carries k f && l.credit.has f && decide (l.replay.length < 64)) with
    | none => s
    | some w =>
      let s := s.modLink k (fun l =>
        { l.passTurn w.src with txq := l.txq.erase w, credit := l.credit.take w.flit, txNo := (l.txNo + 1) % 256
                                replay := l.replay ++ [⟨l.txNo, w.flit, 0⟩] })
      pumpN n ((s.emit (.flit k w.flit.seal)).placeFree w) k
def State.pump (s : State) (k : Fin 4) : State := pumpN (s.lnk.links[k].txq.length) s k

/-- A flit comes to a link output: it waits there, or is discarded when the link is down (R679). -/
def State.offer (s : State) (k : Fin 4) (w : Waiting) : State :=
  let st := s.linkState k
  if st == lkUp || st == lkAsleep || (st == lkMiswired && w.flit.kind == 6) || (st == lkTraining && s.lnk.links[k].retraining) then
    s.modLink k (fun l => { l with txq := l.txq ++ [w] })
  else s.incSat (Fld.lnkStatDiscard k.val)

/-- Give a flit of this device to a link. -/
def State.txFlit (s : State) (k : Fin 4) (f : Flit) : State := (s.offer k ⟨f, s.localSource f.kind, f.buf, none⟩).pump k

/-- Give a flit that came by a link to the outputs it takes; where none takes it, its place in the input buffer is owed back. -/
def State.passFlit (s : State) (w : Waiting) (outs : List (Fin 4 × Flit)) : State :=
  let s := s.forEach outs (fun s o => s.offer o.1 { w with flit := o.2 })
  s.placeFree w |>.forEach outs (fun s o => s.pump o.1)

/-- The flits that wait at an output are lost with its link, and so are the places that the link's own input had (R676). -/
def State.dropWaiting (s : State) (k : Fin 4) : State :=
  let gone := s.lnk.links[k].txq
  let s := s.modLink k (fun l => { l with txq := [] })
  let s := s.forEach gone (fun s w => s.placeFree w)
  s.forEach [0, 1, 2, 3] (fun s j =>
    s.modLink j (fun l => { l with txq := l.txq.map (fun w => if w.src == k.val then { w with slot := none } else w) }))

def allLinks : List (Fin 4) := [0, 1, 2, 3]

/-- Links a downward boot tree message takes: every child (R643). -/
def State.children (s : State) : List (Fin 4) :=
  allLinks.filter (fun k => s.lnk.links[k].child && (s.linkState k == lkUp || s.linkState k == lkMiswired))

/-- Members on the far side of each link of this device for broadcasts of the head: the unicast routes of R654 (R656). -/
def bcastLinks (h : Shape) (members : Nat) (brk : List (Nat × Nat)) (head me : Nat) : List Nat :=
  [0, 1, 2, 3].filter (fun l => (bitsOf 64 members).any (fun m =>
    match routePath h members brk 16 (h.pos head) (h.pos m) with
    | none => false
    | some path =>
      let ps := path.foldl (fun (acc : List (Nat × Nat) × (Nat × Nat)) l =>
        (acc.1 ++ [acc.2], ((h.step acc.2 l).getD acc.2))) ([], h.pos head)
      (ps.1.zip path).contains (h.pos me, l)))

/-- Send one flit of this device along its route. -/
def State.injectFlit (s : State) (f : Flit) : State :=
  if f.bcast then
    s.forEach (bcastLinks s.shape s.lnk.routes s.breakPairs s.me s.me)
      (fun s l => s.txFlit (Fin.ofNat 4 l) { f with vc := nextVc s.shape (s.pos s.me) none 0 l })
  else match s.route f.dest with
    | none => s
    | some l => s.txFlit (Fin.ofNat 4 l) { f with vc := nextVc s.shape (s.pos s.me) none 0 l }

/-- Hand a message to the fabric, in the order of sending (R658), or to the boot tree for kind 6: upward messages (HELLO, EPOCH_ACK, SYNC_DONE, SYNC_MISSED) go to
the parent or, with no parent, on every trained link (R645); downward ones to every child (R643). -/
def State.sendMsg (s : State) (m : Msg) : State :=
  let s := s.emit (.msg m)
  let fs := flitsOf m s.epoch
  if m.kind == 6 then
    let up := s.head == false
    let links := if up then (match s.lnk.parent with
        | some k => [k]
        | none => allLinks.filter (fun k => s.linkState k == lkUp))
      else s.children
    s.forEach links (fun s k => s.forEach fs (fun s f => s.txFlit k f))
  else s.forEach fs (fun s f => s.injectFlit f)

/-- Requests of this device that hold a credit of a peer. -/
def State.reqUsed (s : State) (peer : Nat) : Nat := ((s.lnk.credit.find? (·.1 == peer)).map (·.2)).getD 0
def State.setReqUsed (s : State) (peer n : Nat) : State :=
  s.modLnk (fun l => { l with credit := (peer, n) :: l.credit.filter (·.1 != peer) })

/-- Send a request: it holds one of the two request credits that the peer grants, or waits for one (R659, R660). -/
def State.sendReq (s : State) (m : Msg) (d : Option Desc) : State :=
  let tag := s.lnk.tagNo % 65536
  let m := { m with tag := tag }
  let s := s.modLnk (fun l => { l with tagNo := l.tagNo + 1
                                       requests := l.requests ++ [{ tag := tag, peer := m.dst, desc := d, afterBreak := false }] })
  if s.reqUsed m.dst < 2 then (s.setReqUsed m.dst (s.reqUsed m.dst + 1)).sendMsg m
  else s.modLnk (fun l => { l with reqQueue := l.reqQueue ++ [m] })

/-- A request credit of a peer returns: the next waiting request to it is sent (R660). -/
def State.creditBack (s : State) (peer : Nat) : State :=
  match s.lnk.reqQueue.find? (·.dst == peer) with
  | some m => (s.modLnk (fun l => { l with reqQueue := l.reqQueue.erase m })).sendMsg m
  | none => s.setReqUsed peer (s.reqUsed peer - 1)

end Sys2Proof.Machine
end

