-- ==== Sys2Proof/Machine/Records.lean ====
section
/-! DEFINITION. Wake events, the rings of the host with their entries, completions and MSI-X, event records and their buffer, and
the fault manager's records (spec 06, 19, 20). -/

namespace Sys2Proof.Machine

/-! ### Waking (R774, R776, R786) -/

/-- States from which a wake event of Table 19.3 wakes, and whether it starts a dwell. -/
def wakeRow (i : Nat) : List Nat × Bool :=
  match i with
  | 0 | 2 | 3 | 7 => ([1, 2, 3], true)
  | 1 => ([1, 2], true)
  | 4 | 6 => ([1, 2, 3], false)
  | 5 => ([2, 3], false)
  | _ => ([], false)

/-- SPI_STAT.READY is set on a return to D0 from D2 or D3 (R144). -/
def State.readyFrom (s : State) (d : Nat) : State := s.cond (d == 2 || d == 3) (·.flag Fld.spiStatReady)

/-- Wake event `i` of Table 19.3: it begins the exit from D1 to D3 or abandons an entry (R774, R776), a D4 entry included (R869). -/
def State.wake (s : State) (i : Nat) : State :=
  let row := wakeRow i
  let target := if s.pst == 0 then s.pwr.entry.getD 0 else s.pst
  if !row.1.contains target then s
  else
    let s := s.orF Fld.pwrWakeSrcSrc (2 ^ i)
    let s := s.modPwr (fun p => { p with dwell := p.dwell || row.2
                                         wakeN := p.wakeN || (s.is Fld.pwrCtlWakeNEn && s.env.perstLow) })
    match s.pwr.entry with
    | some t =>
      if s.pst == 0 then
        (s.modPwr (fun p => { p with entry := none })).put Fld.pwrStateLast t |>.readyFrom t
      else s.modPwr (fun p => { p with exiting := true, aborted := p.aborted || p.d4Step, d4Step := false })
    | none => s.modPwr (fun p => { p with exiting := true, aborted := p.aborted || p.d4Step, d4Step := false })

/-! ### Rings: indices, room, entries (R193 to R196, R216, R217) -/

def ringFin (n : Nat) : Fin 24 := Fin.ofNat 24 n
def cplRing (r : Fin 8) : Fin 24 := ringFin (8 + r.val)
def cmdRing (r : Fin 8) : Fin 24 := ringFin r.val
def State.compat6 (s : State) : Bool := s.is Fld.topCfgCompat6
def State.ringSize (s : State) (n : Fin 24) : Nat := 2 ^ s.get (Fld.hifRingSizeLog2 n.val)
def State.ringBase (s : State) (n : Fin 24) : Nat :=
  (s.get (Fld.hifRingBaseLoAddr n.val)) * 4096 + (s.rd (Reg.hifRingBaseHi n.val)).toNat * 2 ^ 32
def State.prod (s : State) (n : Fin 24) : Nat := s.get (Fld.hifRingHeadProducer n.val)
def State.cons (s : State) (n : Fin 24) : Nat := s.get (Fld.hifRingTailConsumer n.val)
def State.engine (s : State) : Bool := s.is Fld.hifCtlEngineEn
/-- The ring takes part: the engine and the ring are enabled (R199). -/
def State.ringOn (s : State) (n : Fin 24) : Bool := s.engine && s.is (Fld.hifRingCtlEn n.val)
/-- Entries in the ring. -/
def State.ringUsed (s : State) (n : Fin 24) : Nat := (s.prod n + s.ringSize n - s.cons n) % s.ringSize n
/-- Free entries: the ring holds at most SIZE − 1 (R193). -/
def State.ringRoom (s : State) (n : Fin 24) : Nat := s.ringSize n - 1 - s.ringUsed n
/-- Bytes of an entry (Table 6.1). -/
def State.entryBytes (s : State) (n : Fin 24) : Nat :=
  if n.val < 8 then (if s.compat6 then 24 else 32)
  else if n.val < 16 then (if s.compat6 then 16 else 32)
  else if n.val < 20 then 64 else 4160

/-- The MSI-X message of a vector is sent, or its pending bit is set while it is masked (R232). -/
def State.sendVector (s : State) (v : Nat) : State :=
  let i : Fin 32 := Fin.ofNat 32 v
  let e := s.hif.msix[i]
  if s.hif.msixMask || e.masked then s.modHif (fun h => { h with msix := upd h.msix i (fun e => { e with pending := true }) })
  else s.emit (.msix i.val e.addr.toNat e.data)

/-- The vector of a ring, when HIF_MSIX_MAPn enables it (R230). -/
def State.ringVector (s : State) (n : Fin 24) : Option Nat :=
  let k := n.val % 4
  let w := s.rd (Reg.hifMsixMap (n.val / 4))
  if getF w (8 * k + 7) 1 == 1 then some (getF w (8 * k) 5) else none

/-- The device may send MSI-X messages and write to the host now (R197, R259, R785). -/
def State.hostOpen (s : State) : Bool := s.engine && !s.pcie.d3hot

/-- Signal a ring's unsignalled events (R231). -/
def State.signalRing (s : State) (n : Fin 24) : State :=
  if s.hif.rings[n].unsignalled && s.hostOpen && s.hif.accepts && s.hif.msixEnable then
    match s.ringVector n with
    | some v => (s.sendVector v).modRing n (fun r => { r with unsignalled := false })
    | none => s
  else s

/-- An event of a ring to signal: at once with HOLDOFF 0 (R231). -/
def State.ringEvent (s : State) (n : Fin 24) : State :=
  let s := s.modRing n (fun r => { r with unsignalled := true })
  if s.get (Fld.hifRingCtlHoldoff n.val) == 0 then s.signalRing n else s

/-- Take the next entry of a device-written ring: its address, and the ring with its producer index moved; PHASE inverts at the
wrap (R193, R217). -/
def State.takeEntry (s : State) (n : Fin 24) : Nat × Bool × State :=
  let p := s.prod n
  let ph := s.is (Fld.hifRingHeadPhase n.val)
  let p' := (p + 1) % s.ringSize n
  let s' := s.put (Fld.hifRingHeadProducer n.val) p'
  let s' := if p' == 0 && n.val < 20 then s'.putB (Fld.hifRingHeadPhase n.val) (!ph) else s'
  (s.ringBase n + p * s.entryBytes n, ph, s')

/-- A posted write goes out, or waits in the outbound buffer while the host accepts none (R257, R785). -/
def State.post (s : State) (w : HostWrite) : State :=
  if s.hif.accepts && !s.pcie.d3hot then
    match w with
    | .completion _ a ws | .record _ a ws | .tile _ a ws | .data a ws => s.emit (.hostWrite a ws)
  else s.modHif (fun h => { h with outq := h.outq ++ [w] })

/-! ### Completions (R215 to R220) -/

def stOK : Nat := 0x00
def stCancelled : Nat := 0x01
def stCancelLate : Nat := 0x02
def stSuperseded : Nat := 0x03
def stNotFound : Nat := 0x04
def stStale : Nat := 0x05
def stPeerReset : Nat := 0x06
def stPeerLost : Nat := 0x07
def stEpochMismatch : Nat := 0x08
def stNoResponse : Nat := 0x09
def stRetired : Nat := 0x0A
def stBadDesc : Nat := 0x0B
def stBusyRetry : Nat := 0x0C
def stResidueFault : Nat := 0x0D
def stDutyExceeded : Nat := 0x0E
def stTimeout : Nat := 0x10
def stHoldViolation : Nat := 0x11
def stEccUncorrectable : Nat := 0x12

def dtDmaRead : Nat := 0x01
def dtReserved : Nat := 0x02
def dtOpcode : Nat := 0x03
def dtOperand : Nat := 0x04
def dtAlign : Nat := 0x05
def dtLength : Nat := 0x06
def dtBlobFormat : Nat := 0x07
def dtBlobCrc : Nat := 0x08
def dtBlobStep : Nat := 0x09
def dtBlobIfg : Nat := 0x0A
def dtProtected : Nat := 0x0B

/-- The words of a completion (Table 6.9); four words under COMPAT6 with bit 30 written 0 (R262). -/
def State.cplWords (s : State) (phase : Bool) (member opcode ring tag index : Nat) (r : Result) : List Word :=
  let w0 := packW [(31, 1, b2n phase), (30, 1, b2n (s.untested && !s.compat6)), (24, 6, member), (16, 8, r.status), (0, 16, tag)]
  let w1 := packW [(24, 8, opcode), (21, 3, ring), (0, 16, index)]
  let head := [w0, w1, r.r0, r.r1]
  if s.compat6 then head else head ++ [s.tile, packW [(0, 8, r.detail)], r.r2, r.r3]

/-- Write one completion into an enabled completion ring that has room. -/
def State.putCpl (s : State) (ring : Fin 8) (c : CplWait) : State :=
  let n := cplRing ring
  let e := s.takeEntry n
  let ws := s.cplWords e.2.1 c.member c.opcode ring.val c.tag c.index c.r
  (e.2.2.post (.completion n e.1 ws)).ringEvent n

/-- Write one completion, let it wait for room, or discard and count it when the completion ring is disabled (R202). -/
def State.writeCpl (s : State) (ring : Fin 8) (c : CplWait) : State :=
  let n := cplRing ring
  if !s.is (Fld.hifRingCtlEn n.val) then s.inc (Fld.hifDropCntCount n.val)
  else if s.ringRoom n == 0 then s.modRing (cmdRing ring) (fun r => { r with cplWait := r.cplWait ++ [c] })
  else s.putCpl ring c

/-- Member a completion reports (R212): the one word 0 names for an opcode of member scope, else the head's. -/
def memberScope (op : Nat) : Bool :=
  [0x04, 0x05, 0x10, 0x11, 0x12, 0x18, 0x19, 0x20, 0x21, 0x28, 0x29, 0x40, 0x50].contains op

/-- Scope by region (Table 6.6): member scope for regions 0, 2, 4 and 7. -/
def regionMember (r : Nat) : Bool := [0, 2, 4, 7].contains r

/-- A descriptor acts at the member it names. -/
def Desc.memberScoped (d : Desc) : Bool :=
  memberScope d.opcode || (d.opcode == 0x06 && regionMember (d.f 1 0 3))

def State.cplMember (s : State) (d : Desc) : Nat := if d.memberScoped then d.member else s.me

/-- The started descriptor that is this entry of this ring. -/
def State.findStarted (s : State) (d : Desc) : Option StartedDesc := s.hif.started.find? (fun t => t.d.same d)
def State.modStarted (s : State) (d : Desc) (f : StartedDesc → StartedDesc) : State :=
  s.modHif (fun h => { h with started := h.started.map (fun t => if t.d.same d then f t else t) })

/-- Kind and code of the message that carries a member's completion to the head: a response (Table 16.7). -/
def msgCompletion : Nat := 0x40
/-- Kind 5: a record for the head (Table 16.7). -/
def msgRecord : Nat := 0x50

/-- The completion of a descriptor as its ring takes it. -/
def State.cplOf (s : State) (d : Desc) (r : Result) : CplWait := ⟨s.cplMember d, d.opcode, d.tag, d.index, r⟩

/-- A CANCEL on its way learns that its target has ended (R239). -/
def State.cancelEnded (s : State) (d : Desc) (committed : Bool) : State :=
  s.modHif (fun h => { h with cancels := h.cancels.map (fun c =>
    if c.target.same d && c.ended.isNone then { c with ended := some committed } else c) })

/-- A member other than the head answers the head with a descriptor's result, and whether it had passed its commit point. -/
def State.answer (s : State) (d : Desc) (r : Result) (data : List Word) : State :=
  let late := s.lnk.served.any (fun x => x.1.same d && x.2)
  (s.modLnk (fun l => { l with served := l.served.eraseP (fun x => x.1.same d) })).sendMsg
    { dst := s.headNo, src := s.me, kind := 3, code := msgCompletion, tag := (d.w 8).toNat % 65536
      words := [packW [(31, 1, b2n late), (8, 8, r.detail), (0, 8, r.status)], r.r0, r.r1, r.r2, r.r3] ++ data }

/-- A region no longer runs this descriptor; what waited may then run (R241, R243). -/
def State.dropRegion (s : State) (d : Desc) : State :=
  s.modHif (fun h => { h with regions := h.regions.map (fun r =>
    if r.running == some d then { r with running := none, data := none } else r) })

/-- The device completes a descriptor: the head writes the completion (R215, R236), discards and counts it when its ring was disabled
(R202), or counts it as stale when the descriptor was started before a reset of the HIF block (R258); any other member answers the
head. -/
def State.complete (s : State) (d : Desc) (r : Result) : State :=
  let s := s.dropRegion d
  if s.head then
    match s.findStarted d with
    | none => s
    | some t =>
      let s := (s.modHif (fun h => { h with started := h.started.eraseP (fun t => t.d.same d) })).cancelEnded d t.committed
      if t.orphan then s.inc Fld.topStaleCntCount
      else if t.dropped then s.inc (Fld.hifDropCntCount (cplRing d.ring).val)
      else s.writeCpl d.ring (s.cplOf d r)
  else s.answer d r []

/-- Complete with a status alone. -/
def State.finish (s : State) (d : Desc) (status : Nat) : State := s.complete d { status := status }
/-- Complete BAD_DESC with a DETAIL. -/
def State.bad (s : State) (d : Desc) (detail : Nat) : State := s.complete d { status := stBadDesc, detail := detail }
/-- The descriptor passes its commit point (Table 6.3). -/
def State.commit (s : State) (d : Desc) : State :=
  if s.head then s.modStarted d (fun t => { t with committed := true })
  else s.modLnk (fun l => { l with served := l.served.map (fun x => if x.1.same d then (x.1, true) else x) })
/-- A descriptor forwarded to this member is in its hands. -/
def State.serve (s : State) (d : Desc) : State := s.modLnk (fun l => { l with served := l.served ++ [(d, false)] })
def State.finishOpt (s : State) (d : Option Desc) (r : Result) : State :=
  match d with
  | some d => s.complete d r
  | none => s

/-- The device works on a descriptor: the head after its start, another member when it was forwarded. -/
def State.holds (s : State) (d : Desc) : Bool := !s.head || (s.findStarted d).isSome
/-- A descriptor of an opcode is due to reach its block here: the head has started it and it has not reached its block yet; a member that
it is forwarded to does not serve it yet. -/
def State.takes (s : State) (op : Nat) (d : Desc) : Bool :=
  d.opcode == op && (if s.head then (s.findStarted d).any (fun t => !t.sent) else !s.lnk.served.any (fun x => x.1.same d))
/-- It has reached its block. -/
def State.atBlock (s : State) (d : Desc) : State :=
  if s.head then s.modStarted d (fun t => { t with sent := true }) else s.serve d
/-- An opcode's row acts once on a descriptor that is due. -/
def State.taking (s : State) (op : Nat) (d : Desc) (act : State → State) : State := if s.takes op d then act (s.atBlock d) else s

/-- The place of a descriptor: its ring and its entry. -/
def placeWord (d : Desc) : Word := packW [(16, 3, d.ring.val), (0, 16, d.index)]
/-- The words of a request that carries a descriptor: its eight words, the TAG of the request, and its place. -/
def State.forwardWords (s : State) (d : Desc) : List Word := d.words.take 8 ++ [BitVec.ofNat 32 (s.lnk.tagNo % 65536), placeWord d]

/-- Send a descriptor's work to another member as a request (R234, R659); PEER_LOST at once when no route avoids the breaks (R679).
DESIGN CHOICE, log 69. -/
def State.forward (s : State) (d : Desc) (m : Nat) : State :=
  if s.reaches m then
    (s.modStarted d (fun t => { t with sent := true, waits := [m] })).sendReq
      { dst := m, src := s.me, kind := 2, code := d.opcode, tag := 0, words := s.forwardWords d } (some d)
  else s.finish d stPeerLost

/-- A descriptor of member scope acts here, or is forwarded to the member it names; `seen` is what the head notes on the way. -/
def State.atMember (s : State) (op : Nat) (d : Desc) (seen act : State → State) : State :=
  s.taking op d fun s => if s.head && d.member != s.me then (seen s).forward d d.member else act s

/-- The parts of two members of one descriptor put together: the first status that is not OK, and the sums of the results. -/
def mergeResult (a b : Result) : Result :=
  { status := if a.status == stOK then b.status else a.status, detail := if a.status == stOK then b.detail else a.detail
    r0 := a.r0 + b.r0, r1 := a.r1 + b.r1, r2 := a.r2 + b.r2, r3 := a.r3 + b.r3 }

/-- The head passes a descriptor of Lace scope to every other member, with words added, and waits for the part of each and for its own. -/
def State.laceAll (s : State) (d : Desc) (extra : List Word) : State :=
  let s := s.modStarted d (fun t => { t with sent := true, waits := s.me :: s.others })
  s.forEach s.others (fun s m => s.sendReq { dst := m, src := s.me, kind := 2, code := d.opcode, tag := 0, words := s.forwardWords d ++ extra } (some d))

/-- One member's part of a descriptor of Lace scope is done: with the last of them it completes at the head. -/
def State.lacePart (s : State) (d : Desc) (m : Nat) (r : Result) : State :=
  match s.findStarted d with
  | none => s
  | some t =>
    let t' := { t with waits := t.waits.filter (· != m), part := mergeResult t.part r }
    let s := s.modStarted d (fun _ => t')
    if t'.waits.isEmpty then s.complete d t'.part else s

/-- This member's part is done: noted at the head, told to the head by any other. -/
def State.partDone (s : State) (d : Desc) (r : Result) : State := if s.head then s.lacePart d s.me r else s.complete d r

/-- A descriptor that needs a block held in reset completes PEER_RESET (R178). DEDUCED, log 70. -/
def State.needBlk (s : State) (b : Blk) (d : Desc) (act : State → State) : State :=
  if s.free? b then act s else s.finish d stPeerReset

/-! ### Event records (R221 to R227, R257) -/

/-- The lowest-numbered enabled event ring that selects a type (R223). -/
def State.recRing (s : State) (typ : Nat) : Option (Fin 24) :=
  ([16, 17, 18, 19].map ringFin).find? (fun n => s.ringOn n && tb (s.get (Fld.hifRingCtlTypeMask n.val)) (typ - 1))

/-- The sixteen words of a record (Table 6.10). -/
def State.recWords (s : State) (phase : Bool) (seq : BitVec 32) (r : Rec) : List Word :=
  let w0 := packW [(31, 1, b2n phase), (30, 1, b2n (s.untestedOf r.member)), (16, 6, r.member), (0, 8, r.typ)]
  let pip := unsgn 64 r.pip
  let head : List Word := [w0, seq, BitVec.ofNat 32 pip, BitVec.ofNat 32 (pip >>> 32), BitVec.ofNat 32 r.tile, packW [(0, 16, r.frac)]]
  head ++ (r.body ++ List.replicate 10 0).take 10

/-- Write a record into a ring that has room. -/
def State.writeRec (s : State) (n : Fin 24) (r : Rec) : State :=
  let seq := s.hif.rings[n].seq
  let e := s.takeEntry n
  let ws := s.recWords e.2.1 seq r
  let s := e.2.2.modRing n (fun q => { q with seq := q.seq + 1 })
  (s.post (.record n e.1 ws)).ringEvent n

/-- Body of an OVERLOAD record of SOURCE 1 to 3 (Table 6.16). -/
def overloadBody (ring source count first last : Nat) : List Word :=
  [packW [(8, 8, ring), (0, 8, source)], BitVec.ofNat 32 count, BitVec.ofNat 32 first, BitVec.ofNat 32 last]

/-- A record of this device at this moment; `pip` and `frac` are the head's count (Table 6.10). -/
def State.mkRec (s : State) (typ : Nat) (body : List Word) : Rec :=
  { typ := typ, member := s.me
    pip := sgn 64 ((s.rd Reg.pipCountLo).toNat + (s.rd Reg.pipCountHi).toNat * 2 ^ 32)
    frac := s.get Fld.pipFracFrac, tile := s.tile.toNat, body := body }

/-- The OVERLOAD record of SOURCE 1 that a ring owes is written into its first free entry, before any later record (R225). -/
def State.reportDrops (s : State) (n : Fin 24) : State :=
  let q := s.hif.rings[n]
  if q.drops == 0 || s.ringRoom n == 0 || !s.ringOn n then s
  else
    let s := s.modRing n (fun q => { q with drops := 0 })
    s.writeRec n (s.mkRec 0x0E (overloadBody n.val 1 q.drops q.dropFirst q.dropLast))

/-- A record for a ring: written, or dropped and counted when the ring is full (R222, R225). -/
def State.toRing (s : State) (n : Fin 24) (r : Rec) : State :=
  let s := s.reportDrops n
  if s.ringRoom n == 0 then
    (s.modRing n (fun q => { q with seq := q.seq + 1, drops := q.drops + 1
                                    dropFirst := if q.drops == 0 then q.seq.toNat else q.dropFirst
                                    dropLast := q.seq.toNat })).inc (Fld.hifDropCntCount n.val)
  else s.writeRec n r

/-- A record kept in the internal buffer of 256 records, or dropped and counted there (R226, R257). -/
def State.bufferRec (s : State) (r : Rec) : State :=
  if s.hif.buf.length < 256 then s.modHif (fun h => { h with buf := h.buf ++ [r] })
  else s.modHif (fun h => { h with bufDrops := h.bufDrops + 1 })

/-- The head takes a record of the Lace: to its ring, to the buffer, or discarded when no enabled ring selects its type (R203). -/
def State.takeRec (s : State) (r : Rec) : State :=
  if !s.engine || s.pcie.d3hot then s.bufferRec r
  else match s.recRing r.typ with
    | none => s
    | some n => if s.hif.accepts then s.toRing n r else s.bufferRec { r with ring := some n }

/-- The words that carry a record to the head. DESIGN CHOICE, log 10. -/
def recMsgWords (r : Rec) : List Word :=
  let pip := unsgn 64 r.pip
  [packW [(16, 6, r.member), (0, 8, r.typ)], BitVec.ofNat 32 pip, BitVec.ofNat 32 (pip >>> 32), BitVec.ofNat 32 r.tile,
   packW [(0, 16, r.frac)]] ++ r.body

/-- The device posts a record: the head posts every record of the Lace (R22); another member of an epoch sends it to the head; a
device with no head keeps it (R226). -/
def State.postRec (s : State) (r : Rec) : State :=
  if s.head then s.takeRec r
  else if s.lnk.inEpoch then
    s.sendReq { dst := s.headNo, src := s.me, kind := 5, code := msgRecord, tag := 0, words := recMsgWords r } none
  else s.bufferRec r

/-- Post a record of a type with a body. -/
def State.record (s : State) (typ : Nat) (body : List Word) : State := s.postRec (s.mkRec typ body)

/-! ### The fault manager (R788 to R803) -/

/-- Set a bit of FLT_STAT: it sets SPI_STAT.FAULT (R144) and wakes the device (R801). -/
def State.fltBit (s : State) (f : FieldRef) : State := ((s.flag f).flag Fld.spiStatFault).wake 7

/-- FLT_STAT bit of a FAULT code (Table 20.3). -/
def faultBit (code : Nat) : Option FieldRef :=
  match code with
  | 0x01 => some Fld.fltStatRail
  | 0x02 => some Fld.fltStatClock
  | 0x04 => some Fld.fltStatEccUe
  | 0x05 | 0x0B | 0x0C => some Fld.fltStatOvertemp
  | 0x06 => some Fld.fltStatHold
  | 0x07 => some Fld.fltStatRetire
  | 0x08 => some Fld.fltStatAdd
  | 0x0A => some Fld.fltStatRoster
  | 0x0D => some Fld.fltStatSupply
  | 0x0E => some Fld.fltStatSensor
  | 0x0F => some Fld.fltStatFailure
  | _ => none

def State.faultRec (s : State) (code cls inst : Nat) (i0 i1 : Nat) : State :=
  s.record 0x0A [packW [(16, 8, inst), (8, 8, cls), (0, 8, code)], BitVec.ofNat 32 i0, BitVec.ofNat 32 i1, s.rd Reg.fltStat]

/-- Take the limit entry of a code out of the list, or a fresh one. -/
def takeLimit (code : Nat) (l : List FaultLimit) : FaultLimit := (l.find? (·.code == code)).getD ⟨code, [], 0⟩
def putLimit (e : FaultLimit) (l : List FaultLimit) : List FaultLimit := e :: l.filter (·.code != e.code)

/-- A FAULT cause: its FLT_STAT bit is set (R801) unless `silent`, and one record is posted within the limit of FLT_POLICY7
(R802, R803). -/
def State.fault (s : State) (code cls inst i0 i1 : Nat) : State :=
  let s := match faultBit code with
    | some f => s.fltBit f
    | none => s
  let k := s.get (Fld.fltPolicyK 7)
  let w := s.get (Fld.fltPolicyW 7)
  let now := s.flt.ms
  let e := takeLimit code s.flt.limits
  let times := e.times.filter (fun t => now < t + w)
  if k == 0 || times.length < k then
    (s.modFlt (fun f => { f with limits := putLimit { e with times := now :: times } f.limits })).faultRec code cls inst i0 i1
  else
    (s.modFlt (fun f => { f with limits := putLimit { e with times := times, suppressed := e.suppressed + 1 } f.limits })).modTelem
      (fun t => { t with suppressed := satAdd 65535 t.suppressed 1 })

/-- A signed reading of a sensor in units of 0.0625 °C. -/
def State.temp (s : State) (n : Nat) : Int := sgn 16 (s.get (Fld.tempTemp n))
/-- Whole degrees, downwards. -/
def wholeDeg (t : Int) : Int := t / 16
/-- A temperature as an 8-bit signed field that saturates (R866). -/
def deg8 (t : Int) : Nat := unsgn 8 (clampI (-128) 127 (wholeDeg t))

end Sys2Proof.Machine
end

