-- ==== Sys2Proof/Machine/RadioOps.lean ====
section
/-! DEFINITION. What the radio's states mean for its paths, and how a synthesiser, a path or a send is stopped (spec 09): used by the
retirement of an instance, by the losses of rails and clocks, and by the radio's own commands. -/

namespace Sys2Proof.Machine

def allPaths : List (Fin 4) := [0, 1, 2, 3]
def allLos : List (Fin 5) := [0, 1, 2, 3, 4]
def loT : Fin 5 := 4

def stSleep : Nat := 0
def stStandby : Nat := 1
def stSynth : Nat := 2
def stRx : Nat := 3
def stTx : Nat := 4

/-- An instance is retired by the map (R375, R376, R797). -/
def State.pathRetired (s : State) (p : Fin 4) : Bool := s.is ⟨Reg.fltRetireMap0, p.val, 1⟩
def State.loRetired (s : State) (n : Fin 5) : Bool := s.is ⟨Reg.fltRetireMap0, 8 + n.val, 1⟩

def State.loState (s : State) (n : Fin 5) : Nat := s.get (Fld.loStatState n.val)
/-- A field of PATHn_CTL as it is in effect (R352). -/
def State.pathF (s : State) (p : Fin 4) (lo n : Nat) : Nat := getF s.radio.paths[p].ctl lo n
def State.pathEn (s : State) (p : Fin 4) : Bool := s.pathF p 0 1 == 1 && !s.pathRetired p
def State.pathUhf (s : State) (p : Fin 4) : Bool := s.pathF p 1 1 == 1
def State.pathLna (s : State) (p : Fin 4) : Nat := s.pathF p 6 2
/-- The synthesiser that PATHn_CTL selects (R348). -/
def State.pathLo (s : State) (p : Fin 4) : Fin 5 := if s.pathF p 4 1 == 1 then 0 else Fin.ofNat 5 p.val
/-- The enabled paths that take a synthesiser (R350). -/
def State.takers (s : State) (n : Fin 5) : List (Fin 4) := allPaths.filter (fun p => s.pathEn p && s.pathLo p == n)
/-- LO1 to LO3 with no path are held in SLEEP (R350). -/
def State.loHeld (s : State) (n : Fin 5) : Bool := n != 0 && n != loT && (s.takers n).isEmpty
/-- A path is in RX and delivers samples (R349, R325); one powered down for a retry does not (R787). -/
def State.pathRx (s : State) (p : Fin 4) : Bool :=
  s.pathEn p && s.loState (s.pathLo p) == stRx && !s.radio.los[s.pathLo p].gated && s.flt.pathTry[p] != 1

/-- First tile that starts 270 µs or more after an instant, told as a cycle of the current tile (R360). -/
def State.cleanTile (s : State) (cycle : Nat) : Nat := (s.tile.toNat + (if cycle ≤ 46694 then 1 else 2)) % 2 ^ 32

/-- RADIO_STATE.CLEAN of a path. -/
def State.setClean (s : State) (p : Fin 4) (b : Bool) : State :=
  let f : FieldRef := ⟨Reg.radioState, 20 + p.val, 1⟩
  s.putB f b
/-- An event of R360 starts at a path: its current tile carries GAP, and no tile is clean until the event completes. -/
def State.gapStart (s : State) (p : Fin 4) : State :=
  (s.modPath p (fun q => { q with cleanAt := none, gapTile := true })).setClean p false
/-- The event completes: the first clean tile is settled. -/
def State.gapEnd (s : State) (p : Fin 4) (clean : Nat) : State :=
  (s.modPath p (fun q => { q with cleanAt := some clean, gapTile := true })).setClean p false
def State.gapAll (s : State) (ps : List (Fin 4)) : State := s.forEach ps State.gapStart

/-- Paths whose synthesiser retunes or moves: a round loses their statistics (R444). -/
def State.movedAll (s : State) (ps : List (Fin 4)) : State := s.forEach ps (fun s p => s.modPath p (fun q => { q with moved := true }))

/-- STATE of a synthesiser, and its view in RADIO_STATE. -/
def State.setLoState (s : State) (n : Fin 5) (v : Nat) : State :=
  let f : FieldRef := ⟨Reg.radioState, 4 * n.val, 3⟩
  let s := s.cond (v != stRx) (·.forEach (s.takers n) (fun s p => s.modPath p (fun q => { q with rxTile := false })))
  (s.put (Fld.loStatState n.val) v).put f v

/-- A synthesiser stands in a state out of lock: outputs and divider off. -/
def State.loOff (s : State) (n : Fin 5) (v : Nat) : State :=
  let s := s.gapAll (s.takers n)
  let s := (((s.setLoState n v).put (Fld.loStatDiv n.val) 0).putB (Fld.loStatLock n.val) false).putB (Fld.loStatBusy n.val) false
  s.modLo n (fun l => { l with run := none, gated := false, relock := false })

/-- The descriptors among what a synthesiser was asked. -/
def loDesc : LoReq → Option Desc
  | .move d _ => some d
  | .retune d => some d
  | _ => none

/-- A descriptor of the radio ends with a status, wherever it is kept. -/
def State.radioEnds (s : State) (d : Desc) (status : Nat) : State :=
  let s := s.modRadio (fun r => { r with moves := r.moves.filter (fun m => m.d != d) })
  s.finish d status

/-- TAG_DUTY_USED.USED (R581): the on-air time of the grants of the window and the time reserved. -/
def State.dutyUsed (s : State) : Nat := s.tag.log.foldl (fun a e => a + e.2) 0 + s.tag.reserved
def State.putDuty (s : State) : State := s.put Fld.tagDutyUsedUsed s.dutyUsed

/-- The results of a TAG_BEACON (Table 14.11). -/
def beaconResult (b : BeaconReq) (status : Nat) : Result :=
  { status := status, r0 := BitVec.ofNat 32 b.made, r1 := BitVec.ofNat 32 b.crc, r2 := BitVec.ofNat 32 b.accepted
    r3 := packW [(16, 16, b.last), (0, 16, b.first)] }

/-- A beacon series ends: the reservation of the sends not made is released (R582), and its descriptor completes. -/
def State.endBeacon (s : State) (b : BeaconReq) (status : Nat) : State :=
  let s := (s.modTag (fun t => { t with reserved := t.reserved - b.left * b.onAir })).putDuty
  s.finishOpt b.d (beaconResult b status)

/-- The request is the radio scheduler's. -/
def isSend : LoReq → Bool
  | .send _ => true
  | _ => false
/-- The request that the scheduler serves, not granted yet, ends because LOT cannot reach SYNTH (R359, R376). A BEACON action is dropped
without a count: REFUSED counts the drops of R583, R584, R587 and R591 alone. -/
def State.serveEnds (s : State) (status : Nat) : State :=
  match s.tag.cur with
  | some b =>
    if b.stage == 5 then s
    else (s.modTag (fun t => { t with cur := none })).endBeacon b status
  | none => s

/-- Every request of a synthesiser, running or queued, ends with a status. -/
def State.loFlush (s : State) (n : Fin 5) (status : Nat) : State :=
  let l := s.radio.los[n]
  let rs := (l.run.map (·.req)).toList ++ l.queue
  let ds := rs.filterMap loDesc
  let s := (s.modLo n (fun l => { l with run := none, queue := [] })).putB (Fld.loCtlTune n.val) false
  (s.forEach ds (fun s d => s.radioEnds d status)).cond (rs.any isSend) (·.serveEnds status)

/-- A send on the air ends before its time (R64, R325, R593, R808, R868): the PA ramps down, PA_EN falls, and the
series completes with a status and no further send. -/
def State.sendEnds (s : State) (status : Nat) : State :=
  match s.radio.tx with
  | none => s
  | some _ =>
    let s := (s.modRadio (fun r => { r with tx := none })).modTop (fun t => { t with paEn := false })
    let s := s.cond (s.loState loT == stTx) (·.setLoState loT stSynth)
    match s.tag.cur with
    | some b => if b.stage == 5 then (s.modTag (fun t => { t with cur := none })).endBeacon b status else s
    | none => s

/-- Every synthesiser enters SLEEP and PA_EN falls (R64, R808, R868): a send ends with TIMEOUT or a status given, requests in progress end
with a status, TARGET becomes SLEEP. -/
def State.radiosSleep (s : State) (send moves : Nat) : State :=
  let s := s.sendEnds send
  s.forEach allLos (fun s n => (((s.loFlush n moves).loOff n stSleep).put (Fld.loCtlTarget n.val) stSleep))

end Sys2Proof.Machine
end

