-- ==== Sys2Proof/Machine/Fault.lean ====
section
/-! DEFINITION. Links going down, breaks of the epoch and what they end (R676 to R679), failures, transient errors and retirement
(R787 to R799). -/

namespace Sys2Proof.Machine

/-! ### LINK_STATE records and the boot tree -/

def evUp : Nat := 1
def evDown : Nat := 2
def evHalf : Nat := 3
def evGaveUp : Nat := 4
def evRetired : Nat := 5
def evMiswired : Nat := 6
def evForeign : Nat := 7
def evDupId : Nat := 8
def evMemberDown : Nat := 9
def evFormed : Nat := 10
def evExcluded : Nat := 11
def evBroken : Nat := 12

/-- Post a LINK_STATE record about a link (Table 16.13). -/
def State.linkRec (s : State) (ev : Nat) (k : Fin 4) : State :=
  let p := s.rd (Reg.lnkPartner k.val)
  s.record 0x0F [packW [(8, 8, ev), (0, 2, k.val)],
                 packW [(16, 1, getF p 16 1), (8, 6, getF p 8 6), (0, 2, getF p 0 2)],
                 packW [(0, 16, s.epoch)]]
/-- Post a LINK_STATE record about a member or about the epoch. -/
def State.memberRec (s : State) (ev m : Nat) : State :=
  let mem := if ev == evFormed then [s.rd Reg.laceMembersLo, s.rd Reg.laceMembersHi] else []
  s.record 0x0F ([packW [(8, 8, ev)], packW [(8, 6, m)], packW [(0, 16, s.epoch)]] ++ mem)

/-- A link on which DIST blocks and boot tree messages run. -/
def State.trained (s : State) (k : Fin 4) : Bool :=
  [lkUp, lkAsleep, lkForeign, lkMiswired].contains (s.linkState k)

/-- What a device advertises: itself when head, its parent's head one step farther, or 63 for none (R642, R644). -/
def State.advertised (s : State) : Nat × Nat × Nat :=
  if s.head then (s.me, 0, Config.unique.toNat % 2 ^ 32)
  else match s.lnk.headId with
    | some (h, u) => (h, s.lnk.dist, u)
    | none => (0, 63, 0)

/-- One advertisement beats another: smaller distance, then lower identity (R644); links are tried in the order N, E, S, W. -/
def Advert.beats (a : Advert) (b : Option (Fin 4 × Advert)) : Bool :=
  match b with
  | none => decide (a.dist < 63)
  | some (_, b) => decide (a.dist < b.dist) || (a.dist == b.dist && decide (a.uid < b.uid))

/-- Choose the parent again from what the partners advertise (R642, R644, R645), and send DIST blocks when it changes. -/
def State.retree (s : State) : State :=
  if s.head then s
  else
    let best := allLinks.foldl (fun (b : Option (Fin 4 × Advert)) k =>
      match s.lnk.links[k].advert with
      | some a => if s.trained k && a.beats b then some (k, a) else b
      | none => b) none
    let s' := match best with
      | some (k, a) => s.modLnk (fun l => { l with parent := some k, dist := a.dist + 1, headId := some (a.head, a.uid) })
      | none => s.modLnk (fun l => { l with parent := none, dist := 63, headId := none })
    let s' := s'.forEach allLinks (fun s k => s.putB (Fld.lnkStatNoHead k.val) (s.trained k && best.isNone))
    if s'.lnk.parent == s.lnk.parent && s'.lnk.dist == s.lnk.dist && s'.lnk.headId == s.lnk.headId then s'
    else
      let a := s'.advertised
      s'.forEach allLinks (fun s k => s.cond (s.trained k) (·.emit (.ctl k (.dist a.1 a.2.1 a.2.2))))

/-! ### Exchanges ending, breaks -/

def State.exchRun (s : State) (xid : Nat) : Option ExchRun := if xid == 0 then s.exch.run0 else s.exch.run1
def State.exchDef (s : State) (xid : Nat) : Option ExchDef := if xid == 0 then s.exch.def0 else s.exch.def1
def State.setRun (s : State) (xid : Nat) (r : Option ExchRun) : State :=
  let s := s.modExch (fun e => if xid == 0 then { e with run0 := r } else { e with run1 := r })
  s.putB (if xid == 0 then Fld.exchStatRun0 else Fld.exchStatRun1) r.isSome
def State.setDef (s : State) (xid : Nat) (d : Option ExchDef) : State :=
  let s := s.modExch (fun e => if xid == 0 then { e with def0 := d } else { e with def1 := d })
  s.putB (if xid == 0 then Fld.exchStatDef0 else Fld.exchStatDef1) d.isSome

/-- Results of EXCH_START (Table 17.9). -/
def exchResult (r : ExchRun) (status : Nat) : Result :=
  let s0 := r.first.getD 0
  { status := status, r0 := BitVec.ofNat 32 r.carried, r1 := BitVec.ofNat 32 r.lost, r2 := BitVec.ofNat 32 s0
    r3 := BitVec.ofNat 32 (if r.carried == 0 then 0 else s0 + r.carried - 1) }

/-- A running slot ends with a status (Table 17.1); what a source kept and what waits in windows goes with it, and EXCH_STOP
completes OK with it (R701). -/
def State.endExch (s : State) (xid status : Nat) : State :=
  match s.exchRun xid with
  | none => s
  | some r =>
    let s := s.setRun xid none
    let s := if xid == 0 then s.modExch (fun e => { e with kept := e.kept.filter (·.xid != 0), landed := [], released := [], freed := [], todo := [], again := e.again.filter (·.1 != 0) })
             else s.modExch (fun e => { e with accums := e.accums.filter (·.complete), kept := e.kept.filter (·.xid != 1), again := e.again.filter (·.1 != 1) })
    (s.finishOpt r.desc (exchResult r status)).forEach r.stops (fun s d => s.finish d stOK)

/-- A descriptor that acts on the whole Lace (Tables 6.3 and 6.6), LACE_FORM apart. DEDUCED, log 39. -/
def Desc.laceScoped (d : Desc) : Bool :=
  [0x07, 0x08, 0x13, 0x30, 0x31, 0x32, 0x3A].contains d.opcode || (d.opcode == 0x06 && [1, 5].contains (d.f 1 0 3))

/-- Every collective of the epoch ends with PEER_LOST (R678). DEDUCED, log 39. -/
def State.endCollectives (s : State) : State :=
  let s := (s.endExch 0 stPeerLost).endExch 1 stPeerLost
  let ts := s.hif.started.filter (fun t => t.d.laceScoped && !t.waits.isEmpty)
  s.forEach ts (fun s t => s.complete t.d { t.part with status := stPeerLost })

/-- Epoch links of a member that breaks report down (R677): every link of its shape position is broken from one end or the other. -/
def memberCut (h : Shape) (members : Nat) (brk : List (Nat × Nat)) (m : Nat) : Bool :=
  [0, 1, 2, 3].all (fun l => !hopOpen h members brk (h.pos m) l)

/-- A member loss before the solve tile ends a calibration round with no change (R453). -/
def State.calLost (s : State) : State :=
  match s.cal.round with
  | some r =>
    if r.solving then s
    else
      let ds := s.cal.runs.filter (fun d => !s.head || d.member == s.me)
      let s := (s.modCal (fun c => { c with round := none, runs := [] })).put Fld.calStatPhase 0
      s.forEach ds (fun s d => s.finish d stPeerLost)
  | none => s

/-! ### What waits for a lost member -/

/-- The results of a capture (Table 10.7). -/
def capResult (c : Capture) (status : Nat) : Result :=
  { status := status, r0 := BitVec.ofNat 32 c.written, r1 := BitVec.ofNat 32 c.dropped
    r2 := BitVec.ofNat 32 ((c.first.map (fun f => (f + c.pretrig) % 2 ^ 32)).getD 0), r3 := BitVec.ofNat 32 c.last }
/-- A capture before its first tile leaves when it is cancelled (spec 10, Edges). -/
def State.capCancel (s : State) (d : Desc) : State :=
  s.modSamp (fun q => { q with caps := q.caps.map (fun c => match c with
    | some c => if c.d == d then none else some c
    | none => none) })
/-- The capture of a CAPTURE_START, as this member knows it. -/
def State.capOf (s : State) (d : Desc) : Option Capture :=
  allPaths.findSome? (fun r => match s.samp.caps[r] with
    | some c => if c.d == d then some c else none
    | none => none)

/-- What waited for a lost member completes PEER_LOST; of a beacon series the sends already made stand in RESULT0 (R594), and a
capture ends with what it has written. DESIGN CHOICE, log 54. -/
def State.finishLost (s : State) (d : Option Desc) : State :=
  match d with
  | none => s
  | some d =>
    if d.opcode == 0x12 then
      s.draw.finishOpt (some d) { status := stPeerLost, r0 := BitVec.ofNat 32 ((Config.lostSeries s.free 0).toNat % (d.f 1 24 8 + 1))
                                  r1 := Config.lostSeries s.free 1, r2 := Config.lostSeries s.free 2, r3 := Config.lostSeries s.free 3 }
    else if d.opcode == 0x28 then (s.capCancel d).complete d (match s.capOf d with
      | some c => capResult c stPeerLost
      | none => { status := stPeerLost })
    else if d.opcode == 0x03 then (s.modHif (fun h => { h with cancels := h.cancels.filter (fun c => !c.d.same d) })).finish d stPeerLost
    else s.finish d stPeerLost

/-- A member is lost (R677, R679): the head posts MEMBER_DOWN, credits held for it are released, and what waits for it ends. -/
def State.loseMember (s : State) (m : Nat) : State :=
  if s.lnk.lost.contains m || !s.isMember m || m == s.me then s
  else
    let s := s.modLnk (fun l => { l with lost := m :: l.lost, credit := l.credit.filter (·.1 != m)
                                         reqQueue := l.reqQueue.filter (·.dst != m)
                                         headLost := l.headLost || (m == (l.headId.map (·.1)).getD 64) })
    let s := s.cond s.head (·.memberRec evMemberDown m)
    let s := s.calLost.modPwr (fun p => { p with resumeWait := p.resumeWait.filter (· != m) })
    let gone := s.lnk.requests.filter (·.peer == m)
    let s := s.modLnk (fun l => { l with requests := l.requests.filter (·.peer != m) })
    let s := s.forEach gone (fun s r => s.finishLost r.desc)
    s.modBoot (fun b => { b with accepted := b.accepted.filter (· != m)
                                 helloDue := b.helloDue || (m == s.headNo && !s.head) })

/-- A break of the epoch becomes known (R676 to R679). -/
def State.addBreak (s : State) (b : Break) : State :=
  let first := !s.is Fld.laceEpochBroken
  let s := s.modLnk (fun l => { l with breaks := l.breaks ++ [b]
                                       requests := l.requests.map (fun r => { r with afterBreak := true }) })
  let s := if first then ((s.putB Fld.laceEpochBroken true).cond s.head (·.memberRec evBroken b.partner)).endCollectives else s
  let s := if b.kind == 1 then s.loseMember b.partner else s
  s.forEach (s.others) (fun s m => s.cond (memberCut s.shape s.members s.breakPairs m) (·.loseMember m))

/-- Flood a BREAK block on every UP link but one (R676). -/
def State.flood (s : State) (b : Break) (except : Option (Fin 4)) : State :=
  s.forEach allLinks (fun s k => s.cond (s.linkState k == lkUp && except != some k)
    (·.emit (.ctl k (.brk b.kind b.reporter b.link b.partner (s.epoch % 8) b.count))))

/-- The own end of a break: this device reports it. -/
def State.reportBreak (s : State) (k : Fin 4) (kind : Nat) : State :=
  let b : Break := { kind := kind, reporter := s.me, link := k.val, partner := s.get (Fld.lnkPartnerMember k.val)
                     count := s.lnk.breakNo % 256 }
  let s := s.modLnk (fun l => { l with breakNo := l.breakNo + 1 })
  (s.flood b (some k)).addBreak b

/-- Training of a link starts from step 1 with a fresh token (R639, R641). DESIGN CHOICE, log 27. -/
def State.trainLink (s : State) (k : Fin 4) : State :=
  let s := s.draw
  let t := Config.linkToken s.free % 65536
  let s := (s.put (Fld.lnkStatState k.val) lkTraining).modLink k (fun l => { l with token := t, retraining := false, failing := 0 })
  s.forEach [0, 1] (fun s n => s.cond (!tb (s.get (Fld.lnkLanesRetired k.val)) n)
    (·.emit (.ctl k (.train n k.val s.me s.head t))))

/-- A link goes down and trains afresh (R641, R676): its flits in flight are lost, and a link of the epoch becomes a break of a kind
(0 LINK_DOWN, 1 MEMBER_DOWN: the partner came back with a new token). -/
def State.linkLost (s : State) (k : Fin 4) (kind : Nat) : State :=
  let inEp := s.is (Fld.lnkStatInEpoch k.val)
  let n := s.lnk.links[k].txq.length
  let s := (s.put (Fld.lnkStatState k.val) lkDown).flag (Fld.lnkStatDownEv k.val)
  let s := (s.incSat (Fld.lnkStatDownCnt k.val)).put (Fld.lnkStatDiscard k.val) (satAdd 255 (s.get (Fld.lnkStatDiscard k.val)) n)
  let s := (s.putB (Fld.lnkStatInEpoch k.val) false)
  let s := s.linkRec evDown k
  let s := (s.dropWaiting k).modLink k (fun l =>
    { l with retraining := false, failing := 0, rxDiscard := false, replay := [], advert := none, child := false, broken := l.broken || inEp })
  let s := if inEp then s.reportBreak k kind else s
  ((s.putB (Fld.lnkPartnerValid k.val) false).put (Fld.lnkLanesActive k.val) 0).retree
/-- A link goes down and trains again. -/
def State.linkDown (s : State) (k : Fin 4) : State := (s.linkLost k 0).trainLink k

/-! ### Failures and retirement -/

/-- The instance's bit in the retirement map (Table 20.2). -/
def mapField (cls inst : Nat) : Option FieldRef :=
  match cls with
  | 0 => some ⟨Reg.fltRetireMap0, inst, 1⟩
  | 1 => some ⟨Reg.fltRetireMap0, 8 + inst, 1⟩
  | 2 => some ⟨Reg.fltRetireMap0, 16 + inst, 1⟩
  | 3 => some ⟨Reg.fltRetireMap0, 24 + inst, 1⟩
  | 4 => some ⟨Reg.fltRetireMap1, inst, 1⟩
  | 5 => some ⟨Reg.fltRetireMap1, 16 + inst, 1⟩
  | 6 => some ⟨Reg.fltRetireMap2, inst, 1⟩
  | _ => none
/-- The instance is retired. -/
def State.retired (s : State) (cls inst : Nat) : Bool :=
  match mapField cls inst with
  | some f => s.is f
  | none => false
/-- A requester is retired (R629); with six or more banks retired, rank 7 is treated so too (R634). DEDUCED, log 70. -/
def State.reqRetired (s : State) (rank : Nat) : Bool :=
  s.retired 6 rank || (rank == 7 && decide (6 ≤ s.get Fld.storeCtlBanksLost))

/-- Post the RETIRE record (Table 20.8). CAUSE: 0 POLICY, 1 MAP, 2 DERIVED. -/
def State.retireRec (s : State) (cls inst cause fails : Nat) : State :=
  s.record 0x0B [packW [(16, 2, cause), (8, 8, inst), (0, 8, cls)], BitVec.ofNat 32 fails, s.tile,
    s.rd Reg.fltRetireMap0, s.rd Reg.fltRetireMap1, s.rd Reg.fltRetireMap2, s.rd Reg.fltRetireMap3]

/-- ADD mode is retired at an owner of the survey's set (Table 17.1): a request to every other member, of the model's own form. -/
def msgAddGone : Nat := 0x5E

/-- ADD mode is retired (R717, R796). A survey that runs on an octet of this member ends with RESIDUE_FAULT on every member (Table 17.1). -/
def State.retireAdd (s : State) : State :=
  if s.is Fld.fltRetireMap3AddRetired then s
  else
    let s := ((s.putB Fld.fltRetireMap3AddRetired true).putB Fld.exchLaneMapAddRetired true).inc Fld.fltRetireMap3Count
    let s := (s.fltBit Fld.fltStatRetire).retireRec 7 0 2 0
    let owns := match s.exch.def1 with
      | some d => d.octets.any (fun o => d.owners.getD o 64 == s.me)
      | none => false
    let ran := owns && s.exch.run1.isSome
    s.cond ran (fun s => (s.endExch 1 stResidueFault).forEach s.others (fun s m =>
      s.sendReq { dst := m, src := s.me, kind := 2, code := msgAddGone, tag := 0, words := [] } none))

/-- An adder lane or the spare is retired: the spare does the lane's work, or ADD mode goes (R717). -/
def State.retireAdder (s : State) (l : Nat) : State :=
  let s := s.orF Fld.exchLaneMapRetired (2 ^ l)
  let used := s.is Fld.exchLaneMapSpareUsed
  let spareGone := tb (s.get Fld.exchLaneMapRetired) 8
  if l == 8 then s.cond used (·.retireAdd)
  else if used || spareGone then s.retireAdd
  else (s.putB Fld.exchLaneMapSpareUsed true).put Fld.exchLaneMapSpareFor l

/-- Words of one bank of 2 MiB (R598). -/
def bankWords : Nat := 524288

/-- A physical bank is retired (R630, R632 to R634). -/
def State.retireBank (s : State) (p : Nat) : State :=
  let s := (s.orF Fld.bankRetiredBanks (2 ^ p)).inc Fld.storeCtlBanksLost
  let s := if 5 ≤ s.get Fld.storeCtlBanksLost && !s.is Fld.storeCtlNoTiles then
      (s.putB Fld.storeCtlNoTiles true).fault 0x07 0 0 (s.get Fld.storeCtlBanksLost) 0
    else s
  if !s.store.radioLeft && !s.store.exchStarted then
    s.modStore (fun t =>
      let m := t.bankMap.filter (· != p)
      let top := m.length * bankWords
      { t with bankMap := m, words := Sparse.eraseRange t.words top (8 * bankWords)
               ue := t.ue.filter (· < top), ce := t.ce.filter (· < top) })
  else
    let l := s.store.bankMap.findIdx (· == p)
    s.modStore (fun t => { t with moves := t.moves ++ [⟨p, l, 0, 0⟩] })

/-- The mirror of a retirement, and what it does to the instance (R793, Table 20.2). -/
def State.retireEffect (s : State) (cls inst : Nat) : State :=
  match cls with
  | 0 =>
    let p : Fin 4 := Fin.ofNat 4 inst
    let s := (s.modPath p (fun q => { q with rxTile := false })).gapStart p
    s.forEach allLos (fun s n => s.cond (s.loHeld n && s.loState n != stSleep) (fun s => (s.loFlush n stRetired).loOff n stSleep))
  | 1 =>
    let n : Fin 5 := Fin.ofNat 5 inst
    let s := s.cond (n == loT) (·.sendEnds stRetired)
    ((s.loFlush n stRetired).loOff n stSleep).putB (Fld.loStatRetired n.val) true
  | 2 =>
    let k : Fin 4 := Fin.ofNat 4 (inst / 2)
    let act := s.get (Fld.lnkLanesActive k.val)
    let s := (s.orF (Fld.lnkLanesRetired k.val) (2 ^ (inst % 2))).put (Fld.lnkLanesActive k.val) (if tb act (inst % 2) then act - 2 ^ (inst % 2) else act)
    s.cond (s.linkState k == lkUp && act == 3) (·.linkRec evHalf k)
  | 3 =>
    let k : Fin 4 := Fin.ofNat 4 inst
    let s := s.cond (s.trained k) (·.linkLost k 0)
    (s.put (Fld.lnkStatState k.val) lkRetired).linkRec evRetired k
  | 4 => s.retireBank inst
  | 5 => s.retireAdder inst
  | _ => s

/-- Retire one instance once (R797, R798). -/
def State.retire1 (s : State) (cls inst cause fails : Nat) : State :=
  match mapField cls inst with
  | none => s
  | some f =>
    if s.is f then s
    else
      let s := ((s.putB f true).inc Fld.fltRetireMap3Count).fltBit Fld.fltStatRetire
      (s.retireEffect cls inst).retireRec cls inst cause fails

/-- Retire an instance, and the link whose two lanes are then both retired (R796). -/
def State.retire (s : State) (cls inst cause fails : Nat) : State :=
  let s := s.retire1 cls inst cause fails
  if cls == 2 && s.get (Fld.lnkLanesRetired (inst / 2)) == 3 then s.retire1 3 (inst / 2) 2 0 else s

/-- A failure of an instance (R788 to R792): it is retired once, with CAUSE = POLICY (R813). DEDUCED, log 68. -/
def State.fail (s : State) (cls inst : Nat) (transient : Bool) : State :=
  if s.retired cls inst then s
  else
    let k := s.get (Fld.fltPolicyK cls)
    let w := s.get (Fld.fltPolicyW cls)
    let now := s.flt.ms
    let old := ((s.flt.fails.find? (fun e => e.cls == cls && e.inst == inst)).map (·.times)).getD []
    let times := (now :: old).take k
    let n := if k == 0 then 1 else (times.filter (fun t => decide (now ≤ t + w))).length
    let s := s.modFlt (fun f => { f with
      fails := if k == 0 then f.fails else ⟨cls, inst, times⟩ :: f.fails.filter (fun e => !(e.cls == cls && e.inst == inst)) })
    let s := s.modTelem (fun t => { t with failures := satAdd 65535 t.failures 1
                                           transient := if transient then satAdd (2 ^ 32 - 1) t.transient 1 else t.transient })
    let s := s.cond transient (·.inc Fld.fltTransientCntCount)
    let s := s.fault 0x0F cls inst n (b2n transient)
    s.cond (decide (0 < k) && decide (k ≤ n)) (·.retire cls inst 0 n)

/-- A transient error that is no failure (R788). -/
def State.transientErr (s : State) (cls inst : Nat) : State :=
  if s.retired cls inst then s
  else
    let s := (s.inc Fld.fltTransientCntCount).modTelem (fun t => { t with transient := satAdd (2 ^ 32 - 1) t.transient 1 })
    s.cond (s.is (Fld.fltPolicyTrec cls)) (·.fault 0x10 cls inst 0 0)

end Sys2Proof.Machine
end

