-- ==== Sys2Proof/Machine/Link.lean ====
section
/-! DEFINITION. The Bobbin links (spec 16): training and fast retrains, the boot tree, the link protocol with its acknowledgements,
replays and credits, breaks and low-power idle. -/

namespace Sys2Proof.Machine

/-- The lanes of a link that may be used: 0 and 1 but for the retired. -/
def State.usableLanes (s : State) (k : Fin 4) : Nat := 3 - s.get (Fld.lnkLanesRetired k.val)

/-! ### Training (R639 to R641, R651, R652) -/

/-- LINK_TRAINING_START (R639, Table 3.2): every link that is down and not retired starts training with a fresh token. -/
def execLinkTrainingStart (s : State) : Host.Outcome State Fault Refusal :=
  live s fun s => s.forEach allLinks (fun s k => s.cond (s.linkState k == lkDown) (·.trainLink k))

/-- A DIST block on one link with what this device advertises (R642). -/
def State.sendDist (s : State) (k : Fin 4) : State :=
  let a := s.advertised
  s.emit (.ctl k (.dist a.1 a.2.1 a.2.2))

/-- LINK_TRAINING_DONE (Table 16.2, R640, R651, R677): lanes that passed steps 1 to 4, the inversions and the deskew found, and what
the partner's TRAIN blocks name. A partner that comes back over a broken link of the epoch with its token unchanged is a failure of
the link; with a new token it is reported as MEMBER_DOWN. -/
def execLinkTrainingDone (link : Fin 4) (lanes inverted skew member plink : Nat) (phead : Bool) (token : Nat) (s : State) :
    Host.Outcome State Fault Refusal :=
  live s fun s =>
    let act := lanes % 4 &&& s.usableLanes link
    if s.linkState link != lkTraining || act == 0 then s
    else
      let old := s.lnk.links[link]
      let again := s.is (Fld.lnkStatGaveUp link.val) || old.partnerToken.isSome
      let s := (((s.put (Fld.lnkLanesActive link.val) act).put (Fld.lnkLanesInverted link.val) (inverted % 4)).put
        (Fld.lnkLanesSkew link.val) skew)
      let s := (((s.putB (Fld.lnkPartnerValid link.val) true).putB (Fld.lnkPartnerHead link.val) phead).put
        (Fld.lnkPartnerMember link.val) member).put (Fld.lnkPartnerLink link.val) plink
      let s := (s.put (Fld.lnkStatState link.val) lkUp).putB (Fld.lnkStatGaveUp link.val) false
      let s := s.modLink link (fun l => { l with partnerToken := some token, txNo := 0, rxNo := 0, rxDiscard := false, unacked := 0
                                                 replay := [], credit := freshCredits, owed := ⟨0, 0, 0⟩, broken := false })
      let s := s.cond again (·.linkRec evUp link)
      let s := if old.broken && old.partnerToken == some token then s.fail 3 link.val false
               else s.cond old.broken (·.reportBreak link 1)
      s.retree.sendDist link

/-- A device that trains no link within 50 ms forms a Lace of one (R640); it reads ALIGNED from its internal SYNC (R340). -/
def State.loneLace (s : State) : State :=
  s.cond (!s.head && allLinks.all (fun k => s.is (Fld.lnkStatGaveUp k.val) || s.linkState k == lkRetired)) fun s =>
    (s.modLnk (fun l => { l with loneLace := true })).cond s.clk.synced (·.putB Fld.clkSyncStatAligned true)

/-- LINK_GIVE_UP (R640): 50 ms without training. The link keeps trying. -/
def execLinkGiveUp (link : Fin 4) (s : State) : Host.Outcome State Fault Refusal :=
  live s fun s =>
    if s.linkState link == lkTraining && !s.lnk.links[link].retraining && !s.is (Fld.lnkStatGaveUp link.val) then
      ((s.flag (Fld.lnkStatGaveUp link.val)).linkRec evGaveUp link).loneLace
    else s

/-- LANE_LOCK_LOSS (R641, R650): a lane that carries blocks loses block lock or shows too many invalid sync headers, and a fast retrain
starts. -/
def execLaneLockLoss (link : Fin 4) (lane : Fin 2) (errors : Nat) (s : State) : Host.Outcome State Fault Refusal :=
  live s fun s =>
    if ((s.trained link && s.linkState link != lkAsleep) || s.lnk.links[link].retraining) && tb (s.get (Fld.lnkLanesActive link.val)) lane.val then
      let f := if lane.val == 0 then Fld.lnkLanesErr0 link.val else Fld.lnkLanesErr1 link.val
      let s := s.put f (satAdd 255 (s.get f) errors)
      (s.put (Fld.lnkStatState link.val) lkTraining).modLink link
        (fun l => { l with retraining := true, failing := l.failing ||| 2 ^ lane.val })
    else s

/-- Send again every flit kept, from the one numbered `no`; a flit sent again for the eighth time is a failure of the link (R648,
R651). -/
def State.resend (s : State) (k : Fin 4) (no : Nat) : State :=
  let l := s.lnk.links[k]
  let i := l.replay.findIdx (·.no == no)
  let tail := (l.replay.drop i).map (fun e => { e with resent := e.resent + 1 })
  let s := s.modLink k (fun l => { l with replay := l.replay.take i ++ tail })
  let s := s.emits (tail.map (fun e => .flit k e.f.seal))
  s.cond (tail.any (·.resent == 8)) (·.fail 3 k.val false)

/-- FAST_RETRAIN_END (R641, R650, R676): the lanes that relocked at both ends and the partner's token. The link is UP again and replays
from the first flit not acknowledged, or it goes down. A lane that did not relock fails; one that did fails transiently. -/
def execFastRetrainEnd (link : Fin 4) (lanes token : Nat) (s : State) : Host.Outcome State Fault Refusal :=
  live s fun s =>
    let l := s.lnk.links[link]
    if !l.retraining then s
    else
      let had := s.get (Fld.lnkLanesActive link.val)
      let act := lanes &&& had &&& s.usableLanes link
      let same := l.partnerToken == some token
      let s := s.modLink link (fun l => { l with retraining := false, failing := 0 })
      let judge (s : State) : State := s.forEach [0, 1] (fun s n =>
        if tb had n && (tb l.failing n || !tb act n) then s.fail 2 (2 * link.val + n) (tb act n) else s)
      if act == 0 || !same then
        judge (((s.put (Fld.lnkStatState link.val) lkUp).linkLost link (if same || act == 0 then 0 else 1)).trainLink link)
      else
        let s := (s.put (Fld.lnkStatState link.val) lkUp).put (Fld.lnkLanesActive link.val) act
        let s := match l.replay with
          | [] => s
          | e :: _ => s.resend link e.no
        let s := s.cond (had == 3 && act != 3) (·.linkRec evHalf link)
        (judge s).pump link

/-! ### The boot tree (R642 to R645) -/

/-- Links whose partner has adopted another head become FOREIGN, and UP again when it has not (R644). -/
def State.foreign (s : State) : State :=
  let mine := s.advertised
  s.forEach allLinks (fun s k =>
    match s.lnk.links[k].advert with
    | none => s
    | some a =>
      let other := decide (mine.2.1 < 63) && decide (a.dist < 63) && !(a.head == mine.1 && a.uid == mine.2.2)
      if s.linkState k == lkUp && other then (s.put (Fld.lnkStatState k.val) lkForeign).linkRec evForeign k
      else if s.linkState k == lkForeign && !other then s.put (Fld.lnkStatState k.val) lkUp
      else s)

/-- DIST_BLOCK (R642, R644): the partner's head, distance and identity, and whether the partner took this device as its parent. -/
def execDistBlock (link : Fin 4) (head dist uid : Nat) (child : Bool) (s : State) : Host.Outcome State Fault Refusal :=
  live s fun s =>
    if s.trained link then
      (s.modLink link (fun l => { l with advert := some ⟨dist, head, uid⟩, child := child })).retree.foreign
    else s

/-- BOOT_TREE_MESSAGE (R643, R645): an upward message goes on towards the head, a downward one to every child; without a parent an
upward message is discarded. What a message addressed to this device does is the row of that message. -/
def execBootTreeMessage (link : Fin 4) (up : Bool) (m : Msg) (s : State) : Host.Outcome State Fault Refusal :=
  live s fun s =>
    if !(s.linkState link == lkUp || s.linkState link == lkMiswired) then s
    else
      let ks := if up then (if s.head then [] else match s.lnk.parent with
          | some p => if p == link then [] else [p]
          | none => [])
        else if s.lnk.parent == some link then s.children else []
      let fs := flitsOf { m with kind := 6 } 0
      s.forEach ks (fun s k => s.forEach fs (fun s f => (s.offer k ⟨f, link.val, 2, none⟩).pump k))

/-! ### Flits, acknowledgements and credits (R646 to R649, R671) -/

/-- Send an ACK block with every credit owed (R648, R649): the FLOW block carries both. -/
def State.sendAck (s : State) (k : Fin 4) : State :=
  let l := s.lnk.links[k]
  let c := l.owed
  (s.modLink k (fun l => { l with owed := ⟨0, 0, 0⟩, unacked := 0 })).emit
    (.ctl k (.flow ((l.rxNo + 255) % 256) c.vc0 c.vc1 c.boot))

/-- A whole message of kind 5 has reached the head: its record is taken (R22). Its form is this model's. -/
def State.takeRecordMsg (s : State) (ws : List Word) : State :=
  let w (i : Nat) : Word := ws.getD i 0
  s.takeRec { typ := getF (w 1) 0 8, member := getF (w 1) 16 6, pip := sgn 64 ((w 2).toNat + (w 3).toNat * 2 ^ 32)
              tile := (w 4).toNat, frac := getF (w 5) 0 16, body := ws.drop 6 }

/-- Ejection of a flit at its destination (R646, R661, R685): residues are checked, the message is taken when its last flit has come,
and one with a failed residue is dropped and counted. -/
def State.eject (s : State) (f : Flit) : State :=
  let ok := (f.data.zip f.res).all (fun (d, r) => res7 d == r % 8) || f.kind ≤ 1
  let old := if f.first then none else s.lnk.partials.find? (fun p => p.src == f.src && p.kind == f.kind)
  let ws := ((old.map (·.words)).getD []) ++ f.data
  let bad := (old.map (·.bad)).getD false || !ok
  let s := s.modLnk (fun l => { l with partials := l.partials.filter (fun p => !(p.src == f.src && p.kind == f.kind)) })
  if !f.last then s.modLnk (fun l => { l with partials := ⟨f.src, f.kind, ws, bad⟩ :: l.partials })
  else if bad then s.incSat Fld.laceEpochStaleDrop
  else s.cond (f.kind == 5 && s.head) (·.takeRecordMsg ws)

/-- A flit taken from a link: dropped when its epoch is not the current one (R671), ejected, or sent on along its route (R654 to
R656); its place in the input buffer is owed back once it has left it (R649). A boot tree flit leaves it at once: its message goes on
with BOOT_TREE_MESSAGE. -/
def State.switchFlit (s : State) (k : Fin 4) (f : Flit) : State :=
  let w : Waiting := ⟨f, k.val, f.buf, some s.lnk.links[k].rxNo⟩
  if f.kind == 6 then s.placeFree w
  else if f.epoch % 8 != s.epoch % 8 then (s.incSat Fld.laceEpochStaleDrop).placeFree w
  else
    let outTo (l : Nat) : Fin 4 × Flit := (Fin.ofNat 4 l, { f with vc := nextVc s.shape (s.pos s.me) (some (opposite k.val)) f.vc l })
    if f.bcast then (s.passFlit w ((bcastLinks s.shape s.lnk.routes s.breakPairs f.src s.me).map outTo)).eject f
    else if f.dest == s.me then (s.placeFree w).eject f
    else s.passFlit w ((s.route f.dest).toList.map outTo)

/-- FLIT_RECEIVE (R647, R648). A flit that the partner holds for a link in low-power idle wakes the device (R681). `again` tells that this flit is the one a NAK asked for. -/
def execFlitReceive (link : Fin 4) (f : Flit) (again : Bool) (s : State) : Host.Outcome State Fault Refusal :=
  live s fun s =>
    let l := s.lnk.links[link]
    if s.pst == 2 && s.linkState link == lkAsleep then s.wake 1
    else if !(s.linkState link == lkUp || (s.linkState link == lkMiswired && f.kind == 6)) then s
    else if l.rxDiscard && !again then s
    else if f.crc != f.crcOf then
      ((s.inc (Fld.lnkCrcCntCount link.val)).modLink link (fun l => { l with rxDiscard := true })).emit (.ctl link (.nak l.rxNo))
    else
      let s := s.modLink link (fun l => { l with rxDiscard := false, rxNo := (l.rxNo + 1) % 256, unacked := l.unacked + 1 })
      let s := s.switchFlit link f
      s.cond (8 ≤ s.lnk.links[link].unacked) (·.sendAck link)

/-- Flits covered by an ACK leave the replay buffer (R648). -/
def State.acked (s : State) (k : Fin 4) (no : Nat) : State :=
  let r := s.lnk.links[k].replay
  let i := r.findIdx (·.no == no)
  (s.modLink k (fun l => { l with replay := if i < r.length then r.drop (i + 1) else r })).pump k

/-- ACK_BLOCK (R648). -/
def execAckBlock (link : Fin 4) (no : Nat) (s : State) : Host.Outcome State Fault Refusal :=
  live s fun s => s.cond (s.trained link) (·.acked link no)

/-- NAK_BLOCK (R648): resend from the flit named onward. -/
def execNakBlock (link : Fin 4) (expect : Nat) (s : State) : Host.Outcome State Fault Refusal :=
  live s fun s =>
    if s.linkState link == lkUp && s.lnk.links[link].replay.any (·.no == expect) then
      (s.inc (Fld.lnkReplayCntCount link.val)).resend link expect
    else s

/-- REPLAY_TIMEOUT (R648): 4 µs without ACK or NAK while flits remain unacknowledged. -/
def execReplayTimeout (link : Fin 4) (s : State) : Host.Outcome State Fault Refusal :=
  live s fun s =>
    match s.lnk.links[link].replay with
    | [] => s
    | e :: _ => s.cond (s.linkState link == lkUp) (fun s => (s.inc (Fld.lnkReplayCntCount link.val)).resend link e.no)

/-- ACK_SEND (R648). -/
def execAckSend (link : Fin 4) (s : State) : Host.Outcome State Fault Refusal :=
  live s fun s => s.cond (s.linkState link == lkUp || s.linkState link == lkMiswired) (·.sendAck link)

/-- FLOW_BLOCK (R649): acknowledgement and credits returned. -/
def execFlowBlock (link : Fin 4) (ack vc0 vc1 boot : Nat) (s : State) : Host.Outcome State Fault Refusal :=
  live s fun s =>
    s.cond (s.trained link) fun s =>
      (s.modLink link (fun l => { l with credit := ⟨min 16 (l.credit.vc0 + vc0), min 16 (l.credit.vc1 + vc1)
                                                    , min 4 (l.credit.boot + boot)⟩ })).acked link ack

/-- LANE_CHK_SEND (R810, Table 16.8): link idle maintenance on each lane that carries blocks. -/
def execLaneChkSend (link : Fin 4) (lane : Fin 2) (s : State) : Host.Outcome State Fault Refusal :=
  live s fun s =>
    s.cond (s.linkState link == lkUp && tb (s.get (Fld.lnkLanesActive link.val)) lane.val) (·.emit (.ctl link (.laneChk lane.val)))

/-! ### Breaks and low-power idle (R676 to R681) -/

/-- LINK_DOWN_DETECT (R676): a link is seen to be down; the idle of a sleeping link is no loss (R681). -/
def execLinkDownDetect (link : Fin 4) (s : State) : Host.Outcome State Fault Refusal :=
  live s fun s =>
    s.cond ((s.trained link && s.linkState link != lkAsleep) || s.lnk.links[link].retraining) (·.linkDown link)

/-- BREAK_BLOCK (R676 to R679): a BREAK block not seen before, of the current epoch, is taken and forwarded. -/
def execBreakBlock (link : Fin 4) (kind reporter rlink partner epoch count : Nat) (s : State) : Host.Outcome State Fault Refusal :=
  live s fun s =>
    let b : Break := ⟨kind, reporter, rlink, partner, count⟩
    if s.linkState link != lkUp || epoch != s.epoch % 8 || s.lnk.breaks.any (fun c => c.reporter == reporter && c.count == count && c.link == rlink)
    then s
    else (s.flood b (some link)).addBreak b

/-- REQUEST_BREAK_TIMEOUT (R679): a request sent before a break, without response 1 ms after it. -/
def execRequestBreakTimeout (tag : Nat) (s : State) : Host.Outcome State Fault Refusal :=
  live s fun s =>
    match s.lnk.requests.find? (fun r => r.tag == tag && r.afterBreak) with
    | none => s
    | some r =>
      let s := s.modLnk (fun l => { l with requests := l.requests.filter (·.tag != tag), reqQueue := l.reqQueue.filter (·.tag != tag) }) |>.cond
        (!s.lnk.reqQueue.any (·.tag == tag)) (·.creditBack r.peer)
      s.finishLost r.desc

/-- SLEEP_BLOCK (R681): the partner enters or leaves low-power idle; flits held for the link go out on its return. -/
def execSleepBlock (link : Fin 4) (entering : Bool) (s : State) : Host.Outcome State Fault Refusal :=
  live s fun s =>
    if entering && s.linkState link == lkUp then s.put (Fld.lnkStatState link.val) lkAsleep
    else if !entering && s.linkState link == lkAsleep then (s.put (Fld.lnkStatState link.val) lkUp).pump link
    else s

end Sys2Proof.Machine
end

