-- ==== Sys2Proof/Machine/Pip.lean ====
section
/-! DEFINITION. The pip timebase and the scheduler (spec 07): the count with its sources, fraction and rate, events and their firings,
the beacons and notices that carry the pip across a Lace. -/

namespace Sys2Proof.Machine

/-! ### Count, fraction, rate (R264 to R277) -/

def srcHost : Nat := 0
def srcQuad : Nat := 1
def srcPulse : Nat := 2
def srcDab : Nat := 3
def srcRds : Nat := 4
def srcLace : Nat := 5

def State.pipSrc (s : State) : Nat := s.get Fld.pipSrcSrc
/-- The pip count, signed (R264). -/
def State.pipCount (s : State) : Int := sgn 64 ((s.rd Reg.pipCountLo).toNat + (s.rd Reg.pipCountHi).toNat * 2 ^ 32)
def State.setPipCount (s : State) (c : Int) : State :=
  let n := unsgn 64 c
  (s.wr Reg.pipCountLo (BitVec.ofNat 32 n)).wr Reg.pipCountHi (BitVec.ofNat 32 (n >>> 32))
def State.pipPeriod (s : State) : Nat := s.get Fld.pipRatePeriod

/-- The fraction at a time since the last edge (R277). -/
def fracAt (since period : Nat) : Nat := if period == 0 then 0 else min 0xFFFF (since * 65536 / period)
/-- Time since the last edge, as told. DESIGN CHOICE, log 11. -/
def State.setSince (s : State) (ns : Nat) : State :=
  (s.modPip (fun p => { p with since := ns })).put Fld.pipFracFrac (fracAt ns s.pipPeriod)
def State.setCycle (s : State) (c : Nat) : State := s.modPip (fun p => { p with cycle := c % 245760 })

/-- An edge's interval and direction go into PIP_RATE; an interval of 1 s or more, or no edge before, leaves PERIOD 0 (R276). -/
def State.edgeRate (s : State) (ns : Nat) (down : Bool) : State :=
  let per := if s.pip.edged && ns < 1000000000 then ns else 0
  (((s.modPip (fun p => { p with edged := true })).put Fld.pipRatePeriod per).putB Fld.pipRateDir down).setSince 0

/-- A Lace time some nanoseconds after a tile and cycle: cycles of 737.28 MHz, 245,760 to a tile (R276). DESIGN CHOICE, log 11. -/
def laceTime (tile cycle ns : Nat) : Nat × Nat :=
  let c := cycle + ns * 73728 / 100000
  ((tile + c / 245760) % 2 ^ 32, c % 245760)

/-! ### Events (R279 to R292, R312) -/

/-- The event of the six words of an entry (Table 7.4). -/
def eventOf (ws : List Word) : PipEvent :=
  let w (i : Nat) : Word := ws.getD i 0
  { slot := getF (w 0) 0 8, frac := getF (w 0) 16 16, action := getF (w 0) 12 4, recd := getF (w 0) 11 1 == 1
    periodic := getF (w 0) 10 1 == 1, dir := getF (w 0) 8 2, target := sgn 64 ((w 1).toNat + (w 2).toNat * 2 ^ 32)
    period := (w 3).toNat, arg := w 4, left := if (w 5).toNat == 0 then none else some (w 5).toNat, fired := 0, qual := none }

def actWinOpen : Nat := 1
def actWinClose : Nat := 2
def actBeacon : Nat := 3
def actAudioStart : Nat := 4
def actCapture : Nat := 5
def actCalSlot : Nat := 6
def actGpioSet : Nat := 7
def actGpioClear : Nat := 8
def actRecord : Nat := 9

/-- Bits of ARG that Table 7.2 names for an action. -/
def argMask (a : Nat) : Nat :=
  if a == 1 || a == 2 || a == 3 then 0xFFFF
  else if a == 5 then 3
  else if a == 6 then 0xFFFF000F
  else if a == 7 || a == 8 then 7
  else if a == 9 then 0xFFFFFFFF
  else 0

/-- The DETAIL of an entry that is not well formed (R286, R289, R312); `dir0` admits DIR = 0. -/
def eventJudge (ws : List Word) (dir0 : Bool) : Option Nat :=
  let e := eventOf ws
  if e.dir == 0 then (if dir0 then none else some dtOperand)
  else if e.action == 0 || 9 < e.action then some dtOperand
  else if e.arg.toNat &&& argMask e.action != e.arg.toNat then some dtReserved
  else if e.action == actCalSlot && getF e.arg 16 16 == 0 then some dtOperand
  else if e.periodic && (e.dir == 3 || e.period == 0) then some dtOperand
  else if !e.periodic && e.period != 0 then some dtOperand
  else none

/-- An edge to a new count qualifies an event (R279). -/
def edgeQualifies (e : PipEvent) (new : Int) (down : Bool) : Bool :=
  e.target == new && (if down then e.dir == 2 || e.dir == 3 else e.dir == 1 || e.dir == 3)
/-- A jump qualifies an event (R280). -/
def jumpQualifies (e : PipEvent) (old new : Int) : Bool :=
  (decide (old < e.target) && decide (e.target ≤ new) && (e.dir == 1 || e.dir == 3)) ||
  (decide (e.target < old) && decide (new ≤ e.target) && (e.dir == 2 || e.dir == 3))

/-- Targets of a periodic series beyond the first that a jump passes over, none beyond what REPEATS leaves (R290 to R292). -/
def passedOver (e : PipEvent) (new : Int) : Nat :=
  if e.periodic && 0 < e.period then
    let n := (new - e.target).natAbs / e.period
    match e.left with
    | some k => min n (k - 1)
    | none => n
  else 0

/-- The event after a firing that passed over `k` further targets: re-armed (R289), or none (R288, R291). -/
def afterFiring (e : PipEvent) (k : Nat) : Option PipEvent :=
  if !e.periodic then none
  else
    let step : Int := (e.period : Int) * ((k : Int) + 1)
    let t := if e.dir == 2 then e.target - step else e.target + step
    let left := e.left.map (fun n => n - (k + 1))
    if left == some 0 then none
    else some { e with target := t, left := left, fired := e.fired + 1, qual := none }

def State.slotEv (s : State) (n : Nat) : Option PipEvent := Sparse.find s.pip.slots n
def State.setSlot (s : State) (n : Nat) (e : Option PipEvent) : State :=
  s.modPip (fun p => { p with slots := match e with
    | some e => Sparse.insert p.slots n e
    | none => Sparse.erase p.slots n })

/-- The scheduler commits a firing, and re-arms or empties the slot (R283, R288 to R292). -/
def State.commitFiring (s : State) (e : PipEvent) (edgeDir tile cycle skipped : Nat) : State :=
  let c : PipCommit := ⟨{ e with qual := none }, edgeDir, tile, cycle, e.fired + 1, skipped⟩
  (s.setSlot e.slot (afterFiring e skipped)).modPip (fun p => { p with commits := p.commits ++ [c] })

/-- A sub-pip instant cut short by an edge at a tile and cycle (R281). DEDUCED, log 66. -/
def State.cutShort (s : State) (tile cycle : Nat) : State :=
  let l := s.pip.slots.filter (fun e => e.2.qual.isSome)
  s.forEach l (fun s e => s.commitFiring e.2 ((e.2.qual.map (·.edgeDir)).getD 0) tile cycle 0)

/-! ### What the head sends (R298, R299) -/

def msgBeacon : Nat := 0x60
def msgNotice : Nat := 0x61

/-- A notice to every member: EDGE_DIR, the counts, FRAC and the qualifying instant. -/
def State.sendNotice (s : State) (edgeDir : Nat) (old new : Int) (frac tile cycle : Nat) (revised : Bool) : State :=
  let o := unsgn 64 old
  let n := unsgn 64 new
  s.sendMsg { dst := s.me, src := s.me, kind := 4, code := msgNotice, tag := 0, bcast := true,
              words := [packW [(0, 2, edgeDir), (8, 1, b2n revised), (16, 16, frac)], BitVec.ofNat 32 o, BitVec.ofNat 32 (o >>> 32),
                        BitVec.ofNat 32 n, BitVec.ofNat 32 (n >>> 32), BitVec.ofNat 32 tile, BitVec.ofNat 32 cycle] }

/-- The head learns of an event armed at another member (R299). -/
def State.noteRemote (s : State) (m : Nat) (e : PipEvent) : State :=
  s.modPip (fun p => { p with remote := (p.remote.filter (fun r => !(r.1 == m && r.2.slot == e.slot))) ++ (if e.dir == 0 then [] else [(m, e)]) })
def State.dropRemote (s : State) (m : Nat) (slot : Option Nat) : State :=
  s.modPip (fun p => { p with remote := p.remote.filter (fun r => !(r.1 == m && (slot.isNone || slot == some r.2.slot))) })

/-- The head follows the events it knows at other members through an edge or jump, and sends the notices (R299). `ns` is the interval
of the edge: a sub-pip instant that the edge cuts short is told by a revised notice (R281). -/
def State.noticeRemote (s : State) (edgeDir : Nat) (old new : Int) (ns : Nat) : State :=
  if !s.head || s.others.isEmpty then s
  else
    let tile := s.tile.toNat
    let cyc := s.pip.cycle
    let jump := edgeDir == 3
    let late := s.pip.remote.filter (fun r => match r.2.qual with
      | some q => !jump && (q.period == 0 || decide (ns * 65536 < r.2.frac * q.period))
      | none => false)
    let s := s.forEach late (fun s r => s.sendNotice ((r.2.qual.map (·.edgeDir)).getD 0) old new r.2.frac tile cyc true)
    let s := s.cond (!jump) (·.modPip (fun p => { p with remote := p.remote.map (fun r => (r.1, { r.2 with qual := none })) }))
    let hit := s.pip.remote.filter (fun r => s.isMember r.1 && !s.lnk.lost.contains r.1 &&
      (if jump then jumpQualifies r.2 old new else edgeQualifies r.2 new (edgeDir == 2)))
    let fracs := hit.foldl (fun l r => if l.contains r.2.frac then l else l ++ [r.2.frac]) ([] : List Nat)
    let per := s.pipPeriod
    let s := s.forEach fracs (fun s f =>
      let t := if jump then (tile, cyc) else laceTime tile cyc (f * per / 65536)
      s.sendNotice edgeDir old new f t.1 t.2 false)
    s.modPip (fun p => { p with remote := p.remote.filterMap (fun r =>
      if hit.contains r then
        (afterFiring r.2 (if jump then passedOver r.2 new else 0)).map (fun e =>
          (r.1, if jump || r.2.frac == 0 then e else { e with qual := some ⟨edgeDir, tile, cyc, per⟩ }))
      else some r) })

/-! ### Steps and jumps (R276 to R282, R307, R309, R310) -/

/-- Pending events whose target lies behind the count in their direction (Table 7.7); EITHER counts as never behind. -/
def State.behind (s : State) : Nat :=
  (s.pip.slots.filter (fun e => (e.2.dir == 1 && decide (e.2.target < s.pipCount)) || (e.2.dir == 2 && decide (s.pipCount < e.2.target)))).length

/-- A backstep: the counter advances and a PIP_BACKSTEP record is posted (R310). -/
def State.backstep (s : State) (kind : Nat) (old new : Int) : State :=
  let o := unsgn 64 old
  let n := unsgn 64 new
  (s.inc Fld.pipBackstepCntCount).record 0x08
    [packW [(0, 8, kind)], BitVec.ofNat 32 o, BitVec.ofNat 32 (o >>> 32), BitVec.ofNat 32 n, BitVec.ofNat 32 (n >>> 32),
     BitVec.ofNat 32 s.behind, s.tile, BitVec.ofNat 32 s.pip.cycle]

/-- The count comes near a pending event's target outside D0 (R307). -/
def State.guardWake (s : State) (qualified : Bool) : State :=
  let g := s.get Fld.pipCtlGuard
  let near := 0 < g && s.pip.slots.any (fun e => decide ((e.2.target - s.pipCount).natAbs ≤ g))
  s.cond ((s.pst == 2 || s.pst == 3) && (near || qualified)) (·.wake 5)

/-- An edge (R276, R279, R281): instants still pending are cut short, the count steps, and events qualify. -/
def State.pipEdge (s : State) (down : Bool) (ns cycle : Nat) : State :=
  let s := (s.setCycle cycle).edgeRate ns down
  let tile := s.tile.toNat
  let cyc := s.pip.cycle
  let s := s.cutShort tile cyc
  let old := s.pipCount
  let new := sgn 64 (unsgn 64 (if down then old - 1 else old + 1))
  let s := s.setPipCount new
  let ed := if down then 2 else 1
  let hit := s.pip.slots.filter (fun e => edgeQualifies e.2 new down)
  let per := s.pipPeriod
  let s := s.forEach hit (fun s e =>
    if e.2.frac == 0 then s.commitFiring e.2 ed tile cyc 0
    else s.setSlot e.1 (some { e.2 with qual := some ⟨ed, tile, cyc, per⟩ }))
  let s := s.noticeRemote ed old new ns
  let s := if s.pip.highest < new then s.modPip (fun p => { p with highest := new, revWait := false }) else s
  let tooFar := decide ((s.get Fld.pipCtlJumpLimit : Int) < s.pip.highest - new) && !s.pip.revWait
  let s := s.cond tooFar (fun s => (s.modPip (fun p => { p with revWait := true })).backstep 0 s.pip.highest new)
  s.guardWake (!hit.isEmpty)

/-- A jump of a kind (Table 7.7) to a new count (R277, R280, R290, R310). DEDUCED, log 66. -/
def State.pipJump (s : State) (kind : Nat) (new : Int) : State :=
  let old := s.pipCount
  let s := (s.setPipCount new).setSince 0
  let hit := s.pip.slots.filter (fun e => e.2.qual.isNone && jumpQualifies e.2 old new)
  let tile := s.tile.toNat
  let cyc := s.pip.cycle
  let s := s.forEach hit (fun s e => s.commitFiring e.2 3 tile cyc (passedOver e.2 new))
  let s := s.noticeRemote 3 old new 0
  let s := s.modPip (fun p => { p with highest := new, revWait := false })
  let s := s.cond (decide (s.get Fld.pipCtlJumpLimit < (new - old).natAbs)) (·.backstep kind old new)
  s.guardWake (!hit.isEmpty)

/-- Up and down exchanged for QUAD and PULSE_DIR (R267). -/
def State.pipDown (s : State) (down : Bool) : Bool := if s.is Fld.pipSrcInvert then !down else down

/-- PIP_EDGE_QUAD (R268, R270): the levels of PIP_A and PIP_B after filtering. -/
def execPipEdgeQuad (a b : Bool) (ns cycle : Nat) (s : State) : Host.Outcome State Fault Refusal :=
  inBlock .pip s fun s =>
    let ca := a != s.pip.ballA
    let cb := b != s.pip.ballB
    let s := s.modPip (fun p => { p with ballA := a, ballB := b })
    if s.pipSrc != srcQuad then s
    else if ca && cb then s.flag Fld.pipSrcQerr
    else if s.is Fld.pipCtlQx4 then
      if ca then s.pipEdge (s.pipDown (a == b)) ns cycle
      else if cb then s.pipEdge (s.pipDown (a != b)) ns cycle
      else s
    else if ca && a then s.pipEdge (s.pipDown b) ns cycle
    else s

/-- PIP_EDGE_PULSE (R265): a rising edge of PIP_A with PIP_DIR at a level. -/
def execPipEdgePulse (dir : Bool) (ns cycle : Nat) (s : State) : Host.Outcome State Fault Refusal :=
  inBlock .pip s fun s => s.cond (s.pipSrc == srcPulse) (fun s => s.pipEdge (s.pipDown dir) ns cycle)

/-- PIP_HOMING (R271). -/
def execPipHoming (cycle : Nat) (s : State) : Host.Outcome State Fault Refusal :=
  inBlock .pip s fun s =>
    s.cond (s.is Fld.pipCtlZArm && (s.pipSrc == srcQuad || s.pipSrc == srcPulse)) fun s =>
      ((s.setCycle cycle).putB Fld.pipCtlZArm false).pipJump 3 0

/-- A write of 1 to Z_ARM (R271). -/
def State.zArm (s : State) : State := s.cond (s.pipSrc == srcQuad || s.pipSrc == srcPulse) (·.putB Fld.pipCtlZArm true)

/-- A write of PIP_COUNT with SRC HOST (R265, R272): one step, or a jump; the same value again moves nothing. -/
def State.pipHostWrite (s : State) (v : Int) (ns cycle : Nat) : State :=
  if s.pipSrc != srcHost then s
  else
    let c := s.pipCount
    if v == c + 1 then s.pipEdge false ns cycle
    else if v == c - 1 then s.pipEdge true ns cycle
    else if v == c then s
    else (s.setCycle cycle).pipJump 1 v

/-- A change of PIP_SRC.SRC (R275): the count stays, fraction and rate become 0. -/
def State.pipSrcChanged (s : State) : State :=
  ((s.wr Reg.pipRate 0).wr Reg.pipFrac 0).modPip (fun p => { p with edged := false, since := 0, beaconOk := false })

/-- PIP_STOPPED (R276): no edge for 1 s. -/
def execPipStopped (s : State) : Host.Outcome State Fault Refusal :=
  inBlock .pip s fun s => (s.put Fld.pipRatePeriod 0).wr Reg.pipFrac 0

/-- PIP_QUAL_INSTANT (R281, R283): the sub-pip instant of a slot's event arrives. With PERIOD 0 only the next edge is its instant. -/
def execPipQualInstant (slot : Nat) (s : State) : Host.Outcome State Fault Refusal :=
  inBlock .pip s fun s =>
    match s.slotEv slot with
    | some e => match e.qual with
      | some q =>
        if q.period == 0 then s
        else
          let t := laceTime q.tile q.cycle (e.frac * q.period / 65536)
          s.commitFiring e q.edgeDir t.1 t.2 0
      | none => s
    | none => s

/-! ### Actions (R283 to R287, Tables 7.2 and 7.6) -/

/-- The PIP_FIRED record of a firing (Table 7.6). -/
def State.firedRec (s : State) (c : PipCommit) (lateNs : Nat) : State :=
  let e := c.ev
  let t := unsgn 64 e.target
  let late := decide (25 < lateNs)
  s.record 0x07
    [packW [(16, 16, e.frac), (15, 1, b2n (s.slotEv e.slot).isNone), (14, 1, b2n late), (12, 2, c.edgeDir), (8, 4, e.action), (0, 8, e.slot)],
     BitVec.ofNat 32 t, BitVec.ofNat 32 (t >>> 32), e.arg, BitVec.ofNat 32 c.count, BitVec.ofNat 32 c.tile, BitVec.ofNat 32 c.cycle,
     BitVec.ofNat 32 (if late then min lateNs (2 ^ 32 - 1) else 0), BitVec.ofNat 32 c.skipped]

/-- The action of a slot's committed firing takes effect, `lateNs` after it was due (R283, R284, R302, R308; 0 on time, R773); then its record is
posted (R287). Outside D0 it waits (R308). A committed firing takes effect even when the PIP block has been held since (R311). -/
def State.fireAction (s : State) (action slot lateNs : Nat) (eff : State → PipEvent → State) : State :=
  if s.pst != 0 then s
  else match s.pip.commits.find? (fun c => c.ev.slot == slot && c.ev.action == action) with
    | none => s
    | some c =>
      let s := eff (s.modPip (fun p => { p with commits := p.commits.erase c })) c.ev
      s.cond (c.ev.recd || action == actRecord || decide (25 < lateNs)) (·.firedRec c lateNs)

/-- A GPIO ball is driven (R47, R285). -/
def State.gpio (s : State) (n : Nat) (level : Bool) : State :=
  s.modTop (fun t => { t with gpio := upd t.gpio (Fin.ofNat 8 n) (fun _ => ⟨true, level⟩) })

/-- PIP_GPIO_SET (R285). -/
def execPipGpioSet (slot lateNs : Nat) (s : State) : Host.Outcome State Fault Refusal :=
  running s (·.fireAction actGpioSet slot lateNs (fun s e => s.gpio (getF e.arg 0 3) true))
/-- PIP_GPIO_CLEAR (R285). -/
def execPipGpioClear (slot lateNs : Nat) (s : State) : Host.Outcome State Fault Refusal :=
  running s (·.fireAction actGpioClear slot lateNs (fun s e => s.gpio (getF e.arg 0 3) false))
/-- PIP_POST_RECORD (R287): a record and nothing else. -/
def execPipPostRecord (slot lateNs : Nat) (s : State) : Host.Outcome State Fault Refusal :=
  running s (·.fireAction actRecord slot lateNs (fun s _ => s))

/-! ### Arming and disarming (R293 to R297) -/

/-- PIP_EVENT_ARM (R293): commits as the entry lands, and completes OK with the slot and whether an event was replaced. -/
def execPipEventArm (d : Desc) (s : State) : Host.Outcome State Fault Refusal :=
  running s fun s =>
    let e := eventOf (d.words.drop 1)
    s.atMember 0x20 d (·.noteRemote d.member e) fun s =>
      s.needBlk .pip d fun s =>
        let had := (s.slotEv e.slot).isSome
        ((s.setSlot e.slot (some e)).commit d).complete d
          { status := stOK, r0 := BitVec.ofNat 32 e.slot, r1 := BitVec.ofNat 32 (b2n had) }

/-- PIP_EVENT_DISARM (R294, R295). -/
def execPipEventDisarm (d : Desc) (s : State) : Host.Outcome State Fault Refusal :=
  running s fun s =>
    let slot := d.f 1 0 8
    let all := d.f 1 8 1 == 1
    s.atMember 0x21 d (·.dropRemote d.member (if all then none else some slot)) fun s =>
      s.needBlk .pip d fun s =>
        let s := s.commit d
        if all then
          let n := s.pip.slots.length
          (s.modPip (fun p => { p with slots := [] })).complete d { status := stOK, r0 := BitVec.ofNat 32 n }
        else
          let busy := s.pip.commits.any (·.ev.slot == slot)
          let had := (s.slotEv slot).isSome
          let s := s.setSlot slot none
          if busy then s.finish d stCancelLate
          else if had then s.complete d { status := stOK, r0 := 1 }
          else s.finish d stNotFound

/-- Entries of six words. -/
def entries : Nat → List Word → List (List Word)
  | 0, _ => []
  | n + 1, ws => if ws.isEmpty then [] else ws.take 6 :: entries n (ws.drop 6)

/-- The DETAIL of a region 7 update that is not well formed (R296). DEDUCED, log 41. -/
def tableJudge (ws : List Word) : Option Nat :=
  let es := entries 257 ws
  let slots := es.map (fun e => (eventOf e).slot)
  match es.findSome? (fun e => eventJudge e true) with
  | some t => some t
  | none => if slots.eraseDups.length == slots.length then none else some dtOperand

/-- A region 7 update takes effect at one instant (R296, R297). -/
def State.pipTable (s : State) (ws : List Word) (part : Bool) : State :=
  let s := if part then s else s.modPip (fun p => { p with slots := [] })
  s.forEach (entries 257 ws) (fun s e =>
    let e := eventOf e
    s.setSlot e.slot (if e.dir == 0 then none else some e))
/-- The head notes what a region 7 update does to another member's events (R299). -/
def State.noteTable (s : State) (m : Nat) (ws : List Word) (part : Bool) : State :=
  let s := if part then s else s.dropRemote m none
  s.forEach (entries 257 ws) (fun s e => s.noteRemote m (eventOf e))

/-! ### The pip across a Lace (R298 to R305) -/

/-- The head's pip beacon goes to every other member (R298). -/
def State.pipBeacon (s : State) : State :=
  let n := unsgn 64 s.pipCount
  s.cond (s.head && !s.others.isEmpty && !s.is Fld.pwrStateRest) (·.sendMsg
    { dst := s.me, src := s.me, kind := 4, code := msgBeacon, tag := 0, bcast := true,
      words := [BitVec.ofNat 32 n, BitVec.ofNat 32 (n >>> 32), s.rd Reg.pipFrac, s.rd Reg.pipRate, s.tile, BitVec.ofNat 32 s.pip.cycle] })

/-- PIP_BEACON_SEND (R298): the head's count, fraction, rate and direction with the Lace time at which they held. Lace rest sends
none (R777). -/
def execPipBeaconSend (sinceNs cycle : Nat) (s : State) : Host.Outcome State Fault Refusal :=
  inBlock .pip s fun s =>
    ((s.setCycle cycle).setSince sinceNs).pipBeacon

/-- PIP_BEACON_RECEIVE (R298, R304, R305): count, fraction and rate are set; a move of more than one step is a LACE_RESYNC jump. -/
def execPipBeaconReceive (count : Int) (frac : Nat) (rate : Word) (s : State) : Host.Outcome State Fault Refusal :=
  inBlock .pip s fun s =>
    if s.pipSrc != srcLace || s.head then s
    else
      let s := s.modPip (fun p => { p with beaconOk := true })
      let s := if decide (1 < (count - s.pipCount).natAbs) then s.pipJump 4 count else s.setPipCount count
      (s.wr Reg.pipRate rate).put Fld.pipFracFrac frac

/-- PIP_NOTICE_RECEIVE (R299, R300, R302): the qualifying instant of an edge or jump of the head, or a revised one. Events with its
target, FRAC and direction commit; an event whose sub-pip instant is still to come waits for it. -/
def execPipNoticeReceive (edgeDir : Nat) (old count : Int) (frac tile cycle : Nat) (revised : Bool) (s : State) :
    Host.Outcome State Fault Refusal :=
  inBlock .pip s fun s =>
    if s.pipSrc != srcLace || s.head || !s.pip.beaconOk then s
    else if revised then
      let l := s.pip.slots.filter (fun e => e.2.qual.isSome && e.2.frac == frac)
      s.forEach l (fun s e => s.commitFiring e.2 ((e.2.qual.map (·.edgeDir)).getD edgeDir) tile cycle 0)
    else
      let s := s.setPipCount count
      if edgeDir == 3 then
        let l := s.pip.slots.filter (fun e => e.2.frac == frac && e.2.qual.isNone && jumpQualifies e.2 old count)
        s.forEach l (fun s e => s.commitFiring e.2 3 tile cycle (passedOver e.2 count))
      else
        let l := s.pip.slots.filter (fun e => e.2.frac == frac && e.2.qual.isNone && edgeQualifies e.2 count (edgeDir == 2))
        s.forEach l (fun s e =>
          if frac == 0 then s.commitFiring e.2 edgeDir tile cycle 0
          else s.setSlot e.1 (some { e.2 with qual := some ⟨edgeDir, tile, cycle, s.pipPeriod⟩ }))

/-- PIP_LOCK_LOSS (R303): no beacon for 1 ms. -/
def execPipLockLoss (s : State) : Host.Outcome State Fault Refusal :=
  inBlock .pip s fun s => s.cond (s.pipSrc == srcLace) (·.modPip (fun p => { p with beaconOk := false }))

/-! ### The lead (R306) and a hold of the block (R311) -/

/-- Time in ns from the current position to an event, when it lies in the direction of motion. -/
def State.leadTo (s : State) (e : PipEvent) : Option Nat :=
  let down := s.is Fld.pipRateDir
  let per := s.pipPeriod
  let d := if down then s.pipCount - e.target else e.target - s.pipCount
  if e.qual.isSome || d ≤ 0 || e.dir == (if down then 1 else 2) then none
  else
    let travel := d.toNat * 65536 - s.get Fld.pipFracFrac
    some ((travel * per + e.frac * per) / 65536)
/-- PWR_NEXT_LEAD in microseconds (R306): 0 while a firing waits for D0, all ones when unbounded. -/
def State.nextLead (s : State) : Nat :=
  let big := 2 ^ 32 - 1
  if !s.pip.commits.isEmpty then 0
  else if s.pipPeriod == 0 || s.pipSrc == srcHost then big
  else s.pip.slots.foldl (fun m e => match s.leadTo e.2 with
    | some n => min m (n / 1000)
    | none => m) big

/-- The PIP block is held (R311): slots emptied without firing, registers to reset; a firing committed before stays. -/
def State.pipHeld (s : State) : State :=
  s.modPip (fun p => { p with slots := [], highest := 0, revWait := false, edged := false, since := 0, beaconOk := false })

end Sys2Proof.Machine
end

