-- ==== Sys2Proof/Machine/Radio.lean ====
section
/-! DEFINITION. Synthesisers, radio states, retunes and their calibration, and the steps of a send (spec 09). -/

namespace Sys2Proof.Machine

/-! ### Dividers and ranges (R353, R354) -/

def divSet : List Nat := [4, 5, 6, 8, 10, 12, 16, 20, 24, 32, 40, 48, 64, 80]
/-- The smallest divider that brings the DCO to 3.0 GHz or more (R353). -/
def divOf (f : Nat) : Nat := (divSet.find? (fun d => decide (3000000000 ≤ f * d))).getD 80
/-- A frequency a synthesiser tunes to (R354). -/
def freqOk (n : Fin 5) (f : Nat) : Bool :=
  if n == loT then (decide (420000000 ≤ f) && decide (f ≤ 480000000)) || (decide (840000000 ≤ f) && decide (f ≤ 960000000))
  else decide (37500000 ≤ f) && decide (f ≤ 1050000000)

def State.loFreqReg (s : State) (n : Fin 5) : Nat := (s.rd (Reg.loFreq n.val)).toNat
/-- VDD_RF and VDD_PA are both good (R65, R357). -/
def State.radioRails (s : State) : Bool := s.env.rails.rf && s.env.rails.pa
/-- Thermal protection holds (R808). DEDUCED, log 48. -/
def State.protect (s : State) : Bool := s.is Fld.fltStatProtect

/-! ### Calibration of a synthesiser (R361 to R367) -/

def State.calThreshold (s : State) (n : Fin 5) : Int :=
  let d := s.get (Fld.loCalmodeDtemp n.val)
  (if d == 0 then 8 else d) * 16
/-- The held set of a divider range: T1 when it was taken. -/
def State.heldSet (s : State) (n : Fin 5) (div : Nat) : Option Int := (s.radio.los[n].sets.find? (·.1 == div)).map (·.2)
/-- The held set is current (R361). -/
def State.setCurrent (s : State) (n : Fin 5) (div : Nat) : Bool :=
  match s.heldSet n div with
  | some t => decide (((s.temp 1 - t).natAbs : Int) < s.calThreshold n)
  | none => false
/-- An entry into SYNTH, or a retune, calibrates (R362 to R365). -/
def State.needCal (s : State) (n : Fin 5) (freq : Nat) (entry force noCal : Bool) : Bool :=
  let div := divOf freq
  if noCal then (s.heldSet n div).isNone
  else force || s.is (Fld.loStatCalDue n.val) ||
    (if s.is (Fld.loCalmodePolicy n.val) then entry || freq != s.radio.los[n].freq else !s.setCurrent n div)

/-- The synthesiser is locked at a frequency; a calibration replaces the held set of its range (R359, R365, R366). -/
def State.loLock (s : State) (n : Fin 5) (freq : Nat) (cal : Bool) : State :=
  let div := divOf freq
  let s := if cal then
      (s.modLo n (fun l => { l with sets := (div, s.temp 1) :: l.sets.filter (·.1 != div) })).putB (Fld.loStatCalDue n.val) false
    else s
  let t := (s.heldSet n div).getD 0
  let s := s.modLo n (fun l => { l with freq := freq, gated := false, relock := false })
  ((s.put (Fld.loStatDiv n.val) div).putB (Fld.loStatLock n.val) true).put (Fld.loStatCalTemp n.val) (deg8 t)

/-- T1 has moved past the threshold from the set in use: CAL_DUE (R365). -/
def State.calDue (s : State) : State :=
  s.forEach allLos (fun s n =>
    match s.heldSet n (s.get (Fld.loStatDiv n.val)) with
    | some t => s.cond (s.is (Fld.loStatLock n.val) && decide (s.calThreshold n ≤ ((s.temp 1 - t).natAbs : Int))) (·.flag (Fld.loStatCalDue n.val))
    | none => s)

/-! ### Requests (R355, R358, R359) -/

/-- The latest of two tile sequence numbers, 0 standing for none. -/
def laterTile (a b : Nat) : Nat := if a == 0 then b else if seqLater b a then b else a
/-- The latest first-clean tile among the paths of a synthesiser. -/
def State.cleanOf (s : State) (n : Fin 5) : Nat :=
  (s.takers n).foldl (fun m p => laterTile m ((s.radio.paths[p].cleanAt).getD 0)) 0

/-- A request of a synthesiser is done (R359, Table 9.7). -/
def State.loDone (s : State) (n : Fin 5) (req : LoReq) (cal : Bool) : State :=
  let s := s.putB (Fld.loStatBusy n.val) false
  match req with
  | .target _ => s
  | .tune _ => s.putB (Fld.loCtlTune n.val) false
  | .move d t =>
    let clean := if t == stRx then s.cleanOf n else 0
    let ms := s.radio.moves.map (fun m => if m.d == d then
      { m with left := m.left.filter (· != n.val), cal := m.cal || cal, clean := laterTile m.clean clean } else m)
    let s := s.modRadio (fun r => { r with moves := ms.filter (fun m => !(m.d == d && m.left.isEmpty)) })
    match ms.find? (fun m => m.d == d && m.left.isEmpty) with
    | some m => s.complete d { status := stOK, r0 := BitVec.ofNat 32 m.clean, r1 := BitVec.ofNat 32 (b2n m.cal) }
    | none => s
  | .place i _ => s.modSrc (Fin.ofNat 4 i) (fun q => { q with tuned := true })
  | .probe _ => s
  | .send _ => s
  | .retune d =>
    let rx := s.loState n == stRx
    s.complete d { status := stOK, r0 := BitVec.ofNat 32 (if rx then s.cleanOf n else 0)
                   r1 := packW [(8, 8, s.get (Fld.loStatDiv n.val)), (0, 1, b2n cal)] }

/-- Start a request: none when it is done at once, else the request as it runs. A synthesiser that no path takes stays in SLEEP, and
so does every synthesiser under thermal protection; its request is then done (R350, R808). -/
def State.loBegin (s : State) (n : Fin 5) (req : LoReq) : State × Option LoRun :=
  let st := s.loState n
  let freq := s.loFreqReg n
  let retune (s : State) (f : Nat) (force noCal : Bool) : State × Option LoRun :=
    if st < stSynth then (s, none)
    else
      let cal := s.needCal n f false force noCal
      if f == s.radio.los[n].freq && s.is (Fld.loStatLock n.val) && !cal then (s, none)
      else (s, some ⟨req, 5, f, cal, false, false⟩)
  let move (s : State) (t : Nat) : State × Option LoRun :=
    let s := s.put (Fld.loCtlTarget n.val) t
    if t == st || s.loHeld n || s.loRetired n then (s, none)
    else if t < st then (s, some ⟨req, t, freq, false, false, false⟩)
    else if st == stSleep && s.protect then (s, none)
    else
      let cal := st == stStandby && s.needCal n freq true false false
      (s, some ⟨req, st + 1, freq, cal, false, st == stSleep && !s.radioRails⟩)
  match req with
  | .target t => move s t
  | .move _ t => move s t
  | .tune force => retune s freq force false
  | .retune d => retune (s.wr (Reg.loFreq n.val) (d.w 2)) (d.w 2).toNat (d.f 1 8 1 == 1) (d.f 1 9 1 == 1)
  | .place _ f => retune (s.wr (Reg.loFreq n.val) (BitVec.ofNat 32 f)) f false false
  | .probe f => retune s f false false
  | .send f =>
    let s := s.wr (Reg.loFreq n.val) (BitVec.ofNat 32 f)
    if st < stSynth then
      let m := move s stSynth
      (m.1, m.2.map (fun r => { r with freq := f, cal := st == stStandby && s.needCal n f true false false }))
    else retune s f false false

/-- Serve the queue of a synthesiser while requests are done at once (R358); one in TX waits for the end of the beacon. -/
def loServeN : Nat → State → Fin 5 → State
  | 0, s, _ => s
  | k + 1, s, n =>
    let l := s.radio.los[n]
    match l.queue with
    | [] => s
    | req :: rest =>
      if l.run.isSome || s.loState n == stTx then s
      else
        let s := s.modLo n (fun l => { l with queue := rest })
        let b := s.loBegin n req
        match b.2 with
        | none => loServeN k (b.1.loDone n req false) n
        | some r =>
          let s := match loDesc req with
            | some d => b.1.commit d
            | none => b.1
          let s := (s.modLo n (fun l => { l with run := some r })).putB (Fld.loStatBusy n.val) true
          s.cond (s.loState n == stRx) (fun s => (s.gapAll (s.takers n)).movedAll (s.takers n))
def State.loServe (s : State) (n : Fin 5) : State := loServeN (s.radio.los[n].queue.length + 1) s n

/-- A request reaches a synthesiser (R358). -/
def State.loRequest (s : State) (n : Fin 5) (req : LoReq) : State :=
  (s.modLo n (fun l => { l with queue := l.queue ++ [req] })).loServe n

/-- SYNTH_STEP_DONE (R355, R359, R360): the step or retune in progress ends, at a cycle of the current tile. -/
def execSynthStepDone (unit : Fin 5) (cycle : Nat) (s : State) : Host.Outcome State Fault Refusal :=
  inBlock .radio s fun s =>
    match s.radio.los[unit].run with
    | none => s
    | some r =>
      if r.waits then s
      else
        let st := s.loState unit
        let s := s.modLo unit (fun l => { l with run := none })
        let any := r.anyCal || r.cal
        if r.next == 5 then
          let s := s.loLock unit r.freq r.cal
          let s := s.cond (st == stRx) (fun s => s.forEach (s.takers unit) (fun s p => s.gapEnd p (s.cleanTile cycle)))
          (s.loDone unit r.req any).loServe unit
        else
          let s := if r.next == stSynth && st < stSynth then (s.setLoState unit stSynth).loLock unit r.freq r.cal
            else if r.next == stRx then
              let s := s.setLoState unit stRx
              s.forEach (s.takers unit) (fun s p => s.gapEnd p (s.cleanTile cycle))
            else if r.next == stSynth then s.setLoState unit stSynth
            else s.loOff unit r.next
          let t := match r.req with
            | .target t => t
            | .move _ t => t
            | .send _ => stSynth
            | _ => r.next
          if r.next < t then
            let b := s.loBegin unit r.req
            match b.2 with
            | none => (b.1.loDone unit r.req any).loServe unit
            | some r' => (b.1.modLo unit (fun l => { l with run := some { r' with anyCal := any } })).putB (Fld.loStatBusy unit.val) true
          else (s.loDone unit r.req any).loServe unit

/-- SYNTH_LOCK_TIMEOUT (R359): no lock within 1 ms of the step; the synthesiser returns to STANDBY and the failure counts. -/
def execSynthLockTimeout (unit : Fin 5) (s : State) : Host.Outcome State Fault Refusal :=
  inBlock .radio s fun s =>
    match s.radio.los[unit].run with
    | none => s
    | some r =>
      if r.waits || !(r.next == 5 || (r.next == stSynth && s.loState unit == stStandby)) then s
      else
        let s := (s.loOff unit stStandby).cond (r.next == 5) (·.putB (Fld.loCtlTune unit.val) false)
        let s := match loDesc r.req with
          | some d => s.radioEnds d stTimeout
          | none => s.cond (isSend r.req) (·.serveEnds stTimeout)
        (s.fail 1 unit.val false).loServe unit

/-- SYNTH_RELOCK_TIMEOUT (R787, Table 20.1): a synthesiser that lost lock has not relocked within 1 ms. -/
def execSynthRelockTimeout (unit : Fin 5) (s : State) : Host.Outcome State Fault Refusal :=
  inBlock .radio s fun s =>
    s.cond s.radio.los[unit].relock (fun s => (s.modLo unit (fun l => { l with relock := false })).fail 1 unit.val false)

/-- RADIO_RAIL_WAIT_TIMEOUT (R65): the rails are not good within 1 ms of the descriptor; the radio still waits for them. -/
def execRadioRailWaitTimeout (unit : Fin 5) (s : State) : Host.Outcome State Fault Refusal :=
  inBlock .radio s fun s =>
    match s.radio.los[unit].run with
    | none => s
    | some r =>
      if !r.waits then s
      else match r.req with
        | .move d t => (s.modLo unit (fun l => { l with run := some { r with req := .target t } })).radioEnds d stTimeout
        | _ => s

/-- Both rails are good: moves that waited for them begin (R65). -/
def State.railsBack (s : State) : State :=
  if s.radioRails then
    s.modRadio (fun r => { r with los := r.los.map (fun l => { l with run := l.run.map (fun x => { x with waits := false }) }) })
  else s

/-- TUNE (R359, R361 to R367, R376). -/
def execTune (d : Desc) (s : State) : Host.Outcome State Fault Refusal :=
  running s fun s =>
    s.atMember 0x10 d id fun s =>
      s.needBlk .radio d fun s =>
        let n : Fin 5 := Fin.ofNat 5 (d.f 1 0 3)
        if !freqOk n (d.w 2).toNat then s.bad d 0x40
        else if s.loRetired n then s.finish d stRetired
        else s.loRequest n (.retune d)

/-- RADIO_STATE (R355 to R359, R376, R377, R808). -/
def execRadioState (d : Desc) (s : State) : Host.Outcome State Fault Refusal :=
  running s fun s =>
    s.atMember 0x11 d id fun s =>
      s.needBlk .radio d fun s =>
        let t := d.f 1 8 3
        let us := allLos.filter (fun n => tb (d.f 1 0 5) n.val)
        if stSynth ≤ t && us.any (fun n => s.loFreqReg n == 0) then s.bad d 0x40
        else if us.any (fun n => s.loRetired n) then s.finish d stRetired
        else if s.protect && 0 < t && us.any (fun n => s.loState n == stSleep) then s.finish d stBusyRetry
        else
          let s := s.modRadio (fun r => { r with moves := r.moves ++ [⟨d, us.map (·.val), false, 0⟩] })
          s.forEach us (fun s n => s.loRequest n (.move d t))

/-- A CANCEL reaches a descriptor that waits for its synthesiser: it leaves every queue (R358, R239). -/
def State.radioCancel (s : State) (d : Desc) : State :=
  let s := s.modRadio (fun r => { r with moves := r.moves.filter (fun m => m.d != d)
                                         los := r.los.map (fun l => { l with queue := l.queue.filter (fun q => loDesc q != some d) }) })
  s

/-- INVALIDATE (R361): every held set of a synthesiser is discarded. -/
def State.loInvalidate (s : State) (n : Fin 5) : State := s.modLo n (fun l => { l with sets := [] })

/-! ### Losses of lock, of reference and of rails (R64, R321 to R325) -/

/-- A synthesiser that runs loses lock (kind 0) or reference (kind 1): gated, flag, FAULT record, GAP on its paths (R323, R325). -/
def State.loLoss (s : State) (n : Fin 5) (kind : Nat) : State :=
  if s.loState n < stSynth || !s.is (Fld.loStatLock n.val) then s
  else
    let s := (s.putB (Fld.loStatLock n.val) false).flag (if kind == 0 then Fld.loStatLol n.val else Fld.loStatLor n.val)
    let s := s.modLo n (fun l => { l with gated := true, relock := kind == 0 })
    let s := s.gapAll (s.takers n)
    let s := s.cond (n == loT) (·.sendEnds stTimeout)
    if s.is Fld.clkSysCtlNoRec then s.fltBit Fld.fltStatClock else s.fault 0x02 0 n.val kind 0

/-- A gated synthesiser relocks: its output restarts, and the first clean tile is settled (R322, R360, Table 20.1). -/
def State.loRelock (s : State) (n : Fin 5) (cycle : Nat) : State :=
  let l := s.radio.los[n]
  if !l.gated then s
  else
    let s := (s.modLo n (fun l => { l with gated := false, relock := false })).putB (Fld.loStatLock n.val) true
    let s := s.cond (s.loState n == stRx) (fun s => s.forEach (s.takers n) (fun s p => s.gapEnd p (s.cleanTile cycle)))
    s.cond l.relock (·.transientErr 1 n.val)

/-- VDD_RF or VDD_PA is lost (R64): every synthesiser enters SLEEP and stays there until the host moves it. DEDUCED, log 48. -/
def State.radioRailLost (s : State) (supply : Nat) : State :=
  (s.radiosSleep stTimeout stTimeout).fault 0x01 0 supply 0 0

/-! ### Path settings at a tile boundary (R350, R352, R360, R374) -/

/-- PATHn_CTL changes take effect; synthesisers that are taken afresh move to TARGET, and those no longer taken sleep. -/
def State.pathBoundary (s : State) : State :=
  let held := allLos.filter (fun n => s.loHeld n)
  let s := s.forEach allPaths (fun s p =>
    let w := s.rd (Reg.pathCtl p.val)
    if w == s.radio.paths[p].ctl || s.pathRetired p then s
    else
      let s := s.modPath p (fun q => { q with ctl := w, moved := true })
      if s.pathRx p then s.gapEnd p ((s.tile.toNat + 1) % 2 ^ 32) else s.gapStart p)
  s.forEach allLos (fun s n =>
    if s.loHeld n && !held.contains n && s.loState n != stSleep then
      let l := s.radio.los[n]
      let s := (s.modLo n (fun l => { l with queue := [] })).loOff n stSleep
      s.forEach ((l.run.map (·.req)).toList ++ l.queue) (fun s q => s.loDone n q false)
    else if !s.loHeld n && held.contains n then s.loRequest n (.target (s.get (Fld.loCtlTarget n.val)))
    else s)

/-- GAP, BLANK and RX of the tile that starts, for each path. -/
def State.pathTile (s : State) : State :=
  s.forEach allPaths (fun s p =>
    let q := s.radio.paths[p]
    let clean := s.pathRx p && match q.cleanAt with
      | some t => s.tileAt t
      | none => false
    let blank := q.blanked || match q.blankAt with
      | some t => !s.tileAt t
      | none => false
    let rx := s.pathEn p && s.loState (s.pathLo p) == stRx
    (s.modPath p (fun q => { q with blankTile := blank, blankAt := if blank then q.blankAt else none, gapTile := !clean, rxTile := rx })).setClean p clean)

/-! ### The steps of a send (R371 to R374) -/

def State.modTx (s : State) (f : TxSt → TxSt) : State := s.modRadio (fun r => { r with tx := r.tx.map f })
def State.txPhase (s : State) : Option Nat := s.radio.tx.map (·.phase)

/-- PA_EN_RISE (R371). -/
def execPaEnRise (s : State) : Host.Outcome State Fault Refusal :=
  inBlock .radio s fun s =>
    match s.radio.tx with
    | some t => s.cond (t.ext && t.phase == 0) (·.modTop (fun p => { p with paEn := true }))
    | none => s
/-- TX_RAMP_UP_START (R372). -/
def execTxRampUpStart (s : State) : Host.Outcome State Fault Refusal :=
  inBlock .radio s fun s => s.cond (s.txPhase == some 0) (·.modTx (fun t => { t with phase := 1 }))
/-- TX_FULL_POWER (R372): modulation starts. -/
def execTxFullPower (s : State) : Host.Outcome State Fault Refusal :=
  inBlock .radio s fun s =>
    match s.radio.tx with
    | some t => s.cond (t.phase == 1) (fun s =>
        ((s.modTx (fun t => { t with phase := 2 })).putB (Fld.loStatBusy 4) false).emit (.air t.freq t.bits))
    | none => s
/-- TX_LAST_SYMBOL (R372): the ramp-down starts. -/
def execTxLastSymbol (s : State) : Host.Outcome State Fault Refusal :=
  inBlock .radio s fun s => s.cond (s.txPhase == some 2) (·.modTx (fun t => { t with phase := 3 }))

/-- LOT is back in SYNTH, and requests that waited for it are served (R358). -/
def State.txOver (s : State) : State :=
  ((s.modRadio (fun r => { r with tx := none })).setLoState loT stSynth).loServe loT
/-- TX_RAMP_DOWN_END (R372): LOT returns to SYNTH, with an external PA once PA_EN has fallen (R371). -/
def execTxRampDownEnd (s : State) : Host.Outcome State Fault Refusal :=
  inBlock .radio s fun s =>
    s.cond (s.txPhase == some 3) fun s => if s.top.paEn then s.modTx (fun t => { t with phase := 4 }) else s.txOver
/-- PA_EN_FALL (R371). -/
def execPaEnFall (s : State) : Host.Outcome State Fault Refusal :=
  inBlock .radio s fun s =>
    s.cond (s.top.paEn && s.txPhase == some 4) (fun s => (s.modTop (fun p => { p with paEn := false })).txOver)

/-- A grant blanks every path that selects UHF (R373, R374). -/
def State.blank (s : State) : State :=
  let us := allPaths.filter (fun p => s.pathUhf p)
  let s := s.forEach us (fun s p => s.modPath p (fun q => { q with blanked := true, blankTile := true, blankAt := none }))
  s.put Fld.radioStateBlanked (maskOf 4 (fun i => us.any (·.val == i)))
/-- BLANKING_END (R373, R374): at a cycle of the current tile. -/
def execBlankingEnd (cycle : Nat) (s : State) : Host.Outcome State Fault Refusal :=
  inBlock .radio s fun s =>
    let ends := match s.txPhase with
      | none => true
      | some k => k == 4
    if !ends then s
    else
      let t := (s.tile.toNat + (if cycle ≤ 61440 then 1 else 2)) % 2 ^ 32
      (s.forEach allPaths (fun s p => s.cond s.radio.paths[p].blanked
        (·.modPath p (fun q => { q with blanked := false, blankAt := some t })))).put Fld.radioStateBlanked 0

/-- The RADIO block is held (R868): every synthesiser sleeps, sends end, sets are lost, requests complete PEER_RESET. -/
def State.radioHeld (s : State) : State :=
  let s := s.radiosSleep stPeerReset stPeerReset
  s.modRadio (fun r => { r with los := r.los.map (fun l => { l with freq := 0, sets := [] })
                                paths := r.paths.map (fun q => { q with ctl := 0, cleanAt := none, blanked := false, gapTile := true, rxTile := false, moved := true }) })

end Sys2Proof.Machine
end

