-- ==== Sys2Proof/Machine/Store.lean ====
section
/-! DEFINITION. The sample store and its arbiter (spec 15): addresses and banks, SECDED, refresh, the scrubber, plain accesses and
stitches, cut-offs, and the retirement of a bank. Words are addressed by logical word address (byte address / 4). -/

namespace Sys2Proof.Machine

/-! ### Addresses (R599, R601, R602, R633) -/

/-- Words of the usable store: one logical bank for each bank mapped. -/
def State.storeWords (s : State) : Nat := s.store.bankMap.length * bankWords
/-- Bytes of the tile buffer: from 6 MiB to the end of the usable store (R601). -/
def State.tileBytes (s : State) : Nat := s.storeWords * 4 - 3 * bankWords * 4
/-- The active octets in effect (R394, R395). -/
def State.octets (s : State) : List Nat := if s.samp.en then bitsOf 64 s.samp.octets else []
/-- SAMP_CTL.DEPTH in force as a count of tiles: 4, 8, 16 or 32 (R398). -/
def State.depthSet (s : State) : Nat := 4 * 2 ^ s.samp.depth
/-- The effective depth in force (R602); none when no tile buffer remains (R634). -/
def State.effDepth (s : State) : Option Nat :=
  let n := s.octets.length
  if s.is Fld.storeCtlNoTiles then none
  else [32, 16, 8, 4].find? (fun d => decide (d ≤ s.depthSet) && decide (n * d * 4160 ≤ s.tileBytes))
/-- STORE_CTL.DEPTH_CUT: halvings between DEPTH and the effective depth; 3 when no tile buffer remains. -/
def State.depthCut (s : State) : Nat :=
  match s.effDepth with
  | none => 3
  | some d => Nat.log2 (s.depthSet / d)

/-- Physical bank of a logical word address. -/
def State.bankOf (s : State) (a : Nat) : Nat := s.store.bankMap.getD (a / bankWords) 0

def State.storeRead (s : State) (a : Nat) : Word := Sparse.get storeBlank s.store.words a
/-- A write of a word replaces the word and its check bits together (R600, R605). -/
def State.storeWrite (s : State) (a : Nat) (w : Word) : State :=
  if a < s.storeWords then
    s.modStore (fun t => { t with words := Sparse.put storeBlank t.words a w, ue := t.ue.filter (· != a), ce := t.ce.filter (· != a) })
  else s
/-- Write consecutive words. -/
def State.storeWriteAll (s : State) (a : Nat) (ws : List Word) : State :=
  s.forEach ws.zipIdx (fun s e => s.storeWrite (a + e.2) e.1)

/-! ### Error correction (R604 to R606) -/

/-- The scrubber is retired: no write-back, no re-read, no migration (Table 15.4). -/
def State.scrubRetired (s : State) : Bool := s.reqRetired 9

/-- A read finds a single-bit error at a word (R604). -/
def State.corrected (s : State) (a : Nat) : State :=
  let s := s.inc Fld.eccCeCntCount
  let s := s.cond (s.is Fld.storeCtlCeRec) (·.fault 0x03 0 0 (4 * a) 0)
  if s.scrubRetired then s else s.modStore (fun t => { t with ce := setIns t.ce a })

/-- A read by the requester of a rank finds an uncorrectable word (R605, R606). -/
def State.uncorrectable (s : State) (rank a : Nat) : State :=
  let s := s.modStore (fun t => { t with ue := setIns t.ue a })
  ((s.inc Fld.eccUeCntCount).fault 0x04 0 rank (4 * a) 0).fail 4 (s.bankOf a) false

/-- Read `n` words from an address for a requester. `flips` are the errors met: a word address, and whether SECDED cannot correct it. A
word that already reads uncorrectable does so again. The Bool tells that some word was uncorrectable. DESIGN CHOICE, log 74. -/
def State.eccRead (s : State) (rank a n : Nat) (flips : List (Nat × Bool)) : State × Bool :=
  (List.range n).foldl (fun (acc : State × Bool) i =>
    let s := acc.1
    let w := a + i
    if s.store.ue.contains w then (s.uncorrectable rank w, true)
    else match flips.find? (·.1 == w) with
      | some (_, true) => (s.uncorrectable rank w, true)
      | some (_, false) => (s.corrected w, acc.2)
      | none => (s, acc.2)) (s, false)

/-! ### Accesses (R616 to R629) -/

/-- An UPDATE_REGION ends: its completion (R245). -/
def State.regionDone (s : State) (d : Desc) (r : Result) : State := s.complete d r

/-- An access ends badly: its descriptor completes with a status. -/
def State.accessFails (s : State) (a : Access) (status : Nat) : State :=
  match a.desc with
  | some d => s.finish d status
  | none => s

/-- A stitch as served: BEATS and SPAN no greater than ARB_STITCH_MAX (R621); SPAN 0 there means 1474. -/
def State.clampStitch (s : State) (a : Access) : Access :=
  if a.stitch then
    let sm := s.get Fld.arbStitchMaxSpan
    { a with beats := min a.beats (s.get Fld.arbStitchMaxBeats), span := min a.span (if sm == 0 then 1474 else sm) }
  else { a with beats := min a.beats 128 }

/-- Bank group of a logical word address (R599). -/
def groupOf (a : Nat) : Nat := a / bankWords / 2

/-- Beats `made` to `made + n` of the plain access that holds the port are made: they read with SECDED or land (R604, R605, R617). -/
def State.makeBeats (s : State) (a : Access) (n : Nat) (flips : List (Nat × Bool)) : State × Bool × Access :=
  let n := min n (a.beats - a.made)
  let from8 := a.addr + 8 * a.made
  let a' := { a with made := a.made + n }
  if a.write then (s.storeWriteAll from8 ((a.data.drop (8 * a.made)).take (8 * n)), false, a')
  else
    let r := s.eccRead a.rank from8 (8 * n) flips
    let s := r.1.cond (a.rank == 9) (·.modStore (fun t => { t with scrubAddr := from8 + 8 * n }))
    (s, r.2, a')

/-- The highest-ranked of the accesses that wait; of one requester, the first issued (R616, R618). -/
def bestWaiting (l : List Access) : Option Access :=
  l.foldl (fun b a => match b with
    | none => some a
    | some b => if a.rank < b.rank then some a else some b) none

/-- A request joins the waiting; one of a retired requester ends at once (R629). -/
def State.request (s : State) (a : Access) : State :=
  if s.reqRetired a.rank then s.accessFails a stRetired
  else s.modStore (fun t => { t with waiting := t.waiting ++ [a] })

/-- Grant the port to the highest-ranked waiting requester; refresh is the highest while its debt is not 0 (R610, R616). A stitch reads
its beats at once; an uncorrectable word ends it with no write landed (R605). DESIGN CHOICE, log 73. -/
def State.grant (s : State) (flips : List (Nat × Bool)) : State :=
  if 0 < s.store.debt || s.is Fld.refreshStatSelf then s
  else match bestWaiting s.store.waiting with
    | none => s
    | some a =>
      let s := s.modStore (fun t => { t with waiting := t.waiting.erase a })
      let a := { s.clampStitch a with mode := if a.made == 0 then tb (s.get Fld.arbModeMode) (groupOf a.addr) else a.mode }
      if a.stitch then
        let r := s.eccRead a.rank a.addr (8 * a.beats) flips
        if r.2 then r.1.accessFails a stEccUncorrectable
        else r.1.modStore (fun t => { t with cur := some a })
      else s.modStore (fun t => { t with cur := some a })

/-- STORE_GRANT (R616): a grant point. The requests made since the last one join; the plain access that holds the port has made
`progress` more beats; it ends, yields at a burst boundary under BREAK_AT_BURST to a higher-ranked requester, or goes on (R619); a
stitch has no grant point (R622). Requests of a requester retired meanwhile end (R629). DESIGN CHOICE, log 73. -/
def execStoreGrant (requests : List Access) (progress : Nat) (flips : List (Nat × Bool)) (s : State) :
    Host.Outcome State Fault Refusal :=
  live s fun s =>
    let s := s.forEach requests (fun s a => s.request { a with made := 0 })
    let gone := s.store.waiting.filter (fun a => s.reqRetired a.rank)
    let s := s.modStore (fun t => { t with waiting := t.waiting.filter (fun a => !s.reqRetired a.rank) })
    let s := s.forEach gone (fun s a => s.accessFails a stRetired)
    match s.store.cur with
    | none => s.grant flips
    | some a =>
      if a.stitch then s
      else
        let m := s.makeBeats a progress flips
        let a := m.2.2
        let s := m.1
        if m.2.1 && a.desc.isSome then
          ((s.modStore (fun t => { t with cur := none })).accessFails a stEccUncorrectable).grant flips
        else if a.beats ≤ a.made then (s.modStore (fun t => { t with cur := none })).grant flips
        else
          let ends := match bestWaiting s.store.waiting with
            | some b => decide (b.rank < a.rank)
            | none => false
          if ends && !a.mode && a.made % 8 == 0 then
            (s.modStore (fun t => { t with cur := none, waiting := a :: t.waiting })).grant flips
          else s.modStore (fun t => { t with cur := some a })

/-- STITCH_END (R623, R624): the stitch ends and its writes land together. -/
def execStitchEnd (writes : List (Nat × Word)) (s : State) : Host.Outcome State Fault Refusal :=
  live s fun s =>
    match s.store.cur with
    | some a =>
      if a.stitch then
        s.modStore (fun t => { t with cur := none }) |>.forEach writes (fun s w => s.storeWrite w.1 w.2)
      else s
    | none => s

/-- HOLD_CUTOFF (R625 to R628): the access is cut off; the beats of a plain access stand, no write of a stitch lands. -/
def execHoldCutoff (progress : Nat) (s : State) : Host.Outcome State Fault Refusal :=
  live s fun s =>
    match s.store.cur with
    | none => s
    | some a =>
      let s := if a.stitch then s else (s.makeBeats a progress []).1
      let s := s.modStore (fun t => { t with cur := none })
      let s := ((s.incSat Fld.arbHoldViolCount).put Fld.arbHoldViolLast a.rank).orF Fld.arbHoldViolViol (2 ^ (a.rank - 1))
      let s := s.fault 0x06 0 a.rank (if a.stitch then a.span else a.beats) 0
      (s.accessFails a stHoldViolation).fail 6 a.rank false

/-! ### Refresh (R607 to R613) -/

/-- REFRESH_DUE (R610, R611): a command falls due and joins the debt, which never exceeds 5. In self-refresh the store issues the
commands itself (R612). -/
def execRefreshDue (s : State) : Host.Outcome State Fault Refusal :=
  live s fun s =>
    if s.is Fld.refreshStatSelf || 5 ≤ s.store.debt then s
    else
      let s := s.modStore (fun t => { t with debt := t.debt + 1 })
      s.put Fld.refreshStatDebtMax (max (s.get Fld.refreshStatDebtMax) s.store.debt)

/-- REFRESH_COMMAND (R609, R610): one owed command is issued at a grant point; a stitch contains none. -/
def execRefreshCommand (s : State) : Host.Outcome State Fault Refusal :=
  live s fun s =>
    match s.store.cur with
    | some a => if a.stitch then s else s.modStore (fun t => { t with debt := t.debt - 1 })
    | none => s.modStore (fun t => { t with debt := t.debt - 1 })

/-- Upper edge of a band of Table 15.1 in units of 0.0625 °C. -/
def bandTop (b : Nat) : Int :=
  match b with
  | 0 => 85 * 16 | 1 => 100 * 16 | 2 => 115 * 16 | _ => 130 * 16
/-- Band that a store temperature lies in. -/
def bandFor (t : Int) : Nat :=
  if t ≤ bandTop 0 then 0 else if t ≤ bandTop 1 then 1 else if t ≤ bandTop 2 then 2 else if t ≤ bandTop 3 then 3 else 4
/-- The band after a conversion: up at once, down only 3 °C below its lower edge (R608). -/
def bandNext (b : Nat) (t : Int) : Nat :=
  let up := bandFor t
  if b ≤ up then up
  else (List.range 4).foldl (fun b _ => if 0 < b && up < b && decide (t ≤ bandTop (b - 1) - 48) then b - 1 else b) b

/-- The hotter of T6 and T7 among those that convert: its number and reading; none when both fail. -/
def State.storeSensor (s : State) : Option (Nat × Int) :=
  match s.is (Fld.tempFailed 6), s.is (Fld.tempFailed 7) with
  | true, true => none
  | true, false => some (7, s.temp 7)
  | false, true => some (6, s.temp 6)
  | false, false => if s.temp 6 < s.temp 7 then some (7, s.temp 7) else some (6, s.temp 6)

/-- What a conversion does to refresh (R607, R608, R613). With both sensors failed the store counts as above 130 °C. -/
def State.storeTemp (s : State) : State :=
  match s.storeSensor with
  | none => s.put Fld.refreshStatBand 4
  | some (n, r) =>
    let t := r + 32
    let s := s.put Fld.refreshStatTemp (deg8 t)
    let s := s.put Fld.refreshStatBand (bandNext (s.get Fld.refreshStatBand) t)
    if r > 150 * 16 && !s.flt.storeHot then
      ((s.modFlt (fun f => { f with storeHot := true })).flag Fld.refreshStatOvertemp).fault 0x05 0 n (unsgn 16 r) 0
    else if r ≤ 145 * 16 then s.modFlt (fun f => { f with storeHot := false })
    else s

/-- The store enters or leaves self-refresh (R612). -/
def State.selfRefresh (s : State) (b : Bool) : State := s.putB Fld.refreshStatSelf b

/-! ### The scrubber (R604, R614, R615) -/

/-- The scrubber runs: only in D0, not in self-refresh, not when retired. -/
def State.scrubActive (s : State) : Bool :=
  s.runs && s.pst == 0 && !s.is Fld.refreshStatSelf && !s.scrubRetired

/-- SCRUB_WRITE_BACK (R604, R606): the corrected word is written back and read again: clean (none), with an error that is corrected, or
with one that is not. -/
def execScrubWriteBack (addr : Nat) (again : Option Bool) (s : State) : Host.Outcome State Fault Refusal :=
  live s fun s =>
    if !s.scrubActive || !s.store.ce.contains addr then s
    else
      let s := s.modStore (fun t => { t with ce := t.ce.filter (· != addr) })
      match again with
      | none => s.transientErr 4 (s.bankOf addr)
      | some false =>
        let s := (s.inc Fld.eccCeCntCount).cond (s.is Fld.storeCtlCeRec) (·.fault 0x03 0 0 (4 * addr) 0)
        s.fail 4 (s.bankOf addr) false
      | some true => s.uncorrectable 9 addr

/-- SCRUB_PASS_END (R614, R615): the pass ends; the next starts at address 0 with the PERIOD then set. -/
def execScrubPassEnd (late : Bool) (s : State) : Host.Outcome State Fault Refusal :=
  live s fun s =>
    if !s.scrubActive then s
    else
      let s := (s.inc Fld.scrubStatPasses).cond late (·.flag Fld.scrubStatLate)
      s.modStore (fun t => { t with scrubAddr := 0, scrubPeriod := s.get Fld.scrubCtlPeriod })

/-! ### Retiring a bank (R630 to R634) -/

/-- The highest logical bank leaves the map: what lay in it is gone. -/
def State.shrink (s : State) : State :=
  let n := s.store.bankMap.length - 1
  let top := n * bankWords
  s.modStore (fun t => { t with bankMap := t.bankMap.take n, words := Sparse.eraseRange t.words top (top + bankWords)
                                ue := t.ue.filter (· < top), ce := t.ce.filter (· < top) })

/-- One move at a tile boundary: step 0 gives up the highest logical bank and starts the copy when another bank is to move; step 2 maps
the logical bank to its new place (Table 15.6). A bank retired while it is the target of a copy hands the target on. -/
def State.moveBoundary (s : State) (m : BankMove) : State :=
  match m.step with
  | 0 =>
    let q := (s.store.bankMap.getLast?).getD 0
    let s := s.shrink
    if q == m.p then s
    else if s.store.bankMap.contains m.p then
      (s.modStore (fun t => { t with moves := t.moves ++ [{ m with logical := t.bankMap.findIdx (· == m.p), q := q, step := 1 }] })).putB
        Fld.storeCtlMigrating true
    else s.modStore (fun t => { t with moves := t.moves.map (fun n => if n.q == m.p && n.step != 0 then { n with q := q, step := 1 } else n) })
  | 2 => s.modStore (fun t => { t with bankMap := t.bankMap.set m.logical m.q })
  | _ => s.modStore (fun t => { t with moves := t.moves ++ [m] })

/-- What a tile boundary does to the banks (Table 15.6). -/
def State.bankBoundary (s : State) : State :=
  let ms := s.store.moves
  let s := (s.modStore (fun t => { t with moves := [] })).forEach ms State.moveBoundary
  s.putB Fld.storeCtlMigrating (s.store.moves.any (·.step == 1))

/-- BANK_COPY_DONE (R630, R631): the first copy in progress ends; the remap waits for the tile boundary. -/
def execBankCopyDone (s : State) : Host.Outcome State Fault Refusal :=
  live s fun s =>
    if !s.scrubActive then s
    else match s.store.moves.find? (·.step == 1) with
      | none => s
      | some m => s.modStore (fun t => { t with moves := t.moves.map (fun n => if n == m then { n with step := 2 } else n) })

end Sys2Proof.Machine
end

