-- ==== Sys2Proof/Machine/Samp.lean ====
section
/-! DEFINITION. Sampling, gain, overload, tiles and captures (spec 10). -/

namespace Sys2Proof.Machine

/-! ### Gain (R399 to R410) -/

def State.agcF (s : State) (p : Fin 4) (lo n : Nat) : Nat := getF s.samp.agc[p].ctl lo n
def State.agcManual (s : State) (p : Fin 4) : Bool := s.agcF p 7 1 == 1
/-- Codes that the LNA setting allows (R399). -/
def State.lnaRange (s : State) (p : Fin 4) : Nat × Nat :=
  match s.pathLna p with
  | 1 => (24, 63) | 2 => (0, 39) | _ => (0, 63)
/-- A code brought within MIN to MAX, and within what the LNA setting allows (R400). -/
def State.limitCode (s : State) (p : Fin 4) (c : Nat) : Nat :=
  let mx := s.agcF p 20 6
  let r := s.lnaRange p
  min r.2 (max r.1 (min (if mx == 0 then 63 else mx) (max (s.agcF p 14 6) c)))
/-- The lowest code allowed. -/
def State.lowCode (s : State) (p : Fin 4) : Nat := s.limitCode p 0
/-- The loop is frozen (R407, R410). -/
def State.agcFrozen (s : State) (p : Fin 4) : Bool := !s.agcManual p && (s.agcF p 0 1 == 1 || s.samp.agc[p].frozen.isSome)

/-- AGCn_CTL.CODE and OVR_STAT's views of the gain and clip state. -/
def State.sampViews (s : State) : State :=
  s.forEach allPaths (fun s p =>
    let a := s.samp.agc[p]
    let frz : FieldRef := ⟨Reg.ovrStat, 8 + p.val, 1⟩
    let con : FieldRef := ⟨Reg.ovrStat, 4 + p.val, 1⟩
    let low : FieldRef := ⟨Reg.ovrStat, 12 + p.val, 1⟩
    (((s.put (Fld.agcCtlCode p.val) a.g).putB frz (s.agcFrozen p)).putB con a.contam).putB low (a.a == s.lowCode p))

/-- Whole decibels of an amount in hundredths, rounded down and up. -/
def floorDb (c : Int) : Nat := (c / 100).toNat
def ceilDb (c : Int) : Nat := ((c + 99) / 100).toNat

/-- The gain at a start boundary: settings take effect (R406), the boundary step acts (R404), then G follows A unless the loop is frozen
(R402, R405, R409). `peak` is the ending tile's highest ADC magnitude in hundredths of dBFS. -/
def State.agcBoundary (s : State) (p : Fin 4) (peak : Int) : State :=
  let s := s.modAgc p (fun a => { a with ctl := s.rd (Reg.agcCtl p.val) })
  let a := s.samp.agc[p]
  if s.agcManual p then
    let c := s.limitCode p (s.agcF p 8 6)
    s.modAgc p (fun a => { a with a := c, g := c, frozenTile := false })
  else if s.agcFrozen p then
    s.modAgc p (fun a => { a with a := s.limitCode p a.a, frozen := a.frozen.map (· + 1), frozenTile := true })
  else
    let target : Int := -100 * (12 + 3 * (s.agcF p 4 3 : Int))
    let c := if peak < target - 300 then a.a + min 6 (floorDb (target - peak))
      else if target + 300 < peak then a.a - ceilDb (peak - target)
      else a.a
    let c := s.limitCode p c
    s.modAgc p (fun a => { a with a := c, g := c, frozenTile := false })

/-- AGC_ATTACK (R404, R409): A falls by 6 dB, down to the lowest code. -/
def execAgcAttack (path : Fin 4) (s : State) : Host.Outcome State Fault Refusal :=
  inBlock .samp s fun s =>
    s.cond (s.pathRx path && !s.agcManual path) fun s =>
      (s.modAgc path (fun a => { a with a := max (s.lowCode path) (a.a - 6) })).sampViews

/-- SENTINEL_FREEZE (R407, R408, R410): a condition of Table 10.1 that AGCn_CTL enables (0 tag, 1 DAB null, 2 beacon). -/
def execSentinelFreeze (path : Fin 4) (cond : Fin 3) (s : State) : Host.Outcome State Fault Refusal :=
  inBlock .samp s fun s =>
    s.cond (s.agcF path (1 + cond.val) 1 == 1 && !s.agcManual path) fun s =>
      (s.modAgc path (fun a => { a with frozen := some 0, frozenTile := true })).sampViews
/-- SENTINEL_RELEASE (R407). -/
def execSentinelRelease (path : Fin 4) (s : State) : Host.Outcome State Fault Refusal :=
  inBlock .samp s fun s => (s.modAgc path (fun a => { a with frozen := none })).sampViews
/-- FREEZE_MAX_EXPIRY (R408): the freeze has lasted FREEZE_MAX tiles, 0 standing for 24. -/
def execFreezeMaxExpiry (path : Fin 4) (s : State) : Host.Outcome State Fault Refusal :=
  inBlock .samp s fun s =>
    let m := s.get Fld.sampCtlFreezeMax
    match s.samp.agc[path].frozen with
    | some n => s.cond ((if m == 0 then 24 else m) ≤ n) (fun s => (s.modAgc path (fun a => { a with frozen := none })).sampViews)
    | none => s

/-! ### Overload (R411 to R415) -/

def State.gains (s : State) : List Nat := allPaths.map (fun p => s.samp.agc[p].g)
def State.contamMask (s : State) : Nat := maskOf 4 (fun i => s.samp.agc[Fin.ofNat 4 i].contam)

/-- The current tile carries CONTAM on some path: an episode opens or goes on (R414). -/
def State.episodeTile (s : State) : State :=
  let m := s.contamMask
  let t := s.tile.toNat
  if m == 0 then s
  else match s.samp.episode with
    | some e => s.modSamp (fun q => { q with episode := some { e with last := t, paths := e.paths ||| m, gainEnd := s.gains } })
    | none =>
      if s.samp.skip == some t then s
      else s.modSamp (fun q => { q with episode := some ⟨t, t, m, 0, 0, s.gains, s.gains⟩ })

/-- The first cycle of a tile from which a clip leaves the next tile contaminated (R412): 251 µs before its end. DEDUCED, log 65. -/
def contamFrom : Nat := 60703

/-- ADC_CLIP (R379, R411 to R413): a clipped sample of a path at a cycle of the current tile. DEDUCED, log 65. -/
def execAdcClip (path : Fin 4) (cycle : Nat) (s : State) : Host.Outcome State Fault Refusal :=
  inBlock .samp s fun s =>
    if !s.pathRx path then s
    else
      let t := s.tile.toNat
      let a := s.samp.agc[path]
      let near := match a.clip with
        | some (t', c') => (t' == t && decide (cycle ≤ c' + 737)) || ((t' + 1) % 2 ^ 32 == t && decide (cycle + 245760 ≤ c' + 737))
        | none => false
      let s := s.modAgc path (fun a => { a with clip := some (t, cycle), ovr := true, contam := true, clips := satAdd 255 a.clips 1
                                                contamNext := a.contamNext || decide (contamFrom ≤ cycle) })
      let s := s.episodeTile
      let s := s.modSamp (fun q => { q with episode := q.episode.map (fun e =>
        { e with samples := satAdd (2 ^ 32 - 1) e.samples 1, events := e.events + b2n (!near) }) })
      let bit : FieldRef := ⟨Reg.ovrStat, path.val, 1⟩
      let s := s.cond (!near) (fun s => (s.inc (Fld.ovrCntCount path.val)).putB bit true)
      s.sampViews

/-- The OVERLOAD record of an episode (Table 10.5), when OVR_REC is 1. -/
def State.episodeRec (s : State) (e : Episode) (ongoing : Bool) : State :=
  let g (l : List Nat) : Word := packW (l.zipIdx.map (fun x => (8 * x.2, 6, x.1)))
  s.cond (s.is Fld.sampCtlOvrRec) (·.record 0x0E
    [packW [(12, 1, b2n ongoing), (8, 4, e.paths), (0, 8, 4)], BitVec.ofNat 32 e.events, BitVec.ofNat 32 e.first, BitVec.ofNat 32 e.last,
     g e.gainStart, g e.gainEnd, BitVec.ofNat 32 e.samples])

/-- OVERLOAD_EPISODE_END (R414): the current tile carries CONTAM on no path. -/
def execOverloadEpisodeEnd (s : State) : Host.Outcome State Fault Refusal :=
  inBlock .samp s fun s =>
    match s.samp.episode with
    | some e => s.cond (s.contamMask == 0) (fun s => (s.modSamp (fun q => { q with episode := none })).episodeRec e false)
    | none => s
/-- OVERLOAD_ONGOING (R415): the episode has lasted 1 s; a new one opens at the next tile. -/
def execOverloadOngoing (s : State) : Host.Outcome State Fault Refusal :=
  inBlock .samp s fun s =>
    match s.samp.episode with
    | some e => (s.modSamp (fun q => { q with episode := none, skip := some s.tile.toNat })).episodeRec e true
    | none => s

/-! ### Tiles (R386 to R398, R424) -/

/-- The FLAGS of a path for the current tile (Table 10.4). -/
def State.tileFlags (s : State) (p : Fin 4) : Nat :=
  let a := s.samp.agc[p]
  let q := s.radio.paths[p]
  b2n a.ovr + 2 * b2n a.contam + 4 * b2n a.stale + 8 * b2n q.gapTile + 16 * b2n q.blankTile + 32 * b2n a.calstep + 64 * b2n a.frozenTile
/-- PATH_MASK of the current tile (R391). -/
def State.pathMask (s : State) : Nat :=
  maskOf 4 (fun i => s.radio.paths[Fin.ofNat 4 i].rxTile && s.pathEn (Fin.ofNat 4 i))

/-- The tile that ends (R387, R391, R403); with STALE it repeats the gain of the tile before (R440). -/
def State.tileEnds (s : State) : State :=
  let old := (s.samp.prev.map (·.gains)).getD s.gains
  let gains := allPaths.map (fun p => if s.samp.agc[p].stale then old.getD p.val 0 else s.samp.agc[p].g)
  let m : TileMeta := { seq := s.tile.toNat, mask := s.pathMask, gains := gains, flags := allPaths.map s.tileFlags
                        clips := allPaths.map (fun p => s.samp.agc[p].clips), octets := s.samp.octets }
  s.modSamp (fun q => { q with prev := if q.making then some m else none })

/-- Tiles are made now (R394, R634, R629, R612). -/
def State.makesTiles (s : State) : Bool :=
  s.runs && s.free? .samp && s.pst == 0 && !s.octets.isEmpty && s.effDepth.isSome && !s.reqRetired 2
  && !s.is Fld.refreshStatSelf && !s.is Fld.clkSysStatGated

/-- The tile from which a write that lands now acts: the first boundary 20 µs or more after it (R395). -/
def State.maskTile (s : State) : Nat := (s.tile.toNat + (if s.pip.cycle ≤ 231014 then 1 else 2)) % 2 ^ 32
/-- A write of SAMP_CTL, or of the mask as a pair, lands (R395, R398). -/
def State.sampCtlLands (s : State) : State :=
  s.modSamp (fun q => { q with pend := q.pend ++ [(s.maskTile, true, (s.rd Reg.sampCtl).toNat)] })
def State.sampMaskLands (s : State) : State :=
  s.modSamp (fun q => { q with pend := q.pend ++ [(s.maskTile, false, (s.rd Reg.sampOctetMaskLo).toNat + (s.rd Reg.sampOctetMaskHi).toNat * 2 ^ 32)] })
/-- One landed change takes effect; DEPTH with a change of EN from 0 to 1 (R398). -/
def Samp.apply (q : Samp) (c : Bool × Nat) : Samp :=
  if c.1 then
    let en := c.2 % 2 == 1
    { q with en := en, depth := if en && !q.en then c.2 / 2 % 4 else q.depth }
  else { q with octets := c.2 }
/-- Changes due at this boundary take effect (R395). -/
def State.sampApply (s : State) : State :=
  let due := s.samp.pend.filter (fun c => s.tileAt c.1)
  let s := s.modSamp (fun q => due.foldl (fun q c => q.apply c.2) { q with pend := q.pend.filter (fun c => !due.contains c) })
  s.put Fld.storeCtlDepthCut s.depthCut

/-- The flags of the tile that starts. -/
def State.sampTile (s : State) : State :=
  let s := s.modSamp (fun q => { q with making := s.makesTiles, agc := q.agc.map (fun a =>
    { a with contam := a.contamNext, contamNext := false, ovr := false, clips := 0, calstep := false, stale := false }) })
  s.sampViews.episodeTile

/-- The header of a tile (Table 10.3). -/
def headerOf (m : TileMeta) (member octet : Nat) (exps : List Nat) : List Word :=
  let by8 (l : List Nat) (w : Nat) : Word := packW (l.zipIdx.map (fun x => (8 * x.2, w, x.1)))
  let h : List Word := [BitVec.ofNat 32 m.seq, packW [(28, 4, 1), (16, 6, member), (8, 4, m.mask), (0, 6, octet)],
    packW ((exps.take 4).zipIdx.map (fun x => (4 * x.2, 4, x.1))), by8 m.gains 6, by8 m.flags 8, by8 m.clips 8] ++ List.replicate 9 0
  h ++ [BitVec.ofNat 32 ((h.foldl (fun a w => a + w.toNat) 0) % 7)]

/-- A tile is kept; of its octet the latest of the effective depth stay, whole (R398, R602, R603). -/
def State.keepTile (s : State) (t : TileRec) : State :=
  let d := s.effDepth.getD 0
  s.modSamp (fun q =>
    let same := t :: q.tiles.filter (fun x => x.octet == t.octet && x.seq != t.seq)
    { q with tiles := same.take d ++ q.tiles.filter (fun x => x.octet != t.octet) })

/-- TILE_WRITE_DONE (R386 to R391, R397): the tile writer has placed the tile that ended last of an octet. The data of a path outside
PATH_MASK is 0; a path with STALE repeats the data and exponents of the tile before (R440). -/
def execTileWriteDone (octet : Nat) (exps : List Nat) (data : List Word) (s : State) : Host.Outcome State Fault Refusal :=
  inBlock .samp s fun s =>
    match s.samp.prev with
    | none => s
    | some m =>
      if !tb m.octets octet || s.reqRetired 2 || s.effDepth.isNone then s
      else
        let before := ((s.samp.tiles.find? (fun t => t.octet == octet && (t.seq + 1) % 2 ^ 32 == m.seq)).map (·.words)).getD []
        let stale (p : Nat) : Bool := tb (m.flags.getD p 0) 2 && !before.isEmpty
        let exps := (List.range 4).map (fun p => if stale p then getF (before.getD 2 0) (4 * p) 4 else exps.getD p 0)
        let body := (List.range 1024).map (fun i =>
          if !tb m.mask (i / 256) then 0 else if stale (i / 256) then before.getD (16 + i) 0 else data.getD i 0)
        s.keepTile ⟨octet, m.seq, headerOf m s.me octet exps ++ body⟩

/-! ### Captures (R416 to R423) -/

def capRing (r : Fin 4) : Fin 24 := ringFin (20 + r.val)
def State.setCap (s : State) (r : Fin 4) (c : Option Capture) : State :=
  s.modSamp (fun q => { q with caps := upd q.caps r (fun _ => c) })

/-- A capture ends: CAPTURE_START completes. -/
def State.capEnd (s : State) (r : Fin 4) (status : Nat) : State :=
  match s.samp.caps[r] with
  | some c => (s.setCap r none).complete c.d (capResult c status)
  | none => s

/-- A capture begins: its first tile to write, the PRETRIG tiles before its first included (R417, R418). -/
def Capture.begin (c : Capture) (tile : Nat) : Capture :=
  let f := (tile + 2 ^ 32 - c.pretrig) % 2 ^ 32
  { c with first := some f, next := f }

/-- The oldest tile of an octet that the store keeps; the current one when it keeps none. -/
def State.oldestTile (s : State) (o : Nat) : Nat :=
  (s.samp.tiles.filter (·.octet == o)).foldl (fun m t => if seqLater m t.seq then t.seq else m) s.tile.toNat

/-- No tile reaches the host here: the tile writer or, on the head, host DMA is retired, or no tile buffer is left (Table 15.4, R634). -/
def State.capGone (s : State) : Bool := s.reqRetired 2 || (s.head && s.reqRetired 6) || s.effDepth.isNone
/-- PRETRIG is the DEPTH in force or more: an undefined operand (R418, Table 10.8). -/
def State.pretrigBad (s : State) (d : Desc) : Bool := match s.effDepth with
  | some n => decide (n ≤ d.f 1 16 5)
  | none => false

/-- A capture at the member that makes its tiles (R416 to R418, R422, R629, R634). -/
def State.capStart (s : State) (d : Desc) : State :=
  s.needBlk .samp d fun s =>
    let r : Fin 4 := Fin.ofNat 4 (d.f 1 0 2)
    let c : Capture := { d := d, octet := d.f 1 8 6, member := d.member, mode := d.f 1 4 2, count := (d.w 2).toNat, pretrig := d.f 1 16 5
                         start := (d.w 3).toNat, first := none, next := 0, written := 0, dropped := 0, last := 0, stop := none, lastDue := none }
    if s.capGone then s.finish d stRetired
    else if s.pretrigBad d then s.bad d dtOperand
    else if !s.octets.contains c.octet then s.bad d 0x41
    else if c.mode == 1 && seqLater (s.oldestTile c.octet) c.start then s.bad d 0x42
    else s.setCap r (some (match c.mode with
      | 0 => c.begin s.tile.toNat
      | 1 => { c with first := some c.start, next := c.start }
      | _ => c))

/-- CAPTURE_START (R203, R416): the ring's only capture. -/
def execCaptureStart (d : Desc) (s : State) : Host.Outcome State Fault Refusal :=
  running s fun s =>
    let r : Fin 4 := Fin.ofNat 4 (d.f 1 0 2)
    s.taking 0x28 d fun s =>
    if d.member == s.me && !s.capGone && s.pretrigBad d then s.bad d dtOperand
    else if (s.samp.caps[r]).isSome then s.finish d stBusyRetry
    else if s.head && !s.ringOn (capRing r) then s.finish d stCancelled
    else if s.head && d.member != s.me then
      (s.setCap r (some { d := d, octet := d.f 1 8 6, member := d.member, mode := d.f 1 4 2, count := (d.w 2).toNat, pretrig := d.f 1 16 5
                          start := (d.w 3).toNat, first := none, next := 0, written := 0, dropped := 0, last := 0, stop := none
                          lastDue := none })).forward d d.member
    else s.capStart d

/-- CAPTURE_STOP (R420): the capture ends at the next tile boundary; NOT_FOUND when the ring has none. -/
def execCaptureStop (d : Desc) (s : State) : Host.Outcome State Fault Refusal :=
  running s fun s =>
    let r : Fin 4 := Fin.ofNat 4 (d.f 1 0 2)
    s.atMember 0x29 d id fun s =>
      s.needBlk .samp d fun s =>
        match s.samp.caps[r] with
        | some c => if c.stop.isSome then s.finish d stNotFound else s.setCap r (some { c with stop := some d })
        | none => s.finish d stNotFound

/-- Every tile due of a capture that ends has been written (R419, R420). -/
def State.capSettle (s : State) (r : Fin 4) : State :=
  match s.samp.caps[r] with
  | none => s
  | some c => match c.lastDue with
    | some l => s.cond (c.first.isNone || seqLater c.next l) (·.capEnd r stOK)
    | none => s

/-- Captures at a boundary: CAPTURE_STOP acts and completes, and a capture whose octet has left the mask ends (R419, R420). DEDUCED, log 64. -/
def State.capBoundary (s : State) : State :=
  let ended := (s.tile.toNat + 2 ^ 32 - 1) % 2 ^ 32
  s.forEach allPaths (fun s r =>
    match s.samp.caps[r] with
    | none => s
    | some c =>
      let left := c.member == s.me && !s.octets.contains c.octet
      if c.lastDue.isSome || !(c.stop.isSome || left) then s
      else ((s.setCap r (some { c with lastDue := some ended, stop := none })).finishOpt c.stop { status := stOK }).capSettle r)

/-- Bytes that wait in the outbound buffer. -/
def State.outBytes (s : State) : Nat := s.hif.outq.foldl (fun a w => a + match w with
  | .completion _ _ ws | .record _ _ ws | .tile _ _ ws | .data _ ws => 4 * ws.length) 0

/-- CAPTURE_TILE_WRITE (R228, R229, R419, R421): the next tile of a capture goes into its ring, or is dropped and counted. A tile of
another member comes with its words, none when it was lost. A member other than the head sends the tile to the head. DEDUCED, log 64. -/
def execCaptureTileWrite (ring : Fin 4) (seq : Nat) (words : List Word) (s : State) : Host.Outcome State Fault Refusal :=
  running s fun s =>
    match s.samp.caps[ring] with
    | none => s
    | some c =>
      let c := if c.first.isNone && c.member != s.me then { c with first := some seq, next := seq } else c
      if c.first.isNone || seq != c.next || s.tileAt seq && seq == s.tile.toNat || seqLater seq s.tile.toNat then s
      else
        let ws := if c.member == s.me then ((s.samp.tiles.find? (fun t => t.octet == c.octet && t.seq == seq)).map (·.words)).getD [] else words
        let n := capRing ring
        let room := !ws.isEmpty && (!s.head || (s.ringOn n && 0 < s.ringRoom n && s.outBytes + 4160 ≤ 65536))
        let c := { c with next := (c.next + 1) % 2 ^ 32, last := seq, written := c.written + b2n room, dropped := c.dropped + b2n (!room) }
        let s := s.commit c.d
        let s := if room then
            if s.head then
              let e := s.takeEntry n
              (e.2.2.post (.tile n e.1 ws)).ringEvent n
            else s.emit (.msg { dst := s.headNo, src := s.me, kind := 0, code := 0, tag := ring.val, words := ws })
          else (s.modRing n (fun q => { q with drops := q.drops + 1, dropFirst := if q.drops == 0 then seq else q.dropFirst
                                               dropLast := seq })).inc (Fld.hifDropCntCount n.val)
        let s := s.setCap ring (some c)
        if c.count != 0 && c.count ≤ c.written + c.dropped then s.capEnd ring stOK else s.capSettle ring

/-- PIP_CAPTURE_START (R417, Table 7.2): the capture that waits on the ring begins with the tile in progress. -/
def execPipCaptureStart (slot lateNs : Nat) (s : State) : Host.Outcome State Fault Refusal :=
  running s (·.fireAction actCapture slot lateNs (fun s e =>
    let r : Fin 4 := Fin.ofNat 4 (getF e.arg 0 2)
    match s.samp.caps[r] with
    | some c => s.cond (c.mode == 2 && c.first.isNone && c.member == s.me) (·.setCap r (some (c.begin s.tile.toNat)))
    | none => s))

/-- The SAMP block is held (R423). -/
def State.sampHeld (s : State) : State :=
  let s := s.forEach allPaths (fun s r => match s.samp.caps[r] with
    | some c => if c.member == s.me then s.capEnd r stPeerReset else s
    | none => s)
  s.modSamp (fun q => { q with agc := Vector.replicate 4 agcReset, en := false, octets := 0, pend := [], making := false, prev := none
                               episode := none, skip := none })

end Sys2Proof.Machine
end

