-- ==== Sys2Proof/Machine/Cal.lean ====
section
/-! DEFINITION. Calibration from the signal itself (spec 11): triggers, rounds, slots, stored sets and host writes. The sums of samples and
of sub-band samples come with the boundary or with the owner's message; how a residual is rounded the spec leaves open (Config). -/

namespace Sys2Proof.Machine

/-! ### Sets (R426, R447 to R450) -/

/-- The coefficient registers of a path, in order, with their widths. -/
def calRegs (p : Nat) : List (Nat × Nat) :=
  [(Reg.calDcI p, 20), (Reg.calDcQ p, 20), (Reg.calIqGain p, 16), (Reg.calIqPhase p, 16), (Reg.calPathGain p, 16), (Reg.calPathPhase p, 16)]
/-- The set that the registers of a path hold. -/
def State.regSet (s : State) (p : Fin 4) : CalSet := ⟨(calRegs p.val).map (fun r => s.rd r.1), s.rd (Reg.calLastTemp p.val)⟩
def State.modCalPath (s : State) (p : Fin 4) (f : CalPath → CalPath) : State :=
  s.modCal (fun c => { c with paths := upd c.paths p f })
/-- LAST_TEMP as of now: sensor T(n + 2). -/
def State.tempNow (s : State) (p : Fin 4) : Word := packW [(31, 1, 1), (0, 16, s.get (Fld.tempTemp (p.val + 2)))]
/-- The band of a path: its input and the divider range of its synthesiser. -/
def State.bandOfPath (s : State) (p : Fin 4) : Bool × Nat := (s.pathUhf p, s.get (Fld.loStatDiv (s.pathLo p).val))

/-- A set comes into use at the start of the current tile, which carries CALSTEP, and is stored for the path's band (R442, R447). DEDUCED, log 50. -/
def State.calApply (s : State) (p : Fin 4) (x : CalSet) : State :=
  let s := s.forEach ((calRegs p.val).zip x.coeffs) (fun s e => s.wr e.1.1 e.2)
  let s := s.wr (Reg.calLastTemp p.val) x.temp
  let s := s.modCalPath p (fun c => { c with use := x, sets := match c.band with
    | some b => (b, x) :: c.sets.filter (·.1 != b)
    | none => c.sets })
  s.modAgc p (fun a => { a with calstep := true })

/-- Word 6 of CAL_APPLIED (Table 11.6). -/
def calWord (cause items late noSig clamped applied : Nat) : Word :=
  packW [(20, 4, cause), (16, 4, items), (12, 4, late), (8, 4, noSig), (4, 4, clamped), (0, 4, applied)]
/-- The CAL_APPLIED record (R443), when REC is 1. -/
def State.calRecord (s : State) (w6 : Word) : State :=
  let pair (p : Fin 4) (i : Nat) : Word :=
    let c := s.cal.paths[p].use.coeffs
    packW [(16, 16, (c.getD i 0).toNat), (0, 16, (c.getD (i + 1) 0).toNat)]
  s.cond (s.is Fld.calCtlRec) (·.record 0x09 ([w6, s.tile] ++ allPaths.map (pair · 2) ++ allPaths.map (pair · 4)))

/-! ### Triggers (R434 to R436) -/

/-- Rounds start here: on the head, or on a device of no Lace (R435). -/
def State.calLeads (s : State) : Bool := s.head || !s.lnk.inEpoch
def msgCalTrigger : Nat := 0x41
def msgCalStart : Nat := 0x42
def msgCalEnd : Nat := 0x43
def msgCalSums : Nat := 0x44
def msgCalValues : Nat := 0x45

/-- A trigger reaches the device that starts rounds; while a round runs it starts nothing (R436). -/
def State.calTriggered (s : State) (cause : Nat) : State :=
  if s.cal.round.isSome || s.cal.trigger.isSome then s
  else (s.modCal (fun c => { c with trigger := some ((s.tile.toNat + 4) % 2 ^ 32, cause) })).put Fld.calStatPhase 1
/-- A trigger arises at this device. -/
def State.calRaise (s : State) (cause : Nat) : State :=
  if s.calLeads then s.calTriggered cause
  else s.sendReq { dst := s.headNo, src := s.me, kind := 2, code := msgCalTrigger, tag := 0, words := [BitVec.ofNat 32 cause] } none

/-- A path's temperature condition holds (R434). -/
def State.calTempHolds (s : State) (p : Fin 4) : Bool :=
  let last := sgn 16 (s.get (Fld.calLastTempTemp p.val))
  s.pathRx p && s.is (Fld.calLastTempValid p.val) &&
    decide (4 * s.get Fld.calDtempDtemp ≤ (s.temp (p.val + 2) - last).natAbs)
/-- CAL_STAT.DUE, and the TEMP trigger with AUTO_TEMP = 1. -/
def State.calTemp (s : State) : State :=
  let m := maskOf 4 (fun i => s.calTempHolds (Fin.ofNat 4 i))
  (s.put Fld.calStatDue m).cond (m != 0 && s.is Fld.calCtlAutoTemp) (·.calRaise 1)
/-- The sensor of a round path repeats its reading in the solve tile (R441). -/
def State.calHoldsSensor (s : State) (n : Nat) : Bool :=
  match s.cal.round with
  | some r => r.solving && 2 ≤ n && n < 6 && tb r.paths (n - 2)
  | none => false

/-! ### Rounds (R436 to R446, R455) -/

/-- Paths that a round covers: in RX, not frozen, and named by the slot (R438). -/
def State.roundPaths (s : State) (mask : Nat) : Nat :=
  maskOf 4 (fun i => s.pathRx (Fin.ofNat 4 i) && tb mask i && !tb (s.get Fld.calCtlFreeze) i)

/-- A round begins with the current tile (R439). -/
def State.calBegin (s : State) (cause items mask : Nat) : State :=
  let r : CalRound := { first := s.tile.toNat, items := items, paths := s.roundPaths mask, cause := cause, ctl := s.rd Reg.calCtl, solving := false
                        lostPaths := 0, written := 0, stats := [], sums := [], owners := [], values := none }
  (s.modCal (fun c => { c with round := some r, trigger := none, runs := c.waiting, waiting := [] })).put Fld.calStatPhase 2

/-- CAL_ROUND_START (R436 to R439): the boundary of tile S. A member of a Lace takes cause, items and path mask from the head; the head
needs its trigger's tile to have come, and a slot with 130 tiles left unless it may ignore slots. -/
def execCalRoundStart (cause items mask : Nat) (s : State) : Host.Outcome State Fault Refusal :=
  inBlock .cal s fun s =>
    if s.cal.round.isSome then s
    else if !s.calLeads then s.calBegin cause items mask
    else match s.cal.trigger with
      | none => s
      | some (t, c) =>
        let w := s.cal.waiting
        let ignore := w.any (fun d => d.f 1 8 1 == 1)
        let slotted := s.is Fld.calCtlSlotted && !ignore
        let slot := match s.cal.slot with
          | some (m, e) => if 130 ≤ (e + 2 ^ 32 - s.tile.toNat) % 2 ^ 32 && seqLater e s.tile.toNat then some m else none
          | none => none
        if !s.tileAt t || (slotted && slot.isNone) then s
        else
          let m := if s.is Fld.calCtlSlotted then slot.getD (if ignore then 15 else 0) else 15
          let asked := w.foldl (fun a d => a ||| (if d.f 1 0 4 == 0 then s.get Fld.calCtlEn else d.f 1 0 4)) 0
          let it := if w.isEmpty then s.get Fld.calCtlEn else asked
          let s := s.calBegin (if w.isEmpty then c else 2) it m
          s.cond (s.head && !s.others.isEmpty) (·.sendMsg
            { dst := s.me, src := s.me, kind := 2, code := msgCalStart, tag := 0, bcast := true, words := [packW [(20, 4, c), (16, 4, it), (0, 4, m)]] })

/-- CAL_RUN (R434, R455): a trigger, whose descriptor waits for the CALSTEP tile of its round. The head, which starts the round, notes the
one it passes on. -/
def execCalRun (d : Desc) (s : State) : Host.Outcome State Fault Refusal :=
  running s fun s =>
    let note (s : State) : State := (s.modCal (fun c => { c with waiting := c.waiting ++ [d] })).calTriggered 2
    s.atMember 0x40 d note fun s =>
      s.needBlk .cal d fun s => if s.calLeads then note s else s.modCal (fun c => { c with waiting := c.waiting ++ [d] })

/-- The reference path is one that the epoch has and, when it is here, one in RX (R432). -/
def State.calRefOk (s : State) (r : CalRound) : Bool :=
  let m := getF r.ctl 24 6
  if s.lnk.inEpoch && m != s.me then s.isMember m else m == s.me && s.pathRx (Fin.ofNat 4 (getF r.ctl 16 2))

/-- Sums of two owners for one path. -/
def addSum (l : List CalSum) (x : CalSum) : List CalSum :=
  match l.find? (fun y => y.member == x.member && y.path == x.path) with
  | none => l ++ [x]
  | some y => { y with n := y.n + x.n, refPow := y.refPow + x.refPow, pathPow := y.pathPow + x.pathPow, re := y.re + x.re, im := y.im + x.im } ::
      l.filter (fun y => !(y.member == x.member && y.path == x.path))

/-- The residuals that the sums show for one member (R428 to R431). -/
def State.calValues (s : State) (r : CalRound) (m : Nat) : List CalValue :=
  (r.sums.filter (fun x => x.member == m)).map (fun x =>
    let ok := decide (1536 ≤ x.n) && s.calRefOk r
    ⟨x.path, if ok then some (Config.calGainRes x.refPow x.pathPow) else none, if ok then some (Config.calPhaseRes x.re x.im) else none⟩)

def calValueWords (v : CalValue) : List Word :=
  [packW [(8, 1, b2n v.gain.isSome), (9, 1, b2n v.phase.isSome), (0, 2, v.path.val)],
   packW [(16, 16, unsgn 16 (v.gain.getD 0)), (0, 16, unsgn 16 (v.phase.getD 0))]]

/-- The words that carry one sum to the head. -/
def calSumWords (x : CalSum) : List Word :=
  let two (v : Nat) : List Word := [BitVec.ofNat 32 v, BitVec.ofNat 32 (v >>> 32)]
  [packW [(8, 6, x.member), (0, 2, x.path.val)], BitVec.ofNat 32 x.n] ++ two x.refPow ++ two x.pathPow ++ two (unsgn 64 x.re) ++ two (unsgn 64 x.im)

/-- The owners' sums are all in: the head solves and sends each member its values (R433). -/
def State.calSolved (s : State) : State :=
  match s.cal.round with
  | none => s
  | some r =>
    if !r.owners.isEmpty then s
    else
      let s := s.modCal (fun c => { c with round := some { r with values := some (s.calValues r s.me) } })
      s.cond s.head (fun s => s.forEach s.others (fun s m =>
        s.sendMsg { dst := m, src := s.me, kind := 3, code := msgCalValues, tag := 0, words := (s.calValues r m).flatMap calValueWords }))

/-- CAL_SUMS_RECEIVE (R433): within the solve tile the head adds an owner's sums. -/
def execCalSumsReceive (owner : Nat) (sums : List CalSum) (s : State) : Host.Outcome State Fault Refusal :=
  inBlock .cal s fun s =>
    match s.cal.round with
    | none => s
    | some r =>
      if !s.head || !r.solving || !r.owners.contains owner then s
      else (s.modCal (fun c => { c with round := some { r with sums := sums.foldl addSum r.sums, owners := r.owners.filter (· != owner) } })).calSolved

/-- CAL_VALUES_RECEIVE (R433): values that come before the CALSTEP tile. -/
def execCalValuesReceive (values : List CalValue) (s : State) : Host.Outcome State Fault Refusal :=
  inBlock .cal s fun s =>
    match s.cal.round with
    | some r => s.cond (r.solving && !s.head) (·.modCal (fun c => { c with round := some { r with values := some values } }))
    | none => s

/-- Largest change of the coefficients per round (Table 11.2), none without limit. -/
def stepLimits (lim : Nat) : List (Option Int) :=
  match lim with
  | 1 => [some 1024, some 1024, some 384, some 64, some 960, some 364]
  | 2 => [some 4096, some 4096, some 1536, some 256, some 3840, some 1456]
  | 3 => [some 16384, some 16384, some 6144, some 1024, some 15360, some 5824]
  | _ => List.replicate 6 none
/-- A change brought within its limit, and whether it was clamped (R445); a phase goes the shorter way round. -/
def limitStep (lim : Option Int) (phase : Bool) (old new : Int) : Int × Bool :=
  let d := if phase then sgn 16 (unsgn 16 (new - old)) else new - old
  match lim with
  | none => (old + d, false)
  | some l => if l < d then (old + l, true) else if d < -l then (old - l, true) else (old + d, false)

/-- What a round does to one path: its new coefficients, and whether it is applied, clamped, short of signal, late. -/
structure CalOutcome where
  coeffs : List Word
  applied : Bool
  clamped : Bool
  noSig : Bool
  late : Bool
  deriving DecidableEq, Repr

/-- The solve of one round path (R428 to R433, R444 to R446). -/
def State.calSolve (s : State) (r : CalRound) (p : Fin 4) : CalOutcome :=
  let old := s.cal.paths[p].use.coeffs
  let o (i : Nat) : Int := sgn (if i < 2 then 20 else 16) (old.getD i 0).toNat
  let isRef := getF r.ctl 24 6 == s.me && getF r.ctl 16 2 == p.val
  let wants (i : Nat) : Bool := tb r.items i && (i < 2 || !isRef)
  if tb r.lostPaths p.val then ⟨old, false, false, (List.range 4).any wants, false⟩
  else
    let st := (r.stats.find? (·.path == p)).getD ⟨p, 0, 0, 0, 0, 0, 0⟩
    let enough := decide (2 ^ 19 ≤ st.n)
    let v := (r.values.getD []).find? (·.path == p)
    let late := r.values.isNone && s.calRefOk r && (wants 2 || wants 3)
    let g := if wants 2 then v.bind (·.gain) else none
    let ph := if wants 3 then v.bind (·.phase) else none
    let new : List (Option Int) :=
      [if wants 0 && enough then some (Config.calDc (o 0) st.sumI st.n) else none,
       if wants 0 && enough then some (Config.calDc (o 1) st.sumQ st.n) else none,
       if wants 1 && enough then some (Config.calIqGain (o 2) st.sumII st.sumQQ st.sumIQ) else none,
       if wants 1 && enough then some (Config.calIqPhase (o 3) st.sumII st.sumQQ st.sumIQ) else none,
       g.map (Config.calPathGain (o 4)), ph.map (o 5 + ·)]
    let lims := stepLimits (getF r.ctl 12 2)
    let res := (List.range 6).map (fun i => match new.getD i none with
      | some x => let y := limitStep (lims.getD i none) (i == 5) (o i) x
                  (BitVec.ofNat 32 (unsgn (if i < 2 then 20 else 16) y.1), y.2)
      | none => (old.getD i 0, false))
    let short := ((wants 0 || wants 1) && !enough) || (!late && ((wants 2 && g.isNone) || (wants 3 && ph.isNone)))
    ⟨res.map (·.1), new.any Option.isSome, res.any (·.2), short, late⟩

/-- The CALSTEP tile (R442, R443, R455): every round path takes its new set at once. DEDUCED, log 50. -/
def State.calStep (s : State) (r : CalRound) : State :=
  let ps := allPaths.filter (fun p => tb r.paths p.val && !tb r.written p.val && s.pathRx p)
  let os := ps.map (fun p => (p, s.calSolve r p))
  let m (f : CalOutcome → Bool) : Nat := maskOf 4 (fun i => os.any (fun e => e.1.val == i && f e.2))
  let s := s.forEach os (fun s e => s.cond e.2.applied (fun s => s.calApply e.1 ⟨e.2.coeffs, s.tempNow e.1⟩))
  let w6 := calWord r.cause r.items (m (·.late)) (m (·.noSig)) (m (·.clamped)) (m (·.applied))
  let s := ((s.inc Fld.calStatRounds).orF Fld.calStatNoSignal (m (·.noSig))).orF Fld.calStatClamped (m (·.clamped))
  let runs := s.cal.runs.filter (fun d => !s.head || d.member == s.me)
  let s := (s.modCal (fun c => { c with round := none, runs := [] })).put Fld.calStatPhase 0
  let s := s.calRecord w6
  let s := s.forEach runs (fun s d => s.complete d { status := stOK, r0 := s.tile, r1 := w6 })
  s.calTemp.cond (!s.cal.waiting.isEmpty && s.calLeads) (·.calTriggered 2)

/-- The solve tile (R433, R439, R440): round paths carry STALE, the owner's sums go to the head. -/
def State.calSolveTile (s : State) (r : CalRound) (stats : List CalStat) (sums : List CalSum) : State :=
  let s := s.modCal (fun c => { c with round := some { r with solving := true, stats := stats, sums := sums.foldl addSum [], owners := s.others } })
  let s := s.put Fld.calStatPhase 3
  let s := s.forEach allPaths (fun s p => s.cond (tb r.paths p.val && !tb r.written p.val) (·.modAgc p (fun a => { a with stale := true })))
  let s := s.forEach s.cal.runs State.commit
  if s.calLeads then s.calSolved
  else s.sendMsg { dst := s.headNo, src := s.me, kind := 2, code := msgCalSums, tag := 0, words := (sums.foldl addSum []).flatMap calSumWords }

/-- Calibration at a tile boundary: host writes, stored sets of new bands and NEW_BAND triggers, then the round. -/
def State.calBoundary (s : State) (stats : List CalStat) (sums : List CalSum) : State :=
  let t := s.tile.toNat
  let due := allPaths.filter (fun p => match s.cal.paths[p].writeAt with
    | some a => s.tileAt a
    | none => false)
  let s := s.forEach due (fun s p => (s.calApply p (s.regSet p)).modCalPath p (fun c => { c with writeAt := none }))
  let s := s.cond (!due.isEmpty) (·.calRecord (calWord 5 0 0 0 0 (maskOf 4 (fun i => due.any (·.val == i)))))
  let first := allPaths.filter (fun p => s.pathRx p && s.radio.paths[p].cleanAt == some t)
  let stored := first.filterMap (fun p =>
    let b := s.bandOfPath p
    if s.cal.paths[p].band == some b || due.contains p then none else (s.cal.paths[p].sets.find? (·.1 == b)).map (fun x => (p, x.2)))
  let fresh := first.any (fun p => !(s.cal.paths[p].sets.any (·.1 == s.bandOfPath p)))
  let s := s.forEach first (fun s p => s.modCalPath p (fun c => { c with band := some (s.bandOfPath p) }))
  let s := s.forEach stored (fun s e => s.calApply e.1 e.2)
  let s := s.cond (!stored.isEmpty) (·.calRecord (calWord 4 0 0 0 0 (maskOf 4 (fun i => stored.any (·.1.val == i)))))
  let s := s.cond (fresh && s.is Fld.calCtlNewBand) (·.calRaise 3)
  let moved := maskOf 4 (fun i => let p := Fin.ofNat 4 i; s.radio.paths[p].moved || !s.pathRx p)
  let s := s.forEach allPaths (fun s p => s.modPath p (fun q => { q with moved := false }))
  match s.cal.round with
  | none => s
  | some r =>
    if r.solving then s.cond (s.tileAt (r.first + 129)) (·.calStep r)
    else
      let r := { r with lostPaths := r.lostPaths ||| moved }
      if s.tileAt (r.first + 128) then s.calSolveTile r stats sums else s.modCal (fun c => { c with round := some r })

/-- A round ends with no change; its CAL_RUNs complete with a status, but for those kept for a next round (R452, R453, R455). -/
def State.calEnd (s : State) (status : Nat) (keep : List Desc) : State :=
  let runs := s.cal.runs.filter (fun d => !keep.contains d && (!s.head || d.member == s.me))
  let s := (s.modCal (fun c => { c with round := none, runs := [], waiting := keep ++ c.waiting })).put Fld.calStatPhase 0
  let s := s.forEach runs (fun s d => s.finish d status)
  let s := s.cond (s.head && !s.others.isEmpty) (·.sendMsg { dst := s.me, src := s.me, kind := 2, code := msgCalEnd, tag := 0, bcast := true, words := [] })
  s.calTemp.cond (!s.cal.waiting.isEmpty && s.calLeads) (·.calTriggered 2)

/-- CAL_RUN_TIMEOUT (R455): 1 s after the CAL_RUN's start. -/
def execCalRunTimeout (d : Desc) (s : State) : Host.Outcome State Fault Refusal :=
  inBlock .cal s fun s =>
    if s.cal.waiting.contains d then (s.modCal (fun c => { c with waiting := c.waiting.filter (· != d) })).finish d stTimeout
    else if s.cal.runs.contains d && s.cal.round.isSome then
      let s := (s.modCal (fun c => { c with runs := c.runs.filter (· != d) })).finish d stTimeout
      s.calEnd stTimeout s.cal.runs
    else s

/-- A CANCEL stops a CAL_RUN before its commit point: the round that it started ends (R452). -/
def State.calCancel (s : State) (d : Desc) : State :=
  if s.cal.waiting.contains d then
    let s := s.modCal (fun c => { c with waiting := c.waiting.filter (· != d) })
    s.cond (s.cal.waiting.isEmpty && (s.cal.trigger.map (·.2)) == some 2) (fun s => (s.modCal (fun c => { c with trigger := none })).put Fld.calStatPhase 0)
  else if s.cal.runs.contains d then
    let s := s.modCal (fun c => { c with runs := c.runs.filter (· != d) })
    s.calEnd stCancelled s.cal.runs
  else s

/-! ### Slots and host writes (R437, R450, R451) -/

/-- PIP_CAL_SLOT (R437, R438): the window opens on the head; elsewhere in a Lace the action has no effect on rounds. -/
def execPipCalSlot (slot lateNs : Nat) (s : State) : Host.Outcome State Fault Refusal :=
  running s (·.fireAction actCalSlot slot lateNs (fun s e =>
    s.cond s.calLeads (·.modCal (fun c => { c with slot := some (getF e.arg 0 4, (s.tile.toNat + getF e.arg 16 16) % 2 ^ 32) }))))
/-- CAL_SLOT_END (R437). -/
def execCalSlotEnd (s : State) : Host.Outcome State Fault Refusal :=
  inBlock .cal s fun s =>
    match s.cal.slot with
    | some (_, e) => s.cond (s.tileAt e) (·.modCal (fun c => { c with slot := none }))
    | none => s

/-- A coefficient register of a path has been written (R450, R451). -/
def State.calWritten (s : State) (p : Fin 4) : State :=
  let s := s.wr (Reg.calLastTemp p.val) (s.tempNow p)
  let t := match s.cal.round with
    | some r => if r.solving && tb r.paths p.val then (r.first + 129) % 2 ^ 32 else s.maskTile
    | none => s.maskTile
  let s := s.modCalPath p (fun c => { c with writeAt := some ((c.writeAt).getD t) })
  s.modCal (fun c => { c with round := c.round.map (fun r => if r.solving then { r with written := r.written ||| 2 ^ p.val }
                                                            else { r with paths := r.paths &&& (15 - 2 ^ p.val) }) })

/-- The CAL block is held (R454): zero sets act at the next boundary, stored sets go, a round ends on this member. -/
def State.calHeld (s : State) : State :=
  let ds := s.cal.runs ++ s.cal.waiting
  let next := (s.tile.toNat + 1) % 2 ^ 32
  let s := s.modCal (fun c => { c with round := none, runs := [], waiting := [], trigger := none, slot := none, paths := c.paths.map (fun p =>
    { p with sets := [], band := none, writeAt := some next }) })
  s.forEach (ds.filter (fun d => !s.head || d.member == s.me)) (fun s d => s.finish d stPeerReset)

end Sys2Proof.Machine
end

