-- ==== Sys2Proof/Machine/Fade.lean ====
section
/-! DEFINITION. Fades and ramps (R522, R523) and the levels of broadcast sources that use them. -/

namespace Sys2Proof.Machine

/-- Full gain, in units of 2^−24. -/
def fullGain : Nat := 16777216
/-- The rising law at frame k of L: linear under COMPAT6, else the cosine law (R522). DESIGN CHOICE, log 51. -/
def riseAt (linear : Bool) (k len : Nat) : Nat := if linear then (k + 1) * fullGain / len else Config.rampGain k len
/-- The gain in force at a frame (R522). -/
def Fader.gain (f : Fader) : Nat :=
  match f.mode with
  | 0 => 0
  | 1 => fullGain
  | 2 => f.g0 * (fullGain - riseAt f.linear f.k f.len) / fullGain
  | _ => riseAt f.linear f.k f.len

def State.fadeLen (s : State) : Nat := 64 * 2 ^ s.get Fld.audFadeCfgFade
def State.rampLen (s : State) : Nat := 64 * 2 ^ s.get Fld.audFadeCfgRamp

/-- A fade starts from the gain in force (R522, R523); silence stays silent. -/
def State.fadeOut (s : State) (f : Fader) : Fader :=
  if f.mode == 0 || f.mode == 2 then { f with rampAfter := false }
  else ⟨2, 0, s.fadeLen, f.gain, s.compat6, false⟩
/-- A ramp of a length starts, or waits for the end of a fade (R523). -/
def State.rampOver (s : State) (f : Fader) (len : Nat) : Fader :=
  if f.mode == 2 then { f with rampAfter := true } else if f.mode == 0 then ⟨3, 0, len, 0, s.compat6, false⟩ else f
def State.rampIn (s : State) (f : Fader) : Fader := s.rampOver f s.rampLen
/-- One frame passes. -/
def State.fadeStep (s : State) (f : Fader) : Fader :=
  if f.mode < 2 then f
  else if f.k + 1 < f.len then { f with k := f.k + 1 }
  else if f.mode == 3 then faderFull
  else if f.rampAfter then ⟨3, 0, s.rampLen, 0, s.compat6, false⟩
  else faderOff
def Fader.moves (f : Fader) : Bool := decide (2 ≤ f.mode)

end Sys2Proof.Machine
end

