-- ==== Sys2Proof/Machine/Bcst.lean ====
section
/-! DEFINITION. Broadcast reception and service following (spec 12). Demodulation happens outside: a command tells the block, frame or
reading that the receiver made; what the device keeps, reports and does about it is here. -/

namespace Sys2Proof.Machine

/-! ### Coverage and placement (R459, R460) -/

/-- Floor of a quotient by a positive number. -/
def floorDiv (a : Int) (b : Nat) : Int := Int.fdiv a b
/-- The needed sub-bands of a service around a synthesiser frequency lie in active octets (R459). -/
def State.bandsOk (s : State) (lo mode freq : Nat) : Bool :=
  let half : Int := if mode == 1 then 144000 else 768000
  let off : Int := (freq : Int) - lo
  let kMin := 256 - floorDiv (half - off) 48000
  let kMax := 256 + floorDiv (half + off) 48000
  decide (0 ≤ kMin) && decide (kMax ≤ 511) && kMin ≤ kMax &&
    (List.range ((kMax - kMin).toNat + 1)).all (fun i => s.octets.contains ((kMin.toNat + i) / 8))
/-- The path is enabled, with an input whose range contains the frequency (R347, R459). -/
def State.inputOk (s : State) (p : Fin 4) (freq : Nat) : Bool :=
  s.pathEn p && (if s.pathUhf p then decide (400000000 ≤ freq) && decide (freq ≤ 1050000000)
                 else decide (47000000 ≤ freq) && decide (freq ≤ 250000000))
/-- Placement frequency (R460). -/
def placeFreq (mode freq : Nat) : Nat := if mode == 1 then freq - 192000 else freq
def State.covered (s : State) (p : Fin 4) (lo mode freq : Nat) : Bool := s.inputOk p freq && s.bandsOk lo mode freq
def State.loNow (s : State) (p : Fin 4) : Nat := s.radio.los[s.pathLo p].freq
def State.srcCovered (s : State) (q : Source) : Bool :=
  q.srv.mode != 0 && s.pathRx q.path && s.covered q.path (s.loNow q.path) q.srv.mode q.srv.freq
def State.bgEn (s : State) : Bool := s.is Fld.bcstCtlBgEn
def State.bgPath (s : State) : Fin 4 := Fin.ofNat 4 (s.get Fld.bcstCtlBgPath)
def State.src (s : State) (i : Fin 4) : Source := s.bcst.srcs[i]

/-! ### DAB facts -/

def Dab.has (d : Dab) (sid scids : Nat) : Bool := d.facts.any (fun f => match f with
  | .service i c _ _ _ _ => i == sid && c == scids
  | _ => false)
/-- A fact replaces the earlier one about the same thing. -/
def DabFact.same (a b : DabFact) : Bool :=
  match a, b with
  | .ensemble _ _, .ensemble _ _ => true
  | .service i c _ _ _ _, .service i' c' _ _ _ _ => i == i' && c == c'
  | .link h s p, .link h' s' p' => h == h' && s == s' && p == p'
  | .frequency d i f, .frequency d' i' f' => d == d' && i == i' && f == f'
  | .support i _ _, .support i' _ _ => i == i'
  | .announce c _ _, .announce c' _ _ => c == c'
  | _, _ => false
def Dab.learn (d : Dab) (f : DabFact) : Dab :=
  match f with
  | .time _ _ _ _ _ => d
  | .complete => { d with complete := true }
  | .ensemble e _ => { d with eid := e, facts := f :: d.facts.filter (fun g => !g.same f) }
  | _ => { d with facts := f :: d.facts.filter (fun g => !g.same f) }

/-- A percentage of (bad, all) counts. -/
def percent (l : List (Nat × Nat)) : Nat :=
  let b := l.foldl (fun a e => a + e.1) 0
  let n := l.foldl (fun a e => a + e.2) 0
  if n == 0 then 0 else min 100 (b * 100 / n)

/-! ### Quality (R466, R475) -/

/-- Q of FM: 2.5 × (L + 110) − MP, rounded down, 0 to 100 (R466). -/
def fmQuality (level : Int) (mp : Nat) : Nat := (clampI 0 100 ((5 * (level + 110) - 2 * (mp : Int)).fdiv 2)).toNat
/-- Q of a source: 0 when it is not covered, or without its service. -/
def State.srcQ (s : State) (q : Source) : Nat :=
  if !s.srcCovered q || q.gone then 0
  else if q.srv.mode == 1 then q.qual
  else
    let d := s.bcst.dab[q.path]
    if d.sync then 100 - 4 * percent d.auds else 0
def State.srcSync (s : State) (q : Source) : Bool :=
  s.srcCovered q && (if q.srv.mode == 1 then q.rds.sync else s.bcst.dab[q.path].sync)
/-- PI of FM or EId of DAB. -/
def State.srcIdent (s : State) (q : Source) : Nat := if q.srv.mode == 1 then (q.rds.pi).getD 0 else s.bcst.dab[q.path].eid

/-- BCST_STAT, RDS_STAT and DAB_STAT of the source that MON_SRC names; 0 while it is OFF. -/
def State.monSrc (s : State) : Source := s.src (Fin.ofNat 4 (s.get Fld.bcstCtlMonSrc))
def State.switching (q : Source) : Bool := match q.sw with
  | some w => decide (w.stage < 5)
  | none => false
def State.bcstStat (s : State) : Word :=
  let q := s.monSrc
  if q.srv.mode == 0 then 0
  else packW [(24, 8, unsgn 8 (clampI (-128) 127 q.level)), (16, 8, s.srcQ q), (13, 1, b2n s.samp.agc[q.path].stale), (12, 1, b2n q.ann.isSome),
              (11, 1, b2n s.bcst.probe.isSome), (10, 1, b2n (State.switching q)), (9, 1, b2n q.stereo), (8, 1, b2n (s.srcSync q)), (4, 2, q.path.val),
              (0, 2, q.srv.mode)]
def Rds.bler (r : Rds) : Nat := percent ((r.hist.take 45).map (fun ok => (b2n (!ok), 1)))
def State.rdsStat (s : State) : Word :=
  let q := s.monSrc
  if q.srv.mode == 0 then 0
  else packW [(16, 16, (q.rds.pi).getD 0), (11, 5, q.rds.pty), (10, 1, b2n q.rds.tp), (9, 1, b2n q.rds.ta), (8, 1, b2n q.rds.ms),
              (7, 1, b2n (q.rds.sync && s.srcCovered q)), (0, 7, q.rds.bler)]
def State.dabStat (s : State) : Word :=
  let q := s.monSrc
  if q.srv.mode == 0 then 0
  else
    let d := s.bcst.dab[q.path]
    packW [(16, 16, d.eid), (8, 8, percent d.fibs), (0, 8, percent d.auds)]
/-- Synchronisation that a broadcast pip source needs (R274): a source in the matching mode on PIP_SRC.PATH. -/
def State.pipBcstSync (s : State) : Bool :=
  let p : Fin 4 := Fin.ofNat 4 (s.get Fld.pipSrcPath)
  let m := if s.pipSrc == srcDab then 2 else 1
  allPaths.any (fun i => let q := s.src i; q.srv.mode == m && q.path == p && s.srcSync q)

/-! ### Records (Tables 12.9 to 12.11) -/

def srcWord (kind : Nat) (p : Fin 4) (bg : Bool) (i : Nat) : Word := packW [(8, 8, kind), (4, 2, p.val), (2, 1, b2n bg), (0, 2, i)]
def State.rdsRec (s : State) (i : Fin 4) (kind : Nat) (ws : List Word) : State :=
  let q := s.src i
  s.cond (s.is Fld.bcstCtlRdsRec) (·.record 0x03 ([srcWord kind q.path false i.val, BitVec.ofNat 32 q.srv.freq] ++ ws))
def State.dabRec (s : State) (i : Fin 4) (kind : Nat) (ws : List Word) : State :=
  let q := s.src i
  s.cond (s.is Fld.bcstCtlDabRec) (·.record 0x04 ([srcWord kind q.path false i.val, BitVec.ofNat 32 q.srv.freq] ++ ws))
/-- Milliseconds of a number of audio frames at the base rate. -/
def State.framesMs (s : State) (n : Nat) : Nat := n * 1000 / (if s.is Fld.clkAudCtlFamily then 44100 else 48000)
def State.switchRec (s : State) (i : Fin 4) (w : Switch) : State :=
  let q := s.src i
  s.cond (s.is Fld.bcstCtlSwRec) (·.record 0x06
    [srcWord w.cause q.path false i.val, BitVec.ofNat 32 w.old.freq, BitVec.ofNat 32 w.new.freq,
     packW [(16, 16, w.old.id), (0, 16, w.new.id)], packW [(24, 8, w.oldQ), (16, 8, w.newQ), (0, 16, w.asw)],
     BitVec.ofNat 32 (s.framesMs w.silent)])

/-! ### BCST_SELECT (R457 to R463, R499, R502) -/

/-- DAB sub-channels decoded on a path, one source left out. -/
def State.subChannels (s : State) (p : Fin 4) (except : Option (Fin 4)) : Nat :=
  (allPaths.filter (fun i => some i != except && (s.src i).srv.mode == 2 && (s.src i).path == p)).length +
  (s.bcst.subs.toList.filter (fun e => match e with
    | some e => e.transport == 2 && e.path == p
    | none => false)).length
/-- PLACE would move a synthesiser that others use (R461). -/
def State.placeConflict (s : State) (i : Fin 4) (p : Fin 4) : Bool :=
  let lo := s.pathLo p
  (s.takers lo).any (· != p) || (s.bgEn && s.pathLo s.bgPath == lo) ||
    allPaths.any (fun j => j != i && (s.src j).srv.mode != 0 && (s.src j).path != p && s.pathLo (s.src j).path == lo)

/-- The results of BCST_SELECT (R502). -/
def State.selectResult (s : State) (q : Source) (status : Nat) : Result :=
  { status := status, r0 := BitVec.ofNat 32 ((s.radio.paths[q.path].cleanAt).getD s.tile.toNat)
    r1 := packW [(16, 16, s.srcIdent q), (0, 8, s.srcQ q)] }
/-- A select of a source ends. -/
def State.selectEnds (s : State) (i : Fin 4) (status : Nat) : State :=
  let q := s.src i
  match q.select with
  | none => s
  | some d =>
    let r := s.selectResult q status
    let s := if status == stOK then s.modSrc i (fun q => { q with select := none })
             else s.modSrc i (fun q => { sourceReset with waits := q.waits })
    s.complete d r

/-- A select that nothing refuses takes the source. An earlier select of the source that still waits for its reception ends CANCELLED. -/
def State.selectNow (s : State) (d : Desc) : State :=
  let i : Fin 4 := Fin.ofNat 4 (d.f 1 0 2)
  let mode := d.f 1 8 2
  let p : Fin 4 := Fin.ofNat 4 (d.f 1 12 2)
  let f := (d.w 2).toNat
  let place := d.f 1 16 1 == 1
  let lo := s.pathLo p
  let pf := placeFreq mode f
  let drop (s : State) : State := (s.finishOpt (s.src i).select { status := stCancelled }).modSrc i (fun q => { sourceReset with waits := q.waits })
  if mode == 0 then ((drop s).commit d).finish d stOK
  else if (s.bgEn && p == s.bgPath) || (place && s.loNow p != pf && s.placeConflict i p) then s.bad d 0x49
  else if !s.covered p (if place then pf else s.loNow p) mode f then s.bad d 0x48
  else if mode == 2 && 4 ≤ s.subChannels p (some i) then s.bad d 0x4A
  else
    let s := (drop s).commit d
    let shared := mode == 2 && allPaths.any (fun j => (s.src j).srv.mode == 2 && (s.src j).path == p)
    let s := s.cond (mode == 2 && !shared) (·.modBcst (fun b => { b with dab := upd b.dab p (fun _ => dabReset) }))
    let id := (d.w 3).toNat
    let s := s.modSrc i (fun q => { q with
      srv := ⟨mode, f, id, if mode == 2 then d.f 4 0 4 else 0⟩, path := p, mask := if mode == 1 then (d.w 4).toNat else 0
      deemph := d.f 1 17 1 == 1 || s.is Fld.bcstCtlRbds, select := some d, tuned := !place })
    s.cond place (·.loRequest lo (.place i.val pf))

/-- BCST_SELECT: it waits for the end of a switch (R499); RETIRED with the sequencer of Table 15.4, but for a stop. -/
def execBcstSelect (d : Desc) (s : State) : Host.Outcome State Fault Refusal :=
  running s fun s =>
    let i : Fin 4 := Fin.ofNat 4 (d.f 1 0 2)
    s.atMember 0x18 d id fun s =>
      s.needBlk .bcst d fun s =>
        if s.reqRetired 5 && d.f 1 8 2 != 0 then s.finish d stRetired
        else if State.switching (s.src i) then s.modSrc i (fun q => { q with waits := q.waits ++ [d] }) else s.selectNow d
/-- Selects that waited for a switch are served in order (R499). -/
def State.serveWaits (s : State) (i : Fin 4) : State :=
  let ds := (s.src i).waits
  let s := s.modSrc i (fun q => { q with waits := [] })
  s.forEach ds State.selectNow
/-- A CANCEL reaches a select that waits (R499). -/
def State.bcstCancel (s : State) (d : Desc) : State :=
  s.forEach allPaths (fun s i => s.modSrc i (fun q => { q with waits := q.waits.filter (· != d) }))

/-- BCST_SELECT_TIMEOUT (R502). -/
def execBcstSelectTimeout (source : Fin 4) (s : State) : Host.Outcome State Fault Refusal :=
  inBlock .bcst s fun s => s.selectEnds source stTimeout

/-- A FM select ends OK once audio is present and PI matches, or NOT_FOUND on a different PI decoded twice (R502). -/
def State.selectFm (s : State) (i : Fin 4) : State :=
  let q := s.src i
  if q.select.isNone || q.srv.mode != 1 then s
  else if q.srv.id != 0 && 2 ≤ q.wrong then s.selectEnds i stNotFound
  else if q.audio && (q.srv.id == 0 || 1 ≤ q.right) then s.selectEnds i stOK
  else s

/-! ### Switches (R485 to R490) -/

/-- A switch starts: its fade (R487). -/
def State.startSwitch (s : State) (i : Fin 4) (w : Switch) : State :=
  s.modSrc i (fun q => { q with sw := some { w with stage := 1 }, fader := s.fadeOut q.fader, switchMs := 0 })
/-- A failed switch returns to the old service, and its candidate is barred for 60 s (R488). -/
def State.returnSwitch (s : State) (i : Fin 4) (w : Switch) : State :=
  let s := s.modBcst (fun b => { b with bars := (i.val, w.new.mode, w.new.freq) :: b.bars })
  s.startSwitch i { w with cause := 7, old := w.new, new := w.old, oldQ := s.srcQ (s.src i), newQ := w.oldQ, silent := 0, trial := false, right := 0, wrong := 0 }
/-- Cause of a switch between two services (Table 12.11). -/
def switchCause (a b : Service) : Nat :=
  if a.mode == 1 then (if b.mode == 1 then 1 else 2) else (if b.mode == 1 then 3 else 4)
def Switch.isAnn (w : Switch) : Bool := w.cause == 5 || w.cause == 6

/-- What a frame of audio does to a source: its level moves, and a switch goes on at the end of its fade and of its ramp. -/
def State.srcFrame (s : State) (i : Fin 4) : State :=
  let s := s.modSrc i (fun q => { q with fader := s.fadeStep q.fader })
  let q := s.src i
  match q.sw with
  | none => s
  | some w =>
    if w.stage == 1 && q.fader.mode == 0 then
      let w := { w with stage := 3 }
      if w.isAnn then s.modSrc i (fun q => { q with sw := some w, audio := false })
      else
        let pf := placeFreq w.new.mode w.new.freq
        let s := s.modSrc i (fun q => { q with sw := some w, srv := w.new, tuned := false, audio := false, rds := rdsReset, right := 0, wrong := 0, gone := false })
        let s := s.cond (w.new.mode == 2) (·.modBcst (fun b => { b with dab := upd b.dab q.path (fun _ => dabReset) }))
        s.loRequest (s.pathLo q.path) (.place i.val pf)
    else if w.stage == 3 then s.modSrc i (fun q => { q with sw := some { w with silent := w.silent + 1 } })
    else if w.stage == 4 && q.fader.mode == 1 then
      let s := s.modSrc i (fun q => { q with sw := if w.cause == 7 || w.isAnn || 2 ≤ w.right then none else some { w with stage := 5 } })
      s.serveWaits i
    else s

/-- First audio of a source is there: a select is judged, a switch ramps in and is reported (R487, R502). -/
def State.audioReady (s : State) (i : Fin 4) : State :=
  let s := s.modSrc i (fun q => { q with audio := true, fader := s.rampIn q.fader })
  match (s.src i).sw with
  | some w => s.cond (w.stage == 3) (fun s => (s.modSrc i (fun q => { q with sw := some { w with stage := 4 } })).switchRec i w)
  | none => s

/-- The path's first clean tile has ended. -/
def State.cleanEnded (s : State) (p : Fin 4) : Bool :=
  s.pathRx p && match s.radio.paths[p].cleanAt with
    | some t => s.tileAt (t + 1)
    | none => false

/-- FM_AUDIO_READY (R465, R467). -/
def execFmAudioReady (source : Fin 4) (s : State) : Host.Outcome State Fault Refusal :=
  inBlock .bcst s fun s => s.cond (!s.reqRetired 5) fun s =>
    let q := s.src source
    s.cond (q.srv.mode == 1 && q.tuned && !q.audio && s.srcCovered q && s.cleanEnded q.path) (fun s => (s.audioReady source).selectFm source)
/-- DAB_AUDIO_READY (R474, R476). -/
def execDabAudioReady (source : Fin 4) (s : State) : Host.Outcome State Fault Refusal :=
  inBlock .bcst s fun s => s.cond (!s.reqRetired 5) fun s =>
    let q := s.src source
    let d := s.bcst.dab[q.path]
    s.cond (q.srv.mode == 2 && q.tuned && !q.audio && s.srcCovered q && d.sync && d.has q.srv.id q.srv.scids) (·.audioReady source)

/-- SWITCH_CONFIRM_TIMEOUT (R486, R488): 200 ms after the first clean tile for FM, 700 ms for DAB. -/
def execSwitchConfirmTimeout (source : Fin 4) (s : State) : Host.Outcome State Fault Refusal :=
  inBlock .bcst s fun s =>
    match (s.src source).sw with
    | none => s
    | some w =>
      if w.stage < 3 || w.cause == 7 || w.isAnn then s
      else
        let q := s.src source
        let ok := if w.new.mode == 1 then !w.trial || 2 ≤ w.right else s.bcst.dab[q.path].has w.new.id w.new.scids
        if !ok then s.returnSwitch source w
        else s.modSrc source (fun q => { q with sw := if w.stage == 5 then none else some { w with right := 2 } })

/-- AF_BAR_EXPIRY (R488). -/
def execAfBarExpiry (source : Fin 4) (mode freq : Nat) (s : State) : Host.Outcome State Fault Refusal :=
  inBlock .bcst s fun s => s.modBcst (fun b => { b with bars := b.bars.filter (· != (source.val, mode, freq)) })

/-! ### RDS (R468 to R470, R480, R488, R493) -/

/-- One block: expected place, synchronisation, the group in progress; a whole group when its four blocks are valid. `kind` 0 A, 1 B, 2 C,
3 C', 4 D; `corr` the bits corrected, more than 5 an uncorrectable block. DESIGN CHOICE, log 67. -/
def Rds.block (r : Rds) (kind info corr : Nat) : Rds × Option (List (Nat × Nat)) :=
  let i := if kind == 4 then 3 else if kind == 3 then 2 else kind
  let ok := decide (corr ≤ 5)
  let hist := (ok :: r.hist).take 50
  let run := if ok then (if i == r.next then r.run + 1 else 1) else 0
  let sync := if r.sync then !(hist.length == 50 && 45 ≤ (hist.filter (!·)).length) else 2 ≤ run
  let cur := if !ok then [] else if i == 0 then [(info, corr)] else if r.cur.length == i then r.cur ++ [(info, corr)] else []
  let r := { r with hist := if sync || !r.sync then hist else [], run := run, sync := sync, next := (i + 1) % 4, cur := cur }
  if cur.length == 4 then ({ r with cur := [] }, some cur) else (r, none)

/-- Characters of a word, the first in bits 7:0. -/
def charWords : Nat → List Nat → List Word
  | 0, _ => []
  | n + 1, cs => packW ((cs.take 4).zipIdx.map (fun e => (8 * e.2, 8, e.1))) :: charWords n (cs.drop 4)
/-- RT in parts of up to 28 characters (Table 12.9). -/
def rtParts (ab : Nat) (cs : List Nat) : List (Nat × List Word) :=
  ([0, 28, 56].filter (· < cs.length)).map (fun o =>
    let part := (cs.drop o).take 28
    (2, packW [(16, 1, ab), (8, 8, part.length), (0, 8, o)] :: charWords 7 part))
def chars2 (v : Nat) : List Nat := [v / 256 % 256, v % 256]
/-- The RT so far, when it ends in 0x0D or has 64 characters (R469). -/
def rtWhole (l : List (Nat × Nat)) : Option (List Nat) :=
  let at? (i : Nat) : Option Nat := (l.find? (·.1 == i)).map (·.2)
  let r := (List.range 64).foldl (fun (acc : List Nat × Nat) i =>
    if acc.2 != 0 then acc else match at? i with
      | none => (acc.1, 2)
      | some 0x0D => (acc.1 ++ [0x0D], 1)
      | some c => (acc.1 ++ [c], 0)) ([], 0)
  if r.2 == 1 || (r.2 == 0 && r.1.length == 64) then some r.1 else none
/-- Frequency of an AF code (IEC 62106). -/
def afFreq (c : Nat) : Option Nat := if 1 ≤ c && c ≤ 204 then some (87500000 + 100000 * c) else none

/-- What a complete group says, and the reports it gives: kind and words from word 8 on (R469, R470). DESIGN CHOICE, log 67. -/
def Rds.group (r : Rds) (g : List (Nat × Nat)) : Rds × List (Nat × List Word) :=
  let w (i : Nat) : Nat := (g.getD i (0, 0)).1
  let b := w 1
  let typ := b / 4096
  let vb := b / 2048 % 2
  let r := { r with pi := some (w 0), pty := b / 32 % 32, tp := tb b 10 }
  if typ == 0 then
    let seg := b % 4
    let c := w 3
    let times := match r.ps.find? (·.1 == seg) with
      | some (_, c', n) => if c' == c then n + 1 else 1
      | none => 1
    let ps := (seg, c, times) :: r.ps.filter (·.1 != seg)
    let text := (List.range 4).flatMap (fun i => chars2 (((ps.find? (·.1 == i)).map (·.2.1)).getD 0))
    let whole := ps.length == 4 && ps.all (fun e => 2 ≤ e.2.2) && text != r.psTold
    let afs := if vb == 0 then (chars2 (w 2)).filterMap afFreq else []
    ({ r with ta := tb b 4, ms := tb b 3, ps := ps, psTold := if whole then text else r.psTold
              af := afs.foldl (fun l f => if l.contains f then l else l ++ [f]) r.af },
     if whole then [(1, charWords 2 text ++ [packW [(0, 16, w 0)]])] else [])
  else if typ == 2 then
    let ab := b / 16 % 2
    let old := if ab == r.rtAb then r.rt else []
    let cs := if vb == 0 then chars2 (w 2) ++ chars2 (w 3) else chars2 (w 3)
    let base := (b % 16) * cs.length
    let rt := cs.zipIdx.foldl (fun l e => (base + e.2, e.1) :: l.filter (·.1 != base + e.2)) old
    let told := if ab == r.rtAb then r.rtTold else []
    match rtWhole rt with
    | some t => ({ r with rtAb := ab, rt := rt, rtTold := t }, if t == told then [] else rtParts ab t)
    | none => ({ r with rtAb := ab, rt := rt, rtTold := told }, [])
  else if typ == 4 && vb == 0 then
    let mjd := b % 4 * 32768 + w 2 / 2
    let hour := w 2 % 2 * 16 + w 3 / 4096
    let off : Int := if tb (w 3) 5 then -((w 3 % 32 : Nat) : Int) else (w 3 % 32 : Nat)
    (r, [(3, [BitVec.ofNat 32 mjd, packW [(24, 8, hour), (16, 8, w 3 / 64 % 64), (0, 8, unsgn 8 off)]])])
  else if typ == 3 && vb == 0 then
    let aid := w 3
    ({ r with oda := (b % 32, aid) :: r.oda.filter (·.2 != aid) }, [])
  else (r, [])

/-- TA and TP of the tuned FM station set and clear ANNOUNCE (R491, R493). -/
def State.fmTa (s : State) (i : Fin 4) : State :=
  let q := s.src i
  let on := q.rds.ta && q.rds.tp && (q.follow.map (fun f => tb f.annMask 1)).getD false
  let w (cause : Nat) : Switch := ⟨0, cause, q.srv, q.srv, s.srcQ q, s.srcQ q, 0, false, 0, 0, 2⟩
  if on && q.ann.isNone then (s.modSrc i (fun q => { q with ann := some ⟨2, 0, 0⟩ })).switchRec i (w 5)
  else if !on && q.ann.isSome then (s.modSrc i (fun q => { q with ann := none })).switchRec i (w 6)
  else s

/-- A block A counts towards what waits for this station's PI (R488, R502). -/
def State.seenPi (s : State) (i : Fin 4) (pi : Nat) : State :=
  let q := s.src i
  let s := s.modSrc i (fun q => if pi == q.srv.id then { q with right := q.right + 1 } else { q with wrong := q.wrong + 1 })
  let s := match q.sw with
    | none => s
    | some w =>
      if w.stage < 3 || w.cause == 7 || w.isAnn || w.new.id == 0 then s
      else
        let w := if pi == w.new.id then { w with right := w.right + 1 } else { w with wrong := w.wrong + 1 }
        if 2 ≤ w.wrong && w.right < 2 then s.returnSwitch i w
        else s.modSrc i (fun q => { q with sw := if 2 ≤ w.right && w.stage == 5 then none else some w })
  s.selectFm i

/-- A candidate of the background path, as known. -/
def State.modCand (s : State) (mode freq id : Nat) (f : Candid → Candid) : State :=
  let c := (s.bcst.cands.find? (fun c => c.mode == mode && c.freq == freq && c.id == id)).getD ⟨mode, freq, id, 0, 0, 0, none⟩
  s.modBcst (fun b => { b with cands := f c :: b.cands.filter (fun c => !(c.mode == mode && c.freq == freq && c.id == id)) })

/-- RDS_BLOCK (R468 to R470, R480, R493): a block of the station at a frequency on a path. -/
def execRdsBlock (path : Fin 4) (freq : Nat) (kind : Fin 5) (info corr : Nat) (s : State) : Host.Outcome State Fault Refusal :=
  inBlock .bcst s fun s => s.cond (!s.reqRetired 5) fun s =>
    let s := s.forEach allPaths (fun s i =>
      let q := s.src i
      if q.srv.mode != 1 || q.path != path || q.srv.freq != freq || !s.srcCovered q then s
      else
        let b := q.rds.block kind.val info corr
        let s := s.modSrc i (fun q => { q with rds := b.1 })
        let s := match b.2 with
          | none => s
          | some g =>
            let t := (g.getD 1 (0, 0)).1 / 2048
            let r := b.1.group g
            let s := s.modSrc i (fun q => { q with rds := r.1 })
            let x (k : Nat) : Nat × Nat := g.getD k (0, 0)
            let s := s.cond (tb q.mask t) (·.rdsRec i 0 [packW [(16, 16, (x 0).1), (0, 16, (x 1).1)], packW [(16, 16, (x 2).1), (0, 16, (x 3).1)],
              packW [(12, 4, (x 0).2), (8, 4, (x 1).2), (4, 4, (x 2).2), (0, 4, (x 3).2)]])
            (s.forEach r.2 (fun s e => s.rdsRec i e.1 e.2)).fmTa i
        s.cond (kind.val == 0 && corr ≤ 5) (·.seenPi i info))
    if !(s.bgEn && path == s.bgPath && s.bandsOk (s.loNow path) 1 freq) then s
    else
      let old := ((s.bcst.stations.find? (·.1 == freq)).map (·.2)).getD rdsReset
      let b := old.block kind.val info corr
      let r := match b.2 with
        | some g => (b.1.group g).1
        | none => b.1
      let s := s.modBcst (fun t => { t with stations := (freq, r) :: t.stations.filter (·.1 != freq) })
      s.cond (kind.val == 0 && corr ≤ 5) (·.modCand 1 freq info (fun c =>
        let n := if c.blockMs ≤ 200 then c.blocks + 1 else 1
        { c with blocks := n, blockMs := if n == 1 then 0 else c.blockMs, confMs := if 2 ≤ n then some 0 else c.confMs }))

/-! ### DAB (R471 to R479, R491 to R494, R500) -/

/-- DAB sources on a path. -/
def State.dabSrcs (s : State) (p : Fin 4) : List (Fin 4) := allPaths.filter (fun i => (s.src i).srv.mode == 2 && (s.src i).path == p)
def State.modDab (s : State) (p : Fin 4) (f : Dab → Dab) : State := s.modBcst (fun b => { b with dab := upd b.dab p f })
/-- Something receives DAB on a path: a source, a subscription or a probe. -/
def State.dabOn (s : State) (p : Fin 4) : Bool :=
  !(s.dabSrcs p).isEmpty || (s.bcst.probe.isSome && p == s.bgPath)

def State.dabLost (s : State) (p : Fin 4) : State :=
  let s := s.modDab p (fun d => { d with sync := false, nulls := 0, missing := 0, badRun := 0 })
  s.forEach (s.dabSrcs p) (fun s i => s.dabRec i 2 [])

/-- DAB_NULL_SYMBOL (R472): a null symbol at the expected place. -/
def execDabNullSymbol (path : Fin 4) (s : State) : Host.Outcome State Fault Refusal :=
  inBlock .bcst s fun s => s.cond (!s.reqRetired 5) fun s =>
    if !s.dabOn path || !s.pathRx path then s
    else
      let s := s.modDab path (fun d => { d with nulls := d.nulls + 1, missing := 0 })
      let d := s.bcst.dab[path]
      if d.sync || d.nulls < 3 then s
      else
        let s := s.modDab path (fun d => { d with sync := true, badRun := 0 })
        let label := (d.facts.findSome? (fun f => match f with
          | .ensemble _ l => some l
          | _ => none)).getD []
        s.forEach (s.dabSrcs path) (fun s i => s.dabRec i 1 (BitVec.ofNat 32 d.eid :: label.take 4))
/-- DAB_NULL_SYMBOL_ABSENT (R472): a frame without its null symbol. -/
def execDabNullSymbolAbsent (path : Fin 4) (s : State) : Host.Outcome State Fault Refusal :=
  inBlock .bcst s fun s =>
    let s := s.modDab path (fun d => { d with nulls := 0, missing := d.missing + 1 })
    let d := s.bcst.dab[path]
    s.cond (d.sync && 4 ≤ d.missing) (·.dabLost path)

/-- An announcement starts or ends for a source by a switch of its audio without a retune (R492, R494). -/
def State.annSwitch (s : State) (i : Fin 4) (a : Option Announce) : State :=
  let q := s.src i
  let f := (a.map (·.flags)).getD ((q.ann.map (·.flags)).getD 0)
  let w : Switch := ⟨1, if a.isSome then 5 else 6, q.srv, q.srv, s.srcQ q, s.srcQ q, 0, false, 0, 0, f⟩
  let x := (a <|> q.ann).getD ⟨0, 0, 0⟩
  let s := s.modSrc i (fun q => { q with ann := a, annNext := none, sw := some w, fader := s.fadeOut q.fader })
  s.dabRec i 6 [packW [(31, 1, b2n a.isSome), (24, 6, x.subch), (16, 8, x.cluster), (0, 16, x.flags)]]

/-- The lowest flag of an announcement that a source follows. -/
def annPrio (mask flags : Nat) : Nat := ((List.range 11).find? (fun b => tb mask b && tb flags b)).getD 99

/-- FIG 0/19 for one source (R491, R492, R494). -/
def State.announce (s : State) (i : Fin 4) (cluster flags subch : Nat) : State :=
  let q := s.src i
  let d := s.bcst.dab[q.path]
  let mask := (q.follow.map (·.annMask)).getD 0
  let assigned := d.facts.any (fun f => match f with
    | .support sid _ cl => sid == q.srv.id && cl.contains cluster
    | _ => false)
  let want := assigned && annPrio mask flags < 99
  match q.ann with
  | none =>
    if !want then s.modSrc i (fun q => { q with annNext := none })
    else if State.switching q then s.modSrc i (fun q => { q with annNext := some ⟨flags, cluster, subch⟩ })
    else s.annSwitch i (some ⟨flags, cluster, subch⟩)
  | some a =>
    if a.cluster == cluster && flags &&& a.flags == 0 then s.annSwitch i none
    else if want && a.cluster != cluster && annPrio mask flags < annPrio mask a.flags && !State.switching q then
      s.annSwitch i (some ⟨flags, cluster, subch⟩)
    else s

/-- ANNOUNCEMENT_TIMEOUT (R492): 60 s without FIG 0/19 for the cluster. -/
def execAnnouncementTimeout (source : Fin 4) (s : State) : Host.Outcome State Fault Refusal :=
  inBlock .bcst s fun s =>
    let q := s.src source
    s.cond (q.srv.mode == 2 && q.ann.isSome) (·.annSwitch source none)

/-- The pip count that UTC gives (R273): D = floor(t ÷ 96 ms) from 2000-01-01, MJD 51544. -/
def pipOfUtc (mjd hour minute second ms : Nat) : Int :=
  (((((mjd : Int) - 51544) * 86400 + hour * 3600 + minute * 60 + second) * 1000) + ms).fdiv 96

/-- A fact of the FIC for one source: reports and what they start (R473, R477, R479). -/
def State.dabFact (s : State) (i : Fin 4) (f : DabFact) : State :=
  let q := s.src i
  match f with
  | .time m h mi se ms => s.dabRec i 3 [BitVec.ofNat 32 m, packW [(24, 8, h), (16, 8, mi), (8, 8, se)], BitVec.ofNat 32 ms]
  | .service sid sc codec sub rate label =>
    if sid == q.srv.id && sc == q.srv.scids then
      let s := s.modSrc i (fun q => { q with gone := false })
      s.dabRec i 5 ([BitVec.ofNat 32 sid, packW [(16, 8, codec), (8, 6, sub), (0, 4, sc)], BitVec.ofNat 32 rate] ++ label.take 4)
    else s
  | .announce c fl sub => s.announce i c fl sub
  | _ => s

/-- A DAB select ends OK once its sub-channel is decoded, or NOT_FOUND when the whole FIC lacks the service (R502). -/
def State.selectDab (s : State) (i : Fin 4) : State :=
  let q := s.src i
  let d := s.bcst.dab[q.path]
  if q.select.isNone || !q.tuned || !d.sync then s
  else if d.has q.srv.id q.srv.scids then s.selectEnds i stOK
  else if d.complete then s.selectEnds i stNotFound
  else s

/-- FIG 0/10 aligns the pip count (R273, R479). -/
def State.timeAlign (s : State) (p : Fin 4) (facts : List DabFact) : State :=
  if s.pipSrc != srcDab || s.get Fld.pipSrcPath != p.val || !s.is Fld.pipCtlTimeAlign || !s.free? .pip then s
  else s.forEach facts (fun s f => match f with
    | .time m h mi se ms =>
      let d := pipOfUtc m h mi se ms
      s.cond (decide (1 < (d - s.pipCount).natAbs)) (·.pipJump 2 d)
    | _ => s)

/-- DAB_FRAME (R471 to R475): a frame's FIBs (CRC good or not), its audio frames failed and all, and what it told that is new. -/
def execDabFrame (path : Fin 4) (fibs : List Bool) (audBad audAll : Nat) (facts : List DabFact) (s : State) : Host.Outcome State Fault Refusal :=
  inBlock .bcst s fun s => s.cond (!s.reqRetired 5) fun s =>
    if !s.dabOn path || !s.bcst.dab[path].sync || !s.pathRx path then s
    else
      let bad := (fibs.filter (!·)).length
      let s := s.modDab path (fun d => facts.foldl Dab.learn { d with
        fibs := ((bad, fibs.length) :: d.fibs).take 20, auds := ((audBad, audAll) :: d.auds).take 20
        badRun := fibs.foldl (fun n ok => if ok then 0 else n + 1) d.badRun })
      let s := s.forEach (s.dabSrcs path) (fun s i =>
        let s := s.modSrc i (fun q => { q with conceal := 0 < audBad })
        (s.forEach facts (fun s f => s.dabFact i f)).selectDab i)
      let s := s.timeAlign path facts
      s.cond (40 ≤ s.bcst.dab[path].badRun) (·.dabLost path)

/-- DAB_RECONFIG (R473, R477, R500): at its CIF count the configuration becomes the one the FIC signalled. -/
def execDabReconfig (path : Fin 4) (cif : Nat) (services : List DabFact) (s : State) : Host.Outcome State Fault Refusal :=
  inBlock .bcst s fun s => s.cond (!s.reqRetired 5) fun s =>
    if !s.dabOn path || !s.bcst.dab[path].sync then s
    else
      let before := s.bcst.dab[path]
      let s := s.modDab path (fun d => services.foldl Dab.learn { d with facts := d.facts.filter (fun f => match f with
        | .service _ _ _ _ _ _ => false
        | _ => true) })
      let now := s.bcst.dab[path]
      s.forEach (s.dabSrcs path) (fun s i =>
        let q := s.src i
        let s := s.dabRec i 4 [BitVec.ofNat 32 cif]
        let s := s.forEach services (fun s f => if before.facts.contains f then s else s.dabFact i f)
        if before.has q.srv.id q.srv.scids && !now.has q.srv.id q.srv.scids then
          s.modSrc i (fun q => { q with gone := true, audio := false, fader := s.fadeOut q.fader })
        else s)

/-! ### Following (R483 to R486) -/

/-- BCST_FOLLOW (R483, R484). -/
def execBcstFollow (d : Desc) (s : State) : Host.Outcome State Fault Refusal :=
  running s fun s =>
    s.atMember 0x19 d id fun s =>
      s.needBlk .bcst d fun s =>
        let i : Fin 4 := Fin.ofNat 4 (d.f 1 0 2)
        let f : Follow := { annMask := d.f 1 16 11, soft := d.f 1 7 1 == 1, region := d.f 1 6 1 == 1, link := d.f 1 5 1 == 1, af := d.f 1 4 1 == 1
                            prefer := sgn 8 (d.f 2 16 8), hyst := d.f 2 8 7, low := d.f 2 0 7
                            probe := if d.f 3 16 16 == 0 then 30000 else 100 * d.f 3 16 16, hold := if d.f 3 0 16 == 0 then 2000 else d.f 3 0 16 }
        let q := s.src i
        let lo := s.pathLo q.path
        let off := !(f.region || f.link || f.af)
        if off && f.annMask == 0 then ((s.commit d).modSrc i (fun q => { q with follow := none })).finish d stOK
        else if !off && ((s.takers lo).any (· != q.path) || (s.bgEn && s.pathLo s.bgPath == lo)) then s.bad d 0x49
        else ((s.commit d).modSrc i (fun q => { q with follow := some f, lowMs := 0 })).finish d stOK

/-- A region 2 entry as a service. -/
def listService (e : List Word) : Service :=
  let w (i : Nat) : Word := e.getD i 0
  if getF (w 0) 24 8 == 1 then ⟨1, (w 1).toNat, getF (w 0) 0 16, 0⟩ else ⟨2, (w 1).toNat, (w 2).toNat, getF (w 3) 0 4⟩
def listLink (e : List Word) : Nat := getF (e.getD 3 0) 8 8

/-- The candidates of a source (R483). -/
def State.candidates (s : State) (i : Fin 4) : List Service :=
  let q := s.src i
  match q.follow with
  | none => []
  | some f =>
    let pi := if q.srv.id == 0 then (q.rds.pi).getD 0 else q.srv.id
    let afs := if f.af && q.srv.mode == 1 then q.rds.af.map (fun x => (⟨1, x, pi, 0⟩ : Service)) else []
    let facts := s.bcst.dab[q.path].facts
    let links := if f.link && q.srv.mode == 2 then facts.flatMap (fun x => match x with
      | .link hard sids pis =>
        if (hard || f.soft) && sids.contains q.srv.id then
          facts.filterMap (fun y => match y with
            | .frequency true id fr => if sids.contains id then some (⟨2, fr, id, 0⟩ : Service) else none
            | .frequency false id fr => if pis.contains id then some ⟨1, fr, id, 0⟩ else none
            | _ => none)
        else []
      | _ => []) else []
    let me := if q.srv.mode == 1 then pi else q.srv.id
    let mine := s.bcst.list.filter (fun e => (listService e).mode == q.srv.mode && (listService e).id == me)
    let regs := if f.region then (s.bcst.list.filter (fun e => mine.any (fun m => listLink m == listLink e))).map listService else []
    let barred := (s.bcst.list.filter (fun e => getF (e.getD 0 0) 16 1 == 1)).map listService
    (afs ++ links ++ regs).filter (fun c =>
      !(c.mode == q.srv.mode && c.freq == q.srv.freq && c.id == me) && !barred.any (fun b => b.mode == c.mode && b.freq == c.freq) &&
      !s.bcst.bars.contains (i.val, c.mode, c.freq) && s.covered q.path (placeFreq c.mode c.freq) c.mode c.freq)

/-- Q_c of a candidate whose identity is confirmed (R480, R485). -/
def State.candQ (s : State) (f : Follow) (c : Service) : Option Int :=
  match s.bcst.cands.find? (fun k => k.mode == c.mode && k.freq == c.freq && k.id == c.id) with
  | some k => match k.confMs with
    | some a => if a ≤ 5000 then some ((k.qual : Int) + (if c.mode == 2 then f.prefer else 0)) else none
    | none => none
  | none => none
/-- One candidate goes before another: higher Q_c, then the own mode, then the lower frequency (R485). -/
def candBefore (mode : Nat) (a b : Service × Int) : Bool :=
  if a.2 != b.2 then decide (b.2 < a.2)
  else if a.1.mode != b.1.mode then a.1.mode == mode
  else decide (a.1.freq < b.1.freq)
def bestCand (mode : Nat) (l : List (Service × Int)) : Option (Service × Int) :=
  l.foldl (fun b a => match b with
    | none => some a
    | some b => if candBefore mode a b then some a else some b) none

/-- One source is evaluated (R485, R486, R494). -/
def State.evaluate (s : State) (i : Fin 4) : State :=
  let s := s.modSrc i (fun q => { q with switchMs := q.switchMs + 100, probeMs := q.probeMs + 100, trialMs := q.trialMs + 100 })
  let q := s.src i
  match q.follow with
  | none => s
  | some f =>
    let qual := s.srcQ q
    let s := s.modSrc i (fun q => { q with lowMs := if qual < f.low then (if q.lowMs == 0 then 1 else q.lowMs + 100) else 0 })
    let q := s.src i
    if q.srv.mode == 0 || q.lowMs < f.hold + 1 || q.switchMs < f.hold || q.sw.isSome || q.ann.isSome then s
    else
      let cs := s.candidates i
      let known := cs.filterMap (fun c => match s.candQ f c with
        | some x => if (f.low : Int) + f.hyst ≤ x then some (c, x) else none
        | none => none)
      let go (s : State) (c : Service) (x : Int) (trial : Bool) : State :=
        s.startSwitch i ⟨1, switchCause q.srv c, { q.srv with id := if q.srv.id == 0 then (q.rds.pi).getD 0 else q.srv.id }, c, qual, (clampI 0 100 x).toNat, 0, trial, 0, 0, 0⟩
      match bestCand q.srv.mode known with
      | some (c, x) => go s c x false
      | none =>
        if s.bgEn || q.trialMs < f.hold then s
        else match bestCand q.srv.mode (cs.map (fun c => (c, (0 : Int)))) with
          | some (c, x) => go (s.modSrc i (fun q => { q with trialMs := 0 })) c x true
          | none => s

/-- FOLLOW_EVALUATE (R485, R503): every 100 ms. Ages of background confirmations grow, and a waiting region 2 takes effect. -/
def execFollowEvaluate (s : State) : Host.Outcome State Fault Refusal :=
  inBlock .bcst s fun s =>
    let s := match s.bcst.listNext with
      | some (d, l) => (s.modBcst (fun b => { b with list := l, listNext := none })).regionDone d { status := stOK }
      | none => s
    let s := s.modBcst (fun b => { b with cands := b.cands.map (fun c =>
      { c with blockMs := c.blockMs + 100, confMs := match c.confMs with
        | some a => if a + 100 ≤ 5000 then some (a + 100) else none
        | none => none }) })
    s.forEach allPaths State.evaluate

/-- BCST_METER_UPDATE (R466, R475, R480): readings of the stations; those of the background path are a candidate's quality. -/
def execBcstMeterUpdate (meters : List BcstMeter) (s : State) : Host.Outcome State Fault Refusal :=
  inBlock .bcst s fun s => s.cond (!s.reqRetired 5) fun s =>
    s.forEach meters (fun s m =>
      let s := s.forEach allPaths (fun s i =>
        let q := s.src i
        if q.srv.mode == 0 || q.path != m.path || q.srv.freq != m.freq || s.samp.agc[q.path].stale then s
        else s.modSrc i (fun q => { q with level := m.level, stereo := m.stereo, qual := fmQuality m.level (min 40 m.mp) }))
      if !(s.bgEn && m.path == s.bgPath) then s
      else
        let ids := (allPaths.flatMap s.candidates).filter (fun c => c.mode == 1 && c.freq == m.freq)
        s.forEach ids (fun s c => s.modCand 1 m.freq c.id (fun k => { k with qual := fmQuality m.level (min 40 m.mp) })))

/-- DAB_PROBE (R481, R489): the background path retunes to a DAB candidate of a source. -/
def execDabProbe (source : Fin 4) (freq id scids : Nat) (s : State) : Host.Outcome State Fault Refusal :=
  inBlock .bcst s fun s => s.cond (!s.reqRetired 5) fun s =>
    let q := s.src source
    let due := match q.follow with
      | some f => decide (f.probe ≤ q.probeMs)
      | none => false
    let c := (s.candidates source).find? (fun c => c.mode == 2 && c.freq == freq && c.id == id)
    if !s.bgEn || s.bcst.probe.isSome || !due || State.switching q || c.isNone then s
    else
      let s := s.modSrc source (fun q => { q with probeMs := 0 })
      let s := (s.modBcst (fun b => { b with probe := some (source.val, ⟨2, freq, id, scids⟩) })).modDab s.bgPath (fun _ => dabReset)
      s.loRequest (s.pathLo s.bgPath) (.probe freq)
/-- DAB_PROBE_END (R481): the FIC has shown the service or 400 ms are over; the path returns to its LOn_FREQ (R482). -/
def execDabProbeEnd (qual : Nat) (s : State) : Host.Outcome State Fault Refusal :=
  inBlock .bcst s fun s =>
    match s.bcst.probe with
    | none => s
    | some (_, c) =>
      let found := s.bcst.dab[s.bgPath].facts.any (fun f => match f with
        | .service sid _ _ _ _ _ => sid == c.id
        | _ => false)
      let s := s.cond found (·.modCand 2 c.freq c.id (fun k => { k with qual := min 100 qual, confMs := some 0 }))
      let s := (s.modBcst (fun b => { b with probe := none })).modDab s.bgPath (fun _ => dabReset)
      let lo := s.pathLo s.bgPath
      s.loRequest lo (.probe (s.loFreqReg lo))

/-! ### Datacasts (R495 to R498) -/

/-- The RDS that a subscription listens to: its source's, or a background station's. -/
def State.subRds (s : State) (e : Subscription) : Option Rds :=
  if e.freq == 0 then (allPaths.find? (fun i => (s.src i).srv.mode == 1 && (s.src i).path == e.path)).map (fun i => (s.src i).rds)
  else (s.bcst.stations.find? (·.1 == e.freq)).map (·.2)
/-- The transport of a subscription is located (R496, R497). -/
def State.subLocated (s : State) (e : Subscription) : Bool :=
  if e.transport == 1 then match s.subRds e with
    | some r => r.sync && r.oda.any (·.2 == e.id)
    | none => false
  else
    let d := s.bcst.dab[e.path]
    d.sync && d.facts.any (fun f => match f with
      | .service sid sc 3 _ _ _ => sid == e.id && sc == e.scids
      | _ => false)

/-- Stations decoded for subscriptions with a frequency of their own (R480). -/
def State.bgStations (s : State) (except : Nat) : List Nat :=
  ((List.range 8).filterMap (fun i => if i == except then none else match s.bcst.subs[Fin.ofNat 8 i] with
    | some e => if e.transport == 1 && e.freq != 0 then some e.freq else none
    | none => none)).eraseDups

/-- DATACAST_SUBSCRIBE (R462, R495): head scope. -/
def execDatacastSubscribe (d : Desc) (s : State) : Host.Outcome State Fault Refusal :=
  running s fun s =>
    s.taking 0x1A d fun s => s.needBlk .bcst d fun s =>
      let slot := d.f 1 0 3
      let tr := d.f 1 8 2
      let p : Fin 4 := Fin.ofNat 4 (d.f 1 12 2)
      let f := (d.w 2).toNat
      let e : Subscription := ⟨tr, if f == 0 then p else s.bgPath, f, if tr == 1 then d.f 3 0 16 else (d.w 3).toNat, d.f 4 0 4⟩
      let set (s : State) (v : Option Subscription) : State := s.modBcst (fun b => { b with subs := upd b.subs (Fin.ofNat 8 slot) (fun _ => v) })
      if tr == 0 then (set (s.commit d) none).finish d stOK
      else if f == 0 && s.bgEn && p == s.bgPath then s.bad d 0x49
      else if f != 0 && (!s.bgEn || !s.covered s.bgPath (s.loNow s.bgPath) tr f) then s.bad d 0x48
      else if tr == 1 && f != 0 && 4 < (f :: s.bgStations slot).eraseDups.length then s.bad d 0x4A
      else if tr == 2 && 4 ≤ (set s none).subChannels e.path none then s.bad d 0x4A
      else
        let s := set (s.commit d) (some e)
        s.complete d { status := stOK, r0 := BitVec.ofNat 32 (b2n (s.subLocated e)) }

/-! ### The pip edges of broadcasts (R274, R478) -/

/-- PIP_EDGE_DAB (R265, R274): a null symbol as pip edge. -/
def execPipEdgeDab (ns cycle : Nat) (s : State) : Host.Outcome State Fault Refusal :=
  inBlock .pip s fun s => s.cond (s.pipSrc == srcDab && s.pipBcstSync && !s.reqRetired 5) (·.pipEdge false ns cycle)
/-- PIP_EDGE_RDS (R265, R274): the end of a block D as pip edge. -/
def execPipEdgeRds (ns cycle : Nat) (s : State) : Host.Outcome State Fault Refusal :=
  inBlock .pip s fun s => s.cond (s.pipSrc == srcRds && s.pipBcstSync && !s.reqRetired 5) (·.pipEdge false ns cycle)

/-! ### Tiles and a held block (R464, R501) -/

/-- A tile that ended erased on a source's path (GAP, STALE or BLANK): one or two are bridged, a longer run fades FM audio (R464). -/
def State.bcstTile (s : State) : State :=
  s.forEach allPaths (fun s i =>
    let q := s.src i
    if q.srv.mode != 1 then s
    else
      let flags := s.tileFlags q.path
      let er := flags &&& 0x1C != 0
      let n := if er then q.erased + 1 else 0
      let s := s.modSrc i (fun q => { q with erased := n, conceal := n == 1 || n == 2 })
      if n == 3 then s.modSrc i (fun q => { q with fader := s.fadeOut q.fader })
      else if n == 0 && 3 ≤ q.erased && q.audio && !State.switching q then s.modSrc i (fun q => { q with fader := s.rampIn q.fader })
      else s)

/-- The BCST block is held (R501). -/
def State.bcstHeld (s : State) : State :=
  let s := s.forEach allPaths (fun s i =>
    let q := s.src i
    let ds := q.select.toList ++ q.waits
    (s.modSrc i (fun q => { sourceReset with fader := s.fadeOut q.fader })).forEach ds (fun s d => s.finish d stPeerReset))
  let s := match s.bcst.listNext with
    | some (d, _) => s.regionDone d { status := stPeerReset }
    | none => s
  s.modBcst (fun b => { b with dab := b.dab.map (fun _ => dabReset), list := [], listNext := none, cands := [], bars := [], probe := none
                               subs := b.subs.map (fun _ => none), stations := [] })

end Sys2Proof.Machine
end

