-- ==== Sys2Proof/Machine/Flags.lean ====
section
/-! DEFINITION. The error flags that a refused access or a refused ring operation sets, with what they record (spec 05, TOP_STATUS and
TOP_ERR_ADDR; spec 06, HIF_STAT). -/

namespace Sys2Proof.Machine

/-- TOP_ERR_ADDR records the access that set a flag of TOP_STATUS; codes of CAUSE. -/
def State.accErr (s : State) (f : FieldRef) (cause : Nat) (p : Port) (write : Bool) (off : Nat) : State :=
  (s.flag f).wr Reg.topErrAddr (packW [(28, 4, cause), (24, 1, b2n write), (16, 2, p.idx.val), (0, 16, off)])
def State.rsvdAcc (s : State) (p : Port) (write : Bool) (off : Nat) : State := s.accErr Fld.topStatusRsvdAcc 1 p write off
def State.encErr (s : State) (p : Port) (off : Nat) : State := s.accErr Fld.topStatusEncErr 2 p true off
/-- A refusal names its ring (HIF_STAT.ERR_RING). -/
def State.ringErr (s : State) (f : FieldRef) (n : Nat) : State := (s.flag f).put Fld.hifStatErrRing n

end Sys2Proof.Machine
end

