-- ==== Sys2Proof/Machine/Tag.lean ====
section
/-! DEFINITION. The tag air interface (spec 14): channels, bursts and their verification, acknowledgement queues, beacons from request
to decision, and listen windows. -/

namespace Sys2Proof.Machine

/-! ### Channels (R555, R556) -/

/-- F_b of a band (Table 14.1). -/
def bandBase (b : Nat) : Nat :=
  match b with
  | 0 => 433098000
  | 1 => 863048000
  | _ => 902048000
/-- The last channel of a band. -/
def bandLast (b : Nat) : Nat :=
  match b with
  | 0 => 17
  | 1 => 71
  | _ => 269
/-- The channel whose centre is a frequency, in a band (R555). -/
def chanOf (b f : Nat) : Option Nat :=
  if b < 3 && bandBase b ≤ f && (f - bandBase b) % 96000 == 0 && (f - bandBase b) / 96000 ≤ bandLast b then
    some ((f - bandBase b) / 96000)
  else none

/-- k of R556 for a centre and a synthesiser frequency: an even integer from 0 to 510, or the channel is not heard. -/
def hearK (fc flo : Nat) : Option Nat :=
  let n : Int := 2 * ((fc : Int) - flo) + 24528000
  if n % 96000 == 0 then
    let k := n / 96000
    if 0 ≤ k && k ≤ 510 && k % 2 == 0 then some k.toNat else none
  else none

/-- The sub-bands in which a path hears a centre (R556). -/
def State.hears (s : State) (p : Fin 4) (fc : Nat) : Option Nat :=
  if s.pathRx p && s.pathUhf p then
    match hearK fc s.radio.los[s.pathLo p].freq with
    | some k => if tb s.samp.octets (k / 8) then some k else none
    | none => none
  else none

/-- Owner of the i-th octet of a set in the default order (R689). -/
def State.defaultOwner (s : State) (octets : List Nat) (o : Nat) : Nat :=
  let ms := s.memberList
  ms.getD (octets.findIdx (· == o) % ms.length) s.me
/-- The owner that a region 1 map names for an octet (Table 17.6). -/
def mapOwner (ws : List Word) (o : Nat) : Nat := getF (ws.getD (1 + o / 4) 0) (8 * (o % 4)) 6
/-- The owner of an octet (R21): by the tile exchange's definition, else by the map, else in the default order; alone, this device. -/
def State.octetOwner (s : State) (o : Nat) : Nat :=
  if s.others.isEmpty then s.me
  else match s.exch.def0 with
    | some d => d.owners.getD o 64
    | none => match s.exch.map with
      | some ws => mapOwner ws o
      | none => s.defaultOwner (bitsOf 64 s.samp.octets) o

/-- Channel entry of region 5 as in effect: its frequency and band (Table 14.9). -/
def State.chanEntry (s : State) (c : Nat) : Option (Nat × Nat) := (s.tag.plan.bind (fun p => p.chans[c]?))
def State.listenSet (s : State) (n : Nat) : Option (Nat × Nat) := (s.tag.plan.bind (fun p => p.sets[n]?))

/-! ### Messages of this chapter (their forms are this model's) -/

/-- Kind 5: a candidate for the head (R576). -/
def msgCandidate : Nat := 0x51
/-- An accepted MAC for a member's acknowledgement queue (R579). -/
def msgAckMac : Nat := 0x52
/-- The implicit window of a beacon, for every member (R574). -/
def msgWindow : Nat := 0x53
/-- A set closed at the head (R572). -/
def msgSetClose : Nat := 0x54
/-- A listen-before-talk query to the owner (R714). -/
def msgSurvey : Nat := 0x55

/-- Send a message of the model's own to every other member. -/
def State.tellOthers (s : State) (code : Nat) (ws : List Word) : State :=
  s.forEach s.others (fun s m => s.sendReq { dst := m, src := s.me, kind := 2, code := code, tag := 0, words := ws } none)

def candWords (c : Candidate) : List Word :=
  [BitVec.ofNat 32 c.serial, packW [(16, 16, c.pool), (0, 3, c.keyid)], BitVec.ofNat 32 c.seq, BitVec.ofNat 32 c.mac,
   BitVec.ofNat 32 (c.side >>> 8), packW [(24, 8, c.side), (16, 8, unsgn 8 c.rssi), (12, 4, c.beam), (10, 2, c.mode), (8, 2, c.band)],
   packW [(16, 6, c.owner), (15, 1, b2n c.implicit), (0, 9, c.channel)], BitVec.ofNat 32 c.tile,
   BitVec.ofNat 32 (c.sets.foldl (fun a i => a ||| 2 ^ i) 0)]

/-! ### Acknowledgement queues (R578, R579) -/

/-- A MAC joins this member's copy of the queue of its channel. -/
def State.addAck (s : State) (band channel mac : Nat) : State :=
  s.modTag (fun t => { t with acks := t.acks ++ [⟨band, channel, mac, 0⟩] })

/-- The head adds an accepted MAC and sends it to every member. -/
def State.ackAll (s : State) (c : Candidate) : State :=
  (s.addAck c.band c.channel c.mac).tellOthers msgAckMac [packW [(16, 2, c.band), (0, 9, c.channel)], BitVec.ofNat 32 c.mac]

/-- The oldest MACs of a channel's queue that a beacon would carry. -/
def State.ackList (s : State) (band channel : Nat) : List AckMac :=
  (s.tag.acks.filter (fun a => a.band == band && a.channel == channel)).take (s.get Fld.tagCtlAckMax)

/-- A grant takes them: a MAC that two beacons have carried leaves the copy. -/
def carryAcks (band channel : Nat) : Nat → List AckMac → List AckMac
  | _, [] => []
  | 0, l => l
  | n + 1, a :: l =>
    if a.band == band && a.channel == channel then
      if 1 ≤ a.carried then carryAcks band channel n l else { a with carried := a.carried + 1 } :: carryAcks band channel n l
    else a :: carryAcks band channel (n + 1) l

/-- ACK_MAC_EXPIRY (R579): 10 s after its acceptance the oldest such MAC leaves the copy. -/
def execAckMacExpiry (band channel mac : Nat) (s : State) : Host.Outcome State Fault Refusal :=
  inBlock .tag s (·.modTag (fun t => { t with acks := t.acks.eraseP (fun a => a.band == band && a.channel == channel && a.mac == mac) }))

/-! ### Bursts (R570, R575, R576, Table 14.7) -/

/-- The response frame after its sync word, dewhitened: 22 bytes. -/
def dewhiten (bs : List Byte) : List Byte := bytesOfBits bs.length (whiten (bitsOfBytes bs))

/-- The open listen sets that name a channel entry in a mode (R570). -/
def State.openSets (s : State) (entry mode : Nat) : List Nat :=
  (s.tag.sets.filter (fun o => match s.listenSet o.set with
    | some (m, md) => tb m entry && md == mode
    | none => false)).map (·.set)

/-- Note something in the open sets that a burst came in by. -/
def State.modSets (s : State) (l : List Nat) (f : OpenSet → OpenSet) : State :=
  s.modTag (fun t => { t with sets := t.sets.map (fun o => if l.contains o.set then f o else o) })

/-- Cycles from one place on the tile axis to a later one. -/
def cyclesFrom (t0 c0 t1 c1 : Nat) : Nat := ((t1 + 2 ^ 32 - t0) % 2 ^ 32) * 245760 + c1 - c0
/-- Two bursts whose sync words end within 20 ms of one another (R576). -/
def near20 (h : Heard) (tile cycle : Nat) : Bool := decide (cyclesFrom h.tile h.cycle tile cycle ≤ 14745600)

/-- TAG_BURST (R24, R25, R564, R570, R575, R576): a response on a channel entry in a mode whose sync word, with `errors` of its bits wrong, ends at a cycle
of the current tile; the covered bytes as received, decoded in MODE 2; and what was measured of it. -/
def execTagBurst (entry mode errors : Nat) (bytes : List Byte) (rssi : Int) (beam cycle : Nat) (s : State) :
    Host.Outcome State Fault Refusal :=
  inBlock .tag s fun s =>
    match s.chanEntry entry with
    | none => s
    | some (freq, band) =>
      match chanOf band freq, allPaths.findSome? (fun p => s.hears p freq) with
      | some chan, some k =>
        let sets := if tb (s.get Fld.tagChanMaskMask) entry then s.openSets entry mode else []
        let wins := s.tag.windows.filter (fun w => w.chan == chan && w.mode == mode)
        if s.octetOwner (k / 8) != s.me || s.reqRetired 5 || 2 < errors || (sets.isEmpty && wins.isEmpty) then s
        else
          let f := dewhiten (bytes.take 22)
          let hdr := beNat (f.take 2)
          let pool := beNat ((f.drop 2).take 2)
          let serial := beNat ((f.drop 4).take 4)
          let side := beNat ((f.drop 8).take 5)
          let seq := beNat ((f.drop 13).take 3)
          let mac := beNat ((f.drop 16).take 4)
          let keyid := hdr / 128 % 8
          if bytes.length < 22 || crc16 (f.take 20) != beNat (f.drop 20) then
            s.modTelem (fun t => { t with crcFail := satAdd (2 ^ 32 - 1) t.crcFail 1 })
          else
            let s := s.modSets sets (fun o => { o with crc := o.crc + 1 })
            let s := s.cond (wins.any (·.mine)) (·.modTag (fun t => { t with cur := t.cur.map (fun b =>
              if b.stage == 5 then { b with crc := b.crc + 1, answered := true } else b) }))
            if hdr / 4096 != 1 then s.modTelem (fun t => { t with verFail := satAdd 65535 t.verFail 1 })
            else match s.svc.keys.find? (fun q => q.pool == pool && q.use == 0 && q.keyid == keyid) with
              | none => s.modTelem (fun t => { t with noKey := satAdd 65535 t.noKey 1 })
              | some q =>
                if cmac32 q.key (f.take 16) != mac then
                  (s.modSets sets (fun o => { o with macFail := o.macFail + 1 })).modTelem (fun t => { t with macFail := satAdd (2 ^ 32 - 1) t.macFail 1 })
                else if s.tag.heard.any (fun h => h.pool == pool && h.serial == serial && h.seq == seq && h.mac == mac && near20 h s.tile.toNat cycle) then s
                else
                  let h : Heard := ⟨pool, serial, seq, mac, s.tile.toNat, cycle⟩
                  let c : Candidate := { pool := pool, serial := serial, seq := seq, mac := mac, keyid := keyid, side := side, rssi := rssi
                                         owner := s.me, band := band, channel := chan, beam := beam, mode := mode, tile := s.tile.toNat
                                         sets := sets, implicit := !wins.isEmpty }
                  let s := s.modTag (fun t => { t with heard := h :: t.heard.filter (fun h => near20 h s.tile.toNat cycle) })
                  if s.head then s.modSvc (fun v => if v.cands.length < 4096 then { v with cands := v.cands ++ [c] } else v) |>.cond
                    (decide (4096 ≤ s.svc.cands.length)) (·.modTelem (fun t => { t with candDrop := satAdd 65535 t.candDrop 1 }))
                  else s.sendReq { dst := s.headNo, src := s.me, kind := 5, code := msgCandidate, tag := 0, words := candWords c } none
      | _, _ => s

/-! ### Beacons: frame, duty, requests (R559 to R561, R581 to R584, R590, R591, Table 14.6) -/

def BeaconReq.field (b : BeaconReq) (i lo n : Nat) : Nat := getF (b.words.getD i 0) lo n
def BeaconReq.chan (b : BeaconReq) : Nat := b.field 0 16 5
def BeaconReq.rmode (b : BeaconReq) : Nat := b.field 0 12 2
/-- Channel bits of a beacon with a number of ACKS: 32 + 32 + 72 + 32 × ACKS + CRC, coded after SYNC in MODE 2. DEDUCED, log 58. -/
def beaconBits (rmode acks : Nat) : Nat :=
  let n := 72 + 32 * acks
  64 + if rmode == 2 then 2 * (n + 6) else n
/-- On-air time of a send in whole milliseconds: 20 µs a bit, 20 µs of ramps (R581). DEDUCED, log 58. -/
def onAirMs (rmode acks : Nat) : Nat := (beaconBits rmode acks * 20 + 20 + 999) / 1000

/-- The bits that a send modulates (Table 14.6). -/
def beaconFrame (sync : Word) (rmode quiet slots pool number : Nat) (acks : List Nat) : List Bool :=
  let hdr := 0x1000 + rmode * 1024 + quiet * 64 + acks.length
  let body := natBe 2 hdr ++ natBe 1 slots ++ natBe 2 pool ++ natBe 2 number ++ acks.flatMap (natBe 4)
  let bits := bitsOfBytes (body ++ natBe 2 (crc16 body))
  let w := whiten bits
  bitsBe 32 0xAAAAAAAA ++ bitsBe 32 sync.toNat ++ (if rmode == 2 then longEnc w else w)

/-- The DETAIL of a beacon request that is turned down (R591). DEDUCED, log 57. -/
def State.beaconJudge (s : State) (entry : Nat) (otherHears : Bool) : Option Nat :=
  if !s.is Fld.tagCtlEn then some 0x58
  else match s.chanEntry entry with
    | none => some 0x59
    | some (f, b) =>
      if !tb (s.get Fld.tagChanMaskMask) entry then some 0x59
      else if b != s.get Fld.tagBandBand then some 0x5A
      else if !otherHears && allPaths.all (fun p => (s.hears p f).isNone) then some 0x5B
      else none

/-- On-air time of one send of a request as it would be granted now. -/
def State.sendCost (s : State) (entry rmode : Nat) : Nat :=
  match s.chanEntry entry with
  | some (f, b) => onAirMs rmode (s.ackList b ((chanOf b f).getD 0)).length
  | none => onAirMs rmode 0

/-- Requests that the scheduler holds (R584). -/
def State.beaconsHeld (s : State) : Nat := s.tag.queue.length + (s.tag.cur.toList).length

/-- The scheduler takes a request: the reservation of its sends, and the queue. -/
def State.takeBeacon (s : State) (d : Option Desc) (words : List Word) (sends cost : Nat) : State :=
  let b : BeaconReq := { d := d, words := words, left := sends, onAir := cost, made := 0, crc := 0, accepted := 0, answered := false
                         first := 0, last := 0, tries := 0, stage := 0, cancelled := false }
  (s.modTag (fun t => { t with queue := t.queue ++ [b], reserved := t.reserved + sends * cost })).putDuty

/-- LOT would have to leave SLEEP under thermal protection (R808). -/
def State.lotBarred (s : State) : Bool := s.protect && s.loState loT == stSleep

/-- TAG_BEACON (R376, R582, R584, R591, R808). `otherHears` tells that a path of another member hears the channel. DEDUCED, log 57. -/
def execTagBeacon (d : Desc) (otherHears : Bool) (s : State) : Host.Outcome State Fault Refusal :=
  running s fun s =>
    s.atMember 0x12 d id fun s =>
      s.needBlk .tag d fun s =>
        let n := d.f 1 24 8
        let c := d.f 1 16 5
        match s.beaconJudge c otherHears with
        | some t => s.bad d t
        | none =>
          let cost := s.sendCost c (d.f 1 12 2)
          if s.loRetired loT || s.reqRetired 5 then s.finish d stRetired
          else if s.lotBarred then s.finish d stBusyRetry
          else if s.get Fld.tagDutyBudgetMs < s.dutyUsed + n * cost then s.finish d stDutyExceeded
          else if 8 ≤ s.beaconsHeld then s.complete d { status := stBusyRetry, detail := 0x5D }
          else s.takeBeacon (some d) [d.w 1, d.w 2, d.w 3] n cost

/-- PIP_BEACON (R571, R583, R584, R591): a BEACON action requests one send of a beacon entry; one turned down
under R583, R584 or R591 is counted; one that a retired LOT, the retired sequencer or thermal protection bars is dropped without a count. -/
def execPipBeacon (slot lateNs : Nat) (otherHears : Bool) (s : State) : Host.Outcome State Fault Refusal :=
  running s (·.fireAction actBeacon slot lateNs (fun s e =>
    s.cond (s.free? .tag) fun s =>
      let no := s.incSat Fld.tagDutyUsedRefused
      match s.tag.plan.bind (fun p => p.beacons[getF e.arg 0 16]?) with
      | none => no
      | some ws =>
        let c := getF (ws.getD 0 0) 16 5
        let cost := s.sendCost c (getF (ws.getD 0 0) 12 2)
        if (s.beaconJudge c otherHears).isSome then no
        else if s.loRetired loT || s.reqRetired 5 || s.lotBarred then s
        else if s.get Fld.tagDutyBudgetMs < s.dutyUsed + cost || 8 ≤ s.beaconsHeld then no
        else s.takeBeacon none ws 1 cost))

def State.modCur (s : State) (f : BeaconReq → BeaconReq) : State := s.modTag (fun t => { t with cur := t.cur.map f })
/-- The request being served ends; a BEACON action is dropped and counted (R587, R591). -/
def State.curEnds (s : State) (r : BeaconReq → Result) : State :=
  match s.tag.cur with
  | none => s
  | some b =>
    let s := s.modTag (fun t => { t with cur := none, reserved := t.reserved - b.left * b.onAir })
    (s.putDuty.cond b.d.isNone (·.incSat Fld.tagDutyUsedRefused)).finishOpt b.d (r b)

/-- LOT stands in SYNTH at a frequency with nothing else asked of it (R585). -/
def State.lotReady (s : State) (f : Nat) : Bool :=
  let l := s.radio.los[loT]
  s.free? .radio && s.loState loT == stSynth && s.is (Fld.loStatLock 4) && !l.gated && l.run.isNone && l.queue.isEmpty && l.freq == f && s.radio.tx.isNone

/-- BEACON_SERVE (R585): the next request in arrival order; LOT is brought to SYNTH at the channel. -/
def execBeaconServe (s : State) : Host.Outcome State Fault Refusal :=
  inBlock .tag s fun s =>
    match s.tag.cur, s.tag.queue with
    | none, b :: rest =>
      let s := s.modTag (fun t => { t with queue := rest, cur := some { b with stage := 1, tries := 0 } })
      match s.chanEntry b.chan with
      | none => s.curEnds (fun b => { beaconResult b stBadDesc with detail := 0x59 })
      | some (f, _) =>
        if s.loRetired loT then s.serveEnds stRetired
        else if s.lotBarred then s.serveEnds stBusyRetry
        else s.cond (!s.lotReady f) (·.loRequest loT (.send f))
    | _, _ => s

/-! ### Listen before talk (R586, R587, R714, R831) -/

/-- At a boundary: a request whose LOT is ready is judged now; in a Lace with a survey the owner is asked (R585, R714). -/
def State.lbtBoundary (s : State) : State :=
  match s.tag.cur with
  | none => s
  | some b =>
    match s.chanEntry b.chan with
    | none => s
    | some (f, _) =>
      if b.stage == 1 && s.is Fld.tagCtlLbtEn && s.lotReady f then
        let s := s.modCur (fun b => { b with stage := 2 })
        let n := s.get Fld.tagCtlLbtTime
        match allPaths.findSome? (fun p => s.hears p f) with
        | some k =>
          let o := s.octetOwner (k / 8)
          s.cond (s.exch.run1.isSome && o != s.me && s.isMember o) (·.sendReq
            { dst := o, src := s.me, kind := 2, code := msgSurvey, tag := 0, words := [packW [(16, 16, 3 * (if n == 0 then 5 else n)), (0, 9, k)], s.tile] } none)
        | none => s
      else s

/-- The mean power of the totals reaches −T dBm (R714, R831): M ÷ 131,040 ≥ 10^((6 − T) ÷ 10), with M = power ÷ (2 × count). DESIGN CHOICE, log 53. -/
def lbtBusy (t power count : Nat) : Bool := decide ((262080 * count) ^ 10 ≤ power ^ 10 * 10 ^ (t - 6))

/-- LBT_JUDGE (R586 to R588): the totals of POWER and of COUNT over the tiles judged. -/
def execLbtJudge (power count : Nat) (s : State) : Host.Outcome State Fault Refusal :=
  inBlock .tag s fun s =>
    match s.tag.cur with
    | none => s
    | some b =>
      if b.stage != 2 then s
      else
        let t := s.get Fld.tagCtlLbtThresh
        let s' := s.cond (count == 0) State.draw
        let busy := if count == 0 then Config.lbtBlind s.free else lbtBusy (if t == 0 then 90 else t) power count
        let n := s.get Fld.tagCtlLbtTries
        if !busy then s'.modCur (fun b => { b with stage := 4 })
        else if (if n == 0 then 4 else n) ≤ b.tries + 1 then
          if b.d.isSome && b.made == 0 then s'.curEnds (fun b => { beaconResult b stBusyRetry with detail := 0x5C })
          else s'.curEnds (beaconResult · stNoResponse)
        else s'.modCur (fun b => { b with stage := 3, tries := b.tries + 1 })

/-- LBT_RETRY_WAIT (R587): the wait of 1 to 8 tiles ends, and the channel is judged again at the next boundary. -/
def execLbtRetryWait (s : State) : Host.Outcome State Fault Refusal :=
  inBlock .tag s (·.modCur (fun b => if b.stage == 3 then { b with stage := 1 } else b))

/-! ### The grant and the decision (R369, R373, R579, R581, R588 to R593) -/

/-- The level applied: the smaller of LEVEL and the cap (R369). -/
def State.txLevel (s : State) : Nat :=
  let c := s.get Fld.txPowerCap
  min (s.get Fld.txPowerLevel) (if c == 0 then 68 else c)

/-- The request in hand may be granted: judged free, or LOT ready with LBT_EN 0. -/
def State.grantable (s : State) (b : BeaconReq) (f : Nat) : Bool :=
  s.lotReady f && (b.stage == 4 || (b.stage == 1 && !s.is Fld.tagCtlLbtEn))

/-- TX_GRANT (R588): the body is fixed, the on-air time of the send counts, the UHF paths are blanked, LOT enters TX, and every member hears
of the implicit window. A LOT that the host has moved meanwhile is brought back first (R585). -/
def execTxGrant (s : State) : Host.Outcome State Fault Refusal :=
  inBlock .tag s fun s =>
    match s.tag.cur with
    | none => s
    | some b =>
      match s.chanEntry b.chan with
      | none => s
      | some (f, band) =>
        let ch := (chanOf band f).getD 0
        if s.grantable b f then
          let number := s.tag.counter.toNat
          let acks := (s.ackList band ch).map (·.mac)
          let ms := onAirMs b.rmode acks.length
          let bits := beaconFrame s.tag.sync b.rmode (b.field 0 8 4) (b.field 1 0 8) (b.field 1 16 16) number acks
          let b' := { b with left := b.left - 1, made := b.made + 1, answered := false, stage := 5, last := number
                             first := if b.made == 0 then number else b.first }
          let s := (s.modTag (fun t => { t with
            cur := some b', counter := t.counter + 1, reserved := t.reserved - b.onAir, log := (0, ms) :: t.log
            acks := carryAcks band ch acks.length t.acks })).putDuty
          let s := match b.d with
            | some d => s.commit d
            | none => s
          let s := s.modRadio (fun r => { r with tx := some ⟨s.txLevel, s.is Fld.txCtlPaExt, f, bits, 0⟩ })
          let s := ((s.setLoState loT stTx).putB (Fld.loStatBusy 4) true).blank
          s.tellOthers msgWindow [packW [(16, 2, b.rmode), (0, 9, ch)]]
        else s.cond (b.stage == 4 && s.radio.tx.isNone && s.radio.los[loT].run.isNone && s.radio.los[loT].queue.isEmpty)
          (·.loRequest loT (.send f))

/-- IMPLICIT_WINDOW_OPEN (R574): 0.2 ms before slot 0, for the sender and for every other member. DEDUCED, log 59. -/
def execImplicitWindowOpen (chan mode : Nat) (mine : Bool) (s : State) : Host.Outcome State Fault Refusal :=
  inBlock .tag s fun s =>
    let ok := !mine || (match s.tag.cur with
      | some b => b.stage == 5
      | none => false)
    s.cond ok (·.modTag (fun t => { t with windows := t.windows ++ [⟨chan, mode, mine⟩] }))

/-- IMPLICIT_WINDOW_CLOSE (R574): 0.5 ms after the response window. DEDUCED, log 59. -/
def execImplicitWindowClose (chan mode : Nat) (mine : Bool) (s : State) : Host.Outcome State Fault Refusal :=
  inBlock .tag s (·.modTag (fun t => { t with windows := t.windows.erase ⟨chan, mode, mine⟩ }))

/-- BEACON_DECISION (R588, R589): the send is answered or not, with what other members' owners told of its window. -/
def execBeaconDecision (crc accepted : Nat) (s : State) : Host.Outcome State Fault Refusal :=
  inBlock .tag s fun s =>
    match s.tag.cur with
    | none => s
    | some b =>
      if b.stage != 5 || s.radio.tx.isSome then s
      else
        let b := { b with crc := b.crc + crc, accepted := b.accepted + accepted, answered := b.answered || decide (0 < crc), stage := 0 }
        let s := s.modTag (fun t => { t with cur := none })
        if b.answered then s.endBeacon b stOK
        else if b.left == 0 || b.cancelled then s.endBeacon b stNoResponse
        else s.modTag (fun t => { t with gaps := t.gaps ++ [b] })

/-- BEACON_REPEAT (R589): REPEAT_GAP after the decision the next send of a series is requested. -/
def execBeaconRepeat (d : Desc) (s : State) : Host.Outcome State Fault Refusal :=
  inBlock .tag s fun s =>
    match s.tag.gaps.find? (fun b => b.d == some d) with
    | none => s
    | some b => s.modTag (fun t => { t with gaps := t.gaps.filter (fun b => b.d != some d), queue := t.queue ++ [b] })

/-- DUTY_WINDOW_TICK (R581): one step of 1 s; grants leave the window after 3600 s, also while the TAG block is held. -/
def execDutyWindowTick (s : State) : Host.Outcome State Fault Refusal :=
  running s fun s =>
    (s.modTag (fun t => { t with log := (t.log.map (fun e => (e.1 + 1, e.2))).filter (fun e => decide (e.1 < 3600)) })).cond (s.free? .tag) State.putDuty

/-- A CANCEL reaches a TAG_BEACON (R590): before its first grant nothing is sent; later, no further send is requested. -/
def State.beaconCancel (s : State) (d : Desc) : State :=
  let is (b : BeaconReq) : Bool := b.d == some d
  match s.tag.queue.find? is, s.tag.gaps.find? is with
  | some b, _ =>
    (s.modTag (fun t => { t with queue := t.queue.filter (fun b => !is b) })).endBeacon b (if b.made == 0 then stCancelled else stNoResponse)
  | none, some b => (s.modTag (fun t => { t with gaps := t.gaps.filter (fun b => !is b) })).endBeacon b stNoResponse
  | none, none =>
    match s.tag.cur with
    | some b =>
      if !is b then s
      else if b.stage == 5 then s.modCur (fun b => { b with cancelled := true })
      else (s.modTag (fun t => { t with cur := none })).endBeacon b (if b.made == 0 then stCancelled else stNoResponse)
    | none => s

/-! ### Listen windows (R570 to R573, R595) -/

def setResult (o : OpenSet) (status : Nat) : Result :=
  { status := status, r0 := BitVec.ofNat 32 o.crc, r1 := BitVec.ofNat 32 o.accepted, r2 := BitVec.ofNat 32 o.macFail, r3 := BitVec.ofNat 32 o.replays }

/-- Open sets close, and the TAG_LISTENs that opened them have this member's counts (R572, Table 14.11). -/
def State.closeSets (s : State) (p : OpenSet → Bool) (status : Nat) : State :=
  let l := s.tag.sets.filter p
  (s.modTag (fun t => { t with sets := t.sets.filter (fun o => !p o) })).forEach l (fun s o =>
    match o.d with
    | some d => s.partDone d (setResult o status)
    | none => s)

/-- PIP_WIN_OPEN (R571). -/
def execPipWinOpen (slot lateNs : Nat) (s : State) : Host.Outcome State Fault Refusal :=
  running s (·.fireAction actWinOpen slot lateNs (fun s e =>
    let n := getF e.arg 0 16
    s.cond (s.free? .tag && s.is Fld.tagCtlEn && (s.listenSet n).isSome && !s.tag.sets.any (·.set == n))
      (·.modTag (fun t => { t with sets := t.sets ++ [⟨n, none, 0, 0, 0, 0, false⟩] }))))

/-- PIP_WIN_CLOSE (R571, R572): at the head a set that a TAG_LISTEN opened closes on every member. -/
def execPipWinClose (slot lateNs : Nat) (s : State) : Host.Outcome State Fault Refusal :=
  running s (·.fireAction actWinClose slot lateNs (fun s e =>
    let n := getF e.arg 0 16
    let lace := s.head && s.tag.sets.any (fun o => o.set == n && o.d.isSome)
    (s.closeSets (·.set == n) stOK).cond lace (·.tellOthers msgSetClose [BitVec.ofNat 32 n])))

/-- First tile boundary 100 µs or more after now. -/
def State.bound100 (s : State) : Nat := (s.tile.toNat + (if s.pip.cycle + 73728 ≤ 245760 then 1 else 2)) % 2 ^ 32

/-- TAG_LISTEN (R572): the set opens on every member at one boundary. A member takes the boundary that the head settled. -/
def execTagListen (d : Desc) (s : State) : Host.Outcome State Fault Refusal :=
  running s fun s =>
    s.cond (d.f 1 16 1 == 0) fun s => s.taking 0x13 d fun s => s.needBlk .tag d fun s =>
      let n := d.f 1 0 4
      if !s.head then
        s.modTag (fun t => { t with opening := t.opening ++ [(d, (d.w 10).toNat)] })
      else if !s.is Fld.tagCtlEn then s.bad d 0x58
      else if (s.listenSet n).isNone then s.bad d dtOperand
      else if s.reqRetired 5 then s.finish d stRetired
      else
        let at_ := s.bound100
        (s.modTag (fun t => { t with opening := t.opening ++ [(d, at_)] })).laceAll d [BitVec.ofNat 32 at_]

/-- A set is to close at the next tile boundary. -/
def State.setCloses (s : State) (n : Nat) : State := s.modSets [n] (fun o => { o with closing := true })

/-- TAG_LISTEN_CLOSE (R573): the set closes on every member at the next boundary; the descriptor completes OK at once. -/
def execTagListenClose (d : Desc) (s : State) : Host.Outcome State Fault Refusal :=
  running s fun s =>
    s.cond (d.f 1 16 1 == 1) fun s => s.taking 0x13 d fun s => s.needBlk .tag d fun s =>
      let n := d.f 1 0 4
      ((s.setCloses n).tellOthers msgSetClose [BitVec.ofNat 32 n]).finish d stOK

/-- TAG_LISTEN_DURATION_END (R572): the duration of a set has passed; it closes at the first boundary at or after it. -/
def execTagListenDurationEnd (set : Nat) (s : State) : Host.Outcome State Fault Refusal :=
  inBlock .tag s (·.setCloses set)

/-- A CANCEL reaches a TAG_LISTEN before its window opens (Table 6.3). -/
def State.listenCancel (s : State) (d : Desc) : State :=
  if s.tag.opening.any (·.1 == d) then
    ((s.modTag (fun t => { t with opening := t.opening.filter (·.1 != d) })).modStarted d (fun t => { t with waits := [] })).finish d stCancelled
  else s

/-- The region 5 update that waits has taken effect here (R595). -/
def State.planBoundary (s : State) : State :=
  match s.tag.planNew with
  | none => s
  | some (d, p) =>
    let busy := match s.tag.cur with
      | some b => b.stage == 5
      | none => false
    if busy then s else (s.modTag (fun t => { t with plan := some p, planNew := none })).partDone d { status := stOK }

/-- What a tile boundary does here: TAG_SYNC, the plan, EN, windows that close and open, and the judgement due. -/
def State.tagBoundary (s : State) : State :=
  if !s.free? .tag then s
  else
    let s := (s.modTag (fun t => { t with sync := s.rd Reg.tagSync })).planBoundary
    let off := !s.is Fld.tagCtlEn
    let s := s.closeSets (fun o => o.closing || off) stOK
    let s := s.cond off (·.modTag (fun t => { t with windows := [] }))
    let due := s.tag.opening.filter (fun o => s.tileAt o.2)
    let s := (s.modTag (fun t => { t with opening := t.opening.filter (fun o => !due.contains o) })).forEach due (fun s o =>
      let s := s.commit o.1
      if off then s.partDone o.1 { status := stOK }
      else s.modTag (fun t => { t with sets := t.sets ++ [⟨o.1.f 1 0 4, some o.1, 0, 0, 0, 0, false⟩] }))
    s.lbtBoundary

/-- The counts of a candidate that the head has judged, in the sets and the beacon it came in by (Table 14.11). -/
def State.countCandidate (s : State) (c : Candidate) (accepted : Bool) : State :=
  let s := s.modSets c.sets (fun o => if accepted then { o with accepted := o.accepted + 1 } else { o with replays := o.replays + 1 })
  s.cond (accepted && c.implicit && s.tag.windows.any (fun w => w.mine && w.chan == c.channel && w.mode == c.mode))
    (·.modCur (fun b => if b.stage == 5 then { b with accepted := b.accepted + 1 } else b))

/-- The TAG block is held (R596). The on-air time of the grants of the last 3600 s stands (R581): the hold releases reservations alone. -/
def State.tagHeld (s : State) : State :=
  let s := s.sendEnds stPeerReset
  let bs := s.tag.cur.toList ++ s.tag.queue ++ s.tag.gaps
  let s := (s.modTag (fun t => { t with cur := none, queue := [], gaps := [] })).forEach bs (fun s b => s.endBeacon b stPeerReset)
  let os := s.tag.opening
  let s := (s.modTag (fun t => { t with opening := [] })).forEach os (fun s o => s.partDone o.1 { status := stPeerReset })
  let s := s.closeSets (fun _ => true) stPeerReset
  s.modTag (fun t => { t with reserved := 0, windows := [], acks := [], heard := [], counter := 0, sync := resetWord Reg.tagSync })

end Sys2Proof.Machine
end

