-- ==== Sys2Proof/Machine/Svc.lean ====
section
/-! DEFINITION. Crate services of the head (spec 18): candidates, the roster, the recall list, keys, and Pool Notices. -/

namespace Sys2Proof.Machine

/-! ### Roster entries (R732 to R735, Table 18.6) -/

/-- Capacity of the roster (R732). -/
def State.rosterCap (s : State) : Nat :=
  let l := s.get Fld.svcRosterSizeLog2
  2 ^ (if l == 0 then 16 else l)

def ew (e : List Word) (i : Nat) : Word := e.getD i 0
def entrySerial (e : List Word) : Nat := (ew e 0).toNat
def entryPool (e : List Word) : Nat := getF (ew e 1) 16 16
def entryGen (e : List Word) : Nat := (ew e 2).toNat
def entryFlag (e : List Word) (b : Nat) : Bool := getF (ew e 1) b 1 == 1
def flVALID : Nat := 0
def flHOST : Nat := 1
def flRECALLED : Nat := 2
def flREBUILT : Nat := 3
def flMUTE : Nat := 4
/-- The next generation: never 0 (R735). -/
def nextGen (g : Nat) : Nat := if g % 2 ^ 32 == 2 ^ 32 - 1 then 1 else g + 1

/-- The entry of a crate, with its number (R734). -/
def State.crate (s : State) (pool serial : Nat) : Option (Nat × List Word) :=
  s.svc.roster.find? (fun e => entryPool e.2 == pool && entrySerial e.2 == serial)
/-- Set the roster; SVC_ROSTER_SIZE.COUNT follows it. -/
def State.setRoster (s : State) (r : List (Nat × List Word)) : State :=
  (s.modSvc (fun v => { v with roster := r })).put Fld.svcRosterSizeCount r.length
def State.putEntry (s : State) (n : Nat) (e : List Word) : State := s.setRoster (Sparse.insert s.svc.roster n e)
/-- The lowest number that no valid entry has, among `k` (R734). -/
def freeNumber (r : List (Nat × List Word)) : Nat → Nat → Option Nat
  | 0, _ => none
  | k + 1, n => if r.any (·.1 == n) then freeNumber r k (n + 1) else some n
def State.freeEntry (s : State) : Option Nat := freeNumber s.svc.roster (min s.rosterCap (s.svc.roster.length + 1)) 0

/-- The services that keep state in the store are stopped (R629 rank 7, R634). -/
def State.svcStopped (s : State) : Bool := s.reqRetired 7
/-- Nothing moves between host memory and the crate services' structures in the store: rank 6 or rank 7 is retired (Table 15.4). -/
def State.crateGone (s : State) : Bool := s.svcStopped || s.reqRetired 6
def State.drops (s : State) : State := s.modTelem (fun t => { t with candDrop := satAdd 65535 t.candDrop 1 })

/-! ### The recall list (R747, R748) -/

def RecallEntry.before (a b : RecallEntry) : Bool := decide (a.pool < b.pool) || (a.pool == b.pool && decide (a.first ≤ b.first))
def recallOf (ws : List Word) : RecallEntry :=
  ⟨getF (ws.getD 0 0) 16 16, getF (ws.getD 0 0) 0 8, (ws.getD 1 0).toNat, (ws.getD 2 0).toNat, (ws.getD 3 0).toNat⟩
def recallWords (e : RecallEntry) : List Word :=
  [packW [(16, 16, e.pool), (0, 8, e.level)], BitVec.ofNat 32 e.first, BitVec.ofNat 32 e.last, BitVec.ofNat 32 e.id]
def State.setRecall (s : State) (l : List RecallEntry) : State :=
  (s.modSvc (fun v => { v with recalls := l })).put Fld.svcRecallCntCount l.length
/-- The entries that a crate matches, in list order (R747). -/
def State.recallHits (s : State) (pool serial : Nat) : List RecallEntry :=
  s.svc.recalls.filter (fun e => e.pool == pool && decide (e.first ≤ serial) && decide (serial ≤ e.last))
/-- The DETAIL of a list that is not in order (R748). -/
def recallJudge : List RecallEntry → Option Nat
  | [] => none
  | e :: l =>
    if e.level == 0 || e.last < e.first then some 0x72
    else match l with
      | [] => none
      | f :: _ => if e.before f then recallJudge l else some 0x72

/-! ### Candidates (R577, R578, R730, R731, R736 to R746, R761) -/

/-- SEQ a is later than b (R577). -/
def seq24Later (a b : Nat) : Bool :=
  let d := (a + 2 ^ 24 - b % 2 ^ 24) % 2 ^ 24
  decide (1 ≤ d) && decide (d < 2 ^ 23)

/-- CANDIDATE_RECEIVE (R730): up to 4096 candidates wait. -/
def execCandidateReceive (c : Candidate) (s : State) : Host.Outcome State Fault Refusal :=
  running s fun s =>
    if !s.head then s
    else if 4096 ≤ s.svc.cands.length then s.drops
    else s.modSvc (fun v => { v with cands := v.cands ++ [c] })

/-- Words 3 to 9 and SIDE_LO of an entry from a burst (Table 18.6). -/
def State.burstWords (s : State) (c : Candidate) : List Word :=
  let p := s.pipCount
  let n := unsgn 64 p
  [packW [(24, 3, c.keyid), (0, 24, c.seq)], BitVec.ofNat 32 c.mac, BitVec.ofNat 32 n, BitVec.ofNat 32 (n >>> 32), BitVec.ofNat 32 c.tile,
   packW [(24, 8, unsgn 8 c.rssi), (22, 2, c.band), (16, 6, c.owner), (12, 4, c.beam), (10, 2, c.mode), (0, 9, c.channel)],
   BitVec.ofNat 32 (c.side >>> 8), packW [(24, 8, c.side)]]

/-- The entry that a rebuild makes (R739); its SIGHTING sets REC_TILE (R744). DEDUCED, log 61. -/
def State.rebuilt (s : State) (c : Candidate) : List Word :=
  [BitVec.ofNat 32 c.serial, packW [(16, 16, c.pool), (flREBUILT, 1, 1), (flVALID, 1, 1)], 1] ++ s.burstWords c ++ [BitVec.ofNat 32 c.tile, 0, 0, 0, 0]

/-- The entry after an accepted burst (R735, R736, Table 18.6); `posts` tells that its SIGHTING is posted, `supp` that it is suppressed by
aggregation. -/
def State.fieldUpdate (s : State) (e : List Word) (gen : Nat) (c : Candidate) (posts supp : Bool) : List Word :=
  let fresh := (ew e 12).toNat == 0
  let tmin := sgn 8 (c.side >>> 20)
  let tmax := sgn 8 (c.side >>> 12)
  let w14 := ew e 14
  let lo := if fresh then tmin else min tmin (sgn 8 (getF w14 24 8))
  let hi := if fresh then tmax else max tmax (sgn 8 (getF w14 16 8))
  let old := getF (ew e 10) 0 16
  let sup := if posts then 0 else if supp then satAdd 0xFFFF old 1 else old
  let burst := s.burstWords c
  [ew e 0, ew e 1, BitVec.ofNat 32 gen] ++ burst.take 7 ++
    [packW [(24, 8, c.side), (0, 16, sup)], if posts then BitVec.ofNat 32 c.tile else ew e 11,
     BitVec.ofNat 32 (satAdd (2 ^ 32 - 1) (ew e 12).toNat 1), BitVec.ofNat 32 (satAdd (2 ^ 32 - 1) (ew e 13).toNat ((c.side >>> 28) % 4096)),
     packW [(24, 8, unsgn 8 lo), (16, 8, unsgn 8 hi), (0, 16, satAdd 0xFFFF (getF w14 0 16) ((c.side >>> 6) % 64))], ew e 15]

/-- FLAGS.RECALLED of an entry. -/
def withRecalled (e : List Word) (b : Bool) : List Word := e.set 1 (setF (ew e 1) flRECALLED 1 (b2n b))

/-- What the SIGHTING of a candidate says beside the burst (Table 18.10). -/
structure Sighting where
  number : Nat
  gap : Bool
  rebuilt : Bool
  noEntry : Bool
  new : Bool
  gen : Nat
  suppressed : Nat
  reads : Nat
  deriving DecidableEq, Repr

/-- Post the SIGHTING (R22, Table 18.10). DEDUCED, log 61. -/
def State.sighting (s : State) (c : Candidate) (x : Sighting) (recalls : Bool) : State :=
  s.postRec { s.mkRec 0x01
    [BitVec.ofNat 32 c.serial, packW [(16, 16, c.pool), (0, 16, x.number)],
     packW [(28, 1, b2n x.gap), (27, 1, b2n x.rebuilt), (26, 1, b2n recalls), (25, 1, b2n x.noEntry), (24, 1, b2n x.new), (0, 24, c.seq)],
     BitVec.ofNat 32 c.mac, BitVec.ofNat 32 x.gen, BitVec.ofNat 32 (c.side >>> 8),
     packW [(24, 8, c.side), (16, 8, unsgn 8 c.rssi), (12, 4, c.beam), (10, 2, c.mode), (8, 2, c.band)],
     packW [(16, 16, x.suppressed), (0, 9, c.channel)], BitVec.ofNat 32 c.tile, BitVec.ofNat 32 x.reads] with member := c.owner }

/-- Post the RECALL_HIT (Table 18.11). -/
def State.recallRec (s : State) (c : Candidate) (number : Nat) (hits : List RecallEntry) : State :=
  match hits with
  | [] => s
  | h :: _ => s.postRec { s.mkRec 0x02
      [BitVec.ofNat 32 c.serial, packW [(16, 16, c.pool), (0, 16, number)], BitVec.ofNat 32 h.id,
       packW [(24, 8, h.level), (0, 16, hits.length)], BitVec.ofNat 32 c.seq] with member := c.owner }

/-- An accepted candidate is done: its records (R744 to R746), the acknowledgement (R578), the counts. -/
def State.accepted (s : State) (c : Candidate) (x : Sighting) (posts wasRecalled : Bool) : State :=
  let hits := s.recallHits c.pool c.serial
  let hit := !hits.isEmpty
  let s := s.cond posts (·.sighting c x hit)
  let s := s.cond (hit && (posts || !wasRecalled)) (·.recallRec c x.number hits)
  (s.ackAll c).countCandidate c true

/-- The candidate reaches an entry that no error and no cut-off keeps from it (R577, R737, R744, R745). -/
def State.judgeCandidate (s : State) (c : Candidate) : State :=
  let hit := !(s.recallHits c.pool c.serial).isEmpty
  match s.crate c.pool c.serial with
  | none =>
    let x : Sighting := { number := 0, gap := false, rebuilt := false, noEntry := true, new := false, gen := 0, suppressed := 0, reads := 0 }
    let slot := if s.is Fld.svcCtlAddNew && s.svc.roster.length < s.rosterCap then s.freeEntry else none
    match slot with
    | none => s.accepted c x true false
    | some n =>
      let blank : List Word := [BitVec.ofNat 32 c.serial, packW [(16, 16, c.pool), (flVALID, 1, 1)]] ++ List.replicate 14 0
      let e := withRecalled (s.fieldUpdate blank 1 c true false) hit
      (s.putEntry n e).accepted c { x with number := n, noEntry := false, new := true, gen := 1, reads := 1 } true false
  | some (n, e) =>
    let last := getF (ew e 3) 0 24
    if c.seq == last && c.mac == (ew e 4).toNat then s
    else if !seq24Later c.seq last then
      (s.modTelem (fun t => { t with replays := satAdd (2 ^ 32 - 1) t.replays 1 })).countCandidate c false
    else
      let mute := entryFlag e flMUTE
      let agg := s.get Fld.svcCtlAggS
      let supp := !mute && 0 < agg && decide ((c.tile + 2 ^ 32 - (ew e 11).toNat) % 2 ^ 32 < 3000 * agg)
      let posts := !mute && !supp
      let gen := nextGen (entryGen e)
      let e' := withRecalled (s.fieldUpdate e gen c posts supp) hit
      let x : Sighting := { number := n, gap := (c.seq + 2 ^ 24 - last) % 2 ^ 24 != 1, rebuilt := false, noEntry := false, new := false, gen := gen
                            suppressed := getF (ew e 10) 0 16, reads := (ew e' 12).toNat }
      (s.putEntry n e').accepted c x posts (entryFlag e flRECALLED)

/-- CANDIDATE_HANDLE (Table 18.1): the oldest candidate. `cut` counts the stitches that ended with HOLD_VIOLATION (R738), `bad` tells that the
stitch read an uncorrectable word of the entry (R739). Candidates wait while a region 6 update runs (R761). -/
def execCandidateHandle (cut : Nat) (bad : Bool) (s : State) : Host.Outcome State Fault Refusal :=
  running s fun s =>
    match s.svc.cands with
    | [] => s
    | c :: rest =>
      if !s.head || s.hif.regions[6].running.isSome then s
      else
        let s := s.modSvc (fun v => { v with cands := rest })
        if !s.is Fld.svcCtlEn then s.drops
        else if s.svcStopped then s
        else if 2 ≤ cut then s.fault 0x0A 0 0 c.serial c.pool
        else match s.crate c.pool c.serial with
          | none => s.judgeCandidate c
          | some (n, _) =>
            if bad then
              let hit := !(s.recallHits c.pool c.serial).isEmpty
              let x : Sighting := { number := n, gap := false, rebuilt := true, noEntry := false, new := false, gen := 1, suppressed := 0, reads := 0 }
              (s.putEntry n (withRecalled (s.rebuilt c) hit)).accepted c x true false
            else s.judgeCandidate c

/-! ### Host edits and queries (R740 to R743) -/

/-- Bits of word `i` of an entry that Table 18.6 names; every other bit is 0. -/
def entryMask (i : Nat) : Word :=
  match i with
  | 1 => 0xFFFF001F
  | 3 => 0x07FFFFFF
  | 8 => 0xFFFFFDFF
  | 10 => 0xFF00FFFF
  | _ => 0xFFFFFFFF
/-- The sixteen words of an image, its reserved bits at 0. -/
def imageWords (e : List Word) : List Word := (List.range 16).map (fun i => ew e i &&& entryMask i)

/-- How a stitch of a descriptor ends: 0 whole, 1 HOLD_VIOLATION, 2 ECC_UNCORRECTABLE (R742). -/
def stitchStatus (k : Nat) : Option Nat :=
  match k with
  | 1 => some stHoldViolation
  | 2 => some stEccUncorrectable
  | _ => none

/-- The entry that an edit of words leaves (R740). -/
def editWords (e img : List Word) (mask : Nat) : List Word :=
  (List.range 16).map (fun i =>
    if 3 ≤ i && tb mask i then ew img i
    else if i == 1 && tb mask 1 then setF (ew e 1) flMUTE 1 (getF (ew img 1) flMUTE 1)
    else ew e i)

/-- The stitch of a ROSTER_EDIT with its image (R740 to R742): a CREATE reads no entry, and a DELETE with ANY none either. -/
def State.editStitch (s : State) (d : Desc) (img : List Word) (stitch : Nat) : State :=
  let s := s.commit d
  let op := d.f 1 0 3
  let pool := d.f 2 0 16
  let serial := (d.w 3).toNat
  let any := d.f 1 9 1 == 1
  let ok (s : State) (n g : Nat) : State := s.complete d { status := stOK, r0 := BitVec.ofNat 32 n, r1 := BitVec.ofNat 32 g }
  match s.crate pool serial with
  | none =>
    if op != 1 then s.finish d stNotFound
    else
      let slot := if s.svc.roster.length < s.rosterCap then s.freeEntry else none
      match slot with
      | none => s.bad d 0x70
      | some n =>
        if stitch == 1 then s.finish d stHoldViolation
        else
          let w1 := packW [(16, 16, pool), (flMUTE, 1, getF (ew img 1) flMUTE 1), (flHOST, 1, 1), (flVALID, 1, 1)]
          ok (s.putEntry n ([BitVec.ofNat 32 serial, w1, 1] ++ (List.range 13).map (fun i => ew img (i + 3)))) n 1
  | some (n, e) =>
    if op == 1 then s.finish d stStale
    else match stitchStatus (if op == 3 && any && stitch == 2 then 0 else stitch) with
      | some st => s.finish d st
      | none =>
        if !any && entryGen e != (d.w 4).toNat then
          s.complete d { status := stStale, r0 := BitVec.ofNat 32 n, r1 := ew e 2 }
        else if op == 3 then ok (s.setRoster (Sparse.erase s.svc.roster n)) n 0
        else
          let g := nextGen (entryGen e)
          ok (s.putEntry n ((editWords e img (d.f 1 16 16)).set 2 (BitVec.ofNat 32 g))) n g

/-- ROSTER_EDIT (R740): CREATE and WRITE read their image first; DELETE needs none. -/
def execRosterEdit (d : Desc) (stitch : Nat) (s : State) : Host.Outcome State Fault Refusal :=
  running s fun s =>
    s.cond s.head fun s => s.taking 0x38 d fun s =>
    if s.svcStopped || (s.reqRetired 6 && d.f 1 0 3 != 3) then s.finish d stRetired
    else if d.f 1 0 3 == 3 then s.editStitch d [] stitch
    else (s.modSvc (fun v => { v with edits := v.edits ++ [d] })).emit (.hostRead (d.addr 5) 64)

/-- ROSTER_IMAGE_READ_COMPLETE (R740 to R742): the image is in, or its read failed, and the stitch starts. -/
def execRosterImageReadComplete (d : Desc) (image : Option (List Word)) (stitch : Nat) (s : State) : Host.Outcome State Fault Refusal :=
  running s fun s =>
    if !s.svc.edits.contains d || !s.holds d then s
    else
      let s := s.modSvc (fun v => { v with edits := v.edits.erase d })
      match image with
      | none => s.bad d dtDmaRead
      | some img => s.editStitch d (imageWords img) stitch

/-- A CANCEL reaches a ROSTER_EDIT before its stitch (Table 6.3). -/
def State.editCancel (s : State) (d : Desc) : State :=
  if s.svc.edits.contains d then (s.modSvc (fun v => { v with edits := v.edits.erase d })).finish d stCancelled else s

/-- Sixteen words of an entry by number; zeros when it is not valid (R743). -/
def State.entryWords (s : State) (n : Nat) : List Word := (Sparse.find s.svc.roster n).getD (List.replicate 16 0)

/-- ROSTER_QUERY (R743): `bad` names a read of the run, counted from 0, whose stitch failed, and how. -/
def execRosterQuery (d : Desc) (bad : Option (Nat × Nat)) (s : State) : Host.Outcome State Fault Refusal :=
  running s fun s =>
    s.cond s.head fun s => s.taking 0x39 d fun s =>
    if s.crateGone then s.finish d stRetired
    else
      let s := s.commit d
      let by1 := d.f 1 0 1 == 1
      let first := (d.w 2).toNat
      let count := d.f 3 0 17
      let ns : Option (List Nat) :=
        if by1 then (if first + count ≤ s.rosterCap then some ((List.range count).map (first + ·)) else none)
        else some ((s.crate (d.f 1 16 16) first).toList.map (·.1))
      match ns with
      | none => s.bad d dtOperand
      | some [] => s.finish d stNotFound
      | some ns =>
        let stop := bad.bind (fun b => (stitchStatus b.2).map (fun st => (b.1, st)))
        let ns' := match stop with
          | some (i, _) => ns.take i
          | none => ns
        let s := s.forEach ns'.zipIdx (fun s e => s.post (.data (d.addr 4 + 64 * e.2) (s.entryWords e.1)))
        let st := match stop with
          | some (i, st) => if i < ns.length then st else stOK
          | none => stOK
        s.complete d { status := st, r0 := BitVec.ofNat 32 ns'.length
                       r1 := match ns' with
                         | [] => 0
                         | n :: _ => ew (s.entryWords n) 2 }

/-! ### Keys (R750 to R752) -/

/-- A key installed by the head for every member (R23, R759). Its form is this model's. -/
def msgKey : Nat := 0x56

def State.findKey (s : State) (pool use id : Nat) : Option Key := s.svc.keys.find? (fun k => k.pool == pool && k.use == use && k.keyid == id)
def State.dropKey (s : State) (pool use id : Nat) : State :=
  s.modSvc (fun v => { v with keys := v.keys.filter (fun k => !(k.pool == pool && k.use == use && k.keyid == id)) })
/-- Install a key, replacing any key of the same name; a 65th is not taken. -/
def State.putKey (s : State) (pool use id key : Nat) : State :=
  let s' := s.dropKey pool use id
  if s'.svc.keys.length < 64 then s'.modSvc (fun v => { v with keys := v.keys ++ [⟨pool, use, id, key⟩] }) else s

/-- KEY_LOAD (R23, R751): the head completes once every member of the epoch holds the key. -/
def execKeyLoad (d : Desc) (s : State) : Host.Outcome State Fault Refusal :=
  running s fun s =>
    s.taking 0x3A d fun s =>
      let pool := d.f 1 16 16
      let use := d.f 1 8 2
      let id := d.f 1 0 3
      let key := beNat (wordsBytes [d.w 2, d.w 3, d.w 4, d.w 5])
      let had := (s.findKey pool use id).isSome
      let erase := d.f 1 4 1 == 1
      if s.head && erase && !had then s.finish d stNotFound
      else if s.head && !erase && !had && 64 ≤ s.svc.keys.length then s.bad d 0x71
      else
        let s := s.commit d
        let s := s.cond s.head (·.laceAll d [])
        (if erase then s.dropKey pool use id else s.putKey pool use id key).partDone d { status := stOK }

/-! ### Pool Notices (R753 to R760, Tables 18.3, 18.4 and 18.9) -/

def nb (o : List Byte) (i n : Nat) : Nat := beNat ((o.drop i).take n)
def noticeKind (o : List Byte) : Nat := nb o 3 1
def noticePool (o : List Byte) : Nat := nb o 4 2
def noticeId (o : List Byte) : Nat := nb o 8 4
def noticeLen (o : List Byte) : Nat := nb o 12 2
def noticeBody (o : List Byte) : List Byte := (o.drop 16).take (noticeLen o)
/-- The header keeps Table 18.9. -/
def noticeHeader (o : List Byte) : Bool :=
  nb o 0 2 == 0x504E && nb o 2 1 == 1 && 1 ≤ noticeKind o && noticeKind o ≤ 4 && noticePool o != 0xFFFF && nb o 6 1 < 8 && nb o 7 1 == 0 &&
    noticeLen o ≤ 8192 && nb o 14 2 == 0

/-- Recall entries of a body, each word most significant byte first (Table 18.8). -/
def bodyRecalls : Nat → List Byte → List RecallEntry
  | 0, _ => []
  | k + 1, b => if b.isEmpty then [] else
      ⟨nb b 0 2, nb b 3 1, nb b 4 4, nb b 8 4, nb b 12 4⟩ :: bodyRecalls k (b.drop 16)
/-- RECALL_IDs of a body. -/
def bodyIds : Nat → List Byte → List Nat
  | 0, _ => []
  | k + 1, b => if b.isEmpty then [] else nb b 0 4 :: bodyIds k (b.drop 4)

/-- The body is well-formed for its KIND (Table 18.4). DEDUCED, log 62. -/
def noticeBodyOk (o : List Byte) : Bool :=
  let b := noticeBody o
  match noticeKind o with
  | 1 => b.length % 16 == 0 && (bodyRecalls 512 b).all (fun e => e.level != 0 && e.first ≤ e.last)
  | 2 => b.length % 4 == 0
  | 3 => b.length == 28 && nb b 0 1 < 2 && nb b 1 1 < 8 && nb b 2 1 < 8 && nb b 3 1 == 0
  | _ => true

def ocApplied : Nat := 0
def ocDelivered : Nat := 1
def ocAuthFail : Nat := 3
def ocNoKey : Nat := 4
def ocUnwrapFail : Nat := 5
def ocListFull : Nat := 6
def ocBadFormat : Nat := 7

def State.modSlot (s : State) (n : Fin 8) (f : NoticeSlot → NoticeSlot) : State := s.modSvc (fun v => { v with slots := upd v.slots n f })
/-- An object in progress is abandoned (R754). DEDUCED, log 62. -/
def State.abandon (s : State) (n : Fin 8) : State :=
  if s.svc.slots[n].bytes.isSome then
    (s.modSlot n (fun q => { q with bytes := none })).modTelem (fun t => { t with objAbandon := satAdd 65535 t.objAbandon 1 })
  else s

/-- The summary record of an object (Table 18.12). -/
def State.noticeRec (s : State) (n : Nat) (o : List Byte) (outcome applied dropped : Nat) : State :=
  let b := noticeBody o
  let k3 := if noticeKind o == 3 then packW [(8, 2, nb b 0 1), (0, 3, nb b 1 1)] else 0
  s.record 0x05 [packW [(24, 8, noticeKind o), (16, 8, outcome), (0, 3, n)], BitVec.ofNat 32 (noticeId o),
    packW [(16, 16, noticePool o), (0, 16, noticeLen o)], packW [(16, 16, applied), (0, 16, dropped)], k3]
/-- A summary with NO_KEY or AUTH_FAIL, at most once per slot in any 10 s (R757). -/
def State.noticeRefused (s : State) (n : Fin 8) (o : List Byte) (outcome : Nat) : State :=
  let due : Bool := match s.svc.slots[n].told with
    | none => true
    | some t => decide (t + 10000 ≤ s.flt.ms)
  s.cond due (fun s => (s.modSlot n (fun q => { q with told := some s.flt.ms })).noticeRec n.val o outcome 0 0)

/-- Little-endian words of bytes, the last padded with 0. -/
def wordsOf : Nat → List Byte → List Word
  | 0, _ => []
  | k + 1, b => if b.isEmpty then [] else bytesWord (b.take 4) :: wordsOf k (b.drop 4)
/-- Fragment records of a body, 28 bytes each in ascending order (R760). -/
def State.fragments (s : State) (n : Nat) (o : List Byte) : State :=
  let b := noticeBody o
  s.forEach (List.range ((b.length + 27) / 28)) (fun s i =>
    let f := (b.drop (28 * i)).take 28
    s.record 0x05 ([packW [(24, 8, noticeKind o), (15, 1, 1), (0, 3, n)], BitVec.ofNat 32 (noticeId o), packW [(16, 16, 28 * i), (0, 5, f.length)]]
      ++ wordsOf 7 f))

/-- The object is new for its pool (R756). -/
def isNew (p : Option PoolIds) (id : Nat) : Bool :=
  match p with
  | none => true
  | some p => seqLater id p.highest ||
      (let back := (p.highest + 2 ^ 32 - id) % 2 ^ 32
       decide (1 ≤ back) && decide (back ≤ 255) && !p.below.contains id)
/-- The object's ID is accepted (R756). -/
def takeId (p : Option PoolIds) (pool id : Nat) : PoolIds :=
  match p with
  | none => ⟨pool, id, []⟩
  | some p =>
    let h := if seqLater id p.highest then id else p.highest
    let l := (if seqLater id p.highest then p.highest else id) :: p.below
    ⟨pool, h, l.filter (fun i => decide ((h + 2 ^ 32 - i) % 2 ^ 32 ≤ 255))⟩

/-- Insert in the order of the list. -/
def insRecall (e : RecallEntry) : List RecallEntry → List RecallEntry
  | [] => [e]
  | f :: l => if f.before e then f :: insRecall e l else e :: f :: l

/-- A RECALL_ADD or RECALL_REMOVE object is applied to the list, and its summary posted (R749, R758). -/
def State.applyRecall (s : State) (n : NoticeWait) : State :=
  let o := n.bytes
  let pool := noticePool o
  if noticeKind o == 1 then
    let all := bodyRecalls 512 (noticeBody o)
    let mine := all.filter (fun e => e.pool == pool)
    let room := 16384 - s.svc.recalls.length
    let take := mine.take room
    let s := s.setRecall (take.foldl (fun l e => insRecall e l) s.svc.recalls)
    s.noticeRec n.slot o (if take.length < mine.length then ocListFull else ocApplied) take.length (all.length - take.length)
  else
    let ids := bodyIds 2048 (noticeBody o)
    let keep := s.svc.recalls.filter (fun e => !(e.pool == pool && ids.contains e.id))
    let gone := s.svc.recalls.length - keep.length
    (s.setRecall keep).noticeRec n.slot o ocApplied gone 0
/-- Every object that waits for the recall list is applied, in order. -/
def State.applyNotices (s : State) : State :=
  let l := s.svc.notices
  (s.modSvc (fun v => { v with notices := [] })).forEach l State.applyRecall

/-- A key as it came out of its unwrapping is kept and told to the members, or the notice reports why not (Table 18.4). -/
def State.keyUnwrapped (s : State) (n : Fin 8) (o : List Byte) (use id : Nat) : Option Nat → State
  | none => s.noticeRec n.val o ocUnwrapFail 0 0
  | some key =>
    let pool := noticePool o
    if (s.findKey pool use id).isNone && 64 ≤ s.svc.keys.length then s.noticeRec n.val o (Config.keyFullOutcome % 256) 0 0
    else
      let s := (s.putKey pool use id key).tellOthers msgKey
        (packW [(16, 16, pool), (8, 2, use), (0, 3, id)] :: wordsOf 4 (natBe 16 key))
      s.noticeRec n.val o ocApplied 0 0
/-- A KEY object is applied (R758, R759): unwrapped, installed, and given to every member. DESIGN CHOICE, log 55. -/
def State.applyKey (s : State) (n : Fin 8) (o : List Byte) : State :=
  let b := noticeBody o
  match s.findKey (noticePool o) 2 (nb b 2 1) with
  | none => s.noticeRefused n o ocNoKey
  | some kek => s.keyUnwrapped n o (nb b 0 1) (nb b 1 1) (unwrapKey kek.key (b.drop 4))

/-- A whole object is checked (Table 18.3) and applied (Table 18.4). -/
def State.noticeWhole (s : State) (n : Fin 8) (o : List Byte) : State :=
  let len := 16 + noticeLen o
  let pool := noticePool o
  if (crc32 (o.take (len + 8))).toNat != nb o (len + 8) 4 then s.modTelem (fun t => { t with objAbandon := satAdd 65535 t.objAbandon 1 })
  else match s.findKey pool 1 (nb o 6 1) with
    | none => s.noticeRefused n o ocNoKey
    | some k =>
      if cmac k.key (o.take len) / 2 ^ 64 != nb o len 8 then s.noticeRefused n o ocAuthFail
      else
        let p := s.svc.ids.find? (·.pool == pool)
        if !isNew p (noticeId o) then s
        else
          let s := s.modSvc (fun v => { v with ids := takeId p pool (noticeId o) :: v.ids.filter (·.pool != pool) })
          let s := s.cond (s.is Fld.svcCtlObjBody) (·.fragments n.val o)
          if !noticeBodyOk o then s.noticeRec n.val o ocBadFormat 0 0
          else if !s.is Fld.svcCtlNoticeApply || noticeKind o == 4 then s.noticeRec n.val o ocDelivered 0 0
          else if noticeKind o == 3 then s.applyKey n o
          else s.modSvc (fun v => { v with notices := v.notices ++ [⟨n.val, o⟩] })

/-- Payload joins the object in progress; a broken header abandons it, and a whole object is taken (R754). -/
def State.extend (s : State) (n : Fin 8) (bytes : List Byte) (cont : Nat) : State :=
  let s := s.modSlot n (fun q => { q with bytes := some bytes, cont := cont, loss := false })
  if bytes.length < 16 then s
  else if !noticeHeader bytes then s.abandon n
  else
    let all := 16 + noticeLen bytes + 12
    if bytes.length < all then s
    else (s.modSlot n (fun q => { q with bytes := none })).noticeWhole n (bytes.take all)

/-- DATACAST_UNIT (R498, R753): what a subscription delivers is passed on in order. -/
def execDatacastUnit (slot : Fin 8) (unit : DataUnit) (s : State) : Host.Outcome State Fault Refusal :=
  inBlock .bcst s fun s =>
    match s.bcst.subs[slot] with
    | none => s
    | some e =>
      if !s.head || s.svcStopped || !s.subLocated e then s
      else
        let add (x : Option (Bool × Nat × List Byte)) : State := s.modSlot slot (fun q => { q with units := q.units ++ [x] })
        match unit with
        | .rds v => if e.transport == 1 then add (some (v.testBit 36, v / 2 ^ 32 % 16, natBe 4 v)) else s
        | .dab (b :: bs) => if e.transport == 2 then add (some (b.toNat ≥ 128, b.toNat % 16, bs)) else s
        | .dab [] => s
        | .lost => add none

/-- NOTICE_SEGMENT (R754): the next segment or loss of a slot is taken. -/
def execNoticeSegment (slot : Fin 8) (s : State) : Host.Outcome State Fault Refusal :=
  running s fun s => s.cond (!s.svcStopped) fun s =>
    let q := s.svc.slots[slot]
    match q.units with
    | [] => s
    | u :: rest =>
      let s := s.modSlot slot (fun q => { q with units := rest })
      match u with
      | none => s.modSlot slot (fun q => { q with loss := true })
      | some (true, cont, bytes) => (s.abandon slot).extend slot bytes cont
      | some (false, cont, bytes) =>
        match q.bytes with
        | none => s
        | some old => if cont == (q.cont + 1) % 16 && !q.loss then s.extend slot (old ++ bytes) cont else s.abandon slot

/-- NOTICE_ABANDON_TIMEOUT (R754): no segment for 60 s. -/
def execNoticeAbandonTimeout (slot : Fin 8) (s : State) : Host.Outcome State Fault Refusal := running s (·.abandon slot)

/-- NOTICE_RECALL_APPLY (R749): the oldest object that waits runs as an application of region 3, when none runs. -/
def execNoticeRecallApply (s : State) : Host.Outcome State Fault Refusal :=
  running s fun s => s.cond (!s.svcStopped) fun s =>
    match s.svc.notices with
    | [] => s
    | n :: rest =>
      if s.hif.regions[3].running.isSome then s
      else (s.modSvc (fun v => { v with notices := rest })).applyRecall n

/-! ### Regions 3 and 6 (R748, R749, R761 to R763) -/

/-- Items of `k` words. -/
def itemsOf (k : Nat) : Nat → List Word → List (List Word)
  | 0, _ => []
  | n + 1, ws => if ws.isEmpty then [] else ws.take k :: itemsOf k n (ws.drop k)

/-- The DETAIL of a region 3 update that is not well formed (R748, R762). -/
def recallUpdateJudge (ws : List Word) : Option Nat :=
  let h := ws.getD 0 0
  let es := itemsOf 4 16384 (ws.drop 1)
  if getF h 15 9 != 0 || es.any (fun e => getF (e.getD 0 0) 8 8 != 0) then some dtReserved
  else if getF h 24 8 != 1 || 16384 < getF h 0 15 then some dtOperand
  else if ws.length != 1 + 4 * getF h 0 15 then some dtLength
  else recallJudge (es.map recallOf)

/-- A region 3 update takes effect at one instant; Pool Notices that waited for it run before a waiting update (R748, R749). -/
def State.recallUpdate (s : State) (d : Desc) (ws : List Word) : State :=
  match recallUpdateJudge ws with
  | some t => (s.applyNotices).regionDone d { status := stBadDesc, detail := t }
  | none => ((s.setRecall ((itemsOf 4 16384 (ws.drop 1)).map recallOf)).applyNotices).regionDone d { status := stOK }

/-- An entry as a region 6 image gives it (R763). -/
def imageEntry (e : List Word) : List Word :=
  let e := (imageWords e).set 1 ((ew e 1 &&& entryMask 1) ||| 2)
  if entryGen e == 0 then e.set 2 1 else e

/-- Merge one entry of an image, PARAM bit 0 set: none when the roster is full. -/
def mergeEntry (cap : Nat) (r : List (Nat × List Word)) (e : List Word) : Option (List (Nat × List Word)) :=
  let old := r.find? (fun x => entryPool x.2 == entryPool e && entrySerial x.2 == entrySerial e)
  match old with
  | some (n, _) => if entryFlag e flVALID then some (Sparse.insert r n (imageEntry e)) else some (Sparse.erase r n)
  | none =>
    if !entryFlag e flVALID then some r
    else if cap ≤ r.length then none
    else (freeNumber r (r.length + 1) 0).map (fun n => Sparse.insert r n (imageEntry e))

/-- A region 6 update takes effect (R761, R763). -/
def State.rosterUpdate (s : State) (d : Desc) (ws : List Word) : State :=
  let h := ws.getD 0 0
  let n := getF h 0 17
  let es := itemsOf 16 65536 (ws.drop 1)
  let merge := d.f 5 0 1 == 1
  let fail (t : Nat) : State := s.regionDone d { status := stBadDesc, detail := t }
  let live := if merge then es else es.filter (fun e => entryFlag e flVALID)
  let ids := live.map (fun e => (entryPool e, entrySerial e))
  if getF h 17 7 != 0 || es.any (fun e => imageWords e != (List.range 16).map (ew e)) then fail dtReserved
  else if getF h 24 8 != 1 then fail dtOperand
  else if ws.length != 1 + 16 * n || s.rosterCap < n then fail dtLength
  else if ids.eraseDups.length != ids.length then fail dtOperand
  else if merge then
    match es.foldl (fun (r : Option (List (Nat × List Word))) e => r.bind (fun r => mergeEntry s.rosterCap r e)) (some s.svc.roster) with
    | none => fail 0x70
    | some r => (s.setRoster r).regionDone d { status := stOK }
  else
    let r := (es.zipIdx.filter (fun x => entryFlag x.1 flVALID)).map (fun x => (x.2, imageEntry x.1))
    (s.setRoster r).regionDone d { status := stOK }

/-- A write of SVC_ROSTER_SIZE that lands empties the roster (R733). -/
def State.rosterSized (s : State) : State := s.setRoster []

end Sys2Proof.Machine
end

