-- ==== Sys2Proof/Machine/Form.lean ====
section
/-! DEFINITION. Epochs and their formation (R670 to R675), with the head's part of a SYNC (R335, R336). -/

namespace Sys2Proof.Machine

/-! ### Boot tree messages whose form the spec leaves open, and the formation's own: their codes are this model's. -/

def msgHello : Nat := 0x01
def msgAnswer : Nat := 0x02
def msgPush : Nat := 0x03
def msgEpochSet : Nat := 0x04
def msgEpochAck : Nat := 0x05
def msgSyncArm : Nat := 0x06
def msgSyncDone : Nat := 0x07
def msgSyncMissed : Nat := 0x08
def msgSyncAck : Nat := 0x09
/-- Step 6 of a formation: the members of the epoch (Table 16.4). -/
def msgFormEnd : Nat := 0x70
/-- Step 5: a region of Lace scope that the head holds. -/
def msgFormRegion : Nat := 0x71

/-- A boot tree message. -/
def State.bootMsg (s : State) (dst code tag : Nat) (ws : List Word) : State :=
  s.sendMsg { dst := dst, src := s.me, kind := 6, code := code, tag := tag, words := ws }

/-! ### SYNC at the head (R335, R336, R344) -/

/-- The tile that the next effect edge starts: the first boundary 100 µs and 16.5 REF periods or more after now (R335). DEDUCED, log 45. -/
def State.armTile (s : State) : Nat := (s.tile.toNat + (if s.pip.cycle + 74223 ≤ 245760 then 1 else 2)) % 2 ^ 32
/-- The audio frame count that holds then, while the audio ADPLL holds lock (R333). -/
def State.armFrame (s : State) : Nat :=
  let cyc := (if s.pip.cycle + 74223 ≤ 245760 then 1 else 2) * 245760 - s.pip.cycle
  let rate := if s.is Fld.clkAudCtlFamily then 44100 else 48000
  (s.clk.audFrame + (if s.is Fld.clkAudStatLock then cyc * rate / 737280000 else 0)) % 2 ^ 32

/-- Members that a SYNC goes to: of the epoch that is forming, or of the current one (R335). -/
def State.syncMembers (s : State) : List Nat :=
  match s.lnk.forming with
  | some f => f.cands.filter (· != s.me)
  | none => s.others

/-- The head sends SYNC_ARM to every member (R335). DEDUCED, log 45. -/
def State.sendArm (s : State) (fire : Bool) : State :=
  let a : SyncArm := ⟨s.armTile, s.armFrame⟩
  let ms := s.syncMembers
  let s := s.modClk (fun c => { c with headSync := some ⟨fire, a, false, ms⟩ })
  s.cond (!ms.isEmpty) (·.bootMsg 63 msgSyncArm 0 [BitVec.ofNat 32 a.tile, BitVec.ofNat 32 a.frame])

/-- A FIRE that waited for a formation starts its SYNC (R336). -/
def State.fireNext (s : State) : State :=
  s.cond (s.is Fld.clkSyncCtlFire && s.clk.headSync.isNone && !s.is Fld.pwrStateRest && s.pwr.resumeWait.isEmpty) (·.sendArm true)

/-- A write of 1 to FIRE on the head (R336, R16): it waits while a formation's SYNC is under way, and for
the end of Lace rest (R778). -/
def State.syncFire (s : State) : State :=
  if !s.head || s.is Fld.clkSyncCtlFire then s else (s.putB Fld.clkSyncCtlFire true).fireNext

/-- The SYNC of FIRE is over: FIRE clears. -/
def State.fireDone (s : State) : State :=
  (s.putB Fld.clkSyncCtlFire false).modClk (fun c => { c with headSync := none })

/-! ### Adopting an epoch (R670, R671, R673, R674) -/

/-- The number after an epoch's (R670). -/
def nextEpoch (e : Nat) : Nat := if e == 0xFFFF then 1 else e + 1

/-- The faults of a formation as breaks of its epoch (R657, R673). -/
def faultBreaks (h : Shape) (fs : List LinkFault) : List Break :=
  fs.map (fun f => { kind := 0, reporter := f.member, link := f.link
                     partner := ((h.step (h.pos f.member) f.link).bind h.at?).getD f.member, count := 0 })

/-- The faults in the words of EPOCH_SET. -/
def faultWords (fs : List LinkFault) : List Word := fs.map (fun f => packW [(16, 1, b2n f.miswired), (8, 6, f.member), (0, 2, f.link)])

/-- A link of this device that the head found wired against Table 16.1 carries boot tree messages only (R673, spec 16 Edges). -/
def State.miswire (s : State) (fs : List LinkFault) : State :=
  s.forEach fs (fun s f =>
    let k : Fin 4 := Fin.ofNat 4 f.link
    s.cond (f.miswired && f.member == s.me && s.linkState k == lkUp) (·.put (Fld.lnkStatState k.val) lkMiswired))

/-- This device adopts a new epoch and its routes: its links carry epoch traffic where no break is, messages of the old epoch are dropped,
and definitions of exchange slots no longer hold (R670, R671, R674, R688). -/
def State.adopt (s : State) (epoch : Nat) (shape : Word) (mask : Nat) (faults : List LinkFault) : State :=
  let h := shapeOf shape
  let s := (s.put Fld.laceEpochEpoch epoch).putB Fld.laceEpochForming true
  let s := s.miswire faults
  let s := s.modLnk (fun l => { l with shape := shape, routes := mask, breaks := faultBreaks h faults, partials := [], loneLace := false
                                       requests := l.requests.map (fun r => { r with afterBreak := true }) })
  let s := (s.putB Fld.exchStatDef0 false).putB Fld.exchStatDef1 false
  let brk := s.breakPairs
  s.forEach allLinks (fun s k =>
    (s.putB (Fld.lnkStatInEpoch k.val) (s.linkState k == lkUp && hopOpen h mask brk (h.pos s.me) k.val)).modLink k
      (fun l => { l with broken := false }))

/-- The formation has ended: FORMING and BROKEN clear, LACE_MEMBERS stands (step 6 of Table 16.4). -/
def State.formed (s : State) (mask : Nat) : State :=
  let s := (s.putB Fld.laceEpochForming false).putB Fld.laceEpochBroken false
  let s := (s.wr Reg.laceMembersLo (BitVec.ofNat 32 mask)).wr Reg.laceMembersHi (BitVec.ofNat 32 (mask / 2 ^ 32))
  (s.modLnk (fun l => { l with lost := [], headLost := false, inEpoch := true })).modPwr (fun p => { p with laceHold := true })

/-! ### The head's steps (Table 16.4) -/

/-- Every pair of members has routes in both directions (R657). -/
def routable (h : Shape) (ms : List Nat) (brk : List (Nat × Nat)) : Bool :=
  let mask := maskOf 64 (fun i => ms.contains i)
  ms.all (fun a => ms.all (fun b => (routePath h mask brk 16 (h.pos a) (h.pos b)).isSome))

/-- While the set breaks R657, the candidate with the highest number goes, never the head (R673). -/
def trimCands : Nat → Shape → Nat → List (Nat × Nat) → List Nat → List Nat
  | 0, _, _, _, ms => ms
  | n + 1, h, me, brk, ms =>
    if routable h ms brk then ms
    else match (ms.filter (· != me)).getLast? with
      | none => ms
      | some m => trimCands n h me brk (ms.filter (· != m))

def maskOfList (ms : List Nat) : Nat := maskOf 64 (fun i => ms.contains i)

/-- Steps 5 and 6 (R674, R675): new members get the keys and the regions of Lace scope, every member the end of the formation. -/
def State.formEnd (s : State) (f : Forming) : State :=
  let mask := maskOfList f.cands
  let s := s.modLnk (fun l => { l with forming := none })
  let s := s.modClk (fun c => { c with headSync := none })
  let s := s.formed mask
  let s := s.forEach (f.cands.filter (fun m => m != s.me && !f.prev.contains m)) (fun s m =>
    let tell (s : State) (code : Nat) (ws : List Word) : State :=
      s.sendReq { dst := m, src := s.me, kind := 2, code := code, tag := 0, words := ws } none
    let s := s.forEach s.svc.keys (fun s k =>
      tell s msgKey (packW [(16, 16, k.pool), (8, 2, k.use), (0, 3, k.keyid)] :: wordsOf 4 (natBe 16 k.key)))
    let s := match s.exch.map with
      | some ws => tell s msgFormRegion ((1 : Word) :: ws)
      | none => s
    match s.tag.plan with
    | some p => tell s msgFormRegion ((5 : Word) :: p.words)
    | none => s)
  let s := s.forEach s.others (fun s m => s.sendMsg
    { dst := m, src := s.me, kind := 7, code := msgFormEnd, tag := s.epoch, words := [s.rd Reg.laceMembersLo, s.rd Reg.laceMembersHi] })
  let s := s.cond (s.free? .pip) (·.pipBeacon)
  let s := s.forEach f.removed (fun s m => s.memberRec evExcluded m)
  let s := match f.desc with
    | none => s
    | some d => (s.memberRec evFormed s.me).complete d
        { status := stOK, r0 := BitVec.ofNat 32 s.epoch, r1 := BitVec.ofNat 32 f.cands.length
          r2 := s.rd Reg.laceMembersLo, r3 := s.rd Reg.laceMembersHi }
  s.fireNext

/-- Step 3: SYNC_ARM and the pulse (R335). -/
def State.formSync (s : State) : State :=
  (s.modLnk (fun l => { l with forming := l.forming.map (fun f => { f with step := 3, awaiting := [] }) })).sendArm false

/-- Steps 1 and 2 for a candidate set, with a new epoch number (R673, R674). Each miswired link is told in a record (spec 16 Edges). -/
def State.formStep1 (s : State) (f : Forming) (cands : List Nat) : State :=
  let shape := s.rd Reg.laceShape
  let h := shapeOf shape
  let brk := f.faults.map (fun x => (x.member, x.link))
  let kept := trimCands 64 h s.me brk cands
  let f := { f with step := 1, cands := kept, awaiting := kept.filter (· != s.me)
                    removed := f.removed ++ f.cands.filter (fun m => !kept.contains m) }
  let e := nextEpoch s.epoch
  let mask := maskOfList kept
  let s := s.adopt e shape mask f.faults
  let s := s.modLnk (fun l => { l with forming := some f })
  let s := s.modClk (fun c => { c with headSync := none })
  if f.awaiting.isEmpty then s.formSync
  else s.bootMsg 63 msgEpochSet 0
    ([BitVec.ofNat 32 e, shape, BitVec.ofNat 32 mask, BitVec.ofNat 32 (mask / 2 ^ 32)] ++ faultWords f.faults)

/-- Members of a shape that the head may take (R673): accepted in RUNNING, named by the mask or the mask 0, not excluded. -/
def State.formCands (s : State) (mask : Nat) : List Nat :=
  (List.range 64).filter (fun m => m == s.me ||
    (s.boot.accepted.contains m && !s.boot.excluded.contains m && decide (m < (shapeOf (s.rd Reg.laceShape)).count) && (mask == 0 || tb mask m)))

/-- A formation starts (R673, R674). DEDUCED, log 43. -/
def State.formStart (s : State) (d : Option Desc) (mask : Nat) (faults : List LinkFault) : State :=
  let c := s.formCands mask
  let s := s.forEach (faults.filter (·.miswired)) (fun s x =>
    s.postRec { s.mkRec 0x0F [packW [(8, 8, evMiswired), (0, 2, x.link)], 0, packW [(0, 16, s.epoch)]] with member := x.member })
  s.formStep1 ⟨0, c, [], s.memberList, d, [], faults⟩ c

/-- Candidates leave the set, and step 1 repeats with the rest and a new epoch number (steps 2 and 4 of Table 16.4). -/
def State.formWithout (s : State) (ms : List Nat) : State :=
  match s.lnk.forming with
  | none => s
  | some f => s.formStep1 f (f.cands.filter (fun m => !ms.contains m))

/-- The head forms epoch 1 once every member in the count of LACE_SHAPE has been accepted in RUNNING (R101). -/
def State.epochOne (s : State) (faults : List LinkFault) : State :=
  let n := (shapeOf (s.rd Reg.laceShape)).count
  let all := (List.range n).all (fun m => m == s.me || s.boot.accepted.contains m)
  s.cond (s.head && s.phase == phRun && s.epoch == 0 && s.lnk.forming.isNone && all) (·.formStart none 0 faults)

/-! ### The commands -/

/-- A descriptor of one of some opcodes has started and not completed. -/
def State.started? (s : State) (ops : List Nat) : Bool := s.hif.started.any (fun t => ops.contains t.d.opcode)

/-- LACE_FORM (R672 to R675). `faults` are the links of the candidates that carry no epoch traffic or are wired against Table 16.1. DEDUCED, log 43. -/
def execLaceForm (d : Desc) (faults : List LinkFault) (s : State) : Host.Outcome State Fault Refusal :=
  running s fun s =>
    s.cond s.head fun s => s.taking 0x48 d fun s => s.needBlk .lnk d fun s =>
      let w := s.rd Reg.laceShape
      let mask := (d.w 2).toNat + (d.w 3).toNat * 2 ^ 32
      if s.exch.run0.isSome || s.exch.run1.isSome || s.started? [0x06, 0x07, 0x08] || s.lnk.forming.isSome then s.finish d stBusyRetry
      else if !shapeOk w || (bitsOf 64 mask).any (fun m => decide ((shapeOf w).count ≤ m)) then s.bad d 0x60
      else (s.commit d).formStart (some d) mask faults

/-- EPOCH_ONE_TIMEOUT (R101): 1000 ms after release the head forms epoch 1 with the members accepted so far. -/
def execEpochOneTimeout (faults : List LinkFault) (s : State) : Host.Outcome State Fault Refusal :=
  running s fun s => s.cond (s.head && s.epoch == 0 && s.lnk.forming.isNone) (·.formStart none 0 faults)

/-- EPOCH_SET_RECEIVE (R100, R674): a candidate adopts the epoch and answers. -/
def execEpochSetReceive (epoch : Nat) (shape : Word) (mask : Nat) (faults : List LinkFault) (s : State) : Host.Outcome State Fault Refusal :=
  running s fun s =>
    s.cond (!s.head && !s.boot.refused && tb mask s.me) fun s =>
      (s.adopt (epoch % 65536) shape mask faults).bootMsg s.headNo msgEpochAck epoch [BitVec.ofNat 32 epoch]

/-- EPOCH_ACK_RECEIVE (R674): with the last answer the SYNC follows. -/
def execEpochAckReceive (member epoch : Nat) (s : State) : Host.Outcome State Fault Refusal :=
  running s fun s =>
    match s.lnk.forming with
    | none => s
    | some f =>
      if f.step != 1 || epoch != s.epoch || !f.awaiting.contains member then s
      else
        let f := { f with awaiting := f.awaiting.filter (· != member) }
        let s := s.modLnk (fun l => { l with forming := some f })
        s.cond f.awaiting.isEmpty (·.formSync)

/-- EPOCH_ACK_TIMEOUT (R674): candidates silent for 1 ms are removed and step 1 repeats. -/
def execEpochAckTimeout (s : State) : Host.Outcome State Fault Refusal :=
  running s fun s =>
    match s.lnk.forming with
    | none => s
    | some f => s.cond (f.step == 1 && !f.awaiting.isEmpty) (·.formWithout f.awaiting)

/-- Every report of the head's SYNC has come: FIRE clears, or the formation goes on (R336, R674). -/
def State.syncReported (s : State) : State :=
  match s.clk.headSync with
  | none => s
  | some h =>
    if !h.pulsed || !h.dones.isEmpty then s
    else if h.fire then s.fireDone
    else match s.lnk.forming with
      | some f => s.formEnd f
      | none => s.modClk (fun c => { c with headSync := none })

/-- SYNC_PULSE_DRIVE (R335, R336, R344): with the acknowledgements of `acked`, the head drives SYNC_OUT before the tile boundary that
SYNC_ARM named; once that boundary has passed it sends SYNC_ARM afresh. OUT_DIS keeps the ball low. -/
def execSyncPulseDrive (acked : List Nat) (s : State) : Host.Outcome State Fault Refusal :=
  running s fun s =>
    match s.clk.headSync with
    | none => s
    | some h =>
      if !s.head || h.pulsed || 2 ≤ s.pst || s.clk.refLost || !h.dones.all (acked.contains ·) then s
      else if (s.tile.toNat + 1) % 2 ^ 32 == h.arm.tile then
        let s := (s.cond (!s.is Fld.clkSyncCtlOutDis) (·.emit .syncPulse)).inc Fld.clkSyncStatCount
        let s := s.modClk (fun c => { c with headSync := some { h with pulsed := true } })
        let s := s.modLnk (fun l => { l with forming := l.forming.map (fun f => if h.fire then f else { f with step := 4 }) })
        s.syncReported
      else s.cond (s.tileAt h.arm.tile) (·.sendArm h.fire)

/-- SYNC_DONE_RECEIVE (R336, R674). -/
def execSyncDoneReceive (member : Nat) (s : State) : Host.Outcome State Fault Refusal :=
  running s fun s =>
    match s.clk.headSync with
    | none => s
    | some h =>
      s.cond h.pulsed fun s =>
        (s.modClk (fun c => { c with headSync := some { h with dones := h.dones.filter (· != member) } })).syncReported

/-- SYNC_MISSED_RECEIVE (R674): the candidate is removed and the formation repeats; a SYNC of FIRE goes on waiting (R336). -/
def execSyncMissedReceive (member : Nat) (s : State) : Host.Outcome State Fault Refusal :=
  running s fun s =>
    match s.lnk.forming, s.clk.headSync with
    | some f, some h => s.cond (!h.fire && f.cands.contains member && member != s.me) (·.formWithout [member])
    | _, _ => s

/-- SYNC_REPORT_TIMEOUT (R674): candidates with no report 2 ms after the pulse are removed. -/
def execSyncReportTimeout (s : State) : Host.Outcome State Fault Refusal :=
  running s fun s =>
    match s.lnk.forming, s.clk.headSync with
    | some _, some h => s.cond (!h.fire && h.pulsed && !h.dones.isEmpty) (·.formWithout h.dones)
    | _, _ => s

/-- SYNC_FIRE_TIMEOUT (R336): 2 ms after the pulse FIRE clears. -/
def execSyncFireTimeout (s : State) : Host.Outcome State Fault Refusal :=
  running s fun s =>
    match s.clk.headSync with
    | some h => s.cond (h.fire && h.pulsed) (·.fireDone)
    | none => s

end Sys2Proof.Machine
end

