-- ==== Sys2Proof/Machine/Aud.lean ====
section
/-! DEFINITION. Audio ports and sample clocks (spec 13): the audio frame counter, outputs with their FIFOs, faders and routes, the audio
ADPLL's holdover and gating as the ports see it, SPDO, SPDI and the common start. -/

namespace Sys2Proof.Machine

def spdo : Fin 4 := 3
def State.outSt (s : State) (o : Fin 4) : OutputSt := s.aud.outs[o]
/-- EN, FSEL and MASTER of an output; SPDO is always clocked from the audio ADPLL (R511 to R513). -/
def State.outEn (s : State) (o : Fin 4) : Bool := if o == spdo then s.is Fld.spdoCtlEn else s.is (Fld.sapCtlEn o.val)
def State.outFsel (s : State) (o : Fin 4) : Nat := if o == spdo then s.get Fld.spdoCtlFsel else s.get (Fld.sapCtlFsel o.val)
def State.outMaster (s : State) (o : Fin 4) : Bool := o == spdo || s.is (Fld.sapCtlMaster o.val)
/-- FSEL names a rate of the selected family. -/
def famOk (family : Bool) (fsel : Nat) : Bool := (fsel % 2 == 1) == !family
def State.audFamily (s : State) : Bool := s.is Fld.clkAudCtlFamily
def State.audSrc (s : State) : Nat := s.get Fld.clkAudCtlSrc
/-- Frames of an output per count of the audio frame counter (R515). -/
def State.outMult (s : State) (o : Fin 4) : Nat := if 2 ≤ s.outFsel o then 2 else 1
/-- 50 ms in counts. -/
def State.count50 (s : State) : Nat := if s.audFamily then 2205 else 2400
def cfgErr (o : Fin 4) : FieldRef := if o == spdo then Fld.spdoCtlCfgErr else Fld.sapStatCfgErr o.val
/-- An output runs: from its first audio frame until EN is cleared. -/
def OutputSt.runs (q : OutputSt) : Bool := q.run == 3 && q.why != 6

/-- SAPn_STAT's views and AUD_START_CTL.WAITING. DESIGN CHOICE, log 18. -/
def State.audViews (s : State) : State :=
  let s := s.forEach ([0, 1, 2] : List (Fin 4)) (fun s o =>
    let q := s.outSt o
    let n := o.val
    let clk := q.en && (if s.outMaster o then !s.aud.gated && s.is Fld.clkAudStatLock else q.why != 3)
    ((((s.put (Fld.sapStatFill n) q.fill).putB (Fld.sapStatFading n) q.fader.moves).putB (Fld.sapStatMuted n) (q.why == 3)).putB
      (Fld.sapStatClkOk n) clk).putB (Fld.sapStatRun n) q.runs)
  s.putB Fld.audStartCtlWaiting (allPaths.any (fun o => (s.outSt o).run == 1))

/-- An AUDIO_STATE record (R554, Table 13.5), with REC = 1. -/
def State.audRec (s : State) (event port fill silent info : Nat) : State :=
  s.cond (s.is Fld.audFadeCfgRec) (·.record 0x0D
    [packW [(8, 8, event), (0, 3, port)], BitVec.ofNat 32 s.clk.audFrame, BitVec.ofNat 32 fill, BitVec.ofNat 32 silent, packW [(0, 16, info)]])

/-! ### Starting outputs (R542 to R547, R549) -/

/-- An output reaches its start frame (R545). -/
def State.startOutput (s : State) (o : Fin 4) : State :=
  let q := s.outSt o
  if 1024 ≤ q.fill then
    (s.modOut o (fun q => { q with run := 3, startAt := none, why := 0, silent := 0
                                   fader := if s.is Fld.audStartCtlRamp then s.rampIn faderOff else faderFull })).audRec 1 o.val q.fill 0 0
  else s.modOut o (fun q => { q with run := 3, startAt := none, why := 6, silent := 0, fader := faderOff })

/-- A trigger of a kind (R543, R544); `near` tells that the next boundary lies less than 2 µs away. -/
def State.audTrigger (s : State) (kind : Nat) (near : Bool) : State :=
  let set := allPaths.filter (fun o => (s.outSt o).run == 1)
  if s.get Fld.audStartCtlTrig != kind || set.isEmpty then s
  else
    let f := (s.clk.audFrame + (if near then 2 else 1)) % 2 ^ 32
    let s := s.forEach set (fun s o => s.modOut o (fun q => { q with run := 2, startAt := some f }))
    (s.flag Fld.audStartCtlStarted).audViews

/-- AUD_START_BALL (R543). -/
def execAudStartBall (near : Bool) (s : State) : Host.Outcome State Fault Refusal :=
  inBlock .aud s (·.audTrigger 1 near)
/-- PIP_AUDIO_START (R543, R544): its instant is its due time. -/
def execPipAudioStart (slot lateNs : Nat) (near : Bool) (s : State) : Host.Outcome State Fault Refusal :=
  running s (·.fireAction actAudioStart slot lateNs (fun s _ => s.cond (s.free? .aud) (·.audTrigger 2 near)))
/-- A write of 1 to GO: it reads 1 until the start frame. -/
def State.audGo (s : State) (near : Bool) : State :=
  let s := s.audTrigger 0 near
  s.putB Fld.audStartCtlGo (allPaths.any (fun o => (s.outSt o).run == 2 && (s.outSt o).armed))

/-- AUD_START_FRAME (R544): the armed outputs whose start frame it is send their first audio frame. -/
def execAudStartFrame (s : State) : Host.Outcome State Fault Refusal :=
  inBlock .aud s fun s =>
    let due := allPaths.filter (fun o => (s.outSt o).run == 2 && (s.outSt o).armed && (s.outSt o).startAt == some s.clk.audFrame)
    if due.isEmpty then s
    else ((s.forEach due State.startOutput).putB Fld.audStartCtlGo false).audViews

/-! ### Routes (R516 to R520, R550) -/

def routeOf (d : Desc) : Route := ⟨d.f 1 8 3, d.f 1 26 2, d.f 1 16 8, d.f 1 13 1 == 1, d.f 1 12 1 == 1⟩
/-- The input that an output's pair will have once its changes are made. -/
def OutputSt.target (q : OutputSt) (p : Fin 4) : Nat :=
  ((q.queue.reverse.find? (fun e => e.2.1 == p.val)).map (·.2.2.input)).getD q.routes[p].cur.input
/-- Broadcast sources that some route names, one pair given another input (R518). -/
def State.carried (s : State) (o p : Fin 4) (input : Nat) : List Nat :=
  ((allPaths.flatMap (fun o' => allPaths.map (fun p' =>
    if o' == o && p' == p then input else (s.outSt o').target p'))).filter (· < 4)).eraseDups

def State.modRoute (s : State) (o p : Fin 4) (f : RouteSt → RouteSt) : State :=
  s.modOut o (fun q => { q with routes := upd q.routes p f })

/-- Begin the first route change of an output: only attenuation or options change at once (R520), others after a fade (R517). -/
def routeNextN : Nat → State → Fin 4 → State
  | 0, s, _ => s
  | n + 1, s, o =>
    match (s.outSt o).queue with
    | [] => s
    | (d, pn, r) :: rest =>
      let p : Fin 4 := Fin.ofNat 4 pn
      let x := (s.outSt o).routes[p]
      if x.cur.input == r.input && x.cur.inPair == r.inPair && x.fader.mode != 2 then
        let s := (s.modRoute o p (fun x => { x with cur := r })).modOut o (fun q => { q with queue := rest })
        routeNextN n (s.complete d { status := stOK, r0 := BitVec.ofNat 32 s.clk.audFrame }) o
      else s.modRoute o p (fun x => { x with fader := s.fadeOut x.fader })
def State.routeNext (s : State) (o : Fin 4) : State := routeNextN ((s.outSt o).queue.length) s o

/-- AUDIO_ROUTE (R517, R518; RETIRED with the audio engine of Table 15.4). -/
def execAudioRoute (d : Desc) (s : State) : Host.Outcome State Fault Refusal :=
  running s fun s =>
    let o : Fin 4 := Fin.ofNat 4 (d.f 1 0 3)
    let p : Fin 4 := Fin.ofNat 4 (d.f 1 4 2)
    let r := routeOf d
    s.atMember 0x50 d id fun s =>
      s.needBlk .aud d fun s =>
        if s.reqRetired 3 then s.finish d stRetired
        else if o != spdo && p != 0 && s.get (Fld.sapCtlFmt o.val) != 2 then s.bad d 0x50
        else if 2 < (s.carried o p r.input).length then s.bad d 0x51
        else
          let s := s.commit d
          if !(s.outSt o).runs then ((s.modRoute o p (fun _ => ⟨r, faderFull⟩))).complete d { status := stOK }
          else
            let idle := (s.outSt o).queue.isEmpty
            let s := s.modOut o (fun q => { q with queue := q.queue ++ [(d, p.val, r)] })
            s.cond idle (·.routeNext o)

/-- AUDIO_ROUTE_RAMP_START (R517, R550): the old input's fade has ended. -/
def execAudioRouteRampStart (output : Fin 4) (s : State) : Host.Outcome State Fault Refusal :=
  inBlock .aud s fun s =>
    match (s.outSt output).queue with
    | [] => s
    | (d, pn, r) :: rest =>
      let p : Fin 4 := Fin.ofNat 4 pn
      if (s.outSt output).routes[p].fader.mode != 0 then s
      else
        let s := (s.modRoute output p (fun _ => ⟨r, s.rampIn faderOff⟩)).modOut output (fun q => { q with queue := rest })
        let s := s.complete d { status := stOK, r0 := BitVec.ofNat 32 s.clk.audFrame }
        (s.audRec 13 output.val (s.outSt output).fill 0 (r.input + 16 * pn)).routeNext output

/-- An output stops: what waits for it is stored, and completes OK at once (R517). -/
def State.stopOutput (s : State) (o : Fin 4) (why : Nat) : State :=
  let l := (s.outSt o).queue
  let s := s.modOut o (fun q => { q with run := 0, armed := false, startAt := none, fill := 0, fader := faderOff, why := why, silent := 0, queue := [] })
  s.forEach l (fun s e => (s.modRoute o (Fin.ofNat 4 e.2.1) (fun _ => ⟨e.2.2, faderFull⟩)).complete e.1 { status := stOK })

/-! ### Underrun, overrun, resume (R524 to R526, R531) -/

def State.modIn (s : State) (i : Fin 2) (f : InputSt → InputSt) : State := s.modAud (fun a => { a with ins := upd a.ins i f })
/-- An input is in use: SAP2 with IN_EN and its clock, SPDI locked with PCM. -/
def State.inputOn (s : State) (i : Fin 2) : Bool :=
  if i == 0 then s.is (Fld.sapCtlInEn 2) && (s.outSt 2).en && (s.outSt 2).why != 3
  else s.is Fld.spdiCtlEn && s.is Fld.spdiStatLock && !s.is Fld.spdiStatNonpcm

/-- AUDIO_UNDERRUN (R524, R526): 0 to 3 an output, 4 the SAP2 input, 5 SPDI. -/
def execAudioUnderrun (port : Fin 6) (s : State) : Host.Outcome State Fault Refusal :=
  inBlock .aud s fun s =>
    if port.val < 4 then
      let o : Fin 4 := Fin.ofNat 4 port.val
      let q := s.outSt o
      if !q.runs || q.why != 0 || q.fader.mode == 2 || s.fadeLen < q.fill then s
      else
        let s := (s.modOut o (fun q => { q with why := 1, silent := 0, fader := s.fadeOut q.fader })).cond (o != spdo) (·.flag (Fld.sapStatUnderrun o.val))
        (s.audRec 4 o.val q.fill 0 0).audViews
    else
      let i : Fin 2 := Fin.ofNat 2 (port.val - 4)
      let q := s.aud.ins[i]
      if !s.inputOn i || q.why != 0 || q.fader.mode == 2 || s.fadeLen < q.fill then s
      else
        let s := (s.modIn i (fun q => { q with why := 1, silent := 0, fader := s.fadeOut q.fader })).cond (i == 0) (·.flag (Fld.sapStatInLost 2))
        s.audRec 4 port.val q.fill 0 0

/-- AUDIO_OVERRUN (R525, R526). -/
def execAudioOverrun (port : Fin 6) (s : State) : Host.Outcome State Fault Refusal :=
  inBlock .aud s fun s =>
    if port.val < 4 then
      let o : Fin 4 := Fin.ofNat 4 port.val
      let q := s.outSt o
      if !q.runs || q.why != 0 || q.fill < 2048 then s
      else
        let s := (s.modOut o (fun q => { q with why := 2, silent := 0, fader := s.fadeOut q.fader })).cond (o != spdo) (·.flag (Fld.sapStatOverrun o.val))
        (s.audRec 5 o.val q.fill 0 0).audViews
    else
      let i : Fin 2 := Fin.ofNat 2 (port.val - 4)
      let q := s.aud.ins[i]
      if !s.inputOn i || q.why != 0 || q.fill < 2048 then s
      else
        let s := (s.modIn i (fun q => { q with why := 2, silent := 0, fader := s.fadeOut q.fader })).cond (i == 0) (·.flag (Fld.sapStatInLost 2))
        s.audRec 5 port.val q.fill 0 0

/-- AUDIO_RESUME (R524, R525, R531, R545): the fill stands at 1024 again, after an overrun by discarding the oldest frames; the ramp starts. After
gating it needs 50 ms of lock. A short start reports STARTED. -/
def execAudioResume (port : Fin 6) (s : State) : Host.Outcome State Fault Refusal :=
  inBlock .aud s fun s =>
    if port.val < 4 then
      let o : Fin 4 := Fin.ofNat 4 port.val
      let q := s.outSt o
      let locked := match s.aud.lockFor with
        | some n => decide (s.count50 ≤ n)
        | none => false
      if s.reqRetired 3 || q.run != 3 || q.fader.mode != 0 || q.fill < 1024 || !([1, 2, 6].contains q.why || (q.why == 5 && locked)) then s
      else
        let fill := if q.why == 2 then 1024 else q.fill
        let s := s.modOut o (fun q => { q with why := 0, silent := 0, fill := fill, fader := s.rampIn faderOff })
        (s.audRec (if q.why == 6 then 1 else 6) o.val fill (if q.why == 6 then 0 else q.silent) 0).audViews
    else
      let i : Fin 2 := Fin.ofNat 2 (port.val - 4)
      let q := s.aud.ins[i]
      if q.why == 0 || q.fader.mode != 0 || q.fill < 1024 then s
      else (s.modIn i (fun q => { q with why := 0, silent := 0, fill := 1024, fader := s.rampIn faderOff })).audRec 6 port.val 1024 q.silent 0

/-! ### Clocks (R327 to R331, R511, R527 to R531, R548, R551) -/

/-- Outputs that the audio ADPLL clocks and that are enabled. -/
def State.masters (s : State) : List (Fin 4) := allPaths.filter (fun o => s.outMaster o && (s.outSt o).en)

/-- FOLLOWER_CLOCK_LOST (R527, R548): the port mutes, whatever fade or ramp runs; `bclk` is the last frame's BCLK count, 0 for none. -/
def execFollowerClockLost (port : Fin 3) (bclk : Nat) (s : State) : Host.Outcome State Fault Refusal :=
  inBlock .aud s fun s =>
    let o : Fin 4 := Fin.ofNat 4 port.val
    let q := s.outSt o
    if s.outMaster o || !q.en || q.why == 3 then s
    else
      let s := s.modOut o (fun q => { q with why := 3, silent := 0, fill := 1024, fader := faderOff })
      let s := s.flag (Fld.sapStatClkLost o.val)
      let s := s.cond (o == 2 && s.is (Fld.sapCtlInEn 2)) (fun s => (s.flag (Fld.sapStatInLost 2)).modIn 0 (fun q => { q with fader := faderOff }))
      (s.audRec 2 o.val q.fill 0 bclk).audViews
/-- FOLLOWER_CLOCK_BACK (R529): 50 ms of good clock. -/
def execFollowerClockBack (port : Fin 3) (s : State) : Host.Outcome State Fault Refusal :=
  inBlock .aud s fun s =>
    let o : Fin 4 := Fin.ofNat 4 port.val
    let q := s.outSt o
    if q.why != 3 then s
    else
      let s := s.modOut o (fun q => { q with why := 0, silent := 0, fader := if q.run == 3 then s.rampIn faderOff else faderOff })
      let s := s.cond (o == 2 && s.inputOn 0) (·.modIn 0 (fun q => { q with fader := s.rampIn q.fader }))
      (s.audRec 3 o.val q.fill q.silent 0).audViews

/-- AUDIO_EXT_LOST (R329, R530): the external input is lost; masters and SPDO fade in holdover. -/
def execAudioExtLost (s : State) : Host.Outcome State Fault Refusal :=
  live s fun s =>
    if s.audSrc < 2 || s.is Fld.clkAudStatHoldover || !s.is Fld.clkAudStatLock then s
    else
      let s := (s.flag Fld.clkAudStatExtLost).putB Fld.clkAudStatHoldover true
      let on := s.masters.filter (fun o => (s.outSt o).run == 3)
      let s := s.forEach on (fun s o => s.modOut o (fun q => { q with why := 4, silent := 0, fader := s.fadeOut q.fader }))
      let s := s.modAud (fun a => { a with holdOut := none })
      (s.cond (!on.isEmpty) (·.audRec 7 7 0 0 0)).audViews
/-- AUDIO_HOLDOVER_EXIT (R330): the input has been good for 1024 periods. -/
def execAudioHoldoverExit (s : State) : Host.Outcome State Fault Refusal :=
  live s fun s => s.cond (s.is Fld.clkAudStatHoldover) (fun s => (s.putB Fld.clkAudStatHoldover false).modAud (fun a => { a with holdOut := some 0 }))

/-- The audio ADPLL is gated: masters and SPDO hold their balls low, their FIFOs are emptied (R531). -/
def State.audGate (s : State) (tell : Bool) : State :=
  let on := s.masters
  let s := (s.putB Fld.clkAudStatLock false).modAud (fun a => { a with gated := true, lockFor := none, holdOut := none })
  let s := s.forEach on (fun s o => s.modOut o (fun q => { q with fill := 0, fader := faderOff, silent := 0, why := if q.run == 3 && q.why != 7 then 5 else q.why }))
  (s.cond (tell && on.any (fun o => (s.outSt o).run != 0)) (·.audRec 9 7 0 0 0)).audViews
/-- It has locked: clocks restart, and SPDO begins a new block (R531, R533). -/
def State.audLock (s : State) : State :=
  ((s.putB Fld.clkAudStatLock true).putB Fld.clkAudStatGated false).modAud (fun a => { a with gated := false, lockFor := some 0, block := 192 }) |>.audViews

/-- A change of CLK_AUD_CTL has been written (R330, R324, spec 13 Edges). -/
def State.audClkWritten (s : State) (old : Word) : State :=
  let famNow := s.audFamily
  let famWas := getF old 8 1 == 1
  let srcNow := s.audSrc
  let srcWas := getF old 0 3
  if srcNow == 0 && srcWas != 0 then ((s.putB Fld.clkAudStatHoldover false).putB Fld.clkAudStatGated false).audGate false
  else if srcNow == 0 then s
  else if famNow != famWas && srcWas != 0 then
    let s := ((s.putB Fld.clkAudStatGated true).putB Fld.clkAudStatHoldover false).audGate true
    let out := s.masters.filter (fun o => !famOk famNow (s.outFsel o))
    (s.forEach out (fun s o => (s.stopOutput o 7).flag (cfgErr o))).audViews
  else if srcNow != srcWas then s.putB Fld.clkAudStatHoldover false
  else s

/-- A write of SAPn_CTL (R510, R511): discarded with CFG_ERR, or taken. -/
def State.sapWrite (s : State) (n : Nat) (w : Word) : State :=
  let old := s.rd (Reg.sapCtl n)
  let en := getF old 0 1 == 1
  let en' := getF w 0 1 == 1
  let changes := old.toNat / 2 != w.toNat / 2
  let bad := (en && changes) || (!en && en' && getF w 1 1 == 1 && (!famOk s.audFamily (getF w 6 2) || s.audSrc == 0))
  if bad then s.flag (Fld.sapStatCfgErr n) else s.wr (Reg.sapCtl n) w
/-- A write of SPDO_CTL (R513, R535); CFG_ERR is W1C, CS_LOAD stays until the load. -/
def State.spdoWrite (s : State) (w : Word) : State :=
  let old := s.rd Reg.spdoCtl
  let en := getF old 0 1 == 1
  let en' := getF w 0 1 == 1
  let fs := getF w 4 2
  let bad := (en && fs != getF old 4 2) || (!en && en' && (!famOk s.audFamily fs || s.audSrc == 0))
  if bad then s.flag Fld.spdoCtlCfgErr
  else
    let keep := getF old 12 1 == 1 && getF w 12 1 == 0
    let load := getF w 8 1 == 1 || getF old 8 1 == 1
    let s := s.wr Reg.spdoCtl (packW [(12, 1, b2n keep), (8, 1, b2n load), (4, 2, fs), (2, 1, getF w 2 1), (1, 1, getF w 1 1), (0, 1, b2n en')])
    let cs := (List.range 6).map (fun i => s.rd (Reg.spdoCs i))
    s.modAud (fun a => { a with loadNext := load, active := if !en && en' then cs else a.active })

/-! ### SPDO (R532 to R537) -/

/-- The C bit of frame f of a block in subframe A or B (R534). -/
def State.spdoC (s : State) (f : Nat) (b : Bool) : Bool :=
  let code : Nat := match s.outFsel spdo with
    | 0 => 0b0000 | 1 => 0b0100 | 2 => 0b0001 | _ => 0b0101
  if s.is Fld.spdoCtlAutoFs && 24 ≤ f && f < 28 then tb code (27 - f)
  else if s.is Fld.spdoCtlChnum && 20 ≤ f && f < 24 then tb (if b then 2 else 1) (f - 20)
  else tb ((s.aud.active.getD (f / 32) 0).toNat) (f % 32)
/-- The input that a route plays belongs to a fade, a ramp or a concealed stretch (R536). -/
def State.inputBad (s : State) (r : Route) : Bool :=
  if r.input < 4 then
    let q := s.src (Fin.ofNat 4 r.input)
    q.fader.moves || q.conceal
  else if r.input < 6 then (s.aud.ins[(Fin.ofNat 2 (r.input - 4) : Fin 2)]).fader.moves
  else false
/-- V of a frame of SPDO (R536, R542). -/
def State.spdoV (s : State) : Bool :=
  let q := s.outSt spdo
  let x := q.routes[(0 : Fin 4)]
  q.run != 3 || q.why != 0 || q.fader.moves || x.fader.moves || s.inputBad x.cur
/-- One frame of SPDO. -/
def State.spdoFrame (s : State) : State :=
  let f := s.aud.block
  if 192 ≤ f || s.aud.gated then s
  else (s.emit (.spdo (f == 0) (s.spdoC f false) (s.spdoC f true) s.spdoV)).modAud (fun a => { a with block := f + 1 })

/-- SPDO_BLOCK_START (R533, R535, R553): a waiting template becomes active. -/
def execSpdoBlockStart (s : State) : Host.Outcome State Fault Refusal :=
  inBlock .aud s fun s =>
    if !(s.outSt spdo).en || s.aud.block < 192 || s.aud.gated then s
    else
      let s := s.modAud (fun a => { a with block := 0 })
      if !s.aud.loadNext then s
      else
        let cs := (List.range 6).map (fun i => s.rd (Reg.spdoCs i))
        let d := s.aud.region
        let s := (s.modAud (fun a => { a with active := cs, loadNext := false, region := none })).putB Fld.spdoCtlCsLoad false
        match d with
        | some d => s.regionDone d { status := stOK }
        | none => s

/-! ### SPDI (R538 to R541) -/

/-- SPDI_BLOCK (R538, R539): a complete block, with channel-status bits 0 to 15 of subframe A and V of its first frame. -/
def execSpdiBlock (cs : BitVec 16) (v : Bool) (s : State) : Host.Outcome State Fault Refusal :=
  inBlock .aud s fun s =>
    if !s.is Fld.spdiCtlEn then s
    else
      let s := s.modAud (fun a => { a with spdiBlocks := a.spdiBlocks + 1 })
      if !s.is Fld.spdiStatLock then s
      else
        let was := s.is Fld.spdiStatNonpcm
        let pcm := !tb cs.toNat 1
        let s := (s.put Fld.spdiStatCs cs.toNat).putB Fld.spdiStatValid v
        s.cond (was && pcm) (fun s => (s.putB Fld.spdiStatNonpcm false).modIn 1 (fun q => { q with fader := s.rampIn q.fader }))
/-- SPDI_LOCK (R538): two complete blocks at a rate of SPDI_STAT.RATE. -/
def execSpdiLock (rate : Fin 8) (s : State) : Host.Outcome State Fault Refusal :=
  inBlock .aud s fun s =>
    if !s.is Fld.spdiCtlEn || s.is Fld.spdiStatLock || s.aud.spdiBlocks < 2 || rate == 0 then s
    else
      let s := (s.putB Fld.spdiStatLock true).put Fld.spdiStatRate rate.val
      let s := s.modIn 1 (fun q => { q with why := 0, erased := 0, fader := s.rampIn q.fader })
      s.audRec 10 5 (s.aud.ins[(1 : Fin 2)]).fill 0 rate.val
/-- SPDI_LOSS (R538). -/
def execSpdiLoss (s : State) : Host.Outcome State Fault Refusal :=
  inBlock .aud s fun s =>
    let s := s.modAud (fun a => { a with spdiBlocks := 0 })
    if !s.is Fld.spdiStatLock then s
    else
      let s := (((s.putB Fld.spdiStatLock false).flag Fld.spdiStatLost).put Fld.spdiStatRate 0).putB Fld.spdiStatNonpcm false
      (s.modIn 1 (fun q => { q with fader := faderOff, erased := 0 })).audRec 11 5 (s.aud.ins[(1 : Fin 2)]).fill 0 0
/-- SPDI_NONPCM (R539): channel-status bit 1 of the last block is 1; the input stops delivering, and its routes fade out. -/
def execSpdiNonpcm (s : State) : Host.Outcome State Fault Refusal :=
  inBlock .aud s fun s =>
    if !s.is Fld.spdiStatLock || s.is Fld.spdiStatNonpcm || !tb (s.get Fld.spdiStatCs) 1 then s
    else ((s.putB Fld.spdiStatNonpcm true).modIn 1 (fun q => { q with fader := s.fadeOut q.fader })).audRec 12 5 (s.aud.ins[(1 : Fin 2)]).fill 0 0
/-- SPDI_ERASURE (R540): a subframe with a parity error, or with V = 1. -/
def execSpdiErasure (parity : Bool) (s : State) : Host.Outcome State Fault Refusal :=
  inBlock .aud s fun s =>
    if !s.is Fld.spdiStatLock || (!parity && s.is Fld.spdiCtlIgnoreV) then s
    else
      let s := s.flag (if parity then Fld.spdiStatParErr else Fld.spdiStatBadV)
      let q := s.aud.ins[(1 : Fin 2)]
      let n := if q.fresh then q.erased else q.erased + 1
      s.modIn 1 (fun q => { q with fresh := true, erased := n, fader := if 8 < n then s.fadeOut q.fader else q.fader })

/-! ### The frame boundary (R510, R515, R521 to R531, R542) -/

/-- EN of an output takes effect (R510, R542). -/
def State.outEnable (s : State) (o : Fin 4) : State :=
  let q := s.outSt o
  let en := s.outEn o
  if en == q.en then s
  else if !en then (s.stopOutput o 0).modOut o (fun q => { q with en := false })
  else
    let arm := tb (s.get Fld.audStartCtlArm) o.val
    let s := s.modOut o (fun q => { q with en := true, armed := arm, run := if arm then 1 else 2, why := 0
                                           startAt := if arm then none else some ((s.clk.audFrame + 1) % 2 ^ 32) })
    s.cond (o == spdo) (·.modAud (fun a => { a with block := 192 }))

/-- One count of an output: its FIFO, its level and its routes' levels. With the audio engine's requester retired no frame reaches it
(Table 15.4). -/
def State.outFrame (s : State) (o : Fin 4) (w : AudFlow) : State :=
  let q := s.outSt o
  if !q.en || (s.outMaster o && s.aud.gated) then s
  else
    let n := if s.outMaster o then s.outMult o else w.taken
    let takes := q.run == 3 && (q.why == 0 || q.why == 4 || q.fader.mode == 2)
    let filled := if s.reqRetired 3 then q.fill else min 2048 (q.fill + w.come)
    let fill := if q.why == 3 then 1024 else if takes then filled - n else filled
    let stepN (f : Fader) : Fader := (List.range n).foldl (fun f _ => s.fadeStep f) f
    let s := s.modOut o (fun q => { q with fill := fill, fader := stepN q.fader, routes := q.routes.map (fun x => { x with fader := stepN x.fader })
                                           silent := if q.why != 0 && q.fader.mode == 0 then q.silent + n else q.silent })
    s.cond (o == spdo) (fun s => s.forEach (List.range n) (fun s _ => s.spdoFrame))

/-- One count of an input. -/
def State.inFrame (s : State) (i : Fin 2) (w : AudFlow) : State :=
  let q := s.aud.ins[i]
  let fill := if s.inputOn i then min 2048 (q.fill + w.come) - w.taken else 0
  let back := i == 1 && !q.fresh && 8 < q.erased && s.inputOn i
  s.modIn i (fun q => { q with fill := fill, fader := if back then s.rampOver (s.fadeStep q.fader) 1024 else s.fadeStep q.fader
                               erased := if q.fresh then q.erased else if back && q.fader.mode == 2 then q.erased else 0, fresh := false
                               silent := if q.why != 0 && q.fader.mode == 0 then q.silent + 1 else q.silent })

/-- Time since holdover and gating ended; masters return 50 ms after holdover (R530). -/
def State.audTimes (s : State) : State :=
  let s := s.modAud (fun a => { a with lockFor := a.lockFor.map (· + 1), holdOut := a.holdOut.map (· + 1) })
  match s.aud.holdOut with
  | some n =>
    if n < s.count50 then s
    else
      let on := s.masters.filter (fun o => (s.outSt o).why == 4)
      let s := s.forEach on (fun s o => s.modOut o (fun q => { q with why := 0, silent := 0, fader := s.rampIn q.fader }))
      (s.modAud (fun a => { a with holdOut := none })).cond (!on.isEmpty) (·.audRec 8 7 0 0 0)
  | none => s

/-- AUDIO_FRAME_BOUNDARY (R515): the counter advances; `flows` tells the FIFOs of the four outputs, of SAP2's input and of SPDI. -/
def execAudioFrameBoundary (flows : List AudFlow) (s : State) : Host.Outcome State Fault Refusal :=
  live s fun s =>
    let w (i : Nat) : AudFlow := flows.getD i ⟨0, 0⟩
    let s := s.modClk (fun c => { c with audFrame := (c.audFrame + 1) % 2 ^ 32 })
    let s := s.cond (s.free? .bcst) (fun s => s.forEach allPaths State.srcFrame)
    s.cond (s.runs && s.free? .aud) fun s =>
      let s := s.audTimes
      let s := s.forEach allPaths State.outEnable
      let s := s.forEach allPaths (fun s o =>
        s.cond ((s.outSt o).run == 2 && !(s.outSt o).armed && (s.outSt o).startAt == some s.clk.audFrame) (·.startOutput o))
      let s := s.forEach allPaths (fun s o => s.outFrame o (w o.val))
      ((s.inFrame 0 (w 4)).inFrame 1 (w 5)).audViews

/-- A SYNC moves the audio output dividers: running masters send a frame with zeros and ramp in (R551). -/
def State.audSync (s : State) : State :=
  let on := s.masters.filter (fun o => (s.outSt o).run == 3 && (s.outSt o).why == 0)
  s.forEach on (fun s o => s.modOut o (fun q => { q with fader := s.rampIn faderOff }))

/-! ### A held block (R552) -/

/-- The AUD block is held: every port stops, routes read silence, AUDIO_ROUTE and region 4 complete PEER_RESET. -/
def State.audHeld (s : State) : State :=
  let ds := allPaths.flatMap (fun o => (s.outSt o).queue.map (·.1))
  let r := s.aud.region
  let s := s.modAud (fun a => { audReset with gated := a.gated, lockFor := a.lockFor })
  let s := s.forEach ds (fun s d => s.finish d stPeerReset)
  match r with
  | some d => s.regionDone d { status := stPeerReset }
  | none => s

end Sys2Proof.Machine
end

