-- ==== Sys2Proof/Machine/Load.lean ====
section
/-! DEFINITION. Images: their loads, their checks, and the start of the pair (spec 03, R74 to R92, R110 to R112). -/

namespace Sys2Proof.Machine

/-! ### Images as words -/

/-- Highest length of an image with its header (R78, R83). -/
def imgMax : Img → Nat
  | .svc => 1048640
  | .seq => 262208
/-- Highest LENGTH of a header (Table 3.3). -/
def payMax (g : Img) : Nat := imgMax g - 64
/-- BOOT_MISMATCH.IMAGE of an image. -/
def imgCode : Img → Nat
  | .svc => 1
  | .seq => 2
def State.img (s : State) : Img → List (Nat × Word)
  | .svc => s.boot.svcImg
  | .seq => s.boot.seqImg
/-- Word `i` of an image; one that was never written is undefined (R82). DESIGN CHOICE, log 14. -/
def State.imgWord (s : State) (g : Img) (i : Nat) : Word := Sparse.get (Config.stagedWord (imgCode g)) (s.img g) i
/-- Set words of an image from a word index on. -/
def State.setImg (s : State) (g : Img) (i : Nat) (ws : List Word) : State :=
  let put (m : List (Nat × Word)) : List (Nat × Word) := ws.zipIdx.foldl (fun m w => Sparse.insert m (i + w.2) w.1) m
  s.modBoot (fun b => match g with
    | .svc => { b with svcImg := put b.svcImg }
    | .seq => { b with seqImg := put b.seqImg })
/-- The images are lost. -/
def State.dropImages (s : State) : State := s.modBoot (fun b => { b with svcImg := [], seqImg := [] })

/-- A header field (Table 3.6). -/
def State.hdr (s : State) (g : Img) (w lo n : Nat) : Nat := getF (s.imgWord g w) lo n
def State.imgLen (s : State) (g : Img) : Nat := (s.imgWord g 5).toNat
/-- Words `[a, a + n)` of an image. -/
def State.imgWords (s : State) (g : Img) (a n : Nat) : List Word := (List.range n).map (fun i => s.imgWord g (a + i))
/-- The CRC of an image over its header up to 0x3B and its payload (R110, R112). -/
def State.imgCrc (s : State) (g : Img) : Word :=
  crc32 (wordsBytes (s.imgWords g 0 15 ++ s.imgWords g 16 (s.imgLen g / 4)))

/-! ### The checks (R84, R85, Table 3.3) -/

def heldCrc : Nat := 1
def heldStep : Nat := 2
def heldIfg : Nat := 3

/-- Checks 1 and 2. -/
def State.headerOk (s : State) (g : Img) : Bool :=
  let len := s.imgLen g
  let written := match g with
    | .svc => (s.rd Reg.bootSvcLen).toNat
    | .seq => (s.rd Reg.bootSeqLen).toNat
  (s.imgWord g 0).toNat == 0x4D495950 && s.hdr g 1 0 8 == imgCode g && s.hdr g 1 8 8 == 1
    && len != 0 && len % 4 == 0 && decide (len ≤ payMax g) && (s.source != 0 || written == len + 64)
/-- Checks 5 and 6: the bit of the running step (R85). -/
def State.stepOk (s : State) (g : Img) : Bool :=
  let t := s.rd Reg.topStep
  (s.imgWord g 4).getLsbD (4 * (getF t 4 4 - 0xA) + getF t 0 4)
/-- Check 7. -/
def State.ifgOk (s : State) : Bool :=
  let a := s.hdr .svc 3 0 8
  let b := s.hdr .seq 3 0 8
  decide (s.hdr .seq 3 8 8 ≤ a) && decide (a ≤ s.hdr .seq 3 16 8) && decide (s.hdr .svc 3 8 8 ≤ b) && decide (b ≤ s.hdr .svc 3 16 8)

/-- How many checks pass before the first that fails, and its code and image. -/
def State.checkImages (s : State) : Nat × Option (Nat × Nat) :=
  if !s.headerOk .svc then (0, some (heldCrc, 1))
  else if !s.headerOk .seq then (1, some (heldCrc, 2))
  else if s.imgCrc .svc != s.imgWord .svc 15 then (2, some (heldCrc, 1))
  else if s.imgCrc .seq != s.imgWord .seq 15 then (3, some (heldCrc, 2))
  else if !s.stepOk .svc then (4, some (heldStep, 1))
  else if !s.stepOk .seq then (5, some (heldStep, 2))
  else if !s.ifgOk then (6, some (heldIfg, 3))
  else (7, none)

/-! ### Running and HELD -/

def State.setPhase (s : State) (p : Nat) : State := s.put Fld.bootStatPhase p
/-- BOOT_CTL.START clears: the load has ended. -/
def State.loadEnds (s : State) : State :=
  (s.putB Fld.bootCtlStart false).modBoot (fun b => { b with fetch := none })

/-- The pair starts (R75, R91, R144): radios stand in SLEEP, the ring engine is disabled, as reset left them. A member tells the head in
its next HELLO (R99); a head of one forms epoch 1 (R101). The roster's place is then told (R732). -/
def State.startPair (s : State) (pushed untested : Bool) : State :=
  let s := ((s.loadEnds).setPhase phRun).putB Fld.bootStatPushed pushed
  let s := s.wr Reg.bootIfg (packW [(24, 8, s.hdr .svc 3 16 8), (16, 8, s.hdr .svc 3 8 8), (8, 8, s.hdr .seq 3 0 8), (0, 8, s.hdr .svc 3 0 8)])
  let s := (s.flag Fld.spiStatBootDone).cond untested (·.flag Fld.topStatusUntested)
  let s := s.cond s.head (·.wr Reg.svcRosterBase Config.rosterBase)
  (s.modBoot (fun b => { b with helloDue := !s.head && !b.refused })).epochOne []

/-- The device enters HELD, or starts the pair under FORCE_UNTESTED (R86, R88, R89). `force` is the bit in force: the member's own or
the push's (R98). A pushed pair with HELD_CRC returns the member to WAIT_IMAGES (R98). -/
def State.hold (s : State) (code image : Nat) (fetch pushed force : Bool) : State :=
  let s := ((s.put Fld.bootMismatchCode code).put Fld.bootMismatchImage image).putB Fld.bootMismatchFetch fetch
  if force && code != heldCrc then s.startPair pushed true
  else
    let s := s.loadEnds.setPhase (if pushed && code == heldCrc then phWait else phHeld)
    s.modBoot (fun b => { b with helloDue := !s.head && !b.refused })

/-- The boot ROM checks the pair and starts or holds it (R84). -/
def State.judgeImages (s : State) (pushed force : Bool) : State :=
  let r := s.checkImages
  let s := s.setPhase phCheck
  let s := s.cond (decide (1 ≤ r.1)) (·.wr Reg.bootSvcVer (s.imgWord .svc 2))
  let s := s.cond (decide (2 ≤ r.1)) (·.wr Reg.bootSeqVer (s.imgWord .seq 2))
  let s := s.cond (decide (3 ≤ r.1)) (·.wr Reg.bootSvcCrc (s.imgWord .svc 15))
  let s := s.cond (decide (4 ≤ r.1)) (·.wr Reg.bootSeqCrc (s.imgWord .seq 15))
  match r.2 with
  | none => s.startPair pushed false
  | some (c, i) => s.hold c i false pushed force

/-! ### Fetching (R77 to R80, R863) -/

/-- Requests for `len` bytes of an image at `addr` from offset `off` on: at most `mrrs` bytes each, none across a 4 KiB boundary. DEDUCED, log 36. -/
def imgReqs : Nat → Img → Nat → Nat → Nat → Nat → List ReadReq
  | 0, _, _, _, _, _ => []
  | n + 1, g, addr, mrrs, off, left =>
    if left == 0 then []
    else
      let k := min (min mrrs (4096 - (addr + off) % 4096)) left
      ⟨g, off, k⟩ :: imgReqs n g addr mrrs (off + k) (left - k)

/-- Host address and length to fetch of an image (R78). -/
def State.imgAt (s : State) : Img → Nat × Nat
  | .svc => (s.get Fld.bootSvcAddrLoAddr * 64 + (s.rd Reg.bootSvcAddrHi).toNat * 2 ^ 32, min (imgMax .svc) (s.rd Reg.bootSvcLen).toNat)
  | .seq => (s.get Fld.bootSeqAddrLoAddr * 64 + (s.rd Reg.bootSeqAddrHi).toNat * 2 ^ 32, min (imgMax .seq) (s.rd Reg.bootSeqLen).toNat)

/-- Issue reads while fewer than 32 are outstanding; without Bus Master Enable the load fails (R77, R80, R863). Once none is left, the
checks run, or HELD_CRC with FETCH. DEDUCED, log 36. -/
def State.fetchStep (s : State) : State :=
  match s.boot.fetch with
  | none => s
  | some f =>
    let f := match f.failed, f.todo with
      | none, r :: _ => if s.pcie.busMaster then f else { f with failed := some r.img }
      | _, _ => f
    let n := if f.failed.isSome then 0 else 32 - f.out.length
    let go := f.todo.take n
    let s := s.emits (go.map (fun r => .hostRead ((s.imgAt r.img).1 + r.off) r.bytes))
    let f := { f with out := f.out ++ go, todo := if f.failed.isSome then [] else f.todo.drop n }
    let s := s.modBoot (fun b => { b with fetch := some f })
    if !f.out.isEmpty || !f.todo.isEmpty then s
    else match f.failed with
      | some g => s.hold heldCrc (imgCode g) true false false
      | none => s.judgeImages false (s.is Fld.bootCtlForceUntested)

/-- A load starts (R74, R82): CODE, IMAGE and FETCH return to 0. -/
def State.startLoad (s : State) : State :=
  let s := s.wr Reg.bootMismatch (s.rd Reg.bootMismatch &&& 0xFFFEFFC0#32)
  if s.source == 0 then
    let a := s.imgAt .svc
    let b := s.imgAt .seq
    let m := max 128 s.pcie.mrrs
    let s := s.dropImages.setPhase phFetch
    (s.modBoot (fun q => { q with fetch := some ⟨[], imgReqs (a.2 / 64 + 1) .svc a.1 m 0 a.2 ++ imgReqs (b.2 / 64 + 1) .seq b.1 m 0 b.2, none⟩ })).fetchStep
  else s.judgeImages false (s.is Fld.bootCtlForceUntested)

/-- PHASE enters WAIT_IMAGES: a START that was held begins the load (R69, R865); a member that joins a Lace
owes a HELLO (R94); after a wake from D4, PWR_WAKE_SRC shows its events (R782). -/
def State.waitImages (s : State) : State :=
  let s := (s.setPhase phWait).modBoot (fun b => { b with helloDue := !s.head && !b.refused })
  let s := (s.orF Fld.pwrWakeSrcSrc s.pwr.d4Wake).modPwr (fun p => { p with d4Wake := 0 })
  s.cond (s.is Fld.bootCtlStart) (·.startLoad)

/-- BOOT_CTL has been written: START (R74, R108, R109, R865), which has no effect on a device that receives from the head; a held pair
starts once FORCE_UNTESTED reads 1 (R88). -/
def State.bootCtl (s : State) (start : Bool) : State :=
  let s := s.cond (start && s.source != 2 && !s.is Fld.bootCtlStart) fun s =>
    if s.phase == phROM then s.putB Fld.bootCtlStart true
    else if s.phase == phWait || s.phase == phHeld then (s.putB Fld.bootCtlStart true).startLoad
    else s
  let c := s.get Fld.bootMismatchCode
  s.cond (s.phase == phHeld && s.is Fld.bootCtlForceUntested && (c == heldStep || c == heldIfg)) (fun s => s.startPair (s.source == 2) true)

/-- A word written into the window (R81, R83). -/
def State.windowWrite (s : State) (w : Word) : State :=
  let off := 4 * s.get Fld.bootWinAddrOffset
  let t := s.get Fld.bootWinAddrTarget
  let g : Img := if t == 2 then .seq else .svc
  if t == 0 || t == 3 || imgMax g ≤ off then s.flag Fld.bootStatWinErr
  else (s.setImg g (off / 4) [w]).put Fld.bootWinAddrOffset (off / 4 + 1)

/-! ### The commands -/

/-- IMAGE_READ_COMPLETE (R80, R863): the outstanding request at a place of the list ends with its data, or fails. -/
def execImageReadComplete (i : Nat) (data : Option (List Word)) (s : State) : Host.Outcome State Fault Refusal :=
  live s fun s =>
    match s.boot.fetch with
    | none => s
    | some f =>
      match f.out[i]? with
      | none => s
      | some r =>
        let f := { f with out := f.out.eraseIdx i, failed := if data.isNone && f.failed.isNone then some r.img else f.failed }
        let s := s.modBoot (fun b => { b with fetch := some f })
        let s := match data with
          | some ws => s.setImg r.img (r.off / 4) (ws.take ((r.bytes + 3) / 4))
          | none => s
        s.fetchStep

/-- BUS_MASTER_CLEAR (R77): the load ends, naming the image of the read that could not be issued, or else of the oldest one in flight. -/
def execBusMasterClear (s : State) : Host.Outcome State Fault Refusal :=
  live s fun s =>
    let s := s.modPcie (fun p => { p with busMaster := false })
    match s.boot.fetch with
    | none => s
    | some f =>
      let g := match f.failed with
        | some g => some g
        | none => ((f.todo ++ f.out).head?).map (·.img)
      (s.modBoot (fun b => { b with fetch := some { f with failed := g, todo := [] } })).fetchStep

/-- R864: PERST_N or function level reset during FETCH ends the load; reads in flight are discarded. -/
def State.fetchAbort (s : State) : State := s.cond (s.phase == phFetch) (fun s => s.loadEnds.setPhase phWait)

/-! ### Joining a Lace (R93 to R102) -/

/-- HELLO_SEND (R94, R645, R680, Table 16.9). -/
def execHelloSend (s : State) : Host.Outcome State Fault Refusal :=
  live s fun s =>
    if s.head || s.phase == phROM || !s.boot.helloDue || s.boot.refused || !allLinks.any (fun k => s.trained k) then s
    else
      let run := s.phase == phRun
      let tag := (s.boot.helloTag + 1) % 65536
      let s := (s.incSat Fld.bootStatHelloCnt).modBoot (fun b => { b with helloTag := tag })
      s.bootMsg s.headNo msgHello tag
        [packW [(20, 6, s.me), (16, 4, s.phase), (12, 4, s.get Fld.bootMismatchCode), (10, 2, s.get Fld.bootMismatchImage),
                (8, 1, b2n (s.is Fld.topStatusUntested)), (0, 8, (s.rd Reg.topStep).toNat)],
         if run then s.rd Reg.bootSvcCrc else 0, if run then s.rd Reg.bootSeqCrc else 0,
         BitVec.ofNat 32 Config.unique.toNat, BitVec.ofNat 32 (Config.unique.toNat / 2 ^ 32)]

/-- An image of the head's pair as a push carries it: padded to 32 bytes (Table 16.11). -/
def State.pushImage (s : State) (g : Img) : List Word :=
  let n := (s.imgLen g + 64) / 4
  s.imgWords g 0 n ++ List.replicate ((8 - n % 8) % 8) 0

/-- The head starts a push of its own pair (R95, R96). -/
def State.startPush (s : State) : State :=
  let no := (s.boot.pushNo + 1) % 256
  let s := s.modBoot (fun b => { b with pushing := true, pushPending := false, pushNo := no })
  s.bootMsg 63 msgPush 0
    ([packW [(8, 8, no), (0, 1, b2n (s.is Fld.bootCtlForceUntested))], BitVec.ofNat 32 (s.imgLen .svc + 64), BitVec.ofNat 32 (s.imgLen .seq + 64),
      0, 0, 0, 0] ++ s.pushImage .svc ++ s.pushImage .seq)

/-- A member is refused: the head records it (R100). -/
def State.refuse (s : State) (m : Nat) : State := (s.put Fld.bootMismatchMember m).flag Fld.bootMismatchRefused

/-- HELLO_RECEIVE (R93, R95, R99 to R102, R682, Table 16.10). DEDUCED, log 44. -/
def execHelloReceive (member phase : Nat) (untested : Bool) (svcCrc seqCrc : Word) (uid : BitVec 64) (tag : Nat) (faults : List LinkFault)
    (s : State) : Host.Outcome State Fault Refusal :=
  live s fun s =>
    let answer (s : State) (st : Nat) : State :=
      s.bootMsg member msgAnswer tag [packW [(20, 6, member), (0, 8, st)], s.rd Reg.bootSvcCrc, s.rd Reg.bootSeqCrc]
    if !s.head || 64 ≤ member then s
    else if s.phase != phRun then answer s 0x0C
    else if member == s.me || s.boot.ids.any (fun e => e.1 == member && e.2 != uid.toNat) then
      answer ((s.refuse member).memberRec evDupId member) 0x80
    else
      let known (s : State) : State := s.modBoot (fun b => { b with ids := (member, uid.toNat) :: b.ids.filter (·.1 != member)
                                                                    accepted := b.accepted.filter (· != member)
                                                                    untested := b.untested.filter (· != member) })
      if phase == phWait then
        let s := answer (known s) 0x00
        if s.boot.pushing then s.modBoot (fun b => { b with pushPending := true }) else s.startPush
      else if phase == phRun then
        let same := svcCrc == s.rd Reg.bootSvcCrc && seqCrc == s.rd Reg.bootSeqCrc
        if same || s.is Fld.bootCtlForceUntested then
          let s := (known s).modBoot (fun b => { b with accepted := setIns b.accepted member
                                                        untested := if untested || !same then setIns b.untested member else b.untested })
          (answer s 0x00).epochOne faults
        else answer ((s.refuse member).modBoot (fun b => { b with excluded := setIns b.excluded member })) 0x80
      else answer s 0x0C

/-- PUSH_END (R95): a push that waits starts. -/
def execPushEnd (s : State) : Host.Outcome State Fault Refusal :=
  running s fun s =>
    s.cond (s.head && s.boot.pushing) fun s =>
      let s := s.modBoot (fun b => { b with pushing := false })
      s.cond s.boot.pushPending (·.startPush)

/-- ANSWER_RECEIVE (R94, R100, Table 16.10). -/
def execAnswerReceive (member status tag : Nat) (s : State) : Host.Outcome State Fault Refusal :=
  live s fun s =>
    if s.head || member != s.me || tag != s.boot.helloTag then s
    else match status with
      | 0x00 => s.modBoot (fun b => { b with helloDue := false })
      | 0x80 => s.modBoot (fun b => { b with helloDue := false, refused := true })
      | _ => s

/-- PUSH_RECEIVE (R97, R98): a whole push, received from its first flit or not. DEDUCED, log 44. -/
def execPushReceive (first force : Bool) (svc seq : List Word) (s : State) : Host.Outcome State Fault Refusal :=
  live s fun s =>
    if s.source != 2 || s.phase != phWait || !first then s
    else
      let s := s.wr Reg.bootMismatch (s.rd Reg.bootMismatch &&& 0xFFFEFFC0#32)
      ((s.dropImages.setImg .svc 0 svc).setImg .seq 0 seq).judgeImages true (force || s.is Fld.bootCtlForceUntested)

end Sys2Proof.Machine
end

