-- ==== Sys2Proof/Machine/Clocks.lean ====
section
/-! DEFINITION. The reference, the ADPLLs and the members' part of a SYNC (spec 08). -/

namespace Sys2Proof.Machine

/-! ### The reference (R71, R315, R317) -/

/-- REF_DETECT_WINDOW_END (R71): the boot ROM selects REFCLK when it was detected, the crystal otherwise, which stops when it is not kept. -/
def execRefDetectWindowEnd (s : State) : Host.Outcome State Fault Refusal :=
  live s fun s =>
    s.cond (s.phase == phROM && !s.is Fld.clkSysStatLock) fun s =>
      let det := s.is Fld.clkRefSelRefDet
      (s.putB Fld.clkRefSelSel det).cond (det && !s.is Fld.clkSysCtlXtalKeep) (·.putB Fld.clkRefSelXtalRun false)

/-- REFCLK_DETECTED (R315). -/
def execRefclkDetected (s : State) : Host.Outcome State Fault Refusal :=
  live s fun s => s.cond (decide (s.pst < 3)) (·.putB Fld.clkRefSelRefDet true)

/-- REF_DET_FALL (R315, R317). -/
def execRefDetFall (s : State) : Host.Outcome State Fault Refusal := live s (·.putB Fld.clkRefSelRefDet false)

/-- CRYSTAL_STARTED (R315): the oscillator runs while it is selected or kept. -/
def execCrystalStarted (s : State) : Host.Outcome State Fault Refusal :=
  live s fun s => s.cond (decide (s.pst < 3) && (!s.is Fld.clkRefSelSel || s.is Fld.clkSysCtlXtalKeep)) (·.putB Fld.clkRefSelXtalRun true)

/-- The selected reference is there. DEDUCED, log 47. -/
def State.refThere (s : State) : Bool := if s.is Fld.clkRefSelSel then s.is Fld.clkRefSelRefDet else s.is Fld.clkRefSelXtalRun
/-- The crystal stops once REFCLK is selected and it is not kept. -/
def State.crystalStops (s : State) : State :=
  s.cond (s.is Fld.clkRefSelSel && !s.is Fld.clkSysCtlXtalKeep) (·.putB Fld.clkRefSelXtalRun false)

/-! ### Losses and locks (R320 to R325, R339, R340) -/

/-- Flags and FAULT record of a loss: kind 0 of lock, 1 of reference; instance 5 system, 6 audio (R323). -/
def State.clockFault (s : State) (inst kind : Nat) : State :=
  if s.is Fld.clkSysCtlNoRec then s.fltBit Fld.fltStatClock else s.fault 0x02 0 inst kind 0

/-- ALIGNED falls on a member that needs a SYNC to be aligned again (R340). -/
def State.misaligned (s : State) : State := s.cond (!s.head && !s.lnk.loneLace) (·.putB Fld.clkSyncStatAligned false)

/-- The system ADPLL loses lock or reference (R321, R323, Table 8.3). -/
def State.sysLoss (s : State) (kind : Nat) : State :=
  if !s.is Fld.clkSysStatLock || 2 ≤ s.pst then s
  else
    let s := ((s.putB Fld.clkSysStatLock false).putB Fld.clkSysStatGated true).flag (if kind == 0 then Fld.clkSysStatLol else Fld.clkSysStatLor)
    let s := (s.incSat Fld.clkSysStatLossCnt).misaligned
    let s := (s.selfRefresh true).gapAll allPaths
    let s := s.forEach allLinks (fun s k =>
      if s.trained k || s.lnk.links[k].retraining then s.linkLost k 0
      else s.cond (s.linkState k == lkTraining) (·.put (Fld.lnkStatState k.val) lkDown))
    s.clockFault 5 kind

/-- The audio ADPLL loses lock or reference (R321, R323, R531). -/
def State.audLoss (s : State) (kind : Nat) : State :=
  if !s.is Fld.clkAudStatLock || 2 ≤ s.pst || s.audSrc == 0 then s
  else
    let s := (s.flag (if kind == 0 then Fld.clkAudStatLol else Fld.clkAudStatLor)).putB Fld.clkAudStatGated true
    (s.audGate true).clockFault 6 kind

/-- Loss of REF gates every ADPLL at once (R321, R325); ADPLLs stopped on purpose set no flag (R324). Lace time stops. -/
def State.refLoss (s : State) : State :=
  let s := s.forEach allLos (fun s n => s.loLoss n 1)
  let s := (s.sysLoss 1).audLoss 1
  (s.modClk (fun c => { c with refLost := true })).misaligned

/-- ADPLL_LOSS_OF_LOCK (R321). -/
def execAdpllLossOfLock (unit : Fin 7) (s : State) : Host.Outcome State Fault Refusal :=
  live s fun s =>
    if unit.val == 5 then s.sysLoss 0
    else if unit.val == 6 then s.audLoss 0
    else s.cond (s.free? .radio) (·.loLoss (Fin.ofNat 5 unit.val) 0)

/-- ADPLL_LOSS_OF_REF (R321, R325). In D3 the reference is off on purpose (R324). -/
def execAdpllLossOfRef (s : State) : Host.Outcome State Fault Refusal :=
  live s fun s => s.cond (s.clk.synced && !s.clk.refLost && decide (s.pst < 3)) (·.refLoss)

/-- An internal SYNC (R339): the first sets the tile sequence number and Lace time to 0; a later one keeps them. DEDUCED, log 46. -/
def State.internalSync (s : State) : State :=
  let first := !s.clk.synced
  let s := (s.inc Fld.clkSyncStatCount).modClk (fun c => { c with synced := true, refLost := false, arm := none, hit := none
                                                                  audFrame := if first then 0 else c.audFrame })
  let s := s.cond first (fun s => (s.modPip (fun p => { p with cycle := 0 })).setTile 0)
  s.cond (s.head || s.lnk.loneLace) (·.putB Fld.clkSyncStatAligned true)

/-- The system ADPLL locks (R320, R322, R339, R69): at first lock the internal SYNC and WAIT_IMAGES; after a gating the clocks restart,
paths carry GAP until the first tile 270 µs or more after, and links train again. DEDUCED, log 46. -/
def State.sysLock (s : State) (cycle : Nat) : State :=
  let first := !s.clk.synced
  let s := (s.putB Fld.clkSysStatLock true).putB Fld.clkSysStatGated false
  let s := s.cond (first || s.clk.refLost) (·.internalSync)
  if first then s.waitImages
  else
    let s := s.cond (s.pst == 0) (·.selfRefresh false)
    let s := s.forEach allPaths (fun s p => s.cond (s.pathRx p) (·.gapEnd p (s.cleanTile cycle)))
    s.forEach allLinks (fun s k => s.cond (s.linkState k == lkDown) (·.trainLink k))

/-- ADPLL_LOCK (R320, R322), at a cycle of the current tile. -/
def execAdpllLock (unit : Fin 7) (cycle : Nat) (s : State) : Host.Outcome State Fault Refusal :=
  live s fun s =>
    if !s.refThere || 2 ≤ s.pst then s
    else if unit.val == 5 then s.cond (!s.is Fld.clkSysStatLock) (·.sysLock cycle)
    else if unit.val == 6 then s.cond (s.audSrc != 0 && !s.is Fld.clkAudStatLock) (·.audLock)
    else s.cond (s.free? .radio) (·.loRelock (Fin.ofNat 5 unit.val) cycle)

/-- A write of CLK_REF_SEL (R317): SEL at a reference that is not there is discarded with REJ; a change acts as loss of reference. DEDUCED, log 47. -/
def State.refSelect (s : State) (sel : Bool) : State :=
  if (sel && !s.is Fld.clkRefSelRefDet) || (!sel && !s.is Fld.clkRefSelXtalRun) then s.flag Fld.clkRefSelRej
  else if sel == s.is Fld.clkRefSelSel then s
  else
    let s := s.putB Fld.clkRefSelSel sel
    (s.cond (s.clk.synced && !s.clk.refLost) (·.refLoss)).crystalStops

/-! ### SYNC at a member (R332 to R340) -/

/-- SYNC_ARM_RECEIVE (R335): the arm is held, and acknowledged to the head. -/
def execSyncArmReceive (tile frame : Nat) (s : State) : Host.Outcome State Fault Refusal :=
  running s fun s =>
    s.cond (!s.head) fun s =>
      (s.modClk (fun c => { c with arm := some ⟨tile % 2 ^ 32, frame % 2 ^ 32⟩ })).bootMsg s.headNo msgSyncAck 0 [BitVec.ofNat 32 tile]

/-- SYNC_PULSE_SAMPLE (R332, R335, R337): a valid pulse, or one sampled high on a single edge. The ball is ignored in D2 and D3 (R46). -/
def execSyncPulseSample (valid : Bool) (s : State) : Host.Outcome State Fault Refusal :=
  running s fun s =>
    if s.head || s.is Fld.clkSyncCtlInIgnore || 2 ≤ s.pst then s
    else if !valid then s.flag Fld.clkSyncStatGlitch
    else match s.clk.arm with
      | none => s.flag Fld.clkSyncStatUnarmed
      | some a => s.modClk (fun c => { c with arm := none, hit := some a })

/-- A synthesiser whose phase a SYNC moves: gated until it locks again; no flag is set (R338). -/
def State.loMoved (s : State) (n : Fin 5) : State :=
  if s.loState n < stSynth || !s.is (Fld.loStatLock n.val) then s
  else
    let s := (s.putB (Fld.loStatLock n.val) false).modLo n (fun l => { l with gated := true, relock := false })
    (s.gapAll (s.takers n)).cond (n == loT) (·.sendEnds stTimeout)

/-- SYNC_EFFECT (R333, R334, R338, R340, R346, R551): what the SYNC moves: the system ADPLL's dividers, the phase of synthesisers (a mask),
the audio dividers. An aligned member sees no change; any other starts the tile that SYNC_ARM named, with GAP on its paths when its
clocks or its counts moved. -/
def execSyncEffect (movesSys : Bool) (movesLo : Nat) (movesAud : Bool) (s : State) : Host.Outcome State Fault Refusal :=
  running s fun s =>
    match s.clk.hit with
    | none => s
    | some a =>
      let s := (s.modClk (fun c => { c with hit := none })).inc Fld.clkSyncStatCount
      let s :=
        if s.is Fld.clkSyncStatAligned then s
        else
          let jump := s.tile.toNat != a.tile && (s.tile.toNat + 1) % 2 ^ 32 != a.tile
          let s := s.cond (movesSys || movesLo % 32 != 0 || movesAud || jump || s.clk.audFrame != a.frame) (·.flag Fld.clkSyncStatStepped)
          let s := ((s.modPip (fun p => { p with cycle := 0 })).modClk (fun c => { c with audFrame := a.frame })).setTile (BitVec.ofNat 32 a.tile)
          let s := s.cond (movesSys || jump) (·.forEach allPaths (fun s p => s.cond (s.pathRx p) (·.gapEnd p (s.cleanTile 0))))
          let s := s.forEach (allLos.filter (fun n => tb movesLo n.val)) State.loMoved
          (s.cond (movesAud && s.audSrc == 1) (·.audSync)).putB Fld.clkSyncStatAligned true
      s.bootMsg s.headNo msgSyncDone 0 [BitVec.ofNat 32 a.tile]

/-- SYNC_ARM_EXPIRY (R337): 1 ms without a valid pulse. -/
def execSyncArmExpiry (s : State) : Host.Outcome State Fault Refusal :=
  running s fun s =>
    match s.clk.arm with
    | none => s
    | some a =>
      let s := ((s.modClk (fun c => { c with arm := none })).flag Fld.clkSyncStatMissed).putB Fld.clkSyncStatAligned false
      s.bootMsg s.headNo msgSyncMissed 0 [BitVec.ofNat 32 a.tile]

end Sys2Proof.Machine
end

