-- ==== Sys2Proof/Machine/Mon.lean ====
section
/-! DEFINITION. The monitors, the fault manager's timers, the retry of a path and telemetry (spec 20). -/

namespace Sys2Proof.Machine

/-! ### Sensors (R804 to R808, R441) -/

/-- A conversion gives a valid result (R805). -/
def tempOk (t : Option Int) : Option Int := t.filter (fun v => decide (-880 ≤ v) && decide (v ≤ 2800))

/-- One sensor's conversion (R805, R441). -/
def State.sensorStep (s : State) (n : Fin 8) (t : Option Int) : State :=
  let mod (s : State) (f : Sensor → Sensor) : State := s.modFlt (fun q => { q with sensors := upd q.sensors n f })
  match tempOk t with
  | some v =>
    let s := mod s (fun q => { q with failRun := 0, okRun := min 16 (q.okRun + 1) })
    let s := s.cond (s.flt.sensors[n].okRun == 16) (·.putB (Fld.tempFailed n.val) false)
    let held := s.calHoldsSensor n.val && s.is (Fld.tempValid n.val)
    let s := (s.putB (Fld.tempValid n.val) true).putB (Fld.tempStale n.val) held
    s.cond (!held) (·.put (Fld.tempTemp n.val) (unsgn 16 v))
  | none =>
    let s := mod s (fun q => { q with failRun := min 3 (q.failRun + 1), okRun := 0 })
    if s.flt.sensors[n].failRun == 3 && !s.is (Fld.tempFailed n.val) then
      (s.flag (Fld.tempFailed n.val)).fault 0x0E 0 n.val 0 0
    else s

/-- Sensors with a reading that have not failed. -/
def State.goodSensors (s : State) : List Nat := (List.range 8).filter (fun n => s.is (Fld.tempValid n) && !s.is (Fld.tempFailed n))
/-- The hottest of them, the lowest number among equals (R806). -/
def State.hottest (s : State) : Option Nat :=
  s.goodSensors.foldl (fun b n => match b with
    | none => some n
    | some m => if s.temp m < s.temp n then some n else some m) none

/-- JUNCTION_OVERTEMP (R807): posted again only after the sensor it was posted for has read 145 °C or less. DEDUCED, log 68. -/
def State.junction (s : State) : State :=
  let s := s.modFlt (fun f => { f with sensors := Vector.ofFn (fun n : Fin 8 =>
    let q := f.sensors[n]
    { q with hot := q.hot && decide (2320 < s.temp n.val) }) })
  match s.hottest with
  | none => s
  | some n =>
    let i : Fin 8 := Fin.ofNat 8 n
    if decide (2400 < s.temp n) && s.flt.sensors.toList.all (fun q => !q.hot) then
      (s.modFlt (fun f => { f with sensors := upd f.sensors i (fun q => { q with hot := true }) })).fault 0x0B 0 n (unsgn 16 (s.temp n)) 0
    else s

/-- Thermal protection (R808). -/
def State.thermal (s : State) : State :=
  match s.hottest with
  | none => s
  | some n =>
    if !s.protect && decide (2640 < s.temp n) then
      ((s.putB Fld.fltStatProtect true).radiosSleep stTimeout stBusyRetry).fault 0x0C 0 n (unsgn 16 (s.temp n)) 1
    else if s.protect && decide (s.temp n ≤ 2480) then
      (s.putB Fld.fltStatProtect false).fault 0x0C 0 n (unsgn 16 (s.temp n)) 0
    else s

/-! ### Supplies (R809) -/

/-- Operating range of a rail in millivolts (Table 2.1); VDD_IO by TOP_STRAPS.IO_3V3. -/
def State.supplyRange (s : State) (n : Nat) : Nat × Nat :=
  match n with
  | 0 => (1620, 3630)
  | 1 => (720, 780)
  | 2 => (810, 890)
  | 3 => (1140, 1260)
  | 4 => (1710, 1890)
  | 5 => (1710, 3465)
  | 6 => (860, 940)
  | _ => if s.top.straps.io3v3 then (3135, 3465) else (1710, 1890)
/-- EN_RF is high (R41). -/
def State.enRf (s : State) : Bool := decide (s.pst < 2) && !s.pwr.d4
/-- The rail is switched on. -/
def State.railOn (s : State) (n : Nat) : Bool := if n == 3 || n == 5 then s.enRf else true

/-- One supply's conversion, `dt` milliseconds after the last. -/
def State.supplyStep (s : State) (n : Fin 8) (mv dt : Nat) : State :=
  let mod (s : State) (f : SupplyMon → SupplyMon) : State := s.modFlt (fun q => { q with supplies := upd q.supplies n f })
  if !s.railOn n.val then
    mod (((s.put (Fld.supplyMv n.val) 0).putB (Fld.supplyLow n.val) false).putB (Fld.supplyHigh n.val) false) (fun q => { q with inRun := 0 })
  else
    let r := s.supplyRange n.val
    let low := decide (mv < r.1)
    let high := decide (r.2 < mv)
    let s := (s.putB (Fld.supplyValid n.val) true).put (Fld.supplyMv n.val) (min mv 65535)
    let s := (s.putB (Fld.supplyLow n.val) low).putB (Fld.supplyHigh n.val) high
    mod s (fun q => if low || high then { q with inRun := 0 } else { q with inRun := min 10 (q.inRun + dt), posted := q.posted && decide (q.inRun + dt < 10) })

/-- Time and temperatures of the telemetry interval (R812). -/
def State.telemTick (s : State) (dt : Nat) : State :=
  let ts := s.goodSensors.map s.temp
  let first := s.flt.telem.ms == 0
  let hi := ts.foldl max (if first then ts.headD 0 else s.flt.telem.tmax)
  let lo := ts.foldl min (if first then ts.headD 0 else s.flt.telem.tmin)
  s.modTelem (fun t => { t with tmax := hi, tmin := lo, ms := t.ms + dt, d0ms := if s.pst == 0 then t.d0ms + dt else t.d0ms })

/-- SENSOR_CONVERSION (R804 to R809, R365, R434, R608, R613): readings in units of 0.0625 °C, none where a conversion gives no result, and
supplies in millivolts. It tells that 1 ms has passed, 10 ms in D3. -/
def execSensorConversion (temps : List (Option Int)) (mv : List Nat) (s : State) : Host.Outcome State Fault Refusal :=
  live s fun s =>
    let dt := if s.pst == 3 then 10 else 1
    let s := s.modFlt (fun f => { f with ms := f.ms + dt })
    let s := s.put Fld.fltRetireMap3Uid Config.unique.toNat
    let s := (List.finRange 8).foldl (fun s n => s.sensorStep n (temps.getD n.val none)) s
    let s := (List.finRange 8).foldl (fun s n => s.supplyStep n (mv.getD n.val 0) dt) s
    ((s.storeTemp.calDue.calTemp.junction.thermal).telemTick dt)

/-- SUPPLY_RANGE (R809): a switched-on rail has been outside its range for 1 ms. -/
def execSupplyRange (supply : Fin 8) (s : State) : Host.Outcome State Fault Refusal :=
  live s fun s =>
    let out := s.is (Fld.supplyLow supply.val) || s.is (Fld.supplyHigh supply.val)
    if out && !s.flt.supplies[supply].posted then
      (s.modFlt (fun f => { f with supplies := upd f.supplies supply (fun q => { q with posted := true }) })).fault 0x0D 0 supply.val
        (s.get (Fld.supplyMv supply.val)) 0
    else s

/-! ### Telemetry (R812, Table 20.9) -/

/-- TELEMETRY (R812): an interval ends. Counts marked Head read 0 on other members. -/
def execTelemetry (s : State) : Host.Outcome State Fault Refusal :=
  running s fun s =>
    let n := s.get Fld.telemIntervalMs
    if n == 0 then s
    else
      let t := s.flt.telem
      let h (v : Nat) : Nat := if s.head then v else 0
      let pct := if t.ms == 0 then (if s.pst == 0 then 100 else 0) else t.d0ms * 100 / t.ms
      (s.modTelem (fun _ => telemReset)).record 0x0C
        [packW [(24, 8, deg8 t.tmax), (16, 8, deg8 t.tmin), (8, 8, pct), (0, 8, 1)], BitVec.ofNat 32 n, BitVec.ofNat 32 t.crcFail,
         packW [(16, 16, t.verFail), (0, 16, t.noKey)], BitVec.ofNat 32 t.macFail, BitVec.ofNat 32 (h t.replays),
         packW [(16, 16, h t.candDrop), (0, 16, h t.objAbandon)], BitVec.ofNat 32 t.transient, packW [(16, 16, t.suppressed), (0, 16, t.failures)]]

/-! ### The limit on FAULT records (R803) -/

/-- FAULT_SUPPRESS_WINDOW_END (R803): one SUPPRESSED record for a code that was suppressed; it counts against no code. -/
def execFaultSuppressWindowEnd (code : Nat) (s : State) : Host.Outcome State Fault Refusal :=
  live s fun s =>
    let e := takeLimit code s.flt.limits
    if e.suppressed == 0 then s
    else (s.modFlt (fun f => { f with limits := putLimit { e with suppressed := 0 } f.limits })).faultRec 0x11 0 0 e.suppressed code

/-! ### The retry of a path (R787, Table 20.1) -/

def State.setTry (s : State) (p : Fin 4) (v : Nat) : State := s.modFlt (fun f => { f with pathTry := upd f.pathTry p (fun _ => v) })

/-- PATH_STUCK_ERROR (R787): the ADC of a path in RX has delivered one code for 65,536 samples. The path is powered down for one tile; an
error that recurs within 100 ms of the restore is a failure. -/
def execPathStuckError (path : Fin 4) (s : State) : Host.Outcome State Fault Refusal :=
  inBlock .radio s fun s =>
    if !s.pathRx path then s
    else
      let s := s.cond (s.flt.pathTry[path] == 2) (·.fail 0 path.val false)
      if s.pathRetired path then s.setTry path 0
      else ((s.setTry path 1).modPath path (fun q => { q with rxTile := false })).gapStart path

/-- PATH_RETRY_RESTORE (R787, R360), at a cycle of the current tile. -/
def execPathRetryRestore (path : Fin 4) (cycle : Nat) (s : State) : Host.Outcome State Fault Refusal :=
  inBlock .radio s fun s =>
    if s.flt.pathTry[path] != 1 then s
    else
      let s := s.setTry path 2
      s.cond (s.pathRx path) (fun s => s.gapEnd path (s.cleanTile cycle))

/-- PATH_TRANSIENT_WINDOW (R787): 100 ms without recurrence. -/
def execPathTransientWindow (path : Fin 4) (s : State) : Host.Outcome State Fault Refusal :=
  live s fun s => s.cond (s.flt.pathTry[path] == 2) (fun s => (s.setTry path 0).transientErr 0 path.val)

/-! ### The retirement map as written (R107, R797, R798) -/

/-- Instances of a map register, bit by bit: bit, class, instance. -/
def mapBits (n : Nat) : List (Nat × Nat × Nat) :=
  match n with
  | 0 => (List.range 4).map (fun i => (i, 0, i)) ++ (List.range 5).map (fun i => (8 + i, 1, i))
      ++ (List.range 8).map (fun i => (16 + i, 2, i)) ++ (List.range 4).map (fun i => (24 + i, 3, i))
  | 1 => (List.range 8).map (fun i => (i, 4, i)) ++ (List.range 9).map (fun i => (16 + i, 5, i))
  | _ => (List.range 9).map (fun i => (i + 1, 6, i + 1))
/-- A write of 1 to a bit retires its instance with CAUSE = MAP. -/
def State.mapWrite (s : State) (n : Nat) (w : Word) : State :=
  s.forEach ((mapBits n).filter (fun b => w.getLsbD b.1)) (fun s b => s.retire b.2.1 b.2.2 1 0)

end Sys2Proof.Machine
end

