-- ==== Sys2Proof/Machine/Exch.lean ====
section
/-! DEFINITION. The all-to-all exchange (spec 17): definitions, starts and stops, tiles between members, the survey with its adders, and
beams at the owner. -/

namespace Sys2Proof.Machine

/-! ### Definitions (R687 to R697, R728) -/

/-- Contribution mask of a member in a region 1 map (Table 17.6): 0xF without masks. -/
def mapMask (ws : List Word) (m : Nat) : Nat := if getF (ws.getD 0 0) 0 1 == 1 then getF (ws.getD (17 + m / 8) 0) (4 * (m % 8)) 4 else 15

/-- Paths in a mask. -/
def popc (m : Nat) : Nat := (bitsOf 4 m).length
/-- Flits that a message of a slot from a member takes (R694). -/
def exchFlits (xid mask : Nat) : Nat := if xid == 0 then 2 + 32 * popc mask else 2

/-- The octets that one member owns in a definition. -/
def ExchDef.ownedBy (e : ExchDef) (m : Nat) : List Nat := e.octets.filter (fun o => e.owners.getD o 64 == m)
def ExchDef.mask (e : ExchDef) (m : Nat) : Nat := e.masks.getD m 0

/-- Loads of link directions: add flits along a path from a position. -/
def addLoad (h : Shape) (n : Nat) : List Nat → Nat × Nat → List ((Nat × Nat) × Nat) → List ((Nat × Nat) × Nat)
  | [], _, acc => acc
  | l :: ls, p, acc =>
    let m := (h.at? p).getD 64
    let old := ((acc.find? (·.1 == (m, l))).map (·.2)).getD 0
    addLoad h n ls ((h.step p l).getD p) (((m, l), old + n) :: acc.filter (·.1 != (m, l)))

/-- The exchange load F with the direction that carries it (R695): the lowest member and link of those that tie. -/
def State.exchLoad (s : State) (e : ExchDef) (xid : Nat) : Nat × Nat × Nat :=
  let ms := s.memberList
  let pairs := ms.flatMap (fun a => ms.filterMap (fun b => if a == b || e.mask a == 0 then none else some (a, b)))
  let loads := pairs.foldl (fun acc (a, b) =>
    let n := (e.ownedBy b).length * exchFlits xid (e.mask a)
    if n == 0 then acc
    else addLoad s.shape n ((routePath s.shape s.lnk.routes s.breakPairs 16 (s.pos a) (s.pos b)).getD []) (s.pos a) acc) []
  loads.foldl (fun (f : Nat × Nat × Nat) e =>
    if f.1 < e.2 || (f.1 == e.2 && (e.1.1 < f.2.1 || (e.1.1 == f.2.1 && e.1.2 < f.2.2))) then (e.2, e.1.1, e.1.2) else f) (0, s.me, 0)

/-- The largest window total of any member (R696). -/
def State.exchWindow (s : State) (e : ExchDef) : Nat :=
  let ms := s.memberList
  ms.foldl (fun w m => max w ((e.ownedBy m).length * (ms.filter (fun a => a != m && e.mask a != 0)).length * 4 * 4160)) 0

/-- The definition that an EXCH_DEFINE makes of an octet set (R688 to R691), before its load. -/
def State.exchMake (s : State) (octets : Nat) (var : Bool) (arrive : Nat) : ExchDef :=
  let os := bitsOf 64 octets
  let map := if var then s.exch.map else none
  { epoch := s.epoch, octets := os, kind := b2n var, arrive := arrive, load := 0, loadMember := s.me, loadLink := 0, window := 0
    owners := (List.range 64).map (fun o => if !os.contains o then 64 else match map with
      | some ws => mapOwner ws o
      | none => s.defaultOwner os o)
    masks := (List.range 64).map (fun m => if !s.isMember m then 0 else match map with
      | some ws => mapMask ws m
      | none => 15) }

/-- ADD mode is retired here (R717). -/
def State.addGone (s : State) : Bool := s.is Fld.fltRetireMap3AddRetired
/-- A member cannot take an octet of a slot: its exchange ingress, or for the survey ADD mode, is retired (R629, R717). `barred` names the
others of the epoch. -/
def State.cannotOwn (s : State) (xid : Nat) (barred : List Nat) (m : Nat) : Bool :=
  if m == s.me then s.reqRetired 1 || (xid == 1 && s.addGone) else barred.contains m

/-- Show the octets owned under XID 0's definition. -/
def State.putOwned (s : State) : State :=
  s.put Fld.exchStatOwned (match s.exch.def0 with
    | some e => (e.ownedBy s.me).length % 64
    | none => 0)

/-- EXCH_DEFINE (R688 to R696, R717). A member other than the head takes the head's octet set with the descriptor. DEDUCED, log 63. -/
def execExchDefine (d : Desc) (barred : List Nat) (s : State) : Host.Outcome State Fault Refusal :=
  running s fun s =>
    s.taking 0x30 d fun s => s.needBlk .exch d fun s =>
      let xid := d.f 1 0 2
      let var := d.f 1 4 1 == 1
      let octets := if s.head then s.samp.octets else (d.w 10).toNat + (d.w 11).toNat * 2 ^ 32
      let ep := d.f 2 0 16
      let e := s.exchMake octets var (d.f 1 8 2)
      let m := s.memberList.length
      if !s.head then ((s.setDef xid (some e)).putOwned).partDone d { status := stOK }
      else if m == 0 || (ep != 0 && ep != s.epoch) then s.finish d stEpochMismatch
      else if (s.exchRun xid).isSome then s.finish d stBusyRetry
      else if e.octets.isEmpty then s.bad d 0x6B
      else if (!var && e.octets.length % m != 0) || e.octets.any (fun o => !s.isMember (e.owners.getD o 64)) then s.bad d 0x68
      else if s.memberList.any (fun k => s.cannotOwn xid barred k && !(e.ownedBy k).isEmpty) then s.finish d stRetired
      else
        let win := if xid == 0 then s.exchWindow e else 0
        if 2097152 < win then s.bad d 0x69
        else
          let f := s.exchLoad e xid
          let e := { e with load := f.1, loadMember := f.2.1, loadLink := f.2.2, window := win }
          let s := (s.commit d).laceAll d [BitVec.ofNat 32 octets, BitVec.ofNat 32 (octets >>> 32)]
          ((s.setDef xid (some e)).putOwned).partDone d
            { status := stOK, r0 := BitVec.ofNat 32 f.1, r1 := packW [(8, 6, f.2.1), (0, 2, f.2.2)], r2 := BitVec.ofNat 32 win
              r3 := BitVec.ofNat 32 e.octets.length }

/-! ### Starting and stopping (R698 to R701) -/

/-- A source's confirmation, for the head; the first tile period, and the last, from the head. Their forms are this model's. -/
def msgConfirm : Nat := 0x57
def msgFirst : Nat := 0x58
def msgLast : Nat := 0x59
/-- A member's EXCH block is held (R724). -/
def msgExchHeld : Nat := 0x5A

def State.modRun (s : State) (xid : Nat) (f : ExchRun → ExchRun) : State := s.setRun xid ((s.exchRun xid).map f)

/-- One acknowledgement flit (R727, Table 17.5): TYPE 1 POST, 2 ACK, 3 NACK, 4 LATE. -/
def State.exchAck (s : State) (peer typ xid octet tile : Nat) : State :=
  let rel := if typ == 1 then (tile + 2 ^ 32 - 1) % 2 ^ 32 else ((s.exch.freed.find? (·.1 == octet)).map (·.2)).getD 0
  s.sendMsg { dst := peer, src := s.me, kind := 1, code := 0, tag := 0
              words := [packW [(28, 4, typ), (24, 1, xid), (0, 6, octet)], BitVec.ofNat 32 tile, BitVec.ofNat 32 rel] }

/-- The first tile period is fixed (R698): the exchange will carry it and, with COUNT, a last one. -/
def State.fixFirst (s : State) (xid first : Nat) : State :=
  let s := s.modRun xid (fun r => { r with first := some first, last := if r.count == 0 then r.last else some ((first + r.count - 1) % 2 ^ 32) })
  s.modExch (fun e => if xid == 0 then
    let before := (first + 2 ^ 32 - 1) % 2 ^ 32
    match e.def0 with
    | some d => { e with released := d.octets.map (·, before), freed := d.octets.map (·, before) }
    | none => e
  else e)

/-- Every source has confirmed (R698): the head settles S, or the START_SEQ given is too early. -/
def State.allConfirmed (s : State) (xid : Nat) : State :=
  match s.exchRun xid with
  | none => s
  | some r =>
    let early := s.bound100
    if r.reqStart != 0 && seqLater early r.reqStart then
      let s := (s.setRun xid none).tellOthers msgLast [BitVec.ofNat 32 xid, s.tile]
      match r.desc with
      | some d => s.bad d 0x42
      | none => s
    else
      let f := if r.reqStart == 0 then early else r.reqStart
      (s.fixFirst xid f).tellOthers msgFirst [BitVec.ofNat 32 xid, BitVec.ofNat 32 f]

/-- A source holds the POST of every owner: it confirms to the head. -/
def State.confirmSource (s : State) (xid m : Nat) : State :=
  if s.head then
    let s := s.modRun xid (fun r => { r with confirms := r.confirms.filter (· != m) })
    match s.exchRun xid with
    | some r => s.cond (r.confirms.isEmpty && r.first.isNone) (·.allConfirmed xid)
    | none => s
  else s.sendReq { dst := s.headNo, src := s.me, kind := 2, code := msgConfirm, tag := 0, words := [BitVec.ofNat 32 xid] } none

/-- The slot starts at this member (R698): as owner it posts to each source, as source it awaits the POSTs. -/
def State.exchBegin (s : State) (xid : Nat) (e : ExchDef) (desc : Option Desc) (start count : Nat) : State :=
  let sources := s.memberList.filter (fun m => e.mask m != 0 && e.octets.any (fun o => e.owners.getD o 64 != m))
  let awaits := if sources.contains s.me then e.octets.filter (fun o => e.owners.getD o 64 != s.me) else []
  let s := s.setRun xid (some { desc := desc, reqStart := start, first := none, count := count, last := none, stops := []
                                confirms := if s.head then sources else [], posts := awaits, carried := 0, lost := 0, sent := false, dead := none })
  let s := s.forEach (e.ownedBy s.me) (fun s o => s.forEach (sources.filter (· != s.me)) (fun s m => s.exchAck m 1 xid o start))
  if s.head && sources.isEmpty then s.allConfirmed xid
  else s.cond (sources.contains s.me && awaits.isEmpty) (·.confirmSource xid s.me)

/-- EXCH_START at the head: what it needs of the definition and of every member (R698). -/
def State.exchStartHead (s : State) (d : Desc) (barred addBarred : List Nat) : State :=
  s.needBlk .exch d fun s =>
    let xid := d.f 1 0 2
    match s.exchDef xid with
    | none => s.bad d 0x6A
    | some e =>
      if e.epoch != s.epoch then s.finish d stEpochMismatch
      else if (s.exchRun xid).isSome then s.finish d stBusyRetry
      else
        let sends (m : Nat) : Bool := e.mask m != 0 && e.octets.any (fun o => e.owners.getD o 64 != m)
        let gone (m : Nat) : Bool := if m == s.me then
            (s.reqRetired 1 && !(e.ownedBy m).isEmpty) || (s.reqRetired 4 && sends m) else barred.contains m && (sends m || !(e.ownedBy m).isEmpty)
        let noAdd (m : Nat) : Bool := !(e.ownedBy m).isEmpty && (if m == s.me then s.addGone else addBarred.contains m)
        if s.memberList.any gone then s.finish d stRetired
        else if xid == 1 && s.memberList.any noAdd then s.finish d stResidueFault
        else
          let s := s.forEach s.others (fun s m => s.sendReq { dst := m, src := s.me, kind := 2, code := d.opcode, tag := 0, words := d.words } none)
          s.exchBegin xid e (some d) (d.w 2).toNat (d.w 3).toNat

/-- EXCH_START (Table 17.1, R698). `barred` names other members of the set whose exchange ingress or egress is retired, `addBarred` those
whose ADD mode is. At another member it comes from the head; with its EXCH block held, the member says so and the exchange ends (R724).
DEDUCED, log 63. -/
def execExchStart (d : Desc) (barred addBarred : List Nat) (s : State) : Host.Outcome State Fault Refusal :=
  running s fun s =>
    if s.head then s.taking 0x31 d (·.exchStartHead d barred addBarred)
    else if d.opcode != 0x31 then s
    else if !s.free? .exch then s.tellOthers msgExchHeld []
    else match s.exchDef (d.f 1 0 2) with
      | some e => s.exchBegin (d.f 1 0 2) e none (d.w 2).toNat (d.w 3).toNat
      | none => s

/-- EXCH_POST_RECEIVE (R698): the POST of an owner for one octet. -/
def execExchPostReceive (xid octet : Nat) (s : State) : Host.Outcome State Fault Refusal :=
  inBlock .exch s fun s =>
    match s.exchRun xid with
    | none => s
    | some r =>
      if !r.posts.contains octet then s
      else
        let s := s.modRun xid (fun r => { r with posts := r.posts.filter (· != octet) })
        s.cond (r.posts == [octet]) (·.confirmSource xid s.me)

/-- EXCH_CONFIRM_RECEIVE (R698): a source's confirmation reaches the head. -/
def execExchConfirmReceive (xid src : Nat) (s : State) : Host.Outcome State Fault Refusal :=
  inBlock .exch s fun s => s.cond s.head (·.confirmSource xid src)

/-- The slot carries no tile after `last` (R701). -/
def State.exchLimit (s : State) (xid last : Nat) : State :=
  s.modRun xid (fun r => { r with last := match r.last with
    | some l => if seqLater l last then some last else some l
    | none => some last })

/-- EXCH_STOP (R701). -/
def execExchStop (d : Desc) (s : State) : Host.Outcome State Fault Refusal :=
  running s fun s =>
    s.cond s.head fun s => s.taking 0x32 d fun s => s.needBlk .exch d fun s =>
      let xid := d.f 1 0 2
      if (s.exchRun xid).isNone then s.finish d stNotFound
      else
        let last := (s.bound100 + 2 ^ 32 - 1) % 2 ^ 32
        let s := (s.commit d).modRun xid (fun r => { r with stops := r.stops ++ [d] })
        (s.exchLimit xid last).tellOthers msgLast [BitVec.ofNat 32 xid, BitVec.ofNat 32 last]

/-- A CANCEL reaches an EXCH_START before its first send (R699). -/
def State.exchCancel (s : State) (d : Desc) : State :=
  s.forEach [0, 1] (fun s xid => match s.exchRun xid with
    | some r => s.cond (r.desc == some d && !r.sent) (fun s => (s.endExch xid stCancelled).tellOthers msgLast [BitVec.ofNat 32 xid, s.tile])
    | none => s)

/-! ### Tile by tile (R704 to R710, R725) -/

/-- The words of a tile message (Table 17.3): the header, then the data of the paths of a mask. -/
def tileMsg (ws : List Word) (mask : Nat) : List Word := ws.take 16 ++ (bitsOf 4 mask).flatMap (fun p => (ws.drop (16 + 256 * p)).take 256)

/-- A tile period of a running slot lies in its exchange. -/
def ExchRun.carries (r : ExchRun) (n : Nat) : Bool :=
  match r.first with
  | none => false
  | some f => (n == f || seqLater n f) && (match r.last with
      | some l => n == l || seqLater l n
      | none => true)
/-- The deadline of a tile period has passed (R708). -/
def ExchRun.past (r : ExchRun) (n : Nat) : Bool :=
  match r.dead with
  | some t => n == t || seqLater t n
  | none => false

/-- What the end of tile N does here: a period is carried, tiles fall due for sending, and an exchange stopped before its first period
ends (R699, R701, R704). -/
def State.exchBoundary (s : State) : State :=
  let n := (s.tile.toNat + 2 ^ 32 - 1) % 2 ^ 32
  let s := s.modExch (fun e => { e with dropContam := s.is Fld.exchCtlDropContam })
  let s := match s.exch.nextWeights with
    | some (d, ws, t) => if s.tileAt t then
        ((s.modExch (fun e => { e with weights := some ws, nextWeights := none })).commit d).regionDone d { status := stOK }
      else s
    | none => s
  s.forEach [0, 1] (fun s xid => match s.exchRun xid with
    | none => s
    | some r =>
      if r.carries n then
        let s := s.modRun xid (fun r => { r with carried := r.carried + 1, sent := true })
        let s := match r.desc with
          | some d => s.commit d
          | none => s
        match s.exchDef xid with
        | some e => s.cond (xid == 0 && e.mask s.me != 0) (·.modExch (fun x => { x with
            todo := x.todo ++ (e.octets.filter (fun o => e.owners.getD o 64 != s.me)).map (·, n) }))
        | none => s
      else
        let ends := match r.first, r.last with
          | some f, some l => seqLater f l && (n == l || seqLater n l)
          | none, some l => n == l || seqLater n l
          | _, _ => false
        s.cond ends (·.endExch xid stOK))

/-- A slot of the octet's window is free for tile N: N − 4 has been released (R705). -/
def State.slotFree (s : State) (octet tile : Nat) : Bool :=
  match s.exch.released.find? (·.1 == octet) with
  | some (_, r) => let want := (tile + 2 ^ 32 - 4) % 2 ^ 32; r == want || seqLater r want
  | none => false

/-- Send a message of kind 0 and keep it until it is acknowledged (R705). -/
def State.sendKept (s : State) (peer : Nat) (k : Kept) : State :=
  (s.modExch (fun e => { e with kept := e.kept.filter (fun x => !(x.xid == k.xid && x.octet == k.octet && x.tile == k.tile)) ++ [k] })).sendMsg
    { dst := peer, src := s.me, kind := 0, code := 0, tag := 0, words := k.words }

/-- EXCH_TILE_SEND (R704, R705, R707): what was NACKed goes first, then the tiles due in ascending octet order, each into a free slot. -/
def execExchTileSend (s : State) : Host.Outcome State Fault Refusal :=
  inBlock .exch s fun s =>
    if s.reqRetired 4 then s
    else match s.exch.again with
      | (xid, o, n) :: rest =>
        let s := s.modExch (fun e => { e with again := rest })
        match s.exch.kept.find? (fun k => k.xid == xid && k.octet == o && k.tile == n), s.exchDef xid with
        | some k, some e => s.sendKept (e.owners.getD o 64) { k with resent := k.resent + 1 }
        | _, _ => s
      | [] =>
        match s.exch.todo.find? (fun t => s.slotFree t.1 t.2), s.exch.def0 with
        | some (o, n), some e =>
          match s.samp.tiles.find? (fun t => t.octet == o && t.seq == n) with
          | none => s
          | some t => (s.modExch (fun x => { x with todo := x.todo.erase (o, n) })).sendKept (e.owners.getD o 64)
              ⟨0, o, n, 0, tileMsg t.words (e.mask s.me)⟩
        | _, _ => s

/-- Every word passes against its residue (R646), which the sending member made with the word (R703). -/
def resOk (ws : List Word) (res : List Nat) : Bool := ws.length == res.length && (ws.zip res).all (fun x => res7 x.1 == x.2 % 7)

/-- A NACK of the owner (R707). -/
def State.nack (s : State) (xid src octet tile : Nat) : State :=
  let s := ((s.incSat Fld.exchResFaultCntTileNack).flag Fld.exchStatNack).exchAck src 3 xid octet tile
  s.cond (s.is Fld.exchCtlResRec) (·.fault 0x09 0 0 (src * 65536 + octet) tile)

/-- EXCH_TILE_ARRIVE (R707, R708, R725): the words of a tile message with their residues. -/
def execExchTileArrive (src : Nat) (words : List Word) (res : List Nat) (s : State) : Host.Outcome State Fault Refusal :=
  inBlock .exch s fun s =>
    let w (i : Nat) : Word := words.getD i 0
    let tile := (w 0).toNat
    let octet := getF (w 1) 0 6
    match s.exch.run0, s.exch.def0 with
    | some r, some e =>
      if s.reqRetired 1 || e.owners.getD octet 64 != s.me || src == s.me || e.mask src == 0 || words.length != 16 + 256 * popc (e.mask src) then s
      else
        let hdr := ((words.take 15).foldl (fun a x => a + x.toNat) 0) % 7 == getF (w 15) 0 3
        if !resOk words res || !hdr then s.nack 0 src octet tile
        else if r.past tile || !r.carries tile then (s.flag Fld.exchStatLate).exchAck src 4 0 octet tile
        else
          let l : Landed := ⟨octet, src, tile, words⟩
          (s.modExch (fun x => { x with landed := x.landed.filter (fun y => !(y.octet == octet && y.src == src && y.tile == tile)) ++ [l] })).exchAck
            src 2 0 octet tile
    | _, _ => s

/-- EXCH_ACK_RECEIVE (R705, R709): ACK or LATE ends the keeping of a tile; RELEASED tells the slots freed. -/
def execExchAckReceive (xid octet tile released : Nat) (s : State) : Host.Outcome State Fault Refusal :=
  inBlock .exch s (·.modExch (fun e => { e with
    kept := e.kept.filter (fun k => !(k.xid == xid && k.octet == octet && k.tile == tile))
    released := if xid == 0 then e.released.map (fun r => if r.1 == octet && seqLater released r.2 then (octet, released) else r) else e.released }))

/-- EXCH_NACK_RECEIVE (R707): the tile is sent again, at most twice. -/
def execExchNackReceive (xid octet tile released : Nat) (s : State) : Host.Outcome State Fault Refusal :=
  inBlock .exch s fun s =>
    let s := s.modExch (fun e => { e with
      released := if xid == 0 then e.released.map (fun r => if r.1 == octet && seqLater released r.2 then (octet, released) else r) else e.released })
    match s.exch.kept.find? (fun k => k.xid == xid && k.octet == octet && k.tile == tile) with
    | some k => s.cond (k.resent < 2) (·.modExch (fun e => { e with again := e.again ++ [(xid, octet, tile)] }))
    | none => s

/-- EXCH_TILE_DEADLINE (R700, R705, R708, R709): 300 µs after the end of a tile. `elsewhere` counts the tiles that other owners have lost since
the deadline before. With the last period's deadline the exchange completes. -/
def execExchTileDeadline (xid tile elsewhere : Nat) (s : State) : Host.Outcome State Fault Refusal :=
  inBlock .exch s fun s =>
    match s.exchRun xid, s.exchDef xid with
    | some r, some e =>
      if !r.carries tile || r.past tile then s
      else
        let lost := if xid == 1 then 0 else
          ((e.ownedBy s.me).flatMap (fun o => (s.others.filter (fun m => e.mask m != 0)).filter (fun m =>
            !s.exch.landed.any (fun l => l.octet == o && l.src == m && l.tile == tile)))).length
        let unsent := xid == 0 && s.exch.todo.any (·.2 == tile)
        let s := s.cond unsent (·.flag Fld.exchStatSrcDrop)
        let s := s.add Fld.exchGapCntCount lost
        let s := s.modExch (fun x => { x with
          todo := x.todo.filter (fun t => !(xid == 0 && t.2 == tile)), kept := x.kept.filter (fun k => !(k.xid == xid && k.tile == tile))
          again := x.again.filter (fun t => !(t.1 == xid && t.2.2 == tile)) })
        let s := s.modRun xid (fun r => { r with dead := some tile, lost := r.lost + lost + elsewhere })
        s.cond (r.last == some tile) (·.endExch xid stOK)
    | _, _ => s

/-- EXCH_WINDOW_RELEASE (R709): the owner releases the slot of a tile once its beams are formed, and at the latest at the boundary of N + 3. -/
def execExchWindowRelease (octet tile : Nat) (s : State) : Host.Outcome State Fault Refusal :=
  inBlock .exch s fun s =>
    let made := s.exch.beams.any (fun b => b.octet == octet && b.tile == tile)
    let due := s.tileAt (tile + 3)
    s.cond (s.exch.run0.isSome && (made || due)) (·.modExch (fun e => { e with
      landed := e.landed.filter (fun l => !(l.octet == octet && (l.tile == tile || seqLater tile l.tile)))
      freed := e.freed.map (fun f => if f.1 == octet && seqLater tile f.2 then (octet, tile) else f) }))

/-! ### The survey and its adders (R711 to R717, R726) -/

def flagGap : Nat := 3
def flagStale : Nat := 2
def flagBlank : Nat := 4
def flagContam : Nat := 1
/-- A path of a tile carries none of GAP, STALE and BLANK. -/
def cleanPath (hdr : List Word) (p : Nat) : Bool :=
  let f := getF (hdr.getD 4 0) (8 * p) 8
  !tb f flagGap && !tb f flagStale && !tb f flagBlank
/-- I and Q of a data word (R388). -/
def iq (w : Word) : Int × Int := (sgn 16 (getF w 16 16), sgn 16 (getF w 0 16))

/-- The words of a survey contribution (Table 17.4) from a member's tile. -/
def surveyWords (me octet : Nat) (mask : Nat) (t : List Word) : List Word :=
  let ps := (bitsOf 4 mask).filter (fun p => cleanPath t p)
  let comp (p : Nat) (w : Word) : Int × Int × Nat × Nat := ((iq w).1, (iq w).2, getF (t.getD 2 0) (4 * p) 4, getF (t.getD 3 0) (8 * p) 6)
  let power (b : Nat) : Word :=
    BitVec.ofNat 32 (min (2 ^ 32 - 1) (Config.surveyPower (ps.flatMap (fun p => ((t.drop (16 + 256 * p + 32 * b)).take 32).map (comp p)))))
  [t.getD 0 0, packW [(28, 4, 2), (16, 6, me), (0, 6, octet)], BitVec.ofNat 32 ps.length, 0, 0, 0, 0, 0] ++ (List.range 8).map power

/-- One added word, unsigned or signed, saturating (R712). -/
def satAdd32 (signed : Bool) (a b : Word) : Word :=
  if signed then BitVec.ofInt 32 (clampI (-(2 ^ 31)) (2 ^ 31 - 1) (a.toInt + b.toInt)) else BitVec.ofNat 32 (min (2 ^ 32 - 1) (a.toNat + b.toNat))

/-- The outcome of one lane whose add failed its check (R716): 1 it passed on the lane when made again, 2 it failed again and passes on the spare,
3 nothing passes. -/
def State.addFails (s : State) (tile : Nat) (l : Nat × Nat) : State × Bool :=
  let spare := !s.is Fld.exchLaneMapSpareUsed && !tb (s.get Fld.exchLaneMapRetired) 8
  if l.2 == 1 then ((s.transientErr 5 l.1).incSat Fld.exchResFaultCntAddCorr, false)
  else if l.2 == 2 && spare then ((s.incSat Fld.exchResFaultCntAddCorr).fail 5 l.1 false, false)
  else ((s.incSat Fld.exchResFaultCntAddFault).fault 0x08 0 l.1 tile 0, true)

def blankAccum (octet tile : Nat) : Accum := ⟨octet, tile, [], 0, List.replicate 8 0, false, false⟩

/-- Add a contribution into the accumulator of its tile period (R712, R716). -/
def State.addTo (s : State) (src : Nat) (words : List Word) (signed : Bool) (fails : List (Nat × Nat)) : State :=
  let tile := (words.getD 0 0).toNat
  let octet := getF (words.getD 1 0) 0 6
  let f := fails.foldl (fun (acc : State × Bool) l => let r := acc.1.addFails tile l; (r.1, acc.2 || r.2)) (s, false)
  let s := f.1
  let a := (s.exch.accums.find? (fun a => a.octet == octet && a.tile == tile)).getD (blankAccum octet tile)
  let a := { a with added := a.added ++ [src], count := satAdd32 signed a.count (words.getD 2 0), invalid := a.invalid || f.2
                    power := List.zipWith (satAdd32 signed) a.power (words.drop 8) }
  s.modExch (fun e => { e with accums := a :: e.accums.filter (fun b => !(b.octet == octet && b.tile == tile)) })

/-- SURVEY_CONTRIBUTION (R711): the sequencer makes this member's contribution for one octet of a tile that has ended. -/
def execSurveyContribution (octet tile : Nat) (s : State) : Host.Outcome State Fault Refusal :=
  inBlock .exch s fun s =>
    match s.exch.run1, s.exch.def1, s.samp.tiles.find? (fun t => t.octet == octet && t.seq == tile) with
    | some r, some e, some t =>
      if !r.carries tile || r.past tile || !e.octets.contains octet || e.mask s.me == 0 || s.reqRetired 5 then s
      else
        let ws := surveyWords s.me octet (e.mask s.me) t.words
        let owner := e.owners.getD octet 64
        if owner == s.me then
          s.cond (!s.exch.accums.any (fun a => a.octet == octet && a.tile == tile && (a.complete || a.added.contains s.me)))
            (·.addTo s.me ws (e.arrive == 1) [])
        else if s.reqRetired 4 then s
        else s.sendKept owner ⟨1, octet, tile, 0, ws⟩
    | _, _, _ => s

/-- ADD_ARRIVAL (R712, R713, R715, R716): a contribution arrives with its residues; `fails` tells the lanes whose add failed its check. -/
def execAddArrival (src : Nat) (words : List Word) (res : List Nat) (fails : List (Nat × Nat)) (s : State) : Host.Outcome State Fault Refusal :=
  inBlock .exch s fun s =>
    let tile := (words.getD 0 0).toNat
    let octet := getF (words.getD 1 0) 0 6
    match s.exch.run1, s.exch.def1 with
    | some r, some e =>
      if s.reqRetired 1 || s.addGone || e.owners.getD octet 64 != s.me || e.mask src == 0 then s
      else if words.length != 16 || !resOk words res then s.nack 1 src octet tile
      else
        let old := s.exch.accums.find? (fun a => a.octet == octet && a.tile == tile)
        let ends := r.past tile || !r.carries tile || (old.map (·.complete)).getD false
        if ends then (s.flag Fld.exchStatLate).exchAck src 4 1 octet tile
        else if (old.map (·.added.contains src)).getD false then s.exchAck src 2 1 octet tile
        else (s.addTo src words (e.arrive == 1) fails).exchAck src 2 1 octet tile
    | _, _ => s

/-- ACCUMULATOR_COMPLETE (R713): every member with a mask has been added, or the deadline has passed; sums are kept for 768 periods. -/
def execAccumulatorComplete (octet tile : Nat) (s : State) : Host.Outcome State Fault Refusal :=
  inBlock .exch s fun s =>
    match s.exch.def1 with
    | none => s
    | some e =>
      if e.owners.getD octet 64 != s.me then s
      else
        let a := (s.exch.accums.find? (fun a => a.octet == octet && a.tile == tile)).getD (blankAccum octet tile)
        let all := s.memberList.all (fun m => e.mask m == 0 || a.added.contains m)
        let past := match s.exch.run1 with
          | some r => r.past tile
          | none => true
        s.cond (!a.complete && (all || past)) (·.modExch (fun x => { x with
          accums := { a with complete := true } :: (x.accums.filter (fun b => !(b.octet == octet && b.tile == tile))).filter (fun b =>
            decide ((tile + 2 ^ 32 - b.tile) % 2 ^ 32 < 768) || seqLater b.tile tile) }))

/-- An accumulator in its place, the latest tile first. -/
def insAccum (a : Accum) : List Accum → List Accum
  | [] => [a]
  | b :: l => if seqLater a.tile b.tile then a :: b :: l else b :: insAccum a l

/-- Totals of POWER over sub-bands k and k + 1 and of COUNT, over the valid of the last K complete periods (R714). -/
def State.surveyTotals (s : State) (k periods : Nat) : Nat × Nat :=
  let l := (s.exch.accums.filter (fun a => a.octet == k / 8 && a.complete)).foldr insAccum []
  ((l.take periods).filter (fun a => !a.invalid)).foldl (fun t a =>
    (t.1 + (a.power.getD (k % 8) 0).toNat + (a.power.getD (k % 8 + 1) 0).toNat, t.2 + a.count.toNat)) (0, 0)

/-- SURVEY_QUERY (R714): the owner answers a listen-before-talk query. -/
def execSurveyQuery (src tag k periods : Nat) (s : State) : Host.Outcome State Fault Refusal :=
  inBlock .exch s fun s =>
    let t := s.surveyTotals k periods
    s.sendMsg { dst := src, src := s.me, kind := 3, code := msgSurvey, tag := tag
                words := [BitVec.ofNat 32 t.1, BitVec.ofNat 32 (t.1 >>> 32), BitVec.ofNat 32 t.2] }

/-! ### At the owner (R718 to R723, R729) -/

/-- A block of region 0 (Table 17.7). -/
structure BeamBlock where
  octet : Nat
  npath : Nat
  beams : Nat
  perSb : Bool
  weights : List Word
  deriving DecidableEq, Repr

def BeamBlock.words (b : BeamBlock) : Nat := b.beams * (if b.perSb then 8 else 1) * b.npath
def blockHead (w : Word) : BeamBlock := ⟨getF w 0 6, getF w 16 8 + 1, getF w 8 4 + 1, getF w 7 1 == 1, []⟩
/-- The header words of the blocks of a region, in their order. -/
def blockHeads : Nat → List Word → List Word
  | 0, _ => []
  | n + 1, ws =>
    match ws with
    | [] => []
    | h :: rest => h :: blockHeads n (rest.drop (blockHead h).words)
/-- Blocks of a region; none when the words do not match them. -/
def beamBlocks : Nat → List Word → Option (List BeamBlock)
  | 0, ws => if ws.isEmpty then some [] else none
  | n + 1, ws =>
    match ws with
    | [] => none
    | h :: rest =>
      let b := blockHead h
      if rest.length < b.words then none
      else (beamBlocks n (rest.drop b.words)).map (fun l => { b with weights := rest.take b.words } :: l)

/-- The DETAIL of a region 0 update that is not well formed (R729). -/
def weightsJudge (ws : List Word) : Option Nat :=
  let h := ws.getD 0 0
  let n := getF h 0 7
  if getF h 24 8 != 1 || n == 0 || 64 < n then some dtOperand
  else if getF h 7 17 != 0 then some dtReserved
  else match beamBlocks n (ws.drop 1) with
    | none => some dtOperand
    | some bs =>
      let os := bs.map (·.octet)
      if (blockHeads n (ws.drop 1)).any (fun w => w.toNat &&& 0xFF00F040 != 0) then some dtReserved
      else if os.eraseDups.length != os.length then some dtOperand else none

/-- The first start boundary 20 µs or more after now (R722). -/
def State.bound20 (s : State) : Nat := (s.tile.toNat + (if s.pip.cycle + 14746 ≤ 245760 then 1 else 2)) % 2 ^ 32

/-- The DETAIL of a region 1 update that is not well formed (R728). -/
def mapJudge (ws : List Word) : Option Nat :=
  let h := ws.getD 0 0
  if getF h 24 8 != 1 then some dtOperand
  else if getF h 1 23 != 0 then some dtReserved
  else if ws.length != (if getF h 0 1 == 1 then 25 else 17) then some dtLength
  else if ((ws.drop 1).take 16).any (fun w => w.toNat &&& 0xC0C0C0C0 != 0) then some dtReserved
  else none

/-- The tile of a source of an owned octet: its header, and data words laid out as in a stored tile. -/
def State.ownerTile (s : State) (e : Option ExchDef) (octet tile m : Nat) : Option (List Word) :=
  if m == s.me then (s.samp.tiles.find? (fun t => t.octet == octet && t.seq == tile)).map (·.words)
  else match e with
    | none => none
    | some e => (s.exch.landed.find? (fun l => l.octet == octet && l.tile == tile && l.src == m)).map (fun l =>
        let ps := bitsOf 4 (e.mask m)
        l.words.take 16 ++ (List.range 4).flatMap (fun p =>
          if ps.contains p then (l.words.drop (16 + 256 * ps.findIdx (· == p))).take 256 else List.replicate 256 0))

/-- A path of a tile is included (R718). -/
def State.included (s : State) (hdr : List Word) (mask p : Nat) : Bool :=
  tb mask p && tb (getF (hdr.getD 1 0) 8 4) p && cleanPath hdr p && !(s.exch.dropContam && tb (getF (hdr.getD 4 0) (8 * p) 8) flagContam)

/-- The antenna-referred sample of a path, sub-band and index (R719). -/
def antennaAt (t : List Word) (p b j : Nat) : Int × Int :=
  let x := iq (t.getD (16 + 256 * p + 32 * b + j) 0)
  let e := getF (t.getD 2 0) (4 * p) 4
  let g := getF (t.getD 3 0) (8 * p) 6
  (Config.antenna x.1 e g, Config.antenna x.2 e g)
def cmul (a b : Int × Int) : Int × Int := (a.1 * b.1 - a.2 * b.2, a.1 * b.2 + a.2 * b.1)

/-- BEAMFORM (R718 to R723): the owner forms the beams of one octet and tile. Beams are kept for the tile being demodulated and the one before. -/
def execBeamform (octet tile : Nat) (s : State) : Host.Outcome State Fault Refusal :=
  running s fun s =>
    if s.octetOwner octet != s.me || s.reqRetired 5 then s
    else
      let e := if s.others.isEmpty then none else s.exch.def0
      let ms := if s.others.isEmpty then [(s.me, 15)] else match e with
        | some d => s.memberList.map (fun m => (m, d.mask m))
        | none => [(s.me, 15)]
      let base (m : Nat) : Nat := if s.others.isEmpty then 0 else 4 * m
      let srcs := ms.filterMap (fun x => (s.ownerTile e octet tile x.1).map (fun t => (x.1, x.2, t)))
      let inc : List (Nat × List Word × Nat) := srcs.flatMap (fun x => (List.range 4).filterMap (fun p =>
        if s.included x.2.2 x.2.1 p then some (base x.1 + p, x.2.2, p) else none))
      let samples (f : Nat → Nat → Int × Int) : List (Int × Int) := (List.range 256).map (fun i => f (i / 32) (i % 32))
      let blk := (s.exch.weights.bind (fun ws => beamBlocks (getF (ws.getD 0 0) 0 7) (ws.drop 1))).bind (fun l => l.find? (·.octet == octet))
      let beams := match blk with
        | some b => (List.range b.beams).map (fun k => (k, samples (fun sb j =>
            inc.foldl (fun (y : Int × Int) x =>
              if x.1 < b.npath then
                let w := iq (b.weights.getD ((k * (if b.perSb then 8 else 1) + (if b.perSb then sb else 0)) * b.npath + x.1) 0)
                let v := cmul w (antennaAt x.2.1 x.2.2 sb j)
                (y.1 + v.1, y.2 + v.2)
              else y) (0, 0))))
        | none =>
          let qs := (ms.flatMap (fun x => (bitsOf 4 x.2).map (base x.1 + ·))).take 16
          qs.zipIdx.filterMap (fun (q, k) => (inc.find? (·.1 == q)).map (fun x => (k, samples (fun sb j => antennaAt x.2.1 x.2.2 sb j))))
      s.modExch (fun x => { x with beams := ⟨octet, tile, beams⟩ :: x.beams.filter (fun b =>
        b.octet != octet || (b.tile != tile && decide ((tile + 2 ^ 32 - b.tile) % 2 ^ 32 < 2))) })

/-- The EXCH block is held (R724): every running exchange of the epoch ends, and this member's definitions, windows, sums and weights go. -/
def State.exchHeld (s : State) : State :=
  let ran := s.exch.run0.isSome || s.exch.run1.isSome
  let s := (s.endExch 0 stPeerReset).endExch 1 stPeerReset
  let s := s.cond ran (·.tellOthers msgExchHeld [])
  s.modExch (fun e => { e with def0 := none, def1 := none, released := [], freed := [], todo := [], again := [], kept := [], landed := []
                               accums := [], weights := none, nextWeights := none, beams := [], dropContam := false })

end Sys2Proof.Machine
end

