-- ==== Sys2Proof/Machine/Pwr.lean ====
section
/-! DEFINITION. The power states D0 to D3, their holds, entries and exits, and Lace rest (spec 19). -/

namespace Sys2Proof.Machine

/-! ### The lead and the holds (R767 to R770, Table 19.2) -/

/-- The lead L in microseconds (R769): PWR_NEXT_LEAD or the time to the next TELEMETRY record; none when unbounded. -/
def State.lead (s : State) : Option Nat :=
  let n := s.nextLead
  let t := s.get Fld.telemIntervalMs
  let left := (t - s.flt.telem.ms) * 1000
  if n == 2 ^ 32 - 1 then (if t == 0 then none else some left)
  else some (if t == 0 then n else min n left)
/-- PWR_NEXT_LEAD as it reads (R770). -/
def State.nextLeadView (s : State) : Nat := s.nextLead

/-- The deepest state that a bound in microseconds admits, by the least it must be for D1, D2 and D3. -/
def admits (v d1 d2 d3 : Nat) : Nat := if d3 ≤ v then 3 else if d2 ≤ v then 2 else if d1 ≤ v then 1 else 0
/-- Deepest state by the lead (R769): 2 × X + 100 µs for X of 1.5 µs, 160 µs and 1.6 ms. -/
def State.leadAdmits (s : State) : Nat :=
  match s.lead with
  | none => 4
  | some l => admits l 103 420 3300
/-- Deepest state by PWR_LAT_TOL (R768). -/
def State.tolAdmits (s : State) : Nat :=
  let t := (s.rd Reg.pwrLatTol).toNat
  if t == 2 ^ 32 - 1 then 4 else admits t 2 160 1600

def State.anyLo (s : State) (p : Nat → Bool) : Bool := allLos.any (fun n => p (s.loState n))
/-- Work that waits for the host or for completion (Table 19.2, bit 5). -/
def State.work (s : State) : Bool :=
  !s.hif.started.isEmpty || s.hif.rings.toList.any (fun r => !r.held.isEmpty) || !s.hif.outq.isEmpty
    || s.hif.regions.toList.any (fun r => r.running.isSome || r.waiting.isSome) || (s.engine && !s.hif.buf.isEmpty)
    || (s.head && !s.svc.cands.isEmpty)
def State.audioOn (s : State) : Bool :=
  s.is (Fld.sapCtlEn 0) || s.is (Fld.sapCtlEn 1) || s.is (Fld.sapCtlEn 2) || s.is Fld.spdoCtlEn || s.is Fld.spdiCtlEn

/-- Holds 0 to 10 of Table 19.2, each active or not, with its deepest state; a running exchange keeps D0 or D1 (R702). -/
def State.holdRows (s : State) : List (Bool × Nat) :=
  [(s.phase != phRun, 0), (s.anyLo (stSynth ≤ ·), 0), (s.anyLo (· == stStandby), 1), (s.audioOn, 0),
   (s.exch.run0.isSome || s.exch.run1.isSome, 1), (s.work, 0), (s.pwr.dwell, 0),
   (s.lnk.inEpoch && decide (2 ≤ s.memberList.length) && s.pwr.laceHold, 1), (s.is Fld.pwrCtlRetainLinks, 1), (s.is Fld.pwrCtlRetainRef, 2),
   (s.tolAdmits != 4, s.tolAdmits), (decide (s.leadAdmits < 3), s.leadAdmits)]
/-- Every condition of R779 but the time it has held. -/
def State.sleepReady (s : State) : Bool :=
  s.is Fld.pwrCtlSleepOk && s.tolAdmits == 4 && s.holdRows.all (fun h => !h.1 || 3 ≤ h.2) && s.lead.isNone
    && s.pip.slots.isEmpty && !s.engine
/-- PWR_STATE.HOLD. -/
def State.powerHolds (s : State) : Nat :=
  maskOf 12 (fun i => (s.holdRows.getD i (false, 0)).1) + (if s.sleepReady then 0 else 4096)
/-- PWR_STATE.DEEPEST: the deepest state admitted now (R771). -/
def State.deepest (s : State) : Nat :=
  min (s.holdRows.foldl (fun m h => if h.1 then min m h.2 else m) 4) (if s.sleepReady then 4 else 3)

/-! ### Entries (R764, R771, R776) -/

/-- Links in D2: SLEEP blocks, then low-power idle (R681). -/
def State.linksSleep (s : State) : State :=
  s.forEach allLinks (fun s k => s.cond (s.linkState k == lkUp) fun s =>
    (s.emit (.ctl k (.sleep true))).put (Fld.lnkStatState k.val) lkAsleep)
/-- Links return to UP from low-power idle (R681). -/
def State.linksWake (s : State) : State :=
  s.forEach allLinks (fun s k => s.cond (s.linkState k == lkAsleep) fun s =>
    ((s.emit (.ctl k (.sleep false))).put (Fld.lnkStatState k.val) lkUp).pump k)
/-- Links in D3 are in electrical idle, and the device leaves its epoch (R681). No failure counts. -/
def State.linksIdle (s : State) : State :=
  let s := s.forEach allLinks (fun s k => s.cond (s.linkState k != lkRetired) fun s =>
    ((((s.put (Fld.lnkStatState k.val) lkDown).putB (Fld.lnkStatInEpoch k.val) false).putB (Fld.lnkPartnerValid k.val) false).put
      (Fld.lnkLanesActive k.val) 0).modLink k (fun l => { l with retraining := false, failing := 0, replay := [], txq := [], advert := none
                                                                 child := false, broken := false }))
  (s.modLnk (fun l => { l with inEpoch := false })).retree

/-- POWER_ENTRY_COMPLETE (R764, R765, R771): the state is entered, and what the device holds stays. The store is in self-refresh (R612); in D2 and D3 the system and audio ADPLLs
are off, with no flag (R324); in D3 the reference is off. -/
def execPowerEntryComplete (s : State) : Host.Outcome State Fault Refusal :=
  running s fun s =>
    match s.pwr.entry with
    | none => s
    | some t =>
      let s := ((s.modPwr (fun p => { p with entry := none })).put Fld.pwrStateState t).selfRefresh true
      let s := s.cond (2 ≤ t) fun s =>
        (s.putB Fld.clkSysStatLock false).cond (s.is Fld.clkAudStatLock) (fun s => (s.putB Fld.clkAudStatHoldover false).audGate false)
      if t == 2 then s.linksSleep
      else if t == 3 then
        (((s.linksIdle.putB Fld.clkRefSelXtalRun false).putB Fld.clkRefSelRefDet false).misaligned).modClk
          (fun c => { c with refLost := true, arm := none, hit := none })
      else s

/-! ### Exits (R766, R772, R774) -/

/-- POWER_OWN_EXIT (R772): the lead nears the exit time, or what the host wrote no longer admits the state. -/
def State.ownExit (s : State) : State :=
  if s.pst == 0 || s.pwr.exiting then s
  else
    let thr := if s.pst == 1 then 51 else if s.pst == 2 then 226 else 1810
    let due := match s.lead with
      | none => false
      | some l => decide (l ≤ thr)
    if due then s.wake 4
    else
      let w := (s.is Fld.pwrCtlRetainLinks && 1 < s.pst) || (s.is Fld.pwrCtlRetainRef && 2 < s.pst) || s.tolAdmits < s.pst
      s.cond w (·.wake 6)
/-- POWER_OWN_EXIT (R772). -/
def execPowerOwnExit (s : State) : Host.Outcome State Fault Refusal := running s (·.ownExit)

/-- What the return to D0 from a state restores (R339, R612, R681, R766): after D3, or a reference lost meanwhile, the internal SYNC that
keeps Lace time; after D3 the links train again and a member seeks its head (R680). -/
def State.leave (s : State) (d : Nat) : State :=
  let s := (s.put Fld.pwrStateLast d).put Fld.pwrStateState 0
  let s := s.cond (d == 3) (·.putB (if s.is Fld.clkRefSelSel then Fld.clkRefSelRefDet else Fld.clkRefSelXtalRun) true)
  let s := s.cond (decide (2 ≤ d) && s.refThere) (fun s => (s.putB Fld.clkSysStatLock true).cond s.clk.refLost (·.internalSync))
  let s := s.cond (s.is Fld.clkSysStatLock) (·.selfRefresh false)
  if d == 2 then s.linksWake
  else if d == 3 then
    (s.forEach allLinks (fun s k => s.cond (s.linkState k == lkDown) (·.trainLink k))).modBoot
      (fun b => { b with helloDue := !s.head && !b.refused, accepted := [] })
  else s

/-- POWER_EXIT_COMPLETE (R144, R766, R776, R869): the device is back in D0. An exit that abandons an entry into D4 leaves LAST at D4. -/
def execPowerExitComplete (s : State) : Host.Outcome State Fault Refusal :=
  running s fun s =>
    if !s.pwr.exiting || s.pst == 0 then s
    else
      let d := s.pst
      let s' := (((s.modPwr (fun p => { p with exiting := false, aborted := false })).leave d).readyFrom d)
      s'.cond s.pwr.aborted (·.put Fld.pwrStateLast 4)

/-- POWER_STATE_ENTRY (R771): a due state is entered through D0. A move to a deeper state records no wake. -/
def execPowerStateEntry (target : Fin 4) (s : State) : Host.Outcome State Fault Refusal :=
  running s fun s =>
    if s.pwr.entry.isSome || s.pwr.exiting || s.pwr.d4Step || target.val ≤ s.pst || s.deepest < target.val then s
    else
      let s := s.cond (0 < s.pst) (fun s => s.leave s.pst)
      s.modPwr (fun p => { p with entry := some target.val })

/-- DWELL_EXPIRY (R774). -/
def execDwellExpiry (s : State) : Host.Outcome State Fault Refusal := live s (·.modPwr (fun p => { p with dwell := false }))

/-- WAKE_IN_EDGE (R775, R782): it wakes the device, and in D4 the always-on logic notes it. -/
def execWakeInEdge (s : State) : Host.Outcome State Fault Refusal :=
  done (if s.pwr.d4 then s.modPwr (fun p => { p with d4Wake := p.d4Wake ||| 2 ^ 9 })
        else if s.runs then s.wake 3 else s)

/-! ### Lace rest (R777, R778) -/

def msgRest : Nat := 0x72
def msgResume : Nat := 0x73
def msgResumeAck : Nat := 0x74

/-- Every condition of R777 at the head but the time it has held. -/
def State.restReady (s : State) : Bool :=
  s.pip.slots.isEmpty && s.pip.commits.isEmpty && s.pip.remote.isEmpty && s.exch.run0.isNone && s.exch.run1.isNone && s.lnk.forming.isNone
    && s.clk.headSync.isNone && !s.is Fld.clkSyncCtlFire && !s.work

/-- LACE_REST_START (R777). -/
def execLaceRestStart (s : State) : Host.Outcome State Fault Refusal :=
  running s fun s =>
    if !s.head || !s.lnk.inEpoch || s.others.isEmpty || s.is Fld.pwrStateRest || !s.pwr.resumeWait.isEmpty || !s.restReady then s
    else ((s.putB Fld.pwrStateRest true).modPwr (fun p => { p with laceHold := false })).sendMsg
      { dst := s.me, src := s.me, kind := 7, code := msgRest, tag := 0, bcast := true, words := [] }

/-- REST_RECEIVE (R777). -/
def execRestReceive (s : State) : Host.Outcome State Fault Refusal :=
  running s fun s => s.cond (!s.head && s.lnk.inEpoch) (fun s => (s.putB Fld.pwrStateRest true).modPwr (fun p => { p with laceHold := false }))

/-- LACE_REST_END (R778): a condition of R777 fails at the head. -/
def execLaceRestEnd (s : State) : Host.Outcome State Fault Refusal :=
  running s fun s =>
    if !s.head || !s.is Fld.pwrStateRest || s.restReady then s
    else
      let ms := s.others.filter (fun m => !s.lnk.lost.contains m)
      let s := (s.putB Fld.pwrStateRest false).modPwr (fun p => { p with laceHold := true, resumeWait := ms })
      let s := s.sendMsg { dst := s.me, src := s.me, kind := 7, code := msgResume, tag := 0, bcast := true, words := [] }
      (s.cond (s.free? .pip) (·.pipBeacon)).fireNext

/-- RESUME_RECEIVE (R778). -/
def execResumeReceive (s : State) : Host.Outcome State Fault Refusal :=
  running s fun s =>
    s.cond (!s.head && s.lnk.inEpoch) fun s =>
      ((s.putB Fld.pwrStateRest false).modPwr (fun p => { p with laceHold := true })).sendMsg
        { dst := s.headNo, src := s.me, kind := 7, code := msgResumeAck, tag := 0, words := [] }

/-- RESUME_ACK_RECEIVE (R778): with the last acknowledgement the work that ended the rest may start. -/
def execResumeAckReceive (member : Nat) (s : State) : Host.Outcome State Fault Refusal :=
  running s fun s =>
    s.cond (s.pwr.resumeWait.contains member) fun s =>
      (s.modPwr (fun p => { p with resumeWait := p.resumeWait.filter (· != member) })).fireNext
/-- Work may start: the head is not in Lace rest, and every member has acknowledged RESUME (R778). -/
def State.awake (s : State) : Bool := !s.head || (!s.is Fld.pwrStateRest && s.pwr.resumeWait.isEmpty)

/-! ### Link power management (R784) -/

/-- ASPM_L1_ENTRY (R784): L1, L1.1 or L1.2. -/
def execAspmL1Entry (sub : Fin 3) (s : State) : Host.Outcome State Fault Refusal :=
  live s fun s => s.cond (!s.env.perstLow) (fun s => s.modPcie (fun p => { p with aspmL1 := 1 + sub.val }))
/-- ASPM_L1_EXIT (R784). -/
def execAspmL1Exit (s : State) : Host.Outcome State Fault Refusal := live s (fun s => s.modPcie (fun p => { p with aspmL1 := 0 }))

end Sys2Proof.Machine
end

