-- ==== Sys2Proof/Machine/Hif.lean ====
section
/-! DEFINITION. The ring engine without its descriptors: enables, doorbells, MSI-X, the drain of buffered writes and records, PCI-PM,
and the resets of the HIF block (spec 06, R191 to R232, R255 to R262; R785). -/

namespace Sys2Proof.Machine

/-! ### Rings in use -/

def allRings : List (Fin 24) := (List.range 24).map ringFin
def allCmd : List (Fin 8) := [0, 1, 2, 3, 4, 5, 6, 7]
/-- Completions a command ring owes: of descriptors started, and of those that wait for room. -/
def State.owed (s : State) (r : Fin 8) : Nat :=
  (s.hif.started.filter (fun t => t.d.ring == r && !t.orphan && !t.dropped)).length + s.hif.rings[cmdRing r].cplWait.length
/-- The completion ring has room for one more completion beyond those owed (R216). -/
def State.cplRoom (s : State) (r : Fin 8) : Bool := decide (s.owed r < s.ringRoom (cplRing r))
def HostWrite.ring? : HostWrite → Option (Fin 24)
  | .completion n _ _ | .record n _ _ | .tile n _ _ => some n
  | .data _ _ => none
/-- HIF_RINGn_CTL.ACTIVE: the device can still read or write the ring's memory, or owes completions to it. DEDUCED, log 32. -/
def State.ringActive (s : State) (n : Fin 24) : Bool :=
  s.ringOn n || s.hif.outq.any (fun w => w.ring? == some n)
    || (if n.val < 8 then decide (0 < s.owed (Fin.ofNat 8 n.val) + s.hif.rings[n].held.length) else false)
/-! ### Draining (R225 to R232, R257) -/

/-- A record kept in the buffer is written: to the ring chosen when it was generated while that is enabled, else routed now (R227, R257). -/
def State.unbuffer (s : State) (r : Rec) : State :=
  match r.ring.filter (fun n => s.ringOn n) with
  | some n => s.toRing n r
  | none => s.takeRec { r with ring := none }
/-- The buffered records go out in order, then one OVERLOAD of SOURCE 3 when some were dropped (R227). -/
def State.flushBuf (s : State) : State :=
  if !s.engine || !s.hif.accepts || s.pcie.d3hot then s
  else
    let rs := s.hif.buf
    let n := s.hif.bufDrops
    let s := (s.modHif (fun h => { h with buf := [], bufDrops := 0 })).forEach rs State.unbuffer
    s.cond (0 < n) (fun s => s.takeRec (s.mkRec 0x0E (overloadBody 0 3 n 0 0)))
/-- Vectors whose pending bit is set are sent once they are unmasked and the device may send (R232). -/
def State.sendPending (s : State) : State :=
  if !s.hostOpen || !s.hif.accepts || !s.hif.msixEnable || s.hif.msixMask then s
  else s.forEach (List.range 32) (fun s v =>
    let i : Fin 32 := Fin.ofNat 32 v
    let e := s.hif.msix[i]
    s.cond (e.pending && !e.masked) (fun s =>
      (s.modHif (fun h => { h with msix := upd h.msix i (fun e => { e with pending := false }) })).sendVector v))
/-- The host takes writes: the outbound buffer, the kept records and the signals go out, in this order (R236, R257, R785). -/
def State.drain (s : State) : State :=
  if !s.hif.accepts || s.pcie.d3hot then s
  else
    let q := s.hif.outq
    let s := (s.modHif (fun h => { h with outq := [] })).forEach q State.post
    (s.flushBuf.forEach allRings State.signalRing).sendPending

/-- PCI_PM_D3HOT_ENTER (R785). DESIGN CHOICE, log 76. -/
def execPciPmD3hotEnter (s : State) : Host.Outcome State Fault Refusal :=
  live s fun s => s.cond (!s.env.perstLow) (fun s => s.modPcie (fun p => { p with d3hot := true }))
/-- OVERLOAD_POST (R225). -/
def execOverloadPost (ring : Fin 24) (s : State) : Host.Outcome State Fault Refusal :=
  live s fun s => s.cond (s.hif.accepts && !s.pcie.d3hot) (·.reportDrops ring)

/-- CAPTURE_DROP_REPORT (R229). -/
def execCaptureDropReport (ring : Fin 4) (s : State) : Host.Outcome State Fault Refusal :=
  live s fun s =>
    let n := capRing ring
    let q := s.hif.rings[n]
    if q.drops == 0 || !s.ringOn n || s.ringRoom n == 0 || 65536 < s.outBytes + 4160 then s
    else (s.modRing n (fun q => { q with drops := 0 })).record 0x0E (overloadBody n.val 2 q.drops q.dropFirst q.dropLast)

/-- MSIX_SEND (R231): the holdoff of a ring has passed. -/
def execMsixSend (ring : Fin 24) (s : State) : Host.Outcome State Fault Refusal := live s (·.signalRing ring)

/-- MSIX_TABLE_WRITE (R204, R232): a word of the MSI-X table, or with no offset the capability's first word, whose bit 31 enables MSI-X
and whose bit 30 masks the function. -/
def execMsixTableWrite (off : Option Nat) (w : Word) (s : State) : Host.Outcome State Fault Refusal :=
  live s fun s =>
    if s.env.perstLow then s
    else match off with
      | none => (s.modHif (fun h => { h with msixEnable := getF w 31 1 == 1, msixMask := getF w 30 1 == 1 })).sendPending
      | some o =>
        if o < 0x800 || 0xA00 ≤ o || s.pcie.d3hot then s
        else
          let i : Fin 32 := Fin.ofNat 32 ((o - 0x800) / 16)
          let lo (e : MsixVec) : BitVec 64 := e.addr
          let set (e : MsixVec) : MsixVec :=
            match o / 4 % 4 with
            | 0 => { e with addr := BitVec.ofNat 64 ((lo e).toNat / 2 ^ 32 * 2 ^ 32 + w.toNat / 4 * 4) }
            | 1 => { e with addr := BitVec.ofNat 64 ((lo e).toNat % 2 ^ 32 + w.toNat * 2 ^ 32) }
            | 2 => { e with data := w }
            | _ => { e with masked := getF w 0 1 == 1 }
          (s.modHif (fun h => { h with msix := upd h.msix i set })).sendPending

/-! ### BAR2 (R204 to R210) -/

/-- The ring and the index that a doorbell write names: none for an offset or a number that names no ring (R205, R262). DEDUCED, log 30.
DEDUCED, log 31. -/
def State.doorbellOf (s : State) (off : Nat) (w : Word) : Option (Fin 24 × Nat) :=
  let i := getF w 0 16
  if s.compat6 then (if off == 0 && getF w 24 8 < 24 then some (ringFin (getF w 24 8), i) else none)
  else if off % 8 == 0 && off < 0xC0 then some (ringFin (off / 8), i) else none
/-- A doorbell of a ring would be taken (R206). DEDUCED, log 30. -/
def State.doorbellOk (s : State) (n : Fin 24) (i : Nat) : Bool :=
  s.ringOn n && decide (i < s.ringSize n)
    && (n.val < 8 || decide ((i + s.ringSize n - s.cons n) % s.ringSize n ≤ s.ringUsed n))

/-- DOORBELL_ARRIVAL (R205 to R208, R262): a BAR2 write outside the MSI-X structures; `full` tells one word with all byte enables. DEDUCED, log 31. -/
def execDoorbellArrival (off : Nat) (w : Word) (full : Bool) (s : State) : Host.Outcome State Fault Refusal :=
  running s fun s =>
    if !s.free? .hif || s.env.perstLow || s.pcie.d3hot || 0x1000 ≤ off || (0x800 ≤ off && off < 0xA00) || (0xC00 ≤ off && off < 0xC04) then s
    else match s.doorbellOf off w with
      | none => s.ringErr Fld.hifStatDbErr 31
      | some (n, i) =>
        if full && s.doorbellOk n i then (s.modRing n (fun r => { r with doorbell := some i })).wake 0
        else s.ringErr Fld.hifStatDbErr n.val

/-- The completions that wait for an entry of a completion ring are written as far as there is room (R201, R263). -/
def putWaitingN : Nat → State → Fin 8 → State
  | 0, s, _ => s
  | k + 1, s, r =>
    match s.hif.rings[cmdRing r].cplWait with
    | [] => s
    | c :: rest =>
      if s.ringRoom (cplRing r) == 0 then s
      else putWaitingN k ((s.modRing (cmdRing r) (fun q => { q with cplWait := rest })).putCpl r c) r
def State.putWaiting (s : State) (r : Fin 8) : State := putWaitingN (s.hif.rings[cmdRing r].cplWait.length) s r

/-- DOORBELL_TAKE (R207, R208): in D0 the device takes the last doorbell of a ring, judged again. -/
def execDoorbellTake (ring : Fin 24) (s : State) : Host.Outcome State Fault Refusal :=
  running s fun s =>
    match s.hif.rings[ring].doorbell with
    | none => s
    | some i =>
      if s.pst != 0 then s
      else
        let s := s.modRing ring (fun r => { r with doorbell := none })
        if !s.doorbellOk ring i then s.ringErr Fld.hifStatDbErr ring.val
        else if ring.val < 8 then s.put (Fld.hifRingHeadProducer ring.val) i
        else
          let s := s.put (Fld.hifRingTailConsumer ring.val) i
          if ring.val < 16 then s.putWaiting (Fin.ofNat 8 ring.val) else s

/-- A BAR2 read outside the MSI-X structures (R210): the device-owned index of a ring, else 0. -/
def State.bar2Read (s : State) (off : Nat) : Word :=
  if off % 8 == 0 && off < 0xC0 then
    let n := ringFin (off / 8)
    BitVec.ofNat 32 (if n.val < 8 then s.cons n else s.prod n)
  else 0

/-- The head tells the member that makes the tiles of a capture that the capture has ended. -/
def msgCapEnd : Nat := 0x5B
/-- The capture of a capture ring ends (R203, R258). -/
def State.capDrop (s : State) (r : Fin 4) (status : Nat) : State :=
  match s.samp.caps[r] with
  | some c => (s.cond (s.head && c.member != s.me) (fun s => s.sendReq
      { dst := c.member, src := s.me, kind := 2, code := msgCapEnd, tag := 0, words := [BitVec.ofNat 32 r.val] } none)).capEnd r status
  | none => s

/-! ### Enables (R197 to R203) -/

/-- A write of HIF_CTL (R197, R198): only the head's ring engine runs (R19). -/
def State.writeHifCtl (s : State) (w : Word) : State :=
  if getF w 0 1 == 1 then
    if !s.head then s.flag Fld.hifStatNotHead
    else if s.engine then s
    else (s.putB Fld.hifCtlEngineEn true).flushBuf
  else match allRings.find? (fun n => s.ringActive n) with
    | some n => s.ringErr Fld.hifStatCfgErr n.val
    | none => s.putB Fld.hifCtlEngineEn false

/-- A write of a base or size register of a ring in use is refused (R200). -/
def State.writeRingPlace (s : State) (n : Fin 24) (off : Nat) (w : Word) : State :=
  if s.is (Fld.hifRingCtlEn n.val) || s.ringActive n then s.ringErr Fld.hifStatCfgErr n.val
  else if off == Reg.hifRingBaseLo n.val then s.put (Fld.hifRingBaseLoAddr n.val) (w.toNat / 4096)
  else if off == Reg.hifRingBaseHi n.val then s.wr off w
  else s.put (Fld.hifRingSizeLog2 n.val) (getF w 0 5)

/-- EN of a ring is set: base and size are checked, the indices become 0, the first pass carries PHASE 1 (R199). -/
def State.ringEnable (s : State) (n : Fin 24) : State :=
  let l := s.get (Fld.hifRingSizeLog2 n.val)
  if l < 4 || 16 < l then s.ringErr Fld.hifStatCfgErr n.val
  else
    let s := ((((s.putB (Fld.hifRingCtlEn n.val) true).putB (Fld.hifRingCtlHalted n.val) false).put (Fld.hifRingHeadProducer n.val) 0).put
      (Fld.hifRingTailConsumer n.val) 0).modRing n (fun r => { r with doorbell := none, unsignalled := false })
    s.cond (decide (8 ≤ n.val) && decide (n.val < 20)) (·.putB (Fld.hifRingHeadPhase n.val) true)

/-- EN of a ring is cleared, with the effects of R201 to R203 for its kind. DEDUCED, log 33. -/
def State.ringDisable (s : State) (n : Fin 24) : State :=
  let s := (s.putB (Fld.hifRingCtlEn n.val) false).modRing n (fun r => { r with doorbell := none, unsignalled := false })
  if n.val < 8 then
    let r : Fin 8 := Fin.ofNat 8 n.val
    let hs := s.hif.rings[n].held
    (s.modRing n (fun r => { r with held := [] })).forEach hs (fun s h => s.writeCpl r (s.cplOf h.d { status := stCancelled }))
  else if n.val < 16 then
    let r : Fin 8 := Fin.ofNat 8 n.val
    let k := s.hif.rings[cmdRing r].cplWait.length
    ((s.modRing (cmdRing r) (fun q => { q with cplWait := [] })).add (Fld.hifDropCntCount n.val) k).modHif (fun h =>
      { h with started := h.started.map (fun t => if t.d.ring == r then { t with dropped := true } else t) })
  else
    let s := s.modRing n (fun r => { r with drops := 0 })
    if n.val < 20 then s else s.capDrop (Fin.ofNat 4 n.val) stCancelled

/-- A write of HIF_RINGn_CTL (R199 to R203, R223). DEDUCED, log 32. -/
def State.writeRingCtl (s : State) (n : Fin 24) (w : Word) : State :=
  let s := s.put (Fld.hifRingCtlHoldoff n.val) (getF w 8 8)
  let s := s.cond (decide (16 ≤ n.val) && decide (n.val < 20)) (·.put (Fld.hifRingCtlTypeMask n.val) (getF w 17 15))
  match s.is (Fld.hifRingCtlEn n.val), getF w 0 1 == 1 with
  | false, true => s.ringEnable n
  | true, false => s.ringDisable n
  | _, _ => s

/-! ### Resets of the block (R258 to R261) -/

def HostWrite.isCpl : HostWrite → Bool
  | .completion _ _ _ => true
  | _ => false
def HostWrite.isRec : HostWrite → Bool
  | .record _ _ _ => true
  | _ => false

/-- The updates of a region end as R258 says: one that waits is discarded; one that runs ends without effect when its data had not been
read. DEDUCED, log 29. -/
def State.regionReset (s : State) (r : Fin 8) : State :=
  let st := s.hif.regions[r]
  let s := match st.waiting with
    | some d => (s.modHif (fun h => { h with regions := upd h.regions r (fun q => { q with waiting := none })
                                             started := h.started.eraseP (fun t => t.d.same d) })).cancelEnded d false
    | none => s
  match st.running with
  | some d => if st.data.isNone then s.regionDone d { status := stBadDesc, detail := dtDmaRead } else s
  | none => s

/-- A RESTORE that still reads its blob ends without effect (R258). DEDUCED, log 29. -/
def State.restoreReset (s : State) : State :=
  match s.hif.restore with
  | some d => (s.modHif (fun h => { h with restore := none })).bad d dtDmaRead
  | none => s

/-- Function level reset, PERST_N low, or a hold of the HIF block (R258). DEDUCED, log 28. -/
def State.hifReset (s : State) : State :=
  let q := s.hif.outq
  let stale := (q.filter (·.isCpl)).length + (s.hif.rings.toList.map (fun r => r.cplWait.length)).sum
  let s := (s.clearRegs 0x0800 0x0C00).add Fld.topStaleCntCount stale
  let s := s.modHif (fun h => { h with rings := Vector.replicate 24 ringReset, rr := 0, outq := []
                                       bufDrops := h.bufDrops + (q.filter (·.isRec)).length
                                       started := h.started.map (fun t => { t with orphan := true }) })
  let s := s.modTop (fun t => { t with blk := upd t.blk Blk.hif.idx (fun b => { b with gen := b.gen + 1 }) })
  if !s.head then s
  else
    let s := s.forEach allPaths (fun s r => s.capDrop r stPeerReset)
    let s := s.forEach s.svc.edits (fun s d => (s.modSvc (fun v => { v with edits := v.edits.erase d })).bad d dtDmaRead)
    (s.forEach allCmd State.regionReset).restoreReset

/-- The function's own registers at a reset of the function: Bus Master Enable, Max_Read_Request_Size, PCI-PM, MSI-X. DEDUCED, log 28. -/
def State.functionReset (s : State) : State :=
  (s.modPcie (fun p => { p with busMaster := false, mrrs := 512, d3hot := false, aspmL1 := 0 })).modHif (fun h =>
    { h with accepts := true, msixEnable := false, msixMask := false, msix := Vector.replicate 32 msixReset })

end Sys2Proof.Machine
end

