-- ==== Sys2Proof/Machine/Reset.lean ====
section
/-! DEFINITION. The reset events of Table 3.1 and the hold of a block (R67 to R70, R175 to R181, R258). -/

namespace Sys2Proof.Machine

/-! ### Resets of the device -/

/-- Everything is lost: power-on reset, RESET_N low, or EN_MAIN fallen in D4 (Table 3.1). What the board holds and what the device has done
stay; images, configuration, keys, calibration values, the retirement map, the roster and the recall list are gone (R105). -/
def State.hardReset (s : State) (por : Bool) : State :=
  { State.reset with
    env := s.env, out := s.out, free := s.free, pending := s.pending
    top := { State.reset.top with por := por, straps := s.top.straps }
    pip := { State.reset.pip with ballA := s.pip.ballA, ballB := s.pip.ballB } }

/-- The straps are sampled (R50): TOP_CFG.COMPAT6 takes its strap, and the internal pull-downs stay on for 10 µs (R51). DESIGN CHOICE, log 7. -/
def State.sampleStraps (s : State) (st : Straps) : State :=
  (s.modTop (fun t => { t with straps := st, pullDowns := true })).putB Fld.topCfgCompat6 st.compat6

/-- Registers whose words a soft reset keeps: TOP_SCRATCHn, FLT_RETIRE_MAPn (Table 3.1), the mirrors of the retirement map, and the
selection of the reference. DEDUCED, log 22. -/
def softKeeps (off : Nat) : Bool :=
  (Reg.topScratch 0 ≤ off && off ≤ Reg.topScratch 3)
    || [Reg.fltRetireMap0, Reg.fltRetireMap1, Reg.fltRetireMap2, Reg.fltRetireMap3, Reg.exchLaneMap, Reg.bankRetired, Reg.clkRefSel].contains off

/-- The mirrors of the retirement map in registers that a reset has cleared (Table 20.2). -/
def State.retiredMirrors (s : State) : State :=
  let s := s.forEach allLos (fun s n => s.cond (s.retired 1 n.val) (·.putB (Fld.loStatRetired n.val) true))
  let s := s.forEach allLinks (fun s k =>
    (s.put (Fld.lnkLanesRetired k.val) (b2n (s.retired 2 (2 * k.val)) + 2 * b2n (s.retired 2 (2 * k.val + 1)))).cond (s.retired 3 k.val)
      (·.put (Fld.lnkStatState k.val) lkRetired))
  let n := (bitsOf 8 (s.get Fld.bankRetiredBanks)).length
  (s.put Fld.storeCtlBanksLost n).putB Fld.storeCtlNoTiles (decide (5 ≤ n))

/-- What a soft reset leaves of the state (R67, R68, R182, Table 3.1): everything goes but what the table keeps. -/
def State.softCleared (s : State) : State :=
  { State.reset with
    regs := s.regs.filter (fun e => softKeeps e.1)
    env := s.env, out := s.out, free := s.free, pending := s.pending, pcie := s.pcie, jtag := s.jtag, tile := s.tile
    top := { State.reset.top with straps := s.top.straps, pullDowns := s.top.pullDowns, silent := true }
    hif := { State.reset.hif with msixEnable := s.hif.msixEnable, msixMask := s.hif.msixMask, msix := s.hif.msix }
    clk := { State.reset.clk with synced := s.clk.synced, refLost := s.clk.refLost, audFrame := s.clk.audFrame }
    pip := { State.reset.pip with cycle := s.pip.cycle, ballA := s.pip.ballA, ballB := s.pip.ballB }
    store := { State.reset.store with bankMap := State.reset.store.bankMap.filter (fun p => !s.retired 4 p) } }

/-- A soft reset (R67 to R70, R182; the retirement map survives, R106): the system ADPLL stays locked, and the device is in WAIT_IMAGES. The ports are silent for 100 µs
(R140, R183). DEDUCED, log 22. -/
def State.softReset (s : State) : State :=
  let lone := s.head || s.lnk.loneLace
  let r := ((s.softCleared.putB Fld.topCfgCompat6 s.top.straps.compat6).putB Fld.clkSysStatLock (s.is Fld.clkSysStatLock)).putB
    Fld.clkRefSelRej false
  let r := r.putB Fld.clkSyncStatAligned (s.is Fld.clkSyncStatAligned && lone)
  r.retiredMirrors.cond s.clk.synced (·.waitImages)

/-! ### A block held in reset (R175 to R181) -/

/-- Registers of the LNK block that a hold clears (R683): every counter, the DOWN_EV flags, and LACE_SHAPE on the head. -/
def State.lnkHeld (s : State) : State :=
  let s := (s.cond s.head (·.wr Reg.laceShape 0)).put Fld.laceEpochStaleDrop 0
  s.forEach allLinks (fun s k =>
    ((((((s.put (Fld.lnkStatDownCnt k.val) 0).put (Fld.lnkStatDiscard k.val) 0).put (Fld.lnkStatDownEv k.val) 0).put (Fld.lnkLanesErr0 k.val) 0).put
      (Fld.lnkLanesErr1 k.val) 0).put (Fld.lnkCrcCntCount k.val) 0).put (Fld.lnkReplayCntCount k.val) 0)

/-- What a hold does to the block's function, as the block's chapter states, and its registers to their reset values. -/
def State.blkCleared (s : State) (b : Blk) : State :=
  let clr (s : State) : State := s.clearRegs b.base (b.base + b.size)
  match b with
  | .hif => s.hifReset
  | .pip => clr s.pipHeld
  | .radio => (clr s.radioHeld).retiredMirrors
  | .samp => clr s.sampHeld
  | .cal => clr s.calHeld
  | .bcst => clr s.bcstHeld
  | .aud => clr s.audHeld
  | .tag => clr s.tagHeld
  | .lnk => s.lnkHeld
  | .exch =>
    let m := s.rd Reg.exchLaneMap
    (clr s.exchHeld).wr Reg.exchLaneMap m

/-- A write of 1 to a block's bit (R176): the block is held, its generation advances, a half held in a write shadow of it goes (R173). -/
def State.holdBlk (s : State) (b : Blk) : State :=
  if (s.blkSt b).hold == .held then s
  else
    let s := s.blkCleared b
    s.modTop (fun t => { t with blk := upd t.blk b.idx (fun q => { hold := .held, gen := if b == .hif then q.gen else q.gen + 1 })
                                wrShadow := t.wrShadow.map (fun x => x.filter (fun y => y.1 < b.base || b.base + b.size ≤ y.1)) })

/-- A write of 0 to a block's bit (R180): its release begins. -/
def State.releaseBlk (s : State) (b : Blk) : State :=
  s.cond ((s.blkSt b).hold == .held) (·.modTop (fun t => { t with blk := upd t.blk b.idx (fun q => { q with hold := .releasing }) }))

/-- A write of TOP_BLOCK_RESET (R175 to R180). -/
def State.writeBlockReset (s : State) (w : Word) : State :=
  s.forEach Blk.all (fun s b => if getF w b.bit 1 == 1 then s.holdBlk b else s.releaseBlk b)

/-- TOP_BLOCK_RESET as it reads (R180). -/
def State.blockResetView (s : State) : Word := packW (Blk.all.map (fun b => (b.bit, 1, b2n (!s.free? b))))

/-! ### A soft reset that waits for a completion (R184) -/

/-- A soft reset that a REG_WRITE fired takes effect: on the head once its completion is in host memory, on another member at once. -/
def State.softDue (s : State) : State :=
  s.cond (s.top.softPending && !s.hif.outq.any (·.isCpl)) (·.softReset)

end Sys2Proof.Machine
end

