-- ==== Sys2Proof/Machine/Access.lean ====
section
/-! DEFINITION. The setup space as the four access ports reach it: which accesses are served, what a register reads as, what a write
does (spec 05, R148 to R190), and the commands that are register writes. -/

namespace Sys2Proof.Machine

/-! ### Views: fields that tell what the device is in -/

/-- TOP_STRAPS (R50). -/
def State.strapsView (s : State) : Word :=
  let t := s.top.straps
  packW [(16, 1, b2n t.io3v3), (12, 2, t.bootsrc.toNat), (9, 1, b2n t.compat6), (8, 1, b2n t.head), (0, 6, t.id.toNat)]
/-- TOP_UNIQUE, 64 bits (R189). -/
def uniqueHalf (hi : Bool) : Word := if hi then Config.unique.extractLsb' 32 32 else Config.unique.extractLsb' 0 32
/-- The pip count follows a source that is there (PIP_SRC.LOCKED). -/
def State.pipLocked (s : State) : Bool :=
  if s.pipSrc == srcDab || s.pipSrc == srcRds then s.pipBcstSync else if s.pipSrc == srcLace then s.pip.beaconOk else true
/-- PWR_STATE with its live fields (R769, R770). -/
def State.pwrStateView (s : State) : Word := setF (setF (s.rd Reg.pwrState) 16 13 s.powerHolds) 8 3 s.deepest
/-- The ring whose control register an offset is. -/
def ringOfCtl (off : Nat) : Option (Fin 24) := allRings.find? (fun n => Reg.hifRingCtl n.val == off)

/-- What a register reads as: the register file with the fields that follow other state. DESIGN CHOICE, log 18. -/
def State.regView (s : State) (off : Nat) : Word :=
  let w := s.rd off
  if off == Reg.topStraps then s.strapsView
  else if off == Reg.topStatus then setF (setF w 1 1 (b2n s.head)) 2 1 (b2n s.engine)
  else if off == Reg.topBlockReset then s.blockResetView
  else if off == Reg.topUniqueLo then uniqueHalf false
  else if off == Reg.topUniqueHi then uniqueHalf true
  else if off == Reg.bootStat then setF w Fld.bootStatSource.lo 2 s.source
  else if off == Reg.hifStat then setF w 0 1 (b2n (allRings.any s.ringActive))
  else if off == Reg.pipSrc then setF (setF w 17 1 (b2n (s.pipPeriod == 0))) 16 1 (b2n s.pipLocked)
  else if off == Reg.pwrState then s.pwrStateView
  else if off == Reg.pwrNextLead then BitVec.ofNat 32 s.nextLeadView
  else if off == Reg.scrubStat then setF w 1 1 (b2n s.scrubActive)
  else if off == Reg.bcstStat then s.bcstStat
  else if off == Reg.rdsStat then s.rdsStat
  else if off == Reg.dabStat then s.dabStat
  else if off == Reg.clkAudStat && 2 ≤ s.audSrc && s.is Fld.clkAudStatLock then setF w 16 16 (Config.audioPpm s.free)
  else match ringOfCtl off with
    | some n => setF w 2 1 (b2n (s.ringActive n))
    | none => w

/-! ### Reach (R104, R141, R157, R158, R164, R177, R183) -/

/-- How an access is met. -/
inductive Reach where
  /-- Served. -/
  | ok
  /-- The ports answer 0 after a soft reset (R183). -/
  | silent
  /-- Reserved space (R164); `early` tells that the offset lies outside TOP, BOOT and SPI before the device runs. -/
  | reserved (early : Bool)
  /-- A register outside TOP, BOOT and SPI before the device runs (Table 3.5). -/
  | early
  /-- A block outside the reach in D1 to D3 (R141, R157). -/
  | doze
  /-- A block held in reset (R177). -/
  | held
  deriving DecidableEq, Repr

/-- Blocks of Table 5.1: base, size, reached in D1 to D3. -/
def blockMap : List (Nat × Nat × Bool) :=
  [(0x0000, 0x400, true), (0x0400, 0x400, true), (0x0800, 0x400, false), (0x0C00, 0x400, true), (0x1000, 0x400, true), (0x1400, 0x400, false),
   (0x1800, 0x400, true), (0x2000, 0x800, false), (0x2800, 0x800, false), (0x3000, 0x800, false), (0x3800, 0x800, false)] ++
  [(0x4000, 0x800, false), (0x4800, 0x800, false), (0x5000, 0x800, false), (0x5800, 0x800, false), (0x6000, 0x800, false),
   (0x6800, 0x800, false), (0x7000, 0x800, true), (0x7800, 0x800, true), (0xF000, 0x1000, false)]
/-- The block of an offset, and whether D1 to D3 reach it. -/
def blockAt (off : Nat) : Option Bool := (blockMap.find? (fun b => decide (b.1 ≤ off) && decide (off < b.1 + b.2.1))).map (·.2.2)
/-- The block under TOP_BLOCK_RESET that holds an offset. -/
def blkAt (off : Nat) : Option Blk := Blk.all.find? (fun b => decide (b.base ≤ off) && decide (off < b.base + b.size))
/-- An offset is a register of Tables 5.7 to 5.14. -/
def isReg (off : Nat) : Bool := (regRow off).isSome
/-- TOP, BOOT and SPI, which act before the device runs (Table 3.5). DEDUCED, log 20. -/
def earlyBlock (off : Nat) : Bool := decide (off < 0x800) || (decide (0xC00 ≤ off) && decide (off < 0x1000))

/-- A port takes accesses: PCI Express while PERST_N is high and the function is in D0, SPI outside its silent periods (R140, R143), the service
core while its image runs. DEDUCED, log 19. -/
def State.portOpen (s : State) (p : Port) : Bool :=
  match p with
  | .pcie => s.alive && !s.env.perstLow && !s.pcie.d3hot
  | .spi => s.alive && !s.top.silent && !s.spi.d4Silent
  | .jtag => s.alive
  | .svc => s.runs

/-- How an access through a port to an offset is met. DEDUCED, log 20. -/
def State.reach (s : State) (p : Port) (off : Nat) : Reach :=
  if s.top.silent && p != .svc then .silent
  else if off % 4 != 0 then .reserved false
  else if s.phase != phRun then
    (if !isReg off then .reserved (!earlyBlock off) else if earlyBlock off then .ok else .early)
  else match blockAt off with
    | none => .reserved false
    | some doze =>
      if s.pst != 0 && p != .svc && !doze then .doze
      else if !isReg off then .reserved false
      else match blkAt off with
        | some b => if s.free? b then .ok else .held
        | none => .ok

/-- An access that is not served sets its flags. DEDUCED, log 19. -/
def State.refused (s : State) (r : Reach) (p : Port) (write : Bool) (off : Nat) : State :=
  match r with
  | .ok | .silent => s
  | .reserved e => (s.rsvdAcc p write off).cond (e && p == .spi) (·.flag Fld.spiStatBadcmd)
  | .early => s.cond (p == .spi) (·.flag Fld.spiStatBadcmd)
  | .doze => (s.accErr Fld.topStatusDozeAcc 6 p write off).cond (p == .spi) (·.flag Fld.spiStatLate)
  | .held => (s.accErr Fld.topStatusBlkAcc 4 p write off).cond (p == .spi) (·.flag Fld.spiStatLate)

/-! ### Reads (R162, R168 to R171) -/

/-- _LO offsets of Table 5.4. -/
def isPairLo (off : Nat) : Bool :=
  [Reg.topUniqueLo, Reg.bootSvcAddrLo, Reg.bootSeqAddrLo, Reg.pipCountLo, Reg.sampOctetMaskLo, Reg.laceMembersLo].contains off
    || allRings.any (fun n => Reg.hifRingBaseLo n.val == off)

/-- One word read through a port: its value, and the state with the port's shadow and flags (R168, R169). DEDUCED, log 75. -/
def State.serveRead (s : State) (p : Port) (off : Nat) : Word × State :=
  match s.reach p off with
  | .ok =>
    if isPairLo off then
      (s.regView off, s.modTop (fun t => { t with rdShadow := upd t.rdShadow p.idx (fun _ => some (off, s.regView (off + 4))) }))
    else if 4 ≤ off && isPairLo (off - 4) then
      match s.top.rdShadow[p.idx] with
      | some (t, w) => (if t == off - 4 then w else s.regView off, s)
      | none => (s.regView off, s)
    else (s.regView off, s)
  | r => (0, s.refused r p false off)
/-- Words read at ascending offsets, wrapping past 0xFFFF (R121, R151). -/
def readRun : Nat → State → Port → Nat → List Word × State
  | 0, s, _, _ => ([], s)
  | n + 1, s, p, off =>
    let r := s.serveRead p (off % 0x10000)
    let q := readRun n r.2 p (off + 4)
    (r.1 :: q.1, q.2)

/-! ### Writes (R161, R163 to R166, R172 to R174) -/

/-- What a write's effect may depend on beside the state: the time since the last pip edge, the cycle of the tile, whether the next audio frame is too
near (R544), and the errors that a store access meets. -/
structure WriteAt where
  ns : Nat
  cycle : Nat
  near : Bool
  flips : List (Nat × Bool)
  deriving DecidableEq, Repr
/-- The moment as last told. -/
def State.now (s : State) : WriteAt := ⟨s.pip.since, s.pip.cycle, false, []⟩

/-- A field takes a written value under its access code (Table 0.5): RW takes it, W1C clears the bits written 1, any other keeps. -/
def applyField (old w : Word) (acc : Word) (f : Field) : Word :=
  match f.acc with
  | .rw => setF acc f.lo f.width (getF w f.lo f.width)
  | .w1c => setF acc f.lo f.width (getF (old &&& ~~~w) f.lo f.width)
  | _ => acc
/-- A whole register takes a written word. -/
def applyFields (fs : List Field) (old w : Word) : Word := fs.foldl (applyField old w) old
/-- A write reaches no field but RO ones (R166). -/
def allRO (fs : List Field) : Bool := fs.all (fun f => f.acc == .ro)
/-- Every RW and WO field of a write holds a value its table defines (R165). -/
def fieldsDefined (fs : List Field) (w : Word) : Bool :=
  fs.all (fun f => (f.acc != .rw && f.acc != .wo) || f.dom.isEmpty
    || f.dom.any (fun d => decide (d.1 ≤ getF w f.lo f.width) && decide (getF w f.lo f.width ≤ d.2)))

def loOfCtl (off : Nat) : Option (Fin 5) := allLos.find? (fun n => Reg.loCtl n.val == off)
def loOfFreq (off : Nat) : Option (Fin 5) := allLos.find? (fun n => Reg.loFreq n.val == off)
def loOfCalmode (off : Nat) : Option (Fin 5) := allLos.find? (fun n => Reg.loCalmode n.val == off)
def pathOfAgc (off : Nat) : Option (Fin 4) := allPaths.find? (fun p => Reg.agcCtl p.val == off)
def sapOfCtl (off : Nat) : Option Nat := (List.range 3).find? (fun n => Reg.sapCtl n == off)
def pathOfCal (off : Nat) : Option (Fin 4) := allPaths.find? (fun p => (calRegs p.val).any (·.1 == off))
def ringOfPlace (off : Nat) : Option (Fin 24) :=
  allRings.find? (fun n => Reg.hifRingBaseLo n.val == off || Reg.hifRingBaseHi n.val == off || Reg.hifRingSize n.val == off)
def mapOf (off : Nat) : Option Nat := [Reg.fltRetireMap0, Reg.fltRetireMap1, Reg.fltRetireMap2].findIdx? (· == off)

/-- Undefined encodings that depend on the device or on another field (field tables of spec 05, 07, 09, 10, 16). -/
def State.writeDefined (s : State) (off : Nat) (w : Word) : Bool :=
  if off == Reg.topSoftReset then w == 0x50F70001#32
  else if off == Reg.pipSrc then decide (getF w 0 3 < 6) && !(s.head && getF w 0 3 == srcLace)
  else if off == Reg.laceShape then shapeOk w
  else if off == Reg.txPower then decide (getF w 0 7 ≤ 68) && (s.is Fld.txPowerLock || decide (getF w 16 7 ≤ 68))
  else match loOfCtl off, loOfFreq off, pathOfAgc off with
    | some n, _, _ =>
      let t := getF w 0 3
      decide (t < 4) && !(n == loT && t == 3) && !(decide (2 ≤ t) && s.loFreqReg n == 0)
    | _, some n, _ => freqOk n w.toNat
    | _, _, some _ =>
      let hi := getF w 20 6
      decide (getF w 14 6 ≤ (if hi == 0 then 63 else hi))
    | _, _, _ => true

/-- Fields of a register on this device: LACE_SHAPE is writable on the head only, and FLT_POLICY7 has no TREC. -/
def State.fieldsAt (s : State) (off : Nat) (r : RegRow) : List Field :=
  if off == Reg.laceShape && !s.head then r.fields.map (fun f => { f with acc := .ro })
  else if off == Reg.fltPolicy 7 then r.fields.map (fun f => if f.lo == 8 then { f with acc := .ro } else f)
  else r.fields

/-- The SVC registers of a member that is not the head ignore writes (spec 18). DEDUCED, log 60. -/
def State.svcAway (s : State) (off : Nat) : Bool := !s.head && decide (0x6800 ≤ off) && decide (off < 0x7000)

/-- One access of DBG_CTL.GO to the sample store as requester of rank 8 (R190, spec 15 Edges). -/
def State.dbgGo (s : State) (flips : List (Nat × Bool)) : State :=
  let a := s.get Fld.dbgStoreAddrWord
  if !s.is Fld.dbgCtlEn then s
  else if s.reqRetired 8 || s.storeWords ≤ a then (s.flag Fld.dbgCtlErr).wr Reg.dbgStoreData 0
  else
    let next (s : State) : State := s.put Fld.dbgStoreAddrWord (a + 1)
    if s.is Fld.dbgCtlWr then next (s.storeWrite a (s.rd Reg.dbgStoreData))
    else
      let r := s.eccRead 8 a 1 flips
      if r.2 then next ((r.1.flag Fld.dbgCtlErr).wr Reg.dbgStoreData 0)
      else next (r.1.wr Reg.dbgStoreData (r.1.storeRead a))

/-- A write of LOn_CTL (R358, R16): the target, then the retune unless one is in progress. DEDUCED, log 24. -/
def State.writeLoCtl (s : State) (n : Fin 5) (w : Word) : State :=
  let t := getF w 0 3
  let s := (s.put (Fld.loCtlTarget n.val) t).loRequest n (.target t)
  s.cond (getF w 8 1 == 1 && !s.is (Fld.loCtlTune n.val)) fun s =>
    (s.putB (Fld.loCtlTune n.val) true).loRequest n (.tune (getF w 9 1 == 1))

/-- A pair lands whole: PIP_COUNT (R272), or the octet mask (R395). -/
def State.landPair (s : State) (lo : Nat) (l h : Word) (t : WriteAt) : State :=
  if lo == Reg.pipCountLo then s.pipHostWrite (sgn 64 (l.toNat + h.toNat * 2 ^ 32)) t.ns t.cycle
  else ((s.wr lo l).wr (lo + 4) h).sampMaskLands
/-- Table 5.4, column Write: Paired. -/
def isPaired (lo : Nat) : Bool := lo == Reg.pipCountLo || lo == Reg.sampOctetMaskLo

/-- Effects of a word that has been taken by its register, `old` what it held. -/
def State.afterWrite (s : State) (off : Nat) (old w : Word) (t : WriteAt) : State :=
  if off == Reg.bootCtl then s.bootCtl (getF w 0 1 == 1)
  else if off == Reg.pwrCtl then (s.cond (getF w 4 1 == 0) (·.modPwr (fun p => { p with wakeN := false }))).ownExit
  else if off == Reg.pwrLatTol then s.ownExit
  else if off == Reg.clkRefSel then s
  else if off == Reg.clkSysCtl then s.crystalStops
  else if off == Reg.clkSyncCtl then s.cond (getF w 0 1 == 1) (·.syncFire)
  else if off == Reg.clkAudCtl then s.audClkWritten old
  else if off == Reg.pipSrc then s.cond (getF old 0 3 != getF w 0 3) (·.pipSrcChanged)
  else if off == Reg.pipCtl then s.cond (getF w 1 1 == 1) (·.zArm)
  else if off == Reg.sampCtl then s.sampCtlLands
  else if off == Reg.audStartCtl then s.cond (getF w 8 1 == 1) (·.audGo t.near)
  else if off == Reg.svcRosterSize then s.rosterSized
  else if off == Reg.telemInterval then s.modFlt (fun f => { f with telem := telemReset })
  else if off == Reg.dbgCtl then s.cond (getF w 1 1 == 1) (·.dbgGo t.flips)
  else match loOfCalmode off, pathOfCal off with
    | some n, _ => s.cond (getF w 1 1 == 1) (·.loInvalidate n)
    | _, some p => s.calWritten p
    | _, _ => s

/-- A write that is served and defined acts on its register. -/
def State.landWrite (s : State) (p : Port) (off : Nat) (w : Word) (fs : List Field) (t : WriteAt) : State :=
  let old := s.rd off
  if off == Reg.topSoftReset then (if p == .svc then s.modTop (fun t => { t with softPending := true }) else s.softReset)
  else if off == Reg.topBlockReset then s.writeBlockReset w
  else if off == Reg.topCfg && s.engine && getF w 0 1 != getF old 0 1 then s.accErr Fld.topStatusCfgRej 5 p true off
  else if off == Reg.hifCtl then s.writeHifCtl w
  else if off == Reg.svcRosterSize && s.is Fld.svcCtlEn then s.encErr p off
  else if off == Reg.clkRefSel then (s.wr off (old &&& ~~~(w &&& 0x10000#32))).refSelect (getF w 0 1 == 1)
  else if off == Reg.spdoCtl then s.spdoWrite w
  else if off == Reg.txPower && s.is Fld.txPowerLock then s.put Fld.txPowerLevel (getF w 0 7)
  else if Reg.bootWinData 0 ≤ off && off ≤ Reg.bootWinData 63 then s.windowWrite w
  else match ringOfCtl off, ringOfPlace off, loOfCtl off, sapOfCtl off with
    | some n, _, _, _ => s.writeRingCtl n w
    | _, some n, _, _ => s.writeRingPlace n off w
    | _, _, some n, _ => s.writeLoCtl n w
    | _, _, _, some n => s.sapWrite n (packW [(8, 1, if n == 2 then getF w 8 1 else 0), (6, 2, getF w 6 2), (4, 2, getF w 4 2), (2, 2, getF w 2 2), (0, 2, getF w 0 2)])
    | _, _, _, _ =>
      match mapOf off with
      | some n => s.mapWrite n w
      | none => (s.wr off (applyFields fs old w)).afterWrite off old w t

/-- A write that reaches a register (R165, R166, R172, R173, R190). -/
def State.regWrite (s : State) (p : Port) (off : Nat) (w : Word) (t : WriteAt) : State :=
  match regRow off with
  | none => s
  | some r =>
    let fs := s.fieldsAt off r
    if 0xF004 ≤ off && p != .jtag then s.rsvdAcc p true off
    else if allRO fs || s.svcAway off then s
    else if !fieldsDefined fs w && off != Reg.txPower || !s.writeDefined off w then s.encErr p off
    else if isPaired off then s.modTop (fun t => { t with wrShadow := upd t.wrShadow p.idx (fun _ => some (off, w)) })
    else if 4 ≤ off && isPaired (off - 4) then
      let lo := off - 4
      match s.top.wrShadow[p.idx] with
      | some (h, l) =>
        if h == lo then (s.modTop (fun t => { t with wrShadow := upd t.wrShadow p.idx (fun _ => none) })).landPair lo l w t
        else s.landPair lo (s.rd lo) w t
      | none => s.landPair lo (s.rd lo) w t
    else s.landWrite p off w fs t

/-- One word written through a port. DEDUCED, log 60. -/
def State.serveWrite (s : State) (p : Port) (off : Nat) (w : Word) (t : WriteAt) : State :=
  match s.reach p off with
  | .ok => s.regWrite p off w t
  | r => s.refused r p true off
/-- Words written at ascending offsets, wrapping past 0xFFFF (R121, R151). -/
def writeRun : State → Port → Nat → List Word → State
  | s, _, _, [] => s
  | s, p, off, w :: ws => writeRun (s.serveWrite p (off % 0x10000) w s.now) p (off + 4) ws

/-- A write of one word by the board or by the service core. A soft reset that the service core writes is due at once unless a
completion must reach host memory first (R184). DESIGN CHOICE, log 17. -/
def State.hostWrite (s : State) (p : Port) (off : Nat) (w : Word) (t : WriteAt) : State :=
  if s.portOpen p then (s.serveWrite p off w t).cond (off == Reg.topSoftReset) (·.softDue) else s

/-! ### The commands that are accesses -/

/-- REGISTER_WRITE (R151, R152, R161): words at ascending offsets; over BAR0, `full` tells that all byte enables are set. -/
def execRegisterWrite (port : Port) (off : Nat) (words : List Word) (full : Bool) (s : State) : Host.Outcome State Fault Refusal :=
  done (
    if !s.portOpen port then s
    else if port == .pcie && !full then s.cond (!s.top.silent) (·.accErr Fld.topStatusBeErr 3 port true (off % 0x10000))
    else (writeRun s port off (words.take 64)).softDue)

/-- BAR0_OTHER_REQUEST (R152). -/
def execBar0OtherRequest (s : State) : Host.Outcome State Fault Refusal := done (s.cond (s.portOpen .pcie) (·.emit .unsupported))

/-- LO_HALF_READ (R151, R168 to R171): a read of `n` words through a port. -/
def execLoHalfRead (port : Port) (off n : Nat) (s : State) : Host.Outcome State Fault Refusal :=
  done (
    if !s.portOpen port then s
    else
      let r := readRun (min n 128) s port off
      r.2.emit (.words port r.1))

/-- The _LO of a pair that follows the paired rule: PIP_COUNT or the octet mask. -/
def pairLo (pip : Bool) : Nat := if pip then Reg.pipCountLo else Reg.sampOctetMaskLo
/-- PAIRED_LO_WRITE (R172). -/
def execPairedLoWrite (port : Port) (pip : Bool) (w : Word) (s : State) : Host.Outcome State Fault Refusal := done (s.hostWrite port (pairLo pip) w s.now)
/-- PAIRED_HI_WRITE (R172). -/
def execPairedHiWrite (port : Port) (pip : Bool) (w : Word) (ns cycle : Nat) (s : State) : Host.Outcome State Fault Refusal :=
  done (s.hostWrite port (pairLo pip + 4) w ⟨ns, cycle, false, []⟩)
/-- PIP_COUNT_HOST_WRITE (R272): both halves written through one port. -/
def execPipCountHostWrite (port : Port) (value : BitVec 64) (ns cycle : Nat) (s : State) : Host.Outcome State Fault Refusal :=
  done ((s.hostWrite port Reg.pipCountLo (value.extractLsb' 0 32) s.now).hostWrite port Reg.pipCountHi (value.extractLsb' 32 32) ⟨ns, cycle, false, []⟩)

/-- BOOT_START (R74, R77, R863): what PCI Express configuration has set stands with it: Bus Master Enable, and 128 × 2^mrrs bytes of Max_Read_Request_Size.
DEDUCED, log 21. -/
def execBootStart (port : Port) (w : Word) (busMaster : Bool) (mrrs : Fin 6) (s : State) : Host.Outcome State Fault Refusal :=
  let s' := s.cond (s.portOpen .pcie) (fun s => s.modPcie (fun p => { p with busMaster := busMaster, mrrs := 128 * 2 ^ mrrs.val }))
  done (s'.hostWrite port Reg.bootCtl w s'.now)
/-- BOOT_FORCE_UNTESTED (R88). -/
def execBootForceUntested (port : Port) (w : Word) (s : State) : Host.Outcome State Fault Refusal := done (s.hostWrite port Reg.bootCtl w s.now)
/-- BOOT_WINDOW_WRITE (R81). -/
def execBootWindowWrite (port : Port) (index : Fin 64) (w : Word) (s : State) : Host.Outcome State Fault Refusal :=
  done (s.hostWrite port (Reg.bootWinData index.val) w s.now)

/-- TOP_SOFT_RESET (R182). -/
def execTopSoftReset (port : Port) (w : Word) (s : State) : Host.Outcome State Fault Refusal := done (s.hostWrite port Reg.topSoftReset w s.now)
/-- BLOCK_RESET_HOLD (R176). -/
def execBlockResetHold (port : Port) (w : Word) (s : State) : Host.Outcome State Fault Refusal := done (s.hostWrite port Reg.topBlockReset w s.now)
/-- BLOCK_RESET_RELEASE (R180). -/
def execBlockResetRelease (port : Port) (w : Word) (s : State) : Host.Outcome State Fault Refusal := done (s.hostWrite port Reg.topBlockReset w s.now)
/-- COMPAT6_WRITE (R185). -/
def execCompat6Write (port : Port) (w : Word) (s : State) : Host.Outcome State Fault Refusal := done (s.hostWrite port Reg.topCfg w s.now)
/-- DBG_GO (R190): a JTAG write of DBG_CTL; `flips` are the errors that its read meets. -/
def execDbgGo (w : Word) (flips : List (Nat × Bool)) (s : State) : Host.Outcome State Fault Refusal :=
  done (s.hostWrite .jtag Reg.dbgCtl w ⟨s.pip.since, s.pip.cycle, false, flips⟩)

/-- HIF_ENGINE_ENABLE (R197, R259): Bus Master Enable stands as configuration has set it. DEDUCED, log 21. -/
def execHifEngineEnable (port : Port) (w : Word) (busMaster : Bool) (s : State) : Host.Outcome State Fault Refusal :=
  let s' := s.cond (s.portOpen .pcie) (fun s => s.modPcie (fun p => { p with busMaster := busMaster }))
  done (s'.hostWrite port Reg.hifCtl w s'.now)
/-- HIF_ENGINE_DISABLE (R198). -/
def execHifEngineDisable (port : Port) (w : Word) (s : State) : Host.Outcome State Fault Refusal := done (s.hostWrite port Reg.hifCtl w s.now)
/-- RING_ENABLE (R199). -/
def execRingEnable (port : Port) (ring : Fin 24) (w : Word) (s : State) : Host.Outcome State Fault Refusal :=
  done (s.hostWrite port (Reg.hifRingCtl ring.val) w s.now)
/-- RING_DISABLE (R201 to R203). -/
def execRingDisable (port : Port) (ring : Fin 24) (w : Word) (s : State) : Host.Outcome State Fault Refusal :=
  done (s.hostWrite port (Reg.hifRingCtl ring.val) w s.now)

/-- PIP_Z_ARM (R271). -/
def execPipZArm (port : Port) (w : Word) (s : State) : Host.Outcome State Fault Refusal := done (s.hostWrite port Reg.pipCtl w s.now)
/-- PIP_SRC_WRITE (R275). -/
def execPipSrcWrite (port : Port) (w : Word) (s : State) : Host.Outcome State Fault Refusal := done (s.hostWrite port Reg.pipSrc w s.now)
/-- REF_SELECT_WRITE (R317). -/
def execRefSelectWrite (port : Port) (w : Word) (s : State) : Host.Outcome State Fault Refusal := done (s.hostWrite port Reg.clkRefSel w s.now)
/-- AUDIO_FAMILY_CHANGE (R330). -/
def execAudioFamilyChange (port : Port) (w : Word) (s : State) : Host.Outcome State Fault Refusal := done (s.hostWrite port Reg.clkAudCtl w s.now)
/-- AUDIO_SRC_CHANGE (R330). -/
def execAudioSrcChange (port : Port) (w : Word) (s : State) : Host.Outcome State Fault Refusal := done (s.hostWrite port Reg.clkAudCtl w s.now)
/-- SYNC_FIRE (R336). -/
def execSyncFire (port : Port) (w : Word) (s : State) : Host.Outcome State Fault Refusal := done (s.hostWrite port Reg.clkSyncCtl w s.now)

/-- LO_TARGET_WRITE (R358). DEDUCED, log 24. -/
def execLoTargetWrite (port : Port) (unit : Fin 5) (w : Word) (s : State) : Host.Outcome State Fault Refusal := done (s.hostWrite port (Reg.loCtl unit.val) w s.now)
/-- LO_TUNE_WRITE (R358). -/
def execLoTuneWrite (port : Port) (unit : Fin 5) (w : Word) (s : State) : Host.Outcome State Fault Refusal := done (s.hostWrite port (Reg.loCtl unit.val) w s.now)
/-- LO_CAL_INVALIDATE (R361). -/
def execLoCalInvalidate (port : Port) (unit : Fin 5) (w : Word) (s : State) : Host.Outcome State Fault Refusal :=
  done (s.hostWrite port (Reg.loCalmode unit.val) w s.now)
/-- CAL_COEFF_WRITE (R450): one of the six coefficients of a path. -/
def execCalCoeffWrite (port : Port) (path : Fin 4) (item : Fin 6) (w : Word) (s : State) : Host.Outcome State Fault Refusal :=
  done (s.hostWrite port (Reg.calDcI path.val + 4 * item.val) w s.now)

/-- SAP_CTL_WRITE (R510). -/
def execSapCtlWrite (port : Port) (sap : Fin 3) (w : Word) (s : State) : Host.Outcome State Fault Refusal := done (s.hostWrite port (Reg.sapCtl sap.val) w s.now)
/-- SPDO_CS_LOAD (R535). -/
def execSpdoCsLoad (port : Port) (w : Word) (s : State) : Host.Outcome State Fault Refusal := done (s.hostWrite port Reg.spdoCtl w s.now)
/-- AUD_START_GO (R543): `near` tells that the next boundary comes too soon to start at (R544). -/
def execAudStartGo (port : Port) (w : Word) (near : Bool) (s : State) : Host.Outcome State Fault Refusal :=
  done (s.hostWrite port Reg.audStartCtl w ⟨s.pip.since, s.pip.cycle, near, []⟩)
/-- ROSTER_SIZE_WRITE (R733). -/
def execRosterSizeWrite (port : Port) (w : Word) (s : State) : Host.Outcome State Fault Refusal := done (s.hostWrite port Reg.svcRosterSize w s.now)
/-- LAT_TOL_WRITE (R768). -/
def execLatTolWrite (port : Port) (w : Word) (s : State) : Host.Outcome State Fault Refusal := done (s.hostWrite port Reg.pwrLatTol w s.now)
/-- RETIRE_MAP_WRITE (R797). -/
def execRetireMapWrite (port : Port) (n : Fin 3) (w : Word) (s : State) : Host.Outcome State Fault Refusal :=
  done (s.hostWrite port (Reg.fltRetireMap0 + 4 * n.val) w s.now)

/-! ### Blocks released, replies of an earlier generation -/

/-- BLOCK_RELEASE_DONE (R180): the block serves accesses again. -/
def execBlockReleaseDone (block : Blk) (s : State) : Host.Outcome State Fault Refusal :=
  live s fun s => s.cond ((s.blkSt block).hold == .releasing) (·.modTop (fun t => { t with blk := upd t.blk block.idx (fun q => { q with hold := .free }) }))
/-- STALE_REPLY (R179): a reply that carries an earlier generation of its block is discarded and counted. -/
def execStaleReply (block : Blk) (gen : BitVec 8) (s : State) : Host.Outcome State Fault Refusal :=
  live s fun s => s.cond (gen != (s.blkSt block).gen) (·.inc Fld.topStaleCntCount)

end Sys2Proof.Machine
end

