-- ==== Sys2Proof/Machine/Operands.lean ====
section
/-! DEFINITION. The operand forms of descriptors: the fields that each opcode names, and the encodings, alignments and lengths that its table
defines (spec 06, R211, and the operand tables of the chapters). -/

namespace Sys2Proof.Machine

/-! ### What an opcode's operands may hold (R211, Tables 6.3, 6.8 and the operand tables of the chapters) -/

/-- Named operand fields of an opcode: word, lowest bit, width. Every other bit of words 1 to 7 is reserved. -/
def opFields (op : Nat) : Option (List (Nat × Nat × Nat)) :=
  match op with
  | 0x01 => some []
  | 0x02 => some [(1, 0, 1)]
  | 0x03 => some [(1, 16, 16), (1, 0, 3)]
  | 0x04 => some [(1, 0, 24), (2, 0, 32), (3, 0, 32)]
  | 0x05 => some [(1, 0, 19), (2, 0, 32), (3, 0, 32), (4, 0, 32), (5, 0, 32)]
  | 0x06 => some [(1, 0, 3), (2, 0, 32), (3, 0, 32), (4, 0, 32), (5, 0, 32)]
  | 0x07 | 0x08 => some [(1, 0, 5), (2, 0, 32), (3, 0, 32), (4, 0, 32)]
  | 0x10 => some [(1, 8, 2), (1, 0, 3), (2, 0, 32)]
  | 0x11 => some [(1, 8, 3), (1, 0, 5)]
  | 0x12 => some [(1, 24, 8), (1, 16, 5), (1, 12, 2), (1, 8, 4), (2, 16, 16), (2, 0, 8), (3, 0, 16)]
  | 0x13 => some [(1, 16, 1), (1, 0, 4), (2, 0, 16)]
  | 0x18 => some [(1, 16, 2), (1, 12, 2), (1, 8, 2), (1, 0, 2), (2, 0, 32), (3, 0, 32), (4, 0, 32)]
  | 0x19 => some [(1, 16, 11), (1, 4, 4), (1, 0, 2), (2, 16, 8), (2, 8, 7), (2, 0, 7), (3, 0, 32)]
  | 0x1A => some [(1, 12, 2), (1, 8, 2), (1, 0, 3), (2, 0, 32), (3, 0, 32), (4, 0, 4)]
  | 0x20 => some [(1, 0, 32), (2, 0, 32), (3, 0, 32), (4, 0, 32), (5, 0, 32), (6, 0, 32)]
  | 0x21 => some [(1, 0, 9)]
  | 0x28 => some [(1, 16, 5), (1, 8, 6), (1, 4, 2), (1, 0, 2), (2, 0, 32), (3, 0, 32)]
  | 0x29 => some [(1, 0, 2)]
  | 0x30 => some [(1, 8, 2), (1, 4, 1), (1, 0, 2), (2, 0, 16)]
  | 0x31 => some [(1, 0, 2), (2, 0, 32), (3, 0, 32)]
  | 0x32 => some [(1, 0, 2)]
  | 0x38 => some [(1, 16, 16), (1, 9, 1), (1, 0, 3), (2, 0, 16), (3, 0, 32), (4, 0, 32), (5, 0, 32), (6, 0, 32)]
  | 0x39 => some [(1, 16, 16), (1, 0, 1), (2, 0, 32), (3, 0, 17), (4, 0, 32), (5, 0, 32)]
  | 0x3A => some [(1, 16, 16), (1, 8, 2), (1, 4, 1), (1, 0, 3), (2, 0, 32), (3, 0, 32), (4, 0, 32), (5, 0, 32)]
  | 0x40 => some [(1, 8, 1), (1, 0, 4)]
  | 0x48 => some [(2, 0, 32), (3, 0, 32)]
  | 0x50 => some [(1, 26, 2), (1, 16, 8), (1, 12, 2), (1, 8, 3), (1, 4, 2), (1, 0, 3)]
  | _ => none

/-- Bits of a word that named fields cover. -/
def fieldMask (fs : List (Nat × Nat × Nat)) (i : Nat) : Nat :=
  fs.foldl (fun m f => if f.1 == i then m ||| ((2 ^ f.2.2 - 1) * 2 ^ f.2.1) else m) 0
/-- A reserved bit of word 0 or of the operands is 1 (R211). DEDUCED, log 37. -/
def Desc.reservedSet (d : Desc) (fs : List (Nat × Nat × Nat)) : Bool :=
  d.f 0 14 2 != 0 || (List.range 7).any (fun k => (d.w (k + 1)).toNat &&& fieldMask fs (k + 1) != (d.w (k + 1)).toNat)

/-- Words 1 to 3 of a TAG_BEACON hold a value that Table 14.10 does not define. -/
def beaconUndefined (w1 w2 : Word) : Bool := getF w1 24 8 == 0 || getF w1 12 2 == 3 || getF w2 0 8 < 15

/-- An operand carries an encoding or a value that its table does not define. `cap` is the roster capacity. -/
def Desc.undefinedOperand (d : Desc) (cap : Nat) : Bool :=
  match d.opcode with
  | 0x04 => d.f 1 16 8 == 0 || 128 < d.f 1 16 8
  | 0x05 => d.f 1 16 3 == 0 || 4 < d.f 1 16 3
  | 0x06 => [3, 4].contains (d.f 1 0 3) && d.w 5 != 0
  | 0x10 => 4 < d.f 1 0 3 || d.f 1 8 2 == 3
  | 0x11 => d.f 1 0 5 == 0 || 3 < d.f 1 8 3 || (d.f 1 8 3 == 3 && d.f 1 4 1 == 1)
  | 0x12 => beaconUndefined (d.w 1) (d.w 2)
  | 0x18 => d.f 1 8 2 == 3
  | 0x19 => 100 < d.f 2 8 7 || 100 < d.f 2 0 7 || (0 < d.f 3 0 16 && d.f 3 0 16 < 500)
  | 0x1A => d.f 1 8 2 == 3
  | 0x28 => d.f 1 4 2 == 3 || (d.f 1 4 2 == 1 && d.f 1 16 5 != 0) || (d.f 1 4 2 != 1 && d.w 3 != 0)
  | 0x30 => 1 < d.f 1 0 2 || d.f 1 8 2 == 3 || (d.f 1 0 2 == 0) != (d.f 1 8 2 == 0)
  | 0x31 | 0x32 => 1 < d.f 1 0 2
  | 0x38 =>
    let op := d.f 1 0 3
    let m := d.f 1 16 16
    op == 0 || 3 < op || (op == 1 && d.w 4 != 0) || (if op == 2 then tb m 0 || tb m 2 else m != 0)
  | 0x39 => if d.f 1 0 1 == 0 then d.f 3 0 17 != 0 else d.f 3 0 17 == 0 || cap < d.f 3 0 17
  | 0x3A => d.f 1 16 16 == 0xFFFF || d.f 1 8 2 == 3 ||
      (d.f 1 4 1 == 1 && (d.w 2 != 0 || d.w 3 != 0 || d.w 4 != 0 || d.w 5 != 0))
  | 0x50 => d.f 1 8 3 == 7 || 3 < d.f 1 0 3 || (d.f 1 0 3 == 3 && d.f 1 4 2 != 0) || (d.f 1 8 3 != 4 && d.f 1 26 2 != 0)
  | _ => false

/-- An address or an offset is not aligned (Table 6.11). -/
def Desc.misaligned (d : Desc) : Bool :=
  match d.opcode with
  | 0x04 => d.f 1 0 2 != 0 || d.f 2 0 2 != 0
  | 0x05 => d.f 1 0 2 != 0
  | 0x06 => d.f 2 0 2 != 0
  | 0x07 | 0x08 => d.f 2 0 6 != 0
  | 0x38 => d.f 5 0 6 != 0
  | 0x39 => d.f 4 0 6 != 0
  | _ => false

/-- LEN of an UPDATE_REGION fits its region (R296, R503, R553, R597, R728, R729, R762, R763). -/
def regionLen (r len : Nat) : Bool :=
  len != 0 && len % 4 == 0 && (match r with
    | 0 => decide (len ≤ 135168)
    | 1 => len == 68 || len == 100
    | 2 => len % 16 == 0 && decide (len ≤ 2048)
    | 3 => len % 16 == 4 && decide (len ≤ 4 + 16 * 16384)
    | 4 => len == 24
    | 5 => decide (len ≤ 4 + 8 * 32 + 8 * 16 + 16 * 64)
    | 6 => len % 64 == 4 && decide (len ≤ 4 + 64 * 65536)
    | _ => len % 24 == 0 && decide (len ≤ 6144))

end Sys2Proof.Machine
end

