-- ==== Sys2Proof/Machine/Desc.lean ====
section
/-! DEFINITION. Descriptors from fetch to start, the general opcodes NOP, FENCE, CANCEL, REG_READ and REG_WRITE, and the requests and
responses between members (spec 06, R211 to R240, R262, R263; spec 05, R155 to R157, R178, R181, R184; spec 16, R659, R660, R671, R683). -/

namespace Sys2Proof.Machine

/-! ### Malformed descriptors (R211) -/

/-- The DETAIL of a malformed descriptor (R211, Table 6.11), none for a well-formed one. DEDUCED, log 37. -/
def State.judge (s : State) (d : Desc) : Option Nat :=
  match opFields d.opcode with
  | none => some dtOpcode
  | some fs =>
    let param := d.opcode == 0x06 && ([0, 1, 2, 5].contains (d.f 1 0 3) && d.w 5 != 0 || [6, 7].contains (d.f 1 0 3) && 1 < (d.w 5).toNat)
    if d.reservedSet fs || param then some dtReserved
    else if d.undefinedOperand s.rosterCap then some dtOperand
    else if d.misaligned then some dtAlign
    else if d.opcode == 0x06 && !regionLen (d.f 1 0 3) (d.w 4).toNat then some dtLength
    else if d.opcode == 0x20 then eventJudge (d.words.drop 1) false
    else none

/-- Opcodes whose commit point for a CANCEL is their start (Table 6.3). -/
def startCommits (op : Nat) : Bool :=
  [0x01, 0x02, 0x04, 0x05, 0x07, 0x08, 0x18, 0x19, 0x1A, 0x21, 0x29, 0x30, 0x32, 0x39, 0x3A, 0x48, 0x50].contains op

/-! ### Fetching (R196, R233, R256, R263, R867) -/

/-- A command ring from which a descriptor would be fetched now. -/
def State.fetchable (s : State) (r : Fin 8) : Bool :=
  let n := cmdRing r
  s.ringOn n && !s.is (Fld.hifRingCtlHalted n.val) && s.prod n != s.cons n && decide (s.hif.rings[n].held.length < 8) && s.cplRoom r
/-- The ring that is fetched from next, in round-robin order (R233). -/
def State.nextFetch (s : State) : Option (Fin 8) :=
  if s.pst == 0 && s.pcie.busMaster && !s.pcie.d3hot then
    ((List.range 8).map (fun k => Fin.ofNat 8 (s.hif.rr + k))).find? s.fetchable
  else none
/-- The read of the next entry of a ring is made. -/
def State.fetchRead (s : State) (r : Fin 8) : State :=
  let n := cmdRing r
  (s.modHif (fun h => { h with rr := (r.val + 1) % 8 })).emit (.hostRead (s.ringBase n + s.cons n * s.entryBytes n) (s.entryBytes n))

/-- DESCRIPTOR_FETCH_COMPLETE (R231, R233, R262, R867): the words of the entry; under COMPAT6 words 6 and 7 are taken as 0. -/
def execDescriptorFetchComplete (words : List Word) (s : State) : Host.Outcome State Fault Refusal :=
  running s fun s =>
    match s.nextFetch with
    | none => s
    | some r =>
      let n := cmdRing r
      let i := s.cons n
      let ws := ((words.take (if s.compat6 then 6 else 8)) ++ List.replicate 8 0).take 8
      let no := s.hif.fetchNo
      let s := (s.fetchRead r).put (Fld.hifRingTailConsumer n.val) ((i + 1) % s.ringSize n)
      let s := (s.modHif (fun h => { h with fetchNo := no + 1 })).modRing n (fun q => { q with held := q.held ++ [⟨⟨r, i, ws⟩, no⟩] })
      s.ringEvent n

/-- DESCRIPTOR_FETCH_FAIL (R263). -/
def execDescriptorFetchFail (s : State) : Host.Outcome State Fault Refusal :=
  running s fun s =>
    match s.nextFetch with
    | none => s
    | some r =>
      let n := cmdRing r
      let i := s.cons n
      let s := ((s.fetchRead r).putB (Fld.hifRingCtlHalted n.val) true).ringErr Fld.hifStatFetchErr n.val
      s.writeCpl r ⟨s.me, 0, 0, i, { status := stBadDesc, detail := dtDmaRead }⟩

/-! ### Starting (R201, R202, R211, R212, R215, R216, R234, R237, R678) -/

/-- A FENCE may start (R237): every descriptor fetched earlier from its ring, or from any, has completed. DEDUCED, log 34. -/
def State.fenceClear (s : State) (r : Fin 8) (h : HeldDesc) : Bool :=
  if h.d.f 1 0 1 == 1 then
    s.hif.started.all (fun t => h.no < t.no) && allCmd.all (fun q => s.hif.rings[cmdRing q].held.all (fun x => h.no ≤ x.no))
  else s.hif.started.all (fun t => t.d.ring != r)
/-- The next descriptor of a ring starts now. -/
def State.startable (s : State) (r : Fin 8) (h : HeldDesc) : Bool :=
  s.pst == 0 && s.ringOn (cplRing r) && s.cplRoom r && !s.hif.started.any (fun t => t.d.ring == r && t.d.opcode == 0x02)
    && (h.d.opcode != 0x02 || (s.judge h.d).isSome || s.fenceClear r h)

/-- DESCRIPTOR_START: the oldest descriptor held of a ring starts; a malformed one (R211), one for a member outside the epoch (R212), and a
collective of a broken epoch (R678) complete at once. -/
def execDescriptorStart (ring : Fin 8) (s : State) : Host.Outcome State Fault Refusal :=
  running s fun s =>
    match s.hif.rings[cmdRing ring].held with
    | [] => s
    | h :: rest =>
      if !s.startable ring h then s
      else
        let d := h.d
        let s := (s.modRing (cmdRing ring) (fun q => { q with held := rest })).modHif (fun x => { x with started := x.started ++
          [{ d := d, no := h.no, committed := startCommits d.opcode, sent := false, waits := [], part := { status := stOK }, dropped := false
             orphan := false }] })
        match s.judge d with
        | some t => s.bad d t
        | none =>
          if d.memberScoped && !s.isMember d.member then s.finish d stNotFound
          else if d.laceScoped && s.is Fld.laceEpochBroken then s.finish d stPeerLost
          else s

/-! ### NOP, FENCE, CANCEL (R237 to R240) -/

/-- NOP (R238). -/
def execNop (d : Desc) (s : State) : Host.Outcome State Fault Refusal :=
  running s fun s => s.taking 0x01 d (·.finish d stOK)
/-- FENCE (R237): it completes OK as soon as it starts. DEDUCED, log 34. -/
def execFence (d : Desc) (s : State) : Host.Outcome State Fault Refusal :=
  running s fun s => s.taking 0x02 d (·.finish d stOK)

/-- A CANCEL completes and is forgotten. DEDUCED, log 38. -/
def State.cancelDone (s : State) (d : Desc) (status : Nat) : State :=
  (s.modHif (fun h => { h with cancels := h.cancels.filter (fun c => !c.d.same d) })).finish d status

/-- CANCEL (R239, Table 6.5): the oldest descriptor of the ring with the TAG, fetched and not completed. DEDUCED, log 38. -/
def execCancel (d : Desc) (s : State) : Host.Outcome State Fault Refusal :=
  running s fun s => s.cond s.head fun s => s.taking 0x03 d fun s =>
    let r : Fin 8 := Fin.ofNat 8 (d.f 1 0 3)
    let tag := d.f 1 16 16
    match s.hif.started.find? (fun t => t.d.ring == r && t.d.tag == tag && !t.orphan) with
    | some t =>
      if t.d.opcode == 0x03 then s.finish d stCancelLate
      else s.modHif (fun h => { h with cancels := h.cancels ++ [⟨d, t.d, none⟩] })
    | none =>
      match s.hif.rings[cmdRing r].held.find? (fun x => x.d.tag == tag) with
      | some x =>
        if x.d.opcode == 0x03 then s.finish d stCancelLate
        else ((s.modRing (cmdRing r) (fun q => { q with held := q.held.erase x })).writeCpl r (s.cplOf x.d { status := stCancelled })).finish d stOK
      | none => s.finish d stNotFound

/-- An UPDATE_REGION that waits leaves when it is cancelled (Table 6.3: its commit point is the start of running). -/
def State.regionCancel (s : State) (d : Desc) : State :=
  s.modHif (fun h => { h with regions := h.regions.map (fun r => if r.waiting == some d then { r with waiting := none } else r) })

/-- A target before its commit point leaves the block that holds it. -/
def State.pullBack (s : State) (d : Desc) : State :=
  ((((((((s.radioCancel d).capCancel d).calCancel d).bcstCancel d).beaconCancel d).listenCancel d).editCancel d).exchCancel d).regionCancel d

/-- A target at a member other than this one, and not one that acts on the whole Lace. -/
def State.remoteOf (s : State) (t : StartedDesc) : Option Nat := if t.d.laceScoped then none else t.waits.find? (· != s.me)

/-- A CANCEL at the head: decided here, or sent on to the member where the target acts. -/
def State.cancelHead (s : State) (d target : Desc) : State :=
  match s.hif.cancels.find? (fun c => c.d.same d && c.target.same target) with
  | none => s
  | some c =>
    match c.ended, s.findStarted target with
    | some late, _ => s.cancelDone d (if late then stCancelLate else stNotFound)
    | none, none => s.cancelDone d stNotFound
    | none, some t =>
      if t.committed then (s.beaconCancel target).cancelDone d stCancelLate
      else match s.remoteOf t with
        | some m =>
          if (s.findStarted d).any (fun x => !x.waits.isEmpty) then s
          else if !s.reaches m then s.cancelDone d stPeerLost
          else (s.modStarted d (fun x => { x with waits := [m] })).sendReq
            { dst := m, src := s.me, kind := 2, code := 0x03, tag := 0, words := s.forwardWords d ++ [placeWord target] } (some d)
        | none =>
          let s := s.pullBack target
          let s := s.cond (s.findStarted target).isSome (·.finish target stCancelled)
          s.cancelDone d stOK

/-- A CANCEL at the member where its target acts (R239). -/
def State.cancelMember (s : State) (d target : Desc) : State :=
  match s.lnk.served.find? (fun x => x.1.same target) with
  | none => s.answer d { status := stNotFound } []
  | some (_, true) => (s.beaconCancel target).answer d { status := stCancelLate } []
  | some (_, false) =>
    let s := s.pullBack target
    let s := s.cond (s.lnk.served.any (fun x => x.1.same target)) (·.finish target stCancelled)
    s.answer d { status := stOK } []

/-- CANCEL_ARRIVAL (R239, R240, R452, R590): a CANCEL reaches its target's commit point. -/
def execCancelArrival (d target : Desc) (s : State) : Host.Outcome State Fault Refusal :=
  running s fun s => s.cond (d.opcode == 0x03) fun s => if s.head then s.cancelHead d target else s.cancelMember d target

/-! ### REG_READ and REG_WRITE (R155 to R157, R178, R181, R184, R235) -/

/-- An offset lies in a block held in reset. -/
def State.heldAt (s : State) (off : Nat) : Bool :=
  match blkAt (off % 0x10000) with
  | some b => !s.free? b
  | none => false

/-- The words of a REG_READ as this member serves them: PEER_RESET and none when any falls in a held block. -/
def State.regReadAt (s : State) (d : Desc) : Result × List Word × State :=
  let n := d.f 1 16 8
  let off := d.f 1 0 16
  if (List.range n).any (fun i => s.heldAt (off + 4 * i)) then ({ status := stPeerReset }, [], s)
  else
    let r := readRun n s .svc off
    ({ status := stOK, r0 := r.1.getD 0 0, r1 := BitVec.ofNat 32 n }, r.1, r.2)

/-- REG_WRITE word by word: how many were served, and whether one fell in a held block; no word follows one that fires a soft reset. -/
def regWriteN : List Word → State → Nat → Nat → WriteAt → Nat × Bool × State
  | [], s, _, k, _ => (k, false, s)
  | w :: ws, s, off, k, t =>
    if s.heldAt off then (k, true, s)
    else
      let s' := s.serveWrite .svc (off % 0x10000) w t
      if s'.top.softPending then (k + 1, false, s') else regWriteN ws s' (off + 4) (k + 1) t

/-- A REG_WRITE would write 1 to the HIF or LNK bit of TOP_BLOCK_RESET (R181). -/
def Desc.writesProtected (d : Desc) : Bool :=
  (List.range (d.f 1 16 3)).any (fun i =>
    (d.f 1 0 16 + 4 * i) % 0x10000 == Reg.topBlockReset && (getF (d.w (2 + i)) Blk.hif.bit 1 == 1 || getF (d.w (2 + i)) Blk.lnk.bit 1 == 1))

/-- The words of a REG_WRITE as this member serves them. -/
def State.regWriteAt (s : State) (d : Desc) (t : WriteAt) : Result × State :=
  let ws := [d.w 2, d.w 3, d.w 4, d.w 5].take (d.f 1 16 3)
  if d.writesProtected then ({ status := stBadDesc, detail := dtProtected }, s)
  else
    let r := regWriteN ws s (d.f 1 0 16) 0 t
    ({ status := if r.2.1 then stPeerReset else stOK, r1 := BitVec.ofNat 32 r.1 }, r.2.2)

/-- An earlier REG_READ or REG_WRITE of the same ring for the same member has not reached it yet (R235). DEDUCED, log 35. -/
def State.regBehind (s : State) (d : Desc) : Bool :=
  match s.findStarted d with
  | none => false
  | some t => s.hif.started.any (fun x =>
      x.no < t.no && x.d.ring == d.ring && x.d.member == d.member && !x.sent && (x.d.opcode == 0x04 || x.d.opcode == 0x05))

/-- A REG_READ served at this member: the head writes the words to the host, another member answers with them. -/
def State.regReadHere (s : State) (d : Desc) : State :=
  let r := s.regReadAt d
  if s.head then (if r.2.1.isEmpty then r.2.2 else r.2.2.post (.data (d.addr 2) r.2.1)).complete d r.1
  else r.2.2.answer d r.1 r.2.1
/-- A REG_WRITE served at this member; a soft reset that it fires follows its completion (R184). -/
def State.regWriteHere (s : State) (d : Desc) (t : WriteAt) : State :=
  let r := s.regWriteAt d t
  (r.2.complete d r.1).softDue

/-- REG_READ (R155, R156): with REG_WRITE the host's way to the registers of any member (R20). DEDUCED, log 35. -/
def execRegRead (d : Desc) (s : State) : Host.Outcome State Fault Refusal :=
  running s fun s => s.cond (s.head && !s.regBehind d) (·.atMember 0x04 d id (·.regReadHere d))
/-- REG_WRITE (R155, R156, R181): `ns` and `cycle` place the write after the last pip edge and within the tile, `near` is that of R544, and
`flips` the errors a store access meets. -/
def execRegWrite (d : Desc) (ns cycle : Nat) (near : Bool) (flips : List (Nat × Bool)) (s : State) : Host.Outcome State Fault Refusal :=
  running s fun s => s.cond (s.head && !s.regBehind d) (·.atMember 0x05 d id (·.regWriteHere d ⟨ns, cycle, near, flips⟩))

/-! ### Requests and responses between members (R155, R659, R660, R671, R683) -/

/-- A member tells the head that an update it holds has started to run (Table 6.3). Its form, like that of every message below, is this
model's. DEDUCED, log 42. -/
def msgRegionRuns : Nat := 0x5C
/-- The head sends a member the data of its running update. DEDUCED, log 42. -/
def msgRegionData : Nat := 0x5D
/-- The head sends a member its sections of a restore blob. -/
def msgRestore : Nat := 0x75

/-- The outcome of a request that carried a descriptor reaches the head. `late` tells that the member had passed the commit point. -/
def State.respond (s : State) (d : Desc) (src : Nat) (late : Bool) (r : Result) (data : List Word) : State :=
  if d.opcode == 0x03 then
    let passed := s.hif.cancels.any (fun c => c.d.same d && c.ended == some true)
    s.cancelDone d (if r.status == stNotFound && passed then stCancelLate else r.status)
  else
    let s := s.cond late (·.commit d)
    if d.laceScoped then s.lacePart d src r
    else if d.opcode == 0x04 && !data.isEmpty then (s.post (.data (d.addr 2) data)).complete d r
    else if d.opcode == 0x28 then (s.capCancel d).complete d (match s.capOf d with
      | some c => { capResult c r.status with detail := r.detail }
      | none => r)
    else s.complete d r

/-- RESPONSE_RECEIVE (R22, R659, R660, R671): the response to a request of this member lands and its credit returns; one to a request that has
completed is dropped and counted. -/
def execResponseReceive (src tag : Nat) (late : Bool) (r : Result) (data : List Word) (s : State) : Host.Outcome State Fault Refusal :=
  running s fun s =>
    match s.lnk.requests.find? (fun q => q.peer == src && q.tag == tag) with
    | none => s.incSat Fld.laceEpochStaleDrop
    | some q =>
      let s := (s.modLnk (fun l => { l with requests := l.requests.erase q })).creditBack src
      match q.desc with
      | none => s
      | some d => s.respond d src late r data

end Sys2Proof.Machine
end

