-- ==== Sys2Proof/Machine/Region.lean ====
section
/-! DEFINITION. UPDATE_REGION from its arrival to its effect, and SNAPSHOT and RESTORE (spec 06, R241 to R254; the regions of R296, R503,
R553, R597, R728, R729, R762, R763). -/

namespace Sys2Proof.Machine

/-! ### Arrival, waiting and running (R241 to R244, R254) -/

def State.region (s : State) (i : Fin 8) : RegionSt := s.hif.regions[i]
def State.modRegion (s : State) (i : Fin 8) (f : RegionSt → RegionSt) : State :=
  s.modHif (fun h => { h with regions := upd h.regions i f })
/-- The region an update names. -/
def Desc.regionNo (d : Desc) : Fin 8 := Fin.ofNat 8 (d.f 1 0 3)
/-- The block whose region it is (R178); regions 1, 3 and 6 belong to no block that can be held. -/
def regionBlk (i : Fin 8) : Option Blk :=
  match i.val with
  | 0 => some .exch
  | 2 => some .bcst
  | 4 => some .aud
  | 5 => some .tag
  | 7 => some .pip
  | _ => none

/-- A SNAPSHOT or RESTORE other than `d` runs (R254). -/
def State.blobRuns (s : State) (d : Desc) : Bool :=
  s.hif.started.any (fun t => (t.d.opcode == 0x07 || t.d.opcode == 0x08) && t.sent && !t.d.same d)

/-- An update starts running (R243, Table 6.3): that is its commit point; a member other than the head says so to the head, which reads
the data. -/
def State.regionRun (s : State) (d : Desc) : State :=
  let s := (s.modRegion d.regionNo (fun r => { r with running := some d, data := none })).commit d
  s.cond (!s.head) (·.sendReq
    { dst := s.headNo, src := s.me, kind := 2, code := msgRegionRuns, tag := 0, words := [placeWord d] } none)

/-- An update arrives at this member: it runs, waits, or replaces the one that waits (R241, R242). -/
def State.regionArrive (s : State) (d : Desc) : State :=
  let i := d.regionNo
  let st := s.region i
  if st.running.isNone then s.regionRun d
  else
    let s := s.modRegion i (fun r => { r with waiting := some d })
    match st.waiting with
    | some old => s.finish old stSuperseded
    | none => s

/-- A region that the crate services keep in the store cannot be reached (Table 15.4). -/
def State.regionGone (s : State) (i : Fin 8) : Bool := (i == 3 || i == 6) && s.crateGone

/-- What every UPDATE_REGION does when it arrives (R178, R241, R254). -/
def State.updateRegion (s : State) (i : Fin 8) (d : Desc) : State :=
  if d.regionNo != i then s
  else s.taking 0x06 d fun s =>
    if s.head && s.blobRuns d then s.finish d stBusyRetry
    else if s.head && regionMember i.val && d.member != s.me then s.forward d d.member
    else match regionBlk i with
      | some b => s.needBlk b d (·.regionArrive d)
      | none => if s.regionGone i then s.finish d stRetired else s.regionArrive d

/-- UPDATE_REGION_RUN (R243): the waiting update of a region starts when the running one has ended. -/
def execUpdateRegionRun (region : Fin 8) (s : State) : Host.Outcome State Fault Refusal :=
  running s fun s =>
    let st := s.region region
    match st.running, st.waiting with
    | none, some d =>
      let s := s.modRegion region (fun r => { r with waiting := none })
      match regionBlk region with
      | some b => s.needBlk b d (·.regionRun d)
      | none => if s.regionGone region then s.finish d stRetired else s.regionRun d
    | _, _ => s

/-! ### What the data of a region must hold, and its effect -/

/-- The DETAIL of a region 2 update that is not well formed (R503, Table 12.8). DEDUCED, log 41. -/
def listJudge (es : List (List Word)) : Option Nat :=
  let w (e : List Word) (i : Nat) : Word := e.getD i 0
  if es.any (fun e => getF (w e 0) 17 7 != 0 || getF (w e 3) 4 4 != 0) then some dtReserved
  else if es.any (fun e => getF (w e 0) 24 8 != 1 && getF (w e 0) 24 8 != 2) then some dtOperand
  else if es.any (fun e => if getF (w e 0) 24 8 == 1 then w e 2 != 0 || getF (w e 3) 16 16 != 0 else getF (w e 0) 0 16 != 0) then some dtOperand
  else none

/-- The parts of a region 5 image (R597, Table 14.9). -/
def planOf (ws : List Word) : TagPlan :=
  let h := ws.getD 0 0
  let nch := getF h 0 6
  let nls := getF h 8 5
  let nbe := getF h 16 7
  let two (k : Nat) : List (Nat × Nat) := (List.range k).map (fun i => ((ws.getD (1 + 2 * i) 0).toNat, getF (ws.getD (2 + 2 * i) 0) 0 2))
  let sets := (List.range nls).map (fun i => ((ws.getD (1 + 2 * (nch + i)) 0).toNat, getF (ws.getD (2 + 2 * (nch + i)) 0) 0 2))
  { chans := two nch, sets := sets
    beacons := (List.range nbe).map (fun i => (ws.drop (1 + 2 * (nch + nls) + 4 * i)).take 3), words := ws }

/-- A beacon entry sets a reserved bit (Tables 14.9 and 14.10). -/
def beaconReserved (e : List Word) : Bool :=
  let fs := (opFields 0x12).getD []
  (List.range 3).any (fun k => (e.getD k 0).toNat &&& fieldMask fs (k + 1) != (e.getD k 0).toNat) || e.getD 3 0 != 0

/-- The DETAIL of a region 5 update that is not well formed (R597). -/
def planJudge (ws : List Word) : Option Nat :=
  let h := ws.getD 0 0
  let nch := getF h 0 6
  let nls := getF h 8 5
  let nbe := getF h 16 7
  let body := ws.drop 1
  let pairs := itemsOf 2 48 (body.take (2 * (nch + nls)))
  let bes := itemsOf 4 64 (body.drop (2 * (nch + nls)))
  if h.toNat &&& 0x007F1F3F != h.toNat then some dtReserved
  else if nbe > 64 || nls > 16 || nch == 0 || nch > 32 then some dtOperand
  else if ws.length != 1 + 2 * nch + 2 * nls + 4 * nbe then some dtLength
  else if pairs.any (fun e => 4 ≤ (e.getD 1 0).toNat) || bes.any beaconReserved then some dtReserved
  else
    let p := planOf ws
    if p.chans.any (fun c => c.2 == 3 || (chanOf c.2 c.1).isNone) || p.sets.any (fun x => x.2 == 3)
      || p.beacons.any (fun e => beaconUndefined (e.getD 0 0) (e.getD 1 0)) then some dtOperand
    else none

/-- A map on its way to every other member: the head's own words, or those that the head sent with the descriptor. -/
def State.spread (s : State) (d : Desc) (ws : List Word) : State := s.cond s.head (·.laceAll d ws)

/-- Words of region 4 land in SPDO_CS0 to SPDO_CS5, to be taken at the next block start (R553). -/
def State.templateUpdate (s : State) (d : Desc) (ws : List Word) : State :=
  let s := s.forEach (List.range 6) (fun s i => s.wr (Reg.spdoCs i) (ws.getD i 0))
  if (s.outSt spdo).en then s.modAud (fun a => { a with loadNext := true, region := some d })
  else (s.modAud (fun a => { a with active := ws })).regionDone d { status := stOK }

/-- The data of a running update acts: malformed data ends it, the rest waits for its moment or takes effect now (R245). -/
def State.regionApply (s : State) (d : Desc) (ws : List Word) : State :=
  let i := d.regionNo
  let bad (s : State) (t : Nat) : State := s.regionDone d { status := stBadDesc, detail := t }
  match i.val with
  | 0 => match weightsJudge ws with
    | some t => bad s t
    | none => s.modExch (fun e => { e with nextWeights := some (d, ws, s.bound20) })
  | 1 => match mapJudge ws with
    | some t => bad s t
    | none => ((s.spread d ws).modExch (fun e => { e with map := some ws })).partDone d { status := stOK }
  | 2 =>
    let es := itemsOf 4 128 ws
    match listJudge es with
    | some t => bad s t
    | none => s.modBcst (fun b => { b with listNext := some (d, es) })
  | 3 => s.recallUpdate d ws
  | 4 => s.templateUpdate d ws
  | 5 => match planJudge ws with
    | some t => bad s t
    | none => (s.spread d ws).modTag (fun t => { t with planNew := some (d, planOf ws) })
  | 6 => s.rosterUpdate d ws
  | _ => match tableJudge ws with
    | some t => bad s t
    | none => (s.pipTable ws (d.f 5 0 1 == 1)).regionDone d { status := stOK }

/-- An update of Lace scope arrives at a member with its data (R692, R595). -/
def State.laceRegion (s : State) (d : Desc) : State :=
  match regionBlk d.regionNo with
  | some b => s.needBlk b d (·.regionApply d (d.words.drop 10))
  | none => s.regionApply d (d.words.drop 10)

/-- REGION_DATA_READ_COMPLETE (R77, R244, R263, R299): the host data of a running update is in, or its read failed. For an update that runs
at another member the head passes the data on, and notes a region 7 table. -/
def execRegionDataReadComplete (d : Desc) (data : Option (List Word)) (s : State) : Host.Outcome State Fault Refusal :=
  running s fun s =>
    let n := (d.w 4).toNat / 4
    let fits := match data with
      | some ws => ws.length == n
      | none => true
    if d.opcode != 0x06 || !fits || (s.head && (s.pcie.d3hot || !s.pcie.busMaster)) then s
    else
      let read (s : State) : State := s.cond s.head (·.emit (.hostRead (d.addr 2) (4 * n)))
      match s.findStarted d with
      | some ⟨_, _, true, true, m :: _, _, _, _⟩ =>
        if s.head && regionMember (d.f 1 0 3) && m != s.me then
          let s := s.cond (d.f 1 0 3 == 7 && data.isSome && (tableJudge (data.getD [])).isNone) (·.noteTable m (data.getD []) (d.f 5 0 1 == 1))
          (read s).sendReq { dst := m, src := s.me, kind := 2, code := msgRegionData, tag := 0
                             words := placeWord d :: BitVec.ofNat 32 (b2n data.isSome) :: data.getD [] } none
        else s
      | _ =>
        let r := s.region d.regionNo
        if r.running != some d || r.data.isSome then s
        else
          let s := read s
          match data with
          | none => s.bad d dtDmaRead
          | some ws => (s.modRegion d.regionNo (fun r => { r with data := some ws })).regionApply d ws

/-! ### The rows of the regions -/

/-- UPDATE_BEAM_WEIGHTS (R241, R722). -/
def execUpdateBeamWeights (d : Desc) (s : State) : Host.Outcome State Fault Refusal := running s (·.updateRegion 0 d)
/-- UPDATE_OWNERSHIP_MAP (R241, R692). -/
def execUpdateOwnershipMap (d : Desc) (s : State) : Host.Outcome State Fault Refusal :=
  running s fun s => if s.head then s.updateRegion 1 d else s.cond (d.regionNo == 1) (·.taking 0x06 d (·.laceRegion d))
/-- UPDATE_AF_LIST (R241, R503). -/
def execUpdateAfList (d : Desc) (s : State) : Host.Outcome State Fault Refusal := running s (·.updateRegion 2 d)
/-- UPDATE_RECALL_LIST (R241, R748). -/
def execUpdateRecallList (d : Desc) (s : State) : Host.Outcome State Fault Refusal :=
  running s fun s => s.cond s.head (·.updateRegion 3 d)
/-- UPDATE_SPDO_TEMPLATE (R241, R553). -/
def execUpdateSpdoTemplate (d : Desc) (s : State) : Host.Outcome State Fault Refusal := running s (·.updateRegion 4 d)
/-- UPDATE_TAG_PLAN (R241, R595). -/
def execUpdateTagPlan (d : Desc) (s : State) : Host.Outcome State Fault Refusal :=
  running s fun s => if s.head then s.updateRegion 5 d else s.cond (d.regionNo == 5) (·.taking 0x06 d (·.laceRegion d))
/-- UPDATE_ROSTER (R241, R763). -/
def execUpdateRoster (d : Desc) (s : State) : Host.Outcome State Fault Refusal :=
  running s fun s => s.cond s.head (·.updateRegion 6 d)
/-- UPDATE_PIP_TABLE (R241, R296). -/
def execUpdatePipTable (d : Desc) (s : State) : Host.Outcome State Fault Refusal := running s (·.updateRegion 7 d)

/-! ### Restore blobs (R246 to R254, Tables 6.14 and 6.15) -/

/-- Offsets of a CONFIG section, in ascending order (R247). -/
def blobBlock (cal : Bool) (off : Nat) : Bool :=
  if cal then decide (0x3000 ≤ off) && decide (off < 0x3800)
  else
    (decide (0x1000 ≤ off) && decide (off < 0x1C00) || decide (0x2000 ≤ off) && decide (off < 0x3000) || decide (0x3800 ≤ off) && decide (off < 0x5800)
      || decide (0x6000 ≤ off) && decide (off < 0x7000) || off == Reg.telemInterval
      || (List.range 8).any (fun n => Reg.fltPolicy n == off)) && off != Reg.pipCountLo && off != Reg.pipCountHi
/-- Registers with an RW field that a CONFIG or a CAL section carries. -/
def State.blobRegs (s : State) (cal : Bool) : List Nat :=
  ((List.range 0x1E00).map (4 * ·)).filter (fun off => blobBlock cal off && match regRow off with
    | some r => (s.fieldsAt off r).any (fun f => f.acc == .rw)
    | none => false)
/-- A section: its header of four words, and its body. -/
def blobSection (kind region member items : Nat) (body : List Word) : List Word :=
  [packW [(16, 3, region), (8, 6, member), (0, 8, kind)], BitVec.ofNat 32 (4 * body.length), BitVec.ofNat 32 items, 0] ++ body
/-- A section of registers with their values. -/
def State.regSection (s : State) (cal : Bool) : List Word :=
  let rs := s.blobRegs cal
  blobSection (if cal then 2 else 1) 0 s.me rs.length (rs.flatMap (fun o => [BitVec.ofNat 32 o, s.regView o]))

/-- An armed event as its entry (Table 7.4). -/
def eventWords (e : PipEvent) : List Word :=
  let t := unsgn 64 e.target
  [packW [(16, 16, e.frac), (12, 4, e.action), (11, 1, b2n e.recd), (10, 1, b2n e.periodic), (8, 2, e.dir), (0, 8, e.slot)],
   BitVec.ofNat 32 t, BitVec.ofNat 32 (t >>> 32), BitVec.ofNat 32 e.period, e.arg, BitVec.ofNat 32 (e.left.getD 0)]
/-- What this member holds of a region, in its UPDATE_REGION format; none for a region that holds nothing. The maps of Lace scope stand
under the head. -/
def State.regionData (s : State) (i : Nat) : Option (List Word) :=
  match i with
  | 0 => s.exch.weights
  | 1 => if s.head then s.exch.map else none
  | 2 => if s.bcst.list.isEmpty then none else some s.bcst.list.flatten
  | 4 => some ((List.range 6).map (fun k => s.rd (Reg.spdoCs k)))
  | 5 => if s.head then s.tag.plan.map (·.words) else none
  | 7 => if s.pip.slots.isEmpty then none else some (s.pip.slots.flatMap (fun x => eventWords x.2))
  | _ => none

/-- The sections of this member, in ascending kind and region (R246). DEDUCED, log 40. -/
def State.ownSections (s : State) (mask : Nat) : List Word :=
  let pick (k : Nat) (ws : List Word) : List Word := if tb mask k then ws else []
  pick 0 (s.regSection false) ++ pick 1 (s.regSection true)
  ++ pick 2 ((List.range 8).flatMap (fun i => match s.regionData i with
      | some ws => blobSection 3 i s.me 0 ws
      | none => []))
  ++ (if s.head then pick 3 (blobSection 4 0 s.me s.svc.roster.length (s.svc.roster.flatMap (·.2))) else [])
  ++ (if s.head then pick 4 (blobSection 5 0 s.me s.svc.recalls.length (s.svc.recalls.flatMap recallWords)) else [])

/-- CRC of a blob: over every byte but those of word 15 (Table 6.14). -/
def blobCrc (ws : List Word) : Word := crc32 (wordsBytes (ws.take 15 ++ ws.drop 16))
def blobMagic : Word := 0x42525950
def State.stepByte (s : State) : Nat := getF (s.regView Reg.topStep) 0 8
/-- A whole blob from its sections (Table 6.14). DEDUCED, log 40. -/
def State.blobOf (s : State) (mask : Nat) (sections : List Word) : List Word :=
  let uid (hi : Bool) : Word := uniqueHalf hi
  let head : List Word :=
    [blobMagic, packW [(16, 5, mask), (8, 8, s.get Fld.bootIfgIfgSvc), (0, 8, 1)], packW [(8, 8, s.memberList.length), (0, 8, s.stepByte)],
     BitVec.ofNat 32 (64 + 4 * sections.length), uid false, uid true, s.rd Reg.pipCountLo, s.rd Reg.pipCountHi, s.tile]
    ++ List.replicate 7 0
  let b := head ++ sections
  b.set 15 (blobCrc b)

/-- A block whose registers or region a blob needs is held in reset here (R178). -/
def State.blobHeld (s : State) (mask : Nat) : Bool :=
  (tb mask 0 && [Blk.pip, .radio, .samp, .bcst, .aud, .tag, .exch].any (fun b => !s.free? b)) || (tb mask 1 && !s.free? .cal)
  || (tb mask 2 && [Blk.exch, .bcst, .aud, .tag, .pip].any (fun b => !s.free? b))

/-- SNAPSHOT (R246 to R250, R254; RETIRED under Table 15.4 for the roster and the recall list): `others` holds each other member's sections as it answered, `stitch` how a roster entry's stitch
failed. -/
def execSnapshot (d : Desc) (others : List (Nat × List Word)) (stitch : Nat) (s : State) : Host.Outcome State Fault Refusal :=
  running s fun s => s.cond s.head fun s => s.taking 0x07 d fun s =>
    let mask := d.f 1 0 5
    if s.blobRuns d then s.finish d stBusyRetry
    else if (tb mask 3 || tb mask 4) && s.crateGone then s.finish d stRetired
    else if s.blobHeld mask then s.finish d stPeerReset
    else match (if tb mask 3 then stitchStatus stitch else none) with
      | some st => s.finish d st
      | none =>
        let of (m : Nat) : List Word := if m == s.me then s.ownSections mask else ((others.find? (·.1 == m)).map (·.2)).getD []
        let b := s.blobOf mask (s.memberList.flatMap of)
        let n := BitVec.ofNat 32 (4 * b.length)
        if (d.w 4).toNat < 4 * b.length then s.complete d { status := stBadDesc, detail := dtLength, r0 := n }
        else (s.post (.data (d.addr 2) b)).complete d { status := stOK, r0 := n }

/-- A radio out of SLEEP, a running exchange, or an update that runs or waits (R254). -/
def State.restoreBusy (s : State) : Bool :=
  allLos.any (fun n => s.loState n != stSleep) || s.exch.run0.isSome || s.exch.run1.isSome
  || s.hif.regions.toList.any (fun r => r.running.isSome || r.waiting.isSome) || s.hif.started.any (fun t => t.d.opcode == 0x06 && t.sent)

/-- RESTORE (R254): `remoteBusy` tells that a radio of another member is out of SLEEP. The read of the blob follows. -/
def execRestore (d : Desc) (remoteBusy : Bool) (s : State) : Host.Outcome State Fault Refusal :=
  running s fun s => s.cond s.head fun s => s.taking 0x08 d fun s =>
    if s.blobRuns d || remoteBusy || s.restoreBusy then s.finish d stBusyRetry
    else if (tb (d.f 1 0 5) 3 || tb (d.f 1 0 5) 4) && s.crateGone then s.finish d stRetired
    else s.modHif (fun h => { h with restore := some d })

/-- One section of a blob. -/
structure Section where
  kind : Nat
  region : Nat
  member : Nat
  body : List Word
  deriving DecidableEq, Repr

/-- The sections of a blob in their order. -/
def sectionsOf : Nat → List Word → List Section
  | 0, _ => []
  | n + 1, ws =>
    match ws with
    | h :: len :: _ :: _ :: rest =>
      let k := len.toNat / 4
      ⟨getF h 0 8, getF h 16 3, getF h 8 6, rest.take k⟩ :: sectionsOf n (rest.drop k)
    | _ => []

/-- The DETAIL of a blob that RESTORE does not take (R251). -/
def State.blobJudge (s : State) (len : Nat) (ws : List Word) : Option Nat :=
  let w (i : Nat) : Word := ws.getD i 0
  let ifg := getF (w 1) 8 8
  if w 0 != blobMagic || getF (w 1) 0 8 != 1 || (w 3).toNat != len || ws.length < 16 then some dtBlobFormat
  else if w 15 != blobCrc ws then some dtBlobCrc
  else if getF (w 2) 0 8 != s.stepByte then some dtBlobStep
  else if ifg < s.get Fld.bootIfgReqMin || s.get Fld.bootIfgReqMax < ifg then some dtBlobIfg
  else none

/-- One item written through the service core's port (R252). -/
def State.putItem (s : State) (x : Nat × Word) : State := s.serveWrite .svc x.1 x.2 s.now
def itemPairs (ws : List Word) : List (Nat × Word) := (itemsOf 2 8192 ws).map (fun e => (getF (e.getD 0 0) 0 16, e.getD 1 0))

/-- The items of a CONFIG or CAL section are written (R252, R253). -/
def State.restoreItems (s : State) (config : Bool) (ws : List Word) : State :=
  let xs := itemPairs ws
  if config && s.head then
    let svc := xs.filter (·.1 == Reg.svcCtl)
    let s := s.cond (!svc.isEmpty) (·.putItem (Reg.svcCtl, setF (s.rd Reg.svcCtl) Fld.svcCtlEn.lo 1 0))
    let s := s.forEach (xs.filter (·.1 != Reg.svcCtl)) (fun s x =>
      if x.1 == Reg.svcRosterSize && getF x.2 Fld.svcRosterSizeLog2.lo Fld.svcRosterSizeLog2.width == s.get Fld.svcRosterSizeLog2 then s
      else s.putItem x)
    s.forEach svc State.putItem
  else s.forEach xs State.putItem

/-- A REGION section is applied as an update would be (R252); malformed data changes nothing. -/
def State.restoreRegion (s : State) (i : Nat) (ws : List Word) : State × Bool :=
  let lace (s : State) : State := s.cond s.head (·.forEach s.others (fun s m => s.sendReq
    { dst := m, src := s.me, kind := 2, code := msgFormRegion, tag := 0, words := BitVec.ofNat 32 i :: ws } none))
  match i with
  | 0 => if (weightsJudge ws).isSome then (s, false) else (s.modExch (fun e => { e with weights := some ws }), true)
  | 1 => if (mapJudge ws).isSome then (s, false) else (lace (s.modExch (fun e => { e with map := some ws })), true)
  | 2 => if (listJudge (itemsOf 4 128 ws)).isSome then (s, false) else (s.modBcst (fun b => { b with list := itemsOf 4 128 ws }), true)
  | 4 =>
    let s := s.forEach (List.range 6) (fun s k => s.wr (Reg.spdoCs k) (ws.getD k 0))
    (s.modAud (fun a => if (s.outSt spdo).en then { a with loadNext := true } else { a with active := ws.take 6 }), true)
  | 5 => if (planJudge ws).isSome then (s, false) else (lace (s.modTag (fun t => { t with plan := some (planOf ws) })), true)
  | 7 => if (tableJudge ws).isSome then (s, false) else (s.pipTable ws false, true)
  | _ => (s, false)

/-- One section is applied at this member; whether it was. -/
def State.restoreSection (s : State) (x : Section) : State × Bool :=
  match x.kind with
  | 1 => (s.restoreItems true x.body, true)
  | 2 => (s.restoreItems false x.body, true)
  | 3 => s.restoreRegion x.region x.body
  | 4 => (s.setRoster ((itemsOf 16 65536 x.body).zipIdx.filterMap (fun e =>
      if entryFlag e.1 flVALID && e.2 < s.rosterCap then some (e.2, e.1) else none)), true)
  | 5 =>
    let l := (itemsOf 4 16384 x.body).map recallOf
    if (recallJudge l).isSome then (s, false) else (s.setRecall l, true)
  | _ => (s, false)

/-- Sections applied in blob order, with the count of those applied. -/
def State.restoreAll (s : State) (xs : List Section) : State × Nat :=
  xs.foldl (fun a x => let r := a.1.restoreSection x
                       (r.1, a.2 + b2n r.2)) (s, 0)

/-- RESTORE_BLOB_READ_COMPLETE (R77, R251 to R253, R263): the blob is in, or its read failed; it is checked and applied, at other members
by one request each. -/
def execRestoreBlobReadComplete (d : Desc) (blob : Option (List Word)) (s : State) : Host.Outcome State Fault Refusal :=
  running s fun s =>
    if s.hif.restore != some d || s.pcie.d3hot || !s.pcie.busMaster then s
    else
      let len := (d.w 4).toNat
      let s := (s.emit (.hostRead (d.addr 2) len)).modHif (fun h => { h with restore := none })
      match blob with
      | none => s.bad d dtDmaRead
      | some ws =>
        match s.blobJudge len ws with
        | some t => s.bad d t
        | none =>
          let mask := d.f 1 0 5 &&& getF (ws.getD 1 0) 16 5
          let xs := (sectionsOf 1024 (ws.drop 16)).filter (fun x => 1 ≤ x.kind && tb mask (x.kind - 1))
          let skipped := (xs.filter (fun x => !s.isMember x.member)).length
          let away := s.others.filter (fun m => xs.any (·.member == m))
          let s := s.modStarted d (fun t => { t with waits := s.me :: away, part := { status := stOK, r1 := BitVec.ofNat 32 skipped } })
          let s := s.forEach away (fun s m => s.sendReq
            { dst := m, src := s.me, kind := 2, code := msgRestore, tag := 0
              words := [BitVec.ofNat 32 (s.lnk.tagNo % 65536), placeWord d] ++
                (xs.filter (·.member == m)).flatMap (fun x => blobSection x.kind x.region x.member 0 x.body) } (some d))
          let r := s.restoreAll (xs.filter (·.member == s.me))
          r.1.lacePart d s.me { status := stOK, r0 := BitVec.ofNat 32 r.2 }

end Sys2Proof.Machine
end

