-- ==== Sys2Proof/Machine/Request.lean ====
section
/-! DEFINITION. Requests as a member takes them from the fabric: forwarded register accesses and the requests that this model gives no row
of their own (spec 05, R155 to R157, R178, R181, R184; spec 16, R659, R683). -/

namespace Sys2Proof.Machine

/-- The descriptor that a request carries. DESIGN CHOICE, log 69. -/
def descOfMsg (m : Msg) : Desc :=
  let p := m.words.getD 9 0
  ⟨Fin.ofNat 8 (getF p 16 3), getF p 0 16, m.words⟩

/-- A request that this model gives no row of its own: what its words ask of this member. -/
def State.ownRequest (s : State) (m : Msg) : State :=
  let w (i : Nat) : Word := m.words.getD i 0
  if m.code == msgCalTrigger then s.cond (s.head && s.free? .cal) (·.calRaise (w 0).toNat)
  else if m.code == msgCalEnd then s.cond (s.cal.round.isSome && s.free? .cal) (fun s => s.calEnd stOK s.cal.runs)
  else if m.code == msgAckMac then s.cond (s.free? .tag) (·.addAck (getF (w 0) 16 2) (getF (w 0) 0 9) (w 1).toNat)
  else if m.code == msgSetClose then s.cond (s.free? .tag) (·.setCloses (w 0).toNat)
  else if m.code == msgKey then s.putKey (getF (w 0) 16 16) (getF (w 0) 8 2) (getF (w 0) 0 3) (beNat (wordsBytes [w 1, w 2, w 3, w 4]))
  else if m.code == msgConfirm then s.cond (s.head && s.free? .exch) (·.confirmSource (w 0).toNat m.src)
  else if m.code == msgFirst then s.cond (s.free? .exch) (·.fixFirst (w 0).toNat (w 1).toNat)
  else if m.code == msgLast then s.cond (s.free? .exch) (·.exchLimit (w 0).toNat (w 1).toNat)
  else if m.code == msgExchHeld then (s.endExch 0 stPeerReset).endExch 1 stPeerReset
  else if m.code == msgAddGone then s.endExch 1 stResidueFault
  else if m.code == msgCapEnd then s.capEnd (Fin.ofNat 4 (w 0).toNat) stCancelled
  else if m.code == msgRegionRuns then s.modHif (fun h => { h with started := h.started.map (fun t =>
    if t.d.ring.val == getF (w 0) 16 3 && t.d.index == getF (w 0) 0 16 && t.waits.contains m.src then { t with committed := true } else t) })
  else if m.code == msgFormRegion then (s.restoreRegion (w 0).toNat (m.words.drop 1)).1
  else if m.code == msgFormEnd then s.formed ((w 0).toNat + (w 1).toNat * 2 ^ 32)
  else s

/-- A request answered without work: it only returns its credit. -/
def State.thank (s : State) (m : Msg) : State :=
  s.sendMsg { dst := m.src, src := s.me, kind := 3, code := msgCompletion, tag := m.tag, words := [] }

/-- This member's sections of a blob are applied, and the head learns how many (R252). -/
def State.restoreHere (s : State) (m : Msg) : State :=
  let r := s.restoreAll (sectionsOf 1024 (m.words.drop 2))
  r.1.sendMsg { dst := m.src, src := s.me, kind := 3, code := msgCompletion, tag := m.tag, words := [0, BitVec.ofNat 32 r.2, 0, 0, 0] }

/-- FORWARDED_REQUEST_RECEIVE (R155, R157, R178, R181, R184, R683, R774): a REG_READ or REG_WRITE from the head, or a request without a row
of its own. It wakes the member (R774). -/
def execForwardedRequestReceive (m : Msg) (ns cycle : Nat) (near : Bool) (flips : List (Nat × Bool)) (s : State) :
    Host.Outcome State Fault Refusal :=
  running s fun s =>
    let s := s.wake 1
    let d := descOfMsg m
    if m.kind == 2 && (m.code == 0x04 || m.code == 0x05) then
      if s.head then s
      else
        let s := s.serve d
        if !s.free? .lnk then s.answer d { status := stPeerReset } []
        else if m.code == 0x04 then s.regReadHere d
        else s.regWriteHere d ⟨ns, cycle, near, flips⟩
    else if m.kind == 2 && m.code == msgRestore then s.restoreHere m
    else if m.kind == 2 then (s.ownRequest m).thank m
    else s.ownRequest m

end Sys2Proof.Machine
end

