-- ==== Sys2Proof/Machine/Boundary.lean ====
section
/-! DEFINITION. The tile start boundary (spec 10, R387): what the ending tile leaves, the tile sequence number, and every change that waits
for a boundary. -/

namespace Sys2Proof.Machine

/-- The fast loop of each path in RX takes its boundary step; `peaks` holds the ending tile's peak of each path (R402 to R406). -/
def State.agcTile (s : State) (peaks : List Int) : State :=
  s.forEach allPaths (fun s p => match peaks[p.val]? with
    | some x => s.agcBoundary p x
    | none => s)

/-- What a tile start boundary does, block by block; a block held in reset does nothing. -/
def State.tileBoundary (s : State) (peaks : List Int) (stats : List CalStat) (sums : List CalSum) : State :=
  let s := s.cond (s.free? .samp) (·.tileEnds)
  let s := s.cond (s.free? .bcst) (·.bcstTile)
  let s := (s.setTile (s.tile + 1)).modPip (fun p => { p with cycle := 0 })
  let s := s.cond (s.free? .radio) (·.pathBoundary)
  let s := s.cond (s.free? .samp) (fun s => s.sampApply.agcTile peaks)
  let s := s.pathTile
  let s := s.cond (s.free? .samp) (·.sampTile)
  let s := s.calBoundary stats sums
  let s := s.cond (s.free? .samp) (·.capBoundary)
  let s := s.bankBoundary
  let s := s.tagBoundary
  s.cond (s.free? .exch) (·.exchBoundary)

/-- TILE_BOUNDARY (R13, R325, R347 to R352, R387 to R395, R402 to R406): every 245,760 cycles of SYSCLK while the tile count runs. `peaks` are
the ending tile's peak magnitudes in hundredths of dBFS, `stats` and `sums` what a calibration round has summed. -/
def execTileBoundary (peaks : List Int) (stats : List CalStat) (sums : List CalSum) (s : State) : Host.Outcome State Fault Refusal :=
  live s fun s => s.cond (s.clk.synced && !s.clk.refLost && s.pst != 3) (·.tileBoundary peaks stats sums)

end Sys2Proof.Machine
end

