-- ==== Sys2Proof/Machine/Jtag.lean ====
section
/-! DEFINITION. The JTAG port (R154, R846, R847). One command is one instruction with its data register scanned once: what Capture-DR takes is shifted
out, and Update-DR acts. -/

namespace Sys2Proof.Machine

/-- EN_MAIN (R40) and EN_RF (R41) as the device drives them. No boundary test changes them (R847). -/
def State.supplyEnables (s : State) : Bool × Bool := (s.env.rails.vbatAo && !s.pwr.d4, s.enRf)

/-- An instruction is loaded: whether the boundary register drives the balls, or they are in high impedance. -/
def State.jtagIr (s : State) (code : BitVec 6) (drives highz : Bool) : State :=
  s.modJtag (fun p => { p with ir := code, drives := drives, highz := highz })

/-- The REGACC data register at Capture-DR: DONE, the offset, the data (Table 5.3). -/
def regaccOf (fin : Bool) (off : BitVec 16) (w : Word) : BitVec 50 := BitVec.ofNat 50 (b2n fin * 2 ^ 48 + off.toNat * 2 ^ 32 + w.toNat)

/-- JTAG_REGACC (R154): Capture-DR takes the outcome of the last access, `busy` telling that it still runs; Update-DR starts an access. -/
def execJtagRegacc (wr valid : Bool) (off : BitVec 16) (data : Word) (busy : Bool) (s : State) : Host.Outcome State Fault Refusal :=
  done (if !s.portOpen .jtag then s
    else
      let s := s.jtagIr 0b100010#6 false false
      let old := s.jtag.regacc
      let s := s.emit (.jtag (if busy then (old &&& ~~~(BitVec.ofNat 50 (2 ^ 48))).toNat else old.toNat))
      if !valid || busy then s
      else
        let r : Word × State := if wr then (0, s.serveWrite .jtag off.toNat data s.now) else s.serveRead .jtag off.toNat
        r.2.modJtag (fun p => { p with regacc := regaccOf true off r.1 }))

/-- A scan of the boundary register: the balls as captured go out, what is shifted in is held. -/
def State.boundaryScan (s : State) (balls value : BitVec 214) : State :=
  let s := s.emit (.jtag balls.toNat)
  s.modJtag (fun p => { p with boundary := value })

/-- JTAG_EXTEST (R846, R847). -/
def execJtagExtest (balls value : BitVec 214) (s : State) : Host.Outcome State Fault Refusal :=
  live s fun s => (s.jtagIr 0b000000#6 true false).boundaryScan balls value
/-- JTAG_SAMPLE_PRELOAD (R846). -/
def execJtagSamplePreload (balls value : BitVec 214) (s : State) : Host.Outcome State Fault Refusal :=
  live s fun s => (s.jtagIr 0b000010#6 false false).boundaryScan balls value
/-- JTAG_IDCODE (R846). -/
def execJtagIdcode (s : State) : Host.Outcome State Fault Refusal :=
  live s fun s => (s.jtagIr 0b000001#6 false false).emit (.jtag 0x17340B4D)
/-- JTAG_CLAMP (R846). -/
def execJtagClamp (s : State) : Host.Outcome State Fault Refusal := live s (·.jtagIr 0b000011#6 true false)
/-- JTAG_HIGHZ (R846). -/
def execJtagHighz (s : State) : Host.Outcome State Fault Refusal := live s (·.jtagIr 0b000100#6 false true)
/-- The codes of Table 21.17 other than BYPASS. -/
def jtagCodes : List Nat := [0, 1, 2, 3, 4, 0x22]
/-- JTAG_BYPASS (R846): code 0b111111 and every code that Table 21.17 does not list. -/
def execJtagBypass (code : BitVec 6) (s : State) : Host.Outcome State Fault Refusal :=
  live s fun s => if jtagCodes.contains code.toNat then s else s.jtagIr code false false

end Sys2Proof.Machine
end

