-- ==== Sys2Proof/Machine/Spi.lean ====
section
/-! DEFINITION. The SPI setup port, frame by frame (spec 04, R113 to R147). -/

namespace Sys2Proof.Machine

/-! ### IRQ_N and the status word -/

/-- The device drives IRQ_N low: a cause of Table 4.4 is true with its enable, in RUNNING (R145). -/
def State.irqN (s : State) : Bool :=
  s.runs && ((s.is Fld.spiCfgIeBoot && s.is Fld.spiStatBootDone) || (s.is Fld.spiCfgIeFault && s.is Fld.spiStatFault)
    || (s.is Fld.spiCfgIeReady && s.is Fld.spiStatReady) || (s.is Fld.spiCfgIeErr && getF (s.rd Reg.spiStat) 0 5 != 0))
/-- The status word of Table 4.3. -/
def State.spiStatus (s : State) : Word :=
  packW [(24, 8, 0x5A), (20, 4, s.phase), (17, 3, s.pst), (16, 1, b2n (s.is Fld.topStatusUntested)), (15, 1, b2n s.irqN),
         (0, 8, getF (s.rd Reg.spiStat) 0 8)]

/-! ### Frames -/

/-- A frame ends: it is counted, its command is noted, and it disarms the soft reset (R139, SPI_FRAME_CNT, LAST_CMD). A frame that fired a soft reset
ends in the silent period and leaves no trace. DEDUCED, log 23. -/
def State.frameEnds (s : State) (cmd : Option Nat) : State :=
  if s.top.silent then s
  else
    let s := s.inc Fld.spiFrameCntCount
    let s := match cmd with
      | some c => s.put Fld.spiStatLastCmd c
      | none => s
    s.modSpi (fun p => { p with armed := false })
/-- What a frame does while the port answers (R140, R142, R143). DEDUCED, log 23. -/
def State.frame (s : State) (f : State → State) : State := if s.portOpen .spi then f s else s

/-- Data words of a frame clocked above its command's rate: not defined (R119). DESIGN CHOICE, log 12. -/
def State.overclock (s : State) (tooFast : Bool) (ws : List Word) : List Word × State :=
  if tooFast then (ws.zipIdx.map (fun x => Config.overclocked (s.free + x.2)), s.drawN ws.length) else (ws, s)

/-- A frame that reads: `n` words whose first data clock arrived (R120 to R127, R133). -/
def State.spiReads (s : State) (cmd : Nat) (addr : BitVec 16) (n : Nat) (tooFast : Bool) : State :=
  s.frame fun s =>
    let a := addr.toNat
    let r : List Word × State :=
      if a % 4 != 0 then (List.replicate n 0, s.cond (0 < n) (·.flag Fld.spiStatAlign)) else readRun n s .spi a
    let o := r.2.overclock tooFast r.1
    (o.2.emit (.words .spi o.1)).frameEnds (some cmd)

/-- SPI_READ (R124). -/
def execSpiRead (addr : BitVec 16) (n : Nat) (tooFast : Bool) (s : State) : Host.Outcome State Fault Refusal := done (s.spiReads 0x03 addr n tooFast)
/-- SPI_FAST_READ (R124). -/
def execSpiFastRead (addr : BitVec 16) (n : Nat) (tooFast : Bool) (s : State) : Host.Outcome State Fault Refusal := done (s.spiReads 0x0B addr n tooFast)

/-- SPI_WRITE (R122, R128 to R130, R133): the words whose 32nd data clock arrived, and whether SPI_CS_N rose inside a further word. -/
def execSpiWrite (addr : BitVec 16) (words : List Word) (cut : Bool) (s : State) : Host.Outcome State Fault Refusal :=
  done (s.frame fun s =>
    let a := addr.toNat
    let s := if a % 4 != 0 then s.cond (cut || !words.isEmpty) (·.flag Fld.spiStatAlign) else writeRun s .spi a words
    (s.cond (cut && !s.top.silent) (·.flag Fld.spiStatPartial)).frameEnds (some 0x02))

/-- SPI_STATUS (R135): `n` fresh status words. -/
def execSpiStatus (n : Nat) (tooFast : Bool) (s : State) : Host.Outcome State Fault Refusal :=
  done (s.frame fun s =>
    let o := s.overclock tooFast (List.replicate n s.spiStatus)
    (o.2.emit (.words .spi o.1)).frameEnds (some 0x05))

/-- SPI_WAKE (R136). -/
def execSpiWake (s : State) : Host.Outcome State Fault Refusal :=
  done (s.frame fun s => (s.cond s.runs (·.wake 2)).frameEnds (some 0xAB))

/-- SPI_RESET_ARM (R137): it arms with exactly 8 clocks. -/
def execSpiResetArm (clocks : Nat) (s : State) : Host.Outcome State Fault Refusal :=
  done (s.frame fun s =>
    if clocks < 8 then s
    else
      let s := (s.cond (clocks != 8) (·.flag Fld.spiStatBadcmd)).frameEnds (some 0xF0)
      s.modSpi (fun p => { p with armed := clocks == 8 }))

/-- SPI_RESET_FIRE (R138, R139). -/
def execSpiResetFire (clocks : Nat) (s : State) : Host.Outcome State Fault Refusal :=
  done (s.frame fun s =>
    if clocks < 8 then s
    else if clocks == 8 && s.spi.armed then s.softReset
    else (s.flag Fld.spiStatBadcmd).frameEnds (some 0xF5))

/-- SPI_ARM_EXPIRY (R139). -/
def execSpiArmExpiry (s : State) : Host.Outcome State Fault Refusal := done (s.modSpi (fun p => { p with armed := false }))

/-- The commands of Table 4.1. -/
def spiCommands : List Nat := [0x03, 0x0B, 0x02, 0x05, 0xAB, 0xF0, 0xF5]
/-- SPI_UNKNOWN_COMMAND (R123). -/
def execSpiUnknownCommand (cmd : BitVec 8) (s : State) : Host.Outcome State Fault Refusal :=
  done (s.frame fun s => if spiCommands.contains cmd.toNat then s else (s.flag Fld.spiStatBadcmd).frameEnds (some cmd.toNat))

/-- SPI_SHORT_FRAME (R132): the frame ended before the last address clock; the command byte was complete or not. -/
def execSpiShortFrame (cmd : Option (BitVec 8)) (s : State) : Host.Outcome State Fault Refusal :=
  done (s.frame fun s =>
    match cmd with
    | none => (s.flag Fld.spiStatShort).frameEnds none
    | some c => if [0x03, 0x0B, 0x02].contains c.toNat then (s.flag Fld.spiStatShort).frameEnds (some c.toNat) else s)

/-- SPI_NO_CLOCK_FRAME (R134). -/
def execSpiNoClockFrame (s : State) : Host.Outcome State Fault Refusal := done s

/-- SPI_D4_WAKE_EDGE (R142, R143, R782): the always-on logic notes the edge; the port stays silent until the device has left power-on reset. -/
def execSpiD4WakeEdge (s : State) : Host.Outcome State Fault Refusal :=
  done (s.cond s.pwr.d4 (fun s => (s.modSpi (fun p => { p with d4Silent := true })).modPwr (fun p => { p with d4Wake := p.d4Wake ||| 2 ^ 8 })))

end Sys2Proof.Machine
end

