-- ==== Sys2Proof/Machine/Top.lean ====
section
/-! DEFINITION. What the board does to the device: rails, RESET_N, PERST_N, function level reset, the ends of the times that a reset starts, entry into
D4 and the wake from it (spec 02, 03, 19). -/

namespace Sys2Proof.Machine

/-! ### Rails and power-on reset (R35 to R38, R64, R65) -/

/-- Every rail of core supply good is good (R36). -/
def Rails.core? (r : Rails) : Bool := r.core && r.mem && r.ana && r.ser && r.io
/-- Power-on reset may release (R36). -/
def Rails.up (r : Rails) : Bool := r.vbatAo && r.core?
def Rails.get (r : Rails) : Rail → Bool
  | .vbatAo => r.vbatAo | .core => r.core | .mem => r.mem | .rf => r.rf | .ana => r.ana | .pa => r.pa | .ser => r.ser | .io => r.io
def Rails.set (r : Rails) (x : Rail) (b : Bool) : Rails :=
  match x with
  | .vbatAo => { r with vbatAo := b } | .core => { r with core := b } | .mem => { r with mem := b } | .rf => { r with rf := b }
  | .ana => { r with ana := b } | .pa => { r with pa := b } | .ser => { r with ser := b } | .io => { r with io := b }
/-- Rails whose loss asserts power-on reset (R36). -/
def Rail.isCore : Rail → Bool
  | .rf | .pa => false
  | _ => true
def State.setRail (s : State) (r : Rail) (b : Bool) : State := s.modEnv (fun p => { p with rails := p.rails.set r b })

/-- RAIL_GOOD (R35, R51, R65). -/
def execRailGood (rail : Rail) (s : State) : Host.Outcome State Fault Refusal :=
  done (if s.env.rails.get rail then s
    else
      let s := (s.setRail rail true).cond (rail == .io) (·.modTop (fun t => { t with pullDowns := true }))
      s.cond (s.runs && !rail.isCore) (·.railsBack))
/-- RAIL_LOST (R35, R36, R64). In D4 the board's rails fall without effect, VBAT_AO apart. -/
def execRailLost (rail : Rail) (s : State) : Host.Outcome State Fault Refusal :=
  done (if !s.env.rails.get rail then s
    else
      let s := s.setRail rail false
      if rail.isCore then (if s.pwr.d4 && rail != .vbatAo then s else s.hardReset true)
      else s.cond (s.runs && s.enRf) (·.radioRailLost rail.idx))

/-- POWER_ON_RESET_RELEASE (R36, R38, R50, R53): the straps and the VDD_IO range are sampled, and the boot timeline begins. -/
def execPowerOnResetRelease (straps : Straps) (s : State) : Host.Outcome State Fault Refusal :=
  done (if !s.top.por || !s.env.rails.up || s.pwr.d4 then s
    else
      let s := s.modTop (fun t => { t with por := false })
      (s.modSpi (fun p => { p with d4Silent := false })).sampleStraps straps)

/-! ### RESET_N (R49, R844) -/

/-- A level of RESET_N that lasted a time in nanoseconds acts (R844). DESIGN CHOICE, log 9. -/
def State.pulseActs (s : State) (ns : Nat) : Bool := if 10000 ≤ ns then true else if ns < 1000 then false else Config.resetShort s.free

/-- The device leaves D4 (R40, R50, R782): EN_MAIN rises, the straps are sampled, and it boots once core supply is good. -/
def State.leaveD4 (s : State) (straps : Straps) : State :=
  let wakes := s.pwr.d4Wake
  let por := !s.env.rails.up
  let silent := s.spi.d4Silent && por
  let s := (s.hardReset por).sampleStraps straps
  (s.modSpi (fun p => { p with d4Silent := silent })).modPwr (fun p => { p with d4Wake := wakes })

/-- RESET_N_ASSERT (R49, R844): low for a time; in D4 it has no effect of its own. -/
def execResetNAssert (ns : Nat) (s : State) : Host.Outcome State Fault Refusal :=
  done (if !s.pulseActs ns then s.draw
    else
      let s := (s.modEnv (fun p => { p with resetLow := true })).draw
      if s.pwr.d4 then s else s.hardReset s.top.por)
/-- RESET_N_RELEASE (R49, R50, R844): high for a time; in D4 it is a wake event. -/
def execResetNRelease (straps : Straps) (ns : Nat) (s : State) : Host.Outcome State Fault Refusal :=
  done (if !s.pulseActs ns || !s.env.resetLow then s.draw
    else
      let s := (s.modEnv (fun p => { p with resetLow := false })).draw
      if s.pwr.d4 then (s.modPwr (fun p => { p with d4Wake := p.d4Wake ||| 2 ^ 10 })).leaveD4 straps
      else if s.top.por then s
      else s.sampleStraps straps)

/-- STRAP_PULL_DOWN_OFF (R51). -/
def execStrapPullDownOff (s : State) : Host.Outcome State Fault Refusal := done (s.modTop (fun t => { t with pullDowns := false }))

/-! ### PERST_N and the function (R73, R258, R864) -/

/-- PCIE_RETRY_END (R73). -/
def execPcieRetryEnd (s : State) : Host.Outcome State Fault Refusal :=
  live s fun s => s.cond (!s.env.perstLow) (fun s => s.modPcie (fun p => { p with retry := false }))
/-- PERST_N_ASSERT (R258, R786, R864). -/
def execPerstNAssert (s : State) : Host.Outcome State Fault Refusal :=
  done (
    let s := s.modEnv (fun p => { p with perstLow := true })
    s.cond s.alive (fun s => let s := s.hifReset.fetchAbort.functionReset; s.modPcie (fun p => { p with retry := true })))
/-- PERST_N_RELEASE (R73, R786). -/
def execPerstNRelease (s : State) : Host.Outcome State Fault Refusal :=
  done (
    let s := (s.modEnv (fun e => { e with perstLow := false })).modPcie (fun p => { p with retry := true })
    s.modPwr (fun p => { p with wakeN := false }))
/-- FUNCTION_LEVEL_RESET (R258, R864). -/
def execFunctionLevelReset (s : State) : Host.Outcome State Fault Refusal :=
  live s fun s => s.cond (!s.env.perstLow) (·.hifReset.fetchAbort.functionReset)

/-! ### Writes to the host resume (R257, R785), with the soft reset that waits for its completion (R184) -/

/-- HOST_WRITE_RESUME (R257): whether the host accepts posted writes. -/
def execHostWriteResume (accepts : Bool) (s : State) : Host.Outcome State Fault Refusal :=
  live s fun s => ((s.modHif (fun h => { h with accepts := accepts })).drain).softDue
/-- PCI_PM_D0_RETURN (R785): what waited goes out; No_Soft_Reset keeps the rest. -/
def execPciPmD0Return (s : State) : Host.Outcome State Fault Refusal :=
  live s fun s => s.cond s.pcie.d3hot (fun s => ((s.modPcie (fun p => { p with d3hot := false })).drain).softDue)

/-- SOFT_RESET_SILENT_END (R140, R183). -/
def execSoftResetSilentEnd (s : State) : Host.Outcome State Fault Refusal := done (s.modTop (fun t => { t with silent := false }))
/-- SOFT_RESET_DEFERRED_FIRE (R184): the completion is lost. -/
def execSoftResetDeferredFire (s : State) : Host.Outcome State Fault Refusal := live s fun s => s.cond s.top.softPending (·.softReset)

/-! ### D4 (R779 to R782, R869) -/

/-- D4_ENTRY (R780): step 1 of Table 19.5 once its conditions have held for 100 ms, or step 3, where EN_MAIN falls and everything is lost.
DEDUCED, log 25. -/
def execD4Entry (enMainFalls : Bool) (s : State) : Host.Outcome State Fault Refusal :=
  running s fun s =>
    if enMainFalls then
      s.cond s.pwr.d4Step fun s =>
        let t := s.pwr.d4Timer
        let w := s.pwr.d4Wake
        (s.hardReset false).modPwr (fun p => { p with d4 := true, d4Timer := t, d4Wake := w })
    else
      s.cond (s.pst == 3 && !s.pwr.exiting && !s.pwr.d4Step && s.sleepReady) fun s =>
        s.modPwr (fun p => { p with d4Step := true, d4Timer := s.get Fld.pwrCtlTimer, d4Wake := 0 })

/-- D4_ABANDON (R869): a wake event of Table 19.3 for D3, or an edge of SPI_CS_N as event 8, before EN_MAIN falls. DEDUCED, log 25. -/
def execD4Abandon (event : Fin 12) (s : State) : Host.Outcome State Fault Refusal :=
  running s fun s =>
    if !s.pwr.d4Step then s
    else if event.val == 8 then
      (s.orF Fld.pwrWakeSrcSrc (2 ^ 8)).modPwr (fun p => { p with exiting := true, aborted := true, d4Step := false
                                                                  wakeN := p.wakeN || (s.is Fld.pwrCtlWakeNEn && s.env.perstLow) })
    else s.wake event.val

/-- D4_TIMER_EXPIRY (R781). -/
def execD4TimerExpiry (s : State) : Host.Outcome State Fault Refusal :=
  done (s.cond (s.pwr.d4 && s.pwr.d4Timer != 0) (·.modPwr (fun p => { p with d4Timer := 0, d4Wake := p.d4Wake ||| 2 ^ 11 })))
/-- D4_WAKE (R782): a wake event that the always-on logic has noted. -/
def execD4Wake (straps : Straps) (s : State) : Host.Outcome State Fault Refusal :=
  done (s.cond (s.pwr.d4 && s.pwr.d4Wake != 0) (·.leaveD4 straps))

end Sys2Proof.Machine
end

