-- ==== Sys2Proof/Machine/Dispatch.lean ====
section
/-! DEFINITION. The dispatch of commands: one arm per constructor, each one direct call of its meaning. -/

namespace Sys2Proof.Machine

/-- The effect of a command on everything but the queue. -/
def exec (i : Instr) (s : State) : Host.Outcome State Fault Refusal :=
  match i with
  | .railGood rail => Sys2Proof.Machine.execRailGood rail s
  | .railLost rail => Sys2Proof.Machine.execRailLost rail s
  | .powerOnResetRelease straps => Sys2Proof.Machine.execPowerOnResetRelease straps s
  | .radioRailWaitTimeout unit => Sys2Proof.Machine.execRadioRailWaitTimeout unit s
  | .resetNAssert ns => Sys2Proof.Machine.execResetNAssert ns s
  | .resetNRelease straps ns => Sys2Proof.Machine.execResetNRelease straps ns s
  | .refDetectWindowEnd => Sys2Proof.Machine.execRefDetectWindowEnd s
  | .refclkDetected => Sys2Proof.Machine.execRefclkDetected s
  | .crystalStarted => Sys2Proof.Machine.execCrystalStarted s
  | .adpllLock unit cycle => Sys2Proof.Machine.execAdpllLock unit cycle s
  | .adpllLossOfLock unit => Sys2Proof.Machine.execAdpllLossOfLock unit s
  | .adpllLossOfRef => Sys2Proof.Machine.execAdpllLossOfRef s
  | .linkTrainingStart => Sys2Proof.Machine.execLinkTrainingStart s
  | .pcieRetryEnd => Sys2Proof.Machine.execPcieRetryEnd s
  | .bootStart port w busMaster mrrs => Sys2Proof.Machine.execBootStart port w busMaster mrrs s
  | .bootForceUntested port w => Sys2Proof.Machine.execBootForceUntested port w s
  | .bootWindowWrite port index w => Sys2Proof.Machine.execBootWindowWrite port index w s
  | .imageReadComplete img data => Sys2Proof.Machine.execImageReadComplete img data s
  | .busMasterClear => Sys2Proof.Machine.execBusMasterClear s
  | .topSoftReset port w => Sys2Proof.Machine.execTopSoftReset port w s
  | .softResetSilentEnd => Sys2Proof.Machine.execSoftResetSilentEnd s
  | .softResetDeferredFire => Sys2Proof.Machine.execSoftResetDeferredFire s
  | .helloSend => Sys2Proof.Machine.execHelloSend s
  | .helloReceive member phase untested svcCrc seqCrc uid tag faults => Sys2Proof.Machine.execHelloReceive member phase untested svcCrc seqCrc uid tag faults s
  | .pushEnd => Sys2Proof.Machine.execPushEnd s
  | .answerReceive member status tag => Sys2Proof.Machine.execAnswerReceive member status tag s
  | .pushReceive first force svc seq => Sys2Proof.Machine.execPushReceive first force svc seq s
  | .epochOneTimeout faults => Sys2Proof.Machine.execEpochOneTimeout faults s
  | .perstNAssert => Sys2Proof.Machine.execPerstNAssert s
  | .perstNRelease => Sys2Proof.Machine.execPerstNRelease s
  | .functionLevelReset => Sys2Proof.Machine.execFunctionLevelReset s
  | .pciPmD3hotEnter => Sys2Proof.Machine.execPciPmD3hotEnter s
  | .pciPmD0Return => Sys2Proof.Machine.execPciPmD0Return s
  | .registerWrite port off words full => Sys2Proof.Machine.execRegisterWrite port off words full s
  | .bar0OtherRequest => Sys2Proof.Machine.execBar0OtherRequest s
  | .loHalfRead port off n => Sys2Proof.Machine.execLoHalfRead port off n s
  | .pairedLoWrite port pip w => Sys2Proof.Machine.execPairedLoWrite port pip w s
  | .pairedHiWrite port pip w ns cycle => Sys2Proof.Machine.execPairedHiWrite port pip w ns cycle s
  | .jtagRegacc wr valid off data busy => Sys2Proof.Machine.execJtagRegacc wr valid off data busy s
  | .jtagExtest balls value => Sys2Proof.Machine.execJtagExtest balls value s
  | .jtagIdcode => Sys2Proof.Machine.execJtagIdcode s
  | .jtagSamplePreload balls value => Sys2Proof.Machine.execJtagSamplePreload balls value s
  | .jtagClamp => Sys2Proof.Machine.execJtagClamp s
  | .jtagHighz => Sys2Proof.Machine.execJtagHighz s
  | .jtagBypass code => Sys2Proof.Machine.execJtagBypass code s
  | .blockResetHold port w => Sys2Proof.Machine.execBlockResetHold port w s
  | .blockResetRelease port w => Sys2Proof.Machine.execBlockResetRelease port w s
  | .blockReleaseDone block => Sys2Proof.Machine.execBlockReleaseDone block s
  | .staleReply block gen => Sys2Proof.Machine.execStaleReply block gen s
  | .compat6Write port w => Sys2Proof.Machine.execCompat6Write port w s
  | .dbgGo w flips => Sys2Proof.Machine.execDbgGo w flips s
  | .spiRead addr n tooFast => Sys2Proof.Machine.execSpiRead addr n tooFast s
  | .spiFastRead addr n tooFast => Sys2Proof.Machine.execSpiFastRead addr n tooFast s
  | .spiWrite addr words cut => Sys2Proof.Machine.execSpiWrite addr words cut s
  | .spiStatus n tooFast => Sys2Proof.Machine.execSpiStatus n tooFast s
  | .spiWake => Sys2Proof.Machine.execSpiWake s
  | .spiResetArm clocks => Sys2Proof.Machine.execSpiResetArm clocks s
  | .spiResetFire clocks => Sys2Proof.Machine.execSpiResetFire clocks s
  | .spiArmExpiry => Sys2Proof.Machine.execSpiArmExpiry s
  | .spiUnknownCommand cmd => Sys2Proof.Machine.execSpiUnknownCommand cmd s
  | .spiShortFrame cmd => Sys2Proof.Machine.execSpiShortFrame cmd s
  | .spiNoClockFrame => Sys2Proof.Machine.execSpiNoClockFrame s
  | .spiD4WakeEdge => Sys2Proof.Machine.execSpiD4WakeEdge s
  | .hifEngineEnable port w busMaster => Sys2Proof.Machine.execHifEngineEnable port w busMaster s
  | .hifEngineDisable port w => Sys2Proof.Machine.execHifEngineDisable port w s
  | .ringEnable port ring w => Sys2Proof.Machine.execRingEnable port ring w s
  | .ringDisable port ring w => Sys2Proof.Machine.execRingDisable port ring w s
  | .doorbellArrival off w full => Sys2Proof.Machine.execDoorbellArrival off w full s
  | .doorbellTake ring => Sys2Proof.Machine.execDoorbellTake ring s
  | .descriptorFetchComplete words => Sys2Proof.Machine.execDescriptorFetchComplete words s
  | .descriptorFetchFail => Sys2Proof.Machine.execDescriptorFetchFail s
  | .descriptorStart ring => Sys2Proof.Machine.execDescriptorStart ring s
  | .nop d => Sys2Proof.Machine.execNop d s
  | .fence d => Sys2Proof.Machine.execFence d s
  | .cancel d => Sys2Proof.Machine.execCancel d s
  | .cancelArrival d target => Sys2Proof.Machine.execCancelArrival d target s
  | .regRead d => Sys2Proof.Machine.execRegRead d s
  | .regWrite d ns cycle near flips => Sys2Proof.Machine.execRegWrite d ns cycle near flips s
  | .forwardedRequestReceive m ns cycle near flips => Sys2Proof.Machine.execForwardedRequestReceive m ns cycle near flips s
  | .responseReceive src tag late r data => Sys2Proof.Machine.execResponseReceive src tag late r data s
  | .updateRegionRun region => Sys2Proof.Machine.execUpdateRegionRun region s
  | .regionDataReadComplete d data => Sys2Proof.Machine.execRegionDataReadComplete d data s
  | .updateBeamWeights d => Sys2Proof.Machine.execUpdateBeamWeights d s
  | .updateOwnershipMap d => Sys2Proof.Machine.execUpdateOwnershipMap d s
  | .updateAfList d => Sys2Proof.Machine.execUpdateAfList d s
  | .updateRecallList d => Sys2Proof.Machine.execUpdateRecallList d s
  | .updateSpdoTemplate d => Sys2Proof.Machine.execUpdateSpdoTemplate d s
  | .updateTagPlan d => Sys2Proof.Machine.execUpdateTagPlan d s
  | .updateRoster d => Sys2Proof.Machine.execUpdateRoster d s
  | .updatePipTable d => Sys2Proof.Machine.execUpdatePipTable d s
  | .snapshot d others stitch => Sys2Proof.Machine.execSnapshot d others stitch s
  | .restore d remoteBusy => Sys2Proof.Machine.execRestore d remoteBusy s
  | .overloadPost ring => Sys2Proof.Machine.execOverloadPost ring s
  | .captureDropReport ring => Sys2Proof.Machine.execCaptureDropReport ring s
  | .msixSend ring => Sys2Proof.Machine.execMsixSend ring s
  | .hostWriteResume accepts => Sys2Proof.Machine.execHostWriteResume accepts s
  | .pipEdgeQuad a b ns cycle => Sys2Proof.Machine.execPipEdgeQuad a b ns cycle s
  | .pipEdgePulse dir ns cycle => Sys2Proof.Machine.execPipEdgePulse dir ns cycle s
  | .pipEdgeDab ns cycle => Sys2Proof.Machine.execPipEdgeDab ns cycle s
  | .pipEdgeRds ns cycle => Sys2Proof.Machine.execPipEdgeRds ns cycle s
  | .pipCountHostWrite port value ns cycle => Sys2Proof.Machine.execPipCountHostWrite port value ns cycle s
  | .pipHoming cycle => Sys2Proof.Machine.execPipHoming cycle s
  | .pipZArm port w => Sys2Proof.Machine.execPipZArm port w s
  | .pipSrcWrite port w => Sys2Proof.Machine.execPipSrcWrite port w s
  | .pipQualInstant slot => Sys2Proof.Machine.execPipQualInstant slot s
  | .pipWinOpen slot lateNs => Sys2Proof.Machine.execPipWinOpen slot lateNs s
  | .pipWinClose slot lateNs => Sys2Proof.Machine.execPipWinClose slot lateNs s
  | .pipBeacon slot lateNs otherHears => Sys2Proof.Machine.execPipBeacon slot lateNs otherHears s
  | .pipAudioStart slot lateNs near => Sys2Proof.Machine.execPipAudioStart slot lateNs near s
  | .pipCaptureStart slot lateNs => Sys2Proof.Machine.execPipCaptureStart slot lateNs s
  | .pipCalSlot slot lateNs => Sys2Proof.Machine.execPipCalSlot slot lateNs s
  | .calSlotEnd => Sys2Proof.Machine.execCalSlotEnd s
  | .pipGpioSet slot lateNs => Sys2Proof.Machine.execPipGpioSet slot lateNs s
  | .pipGpioClear slot lateNs => Sys2Proof.Machine.execPipGpioClear slot lateNs s
  | .pipPostRecord slot lateNs => Sys2Proof.Machine.execPipPostRecord slot lateNs s
  | .pipEventArm d => Sys2Proof.Machine.execPipEventArm d s
  | .pipEventDisarm d => Sys2Proof.Machine.execPipEventDisarm d s
  | .pipBeaconSend sinceNs cycle => Sys2Proof.Machine.execPipBeaconSend sinceNs cycle s
  | .pipBeaconReceive count frac rate => Sys2Proof.Machine.execPipBeaconReceive count frac rate s
  | .pipNoticeReceive edgeDir old count frac tile cycle revised => Sys2Proof.Machine.execPipNoticeReceive edgeDir old count frac tile cycle revised s
  | .pipLockLoss => Sys2Proof.Machine.execPipLockLoss s
  | .pipStopped => Sys2Proof.Machine.execPipStopped s
  | .refSelectWrite port w => Sys2Proof.Machine.execRefSelectWrite port w s
  | .audioExtLost => Sys2Proof.Machine.execAudioExtLost s
  | .audioHoldoverExit => Sys2Proof.Machine.execAudioHoldoverExit s
  | .audioFamilyChange port w => Sys2Proof.Machine.execAudioFamilyChange port w s
  | .audioSrcChange port w => Sys2Proof.Machine.execAudioSrcChange port w s
  | .syncFire port w => Sys2Proof.Machine.execSyncFire port w s
  | .syncArmReceive tile frame => Sys2Proof.Machine.execSyncArmReceive tile frame s
  | .syncPulseDrive acked => Sys2Proof.Machine.execSyncPulseDrive acked s
  | .syncPulseSample valid => Sys2Proof.Machine.execSyncPulseSample valid s
  | .syncEffect movesSys movesLo movesAud => Sys2Proof.Machine.execSyncEffect movesSys movesLo movesAud s
  | .syncArmExpiry => Sys2Proof.Machine.execSyncArmExpiry s
  | .syncDoneReceive member => Sys2Proof.Machine.execSyncDoneReceive member s
  | .syncFireTimeout => Sys2Proof.Machine.execSyncFireTimeout s
  | .loTargetWrite port unit w => Sys2Proof.Machine.execLoTargetWrite port unit w s
  | .loTuneWrite port unit w => Sys2Proof.Machine.execLoTuneWrite port unit w s
  | .loCalInvalidate port unit w => Sys2Proof.Machine.execLoCalInvalidate port unit w s
  | .tune d => Sys2Proof.Machine.execTune d s
  | .radioState d => Sys2Proof.Machine.execRadioState d s
  | .synthStepDone unit cycle => Sys2Proof.Machine.execSynthStepDone unit cycle s
  | .synthLockTimeout unit => Sys2Proof.Machine.execSynthLockTimeout unit s
  | .txGrant => Sys2Proof.Machine.execTxGrant s
  | .paEnRise => Sys2Proof.Machine.execPaEnRise s
  | .txRampUpStart => Sys2Proof.Machine.execTxRampUpStart s
  | .txFullPower => Sys2Proof.Machine.execTxFullPower s
  | .txLastSymbol => Sys2Proof.Machine.execTxLastSymbol s
  | .txRampDownEnd => Sys2Proof.Machine.execTxRampDownEnd s
  | .paEnFall => Sys2Proof.Machine.execPaEnFall s
  | .blankingEnd cycle => Sys2Proof.Machine.execBlankingEnd cycle s
  | .tileBoundary peaks stats sums => Sys2Proof.Machine.execTileBoundary peaks stats sums s
  | .adcClip path cycle => Sys2Proof.Machine.execAdcClip path cycle s
  | .agcAttack path => Sys2Proof.Machine.execAgcAttack path s
  | .tileWriteDone octet exps data => Sys2Proof.Machine.execTileWriteDone octet exps data s
  | .sentinelFreeze path cond => Sys2Proof.Machine.execSentinelFreeze path cond s
  | .sentinelRelease path => Sys2Proof.Machine.execSentinelRelease path s
  | .freezeMaxExpiry path => Sys2Proof.Machine.execFreezeMaxExpiry path s
  | .overloadEpisodeEnd => Sys2Proof.Machine.execOverloadEpisodeEnd s
  | .overloadOngoing => Sys2Proof.Machine.execOverloadOngoing s
  | .captureStart d => Sys2Proof.Machine.execCaptureStart d s
  | .captureStop d => Sys2Proof.Machine.execCaptureStop d s
  | .captureTileWrite ring seq words => Sys2Proof.Machine.execCaptureTileWrite ring seq words s
  | .calRun d => Sys2Proof.Machine.execCalRun d s
  | .calRoundStart cause items mask => Sys2Proof.Machine.execCalRoundStart cause items mask s
  | .calSumsReceive owner sums => Sys2Proof.Machine.execCalSumsReceive owner sums s
  | .calValuesReceive values => Sys2Proof.Machine.execCalValuesReceive values s
  | .calCoeffWrite port path item w => Sys2Proof.Machine.execCalCoeffWrite port path item w s
  | .calRunTimeout d => Sys2Proof.Machine.execCalRunTimeout d s
  | .bcstSelect d => Sys2Proof.Machine.execBcstSelect d s
  | .bcstSelectTimeout source => Sys2Proof.Machine.execBcstSelectTimeout source s
  | .bcstFollow d => Sys2Proof.Machine.execBcstFollow d s
  | .datacastSubscribe d => Sys2Proof.Machine.execDatacastSubscribe d s
  | .fmAudioReady source => Sys2Proof.Machine.execFmAudioReady source s
  | .rdsBlock path freq kind info corr => Sys2Proof.Machine.execRdsBlock path freq kind info corr s
  | .dabNullSymbol path => Sys2Proof.Machine.execDabNullSymbol path s
  | .dabFrame path fibs audBad audAll facts => Sys2Proof.Machine.execDabFrame path fibs audBad audAll facts s
  | .dabReconfig path cif services => Sys2Proof.Machine.execDabReconfig path cif services s
  | .dabAudioReady source => Sys2Proof.Machine.execDabAudioReady source s
  | .announcementTimeout source => Sys2Proof.Machine.execAnnouncementTimeout source s
  | .followEvaluate => Sys2Proof.Machine.execFollowEvaluate s
  | .switchConfirmTimeout source => Sys2Proof.Machine.execSwitchConfirmTimeout source s
  | .afBarExpiry source mode freq => Sys2Proof.Machine.execAfBarExpiry source mode freq s
  | .dabProbe source freq id scids => Sys2Proof.Machine.execDabProbe source freq id scids s
  | .dabProbeEnd qual => Sys2Proof.Machine.execDabProbeEnd qual s
  | .bcstMeterUpdate meters => Sys2Proof.Machine.execBcstMeterUpdate meters s
  | .datacastUnit slot unit => Sys2Proof.Machine.execDatacastUnit slot unit s
  | .audioRoute d => Sys2Proof.Machine.execAudioRoute d s
  | .audioRouteRampStart output => Sys2Proof.Machine.execAudioRouteRampStart output s
  | .audioFrameBoundary flows => Sys2Proof.Machine.execAudioFrameBoundary flows s
  | .sapCtlWrite port sap w => Sys2Proof.Machine.execSapCtlWrite port sap w s
  | .audioUnderrun port => Sys2Proof.Machine.execAudioUnderrun port s
  | .audioOverrun port => Sys2Proof.Machine.execAudioOverrun port s
  | .audioResume port => Sys2Proof.Machine.execAudioResume port s
  | .followerClockLost port bclk => Sys2Proof.Machine.execFollowerClockLost port bclk s
  | .followerClockBack port => Sys2Proof.Machine.execFollowerClockBack port s
  | .spdoBlockStart => Sys2Proof.Machine.execSpdoBlockStart s
  | .spdoCsLoad port w => Sys2Proof.Machine.execSpdoCsLoad port w s
  | .spdiLock rate => Sys2Proof.Machine.execSpdiLock rate s
  | .spdiLoss => Sys2Proof.Machine.execSpdiLoss s
  | .spdiNonpcm => Sys2Proof.Machine.execSpdiNonpcm s
  | .spdiErasure parity => Sys2Proof.Machine.execSpdiErasure parity s
  | .audStartGo port w near => Sys2Proof.Machine.execAudStartGo port w near s
  | .audStartBall near => Sys2Proof.Machine.execAudStartBall near s
  | .audStartFrame => Sys2Proof.Machine.execAudStartFrame s
  | .tagBurst entry mode errors bytes rssi beam cycle => Sys2Proof.Machine.execTagBurst entry mode errors bytes rssi beam cycle s
  | .candidateReceive c => Sys2Proof.Machine.execCandidateReceive c s
  | .candidateHandle cut bad => Sys2Proof.Machine.execCandidateHandle cut bad s
  | .ackMacExpiry band channel mac => Sys2Proof.Machine.execAckMacExpiry band channel mac s
  | .tagBeacon d otherHears => Sys2Proof.Machine.execTagBeacon d otherHears s
  | .beaconServe => Sys2Proof.Machine.execBeaconServe s
  | .lbtJudge power count => Sys2Proof.Machine.execLbtJudge power count s
  | .lbtRetryWait => Sys2Proof.Machine.execLbtRetryWait s
  | .implicitWindowOpen chan mode mine => Sys2Proof.Machine.execImplicitWindowOpen chan mode mine s
  | .implicitWindowClose chan mode mine => Sys2Proof.Machine.execImplicitWindowClose chan mode mine s
  | .beaconDecision crc accepted => Sys2Proof.Machine.execBeaconDecision crc accepted s
  | .beaconRepeat d => Sys2Proof.Machine.execBeaconRepeat d s
  | .dutyWindowTick => Sys2Proof.Machine.execDutyWindowTick s
  | .tagListen d => Sys2Proof.Machine.execTagListen d s
  | .tagListenClose d => Sys2Proof.Machine.execTagListenClose d s
  | .tagListenDurationEnd set => Sys2Proof.Machine.execTagListenDurationEnd set s
  | .refreshDue => Sys2Proof.Machine.execRefreshDue s
  | .refreshCommand => Sys2Proof.Machine.execRefreshCommand s
  | .storeGrant requests progress flips => Sys2Proof.Machine.execStoreGrant requests progress flips s
  | .scrubWriteBack addr again => Sys2Proof.Machine.execScrubWriteBack addr again s
  | .stitchEnd writes => Sys2Proof.Machine.execStitchEnd writes s
  | .holdCutoff progress => Sys2Proof.Machine.execHoldCutoff progress s
  | .scrubPassEnd late => Sys2Proof.Machine.execScrubPassEnd late s
  | .bankCopyDone => Sys2Proof.Machine.execBankCopyDone s
  | .linkTrainingDone link lanes inverted skew member plink phead token => Sys2Proof.Machine.execLinkTrainingDone link lanes inverted skew member plink phead token s
  | .linkGiveUp link => Sys2Proof.Machine.execLinkGiveUp link s
  | .laneLockLoss link lane errors => Sys2Proof.Machine.execLaneLockLoss link lane errors s
  | .fastRetrainEnd link lanes token => Sys2Proof.Machine.execFastRetrainEnd link lanes token s
  | .distBlock link head dist uid child => Sys2Proof.Machine.execDistBlock link head dist uid child s
  | .bootTreeMessage link up m => Sys2Proof.Machine.execBootTreeMessage link up m s
  | .flitReceive link f again => Sys2Proof.Machine.execFlitReceive link f again s
  | .ackBlock link no => Sys2Proof.Machine.execAckBlock link no s
  | .nakBlock link expect => Sys2Proof.Machine.execNakBlock link expect s
  | .replayTimeout link => Sys2Proof.Machine.execReplayTimeout link s
  | .ackSend link => Sys2Proof.Machine.execAckSend link s
  | .flowBlock link ack vc0 vc1 boot => Sys2Proof.Machine.execFlowBlock link ack vc0 vc1 boot s
  | .laneChkSend link lane => Sys2Proof.Machine.execLaneChkSend link lane s
  | .linkDownDetect link => Sys2Proof.Machine.execLinkDownDetect link s
  | .breakBlock link kind reporter rlink partner epoch count => Sys2Proof.Machine.execBreakBlock link kind reporter rlink partner epoch count s
  | .requestBreakTimeout tag => Sys2Proof.Machine.execRequestBreakTimeout tag s
  | .sleepBlock link entering => Sys2Proof.Machine.execSleepBlock link entering s
  | .laceForm d faults => Sys2Proof.Machine.execLaceForm d faults s
  | .epochSetReceive epoch shape mask faults => Sys2Proof.Machine.execEpochSetReceive epoch shape mask faults s
  | .epochAckReceive member epoch => Sys2Proof.Machine.execEpochAckReceive member epoch s
  | .epochAckTimeout => Sys2Proof.Machine.execEpochAckTimeout s
  | .syncReportTimeout => Sys2Proof.Machine.execSyncReportTimeout s
  | .laceRestStart => Sys2Proof.Machine.execLaceRestStart s
  | .restReceive => Sys2Proof.Machine.execRestReceive s
  | .laceRestEnd => Sys2Proof.Machine.execLaceRestEnd s
  | .resumeReceive => Sys2Proof.Machine.execResumeReceive s
  | .exchDefine d barred => Sys2Proof.Machine.execExchDefine d barred s
  | .exchStart d barred addBarred => Sys2Proof.Machine.execExchStart d barred addBarred s
  | .exchStop d => Sys2Proof.Machine.execExchStop d s
  | .exchPostReceive xid octet => Sys2Proof.Machine.execExchPostReceive xid octet s
  | .exchConfirmReceive xid src => Sys2Proof.Machine.execExchConfirmReceive xid src s
  | .exchTileSend => Sys2Proof.Machine.execExchTileSend s
  | .exchTileArrive src words res => Sys2Proof.Machine.execExchTileArrive src words res s
  | .exchAckReceive xid octet tile released => Sys2Proof.Machine.execExchAckReceive xid octet tile released s
  | .exchNackReceive xid octet tile released => Sys2Proof.Machine.execExchNackReceive xid octet tile released s
  | .exchTileDeadline xid tile elsewhere => Sys2Proof.Machine.execExchTileDeadline xid tile elsewhere s
  | .exchWindowRelease octet tile => Sys2Proof.Machine.execExchWindowRelease octet tile s
  | .beamform octet tile => Sys2Proof.Machine.execBeamform octet tile s
  | .surveyContribution octet tile => Sys2Proof.Machine.execSurveyContribution octet tile s
  | .addArrival src words res fails => Sys2Proof.Machine.execAddArrival src words res fails s
  | .accumulatorComplete octet tile => Sys2Proof.Machine.execAccumulatorComplete octet tile s
  | .surveyQuery src tag k periods => Sys2Proof.Machine.execSurveyQuery src tag k periods s
  | .rosterEdit d stitch => Sys2Proof.Machine.execRosterEdit d stitch s
  | .rosterQuery d bad => Sys2Proof.Machine.execRosterQuery d bad s
  | .keyLoad d => Sys2Proof.Machine.execKeyLoad d s
  | .rosterSizeWrite port w => Sys2Proof.Machine.execRosterSizeWrite port w s
  | .noticeSegment slot => Sys2Proof.Machine.execNoticeSegment slot s
  | .noticeRecallApply => Sys2Proof.Machine.execNoticeRecallApply s
  | .noticeAbandonTimeout slot => Sys2Proof.Machine.execNoticeAbandonTimeout slot s
  | .latTolWrite port w => Sys2Proof.Machine.execLatTolWrite port w s
  | .powerStateEntry target => Sys2Proof.Machine.execPowerStateEntry target s
  | .powerOwnExit => Sys2Proof.Machine.execPowerOwnExit s
  | .powerExitComplete => Sys2Proof.Machine.execPowerExitComplete s
  | .wakeInEdge => Sys2Proof.Machine.execWakeInEdge s
  | .dwellExpiry => Sys2Proof.Machine.execDwellExpiry s
  | .d4Entry enMainFalls => Sys2Proof.Machine.execD4Entry enMainFalls s
  | .d4Abandon event => Sys2Proof.Machine.execD4Abandon event s
  | .d4Wake straps => Sys2Proof.Machine.execD4Wake straps s
  | .d4TimerExpiry => Sys2Proof.Machine.execD4TimerExpiry s
  | .sensorConversion temps mv => Sys2Proof.Machine.execSensorConversion temps mv s
  | .supplyRange supply => Sys2Proof.Machine.execSupplyRange supply s
  | .telemetry => Sys2Proof.Machine.execTelemetry s
  | .faultSuppressWindowEnd code => Sys2Proof.Machine.execFaultSuppressWindowEnd code s
  | .retireMapWrite port n w => Sys2Proof.Machine.execRetireMapWrite port n w s
  | .pathStuckError path => Sys2Proof.Machine.execPathStuckError path s
  | .pathRetryRestore path cycle => Sys2Proof.Machine.execPathRetryRestore path cycle s
  | .pathTransientWindow path => Sys2Proof.Machine.execPathTransientWindow path s
  | .strapPullDownOff => Sys2Proof.Machine.execStrapPullDownOff s
  | .refDetFall => Sys2Proof.Machine.execRefDetFall s
  | .syncMissedReceive member => Sys2Proof.Machine.execSyncMissedReceive member s
  | .resumeAckReceive member => Sys2Proof.Machine.execResumeAckReceive member s
  | .dabNullSymbolAbsent path => Sys2Proof.Machine.execDabNullSymbolAbsent path s
  | .spdiBlock cs v => Sys2Proof.Machine.execSpdiBlock cs v s
  | .powerEntryComplete => Sys2Proof.Machine.execPowerEntryComplete s
  | .synthRelockTimeout unit => Sys2Proof.Machine.execSynthRelockTimeout unit s
  | .restoreBlobReadComplete d blob => Sys2Proof.Machine.execRestoreBlobReadComplete d blob s
  | .rosterImageReadComplete d image stitch => Sys2Proof.Machine.execRosterImageReadComplete d image stitch s
  | .msixTableWrite off w => Sys2Proof.Machine.execMsixTableWrite off w s
  | .aspmL1Entry sub => Sys2Proof.Machine.execAspmL1Entry sub s
  | .aspmL1Exit => Sys2Proof.Machine.execAspmL1Exit s

end Sys2Proof.Machine
end

