-- ==== Sys2Proof/Safety.lean ====
section
/-! DEFINITION. What counts as a safe run: no command of the queue stops the device, and the data kept in canonical form stays so. -/

namespace Sys2Proof.Machine

/-! ### What a command does, and what it leaves -/

/-- A command answers a next state, of which `P` holds. -/
def answers (c : Instr) (s : State) (P : State → Prop) : Prop := ∃ t, exec c s = .next t ∧ P t

/-- Every bit of every register reads in `t` as in `s`, but for the bits of these fields. -/
def fieldsOnly (fs : List FieldRef) (s t : State) : Prop :=
  ∀ off i, (∀ f ∈ fs, f.off = off → i < f.lo ∨ f.lo + f.width ≤ i) → (t.rd off).getLsbD i = (s.rd off).getLsbD i

/-- The state `t` is `s` but for registers, and of those but for the bits of these fields. -/
def onlyFields (fs : List FieldRef) (s t : State) : Prop := { t with regs := s.regs } = s ∧ fieldsOnly fs s t

/-- Every register reads in `t` as in `s`, but for these. -/
def regsOnly (offs : List Nat) (s t : State) : Prop := ∀ off, off ∉ offs → t.rd off = s.rd off

/-- The state `t` is `s` but for registers, and of those but for these. -/
def onlyRegs (offs : List Nat) (s t : State) : Prop := { t with regs := s.regs } = s ∧ regsOnly offs s t

/-- An access through a port to an offset is served (R104, R141, R157, R164, R177, R183). -/
def served (s : State) (p : Port) (off : Nat) : Prop := s.portOpen p = true ∧ s.reach p off = .ok

/-- Registers in which the device notes what it reports: producer indices and drop counters of rings, discards of links, the
status bits of SPI_STAT and FLT_STAT, wake events, and TOP_STALE_CNT. -/
def logRegs : List Nat :=
  [Reg.topStaleCnt, Reg.spiStat, Reg.fltStat, Reg.pwrWakeSrc, Reg.pwrState] ++ (List.range 24).map Reg.hifRingHead
    ++ (List.range 24).map Reg.hifDropCnt ++ (List.range 4).map Reg.lnkStat

/-- The state `t` is `s` but for what reporting changes: those registers, the ring engine, the links, the power state machine's and the
fault manager's own data, and what has gone out. -/
def logsOnly (s t : State) : Prop :=
  { t with regs := s.regs, hif := s.hif, pwr := s.pwr, flt := s.flt, lnk := s.lnk, out := s.out } = s ∧ regsOnly logRegs s t

/-- The state `t` is `s` but for these registers and for what reporting changes. -/
def logsAnd (offs : List Nat) (s t : State) : Prop :=
  { t with regs := s.regs, hif := s.hif, pwr := s.pwr, flt := s.flt, lnk := s.lnk, out := s.out } = s ∧ regsOnly (offs ++ logRegs) s t

/-- An edge has moved the pip count by one since `s`, with its interval and direction in PIP_RATE (R276); beside that only the pip timebase's
own data, the backstep counter and what reporting changes have changed. -/
def pipStepped (s t : State) (down : Bool) (ns cycle : Nat) : Prop :=
  t.pipCount = sgn 64 (unsgn 64 (if down then s.pipCount - 1 else s.pipCount + 1)) ∧
  t.pipPeriod = (if s.pip.edged && decide (ns < 1000000000) then ns else 0) ∧ t.is Fld.pipRateDir = down ∧ t.get Fld.pipFracFrac = 0 ∧
  t.pip.cycle = cycle % 245760 ∧ logsAnd [Reg.pipCountLo, Reg.pipCountHi, Reg.pipRate, Reg.pipFrac, Reg.pipBackstepCnt] (s.modPip (fun _ => t.pip)) t

/-- Registers that show what the audio outputs do. -/
def audRegs : List Nat := [Reg.sapStat 0, Reg.sapStat 1, Reg.sapStat 2, Reg.audStartCtl]

/-- The completion of a descriptor can be told now: at the head it has started, neither its ring nor the HIF block has been reset since, and
its completion ring is enabled with room and written at once (R202, R216, R257, R258); another member answers the head. -/
def tellable (s : State) (d : Desc) : Prop :=
  s.head = true → (∃ x, s.findStarted d = some x ∧ x.orphan = false ∧ x.dropped = false) ∧ s.is (Fld.hifRingCtlEn (cplRing d.ring).val) = true ∧
    s.ringRoom (cplRing d.ring) ≠ 0 ∧ s.hif.accepts = true ∧ s.pcie.d3hot = false

/-- A descriptor has ended with a result since `s`: the head has written its completion (Table 6.9), another member has answered the
head. -/
def ended (s t : State) (d : Desc) (r : Result) : Prop :=
  if s.head then ∃ ph a, Out.hostWrite a (s.cplWords ph (s.cplMember d) d.opcode d.ring.val d.tag d.index r) ∈ t.out
  else ∃ late, Out.msg { dst := s.headNo, src := s.me, kind := 3, code := msgCompletion, tag := (d.w 8).toNat % 65536
                         words := [packW [(31, 1, b2n late), (8, 8, r.detail), (0, 8, r.status)], r.r0, r.r1, r.r2, r.r3] } ∈ t.out

/-- A record of a type that the head posts is written at once: the lowest enabled event ring that selects its type has room and owes no
OVERLOAD record, and the HIF block takes it (R203, R223, R225). -/
def recordable (s : State) (typ : Nat) : Prop :=
  s.head = true ∧ s.engine = true ∧ s.pcie.d3hot = false ∧ s.hif.accepts = true ∧
    ∃ n, s.recRing typ = some n ∧ s.ringRoom n ≠ 0 ∧ s.hif.rings[n].drops = 0

/-- A record of a type has gone out whose words from word 6 on begin with these (Table 6.10). -/
def recorded (t : State) (typ : Nat) (body : List Word) : Prop :=
  ∃ a ws, Out.hostWrite a ws ∈ t.out ∧ getF (ws.getD 0 0) 0 8 = typ ∧ (ws.drop 6).take body.length = body

/-- A wake event has begun the exit from D1 to D3 since `s`, in which these registers may have been written (R774, R786). -/
def woken (s t : State) (offs : List Nat) (i : Nat) (dwell : Bool) : Prop :=
  t.get Fld.pwrWakeSrcSrc = s.get Fld.pwrWakeSrcSrc ||| 2 ^ i ∧
  t.pwr = { s.pwr with dwell := s.pwr.dwell || dwell, wakeN := s.pwr.wakeN || (s.is Fld.pwrCtlWakeNEn && s.env.perstLow), exiting := true, aborted := s.pwr.aborted || s.pwr.d4Step, d4Step := false } ∧
  onlyRegs (Reg.pwrWakeSrc :: offs) (s.modPwr (fun _ => t.pwr)) t

/-- An instance is not retired, and one failure more does not retire it: none of it is logged, and its class has no K of 1 (R789, R790). -/
def firstFailure (s : State) (cls inst : Nat) : Prop :=
  s.retired cls inst = false ∧ s.get (Fld.fltPolicyK cls) ≠ 1 ∧ ∀ e ∈ s.flt.fails, ¬ (e.cls = cls ∧ e.inst = inst)

/-- A descriptor is due to reach its block, and its completion can be told. -/
def dueHere (s : State) (op : Nat) (d : Desc) : Prop := s.takes op d = true ∧ tellable s d

/-- A step goes on. -/
def goesOn (o : Host.Outcome State Fault Refusal) : Bool :=
  match o with
  | .next _ => true
  | .fault _ => false
  | .refused _ => false

/-- The device takes a step from here. -/
def State.safe (s : State) : Bool := goesOn (step s)

end Sys2Proof.Machine
end

