-- ==== Sys2Proof/Certificates/Slice0/Obligations.lean ====
section
/-! DEFINITION. The statements for the provers. -/

open Sys2Proof Sys2Proof.Machine

/-- For every state, command and queue: when the command stands at the front, step is exec of that command on the state whose queue is the rest; when
the queue is empty, step answers the same state. (section 00 (scope)) -/
def Obligations.StepRunsTheFrontCommand : Prop :=
  (∀ (s : State) (c : Instr) (rest : List Instr), s.pending = c :: rest → step s = exec c { s with pending := rest }) ∧
  (∀ s : State, s.pending = [] → step s = .next s)

/-- For every command and every state, exec answers a next state whose queue is the queue before; what the device has done towards the outside is only
added to, and the counter of free values never falls back. (section 00 (scope), R164) -/
def Obligations.EveryCommandAnswersWithTheQueueUntouched : Prop :=
  ∀ (c : Instr) (s : State), answers c s fun t => t.pending = s.pending ∧ (∃ os, t.out = os ++ s.out) ∧ s.free ≤ t.free

/-- For every state whose register file and sample store are in canonical form (keys strictly rising, no entry equal to what an unlisted key reads
as), a step that answers a next state answers one in canonical form: two states that read alike at every register and every word hold equal data. The
canonical form is the model's (log 2). (section 05 (setup register map), section 15 (sample store)) -/
def Obligations.CanonicalFormIsKeptByEveryStep : Prop :=
  ∀ s t : State, s.canonical = true → step s = .next t → t.canonical = true

/-- For any two states in canonical form: if every register reads alike, their register files are equal lists; if every word of the sample store reads
alike, their stores' words are equal lists. (section 05 (setup register map), section 15 (sample store)) -/
def Obligations.CanonicalStateIsDeterminedByItsReads : Prop :=
  ∀ s t : State, s.canonical = true → t.canonical = true →
    ((∀ off, s.rd off = t.rd off) → s.regs = t.regs) ∧
    ((∀ a, s.storeRead a = t.storeRead a) → s.store.words = t.store.words)

/-- For every state whose internal buffer holds at most 256 records, a step that answers a next state answers one whose buffer holds at most 256
records. (R226, R227) -/
def Obligations.RecordBufferHoldsAtMost256 : Prop :=
  ∀ s t : State, s.hif.buf.length ≤ 256 → step s = .next t → t.hif.buf.length ≤ 256

/-- For every command other than the release of power-on reset, a release of RESET_N and the wake from D4, the sampled straps stay. For every command
other than RAIL_GOOD, RAIL_LOST, RESET_N_ASSERT, RESET_N_RELEASE, PERST_N_ASSERT and PERST_N_RELEASE, what the board holds at the device's balls
stays. (R38, R50, R35, R49) -/
def Obligations.OnlyTheBoardMovesStrapsAndRails : Prop :=
  ∀ (c : Instr) (s t : State), exec c s = .next t →
    ((∀ st, c ≠ .powerOnResetRelease st) → (∀ st ns, c ≠ .resetNRelease st ns) → (∀ st, c ≠ .d4Wake st) → t.top.straps = s.top.straps) ∧
    ((∀ r, c ≠ .railGood r) → (∀ r, c ≠ .railLost r) → (∀ ns, c ≠ .resetNAssert ns) → (∀ st ns, c ≠ .resetNRelease st ns) →
      c ≠ .perstNAssert → c ≠ .perstNRelease → t.env = s.env)

/-- In State.reset TOP_PART, TOP_STEP, PWR_NEXT_LEAD, CAL_DTEMP, AUD_FADE_CFG, TAG_SYNC, ARB_STITCH_MAX, FLT_POLICYn, DBG_ID read the reset values of
the register tables, and every other register reads 0; BOOT_STAT.PHASE is ROM, the power state D0, the ring engine off, every synthesiser in SLEEP;
the sample store holds nothing, no epoch is formed, no GPIO is driven, PA_EN is low, no ring is enabled, and the queue is empty. What a word of the
store that nothing has written reads as is the model's choice (log 3), as are the rails that are up (log 6). (R36, R47, R51, R68, section 05 (setup
register map)) -/
def Obligations.ResetLeavesTheStatedState : Prop :=
  State.reset.rd Reg.topPart = 0x7340 ∧ State.reset.rd Reg.topStep = 0xB1 ∧ State.reset.rd Reg.pwrNextLead = 0xFFFFFFFF ∧
  State.reset.rd Reg.calDtemp = 0x10 ∧ State.reset.rd Reg.audFadeCfg = 0x402 ∧ State.reset.rd Reg.tagSync = 0x93D61C4B ∧
  State.reset.rd Reg.arbStitchMax = 0x10 ∧ (∀ n : Fin 8, State.reset.rd (Reg.fltPolicy n.val) = 0x03E80004) ∧
  State.reset.rd Reg.dbgId = 0x734000B1 ∧
  (∀ off, State.reset.rd off ≠ 0 → off ∈ [0x0000, 0x0004, 0x100C, 0x3004, 0x4054, 0x4814, 0x500C, 0x7040, 0x7044, 0x7048, 0x704C, 0x7050, 0x7054, 0x7058, 0x705C, 0xF000]) ∧
  State.reset.phase = 0 ∧ State.reset.pst = 0 ∧ State.reset.engine = false ∧ State.reset.is Fld.clkSysStatLock = false ∧
  (∀ n : Fin 5, State.reset.loState n = 0) ∧ (∀ n : Fin 24, State.reset.ringOn n = false) ∧
  State.reset.members = 0 ∧ State.reset.epoch = 0 ∧ (∀ a, State.reset.storeRead a = storeBlank a) ∧
  (∀ n : Fin 8, State.reset.top.gpio[n].driven = false) ∧ State.reset.top.paEn = false ∧
  State.reset.pending = [] ∧ State.reset.out = [] ∧ State.reset.canonical = true

/-- RAIL_GOOD makes its rail good and leaves every other rail; of the rails of core supply, or while the device does not run, it changes nothing else
but the pull-downs. RAIL_LOST of VBAT_AO or of a core rail asserts power-on reset: every register reads its reset value and the sample store holds
nothing. RAIL_LOST of VDD_RF or VDD_PA while the radios are supplied puts every synthesiser into SLEEP, ends a send and sets FLT_STAT.RAIL.
POWER_ON_RESET_RELEASE samples the straps. STRAP_PULL_DOWN_OFF turns the pull-downs off and does nothing else. RESET_N low for 10 us or more clears
the device; a pulse shorter than 1 us does nothing (between the two the outcome is a free value, log 9). Its release samples the straps, or wakes the
device from D4. (R35, R36, R38, R40, R49, R50, R51, R64, R65, R844) -/
def Obligations.RailsAndResetPinsActAsTheBoardDrivesThem : Prop :=
  (∀ s r, s.env.rails.get r = false → answers (.railGood r) s fun t =>
    t.env.rails.get r = true ∧ (∀ q, q ≠ r → t.env.rails.get q = s.env.rails.get q) ∧ t.env.resetLow = s.env.resetLow ∧ t.env.perstLow = s.env.perstLow ∧
    (r.isCore = true ∨ s.runs = false → { t with env := s.env, top := s.top } = s ∧
      t.top = { s.top with pullDowns := s.top.pullDowns || r == .io })) ∧
  (∀ s r, s.env.rails.get r = true → r.isCore = true → (s.pwr.d4 = true → r = .vbatAo) → answers (.railLost r) s fun t =>
    t.env = { s.env with rails := s.env.rails.set r false } ∧ t.top.por = true ∧ (∀ off, t.rd off = resetWord off) ∧
    (∀ a, t.storeRead a = storeBlank a) ∧ t.top.straps = s.top.straps ∧ t.out = s.out) ∧
  (∀ s r, s.env.rails.get r = true → r.isCore = false → s.runs = true → s.enRf = true → answers (.railLost r) s fun t =>
    t.env = { s.env with rails := s.env.rails.set r false } ∧ (∀ n : Fin 5, t.loState n = 0) ∧ t.radio.tx = none ∧
    t.is Fld.fltStatRail = true) ∧
  (∀ s st, s.top.por = true → s.env.rails.up = true → s.pwr.d4 = false → answers (.powerOnResetRelease st) s fun t =>
    t.top = { s.top with por := false, straps := st, pullDowns := true } ∧ t.is Fld.topCfgCompat6 = st.compat6 ∧
    fieldsOnly [Fld.topCfgCompat6] s t ∧ { t with regs := s.regs, top := s.top, spi := s.spi } = s) ∧
  (∀ s, answers .strapPullDownOff s fun t => t = s.modTop (fun p => { p with pullDowns := false })) ∧
  (∀ s ns, 10000 ≤ ns → s.pwr.d4 = false → answers (.resetNAssert ns) s fun t =>
    t.env = { s.env with resetLow := true } ∧ t.alive = false ∧ (∀ off, t.rd off = resetWord off) ∧ (∀ a, t.storeRead a = storeBlank a)) ∧
  (∀ s ns, ns < 1000 → answers (.resetNAssert ns) s fun t => t = s.draw) ∧
  (∀ s st ns, 10000 ≤ ns → s.env.resetLow = true → s.pwr.d4 = false → s.top.por = false → answers (.resetNRelease st ns) s fun t =>
    t.env = { s.env with resetLow := false } ∧ t.top.straps = st ∧ t.is Fld.topCfgCompat6 = st.compat6 ∧ fieldsOnly [Fld.topCfgCompat6] s t ∧
    t.alive = true) ∧
  (∀ s st ns, 10000 ≤ ns → s.env.resetLow = true → s.pwr.d4 = true → answers (.resetNRelease st ns) s fun t =>
    t.pwr.d4 = false ∧ t.top.straps = st ∧ t.env = { s.env with resetLow := false } ∧ t.pwr.d4Wake = s.pwr.d4Wake ||| 2 ^ 10)

/-- While the device is alive: the boot ROM's window selects REFCLK when it was detected; detection and its fall move REF_DET alone, the crystal's
start XTAL_RUN alone. The first lock of the system ADPLL does the internal SYNC (tile 0, Lace time 0) and enters WAIT_IMAGES; a relock of a
synthesiser ungates it. A loss of lock or of reference clears LOCK, gates, sets its flag and FLT_STAT.CLOCK. A write of CLK_REF_SEL that asks for a
reference that is not there sets REJ and keeps SEL; one that asks for the other reference selects it, and acts as a loss of reference. (R71, R315,
R317, R320, R321, R322, R323, R324, R325, R339, R69) -/
def Obligations.ReferenceAndLocks : Prop :=
  (∀ s, s.alive = true → s.phase = phROM → s.is Fld.clkSysStatLock = false → answers .refDetectWindowEnd s fun t =>
    t.is Fld.clkRefSelSel = s.is Fld.clkRefSelRefDet ∧
    t.is Fld.clkRefSelXtalRun = (s.is Fld.clkRefSelXtalRun && !(s.is Fld.clkRefSelRefDet && !s.is Fld.clkSysCtlXtalKeep)) ∧
    onlyFields [Fld.clkRefSelSel, Fld.clkRefSelXtalRun] s t) ∧
  (∀ s, s.alive = true → s.pst < 3 → answers .refclkDetected s fun t => t.is Fld.clkRefSelRefDet = true ∧ onlyFields [Fld.clkRefSelRefDet] s t) ∧
  (∀ s, s.alive = true → answers .refDetFall s fun t => t.is Fld.clkRefSelRefDet = false ∧ onlyFields [Fld.clkRefSelRefDet] s t) ∧
  (∀ s, s.alive = true → s.pst < 3 → (s.is Fld.clkRefSelSel = false ∨ s.is Fld.clkSysCtlXtalKeep = true) → answers .crystalStarted s fun t =>
    t.is Fld.clkRefSelXtalRun = true ∧ onlyFields [Fld.clkRefSelXtalRun] s t) ∧
  (∀ s cycle, s.alive = true → s.refThere = true → s.pst < 2 → s.is Fld.clkSysStatLock = false → s.clk.synced = false →
    s.is Fld.bootCtlStart = false → answers (.adpllLock 5 cycle) s fun t =>
      t.is Fld.clkSysStatLock = true ∧ t.is Fld.clkSysStatGated = false ∧ t.clk.synced = true ∧ t.tile = 0 ∧ t.clk.audFrame = 0 ∧ t.phase = phWait) ∧
  (∀ s cycle (n : Fin 5), s.alive = true → s.refThere = true → s.pst < 2 → s.free? .radio = true → s.radio.los[n].gated = true →
    s.radio.los[n].relock = false → answers (.adpllLock (Fin.ofNat 7 n.val) cycle) s fun t =>
      t.radio.los[n].gated = false ∧ t.is (Fld.loStatLock n.val) = true) ∧
  (∀ s cycle, s.alive = true → s.refThere = true → s.pst < 2 → s.audSrc ≠ 0 → s.is Fld.clkAudStatLock = false →
    answers (.adpllLock 6 cycle) s fun t => t.is Fld.clkAudStatLock = true ∧ t.is Fld.clkAudStatGated = false ∧ t.aud.gated = false) ∧
  (∀ s, s.alive = true → s.is Fld.clkSysStatLock = true → s.pst < 2 → answers (.adpllLossOfLock 5) s fun t =>
    t.is Fld.clkSysStatLock = false ∧ t.is Fld.clkSysStatGated = true ∧ t.is Fld.clkSysStatLol = true ∧ t.is Fld.fltStatClock = true) ∧
  (∀ s (n : Fin 5), s.alive = true → s.free? .radio = true → 2 ≤ s.loState n → s.is (Fld.loStatLock n.val) = true →
    answers (.adpllLossOfLock (Fin.ofNat 7 n.val)) s fun t =>
      t.is (Fld.loStatLock n.val) = false ∧ t.is (Fld.loStatLol n.val) = true ∧ t.radio.los[n].gated = true ∧ t.is Fld.fltStatClock = true) ∧
  (∀ s, s.alive = true → s.clk.synced = true → s.clk.refLost = false → s.pst < 2 → answers .adpllLossOfRef s fun t =>
    t.clk.refLost = true ∧ t.is Fld.clkSysStatLock = false ∧ t.tile = s.tile) ∧
  (∀ s p w, served s p Reg.clkRefSel → (if getF w 0 1 = 1 then s.is Fld.clkRefSelRefDet else s.is Fld.clkRefSelXtalRun) = false →
    answers (.refSelectWrite p w) s fun t => t.is Fld.clkRefSelRej = true ∧ onlyFields [Fld.clkRefSelRej] s t) ∧
  (∀ s p w, served s p Reg.clkRefSel → (if getF w 0 1 = 1 then s.is Fld.clkRefSelRefDet else s.is Fld.clkRefSelXtalRun) = true →
    s.is Fld.clkRefSelSel ≠ (getF w 0 1 == 1) → answers (.refSelectWrite p w) s fun t =>
      t.is Fld.clkRefSelSel = (getF w 0 1 == 1) ∧ (s.clk.synced = true → t.clk.refLost = true))

/-- A served write of BOOT_CTL with START, on a device that does not receive its images from the head: in ROM it is held; in WAIT_IMAGES or HELD, on a
device that fetches from host memory with Bus Master Enable set, both images are lost and a load is in FETCH with START set, CODE, IMAGE and FETCH 0
and at most 32 reads in flight; with Bus Master Enable clear the load ends in HELD with HELD_CRC, FETCH and the first image's number, and START
clears. In other phases START acts on nothing but FORCE_UNTESTED's bit. A write of FORCE_UNTESTED in HELD with HELD_STEP or HELD_IFG starts the pair
with UNTESTED set; in any phase other than HELD it changes its own bit alone. (R74, R77, R78, R80, R82, R86, R88, R108, R109, R863, R865) -/
def Obligations.LoadsStartAsTheHostAsks : Prop :=
  (∀ s p w bm mr, served s p Reg.bootCtl → s.phase = phROM → s.source ≠ 2 → getF w 0 1 = 1 → answers (.bootStart p w bm mr) s fun t =>
    t.is Fld.bootCtlStart = true ∧ t.is Fld.bootCtlForceUntested = (getF w 1 1 == 1) ∧ fieldsOnly [Fld.bootCtlStart, Fld.bootCtlForceUntested] s t ∧
    { t with regs := s.regs, pcie := s.pcie } = s) ∧
  (∀ s p w mr, served s p Reg.bootCtl → s.portOpen .pcie = true → s.source = 0 → (s.phase = phWait ∨ s.phase = phHeld) →
    s.is Fld.bootCtlStart = false → getF w 0 1 = 1 → (s.rd Reg.bootSvcLen).toNat ≠ 0 → answers (.bootStart p w true mr) s fun t =>
      t.phase = phFetch ∧ t.is Fld.bootCtlStart = true ∧ t.boot.svcImg = [] ∧ t.boot.seqImg = [] ∧ t.get Fld.bootMismatchCode = 0 ∧
      t.get Fld.bootMismatchImage = 0 ∧ t.is Fld.bootMismatchFetch = false ∧ t.pcie.busMaster = true ∧ t.pcie.mrrs = 128 * 2 ^ mr.val ∧
      ∃ f, t.boot.fetch = some f ∧ f.out ≠ [] ∧ f.out.length ≤ 32 ∧ f.failed = none ∧
        t.out = (f.out.map (fun r => Out.hostRead ((s.imgAt r.img).1 + r.off) r.bytes)).reverse ++ s.out) ∧
  (∀ s p w mr, served s p Reg.bootCtl → s.portOpen .pcie = true → s.source = 0 → (s.phase = phWait ∨ s.phase = phHeld) →
    s.is Fld.bootCtlStart = false → getF w 0 1 = 1 → (s.rd Reg.bootSvcLen).toNat ≠ 0 → answers (.bootStart p w false mr) s fun t =>
      t.phase = phHeld ∧ t.is Fld.bootCtlStart = false ∧ t.get Fld.bootMismatchCode = heldCrc ∧ t.get Fld.bootMismatchImage = 1 ∧
      t.is Fld.bootMismatchFetch = true ∧ t.boot.fetch = none ∧ t.out = s.out) ∧
  (∀ s p w, served s p Reg.bootCtl → s.phase = phHeld → getF w 1 1 = 1 → getF w 0 1 = 0 →
    (s.get Fld.bootMismatchCode = heldStep ∨ s.get Fld.bootMismatchCode = heldIfg) → answers (.bootForceUntested p w) s fun t =>
      t.phase = phRun ∧ t.is Fld.topStatusUntested = true ∧ t.is Fld.bootCtlForceUntested = true ∧ t.is Fld.spiStatBootDone = true ∧
      (s.head = true → t.rd Reg.svcRosterBase = Config.rosterBase)) ∧
  (∀ s p w, served s p Reg.bootCtl → s.phase ≠ phHeld → getF w 0 1 = 0 → answers (.bootForceUntested p w) s fun t =>
    t.is Fld.bootCtlForceUntested = (getF w 1 1 == 1) ∧ onlyFields [Fld.bootCtlForceUntested] s t)

/-- A served write into the BOOT window with TARGET an image and OFFSET below its highest length stores the word there, moves OFFSET by one word, and
changes no other word and no other register; with no such target, or past the length, it sets WIN_ERR alone. The end of one of several reads in flight
stores its words and leaves the others in flight. When the only read in flight fails with none left to issue, the load ends in HELD with HELD_CRC,
FETCH and that image's number, and START clears. With Bus Master Enable cleared no further read is issued. A push that was received from its first
flit, on a member that waits for it, replaces both images. (R79, R80, R81, R83, R97, R98, R863) -/
def Obligations.ImagesArriveWordByWord : Prop :=
  (∀ s p (i : Fin 64) w g, served s p (Reg.bootWinData i.val) → s.get Fld.bootWinAddrTarget = imgCode g → 4 * s.get Fld.bootWinAddrOffset < imgMax g →
    answers (.bootWindowWrite p i w) s fun t =>
      t.imgWord g (s.get Fld.bootWinAddrOffset) = w ∧ (∀ h j, h ≠ g ∨ j ≠ s.get Fld.bootWinAddrOffset → t.imgWord h j = s.imgWord h j) ∧
      t.get Fld.bootWinAddrOffset = (s.get Fld.bootWinAddrOffset + 1) % 2 ^ Fld.bootWinAddrOffset.width ∧
      fieldsOnly [Fld.bootWinAddrOffset] s t ∧ { t with regs := s.regs, boot := s.boot } = s) ∧
  (∀ s p (i : Fin 64) w, served s p (Reg.bootWinData i.val) →
    (s.get Fld.bootWinAddrTarget = 0 ∨ s.get Fld.bootWinAddrTarget = 3 ∨ imgMax .svc ≤ 4 * s.get Fld.bootWinAddrOffset) →
    answers (.bootWindowWrite p i w) s fun t => t.is Fld.bootStatWinErr = true ∧ onlyFields [Fld.bootStatWinErr] s t) ∧
  (∀ s f i r ws, s.alive = true → s.boot.fetch = some f → f.out[i]? = some r → 2 ≤ f.out.length → f.todo = [] → r.bytes = 4 * ws.length →
    answers (.imageReadComplete i (some ws)) s fun t =>
      t.boot.fetch = some { f with out := f.out.eraseIdx i } ∧ (∀ k, (h : k < ws.length) → t.imgWord r.img (r.off / 4 + k) = ws[k]) ∧
      { t with boot := s.boot } = s) ∧
  (∀ s r, s.alive = true → s.boot.fetch = some ⟨[r], [], none⟩ → answers (.imageReadComplete 0 none) s fun t =>
    t.phase = phHeld ∧ t.get Fld.bootMismatchCode = heldCrc ∧ t.get Fld.bootMismatchImage = imgCode r.img ∧ t.is Fld.bootMismatchFetch = true ∧
    t.is Fld.bootCtlStart = false ∧ t.boot.fetch = none) ∧
  (∀ s f, s.alive = true → s.boot.fetch = some f → f.out ≠ [] → f.failed = none → answers .busMasterClear s fun t =>
    t.pcie = { s.pcie with busMaster := false } ∧ (∃ g, t.boot.fetch = some { f with todo := [], failed := some g }) ∧
    { t with pcie := s.pcie, boot := s.boot } = s) ∧
  (∀ s, s.alive = true → s.boot.fetch = none → answers .busMasterClear s fun t => t = s.modPcie (fun p => { p with busMaster := false })) ∧
  (∀ s force svc seq i, s.alive = true → s.source = 2 → s.phase = phWait → (h : i < svc.length) → answers (.pushReceive true force svc seq) s fun t =>
    t.imgWord .svc i = svc[i] ∧ (t.phase = phWait ∨ t.phase = phHeld ∨ t.phase = phRun)) ∧
  (∀ s force svc seq, s.alive = true → s.phase ≠ phWait ∨ s.source ≠ 2 → answers (.pushReceive true force svc seq) s fun t => t = s)

/-- A member outside ROM that owes a HELLO sends it over a trained link under a fresh TAG, counted in HELLO_CNT. At a head in RUNNING a HELLO from
WAIT_IMAGES starts a push, or makes the push after the present one due; one from RUNNING with the head's CRCs joins the accepted; one with others is
refused, answered 0x80 and excluded, unless FORCE_UNTESTED is set; a head not in RUNNING answers 0x0C and changes nothing else. The end of a push
starts the one that waits. An answer with the HELLO's TAG ends the member's HELLOs (0x00, 0x80) or refuses it (0x80). Epoch 1 starts forming with the
head among its candidates. Training puts every link that is down into TRAINING under a fresh token and leaves the others. Beside what is named, only
what reporting and sending change changes. (R93, R94, R95, R99, R100, R101, R639, R645, R674, R680, R682) -/
def Obligations.JoiningALace : Prop :=
  (∀ s, s.alive = true → s.head = false → s.phase ≠ phROM → s.boot.helloDue = true → s.boot.refused = false → (∃ k ∈ allLinks, s.trained k = true) →
    answers .helloSend s fun t =>
      t.boot = { s.boot with helloTag := (s.boot.helloTag + 1) % 65536 } ∧ t.get Fld.bootStatHelloCnt = min 255 (s.get Fld.bootStatHelloCnt + 1) ∧
      (∃ ws, Out.msg { dst := s.headNo, src := s.me, kind := 6, code := msgHello, tag := (s.boot.helloTag + 1) % 65536, words := ws } ∈ t.out)) ∧
  (∀ s m u sc qc (uid : BitVec 64) tag fs, s.alive = true → s.head = true → s.phase = phRun → m < 64 → m ≠ s.me →
    (∀ e ∈ s.boot.ids, e.1 = m → e.2 = uid.toNat) → answers (.helloReceive m phWait u sc qc uid tag fs) s fun t =>
      t.boot.pushing = true ∧ m ∉ t.boot.accepted ∧ (s.boot.pushing = true → t.boot.pushPending = true ∧ t.boot.pushNo = s.boot.pushNo) ∧
      (s.boot.pushing = false → t.boot.pushNo = (s.boot.pushNo + 1) % 256) ∧ logsOnly (s.modBoot (fun _ => t.boot)) t) ∧
  (∀ s m sc qc (uid : BitVec 64) tag fs, s.alive = true → s.head = true → s.phase = phRun → m < 64 → m ≠ s.me →
    (∀ e ∈ s.boot.ids, e.1 = m → e.2 = uid.toNat) → sc = s.rd Reg.bootSvcCrc → qc = s.rd Reg.bootSeqCrc → s.epoch ≠ 0 →
    answers (.helloReceive m phRun false sc qc uid tag fs) s fun t =>
      t.boot.accepted = setIns (s.boot.accepted.filter (· != m)) m ∧ m ∉ t.boot.untested ∧ (m, uid.toNat) ∈ t.boot.ids ∧
      logsOnly (s.modBoot (fun _ => t.boot)) t) ∧
  (∀ s m u sc qc (uid : BitVec 64) tag fs, s.alive = true → s.head = true → s.phase = phRun → m < 64 → m ≠ s.me →
    (∀ e ∈ s.boot.ids, e.1 = m → e.2 = uid.toNat) → sc ≠ s.rd Reg.bootSvcCrc ∨ qc ≠ s.rd Reg.bootSeqCrc → s.is Fld.bootCtlForceUntested = false →
    answers (.helloReceive m phRun u sc qc uid tag fs) s fun t =>
      t.get Fld.bootMismatchMember = m ∧ t.is Fld.bootMismatchRefused = true ∧ t.boot = { s.boot with excluded := setIns s.boot.excluded m } ∧
      t.phase = s.phase ∧ t.epoch = s.epoch) ∧
  (∀ s m ph u sc qc uid tag fs, s.alive = true → s.head = true → s.phase ≠ phRun → m < 64 → answers (.helloReceive m ph u sc qc uid tag fs) s fun t =>
    logsOnly s t ∧ ∃ ws, Out.msg { dst := m, src := s.me, kind := 6, code := msgAnswer, tag := tag, words := ws } ∈ t.out) ∧
  (∀ s, s.runs = true → s.head = true → s.boot.pushing = true → answers .pushEnd s fun t =>
    (s.boot.pushPending = false → t = s.modBoot (fun b => { b with pushing := false })) ∧
    (s.boot.pushPending = true → t.boot = { s.boot with pushing := true, pushPending := false, pushNo := (s.boot.pushNo + 1) % 256 } ∧
      logsOnly (s.modBoot (fun _ => t.boot)) t)) ∧
  (∀ s st, s.alive = true → s.head = false → answers (.answerReceive s.me st s.boot.helloTag) s fun t =>
    t = s.modBoot (fun b => { b with helloDue := b.helloDue && st != 0 && st != 0x80, refused := b.refused || st == 0x80 })) ∧
  (∀ s fs, s.runs = true → s.head = true → s.me < 64 → s.epoch = 0 → s.lnk.forming = none → answers (.epochOneTimeout fs) s fun t =>
    t.epoch = 1 ∧ t.is Fld.laceEpochForming = true ∧ ∃ f, t.lnk.forming = some f ∧ s.me ∈ f.cands ∧ f.desc = none ∧ f.faults = fs ∧
      (f.step = 1 ∨ f.step = 3) ∧ (f.step = 3 → f.awaiting = [] ∧ t.clk.headSync.isSome = true)) ∧
  (∀ s (k : Fin 4), s.alive = true → s.linkState k = lkDown → answers .linkTrainingStart s fun t =>
    t.linkState k = lkTraining ∧ (∃ n, s.free < n ∧ n ≤ t.free ∧ t.lnk.links[k].token = Config.linkToken n % 65536) ∧
    (∀ j, s.linkState j ≠ lkDown → t.linkState j = s.linkState j ∧ t.lnk.links[j] = s.lnk.links[j]) ∧
    fieldsOnly (allLinks.map (fun k => Fld.lnkStatState k.val)) s t)

/-- PERST_N low, or function level reset, on an alive device: the engine and every ring are disabled, Bus Master Enable, D3hot and the MSI-X
capability return to reset, a load in FETCH is abandoned to WAIT_IMAGES, and at a device that is no head every HIF register reads its reset value;
PERST_N also puts the function into retry status. PERST_N high and the end of retry change the function alone. D3hot holds writes back; the return to
D0, or a host that accepts writes again, empties the outbound buffer in order. The ASPM substate follows the link. A write of the MSI-X capability
sets its enable and mask; a write of a table entry changes that entry alone. (R73, R204, R232, R257, R258, R784, R785, R786, R864) -/
def Obligations.TheHostsFunctionAndItsResets : Prop :=
  (∀ s, s.alive = true → answers .perstNAssert s fun t =>
    t.env = { s.env with perstLow := true } ∧ t.pcie = ⟨true, false, 512, false, 0⟩ ∧ t.engine = false ∧
    (∀ n : Fin 24, t.is (Fld.hifRingCtlEn n.val) = false ∧ t.hif.rings[n].held = [] ∧ t.hif.rings[n].seq = 0) ∧ t.hif.outq = [] ∧
    t.hif.msixEnable = false ∧ t.hif.msix = Vector.replicate 32 msixReset ∧ (s.phase = phFetch → t.phase = phWait ∧ t.boot.fetch = none ∧ t.is Fld.bootCtlStart = false) ∧
    (s.head = false → ∀ off, 0x800 ≤ off → off < 0xC00 → t.rd off = resetWord off)) ∧
  (∀ s, s.alive = false → answers .perstNAssert s fun t => t = s.modEnv (fun e => { e with perstLow := true })) ∧
  (∀ s, answers .perstNRelease s fun t =>
    t.env = { s.env with perstLow := false } ∧ t.pcie = { s.pcie with retry := true } ∧ t.pwr = { s.pwr with wakeN := false } ∧
    { t with env := s.env, pcie := s.pcie, pwr := s.pwr } = s) ∧
  (∀ s, s.alive = true → s.env.perstLow = false → answers .functionLevelReset s fun t =>
    t.env = s.env ∧ t.pcie = ⟨s.pcie.retry, false, 512, false, 0⟩ ∧ t.engine = false ∧
    (∀ n : Fin 24, t.is (Fld.hifRingCtlEn n.val) = false ∧ t.hif.rings[n].held = []) ∧ t.hif.outq = [] ∧ t.hif.msixEnable = false ∧
    (s.phase = phFetch → t.phase = phWait ∧ t.boot.fetch = none)) ∧
  (∀ s, s.alive = true → s.env.perstLow = false → answers .pcieRetryEnd s fun t => t = s.modPcie (fun p => { p with retry := false })) ∧
  (∀ s, s.alive = true → s.env.perstLow = false → answers .pciPmD3hotEnter s fun t => t = s.modPcie (fun p => { p with d3hot := true })) ∧
  (∀ s, s.alive = true → s.pcie.d3hot = true → s.hif.accepts = true → s.top.softPending = false → answers .pciPmD0Return s fun t =>
    t.pcie = { s.pcie with d3hot := false } ∧ t.hif.outq = [] ∧
    (∀ n a ws, HostWrite.completion n a ws ∈ s.hif.outq ∨ HostWrite.record n a ws ∈ s.hif.outq ∨ HostWrite.tile n a ws ∈ s.hif.outq → Out.hostWrite a ws ∈ t.out) ∧
    logsOnly (s.modPcie (fun _ => t.pcie)) t) ∧
  (∀ s, s.alive = true → s.pcie.d3hot = false → s.top.softPending = false → answers (.hostWriteResume true) s fun t =>
    t.hif.accepts = true ∧ t.hif.outq = [] ∧
    (∀ n a ws, HostWrite.completion n a ws ∈ s.hif.outq ∨ HostWrite.record n a ws ∈ s.hif.outq ∨ HostWrite.tile n a ws ∈ s.hif.outq → Out.hostWrite a ws ∈ t.out) ∧
    logsOnly s t) ∧
  (∀ s, s.alive = true → s.top.softPending = false → answers (.hostWriteResume false) s fun t => t = s.modHif (fun h => { h with accepts := false })) ∧
  (∀ s sub, s.alive = true → s.env.perstLow = false → answers (.aspmL1Entry sub) s fun t => t = s.modPcie (fun p => { p with aspmL1 := 1 + sub.val })) ∧
  (∀ s, s.alive = true → answers .aspmL1Exit s fun t => t = s.modPcie (fun p => { p with aspmL1 := 0 })) ∧
  (∀ s w, s.alive = true → s.env.perstLow = false → answers (.msixTableWrite none w) s fun t =>
    t.hif.msixEnable = w.getLsbD 31 ∧ t.hif.msixMask = w.getLsbD 30 ∧ (∀ v : Fin 32, t.hif.msix[v].addr = s.hif.msix[v].addr ∧ t.hif.msix[v].data = s.hif.msix[v].data) ∧
    logsOnly s t) ∧
  (∀ s (v : Fin 32) w, s.alive = true → s.env.perstLow = false → s.pcie.d3hot = false → answers (.msixTableWrite (some (0x808 + 16 * v.val)) w) s fun t =>
    t.hif.msix[v].data = w ∧ t.hif.msix[v].addr = s.hif.msix[v].addr ∧ t.hif.msix[v].masked = s.hif.msix[v].masked ∧
    (∀ u : Fin 32, u ≠ v → t.hif.msix[u].data = s.hif.msix[u].data ∧ t.hif.msix[u].addr = s.hif.msix[u].addr ∧ t.hif.msix[u].masked = s.hif.msix[u].masked) ∧
    logsOnly s t) ∧
  (∀ s (v : Fin 32) w, s.alive = true → s.env.perstLow = false → s.pcie.d3hot = false → answers (.msixTableWrite (some (0x80C + 16 * v.val)) w) s fun t =>
    t.hif.msix[v].masked = w.getLsbD 0 ∧ t.hif.msix[v].data = s.hif.msix[v].data ∧ logsOnly s t)

/-- A served write of 0x50F70001 to TOP_SOFT_RESET through PCI Express, SPI or JTAG resets the device: what the board holds, the straps, TILE_SEQ,
TOP_SCRATCHn and the retirement map stay; the sample store reads as after power-on, the ring engine and every exchange, roster and image are gone, no
epoch stands, the ports are silent, and a device that has synchronised is in WAIT_IMAGES. Through the service core it waits for its completion. Any
other value sets ENC_ERR. SPI_RESET_ARM arms with exactly 8 clocks and SPI_RESET_FIRE resets when armed; otherwise either sets BADCMD. The end of the
silence, the expiry of the arm and the fall of the deferral act on their bits alone. (R67, R68, R70, R137, R138, R139, R140, R182, R183, R184) -/
def Obligations.SoftResetsAndTheirFrames : Prop :=
  (∀ s p, served s p Reg.topSoftReset → p ≠ .svc → answers (.topSoftReset p 0x50F70001) s fun t =>
    t.env = s.env ∧ t.top.straps = s.top.straps ∧ t.top.silent = true ∧ t.tile = s.tile ∧ (∀ n : Fin 4, t.rd (Reg.topScratch n.val) = s.rd (Reg.topScratch n.val)) ∧
    (∀ m ∈ [Reg.fltRetireMap0, Reg.fltRetireMap1, Reg.fltRetireMap2, Reg.fltRetireMap3], t.rd m = s.rd m) ∧ (∀ a, t.storeRead a = storeBlank a) ∧
    t.engine = false ∧ t.epoch = 0 ∧ t.members = 0 ∧ t.svc = State.reset.svc ∧ t.exch = State.reset.exch ∧ t.boot.svcImg = [] ∧ t.boot.seqImg = [] ∧
    t.is Fld.clkSysStatLock = s.is Fld.clkSysStatLock ∧ t.is Fld.clkRefSelSel = s.is Fld.clkRefSelSel ∧ t.phase = (if s.clk.synced then phWait else phROM)) ∧
  (∀ s, served s .svc Reg.topSoftReset → (∃ n a ws, HostWrite.completion n a ws ∈ s.hif.outq) → answers (.topSoftReset .svc 0x50F70001) s fun t =>
    t = s.modTop (fun t => { t with softPending := true })) ∧
  (∀ s p w, served s p Reg.topSoftReset → w ≠ 0x50F70001 → s.top.softPending = false → answers (.topSoftReset p w) s fun t =>
    t.is Fld.topStatusEncErr = true ∧ onlyRegs [Reg.topStatus, Reg.topErrAddr] s t) ∧
  (∀ s, answers .softResetSilentEnd s fun t => t = s.modTop (fun t => { t with silent := false })) ∧
  (∀ s, s.alive = true → s.top.softPending = true → answers .softResetDeferredFire s fun t =>
    t.top.softPending = false ∧ t.top.silent = true ∧ t.engine = false ∧ t.tile = s.tile ∧ (∀ a, t.storeRead a = storeBlank a)) ∧
  (∀ s, s.portOpen .spi = true → answers (.spiResetArm 8) s fun t =>
    t.spi = { s.spi with armed := true } ∧ t.get Fld.spiStatLastCmd = 0xF0 ∧ onlyRegs [Reg.spiStat, Reg.spiFrameCnt] (s.modSpi (fun _ => t.spi)) t) ∧
  (∀ s n, s.portOpen .spi = true → 8 < n → answers (.spiResetArm n) s fun t => t.spi.armed = false ∧ t.is Fld.spiStatBadcmd = true) ∧
  (∀ s, s.portOpen .spi = true → s.spi.armed = true → answers (.spiResetFire 8) s fun t =>
    t.spi.armed = false ∧ t.top.silent = true ∧ t.top.straps = s.top.straps ∧ t.tile = s.tile ∧ t.engine = false ∧ (∀ a, t.storeRead a = storeBlank a)) ∧
  (∀ s n, s.portOpen .spi = true → s.spi.armed = false → 8 ≤ n → answers (.spiResetFire n) s fun t =>
    t.spi.armed = false ∧ t.is Fld.spiStatBadcmd = true ∧ onlyRegs [Reg.spiStat, Reg.spiFrameCnt] s t) ∧
  (∀ s, answers .spiArmExpiry s fun t => t = s.modSpi (fun p => { p with armed := false }))

/-- A served write of one or two words from TOP_SCRATCHn on lands them and changes nothing else; a write of TOP_STATUS clears the W1C bits written 1
alone; a write of a register with RO fields only changes nothing. Over PCI Express a write without all byte enables sets BE_ERR, a BAR0 request of
another kind is answered Unsupported Request. Through an open port a misaligned offset sets RSVD_ACC, an access to a register of a held block sets
BLK_ACC and returns 0. A read of a register that is no half of a pair returns its view and changes nothing; a read of a low half keeps the high half
for that port, and the next read of the high half returns it. A write of a low half of a Paired register waits in the port's shadow; the write of the
high half lands both. With SRC HOST a write of PIP_COUNT sets the count; with another source it is lost. (R104, R151, R152, R164, R166, R168, R172,
R177, R265, R272) -/
def Obligations.SetupAccessesActOnTheirRegisters : Prop :=
  (∀ s p (n : Fin 4) w, served s p (Reg.topScratch n.val) → s.top.softPending = false → answers (.registerWrite p (Reg.topScratch n.val) [w] true) s fun t =>
    t = s.wr (Reg.topScratch n.val) w) ∧
  (∀ s p (n : Fin 3) v w, served s p (Reg.topScratch n.val) → s.top.softPending = false →
    answers (.registerWrite p (Reg.topScratch n.val) [v, w] true) s fun t => t = (s.wr (Reg.topScratch n.val) v).wr (Reg.topScratch (n.val + 1)) w) ∧
  (∀ s p w, served s p Reg.topStatus → s.top.softPending = false → answers (.registerWrite p Reg.topStatus [w] true) s fun t =>
    (∀ i, (t.rd Reg.topStatus).getLsbD i = ((s.rd Reg.topStatus).getLsbD i && !(decide (8 ≤ i) && decide (i < 14) && w.getLsbD i))) ∧ onlyRegs [Reg.topStatus] s t) ∧
  (∀ s p w, served s p Reg.topPart → s.top.softPending = false → answers (.registerWrite p Reg.topPart [w] true) s fun t => t = s) ∧
  (∀ s off ws, s.portOpen .pcie = true → s.top.silent = false → answers (.registerWrite .pcie off ws false) s fun t =>
    t.is Fld.topStatusBeErr = true ∧ onlyRegs [Reg.topStatus, Reg.topErrAddr] s t) ∧
  (∀ s p off ws full, s.portOpen p = false → answers (.registerWrite p off ws full) s fun t => t = s) ∧
  (∀ s, s.portOpen .pcie = true → answers .bar0OtherRequest s fun t => t = s.emit .unsupported) ∧
  (∀ s p off w, s.portOpen p = true → s.top.silent = false → s.top.softPending = false → off < 0x10000 → off % 4 ≠ 0 →
    answers (.registerWrite p off [w] true) s fun t => t.is Fld.topStatusRsvdAcc = true ∧ onlyRegs [Reg.topStatus, Reg.topErrAddr] s t) ∧
  (∀ s p off, s.portOpen p = true → off < 0x10000 → s.reach p off = .held → answers (.loHalfRead p off 1) s fun t =>
    t.is Fld.topStatusBlkAcc = true ∧ t.out = .words p [0] :: s.out ∧ regsOnly [Reg.topStatus, Reg.topErrAddr, Reg.spiStat] s t) ∧
  (∀ s p off, served s p off → off < 0x10000 → isPairLo off = false → (off < 4 ∨ isPairLo (off - 4) = false) → answers (.loHalfRead p off 1) s fun t =>
    t = s.emit (.words p [s.regView off])) ∧
  (∀ s p off, served s p off → off < 0x10000 → isPairLo off = true → answers (.loHalfRead p off 1) s fun t =>
    t.out = .words p [s.regView off] :: s.out ∧ t.top = { s.top with rdShadow := upd s.top.rdShadow p.idx (fun _ => some (off, s.regView (off + 4))) } ∧
    { t with top := s.top, out := s.out } = s) ∧
  (∀ s p off w, served s p (off + 4) → off + 4 < 0x10000 → isPairLo off = true → isPairLo (off + 4) = false → s.top.rdShadow[p.idx] = some (off, w) →
    answers (.loHalfRead p (off + 4) 1) s fun t => t = s.emit (.words p [w])) ∧
  (∀ s p pip w, served s p (pairLo pip) → answers (.pairedLoWrite p pip w) s fun t =>
    t = s.modTop (fun q => { q with wrShadow := upd q.wrShadow p.idx (fun _ => some (pairLo pip, w)) })) ∧
  (∀ s p l h ns cyc, served s p Reg.sampOctetMaskHi → s.top.wrShadow[p.idx] = some (Reg.sampOctetMaskLo, l) → answers (.pairedHiWrite p false h ns cyc) s fun t =>
    t.rd Reg.sampOctetMaskLo = l ∧ t.rd Reg.sampOctetMaskHi = h ∧ t.top.wrShadow[p.idx] = none ∧ regsOnly [Reg.sampOctetMaskLo, Reg.sampOctetMaskHi] s t ∧
    t.samp = { s.samp with pend := s.samp.pend ++ [(s.maskTile, false, l.toNat + h.toNat * 2 ^ 32)] }) ∧
  (∀ s p l h ns cyc, served s p Reg.pipCountHi → s.top.wrShadow[p.idx] = some (Reg.pipCountLo, l) → s.pipSrc = srcHost → answers (.pairedHiWrite p true h ns cyc) s fun t =>
    t.pipCount = sgn 64 (l.toNat + h.toNat * 2 ^ 32)) ∧
  (∀ s p (v : BitVec 64) ns cyc, served s p Reg.pipCountLo → served s p Reg.pipCountHi → s.pipSrc = srcHost → answers (.pipCountHostWrite p v ns cyc) s fun t =>
    t.pipCount = v.toInt) ∧
  (∀ s p (v : BitVec 64) ns cyc, served s p Reg.pipCountLo → served s p Reg.pipCountHi → s.pipSrc ≠ srcHost → answers (.pipCountHostWrite p v ns cyc) s fun t =>
    t = s.modTop (fun q => { q with wrShadow := upd q.wrShadow p.idx (fun _ => none) }))

/-- EXTEST and SAMPLE/PRELOAD shift the balls out and hold what is shifted in; EXTEST drives it. IDCODE shifts out 0x17340B4D. CLAMP drives the
boundary register, HIGHZ puts the balls into high impedance, BYPASS (its own code and every code not listed) does neither. REGACC shifts out the
outcome of the access before and, when VALID and not still running, makes its access: a read returns the register's view with DONE, a write of
TOP_SCRATCHn lands. No boundary test changes EN_MAIN or EN_RF. (R154, R846, R847) -/
def Obligations.JtagInstructionsAndTheirScans : Prop :=
  (∀ s b v, s.alive = true → answers (.jtagExtest b v) s fun t =>
    t = (s.emit (.jtag b.toNat)).modJtag (fun p => { p with ir := 0b000000, drives := true, highz := false, boundary := v })) ∧
  (∀ s b v, s.alive = true → answers (.jtagSamplePreload b v) s fun t =>
    t = (s.emit (.jtag b.toNat)).modJtag (fun p => { p with ir := 0b000010, drives := false, highz := false, boundary := v })) ∧
  (∀ s, s.alive = true → answers .jtagIdcode s fun t =>
    t = (s.emit (.jtag 0x17340B4D)).modJtag (fun p => { p with ir := 0b000001, drives := false, highz := false })) ∧
  (∀ s, s.alive = true → answers .jtagClamp s fun t => t = s.modJtag (fun p => { p with ir := 0b000011, drives := true, highz := false })) ∧
  (∀ s, s.alive = true → answers .jtagHighz s fun t => t = s.modJtag (fun p => { p with ir := 0b000100, drives := false, highz := true })) ∧
  (∀ s c, s.alive = true → c.toNat ∉ jtagCodes → answers (.jtagBypass c) s fun t => t = s.modJtag (fun p => { p with ir := c, drives := false, highz := false })) ∧
  (∀ s wr off w, s.alive = true → answers (.jtagRegacc wr false off w false) s fun t =>
    t = (s.emit (.jtag s.jtag.regacc.toNat)).modJtag (fun p => { p with ir := 0b100010, drives := false, highz := false })) ∧
  (∀ s (n : Fin 4) w, served s .jtag (Reg.topScratch n.val) → answers (.jtagRegacc true true (BitVec.ofNat 16 (Reg.topScratch n.val)) w false) s fun t =>
    t.rd (Reg.topScratch n.val) = w ∧ t.jtag.ir = 0b100010 ∧ t.jtag.regacc = regaccOf true (BitVec.ofNat 16 (Reg.topScratch n.val)) 0 ∧
    t.out = .jtag s.jtag.regacc.toNat :: s.out ∧ regsOnly [Reg.topScratch n.val] s t ∧ { t with regs := s.regs, jtag := s.jtag, out := s.out } = s) ∧
  (∀ s off w, served s .jtag off → off < 0x10000 → isPairLo off = false → (off < 4 ∨ isPairLo (off - 4) = false) →
    answers (.jtagRegacc false true (BitVec.ofNat 16 off) w false) s fun t =>
      t.jtag.regacc = regaccOf true (BitVec.ofNat 16 off) (s.regView off) ∧ { t with jtag := s.jtag, out := s.out } = s) ∧
  (∀ s t i, (∃ b v, i = .jtagExtest b v) ∨ i = .jtagClamp ∨ i = .jtagHighz → exec i s = .next t → t.supplyEnables = s.supplyEnables)

/-- A served write of TOP_BLOCK_RESET with one block's bit alone, no other held, holds that block: it is not served, its registers read their reset
values (LNK apart), its generation advances; a write of 0 to the bit starts the release, and the end of the release serves it again under the same
generation. A reply of another generation is counted in TOP_STALE_CNT; one of the present generation changes nothing. COMPAT6 takes the bit written
while the engine is off; with the engine on a change sets CFG_REJ alone. DBG_CTL.GO with EN writes the word of DBG_STORE_DATA at DBG_STORE_ADDR, or
reads it from there, and moves the address on; without EN it makes no access. (R175, R176, R177, R179, R180, R185, R190) -/
def Obligations.BlocksHeldAndReleased : Prop :=
  (∀ s p b, served s p Reg.topBlockReset → (∀ c, s.free? c = true) → answers (.blockResetHold p (BitVec.ofNat 32 (2 ^ b.bit))) s fun t =>
    (t.blkSt b).hold = .held ∧ (t.blkSt b).gen = (s.blkSt b).gen + 1 ∧ (∀ c, c ≠ b → t.blkSt c = s.blkSt c) ∧ t.top.straps = s.top.straps ∧ t.tile = s.tile ∧
    (b ∈ [Blk.pip, .samp, .cal, .bcst, .aud, .tag] → ∀ off, b.base ≤ off → off < b.base + b.size → t.rd off = resetWord off)) ∧
  (∀ s p w b, served s p Reg.topBlockReset → (s.blkSt b).hold = .held → getF w b.bit 1 = 0 → (∀ c, c ≠ b → s.free? c = true ∧ getF w c.bit 1 = 0) →
    answers (.blockResetRelease p w) s fun t =>
      (t.blkSt b).hold = .releasing ∧ (t.blkSt b).gen = (s.blkSt b).gen ∧ (∀ c, c ≠ b → t.blkSt c = s.blkSt c) ∧
      { t with top := { t.top with blk := s.top.blk } } = s) ∧
  (∀ s b, s.alive = true → (s.blkSt b).hold = .releasing → answers (.blockReleaseDone b) s fun t =>
    t.free? b = true ∧ (t.blkSt b).gen = (s.blkSt b).gen ∧ (∀ c, c ≠ b → t.blkSt c = s.blkSt c) ∧ { t with top := { t.top with blk := s.top.blk } } = s) ∧
  (∀ s b g, s.alive = true → answers (.staleReply b g) s fun t =>
    (g = (s.blkSt b).gen → t = s) ∧ (g ≠ (s.blkSt b).gen → t.get Fld.topStaleCntCount = (s.get Fld.topStaleCntCount + 1) % 2 ^ Fld.topStaleCntCount.width ∧
      onlyFields [Fld.topStaleCntCount] s t)) ∧
  (∀ s p w, served s p Reg.topCfg → s.engine = false → answers (.compat6Write p w) s fun t =>
    t.is Fld.topCfgCompat6 = w.getLsbD 0 ∧ onlyFields [Fld.topCfgCompat6] s t) ∧
  (∀ s p w, served s p Reg.topCfg → s.engine = true → s.is Fld.topCfgCompat6 ≠ w.getLsbD 0 → answers (.compat6Write p w) s fun t =>
    t.is Fld.topStatusCfgRej = true ∧ t.is Fld.topCfgCompat6 = s.is Fld.topCfgCompat6 ∧ onlyRegs [Reg.topStatus, Reg.topErrAddr] s t) ∧
  (∀ s, served s .jtag Reg.dbgCtl → s.reqRetired 8 = false → s.get Fld.dbgStoreAddrWord < s.storeWords → answers (.dbgGo 7 []) s fun t =>
    t.storeRead (s.get Fld.dbgStoreAddrWord) = s.rd Reg.dbgStoreData ∧ (∀ a, a ≠ s.get Fld.dbgStoreAddrWord → t.storeRead a = s.storeRead a) ∧
    t.get Fld.dbgStoreAddrWord = (s.get Fld.dbgStoreAddrWord + 1) % 2 ^ 22 ∧ regsOnly [Reg.dbgCtl, Reg.dbgStoreAddr] s t) ∧
  (∀ s, served s .jtag Reg.dbgCtl → s.reqRetired 8 = false → s.get Fld.dbgStoreAddrWord < s.storeWords → s.get Fld.dbgStoreAddrWord ∉ s.store.ue →
    answers (.dbgGo 3 []) s fun t =>
      t.rd Reg.dbgStoreData = s.storeRead (s.get Fld.dbgStoreAddrWord) ∧ t.get Fld.dbgStoreAddrWord = (s.get Fld.dbgStoreAddrWord + 1) % 2 ^ 22 ∧
      onlyRegs [Reg.dbgCtl, Reg.dbgStoreAddr, Reg.dbgStoreData] s t) ∧
  (∀ s fl, served s .jtag Reg.dbgCtl → answers (.dbgGo 2 fl) s fun t => t.is Fld.dbgCtlEn = false ∧ onlyRegs [Reg.dbgCtl] s t)

/-- A read or fast read of one word within its clock rate returns the register's view; a frame clocked faster returns as many words, each a free value
(log 12). A write of one word to TOP_SCRATCHn lands; cut inside a further word it sets PARTIAL. STATUS returns fresh status words; WAKE wakes a
running device. An unknown command sets BADCMD; a frame cut before its address ended sets SHORT. Every such frame but one cut inside the command byte
notes its command, is counted, disarms the soft reset, and changes nothing else. A frame without a clock does nothing. An edge of SPI_CS_N in D4 notes
wake event 8 and silences the port. (R119, R120, R123, R124, R132, R133, R134, R135, R136, R139, R142) -/
def Obligations.SpiFramesOfThePort : Prop :=
  (∀ s (a : BitVec 16) (fast : Bool), s.portOpen .spi = true → s.reach .spi a.toNat = .ok → isPairLo a.toNat = false → (a.toNat < 4 ∨ isPairLo (a.toNat - 4) = false) →
    answers (if fast then .spiFastRead a 1 false else .spiRead a 1 false) s fun t =>
      t.out = .words .spi [s.regView a.toNat] :: s.out ∧ t.get Fld.spiStatLastCmd = (if fast then 0x0B else 0x03) ∧ t.spi.armed = false ∧
      t.get Fld.spiFrameCntCount = (s.get Fld.spiFrameCntCount + 1) % 2 ^ Fld.spiFrameCntCount.width ∧ fieldsOnly [Fld.spiStatLastCmd, Fld.spiFrameCntCount] s t ∧
      { t with regs := s.regs, spi := s.spi, out := s.out } = s) ∧
  (∀ s (a : BitVec 16) n, s.portOpen .spi = true → answers (.spiFastRead a n true) s fun t =>
    ∃ ws, ws.length = n ∧ t.out = .words .spi ws :: s.out ∧ t.free = s.free + n ∧ (∀ i, (h : i < ws.length) → ws[i] = Config.overclocked (s.free + i))) ∧
  (∀ s (n : Fin 4) w cut, served s .spi (Reg.topScratch n.val) → answers (.spiWrite (BitVec.ofNat 16 (Reg.topScratch n.val)) [w] cut) s fun t =>
    t.rd (Reg.topScratch n.val) = w ∧ t.get Fld.spiStatLastCmd = 0x02 ∧ t.spi.armed = false ∧ t.is Fld.spiStatPartial = (s.is Fld.spiStatPartial || cut) ∧
    regsOnly [Reg.topScratch n.val, Reg.spiStat, Reg.spiFrameCnt] s t ∧ { t with regs := s.regs, spi := s.spi } = s) ∧
  (∀ s n, s.portOpen .spi = true → answers (.spiStatus n false) s fun t =>
    t.out = .words .spi (List.replicate n s.spiStatus) :: s.out ∧ t.get Fld.spiStatLastCmd = 0x05 ∧
    fieldsOnly [Fld.spiStatLastCmd, Fld.spiFrameCntCount] s t ∧ { t with regs := s.regs, spi := s.spi, out := s.out } = s) ∧
  (∀ s, s.portOpen .spi = true → s.runs = true → s.pst = 2 → s.pwr.entry = none → answers .spiWake s fun t =>
    t.pwr.exiting = true ∧ t.pwr.dwell = true ∧ (t.get Fld.pwrWakeSrcSrc).testBit 2 = true ∧ t.get Fld.spiStatLastCmd = 0xAB) ∧
  (∀ s, s.portOpen .spi = true → s.pst = 0 → s.pwr.entry = none → answers .spiWake s fun t =>
    t.get Fld.spiStatLastCmd = 0xAB ∧ fieldsOnly [Fld.spiStatLastCmd, Fld.spiFrameCntCount] s t ∧ { t with regs := s.regs, spi := s.spi } = s) ∧
  (∀ s (c : BitVec 8), s.portOpen .spi = true → c.toNat ∉ spiCommands → answers (.spiUnknownCommand c) s fun t =>
    t.is Fld.spiStatBadcmd = true ∧ t.get Fld.spiStatLastCmd = c.toNat ∧ t.spi.armed = false ∧
    fieldsOnly [Fld.spiStatBadcmd, Fld.spiStatLastCmd, Fld.spiFrameCntCount] s t ∧ { t with regs := s.regs, spi := s.spi } = s) ∧
  (∀ s (c : BitVec 8), s.portOpen .spi = true → c = 0x03 ∨ c = 0x0B ∨ c = 0x02 → answers (.spiShortFrame (some c)) s fun t =>
    t.is Fld.spiStatShort = true ∧ t.get Fld.spiStatLastCmd = c.toNat ∧ t.spi.armed = false ∧
    fieldsOnly [Fld.spiStatShort, Fld.spiStatLastCmd, Fld.spiFrameCntCount] s t) ∧
  (∀ s, s.portOpen .spi = true → answers (.spiShortFrame none) s fun t =>
    t.is Fld.spiStatShort = true ∧ t.spi.armed = false ∧ fieldsOnly [Fld.spiStatShort, Fld.spiFrameCntCount] s t) ∧
  (∀ s, answers .spiNoClockFrame s fun t => t = s) ∧
  (∀ s, s.pwr.d4 = true → answers .spiD4WakeEdge s fun t =>
    t = (s.modSpi (fun p => { p with d4Silent := true })).modPwr (fun p => { p with d4Wake := p.d4Wake ||| 2 ^ 8 })) ∧
  (∀ s, s.pwr.d4 = false → answers .spiD4WakeEdge s fun t => t = s)

/-- A head enables the engine; elsewhere the write sets NOT_HEAD alone. The engine stops when no ring is active; with one active, CFG_ERR names it and
the engine stays. EN set on a ring whose size is legal enables it with both indices 0; an illegal size sets CFG_ERR. EN cleared on a ring that nothing
waits for disables it. A doorbell that would be taken is noted and counts as wake event 0; any other sets DB_ERR with its ring, 31 for an offset that
names none. In D0 the last doorbell of a ring is taken: it moves the index that the host owns. MSIX_SEND signals a ring's unsignalled events with its
vector. A report of drops is written into the ring once it has room, and the count of drops is 0 again. (R197, R198, R199, R200, R201, R203, R205,
R206, R207, R208, R262) -/
def Obligations.RingsAndDoorbells : Prop :=
  (∀ s p w bm, served s p Reg.hifCtl → s.head = true → s.engine = false → s.hif.buf = [] → s.hif.bufDrops = 0 → getF w 0 1 = 1 → answers (.hifEngineEnable p w bm) s fun t =>
    t.engine = true ∧ (s.portOpen .pcie = true → t.pcie.busMaster = bm) ∧ fieldsOnly [Fld.hifCtlEngineEn] s t ∧
    { t with regs := s.regs, pcie := s.pcie, hif := { t.hif with buf := s.hif.buf, bufDrops := s.hif.bufDrops } } = s) ∧
  (∀ s p w bm, served s p Reg.hifCtl → s.head = false → getF w 0 1 = 1 → answers (.hifEngineEnable p w bm) s fun t =>
    t.is Fld.hifStatNotHead = true ∧ t.engine = s.engine ∧ fieldsOnly [Fld.hifStatNotHead] s t) ∧
  (∀ s p w, served s p Reg.hifCtl → s.engine = true → getF w 0 1 = 0 → (∀ n, s.ringActive n = false) → answers (.hifEngineDisable p w) s fun t =>
    t.engine = false ∧ onlyFields [Fld.hifCtlEngineEn] s t) ∧
  (∀ s p w n, served s p Reg.hifCtl → s.engine = true → getF w 0 1 = 0 → s.ringActive n = true → answers (.hifEngineDisable p w) s fun t =>
    t.engine = true ∧ t.is Fld.hifStatCfgErr = true ∧ onlyRegs [Reg.hifStat] s t) ∧
  (∀ s p (n : Fin 24) w, served s p (Reg.hifRingCtl n.val) → s.is (Fld.hifRingCtlEn n.val) = false → getF w 0 1 = 1 →
    4 ≤ s.get (Fld.hifRingSizeLog2 n.val) → s.get (Fld.hifRingSizeLog2 n.val) ≤ 16 → answers (.ringEnable p n w) s fun t =>
      t.is (Fld.hifRingCtlEn n.val) = true ∧ t.prod n = 0 ∧ t.cons n = 0 ∧ t.get (Fld.hifRingCtlHoldoff n.val) = getF w 8 8 ∧
      (8 ≤ n.val → n.val < 20 → t.is (Fld.hifRingHeadPhase n.val) = true) ∧ t.hif.rings[n].doorbell = none ∧
      regsOnly [Reg.hifRingCtl n.val, Reg.hifRingHead n.val, Reg.hifRingTail n.val] s t) ∧
  (∀ s p (n : Fin 24) w, served s p (Reg.hifRingCtl n.val) → s.is (Fld.hifRingCtlEn n.val) = false → getF w 0 1 = 1 →
    (s.get (Fld.hifRingSizeLog2 n.val) < 4 ∨ 16 < s.get (Fld.hifRingSizeLog2 n.val)) → answers (.ringEnable p n w) s fun t =>
      t.is (Fld.hifRingCtlEn n.val) = false ∧ t.is Fld.hifStatCfgErr = true ∧ t.get Fld.hifStatErrRing = n.val) ∧
  (∀ s p (n : Fin 24) w, served s p (Reg.hifRingCtl n.val) → s.is (Fld.hifRingCtlEn n.val) = true → getF w 0 1 = 0 → s.hif.rings[n].held = [] →
    (20 ≤ n.val → s.samp.caps[Fin.ofNat 4 n.val] = none) → answers (.ringDisable p n w) s fun t =>
      t.is (Fld.hifRingCtlEn n.val) = false ∧ t.ringOn n = false ∧ t.hif.rings[n].doorbell = none ∧ t.hif.rings[n].unsignalled = false ∧
      (16 ≤ n.val → t.hif.rings[n].drops = 0) ∧ (∀ m, m ≠ n → t.ringOn m = s.ringOn m) ∧ t.samp = s.samp) ∧
  (∀ s n i w, s.runs = true → s.free? .hif = true → s.env.perstLow = false → s.pcie.d3hot = false → s.compat6 = false → s.pst = 0 → s.pwr.entry = none → n < 24 →
    s.doorbellOf (8 * n) w = some (ringFin n, i) → s.doorbellOk (ringFin n) i = true → answers (.doorbellArrival (8 * n) w true) s fun t =>
      t = s.modRing (ringFin n) (fun r => { r with doorbell := some i })) ∧
  (∀ s n w full, s.runs = true → s.free? .hif = true → s.env.perstLow = false → s.pcie.d3hot = false → s.compat6 = false → (h : n < 24) →
    (full = false ∨ s.doorbellOk (ringFin n) (getF w 0 16) = false) → answers (.doorbellArrival (8 * n) w full) s fun t =>
      t.is Fld.hifStatDbErr = true ∧ t.get Fld.hifStatErrRing = n ∧ onlyFields [Fld.hifStatDbErr, Fld.hifStatErrRing] s t) ∧
  (∀ s (n : Fin 24) i, s.runs = true → s.pst = 0 → s.hif.rings[n].doorbell = some i → s.doorbellOk n i = true → i < 2 ^ 16 →
    (n.val < 8 ∨ 16 ≤ n.val) → answers (.doorbellTake n) s fun t =>
      t.hif.rings[n].doorbell = none ∧ (if n.val < 8 then t.prod n = i else t.cons n = i) ∧ onlyFields [Fld.hifRingHeadProducer n.val, Fld.hifRingTailConsumer n.val] (s.modHif (fun _ => t.hif)) t) ∧
  (∀ s (n : Fin 24) i, s.runs = true → s.pst = 0 → s.hif.rings[n].doorbell = some i → s.doorbellOk n i = true → i < 2 ^ 16 → 8 ≤ n.val → n.val < 16 →
    s.hif.rings[cmdRing (Fin.ofNat 8 n.val)].cplWait = [] → answers (.doorbellTake n) s fun t =>
      t.hif.rings[n].doorbell = none ∧ t.cons n = i) ∧
  (∀ s n v, s.alive = true → s.hif.rings[n].unsignalled = true → s.hostOpen = true → s.hif.accepts = true → s.hif.msixEnable = true → s.hif.msixMask = false →
    s.ringVector n = some v → s.hif.msix[Fin.ofNat 32 v].masked = false → answers (.msixSend n) s fun t =>
      t.out = .msix v s.hif.msix[Fin.ofNat 32 v].addr.toNat s.hif.msix[Fin.ofNat 32 v].data :: s.out ∧ t.hif.rings[n].unsignalled = false ∧
      { t with hif := s.hif, out := s.out } = s) ∧
  (∀ s n, s.alive = true → s.hif.accepts = true → s.pcie.d3hot = false → s.hif.rings[n].drops ≠ 0 → s.ringOn n = true → 0 < s.ringRoom n → answers (.overloadPost n) s fun t =>
    t.hif.rings[n].drops = 0 ∧ t.hif.rings[n].seq = s.hif.rings[n].seq + 1 ∧ t.prod n = (s.prod n + 1) % s.ringSize n % 2 ^ 16 ∧ logsOnly s t) ∧
  (∀ s (r : Fin 4), s.alive = true → s.hif.rings[capRing r].drops ≠ 0 → s.ringOn (capRing r) = true → 0 < s.ringRoom (capRing r) → s.outBytes + 4160 ≤ 65536 →
    answers (.captureDropReport r) s fun t => t.hif.rings[capRing r].drops = 0 ∧ logsOnly s t)

/-- FIRE on a head starts its SYNC: an arm at a tile 100 us or more ahead, sent to the other members. The pulse goes out before that tile once every
acknowledgement has come, counted in COUNT; with no report outstanding FIRE clears. Each SYNC_DONE takes its member off; the last clears FIRE, or ends
the formation: LACE_MEMBERS are its candidates, FORMING and BROKEN clear. FIRE clears after 2 ms. SYNC_MISSED, or no report in time, takes candidates
out and repeats the formation under the next epoch number. A member keeps an arm and acknowledges it; a valid pulse turns it into the effect edge, a
pulse on one edge sets GLITCH, one without an arm UNARMED; 1 ms without a pulse sets MISSED and clears ALIGNED. At the effect edge an aligned member
counts; any other takes the tile number and the audio frame count of the arm and is aligned. (R332, R333, R334, R335, R336, R337, R340, R344, R674) -/
def Obligations.SyncAcrossTheLace : Prop :=
  (∀ s p w, served s p Reg.clkSyncCtl → s.head = true → s.is Fld.clkSyncCtlFire = false → s.clk.headSync = none → s.lnk.forming = none →
    s.is Fld.pwrStateRest = false → s.pwr.resumeWait = [] → getF w 0 1 = 1 → answers (.syncFire p w) s fun t =>
      t.is Fld.clkSyncCtlFire = true ∧ t.clk = { s.clk with headSync := some ⟨true, ⟨s.armTile, s.armFrame⟩, false, s.others⟩ } ∧ t.tile = s.tile) ∧
  (∀ s p w, served s p Reg.clkSyncCtl → s.head = false → answers (.syncFire p w) s fun t =>
    t.is Fld.clkSyncCtlFire = s.is Fld.clkSyncCtlFire ∧ onlyRegs [Reg.clkSyncCtl] s t) ∧
  (∀ s tile frame, s.runs = true → s.head = false → answers (.syncArmReceive tile frame) s fun t =>
    t.clk = { s.clk with arm := some ⟨tile % 2 ^ 32, frame % 2 ^ 32⟩ } ∧ logsOnly (s.modClk (fun _ => t.clk)) t ∧
    Out.msg { dst := s.headNo, src := s.me, kind := 6, code := msgSyncAck, tag := 0, words := [BitVec.ofNat 32 tile] } ∈ t.out) ∧
  (∀ s h acked, s.runs = true → s.head = true → s.clk.headSync = some h → h.pulsed = false → s.pst < 2 → s.clk.refLost = false →
    (∀ m ∈ h.dones, m ∈ acked) → (s.tile.toNat + 1) % 2 ^ 32 = h.arm.tile → answers (.syncPulseDrive acked) s fun t =>
      t.get Fld.clkSyncStatCount = (s.get Fld.clkSyncStatCount + 1) % 2 ^ Fld.clkSyncStatCount.width ∧ t.tile = s.tile ∧
      (s.is Fld.clkSyncCtlOutDis = false → Out.syncPulse ∈ t.out) ∧ (h.dones ≠ [] → t.clk = { s.clk with headSync := some { h with pulsed := true } }) ∧
      (h.dones = [] → h.fire = true → t.clk = { s.clk with headSync := none } ∧ t.is Fld.clkSyncCtlFire = false)) ∧
  (∀ s h m, s.runs = true → s.clk.headSync = some h → h.pulsed = true → h.dones.filter (· != m) ≠ [] → answers (.syncDoneReceive m) s fun t =>
    t = s.modClk (fun c => { c with headSync := some { h with dones := h.dones.filter (· != m) } })) ∧
  (∀ s h m, s.runs = true → s.clk.headSync = some h → h.pulsed = true → h.fire = true → h.dones.filter (· != m) = [] → answers (.syncDoneReceive m) s fun t =>
    t.clk = { s.clk with headSync := none } ∧ t.is Fld.clkSyncCtlFire = false ∧ fieldsOnly [Fld.clkSyncCtlFire] s t) ∧
  (∀ s h f m, s.runs = true → s.clk.headSync = some h → h.pulsed = true → h.fire = false → s.lnk.forming = some f → h.dones.filter (· != m) = [] →
    answers (.syncDoneReceive m) s fun t =>
      t.lnk.forming = none ∧ t.is Fld.laceEpochForming = false ∧ t.is Fld.laceEpochBroken = false ∧ t.epoch = s.epoch ∧ t.lnk.inEpoch = true ∧
      (∀ i, i < 64 → (t.isMember i = true ↔ i ∈ f.cands))) ∧
  (∀ s h, s.runs = true → s.clk.headSync = some h → h.fire = true → h.pulsed = true → answers .syncFireTimeout s fun t =>
    t = (s.putB Fld.clkSyncCtlFire false).modClk (fun c => { c with headSync := none })) ∧
  (∀ s h f m, s.runs = true → s.clk.headSync = some h → s.lnk.forming = some f → h.fire = false → m ∈ f.cands → m ≠ s.me → answers (.syncMissedReceive m) s fun t =>
    t.epoch = nextEpoch s.epoch ∧ ∃ g, t.lnk.forming = some g ∧ m ∉ g.cands ∧ m ∈ g.removed ∧ (∀ i ∈ g.cands, i ∈ f.cands)) ∧
  (∀ s h f, s.runs = true → s.clk.headSync = some h → s.lnk.forming = some f → h.fire = false → h.pulsed = true → h.dones ≠ [] → answers .syncReportTimeout s fun t =>
    t.epoch = nextEpoch s.epoch ∧ ∃ g, t.lnk.forming = some g ∧ (∀ i ∈ g.cands, i ∈ f.cands ∧ i ∉ h.dones)) ∧
  (∀ s a, s.runs = true → s.head = false → s.is Fld.clkSyncCtlInIgnore = false → s.pst < 2 → s.clk.arm = some a → answers (.syncPulseSample true) s fun t =>
    t = s.modClk (fun c => { c with arm := none, hit := some a })) ∧
  (∀ s, s.runs = true → s.head = false → s.is Fld.clkSyncCtlInIgnore = false → s.pst < 2 → s.clk.arm = none → answers (.syncPulseSample true) s fun t =>
    t.is Fld.clkSyncStatUnarmed = true ∧ onlyFields [Fld.clkSyncStatUnarmed] s t) ∧
  (∀ s, s.runs = true → s.head = false → s.is Fld.clkSyncCtlInIgnore = false → s.pst < 2 → answers (.syncPulseSample false) s fun t =>
    t.is Fld.clkSyncStatGlitch = true ∧ onlyFields [Fld.clkSyncStatGlitch] s t) ∧
  (∀ s a ms ml ma, s.runs = true → s.clk.hit = some a → s.is Fld.clkSyncStatAligned = true → answers (.syncEffect ms ml ma) s fun t =>
    t.clk = { s.clk with hit := none } ∧ t.tile = s.tile ∧ t.get Fld.clkSyncStatCount = (s.get Fld.clkSyncStatCount + 1) % 2 ^ Fld.clkSyncStatCount.width ∧
    t.is Fld.clkSyncStatAligned = true ∧ regsOnly (Reg.clkSyncStat :: logRegs) s t) ∧
  (∀ s a ms ml ma, s.runs = true → s.clk.hit = some a → s.is Fld.clkSyncStatAligned = false → a.tile < 2 ^ 32 → answers (.syncEffect ms ml ma) s fun t =>
    t.tile.toNat = a.tile ∧ t.clk = { s.clk with hit := none, audFrame := a.frame } ∧ t.is Fld.clkSyncStatAligned = true ∧
    t.get Fld.clkSyncStatCount = (s.get Fld.clkSyncStatCount + 1) % 2 ^ Fld.clkSyncStatCount.width) ∧
  (∀ s a, s.runs = true → s.clk.arm = some a → answers .syncArmExpiry s fun t =>
    t.clk = { s.clk with arm := none } ∧ t.is Fld.clkSyncStatMissed = true ∧ t.is Fld.clkSyncStatAligned = false ∧ regsOnly (Reg.clkSyncStat :: logRegs) s t)

/-- LACE_FORM on a quiet head starts a formation under the next epoch number with the head and accepted members only; with a collective running it
completes BUSY_RETRY. A candidate named by EPOCH_SET adopts the number, the shape and the routes, drops the definitions of exchange slots, and
answers. Each EPOCH_ACK of the present number takes its member off; the last lets the SYNC follow. Candidates silent for 1 ms leave, and step 1
repeats under the next number. In Lace rest: the head starts it when all is quiet, sets REST and sends a broadcast; a member sets REST; when a
condition fails the head ends it, and each member's acknowledgement is awaited; a member resumes and acknowledges. (R100, R670, R672, R673, R674,
R688, R777, R778) -/
def Obligations.EpochsAndLaceRest : Prop :=
  (∀ s d fs, s.runs = true → s.head = true → s.takes 0x48 d = true → s.free? .lnk = true → s.exch.run0 = none → s.exch.run1 = none →
    s.started? [0x06, 0x07, 0x08] = false → s.lnk.forming = none → shapeOk (s.rd Reg.laceShape) = true → d.w 2 = 0 → d.w 3 = 0 → s.me < 64 →
    answers (.laceForm d fs) s fun t =>
      t.epoch = nextEpoch s.epoch ∧ t.is Fld.laceEpochForming = true ∧ t.members = s.members ∧ ∃ f, t.lnk.forming = some f ∧ f.desc = some d ∧ s.me ∈ f.cands ∧
        (∀ m ∈ f.cands, m = s.me ∨ (m ∈ s.boot.accepted ∧ m ∉ s.boot.excluded))) ∧
  (∀ s d fs, s.runs = true → s.head = true → s.takes 0x48 d = true → s.free? .lnk = true → s.exch.run0.isSome = true → answers (.laceForm d fs) s fun t =>
    t.epoch = s.epoch ∧ t.lnk.forming = s.lnk.forming ∧ t.exch = s.exch ∧ logsOnly s t) ∧
  (∀ s e sh mask fs, s.runs = true → s.head = false → s.boot.refused = false → tb mask s.me = true → answers (.epochSetReceive e sh mask fs) s fun t =>
    t.epoch = e % 65536 ∧ t.is Fld.laceEpochForming = true ∧ t.lnk.shape = sh ∧ t.lnk.routes = mask ∧ t.is Fld.exchStatDef0 = false ∧ t.is Fld.exchStatDef1 = false ∧
    t.members = s.members ∧ Out.msg { dst := s.headNo, src := s.me, kind := 6, code := msgEpochAck, tag := e, words := [BitVec.ofNat 32 e] } ∈ t.out) ∧
  (∀ s f m, s.runs = true → s.lnk.forming = some f → f.step = 1 → m ∈ f.awaiting → f.awaiting.filter (· != m) ≠ [] → answers (.epochAckReceive m s.epoch) s fun t =>
    t = s.modLnk (fun l => { l with forming := some { f with awaiting := f.awaiting.filter (· != m) } })) ∧
  (∀ s f m, s.runs = true → s.lnk.forming = some f → f.step = 1 → m ∈ f.awaiting → f.awaiting.filter (· != m) = [] → answers (.epochAckReceive m s.epoch) s fun t =>
    t.lnk.forming = some { f with step := 3, awaiting := [] } ∧ t.epoch = s.epoch ∧
    ∃ h, t.clk.headSync = some h ∧ h.fire = false ∧ h.pulsed = false ∧ h.dones = f.cands.filter (· != s.me)) ∧
  (∀ s f, s.runs = true → s.lnk.forming = some f → f.step = 1 → f.awaiting ≠ [] → answers .epochAckTimeout s fun t =>
    t.epoch = nextEpoch s.epoch ∧ ∃ g, t.lnk.forming = some g ∧ (∀ i ∈ g.cands, i ∈ f.cands ∧ i ∉ f.awaiting)) ∧
  (∀ s, s.runs = true → s.head = true → s.lnk.inEpoch = true → s.others ≠ [] → s.is Fld.pwrStateRest = false → s.pwr.resumeWait = [] → s.restReady = true →
    answers .laceRestStart s fun t =>
      t.is Fld.pwrStateRest = true ∧ t.pwr = { s.pwr with laceHold := false } ∧
      Out.msg { dst := s.me, src := s.me, kind := 7, code := msgRest, tag := 0, bcast := true, words := [] } ∈ t.out ∧ logsOnly s t) ∧
  (∀ s, s.runs = true → s.head = false → s.lnk.inEpoch = true → answers .restReceive s fun t =>
    t = (s.putB Fld.pwrStateRest true).modPwr (fun p => { p with laceHold := false })) ∧
  (∀ s, s.runs = true → s.head = true → s.is Fld.pwrStateRest = true → s.restReady = false → answers .laceRestEnd s fun t =>
    t.is Fld.pwrStateRest = false ∧ t.pwr = { s.pwr with laceHold := true, resumeWait := s.others.filter (fun m => !s.lnk.lost.contains m) } ∧
    Out.msg { dst := s.me, src := s.me, kind := 7, code := msgResume, tag := 0, bcast := true, words := [] } ∈ t.out) ∧
  (∀ s, s.runs = true → s.head = false → s.lnk.inEpoch = true → answers .resumeReceive s fun t =>
    t.is Fld.pwrStateRest = false ∧ t.pwr = { s.pwr with laceHold := true } ∧
    Out.msg { dst := s.headNo, src := s.me, kind := 7, code := msgResumeAck, tag := 0, words := [] } ∈ t.out ∧ logsOnly s t) ∧
  (∀ s m, s.runs = true → m ∈ s.pwr.resumeWait → s.is Fld.clkSyncCtlFire = false → answers (.resumeAckReceive m) s fun t =>
    t = s.modPwr (fun p => { p with resumeWait := p.resumeWait.filter (· != m) }))

/-- A training that ends with usable lanes makes the link UP with those lanes, its partner's identity and fresh credits. After 50 ms without one
GAVE_UP is set and training goes on. A lane that loses lock counts its errors and starts a fast retrain; when every lane relocks and the token is the
same the link is UP again, and with another token it trains afresh. DIST blocks on the only link that tells of a head make its partner the parent. A
link that goes down counts it, loses its flits, trains again, and when it carried epoch traffic breaks the epoch. SLEEP blocks take an UP link into
low-power idle and back. LANE_CHK is sent on a lane that carries blocks. (R639, R640, R641, R642, R650, R651, R676, R681, R810) -/
def Obligations.LinksTrainAndFall : Prop :=
  (∀ s (k : Fin 4) lanes inv skew m pl ph tok, s.alive = true → s.linkState k = lkTraining → lanes % 4 &&& s.usableLanes k ≠ 0 → s.lnk.links[k].broken = false →
    s.is (Fld.lnkStatGaveUp k.val) = false → s.lnk.links[k].partnerToken = none → answers (.linkTrainingDone k lanes inv skew m pl ph tok) s fun t =>
      t.linkState k = lkUp ∧ t.get (Fld.lnkLanesActive k.val) = (lanes % 4 &&& s.usableLanes k) ∧ t.is (Fld.lnkPartnerValid k.val) = true ∧
      t.get (Fld.lnkPartnerMember k.val) = m % 64 ∧ t.get (Fld.lnkPartnerLink k.val) = pl % 4 ∧ t.is (Fld.lnkPartnerHead k.val) = ph ∧
      t.lnk.links[k].credit = freshCredits ∧ t.lnk.links[k].replay = [] ∧ t.lnk.links[k].txNo = 0 ∧ t.lnk.links[k].rxNo = 0 ∧
      t.lnk.links[k].partnerToken = some tok ∧ (∀ j : Fin 4, j ≠ k → t.linkState j = s.linkState j)) ∧
  (∀ s (k : Fin 4), s.alive = true → s.linkState k = lkTraining → s.lnk.links[k].retraining = false → s.is (Fld.lnkStatGaveUp k.val) = false →
    answers (.linkGiveUp k) s fun t =>
      t.is (Fld.lnkStatGaveUp k.val) = true ∧ t.linkState k = lkTraining ∧ regsOnly (Reg.clkSyncStat :: logRegs) s t ∧
      (s.head = false → (∀ j ∈ allLinks, j ≠ k → s.is (Fld.lnkStatGaveUp j.val) = true) → t.lnk.loneLace = true)) ∧
  (∀ s (k : Fin 4) (lane : Fin 2) n, s.alive = true → s.linkState k = lkUp → tb (s.get (Fld.lnkLanesActive k.val)) lane.val = true →
    answers (.laneLockLoss k lane n) s fun t =>
      t.linkState k = lkTraining ∧ t.lnk.links[k] = { s.lnk.links[k] with retraining := true, failing := s.lnk.links[k].failing ||| 2 ^ lane.val } ∧
      t.get (if lane.val = 0 then Fld.lnkLanesErr0 k.val else Fld.lnkLanesErr1 k.val) =
        min 255 (s.get (if lane.val = 0 then Fld.lnkLanesErr0 k.val else Fld.lnkLanesErr1 k.val) + n) ∧
      onlyFields [Fld.lnkStatState k.val, Fld.lnkLanesErr0 k.val, Fld.lnkLanesErr1 k.val] (s.modLnk (fun _ => t.lnk)) t) ∧
  (∀ s (k : Fin 4) tok, s.alive = true → s.lnk.links[k].retraining = true → s.lnk.links[k].failing = 0 → s.lnk.links[k].replay = [] → s.lnk.links[k].txq = [] →
    s.get (Fld.lnkLanesActive k.val) ≠ 0 → s.get (Fld.lnkLanesActive k.val) &&& s.usableLanes k = s.get (Fld.lnkLanesActive k.val) →
    s.lnk.links[k].partnerToken = some tok → answers (.fastRetrainEnd k (s.get (Fld.lnkLanesActive k.val)) tok) s fun t =>
      t.linkState k = lkUp ∧ t.lnk.links[k] = { s.lnk.links[k] with retraining := false } ∧ fieldsOnly [Fld.lnkStatState k.val] s t) ∧
  (∀ s (k : Fin 4) tok, s.alive = true → s.lnk.links[k].retraining = true → s.lnk.links[k].failing = 0 → s.get (Fld.lnkLanesActive k.val) ≠ 0 →
    s.get (Fld.lnkLanesActive k.val) &&& s.usableLanes k = s.get (Fld.lnkLanesActive k.val) → s.lnk.links[k].partnerToken ≠ some tok →
    answers (.fastRetrainEnd k (s.get (Fld.lnkLanesActive k.val)) tok) s fun t =>
      t.linkState k = lkTraining ∧ t.is (Fld.lnkStatDownEv k.val) = true ∧ t.lnk.links[k].retraining = false ∧
      (s.is (Fld.lnkStatInEpoch k.val) = true → t.is Fld.laceEpochBroken = true)) ∧
  (∀ s (k : Fin 4) h dist uid child, s.alive = true → s.head = false → s.trained k = true → dist < 63 → (∀ j : Fin 4, j ≠ k → s.lnk.links[j].advert = none) →
    answers (.distBlock k h dist uid child) s fun t =>
      t.lnk.links[k].advert = some ⟨dist, h, uid⟩ ∧ t.lnk.links[k].child = child ∧ t.lnk.parent = some k ∧ t.lnk.dist = dist + 1 ∧ t.lnk.headId = some (h, uid)) ∧
  (∀ s (k : Fin 4), s.alive = true → s.trained k = true → s.linkState k ≠ lkAsleep → answers (.linkDownDetect k) s fun t =>
    t.linkState k = lkTraining ∧ t.is (Fld.lnkStatDownEv k.val) = true ∧ t.lnk.links[k].txq = [] ∧ t.lnk.links[k].replay = [] ∧
    t.is (Fld.lnkStatInEpoch k.val) = false ∧ t.is (Fld.lnkPartnerValid k.val) = false ∧
    (s.is (Fld.lnkStatInEpoch k.val) = true → t.is Fld.laceEpochBroken = true ∧ t.lnk.breakNo = s.lnk.breakNo + 1)) ∧
  (∀ s (k : Fin 4), s.alive = true → s.linkState k = lkUp → answers (.sleepBlock k true) s fun t => t = s.put (Fld.lnkStatState k.val) lkAsleep) ∧
  (∀ s (k : Fin 4), s.alive = true → s.linkState k = lkAsleep → s.lnk.links[k].txq = [] → answers (.sleepBlock k false) s fun t =>
    t = s.put (Fld.lnkStatState k.val) lkUp) ∧
  (∀ s (k : Fin 4) (lane : Fin 2), s.alive = true → s.linkState k = lkUp → tb (s.get (Fld.lnkLanesActive k.val)) lane.val = true →
    answers (.laneChkSend k lane) s fun t => t = s.emit (.ctl k (.laneChk lane.val)))

/-- An upward boot tree message goes on to the parent; the head keeps it. A boot flit with a right CRC advances the receive number and owes its place
back; the eighth unacknowledged one sends the FLOW block; a wrong CRC counts, asks for the flit again and discards until it comes; a flit of another
epoch is dropped and counted. An ACK frees the flits it covers; NAK and the 4 us timeout count and send again every flit kept from the one named.
ACK_SEND returns every credit owed. A FLOW block returns credits, at most the buffers of R649. A break not seen before is taken, flooded on the other
UP links, and sets BROKEN; one seen changes nothing. A request sent before a break ends 1 ms after it, its descriptor with PEER_LOST. (R643, R645,
R647, R648, R649, R671, R676, R679, R685) -/
def Obligations.FlitsAcknowledgementsAndBreaks : Prop :=
  (∀ s (k p : Fin 4) m f, s.alive = true → s.linkState k = lkUp → s.head = false → s.lnk.parent = some p → p ≠ k → s.linkState p = lkUp →
    s.lnk.links[p].retraining = false → s.lnk.links[p].txq = [] → 0 < s.lnk.links[p].credit.boot → s.lnk.links[p].replay.length < 64 →
    flitsOf { m with kind := 6 } 0 = [f] → f.kind = 6 → answers (.bootTreeMessage k true m) s fun t =>
      t.out = .flit p f.seal :: s.out ∧ t.lnk.links[p].txNo = (s.lnk.links[p].txNo + 1) % 256 ∧ t.lnk.links[p].credit.boot = s.lnk.links[p].credit.boot - 1 ∧
      t.lnk.links[p].replay = s.lnk.links[p].replay ++ [⟨s.lnk.links[p].txNo, f, 0⟩] ∧ { t with lnk := s.lnk, out := s.out } = s) ∧
  (∀ s (k : Fin 4) m, s.alive = true → s.head = true → answers (.bootTreeMessage k true m) s fun t => t = s) ∧
  (∀ s (k : Fin 4) f, s.alive = true → s.linkState k = lkUp → s.lnk.links[k].rxDiscard = false → f.crc = f.crcOf → f.kind = 6 → s.lnk.links[k].unacked < 7 →
    answers (.flitReceive k f false) s fun t => t = s.modLink k (fun l =>
      { l with rxNo := (l.rxNo + 1) % 256, unacked := l.unacked + 1, owed := ⟨l.owed.vc0, l.owed.vc1, l.owed.boot + 1⟩ })) ∧
  (∀ s (k : Fin 4) f, s.alive = true → s.linkState k = lkUp → s.lnk.links[k].rxDiscard = false → f.crc = f.crcOf → f.kind = 6 → s.lnk.links[k].unacked = 7 → s.lnk.links[k].rxNo < 256 →
    answers (.flitReceive k f false) s fun t =>
      t.out = .ctl k (.flow s.lnk.links[k].rxNo s.lnk.links[k].owed.vc0 s.lnk.links[k].owed.vc1 (s.lnk.links[k].owed.boot + 1)) :: s.out) ∧
  (∀ s (k : Fin 4) f, s.alive = true → s.linkState k = lkUp → s.lnk.links[k].rxDiscard = false → f.crc ≠ f.crcOf → answers (.flitReceive k f false) s fun t =>
    t = ((s.inc (Fld.lnkCrcCntCount k.val)).modLink k (fun l => { l with rxDiscard := true })).emit (.ctl k (.nak s.lnk.links[k].rxNo))) ∧
  (∀ s (k : Fin 4) f, s.alive = true → s.linkState k = lkUp → s.lnk.links[k].rxDiscard = false → f.crc = f.crcOf → f.kind ≠ 6 → f.epoch % 8 ≠ s.epoch % 8 →
    answers (.flitReceive k f false) s fun t =>
      fieldsOnly [Fld.laceEpochStaleDrop] s t ∧ s.get Fld.laceEpochStaleDrop ≤ t.get Fld.laceEpochStaleDrop ∧ { t with regs := s.regs, lnk := s.lnk, out := s.out } = s) ∧
  (∀ s (k : Fin 4) e no, s.alive = true → s.trained k = true → s.lnk.links[k].txq = [] → s.lnk.links[k].replay.find? (·.no == no) = some e →
    answers (.ackBlock k no) s fun t =>
      (∃ done, s.lnk.links[k].replay = done ++ t.lnk.links[k].replay ∧ done.getLast? = some e) ∧ { t with lnk := s.lnk } = s) ∧
  (∀ s (k : Fin 4) no e, s.alive = true → s.linkState k = lkUp → s.lnk.links[k].replay.find? (·.no == no) = some e → (∀ x ∈ s.lnk.links[k].replay, x.resent < 7) →
    answers (.nakBlock k no) s fun t =>
      t.get (Fld.lnkReplayCntCount k.val) = (s.get (Fld.lnkReplayCntCount k.val) + 1) % 2 ^ (Fld.lnkReplayCntCount k.val).width ∧
      t.lnk.links[k].replay.map (·.f) = s.lnk.links[k].replay.map (·.f) ∧ Out.flit k e.f.seal ∈ t.out ∧ onlyRegs [Reg.lnkReplayCnt k.val] ({ s with lnk := t.lnk, out := t.out }) t) ∧
  (∀ s (k : Fin 4) e es, s.alive = true → s.linkState k = lkUp → s.lnk.links[k].replay = e :: es → (∀ x ∈ e :: es, x.resent < 7) → answers (.replayTimeout k) s fun t =>
    t.get (Fld.lnkReplayCntCount k.val) = (s.get (Fld.lnkReplayCntCount k.val) + 1) % 2 ^ (Fld.lnkReplayCntCount k.val).width ∧
    t.out = ((e :: es).map (fun x => Out.flit k x.f.seal)).reverse ++ s.out ∧ t.lnk.links[k].replay = (e :: es).map (fun x => { x with resent := x.resent + 1 })) ∧
  (∀ s (k : Fin 4), s.alive = true → s.linkState k = lkUp → answers (.ackSend k) s fun t =>
    t = (s.modLink k (fun l => { l with owed := ⟨0, 0, 0⟩, unacked := 0 })).emit
      (.ctl k (.flow ((s.lnk.links[k].rxNo + 255) % 256) s.lnk.links[k].owed.vc0 s.lnk.links[k].owed.vc1 s.lnk.links[k].owed.boot))) ∧
  (∀ s (k : Fin 4) a v0 v1 b, s.alive = true → s.trained k = true → s.lnk.links[k].txq = [] → answers (.flowBlock k a v0 v1 b) s fun t =>
    t.lnk.links[k].credit = ⟨min 16 (s.lnk.links[k].credit.vc0 + v0), min 16 (s.lnk.links[k].credit.vc1 + v1), min 4 (s.lnk.links[k].credit.boot + b)⟩ ∧
    { t with lnk := s.lnk } = s) ∧
  (∀ s (k : Fin 4) kind rep rl part cnt, s.alive = true → s.linkState k = lkUp → (∀ b ∈ s.lnk.breaks, ¬(b.reporter = rep ∧ b.count = cnt ∧ b.link = rl)) →
    answers (.breakBlock k kind rep rl part (s.epoch % 8) cnt) s fun t =>
      ⟨kind, rep, rl, part, cnt⟩ ∈ t.lnk.breaks ∧ t.is Fld.laceEpochBroken = true ∧
      (∀ j : Fin 4, j ≠ k → s.linkState j = lkUp → Out.ctl j (.brk kind rep rl part (s.epoch % 8) cnt) ∈ t.out)) ∧
  (∀ s (k : Fin 4) b e, s.alive = true → b ∈ s.lnk.breaks → answers (.breakBlock k b.kind b.reporter b.link b.partner e b.count) s fun t => t = s) ∧
  (∀ s tag r, s.alive = true → s.lnk.requests.find? (fun r => r.tag == tag && r.afterBreak) = some r → answers (.requestBreakTimeout tag) s fun t =>
    (∀ q ∈ t.lnk.requests, q.tag ≠ tag) ∧ ((∀ d, r.desc = some d → d.opcode ≠ 0x12 ∧ d.opcode ≠ 0x28) → logsOnly s t) ∧
    (∀ d, r.desc = some d → d.opcode ≠ 0x12 → d.opcode ≠ 0x28 → tellable s d → ended s t d { status := stPeerLost }))

/-- A fetched entry moves the ring's consumer index by one and joins the descriptors held of it with the next place in the order of fetching; a failed
read halts the ring, sets FETCH_ERR with its number and leaves the index. The oldest held descriptor that may start becomes started, and when it is
malformed completes BAD_DESC with its DETAIL, when its member is not in the epoch NOT_FOUND. NOP and FENCE complete OK and change nothing but what
reporting changes. A CANCEL of nothing fetched completes NOT_FOUND, of a CANCEL CANCEL_LATE, and of any other started descriptor goes on its way to
it; there it completes CANCEL_LATE when its target has passed its commit point; at another member that does not serve the target it is answered
NOT_FOUND. (R193, R196, R211, R212, R233, R237, R238, R239, R263, R867) -/
def Obligations.DescriptorsAreFetchedAndStarted : Prop :=
  (∀ s r ws, s.runs = true → s.nextFetch = some r → s.compat6 = false → ws.length = 8 → answers (.descriptorFetchComplete ws) s fun t =>
    t.cons (cmdRing r) = (s.cons (cmdRing r) + 1) % s.ringSize (cmdRing r) % 2 ^ 16 ∧
    t.hif.rings[cmdRing r].held = s.hif.rings[cmdRing r].held ++ [⟨⟨r, s.cons (cmdRing r), ws⟩, s.hif.fetchNo⟩] ∧ t.hif.fetchNo = s.hif.fetchNo + 1 ∧
    Out.hostRead (s.ringBase (cmdRing r) + s.cons (cmdRing r) * 32) 32 ∈ t.out ∧ regsOnly [Reg.hifRingTail (cmdRing r).val] s t ∧
    { t with regs := s.regs, hif := s.hif, out := s.out } = s) ∧
  (∀ s r, s.runs = true → s.nextFetch = some r → answers .descriptorFetchFail s fun t =>
    t.is (Fld.hifRingCtlHalted (cmdRing r).val) = true ∧ t.is Fld.hifStatFetchErr = true ∧ t.get Fld.hifStatErrRing = (cmdRing r).val ∧
    t.cons (cmdRing r) = s.cons (cmdRing r) ∧ t.hif.started = s.hif.started) ∧
  (∀ s (r : Fin 8) h rest, s.runs = true → s.hif.rings[cmdRing r].held = h :: rest → s.startable r h = true → s.judge h.d = none →
    (h.d.memberScoped = true → s.isMember h.d.member = true) → (h.d.laceScoped = true → s.is Fld.laceEpochBroken = false) → answers (.descriptorStart r) s fun t =>
      t.hif.rings[cmdRing r].held = rest ∧
      t.hif.started = s.hif.started ++ [⟨h.d, h.no, startCommits h.d.opcode, false, [], { status := stOK }, false, false⟩] ∧ { t with hif := s.hif } = s) ∧
  (∀ s (r : Fin 8) h rest dt, s.runs = true → s.head = true → s.hif.rings[cmdRing r].held = h :: rest → s.startable r h = true → h.d.ring = r →
    s.findStarted h.d = none → s.hif.accepts = true → s.pcie.d3hot = false → s.judge h.d = some dt → answers (.descriptorStart r) s fun t =>
      ended s t h.d { status := stBadDesc, detail := dt } ∧ logsOnly s t) ∧
  (∀ s (r : Fin 8) h rest, s.runs = true → s.head = true → s.hif.rings[cmdRing r].held = h :: rest → s.startable r h = true → h.d.ring = r →
    s.findStarted h.d = none → s.hif.accepts = true → s.pcie.d3hot = false → s.judge h.d = none → h.d.memberScoped = true → s.isMember h.d.member = false →
    answers (.descriptorStart r) s fun t => ended s t h.d { status := stNotFound } ∧ logsOnly s t) ∧
  (∀ s d, s.runs = true → dueHere s 0x01 d → answers (.nop d) s fun t => ended s t d { status := stOK } ∧ logsOnly s t) ∧
  (∀ s d, s.runs = true → dueHere s 0x02 d → answers (.fence d) s fun t => ended s t d { status := stOK } ∧ logsOnly s t) ∧
  (∀ s d, s.runs = true → s.head = true → dueHere s 0x03 d →
    (∀ x ∈ s.hif.started, ¬(x.d.ring = Fin.ofNat 8 (d.f 1 0 3) ∧ x.d.tag = d.f 1 16 16 ∧ x.orphan = false)) →
    (∀ x ∈ s.hif.rings[cmdRing (Fin.ofNat 8 (d.f 1 0 3))].held, x.d.tag ≠ d.f 1 16 16) → answers (.cancel d) s fun t =>
      ended s t d { status := stNotFound } ∧ logsOnly s t) ∧
  (∀ s d x, s.runs = true → s.head = true → dueHere s 0x03 d →
    s.hif.started.find? (fun t => t.d.ring == Fin.ofNat 8 (d.f 1 0 3) && t.d.tag == d.f 1 16 16 && !t.orphan) = some x → x.d.opcode ≠ 0x03 →
    answers (.cancel d) s fun t => t.hif.cancels = s.hif.cancels ++ [⟨d, x.d, none⟩] ∧ t.out = s.out ∧ { t with hif := s.hif } = s) ∧
  (∀ s d x, s.runs = true → s.head = true → dueHere s 0x03 d →
    s.hif.started.find? (fun t => t.d.ring == Fin.ofNat 8 (d.f 1 0 3) && t.d.tag == d.f 1 16 16 && !t.orphan) = some x → x.d.opcode = 0x03 →
    answers (.cancel d) s fun t => ended s t d { status := stCancelLate } ∧ logsOnly s t) ∧
  (∀ s d target c x, s.runs = true → s.head = true → d.opcode = 0x03 → tellable s d → target.opcode ≠ 0x12 → target ≠ d →
    s.hif.cancels.find? (fun c => c.d.same d && c.target.same target) = some c → c.ended = none → s.findStarted target = some x → x.committed = true →
    answers (.cancelArrival d target) s fun t => (∀ c ∈ t.hif.cancels, c.d ≠ d) ∧ (s.tag.cur = none → s.tag.queue = [] → s.tag.gaps = [] → ended s t d { status := stCancelLate })) ∧
  (∀ s d target, s.runs = true → s.head = false → d.opcode = 0x03 → (∀ x ∈ s.lnk.served, x.1 ≠ target) → answers (.cancelArrival d target) s fun t =>
    ended s t d { status := stNotFound } ∧ logsOnly s t)

/-- REG_READ for the head's own registers writes the words to host memory and completes OK with the first word and their number; one that touches a
held block completes PEER_RESET with nothing written. REG_WRITE of TOP_SCRATCHn lands and completes OK with 1; one that would hold HIF or LNK
completes BAD_DESC PROTECTED and writes nothing. At another member the same request, received, has the same effect there and is answered; any request
without a row of its own returns its credit. A response ends its request, its credit returns, and the descriptor completes with what it brought; one
to no request is counted in STALE_DROP alone. (R22, R155, R156, R178, R181, R234, R235, R659, R660, R671, R683) -/
def Obligations.RegistersAreReadAndWrittenByDescriptor : Prop :=
  (∀ s d, s.runs = true → s.head = true → d.member = s.me → dueHere s 0x04 d → s.regBehind d = false → (∀ i < d.f 1 16 8, s.heldAt (d.f 1 0 16 + 4 * i) = false) → 0 < d.f 1 16 8 →
    answers (.regRead d) s fun t =>
      let ws := (readRun (d.f 1 16 8) (s.atBlock d) .svc (d.f 1 0 16)).1
      Out.hostWrite (d.addr 2) ws ∈ t.out ∧ ended s t d { status := stOK, r0 := ws.getD 0 0, r1 := BitVec.ofNat 32 (d.f 1 16 8) }) ∧
  (∀ s d i, s.runs = true → s.head = true → d.member = s.me → dueHere s 0x04 d → s.regBehind d = false → i < d.f 1 16 8 → s.heldAt (d.f 1 0 16 + 4 * i) = true →
    answers (.regRead d) s fun t => ended s t d { status := stPeerReset } ∧ logsOnly s t) ∧
  (∀ s d (n : Fin 4) ns cyc near fl, s.runs = true → s.head = true → d.member = s.me → dueHere s 0x05 d → s.regBehind d = false → s.top.softPending = false → d.f 1 16 3 = 1 →
    d.f 1 0 16 = Reg.topScratch n.val → answers (.regWrite d ns cyc near fl) s fun t =>
      t.rd (Reg.topScratch n.val) = d.w 2 ∧ ended s t d { status := stOK, r1 := 1 } ∧ regsOnly (Reg.topScratch n.val :: logRegs) s t) ∧
  (∀ s d ns cyc near fl, s.runs = true → s.head = true → d.member = s.me → dueHere s 0x05 d → s.regBehind d = false → s.top.softPending = false → d.writesProtected = true →
    answers (.regWrite d ns cyc near fl) s fun t => ended s t d { status := stBadDesc, detail := dtProtected } ∧ logsOnly s t) ∧
  (∀ s d i src ns cyc near fl, s.runs = true → s.head = false → s.free? .lnk = true → d = descOfMsg ⟨s.me, src, 2, 0x04, 0, false, d.words⟩ → i < d.f 1 16 8 → s.heldAt (d.f 1 0 16 + 4 * i) = true →
    s.lnk.served = [] → answers (.forwardedRequestReceive ⟨s.me, src, 2, 0x04, 0, false, d.words⟩ ns cyc near fl) s fun t =>
      ended s t d { status := stPeerReset } ∧ logsOnly s t) ∧
  (∀ s d (n : Fin 4) src ns cyc near fl, s.runs = true → s.head = false → s.free? .lnk = true → d = descOfMsg ⟨s.me, src, 2, 0x05, 0, false, d.words⟩ → s.top.softPending = false →
    d.f 1 16 3 = 1 → d.f 1 0 16 = Reg.topScratch n.val → s.lnk.served = [] → answers (.forwardedRequestReceive ⟨s.me, src, 2, 0x05, 0, false, d.words⟩ ns cyc near fl) s fun t =>
      t.rd (Reg.topScratch n.val) = d.w 2 ∧ ended s t d { status := stOK, r1 := 1 }) ∧
  (∀ s src tag ws ns cyc near fl, s.runs = true → answers (.forwardedRequestReceive ⟨s.me, src, 2, 0x7F, tag, false, ws⟩ ns cyc near fl) s fun t =>
    Out.msg { dst := src, src := s.me, kind := 3, code := msgCompletion, tag := tag, words := [] } ∈ t.out ∧ logsOnly s t) ∧
  (∀ s src tag late r ws q, s.runs = true → s.lnk.requests.find? (fun q => q.peer == src && q.tag == tag) = some q → q.desc = none →
    (∀ m ∈ s.lnk.reqQueue, m.dst ≠ src) → answers (.responseReceive src tag late r ws) s fun t =>
      t.lnk.requests = s.lnk.requests.erase q ∧ t.reqUsed src = s.reqUsed src - 1 ∧ { t with lnk := s.lnk } = s) ∧
  (∀ s src tag r q d, s.runs = true → s.head = true → s.lnk.requests.find? (fun q => q.peer == src && q.tag == tag) = some q → q.desc = some d → tellable s d →
    d.opcode ∉ [0x03, 0x04, 0x28] → d.laceScoped = false → answers (.responseReceive src tag false r []) s fun t => ended s t d r ∧ logsOnly s t) ∧
  (∀ s src tag late r ws, s.runs = true → (∀ q ∈ s.lnk.requests, ¬(q.peer = src ∧ q.tag = tag)) → answers (.responseReceive src tag late r ws) s fun t =>
    t.get Fld.laceEpochStaleDrop = min (2 ^ Fld.laceEpochStaleDrop.width - 1) (s.get Fld.laceEpochStaleDrop + 1) ∧ onlyFields [Fld.laceEpochStaleDrop] s t)

/-- An update that reaches its member while none runs there runs, and has passed its commit point; while one runs it waits; one that waited completes
SUPERSEDED. With the region's block held it completes PEER_RESET, one of regions 3 and 6 with the crate services or host DMA retired RETIRED. When
nothing runs, UPDATE_REGION_RUN starts the one that waits. At a member other than the head, an ownership map that arrives with its data is taken and
answered OK. A failed data read completes BAD_DESC DMA_READ and the region is free; the data of a region 2 update waits for the next tile boundary's
list, the data of a whole region 7 update replaces every event and completes OK; malformed data completes BAD_DESC and changes nothing. (R178, R241,
R242, R243, R244, R245, R254, R263, R296, R503, R692) -/
def Obligations.UpdatesOfRegionsArriveRunAndAct : Prop :=
  (∀ s d c i, (c, i) ∈ [(Instr.updateBeamWeights d, (0 : Fin 8)), (.updateOwnershipMap d, 1), (.updateAfList d, 2), (.updateRecallList d, 3),
      (.updateSpdoTemplate d, 4), (.updateTagPlan d, 5), (.updateRoster d, 6), (.updatePipTable d, 7)] →
    s.runs = true → (s.head = true ∨ i ∈ [(0 : Fin 8), 2, 4, 7]) → d.regionNo = i → dueHere s 0x06 d → s.blobRuns d = false → (regionMember i.val = true → d.member = s.me) →
    (∀ b, regionBlk i = some b → s.free? b = true) → s.regionGone i = false →
    ((s.region i).running = none → answers c s fun t => (t.region i).running = some d ∧ (t.region i).waiting = (s.region i).waiting ∧ (t.region i).data = none ∧
      (s.head = true → ∃ x, t.findStarted d = some x ∧ x.committed = true) ∧ logsOnly s t) ∧
    ((s.region i).running.isSome = true → (s.region i).waiting = none → answers c s fun t =>
      (t.region i).running = (s.region i).running ∧ (t.region i).waiting = some d ∧ logsOnly s t) ∧
    (∀ old, (s.region i).running.isSome = true → (s.region i).waiting = some old → old ≠ d → (s.region i).running ≠ some old → tellable s old → answers c s fun t =>
      (t.region i).waiting = some d ∧ ended s t old { status := stSuperseded } ∧ logsOnly s t)) ∧
  (∀ s d c i b, (c, i, b) ∈ [(Instr.updateBeamWeights d, (0 : Fin 8), Blk.exch), (.updateAfList d, 2, .bcst), (.updateSpdoTemplate d, 4, .aud), (.updatePipTable d, 7, .pip)] →
    s.runs = true → d.regionNo = i → dueHere s 0x06 d → s.blobRuns d = false → d.member = s.me → s.free? b = false → answers c s fun t =>
      ended s t d { status := stPeerReset } ∧ logsOnly s t) ∧
  (∀ s d c i, (c, i) ∈ [(Instr.updateRecallList d, (3 : Fin 8)), (.updateRoster d, 6)] → s.runs = true → s.head = true → d.regionNo = i → dueHere s 0x06 d → s.blobRuns d = false →
    s.crateGone = true → answers c s fun t => ended s t d { status := stRetired } ∧ logsOnly s t) ∧
  (∀ s (i : Fin 8) d, s.runs = true → (s.region i).running = none → (s.region i).waiting = some d → d.regionNo = i → (∀ b, regionBlk i = some b → s.free? b = true) →
    s.regionGone i = false → answers (.updateRegionRun i) s fun t => (t.region i).running = some d ∧ (t.region i).waiting = none ∧ (t.region i).data = none ∧ logsOnly s t) ∧
  (∀ s d, s.runs = true → s.head = false → d.regionNo = 1 → dueHere s 0x06 d → mapJudge (d.words.drop 10) = none → answers (.updateOwnershipMap d) s fun t =>
    t.exch = { s.exch with map := some (d.words.drop 10) } ∧ ended s t d { status := stOK } ∧ logsOnly (s.modExch (fun _ => t.exch)) t) ∧
  (∀ s d x, s.runs = true → s.head = true → s.pcie.busMaster = true → d.opcode = 0x06 → (s.region d.regionNo).running = some d → (s.region d.regionNo).data = none →
    tellable s d → s.findStarted d = some x → x.waits = [] → answers (.regionDataReadComplete d none) s fun t =>
      ended s t d { status := stBadDesc, detail := dtDmaRead } ∧ (t.region d.regionNo).running = none ∧ logsOnly s t) ∧
  (∀ s d x ws, s.runs = true → s.head = true → s.pcie.busMaster = true → s.pcie.d3hot = false → d.opcode = 0x06 → d.regionNo = 2 → (s.region 2).running = some d → (s.region 2).data = none →
    s.findStarted d = some x → x.waits = [] → ws.length = (d.w 4).toNat / 4 → listJudge (itemsOf 4 128 ws) = none → answers (.regionDataReadComplete d (some ws)) s fun t =>
      t.bcst = { s.bcst with listNext := some (d, itemsOf 4 128 ws) } ∧ (t.region 2).running = some d ∧ Out.hostRead (d.addr 2) (4 * ws.length) ∈ t.out) ∧
  (∀ s d x ws, s.runs = true → s.head = true → s.pcie.busMaster = true → d.opcode = 0x06 → d.regionNo = 7 → (s.region 7).running = some d → (s.region 7).data = none →
    tellable s d → s.findStarted d = some x → x.waits = [] → ws.length = (d.w 4).toNat / 4 → tableJudge ws = none → d.f 5 0 1 = 0 →
    answers (.regionDataReadComplete d (some ws)) s fun t =>
      ended s t d { status := stOK } ∧ (t.region 7).running = none ∧ (∀ n, t.slotEv n = ((s.modPip (fun p => { p with slots := [] })).pipTable ws true).slotEv n) ∧
      t.pip.commits = s.pip.commits) ∧
  (∀ s d x ws dt, s.runs = true → s.head = true → s.pcie.busMaster = true → d.opcode = 0x06 → d.regionNo = 7 → (s.region 7).running = some d → (s.region 7).data = none →
    tellable s d → s.findStarted d = some x → x.waits = [] → ws.length = (d.w 4).toNat / 4 → tableJudge ws = some dt → answers (.regionDataReadComplete d (some ws)) s fun t =>
      ended s t d { status := stBadDesc, detail := dt } ∧ t.pip = s.pip ∧ logsOnly s t)

/-- While the crate services and host DMA are not retired, a SNAPSHOT at a head where no other blob runs and no block it needs is held makes one blob
that starts with the magic and carries its CRC: when LEN holds it, it is written to host memory and SNAPSHOT completes OK with its length in r0; else
it completes BAD_DESC LENGTH with the length it needs. A RESTORE on a quiet device waits for its blob; on one that is busy it completes BUSY_RETRY. A
blob that cannot be read completes BAD_DESC DMA_READ, one of another format or CRC its DETAIL, and changes nothing else. A good blob of one section of
beam weights for this member sets them and completes OK with one section applied and none skipped. (R246, R247, R248, R249, R250, R251, R252, R254,
R263) -/
def Obligations.SnapshotsAndRestores : Prop :=
  (∀ s d others, s.runs = true → s.head = true → dueHere s 0x07 d → s.blobRuns d = false → s.blobHeld (d.f 1 0 5) = false → s.crateGone = false → answers (.snapshot d others 0) s fun t =>
    logsOnly s t ∧ ∃ b, b.getD 0 0 = blobMagic ∧ b.getD 15 0 = blobCrc b ∧
      (if (d.w 4).toNat < 4 * b.length then ended s t d { status := stBadDesc, detail := dtLength, r0 := BitVec.ofNat 32 (4 * b.length) }
       else Out.hostWrite (d.addr 2) b ∈ t.out ∧ ended s t d { status := stOK, r0 := BitVec.ofNat 32 (4 * b.length) })) ∧
  (∀ s d, s.runs = true → s.head = true → dueHere s 0x08 d → s.blobRuns d = false → s.restoreBusy = false → s.crateGone = false → answers (.restore d false) s fun t =>
    t.hif.restore = some d ∧ t.out = s.out ∧ { t with hif := s.hif } = s) ∧
  (∀ s d rb, s.runs = true → s.head = true → dueHere s 0x08 d → (rb = true ∨ s.restoreBusy = true) → answers (.restore d rb) s fun t =>
    ended s t d { status := stBusyRetry } ∧ logsOnly s t) ∧
  (∀ s d, s.runs = true → s.head = true → s.hif.restore = some d → s.pcie.busMaster = true → tellable s d → answers (.restoreBlobReadComplete d none) s fun t =>
    ended s t d { status := stBadDesc, detail := dtDmaRead } ∧ t.hif.restore = none ∧ logsOnly s t) ∧
  (∀ s d ws dt, s.runs = true → s.head = true → s.hif.restore = some d → s.pcie.busMaster = true → tellable s d → s.blobJudge (d.w 4).toNat ws = some dt →
    answers (.restoreBlobReadComplete d (some ws)) s fun t => ended s t d { status := stBadDesc, detail := dt } ∧ t.hif.restore = none ∧ logsOnly s t) ∧
  (∀ s d ws body, s.runs = true → s.head = true → s.hif.restore = some d → s.pcie.busMaster = true → tellable s d → s.blobJudge (d.w 4).toNat ws = none →
    sectionsOf 1024 (ws.drop 16) = [⟨3, 0, s.me, body⟩] → tb (d.f 1 0 5 &&& getF (ws.getD 1 0) 16 5) 2 = true → weightsJudge body = none → s.isMember s.me = true →
    answers (.restoreBlobReadComplete d (some ws)) s fun t =>
      t.exch = { s.exch with weights := some body } ∧ ended s t d { status := stOK, r0 := 1 } ∧ t.hif.restore = none ∧ logsOnly (s.modExch (fun _ => t.exch)) t)

/-- A decoded edge of the quadrature balls, a pulse with its direction (both exchanged by INVERT), a DAB null symbol and an RDS block D of a
synchronised station (tile requests not retired) each move the count by one, set PERIOD to the interval below 1 s (0 at the first edge) and DIR, and
clear FRAC. Both quadrature balls at once set QERR and move nothing. An armed index pulse sets the count to 0 and disarms. Z_ARM arms for QUAD and
PULSE_DIR only. A change of SRC keeps the count and clears fraction and rate; an undefined SRC is refused with ENC_ERR. 1 s without an edge leaves
PERIOD and FRAC 0. An edge to a target in an event's direction commits its firing and re-arms or empties the slot when FRAC is 0, else its instant
waits; any other event stays as it is. The instant, when it comes, commits the firing. (R264, R265, R267, R268, R270, R271, R272, R275, R276, R279,
R281, R283) -/
def Obligations.EdgesMoveThePipCount : Prop :=
  (∀ s ns cyc, s.runs = true → s.free? .pip = true → s.pipSrc = srcQuad → s.is Fld.pipCtlQx4 = false → s.pip.ballA = false →
    answers (.pipEdgeQuad true s.pip.ballB ns cyc) s fun t => pipStepped s t (s.pipDown s.pip.ballB) ns cyc ∧ t.pip.ballA = true ∧ t.pip.ballB = s.pip.ballB) ∧
  (∀ s ns cyc, s.runs = true → s.free? .pip = true → s.pipSrc = srcQuad → s.is Fld.pipCtlQx4 = true →
    answers (.pipEdgeQuad (!s.pip.ballA) s.pip.ballB ns cyc) s fun t =>
      pipStepped s t (s.pipDown ((!s.pip.ballA) == s.pip.ballB)) ns cyc ∧ t.pip.ballA = !s.pip.ballA ∧ t.pip.ballB = s.pip.ballB) ∧
  (∀ s ns cyc, s.runs = true → s.free? .pip = true → s.pipSrc = srcQuad → s.is Fld.pipCtlQx4 = true →
    answers (.pipEdgeQuad s.pip.ballA (!s.pip.ballB) ns cyc) s fun t =>
      pipStepped s t (s.pipDown (s.pip.ballA == s.pip.ballB)) ns cyc ∧ t.pip.ballA = s.pip.ballA ∧ t.pip.ballB = !s.pip.ballB) ∧
  (∀ s ns cyc, s.runs = true → s.free? .pip = true → s.pipSrc = srcQuad → answers (.pipEdgeQuad (!s.pip.ballA) (!s.pip.ballB) ns cyc) s fun t =>
    t.is Fld.pipSrcQerr = true ∧ onlyFields [Fld.pipSrcQerr] (s.modPip (fun p => { p with ballA := !p.ballA, ballB := !p.ballB })) t) ∧
  (∀ s (down : Bool) ns cyc, s.runs = true → s.free? .pip = true → s.pipSrc = srcPulse → answers (.pipEdgePulse down ns cyc) s fun t => pipStepped s t (s.pipDown down) ns cyc) ∧
  (∀ s ns cyc, s.runs = true → s.free? .pip = true → s.pipSrc = srcDab → s.pipBcstSync = true → s.reqRetired 5 = false → answers (.pipEdgeDab ns cyc) s fun t => pipStepped s t false ns cyc) ∧
  (∀ s ns cyc, s.runs = true → s.free? .pip = true → s.pipSrc = srcRds → s.pipBcstSync = true → s.reqRetired 5 = false → answers (.pipEdgeRds ns cyc) s fun t => pipStepped s t false ns cyc) ∧
  (∀ s cyc, s.runs = true → s.free? .pip = true → s.is Fld.pipCtlZArm = true → (s.pipSrc = srcQuad ∨ s.pipSrc = srcPulse) → answers (.pipHoming cyc) s fun t =>
    t.pipCount = 0 ∧ t.is Fld.pipCtlZArm = false ∧ t.get Fld.pipFracFrac = 0 ∧ t.pip.cycle = cyc % 245760 ∧
    logsAnd [Reg.pipCtl, Reg.pipCountLo, Reg.pipCountHi, Reg.pipFrac, Reg.pipBackstepCnt] (s.modPip (fun _ => t.pip)) t) ∧
  (∀ s p w, served s p Reg.pipCtl → getF w 1 1 = 1 → answers (.pipZArm p w) s fun t =>
    t.is Fld.pipCtlZArm = (s.is Fld.pipCtlZArm || s.pipSrc == srcQuad || s.pipSrc == srcPulse) ∧ t.get Fld.pipCtlJumpLimit = getF w 16 16 ∧
    t.get Fld.pipCtlGuard = getF w 8 8 ∧ onlyRegs [Reg.pipCtl] s t) ∧
  (∀ s p w, served s p Reg.pipSrc → getF w 0 3 < 6 → (s.head = true → getF w 0 3 ≠ srcLace) → getF w 0 3 ≠ s.pipSrc → answers (.pipSrcWrite p w) s fun t =>
    t.pipSrc = getF w 0 3 ∧ t.pipCount = s.pipCount ∧ t.rd Reg.pipRate = 0 ∧ t.rd Reg.pipFrac = 0 ∧ t.pip.slots = s.pip.slots ∧
    onlyRegs [Reg.pipSrc, Reg.pipRate, Reg.pipFrac] (s.modPip (fun _ => t.pip)) t) ∧
  (∀ s p w, served s p Reg.pipSrc → (6 ≤ getF w 0 3 ∨ (s.head = true ∧ getF w 0 3 = srcLace)) → answers (.pipSrcWrite p w) s fun t =>
    t.is Fld.topStatusEncErr = true ∧ onlyRegs [Reg.topStatus, Reg.topErrAddr] s t) ∧
  (∀ s, s.runs = true → s.free? .pip = true → answers .pipStopped s fun t =>
    t.pipPeriod = 0 ∧ t.rd Reg.pipFrac = 0 ∧ t.is Fld.pipRateDir = s.is Fld.pipRateDir ∧ onlyRegs [Reg.pipRate, Reg.pipFrac] s t) ∧
  (∀ s (down : Bool) ns cyc n e, s.runs = true → s.free? .pip = true → s.pipSrc = srcPulse → Sparse.sorted s.pip.slots = true → (∀ x ∈ s.pip.slots, x.2.slot = x.1) →
    s.slotEv n = some e → e.qual = none → answers (.pipEdgePulse down ns cyc) s fun t =>
      if edgeQualifies e t.pipCount (s.pipDown down) = false then t.slotEv n = some e
      else if e.frac = 0 then ⟨e, (if s.pipDown down then 2 else 1), s.tile.toNat, cyc % 245760, e.fired + 1, 0⟩ ∈ t.pip.commits ∧ t.slotEv n = afterFiring e 0
      else t.slotEv n = some { e with qual := some ⟨if s.pipDown down then 2 else 1, s.tile.toNat, cyc % 245760, t.pipPeriod⟩ }) ∧
  (∀ s n e q, s.runs = true → s.free? .pip = true → s.slotEv n = some e → e.slot = n → e.qual = some q → q.period ≠ 0 → answers (.pipQualInstant n) s fun t =>
    t.pip.commits = s.pip.commits ++ [⟨{ e with qual := none }, q.edgeDir, (laceTime q.tile q.cycle (e.frac * q.period / 65536)).1,
      (laceTime q.tile q.cycle (e.frac * q.period / 65536)).2, e.fired + 1, 0⟩] ∧
    t.slotEv n = afterFiring e 0 ∧ { t with pip := s.pip } = s)

/-- PIP_EVENT_ARM puts its event into its slot alone and completes OK with the slot and whether an event was replaced. DISARM empties its slot and
completes OK with 1, NOT_FOUND when it was empty, CANCEL_LATE while a committed firing of it waits, or empties every slot and completes OK with their
number; both complete PEER_RESET with the block held. In D0 a committed firing is taken off the list of commits and its action takes effect: a GPIO
ball is driven high or low; POST_RECORD posts a PIP_FIRED record with the firing's facts and does nothing else; WIN_OPEN opens its listen set,
WIN_CLOSE closes it; BEACON requests one send or counts one refused; AUDIO_START with TRIG PIP gives the armed outputs their start frame;
CAPTURE_START begins the capture that waits on its ring; CAL_SLOT opens the window at the head, and CAL_SLOT_END closes it. Outside D0 an action
waits. (R47, R283, R285, R286, R287, R293, R294, R295, R308, R417, R437, R438) -/
def Obligations.EventsAreArmedAndTheirActionsTakeEffect : Prop :=
  (∀ s d, s.runs = true → s.free? .pip = true → dueHere s 0x20 d → (s.head = true → d.member = s.me) → answers (.pipEventArm d) s fun t =>
    let e := eventOf (d.words.drop 1)
    t.pip = { s.pip with slots := Sparse.insert s.pip.slots e.slot e } ∧
    ended s t d { status := stOK, r0 := BitVec.ofNat 32 e.slot, r1 := BitVec.ofNat 32 (b2n (s.slotEv e.slot).isSome) } ∧ logsOnly (s.modPip (fun _ => t.pip)) t) ∧
  (∀ s d c op, (c, op) ∈ [(Instr.pipEventArm d, 0x20), (.pipEventDisarm d, 0x21)] → s.runs = true → s.free? .pip = false → dueHere s op d → (s.head = true → d.member = s.me) →
    answers c s fun t => ended s t d { status := stPeerReset } ∧ logsOnly s t) ∧
  (∀ s d, s.runs = true → s.free? .pip = true → dueHere s 0x21 d → (s.head = true → d.member = s.me) → answers (.pipEventDisarm d) s fun t =>
    logsOnly (s.modPip (fun _ => t.pip)) t ∧
    (if d.f 1 8 1 = 1 then t.pip = { s.pip with slots := [] } ∧ ended s t d { status := stOK, r0 := BitVec.ofNat 32 s.pip.slots.length }
     else t.pip = { s.pip with slots := Sparse.erase s.pip.slots (d.f 1 0 8) } ∧
      (if s.pip.commits.any (·.ev.slot == d.f 1 0 8) then ended s t d { status := stCancelLate }
       else if (s.slotEv (d.f 1 0 8)).isSome then ended s t d { status := stOK, r0 := 1 } else ended s t d { status := stNotFound }))) ∧
  (∀ s c slot late (hear near : Bool), s.runs = true → s.pst ≠ 0 → c ∈ [Instr.pipGpioSet slot late, .pipGpioClear slot late, .pipPostRecord slot late, .pipWinOpen slot late, .pipWinClose slot late,
      .pipBeacon slot late hear, .pipAudioStart slot late near, .pipCaptureStart slot late, .pipCalSlot slot late] → answers c s fun t => t = s) ∧
  (∀ s slot late k, s.runs = true → s.pst = 0 → s.pip.commits.find? (fun c => c.ev.slot == slot && c.ev.action == actGpioSet) = some k → k.ev.recd = false → late ≤ 25 →
    answers (.pipGpioSet slot late) s fun t => t = (s.modPip (fun p => { p with commits := p.commits.erase k })).modTop (fun p =>
      { p with gpio := upd p.gpio (Fin.ofNat 8 (getF k.ev.arg 0 3)) (fun _ => ⟨true, true⟩) })) ∧
  (∀ s slot late k, s.runs = true → s.pst = 0 → s.pip.commits.find? (fun c => c.ev.slot == slot && c.ev.action == actGpioClear) = some k → k.ev.recd = false → late ≤ 25 →
    answers (.pipGpioClear slot late) s fun t => t = (s.modPip (fun p => { p with commits := p.commits.erase k })).modTop (fun p =>
      { p with gpio := upd p.gpio (Fin.ofNat 8 (getF k.ev.arg 0 3)) (fun _ => ⟨true, false⟩) })) ∧
  (∀ s slot late k, s.runs = true → s.pst = 0 → s.pip.commits.find? (fun c => c.ev.slot == slot && c.ev.action == actRecord) = some k → late ≤ 25 →
    answers (.pipPostRecord slot late) s fun t => t = (s.modPip (fun p => { p with commits := p.commits.erase k })).record 0x07
      [packW [(16, 16, k.ev.frac), (15, 1, b2n (s.slotEv k.ev.slot).isNone), (14, 1, 0), (12, 2, k.edgeDir), (8, 4, k.ev.action), (0, 8, k.ev.slot)],
       BitVec.ofNat 32 (unsgn 64 k.ev.target), BitVec.ofNat 32 (unsgn 64 k.ev.target >>> 32), k.ev.arg, BitVec.ofNat 32 k.count, BitVec.ofNat 32 k.tile,
       BitVec.ofNat 32 k.cycle, BitVec.ofNat 32 0, BitVec.ofNat 32 k.skipped]) ∧
  (∀ s slot late k n, s.runs = true → s.pst = 0 → s.pip.commits.find? (fun c => c.ev.slot == slot && c.ev.action == actWinOpen) = some k → k.ev.recd = false → late ≤ 25 →
    n = getF k.ev.arg 0 16 → s.free? .tag = true → s.is Fld.tagCtlEn = true → (s.listenSet n).isSome = true → (∀ o ∈ s.tag.sets, o.set ≠ n) → answers (.pipWinOpen slot late) s fun t =>
      t = (s.modPip (fun p => { p with commits := p.commits.erase k })).modTag (fun g => { g with sets := g.sets ++ [⟨n, none, 0, 0, 0, 0, false⟩] })) ∧
  (∀ s slot late k n, s.runs = true → s.pst = 0 → s.pip.commits.find? (fun c => c.ev.slot == slot && c.ev.action == actWinClose) = some k → k.ev.recd = false → late ≤ 25 →
    n = getF k.ev.arg 0 16 → (∀ o ∈ s.tag.sets, o.set = n → o.d = none) → answers (.pipWinClose slot late) s fun t =>
      t = (s.modPip (fun p => { p with commits := p.commits.erase k })).modTag (fun g => { g with sets := g.sets.filter (fun o => !(o.set == n)) })) ∧
  (∀ s slot late (hear : Bool) k, s.runs = true → s.pst = 0 → s.pip.commits.find? (fun c => c.ev.slot == slot && c.ev.action == actBeacon) = some k → k.ev.recd = false → late ≤ 25 →
    s.free? .tag = true → s.tag.plan = none → answers (.pipBeacon slot late hear) s fun t =>
      t = (s.modPip (fun p => { p with commits := p.commits.erase k })).incSat Fld.tagDutyUsedRefused) ∧
  (∀ s slot late (hear : Bool) k p ws cost, s.runs = true → s.pst = 0 → s.pip.commits.find? (fun c => c.ev.slot == slot && c.ev.action == actBeacon) = some k → k.ev.recd = false → late ≤ 25 →
    s.free? .tag = true → s.tag.plan = some p → p.beacons[getF k.ev.arg 0 16]? = some ws → s.beaconJudge (getF (ws.getD 0 0) 16 5) hear = none → s.loRetired loT = false →
    s.reqRetired 5 = false → s.lotBarred = false → cost = s.sendCost (getF (ws.getD 0 0) 16 5) (getF (ws.getD 0 0) 12 2) → s.dutyUsed + cost ≤ s.get Fld.tagDutyBudgetMs → s.beaconsHeld < 8 →
    answers (.pipBeacon slot late hear) s fun t => t = (s.modPip (fun p => { p with commits := p.commits.erase k })).takeBeacon none ws 1 cost) ∧
  (∀ s slot late (near : Bool) k, s.runs = true → s.pst = 0 → s.pip.commits.find? (fun c => c.ev.slot == slot && c.ev.action == actAudioStart) = some k → k.ev.recd = false → late ≤ 25 →
    s.free? .aud = true → s.get Fld.audStartCtlTrig = 2 → (∃ o : Fin 4, (s.outSt o).run = 1) → answers (.pipAudioStart slot late near) s fun t =>
      t.is Fld.audStartCtlStarted = true ∧ (∀ o : Fin 4, t.outSt o = if (s.outSt o).run = 1 then
        { s.outSt o with run := 2, startAt := some ((s.clk.audFrame + if near then 2 else 1) % 2 ^ 32) } else s.outSt o)) ∧
  (∀ s slot late k (r : Fin 4) c, s.runs = true → s.pst = 0 → s.pip.commits.find? (fun c => c.ev.slot == slot && c.ev.action == actCapture) = some k → k.ev.recd = false → late ≤ 25 →
    r = Fin.ofNat 4 (getF k.ev.arg 0 2) → s.samp.caps[r] = some c → c.mode = 2 → c.first = none → c.member = s.me → answers (.pipCaptureStart slot late) s fun t =>
      t = (s.modPip (fun p => { p with commits := p.commits.erase k })).setCap r (some { c with
        first := some ((s.tile.toNat + 2 ^ 32 - c.pretrig) % 2 ^ 32), next := (s.tile.toNat + 2 ^ 32 - c.pretrig) % 2 ^ 32 })) ∧
  (∀ s slot late k, s.runs = true → s.pst = 0 → s.pip.commits.find? (fun c => c.ev.slot == slot && c.ev.action == actCalSlot) = some k → k.ev.recd = false → late ≤ 25 → s.head = true →
    answers (.pipCalSlot slot late) s fun t => t = (s.modPip (fun p => { p with commits := p.commits.erase k })).modCal (fun c =>
      { c with slot := some (getF k.ev.arg 0 4, (s.tile.toNat + getF k.ev.arg 16 16) % 2 ^ 32) })) ∧
  (∀ s m e, s.runs = true → s.free? .cal = true → s.cal.slot = some (m, e) → s.tileAt e = true → answers .calSlotEnd s fun t => t = s.modCal (fun c => { c with slot := none }))

/-- The head's PIP_BEACON_SEND sends count, fraction, rate and the Lace time to every other member; in Lace rest nothing is sent. A member whose
source is LACE takes count, rate and fraction from a beacon and knows that beacons come; after 1 ms without one it no longer does. A notice of an edge
sets the count there, and an event with that target, FRAC 0 and direction commits at the instant the notice names. A notice before any beacon, and
every beacon at the head or at another source, changes nothing. A descriptor of member scope that names another member which a route reaches is sent
to it as one request that carries its words, or waits for a request credit; it holds nothing here. (R234, R298, R299, R300, R302, R303, R304, R305,
R659, R777) -/
def Obligations.ThePipIsCarriedAcrossTheLace : Prop :=
  (∀ s ns cyc, s.runs = true → s.free? .pip = true → s.head = true → s.others ≠ [] → s.is Fld.pwrStateRest = false → answers (.pipBeaconSend ns cyc) s fun t =>
    let n := unsgn 64 s.pipCount
    Out.msg { dst := s.me, src := s.me, kind := 4, code := msgBeacon, tag := 0, bcast := true
              words := [BitVec.ofNat 32 n, BitVec.ofNat 32 (n >>> 32), t.rd Reg.pipFrac, s.rd Reg.pipRate, s.tile, BitVec.ofNat 32 (cyc % 245760)] } ∈ t.out ∧
    t.get Fld.pipFracFrac = fracAt ns s.pipPeriod ∧ t.pipCount = s.pipCount ∧ logsAnd [Reg.pipFrac] (s.modPip (fun p => { p with since := ns, cycle := cyc % 245760 })) t) ∧
  (∀ s ns cyc, s.runs = true → s.free? .pip = true → (s.head = false ∨ s.others = [] ∨ s.is Fld.pwrStateRest = true) → answers (.pipBeaconSend ns cyc) s fun t =>
    t.out = s.out ∧ t.lnk = s.lnk ∧ onlyRegs [Reg.pipFrac] (s.modPip (fun p => { p with since := ns, cycle := cyc % 245760 })) t) ∧
  (∀ s (count : Int) frac rate, s.runs = true → s.free? .pip = true → s.head = false → s.pipSrc = srcLace → -(2 ^ 63) ≤ count → count < 2 ^ 63 → answers (.pipBeaconReceive count frac rate) s fun t =>
    t.pip.beaconOk = true ∧ t.pipCount = count ∧ t.rd Reg.pipRate = rate ∧ t.get Fld.pipFracFrac = frac % 65536 ∧
    logsAnd [Reg.pipCountLo, Reg.pipCountHi, Reg.pipRate, Reg.pipFrac, Reg.pipBackstepCnt] (s.modPip (fun _ => t.pip)) t) ∧
  (∀ s (count : Int) frac rate, s.runs = true → s.free? .pip = true → (s.head = true ∨ s.pipSrc ≠ srcLace) → answers (.pipBeaconReceive count frac rate) s fun t => t = s) ∧
  (∀ s ed (old count : Int) frac tile cyc (rev : Bool), s.runs = true → s.free? .pip = true → s.pip.beaconOk = false → answers (.pipNoticeReceive ed old count frac tile cyc rev) s fun t => t = s) ∧
  (∀ s ed (old count : Int) tile cyc, s.runs = true → s.free? .pip = true → s.head = false → s.pipSrc = srcLace → s.pip.beaconOk = true → (ed = 1 ∨ ed = 2) → -(2 ^ 63) ≤ count → count < 2 ^ 63 →
    Sparse.sorted s.pip.slots = true → (∀ x ∈ s.pip.slots, x.2.slot = x.1) → answers (.pipNoticeReceive ed old count 0 tile cyc false) s fun t =>
      t.pipCount = count ∧ onlyRegs [Reg.pipCountLo, Reg.pipCountHi] (s.modPip (fun _ => t.pip)) t ∧
      (∀ n e, s.slotEv n = some e → if e.frac = 0 ∧ e.qual = none ∧ edgeQualifies e count (ed == 2) = true then
        ⟨e, ed, tile, cyc, e.fired + 1, 0⟩ ∈ t.pip.commits ∧ t.slotEv n = afterFiring e 0 else t.slotEv n = some e)) ∧
  (∀ s, s.runs = true → s.free? .pip = true → answers .pipLockLoss s fun t => t = if s.pipSrc = srcLace then s.modPip (fun p => { p with beaconOk := false }) else s) ∧
  (∀ s d c, s.runs = true → s.head = true → s.takes d.opcode d = true → (c, d.opcode) ∈ [(Instr.tune d, 0x10), (.radioState d, 0x11), (.tagBeacon d true, 0x12), (.bcstSelect d, 0x18), (.bcstFollow d, 0x19), (.captureStop d, 0x29),
      (.audioRoute d, 0x50)] → d.member ≠ s.me → s.reaches d.member = true → answers c s fun t =>
      let m : Msg := { dst := d.member, src := s.me, kind := 2, code := d.opcode, tag := s.lnk.tagNo % 65536, words := s.forwardWords d }
      ⟨s.lnk.tagNo % 65536, d.member, some d, false⟩ ∈ t.lnk.requests ∧ (if s.reqUsed d.member < 2 then Out.msg m ∈ t.out else t.lnk.reqQueue = s.lnk.reqQueue ++ [m] ∧ t.out = s.out) ∧
      logsOnly s t) ∧
  (∀ s d e, s.runs = true → s.head = true → dueHere s 0x20 d → e = eventOf (d.words.drop 1) → d.member ≠ s.me → s.reaches d.member = true → s.reqUsed d.member < 2 → answers (.pipEventArm d) s fun t =>
    Out.msg { dst := d.member, src := s.me, kind := 2, code := 0x20, tag := s.lnk.tagNo % 65536, words := s.forwardWords d } ∈ t.out ∧ t.pip.slots = s.pip.slots ∧
    (e.dir ≠ 0 → (d.member, e) ∈ t.pip.remote) ∧ logsOnly (s.modPip (fun _ => t.pip)) t)

/-- A served, defined write of LOn_CTL sets TARGET; an idle synthesiser that stands there stays, any other of a path takes the first step of its way
at its frequency and is BUSY. TUNE retunes one in SYNTH to a frequency of LOn_FREQ that differs, and does nothing below SYNTH. INVALIDATE discards the
held sets of that synthesiser. A step that ends leaves its state: STANDBY and SLEEP without lock, SYNTH locked at its frequency with the divider of
R353 and a set taken now when it calibrated, RX with the first clean tile of its paths settled; a longer way goes on. TUNE of a frequency out of range
is BAD_DESC 0x40, of a retired synthesiser RETIRED, with the block held PEER_RESET; below SYNTH it sets the frequency and completes OK, else its
retune runs and its end completes it. RADIO_STATE to where a synthesiser stands completes OK; a SYNTH with no frequency is BAD_DESC 0x40; protection
BUSY_RETRY. Without lock in time it returns to STANDBY and the failure counts; without the rails RADIO_STATE completes TIMEOUT. (R65, R350, R353,
R355, R358, R359, R360, R361, R376, R787, R808) -/
def Obligations.SynthesisersMoveTuneAndTimeOut : Prop :=
  (∀ s p (n : Fin 5) w, served s p (Reg.loCtl n.val) → getF w 0 3 < 4 → (n = loT → getF w 0 3 ≠ 3) → (2 ≤ getF w 0 3 → s.loFreqReg n ≠ 0) → getF w 8 1 = 0 →
    s.radio.los[n].queue = [] → s.radio.los[n].run = none → s.loState n ≠ stTx → answers (.loTargetWrite p n w) s fun t =>
      t.get (Fld.loCtlTarget n.val) = getF w 0 3 ∧ onlyRegs [Reg.loCtl n.val, Reg.loStat n.val, Reg.radioState] (s.modRadio (fun _ => t.radio)) t ∧
      (getF w 0 3 = s.loState n → t.radio.los[n].run = none ∧ t.is (Fld.loStatBusy n.val) = false ∧ t.loState n = s.loState n) ∧
      (getF w 0 3 ≠ s.loState n → s.loHeld n = false → s.loRetired n = false → (s.loState n = stSleep → s.protect = false) →
        t.is (Fld.loStatBusy n.val) = true ∧ ∃ r, t.radio.los[n].run = some r ∧ r.req = .target (getF w 0 3) ∧ r.freq = s.loFreqReg n ∧ r.anyCal = false ∧
          r.next = (if getF w 0 3 < s.loState n then getF w 0 3 else s.loState n + 1) ∧
          (r.waits = true ↔ s.loState n = stSleep ∧ s.radioRails = false))) ∧
  (∀ s p (n : Fin 5) w, served s p (Reg.loCtl n.val) → getF w 8 1 = 1 → s.is (Fld.loCtlTune n.val) = false → getF w 0 3 = s.loState n → s.radio.los[n].queue = [] →
    s.radio.los[n].run = none → s.loFreqReg n ≠ 0 → s.loState n < 3 → answers (.loTuneWrite p n w) s fun t =>
      (s.loState n < 2 → t.is (Fld.loCtlTune n.val) = false ∧ t.is (Fld.loStatBusy n.val) = false ∧ t.radio.los[n].run = none) ∧
      (s.loState n = 2 → s.loFreqReg n ≠ s.radio.los[n].freq → t.is (Fld.loCtlTune n.val) = true ∧ t.is (Fld.loStatBusy n.val) = true ∧
        ∃ r, t.radio.los[n].run = some r ∧ r.req = .tune (getF w 9 1 == 1) ∧ r.next = 5 ∧ r.freq = s.loFreqReg n) ∧
      onlyRegs [Reg.loCtl n.val, Reg.loStat n.val] (s.modRadio (fun _ => t.radio)) t) ∧
  (∀ s p (n : Fin 5) w, served s p (Reg.loCalmode n.val) → getF w 1 1 = 1 → answers (.loCalInvalidate p n w) s fun t =>
    t.radio.los[n] = { s.radio.los[n] with sets := [] } ∧ (∀ m : Fin 5, m ≠ n → t.radio.los[m] = s.radio.los[m]) ∧ t.get (Fld.loCalmodeDtemp n.val) = getF w 8 8 ∧
    t.is (Fld.loCalmodePolicy n.val) = (getF w 0 1 == 1) ∧ onlyRegs [Reg.loCalmode n.val] (s.modRadio (fun _ => t.radio)) t) ∧
  (∀ s (n : Fin 5) r cyc k, s.runs = true → s.free? .radio = true → s.radio.los[n].run = some r → s.radio.los[n].queue = [] → r.waits = false → r.req = .target k → r.next = k → k < 4 →
    k ≠ s.loState n → answers (.synthStepDone n cyc) s fun t =>
      t.loState n = k ∧ t.is (Fld.loStatBusy n.val) = false ∧ t.radio.los[n].run = none ∧ onlyRegs [Reg.loStat n.val, Reg.radioState] (s.modRadio (fun _ => t.radio)) t ∧
      (k < 2 → t.is (Fld.loStatLock n.val) = false ∧ t.get (Fld.loStatDiv n.val) = 0) ∧
      (k = 2 → s.loState n < 2 → t.is (Fld.loStatLock n.val) = true ∧ t.get (Fld.loStatDiv n.val) = divOf r.freq ∧ t.radio.los[n].freq = r.freq ∧
        (r.cal = true → t.heldSet n (divOf r.freq) = some (s.temp 1))) ∧
      (k = 3 → ∀ p ∈ s.takers n, t.radio.paths[p].cleanAt = some (s.cleanTile cyc))) ∧
  (∀ s (n : Fin 5) r cyc, s.runs = true → s.free? .radio = true → s.radio.los[n].run = some r → r.waits = false → r.req = .target 2 → r.next = 1 → s.loState n = 0 → s.loHeld n = false →
    s.loRetired n = false → answers (.synthStepDone n cyc) s fun t =>
      t.loState n = 1 ∧ t.is (Fld.loStatBusy n.val) = true ∧ ∃ r', t.radio.los[n].run = some r' ∧ r'.next = 2 ∧ r'.req = .target 2 ∧ r'.freq = s.loFreqReg n ∧ r'.waits = false) ∧
  (∀ s (n : Fin 5) r cyc (b : Bool), s.runs = true → s.free? .radio = true → s.radio.los[n].run = some r → s.radio.los[n].queue = [] → r.waits = false → r.req = .tune b → r.next = 5 →
    answers (.synthStepDone n cyc) s fun t =>
      t.radio.los[n].freq = r.freq ∧ t.is (Fld.loStatLock n.val) = true ∧ t.get (Fld.loStatDiv n.val) = divOf r.freq ∧ t.is (Fld.loCtlTune n.val) = false ∧
      t.is (Fld.loStatBusy n.val) = false ∧ t.radio.los[n].run = none ∧ t.loState n = s.loState n ∧
      onlyRegs [Reg.loCtl n.val, Reg.loStat n.val, Reg.radioState] (s.modRadio (fun _ => t.radio)) t) ∧
  (∀ s (n : Fin 5) r cyc d, s.runs = true → s.free? .radio = true → s.radio.los[n].run = some r → s.radio.los[n].queue = [] → r.waits = false → r.req = .retune d → r.next = 5 → s.loState n = stSynth →
    tellable s d → answers (.synthStepDone n cyc) s fun t =>
      ended s t d { status := stOK, r1 := packW [(8, 8, divOf r.freq), (0, 1, b2n (r.anyCal || r.cal))] } ∧ t.radio.los[n].freq = r.freq) ∧
  (∀ s (n : Fin 5) r cyc d, s.runs = true → s.free? .radio = true → s.radio.los[n].run = some r → s.radio.los[n].queue = [] → r.waits = false → r.req = .move d 2 → r.next = 2 → s.loState n = 1 →
    s.radio.moves = [⟨d, [n.val], false, 0⟩] → tellable s d → answers (.synthStepDone n cyc) s fun t =>
      ended s t d { status := stOK, r1 := BitVec.ofNat 32 (b2n (r.anyCal || r.cal)) } ∧ t.loState n = 2 ∧ t.radio.moves = []) ∧
  (∀ s d n, s.runs = true → dueHere s 0x10 d → (s.head = true → d.member = s.me) → n = Fin.ofNat 5 (d.f 1 0 3) → answers (.tune d) s fun t =>
    (s.free? .radio = false → ended s t d { status := stPeerReset } ∧ logsOnly s t) ∧
    (s.free? .radio = true → freqOk n (d.w 2).toNat = false → ended s t d { status := stBadDesc, detail := 0x40 } ∧ logsOnly s t) ∧
    (s.free? .radio = true → freqOk n (d.w 2).toNat = true → s.loRetired n = true → ended s t d { status := stRetired } ∧ logsOnly s t) ∧
    (s.free? .radio = true → freqOk n (d.w 2).toNat = true → s.loRetired n = false → s.radio.los[n].queue = [] → s.radio.los[n].run = none → s.loState n < 2 →
      t.rd (Reg.loFreq n.val) = d.w 2 ∧ ended s t d { status := stOK, r1 := packW [(8, 8, s.get (Fld.loStatDiv n.val)), (0, 1, 0)] }) ∧
    (s.free? .radio = true → freqOk n (d.w 2).toNat = true → s.loRetired n = false → s.radio.los[n].queue = [] → s.radio.los[n].run = none → s.loState n = 2 →
      s.radio.los[n].freq ≠ (d.w 2).toNat → t.rd (Reg.loFreq n.val) = d.w 2 ∧ t.is (Fld.loStatBusy n.val) = true ∧
        ∃ r, t.radio.los[n].run = some r ∧ r.req = .retune d ∧ r.next = 5 ∧ r.freq = (d.w 2).toNat)) ∧
  (∀ s d (n : Fin 5) k, s.runs = true → dueHere s 0x11 d → (s.head = true → d.member = s.me) → d.f 1 0 5 = 2 ^ n.val → d.f 1 8 3 = k → answers (.radioState d) s fun t =>
    (s.free? .radio = false → ended s t d { status := stPeerReset } ∧ logsOnly s t) ∧
    (s.free? .radio = true → stSynth ≤ k → s.loFreqReg n = 0 → ended s t d { status := stBadDesc, detail := 0x40 } ∧ logsOnly s t) ∧
    (s.free? .radio = true → (stSynth ≤ k → s.loFreqReg n ≠ 0) → s.loRetired n = true → ended s t d { status := stRetired } ∧ logsOnly s t) ∧
    (s.free? .radio = true → (stSynth ≤ k → s.loFreqReg n ≠ 0) → s.loRetired n = false → s.protect = true → 0 < k → s.loState n = stSleep →
      ended s t d { status := stBusyRetry } ∧ logsOnly s t) ∧
    (s.free? .radio = true → (stSynth ≤ k → s.loFreqReg n ≠ 0) → s.loRetired n = false → s.radio.los[n].queue = [] → s.radio.los[n].run = none → s.loState n = k → k < 3 →
      s.radio.moves = [] → ended s t d { status := stOK } ∧ t.get (Fld.loCtlTarget n.val) = k ∧ t.loState n = k) ∧
    (s.free? .radio = true → s.loRetired n = false → s.radio.los[n].queue = [] → s.radio.los[n].run = none → k < s.loState n → s.loState n < 4 → s.loHeld n = false → (stSynth ≤ k → s.loFreqReg n ≠ 0) →
      t.is (Fld.loStatBusy n.val) = true ∧ t.get (Fld.loCtlTarget n.val) = k ∧ ∃ r, t.radio.los[n].run = some r ∧ r.req = .move d k ∧ r.next = k)) ∧
  (∀ s (n : Fin 5) r k, s.runs = true → s.free? .radio = true → s.radio.los[n].run = some r → s.radio.los[n].queue = [] → r.waits = false → r.next = stSynth → s.loState n = stStandby →
    r.req = .target k → s.retired 1 n.val = false → s.get (Fld.fltPolicyK 1) ≠ 1 → (∀ e ∈ s.flt.fails, ¬(e.cls = 1 ∧ e.inst = n.val)) → answers (.synthLockTimeout n) s fun t =>
      t.loState n = stStandby ∧ t.radio.los[n].run = none ∧ t.is (Fld.loStatBusy n.val) = false ∧ t.is (Fld.loStatLock n.val) = false ∧ t.is Fld.fltStatFailure = true ∧
      t.flt.telem.failures = satAdd 65535 s.flt.telem.failures 1 ∧ logsAnd [Reg.loStat n.val, Reg.radioState] (s.modRadio (fun _ => t.radio)) t) ∧
  (∀ s (n : Fin 5), s.runs = true → s.free? .radio = true → s.radio.los[n].relock = true → s.retired 1 n.val = false → s.get (Fld.fltPolicyK 1) ≠ 1 → (∀ e ∈ s.flt.fails, ¬(e.cls = 1 ∧ e.inst = n.val)) → answers (.synthRelockTimeout n) s fun t =>
    t.radio.los[n] = { s.radio.los[n] with relock := false } ∧ t.is Fld.fltStatFailure = true ∧ t.flt.telem.failures = satAdd 65535 s.flt.telem.failures 1 ∧
    logsOnly (s.modRadio (fun _ => t.radio)) t) ∧
  (∀ s (n : Fin 5) r d k, s.runs = true → s.free? .radio = true → s.radio.los[n].run = some r → r.waits = true → r.req = .move d k → tellable s d → answers (.radioRailWaitTimeout n) s fun t =>
    ended s t d { status := stTimeout } ∧ t.radio.los[n].run = some { r with req := .target k } ∧ logsOnly (s.modRadio (fun _ => t.radio)) t)

/-- A request that may be granted is: its body is fixed from the queue of acknowledgements and the beacon counter, which advances; the send counts;
the level applied is the smaller of LEVEL and CAP; LOT enters TX, BUSY; every path that selects UHF is blanked. With an external amplifier PA_EN rises
before the ramp. The ramp starts, at full power LOT is no longer BUSY and the bits go on the air, after the last symbol the ramp goes down; at its end
LOT is back in SYNTH, with an external amplifier only when PA_EN has fallen. Blanking ends once no send is on the air, and each blanked path is free
of it from the first or second tile after, by the cycle. (R349, R369, R371, R372, R373, R374, R588) -/
def Obligations.ASendOfTheTagRadio : Prop :=
  (∀ s b f band, s.runs = true → s.free? .tag = true → s.tag.cur = some b → s.chanEntry b.chan = some (f, band) → s.grantable b f = true → answers .txGrant s fun t =>
    let acks := (s.ackList band ((chanOf band f).getD 0)).map (·.mac)
    t.radio.tx = some ⟨s.txLevel, s.is Fld.txCtlPaExt, f, beaconFrame s.tag.sync b.rmode (b.field 0 8 4) (b.field 1 0 8) (b.field 1 16 16) s.tag.counter.toNat acks, 0⟩ ∧
    t.tag.counter = s.tag.counter + 1 ∧ t.tag.log = (0, onAirMs b.rmode acks.length) :: s.tag.log ∧ t.tag.reserved = s.tag.reserved - b.onAir ∧
    t.tag.cur = some { b with left := b.left - 1, made := b.made + 1, answered := false, stage := 5, last := s.tag.counter.toNat
                              first := if b.made = 0 then s.tag.counter.toNat else b.first } ∧
    t.loState loT = stTx ∧ t.is (Fld.loStatBusy 4) = true ∧ t.get Fld.radioStateBlanked = maskOf 4 (fun i => s.pathUhf (Fin.ofNat 4 i)) ∧
    (∀ p : Fin 4, t.radio.paths[p].blanked = (s.pathUhf p || s.radio.paths[p].blanked)) ∧
    logsAnd [Reg.loStat 4, Reg.radioState, Reg.tagDutyUsed] ((s.modRadio (fun _ => t.radio)).modTag (fun _ => t.tag)) t) ∧
  (∀ s x, s.runs = true → s.free? .radio = true → s.radio.tx = some x → x.phase = 0 → answers .paEnRise s fun t =>
    t = if x.ext then s.modTop (fun p => { p with paEn := true }) else s) ∧
  (∀ s x, s.runs = true → s.free? .radio = true → s.radio.tx = some x → x.phase = 0 → answers .txRampUpStart s fun t => t = s.modRadio (fun r => { r with tx := some { x with phase := 1 } })) ∧
  (∀ s x, s.runs = true → s.free? .radio = true → s.radio.tx = some x → x.phase = 1 → answers .txFullPower s fun t =>
    t.radio = { s.radio with tx := some { x with phase := 2 } } ∧ t.is (Fld.loStatBusy 4) = false ∧ t.out = Out.air x.freq x.bits :: s.out ∧
    onlyFields [Fld.loStatBusy 4] { s.modRadio (fun _ => t.radio) with out := t.out } t) ∧
  (∀ s x, s.runs = true → s.free? .radio = true → s.radio.tx = some x → x.phase = 2 → answers .txLastSymbol s fun t => t = s.modRadio (fun r => { r with tx := some { x with phase := 3 } })) ∧
  (∀ s x, s.runs = true → s.free? .radio = true → s.radio.tx = some x → x.phase = 3 → s.top.paEn = false → s.radio.los[loT].queue = [] → answers .txRampDownEnd s fun t =>
    t.radio.tx = none ∧ t.loState loT = stSynth ∧ onlyRegs [Reg.loStat 4, Reg.radioState] (s.modRadio (fun _ => t.radio)) t) ∧
  (∀ s x, s.runs = true → s.free? .radio = true → s.radio.tx = some x → x.phase = 3 → s.top.paEn = true → answers .txRampDownEnd s fun t =>
    t = s.modRadio (fun r => { r with tx := some { x with phase := 4 } })) ∧
  (∀ s x, s.runs = true → s.free? .radio = true → s.radio.tx = some x → x.phase = 4 → s.top.paEn = true → s.radio.los[loT].queue = [] → answers .paEnFall s fun t =>
    t.top = { s.top with paEn := false } ∧ t.radio.tx = none ∧ t.loState loT = stSynth ∧
    onlyRegs [Reg.loStat 4, Reg.radioState] ((s.modRadio (fun _ => t.radio)).modTop (fun _ => t.top)) t) ∧
  (∀ s cyc, s.runs = true → s.free? .radio = true → s.radio.tx = none → answers (.blankingEnd cyc) s fun t =>
    t.get Fld.radioStateBlanked = 0 ∧ (∀ p : Fin 4, t.radio.paths[p] = if s.radio.paths[p].blanked = true then
      { s.radio.paths[p] with blanked := false, blankAt := some ((s.tile.toNat + if cyc ≤ 61440 then 1 else 2) % 2 ^ 32) } else s.radio.paths[p]) ∧
    onlyFields [Fld.radioStateBlanked] (s.modRadio (fun _ => t.radio)) t)

/-- While the count runs a tile boundary advances the tile number by one and starts its cycle at 0, notes what the tile that ended says of itself,
lets a landed change of the mask act from its tile, and gives a path in manual gain the code of AGCn_CTL within its limits. The tile writer keeps a
tile of an octet of the mask: its header, the data of the paths of PATH_MASK, zeros for the others. A clip counts on its path, marks OVR and CONTAM,
from the cycle on the next tile too, adds one to OVRn_CNT and sets its bit when no clip lies within 1 us, and opens or goes on an episode. An attack
lowers A by 6, no lower than the lowest code. An enabled sentinel condition freezes the loop, its end and FREEZE_MAX tiles release it. An episode with
no contaminated tile ends, one of 1 s is reported and a new one waits for the next tile; each posts its OVERLOAD record with OVR_REC. (R387, R391,
R393, R395, R397, R400, R406, R407, R408, R409, R411, R414) -/
def Obligations.TilesGainAndOverload : Prop :=
  (∀ s peaks stats sums, s.alive = true → s.clk.synced = true → s.clk.refLost = false → s.pst ≠ 3 → answers (.tileBoundary peaks stats sums) s fun t =>
    t.tile = s.tile + 1 ∧ t.pip.cycle = 0 ∧
    (s.free? .samp = true → (s.samp.making = true → ∃ m, t.samp.prev = some m ∧ m.seq = s.tile.toNat ∧ m.mask = s.pathMask ∧ m.octets = s.samp.octets) ∧
      (s.samp.making = false → t.samp.prev = none) ∧
      (∀ m, s.samp.pend = [((s.tile.toNat + 1) % 2 ^ 32, false, m)] → t.samp.octets = m ∧ t.samp.pend = []) ∧
      (∀ p : Fin 4, s.rd (Reg.pathCtl p.val) = s.radio.paths[p].ctl → getF (s.rd (Reg.agcCtl p.val)) 7 1 = 1 → p.val < peaks.length →
        t.samp.agc[p].g = min (s.lnaRange p).2 (max (s.lnaRange p).1 (min (if getF (s.rd (Reg.agcCtl p.val)) 20 6 = 0 then 63 else getF (s.rd (Reg.agcCtl p.val)) 20 6)
          (max (getF (s.rd (Reg.agcCtl p.val)) 14 6) (getF (s.rd (Reg.agcCtl p.val)) 8 6)))) ∧ t.samp.agc[p].a = t.samp.agc[p].g))) ∧
  (∀ s octet exps data m, s.runs = true → s.free? .samp = true → s.samp.prev = some m → tb m.octets octet = true → s.reqRetired 2 = false → s.effDepth.isSome = true →
    (∀ p < 4, tb (m.flags.getD p 0) 2 = false) → answers (.tileWriteDone octet exps data) s fun t =>
      t = s.keepTile ⟨octet, m.seq, headerOf m s.me octet ((List.range 4).map (fun p => exps.getD p 0)) ++
        (List.range 1024).map (fun i => if tb m.mask (i / 256) then data.getD i 0 else 0)⟩) ∧
  (∀ s (p : Fin 4) cyc, s.runs = true → s.free? .samp = true → s.pathRx p = true → answers (.adcClip p cyc) s fun t =>
    t.samp.agc[p] = { s.samp.agc[p] with clip := some (s.tile.toNat, cyc), ovr := true, contam := true, clips := satAdd 255 s.samp.agc[p].clips 1
                                         contamNext := s.samp.agc[p].contamNext || decide (contamFrom ≤ cyc) } ∧
    (∀ q : Fin 4, q ≠ p → t.samp.agc[q] = s.samp.agc[q]) ∧
    (s.samp.agc[p].clip = none → t.get (Fld.ovrCntCount p.val) = (s.get (Fld.ovrCntCount p.val) + 1) % 2 ^ 32 ∧ t.is ⟨Reg.ovrStat, p.val, 1⟩ = true) ∧
    (∀ c, s.samp.agc[p].clip = some (s.tile.toNat, c) → cyc ≤ c + 737 → t.get (Fld.ovrCntCount p.val) = s.get (Fld.ovrCntCount p.val)) ∧
    (s.samp.skip ≠ some s.tile.toNat → ∃ e, t.samp.episode = some e ∧ e.last = s.tile.toNat ∧ tb e.paths p.val = true) ∧
    onlyRegs [Reg.ovrStat, Reg.ovrCnt p.val, Reg.agcCtl 0, Reg.agcCtl 1, Reg.agcCtl 2, Reg.agcCtl 3] (s.modSamp (fun _ => t.samp)) t) ∧
  (∀ s (p : Fin 4), s.runs = true → s.free? .samp = true → s.pathRx p = true → s.agcManual p = false → answers (.agcAttack p) s fun t =>
    t.samp = { s.samp with agc := upd s.samp.agc p (fun a => { a with a := max (s.lowCode p) (a.a - 6) }) } ∧
    onlyRegs [Reg.ovrStat, Reg.agcCtl 0, Reg.agcCtl 1, Reg.agcCtl 2, Reg.agcCtl 3] (s.modSamp (fun _ => t.samp)) t) ∧
  (∀ s (p : Fin 4) (k : Fin 3), s.runs = true → s.free? .samp = true → s.agcF p (1 + k.val) 1 = 1 → s.agcManual p = false → answers (.sentinelFreeze p k) s fun t =>
    t.samp = { s.samp with agc := upd s.samp.agc p (fun a => { a with frozen := some 0, frozenTile := true }) } ∧ t.agcFrozen p = true ∧
    onlyRegs [Reg.ovrStat, Reg.agcCtl 0, Reg.agcCtl 1, Reg.agcCtl 2, Reg.agcCtl 3] (s.modSamp (fun _ => t.samp)) t) ∧
  (∀ s (p : Fin 4) c, (c = .sentinelRelease p ∨ (c = .freezeMaxExpiry p ∧ ∃ n, s.samp.agc[p].frozen = some n ∧
      (if s.get Fld.sampCtlFreezeMax = 0 then 24 else s.get Fld.sampCtlFreezeMax) ≤ n)) → s.runs = true → s.free? .samp = true → answers c s fun t =>
    t.samp = { s.samp with agc := upd s.samp.agc p (fun a => { a with frozen := none }) } ∧
    onlyRegs [Reg.ovrStat, Reg.agcCtl 0, Reg.agcCtl 1, Reg.agcCtl 2, Reg.agcCtl 3] (s.modSamp (fun _ => t.samp)) t) ∧
  (∀ s e, s.runs = true → s.free? .samp = true → s.samp.episode = some e → s.contamMask = 0 → answers .overloadEpisodeEnd s fun t =>
    t.samp = { s.samp with episode := none } ∧ logsOnly (s.modSamp (fun _ => t.samp)) t ∧
    (s.is Fld.sampCtlOvrRec = false → t = s.modSamp (fun q => { q with episode := none })) ∧
    (s.is Fld.sampCtlOvrRec = true → ∃ b, t = (s.modSamp (fun q => { q with episode := none })).record 0x0E (packW [(12, 1, 0), (8, 4, e.paths), (0, 8, 4)] ::
      BitVec.ofNat 32 e.events :: BitVec.ofNat 32 e.first :: BitVec.ofNat 32 e.last :: b))) ∧
  (∀ s e, s.runs = true → s.free? .samp = true → s.samp.episode = some e → answers .overloadOngoing s fun t =>
    t.samp = { s.samp with episode := none, skip := some s.tile.toNat } ∧ logsOnly (s.modSamp (fun _ => t.samp)) t ∧
    (s.is Fld.sampCtlOvrRec = true → ∃ b, t = (s.modSamp (fun q => { q with episode := none, skip := some s.tile.toNat })).record 0x0E
      (packW [(12, 1, 1), (8, 4, e.paths), (0, 8, 4)] :: BitVec.ofNat 32 e.events :: BitVec.ofNat 32 e.first :: BitVec.ofNat 32 e.last :: b)))

/-- CAPTURE_START with a PRETRIG the depth cannot hold completes BAD_DESC OPERAND; on a ring that has a capture it completes BUSY_RETRY, on one that
is not enabled CANCELLED, with the block held PEER_RESET, with its tiles retired or no tile buffer RETIRED, of an octet outside the mask BAD_DESC
0x41. Else the capture stands on its ring; MODE 0 begins with the tile in progress, PRETRIG tiles before it included. CAPTURE_STOP is noted and ends
it at the next boundary; with no capture, or one that is stopping, it completes NOT_FOUND. The next tile due goes into the next entry of the capture
ring and counts as written when there is room for it; else it is dropped and counted in the ring's drop counter and in DROPPED. With the last of COUNT
tiles the capture leaves its ring and CAPTURE_START completes OK with its counts. (R178, R203, R228, R229, R416, R417, R418, R419, R420, R421, R629,
R634) -/
def Obligations.CapturesStartWriteAndStop : Prop :=
  (∀ s d (r : Fin 4), s.runs = true → s.head = true → dueHere s 0x28 d → d.member = s.me → r = Fin.ofNat 4 (d.f 1 0 2) → answers (.captureStart d) s fun t =>
    logsOnly (s.modSamp (fun _ => t.samp)) t ∧
    (s.capGone = false → s.pretrigBad d = true → ended s t d { status := stBadDesc, detail := dtOperand } ∧ t.samp = s.samp) ∧
    ((s.capGone = true ∨ s.pretrigBad d = false) →
      ((s.samp.caps[r]).isSome = true → ended s t d { status := stBusyRetry } ∧ t.samp = s.samp) ∧
      (s.samp.caps[r] = none → s.ringOn (capRing r) = false → ended s t d { status := stCancelled } ∧ t.samp = s.samp) ∧
      (s.samp.caps[r] = none → s.ringOn (capRing r) = true → s.free? .samp = false → ended s t d { status := stPeerReset } ∧ t.samp = s.samp) ∧
      (s.samp.caps[r] = none → s.ringOn (capRing r) = true → s.free? .samp = true → (s.reqRetired 2 = true ∨ s.reqRetired 6 = true ∨ s.effDepth = none) →
        ended s t d { status := stRetired } ∧ t.samp = s.samp)) ∧
    (∀ dep, s.samp.caps[r] = none → s.ringOn (capRing r) = true → s.free? .samp = true → s.reqRetired 2 = false → s.reqRetired 6 = false → s.effDepth = some dep → d.f 1 16 5 < dep →
      (d.f 1 8 6 ∉ s.octets → ended s t d { status := stBadDesc, detail := 0x41 } ∧ t.samp = s.samp) ∧
      (d.f 1 8 6 ∈ s.octets → d.f 1 4 2 = 0 → (∀ q : Fin 4, q ≠ r → t.samp.caps[q] = s.samp.caps[q]) ∧ ∃ c, t.samp.caps[r] = some c ∧ c.d = d ∧
        c.octet = d.f 1 8 6 ∧ c.count = (d.w 2).toNat ∧ c.first = some ((s.tile.toNat + 2 ^ 32 - d.f 1 16 5) % 2 ^ 32) ∧ some c.next = c.first ∧ c.written = 0 ∧ c.dropped = 0))) ∧
  (∀ s d (r : Fin 4), s.runs = true → dueHere s 0x29 d → (s.head = true → d.member = s.me) → r = Fin.ofNat 4 (d.f 1 0 2) → answers (.captureStop d) s fun t =>
    logsOnly (s.modSamp (fun _ => t.samp)) t ∧
    (s.free? .samp = false → ended s t d { status := stPeerReset } ∧ t.samp = s.samp) ∧
    (s.free? .samp = true → s.samp.caps[r] = none → ended s t d { status := stNotFound } ∧ t.samp = s.samp) ∧
    (∀ c, s.free? .samp = true → s.samp.caps[r] = some c → c.stop.isSome = true → ended s t d { status := stNotFound } ∧ t.samp = s.samp) ∧
    (∀ c, s.free? .samp = true → s.samp.caps[r] = some c → c.stop = none → t.samp.caps[r] = some { c with stop := some d } ∧ ∀ q : Fin 4, q ≠ r → t.samp.caps[q] = s.samp.caps[q])) ∧
  (∀ s (r : Fin 4) c x seq ws, s.runs = true → s.head = true → s.samp.caps[r] = some c → c.member = s.me → c.first = some x → seq = c.next → seq ≠ s.tile.toNat →
    seqLater seq s.tile.toNat = false → c.lastDue = none → (c.count = 0 ∨ c.written + c.dropped + 1 < c.count) →
    ws = ((s.samp.tiles.find? (fun t => t.octet == c.octet && t.seq == seq)).map (·.words)).getD [] → answers (.captureTileWrite r seq []) s fun t =>
      (ws ≠ [] → s.ringOn (capRing r) = true → 0 < s.ringRoom (capRing r) → s.hif.outq = [] → s.hif.accepts = true → s.pcie.d3hot = false →
        Out.hostWrite (s.ringBase (capRing r) + s.prod (capRing r) * 4160) ws ∈ t.out ∧ t.prod (capRing r) = (s.prod (capRing r) + 1) % s.ringSize (capRing r) % 2 ^ 16 ∧
        t.samp.caps[r] = some { c with next := (c.next + 1) % 2 ^ 32, last := seq, written := c.written + 1 } ∧ logsOnly (s.modSamp (fun _ => t.samp)) t) ∧
      (ws = [] ∨ s.ringRoom (capRing r) = 0 → t.get (Fld.hifDropCntCount (capRing r).val) = (s.get (Fld.hifDropCntCount (capRing r).val) + 1) % 2 ^ 32 ∧
        t.samp.caps[r] = some { c with next := (c.next + 1) % 2 ^ 32, last := seq, dropped := c.dropped + 1 } ∧ t.out = s.out ∧
        logsOnly (s.modSamp (fun _ => t.samp)) t)) ∧
  (∀ s (r : Fin 4) c x seq, s.runs = true → s.head = true → s.samp.caps[r] = some c → c.member = s.me → c.first = some x → seq = c.next → seq ≠ s.tile.toNat → seqLater seq s.tile.toNat = false →
    c.count = c.written + c.dropped + 1 → s.samp.tiles = [] → tellable s c.d → answers (.captureTileWrite r seq []) s fun t =>
      t.samp.caps[r] = none ∧ ended s t c.d { status := stOK, r0 := BitVec.ofNat 32 c.written, r1 := BitVec.ofNat 32 (c.dropped + 1)
                                              r2 := BitVec.ofNat 32 ((x + c.pretrig) % 2 ^ 32), r3 := BitVec.ofNat 32 seq })

/-- CAL_RUN waits for its round and, where rounds start and none runs or is triggered, triggers one for four tiles on; with the block held it
completes PEER_RESET. The round starts once that tile has come: at the head with the items of EN and the trigger's cause, or those that a waiting
CAL_RUN asks for, over the paths in RX that are not frozen; a member of a Lace takes cause, items and mask from the head; before the tile nothing
starts. In the solve tile the head adds an owner's sums and waits for the others; with the last it has its own values. A member takes the values the
head sends. A coefficient written notes the sensor's temperature and acts from the tile of R395; at that boundary the registers of its path are the
set in use. A CAL_RUN that waits completes TIMEOUT. (R178, R428, R433, R434, R435, R436, R438, R439, R450, R451, R452, R455) -/
def Obligations.CalibrationRoundsAndWrites : Prop :=
  (∀ s d, s.runs = true → dueHere s 0x40 d → (s.head = true → d.member = s.me) → answers (.calRun d) s fun t =>
    (s.free? .cal = false → ended s t d { status := stPeerReset } ∧ logsOnly s t) ∧
    (s.free? .cal = true → s.calLeads = true → s.cal.round = none → s.cal.trigger = none →
      t.cal = { s.cal with waiting := s.cal.waiting ++ [d], trigger := some ((s.tile.toNat + 4) % 2 ^ 32, 2) } ∧ t.get Fld.calStatPhase = 1 ∧ t.out = s.out ∧
      logsAnd [Reg.calStat] (s.modCal (fun _ => t.cal)) t) ∧
    (s.free? .cal = true → (s.calLeads = false ∨ s.cal.round.isSome = true ∨ s.cal.trigger.isSome = true) →
      t.cal = { s.cal with waiting := s.cal.waiting ++ [d] } ∧ t.out = s.out ∧ logsOnly (s.modCal (fun _ => t.cal)) t)) ∧
  (∀ s cause items mask, s.runs = true → s.free? .cal = true → s.cal.round = none → s.calLeads = false → answers (.calRoundStart cause items mask) s fun t =>
    (∃ r, t.cal.round = some r ∧ r.first = s.tile.toNat ∧ r.items = items ∧ r.paths = s.roundPaths mask ∧ r.cause = cause ∧ r.solving = false) ∧ t.cal.runs = s.cal.waiting ∧
    t.cal.waiting = [] ∧ t.cal.trigger = none ∧ t.get Fld.calStatPhase = 2 ∧ onlyFields [Fld.calStatPhase] (s.modCal (fun _ => t.cal)) t) ∧
  (∀ s x c cause items mask, s.runs = true → s.free? .cal = true → s.cal.round = none → s.calLeads = true → s.cal.trigger = some (x, c) → s.tileAt x = true →
    s.is Fld.calCtlSlotted = false → answers (.calRoundStart cause items mask) s fun t =>
      (∃ r, t.cal.round = some r ∧ r.first = s.tile.toNat ∧ r.paths = s.roundPaths 15 ∧ r.solving = false ∧
        (s.cal.waiting = [] → r.items = s.get Fld.calCtlEn ∧ r.cause = c) ∧ (∀ d, s.cal.waiting = [d] → d.f 1 0 4 ≠ 0 → r.items = d.f 1 0 4 ∧ r.cause = 2)) ∧
      t.cal.runs = s.cal.waiting ∧ t.cal.trigger = none ∧ t.get Fld.calStatPhase = 2 ∧ logsAnd [Reg.calStat] (s.modCal (fun _ => t.cal)) t) ∧
  (∀ s x c cause items mask, s.runs = true → s.free? .cal = true → s.calLeads = true → s.cal.trigger = some (x, c) → s.tileAt x = false → answers (.calRoundStart cause items mask) s fun t => t = s) ∧
  (∀ s r o sums, s.runs = true → s.free? .cal = true → s.head = true → s.cal.round = some r → r.solving = true → o ∈ r.owners → r.owners.filter (· != o) ≠ [] → answers (.calSumsReceive o sums) s fun t =>
    t = s.modCal (fun c => { c with round := some { r with sums := sums.foldl addSum r.sums, owners := r.owners.filter (· != o) } })) ∧
  (∀ s r o sums, s.runs = true → s.free? .cal = true → s.head = true → s.cal.round = some r → r.solving = true → o ∈ r.owners → r.owners.filter (· != o) = [] → answers (.calSumsReceive o sums) s fun t =>
    (∃ q, t.cal.round = some q ∧ q.sums = sums.foldl addSum r.sums ∧ q.owners = [] ∧ q.values = some (s.calValues q s.me)) ∧ logsOnly (s.modCal (fun _ => t.cal)) t) ∧
  (∀ s r vs, s.runs = true → s.free? .cal = true → s.head = false → s.cal.round = some r → r.solving = true → answers (.calValuesReceive vs) s fun t =>
    t = s.modCal (fun c => { c with round := some { r with values := some vs } })) ∧
  (∀ s p (x : Fin 4) (i : Fin 6) w, served s p (Reg.calDcI x.val + 4 * i.val) → s.cal.round = none → answers (.calCoeffWrite p x i w) s fun t =>
    t.get ⟨Reg.calDcI x.val + 4 * i.val, 0, if i.val < 2 then 20 else 16⟩ = getF w 0 (if i.val < 2 then 20 else 16) ∧
    t.rd (Reg.calLastTemp x.val) = packW [(31, 1, 1), (0, 16, s.get (Fld.tempTemp (x.val + 2)))] ∧
    t.cal = { s.cal with paths := upd s.cal.paths x (fun c => { c with writeAt := some (c.writeAt.getD s.maskTile) }) } ∧
    onlyRegs [Reg.calDcI x.val + 4 * i.val, Reg.calLastTemp x.val] (s.modCal (fun _ => t.cal)) t) ∧
  (∀ s (x : Fin 4) peaks stats sums, s.alive = true → s.clk.synced = true → s.clk.refLost = false → s.pst ≠ 3 → s.cal.round = none →
    s.cal.paths[x].writeAt = some ((s.tile.toNat + 1) % 2 ^ 32) → answers (.tileBoundary peaks stats sums) s fun t =>
      t.cal.paths[x].use = s.regSet x ∧ t.cal.paths[x].writeAt = none) ∧
  (∀ s d, s.runs = true → s.free? .cal = true → d ∈ s.cal.waiting → tellable s d → answers (.calRunTimeout d) s fun t =>
    t.cal = { s.cal with waiting := s.cal.waiting.filter (· != d) } ∧ ended s t d { status := stTimeout } ∧ logsOnly (s.modCal (fun _ => t.cal)) t)

/-- Losing the external input sets EXT_LOST and HOLDOVER and fades the running masters; its return ends holdover. A change of FAMILY with the ADPLL
running gates it: every enabled master is silent with an empty FIFO, and one whose FSEL is not of the new family stops with CFG_ERR. SRC 0 stops it:
LOCK, GATED and HOLDOVER read 0; another input of the same family only ends holdover. The audio frame count advances by one at each boundary; an
output from its start frame on takes its frames from its FIFO (not with audio output retired). A trigger of the kind TRIG names, by GO or by its ball,
gives every output that waits the next frame, or the one after when that is too near, and sets STARTED; at that frame an armed output starts at full
level or with its ramp, and one whose FIFO is short starts silent. (R327, R329, R330, R515, R530, R531, R542, R543, R544, R545) -/
def Obligations.AudioClocksAndTheCommonStart : Prop :=
  (∀ s, s.alive = true → 2 ≤ s.audSrc → s.is Fld.clkAudStatHoldover = false → s.is Fld.clkAudStatLock = true → answers .audioExtLost s fun t =>
    t.is Fld.clkAudStatExtLost = true ∧ t.is Fld.clkAudStatHoldover = true ∧ t.is Fld.clkAudStatLock = true ∧
    (∀ o : Fin 4, t.outSt o = if s.outMaster o = true ∧ (s.outSt o).en = true ∧ (s.outSt o).run = 3 then
      { s.outSt o with why := 4, silent := 0, fader := s.fadeOut (s.outSt o).fader } else s.outSt o) ∧
    logsAnd (Reg.clkAudStat :: audRegs) (s.modAud (fun _ => t.aud)) t) ∧
  (∀ s, s.alive = true → s.is Fld.clkAudStatHoldover = true → answers .audioHoldoverExit s fun t =>
    t.is Fld.clkAudStatHoldover = false ∧ onlyFields [Fld.clkAudStatHoldover] (s.modAud (fun a => { a with holdOut := some 0 })) t) ∧
  (∀ s p w, served s p Reg.clkAudCtl → getF w 0 3 ≤ 5 → getF w 0 3 ≠ 0 → s.audSrc ≠ 0 → (getF w 8 1 == 1) ≠ s.audFamily → answers (.audioFamilyChange p w) s fun t =>
    t.audFamily = (getF w 8 1 == 1) ∧ t.audSrc = getF w 0 3 ∧ t.is Fld.clkAudStatGated = true ∧ t.is Fld.clkAudStatLock = false ∧ t.is Fld.clkAudStatHoldover = false ∧ t.aud.gated = true ∧
    (∀ o : Fin 4, s.outMaster o = false ∨ (s.outSt o).en = false → t.outSt o = s.outSt o) ∧
    (∀ o : Fin 4, s.outMaster o = true → (s.outSt o).en = true → famOk (getF w 8 1 == 1) (s.outFsel o) = true →
      (t.outSt o).fill = 0 ∧ (t.outSt o).fader = faderOff ∧ ((s.outSt o).run = 3 → (s.outSt o).why ≠ 7 → (t.outSt o).why = 5)) ∧
    (∀ o : Fin 4, s.outMaster o = true → (s.outSt o).en = true → famOk (getF w 8 1 == 1) (s.outFsel o) = false →
      (t.outSt o).run = 0 ∧ (t.outSt o).why = 7 ∧ t.is (cfgErr o) = true)) ∧
  (∀ s p w, served s p Reg.clkAudCtl → getF w 0 3 = 0 → s.audSrc ≠ 0 → answers (.audioSrcChange p w) s fun t =>
    t.audSrc = 0 ∧ t.is Fld.clkAudStatLock = false ∧ t.is Fld.clkAudStatGated = false ∧ t.is Fld.clkAudStatHoldover = false ∧ t.aud.gated = true ∧
    onlyRegs (Reg.clkAudCtl :: Reg.clkAudStat :: audRegs) (s.modAud (fun _ => t.aud)) t) ∧
  (∀ s p w, served s p Reg.clkAudCtl → getF w 0 3 ≤ 5 → getF w 0 3 ≠ 0 → getF w 0 3 ≠ s.audSrc → (getF w 8 1 == 1) = s.audFamily → answers (.audioSrcChange p w) s fun t =>
    t.audSrc = getF w 0 3 ∧ t.is Fld.clkAudStatHoldover = false ∧ t.is Fld.clkAudStatLock = s.is Fld.clkAudStatLock ∧ onlyRegs [Reg.clkAudCtl, Reg.clkAudStat] s t) ∧
  (∀ s flows, s.alive = true → answers (.audioFrameBoundary flows) s fun t => t.clk.audFrame = (s.clk.audFrame + 1) % 2 ^ 32 ∧ t.clk.arm = s.clk.arm ∧ t.tile = s.tile ∧
    (∀ o : Fin 4, s.runs = true → s.free? .aud = true → s.outEn o = true → (s.outSt o).en = true → (s.outSt o).run = 3 → (s.outSt o).why = 0 → s.outMaster o = true → s.aud.gated = false →
      s.reqRetired 3 = false → s.aud.holdOut = none → (t.outSt o).fill = min 2048 ((s.outSt o).fill + (flows.getD o.val ⟨0, 0⟩).come) - s.outMult o ∧ (t.outSt o).run = 3)) ∧
  (∀ s p w (near : Bool) (o : Fin 4), served s p Reg.audStartCtl → getF w 4 2 = 0 → getF w 8 1 = 1 → (s.outSt o).run = 1 → (s.outSt o).armed = true → answers (.audStartGo p w near) s fun t =>
    t.is Fld.audStartCtlStarted = true ∧ t.is Fld.audStartCtlGo = true ∧ t.get Fld.audStartCtlTrig = 0 ∧ t.get Fld.audStartCtlArm = getF w 0 4 ∧
    (∀ q : Fin 4, t.outSt q = if (s.outSt q).run = 1 then { s.outSt q with run := 2, startAt := some ((s.clk.audFrame + if near then 2 else 1) % 2 ^ 32) } else s.outSt q) ∧
    onlyRegs audRegs (s.modAud (fun _ => t.aud)) t) ∧
  (∀ s (near : Bool) (o : Fin 4), s.runs = true → s.free? .aud = true → s.get Fld.audStartCtlTrig = 1 → (s.outSt o).run = 1 → answers (.audStartBall near) s fun t =>
    t.is Fld.audStartCtlStarted = true ∧
    (∀ q : Fin 4, t.outSt q = if (s.outSt q).run = 1 then { s.outSt q with run := 2, startAt := some ((s.clk.audFrame + if near then 2 else 1) % 2 ^ 32) } else s.outSt q) ∧
    onlyRegs audRegs (s.modAud (fun _ => t.aud)) t) ∧
  (∀ s (near : Bool), s.runs = true → s.get Fld.audStartCtlTrig ≠ 1 → answers (.audStartBall near) s fun t => t = s) ∧
  (∀ s (o : Fin 4), s.runs = true → s.free? .aud = true → (s.outSt o).run = 2 → (s.outSt o).armed = true → (s.outSt o).startAt = some s.clk.audFrame → answers .audStartFrame s fun t =>
    (t.outSt o).run = 3 ∧ (t.outSt o).startAt = none ∧ t.is Fld.audStartCtlGo = false ∧
    (1024 ≤ (s.outSt o).fill → (t.outSt o).why = 0 ∧ (t.outSt o).fader = if s.is Fld.audStartCtlRamp then s.rampIn faderOff else faderFull) ∧
    ((s.outSt o).fill < 1024 → (t.outSt o).why = 6 ∧ (t.outSt o).fader = faderOff) ∧ logsAnd audRegs (s.modAud (fun _ => t.aud)) t)

/-- A write that changes SAPn_CTL while EN is 1 is discarded with CFG_ERR; a defined one with EN 0 is taken. AUDIO_ROUTE of a pair that its port does
not have completes BAD_DESC 0x50, of a third broadcast source 0x51, with the block held PEER_RESET, with audio output retired RETIRED; on an output
that does not run it is stored; with the same input it acts at once; else the old input fades and the new one ramps in at the end of the fade. An
output whose FIFO runs short, or fills, fades with its flag, and at a fill of 1024 frames ramps in. A follower without its clock mutes; with it back
it ramps in. A new SPDO block takes a template that waits. SPDI locks after two blocks and sets RATE; loss, a non-PCM block, parity errors and invalid
samples set their bits, and more than eight erased samples fade the input. (R510, R517, R518, R520, R524, R525, R527, R529, R533, R538, R539, R540) -/
def Obligations.AudioPortsRoutesAndDigitalInput : Prop :=
  (∀ s p (n : Fin 3) w, served s p (Reg.sapCtl n.val) → getF w 2 2 ≤ 2 → getF w 4 2 ≤ 2 → answers (.sapCtlWrite p n w) s fun t =>
    (s.is (Fld.sapCtlEn n.val) = true → getF w 6 2 ≠ s.get (Fld.sapCtlFsel n.val) → t.is (Fld.sapStatCfgErr n.val) = true ∧ onlyFields [Fld.sapStatCfgErr n.val] s t) ∧
    (s.is (Fld.sapCtlEn n.val) = false → (getF w 0 1 = 1 → getF w 1 1 = 1 → famOk s.audFamily (getF w 6 2) = true ∧ s.audSrc ≠ 0) →
      t.is (Fld.sapCtlEn n.val) = (getF w 0 1 == 1) ∧ t.is (Fld.sapCtlMaster n.val) = (getF w 1 1 == 1) ∧ t.get (Fld.sapCtlFsel n.val) = getF w 6 2 ∧
      t.get (Fld.sapCtlFmt n.val) = getF w 2 2 ∧ onlyRegs [Reg.sapCtl n.val] s t)) ∧
  (∀ s d (o p : Fin 4), s.runs = true → dueHere s 0x50 d → (s.head = true → d.member = s.me) → o = Fin.ofNat 4 (d.f 1 0 3) → p = Fin.ofNat 4 (d.f 1 4 2) → answers (.audioRoute d) s fun t =>
    logsOnly (s.modAud (fun _ => t.aud)) t ∧
    (s.free? .aud = false → ended s t d { status := stPeerReset } ∧ t.aud = s.aud) ∧
    (s.free? .aud = true → s.reqRetired 3 = true → ended s t d { status := stRetired } ∧ t.aud = s.aud) ∧
    (s.free? .aud = true → s.reqRetired 3 = false → o ≠ spdo → p ≠ 0 → s.get (Fld.sapCtlFmt o.val) ≠ 2 → ended s t d { status := stBadDesc, detail := 0x50 } ∧ t.aud = s.aud) ∧
    (s.free? .aud = true → s.reqRetired 3 = false → (o = spdo ∨ p = 0 ∨ s.get (Fld.sapCtlFmt o.val) = 2) →
      (2 < (s.carried o p (routeOf d).input).length → ended s t d { status := stBadDesc, detail := 0x51 } ∧ t.aud = s.aud) ∧
      ((s.carried o p (routeOf d).input).length ≤ 2 → (s.outSt o).runs = false → (t.outSt o).routes[p] = ⟨routeOf d, faderFull⟩ ∧ ended s t d { status := stOK }) ∧
      ((s.carried o p (routeOf d).input).length ≤ 2 → (s.outSt o).runs = true → (s.outSt o).queue = [] → (s.outSt o).routes[p].fader.mode ≠ 2 →
        (s.outSt o).routes[p].cur.input = (routeOf d).input → (s.outSt o).routes[p].cur.inPair = (routeOf d).inPair →
        (t.outSt o).routes[p] = { (s.outSt o).routes[p] with cur := routeOf d } ∧ ended s t d { status := stOK, r0 := BitVec.ofNat 32 s.clk.audFrame }) ∧
      ((s.carried o p (routeOf d).input).length ≤ 2 → (s.outSt o).runs = true → (s.outSt o).queue = [] → (s.outSt o).routes[p].cur.input ≠ (routeOf d).input →
        (t.outSt o).queue = [(d, p.val, routeOf d)] ∧ (t.outSt o).routes[p] = { (s.outSt o).routes[p] with fader := s.fadeOut (s.outSt o).routes[p].fader } ∧ t.out = s.out))) ∧
  (∀ s (o p : Fin 4) d r, s.runs = true → s.free? .aud = true → (s.outSt o).queue = [(d, p.val, r)] → (s.outSt o).routes[p].fader.mode = 0 → tellable s d → s.is Fld.audFadeCfgRec = false →
    answers (.audioRouteRampStart o) s fun t => (t.outSt o).routes[p] = ⟨r, s.rampIn faderOff⟩ ∧ (t.outSt o).queue = [] ∧
      ended s t d { status := stOK, r0 := BitVec.ofNat 32 s.clk.audFrame } ∧ logsOnly (s.modAud (fun _ => t.aud)) t) ∧
  (∀ s (x : Fin 6) (o : Fin 4), x.val = o.val → s.runs = true → s.free? .aud = true → (s.outSt o).runs = true → (s.outSt o).why = 0 → answers (.audioUnderrun x) s fun t =>
    ((s.outSt o).fill ≤ s.fadeLen → (s.outSt o).fader.mode ≠ 2 → (t.outSt o) = { s.outSt o with why := 1, silent := 0, fader := s.fadeOut (s.outSt o).fader } ∧
      (o ≠ spdo → t.is (Fld.sapStatUnderrun o.val) = true) ∧ (∀ q : Fin 4, q ≠ o → t.outSt q = s.outSt q) ∧ logsAnd audRegs (s.modAud (fun _ => t.aud)) t) ∧
    (s.fadeLen < (s.outSt o).fill → t = s)) ∧
  (∀ s (x : Fin 6) (o : Fin 4), x.val = o.val → s.runs = true → s.free? .aud = true → (s.outSt o).runs = true → (s.outSt o).why = 0 → answers (.audioOverrun x) s fun t =>
    (2048 ≤ (s.outSt o).fill → (t.outSt o) = { s.outSt o with why := 2, silent := 0, fader := s.fadeOut (s.outSt o).fader } ∧
      (o ≠ spdo → t.is (Fld.sapStatOverrun o.val) = true) ∧ (∀ q : Fin 4, q ≠ o → t.outSt q = s.outSt q) ∧ logsAnd audRegs (s.modAud (fun _ => t.aud)) t) ∧
    ((s.outSt o).fill < 2048 → t = s)) ∧
  (∀ s (x : Fin 6) (o : Fin 4), x.val = o.val → s.runs = true → s.free? .aud = true → (s.outSt o).run = 3 → (s.outSt o).fader.mode = 0 → 1024 ≤ (s.outSt o).fill → s.reqRetired 3 = false →
    ((s.outSt o).why = 1 ∨ (s.outSt o).why = 2 ∨ (s.outSt o).why = 6) → answers (.audioResume x) s fun t =>
      (t.outSt o) = { s.outSt o with why := 0, silent := 0, fill := if (s.outSt o).why = 2 then 1024 else (s.outSt o).fill, fader := s.rampIn faderOff } ∧
      (∀ q : Fin 4, q ≠ o → t.outSt q = s.outSt q) ∧ logsAnd audRegs (s.modAud (fun _ => t.aud)) t) ∧
  (∀ s (n : Fin 3) bclk, s.runs = true → s.free? .aud = true → s.outMaster (Fin.ofNat 4 n.val) = false → (s.outSt (Fin.ofNat 4 n.val)).en = true → (s.outSt (Fin.ofNat 4 n.val)).why ≠ 3 →
    answers (.followerClockLost n bclk) s fun t => t.outSt (Fin.ofNat 4 n.val) = { s.outSt (Fin.ofNat 4 n.val) with why := 3, silent := 0, fill := 1024, fader := faderOff } ∧
      t.is (Fld.sapStatClkLost n.val) = true ∧ t.is (Fld.sapStatMuted n.val) = true ∧ logsAnd audRegs (s.modAud (fun _ => t.aud)) t) ∧
  (∀ s (n : Fin 3), s.runs = true → s.free? .aud = true → (s.outSt (Fin.ofNat 4 n.val)).why = 3 → answers (.followerClockBack n) s fun t =>
    t.outSt (Fin.ofNat 4 n.val) = { s.outSt (Fin.ofNat 4 n.val) with
      why := 0, silent := 0, fader := if (s.outSt (Fin.ofNat 4 n.val)).run = 3 then s.rampIn faderOff else faderOff } ∧
    t.is (Fld.sapStatMuted n.val) = false ∧ logsAnd audRegs (s.modAud (fun _ => t.aud)) t) ∧
  (∀ s, s.runs = true → s.free? .aud = true → (s.outSt spdo).en = true → 192 ≤ s.aud.block → s.aud.gated = false → answers .spdoBlockStart s fun t =>
    t.aud.block = 0 ∧ (s.aud.loadNext = false → t = s.modAud (fun a => { a with block := 0 })) ∧
    (s.aud.loadNext = true → t.aud.active = (List.range 6).map (fun i => s.rd (Reg.spdoCs i)) ∧ t.aud.loadNext = false ∧ t.is Fld.spdoCtlCsLoad = false ∧
      (∀ d, s.aud.region = some d → tellable s d → ended s t d { status := stOK }))) ∧
  (∀ s p w, served s p Reg.spdoCtl → s.is Fld.spdoCtlEn = true → getF w 4 2 = s.get Fld.spdoCtlFsel → getF w 8 1 = 1 → answers (.spdoCsLoad p w) s fun t =>
    t.is Fld.spdoCtlCsLoad = true ∧ t.aud = { s.aud with loadNext := true } ∧ t.is Fld.spdoCtlEn = (getF w 0 1 == 1) ∧ onlyRegs [Reg.spdoCtl] (s.modAud (fun _ => t.aud)) t) ∧
  (∀ s (cs : BitVec 16) (v : Bool), s.runs = true → s.free? .aud = true → s.is Fld.spdiCtlEn = true → answers (.spdiBlock cs v) s fun t =>
    t.aud.spdiBlocks = s.aud.spdiBlocks + 1 ∧ (s.is Fld.spdiStatLock = false → t = s.modAud (fun a => { a with spdiBlocks := a.spdiBlocks + 1 })) ∧
    (s.is Fld.spdiStatLock = true → t.get Fld.spdiStatCs = cs.toNat ∧ t.is Fld.spdiStatValid = v ∧ t.is Fld.spdiStatNonpcm = (s.is Fld.spdiStatNonpcm && tb cs.toNat 1)) ∧
    onlyRegs [Reg.spdiStat] (s.modAud (fun _ => t.aud)) t) ∧
  (∀ s (rate : Fin 8), s.runs = true → s.free? .aud = true → s.is Fld.spdiCtlEn = true → s.is Fld.spdiStatLock = false → 2 ≤ s.aud.spdiBlocks → rate ≠ 0 → answers (.spdiLock rate) s fun t =>
    t.is Fld.spdiStatLock = true ∧ t.get Fld.spdiStatRate = rate.val ∧ logsAnd [Reg.spdiStat] (s.modAud (fun _ => t.aud)) t) ∧
  (∀ s, s.runs = true → s.free? .aud = true → s.is Fld.spdiStatLock = true → answers .spdiLoss s fun t =>
    t.is Fld.spdiStatLock = false ∧ t.is Fld.spdiStatLost = true ∧ t.get Fld.spdiStatRate = 0 ∧ t.aud.spdiBlocks = 0 ∧ logsAnd [Reg.spdiStat] (s.modAud (fun _ => t.aud)) t) ∧
  (∀ s, s.runs = true → s.free? .aud = true → s.is Fld.spdiStatLock = true → s.is Fld.spdiStatNonpcm = false → tb (s.get Fld.spdiStatCs) 1 = true → answers .spdiNonpcm s fun t =>
    t.is Fld.spdiStatNonpcm = true ∧ t.aud.ins[(1 : Fin 2)].fader = s.fadeOut s.aud.ins[(1 : Fin 2)].fader ∧ logsAnd [Reg.spdiStat] (s.modAud (fun _ => t.aud)) t) ∧
  (∀ s (par : Bool), s.runs = true → s.free? .aud = true → s.is Fld.spdiStatLock = true → (par = true ∨ s.is Fld.spdiCtlIgnoreV = false) → answers (.spdiErasure par) s fun t =>
    t.is (if par then Fld.spdiStatParErr else Fld.spdiStatBadV) = true ∧ t.aud.ins[(1 : Fin 2)].fresh = true ∧
    t.aud.ins[(1 : Fin 2)].erased = s.aud.ins[(1 : Fin 2)].erased + (if s.aud.ins[(1 : Fin 2)].fresh then 0 else 1) ∧
    (8 < t.aud.ins[(1 : Fin 2)].erased → t.aud.ins[(1 : Fin 2)].fader = s.fadeOut s.aud.ins[(1 : Fin 2)].fader) ∧ onlyRegs [Reg.spdiStat] (s.modAud (fun _ => t.aud)) t)

/-- BCST_SELECT with the block held completes PEER_RESET, other than OFF with tile requests retired RETIRED; during a switch of its source it waits;
OFF empties the source and completes OK; on the background path it completes BAD_DESC 0x49, where the service is not covered 0x48; else the source has
the service, the path and the descriptor that waits for reception. Without it in time the select completes TIMEOUT and the source is OFF. While they
are not retired first audio ramps in, and ends an FM select without a PI OK. An RDS block goes to each covered source of its station and to nothing
else; block A counts its PI. Readings set level, Q and pilot. The third null symbol in a row synchronises, the fourth missing one loses it; a frame's
FIBs and audio frames are counted; a service that a reconfiguration removes is gone. DATACAST_SUBSCRIBE sets its slot or clears it. (R458, R459, R461,
R462, R465, R466, R468, R472, R473, R475, R499, R502) -/
def Obligations.BroadcastSourcesAreSelectedAndHeard : Prop :=
  (∀ s d (i p : Fin 4), s.runs = true → dueHere s 0x18 d → (s.head = true → d.member = s.me) → i = Fin.ofNat 4 (d.f 1 0 2) → p = Fin.ofNat 4 (d.f 1 12 2) → answers (.bcstSelect d) s fun t =>
    (s.free? .bcst = false → ended s t d { status := stPeerReset } ∧ logsOnly s t) ∧
    (s.free? .bcst = true → s.reqRetired 5 = true → d.f 1 8 2 ≠ 0 → ended s t d { status := stRetired } ∧ logsOnly s t) ∧
    (s.free? .bcst = true → (s.reqRetired 5 = false ∨ d.f 1 8 2 = 0) → State.switching (s.src i) = true → t.bcst = { s.bcst with srcs := upd s.bcst.srcs i (fun q => { q with waits := q.waits ++ [d] }) } ∧ t.out = s.out ∧
      logsOnly (s.modBcst (fun _ => t.bcst)) t) ∧
    (s.free? .bcst = true → (s.reqRetired 5 = false ∨ d.f 1 8 2 = 0) → State.switching (s.src i) = false →
      (d.f 1 8 2 = 0 → (s.src i).select = none → t.src i = { sourceReset with waits := (s.src i).waits } ∧ (∀ j : Fin 4, j ≠ i → t.src j = s.src j) ∧
        ended s t d { status := stOK } ∧ logsOnly (s.modBcst (fun _ => t.bcst)) t) ∧
      (d.f 1 8 2 ≠ 0 → s.bgEn = true → p = s.bgPath → ended s t d { status := stBadDesc, detail := 0x49 } ∧ logsOnly s t) ∧
      (d.f 1 8 2 = 1 → s.bgEn = false → d.f 1 16 1 = 0 → s.covered p (s.loNow p) 1 (d.w 2).toNat = false → ended s t d { status := stBadDesc, detail := 0x48 } ∧ logsOnly s t) ∧
      (d.f 1 8 2 = 1 → s.bgEn = false → d.f 1 16 1 = 0 → s.covered p (s.loNow p) 1 (d.w 2).toNat = true → (s.src i).select = none →
        (t.src i).srv = ⟨1, (d.w 2).toNat, (d.w 3).toNat, 0⟩ ∧ (t.src i).path = p ∧ (t.src i).mask = (d.w 4).toNat ∧ (t.src i).select = some d ∧ (t.src i).tuned = true ∧
        (t.src i).audio = false ∧ (∀ j : Fin 4, j ≠ i → t.src j = s.src j) ∧ t.out = s.out ∧ logsOnly (s.modBcst (fun _ => t.bcst)) t))) ∧
  (∀ s (i : Fin 4) d, s.runs = true → s.free? .bcst = true → (s.src i).select = some d → tellable s d → answers (.bcstSelectTimeout i) s fun t =>
    t.src i = { sourceReset with waits := (s.src i).waits } ∧ 
      ended s t d { status := stTimeout, r0 := BitVec.ofNat 32 ((s.radio.paths[(s.src i).path].cleanAt).getD s.tile.toNat), r1 := packW [(16, 16, s.srcIdent (s.src i)), (0, 8, s.srcQ (s.src i))] } ∧ logsOnly (s.modBcst (fun _ => t.bcst)) t) ∧
  (∀ s (i : Fin 4), s.runs = true → s.free? .bcst = true → s.reqRetired 5 = false → (s.src i).srv.mode = 1 → (s.src i).tuned = true → (s.src i).audio = false → s.srcCovered (s.src i) = true →
    s.cleanEnded (s.src i).path = true → (s.src i).sw = none → answers (.fmAudioReady i) s fun t =>
      logsOnly (s.modBcst (fun _ => t.bcst)) t ∧
      ((s.src i).select = none → t = s.modSrc i (fun q => { q with audio := true, fader := s.rampIn q.fader })) ∧
      (∀ d, (s.src i).select = some d → (s.src i).srv.id = 0 → tellable s d → (t.src i).select = none ∧ (t.src i).audio = true ∧ ∃ r0 r1, ended s t d { status := stOK, r0 := r0, r1 := r1 })) ∧
  (∀ s (i : Fin 4), s.runs = true → s.free? .bcst = true → s.reqRetired 5 = false → (s.src i).srv.mode = 2 → (s.src i).tuned = true → (s.src i).audio = false → s.srcCovered (s.src i) = true →
    s.bcst.dab[(s.src i).path].sync = true → s.bcst.dab[(s.src i).path].has (s.src i).srv.id (s.src i).srv.scids = true → (s.src i).sw = none → answers (.dabAudioReady i) s fun t =>
      t = s.modSrc i (fun q => { q with audio := true, fader := s.rampIn q.fader })) ∧
  (∀ s (p : Fin 4) f (k : Fin 5) info corr, s.runs = true → s.free? .bcst = true → s.reqRetired 5 = false → s.bgEn = false → k ≠ 0 → (∀ i : Fin 4, ((s.src i).rds.block k.val info corr).2 = none) →
    answers (.rdsBlock p f k info corr) s fun t => { t with bcst := s.bcst } = s ∧ t.bcst.dab = s.bcst.dab ∧
      (∀ i : Fin 4, t.src i = if (s.src i).srv.mode = 1 ∧ (s.src i).path = p ∧ (s.src i).srv.freq = f ∧ s.srcCovered (s.src i) = true then
        { s.src i with rds := ((s.src i).rds.block k.val info corr).1 } else s.src i)) ∧
  (∀ s (p i : Fin 4) f info corr, s.runs = true → s.free? .bcst = true → s.reqRetired 5 = false → corr ≤ 5 → (s.src i).srv.mode = 1 → (s.src i).path = p → (s.src i).srv.freq = f → s.srcCovered (s.src i) = true →
    (s.src i).sw = none → (s.src i).select = none → answers (.rdsBlock p f 0 info corr) s fun t =>
      (t.src i).right = (s.src i).right + (if info = (s.src i).srv.id then 1 else 0) ∧ (t.src i).wrong = (s.src i).wrong + (if info = (s.src i).srv.id then 0 else 1)) ∧
  (∀ s (m : BcstMeter), s.runs = true → s.free? .bcst = true → s.reqRetired 5 = false → s.bgEn = false → answers (.bcstMeterUpdate [m]) s fun t => { t with bcst := s.bcst } = s ∧
    (∀ i : Fin 4, t.src i = if (s.src i).srv.mode ≠ 0 ∧ (s.src i).path = m.path ∧ (s.src i).srv.freq = m.freq ∧ s.samp.agc[m.path].stale = false then
      { s.src i with level := m.level, stereo := m.stereo, qual := fmQuality m.level (min 40 m.mp) } else s.src i)) ∧
  (∀ s (p : Fin 4), s.runs = true → s.free? .bcst = true → s.reqRetired 5 = false → s.dabOn p = true → s.pathRx p = true → answers (.dabNullSymbol p) s fun t =>
    t.bcst.dab[p].nulls = s.bcst.dab[p].nulls + 1 ∧ t.bcst.dab[p].missing = 0 ∧ t.bcst.dab[p].sync = (s.bcst.dab[p].sync || decide (3 ≤ s.bcst.dab[p].nulls + 1)) ∧
    logsOnly (s.modBcst (fun _ => t.bcst)) t) ∧
  (∀ s (p : Fin 4), s.runs = true → s.free? .bcst = true → answers (.dabNullSymbolAbsent p) s fun t =>
    t.bcst.dab[p].nulls = 0 ∧ t.bcst.dab[p].sync = (s.bcst.dab[p].sync && decide (s.bcst.dab[p].missing + 1 < 4)) ∧
    (s.bcst.dab[p].sync = false → t.bcst.dab[p].missing = s.bcst.dab[p].missing + 1) ∧ logsOnly (s.modBcst (fun _ => t.bcst)) t) ∧
  (∀ s (p : Fin 4) fibs bad all, s.runs = true → s.free? .bcst = true → s.reqRetired 5 = false → s.dabOn p = true → s.bcst.dab[p].sync = true → s.pathRx p = true →
    fibs.foldl (fun n ok => if ok then 0 else n + 1) s.bcst.dab[p].badRun < 40 → answers (.dabFrame p fibs bad all []) s fun t =>
      t.bcst.dab[p] = { s.bcst.dab[p] with fibs := (((fibs.filter (!·)).length, fibs.length) :: s.bcst.dab[p].fibs).take 20
                                           auds := ((bad, all) :: s.bcst.dab[p].auds).take 20
                                           badRun := fibs.foldl (fun n ok => if ok then 0 else n + 1) s.bcst.dab[p].badRun } ∧
      logsOnly (s.modBcst (fun _ => t.bcst)) t) ∧
  (∀ s (p i : Fin 4) cif, s.runs = true → s.free? .bcst = true → s.reqRetired 5 = false → (s.src i).srv.mode = 2 → (s.src i).path = p → s.bcst.dab[p].sync = true →
    s.bcst.dab[p].has (s.src i).srv.id (s.src i).srv.scids = true → answers (.dabReconfig p cif []) s fun t =>
      (t.src i).gone = true ∧ (t.src i).audio = false ∧ t.bcst.dab[p].has (s.src i).srv.id (s.src i).srv.scids = false ∧ logsOnly (s.modBcst (fun _ => t.bcst)) t) ∧
  (∀ s d, s.runs = true → dueHere s 0x1A d → answers (.datacastSubscribe d) s fun t =>
    (s.free? .bcst = false → ended s t d { status := stPeerReset } ∧ logsOnly s t) ∧
    (s.free? .bcst = true → d.f 1 8 2 = 0 → t.bcst = { s.bcst with subs := upd s.bcst.subs (Fin.ofNat 8 (d.f 1 0 3)) (fun _ => none) } ∧ ended s t d { status := stOK } ∧
      logsOnly (s.modBcst (fun _ => t.bcst)) t) ∧
    (s.free? .bcst = true → d.f 1 8 2 = 1 → (d.w 2).toNat = 0 → s.bgEn = false →
      let e : Subscription := ⟨1, Fin.ofNat 4 (d.f 1 12 2), 0, d.f 3 0 16, d.f 4 0 4⟩
      t.bcst = { s.bcst with subs := upd s.bcst.subs (Fin.ofNat 8 (d.f 1 0 3)) (fun _ => some e) } ∧ ended s t d { status := stOK, r0 := BitVec.ofNat 32 (b2n (s.subLocated e)) } ∧
      logsOnly (s.modBcst (fun _ => t.bcst)) t))

/-- BCST_FOLLOW with nothing to follow ends following and completes OK; with a synthesiser that other paths take it completes BAD_DESC 0x49; else the
source follows as the operands say. An evaluation takes over a candidate list that waits and completes its update OK; a source that does not follow
only ages by 100 ms. At its confirmation time a switch whose service is right is confirmed; another returns to the old service and its candidate is
barred; the bar expires. An announcement of DAB ends by a switch of the audio with cause 6. A probe retunes the background path to a DAB candidate
that is due for it, and its end leaves the confirmed quality of the service when the FIC showed it. (R461, R481, R483, R484, R485, R486, R488, R489,
R492, R503) -/
def Obligations.ServicesAreFollowedAndSwitched : Prop :=
  (∀ s d (i : Fin 4), s.runs = true → dueHere s 0x19 d → (s.head = true → d.member = s.me) → i = Fin.ofNat 4 (d.f 1 0 2) → answers (.bcstFollow d) s fun t =>
    (s.free? .bcst = false → ended s t d { status := stPeerReset } ∧ logsOnly s t) ∧
    (s.free? .bcst = true → d.f 1 4 3 = 0 → d.f 1 16 11 = 0 →
      t.bcst = { s.bcst with srcs := upd s.bcst.srcs i (fun q => { q with follow := none }) } ∧ ended s t d { status := stOK } ∧ logsOnly (s.modBcst (fun _ => t.bcst)) t) ∧
    (s.free? .bcst = true → d.f 1 4 1 = 1 → (∃ p ∈ s.takers (s.pathLo (s.src i).path), p ≠ (s.src i).path) → ended s t d { status := stBadDesc, detail := 0x49 } ∧ logsOnly s t) ∧
    (s.free? .bcst = true → d.f 1 4 1 = 1 → (∀ p ∈ s.takers (s.pathLo (s.src i).path), p = (s.src i).path) → s.bgEn = false →
      ended s t d { status := stOK } ∧ (t.src i).lowMs = 0 ∧ logsOnly (s.modBcst (fun _ => t.bcst)) t ∧ (∀ j : Fin 4, j ≠ i → t.src j = s.src j) ∧
      ∃ f, (t.src i).follow = some f ∧ f.annMask = d.f 1 16 11 ∧ f.af = true ∧ f.link = (d.f 1 5 1 == 1) ∧ f.region = (d.f 1 6 1 == 1) ∧ f.soft = (d.f 1 7 1 == 1) ∧
        f.low = d.f 2 0 7 ∧ f.hyst = d.f 2 8 7 ∧ f.prefer = sgn 8 (d.f 2 16 8) ∧ f.hold = (if d.f 3 0 16 = 0 then 2000 else d.f 3 0 16))) ∧
  (∀ s d l, s.runs = true → s.free? .bcst = true → s.bcst.listNext = some (d, l) → tellable s d → answers .followEvaluate s fun t =>
    t.bcst.list = l ∧ t.bcst.listNext = none ∧ ended s t d { status := stOK }) ∧
  (∀ s, s.runs = true → s.free? .bcst = true → s.bcst.listNext = none → (∀ i : Fin 4, (s.src i).follow = none) → answers .followEvaluate s fun t =>
    { t with bcst := s.bcst } = s ∧ t.bcst.list = s.bcst.list ∧
    (∀ i : Fin 4, t.src i = { s.src i with switchMs := (s.src i).switchMs + 100, probeMs := (s.src i).probeMs + 100, trialMs := (s.src i).trialMs + 100 })) ∧
  (∀ s (i : Fin 4) w, s.runs = true → s.free? .bcst = true → (s.src i).sw = some w → 3 ≤ w.stage → w.cause ≠ 7 → w.isAnn = false → w.new.mode = 1 → answers (.switchConfirmTimeout i) s fun t =>
    { t with bcst := s.bcst } = s ∧ (∀ j : Fin 4, j ≠ i → t.src j = s.src j) ∧
    (w.trial = false ∨ 2 ≤ w.right → (t.src i).sw = (if w.stage = 5 then none else some { w with right := 2 }) ∧ t.bcst.bars = s.bcst.bars) ∧
    (w.trial = true → w.right < 2 → t.bcst.bars = (i.val, w.new.mode, w.new.freq) :: s.bcst.bars ∧
      ∃ v, (t.src i).sw = some v ∧ v.stage = 1 ∧ v.cause = 7 ∧ v.old = w.new ∧ v.new = w.old)) ∧
  (∀ s (i : Fin 4) m f, s.runs = true → s.free? .bcst = true → answers (.afBarExpiry i m f) s fun t => t = s.modBcst (fun b => { b with bars := b.bars.filter (· != (i.val, m, f)) })) ∧
  (∀ s (i : Fin 4) a, s.runs = true → s.free? .bcst = true → (s.src i).srv.mode = 2 → (s.src i).ann = some a → answers (.announcementTimeout i) s fun t =>
    (t.src i).ann = none ∧ (t.src i).fader = s.fadeOut (s.src i).fader ∧ (∃ w, (t.src i).sw = some w ∧ w.cause = 6 ∧ w.stage = 1 ∧ w.asw = a.flags) ∧
    (∀ j : Fin 4, j ≠ i → t.src j = s.src j) ∧ logsOnly (s.modBcst (fun _ => t.bcst)) t) ∧
  (∀ s (i : Fin 4) f freq id sc c, s.runs = true → s.free? .bcst = true → s.reqRetired 5 = false → s.bgEn = true → s.bcst.probe = none → (s.src i).follow = some f → f.probe ≤ (s.src i).probeMs →
    State.switching (s.src i) = false → c ∈ s.candidates i → c.mode = 2 → c.freq = freq → c.id = id → answers (.dabProbe i freq id sc) s fun t =>
      t.bcst.probe = some (i.val, ⟨2, freq, id, sc⟩) ∧ (t.src i).probeMs = 0 ∧ t.bcst.dab[s.bgPath] = dabReset ∧ t.bcst.list = s.bcst.list) ∧
  (∀ s q i c, s.runs = true → s.free? .bcst = true → s.bcst.probe = some (i, c) → answers (.dabProbeEnd q) s fun t =>
    t.bcst.probe = none ∧ t.bcst.dab[s.bgPath] = dabReset ∧
    ((∃ sc co su ra la, DabFact.service c.id sc co su ra la ∈ s.bcst.dab[s.bgPath].facts) →
      ∃ k, t.bcst.cands.head? = some k ∧ k.mode = 2 ∧ k.freq = c.freq ∧ k.id = c.id ∧ k.qual = min 100 q ∧ k.confMs = some 0))

/-- A burst that the owner hears in an open set or an implicit window, with at most two errors in its sync word, counts CRC_FAIL when short or with a
wrong CRC; a version other than 1, no TAG key and a wrong MAC count VER_FAIL, NO_KEY and MAC_FAIL; a copy of one verified within 20 ms sends no
candidate; any other verified one becomes a candidate, dropped when 4096 wait. Handled in order while no region 6 update runs: a new crate takes the
lowest free entry with GEN 1, a later SEQ updates its entry to the next GEN, an older one counts as replay, the same burst again does nothing; an
accepted one is recorded as SIGHTING and its MAC acknowledged. Implicit windows open and close; an ACK MAC leaves after its time. (R570, R574, R575,
R576, R577, R578, R579, R730, R734, R736, R737, R744) -/
def Obligations.TagBurstsAreVerifiedAndTheirCandidatesJudged : Prop :=
  (∀ s e m k bytes rssi beam cyc f b ch sb, s.runs = true → s.free? .tag = true → s.chanEntry e = some (f, b) → chanOf b f = some ch → allPaths.findSome? (fun p => s.hears p f) = some sb →
    answers (.tagBurst e m k bytes rssi beam cyc) s fun t =>
      let sets := if tb (s.get Fld.tagChanMaskMask) e then s.openSets e m else []
      let here := s.octetOwner (sb / 8) = s.me ∧ s.reqRetired 5 = false ∧ k ≤ 2 ∧ (sets ≠ [] ∨ ∃ w ∈ s.tag.windows, w.chan = ch ∧ w.mode = m)
      let fr := dewhiten (bytes.take 22)
      let good := 22 ≤ bytes.length ∧ crc16 (fr.take 20) = beNat (fr.drop 20)
      let pool := beNat ((fr.drop 2).take 2)
      let serial := beNat ((fr.drop 4).take 4)
      let seq := beNat ((fr.drop 13).take 3)
      let mac := beNat ((fr.drop 16).take 4)
      let again := ∃ h ∈ s.tag.heard, h.pool = pool ∧ h.serial = serial ∧ h.seq = seq ∧ h.mac = mac ∧ near20 h s.tile.toNat cyc = true
      let key := s.svc.keys.find? (fun q => q.pool == pool && q.use == 0 && q.keyid == beNat (fr.take 2) / 128 % 8)
      let seen := t.tag.sets = s.tag.sets.map (fun o => if sets.contains o.set then { o with crc := o.crc + 1 } else o)
      let tel := s.flt.telem
      (¬ here → t = s) ∧
      (here → ¬ good → t = s.modTelem (fun x => { x with crcFail := satAdd (2 ^ 32 - 1) x.crcFail 1 })) ∧
      (here → good →
        logsOnly ((s.modTag (fun _ => t.tag)).modSvc (fun _ => t.svc)) t ∧
        (beNat (fr.take 2) / 4096 ≠ 1 → seen ∧ t.svc = s.svc ∧ t.flt.telem = { tel with verFail := satAdd 65535 tel.verFail 1 }) ∧
        (beNat (fr.take 2) / 4096 = 1 → key = none → seen ∧ t.svc = s.svc ∧ t.flt.telem = { tel with noKey := satAdd 65535 tel.noKey 1 }) ∧
        (∀ q, beNat (fr.take 2) / 4096 = 1 → key = some q → cmac32 q.key (fr.take 16) ≠ mac →
          t.tag.sets = s.tag.sets.map (fun o => if sets.contains o.set then { o with crc := o.crc + 1, macFail := o.macFail + 1 } else o) ∧ t.svc = s.svc ∧
          t.flt.telem = { tel with macFail := satAdd (2 ^ 32 - 1) tel.macFail 1 }) ∧
        (∀ q, beNat (fr.take 2) / 4096 = 1 → key = some q → cmac32 q.key (fr.take 16) = mac → again → seen ∧ t.svc = s.svc ∧ t.flt = s.flt ∧ t.tag.heard = s.tag.heard) ∧
        (∀ q, beNat (fr.take 2) / 4096 = 1 → key = some q → cmac32 q.key (fr.take 16) = mac → ¬ again →
          seen ∧ t.tag.heard.head? = some ⟨pool, serial, seq, mac, s.tile.toNat, cyc⟩ ∧ (s.head = false → t.svc = s.svc) ∧
          (s.head = true → 4096 ≤ s.svc.cands.length → t.svc = s.svc ∧ t.flt.telem = { tel with candDrop := satAdd 65535 tel.candDrop 1 }) ∧
          (s.head = true → s.svc.cands.length < 4096 → ∃ c, t.svc = { s.svc with cands := s.svc.cands ++ [c] } ∧ c.pool = pool ∧ c.serial = serial ∧ c.seq = seq ∧ c.mac = mac ∧
            c.side = beNat ((fr.drop 8).take 5) ∧ c.keyid = q.keyid ∧ c.rssi = rssi ∧ c.beam = beam ∧ c.band = b ∧ c.channel = ch ∧ c.mode = m ∧ c.owner = s.me ∧
            c.tile = s.tile.toNat ∧ c.sets = sets)))) ∧
  (∀ s (c : Candidate), s.runs = true → s.head = true → answers (.candidateReceive c) s fun t =>
    (s.svc.cands.length < 4096 → t = s.modSvc (fun v => { v with cands := v.cands ++ [c] })) ∧
    (4096 ≤ s.svc.cands.length → t = s.modTelem (fun x => { x with candDrop := satAdd 65535 x.candDrop 1 }))) ∧
  (∀ s c rest cut bad, s.runs = true → s.head = true → s.svc.cands = c :: rest → s.hif.regions[6].running.isSome = true → answers (.candidateHandle cut bad) s fun t => t = s) ∧
  (∀ s c rest cut bad, s.runs = true → s.head = true → s.svc.cands = c :: rest → s.hif.regions[6].running.isSome = false → answers (.candidateHandle cut bad) s fun t =>
    t.svc.cands = rest ∧
    (s.is Fld.svcCtlEn = false → t = (s.modSvc (fun v => { v with cands := rest })).modTelem (fun x => { x with candDrop := satAdd 65535 x.candDrop 1 })) ∧
    (s.is Fld.svcCtlEn = true → s.svcStopped = true → t = s.modSvc (fun v => { v with cands := rest })) ∧
    (s.is Fld.svcCtlEn = true → s.svcStopped = false → cut < 2 →
      (s.crate c.pool c.serial = none → (s.is Fld.svcCtlAddNew = false ∨ s.rosterCap ≤ s.svc.roster.length) → t.svc.roster = s.svc.roster ∧
        t.tag.acks = s.tag.acks ++ [⟨c.band, c.channel, c.mac, 0⟩] ∧ (recordable s 0x01 → recorded t 0x01 [BitVec.ofNat 32 c.serial, packW [(16, 16, c.pool)]])) ∧
      (∀ n, s.crate c.pool c.serial = none → s.is Fld.svcCtlAddNew = true → s.svc.roster.length < s.rosterCap → s.freeEntry = some n →
        t.tag.acks = s.tag.acks ++ [⟨c.band, c.channel, c.mac, 0⟩] ∧ (recordable s 0x01 → recorded t 0x01 [BitVec.ofNat 32 c.serial, packW [(16, 16, c.pool), (0, 16, n)]]) ∧
        ∃ e, t.svc.roster = Sparse.insert s.svc.roster n e ∧ ew e 0 = BitVec.ofNat 32 c.serial ∧ entryGen e = 1 ∧ entryFlag e flVALID = true ∧ ew e 3 = packW [(24, 3, c.keyid), (0, 24, c.seq)] ∧
          ew e 4 = BitVec.ofNat 32 c.mac ∧ (entryFlag e flRECALLED = true ↔ s.recallHits c.pool c.serial ≠ [])) ∧
      (∀ n e, bad = false → s.crate c.pool c.serial = some (n, e) → c.seq = getF (ew e 3) 0 24 → c.mac = (ew e 4).toNat → t = s.modSvc (fun v => { v with cands := rest })) ∧
      (∀ n e, bad = false → s.crate c.pool c.serial = some (n, e) → seq24Later c.seq (getF (ew e 3) 0 24) = false → (c.seq ≠ getF (ew e 3) 0 24 ∨ c.mac ≠ (ew e 4).toNat) →
        t.svc.roster = s.svc.roster ∧ t.tag.acks = s.tag.acks ∧ t.out = s.out ∧ t.flt.telem.replays = satAdd (2 ^ 32 - 1) s.flt.telem.replays 1) ∧
      (∀ n e, bad = false → s.crate c.pool c.serial = some (n, e) → seq24Later c.seq (getF (ew e 3) 0 24) = true →
        t.tag.acks = s.tag.acks ++ [⟨c.band, c.channel, c.mac, 0⟩] ∧
        (recordable s 0x01 → entryFlag e flMUTE = false → s.get Fld.svcCtlAggS = 0 → recorded t 0x01 [BitVec.ofNat 32 c.serial, packW [(16, 16, c.pool), (0, 16, n)]]) ∧
        ∃ x, t.svc.roster = Sparse.insert s.svc.roster n x ∧ ew x 0 = ew e 0 ∧ ew x 2 = BitVec.ofNat 32 (nextGen (entryGen e)) ∧ ew x 3 = packW [(24, 3, c.keyid), (0, 24, c.seq)] ∧
          ew x 4 = BitVec.ofNat 32 c.mac ∧ entryFlag x flMUTE = entryFlag e flMUTE ∧ (entryFlag x flRECALLED = true ↔ s.recallHits c.pool c.serial ≠ [])))) ∧
  (∀ s band ch mac, s.runs = true → s.free? .tag = true → answers (.ackMacExpiry band ch mac) s fun t =>
    t = s.modTag (fun x => { x with acks := x.acks.eraseP (fun a => a.band == band && a.channel == ch && a.mac == mac) })) ∧
  (∀ s ch m mine, s.runs = true → s.free? .tag = true → (mine = true → ∃ b, s.tag.cur = some b ∧ b.stage = 5) → answers (.implicitWindowOpen ch m mine) s fun t =>
    t = s.modTag (fun x => { x with windows := x.windows ++ [⟨ch, m, mine⟩] })) ∧
  (∀ s ch m mine, s.runs = true → s.free? .tag = true → answers (.implicitWindowClose ch m mine) s fun t =>
    t = s.modTag (fun x => { x with windows := x.windows.erase ⟨ch, m, mine⟩ }))

/-- TAG_BEACON is turned down in the order of R591 (held, DETAIL 0x58 to 0x5B, RETIRED, BUSY_RETRY under protection, DUTY_EXCEEDED, BUSY_RETRY 0x5D
with eight held), else it waits and its sends are reserved. The next request in order is served: LOT is brought to its channel, or it ends when the
channel is gone or LOT is retired. A channel judged free may be granted; a busy one waits and is judged again, and at the last try the series ends
BUSY_RETRY 0x5C, NO_RESPONSE when a send was made, dropped and counted for an action. An answered send completes OK, the last unanswered one
NO_RESPONSE, any other leads to a gap and the next send. Grants leave the duty window after 3600 s. TAG_LISTEN is turned down held, with EN 0, without
its set; else it opens at one boundary 100 us away; its close completes at once and the set closes at the next boundary. (R570, R572, R573, R581,
R582, R584, R585, R586, R587, R588, R589, R591) -/
def Obligations.BeaconsAndListenWindowsRunToTheirEnds : Prop :=
  (∀ s d hear, s.runs = true → dueHere s 0x12 d → (s.head = true → d.member = s.me) → answers (.tagBeacon d hear) s fun t =>
    let c := d.f 1 16 5
    let m := d.f 1 12 2
    let n := d.f 1 24 8
    (s.free? .tag = false → ended s t d { status := stPeerReset } ∧ logsOnly s t) ∧
    (s.free? .tag = true →
      (s.is Fld.tagCtlEn = false → ended s t d { status := stBadDesc, detail := 0x58 } ∧ logsOnly s t) ∧
      (∀ f b, s.is Fld.tagCtlEn = true → s.chanEntry c = some (f, b) →
        (tb (s.get Fld.tagChanMaskMask) c = false → ended s t d { status := stBadDesc, detail := 0x59 } ∧ logsOnly s t) ∧
        (tb (s.get Fld.tagChanMaskMask) c = true → b ≠ s.get Fld.tagBandBand → ended s t d { status := stBadDesc, detail := 0x5A } ∧ logsOnly s t) ∧
        (tb (s.get Fld.tagChanMaskMask) c = true → b = s.get Fld.tagBandBand → hear = false → (∀ p : Fin 4, s.hears p f = none) →
          ended s t d { status := stBadDesc, detail := 0x5B } ∧ logsOnly s t)) ∧
      (s.beaconJudge c hear = none →
        (s.loRetired loT = true ∨ s.reqRetired 5 = true → ended s t d { status := stRetired } ∧ logsOnly s t) ∧
        (s.loRetired loT = false → s.reqRetired 5 = false →
          (s.lotBarred = true → ended s t d { status := stBusyRetry } ∧ logsOnly s t) ∧
          (s.lotBarred = false → s.get Fld.tagDutyBudgetMs < s.dutyUsed + n * s.sendCost c m → ended s t d { status := stDutyExceeded } ∧ logsOnly s t) ∧
          (s.lotBarred = false → s.dutyUsed + n * s.sendCost c m ≤ s.get Fld.tagDutyBudgetMs → 8 ≤ s.beaconsHeld →
            ended s t d { status := stBusyRetry, detail := 0x5D } ∧ logsOnly s t) ∧
          (s.lotBarred = false → s.dutyUsed + n * s.sendCost c m ≤ s.get Fld.tagDutyBudgetMs → s.beaconsHeld < 8 →
            logsAnd [Reg.tagDutyUsed] (s.modTag (fun _ => t.tag)) t ∧ t.out = s.out ∧ t.tag.reserved = s.tag.reserved + n * s.sendCost c m ∧
            t.get Fld.tagDutyUsedUsed = t.dutyUsed % 2 ^ 22 ∧
            ∃ b, t.tag.queue = s.tag.queue ++ [b] ∧ b.d = some d ∧ b.words = [d.w 1, d.w 2, d.w 3] ∧ b.left = n ∧ b.made = 0 ∧ b.onAir = s.sendCost c m))))) ∧
  (∀ s b rest, s.runs = true → s.free? .tag = true → s.tag.cur = none → s.tag.queue = b :: rest → answers .beaconServe s fun t =>
    (∀ d, b.d = some d → s.chanEntry b.chan = none → tellable s d → t.tag.cur = none ∧ t.tag.queue = rest ∧ ended s t d { beaconResult b stBadDesc with detail := 0x59 }) ∧
    (∀ d f k, b.d = some d → s.chanEntry b.chan = some (f, k) → s.loRetired loT = true → tellable s d → t.tag.cur = none ∧ t.tag.queue = rest ∧ ended s t d (beaconResult b stRetired)) ∧
    (∀ f k, s.chanEntry b.chan = some (f, k) → s.loRetired loT = false → s.lotBarred = false → t.tag.cur = some { b with stage := 1, tries := 0 } ∧ t.tag.queue = rest ∧
      (s.lotReady f = true → { t with tag := s.tag } = s) ∧
      (s.loState loT < stSynth → s.radio.los[loT].queue = [] → s.radio.los[loT].run = none →
        onlyRegs [Reg.loFreq 4, Reg.loCtl 4, Reg.loStat 4] ((s.modTag (fun _ => t.tag)).modRadio (fun _ => t.radio)) t ∧ t.is (Fld.loStatBusy 4) = true ∧
        ∃ r, t.radio.los[loT].run = some r ∧ r.req = .send f ∧ r.freq = f ∧ r.next = s.loState loT + 1))) ∧
  (∀ s b power count, s.runs = true → s.free? .tag = true → s.tag.cur = some b → b.stage = 2 → count ≠ 0 → answers (.lbtJudge power count) s fun t =>
    let busy := lbtBusy (if s.get Fld.tagCtlLbtThresh = 0 then 90 else s.get Fld.tagCtlLbtThresh) power count
    let tries := if s.get Fld.tagCtlLbtTries = 0 then 4 else s.get Fld.tagCtlLbtTries
    (busy = false → t = s.modTag (fun x => { x with cur := some { b with stage := 4 } })) ∧
    (busy = true → b.tries + 1 < tries → t = s.modTag (fun x => { x with cur := some { b with stage := 3, tries := b.tries + 1 } })) ∧
    (busy = true → tries ≤ b.tries + 1 → t.tag.cur = none ∧ t.tag.reserved = s.tag.reserved - b.left * b.onAir ∧ logsAnd [Reg.tagDutyUsed] (s.modTag (fun _ => t.tag)) t ∧
      (∀ d, b.d = some d → tellable s d → ended s t d (if b.made = 0 then { beaconResult b stBusyRetry with detail := 0x5C } else beaconResult b stNoResponse)) ∧
      (b.d = none → t.get Fld.tagDutyUsedRefused = satAdd 255 (s.get Fld.tagDutyUsedRefused) 1 ∧ t.out = s.out))) ∧
  (∀ s b, s.runs = true → s.free? .tag = true → s.tag.cur = some b → answers .lbtRetryWait s fun t =>
    (b.stage = 3 → t = s.modTag (fun x => { x with cur := some { b with stage := 1 } })) ∧ (b.stage ≠ 3 → t = s)) ∧
  (∀ s b crc acc, s.runs = true → s.free? .tag = true → s.tag.cur = some b → b.stage = 5 → s.radio.tx = none → answers (.beaconDecision crc acc) s fun t =>
    t.tag.cur = none ∧
    (b.answered = true ∨ 0 < crc → t.tag.gaps = s.tag.gaps ∧ t.tag.reserved = s.tag.reserved - b.left * b.onAir ∧
      ∀ d, b.d = some d → tellable s d → ended s t d (beaconResult { b with crc := b.crc + crc, accepted := b.accepted + acc } stOK)) ∧
    (b.answered = false → crc = 0 → b.left = 0 ∨ b.cancelled = true → t.tag.gaps = s.tag.gaps ∧ t.tag.reserved = s.tag.reserved - b.left * b.onAir ∧
      ∀ d, b.d = some d → tellable s d → ended s t d (beaconResult { b with accepted := b.accepted + acc } stNoResponse)) ∧
    (b.answered = false → crc = 0 → 0 < b.left → b.cancelled = false →
      t = s.modTag (fun x => { x with cur := none, gaps := x.gaps ++ [{ b with accepted := b.accepted + acc, stage := 0 }] }))) ∧
  (∀ s d b, s.runs = true → s.free? .tag = true → s.tag.gaps = [b] → b.d = some d → answers (.beaconRepeat d) s fun t =>
    t = s.modTag (fun x => { x with gaps := [], queue := x.queue ++ [b] })) ∧
  (∀ s, s.runs = true → s.free? .tag = true → answers .dutyWindowTick s fun t =>
    t.tag = { s.tag with log := (s.tag.log.map (fun e => (e.1 + 1, e.2))).filter (fun e => decide (e.1 < 3600)) } ∧ t.get Fld.tagDutyUsedUsed = t.dutyUsed % 2 ^ 22 ∧
    t.get Fld.tagDutyUsedRefused = s.get Fld.tagDutyUsedRefused ∧ onlyRegs [Reg.tagDutyUsed] (s.modTag (fun _ => t.tag)) t) ∧
  (∀ s d, s.runs = true → d.f 1 16 1 = 0 → dueHere s 0x13 d → s.head = true → answers (.tagListen d) s fun t =>
    (s.free? .tag = false → ended s t d { status := stPeerReset } ∧ logsOnly s t) ∧
    (s.free? .tag = true → s.is Fld.tagCtlEn = false → ended s t d { status := stBadDesc, detail := 0x58 } ∧ logsOnly s t) ∧
    (s.free? .tag = true → s.is Fld.tagCtlEn = true → s.listenSet (d.f 1 0 4) = none → ended s t d { status := stBadDesc, detail := dtOperand } ∧ logsOnly s t) ∧
    (s.free? .tag = true → s.is Fld.tagCtlEn = true → s.listenSet (d.f 1 0 4) ≠ none → s.reqRetired 5 = true → ended s t d { status := stRetired } ∧ logsOnly s t) ∧
    (s.free? .tag = true → s.is Fld.tagCtlEn = true → s.listenSet (d.f 1 0 4) ≠ none → s.reqRetired 5 = false →
      t.tag = { s.tag with opening := s.tag.opening ++ [(d, s.bound100)] } ∧ logsOnly (s.modTag (fun _ => t.tag)) t ∧
      ∃ x, t.findStarted d = some x ∧ x.waits = s.me :: s.others)) ∧
  (∀ s d, s.runs = true → d.f 1 16 1 = 0 → s.takes 0x13 d = true → s.head = false → s.free? .tag = true → answers (.tagListen d) s fun t =>
    t.tag = { s.tag with opening := s.tag.opening ++ [(d, (d.w 10).toNat)] } ∧ t.out = s.out ∧ logsOnly (s.modTag (fun _ => t.tag)) t) ∧
  (∀ s d, s.runs = true → d.f 1 16 1 = 1 → dueHere s 0x13 d → s.free? .tag = true → answers (.tagListenClose d) s fun t =>
    t.tag = { s.tag with sets := s.tag.sets.map (fun o => if o.set = d.f 1 0 4 then { o with closing := true } else o) } ∧ ended s t d { status := stOK } ∧
    logsOnly (s.modTag (fun _ => t.tag)) t) ∧
  (∀ s n, s.runs = true → s.free? .tag = true → answers (.tagListenDurationEnd n) s fun t =>
    t = s.modTag (fun x => { x with sets := x.sets.map (fun o => if o.set = n then { o with closing := true } else o) }))

/-- With no debt and no self-refresh, an idle port is granted to the request of the lowest rank, a plain access with at most 128 beats and the mode of
its bank group; with debt owed nothing is granted. Beats of a plain write that are made land, each word where it belongs, and no other word changes;
after the last the port is free. At a burst boundary a plain access in BREAK_AT_BURST yields to a lower rank that waits and goes on otherwise. An
uncorrectable word ends a stitch with ECC_UNCORRECTABLE, is counted and flagged. The writes of a stitch that ends land; a cut-off lands none of a
stitch's, lets the beats of a plain access stand, is counted in ARB_HOLD_VIOL with its rank and completes HOLD_VIOLATION. (R604, R605, R616, R617,
R619, R621, R622, R623, R624, R625, R626, R627) -/
def Obligations.TheStorePortGrantsMovesAndCutsOff : Prop :=
  (∀ s a, s.alive = true → s.store.cur = none → s.store.waiting = [] → s.reqRetired a.rank = false → a.stitch = false → answers (.storeGrant [a] 0 []) s fun t =>
    (s.store.debt = 0 → s.is Fld.refreshStatSelf = false →
      t = s.modStore (fun x => { x with cur := some { a with made := 0, beats := min a.beats 128, mode := tb (s.get Fld.arbModeMode) (groupOf a.addr) } })) ∧
    (0 < s.store.debt ∨ s.is Fld.refreshStatSelf = true → t = s.modStore (fun x => { x with waiting := [{ a with made := 0 }] }))) ∧
  (∀ s a b, s.alive = true → s.store.cur = none → s.store.waiting = [] → s.reqRetired a.rank = false → s.reqRetired b.rank = false → b.rank < a.rank → b.stitch = false → s.store.debt = 0 →
    s.is Fld.refreshStatSelf = false → answers (.storeGrant [a, b] 0 []) s fun t =>
      t = s.modStore (fun x => { x with waiting := [{ a with made := 0 }]
                                        cur := some { b with made := 0, beats := min b.beats 128, mode := tb (s.get Fld.arbModeMode) (groupOf b.addr) } })) ∧
  (∀ s a d, s.alive = true → s.reqRetired a.rank = true → a.desc = some d → tellable s d → s.store.cur = none → s.store.waiting = [] → answers (.storeGrant [a] 0 []) s fun t =>
    ended s t d { status := stRetired } ∧ t.store = s.store ∧ logsOnly s t) ∧
  (∀ s a n, s.alive = true → s.store.cur = some a → a.stitch = false → a.write = true → s.store.waiting = [] → a.addr + 8 * a.beats ≤ s.storeWords → a.data.length = 8 * a.beats → a.made ≤ a.beats →
    answers (.storeGrant [] n []) s fun t =>
      let m := a.made + min n (a.beats - a.made)
      (∀ w, t.storeRead w = if a.addr + 8 * a.made ≤ w ∧ w < a.addr + 8 * m then a.data.getD (w - a.addr) 0 else s.storeRead w) ∧ { t with store := s.store } = s ∧
      t.store.waiting = [] ∧ t.store.cur = if m = a.beats then none else some { a with made := m }) ∧
  (∀ s a b n, s.alive = true → s.store.cur = some a → a.stitch = false → a.write = false → s.store.ue = [] → s.store.waiting = [b] → b.rank < a.rank → b.stitch = false → b.made = 0 →
    s.reqRetired b.rank = false → a.made + n < a.beats → s.store.debt = 0 → s.is Fld.refreshStatSelf = false → answers (.storeGrant [] n []) s fun t =>
      t.store.words = s.store.words ∧ { t with store := s.store } = s ∧
      (a.mode = false → (a.made + n) % 8 = 0 → t.store.waiting = [{ a with made := a.made + n }] ∧
        t.store.cur = some { b with beats := min b.beats 128, mode := tb (s.get Fld.arbModeMode) (groupOf b.addr) }) ∧
      (a.mode = true ∨ (a.made + n) % 8 ≠ 0 → t.store.waiting = [b] ∧ t.store.cur = some { a with made := a.made + n })) ∧
  (∀ s a d, s.alive = true → s.store.cur = none → s.store.waiting = [] → s.reqRetired a.rank = false → a.stitch = true → a.desc = some d → tellable s d → 0 < a.beats →
    0 < s.get Fld.arbStitchMaxBeats → s.store.ue = [a.addr] → firstFailure s 4 (s.bankOf a.addr) → s.store.debt = 0 → s.is Fld.refreshStatSelf = false →
    answers (.storeGrant [a] 0 []) s fun t =>
      ended s t d { status := stEccUncorrectable } ∧ t.store = s.store ∧ t.is Fld.fltStatEccUe = true ∧
      t.get Fld.eccUeCntCount = (s.get Fld.eccUeCntCount + 1) % 2 ^ Fld.eccUeCntCount.width ∧ t.is Fld.fltStatFailure = true ∧ logsAnd [Reg.eccUeCnt] s t) ∧
  (∀ s a w x, s.alive = true → s.store.cur = some a → a.stitch = true → w < s.storeWords → answers (.stitchEnd [(w, x)]) s fun t =>
    t.store.cur = none ∧ t.storeRead w = x ∧ (∀ v, v ≠ w → t.storeRead v = s.storeRead v) ∧ { t with store := s.store } = s) ∧
  (∀ s a n, s.alive = true → s.store.cur = some a → firstFailure s 6 a.rank → answers (.holdCutoff n) s fun t =>
    t.store.cur = none ∧ t.get Fld.arbHoldViolLast = a.rank % 2 ^ Fld.arbHoldViolLast.width ∧ t.get Fld.arbHoldViolCount = satAdd (2 ^ Fld.arbHoldViolCount.width - 1) (s.get Fld.arbHoldViolCount) 1 ∧
    t.is Fld.fltStatHold = true ∧ (1 ≤ a.rank → a.rank ≤ 9 → tb (t.get Fld.arbHoldViolViol) (a.rank - 1) = true) ∧
    (a.stitch = true → t.store = { s.store with cur := none } ∧ logsAnd [Reg.arbHoldViol] (s.modStore (fun _ => t.store)) t ∧
      ∀ d, a.desc = some d → tellable s d → ended s t d { status := stHoldViolation }) ∧
    (a.stitch = false → a.write = true → a.addr + 8 * a.beats ≤ s.storeWords → a.data.length = 8 * a.beats → a.made + n ≤ a.beats →
      ∀ w, t.storeRead w = if a.addr + 8 * a.made ≤ w ∧ w < a.addr + 8 * (a.made + n) then a.data.getD (w - a.addr) 0 else s.storeRead w))

/-- A refresh command that falls due joins the debt, to at most 5, with its maximum in REFRESH_STAT, and none does in self-refresh; one issued lowers
the debt, none within a stitch. A corrected word written back and read clean is a transient error of its bank; read with an error that is corrected it
is a failure of its bank and counts as corrected; uncorrectable, it reads so from then on and is counted. A pass that ends is counted, flagged when
late, and the next starts at address 0 with the period then set. A bank copy that is done waits for its remap. A word of the store written reads back,
and every other word reads as before. (R604, R606, R609, R610, R611, R612, R614, R615, R630, R631, R788) -/
def Obligations.RefreshScrubAndBankMoves : Prop :=
  (∀ s, s.alive = true → answers .refreshDue s fun t =>
    (s.is Fld.refreshStatSelf = false → s.store.debt < 5 → t.store = { s.store with debt := s.store.debt + 1 } ∧
      t.get Fld.refreshStatDebtMax = max (s.get Fld.refreshStatDebtMax) (s.store.debt + 1) ∧ onlyFields [Fld.refreshStatDebtMax] (s.modStore (fun _ => t.store)) t) ∧
    (s.is Fld.refreshStatSelf = true ∨ 5 ≤ s.store.debt → t = s)) ∧
  (∀ s, s.alive = true → answers .refreshCommand s fun t =>
    ((∀ a, s.store.cur = some a → a.stitch = false) → t = s.modStore (fun x => { x with debt := x.debt - 1 })) ∧ ((∃ a, s.store.cur = some a ∧ a.stitch = true) → t = s)) ∧
  (∀ s a, s.scrubActive = true → a ∈ s.store.ce → s.retired 4 (s.bankOf a) = false → answers (.scrubWriteBack a none) s fun t =>
    t.store = { s.store with ce := s.store.ce.filter (· != a) } ∧ t.flt.telem.transient = satAdd (2 ^ 32 - 1) s.flt.telem.transient 1 ∧ t.flt.fails = s.flt.fails ∧
    t.get Fld.fltTransientCntCount = (s.get Fld.fltTransientCntCount + 1) % 2 ^ Fld.fltTransientCntCount.width ∧ logsAnd [Reg.fltTransientCnt] (s.modStore (fun _ => t.store)) t) ∧
  (∀ s a, s.scrubActive = true → a ∈ s.store.ce → firstFailure s 4 (s.bankOf a) → answers (.scrubWriteBack a (some false)) s fun t =>
    t.store = { s.store with ce := s.store.ce.filter (· != a) } ∧ t.get Fld.eccCeCntCount = (s.get Fld.eccCeCntCount + 1) % 2 ^ Fld.eccCeCntCount.width ∧
    t.is Fld.fltStatFailure = true ∧ t.flt.telem.failures = satAdd 65535 s.flt.telem.failures 1 ∧ logsAnd [Reg.eccCeCnt] (s.modStore (fun _ => t.store)) t) ∧
  (∀ s a, s.scrubActive = true → a ∈ s.store.ce → firstFailure s 4 (s.bankOf a) → answers (.scrubWriteBack a (some true)) s fun t =>
    a ∈ t.store.ue ∧ t.store.ce = s.store.ce.filter (· != a) ∧ t.store.words = s.store.words ∧ t.get Fld.eccUeCntCount = (s.get Fld.eccUeCntCount + 1) % 2 ^ Fld.eccUeCntCount.width ∧
    t.is Fld.fltStatEccUe = true ∧ t.is Fld.fltStatFailure = true ∧ logsAnd [Reg.eccUeCnt] (s.modStore (fun _ => t.store)) t) ∧
  (∀ s late, s.scrubActive = true → answers (.scrubPassEnd late) s fun t =>
    t.store = { s.store with scrubAddr := 0, scrubPeriod := s.get Fld.scrubCtlPeriod } ∧ t.get Fld.scrubStatPasses = (s.get Fld.scrubStatPasses + 1) % 2 ^ Fld.scrubStatPasses.width ∧
    t.is Fld.scrubStatLate = (s.is Fld.scrubStatLate || late) ∧ onlyRegs [Reg.scrubStat] (s.modStore (fun _ => t.store)) t) ∧
  (∀ s m, s.scrubActive = true → s.store.moves = [m] → m.step = 1 → answers .bankCopyDone s fun t => t = s.modStore (fun x => { x with moves := [{ m with step := 2 }] })) ∧
  (∀ s : State, s.scrubActive = false → (∀ a r, answers (.scrubWriteBack a r) s fun t => t = s) ∧ (∀ late, answers (.scrubPassEnd late) s fun t => t = s) ∧ answers .bankCopyDone s fun t => t = s) ∧
  (∀ (s : State) (a b : Nat) (w : Word), a < s.storeWords → (s.storeWrite a w).storeRead a = w ∧ (a ≠ b → (s.storeWrite a w).storeRead b = s.storeRead b) ∧ a ∉ (s.storeWrite a w).store.ue)

/-- EXCH_DEFINE at a head completes PEER_RESET held, EPOCH_MISMATCH, BUSY_RETRY while the slot runs, BAD_DESC 0x6B without octets, 0x68 when they do
not divide or an owner is no member, 0x69 when a window is too large; else the slot is defined and every other member is told, or alone it completes
OK with zero load. EXCH_START completes BAD_DESC 0x6A without definition, EPOCH_MISMATCH of another epoch, BUSY_RETRY while running; alone it runs at
once from START_SEQ or the boundary 100 us away, in a Lace it waits for the POSTs of the owners and the confirmations of the sources. The last POST
and the last confirmation fix the first period, or BAD_DESC 0x42 when START_SEQ is too early. EXCH_STOP completes NOT_FOUND when nothing runs, else
limits the periods. A deadline counts what was lost; that of the last period ends the exchange, EXCH_START completing OK with its counts. (R688, R689,
R690, R691, R693, R696, R698, R700, R701, R708, R709, R724) -/
def Obligations.ExchangesAreDefinedStartedAndStopped : Prop :=
  (∀ s d barred, s.runs = true → s.head = true → dueHere s 0x30 d → answers (.exchDefine d barred) s fun t =>
    let xid := d.f 1 0 2
    let var := d.f 1 4 1 == 1
    let e := s.exchMake s.samp.octets var (d.f 1 8 2)
    let epochOk := s.memberList ≠ [] ∧ (d.f 2 0 16 = 0 ∨ d.f 2 0 16 = s.epoch)
    let shared := (var = false → e.octets.length % s.memberList.length = 0) ∧ ∀ o ∈ e.octets, s.isMember (e.owners.getD o 64) = true
    let able := ∀ k ∈ s.memberList, s.cannotOwn xid barred k = false ∨ e.ownedBy k = []
    (s.free? .exch = false → ended s t d { status := stPeerReset } ∧ logsOnly s t) ∧
    (s.free? .exch = true →
      (¬ epochOk → ended s t d { status := stEpochMismatch } ∧ logsOnly s t) ∧
      (epochOk → s.exchRun xid ≠ none → ended s t d { status := stBusyRetry } ∧ logsOnly s t) ∧
      (epochOk → s.exchRun xid = none →
        (e.octets = [] → ended s t d { status := stBadDesc, detail := 0x6B } ∧ logsOnly s t) ∧
        (e.octets ≠ [] → ¬ shared → ended s t d { status := stBadDesc, detail := 0x68 } ∧ logsOnly s t) ∧
        (e.octets ≠ [] → shared → ¬ able → ended s t d { status := stRetired } ∧ logsOnly s t) ∧
        (e.octets ≠ [] → shared → able → xid = 0 → 2097152 < s.exchWindow e → ended s t d { status := stBadDesc, detail := 0x69 } ∧ logsOnly s t) ∧
        (e.octets ≠ [] → shared → able → (xid = 0 → s.exchWindow e ≤ 2097152) →
          logsAnd [Reg.exchStat] (s.modExch (fun _ => t.exch)) t ∧ t.exchDef xid = some { e with load := (s.exchLoad e xid).1, loadMember := (s.exchLoad e xid).2.1, loadLink := (s.exchLoad e xid).2.2, window := if xid = 0 then s.exchWindow e else 0 } ∧
          (xid = 0 → t.exch.def1 = s.exch.def1) ∧ (xid ≠ 0 → t.exch.def0 = s.exch.def0) ∧
          (s.others ≠ [] → ∃ x, t.findStarted d = some x ∧ x.waits = s.others) ∧
          (s.others = [] → (∀ x, s.findStarted d = some x → x.part = { status := stOK }) →
            ended s t d { status := stOK, r0 := BitVec.ofNat 32 (s.exchLoad e xid).1, r1 := packW [(8, 6, (s.exchLoad e xid).2.1), (0, 2, (s.exchLoad e xid).2.2)], r2 := BitVec.ofNat 32 (if xid = 0 then s.exchWindow e else 0), r3 := BitVec.ofNat 32 e.octets.length }))))) ∧
  (∀ s d barred, s.runs = true → s.head = false → s.takes 0x30 d = true → s.free? .exch = true → answers (.exchDefine d barred) s fun t =>
    t.exchDef (d.f 1 0 2) = some (s.exchMake ((d.w 10).toNat + (d.w 11).toNat * 2 ^ 32) (d.f 1 4 1 == 1) (d.f 1 8 2)) ∧ ended s t d { status := stOK } ∧
    logsAnd [Reg.exchStat] (s.modExch (fun _ => t.exch)) t) ∧
  (∀ s d barred addBarred, s.runs = true → s.head = true → dueHere s 0x31 d → answers (.exchStart d barred addBarred) s fun t =>
    let xid := d.f 1 0 2
    (s.free? .exch = false → ended s t d { status := stPeerReset } ∧ logsOnly s t) ∧
    (s.free? .exch = true → s.exchDef xid = none → ended s t d { status := stBadDesc, detail := 0x6A } ∧ logsOnly s t) ∧
    (∀ e, s.free? .exch = true → s.exchDef xid = some e →
      (e.epoch ≠ s.epoch → ended s t d { status := stEpochMismatch } ∧ logsOnly s t) ∧
      (e.epoch = s.epoch → s.exchRun xid ≠ none → ended s t d { status := stBusyRetry } ∧ logsOnly s t) ∧
      (e.epoch = s.epoch → s.exchRun xid = none → s.others = [] → s.memberList = [s.me] → (∀ o ∈ e.octets, e.owners.getD o 64 = s.me) → s.reqRetired 1 = false → (xid = 1 → s.addGone = false) →
        (((d.w 2).toNat = 0 ∨ seqLater s.bound100 (d.w 2).toNat = false) → t.out = s.out ∧
          ∃ r, t.exchRun xid = some r ∧ r.desc = some d ∧ r.first = some (if (d.w 2).toNat = 0 then s.bound100 else (d.w 2).toNat) ∧ r.count = (d.w 3).toNat ∧ r.sent = false) ∧
        ((d.w 2).toNat ≠ 0 → seqLater s.bound100 (d.w 2).toNat = true → t.exchRun xid = none ∧ ended s t d { status := stBadDesc, detail := 0x42 })) ∧
      (∀ ss aw, e.epoch = s.epoch → s.exchRun xid = none → barred = [] → addBarred = [] → s.reqRetired 1 = false → s.reqRetired 4 = false → s.addGone = false →
        ss = s.memberList.filter (fun m => e.mask m != 0 && e.octets.any (fun o => e.owners.getD o 64 != m)) → s.me ∈ ss → aw = e.octets.filter (fun o => e.owners.getD o 64 != s.me) → aw ≠ [] →
        logsAnd [Reg.exchStat] (s.modExch (fun _ => t.exch)) t ∧
        ∃ r, t.exchRun xid = some r ∧ r.desc = some d ∧ r.first = none ∧ r.confirms = ss ∧ r.posts = aw ∧ r.reqStart = (d.w 2).toNat ∧ r.count = (d.w 3).toNat))) ∧
  (∀ s d barred addBarred e, s.runs = true → s.head = false → d.opcode = 0x31 → s.free? .exch = true → s.exchDef (d.f 1 0 2) = some e → answers (.exchStart d barred addBarred) s fun t =>
    (∃ r, t.exchRun (d.f 1 0 2) = some r ∧ r.desc = none ∧ r.first = none ∧ r.count = (d.w 3).toNat) ∧ logsAnd [Reg.exchStat] (s.modExch (fun _ => t.exch)) t) ∧
  (∀ s xid o r, s.runs = true → s.free? .exch = true → s.exchRun xid = some r → answers (.exchPostReceive xid o) s fun t =>
    (o ∉ r.posts → t = s) ∧
    (o ∈ r.posts → r.posts ≠ [o] → t.exchRun xid = some { r with posts := r.posts.filter (· != o) } ∧ t.out = s.out) ∧
    (r.posts = [o] → s.head = false → t.exchRun xid = some { r with posts := [] } ∧ logsAnd [Reg.exchStat] (s.modExch (fun _ => t.exch)) t)) ∧
  (∀ s xid src r, s.runs = true → s.free? .exch = true → s.head = true → s.exchRun xid = some r → answers (.exchConfirmReceive xid src) s fun t =>
    (r.confirms.filter (· != src) ≠ [] → t.exchRun xid = some { r with confirms := r.confirms.filter (· != src) } ∧ t.out = s.out) ∧
    (r.confirms.filter (· != src) = [] → r.first = none →
      (r.reqStart = 0 ∨ seqLater s.bound100 r.reqStart = false → ∃ q, t.exchRun xid = some q ∧ q.confirms = [] ∧ q.first = some (if r.reqStart = 0 then s.bound100 else r.reqStart) ∧
        (0 < r.count → q.last = some (((if r.reqStart = 0 then s.bound100 else r.reqStart) + r.count - 1) % 2 ^ 32))) ∧
      (∀ d, r.reqStart ≠ 0 → seqLater s.bound100 r.reqStart = true → r.desc = some d → tellable s d → t.exchRun xid = none ∧ ended s t d { status := stBadDesc, detail := 0x42 }))) ∧
  (∀ s d, s.runs = true → s.head = true → dueHere s 0x32 d → s.free? .exch = true → answers (.exchStop d) s fun t =>
    (s.exchRun (d.f 1 0 2) = none → ended s t d { status := stNotFound } ∧ logsOnly s t) ∧
    (∀ r, s.exchRun (d.f 1 0 2) = some r → logsAnd [Reg.exchStat] (s.modExch (fun _ => t.exch)) t ∧
      ∃ q, t.exchRun (d.f 1 0 2) = some q ∧ q.stops = r.stops ++ [d] ∧ (r.last = none → q.last = some ((s.bound100 + 2 ^ 32 - 1) % 2 ^ 32)) ∧
        (∀ l, r.last = some l → q.last = some (if seqLater l ((s.bound100 + 2 ^ 32 - 1) % 2 ^ 32) then (s.bound100 + 2 ^ 32 - 1) % 2 ^ 32 else l)))) ∧
  (∀ s xid tile els r e, s.runs = true → s.free? .exch = true → s.exchRun xid = some r → s.exchDef xid = some e → answers (.exchTileDeadline xid tile els) s fun t =>
    let lost := if xid = 1 then 0 else ((e.ownedBy s.me).map (fun o => ((s.others.filter (fun m => e.mask m != 0)).filter (fun m =>
      !s.exch.landed.any (fun l => l.octet == o && l.src == m && l.tile == tile))).length)).sum
    (r.carries tile = false ∨ r.past tile = true → t = s) ∧
    (r.carries tile = true → r.past tile = false →
      t.get Fld.exchGapCntCount = (s.get Fld.exchGapCntCount + lost) % 2 ^ 32 ∧ (∀ k ∈ t.exch.kept, ¬ (k.xid = xid ∧ k.tile = tile)) ∧
      (r.last ≠ some tile → t.exchRun xid = some { r with dead := some tile, lost := r.lost + lost + els } ∧ t.out = s.out) ∧
      (r.last = some tile → t.exchRun xid = none ∧ ∀ d, r.desc = some d → tellable s d → ended s t d (exchResult { r with lost := r.lost + lost + els } stOK))))

/-- A source sends what was NACKed first, then a tile due whose window has a free slot, and keeps it until ACK or LATE; nothing due sends nothing. At
the owner a tile with a wrong residue or header check is NACKed and counted, one out of its periods is LATE, any other lands and is acknowledged. ACK
ends the keeping and tells the slots freed; NACK sends again at most twice. The owner releases a tile once its beams are made. A member's own
contribution is added in place, another's on arrival: NACKed with a wrong residue, LATE when its accumulator is closed, acknowledged and not added
when added before, else added once with saturation. An accumulator with every contribution is complete; a query is answered with the totals of POWER
and COUNT. Alone and without weights an owner forms one beam of each included path; with a block of weights as many beams as it says. (R705, R706,
R707, R708, R709, R711, R712, R713, R714, R716, R718, R720) -/
def Obligations.TilesSumsAndBeamsCrossTheExchange : Prop :=
  (∀ s, s.runs = true → s.free? .exch = true → answers .exchTileSend s fun t =>
    (s.reqRetired 4 = true → t = s) ∧
    (s.reqRetired 4 = false → s.exch.again = [] → (∀ x ∈ s.exch.todo, s.slotFree x.1 x.2 = false) → t = s) ∧
    (∀ xid o n rest k e, s.reqRetired 4 = false → s.exch.again = (xid, o, n) :: rest → s.exch.kept.find? (fun k => k.xid == xid && k.octet == o && k.tile == n) = some k → s.exchDef xid = some e →
      Out.msg { dst := e.owners.getD o 64, src := s.me, kind := 0, code := 0, tag := 0, words := k.words } ∈ t.out ∧ t.exch.again = rest ∧ { k with resent := k.resent + 1 } ∈ t.exch.kept ∧
      logsOnly (s.modExch (fun _ => t.exch)) t) ∧
    (∀ o n e x, s.reqRetired 4 = false → s.exch.again = [] → s.exch.todo.find? (fun t => s.slotFree t.1 t.2) = some (o, n) → s.exch.def0 = some e →
      s.samp.tiles.find? (fun t => t.octet == o && t.seq == n) = some x →
      Out.msg { dst := e.owners.getD o 64, src := s.me, kind := 0, code := 0, tag := 0, words := tileMsg x.words (e.mask s.me) } ∈ t.out ∧ t.exch.todo = s.exch.todo.erase (o, n) ∧
      (⟨0, o, n, 0, tileMsg x.words (e.mask s.me)⟩ : Kept) ∈ t.exch.kept ∧ logsOnly (s.modExch (fun _ => t.exch)) t)) ∧
  (∀ s src words res r e, s.runs = true → s.free? .exch = true → s.exch.run0 = some r → s.exch.def0 = some e → s.reqRetired 1 = false → e.owners.getD (getF (words.getD 1 0) 0 6) 64 = s.me →
    src ≠ s.me → e.mask src ≠ 0 → words.length = 16 + 256 * popc (e.mask src) → answers (.exchTileArrive src words res) s fun t =>
      let tile := (words.getD 0 0).toNat
      let o := getF (words.getD 1 0) 0 6
      let good := resOk words res = true ∧ ((words.take 15).foldl (fun a x => a + x.toNat) 0) % 7 = getF (words.getD 15 0) 0 3
      let rel := BitVec.ofNat 32 (((s.exch.freed.find? (·.1 == o)).map (·.2)).getD 0)
      let told (typ : Nat) := Out.msg { dst := src, src := s.me, kind := 1, code := 0, tag := 0, words := [packW [(28, 4, typ), (24, 1, 0), (0, 6, o)], BitVec.ofNat 32 tile, rel] } ∈ t.out
      (¬ good → told 3 ∧ t.exch = s.exch ∧ t.is Fld.exchStatNack = true ∧ t.get Fld.exchResFaultCntTileNack = satAdd 65535 (s.get Fld.exchResFaultCntTileNack) 1 ∧
        logsAnd [Reg.exchStat, Reg.exchResFaultCnt] s t) ∧
      (good → r.past tile = true ∨ r.carries tile = false → told 4 ∧ t.exch = s.exch ∧ t.is Fld.exchStatLate = true ∧ logsAnd [Reg.exchStat] s t) ∧
      (good → r.past tile = false → r.carries tile = true → told 2 ∧ logsOnly (s.modExch (fun _ => t.exch)) t ∧
        t.exch = { s.exch with landed := s.exch.landed.filter (fun y => !(y.octet == o && y.src == src && y.tile == tile)) ++ [⟨o, src, tile, words⟩] })) ∧
  (∀ s xid o n rel, s.runs = true → s.free? .exch = true →
    (answers (.exchAckReceive xid o n rel) s fun t => { t with exch := s.exch } = s ∧ t.exch.kept = s.exch.kept.filter (fun k => !(k.xid == xid && k.octet == o && k.tile == n)) ∧
      (xid = 0 → ∀ x, (o, x) ∈ s.exch.released → seqLater rel x = true → (o, rel) ∈ t.exch.released) ∧ (xid ≠ 0 → t.exch.released = s.exch.released)) ∧
    (answers (.exchNackReceive xid o n rel) s fun t => { t with exch := s.exch } = s ∧ t.exch.kept = s.exch.kept ∧
      (∀ k, s.exch.kept.find? (fun k => k.xid == xid && k.octet == o && k.tile == n) = some k → t.exch.again = s.exch.again ++ (if k.resent < 2 then [(xid, o, n)] else [])))) ∧
  (∀ s o n, s.runs = true → s.free? .exch = true → answers (.exchWindowRelease o n) s fun t =>
    ((∃ b ∈ s.exch.beams, b.octet = o ∧ b.tile = n) ∨ s.tileAt (n + 3) = true → s.exch.run0 ≠ none → (∀ l ∈ t.exch.landed, ¬ (l.octet = o ∧ l.tile = n)) ∧ { t with exch := s.exch } = s ∧
      (∀ x, (o, x) ∈ s.exch.freed → seqLater n x = true → (o, n) ∈ t.exch.freed)) ∧
    ((∀ b ∈ s.exch.beams, ¬ (b.octet = o ∧ b.tile = n)) → s.tileAt (n + 3) = false → t = s)) ∧
  (∀ s o n r e x, s.runs = true → s.free? .exch = true → s.exch.run1 = some r → s.exch.def1 = some e → s.samp.tiles.find? (fun t => t.octet == o && t.seq == n) = some x →
    r.carries n = true → r.past n = false → o ∈ e.octets → e.mask s.me ≠ 0 → s.reqRetired 5 = false → answers (.surveyContribution o n) s fun t =>
      let ws := surveyWords s.me o (e.mask s.me) x.words
      (e.owners.getD o 64 ≠ s.me → s.reqRetired 4 = false →
        Out.msg { dst := e.owners.getD o 64, src := s.me, kind := 0, code := 0, tag := 0, words := ws } ∈ t.out ∧ (⟨1, o, n, 0, ws⟩ : Kept) ∈ t.exch.kept ∧ logsOnly (s.modExch (fun _ => t.exch)) t) ∧
      (e.owners.getD o 64 = s.me → (∃ a ∈ s.exch.accums, a.octet = o ∧ a.tile = n ∧ (a.complete = true ∨ s.me ∈ a.added)) → t = s) ∧
      (e.owners.getD o 64 = s.me → (∀ a ∈ s.exch.accums, ¬ (a.octet = (getF (ws.getD 1 0) 0 6) ∧ a.tile = (ws.getD 0 0).toNat)) → getF (ws.getD 1 0) 0 6 = o → (ws.getD 0 0).toNat = n →
        { t with exch := s.exch } = s ∧ ∃ a, t.exch.accums.head? = some a ∧ a.octet = o ∧ a.tile = n ∧ a.added = [s.me] ∧ a.complete = false ∧ a.invalid = false ∧ a.count = satAdd32 (e.arrive == 1) 0 (ws.getD 2 0))) ∧
  (∀ s src words res r e, s.runs = true → s.free? .exch = true → s.exch.run1 = some r → s.exch.def1 = some e → s.reqRetired 1 = false → s.addGone = false →
    e.owners.getD (getF (words.getD 1 0) 0 6) 64 = s.me → e.mask src ≠ 0 → answers (.addArrival src words res []) s fun t =>
      let tile := (words.getD 0 0).toNat
      let o := getF (words.getD 1 0) 0 6
      let good := words.length = 16 ∧ resOk words res = true
      let old := s.exch.accums.find? (fun a => a.octet == o && a.tile == tile)
      let closed := r.past tile = true ∨ r.carries tile = false ∨ ∃ a, old = some a ∧ a.complete = true
      let rel := BitVec.ofNat 32 (((s.exch.freed.find? (·.1 == o)).map (·.2)).getD 0)
      let told (typ : Nat) := Out.msg { dst := src, src := s.me, kind := 1, code := 0, tag := 0, words := [packW [(28, 4, typ), (24, 1, 1), (0, 6, o)], BitVec.ofNat 32 tile, rel] } ∈ t.out
      (¬ good → told 3 ∧ t.exch = s.exch ∧ t.get Fld.exchResFaultCntTileNack = satAdd 65535 (s.get Fld.exchResFaultCntTileNack) 1) ∧
      (good → closed → told 4 ∧ t.exch = s.exch ∧ t.is Fld.exchStatLate = true) ∧
      (good → ¬ closed → (∃ a, old = some a ∧ src ∈ a.added) → told 2 ∧ t.exch = s.exch) ∧
      (good → ¬ closed → (∀ a, old = some a → src ∉ a.added) → told 2 ∧ logsOnly (s.modExch (fun _ => t.exch)) t ∧
        let a := old.getD (blankAccum o tile)
        t.exch.accums.head? = some { a with added := a.added ++ [src], count := satAdd32 (e.arrive == 1) a.count (words.getD 2 0), power := List.zipWith (satAdd32 (e.arrive == 1)) a.power (words.drop 8) })) ∧
  (∀ s o n e, s.runs = true → s.free? .exch = true → s.exch.def1 = some e → e.owners.getD o 64 = s.me → answers (.accumulatorComplete o n) s fun t =>
    let a := (s.exch.accums.find? (fun a => a.octet == o && a.tile == n)).getD (blankAccum o n)
    { t with exch := s.exch } = s ∧
    (a.complete = false → (∀ m ∈ s.memberList, e.mask m = 0 ∨ m ∈ a.added) → t.exch.accums.head? = some { a with complete := true }) ∧
    (a.complete = true → t = s) ∧ (∀ r m, s.exch.run1 = some r → r.past n = false → m ∈ s.memberList → e.mask m ≠ 0 → m ∉ a.added → t = s)) ∧
  (∀ s src tag k n, s.runs = true → s.free? .exch = true → answers (.surveyQuery src tag k n) s fun t =>
    let l := ((s.exch.accums.filter (fun a => a.octet == k / 8 && a.complete)).foldr insAccum []).take n
    let v := l.filter (fun a => !a.invalid)
    let p := (v.map (fun a => (a.power.getD (k % 8) 0).toNat + (a.power.getD (k % 8 + 1) 0).toNat)).sum
    Out.msg { dst := src, src := s.me, kind := 3, code := msgSurvey, tag := tag
              words := [BitVec.ofNat 32 p, BitVec.ofNat 32 (p >>> 32), BitVec.ofNat 32 (v.map (fun a => a.count.toNat)).sum] } ∈ t.out ∧ t.exch = s.exch ∧ logsOnly s t) ∧
  (∀ s o n, s.runs = true → s.octetOwner o = s.me → s.reqRetired 5 = false → answers (.beamform o n) s fun t =>
    { t with exch := s.exch } = s ∧ ∃ b, t.exch.beams.head? = some b ∧ b.octet = o ∧ b.tile = n ∧ (∀ x ∈ b.beams, x.2.length = 256) ∧
      (∀ x, s.others = [] → s.exch.weights = none → s.samp.tiles.find? (fun t => t.octet == o && t.seq == n) = some x →
        b.beams = (List.range 4).filterMap (fun p => if s.included x.words 15 p then
          some (p, (List.range 256).map (fun i => antennaAt x.words p (i / 32) (i % 32))) else none)) ∧
      (∀ ws bs k, s.exch.weights = some ws → beamBlocks (getF (ws.getD 0 0) 0 7) (ws.drop 1) = some bs → bs.find? (·.octet == o) = some k → b.beams.map (·.1) = List.range k.beams))

/-- ROSTER_EDIT completes RETIRED when its services are stopped, and one with an image also with host DMA retired; DELETE acts at once, CREATE and
WRITE read their image first and end BAD_DESC when that fails. CREATE of a crate that exists is STALE, with no room BAD_DESC 0x70, else it takes the
lowest free number with GEN 1, HOST, VALID and the image without its reserved bits. WRITE and DELETE of an unknown crate are NOT_FOUND, of another
generation STALE with the present one; DELETE frees the entry, WRITE changes the words of its mask and goes to the next generation. A stitch cut off
ends HOLD_VIOLATION. ROSTER_QUERY past the capacity is BAD_DESC, of an unknown crate NOT_FOUND, else the entries are written to host memory in order.
KEY_LOAD installs, replaces or erases a key; an absent one is NOT_FOUND, a 65th BAD_DESC 0x71. At the head a write of LOG2 with EN 0 empties the
roster, one with EN 1 is discarded with ENC_ERR; elsewhere it is ignored. (R734, R735, R740, R741, R742, R743, R748, R750, R751, section 18) -/
def Obligations.TheRosterIsEditedQueriedAndSized : Prop :=
  (∀ s d st, s.runs = true → s.head = true → dueHere s 0x38 d → answers (.rosterEdit d st) s fun t =>
    (s.svcStopped = true ∨ (s.reqRetired 6 = true ∧ d.f 1 0 3 ≠ 3) → ended s t d { status := stRetired } ∧ logsOnly s t) ∧
    (s.svcStopped = false →
      (s.reqRetired 6 = false → d.f 1 0 3 ≠ 3 → t.svc = { s.svc with edits := s.svc.edits ++ [d] } ∧ Out.hostRead (d.addr 5) 64 ∈ t.out ∧ logsOnly (s.modSvc (fun _ => t.svc)) t) ∧
      (∀ x, d.f 1 0 3 = 3 → st = 1 → s.crate (d.f 2 0 16) (d.w 3).toNat = some x → ended s t d { status := stHoldViolation } ∧ logsOnly s t) ∧
      (d.f 1 0 3 = 3 → s.crate (d.f 2 0 16) (d.w 3).toNat = none → ended s t d { status := stNotFound } ∧ logsOnly s t) ∧
      (∀ n e, d.f 1 0 3 = 3 → st = 0 → s.crate (d.f 2 0 16) (d.w 3).toNat = some (n, e) →
        (d.f 1 9 1 = 0 → entryGen e ≠ (d.w 4).toNat → ended s t d { status := stStale, r0 := BitVec.ofNat 32 n, r1 := ew e 2 } ∧ logsOnly s t) ∧
        (d.f 1 9 1 = 1 ∨ entryGen e = (d.w 4).toNat → ended s t d { status := stOK, r0 := BitVec.ofNat 32 n } ∧ t.svc = { s.svc with roster := Sparse.erase s.svc.roster n } ∧
          t.get Fld.svcRosterSizeCount = t.svc.roster.length % 2 ^ 18 ∧ logsAnd [Reg.svcRosterSize] (s.modSvc (fun _ => t.svc)) t)))) ∧
  (∀ s d img st, s.runs = true → d ∈ s.svc.edits → s.holds d = true → tellable s d → answers (.rosterImageReadComplete d img st) s fun t =>
    t.svc.edits = s.svc.edits.erase d ∧ logsAnd [Reg.svcRosterSize] (s.modSvc (fun _ => t.svc)) t ∧
    (img = none → ended s t d { status := stBadDesc, detail := dtDmaRead } ∧ t.svc.roster = s.svc.roster) ∧
    (∀ ws, img = some ws → st = 0 →
      (∀ x, d.f 1 0 3 = 1 → s.crate (d.f 2 0 16) (d.w 3).toNat = some x → ended s t d { status := stStale } ∧ t.svc.roster = s.svc.roster) ∧
      (d.f 1 0 3 = 1 → s.crate (d.f 2 0 16) (d.w 3).toNat = none → s.rosterCap ≤ s.svc.roster.length → ended s t d { status := stBadDesc, detail := 0x70 } ∧ t.svc.roster = s.svc.roster) ∧
      (∀ n, d.f 1 0 3 = 1 → s.crate (d.f 2 0 16) (d.w 3).toNat = none → s.svc.roster.length < s.rosterCap → s.freeEntry = some n →
        ended s t d { status := stOK, r0 := BitVec.ofNat 32 n, r1 := 1 } ∧ ∃ e, t.svc.roster = Sparse.insert s.svc.roster n e ∧ ew e 0 = d.w 3 ∧ entryPool e = d.f 2 0 16 ∧ entryGen e = 1 ∧
          entryFlag e flVALID = true ∧ entryFlag e flHOST = true ∧ entryFlag e flRECALLED = false ∧ entryFlag e flMUTE = entryFlag ws flMUTE ∧ ∀ i, 3 ≤ i → i < 16 → ew e i = ew (imageWords ws) i) ∧
      (d.f 1 0 3 = 2 → s.crate (d.f 2 0 16) (d.w 3).toNat = none → ended s t d { status := stNotFound } ∧ t.svc.roster = s.svc.roster) ∧
      (∀ n e, d.f 1 0 3 = 2 → s.crate (d.f 2 0 16) (d.w 3).toNat = some (n, e) →
        (d.f 1 9 1 = 0 → entryGen e ≠ (d.w 4).toNat → ended s t d { status := stStale, r0 := BitVec.ofNat 32 n, r1 := ew e 2 } ∧ t.svc.roster = s.svc.roster) ∧
        (d.f 1 9 1 = 1 ∨ entryGen e = (d.w 4).toNat → ended s t d { status := stOK, r0 := BitVec.ofNat 32 n, r1 := BitVec.ofNat 32 (nextGen (entryGen e)) } ∧
          ∃ x, t.svc.roster = Sparse.insert s.svc.roster n x ∧ ew x 0 = ew e 0 ∧ entryPool x = entryPool e ∧ ew x 2 = BitVec.ofNat 32 (nextGen (entryGen e)) ∧
            ∀ i, 3 ≤ i → i < 16 → ew x i = if tb (d.f 1 16 16) i then ew (imageWords ws) i else ew e i)))) ∧
  (∀ s d, s.runs = true → s.head = true → dueHere s 0x39 d → s.svcStopped = false → s.reqRetired 6 = false → answers (.rosterQuery d none) s fun t =>
    t.svc = s.svc ∧ logsOnly s t ∧
    (d.f 1 0 1 = 1 → s.rosterCap < (d.w 2).toNat + d.f 3 0 17 → ended s t d { status := stBadDesc, detail := dtOperand }) ∧
    (d.f 1 0 1 = 1 → (d.w 2).toNat + d.f 3 0 17 ≤ s.rosterCap → 0 < d.f 3 0 17 →
      ended s t d { status := stOK, r0 := BitVec.ofNat 32 (d.f 3 0 17), r1 := ew (s.entryWords (d.w 2).toNat) 2 } ∧
      ∀ i, i < d.f 3 0 17 → Out.hostWrite (d.addr 4 + 64 * i) (s.entryWords ((d.w 2).toNat + i)) ∈ t.out) ∧
    (d.f 1 0 1 = 0 → s.crate (d.f 1 16 16) (d.w 2).toNat = none → ended s t d { status := stNotFound }) ∧
    (∀ n e, d.f 1 0 1 = 0 → s.crate (d.f 1 16 16) (d.w 2).toNat = some (n, e) →
      ended s t d { status := stOK, r0 := 1, r1 := ew (s.entryWords n) 2 } ∧ Out.hostWrite (d.addr 4) (s.entryWords n) ∈ t.out)) ∧
  (∀ s d, s.runs = true → dueHere s 0x3A d → answers (.keyLoad d) s fun t =>
    let had := s.findKey (d.f 1 16 16) (d.f 1 8 2) (d.f 1 0 3)
    let kept := s.svc.keys.filter (fun k => !(k.pool == d.f 1 16 16 && k.use == d.f 1 8 2 && k.keyid == d.f 1 0 3))
    (s.head = true → d.f 1 4 1 = 1 → had = none → ended s t d { status := stNotFound } ∧ logsOnly s t) ∧
    (s.head = true → d.f 1 4 1 = 0 → had = none → 64 ≤ s.svc.keys.length → ended s t d { status := stBadDesc, detail := 0x71 } ∧ logsOnly s t) ∧
    (d.f 1 4 1 = 1 → (s.head = true → had ≠ none) → t.svc = { s.svc with keys := kept } ∧ logsOnly (s.modSvc (fun _ => t.svc)) t) ∧
    (d.f 1 4 1 = 0 → kept.length < 64 → (s.head = true → had = none → s.svc.keys.length < 64) →
      t.svc = { s.svc with keys := kept ++ [⟨d.f 1 16 16, d.f 1 8 2, d.f 1 0 3, beNat (wordsBytes [d.w 2, d.w 3, d.w 4, d.w 5])⟩] } ∧ logsOnly (s.modSvc (fun _ => t.svc)) t ∧
      (s.others = [] → (∀ x, s.findStarted d = some x → x.part = { status := stOK }) → ended s t d { status := stOK }))) ∧
  (∀ s p w, served s p Reg.svcRosterSize → (getF w 0 5 = 0 ∨ (10 ≤ getF w 0 5 ∧ getF w 0 5 ≤ 16)) → answers (.rosterSizeWrite p w) s fun t =>
    (s.head = false → t = s) ∧
    (s.head = true → s.is Fld.svcCtlEn = false → t.svc = { s.svc with roster := [] } ∧ t.get Fld.svcRosterSizeLog2 = getF w 0 5 ∧ t.get Fld.svcRosterSizeCount = 0 ∧
      onlyRegs [Reg.svcRosterSize] (s.modSvc (fun _ => t.svc)) t) ∧
    (s.head = true → s.is Fld.svcCtlEn = true → t.is Fld.topStatusEncErr = true ∧ t.svc = s.svc ∧ t.rd Reg.svcRosterSize = s.rd Reg.svcRosterSize))

/-- A unit of a subscription whose transport is located waits in its slot, a loss too; without a subscription or of another transport nothing waits.
While the services are not stopped segments are taken in order: a first one starts an object and abandons one in progress, a following one with the
next CONT and no loss extends it, another abandons it, which OBJ_ABANDON counts. A whole object with a wrong CRC is abandoned; without its key it is
reported NO_KEY, with a wrong MAC AUTH_FAIL; one not new does nothing; a recall object with NOTICE_APPLY waits for the list; one of another form is
reported. No segment for 60 s abandons the object. The oldest object that waits is applied when no region 3 update runs: RECALL_ADD inserts its
entries in order, RECALL_REMOVE takes its identifiers away, SVC_RECALL_CNT follows, and a summary is posted. (R747, R749, R752, R753, R754, R755,
R756, R757, R758, R760) -/
def Obligations.PoolNoticesAreReassembledAndApplied : Prop :=
  (∀ s (i : Fin 8) u, s.runs = true → s.free? .bcst = true → answers (.datacastUnit i u) s fun t =>
    (s.bcst.subs[i] = none ∨ s.head = false ∨ s.svcStopped = true → t = s) ∧
    (∀ e, s.bcst.subs[i] = some e → s.head = true → s.svcStopped = false → s.subLocated e = false → t = s) ∧
    (∀ e, s.bcst.subs[i] = some e → s.head = true → s.svcStopped = false → s.subLocated e = true →
      (∀ v, u = .rds v → t = if e.transport = 1 then s.modSlot i (fun q => { q with units := q.units ++ [some (v.testBit 36, v / 2 ^ 32 % 16, natBe 4 v)] }) else s) ∧
      (∀ b bs, u = .dab (b :: bs) → t = if e.transport = 2 then s.modSlot i (fun q => { q with units := q.units ++ [some (decide (128 ≤ b.toNat), b.toNat % 16, bs)] }) else s) ∧
      (u = .lost → t = s.modSlot i (fun q => { q with units := q.units ++ [none] })))) ∧
  (∀ s (i : Fin 8) rest, s.runs = true → s.svcStopped = false → (s.svc.slots[i]).units = none :: rest → answers (.noticeSegment i) s fun t => t = s.modSlot i (fun q => { q with units := rest, loss := true })) ∧
  (∀ s (i : Fin 8) c bs rest, s.runs = true → s.svcStopped = false → (s.svc.slots[i]).units = some (true, c, bs) :: rest → bs.length < 16 → answers (.noticeSegment i) s fun t =>
    t.svc = { s.svc with slots := upd s.svc.slots i (fun q => { q with units := rest, bytes := some bs, cont := c, loss := false }) } ∧
    { t with svc := s.svc, flt := s.flt } = s ∧
    t.flt.telem.objAbandon = if (s.svc.slots[i]).bytes = none then s.flt.telem.objAbandon else satAdd 65535 s.flt.telem.objAbandon 1) ∧
  (∀ s (i : Fin 8) c bs rest, s.runs = true → s.svcStopped = false → (s.svc.slots[i]).units = some (false, c, bs) :: rest → answers (.noticeSegment i) s fun t =>
    let q := s.svc.slots[i]
    (q.bytes = none → t = s.modSlot i (fun q => { q with units := rest })) ∧
    (∀ old, q.bytes = some old → (c ≠ (q.cont + 1) % 16 ∨ q.loss = true) → t.svc = { s.svc with slots := upd s.svc.slots i (fun q => { q with units := rest, bytes := none }) } ∧
      t.flt.telem.objAbandon = satAdd 65535 s.flt.telem.objAbandon 1 ∧ { t with svc := s.svc, flt := s.flt } = s) ∧
    (∀ old, q.bytes = some old → c = (q.cont + 1) % 16 → q.loss = false → (old ++ bs).length < 16 →
      t = s.modSlot i (fun q => { q with units := rest, bytes := some (old ++ bs), cont := c, loss := false })) ∧
    (∀ old, q.bytes = some old → c = (q.cont + 1) % 16 → q.loss = false → noticeHeader (old ++ bs) = true → (old ++ bs).length = 28 + noticeLen (old ++ bs) →
      let o := old ++ bs
      let len := 16 + noticeLen o
      let key := s.findKey (noticePool o) 1 (nb o 6 1)
      let rec5 (outcome : Nat) := recordable s 0x05 → recorded t 0x05 [packW [(24, 8, noticeKind o), (16, 8, outcome), (0, 3, i.val)], BitVec.ofNat 32 (noticeId o)]
      (t.svc.slots[i]).bytes = none ∧ (t.svc.slots[i]).units = rest ∧ t.svc.roster = s.svc.roster ∧ t.svc.recalls = s.svc.recalls ∧
      ((crc32 (o.take (len + 8))).toNat ≠ nb o (len + 8) 4 → t.flt.telem.objAbandon = satAdd 65535 s.flt.telem.objAbandon 1 ∧ t.out = s.out) ∧
      ((crc32 (o.take (len + 8))).toNat = nb o (len + 8) 4 → key = none → (q.told = none → rec5 ocNoKey) ∧ t.svc.ids = s.svc.ids) ∧
      (∀ k, (crc32 (o.take (len + 8))).toNat = nb o (len + 8) 4 → key = some k → cmac k.key (o.take len) / 2 ^ 64 ≠ nb o len 8 → (q.told = none → rec5 ocAuthFail) ∧ t.svc.ids = s.svc.ids) ∧
      (∀ k, (crc32 (o.take (len + 8))).toNat = nb o (len + 8) 4 → key = some k → cmac k.key (o.take len) / 2 ^ 64 = nb o len 8 →
        (isNew (s.svc.ids.find? (·.pool == noticePool o)) (noticeId o) = false → t.out = s.out ∧ t.svc.ids = s.svc.ids ∧ t.svc.notices = s.svc.notices) ∧
        (isNew (s.svc.ids.find? (·.pool == noticePool o)) (noticeId o) = true → s.is Fld.svcCtlObjBody = false →
          t.svc.ids.head? = some (takeId (s.svc.ids.find? (·.pool == noticePool o)) (noticePool o) (noticeId o)) ∧
          (noticeBodyOk o = false → rec5 ocBadFormat) ∧
          (noticeBodyOk o = true → s.is Fld.svcCtlNoticeApply = false ∨ noticeKind o = 4 → rec5 ocDelivered ∧ t.svc.notices = s.svc.notices) ∧
          (noticeBodyOk o = true → s.is Fld.svcCtlNoticeApply = true → noticeKind o = 1 ∨ noticeKind o = 2 → t.svc.notices = s.svc.notices ++ [⟨i.val, o⟩] ∧ t.out = s.out))))) ∧
  (∀ s (i : Fin 8), s.runs = true → answers (.noticeAbandonTimeout i) s fun t =>
    ((s.svc.slots[i]).bytes = none → t = s) ∧
    ((s.svc.slots[i]).bytes ≠ none → t = (s.modSlot i (fun q => { q with bytes := none })).modTelem (fun x => { x with objAbandon := satAdd 65535 x.objAbandon 1 }))) ∧
  (∀ s n rest, s.runs = true → s.svcStopped = false → s.svc.notices = n :: rest → answers .noticeRecallApply s fun t =>
    let o := n.bytes
    let mine := (bodyRecalls 512 (noticeBody o)).filter (fun e => e.pool == noticePool o)
    let rec5 (outcome applied dropped : Nat) := recordable s 0x05 → recorded t 0x05 [packW [(24, 8, noticeKind o), (16, 8, outcome), (0, 3, n.slot)], BitVec.ofNat 32 (noticeId o),
      packW [(16, 16, noticePool o), (0, 16, noticeLen o)], packW [(16, 16, applied), (0, 16, dropped)]]
    (s.hif.regions[3].running.isSome = true → t = s) ∧
    (s.hif.regions[3].running.isSome = false → t.svc.notices = rest ∧ t.get Fld.svcRecallCntCount = t.svc.recalls.length % 2 ^ 15 ∧
      logsAnd [Reg.svcRecallCnt] (s.modSvc (fun _ => t.svc)) t ∧
      (noticeKind o = 1 → s.svc.recalls.length + mine.length ≤ 16384 →
        t.svc.recalls = mine.foldl (fun l e => insRecall e l) s.svc.recalls ∧ rec5 ocApplied mine.length ((bodyRecalls 512 (noticeBody o)).length - mine.length)) ∧
      (noticeKind o ≠ 1 →
        let keep := s.svc.recalls.filter (fun e => !(e.pool == noticePool o && (bodyIds 2048 (noticeBody o)).contains e.id))
        t.svc.recalls = keep ∧ rec5 ocApplied (s.svc.recalls.length - keep.length) 0)))

/-- A state that DEEPEST admits is entered, from a shallower one through D0; nothing happens while an entry or exit runs or when it is not deeper.
With the entry complete STATE shows it and the store refreshes itself; in D2 and D3 the system ADPLL is off, in D2 links that were UP are ASLEEP, in
D3 they are DOWN and the device is out of its epoch. A lead near the exit time wakes as event 4, a host write that no longer admits the state as event
6; WAKE_IN as event 3, with a dwell, and in D4 it is noted. A wake during an entry abandons it. The return to D0 sets LAST, to D4 when it abandons an
entry there, ends self-refresh once the clock is locked, and from D2 wakes the links. DWELL_EXPIRY ends the dwell. Step 1 of a D4 entry starts from D3
when its conditions hold, step 3 loses everything but the timer and what woke; a wake abandons it; the timer's end is noted. D4_WAKE acts once a wake
is noted: the device leaves D4 with the straps sampled, every other register at its reset word, the store blank, the wake record kept, in power-on
reset until its rails are up. (R324, R782, R764, R766, R768, R771, R772, R774, R775, R776, R780, R869) -/
def Obligations.PowerStatesAreEnteredAndLeft : Prop :=
  (∀ s (k : Fin 4), s.runs = true → answers (.powerStateEntry k) s fun t =>
    (s.pwr.entry ≠ none ∨ s.pwr.exiting = true ∨ s.pwr.d4Step = true ∨ k.val ≤ s.pst ∨ s.deepest < k.val → t = s) ∧
    (s.pwr.entry = none → s.pwr.exiting = false → s.pwr.d4Step = false → k.val ≤ s.deepest →
      (s.pst = 0 → 0 < k.val → t = s.modPwr (fun p => { p with entry := some k.val })) ∧
      (0 < s.pst → s.pst < k.val → t.pst = 0 ∧ t.get Fld.pwrStateLast = s.pst ∧ t.pwr.entry = some k.val))) ∧
  (∀ s k, s.runs = true → s.pwr.entry = some k → k < 4 → answers .powerEntryComplete s fun t =>
    t.pst = k ∧ t.pwr.entry = none ∧ t.is Fld.refreshStatSelf = true ∧
    (k < 2 → onlyFields [Fld.pwrStateState, Fld.refreshStatSelf] (s.modPwr (fun _ => t.pwr)) t) ∧ (2 ≤ k → t.is Fld.clkSysStatLock = false) ∧
    (k = 2 → ∀ l : Fin 4, t.linkState l = if s.linkState l = lkUp then lkAsleep else s.linkState l) ∧
    (k = 3 → t.lnk.inEpoch = false ∧ (∀ l : Fin 4, s.linkState l ≠ lkRetired → t.linkState l = lkDown) ∧ t.is Fld.clkRefSelXtalRun = false ∧ t.is Fld.clkRefSelRefDet = false)) ∧
  (∀ s, s.runs = true → answers .powerOwnExit s fun t =>
    (s.pst = 0 ∨ s.pwr.exiting = true → t = s) ∧
    (1 ≤ s.pst → s.pst ≤ 3 → s.pwr.exiting = false →
      let thr := if s.pst = 1 then 51 else if s.pst = 2 then 226 else 1810
      let out := (s.is Fld.pwrCtlRetainLinks = true ∧ 1 < s.pst) ∨ (s.is Fld.pwrCtlRetainRef = true ∧ 2 < s.pst) ∨ s.tolAdmits < s.pst
      (∀ l, s.lead = some l → l ≤ thr → woken s t [] 4 false) ∧
      ((∀ l, s.lead = some l → thr < l) → (out → woken s t [] 6 false) ∧ (¬ out → t = s)))) ∧
  (∀ s p w, served s p Reg.pwrLatTol → answers (.latTolWrite p w) s fun t =>
    t.rd Reg.pwrLatTol = w ∧ (s.pst = 0 ∨ s.pwr.exiting = true → onlyRegs [Reg.pwrLatTol] s t) ∧
    (1 ≤ s.pst → s.pst ≤ 3 → s.pwr.exiting = false → s.lead = none → w.toNat < (if s.pst = 1 then 2 else if s.pst = 2 then 160 else 1600) → woken s t [Reg.pwrLatTol] 6 false)) ∧
  (∀ s, s.runs = true → s.pwr.exiting = true → 1 ≤ s.pst → s.pst ≤ 3 → answers .powerExitComplete s fun t =>
    t.pst = 0 ∧ t.get Fld.pwrStateLast = (if s.pwr.aborted = true then 4 else s.pst) ∧ t.pwr = { s.pwr with exiting := false, aborted := false } ∧ (2 ≤ s.pst → t.is Fld.spiStatReady = true) ∧
    (s.is Fld.clkSysStatLock = true → t.is Fld.refreshStatSelf = false) ∧
    (s.pst = 1 → onlyFields [Fld.pwrStateState, Fld.pwrStateLast, Fld.refreshStatSelf] (s.modPwr (fun _ => t.pwr)) t) ∧
    (s.pst = 2 → s.refThere = true → t.is Fld.clkSysStatLock = true ∧ ∀ l : Fin 4, t.linkState l = if s.linkState l = lkAsleep then lkUp else s.linkState l) ∧
    (s.pst = 3 → t.boot.helloDue = (!s.head && !s.boot.refused))) ∧
  (∀ s, answers .wakeInEdge s fun t =>
    (s.pwr.d4 = true → t = s.modPwr (fun p => { p with d4Wake := p.d4Wake ||| 2 ^ 9 })) ∧
    (s.runs = true → 1 ≤ s.pst → s.pst ≤ 3 → woken s t [] 3 true) ∧
    (s.runs = true → s.pst = 0 → s.pwr.entry = none → t = s) ∧
    (∀ k, s.runs = true → s.pst = 0 → s.pwr.entry = some k → 1 ≤ k → k ≤ 3 → t.pst = 0 ∧ t.pwr.entry = none ∧ t.pwr.dwell = true ∧ t.get Fld.pwrStateLast = k ∧
      t.get Fld.pwrWakeSrcSrc = s.get Fld.pwrWakeSrcSrc ||| 8 ∧ t.is Fld.spiStatReady = (s.is Fld.spiStatReady || decide (2 ≤ k)))) ∧
  (∀ s, s.alive = true → answers .dwellExpiry s fun t => t = s.modPwr (fun p => { p with dwell := false })) ∧
  (∀ s, s.runs = true → answers (.d4Entry false) s fun t =>
    (s.pst = 3 → s.pwr.exiting = false → s.pwr.d4Step = false → s.sleepReady = true → t = s.modPwr (fun p => { p with d4Step := true, d4Timer := s.get Fld.pwrCtlTimer, d4Wake := 0 })) ∧
    (s.pst ≠ 3 ∨ s.sleepReady = false → t = s)) ∧
  (∀ s, s.runs = true → answers (.d4Entry true) s fun t =>
    (s.pwr.d4Step = false → t = s) ∧
    (s.pwr.d4Step = true → t.pwr.d4 = true ∧ t.pwr.d4Timer = s.pwr.d4Timer ∧ t.pwr.d4Wake = s.pwr.d4Wake ∧ t.alive = false ∧ (∀ off, t.rd off = resetWord off) ∧
      (∀ a, t.storeRead a = storeBlank a) ∧ t.env = s.env ∧ t.top.straps = s.top.straps)) ∧
  (∀ s (e : Fin 12), s.runs = true → answers (.d4Abandon e) s fun t =>
    (s.pwr.d4Step = false → t = s) ∧ (s.pwr.d4Step = true → s.pst = 3 → e.val ∈ [0, 2, 3, 4, 5, 6, 7, 8] → woken s t [] e.val (decide (e.val ∈ [0, 2, 3, 7])))) ∧
  (∀ s, answers .d4TimerExpiry s fun t =>
    (s.pwr.d4 = true → s.pwr.d4Timer ≠ 0 → t = s.modPwr (fun p => { p with d4Timer := 0, d4Wake := p.d4Wake ||| 2 ^ 11 })) ∧
    (s.pwr.d4 = false ∨ s.pwr.d4Timer = 0 → t = s)) ∧
  (∀ s st, answers (.d4Wake st) s fun t =>
    (s.pwr.d4 = false ∨ s.pwr.d4Wake = 0 → t = s) ∧
    (s.pwr.d4 = true → s.pwr.d4Wake ≠ 0 → t.pwr.d4 = false ∧ t.pwr.d4Wake = s.pwr.d4Wake ∧ t.top.straps = st ∧ t.top.por = !s.env.rails.up ∧ t.env = s.env ∧
      t.is Fld.topCfgCompat6 = st.compat6 ∧ (∀ off, off ≠ Reg.topCfg → t.rd off = resetWord off) ∧ (∀ a, t.storeRead a = storeBlank a)))

/-- A conversion counts its milliseconds; a valid reading stands in TEMPn with VALID, unless a calibration round holds it, then STALE; the third
invalid one in a row sets FAILED with a fault, the 16th valid one clears it. A switched-on supply shows its millivolts with LOW and HIGH by its range,
a switched-off one 0. The hottest sensor above 150 C flags OVERTEMP once, above 165 C sets PROTECT, at 155 C or below clears it; the refresh band
follows the hotter store sensor. A supply out of range is reported once. An interval that ends posts its TELEMETRY record and starts anew. A
suppressed code is reported with its count. A write to a retirement map retires what its bits name, once, counted and recorded. A stuck converter's
path is powered down and tried again; an error within the window after it is a failure, its end without one a transient error. (R608, R787, R788,
R797, R803, R804, R805, R807, R808, R809, R812, section 20) -/
def Obligations.MonitorsFaultsAndRetirementAct : Prop :=
  (∀ s temps mv, s.alive = true → answers (.sensorConversion temps mv) s fun t =>
    t.flt.ms = s.flt.ms + (if s.pst = 3 then 10 else 1) ∧
    (∀ (n : Fin 8) v, temps.getD n.val none = some v → -880 ≤ v → v ≤ 2800 →
      t.is (Fld.tempValid n.val) = true ∧ (t.flt.sensors[n]).failRun = 0 ∧ (t.flt.sensors[n]).okRun = min 16 ((s.flt.sensors[n]).okRun + 1) ∧
      (15 ≤ (s.flt.sensors[n]).okRun → t.is (Fld.tempFailed n.val) = false) ∧
      (s.calHoldsSensor n.val = false → t.temp n.val = v ∧ t.is (Fld.tempStale n.val) = false) ∧
      (s.calHoldsSensor n.val = true → s.is (Fld.tempValid n.val) = true → t.temp n.val = s.temp n.val ∧ t.is (Fld.tempStale n.val) = true)) ∧
    (∀ n : Fin 8, tempOk (temps.getD n.val none) = none → (t.flt.sensors[n]).failRun = min 3 ((s.flt.sensors[n]).failRun + 1) ∧ (t.flt.sensors[n]).okRun = 0 ∧ t.temp n.val = s.temp n.val ∧
      (2 ≤ (s.flt.sensors[n]).failRun → t.is (Fld.tempFailed n.val) = true ∧ (s.is (Fld.tempFailed n.val) = false → t.is Fld.fltStatSensor = true))) ∧
    (∀ n : Fin 8, s.railOn n.val = true → t.is (Fld.supplyValid n.val) = true ∧ t.get (Fld.supplyMv n.val) = min (mv.getD n.val 0) 65535 ∧
      t.is (Fld.supplyLow n.val) = decide (mv.getD n.val 0 < (s.supplyRange n.val).1) ∧ t.is (Fld.supplyHigh n.val) = decide ((s.supplyRange n.val).2 < mv.getD n.val 0)) ∧
    (∀ n : Fin 8, s.railOn n.val = false → t.get (Fld.supplyMv n.val) = 0 ∧ t.is (Fld.supplyLow n.val) = false ∧ t.is (Fld.supplyHigh n.val) = false) ∧
    (∀ (m : Fin 8) v, s.cal.round = none → (∀ n : Fin 8, s.is (Fld.tempFailed n.val) = false ∧ ∃ x, temps.getD n.val none = some x ∧ -880 ≤ x ∧ x ≤ v) → temps.getD m.val none = some v → v ≤ 2800 →
      (2400 < v → (∀ n : Fin 8, (s.flt.sensors[n]).hot = false) → t.is Fld.fltStatOvertemp = true) ∧ (2640 < v → t.protect = true) ∧ (v ≤ 2480 → t.protect = false) ∧
      (2480 < v → v ≤ 2640 → t.protect = s.protect)) ∧
    (∀ a b, s.is (Fld.tempFailed 6) = false → s.is (Fld.tempFailed 7) = false → temps.getD 6 none = some a → temps.getD 7 none = some b → -880 ≤ a → a ≤ 2800 → -880 ≤ b → b ≤ 2800 →
      t.get Fld.refreshStatBand = bandNext (s.get Fld.refreshStatBand) (max a b + 32)) ∧
    t.get Fld.fltRetireMap3Uid = Config.unique.toNat % 2 ^ 16) ∧
  (∀ s (n : Fin 8), s.alive = true → answers (.supplyRange n) s fun t =>
    let out := s.is (Fld.supplyLow n.val) || s.is (Fld.supplyHigh n.val)
    (out = false ∨ (s.flt.supplies[n]).posted = true → t = s) ∧
    (out = true → (s.flt.supplies[n]).posted = false → (t.flt.supplies[n]).posted = true ∧ t.is Fld.fltStatSupply = true ∧ logsOnly s t)) ∧
  (∀ s, s.runs = true → answers .telemetry s fun t =>
    (s.get Fld.telemIntervalMs = 0 → t = s) ∧
    (s.get Fld.telemIntervalMs ≠ 0 → logsOnly s t ∧ t.flt.telem = telemReset ∧
      (recordable s 0x0C → 0 < s.flt.telem.ms → recorded t 0x0C
        [packW [(24, 8, deg8 s.flt.telem.tmax), (16, 8, deg8 s.flt.telem.tmin), (8, 8, s.flt.telem.d0ms * 100 / s.flt.telem.ms), (0, 8, 1)], BitVec.ofNat 32 (s.get Fld.telemIntervalMs),
         BitVec.ofNat 32 s.flt.telem.crcFail, packW [(16, 16, s.flt.telem.verFail), (0, 16, s.flt.telem.noKey)], BitVec.ofNat 32 s.flt.telem.macFail, BitVec.ofNat 32 s.flt.telem.replays]))) ∧
  (∀ s code, s.alive = true → answers (.faultSuppressWindowEnd code) s fun t =>
    ((takeLimit code s.flt.limits).suppressed = 0 → t = s) ∧
    ((takeLimit code s.flt.limits).suppressed ≠ 0 → logsOnly s t ∧ (takeLimit code t.flt.limits).suppressed = 0 ∧
      (recordable s 0x0A → recorded t 0x0A [packW [(0, 8, 0x11)], BitVec.ofNat 32 (takeLimit code s.flt.limits).suppressed, BitVec.ofNat 32 code]))) ∧
  (∀ s p (n : Fin 3) w, served s p (Reg.fltRetireMap0 + 4 * n.val) → answers (.retireMapWrite p n w) s fun t =>
    (w = 0 → t = s) ∧ (∀ b ∈ mapBits n.val, w.getLsbD b.1 = true → t.retired b.2.1 b.2.2 = true) ∧ (∀ c i, s.retired c i = true → t.retired c i = true) ∧
    (∀ i : Fin 9, n = 2 → w = BitVec.ofNat 32 (2 ^ (i.val + 1)) → s.retired 6 (i.val + 1) = false → logsAnd [Reg.fltRetireMap2, Reg.fltRetireMap3] s t ∧
      t.get Fld.fltRetireMap3Count = (s.get Fld.fltRetireMap3Count + 1) % 256 ∧ t.is Fld.fltStatRetire = true ∧
      (recordable s 0x0B → recorded t 0x0B [packW [(16, 2, 1), (8, 8, i.val + 1), (0, 8, 6)], 0, s.tile]))) ∧
  (∀ s (p : Fin 4), s.runs = true → s.free? .radio = true → answers (.pathStuckError p) s fun t =>
    (s.pathRx p = false → t = s) ∧
    (s.pathRx p = true → (s.flt.pathTry[p]) ≠ 2 → t.flt = { s.flt with pathTry := upd s.flt.pathTry p (fun _ => 1) } ∧ t.radio.paths[p].cleanAt = none ∧
      onlyRegs [Reg.radioState] ((s.modFlt (fun _ => t.flt)).modRadio (fun _ => t.radio)) t) ∧
    (s.pathRx p = true → (s.flt.pathTry[p]) = 2 → firstFailure s 0 p.val → (t.flt.pathTry[p]) = 1 ∧ t.is Fld.fltStatFailure = true ∧ t.radio.paths[p].cleanAt = none ∧
      t.flt.telem.failures = satAdd 65535 s.flt.telem.failures 1)) ∧
  (∀ s (p : Fin 4) cyc, s.runs = true → s.free? .radio = true → answers (.pathRetryRestore p cyc) s fun t =>
    ((s.flt.pathTry[p]) ≠ 1 → t = s) ∧
    ((s.flt.pathTry[p]) = 1 → (t.flt.pathTry[p]) = 2 ∧ (s.pathRx p = true → t.radio.paths[p].cleanAt = some (s.cleanTile cyc)) ∧
      onlyRegs [Reg.radioState] ((s.modFlt (fun _ => t.flt)).modRadio (fun _ => t.radio)) t)) ∧
  (∀ s (p : Fin 4), s.alive = true → answers (.pathTransientWindow p) s fun t =>
    ((s.flt.pathTry[p]) ≠ 2 → t = s) ∧
    ((s.flt.pathTry[p]) = 2 → (t.flt.pathTry[p]) = 0 ∧ logsAnd [Reg.fltTransientCnt] s t ∧
      (s.retired 0 p.val = false → t.get Fld.fltTransientCntCount = (s.get Fld.fltTransientCntCount + 1) % 2 ^ 32)))

/-- A frame in which SPI_SCLK has no rising edge leaves the whole state of the device as it was, in every state: the flags of SPI_STAT, the frame
counter SPI_FRAME_CNT, the arm of the soft reset, and all else. (R134) -/
def Obligations.AFrameWithoutAClockDoesNothing : Prop :=
  ∀ s, exec .spiNoClockFrame s = .next s

/-- Through any port that serves the access, a write of any word to a register of which no field is RW, W1C, WO or SC on this device changes nothing
in the state, whichever register it is; the debug block's registers are taken through the JTAG port, the one port that serves their writes. (R166) -/
def Obligations.WritesOfReadOnlyRegistersDoNothing : Prop :=
  ∀ s p off w r, served s p off → off < 0x10000 → regRow off = some r → (∀ f ∈ s.fieldsAt off r, f.acc = .ro) → (off < 0xF004 ∨ p = .jtag) → s.top.softPending = false →
    answers (.registerWrite p off [w] true) s fun t => t = s

/-- A read of one word at the _HI of a pair, through any port that serves it, returns the word of that port's read shadow when the shadow is tagged
with this pair, and the register's live value when the shadow is empty or tagged with another pair. It changes nothing but what has been read out.
(R169) -/
def Obligations.TheHighHalfIsReadFromThePortsShadow : Prop :=
  ∀ s p lo, served s p (lo + 4) → lo + 4 < 0x10000 → isPairLo lo = true →
    (∀ w, s.top.rdShadow[p.idx] = some (lo, w) → answers (.loHalfRead p (lo + 4) 1) s fun t => t = s.emit (.words p [w])) ∧
    ((∀ w, s.top.rdShadow[p.idx] ≠ some (lo, w)) → answers (.loHalfRead p (lo + 4) 1) s fun t => t = s.emit (.words p [s.regView (lo + 4)]))

/-- A write of 0 to ENGINE_EN, through any port that serves HIF_CTL and by either command that writes it, while ACTIVE reads 1 for some ring: it sets
HIF_STAT.CFG_ERR, ERR_RING names the lowest-numbered ring whose ACTIVE reads 1, HIF_CTL keeps what it held, and nothing but HIF_STAT changes. (R198)
-/
def Obligations.TheEngineStaysOnWhileARingIsActive : Prop :=
  ∀ s p w (n : Fin 24), served s p Reg.hifCtl → getF w 0 1 = 0 → getF (s.regView (Reg.hifRingCtl n.val)) 2 1 = 1 →
    (∀ m : Fin 24, m < n → getF (s.regView (Reg.hifRingCtl m.val)) 2 1 = 0) →
    (answers (.hifEngineDisable p w) s fun t =>
      t.is Fld.hifStatCfgErr = true ∧ t.get Fld.hifStatErrRing = n.val ∧ t.rd Reg.hifCtl = s.rd Reg.hifCtl ∧ onlyRegs [Reg.hifStat] s t) ∧
    (s.top.softPending = false → answers (.registerWrite p Reg.hifCtl [w] true) s fun t =>
      t.is Fld.hifStatCfgErr = true ∧ t.get Fld.hifStatErrRing = n.val ∧ t.rd Reg.hifCtl = s.rd Reg.hifCtl ∧ onlyRegs [Reg.hifStat] s t)

/-- A write of HIF_RINGn_BASE_LO, HIF_RINGn_BASE_HI or HIF_RINGn_SIZE, of a word whose LOG2 is one that its table defines where SIZE is written,
through any port that serves it while that ring's EN or ACTIVE reads 1, sets HIF_STAT.CFG_ERR and leaves the register, and every other but HIF_STAT,
as it was. (R200) -/
def Obligations.TheBaseAndSizeOfARingInUseStay : Prop :=
  ∀ s p w (n : Fin 24) off, (off = Reg.hifRingBaseLo n.val ∨ off = Reg.hifRingBaseHi n.val ∨ (off = Reg.hifRingSize n.val ∧ 4 ≤ getF w 0 5 ∧ getF w 0 5 ≤ 16)) →
    served s p off → s.top.softPending = false →
    (getF (s.regView (Reg.hifRingCtl n.val)) 0 1 = 1 ∨ getF (s.regView (Reg.hifRingCtl n.val)) 2 1 = 1) →
    answers (.registerWrite p off [w] true) s fun t => t.is Fld.hifStatCfgErr = true ∧ t.rd off = s.rd off ∧ onlyRegs [Reg.hifStat] s t

/-- At the head, through any port that serves it and by either command that writes it: with SVC_CTL.EN 1 a write of any word to SVC_ROSTER_SIZE leaves
the register and the roster as they were and sets TOP_STATUS.ENC_ERR, and nothing but TOP_STATUS and TOP_ERR_ADDR changes; with EN 0 a write of a LOG2
that the table defines takes the value and the roster is empty. (R733) -/
def Obligations.TheRosterIsSizedOnlyWhileServicesAreOff : Prop :=
  ∀ s p w c, s.head = true → served s p Reg.svcRosterSize → s.top.softPending = false →
    (c = .rosterSizeWrite p w ∨ c = .registerWrite p Reg.svcRosterSize [w] true) →
    (s.is Fld.svcCtlEn = true → answers c s fun t => t.is Fld.topStatusEncErr = true ∧ t.rd Reg.svcRosterSize = s.rd Reg.svcRosterSize ∧ t.svc = s.svc ∧
      onlyRegs [Reg.topStatus, Reg.topErrAddr] s t) ∧
    (s.is Fld.svcCtlEn = false → (getF w 0 5 = 0 ∨ (10 ≤ getF w 0 5 ∧ getF w 0 5 ≤ 16)) → answers c s fun t =>
      t.svc.roster = [] ∧ t.get Fld.svcRosterSizeLog2 = getF w 0 5)
end

