-- ==== Sys2Proof/Laws/Sparse.lean ====
section
/-! SUPPORT. The canonical sparse map: a read after a write, and the canonical form, which every operation keeps. -/

namespace Sys2Proof.Machine

theorem Sparse.find_insert_self {α : Type} (m : List (Nat × α)) (a : Nat) (x : α) : Sparse.find (Sparse.insert m a x) a = some x := by
  induction m with
  | nil => simp [Sparse.insert, Sparse.find]
  | cons e m ih =>
    obtain ⟨k, v⟩ := e
    simp only [Sparse.insert]
    split
    · simp [Sparse.find]
    · split
      · simp [Sparse.find]
      · rename_i _ h
        simp [Sparse.find, ih, Ne.symm h]

theorem Sparse.find_insert_ne {α : Type} (m : List (Nat × α)) (a b : Nat) (x : α) (h : b ≠ a) :
    Sparse.find (Sparse.insert m a x) b = Sparse.find m b := by
  induction m with
  | nil => simp [Sparse.insert, Sparse.find, Ne.symm h]
  | cons e m ih =>
    obtain ⟨k, v⟩ := e
    simp only [Sparse.insert]
    split
    · simp [Sparse.find, Ne.symm h]
    · split
      · rename_i _ hk
        subst hk
        simp [Sparse.find, Ne.symm h]
      · simp [Sparse.find, ih]

theorem Sparse.find_erase_self {α : Type} (m : List (Nat × α)) (a : Nat) : Sparse.find (Sparse.erase m a) a = none := by
  induction m with
  | nil => rfl
  | cons e m ih =>
    obtain ⟨k, v⟩ := e
    simp only [Sparse.erase, List.filter_cons] at *
    by_cases h : k = a
    · simpa [h] using ih
    · simpa [h, Sparse.find] using ih

theorem Sparse.find_erase_ne {α : Type} (m : List (Nat × α)) (a b : Nat) (h : b ≠ a) :
    Sparse.find (Sparse.erase m a) b = Sparse.find m b := by
  induction m with
  | nil => rfl
  | cons e m ih =>
    obtain ⟨k, v⟩ := e
    simp only [Sparse.erase, List.filter_cons] at *
    by_cases hk : k = a
    · subst hk
      simpa [Sparse.find, Ne.symm h] using ih
    · simp [hk, Sparse.find, ih]

@[simp] theorem Sparse.get_put_self {α : Type} [DecidableEq α] (d : Nat → α) (m : List (Nat × α)) (a : Nat) (x : α) :
    Sparse.get d (Sparse.put d m a x) a = x := by
  unfold Sparse.get Sparse.put
  split
  · rename_i h
    simp [Sparse.find_erase_self, h]
  · simp [Sparse.find_insert_self]

theorem Sparse.get_put_ne {α : Type} [DecidableEq α] (d : Nat → α) (m : List (Nat × α)) (a b : Nat) (x : α) (h : b ≠ a) :
    Sparse.get d (Sparse.put d m a x) b = Sparse.get d m b := by
  unfold Sparse.get Sparse.put
  split
  · rw [Sparse.find_erase_ne _ _ _ h]
  · rw [Sparse.find_insert_ne _ _ _ _ h]

/-- Strictly rising keys, as a chain. -/
theorem Sparse.sorted_iff {α : Type} (m : List (Nat × α)) : Sparse.sorted m = true ↔ (m.map Prod.fst).Pairwise (· < ·) := by
  induction m with
  | nil => simp [Sparse.sorted]
  | cons e m ih =>
    obtain ⟨k, v⟩ := e
    cases m with
    | nil => simp [Sparse.sorted]
    | cons e' m =>
      obtain ⟨k', v'⟩ := e'
      simp only [Sparse.sorted, Bool.and_eq_true, decide_eq_true_eq, ih, List.map_cons, List.pairwise_cons]
      constructor
      · rintro ⟨h, h1, h2⟩
        refine ⟨?_, h1, h2⟩
        intro a ha
        rcases List.mem_cons.mp ha with rfl | ha
        · exact h
        · exact lt_trans h (h1 a ha)
      · rintro ⟨h, h1, h2⟩
        exact ⟨h k' (by simp), h1, h2⟩

theorem Sparse.mem_insert {α : Type} (m : List (Nat × α)) (a : Nat) (x : α) (e : Nat × α) (h : e ∈ Sparse.insert m a x) :
    e = (a, x) ∨ e ∈ m := by
  induction m with
  | nil => simpa [Sparse.insert] using h
  | cons f m ih =>
    obtain ⟨k, v⟩ := f
    simp only [Sparse.insert] at h
    split at h
    · simpa using h
    · split at h
      · rcases List.mem_cons.mp h with h | h
        · exact .inl h
        · exact .inr (List.mem_cons_of_mem _ h)
      · rcases List.mem_cons.mp h with h | h
        · exact .inr (by simp [h])
        · rcases ih h with h | h
          · exact .inl h
          · exact .inr (List.mem_cons_of_mem _ h)

theorem Sparse.sorted_insert {α : Type} (m : List (Nat × α)) (a : Nat) (x : α) (h : Sparse.sorted m = true) :
    Sparse.sorted (Sparse.insert m a x) = true := by
  rw [Sparse.sorted_iff] at *
  induction m with
  | nil => simp [Sparse.insert]
  | cons e m ih =>
    obtain ⟨k, v⟩ := e
    simp only [List.map_cons, List.pairwise_cons] at h
    obtain ⟨h1, h2⟩ := h
    simp only [Sparse.insert]
    split
    · rename_i hk
      simp only [List.map_cons, List.pairwise_cons]
      refine ⟨?_, h1, h2⟩
      intro b hb
      rcases List.mem_cons.mp hb with rfl | hb
      · exact hk
      · exact lt_trans hk (h1 b hb)
    · split
      · rename_i hk
        subst hk
        simp only [List.map_cons, List.pairwise_cons]
        exact ⟨h1, h2⟩
      · simp only [List.map_cons, List.pairwise_cons]
        refine ⟨?_, ih h2⟩
        intro b hb
        obtain ⟨e, he, rfl⟩ := List.mem_map.mp hb
        rcases Sparse.mem_insert m a x e he with rfl | he
        · simp only
          omega
        · exact h1 _ (List.mem_map_of_mem he)

theorem Sparse.sorted_filter {α : Type} (m : List (Nat × α)) (p : Nat × α → Bool) (h : Sparse.sorted m = true) :
    Sparse.sorted (m.filter p) = true := by
  rw [Sparse.sorted_iff] at *
  exact h.sublist (List.filter_sublist.map Prod.fst)

/-- A write keeps the canonical form. -/
theorem Sparse.wf_put {α : Type} [DecidableEq α] (d : Nat → α) (m : List (Nat × α)) (a : Nat) (x : α) (h : Sparse.wf d m = true) :
    Sparse.wf d (Sparse.put d m a x) = true := by
  simp only [Sparse.wf, Bool.and_eq_true, List.all_eq_true, decide_eq_true_eq] at *
  obtain ⟨h1, h2⟩ := h
  unfold Sparse.put
  split
  · exact ⟨Sparse.sorted_filter _ _ h1, fun e he => h2 e (List.mem_of_mem_filter he)⟩
  · rename_i hx
    refine ⟨Sparse.sorted_insert _ _ _ h1, fun e he => ?_⟩
    rcases Sparse.mem_insert m a x e he with rfl | he
    · exact hx
    · exact h2 e he

/-- Entries taken out leave the canonical form. -/
theorem Sparse.wf_filter {α : Type} [DecidableEq α] (d : Nat → α) (m : List (Nat × α)) (p : Nat × α → Bool) (h : Sparse.wf d m = true) :
    Sparse.wf d (m.filter p) = true := by
  simp only [Sparse.wf, Bool.and_eq_true, List.all_eq_true] at h ⊢
  exact ⟨Sparse.sorted_filter _ _ h.1, fun e he => h.2 e (List.mem_of_mem_filter he)⟩
/-- Taking out a range keeps the canonical form. -/
theorem Sparse.wf_eraseRange {α : Type} [DecidableEq α] (d : Nat → α) (m : List (Nat × α)) (lo hi : Nat) (h : Sparse.wf d m = true) :
    Sparse.wf d (Sparse.eraseRange m lo hi) = true := by
  simp only [Sparse.wf, Bool.and_eq_true, List.all_eq_true, decide_eq_true_eq] at *
  exact ⟨Sparse.sorted_filter _ _ h.1, fun e he => h.2 e (List.mem_of_mem_filter he)⟩

@[simp] theorem Sparse.wf_nil {α : Type} [DecidableEq α] (d : Nat → α) : Sparse.wf d ([] : List (Nat × α)) = true := rfl

/-- A key outside a range that is taken out reads as before; one inside reads as unlisted. -/
theorem Sparse.find_eraseRange {α : Type} (m : List (Nat × α)) (lo hi a : Nat) :
    Sparse.find (Sparse.eraseRange m lo hi) a = if lo ≤ a ∧ a < hi then none else Sparse.find m a := by
  induction m with
  | nil => simp [Sparse.eraseRange, Sparse.find]
  | cons e m ih =>
    obtain ⟨k, v⟩ := e
    simp only [Sparse.eraseRange, List.filter_cons] at *
    by_cases hk : (k < lo || hi ≤ k) = true
    · simp only [hk, if_true, Sparse.find, ih]
      by_cases h : k = a
      · subst h
        simp only [Bool.or_eq_true, decide_eq_true_eq] at hk
        have : ¬(lo ≤ k ∧ k < hi) := by omega
        simp [this]
      · simp [h]
    · simp only [hk, Bool.false_eq_true, if_false, ih, Sparse.find]
      by_cases h : k = a
      · subst h
        simp only [Bool.or_eq_true, decide_eq_true_eq] at hk
        have : lo ≤ k ∧ k < hi := by omega
        simp [this]
      · simp [h]

end Sys2Proof.Machine
end

