-- ==== Sys2Proof/Laws/State.lean ====
section
/-! SUPPORT. One lemma per field of the state per update, true by rfl: what an update of one part leaves of every other part. -/

namespace Sys2Proof.Machine

@[simp] theorem State.wr_env (s : State) (off : Nat) (w : Word) : (s.wr off w).env = s.env := rfl
@[simp] theorem State.wr_top (s : State) (off : Nat) (w : Word) : (s.wr off w).top = s.top := rfl
@[simp] theorem State.wr_pcie (s : State) (off : Nat) (w : Word) : (s.wr off w).pcie = s.pcie := rfl
@[simp] theorem State.wr_boot (s : State) (off : Nat) (w : Word) : (s.wr off w).boot = s.boot := rfl
@[simp] theorem State.wr_spi (s : State) (off : Nat) (w : Word) : (s.wr off w).spi = s.spi := rfl
@[simp] theorem State.wr_jtag (s : State) (off : Nat) (w : Word) : (s.wr off w).jtag = s.jtag := rfl
@[simp] theorem State.wr_hif (s : State) (off : Nat) (w : Word) : (s.wr off w).hif = s.hif := rfl
@[simp] theorem State.wr_pwr (s : State) (off : Nat) (w : Word) : (s.wr off w).pwr = s.pwr := rfl
@[simp] theorem State.wr_flt (s : State) (off : Nat) (w : Word) : (s.wr off w).flt = s.flt := rfl
@[simp] theorem State.wr_lnk (s : State) (off : Nat) (w : Word) : (s.wr off w).lnk = s.lnk := rfl
@[simp] theorem State.wr_store (s : State) (off : Nat) (w : Word) : (s.wr off w).store = s.store := rfl
@[simp] theorem State.wr_exch (s : State) (off : Nat) (w : Word) : (s.wr off w).exch = s.exch := rfl
@[simp] theorem State.wr_pip (s : State) (off : Nat) (w : Word) : (s.wr off w).pip = s.pip := rfl
@[simp] theorem State.wr_clk (s : State) (off : Nat) (w : Word) : (s.wr off w).clk = s.clk := rfl
@[simp] theorem State.wr_radio (s : State) (off : Nat) (w : Word) : (s.wr off w).radio = s.radio := rfl
@[simp] theorem State.wr_samp (s : State) (off : Nat) (w : Word) : (s.wr off w).samp = s.samp := rfl
@[simp] theorem State.wr_cal (s : State) (off : Nat) (w : Word) : (s.wr off w).cal = s.cal := rfl
@[simp] theorem State.wr_bcst (s : State) (off : Nat) (w : Word) : (s.wr off w).bcst = s.bcst := rfl
@[simp] theorem State.wr_aud (s : State) (off : Nat) (w : Word) : (s.wr off w).aud = s.aud := rfl
@[simp] theorem State.wr_tag (s : State) (off : Nat) (w : Word) : (s.wr off w).tag = s.tag := rfl
@[simp] theorem State.wr_svc (s : State) (off : Nat) (w : Word) : (s.wr off w).svc = s.svc := rfl
@[simp] theorem State.wr_tile (s : State) (off : Nat) (w : Word) : (s.wr off w).tile = s.tile := rfl
@[simp] theorem State.wr_free (s : State) (off : Nat) (w : Word) : (s.wr off w).free = s.free := rfl
@[simp] theorem State.wr_out (s : State) (off : Nat) (w : Word) : (s.wr off w).out = s.out := rfl
@[simp] theorem State.wr_pending (s : State) (off : Nat) (w : Word) : (s.wr off w).pending = s.pending := rfl
@[simp] theorem State.put_env (s : State) (x : FieldRef) (v : Nat) : (s.put x v).env = s.env := rfl
@[simp] theorem State.put_top (s : State) (x : FieldRef) (v : Nat) : (s.put x v).top = s.top := rfl
@[simp] theorem State.put_pcie (s : State) (x : FieldRef) (v : Nat) : (s.put x v).pcie = s.pcie := rfl
@[simp] theorem State.put_boot (s : State) (x : FieldRef) (v : Nat) : (s.put x v).boot = s.boot := rfl
@[simp] theorem State.put_spi (s : State) (x : FieldRef) (v : Nat) : (s.put x v).spi = s.spi := rfl
@[simp] theorem State.put_jtag (s : State) (x : FieldRef) (v : Nat) : (s.put x v).jtag = s.jtag := rfl
@[simp] theorem State.put_hif (s : State) (x : FieldRef) (v : Nat) : (s.put x v).hif = s.hif := rfl
@[simp] theorem State.put_pwr (s : State) (x : FieldRef) (v : Nat) : (s.put x v).pwr = s.pwr := rfl
@[simp] theorem State.put_flt (s : State) (x : FieldRef) (v : Nat) : (s.put x v).flt = s.flt := rfl
@[simp] theorem State.put_lnk (s : State) (x : FieldRef) (v : Nat) : (s.put x v).lnk = s.lnk := rfl
@[simp] theorem State.put_store (s : State) (x : FieldRef) (v : Nat) : (s.put x v).store = s.store := rfl
@[simp] theorem State.put_exch (s : State) (x : FieldRef) (v : Nat) : (s.put x v).exch = s.exch := rfl
@[simp] theorem State.put_pip (s : State) (x : FieldRef) (v : Nat) : (s.put x v).pip = s.pip := rfl
@[simp] theorem State.put_clk (s : State) (x : FieldRef) (v : Nat) : (s.put x v).clk = s.clk := rfl
@[simp] theorem State.put_radio (s : State) (x : FieldRef) (v : Nat) : (s.put x v).radio = s.radio := rfl
@[simp] theorem State.put_samp (s : State) (x : FieldRef) (v : Nat) : (s.put x v).samp = s.samp := rfl
@[simp] theorem State.put_cal (s : State) (x : FieldRef) (v : Nat) : (s.put x v).cal = s.cal := rfl
@[simp] theorem State.put_bcst (s : State) (x : FieldRef) (v : Nat) : (s.put x v).bcst = s.bcst := rfl
@[simp] theorem State.put_aud (s : State) (x : FieldRef) (v : Nat) : (s.put x v).aud = s.aud := rfl
@[simp] theorem State.put_tag (s : State) (x : FieldRef) (v : Nat) : (s.put x v).tag = s.tag := rfl
@[simp] theorem State.put_svc (s : State) (x : FieldRef) (v : Nat) : (s.put x v).svc = s.svc := rfl
@[simp] theorem State.put_tile (s : State) (x : FieldRef) (v : Nat) : (s.put x v).tile = s.tile := rfl
@[simp] theorem State.put_free (s : State) (x : FieldRef) (v : Nat) : (s.put x v).free = s.free := rfl
@[simp] theorem State.put_out (s : State) (x : FieldRef) (v : Nat) : (s.put x v).out = s.out := rfl
@[simp] theorem State.put_pending (s : State) (x : FieldRef) (v : Nat) : (s.put x v).pending = s.pending := rfl
@[simp] theorem State.putB_env (s : State) (x : FieldRef) (b : Bool) : (s.putB x b).env = s.env := rfl
@[simp] theorem State.putB_top (s : State) (x : FieldRef) (b : Bool) : (s.putB x b).top = s.top := rfl
@[simp] theorem State.putB_pcie (s : State) (x : FieldRef) (b : Bool) : (s.putB x b).pcie = s.pcie := rfl
@[simp] theorem State.putB_boot (s : State) (x : FieldRef) (b : Bool) : (s.putB x b).boot = s.boot := rfl
@[simp] theorem State.putB_spi (s : State) (x : FieldRef) (b : Bool) : (s.putB x b).spi = s.spi := rfl
@[simp] theorem State.putB_jtag (s : State) (x : FieldRef) (b : Bool) : (s.putB x b).jtag = s.jtag := rfl
@[simp] theorem State.putB_hif (s : State) (x : FieldRef) (b : Bool) : (s.putB x b).hif = s.hif := rfl
@[simp] theorem State.putB_pwr (s : State) (x : FieldRef) (b : Bool) : (s.putB x b).pwr = s.pwr := rfl
@[simp] theorem State.putB_flt (s : State) (x : FieldRef) (b : Bool) : (s.putB x b).flt = s.flt := rfl
@[simp] theorem State.putB_lnk (s : State) (x : FieldRef) (b : Bool) : (s.putB x b).lnk = s.lnk := rfl
@[simp] theorem State.putB_store (s : State) (x : FieldRef) (b : Bool) : (s.putB x b).store = s.store := rfl
@[simp] theorem State.putB_exch (s : State) (x : FieldRef) (b : Bool) : (s.putB x b).exch = s.exch := rfl
@[simp] theorem State.putB_pip (s : State) (x : FieldRef) (b : Bool) : (s.putB x b).pip = s.pip := rfl
@[simp] theorem State.putB_clk (s : State) (x : FieldRef) (b : Bool) : (s.putB x b).clk = s.clk := rfl
@[simp] theorem State.putB_radio (s : State) (x : FieldRef) (b : Bool) : (s.putB x b).radio = s.radio := rfl
@[simp] theorem State.putB_samp (s : State) (x : FieldRef) (b : Bool) : (s.putB x b).samp = s.samp := rfl
@[simp] theorem State.putB_cal (s : State) (x : FieldRef) (b : Bool) : (s.putB x b).cal = s.cal := rfl
@[simp] theorem State.putB_bcst (s : State) (x : FieldRef) (b : Bool) : (s.putB x b).bcst = s.bcst := rfl
@[simp] theorem State.putB_aud (s : State) (x : FieldRef) (b : Bool) : (s.putB x b).aud = s.aud := rfl
@[simp] theorem State.putB_tag (s : State) (x : FieldRef) (b : Bool) : (s.putB x b).tag = s.tag := rfl
@[simp] theorem State.putB_svc (s : State) (x : FieldRef) (b : Bool) : (s.putB x b).svc = s.svc := rfl
@[simp] theorem State.putB_tile (s : State) (x : FieldRef) (b : Bool) : (s.putB x b).tile = s.tile := rfl
@[simp] theorem State.putB_free (s : State) (x : FieldRef) (b : Bool) : (s.putB x b).free = s.free := rfl
@[simp] theorem State.putB_out (s : State) (x : FieldRef) (b : Bool) : (s.putB x b).out = s.out := rfl
@[simp] theorem State.putB_pending (s : State) (x : FieldRef) (b : Bool) : (s.putB x b).pending = s.pending := rfl
@[simp] theorem State.flag_env (s : State) (x : FieldRef) : (s.flag x).env = s.env := rfl
@[simp] theorem State.flag_top (s : State) (x : FieldRef) : (s.flag x).top = s.top := rfl
@[simp] theorem State.flag_pcie (s : State) (x : FieldRef) : (s.flag x).pcie = s.pcie := rfl
@[simp] theorem State.flag_boot (s : State) (x : FieldRef) : (s.flag x).boot = s.boot := rfl
@[simp] theorem State.flag_spi (s : State) (x : FieldRef) : (s.flag x).spi = s.spi := rfl
@[simp] theorem State.flag_jtag (s : State) (x : FieldRef) : (s.flag x).jtag = s.jtag := rfl
@[simp] theorem State.flag_hif (s : State) (x : FieldRef) : (s.flag x).hif = s.hif := rfl
@[simp] theorem State.flag_pwr (s : State) (x : FieldRef) : (s.flag x).pwr = s.pwr := rfl
@[simp] theorem State.flag_flt (s : State) (x : FieldRef) : (s.flag x).flt = s.flt := rfl
@[simp] theorem State.flag_lnk (s : State) (x : FieldRef) : (s.flag x).lnk = s.lnk := rfl
@[simp] theorem State.flag_store (s : State) (x : FieldRef) : (s.flag x).store = s.store := rfl
@[simp] theorem State.flag_exch (s : State) (x : FieldRef) : (s.flag x).exch = s.exch := rfl
@[simp] theorem State.flag_pip (s : State) (x : FieldRef) : (s.flag x).pip = s.pip := rfl
@[simp] theorem State.flag_clk (s : State) (x : FieldRef) : (s.flag x).clk = s.clk := rfl
@[simp] theorem State.flag_radio (s : State) (x : FieldRef) : (s.flag x).radio = s.radio := rfl
@[simp] theorem State.flag_samp (s : State) (x : FieldRef) : (s.flag x).samp = s.samp := rfl
@[simp] theorem State.flag_cal (s : State) (x : FieldRef) : (s.flag x).cal = s.cal := rfl
@[simp] theorem State.flag_bcst (s : State) (x : FieldRef) : (s.flag x).bcst = s.bcst := rfl
@[simp] theorem State.flag_aud (s : State) (x : FieldRef) : (s.flag x).aud = s.aud := rfl
@[simp] theorem State.flag_tag (s : State) (x : FieldRef) : (s.flag x).tag = s.tag := rfl
@[simp] theorem State.flag_svc (s : State) (x : FieldRef) : (s.flag x).svc = s.svc := rfl
@[simp] theorem State.flag_tile (s : State) (x : FieldRef) : (s.flag x).tile = s.tile := rfl
@[simp] theorem State.flag_free (s : State) (x : FieldRef) : (s.flag x).free = s.free := rfl
@[simp] theorem State.flag_out (s : State) (x : FieldRef) : (s.flag x).out = s.out := rfl
@[simp] theorem State.flag_pending (s : State) (x : FieldRef) : (s.flag x).pending = s.pending := rfl
@[simp] theorem State.inc_env (s : State) (x : FieldRef) : (s.inc x).env = s.env := rfl
@[simp] theorem State.inc_top (s : State) (x : FieldRef) : (s.inc x).top = s.top := rfl
@[simp] theorem State.inc_pcie (s : State) (x : FieldRef) : (s.inc x).pcie = s.pcie := rfl
@[simp] theorem State.inc_boot (s : State) (x : FieldRef) : (s.inc x).boot = s.boot := rfl
@[simp] theorem State.inc_spi (s : State) (x : FieldRef) : (s.inc x).spi = s.spi := rfl
@[simp] theorem State.inc_jtag (s : State) (x : FieldRef) : (s.inc x).jtag = s.jtag := rfl
@[simp] theorem State.inc_hif (s : State) (x : FieldRef) : (s.inc x).hif = s.hif := rfl
@[simp] theorem State.inc_pwr (s : State) (x : FieldRef) : (s.inc x).pwr = s.pwr := rfl
@[simp] theorem State.inc_flt (s : State) (x : FieldRef) : (s.inc x).flt = s.flt := rfl
@[simp] theorem State.inc_lnk (s : State) (x : FieldRef) : (s.inc x).lnk = s.lnk := rfl
@[simp] theorem State.inc_store (s : State) (x : FieldRef) : (s.inc x).store = s.store := rfl
@[simp] theorem State.inc_exch (s : State) (x : FieldRef) : (s.inc x).exch = s.exch := rfl
@[simp] theorem State.inc_pip (s : State) (x : FieldRef) : (s.inc x).pip = s.pip := rfl
@[simp] theorem State.inc_clk (s : State) (x : FieldRef) : (s.inc x).clk = s.clk := rfl
@[simp] theorem State.inc_radio (s : State) (x : FieldRef) : (s.inc x).radio = s.radio := rfl
@[simp] theorem State.inc_samp (s : State) (x : FieldRef) : (s.inc x).samp = s.samp := rfl
@[simp] theorem State.inc_cal (s : State) (x : FieldRef) : (s.inc x).cal = s.cal := rfl
@[simp] theorem State.inc_bcst (s : State) (x : FieldRef) : (s.inc x).bcst = s.bcst := rfl
@[simp] theorem State.inc_aud (s : State) (x : FieldRef) : (s.inc x).aud = s.aud := rfl
@[simp] theorem State.inc_tag (s : State) (x : FieldRef) : (s.inc x).tag = s.tag := rfl
@[simp] theorem State.inc_svc (s : State) (x : FieldRef) : (s.inc x).svc = s.svc := rfl
@[simp] theorem State.inc_tile (s : State) (x : FieldRef) : (s.inc x).tile = s.tile := rfl
@[simp] theorem State.inc_free (s : State) (x : FieldRef) : (s.inc x).free = s.free := rfl
@[simp] theorem State.inc_out (s : State) (x : FieldRef) : (s.inc x).out = s.out := rfl
@[simp] theorem State.inc_pending (s : State) (x : FieldRef) : (s.inc x).pending = s.pending := rfl
@[simp] theorem State.add_env (s : State) (x : FieldRef) (n : Nat) : (s.add x n).env = s.env := rfl
@[simp] theorem State.add_top (s : State) (x : FieldRef) (n : Nat) : (s.add x n).top = s.top := rfl
@[simp] theorem State.add_pcie (s : State) (x : FieldRef) (n : Nat) : (s.add x n).pcie = s.pcie := rfl
@[simp] theorem State.add_boot (s : State) (x : FieldRef) (n : Nat) : (s.add x n).boot = s.boot := rfl
@[simp] theorem State.add_spi (s : State) (x : FieldRef) (n : Nat) : (s.add x n).spi = s.spi := rfl
@[simp] theorem State.add_jtag (s : State) (x : FieldRef) (n : Nat) : (s.add x n).jtag = s.jtag := rfl
@[simp] theorem State.add_hif (s : State) (x : FieldRef) (n : Nat) : (s.add x n).hif = s.hif := rfl
@[simp] theorem State.add_pwr (s : State) (x : FieldRef) (n : Nat) : (s.add x n).pwr = s.pwr := rfl
@[simp] theorem State.add_flt (s : State) (x : FieldRef) (n : Nat) : (s.add x n).flt = s.flt := rfl
@[simp] theorem State.add_lnk (s : State) (x : FieldRef) (n : Nat) : (s.add x n).lnk = s.lnk := rfl
@[simp] theorem State.add_store (s : State) (x : FieldRef) (n : Nat) : (s.add x n).store = s.store := rfl
@[simp] theorem State.add_exch (s : State) (x : FieldRef) (n : Nat) : (s.add x n).exch = s.exch := rfl
@[simp] theorem State.add_pip (s : State) (x : FieldRef) (n : Nat) : (s.add x n).pip = s.pip := rfl
@[simp] theorem State.add_clk (s : State) (x : FieldRef) (n : Nat) : (s.add x n).clk = s.clk := rfl
@[simp] theorem State.add_radio (s : State) (x : FieldRef) (n : Nat) : (s.add x n).radio = s.radio := rfl
@[simp] theorem State.add_samp (s : State) (x : FieldRef) (n : Nat) : (s.add x n).samp = s.samp := rfl
@[simp] theorem State.add_cal (s : State) (x : FieldRef) (n : Nat) : (s.add x n).cal = s.cal := rfl
@[simp] theorem State.add_bcst (s : State) (x : FieldRef) (n : Nat) : (s.add x n).bcst = s.bcst := rfl
@[simp] theorem State.add_aud (s : State) (x : FieldRef) (n : Nat) : (s.add x n).aud = s.aud := rfl
@[simp] theorem State.add_tag (s : State) (x : FieldRef) (n : Nat) : (s.add x n).tag = s.tag := rfl
@[simp] theorem State.add_svc (s : State) (x : FieldRef) (n : Nat) : (s.add x n).svc = s.svc := rfl
@[simp] theorem State.add_tile (s : State) (x : FieldRef) (n : Nat) : (s.add x n).tile = s.tile := rfl
@[simp] theorem State.add_free (s : State) (x : FieldRef) (n : Nat) : (s.add x n).free = s.free := rfl
@[simp] theorem State.add_out (s : State) (x : FieldRef) (n : Nat) : (s.add x n).out = s.out := rfl
@[simp] theorem State.add_pending (s : State) (x : FieldRef) (n : Nat) : (s.add x n).pending = s.pending := rfl
@[simp] theorem State.incSat_env (s : State) (x : FieldRef) : (s.incSat x).env = s.env := rfl
@[simp] theorem State.incSat_top (s : State) (x : FieldRef) : (s.incSat x).top = s.top := rfl
@[simp] theorem State.incSat_pcie (s : State) (x : FieldRef) : (s.incSat x).pcie = s.pcie := rfl
@[simp] theorem State.incSat_boot (s : State) (x : FieldRef) : (s.incSat x).boot = s.boot := rfl
@[simp] theorem State.incSat_spi (s : State) (x : FieldRef) : (s.incSat x).spi = s.spi := rfl
@[simp] theorem State.incSat_jtag (s : State) (x : FieldRef) : (s.incSat x).jtag = s.jtag := rfl
@[simp] theorem State.incSat_hif (s : State) (x : FieldRef) : (s.incSat x).hif = s.hif := rfl
@[simp] theorem State.incSat_pwr (s : State) (x : FieldRef) : (s.incSat x).pwr = s.pwr := rfl
@[simp] theorem State.incSat_flt (s : State) (x : FieldRef) : (s.incSat x).flt = s.flt := rfl
@[simp] theorem State.incSat_lnk (s : State) (x : FieldRef) : (s.incSat x).lnk = s.lnk := rfl
@[simp] theorem State.incSat_store (s : State) (x : FieldRef) : (s.incSat x).store = s.store := rfl
@[simp] theorem State.incSat_exch (s : State) (x : FieldRef) : (s.incSat x).exch = s.exch := rfl
@[simp] theorem State.incSat_pip (s : State) (x : FieldRef) : (s.incSat x).pip = s.pip := rfl
@[simp] theorem State.incSat_clk (s : State) (x : FieldRef) : (s.incSat x).clk = s.clk := rfl
@[simp] theorem State.incSat_radio (s : State) (x : FieldRef) : (s.incSat x).radio = s.radio := rfl
@[simp] theorem State.incSat_samp (s : State) (x : FieldRef) : (s.incSat x).samp = s.samp := rfl
@[simp] theorem State.incSat_cal (s : State) (x : FieldRef) : (s.incSat x).cal = s.cal := rfl
@[simp] theorem State.incSat_bcst (s : State) (x : FieldRef) : (s.incSat x).bcst = s.bcst := rfl
@[simp] theorem State.incSat_aud (s : State) (x : FieldRef) : (s.incSat x).aud = s.aud := rfl
@[simp] theorem State.incSat_tag (s : State) (x : FieldRef) : (s.incSat x).tag = s.tag := rfl
@[simp] theorem State.incSat_svc (s : State) (x : FieldRef) : (s.incSat x).svc = s.svc := rfl
@[simp] theorem State.incSat_tile (s : State) (x : FieldRef) : (s.incSat x).tile = s.tile := rfl
@[simp] theorem State.incSat_free (s : State) (x : FieldRef) : (s.incSat x).free = s.free := rfl
@[simp] theorem State.incSat_out (s : State) (x : FieldRef) : (s.incSat x).out = s.out := rfl
@[simp] theorem State.incSat_pending (s : State) (x : FieldRef) : (s.incSat x).pending = s.pending := rfl
@[simp] theorem State.clearRegs_env (s : State) (lo hi : Nat) : (s.clearRegs lo hi).env = s.env := rfl
@[simp] theorem State.clearRegs_top (s : State) (lo hi : Nat) : (s.clearRegs lo hi).top = s.top := rfl
@[simp] theorem State.clearRegs_pcie (s : State) (lo hi : Nat) : (s.clearRegs lo hi).pcie = s.pcie := rfl
@[simp] theorem State.clearRegs_boot (s : State) (lo hi : Nat) : (s.clearRegs lo hi).boot = s.boot := rfl
@[simp] theorem State.clearRegs_spi (s : State) (lo hi : Nat) : (s.clearRegs lo hi).spi = s.spi := rfl
@[simp] theorem State.clearRegs_jtag (s : State) (lo hi : Nat) : (s.clearRegs lo hi).jtag = s.jtag := rfl
@[simp] theorem State.clearRegs_hif (s : State) (lo hi : Nat) : (s.clearRegs lo hi).hif = s.hif := rfl
@[simp] theorem State.clearRegs_pwr (s : State) (lo hi : Nat) : (s.clearRegs lo hi).pwr = s.pwr := rfl
@[simp] theorem State.clearRegs_flt (s : State) (lo hi : Nat) : (s.clearRegs lo hi).flt = s.flt := rfl
@[simp] theorem State.clearRegs_lnk (s : State) (lo hi : Nat) : (s.clearRegs lo hi).lnk = s.lnk := rfl
@[simp] theorem State.clearRegs_store (s : State) (lo hi : Nat) : (s.clearRegs lo hi).store = s.store := rfl
@[simp] theorem State.clearRegs_exch (s : State) (lo hi : Nat) : (s.clearRegs lo hi).exch = s.exch := rfl
@[simp] theorem State.clearRegs_pip (s : State) (lo hi : Nat) : (s.clearRegs lo hi).pip = s.pip := rfl
@[simp] theorem State.clearRegs_clk (s : State) (lo hi : Nat) : (s.clearRegs lo hi).clk = s.clk := rfl
@[simp] theorem State.clearRegs_radio (s : State) (lo hi : Nat) : (s.clearRegs lo hi).radio = s.radio := rfl
@[simp] theorem State.clearRegs_samp (s : State) (lo hi : Nat) : (s.clearRegs lo hi).samp = s.samp := rfl
@[simp] theorem State.clearRegs_cal (s : State) (lo hi : Nat) : (s.clearRegs lo hi).cal = s.cal := rfl
@[simp] theorem State.clearRegs_bcst (s : State) (lo hi : Nat) : (s.clearRegs lo hi).bcst = s.bcst := rfl
@[simp] theorem State.clearRegs_aud (s : State) (lo hi : Nat) : (s.clearRegs lo hi).aud = s.aud := rfl
@[simp] theorem State.clearRegs_tag (s : State) (lo hi : Nat) : (s.clearRegs lo hi).tag = s.tag := rfl
@[simp] theorem State.clearRegs_svc (s : State) (lo hi : Nat) : (s.clearRegs lo hi).svc = s.svc := rfl
@[simp] theorem State.clearRegs_tile (s : State) (lo hi : Nat) : (s.clearRegs lo hi).tile = s.tile := rfl
@[simp] theorem State.clearRegs_free (s : State) (lo hi : Nat) : (s.clearRegs lo hi).free = s.free := rfl
@[simp] theorem State.clearRegs_out (s : State) (lo hi : Nat) : (s.clearRegs lo hi).out = s.out := rfl
@[simp] theorem State.clearRegs_pending (s : State) (lo hi : Nat) : (s.clearRegs lo hi).pending = s.pending := rfl
@[simp] theorem State.orF_env (s : State) (x : FieldRef) (m : Nat) : (s.orF x m).env = s.env := rfl
@[simp] theorem State.orF_top (s : State) (x : FieldRef) (m : Nat) : (s.orF x m).top = s.top := rfl
@[simp] theorem State.orF_pcie (s : State) (x : FieldRef) (m : Nat) : (s.orF x m).pcie = s.pcie := rfl
@[simp] theorem State.orF_boot (s : State) (x : FieldRef) (m : Nat) : (s.orF x m).boot = s.boot := rfl
@[simp] theorem State.orF_spi (s : State) (x : FieldRef) (m : Nat) : (s.orF x m).spi = s.spi := rfl
@[simp] theorem State.orF_jtag (s : State) (x : FieldRef) (m : Nat) : (s.orF x m).jtag = s.jtag := rfl
@[simp] theorem State.orF_hif (s : State) (x : FieldRef) (m : Nat) : (s.orF x m).hif = s.hif := rfl
@[simp] theorem State.orF_pwr (s : State) (x : FieldRef) (m : Nat) : (s.orF x m).pwr = s.pwr := rfl
@[simp] theorem State.orF_flt (s : State) (x : FieldRef) (m : Nat) : (s.orF x m).flt = s.flt := rfl
@[simp] theorem State.orF_lnk (s : State) (x : FieldRef) (m : Nat) : (s.orF x m).lnk = s.lnk := rfl
@[simp] theorem State.orF_store (s : State) (x : FieldRef) (m : Nat) : (s.orF x m).store = s.store := rfl
@[simp] theorem State.orF_exch (s : State) (x : FieldRef) (m : Nat) : (s.orF x m).exch = s.exch := rfl
@[simp] theorem State.orF_pip (s : State) (x : FieldRef) (m : Nat) : (s.orF x m).pip = s.pip := rfl
@[simp] theorem State.orF_clk (s : State) (x : FieldRef) (m : Nat) : (s.orF x m).clk = s.clk := rfl
@[simp] theorem State.orF_radio (s : State) (x : FieldRef) (m : Nat) : (s.orF x m).radio = s.radio := rfl
@[simp] theorem State.orF_samp (s : State) (x : FieldRef) (m : Nat) : (s.orF x m).samp = s.samp := rfl
@[simp] theorem State.orF_cal (s : State) (x : FieldRef) (m : Nat) : (s.orF x m).cal = s.cal := rfl
@[simp] theorem State.orF_bcst (s : State) (x : FieldRef) (m : Nat) : (s.orF x m).bcst = s.bcst := rfl
@[simp] theorem State.orF_aud (s : State) (x : FieldRef) (m : Nat) : (s.orF x m).aud = s.aud := rfl
@[simp] theorem State.orF_tag (s : State) (x : FieldRef) (m : Nat) : (s.orF x m).tag = s.tag := rfl
@[simp] theorem State.orF_svc (s : State) (x : FieldRef) (m : Nat) : (s.orF x m).svc = s.svc := rfl
@[simp] theorem State.orF_tile (s : State) (x : FieldRef) (m : Nat) : (s.orF x m).tile = s.tile := rfl
@[simp] theorem State.orF_free (s : State) (x : FieldRef) (m : Nat) : (s.orF x m).free = s.free := rfl
@[simp] theorem State.orF_out (s : State) (x : FieldRef) (m : Nat) : (s.orF x m).out = s.out := rfl
@[simp] theorem State.orF_pending (s : State) (x : FieldRef) (m : Nat) : (s.orF x m).pending = s.pending := rfl
@[simp] theorem State.emit_regs (s : State) (q : Out) : (s.emit q).regs = s.regs := rfl
@[simp] theorem State.emit_env (s : State) (q : Out) : (s.emit q).env = s.env := rfl
@[simp] theorem State.emit_top (s : State) (q : Out) : (s.emit q).top = s.top := rfl
@[simp] theorem State.emit_pcie (s : State) (q : Out) : (s.emit q).pcie = s.pcie := rfl
@[simp] theorem State.emit_boot (s : State) (q : Out) : (s.emit q).boot = s.boot := rfl
@[simp] theorem State.emit_spi (s : State) (q : Out) : (s.emit q).spi = s.spi := rfl
@[simp] theorem State.emit_jtag (s : State) (q : Out) : (s.emit q).jtag = s.jtag := rfl
@[simp] theorem State.emit_hif (s : State) (q : Out) : (s.emit q).hif = s.hif := rfl
@[simp] theorem State.emit_pwr (s : State) (q : Out) : (s.emit q).pwr = s.pwr := rfl
@[simp] theorem State.emit_flt (s : State) (q : Out) : (s.emit q).flt = s.flt := rfl
@[simp] theorem State.emit_lnk (s : State) (q : Out) : (s.emit q).lnk = s.lnk := rfl
@[simp] theorem State.emit_store (s : State) (q : Out) : (s.emit q).store = s.store := rfl
@[simp] theorem State.emit_exch (s : State) (q : Out) : (s.emit q).exch = s.exch := rfl
@[simp] theorem State.emit_pip (s : State) (q : Out) : (s.emit q).pip = s.pip := rfl
@[simp] theorem State.emit_clk (s : State) (q : Out) : (s.emit q).clk = s.clk := rfl
@[simp] theorem State.emit_radio (s : State) (q : Out) : (s.emit q).radio = s.radio := rfl
@[simp] theorem State.emit_samp (s : State) (q : Out) : (s.emit q).samp = s.samp := rfl
@[simp] theorem State.emit_cal (s : State) (q : Out) : (s.emit q).cal = s.cal := rfl
@[simp] theorem State.emit_bcst (s : State) (q : Out) : (s.emit q).bcst = s.bcst := rfl
@[simp] theorem State.emit_aud (s : State) (q : Out) : (s.emit q).aud = s.aud := rfl
@[simp] theorem State.emit_tag (s : State) (q : Out) : (s.emit q).tag = s.tag := rfl
@[simp] theorem State.emit_svc (s : State) (q : Out) : (s.emit q).svc = s.svc := rfl
@[simp] theorem State.emit_tile (s : State) (q : Out) : (s.emit q).tile = s.tile := rfl
@[simp] theorem State.emit_free (s : State) (q : Out) : (s.emit q).free = s.free := rfl
@[simp] theorem State.emit_pending (s : State) (q : Out) : (s.emit q).pending = s.pending := rfl
@[simp] theorem State.emit_rd (s : State) (q : Out) (o : Nat) : (s.emit q).rd o = s.rd o := rfl
@[simp] theorem State.emit_get (s : State) (q : Out) (y : FieldRef) : (s.emit q).get y = s.get y := rfl
@[simp] theorem State.emit_is (s : State) (q : Out) (y : FieldRef) : (s.emit q).is y = s.is y := rfl
@[simp] theorem State.emits_regs (s : State) (qs : List Out) : (s.emits qs).regs = s.regs := rfl
@[simp] theorem State.emits_env (s : State) (qs : List Out) : (s.emits qs).env = s.env := rfl
@[simp] theorem State.emits_top (s : State) (qs : List Out) : (s.emits qs).top = s.top := rfl
@[simp] theorem State.emits_pcie (s : State) (qs : List Out) : (s.emits qs).pcie = s.pcie := rfl
@[simp] theorem State.emits_boot (s : State) (qs : List Out) : (s.emits qs).boot = s.boot := rfl
@[simp] theorem State.emits_spi (s : State) (qs : List Out) : (s.emits qs).spi = s.spi := rfl
@[simp] theorem State.emits_jtag (s : State) (qs : List Out) : (s.emits qs).jtag = s.jtag := rfl
@[simp] theorem State.emits_hif (s : State) (qs : List Out) : (s.emits qs).hif = s.hif := rfl
@[simp] theorem State.emits_pwr (s : State) (qs : List Out) : (s.emits qs).pwr = s.pwr := rfl
@[simp] theorem State.emits_flt (s : State) (qs : List Out) : (s.emits qs).flt = s.flt := rfl
@[simp] theorem State.emits_lnk (s : State) (qs : List Out) : (s.emits qs).lnk = s.lnk := rfl
@[simp] theorem State.emits_store (s : State) (qs : List Out) : (s.emits qs).store = s.store := rfl
@[simp] theorem State.emits_exch (s : State) (qs : List Out) : (s.emits qs).exch = s.exch := rfl
@[simp] theorem State.emits_pip (s : State) (qs : List Out) : (s.emits qs).pip = s.pip := rfl
@[simp] theorem State.emits_clk (s : State) (qs : List Out) : (s.emits qs).clk = s.clk := rfl
@[simp] theorem State.emits_radio (s : State) (qs : List Out) : (s.emits qs).radio = s.radio := rfl
@[simp] theorem State.emits_samp (s : State) (qs : List Out) : (s.emits qs).samp = s.samp := rfl
@[simp] theorem State.emits_cal (s : State) (qs : List Out) : (s.emits qs).cal = s.cal := rfl
@[simp] theorem State.emits_bcst (s : State) (qs : List Out) : (s.emits qs).bcst = s.bcst := rfl
@[simp] theorem State.emits_aud (s : State) (qs : List Out) : (s.emits qs).aud = s.aud := rfl
@[simp] theorem State.emits_tag (s : State) (qs : List Out) : (s.emits qs).tag = s.tag := rfl
@[simp] theorem State.emits_svc (s : State) (qs : List Out) : (s.emits qs).svc = s.svc := rfl
@[simp] theorem State.emits_tile (s : State) (qs : List Out) : (s.emits qs).tile = s.tile := rfl
@[simp] theorem State.emits_free (s : State) (qs : List Out) : (s.emits qs).free = s.free := rfl
@[simp] theorem State.emits_pending (s : State) (qs : List Out) : (s.emits qs).pending = s.pending := rfl
@[simp] theorem State.emits_rd (s : State) (qs : List Out) (o : Nat) : (s.emits qs).rd o = s.rd o := rfl
@[simp] theorem State.emits_get (s : State) (qs : List Out) (y : FieldRef) : (s.emits qs).get y = s.get y := rfl
@[simp] theorem State.emits_is (s : State) (qs : List Out) (y : FieldRef) : (s.emits qs).is y = s.is y := rfl
@[simp] theorem State.draw_regs (s : State)  : (s.draw ).regs = s.regs := rfl
@[simp] theorem State.draw_env (s : State)  : (s.draw ).env = s.env := rfl
@[simp] theorem State.draw_top (s : State)  : (s.draw ).top = s.top := rfl
@[simp] theorem State.draw_pcie (s : State)  : (s.draw ).pcie = s.pcie := rfl
@[simp] theorem State.draw_boot (s : State)  : (s.draw ).boot = s.boot := rfl
@[simp] theorem State.draw_spi (s : State)  : (s.draw ).spi = s.spi := rfl
@[simp] theorem State.draw_jtag (s : State)  : (s.draw ).jtag = s.jtag := rfl
@[simp] theorem State.draw_hif (s : State)  : (s.draw ).hif = s.hif := rfl
@[simp] theorem State.draw_pwr (s : State)  : (s.draw ).pwr = s.pwr := rfl
@[simp] theorem State.draw_flt (s : State)  : (s.draw ).flt = s.flt := rfl
@[simp] theorem State.draw_lnk (s : State)  : (s.draw ).lnk = s.lnk := rfl
@[simp] theorem State.draw_store (s : State)  : (s.draw ).store = s.store := rfl
@[simp] theorem State.draw_exch (s : State)  : (s.draw ).exch = s.exch := rfl
@[simp] theorem State.draw_pip (s : State)  : (s.draw ).pip = s.pip := rfl
@[simp] theorem State.draw_clk (s : State)  : (s.draw ).clk = s.clk := rfl
@[simp] theorem State.draw_radio (s : State)  : (s.draw ).radio = s.radio := rfl
@[simp] theorem State.draw_samp (s : State)  : (s.draw ).samp = s.samp := rfl
@[simp] theorem State.draw_cal (s : State)  : (s.draw ).cal = s.cal := rfl
@[simp] theorem State.draw_bcst (s : State)  : (s.draw ).bcst = s.bcst := rfl
@[simp] theorem State.draw_aud (s : State)  : (s.draw ).aud = s.aud := rfl
@[simp] theorem State.draw_tag (s : State)  : (s.draw ).tag = s.tag := rfl
@[simp] theorem State.draw_svc (s : State)  : (s.draw ).svc = s.svc := rfl
@[simp] theorem State.draw_tile (s : State)  : (s.draw ).tile = s.tile := rfl
@[simp] theorem State.draw_out (s : State)  : (s.draw ).out = s.out := rfl
@[simp] theorem State.draw_pending (s : State)  : (s.draw ).pending = s.pending := rfl
@[simp] theorem State.draw_rd (s : State)  (o : Nat) : (s.draw ).rd o = s.rd o := rfl
@[simp] theorem State.draw_get (s : State)  (y : FieldRef) : (s.draw ).get y = s.get y := rfl
@[simp] theorem State.draw_is (s : State)  (y : FieldRef) : (s.draw ).is y = s.is y := rfl
@[simp] theorem State.drawN_regs (s : State) (n : Nat) : (s.drawN n).regs = s.regs := rfl
@[simp] theorem State.drawN_env (s : State) (n : Nat) : (s.drawN n).env = s.env := rfl
@[simp] theorem State.drawN_top (s : State) (n : Nat) : (s.drawN n).top = s.top := rfl
@[simp] theorem State.drawN_pcie (s : State) (n : Nat) : (s.drawN n).pcie = s.pcie := rfl
@[simp] theorem State.drawN_boot (s : State) (n : Nat) : (s.drawN n).boot = s.boot := rfl
@[simp] theorem State.drawN_spi (s : State) (n : Nat) : (s.drawN n).spi = s.spi := rfl
@[simp] theorem State.drawN_jtag (s : State) (n : Nat) : (s.drawN n).jtag = s.jtag := rfl
@[simp] theorem State.drawN_hif (s : State) (n : Nat) : (s.drawN n).hif = s.hif := rfl
@[simp] theorem State.drawN_pwr (s : State) (n : Nat) : (s.drawN n).pwr = s.pwr := rfl
@[simp] theorem State.drawN_flt (s : State) (n : Nat) : (s.drawN n).flt = s.flt := rfl
@[simp] theorem State.drawN_lnk (s : State) (n : Nat) : (s.drawN n).lnk = s.lnk := rfl
@[simp] theorem State.drawN_store (s : State) (n : Nat) : (s.drawN n).store = s.store := rfl
@[simp] theorem State.drawN_exch (s : State) (n : Nat) : (s.drawN n).exch = s.exch := rfl
@[simp] theorem State.drawN_pip (s : State) (n : Nat) : (s.drawN n).pip = s.pip := rfl
@[simp] theorem State.drawN_clk (s : State) (n : Nat) : (s.drawN n).clk = s.clk := rfl
@[simp] theorem State.drawN_radio (s : State) (n : Nat) : (s.drawN n).radio = s.radio := rfl
@[simp] theorem State.drawN_samp (s : State) (n : Nat) : (s.drawN n).samp = s.samp := rfl
@[simp] theorem State.drawN_cal (s : State) (n : Nat) : (s.drawN n).cal = s.cal := rfl
@[simp] theorem State.drawN_bcst (s : State) (n : Nat) : (s.drawN n).bcst = s.bcst := rfl
@[simp] theorem State.drawN_aud (s : State) (n : Nat) : (s.drawN n).aud = s.aud := rfl
@[simp] theorem State.drawN_tag (s : State) (n : Nat) : (s.drawN n).tag = s.tag := rfl
@[simp] theorem State.drawN_svc (s : State) (n : Nat) : (s.drawN n).svc = s.svc := rfl
@[simp] theorem State.drawN_tile (s : State) (n : Nat) : (s.drawN n).tile = s.tile := rfl
@[simp] theorem State.drawN_out (s : State) (n : Nat) : (s.drawN n).out = s.out := rfl
@[simp] theorem State.drawN_pending (s : State) (n : Nat) : (s.drawN n).pending = s.pending := rfl
@[simp] theorem State.drawN_rd (s : State) (n : Nat) (o : Nat) : (s.drawN n).rd o = s.rd o := rfl
@[simp] theorem State.drawN_get (s : State) (n : Nat) (y : FieldRef) : (s.drawN n).get y = s.get y := rfl
@[simp] theorem State.drawN_is (s : State) (n : Nat) (y : FieldRef) : (s.drawN n).is y = s.is y := rfl
@[simp] theorem State.setTile_regs (s : State) (v : BitVec 32) : (s.setTile v).regs = s.regs := rfl
@[simp] theorem State.setTile_env (s : State) (v : BitVec 32) : (s.setTile v).env = s.env := rfl
@[simp] theorem State.setTile_top (s : State) (v : BitVec 32) : (s.setTile v).top = s.top := rfl
@[simp] theorem State.setTile_pcie (s : State) (v : BitVec 32) : (s.setTile v).pcie = s.pcie := rfl
@[simp] theorem State.setTile_boot (s : State) (v : BitVec 32) : (s.setTile v).boot = s.boot := rfl
@[simp] theorem State.setTile_spi (s : State) (v : BitVec 32) : (s.setTile v).spi = s.spi := rfl
@[simp] theorem State.setTile_jtag (s : State) (v : BitVec 32) : (s.setTile v).jtag = s.jtag := rfl
@[simp] theorem State.setTile_hif (s : State) (v : BitVec 32) : (s.setTile v).hif = s.hif := rfl
@[simp] theorem State.setTile_pwr (s : State) (v : BitVec 32) : (s.setTile v).pwr = s.pwr := rfl
@[simp] theorem State.setTile_flt (s : State) (v : BitVec 32) : (s.setTile v).flt = s.flt := rfl
@[simp] theorem State.setTile_lnk (s : State) (v : BitVec 32) : (s.setTile v).lnk = s.lnk := rfl
@[simp] theorem State.setTile_store (s : State) (v : BitVec 32) : (s.setTile v).store = s.store := rfl
@[simp] theorem State.setTile_exch (s : State) (v : BitVec 32) : (s.setTile v).exch = s.exch := rfl
@[simp] theorem State.setTile_pip (s : State) (v : BitVec 32) : (s.setTile v).pip = s.pip := rfl
@[simp] theorem State.setTile_clk (s : State) (v : BitVec 32) : (s.setTile v).clk = s.clk := rfl
@[simp] theorem State.setTile_radio (s : State) (v : BitVec 32) : (s.setTile v).radio = s.radio := rfl
@[simp] theorem State.setTile_samp (s : State) (v : BitVec 32) : (s.setTile v).samp = s.samp := rfl
@[simp] theorem State.setTile_cal (s : State) (v : BitVec 32) : (s.setTile v).cal = s.cal := rfl
@[simp] theorem State.setTile_bcst (s : State) (v : BitVec 32) : (s.setTile v).bcst = s.bcst := rfl
@[simp] theorem State.setTile_aud (s : State) (v : BitVec 32) : (s.setTile v).aud = s.aud := rfl
@[simp] theorem State.setTile_tag (s : State) (v : BitVec 32) : (s.setTile v).tag = s.tag := rfl
@[simp] theorem State.setTile_svc (s : State) (v : BitVec 32) : (s.setTile v).svc = s.svc := rfl
@[simp] theorem State.setTile_free (s : State) (v : BitVec 32) : (s.setTile v).free = s.free := rfl
@[simp] theorem State.setTile_out (s : State) (v : BitVec 32) : (s.setTile v).out = s.out := rfl
@[simp] theorem State.setTile_pending (s : State) (v : BitVec 32) : (s.setTile v).pending = s.pending := rfl
@[simp] theorem State.setTile_rd (s : State) (v : BitVec 32) (o : Nat) : (s.setTile v).rd o = s.rd o := rfl
@[simp] theorem State.setTile_get (s : State) (v : BitVec 32) (y : FieldRef) : (s.setTile v).get y = s.get y := rfl
@[simp] theorem State.setTile_is (s : State) (v : BitVec 32) (y : FieldRef) : (s.setTile v).is y = s.is y := rfl
@[simp] theorem State.emit_out (s : State) (o : Out) : (s.emit o).out = o :: s.out := rfl
@[simp] theorem State.draw_free (s : State) : s.draw.free = s.free + 1 := rfl
@[simp] theorem State.drawN_free (s : State) (n : Nat) : (s.drawN n).free = s.free + n := rfl
@[simp] theorem State.setTile_tile (s : State) (v : BitVec 32) : (s.setTile v).tile = v := rfl
@[simp] theorem State.modEnv_regs (s : State) (g : Env → Env) : (s.modEnv g).regs = s.regs := rfl
@[simp] theorem State.modEnv_top (s : State) (g : Env → Env) : (s.modEnv g).top = s.top := rfl
@[simp] theorem State.modEnv_pcie (s : State) (g : Env → Env) : (s.modEnv g).pcie = s.pcie := rfl
@[simp] theorem State.modEnv_boot (s : State) (g : Env → Env) : (s.modEnv g).boot = s.boot := rfl
@[simp] theorem State.modEnv_spi (s : State) (g : Env → Env) : (s.modEnv g).spi = s.spi := rfl
@[simp] theorem State.modEnv_jtag (s : State) (g : Env → Env) : (s.modEnv g).jtag = s.jtag := rfl
@[simp] theorem State.modEnv_hif (s : State) (g : Env → Env) : (s.modEnv g).hif = s.hif := rfl
@[simp] theorem State.modEnv_pwr (s : State) (g : Env → Env) : (s.modEnv g).pwr = s.pwr := rfl
@[simp] theorem State.modEnv_flt (s : State) (g : Env → Env) : (s.modEnv g).flt = s.flt := rfl
@[simp] theorem State.modEnv_lnk (s : State) (g : Env → Env) : (s.modEnv g).lnk = s.lnk := rfl
@[simp] theorem State.modEnv_store (s : State) (g : Env → Env) : (s.modEnv g).store = s.store := rfl
@[simp] theorem State.modEnv_exch (s : State) (g : Env → Env) : (s.modEnv g).exch = s.exch := rfl
@[simp] theorem State.modEnv_pip (s : State) (g : Env → Env) : (s.modEnv g).pip = s.pip := rfl
@[simp] theorem State.modEnv_clk (s : State) (g : Env → Env) : (s.modEnv g).clk = s.clk := rfl
@[simp] theorem State.modEnv_radio (s : State) (g : Env → Env) : (s.modEnv g).radio = s.radio := rfl
@[simp] theorem State.modEnv_samp (s : State) (g : Env → Env) : (s.modEnv g).samp = s.samp := rfl
@[simp] theorem State.modEnv_cal (s : State) (g : Env → Env) : (s.modEnv g).cal = s.cal := rfl
@[simp] theorem State.modEnv_bcst (s : State) (g : Env → Env) : (s.modEnv g).bcst = s.bcst := rfl
@[simp] theorem State.modEnv_aud (s : State) (g : Env → Env) : (s.modEnv g).aud = s.aud := rfl
@[simp] theorem State.modEnv_tag (s : State) (g : Env → Env) : (s.modEnv g).tag = s.tag := rfl
@[simp] theorem State.modEnv_svc (s : State) (g : Env → Env) : (s.modEnv g).svc = s.svc := rfl
@[simp] theorem State.modEnv_tile (s : State) (g : Env → Env) : (s.modEnv g).tile = s.tile := rfl
@[simp] theorem State.modEnv_free (s : State) (g : Env → Env) : (s.modEnv g).free = s.free := rfl
@[simp] theorem State.modEnv_out (s : State) (g : Env → Env) : (s.modEnv g).out = s.out := rfl
@[simp] theorem State.modEnv_pending (s : State) (g : Env → Env) : (s.modEnv g).pending = s.pending := rfl
@[simp] theorem State.modEnv_env (s : State) (g : Env → Env) : (s.modEnv g).env = g s.env := rfl
@[simp] theorem State.modEnv_rd (s : State) (g : Env → Env) (o : Nat) : (s.modEnv g).rd o = s.rd o := rfl
@[simp] theorem State.modEnv_get (s : State) (g : Env → Env) (y : FieldRef) : (s.modEnv g).get y = s.get y := rfl
@[simp] theorem State.modEnv_is (s : State) (g : Env → Env) (y : FieldRef) : (s.modEnv g).is y = s.is y := rfl
@[simp] theorem State.modPcie_regs (s : State) (g : Pcie → Pcie) : (s.modPcie g).regs = s.regs := rfl
@[simp] theorem State.modPcie_env (s : State) (g : Pcie → Pcie) : (s.modPcie g).env = s.env := rfl
@[simp] theorem State.modPcie_top (s : State) (g : Pcie → Pcie) : (s.modPcie g).top = s.top := rfl
@[simp] theorem State.modPcie_boot (s : State) (g : Pcie → Pcie) : (s.modPcie g).boot = s.boot := rfl
@[simp] theorem State.modPcie_spi (s : State) (g : Pcie → Pcie) : (s.modPcie g).spi = s.spi := rfl
@[simp] theorem State.modPcie_jtag (s : State) (g : Pcie → Pcie) : (s.modPcie g).jtag = s.jtag := rfl
@[simp] theorem State.modPcie_hif (s : State) (g : Pcie → Pcie) : (s.modPcie g).hif = s.hif := rfl
@[simp] theorem State.modPcie_pwr (s : State) (g : Pcie → Pcie) : (s.modPcie g).pwr = s.pwr := rfl
@[simp] theorem State.modPcie_flt (s : State) (g : Pcie → Pcie) : (s.modPcie g).flt = s.flt := rfl
@[simp] theorem State.modPcie_lnk (s : State) (g : Pcie → Pcie) : (s.modPcie g).lnk = s.lnk := rfl
@[simp] theorem State.modPcie_store (s : State) (g : Pcie → Pcie) : (s.modPcie g).store = s.store := rfl
@[simp] theorem State.modPcie_exch (s : State) (g : Pcie → Pcie) : (s.modPcie g).exch = s.exch := rfl
@[simp] theorem State.modPcie_pip (s : State) (g : Pcie → Pcie) : (s.modPcie g).pip = s.pip := rfl
@[simp] theorem State.modPcie_clk (s : State) (g : Pcie → Pcie) : (s.modPcie g).clk = s.clk := rfl
@[simp] theorem State.modPcie_radio (s : State) (g : Pcie → Pcie) : (s.modPcie g).radio = s.radio := rfl
@[simp] theorem State.modPcie_samp (s : State) (g : Pcie → Pcie) : (s.modPcie g).samp = s.samp := rfl
@[simp] theorem State.modPcie_cal (s : State) (g : Pcie → Pcie) : (s.modPcie g).cal = s.cal := rfl
@[simp] theorem State.modPcie_bcst (s : State) (g : Pcie → Pcie) : (s.modPcie g).bcst = s.bcst := rfl
@[simp] theorem State.modPcie_aud (s : State) (g : Pcie → Pcie) : (s.modPcie g).aud = s.aud := rfl
@[simp] theorem State.modPcie_tag (s : State) (g : Pcie → Pcie) : (s.modPcie g).tag = s.tag := rfl
@[simp] theorem State.modPcie_svc (s : State) (g : Pcie → Pcie) : (s.modPcie g).svc = s.svc := rfl
@[simp] theorem State.modPcie_tile (s : State) (g : Pcie → Pcie) : (s.modPcie g).tile = s.tile := rfl
@[simp] theorem State.modPcie_free (s : State) (g : Pcie → Pcie) : (s.modPcie g).free = s.free := rfl
@[simp] theorem State.modPcie_out (s : State) (g : Pcie → Pcie) : (s.modPcie g).out = s.out := rfl
@[simp] theorem State.modPcie_pending (s : State) (g : Pcie → Pcie) : (s.modPcie g).pending = s.pending := rfl
@[simp] theorem State.modPcie_pcie (s : State) (g : Pcie → Pcie) : (s.modPcie g).pcie = g s.pcie := rfl
@[simp] theorem State.modPcie_rd (s : State) (g : Pcie → Pcie) (o : Nat) : (s.modPcie g).rd o = s.rd o := rfl
@[simp] theorem State.modPcie_get (s : State) (g : Pcie → Pcie) (y : FieldRef) : (s.modPcie g).get y = s.get y := rfl
@[simp] theorem State.modPcie_is (s : State) (g : Pcie → Pcie) (y : FieldRef) : (s.modPcie g).is y = s.is y := rfl
@[simp] theorem State.modSpi_regs (s : State) (g : Spi → Spi) : (s.modSpi g).regs = s.regs := rfl
@[simp] theorem State.modSpi_env (s : State) (g : Spi → Spi) : (s.modSpi g).env = s.env := rfl
@[simp] theorem State.modSpi_top (s : State) (g : Spi → Spi) : (s.modSpi g).top = s.top := rfl
@[simp] theorem State.modSpi_pcie (s : State) (g : Spi → Spi) : (s.modSpi g).pcie = s.pcie := rfl
@[simp] theorem State.modSpi_boot (s : State) (g : Spi → Spi) : (s.modSpi g).boot = s.boot := rfl
@[simp] theorem State.modSpi_jtag (s : State) (g : Spi → Spi) : (s.modSpi g).jtag = s.jtag := rfl
@[simp] theorem State.modSpi_hif (s : State) (g : Spi → Spi) : (s.modSpi g).hif = s.hif := rfl
@[simp] theorem State.modSpi_pwr (s : State) (g : Spi → Spi) : (s.modSpi g).pwr = s.pwr := rfl
@[simp] theorem State.modSpi_flt (s : State) (g : Spi → Spi) : (s.modSpi g).flt = s.flt := rfl
@[simp] theorem State.modSpi_lnk (s : State) (g : Spi → Spi) : (s.modSpi g).lnk = s.lnk := rfl
@[simp] theorem State.modSpi_store (s : State) (g : Spi → Spi) : (s.modSpi g).store = s.store := rfl
@[simp] theorem State.modSpi_exch (s : State) (g : Spi → Spi) : (s.modSpi g).exch = s.exch := rfl
@[simp] theorem State.modSpi_pip (s : State) (g : Spi → Spi) : (s.modSpi g).pip = s.pip := rfl
@[simp] theorem State.modSpi_clk (s : State) (g : Spi → Spi) : (s.modSpi g).clk = s.clk := rfl
@[simp] theorem State.modSpi_radio (s : State) (g : Spi → Spi) : (s.modSpi g).radio = s.radio := rfl
@[simp] theorem State.modSpi_samp (s : State) (g : Spi → Spi) : (s.modSpi g).samp = s.samp := rfl
@[simp] theorem State.modSpi_cal (s : State) (g : Spi → Spi) : (s.modSpi g).cal = s.cal := rfl
@[simp] theorem State.modSpi_bcst (s : State) (g : Spi → Spi) : (s.modSpi g).bcst = s.bcst := rfl
@[simp] theorem State.modSpi_aud (s : State) (g : Spi → Spi) : (s.modSpi g).aud = s.aud := rfl
@[simp] theorem State.modSpi_tag (s : State) (g : Spi → Spi) : (s.modSpi g).tag = s.tag := rfl
@[simp] theorem State.modSpi_svc (s : State) (g : Spi → Spi) : (s.modSpi g).svc = s.svc := rfl
@[simp] theorem State.modSpi_tile (s : State) (g : Spi → Spi) : (s.modSpi g).tile = s.tile := rfl
@[simp] theorem State.modSpi_free (s : State) (g : Spi → Spi) : (s.modSpi g).free = s.free := rfl
@[simp] theorem State.modSpi_out (s : State) (g : Spi → Spi) : (s.modSpi g).out = s.out := rfl
@[simp] theorem State.modSpi_pending (s : State) (g : Spi → Spi) : (s.modSpi g).pending = s.pending := rfl
@[simp] theorem State.modSpi_spi (s : State) (g : Spi → Spi) : (s.modSpi g).spi = g s.spi := rfl
@[simp] theorem State.modSpi_rd (s : State) (g : Spi → Spi) (o : Nat) : (s.modSpi g).rd o = s.rd o := rfl
@[simp] theorem State.modSpi_get (s : State) (g : Spi → Spi) (y : FieldRef) : (s.modSpi g).get y = s.get y := rfl
@[simp] theorem State.modSpi_is (s : State) (g : Spi → Spi) (y : FieldRef) : (s.modSpi g).is y = s.is y := rfl
@[simp] theorem State.modJtag_regs (s : State) (g : Jtag → Jtag) : (s.modJtag g).regs = s.regs := rfl
@[simp] theorem State.modJtag_env (s : State) (g : Jtag → Jtag) : (s.modJtag g).env = s.env := rfl
@[simp] theorem State.modJtag_top (s : State) (g : Jtag → Jtag) : (s.modJtag g).top = s.top := rfl
@[simp] theorem State.modJtag_pcie (s : State) (g : Jtag → Jtag) : (s.modJtag g).pcie = s.pcie := rfl
@[simp] theorem State.modJtag_boot (s : State) (g : Jtag → Jtag) : (s.modJtag g).boot = s.boot := rfl
@[simp] theorem State.modJtag_spi (s : State) (g : Jtag → Jtag) : (s.modJtag g).spi = s.spi := rfl
@[simp] theorem State.modJtag_hif (s : State) (g : Jtag → Jtag) : (s.modJtag g).hif = s.hif := rfl
@[simp] theorem State.modJtag_pwr (s : State) (g : Jtag → Jtag) : (s.modJtag g).pwr = s.pwr := rfl
@[simp] theorem State.modJtag_flt (s : State) (g : Jtag → Jtag) : (s.modJtag g).flt = s.flt := rfl
@[simp] theorem State.modJtag_lnk (s : State) (g : Jtag → Jtag) : (s.modJtag g).lnk = s.lnk := rfl
@[simp] theorem State.modJtag_store (s : State) (g : Jtag → Jtag) : (s.modJtag g).store = s.store := rfl
@[simp] theorem State.modJtag_exch (s : State) (g : Jtag → Jtag) : (s.modJtag g).exch = s.exch := rfl
@[simp] theorem State.modJtag_pip (s : State) (g : Jtag → Jtag) : (s.modJtag g).pip = s.pip := rfl
@[simp] theorem State.modJtag_clk (s : State) (g : Jtag → Jtag) : (s.modJtag g).clk = s.clk := rfl
@[simp] theorem State.modJtag_radio (s : State) (g : Jtag → Jtag) : (s.modJtag g).radio = s.radio := rfl
@[simp] theorem State.modJtag_samp (s : State) (g : Jtag → Jtag) : (s.modJtag g).samp = s.samp := rfl
@[simp] theorem State.modJtag_cal (s : State) (g : Jtag → Jtag) : (s.modJtag g).cal = s.cal := rfl
@[simp] theorem State.modJtag_bcst (s : State) (g : Jtag → Jtag) : (s.modJtag g).bcst = s.bcst := rfl
@[simp] theorem State.modJtag_aud (s : State) (g : Jtag → Jtag) : (s.modJtag g).aud = s.aud := rfl
@[simp] theorem State.modJtag_tag (s : State) (g : Jtag → Jtag) : (s.modJtag g).tag = s.tag := rfl
@[simp] theorem State.modJtag_svc (s : State) (g : Jtag → Jtag) : (s.modJtag g).svc = s.svc := rfl
@[simp] theorem State.modJtag_tile (s : State) (g : Jtag → Jtag) : (s.modJtag g).tile = s.tile := rfl
@[simp] theorem State.modJtag_free (s : State) (g : Jtag → Jtag) : (s.modJtag g).free = s.free := rfl
@[simp] theorem State.modJtag_out (s : State) (g : Jtag → Jtag) : (s.modJtag g).out = s.out := rfl
@[simp] theorem State.modJtag_pending (s : State) (g : Jtag → Jtag) : (s.modJtag g).pending = s.pending := rfl
@[simp] theorem State.modJtag_jtag (s : State) (g : Jtag → Jtag) : (s.modJtag g).jtag = g s.jtag := rfl
@[simp] theorem State.modJtag_rd (s : State) (g : Jtag → Jtag) (o : Nat) : (s.modJtag g).rd o = s.rd o := rfl
@[simp] theorem State.modJtag_get (s : State) (g : Jtag → Jtag) (y : FieldRef) : (s.modJtag g).get y = s.get y := rfl
@[simp] theorem State.modJtag_is (s : State) (g : Jtag → Jtag) (y : FieldRef) : (s.modJtag g).is y = s.is y := rfl
@[simp] theorem State.modTop_regs (s : State) (g : Top → Top) : (s.modTop g).regs = s.regs := rfl
@[simp] theorem State.modTop_env (s : State) (g : Top → Top) : (s.modTop g).env = s.env := rfl
@[simp] theorem State.modTop_pcie (s : State) (g : Top → Top) : (s.modTop g).pcie = s.pcie := rfl
@[simp] theorem State.modTop_boot (s : State) (g : Top → Top) : (s.modTop g).boot = s.boot := rfl
@[simp] theorem State.modTop_spi (s : State) (g : Top → Top) : (s.modTop g).spi = s.spi := rfl
@[simp] theorem State.modTop_jtag (s : State) (g : Top → Top) : (s.modTop g).jtag = s.jtag := rfl
@[simp] theorem State.modTop_hif (s : State) (g : Top → Top) : (s.modTop g).hif = s.hif := rfl
@[simp] theorem State.modTop_pwr (s : State) (g : Top → Top) : (s.modTop g).pwr = s.pwr := rfl
@[simp] theorem State.modTop_flt (s : State) (g : Top → Top) : (s.modTop g).flt = s.flt := rfl
@[simp] theorem State.modTop_lnk (s : State) (g : Top → Top) : (s.modTop g).lnk = s.lnk := rfl
@[simp] theorem State.modTop_store (s : State) (g : Top → Top) : (s.modTop g).store = s.store := rfl
@[simp] theorem State.modTop_exch (s : State) (g : Top → Top) : (s.modTop g).exch = s.exch := rfl
@[simp] theorem State.modTop_pip (s : State) (g : Top → Top) : (s.modTop g).pip = s.pip := rfl
@[simp] theorem State.modTop_clk (s : State) (g : Top → Top) : (s.modTop g).clk = s.clk := rfl
@[simp] theorem State.modTop_radio (s : State) (g : Top → Top) : (s.modTop g).radio = s.radio := rfl
@[simp] theorem State.modTop_samp (s : State) (g : Top → Top) : (s.modTop g).samp = s.samp := rfl
@[simp] theorem State.modTop_cal (s : State) (g : Top → Top) : (s.modTop g).cal = s.cal := rfl
@[simp] theorem State.modTop_bcst (s : State) (g : Top → Top) : (s.modTop g).bcst = s.bcst := rfl
@[simp] theorem State.modTop_aud (s : State) (g : Top → Top) : (s.modTop g).aud = s.aud := rfl
@[simp] theorem State.modTop_tag (s : State) (g : Top → Top) : (s.modTop g).tag = s.tag := rfl
@[simp] theorem State.modTop_svc (s : State) (g : Top → Top) : (s.modTop g).svc = s.svc := rfl
@[simp] theorem State.modTop_tile (s : State) (g : Top → Top) : (s.modTop g).tile = s.tile := rfl
@[simp] theorem State.modTop_free (s : State) (g : Top → Top) : (s.modTop g).free = s.free := rfl
@[simp] theorem State.modTop_out (s : State) (g : Top → Top) : (s.modTop g).out = s.out := rfl
@[simp] theorem State.modTop_pending (s : State) (g : Top → Top) : (s.modTop g).pending = s.pending := rfl
@[simp] theorem State.modTop_top (s : State) (g : Top → Top) : (s.modTop g).top = g s.top := rfl
@[simp] theorem State.modTop_rd (s : State) (g : Top → Top) (o : Nat) : (s.modTop g).rd o = s.rd o := rfl
@[simp] theorem State.modTop_get (s : State) (g : Top → Top) (y : FieldRef) : (s.modTop g).get y = s.get y := rfl
@[simp] theorem State.modTop_is (s : State) (g : Top → Top) (y : FieldRef) : (s.modTop g).is y = s.is y := rfl
@[simp] theorem State.modBoot_regs (s : State) (g : Boot → Boot) : (s.modBoot g).regs = s.regs := rfl
@[simp] theorem State.modBoot_env (s : State) (g : Boot → Boot) : (s.modBoot g).env = s.env := rfl
@[simp] theorem State.modBoot_top (s : State) (g : Boot → Boot) : (s.modBoot g).top = s.top := rfl
@[simp] theorem State.modBoot_pcie (s : State) (g : Boot → Boot) : (s.modBoot g).pcie = s.pcie := rfl
@[simp] theorem State.modBoot_spi (s : State) (g : Boot → Boot) : (s.modBoot g).spi = s.spi := rfl
@[simp] theorem State.modBoot_jtag (s : State) (g : Boot → Boot) : (s.modBoot g).jtag = s.jtag := rfl
@[simp] theorem State.modBoot_hif (s : State) (g : Boot → Boot) : (s.modBoot g).hif = s.hif := rfl
@[simp] theorem State.modBoot_pwr (s : State) (g : Boot → Boot) : (s.modBoot g).pwr = s.pwr := rfl
@[simp] theorem State.modBoot_flt (s : State) (g : Boot → Boot) : (s.modBoot g).flt = s.flt := rfl
@[simp] theorem State.modBoot_lnk (s : State) (g : Boot → Boot) : (s.modBoot g).lnk = s.lnk := rfl
@[simp] theorem State.modBoot_store (s : State) (g : Boot → Boot) : (s.modBoot g).store = s.store := rfl
@[simp] theorem State.modBoot_exch (s : State) (g : Boot → Boot) : (s.modBoot g).exch = s.exch := rfl
@[simp] theorem State.modBoot_pip (s : State) (g : Boot → Boot) : (s.modBoot g).pip = s.pip := rfl
@[simp] theorem State.modBoot_clk (s : State) (g : Boot → Boot) : (s.modBoot g).clk = s.clk := rfl
@[simp] theorem State.modBoot_radio (s : State) (g : Boot → Boot) : (s.modBoot g).radio = s.radio := rfl
@[simp] theorem State.modBoot_samp (s : State) (g : Boot → Boot) : (s.modBoot g).samp = s.samp := rfl
@[simp] theorem State.modBoot_cal (s : State) (g : Boot → Boot) : (s.modBoot g).cal = s.cal := rfl
@[simp] theorem State.modBoot_bcst (s : State) (g : Boot → Boot) : (s.modBoot g).bcst = s.bcst := rfl
@[simp] theorem State.modBoot_aud (s : State) (g : Boot → Boot) : (s.modBoot g).aud = s.aud := rfl
@[simp] theorem State.modBoot_tag (s : State) (g : Boot → Boot) : (s.modBoot g).tag = s.tag := rfl
@[simp] theorem State.modBoot_svc (s : State) (g : Boot → Boot) : (s.modBoot g).svc = s.svc := rfl
@[simp] theorem State.modBoot_tile (s : State) (g : Boot → Boot) : (s.modBoot g).tile = s.tile := rfl
@[simp] theorem State.modBoot_free (s : State) (g : Boot → Boot) : (s.modBoot g).free = s.free := rfl
@[simp] theorem State.modBoot_out (s : State) (g : Boot → Boot) : (s.modBoot g).out = s.out := rfl
@[simp] theorem State.modBoot_pending (s : State) (g : Boot → Boot) : (s.modBoot g).pending = s.pending := rfl
@[simp] theorem State.modBoot_boot (s : State) (g : Boot → Boot) : (s.modBoot g).boot = g s.boot := rfl
@[simp] theorem State.modBoot_rd (s : State) (g : Boot → Boot) (o : Nat) : (s.modBoot g).rd o = s.rd o := rfl
@[simp] theorem State.modBoot_get (s : State) (g : Boot → Boot) (y : FieldRef) : (s.modBoot g).get y = s.get y := rfl
@[simp] theorem State.modBoot_is (s : State) (g : Boot → Boot) (y : FieldRef) : (s.modBoot g).is y = s.is y := rfl
@[simp] theorem State.modHif_regs (s : State) (g : Hif → Hif) : (s.modHif g).regs = s.regs := rfl
@[simp] theorem State.modHif_env (s : State) (g : Hif → Hif) : (s.modHif g).env = s.env := rfl
@[simp] theorem State.modHif_top (s : State) (g : Hif → Hif) : (s.modHif g).top = s.top := rfl
@[simp] theorem State.modHif_pcie (s : State) (g : Hif → Hif) : (s.modHif g).pcie = s.pcie := rfl
@[simp] theorem State.modHif_boot (s : State) (g : Hif → Hif) : (s.modHif g).boot = s.boot := rfl
@[simp] theorem State.modHif_spi (s : State) (g : Hif → Hif) : (s.modHif g).spi = s.spi := rfl
@[simp] theorem State.modHif_jtag (s : State) (g : Hif → Hif) : (s.modHif g).jtag = s.jtag := rfl
@[simp] theorem State.modHif_pwr (s : State) (g : Hif → Hif) : (s.modHif g).pwr = s.pwr := rfl
@[simp] theorem State.modHif_flt (s : State) (g : Hif → Hif) : (s.modHif g).flt = s.flt := rfl
@[simp] theorem State.modHif_lnk (s : State) (g : Hif → Hif) : (s.modHif g).lnk = s.lnk := rfl
@[simp] theorem State.modHif_store (s : State) (g : Hif → Hif) : (s.modHif g).store = s.store := rfl
@[simp] theorem State.modHif_exch (s : State) (g : Hif → Hif) : (s.modHif g).exch = s.exch := rfl
@[simp] theorem State.modHif_pip (s : State) (g : Hif → Hif) : (s.modHif g).pip = s.pip := rfl
@[simp] theorem State.modHif_clk (s : State) (g : Hif → Hif) : (s.modHif g).clk = s.clk := rfl
@[simp] theorem State.modHif_radio (s : State) (g : Hif → Hif) : (s.modHif g).radio = s.radio := rfl
@[simp] theorem State.modHif_samp (s : State) (g : Hif → Hif) : (s.modHif g).samp = s.samp := rfl
@[simp] theorem State.modHif_cal (s : State) (g : Hif → Hif) : (s.modHif g).cal = s.cal := rfl
@[simp] theorem State.modHif_bcst (s : State) (g : Hif → Hif) : (s.modHif g).bcst = s.bcst := rfl
@[simp] theorem State.modHif_aud (s : State) (g : Hif → Hif) : (s.modHif g).aud = s.aud := rfl
@[simp] theorem State.modHif_tag (s : State) (g : Hif → Hif) : (s.modHif g).tag = s.tag := rfl
@[simp] theorem State.modHif_svc (s : State) (g : Hif → Hif) : (s.modHif g).svc = s.svc := rfl
@[simp] theorem State.modHif_tile (s : State) (g : Hif → Hif) : (s.modHif g).tile = s.tile := rfl
@[simp] theorem State.modHif_free (s : State) (g : Hif → Hif) : (s.modHif g).free = s.free := rfl
@[simp] theorem State.modHif_out (s : State) (g : Hif → Hif) : (s.modHif g).out = s.out := rfl
@[simp] theorem State.modHif_pending (s : State) (g : Hif → Hif) : (s.modHif g).pending = s.pending := rfl
@[simp] theorem State.modHif_hif (s : State) (g : Hif → Hif) : (s.modHif g).hif = g s.hif := rfl
@[simp] theorem State.modHif_rd (s : State) (g : Hif → Hif) (o : Nat) : (s.modHif g).rd o = s.rd o := rfl
@[simp] theorem State.modHif_get (s : State) (g : Hif → Hif) (y : FieldRef) : (s.modHif g).get y = s.get y := rfl
@[simp] theorem State.modHif_is (s : State) (g : Hif → Hif) (y : FieldRef) : (s.modHif g).is y = s.is y := rfl
@[simp] theorem State.modPwr_regs (s : State) (g : Pwr → Pwr) : (s.modPwr g).regs = s.regs := rfl
@[simp] theorem State.modPwr_env (s : State) (g : Pwr → Pwr) : (s.modPwr g).env = s.env := rfl
@[simp] theorem State.modPwr_top (s : State) (g : Pwr → Pwr) : (s.modPwr g).top = s.top := rfl
@[simp] theorem State.modPwr_pcie (s : State) (g : Pwr → Pwr) : (s.modPwr g).pcie = s.pcie := rfl
@[simp] theorem State.modPwr_boot (s : State) (g : Pwr → Pwr) : (s.modPwr g).boot = s.boot := rfl
@[simp] theorem State.modPwr_spi (s : State) (g : Pwr → Pwr) : (s.modPwr g).spi = s.spi := rfl
@[simp] theorem State.modPwr_jtag (s : State) (g : Pwr → Pwr) : (s.modPwr g).jtag = s.jtag := rfl
@[simp] theorem State.modPwr_hif (s : State) (g : Pwr → Pwr) : (s.modPwr g).hif = s.hif := rfl
@[simp] theorem State.modPwr_flt (s : State) (g : Pwr → Pwr) : (s.modPwr g).flt = s.flt := rfl
@[simp] theorem State.modPwr_lnk (s : State) (g : Pwr → Pwr) : (s.modPwr g).lnk = s.lnk := rfl
@[simp] theorem State.modPwr_store (s : State) (g : Pwr → Pwr) : (s.modPwr g).store = s.store := rfl
@[simp] theorem State.modPwr_exch (s : State) (g : Pwr → Pwr) : (s.modPwr g).exch = s.exch := rfl
@[simp] theorem State.modPwr_pip (s : State) (g : Pwr → Pwr) : (s.modPwr g).pip = s.pip := rfl
@[simp] theorem State.modPwr_clk (s : State) (g : Pwr → Pwr) : (s.modPwr g).clk = s.clk := rfl
@[simp] theorem State.modPwr_radio (s : State) (g : Pwr → Pwr) : (s.modPwr g).radio = s.radio := rfl
@[simp] theorem State.modPwr_samp (s : State) (g : Pwr → Pwr) : (s.modPwr g).samp = s.samp := rfl
@[simp] theorem State.modPwr_cal (s : State) (g : Pwr → Pwr) : (s.modPwr g).cal = s.cal := rfl
@[simp] theorem State.modPwr_bcst (s : State) (g : Pwr → Pwr) : (s.modPwr g).bcst = s.bcst := rfl
@[simp] theorem State.modPwr_aud (s : State) (g : Pwr → Pwr) : (s.modPwr g).aud = s.aud := rfl
@[simp] theorem State.modPwr_tag (s : State) (g : Pwr → Pwr) : (s.modPwr g).tag = s.tag := rfl
@[simp] theorem State.modPwr_svc (s : State) (g : Pwr → Pwr) : (s.modPwr g).svc = s.svc := rfl
@[simp] theorem State.modPwr_tile (s : State) (g : Pwr → Pwr) : (s.modPwr g).tile = s.tile := rfl
@[simp] theorem State.modPwr_free (s : State) (g : Pwr → Pwr) : (s.modPwr g).free = s.free := rfl
@[simp] theorem State.modPwr_out (s : State) (g : Pwr → Pwr) : (s.modPwr g).out = s.out := rfl
@[simp] theorem State.modPwr_pending (s : State) (g : Pwr → Pwr) : (s.modPwr g).pending = s.pending := rfl
@[simp] theorem State.modPwr_pwr (s : State) (g : Pwr → Pwr) : (s.modPwr g).pwr = g s.pwr := rfl
@[simp] theorem State.modPwr_rd (s : State) (g : Pwr → Pwr) (o : Nat) : (s.modPwr g).rd o = s.rd o := rfl
@[simp] theorem State.modPwr_get (s : State) (g : Pwr → Pwr) (y : FieldRef) : (s.modPwr g).get y = s.get y := rfl
@[simp] theorem State.modPwr_is (s : State) (g : Pwr → Pwr) (y : FieldRef) : (s.modPwr g).is y = s.is y := rfl
@[simp] theorem State.modFlt_regs (s : State) (g : Flt → Flt) : (s.modFlt g).regs = s.regs := rfl
@[simp] theorem State.modFlt_env (s : State) (g : Flt → Flt) : (s.modFlt g).env = s.env := rfl
@[simp] theorem State.modFlt_top (s : State) (g : Flt → Flt) : (s.modFlt g).top = s.top := rfl
@[simp] theorem State.modFlt_pcie (s : State) (g : Flt → Flt) : (s.modFlt g).pcie = s.pcie := rfl
@[simp] theorem State.modFlt_boot (s : State) (g : Flt → Flt) : (s.modFlt g).boot = s.boot := rfl
@[simp] theorem State.modFlt_spi (s : State) (g : Flt → Flt) : (s.modFlt g).spi = s.spi := rfl
@[simp] theorem State.modFlt_jtag (s : State) (g : Flt → Flt) : (s.modFlt g).jtag = s.jtag := rfl
@[simp] theorem State.modFlt_hif (s : State) (g : Flt → Flt) : (s.modFlt g).hif = s.hif := rfl
@[simp] theorem State.modFlt_pwr (s : State) (g : Flt → Flt) : (s.modFlt g).pwr = s.pwr := rfl
@[simp] theorem State.modFlt_lnk (s : State) (g : Flt → Flt) : (s.modFlt g).lnk = s.lnk := rfl
@[simp] theorem State.modFlt_store (s : State) (g : Flt → Flt) : (s.modFlt g).store = s.store := rfl
@[simp] theorem State.modFlt_exch (s : State) (g : Flt → Flt) : (s.modFlt g).exch = s.exch := rfl
@[simp] theorem State.modFlt_pip (s : State) (g : Flt → Flt) : (s.modFlt g).pip = s.pip := rfl
@[simp] theorem State.modFlt_clk (s : State) (g : Flt → Flt) : (s.modFlt g).clk = s.clk := rfl
@[simp] theorem State.modFlt_radio (s : State) (g : Flt → Flt) : (s.modFlt g).radio = s.radio := rfl
@[simp] theorem State.modFlt_samp (s : State) (g : Flt → Flt) : (s.modFlt g).samp = s.samp := rfl
@[simp] theorem State.modFlt_cal (s : State) (g : Flt → Flt) : (s.modFlt g).cal = s.cal := rfl
@[simp] theorem State.modFlt_bcst (s : State) (g : Flt → Flt) : (s.modFlt g).bcst = s.bcst := rfl
@[simp] theorem State.modFlt_aud (s : State) (g : Flt → Flt) : (s.modFlt g).aud = s.aud := rfl
@[simp] theorem State.modFlt_tag (s : State) (g : Flt → Flt) : (s.modFlt g).tag = s.tag := rfl
@[simp] theorem State.modFlt_svc (s : State) (g : Flt → Flt) : (s.modFlt g).svc = s.svc := rfl
@[simp] theorem State.modFlt_tile (s : State) (g : Flt → Flt) : (s.modFlt g).tile = s.tile := rfl
@[simp] theorem State.modFlt_free (s : State) (g : Flt → Flt) : (s.modFlt g).free = s.free := rfl
@[simp] theorem State.modFlt_out (s : State) (g : Flt → Flt) : (s.modFlt g).out = s.out := rfl
@[simp] theorem State.modFlt_pending (s : State) (g : Flt → Flt) : (s.modFlt g).pending = s.pending := rfl
@[simp] theorem State.modFlt_flt (s : State) (g : Flt → Flt) : (s.modFlt g).flt = g s.flt := rfl
@[simp] theorem State.modFlt_rd (s : State) (g : Flt → Flt) (o : Nat) : (s.modFlt g).rd o = s.rd o := rfl
@[simp] theorem State.modFlt_get (s : State) (g : Flt → Flt) (y : FieldRef) : (s.modFlt g).get y = s.get y := rfl
@[simp] theorem State.modFlt_is (s : State) (g : Flt → Flt) (y : FieldRef) : (s.modFlt g).is y = s.is y := rfl
@[simp] theorem State.modLnk_regs (s : State) (g : Lnk → Lnk) : (s.modLnk g).regs = s.regs := rfl
@[simp] theorem State.modLnk_env (s : State) (g : Lnk → Lnk) : (s.modLnk g).env = s.env := rfl
@[simp] theorem State.modLnk_top (s : State) (g : Lnk → Lnk) : (s.modLnk g).top = s.top := rfl
@[simp] theorem State.modLnk_pcie (s : State) (g : Lnk → Lnk) : (s.modLnk g).pcie = s.pcie := rfl
@[simp] theorem State.modLnk_boot (s : State) (g : Lnk → Lnk) : (s.modLnk g).boot = s.boot := rfl
@[simp] theorem State.modLnk_spi (s : State) (g : Lnk → Lnk) : (s.modLnk g).spi = s.spi := rfl
@[simp] theorem State.modLnk_jtag (s : State) (g : Lnk → Lnk) : (s.modLnk g).jtag = s.jtag := rfl
@[simp] theorem State.modLnk_hif (s : State) (g : Lnk → Lnk) : (s.modLnk g).hif = s.hif := rfl
@[simp] theorem State.modLnk_pwr (s : State) (g : Lnk → Lnk) : (s.modLnk g).pwr = s.pwr := rfl
@[simp] theorem State.modLnk_flt (s : State) (g : Lnk → Lnk) : (s.modLnk g).flt = s.flt := rfl
@[simp] theorem State.modLnk_store (s : State) (g : Lnk → Lnk) : (s.modLnk g).store = s.store := rfl
@[simp] theorem State.modLnk_exch (s : State) (g : Lnk → Lnk) : (s.modLnk g).exch = s.exch := rfl
@[simp] theorem State.modLnk_pip (s : State) (g : Lnk → Lnk) : (s.modLnk g).pip = s.pip := rfl
@[simp] theorem State.modLnk_clk (s : State) (g : Lnk → Lnk) : (s.modLnk g).clk = s.clk := rfl
@[simp] theorem State.modLnk_radio (s : State) (g : Lnk → Lnk) : (s.modLnk g).radio = s.radio := rfl
@[simp] theorem State.modLnk_samp (s : State) (g : Lnk → Lnk) : (s.modLnk g).samp = s.samp := rfl
@[simp] theorem State.modLnk_cal (s : State) (g : Lnk → Lnk) : (s.modLnk g).cal = s.cal := rfl
@[simp] theorem State.modLnk_bcst (s : State) (g : Lnk → Lnk) : (s.modLnk g).bcst = s.bcst := rfl
@[simp] theorem State.modLnk_aud (s : State) (g : Lnk → Lnk) : (s.modLnk g).aud = s.aud := rfl
@[simp] theorem State.modLnk_tag (s : State) (g : Lnk → Lnk) : (s.modLnk g).tag = s.tag := rfl
@[simp] theorem State.modLnk_svc (s : State) (g : Lnk → Lnk) : (s.modLnk g).svc = s.svc := rfl
@[simp] theorem State.modLnk_tile (s : State) (g : Lnk → Lnk) : (s.modLnk g).tile = s.tile := rfl
@[simp] theorem State.modLnk_free (s : State) (g : Lnk → Lnk) : (s.modLnk g).free = s.free := rfl
@[simp] theorem State.modLnk_out (s : State) (g : Lnk → Lnk) : (s.modLnk g).out = s.out := rfl
@[simp] theorem State.modLnk_pending (s : State) (g : Lnk → Lnk) : (s.modLnk g).pending = s.pending := rfl
@[simp] theorem State.modLnk_lnk (s : State) (g : Lnk → Lnk) : (s.modLnk g).lnk = g s.lnk := rfl
@[simp] theorem State.modLnk_rd (s : State) (g : Lnk → Lnk) (o : Nat) : (s.modLnk g).rd o = s.rd o := rfl
@[simp] theorem State.modLnk_get (s : State) (g : Lnk → Lnk) (y : FieldRef) : (s.modLnk g).get y = s.get y := rfl
@[simp] theorem State.modLnk_is (s : State) (g : Lnk → Lnk) (y : FieldRef) : (s.modLnk g).is y = s.is y := rfl
@[simp] theorem State.modStore_regs (s : State) (g : Store → Store) : (s.modStore g).regs = s.regs := rfl
@[simp] theorem State.modStore_env (s : State) (g : Store → Store) : (s.modStore g).env = s.env := rfl
@[simp] theorem State.modStore_top (s : State) (g : Store → Store) : (s.modStore g).top = s.top := rfl
@[simp] theorem State.modStore_pcie (s : State) (g : Store → Store) : (s.modStore g).pcie = s.pcie := rfl
@[simp] theorem State.modStore_boot (s : State) (g : Store → Store) : (s.modStore g).boot = s.boot := rfl
@[simp] theorem State.modStore_spi (s : State) (g : Store → Store) : (s.modStore g).spi = s.spi := rfl
@[simp] theorem State.modStore_jtag (s : State) (g : Store → Store) : (s.modStore g).jtag = s.jtag := rfl
@[simp] theorem State.modStore_hif (s : State) (g : Store → Store) : (s.modStore g).hif = s.hif := rfl
@[simp] theorem State.modStore_pwr (s : State) (g : Store → Store) : (s.modStore g).pwr = s.pwr := rfl
@[simp] theorem State.modStore_flt (s : State) (g : Store → Store) : (s.modStore g).flt = s.flt := rfl
@[simp] theorem State.modStore_lnk (s : State) (g : Store → Store) : (s.modStore g).lnk = s.lnk := rfl
@[simp] theorem State.modStore_exch (s : State) (g : Store → Store) : (s.modStore g).exch = s.exch := rfl
@[simp] theorem State.modStore_pip (s : State) (g : Store → Store) : (s.modStore g).pip = s.pip := rfl
@[simp] theorem State.modStore_clk (s : State) (g : Store → Store) : (s.modStore g).clk = s.clk := rfl
@[simp] theorem State.modStore_radio (s : State) (g : Store → Store) : (s.modStore g).radio = s.radio := rfl
@[simp] theorem State.modStore_samp (s : State) (g : Store → Store) : (s.modStore g).samp = s.samp := rfl
@[simp] theorem State.modStore_cal (s : State) (g : Store → Store) : (s.modStore g).cal = s.cal := rfl
@[simp] theorem State.modStore_bcst (s : State) (g : Store → Store) : (s.modStore g).bcst = s.bcst := rfl
@[simp] theorem State.modStore_aud (s : State) (g : Store → Store) : (s.modStore g).aud = s.aud := rfl
@[simp] theorem State.modStore_tag (s : State) (g : Store → Store) : (s.modStore g).tag = s.tag := rfl
@[simp] theorem State.modStore_svc (s : State) (g : Store → Store) : (s.modStore g).svc = s.svc := rfl
@[simp] theorem State.modStore_tile (s : State) (g : Store → Store) : (s.modStore g).tile = s.tile := rfl
@[simp] theorem State.modStore_free (s : State) (g : Store → Store) : (s.modStore g).free = s.free := rfl
@[simp] theorem State.modStore_out (s : State) (g : Store → Store) : (s.modStore g).out = s.out := rfl
@[simp] theorem State.modStore_pending (s : State) (g : Store → Store) : (s.modStore g).pending = s.pending := rfl
@[simp] theorem State.modStore_store (s : State) (g : Store → Store) : (s.modStore g).store = g s.store := rfl
@[simp] theorem State.modStore_rd (s : State) (g : Store → Store) (o : Nat) : (s.modStore g).rd o = s.rd o := rfl
@[simp] theorem State.modStore_get (s : State) (g : Store → Store) (y : FieldRef) : (s.modStore g).get y = s.get y := rfl
@[simp] theorem State.modStore_is (s : State) (g : Store → Store) (y : FieldRef) : (s.modStore g).is y = s.is y := rfl
@[simp] theorem State.modPip_regs (s : State) (g : Pip → Pip) : (s.modPip g).regs = s.regs := rfl
@[simp] theorem State.modPip_env (s : State) (g : Pip → Pip) : (s.modPip g).env = s.env := rfl
@[simp] theorem State.modPip_top (s : State) (g : Pip → Pip) : (s.modPip g).top = s.top := rfl
@[simp] theorem State.modPip_pcie (s : State) (g : Pip → Pip) : (s.modPip g).pcie = s.pcie := rfl
@[simp] theorem State.modPip_boot (s : State) (g : Pip → Pip) : (s.modPip g).boot = s.boot := rfl
@[simp] theorem State.modPip_spi (s : State) (g : Pip → Pip) : (s.modPip g).spi = s.spi := rfl
@[simp] theorem State.modPip_jtag (s : State) (g : Pip → Pip) : (s.modPip g).jtag = s.jtag := rfl
@[simp] theorem State.modPip_hif (s : State) (g : Pip → Pip) : (s.modPip g).hif = s.hif := rfl
@[simp] theorem State.modPip_pwr (s : State) (g : Pip → Pip) : (s.modPip g).pwr = s.pwr := rfl
@[simp] theorem State.modPip_flt (s : State) (g : Pip → Pip) : (s.modPip g).flt = s.flt := rfl
@[simp] theorem State.modPip_lnk (s : State) (g : Pip → Pip) : (s.modPip g).lnk = s.lnk := rfl
@[simp] theorem State.modPip_store (s : State) (g : Pip → Pip) : (s.modPip g).store = s.store := rfl
@[simp] theorem State.modPip_exch (s : State) (g : Pip → Pip) : (s.modPip g).exch = s.exch := rfl
@[simp] theorem State.modPip_clk (s : State) (g : Pip → Pip) : (s.modPip g).clk = s.clk := rfl
@[simp] theorem State.modPip_radio (s : State) (g : Pip → Pip) : (s.modPip g).radio = s.radio := rfl
@[simp] theorem State.modPip_samp (s : State) (g : Pip → Pip) : (s.modPip g).samp = s.samp := rfl
@[simp] theorem State.modPip_cal (s : State) (g : Pip → Pip) : (s.modPip g).cal = s.cal := rfl
@[simp] theorem State.modPip_bcst (s : State) (g : Pip → Pip) : (s.modPip g).bcst = s.bcst := rfl
@[simp] theorem State.modPip_aud (s : State) (g : Pip → Pip) : (s.modPip g).aud = s.aud := rfl
@[simp] theorem State.modPip_tag (s : State) (g : Pip → Pip) : (s.modPip g).tag = s.tag := rfl
@[simp] theorem State.modPip_svc (s : State) (g : Pip → Pip) : (s.modPip g).svc = s.svc := rfl
@[simp] theorem State.modPip_tile (s : State) (g : Pip → Pip) : (s.modPip g).tile = s.tile := rfl
@[simp] theorem State.modPip_free (s : State) (g : Pip → Pip) : (s.modPip g).free = s.free := rfl
@[simp] theorem State.modPip_out (s : State) (g : Pip → Pip) : (s.modPip g).out = s.out := rfl
@[simp] theorem State.modPip_pending (s : State) (g : Pip → Pip) : (s.modPip g).pending = s.pending := rfl
@[simp] theorem State.modPip_pip (s : State) (g : Pip → Pip) : (s.modPip g).pip = g s.pip := rfl
@[simp] theorem State.modPip_rd (s : State) (g : Pip → Pip) (o : Nat) : (s.modPip g).rd o = s.rd o := rfl
@[simp] theorem State.modPip_get (s : State) (g : Pip → Pip) (y : FieldRef) : (s.modPip g).get y = s.get y := rfl
@[simp] theorem State.modPip_is (s : State) (g : Pip → Pip) (y : FieldRef) : (s.modPip g).is y = s.is y := rfl
@[simp] theorem State.modClk_regs (s : State) (g : Clk → Clk) : (s.modClk g).regs = s.regs := rfl
@[simp] theorem State.modClk_env (s : State) (g : Clk → Clk) : (s.modClk g).env = s.env := rfl
@[simp] theorem State.modClk_top (s : State) (g : Clk → Clk) : (s.modClk g).top = s.top := rfl
@[simp] theorem State.modClk_pcie (s : State) (g : Clk → Clk) : (s.modClk g).pcie = s.pcie := rfl
@[simp] theorem State.modClk_boot (s : State) (g : Clk → Clk) : (s.modClk g).boot = s.boot := rfl
@[simp] theorem State.modClk_spi (s : State) (g : Clk → Clk) : (s.modClk g).spi = s.spi := rfl
@[simp] theorem State.modClk_jtag (s : State) (g : Clk → Clk) : (s.modClk g).jtag = s.jtag := rfl
@[simp] theorem State.modClk_hif (s : State) (g : Clk → Clk) : (s.modClk g).hif = s.hif := rfl
@[simp] theorem State.modClk_pwr (s : State) (g : Clk → Clk) : (s.modClk g).pwr = s.pwr := rfl
@[simp] theorem State.modClk_flt (s : State) (g : Clk → Clk) : (s.modClk g).flt = s.flt := rfl
@[simp] theorem State.modClk_lnk (s : State) (g : Clk → Clk) : (s.modClk g).lnk = s.lnk := rfl
@[simp] theorem State.modClk_store (s : State) (g : Clk → Clk) : (s.modClk g).store = s.store := rfl
@[simp] theorem State.modClk_exch (s : State) (g : Clk → Clk) : (s.modClk g).exch = s.exch := rfl
@[simp] theorem State.modClk_pip (s : State) (g : Clk → Clk) : (s.modClk g).pip = s.pip := rfl
@[simp] theorem State.modClk_radio (s : State) (g : Clk → Clk) : (s.modClk g).radio = s.radio := rfl
@[simp] theorem State.modClk_samp (s : State) (g : Clk → Clk) : (s.modClk g).samp = s.samp := rfl
@[simp] theorem State.modClk_cal (s : State) (g : Clk → Clk) : (s.modClk g).cal = s.cal := rfl
@[simp] theorem State.modClk_bcst (s : State) (g : Clk → Clk) : (s.modClk g).bcst = s.bcst := rfl
@[simp] theorem State.modClk_aud (s : State) (g : Clk → Clk) : (s.modClk g).aud = s.aud := rfl
@[simp] theorem State.modClk_tag (s : State) (g : Clk → Clk) : (s.modClk g).tag = s.tag := rfl
@[simp] theorem State.modClk_svc (s : State) (g : Clk → Clk) : (s.modClk g).svc = s.svc := rfl
@[simp] theorem State.modClk_tile (s : State) (g : Clk → Clk) : (s.modClk g).tile = s.tile := rfl
@[simp] theorem State.modClk_free (s : State) (g : Clk → Clk) : (s.modClk g).free = s.free := rfl
@[simp] theorem State.modClk_out (s : State) (g : Clk → Clk) : (s.modClk g).out = s.out := rfl
@[simp] theorem State.modClk_pending (s : State) (g : Clk → Clk) : (s.modClk g).pending = s.pending := rfl
@[simp] theorem State.modClk_clk (s : State) (g : Clk → Clk) : (s.modClk g).clk = g s.clk := rfl
@[simp] theorem State.modClk_rd (s : State) (g : Clk → Clk) (o : Nat) : (s.modClk g).rd o = s.rd o := rfl
@[simp] theorem State.modClk_get (s : State) (g : Clk → Clk) (y : FieldRef) : (s.modClk g).get y = s.get y := rfl
@[simp] theorem State.modClk_is (s : State) (g : Clk → Clk) (y : FieldRef) : (s.modClk g).is y = s.is y := rfl
@[simp] theorem State.modRadio_regs (s : State) (g : Radio → Radio) : (s.modRadio g).regs = s.regs := rfl
@[simp] theorem State.modRadio_env (s : State) (g : Radio → Radio) : (s.modRadio g).env = s.env := rfl
@[simp] theorem State.modRadio_top (s : State) (g : Radio → Radio) : (s.modRadio g).top = s.top := rfl
@[simp] theorem State.modRadio_pcie (s : State) (g : Radio → Radio) : (s.modRadio g).pcie = s.pcie := rfl
@[simp] theorem State.modRadio_boot (s : State) (g : Radio → Radio) : (s.modRadio g).boot = s.boot := rfl
@[simp] theorem State.modRadio_spi (s : State) (g : Radio → Radio) : (s.modRadio g).spi = s.spi := rfl
@[simp] theorem State.modRadio_jtag (s : State) (g : Radio → Radio) : (s.modRadio g).jtag = s.jtag := rfl
@[simp] theorem State.modRadio_hif (s : State) (g : Radio → Radio) : (s.modRadio g).hif = s.hif := rfl
@[simp] theorem State.modRadio_pwr (s : State) (g : Radio → Radio) : (s.modRadio g).pwr = s.pwr := rfl
@[simp] theorem State.modRadio_flt (s : State) (g : Radio → Radio) : (s.modRadio g).flt = s.flt := rfl
@[simp] theorem State.modRadio_lnk (s : State) (g : Radio → Radio) : (s.modRadio g).lnk = s.lnk := rfl
@[simp] theorem State.modRadio_store (s : State) (g : Radio → Radio) : (s.modRadio g).store = s.store := rfl
@[simp] theorem State.modRadio_exch (s : State) (g : Radio → Radio) : (s.modRadio g).exch = s.exch := rfl
@[simp] theorem State.modRadio_pip (s : State) (g : Radio → Radio) : (s.modRadio g).pip = s.pip := rfl
@[simp] theorem State.modRadio_clk (s : State) (g : Radio → Radio) : (s.modRadio g).clk = s.clk := rfl
@[simp] theorem State.modRadio_samp (s : State) (g : Radio → Radio) : (s.modRadio g).samp = s.samp := rfl
@[simp] theorem State.modRadio_cal (s : State) (g : Radio → Radio) : (s.modRadio g).cal = s.cal := rfl
@[simp] theorem State.modRadio_bcst (s : State) (g : Radio → Radio) : (s.modRadio g).bcst = s.bcst := rfl
@[simp] theorem State.modRadio_aud (s : State) (g : Radio → Radio) : (s.modRadio g).aud = s.aud := rfl
@[simp] theorem State.modRadio_tag (s : State) (g : Radio → Radio) : (s.modRadio g).tag = s.tag := rfl
@[simp] theorem State.modRadio_svc (s : State) (g : Radio → Radio) : (s.modRadio g).svc = s.svc := rfl
@[simp] theorem State.modRadio_tile (s : State) (g : Radio → Radio) : (s.modRadio g).tile = s.tile := rfl
@[simp] theorem State.modRadio_free (s : State) (g : Radio → Radio) : (s.modRadio g).free = s.free := rfl
@[simp] theorem State.modRadio_out (s : State) (g : Radio → Radio) : (s.modRadio g).out = s.out := rfl
@[simp] theorem State.modRadio_pending (s : State) (g : Radio → Radio) : (s.modRadio g).pending = s.pending := rfl
@[simp] theorem State.modRadio_radio (s : State) (g : Radio → Radio) : (s.modRadio g).radio = g s.radio := rfl
@[simp] theorem State.modRadio_rd (s : State) (g : Radio → Radio) (o : Nat) : (s.modRadio g).rd o = s.rd o := rfl
@[simp] theorem State.modRadio_get (s : State) (g : Radio → Radio) (y : FieldRef) : (s.modRadio g).get y = s.get y := rfl
@[simp] theorem State.modRadio_is (s : State) (g : Radio → Radio) (y : FieldRef) : (s.modRadio g).is y = s.is y := rfl
@[simp] theorem State.modSamp_regs (s : State) (g : Samp → Samp) : (s.modSamp g).regs = s.regs := rfl
@[simp] theorem State.modSamp_env (s : State) (g : Samp → Samp) : (s.modSamp g).env = s.env := rfl
@[simp] theorem State.modSamp_top (s : State) (g : Samp → Samp) : (s.modSamp g).top = s.top := rfl
@[simp] theorem State.modSamp_pcie (s : State) (g : Samp → Samp) : (s.modSamp g).pcie = s.pcie := rfl
@[simp] theorem State.modSamp_boot (s : State) (g : Samp → Samp) : (s.modSamp g).boot = s.boot := rfl
@[simp] theorem State.modSamp_spi (s : State) (g : Samp → Samp) : (s.modSamp g).spi = s.spi := rfl
@[simp] theorem State.modSamp_jtag (s : State) (g : Samp → Samp) : (s.modSamp g).jtag = s.jtag := rfl
@[simp] theorem State.modSamp_hif (s : State) (g : Samp → Samp) : (s.modSamp g).hif = s.hif := rfl
@[simp] theorem State.modSamp_pwr (s : State) (g : Samp → Samp) : (s.modSamp g).pwr = s.pwr := rfl
@[simp] theorem State.modSamp_flt (s : State) (g : Samp → Samp) : (s.modSamp g).flt = s.flt := rfl
@[simp] theorem State.modSamp_lnk (s : State) (g : Samp → Samp) : (s.modSamp g).lnk = s.lnk := rfl
@[simp] theorem State.modSamp_store (s : State) (g : Samp → Samp) : (s.modSamp g).store = s.store := rfl
@[simp] theorem State.modSamp_exch (s : State) (g : Samp → Samp) : (s.modSamp g).exch = s.exch := rfl
@[simp] theorem State.modSamp_pip (s : State) (g : Samp → Samp) : (s.modSamp g).pip = s.pip := rfl
@[simp] theorem State.modSamp_clk (s : State) (g : Samp → Samp) : (s.modSamp g).clk = s.clk := rfl
@[simp] theorem State.modSamp_radio (s : State) (g : Samp → Samp) : (s.modSamp g).radio = s.radio := rfl
@[simp] theorem State.modSamp_cal (s : State) (g : Samp → Samp) : (s.modSamp g).cal = s.cal := rfl
@[simp] theorem State.modSamp_bcst (s : State) (g : Samp → Samp) : (s.modSamp g).bcst = s.bcst := rfl
@[simp] theorem State.modSamp_aud (s : State) (g : Samp → Samp) : (s.modSamp g).aud = s.aud := rfl
@[simp] theorem State.modSamp_tag (s : State) (g : Samp → Samp) : (s.modSamp g).tag = s.tag := rfl
@[simp] theorem State.modSamp_svc (s : State) (g : Samp → Samp) : (s.modSamp g).svc = s.svc := rfl
@[simp] theorem State.modSamp_tile (s : State) (g : Samp → Samp) : (s.modSamp g).tile = s.tile := rfl
@[simp] theorem State.modSamp_free (s : State) (g : Samp → Samp) : (s.modSamp g).free = s.free := rfl
@[simp] theorem State.modSamp_out (s : State) (g : Samp → Samp) : (s.modSamp g).out = s.out := rfl
@[simp] theorem State.modSamp_pending (s : State) (g : Samp → Samp) : (s.modSamp g).pending = s.pending := rfl
@[simp] theorem State.modSamp_samp (s : State) (g : Samp → Samp) : (s.modSamp g).samp = g s.samp := rfl
@[simp] theorem State.modSamp_rd (s : State) (g : Samp → Samp) (o : Nat) : (s.modSamp g).rd o = s.rd o := rfl
@[simp] theorem State.modSamp_get (s : State) (g : Samp → Samp) (y : FieldRef) : (s.modSamp g).get y = s.get y := rfl
@[simp] theorem State.modSamp_is (s : State) (g : Samp → Samp) (y : FieldRef) : (s.modSamp g).is y = s.is y := rfl
@[simp] theorem State.modCal_regs (s : State) (g : Cal → Cal) : (s.modCal g).regs = s.regs := rfl
@[simp] theorem State.modCal_env (s : State) (g : Cal → Cal) : (s.modCal g).env = s.env := rfl
@[simp] theorem State.modCal_top (s : State) (g : Cal → Cal) : (s.modCal g).top = s.top := rfl
@[simp] theorem State.modCal_pcie (s : State) (g : Cal → Cal) : (s.modCal g).pcie = s.pcie := rfl
@[simp] theorem State.modCal_boot (s : State) (g : Cal → Cal) : (s.modCal g).boot = s.boot := rfl
@[simp] theorem State.modCal_spi (s : State) (g : Cal → Cal) : (s.modCal g).spi = s.spi := rfl
@[simp] theorem State.modCal_jtag (s : State) (g : Cal → Cal) : (s.modCal g).jtag = s.jtag := rfl
@[simp] theorem State.modCal_hif (s : State) (g : Cal → Cal) : (s.modCal g).hif = s.hif := rfl
@[simp] theorem State.modCal_pwr (s : State) (g : Cal → Cal) : (s.modCal g).pwr = s.pwr := rfl
@[simp] theorem State.modCal_flt (s : State) (g : Cal → Cal) : (s.modCal g).flt = s.flt := rfl
@[simp] theorem State.modCal_lnk (s : State) (g : Cal → Cal) : (s.modCal g).lnk = s.lnk := rfl
@[simp] theorem State.modCal_store (s : State) (g : Cal → Cal) : (s.modCal g).store = s.store := rfl
@[simp] theorem State.modCal_exch (s : State) (g : Cal → Cal) : (s.modCal g).exch = s.exch := rfl
@[simp] theorem State.modCal_pip (s : State) (g : Cal → Cal) : (s.modCal g).pip = s.pip := rfl
@[simp] theorem State.modCal_clk (s : State) (g : Cal → Cal) : (s.modCal g).clk = s.clk := rfl
@[simp] theorem State.modCal_radio (s : State) (g : Cal → Cal) : (s.modCal g).radio = s.radio := rfl
@[simp] theorem State.modCal_samp (s : State) (g : Cal → Cal) : (s.modCal g).samp = s.samp := rfl
@[simp] theorem State.modCal_bcst (s : State) (g : Cal → Cal) : (s.modCal g).bcst = s.bcst := rfl
@[simp] theorem State.modCal_aud (s : State) (g : Cal → Cal) : (s.modCal g).aud = s.aud := rfl
@[simp] theorem State.modCal_tag (s : State) (g : Cal → Cal) : (s.modCal g).tag = s.tag := rfl
@[simp] theorem State.modCal_svc (s : State) (g : Cal → Cal) : (s.modCal g).svc = s.svc := rfl
@[simp] theorem State.modCal_tile (s : State) (g : Cal → Cal) : (s.modCal g).tile = s.tile := rfl
@[simp] theorem State.modCal_free (s : State) (g : Cal → Cal) : (s.modCal g).free = s.free := rfl
@[simp] theorem State.modCal_out (s : State) (g : Cal → Cal) : (s.modCal g).out = s.out := rfl
@[simp] theorem State.modCal_pending (s : State) (g : Cal → Cal) : (s.modCal g).pending = s.pending := rfl
@[simp] theorem State.modCal_cal (s : State) (g : Cal → Cal) : (s.modCal g).cal = g s.cal := rfl
@[simp] theorem State.modCal_rd (s : State) (g : Cal → Cal) (o : Nat) : (s.modCal g).rd o = s.rd o := rfl
@[simp] theorem State.modCal_get (s : State) (g : Cal → Cal) (y : FieldRef) : (s.modCal g).get y = s.get y := rfl
@[simp] theorem State.modCal_is (s : State) (g : Cal → Cal) (y : FieldRef) : (s.modCal g).is y = s.is y := rfl
@[simp] theorem State.modBcst_regs (s : State) (g : Bcst → Bcst) : (s.modBcst g).regs = s.regs := rfl
@[simp] theorem State.modBcst_env (s : State) (g : Bcst → Bcst) : (s.modBcst g).env = s.env := rfl
@[simp] theorem State.modBcst_top (s : State) (g : Bcst → Bcst) : (s.modBcst g).top = s.top := rfl
@[simp] theorem State.modBcst_pcie (s : State) (g : Bcst → Bcst) : (s.modBcst g).pcie = s.pcie := rfl
@[simp] theorem State.modBcst_boot (s : State) (g : Bcst → Bcst) : (s.modBcst g).boot = s.boot := rfl
@[simp] theorem State.modBcst_spi (s : State) (g : Bcst → Bcst) : (s.modBcst g).spi = s.spi := rfl
@[simp] theorem State.modBcst_jtag (s : State) (g : Bcst → Bcst) : (s.modBcst g).jtag = s.jtag := rfl
@[simp] theorem State.modBcst_hif (s : State) (g : Bcst → Bcst) : (s.modBcst g).hif = s.hif := rfl
@[simp] theorem State.modBcst_pwr (s : State) (g : Bcst → Bcst) : (s.modBcst g).pwr = s.pwr := rfl
@[simp] theorem State.modBcst_flt (s : State) (g : Bcst → Bcst) : (s.modBcst g).flt = s.flt := rfl
@[simp] theorem State.modBcst_lnk (s : State) (g : Bcst → Bcst) : (s.modBcst g).lnk = s.lnk := rfl
@[simp] theorem State.modBcst_store (s : State) (g : Bcst → Bcst) : (s.modBcst g).store = s.store := rfl
@[simp] theorem State.modBcst_exch (s : State) (g : Bcst → Bcst) : (s.modBcst g).exch = s.exch := rfl
@[simp] theorem State.modBcst_pip (s : State) (g : Bcst → Bcst) : (s.modBcst g).pip = s.pip := rfl
@[simp] theorem State.modBcst_clk (s : State) (g : Bcst → Bcst) : (s.modBcst g).clk = s.clk := rfl
@[simp] theorem State.modBcst_radio (s : State) (g : Bcst → Bcst) : (s.modBcst g).radio = s.radio := rfl
@[simp] theorem State.modBcst_samp (s : State) (g : Bcst → Bcst) : (s.modBcst g).samp = s.samp := rfl
@[simp] theorem State.modBcst_cal (s : State) (g : Bcst → Bcst) : (s.modBcst g).cal = s.cal := rfl
@[simp] theorem State.modBcst_aud (s : State) (g : Bcst → Bcst) : (s.modBcst g).aud = s.aud := rfl
@[simp] theorem State.modBcst_tag (s : State) (g : Bcst → Bcst) : (s.modBcst g).tag = s.tag := rfl
@[simp] theorem State.modBcst_svc (s : State) (g : Bcst → Bcst) : (s.modBcst g).svc = s.svc := rfl
@[simp] theorem State.modBcst_tile (s : State) (g : Bcst → Bcst) : (s.modBcst g).tile = s.tile := rfl
@[simp] theorem State.modBcst_free (s : State) (g : Bcst → Bcst) : (s.modBcst g).free = s.free := rfl
@[simp] theorem State.modBcst_out (s : State) (g : Bcst → Bcst) : (s.modBcst g).out = s.out := rfl
@[simp] theorem State.modBcst_pending (s : State) (g : Bcst → Bcst) : (s.modBcst g).pending = s.pending := rfl
@[simp] theorem State.modBcst_bcst (s : State) (g : Bcst → Bcst) : (s.modBcst g).bcst = g s.bcst := rfl
@[simp] theorem State.modBcst_rd (s : State) (g : Bcst → Bcst) (o : Nat) : (s.modBcst g).rd o = s.rd o := rfl
@[simp] theorem State.modBcst_get (s : State) (g : Bcst → Bcst) (y : FieldRef) : (s.modBcst g).get y = s.get y := rfl
@[simp] theorem State.modBcst_is (s : State) (g : Bcst → Bcst) (y : FieldRef) : (s.modBcst g).is y = s.is y := rfl
@[simp] theorem State.modAud_regs (s : State) (g : Aud → Aud) : (s.modAud g).regs = s.regs := rfl
@[simp] theorem State.modAud_env (s : State) (g : Aud → Aud) : (s.modAud g).env = s.env := rfl
@[simp] theorem State.modAud_top (s : State) (g : Aud → Aud) : (s.modAud g).top = s.top := rfl
@[simp] theorem State.modAud_pcie (s : State) (g : Aud → Aud) : (s.modAud g).pcie = s.pcie := rfl
@[simp] theorem State.modAud_boot (s : State) (g : Aud → Aud) : (s.modAud g).boot = s.boot := rfl
@[simp] theorem State.modAud_spi (s : State) (g : Aud → Aud) : (s.modAud g).spi = s.spi := rfl
@[simp] theorem State.modAud_jtag (s : State) (g : Aud → Aud) : (s.modAud g).jtag = s.jtag := rfl
@[simp] theorem State.modAud_hif (s : State) (g : Aud → Aud) : (s.modAud g).hif = s.hif := rfl
@[simp] theorem State.modAud_pwr (s : State) (g : Aud → Aud) : (s.modAud g).pwr = s.pwr := rfl
@[simp] theorem State.modAud_flt (s : State) (g : Aud → Aud) : (s.modAud g).flt = s.flt := rfl
@[simp] theorem State.modAud_lnk (s : State) (g : Aud → Aud) : (s.modAud g).lnk = s.lnk := rfl
@[simp] theorem State.modAud_store (s : State) (g : Aud → Aud) : (s.modAud g).store = s.store := rfl
@[simp] theorem State.modAud_exch (s : State) (g : Aud → Aud) : (s.modAud g).exch = s.exch := rfl
@[simp] theorem State.modAud_pip (s : State) (g : Aud → Aud) : (s.modAud g).pip = s.pip := rfl
@[simp] theorem State.modAud_clk (s : State) (g : Aud → Aud) : (s.modAud g).clk = s.clk := rfl
@[simp] theorem State.modAud_radio (s : State) (g : Aud → Aud) : (s.modAud g).radio = s.radio := rfl
@[simp] theorem State.modAud_samp (s : State) (g : Aud → Aud) : (s.modAud g).samp = s.samp := rfl
@[simp] theorem State.modAud_cal (s : State) (g : Aud → Aud) : (s.modAud g).cal = s.cal := rfl
@[simp] theorem State.modAud_bcst (s : State) (g : Aud → Aud) : (s.modAud g).bcst = s.bcst := rfl
@[simp] theorem State.modAud_tag (s : State) (g : Aud → Aud) : (s.modAud g).tag = s.tag := rfl
@[simp] theorem State.modAud_svc (s : State) (g : Aud → Aud) : (s.modAud g).svc = s.svc := rfl
@[simp] theorem State.modAud_tile (s : State) (g : Aud → Aud) : (s.modAud g).tile = s.tile := rfl
@[simp] theorem State.modAud_free (s : State) (g : Aud → Aud) : (s.modAud g).free = s.free := rfl
@[simp] theorem State.modAud_out (s : State) (g : Aud → Aud) : (s.modAud g).out = s.out := rfl
@[simp] theorem State.modAud_pending (s : State) (g : Aud → Aud) : (s.modAud g).pending = s.pending := rfl
@[simp] theorem State.modAud_aud (s : State) (g : Aud → Aud) : (s.modAud g).aud = g s.aud := rfl
@[simp] theorem State.modAud_rd (s : State) (g : Aud → Aud) (o : Nat) : (s.modAud g).rd o = s.rd o := rfl
@[simp] theorem State.modAud_get (s : State) (g : Aud → Aud) (y : FieldRef) : (s.modAud g).get y = s.get y := rfl
@[simp] theorem State.modAud_is (s : State) (g : Aud → Aud) (y : FieldRef) : (s.modAud g).is y = s.is y := rfl
@[simp] theorem State.modTag_regs (s : State) (g : Tag → Tag) : (s.modTag g).regs = s.regs := rfl
@[simp] theorem State.modTag_env (s : State) (g : Tag → Tag) : (s.modTag g).env = s.env := rfl
@[simp] theorem State.modTag_top (s : State) (g : Tag → Tag) : (s.modTag g).top = s.top := rfl
@[simp] theorem State.modTag_pcie (s : State) (g : Tag → Tag) : (s.modTag g).pcie = s.pcie := rfl
@[simp] theorem State.modTag_boot (s : State) (g : Tag → Tag) : (s.modTag g).boot = s.boot := rfl
@[simp] theorem State.modTag_spi (s : State) (g : Tag → Tag) : (s.modTag g).spi = s.spi := rfl
@[simp] theorem State.modTag_jtag (s : State) (g : Tag → Tag) : (s.modTag g).jtag = s.jtag := rfl
@[simp] theorem State.modTag_hif (s : State) (g : Tag → Tag) : (s.modTag g).hif = s.hif := rfl
@[simp] theorem State.modTag_pwr (s : State) (g : Tag → Tag) : (s.modTag g).pwr = s.pwr := rfl
@[simp] theorem State.modTag_flt (s : State) (g : Tag → Tag) : (s.modTag g).flt = s.flt := rfl
@[simp] theorem State.modTag_lnk (s : State) (g : Tag → Tag) : (s.modTag g).lnk = s.lnk := rfl
@[simp] theorem State.modTag_store (s : State) (g : Tag → Tag) : (s.modTag g).store = s.store := rfl
@[simp] theorem State.modTag_exch (s : State) (g : Tag → Tag) : (s.modTag g).exch = s.exch := rfl
@[simp] theorem State.modTag_pip (s : State) (g : Tag → Tag) : (s.modTag g).pip = s.pip := rfl
@[simp] theorem State.modTag_clk (s : State) (g : Tag → Tag) : (s.modTag g).clk = s.clk := rfl
@[simp] theorem State.modTag_radio (s : State) (g : Tag → Tag) : (s.modTag g).radio = s.radio := rfl
@[simp] theorem State.modTag_samp (s : State) (g : Tag → Tag) : (s.modTag g).samp = s.samp := rfl
@[simp] theorem State.modTag_cal (s : State) (g : Tag → Tag) : (s.modTag g).cal = s.cal := rfl
@[simp] theorem State.modTag_bcst (s : State) (g : Tag → Tag) : (s.modTag g).bcst = s.bcst := rfl
@[simp] theorem State.modTag_aud (s : State) (g : Tag → Tag) : (s.modTag g).aud = s.aud := rfl
@[simp] theorem State.modTag_svc (s : State) (g : Tag → Tag) : (s.modTag g).svc = s.svc := rfl
@[simp] theorem State.modTag_tile (s : State) (g : Tag → Tag) : (s.modTag g).tile = s.tile := rfl
@[simp] theorem State.modTag_free (s : State) (g : Tag → Tag) : (s.modTag g).free = s.free := rfl
@[simp] theorem State.modTag_out (s : State) (g : Tag → Tag) : (s.modTag g).out = s.out := rfl
@[simp] theorem State.modTag_pending (s : State) (g : Tag → Tag) : (s.modTag g).pending = s.pending := rfl
@[simp] theorem State.modTag_tag (s : State) (g : Tag → Tag) : (s.modTag g).tag = g s.tag := rfl
@[simp] theorem State.modTag_rd (s : State) (g : Tag → Tag) (o : Nat) : (s.modTag g).rd o = s.rd o := rfl
@[simp] theorem State.modTag_get (s : State) (g : Tag → Tag) (y : FieldRef) : (s.modTag g).get y = s.get y := rfl
@[simp] theorem State.modTag_is (s : State) (g : Tag → Tag) (y : FieldRef) : (s.modTag g).is y = s.is y := rfl
@[simp] theorem State.modSvc_regs (s : State) (g : Svc → Svc) : (s.modSvc g).regs = s.regs := rfl
@[simp] theorem State.modSvc_env (s : State) (g : Svc → Svc) : (s.modSvc g).env = s.env := rfl
@[simp] theorem State.modSvc_top (s : State) (g : Svc → Svc) : (s.modSvc g).top = s.top := rfl
@[simp] theorem State.modSvc_pcie (s : State) (g : Svc → Svc) : (s.modSvc g).pcie = s.pcie := rfl
@[simp] theorem State.modSvc_boot (s : State) (g : Svc → Svc) : (s.modSvc g).boot = s.boot := rfl
@[simp] theorem State.modSvc_spi (s : State) (g : Svc → Svc) : (s.modSvc g).spi = s.spi := rfl
@[simp] theorem State.modSvc_jtag (s : State) (g : Svc → Svc) : (s.modSvc g).jtag = s.jtag := rfl
@[simp] theorem State.modSvc_hif (s : State) (g : Svc → Svc) : (s.modSvc g).hif = s.hif := rfl
@[simp] theorem State.modSvc_pwr (s : State) (g : Svc → Svc) : (s.modSvc g).pwr = s.pwr := rfl
@[simp] theorem State.modSvc_flt (s : State) (g : Svc → Svc) : (s.modSvc g).flt = s.flt := rfl
@[simp] theorem State.modSvc_lnk (s : State) (g : Svc → Svc) : (s.modSvc g).lnk = s.lnk := rfl
@[simp] theorem State.modSvc_store (s : State) (g : Svc → Svc) : (s.modSvc g).store = s.store := rfl
@[simp] theorem State.modSvc_exch (s : State) (g : Svc → Svc) : (s.modSvc g).exch = s.exch := rfl
@[simp] theorem State.modSvc_pip (s : State) (g : Svc → Svc) : (s.modSvc g).pip = s.pip := rfl
@[simp] theorem State.modSvc_clk (s : State) (g : Svc → Svc) : (s.modSvc g).clk = s.clk := rfl
@[simp] theorem State.modSvc_radio (s : State) (g : Svc → Svc) : (s.modSvc g).radio = s.radio := rfl
@[simp] theorem State.modSvc_samp (s : State) (g : Svc → Svc) : (s.modSvc g).samp = s.samp := rfl
@[simp] theorem State.modSvc_cal (s : State) (g : Svc → Svc) : (s.modSvc g).cal = s.cal := rfl
@[simp] theorem State.modSvc_bcst (s : State) (g : Svc → Svc) : (s.modSvc g).bcst = s.bcst := rfl
@[simp] theorem State.modSvc_aud (s : State) (g : Svc → Svc) : (s.modSvc g).aud = s.aud := rfl
@[simp] theorem State.modSvc_tag (s : State) (g : Svc → Svc) : (s.modSvc g).tag = s.tag := rfl
@[simp] theorem State.modSvc_tile (s : State) (g : Svc → Svc) : (s.modSvc g).tile = s.tile := rfl
@[simp] theorem State.modSvc_free (s : State) (g : Svc → Svc) : (s.modSvc g).free = s.free := rfl
@[simp] theorem State.modSvc_out (s : State) (g : Svc → Svc) : (s.modSvc g).out = s.out := rfl
@[simp] theorem State.modSvc_pending (s : State) (g : Svc → Svc) : (s.modSvc g).pending = s.pending := rfl
@[simp] theorem State.modSvc_svc (s : State) (g : Svc → Svc) : (s.modSvc g).svc = g s.svc := rfl
@[simp] theorem State.modSvc_rd (s : State) (g : Svc → Svc) (o : Nat) : (s.modSvc g).rd o = s.rd o := rfl
@[simp] theorem State.modSvc_get (s : State) (g : Svc → Svc) (y : FieldRef) : (s.modSvc g).get y = s.get y := rfl
@[simp] theorem State.modSvc_is (s : State) (g : Svc → Svc) (y : FieldRef) : (s.modSvc g).is y = s.is y := rfl
@[simp] theorem State.modExch_regs (s : State) (g : Exch → Exch) : (s.modExch g).regs = s.regs := rfl
@[simp] theorem State.modExch_env (s : State) (g : Exch → Exch) : (s.modExch g).env = s.env := rfl
@[simp] theorem State.modExch_top (s : State) (g : Exch → Exch) : (s.modExch g).top = s.top := rfl
@[simp] theorem State.modExch_pcie (s : State) (g : Exch → Exch) : (s.modExch g).pcie = s.pcie := rfl
@[simp] theorem State.modExch_boot (s : State) (g : Exch → Exch) : (s.modExch g).boot = s.boot := rfl
@[simp] theorem State.modExch_spi (s : State) (g : Exch → Exch) : (s.modExch g).spi = s.spi := rfl
@[simp] theorem State.modExch_jtag (s : State) (g : Exch → Exch) : (s.modExch g).jtag = s.jtag := rfl
@[simp] theorem State.modExch_hif (s : State) (g : Exch → Exch) : (s.modExch g).hif = s.hif := rfl
@[simp] theorem State.modExch_pwr (s : State) (g : Exch → Exch) : (s.modExch g).pwr = s.pwr := rfl
@[simp] theorem State.modExch_flt (s : State) (g : Exch → Exch) : (s.modExch g).flt = s.flt := rfl
@[simp] theorem State.modExch_lnk (s : State) (g : Exch → Exch) : (s.modExch g).lnk = s.lnk := rfl
@[simp] theorem State.modExch_store (s : State) (g : Exch → Exch) : (s.modExch g).store = s.store := rfl
@[simp] theorem State.modExch_pip (s : State) (g : Exch → Exch) : (s.modExch g).pip = s.pip := rfl
@[simp] theorem State.modExch_clk (s : State) (g : Exch → Exch) : (s.modExch g).clk = s.clk := rfl
@[simp] theorem State.modExch_radio (s : State) (g : Exch → Exch) : (s.modExch g).radio = s.radio := rfl
@[simp] theorem State.modExch_samp (s : State) (g : Exch → Exch) : (s.modExch g).samp = s.samp := rfl
@[simp] theorem State.modExch_cal (s : State) (g : Exch → Exch) : (s.modExch g).cal = s.cal := rfl
@[simp] theorem State.modExch_bcst (s : State) (g : Exch → Exch) : (s.modExch g).bcst = s.bcst := rfl
@[simp] theorem State.modExch_aud (s : State) (g : Exch → Exch) : (s.modExch g).aud = s.aud := rfl
@[simp] theorem State.modExch_tag (s : State) (g : Exch → Exch) : (s.modExch g).tag = s.tag := rfl
@[simp] theorem State.modExch_svc (s : State) (g : Exch → Exch) : (s.modExch g).svc = s.svc := rfl
@[simp] theorem State.modExch_tile (s : State) (g : Exch → Exch) : (s.modExch g).tile = s.tile := rfl
@[simp] theorem State.modExch_free (s : State) (g : Exch → Exch) : (s.modExch g).free = s.free := rfl
@[simp] theorem State.modExch_out (s : State) (g : Exch → Exch) : (s.modExch g).out = s.out := rfl
@[simp] theorem State.modExch_pending (s : State) (g : Exch → Exch) : (s.modExch g).pending = s.pending := rfl
@[simp] theorem State.modExch_exch (s : State) (g : Exch → Exch) : (s.modExch g).exch = g s.exch := rfl
@[simp] theorem State.modExch_rd (s : State) (g : Exch → Exch) (o : Nat) : (s.modExch g).rd o = s.rd o := rfl
@[simp] theorem State.modExch_get (s : State) (g : Exch → Exch) (y : FieldRef) : (s.modExch g).get y = s.get y := rfl
@[simp] theorem State.modExch_is (s : State) (g : Exch → Exch) (y : FieldRef) : (s.modExch g).is y = s.is y := rfl
@[simp] theorem State.modTelem_regs (s : State)  (g : Telem → Telem) : (s.modTelem g).regs = s.regs := rfl
@[simp] theorem State.modTelem_env (s : State)  (g : Telem → Telem) : (s.modTelem g).env = s.env := rfl
@[simp] theorem State.modTelem_top (s : State)  (g : Telem → Telem) : (s.modTelem g).top = s.top := rfl
@[simp] theorem State.modTelem_pcie (s : State)  (g : Telem → Telem) : (s.modTelem g).pcie = s.pcie := rfl
@[simp] theorem State.modTelem_boot (s : State)  (g : Telem → Telem) : (s.modTelem g).boot = s.boot := rfl
@[simp] theorem State.modTelem_spi (s : State)  (g : Telem → Telem) : (s.modTelem g).spi = s.spi := rfl
@[simp] theorem State.modTelem_jtag (s : State)  (g : Telem → Telem) : (s.modTelem g).jtag = s.jtag := rfl
@[simp] theorem State.modTelem_hif (s : State)  (g : Telem → Telem) : (s.modTelem g).hif = s.hif := rfl
@[simp] theorem State.modTelem_pwr (s : State)  (g : Telem → Telem) : (s.modTelem g).pwr = s.pwr := rfl
@[simp] theorem State.modTelem_lnk (s : State)  (g : Telem → Telem) : (s.modTelem g).lnk = s.lnk := rfl
@[simp] theorem State.modTelem_store (s : State)  (g : Telem → Telem) : (s.modTelem g).store = s.store := rfl
@[simp] theorem State.modTelem_exch (s : State)  (g : Telem → Telem) : (s.modTelem g).exch = s.exch := rfl
@[simp] theorem State.modTelem_pip (s : State)  (g : Telem → Telem) : (s.modTelem g).pip = s.pip := rfl
@[simp] theorem State.modTelem_clk (s : State)  (g : Telem → Telem) : (s.modTelem g).clk = s.clk := rfl
@[simp] theorem State.modTelem_radio (s : State)  (g : Telem → Telem) : (s.modTelem g).radio = s.radio := rfl
@[simp] theorem State.modTelem_samp (s : State)  (g : Telem → Telem) : (s.modTelem g).samp = s.samp := rfl
@[simp] theorem State.modTelem_cal (s : State)  (g : Telem → Telem) : (s.modTelem g).cal = s.cal := rfl
@[simp] theorem State.modTelem_bcst (s : State)  (g : Telem → Telem) : (s.modTelem g).bcst = s.bcst := rfl
@[simp] theorem State.modTelem_aud (s : State)  (g : Telem → Telem) : (s.modTelem g).aud = s.aud := rfl
@[simp] theorem State.modTelem_tag (s : State)  (g : Telem → Telem) : (s.modTelem g).tag = s.tag := rfl
@[simp] theorem State.modTelem_svc (s : State)  (g : Telem → Telem) : (s.modTelem g).svc = s.svc := rfl
@[simp] theorem State.modTelem_tile (s : State)  (g : Telem → Telem) : (s.modTelem g).tile = s.tile := rfl
@[simp] theorem State.modTelem_free (s : State)  (g : Telem → Telem) : (s.modTelem g).free = s.free := rfl
@[simp] theorem State.modTelem_out (s : State)  (g : Telem → Telem) : (s.modTelem g).out = s.out := rfl
@[simp] theorem State.modTelem_pending (s : State)  (g : Telem → Telem) : (s.modTelem g).pending = s.pending := rfl
@[simp] theorem State.modTelem_rd (s : State)  (g : Telem → Telem) (o : Nat) : (s.modTelem g).rd o = s.rd o := rfl
@[simp] theorem State.modTelem_get (s : State)  (g : Telem → Telem) (y : FieldRef) : (s.modTelem g).get y = s.get y := rfl
@[simp] theorem State.modTelem_is (s : State)  (g : Telem → Telem) (y : FieldRef) : (s.modTelem g).is y = s.is y := rfl
@[simp] theorem State.modLo_regs (s : State) (n : Fin 5) (g : LoSt → LoSt) : (s.modLo n g).regs = s.regs := rfl
@[simp] theorem State.modLo_env (s : State) (n : Fin 5) (g : LoSt → LoSt) : (s.modLo n g).env = s.env := rfl
@[simp] theorem State.modLo_top (s : State) (n : Fin 5) (g : LoSt → LoSt) : (s.modLo n g).top = s.top := rfl
@[simp] theorem State.modLo_pcie (s : State) (n : Fin 5) (g : LoSt → LoSt) : (s.modLo n g).pcie = s.pcie := rfl
@[simp] theorem State.modLo_boot (s : State) (n : Fin 5) (g : LoSt → LoSt) : (s.modLo n g).boot = s.boot := rfl
@[simp] theorem State.modLo_spi (s : State) (n : Fin 5) (g : LoSt → LoSt) : (s.modLo n g).spi = s.spi := rfl
@[simp] theorem State.modLo_jtag (s : State) (n : Fin 5) (g : LoSt → LoSt) : (s.modLo n g).jtag = s.jtag := rfl
@[simp] theorem State.modLo_hif (s : State) (n : Fin 5) (g : LoSt → LoSt) : (s.modLo n g).hif = s.hif := rfl
@[simp] theorem State.modLo_pwr (s : State) (n : Fin 5) (g : LoSt → LoSt) : (s.modLo n g).pwr = s.pwr := rfl
@[simp] theorem State.modLo_flt (s : State) (n : Fin 5) (g : LoSt → LoSt) : (s.modLo n g).flt = s.flt := rfl
@[simp] theorem State.modLo_lnk (s : State) (n : Fin 5) (g : LoSt → LoSt) : (s.modLo n g).lnk = s.lnk := rfl
@[simp] theorem State.modLo_store (s : State) (n : Fin 5) (g : LoSt → LoSt) : (s.modLo n g).store = s.store := rfl
@[simp] theorem State.modLo_exch (s : State) (n : Fin 5) (g : LoSt → LoSt) : (s.modLo n g).exch = s.exch := rfl
@[simp] theorem State.modLo_pip (s : State) (n : Fin 5) (g : LoSt → LoSt) : (s.modLo n g).pip = s.pip := rfl
@[simp] theorem State.modLo_clk (s : State) (n : Fin 5) (g : LoSt → LoSt) : (s.modLo n g).clk = s.clk := rfl
@[simp] theorem State.modLo_samp (s : State) (n : Fin 5) (g : LoSt → LoSt) : (s.modLo n g).samp = s.samp := rfl
@[simp] theorem State.modLo_cal (s : State) (n : Fin 5) (g : LoSt → LoSt) : (s.modLo n g).cal = s.cal := rfl
@[simp] theorem State.modLo_bcst (s : State) (n : Fin 5) (g : LoSt → LoSt) : (s.modLo n g).bcst = s.bcst := rfl
@[simp] theorem State.modLo_aud (s : State) (n : Fin 5) (g : LoSt → LoSt) : (s.modLo n g).aud = s.aud := rfl
@[simp] theorem State.modLo_tag (s : State) (n : Fin 5) (g : LoSt → LoSt) : (s.modLo n g).tag = s.tag := rfl
@[simp] theorem State.modLo_svc (s : State) (n : Fin 5) (g : LoSt → LoSt) : (s.modLo n g).svc = s.svc := rfl
@[simp] theorem State.modLo_tile (s : State) (n : Fin 5) (g : LoSt → LoSt) : (s.modLo n g).tile = s.tile := rfl
@[simp] theorem State.modLo_free (s : State) (n : Fin 5) (g : LoSt → LoSt) : (s.modLo n g).free = s.free := rfl
@[simp] theorem State.modLo_out (s : State) (n : Fin 5) (g : LoSt → LoSt) : (s.modLo n g).out = s.out := rfl
@[simp] theorem State.modLo_pending (s : State) (n : Fin 5) (g : LoSt → LoSt) : (s.modLo n g).pending = s.pending := rfl
@[simp] theorem State.modLo_rd (s : State) (n : Fin 5) (g : LoSt → LoSt) (o : Nat) : (s.modLo n g).rd o = s.rd o := rfl
@[simp] theorem State.modLo_get (s : State) (n : Fin 5) (g : LoSt → LoSt) (y : FieldRef) : (s.modLo n g).get y = s.get y := rfl
@[simp] theorem State.modLo_is (s : State) (n : Fin 5) (g : LoSt → LoSt) (y : FieldRef) : (s.modLo n g).is y = s.is y := rfl
@[simp] theorem State.modPath_regs (s : State) (n : Fin 4) (g : PathSt → PathSt) : (s.modPath n g).regs = s.regs := rfl
@[simp] theorem State.modPath_env (s : State) (n : Fin 4) (g : PathSt → PathSt) : (s.modPath n g).env = s.env := rfl
@[simp] theorem State.modPath_top (s : State) (n : Fin 4) (g : PathSt → PathSt) : (s.modPath n g).top = s.top := rfl
@[simp] theorem State.modPath_pcie (s : State) (n : Fin 4) (g : PathSt → PathSt) : (s.modPath n g).pcie = s.pcie := rfl
@[simp] theorem State.modPath_boot (s : State) (n : Fin 4) (g : PathSt → PathSt) : (s.modPath n g).boot = s.boot := rfl
@[simp] theorem State.modPath_spi (s : State) (n : Fin 4) (g : PathSt → PathSt) : (s.modPath n g).spi = s.spi := rfl
@[simp] theorem State.modPath_jtag (s : State) (n : Fin 4) (g : PathSt → PathSt) : (s.modPath n g).jtag = s.jtag := rfl
@[simp] theorem State.modPath_hif (s : State) (n : Fin 4) (g : PathSt → PathSt) : (s.modPath n g).hif = s.hif := rfl
@[simp] theorem State.modPath_pwr (s : State) (n : Fin 4) (g : PathSt → PathSt) : (s.modPath n g).pwr = s.pwr := rfl
@[simp] theorem State.modPath_flt (s : State) (n : Fin 4) (g : PathSt → PathSt) : (s.modPath n g).flt = s.flt := rfl
@[simp] theorem State.modPath_lnk (s : State) (n : Fin 4) (g : PathSt → PathSt) : (s.modPath n g).lnk = s.lnk := rfl
@[simp] theorem State.modPath_store (s : State) (n : Fin 4) (g : PathSt → PathSt) : (s.modPath n g).store = s.store := rfl
@[simp] theorem State.modPath_exch (s : State) (n : Fin 4) (g : PathSt → PathSt) : (s.modPath n g).exch = s.exch := rfl
@[simp] theorem State.modPath_pip (s : State) (n : Fin 4) (g : PathSt → PathSt) : (s.modPath n g).pip = s.pip := rfl
@[simp] theorem State.modPath_clk (s : State) (n : Fin 4) (g : PathSt → PathSt) : (s.modPath n g).clk = s.clk := rfl
@[simp] theorem State.modPath_samp (s : State) (n : Fin 4) (g : PathSt → PathSt) : (s.modPath n g).samp = s.samp := rfl
@[simp] theorem State.modPath_cal (s : State) (n : Fin 4) (g : PathSt → PathSt) : (s.modPath n g).cal = s.cal := rfl
@[simp] theorem State.modPath_bcst (s : State) (n : Fin 4) (g : PathSt → PathSt) : (s.modPath n g).bcst = s.bcst := rfl
@[simp] theorem State.modPath_aud (s : State) (n : Fin 4) (g : PathSt → PathSt) : (s.modPath n g).aud = s.aud := rfl
@[simp] theorem State.modPath_tag (s : State) (n : Fin 4) (g : PathSt → PathSt) : (s.modPath n g).tag = s.tag := rfl
@[simp] theorem State.modPath_svc (s : State) (n : Fin 4) (g : PathSt → PathSt) : (s.modPath n g).svc = s.svc := rfl
@[simp] theorem State.modPath_tile (s : State) (n : Fin 4) (g : PathSt → PathSt) : (s.modPath n g).tile = s.tile := rfl
@[simp] theorem State.modPath_free (s : State) (n : Fin 4) (g : PathSt → PathSt) : (s.modPath n g).free = s.free := rfl
@[simp] theorem State.modPath_out (s : State) (n : Fin 4) (g : PathSt → PathSt) : (s.modPath n g).out = s.out := rfl
@[simp] theorem State.modPath_pending (s : State) (n : Fin 4) (g : PathSt → PathSt) : (s.modPath n g).pending = s.pending := rfl
@[simp] theorem State.modPath_rd (s : State) (n : Fin 4) (g : PathSt → PathSt) (o : Nat) : (s.modPath n g).rd o = s.rd o := rfl
@[simp] theorem State.modPath_get (s : State) (n : Fin 4) (g : PathSt → PathSt) (y : FieldRef) : (s.modPath n g).get y = s.get y := rfl
@[simp] theorem State.modPath_is (s : State) (n : Fin 4) (g : PathSt → PathSt) (y : FieldRef) : (s.modPath n g).is y = s.is y := rfl
@[simp] theorem State.modAgc_regs (s : State) (n : Fin 4) (g : AgcSt → AgcSt) : (s.modAgc n g).regs = s.regs := rfl
@[simp] theorem State.modAgc_env (s : State) (n : Fin 4) (g : AgcSt → AgcSt) : (s.modAgc n g).env = s.env := rfl
@[simp] theorem State.modAgc_top (s : State) (n : Fin 4) (g : AgcSt → AgcSt) : (s.modAgc n g).top = s.top := rfl
@[simp] theorem State.modAgc_pcie (s : State) (n : Fin 4) (g : AgcSt → AgcSt) : (s.modAgc n g).pcie = s.pcie := rfl
@[simp] theorem State.modAgc_boot (s : State) (n : Fin 4) (g : AgcSt → AgcSt) : (s.modAgc n g).boot = s.boot := rfl
@[simp] theorem State.modAgc_spi (s : State) (n : Fin 4) (g : AgcSt → AgcSt) : (s.modAgc n g).spi = s.spi := rfl
@[simp] theorem State.modAgc_jtag (s : State) (n : Fin 4) (g : AgcSt → AgcSt) : (s.modAgc n g).jtag = s.jtag := rfl
@[simp] theorem State.modAgc_hif (s : State) (n : Fin 4) (g : AgcSt → AgcSt) : (s.modAgc n g).hif = s.hif := rfl
@[simp] theorem State.modAgc_pwr (s : State) (n : Fin 4) (g : AgcSt → AgcSt) : (s.modAgc n g).pwr = s.pwr := rfl
@[simp] theorem State.modAgc_flt (s : State) (n : Fin 4) (g : AgcSt → AgcSt) : (s.modAgc n g).flt = s.flt := rfl
@[simp] theorem State.modAgc_lnk (s : State) (n : Fin 4) (g : AgcSt → AgcSt) : (s.modAgc n g).lnk = s.lnk := rfl
@[simp] theorem State.modAgc_store (s : State) (n : Fin 4) (g : AgcSt → AgcSt) : (s.modAgc n g).store = s.store := rfl
@[simp] theorem State.modAgc_exch (s : State) (n : Fin 4) (g : AgcSt → AgcSt) : (s.modAgc n g).exch = s.exch := rfl
@[simp] theorem State.modAgc_pip (s : State) (n : Fin 4) (g : AgcSt → AgcSt) : (s.modAgc n g).pip = s.pip := rfl
@[simp] theorem State.modAgc_clk (s : State) (n : Fin 4) (g : AgcSt → AgcSt) : (s.modAgc n g).clk = s.clk := rfl
@[simp] theorem State.modAgc_radio (s : State) (n : Fin 4) (g : AgcSt → AgcSt) : (s.modAgc n g).radio = s.radio := rfl
@[simp] theorem State.modAgc_cal (s : State) (n : Fin 4) (g : AgcSt → AgcSt) : (s.modAgc n g).cal = s.cal := rfl
@[simp] theorem State.modAgc_bcst (s : State) (n : Fin 4) (g : AgcSt → AgcSt) : (s.modAgc n g).bcst = s.bcst := rfl
@[simp] theorem State.modAgc_aud (s : State) (n : Fin 4) (g : AgcSt → AgcSt) : (s.modAgc n g).aud = s.aud := rfl
@[simp] theorem State.modAgc_tag (s : State) (n : Fin 4) (g : AgcSt → AgcSt) : (s.modAgc n g).tag = s.tag := rfl
@[simp] theorem State.modAgc_svc (s : State) (n : Fin 4) (g : AgcSt → AgcSt) : (s.modAgc n g).svc = s.svc := rfl
@[simp] theorem State.modAgc_tile (s : State) (n : Fin 4) (g : AgcSt → AgcSt) : (s.modAgc n g).tile = s.tile := rfl
@[simp] theorem State.modAgc_free (s : State) (n : Fin 4) (g : AgcSt → AgcSt) : (s.modAgc n g).free = s.free := rfl
@[simp] theorem State.modAgc_out (s : State) (n : Fin 4) (g : AgcSt → AgcSt) : (s.modAgc n g).out = s.out := rfl
@[simp] theorem State.modAgc_pending (s : State) (n : Fin 4) (g : AgcSt → AgcSt) : (s.modAgc n g).pending = s.pending := rfl
@[simp] theorem State.modAgc_rd (s : State) (n : Fin 4) (g : AgcSt → AgcSt) (o : Nat) : (s.modAgc n g).rd o = s.rd o := rfl
@[simp] theorem State.modAgc_get (s : State) (n : Fin 4) (g : AgcSt → AgcSt) (y : FieldRef) : (s.modAgc n g).get y = s.get y := rfl
@[simp] theorem State.modAgc_is (s : State) (n : Fin 4) (g : AgcSt → AgcSt) (y : FieldRef) : (s.modAgc n g).is y = s.is y := rfl
@[simp] theorem State.modSrc_regs (s : State) (n : Fin 4) (g : Source → Source) : (s.modSrc n g).regs = s.regs := rfl
@[simp] theorem State.modSrc_env (s : State) (n : Fin 4) (g : Source → Source) : (s.modSrc n g).env = s.env := rfl
@[simp] theorem State.modSrc_top (s : State) (n : Fin 4) (g : Source → Source) : (s.modSrc n g).top = s.top := rfl
@[simp] theorem State.modSrc_pcie (s : State) (n : Fin 4) (g : Source → Source) : (s.modSrc n g).pcie = s.pcie := rfl
@[simp] theorem State.modSrc_boot (s : State) (n : Fin 4) (g : Source → Source) : (s.modSrc n g).boot = s.boot := rfl
@[simp] theorem State.modSrc_spi (s : State) (n : Fin 4) (g : Source → Source) : (s.modSrc n g).spi = s.spi := rfl
@[simp] theorem State.modSrc_jtag (s : State) (n : Fin 4) (g : Source → Source) : (s.modSrc n g).jtag = s.jtag := rfl
@[simp] theorem State.modSrc_hif (s : State) (n : Fin 4) (g : Source → Source) : (s.modSrc n g).hif = s.hif := rfl
@[simp] theorem State.modSrc_pwr (s : State) (n : Fin 4) (g : Source → Source) : (s.modSrc n g).pwr = s.pwr := rfl
@[simp] theorem State.modSrc_flt (s : State) (n : Fin 4) (g : Source → Source) : (s.modSrc n g).flt = s.flt := rfl
@[simp] theorem State.modSrc_lnk (s : State) (n : Fin 4) (g : Source → Source) : (s.modSrc n g).lnk = s.lnk := rfl
@[simp] theorem State.modSrc_store (s : State) (n : Fin 4) (g : Source → Source) : (s.modSrc n g).store = s.store := rfl
@[simp] theorem State.modSrc_exch (s : State) (n : Fin 4) (g : Source → Source) : (s.modSrc n g).exch = s.exch := rfl
@[simp] theorem State.modSrc_pip (s : State) (n : Fin 4) (g : Source → Source) : (s.modSrc n g).pip = s.pip := rfl
@[simp] theorem State.modSrc_clk (s : State) (n : Fin 4) (g : Source → Source) : (s.modSrc n g).clk = s.clk := rfl
@[simp] theorem State.modSrc_radio (s : State) (n : Fin 4) (g : Source → Source) : (s.modSrc n g).radio = s.radio := rfl
@[simp] theorem State.modSrc_samp (s : State) (n : Fin 4) (g : Source → Source) : (s.modSrc n g).samp = s.samp := rfl
@[simp] theorem State.modSrc_cal (s : State) (n : Fin 4) (g : Source → Source) : (s.modSrc n g).cal = s.cal := rfl
@[simp] theorem State.modSrc_aud (s : State) (n : Fin 4) (g : Source → Source) : (s.modSrc n g).aud = s.aud := rfl
@[simp] theorem State.modSrc_tag (s : State) (n : Fin 4) (g : Source → Source) : (s.modSrc n g).tag = s.tag := rfl
@[simp] theorem State.modSrc_svc (s : State) (n : Fin 4) (g : Source → Source) : (s.modSrc n g).svc = s.svc := rfl
@[simp] theorem State.modSrc_tile (s : State) (n : Fin 4) (g : Source → Source) : (s.modSrc n g).tile = s.tile := rfl
@[simp] theorem State.modSrc_free (s : State) (n : Fin 4) (g : Source → Source) : (s.modSrc n g).free = s.free := rfl
@[simp] theorem State.modSrc_out (s : State) (n : Fin 4) (g : Source → Source) : (s.modSrc n g).out = s.out := rfl
@[simp] theorem State.modSrc_pending (s : State) (n : Fin 4) (g : Source → Source) : (s.modSrc n g).pending = s.pending := rfl
@[simp] theorem State.modSrc_rd (s : State) (n : Fin 4) (g : Source → Source) (o : Nat) : (s.modSrc n g).rd o = s.rd o := rfl
@[simp] theorem State.modSrc_get (s : State) (n : Fin 4) (g : Source → Source) (y : FieldRef) : (s.modSrc n g).get y = s.get y := rfl
@[simp] theorem State.modSrc_is (s : State) (n : Fin 4) (g : Source → Source) (y : FieldRef) : (s.modSrc n g).is y = s.is y := rfl
@[simp] theorem State.modOut_regs (s : State) (n : Fin 4) (g : OutputSt → OutputSt) : (s.modOut n g).regs = s.regs := rfl
@[simp] theorem State.modOut_env (s : State) (n : Fin 4) (g : OutputSt → OutputSt) : (s.modOut n g).env = s.env := rfl
@[simp] theorem State.modOut_top (s : State) (n : Fin 4) (g : OutputSt → OutputSt) : (s.modOut n g).top = s.top := rfl
@[simp] theorem State.modOut_pcie (s : State) (n : Fin 4) (g : OutputSt → OutputSt) : (s.modOut n g).pcie = s.pcie := rfl
@[simp] theorem State.modOut_boot (s : State) (n : Fin 4) (g : OutputSt → OutputSt) : (s.modOut n g).boot = s.boot := rfl
@[simp] theorem State.modOut_spi (s : State) (n : Fin 4) (g : OutputSt → OutputSt) : (s.modOut n g).spi = s.spi := rfl
@[simp] theorem State.modOut_jtag (s : State) (n : Fin 4) (g : OutputSt → OutputSt) : (s.modOut n g).jtag = s.jtag := rfl
@[simp] theorem State.modOut_hif (s : State) (n : Fin 4) (g : OutputSt → OutputSt) : (s.modOut n g).hif = s.hif := rfl
@[simp] theorem State.modOut_pwr (s : State) (n : Fin 4) (g : OutputSt → OutputSt) : (s.modOut n g).pwr = s.pwr := rfl
@[simp] theorem State.modOut_flt (s : State) (n : Fin 4) (g : OutputSt → OutputSt) : (s.modOut n g).flt = s.flt := rfl
@[simp] theorem State.modOut_lnk (s : State) (n : Fin 4) (g : OutputSt → OutputSt) : (s.modOut n g).lnk = s.lnk := rfl
@[simp] theorem State.modOut_store (s : State) (n : Fin 4) (g : OutputSt → OutputSt) : (s.modOut n g).store = s.store := rfl
@[simp] theorem State.modOut_exch (s : State) (n : Fin 4) (g : OutputSt → OutputSt) : (s.modOut n g).exch = s.exch := rfl
@[simp] theorem State.modOut_pip (s : State) (n : Fin 4) (g : OutputSt → OutputSt) : (s.modOut n g).pip = s.pip := rfl
@[simp] theorem State.modOut_clk (s : State) (n : Fin 4) (g : OutputSt → OutputSt) : (s.modOut n g).clk = s.clk := rfl
@[simp] theorem State.modOut_radio (s : State) (n : Fin 4) (g : OutputSt → OutputSt) : (s.modOut n g).radio = s.radio := rfl
@[simp] theorem State.modOut_samp (s : State) (n : Fin 4) (g : OutputSt → OutputSt) : (s.modOut n g).samp = s.samp := rfl
@[simp] theorem State.modOut_cal (s : State) (n : Fin 4) (g : OutputSt → OutputSt) : (s.modOut n g).cal = s.cal := rfl
@[simp] theorem State.modOut_bcst (s : State) (n : Fin 4) (g : OutputSt → OutputSt) : (s.modOut n g).bcst = s.bcst := rfl
@[simp] theorem State.modOut_tag (s : State) (n : Fin 4) (g : OutputSt → OutputSt) : (s.modOut n g).tag = s.tag := rfl
@[simp] theorem State.modOut_svc (s : State) (n : Fin 4) (g : OutputSt → OutputSt) : (s.modOut n g).svc = s.svc := rfl
@[simp] theorem State.modOut_tile (s : State) (n : Fin 4) (g : OutputSt → OutputSt) : (s.modOut n g).tile = s.tile := rfl
@[simp] theorem State.modOut_free (s : State) (n : Fin 4) (g : OutputSt → OutputSt) : (s.modOut n g).free = s.free := rfl
@[simp] theorem State.modOut_out (s : State) (n : Fin 4) (g : OutputSt → OutputSt) : (s.modOut n g).out = s.out := rfl
@[simp] theorem State.modOut_pending (s : State) (n : Fin 4) (g : OutputSt → OutputSt) : (s.modOut n g).pending = s.pending := rfl
@[simp] theorem State.modOut_rd (s : State) (n : Fin 4) (g : OutputSt → OutputSt) (o : Nat) : (s.modOut n g).rd o = s.rd o := rfl
@[simp] theorem State.modOut_get (s : State) (n : Fin 4) (g : OutputSt → OutputSt) (y : FieldRef) : (s.modOut n g).get y = s.get y := rfl
@[simp] theorem State.modOut_is (s : State) (n : Fin 4) (g : OutputSt → OutputSt) (y : FieldRef) : (s.modOut n g).is y = s.is y := rfl
@[simp] theorem State.modRing_regs (s : State) (n : Fin 24) (g : RingSt → RingSt) : (s.modRing n g).regs = s.regs := rfl
@[simp] theorem State.modRing_env (s : State) (n : Fin 24) (g : RingSt → RingSt) : (s.modRing n g).env = s.env := rfl
@[simp] theorem State.modRing_top (s : State) (n : Fin 24) (g : RingSt → RingSt) : (s.modRing n g).top = s.top := rfl
@[simp] theorem State.modRing_pcie (s : State) (n : Fin 24) (g : RingSt → RingSt) : (s.modRing n g).pcie = s.pcie := rfl
@[simp] theorem State.modRing_boot (s : State) (n : Fin 24) (g : RingSt → RingSt) : (s.modRing n g).boot = s.boot := rfl
@[simp] theorem State.modRing_spi (s : State) (n : Fin 24) (g : RingSt → RingSt) : (s.modRing n g).spi = s.spi := rfl
@[simp] theorem State.modRing_jtag (s : State) (n : Fin 24) (g : RingSt → RingSt) : (s.modRing n g).jtag = s.jtag := rfl
@[simp] theorem State.modRing_pwr (s : State) (n : Fin 24) (g : RingSt → RingSt) : (s.modRing n g).pwr = s.pwr := rfl
@[simp] theorem State.modRing_flt (s : State) (n : Fin 24) (g : RingSt → RingSt) : (s.modRing n g).flt = s.flt := rfl
@[simp] theorem State.modRing_lnk (s : State) (n : Fin 24) (g : RingSt → RingSt) : (s.modRing n g).lnk = s.lnk := rfl
@[simp] theorem State.modRing_store (s : State) (n : Fin 24) (g : RingSt → RingSt) : (s.modRing n g).store = s.store := rfl
@[simp] theorem State.modRing_exch (s : State) (n : Fin 24) (g : RingSt → RingSt) : (s.modRing n g).exch = s.exch := rfl
@[simp] theorem State.modRing_pip (s : State) (n : Fin 24) (g : RingSt → RingSt) : (s.modRing n g).pip = s.pip := rfl
@[simp] theorem State.modRing_clk (s : State) (n : Fin 24) (g : RingSt → RingSt) : (s.modRing n g).clk = s.clk := rfl
@[simp] theorem State.modRing_radio (s : State) (n : Fin 24) (g : RingSt → RingSt) : (s.modRing n g).radio = s.radio := rfl
@[simp] theorem State.modRing_samp (s : State) (n : Fin 24) (g : RingSt → RingSt) : (s.modRing n g).samp = s.samp := rfl
@[simp] theorem State.modRing_cal (s : State) (n : Fin 24) (g : RingSt → RingSt) : (s.modRing n g).cal = s.cal := rfl
@[simp] theorem State.modRing_bcst (s : State) (n : Fin 24) (g : RingSt → RingSt) : (s.modRing n g).bcst = s.bcst := rfl
@[simp] theorem State.modRing_aud (s : State) (n : Fin 24) (g : RingSt → RingSt) : (s.modRing n g).aud = s.aud := rfl
@[simp] theorem State.modRing_tag (s : State) (n : Fin 24) (g : RingSt → RingSt) : (s.modRing n g).tag = s.tag := rfl
@[simp] theorem State.modRing_svc (s : State) (n : Fin 24) (g : RingSt → RingSt) : (s.modRing n g).svc = s.svc := rfl
@[simp] theorem State.modRing_tile (s : State) (n : Fin 24) (g : RingSt → RingSt) : (s.modRing n g).tile = s.tile := rfl
@[simp] theorem State.modRing_free (s : State) (n : Fin 24) (g : RingSt → RingSt) : (s.modRing n g).free = s.free := rfl
@[simp] theorem State.modRing_out (s : State) (n : Fin 24) (g : RingSt → RingSt) : (s.modRing n g).out = s.out := rfl
@[simp] theorem State.modRing_pending (s : State) (n : Fin 24) (g : RingSt → RingSt) : (s.modRing n g).pending = s.pending := rfl
@[simp] theorem State.modRing_rd (s : State) (n : Fin 24) (g : RingSt → RingSt) (o : Nat) : (s.modRing n g).rd o = s.rd o := rfl
@[simp] theorem State.modRing_get (s : State) (n : Fin 24) (g : RingSt → RingSt) (y : FieldRef) : (s.modRing n g).get y = s.get y := rfl
@[simp] theorem State.modRing_is (s : State) (n : Fin 24) (g : RingSt → RingSt) (y : FieldRef) : (s.modRing n g).is y = s.is y := rfl

end Sys2Proof.Machine
end

