-- ==== Sys2Proof/Laws/Regs.lean ====
section
/-! SUPPORT. Registers: a field after a write of it, of another field, of another register; the canonical form of the register file. -/

namespace Sys2Proof.Machine

/-! ### Fields of a word -/

theorem testBit_getF (w : Word) (lo n i : Nat) : (getF w lo n).testBit i = (decide (i < n) && w.getLsbD (lo + i)) := by
  simp [getF, Nat.testBit_mod_two_pow, Nat.testBit_shiftRight, BitVec.getLsbD]

theorem getLsbD_setF (w : Word) (lo n v j : Nat) :
    (setF w lo n v).getLsbD j = if lo ≤ j ∧ j < lo + n ∧ j < 32 then v.testBit (j - lo) else w.getLsbD j := by
  by_cases hj : j < 32
  · simp only [setF, BitVec.getLsbD_or, BitVec.getLsbD_and, BitVec.getLsbD_not, BitVec.getLsbD_ofNat, hj, decide_true, Bool.true_and,
      Nat.testBit_shiftLeft, Nat.testBit_two_pow_sub_one, Nat.testBit_mod_two_pow, and_true]
    by_cases h1 : lo ≤ j
    · by_cases h2 : j < lo + n
      · have : j - lo < n := by omega
        simp [h1, h2, this]
      · have : ¬ j - lo < n := by omega
        simp [h1, h2, this]
    · have : ¬ (lo ≤ j ∧ j < lo + n) := by omega
      simp [h1]
  · simp [hj, BitVec.getLsbD_of_ge _ _ (Nat.le_of_not_lt hj)]

/-- A field that has been set reads as the value, cut to its width. -/
theorem getF_setF_self (w : Word) (lo n v : Nat) (h : lo + n ≤ 32) : getF (setF w lo n v) lo n = v % 2 ^ n := by
  apply Nat.eq_of_testBit_eq
  intro i
  rw [testBit_getF, Nat.testBit_mod_two_pow, getLsbD_setF]
  by_cases hi : i < n
  · have : lo ≤ lo + i ∧ lo + i < lo + n ∧ lo + i < 32 := by omega
    simp [hi, this]
  · simp [hi]

/-- Setting a field leaves a field that shares no bit with it. -/
theorem getF_setF_ne (w : Word) (lo n v lo' n' : Nat) (h : lo + n ≤ lo' ∨ lo' + n' ≤ lo) : getF (setF w lo n v) lo' n' = getF w lo' n' := by
  apply Nat.eq_of_testBit_eq
  intro i
  rw [testBit_getF, testBit_getF, getLsbD_setF]
  by_cases hi : i < n'
  · have : ¬ (lo ≤ lo' + i ∧ lo' + i < lo + n ∧ lo' + i < 32) := by omega
    simp [this]
  · simp [hi]

theorem getF_lt (w : Word) (lo n : Nat) : getF w lo n < 2 ^ n := Nat.mod_lt _ (Nat.two_pow_pos n)

/-! ### Registers of the state -/

@[simp] theorem State.rd_wr_self (s : State) (o : Nat) (w : Word) : (s.wr o w).rd o = w := Sparse.get_put_self ..
theorem State.rd_wr_ne (s : State) (o p : Nat) (w : Word) (h : p ≠ o) : (s.wr o w).rd p = s.rd p := Sparse.get_put_ne _ _ _ _ _ h
theorem State.rd_put_ne (s : State) (f : FieldRef) (v p : Nat) (h : p ≠ f.off) : (s.put f v).rd p = s.rd p := s.rd_wr_ne _ _ _ h
theorem State.rd_put_self (s : State) (f : FieldRef) (v : Nat) : (s.put f v).rd f.off = setF (s.rd f.off) f.lo f.width v := s.rd_wr_self _ _

/-- A field after a write of it. -/
theorem State.get_put_self (s : State) (f : FieldRef) (v : Nat) (h : f.lo + f.width ≤ 32) : (s.put f v).get f = v % 2 ^ f.width := by
  rw [State.get, State.rd_put_self, getF_setF_self _ _ _ _ h]
/-- A field after a write of another: of another register, or of other bits. -/
theorem State.get_put_ne (s : State) (f g : FieldRef) (v : Nat) (h : g.off ≠ f.off ∨ f.lo + f.width ≤ g.lo ∨ g.lo + g.width ≤ f.lo) :
    (s.put f v).get g = s.get g := by
  by_cases ho : g.off = f.off
  · have h' : f.lo + f.width ≤ g.lo ∨ g.lo + g.width ≤ f.lo := by
      rcases h with h | h
      · exact absurd ho h
      · exact h
    rw [State.get, State.get, ho, State.rd_put_self, getF_setF_ne _ _ _ _ _ _ h']
  · rw [State.get, State.get, s.rd_put_ne f v _ ho]

theorem State.flag_eq (s : State) (f : FieldRef) : s.flag f = s.put f (2 ^ f.width - 1) := rfl
theorem State.putB_eq (s : State) (f : FieldRef) (b : Bool) : s.putB f b = s.put f (b2n b) := rfl
theorem State.orF_eq (s : State) (f : FieldRef) (m : Nat) : s.orF f m = s.put f (s.get f ||| m) := rfl
theorem State.inc_eq (s : State) (f : FieldRef) : s.inc f = s.put f (s.get f + 1) := rfl
/-- A status bit that has been set reads 1. -/
theorem State.is_flag (s : State) (f : FieldRef) (h : f.lo + f.width ≤ 32) (hw : 0 < f.width) : (s.flag f).is f = true := by
  have h1 : 2 ^ f.width - 1 < 2 ^ f.width := Nat.sub_lt (Nat.two_pow_pos _) Nat.one_pos
  have h2 : 2 ≤ 2 ^ f.width := by
    calc 2 = 2 ^ 1 := rfl
      _ ≤ 2 ^ f.width := Nat.pow_le_pow_right (by omega) hw
  rw [State.is, State.flag_eq, s.get_put_self f _ h, Nat.mod_eq_of_lt h1]
  simp
  omega
/-- A one-bit field after a write of it. -/
theorem State.is_putB (s : State) (f : FieldRef) (b : Bool) (h : f.lo + f.width ≤ 32) (hw : f.width = 1) : (s.putB f b).is f = b := by
  rw [State.is, State.putB_eq, s.get_put_self f _ h, hw]
  cases b <;> rfl

/-- A range of registers that has been cleared reads its reset values; no other register changes. -/
theorem State.rd_clearRegs (s : State) (lo hi o : Nat) : (s.clearRegs lo hi).rd o = if lo ≤ o ∧ o < hi then resetWord o else s.rd o := by
  simp only [State.rd, State.clearRegs, Sparse.get, Sparse.find_eraseRange]
  split <;> rfl

/-! ### The canonical form of the register file -/

theorem State.regs_wr_wf (s : State) (o : Nat) (w : Word) (h : Sparse.wf resetWord s.regs = true) :
    Sparse.wf resetWord (s.wr o w).regs = true := Sparse.wf_put _ _ _ _ h
theorem State.regs_put_wf (s : State) (f : FieldRef) (v : Nat) (h : Sparse.wf resetWord s.regs = true) :
    Sparse.wf resetWord (s.put f v).regs = true := Sparse.wf_put _ _ _ _ h
theorem State.regs_clearRegs_wf (s : State) (lo hi : Nat) (h : Sparse.wf resetWord s.regs = true) :
    Sparse.wf resetWord (s.clearRegs lo hi).regs = true := Sparse.wf_eraseRange _ _ _ _ h

end Sys2Proof.Machine
end

