-- ==== Sys2Proof/Laws/Frame.lean ====
section
/-! SUPPORT. What the writes of fields and of registers leave: the frames that the statements speak of. -/

namespace Sys2Proof.Machine

/-- A command answers with a property when the state it ends in has it. -/
theorem answers_of {c : Instr} {s t : State} {P : State → Prop} (h : exec c s = .next t) (hp : P t) : answers c s P := ⟨t, h, hp⟩

theorem fieldsOnly_refl (fs : List FieldRef) (s : State) : fieldsOnly fs s s := fun _ _ _ => rfl

theorem fieldsOnly_trans {fs : List FieldRef} {s t u : State} (h1 : fieldsOnly fs s t) (h2 : fieldsOnly fs t u) : fieldsOnly fs s u :=
  fun off i h => (h2 off i h).trans (h1 off i h)

/-- A write of one field leaves every other bit. -/
theorem fieldsOnly_put {fs : List FieldRef} (s : State) (f : FieldRef) (v : Nat) (hf : f ∈ fs) : fieldsOnly fs s (s.put f v) := by
  intro off i h
  by_cases ho : off = f.off
  · subst ho
    rw [State.rd_put_self, getLsbD_setF]
    have := h f hf rfl
    by_cases hi : i < 32
    · rcases this with h | h
      · simp [hi]; intro; omega
      · simp [hi]; intro; omega
    · rw [BitVec.getLsbD_of_ge _ _ (by omega)]; simp [hi]
  · rw [State.rd_put_ne _ _ _ _ ho]

theorem fieldsOnly_of_regs {fs : List FieldRef} {s t : State} (h : t.regs = s.regs) : fieldsOnly fs s t := by
  intro off i _; simp [State.rd, h]

theorem onlyFields_refl (fs : List FieldRef) (s : State) : onlyFields fs s s := ⟨rfl, fieldsOnly_refl fs s⟩

theorem onlyFields_trans {fs : List FieldRef} {s t u : State} (h1 : onlyFields fs s t) (h2 : onlyFields fs t u) : onlyFields fs s u := by
  refine ⟨?_, fieldsOnly_trans h1.2 h2.2⟩
  have := h1.1
  rw [← h2.1] at this
  exact this

theorem onlyFields_put {fs : List FieldRef} (s : State) (f : FieldRef) (v : Nat) (hf : f ∈ fs) : onlyFields fs s (s.put f v) :=
  ⟨rfl, fieldsOnly_put s f v hf⟩
/-- One more write after others. -/
theorem onlyFields_put' {fs : List FieldRef} {s t : State} (f : FieldRef) (v : Nat) (hf : f ∈ fs) (h : onlyFields fs s t) :
    onlyFields fs s (t.put f v) := onlyFields_trans h (onlyFields_put t f v hf)

theorem regsOnly_refl (offs : List Nat) (s : State) : regsOnly offs s s := fun _ _ => rfl
theorem regsOnly_trans {offs : List Nat} {s t u : State} (h1 : regsOnly offs s t) (h2 : regsOnly offs t u) : regsOnly offs s u :=
  fun off h => (h2 off h).trans (h1 off h)
theorem regsOnly_wr {offs : List Nat} (s : State) (o : Nat) (w : Word) (ho : o ∈ offs) : regsOnly offs s (s.wr o w) :=
  fun off h => s.rd_wr_ne o off w (fun e => h (e ▸ ho))
theorem regsOnly_put {offs : List Nat} (s : State) (f : FieldRef) (v : Nat) (ho : f.off ∈ offs) : regsOnly offs s (s.put f v) :=
  regsOnly_wr s _ _ ho
theorem onlyRegs_wr {offs : List Nat} (s : State) (o : Nat) (w : Word) (ho : o ∈ offs) : onlyRegs offs s (s.wr o w) := ⟨rfl, regsOnly_wr s o w ho⟩

end Sys2Proof.Machine
end

