-- ==== Sys2Proof/Laws/Keeps.lean ====
section
/-! SUPPORT. What every command but a board event keeps, as one relation between two states, with the rules by which it is shown of a
meaning from the operations the meaning is made of. -/

namespace Sys2Proof.Machine

/-- From `s` to `t`: the queue, what the board holds and the straps stay; outputs and free values are only added; the register file and the
sample store stay in canonical form; the buffer of event records stays within 256. -/
structure Keeps (s t : State) : Prop where
  pending : t.pending = s.pending
  env : t.env = s.env
  straps : t.top.straps = s.top.straps
  out : ∃ l, t.out = l ++ s.out
  free : s.free ≤ t.free
  regs : Regs.wf s.regs = true → Regs.wf t.regs = true
  words : Memory.wf s.store.words = true → Memory.wf t.store.words = true
  buf : t.hif.buf.length ≤ max 256 s.hif.buf.length

/-- What even a board event keeps: of `Keeps` all but what the board holds and the straps. -/
structure Grows (s t : State) : Prop where
  pending : t.pending = s.pending
  out : ∃ l, t.out = l ++ s.out
  free : s.free ≤ t.free
  regs : Regs.wf s.regs = true → Regs.wf t.regs = true
  words : Memory.wf s.store.words = true → Memory.wf t.store.words = true
  buf : t.hif.buf.length ≤ max 256 s.hif.buf.length

theorem Keeps.grows {s t : State} (h : Keeps s t) : Grows s t := ⟨h.pending, h.out, h.free, h.regs, h.words, h.buf⟩
theorem Grows.refl (s : State) : Grows s s := ⟨rfl, ⟨[], rfl⟩, Nat.le_refl _, id, id, Nat.le_max_right ..⟩
theorem Grows.trans {s t u : State} (h : Grows s t) (k : Grows t u) : Grows s u where
  pending := k.pending.trans h.pending
  out := by
    obtain ⟨l, hl⟩ := h.out
    obtain ⟨m, hm⟩ := k.out
    exact ⟨m ++ l, by rw [hm, hl, List.append_assoc]⟩
  free := Nat.le_trans h.free k.free
  regs := fun w => k.regs (h.regs w)
  words := fun w => k.words (h.words w)
  buf := by have := h.buf; have := k.buf; omega
theorem Grows.modEnv (s : State) (f : Env → Env) : Grows s (s.modEnv f) := ⟨rfl, ⟨[], rfl⟩, Nat.le_refl _, id, id, Nat.le_max_right ..⟩
theorem Grows.modTop (s : State) (f : Top → Top) : Grows s (s.modTop f) := ⟨rfl, ⟨[], rfl⟩, Nat.le_refl _, id, id, Nat.le_max_right ..⟩

theorem Keeps.refl (s : State) : Keeps s s := ⟨rfl, rfl, rfl, ⟨[], rfl⟩, Nat.le_refl _, id, id, Nat.le_max_right ..⟩

theorem Keeps.trans {s t u : State} (h : Keeps s t) (k : Keeps t u) : Keeps s u where
  pending := k.pending.trans h.pending
  env := k.env.trans h.env
  straps := k.straps.trans h.straps
  out := by
    obtain ⟨l, hl⟩ := h.out
    obtain ⟨m, hm⟩ := k.out
    exact ⟨m ++ l, by rw [hm, hl, List.append_assoc]⟩
  free := Nat.le_trans h.free k.free
  regs := fun w => k.regs (h.regs w)
  words := fun w => k.words (h.words w)
  buf := by have := h.buf; have := k.buf; omega

variable {a s : State}

/-! ### Control -/

theorem Keeps.cond (h : Keeps a s) (b : Bool) (f : State → State) (hf : ∀ t, Keeps a t → Keeps a (f t)) : Keeps a (s.cond b f) := by
  unfold State.cond; split
  · exact hf s h
  · exact h

theorem Keeps.ite {t : State} (c : Prop) [Decidable c] (h1 : Keeps a s) (h2 : Keeps a t) : Keeps a (if c then s else t) := by
  split
  · exact h1
  · exact h2

theorem Keeps.foldl {α : Type} (l : List α) (f : State → α → State) (hf : ∀ t x, Keeps a t → Keeps a (f t x)) :
    ∀ {s : State}, Keeps a s → Keeps a (l.foldl f s) := by
  induction l with
  | nil => intro s h; exact h
  | cons x l ih => intro s h; exact ih (hf s x h)

theorem Keeps.foldlFst {α β : Type} (l : List α) (f : State × β → α → State × β) (hf : ∀ r x, Keeps a r.1 → Keeps a (f r x).1) :
    ∀ {r : State × β}, Keeps a r.1 → Keeps a (l.foldl f r).1 := by
  induction l with
  | nil => intro r h; exact h
  | cons x l ih => intro r h; exact ih (hf r x h)

theorem Keeps.idle (h : Keeps a s) : Keeps a (id s) := h

theorem Keeps.forEach {α : Type} (h : Keeps a s) (l : List α) (f : State → α → State) (hf : ∀ t x, Keeps a t → Keeps a (f t x)) :
    Keeps a (s.forEach l f) := Keeps.foldl l f hf h

/-- A command that ends in a next state keeps what `Keeps` says. -/
def KeepsOut (s : State) (o : Host.Outcome State Fault Refusal) : Prop := ∀ t, o = .next t → Keeps s t

theorem KeepsOut.done {t : State} (h : Keeps s t) : KeepsOut s (Machine.done t) := by
  intro u hu; cases hu; exact h
theorem KeepsOut.live (f : State → State) (hf : ∀ t, Keeps s t → Keeps s (f t)) : KeepsOut s (Machine.live s f) := by
  unfold Machine.live; apply KeepsOut.done; split
  · exact hf s (.refl s)
  · exact .refl s
theorem KeepsOut.running (f : State → State) (hf : ∀ t, Keeps s t → Keeps s (f t)) : KeepsOut s (Machine.running s f) := by
  unfold Machine.running; apply KeepsOut.done; split
  · exact hf s (.refl s)
  · exact .refl s
theorem KeepsOut.inBlock (b : Blk) (f : State → State) (hf : ∀ t, Keeps s t → Keeps s (f t)) : KeepsOut s (Machine.inBlock b s f) := by
  unfold Machine.inBlock; apply KeepsOut.done; split
  · exact hf s (.refl s)
  · exact .refl s

/-! ### The primitive updates -/

/-- A state that differs only in the register file, in canonical form again. -/
theorem Keeps.of_regs {t : State} (h : Keeps a s) (ht : { s with regs := t.regs } = t)
    (hw : Regs.wf s.regs = true → Regs.wf t.regs = true) : Keeps a t :=
  h.trans ⟨by rw [← ht], by rw [← ht], by rw [← ht], ⟨[], by rw [← ht]; rfl⟩, by rw [← ht], hw, by rw [← ht]; exact id,
    by rw [← ht]; exact Nat.le_max_right ..⟩

theorem Keeps.wr (h : Keeps a s) (o : Nat) (w : Word) : Keeps a (s.wr o w) := h.of_regs rfl (s.regs_wr_wf o w)
theorem Keeps.put (h : Keeps a s) (f : FieldRef) (v : Nat) : Keeps a (s.put f v) := h.wr _ _
theorem Keeps.putB (h : Keeps a s) (f : FieldRef) (b : Bool) : Keeps a (s.putB f b) := h.put _ _
theorem Keeps.flag (h : Keeps a s) (f : FieldRef) : Keeps a (s.flag f) := h.put _ _
theorem Keeps.inc (h : Keeps a s) (f : FieldRef) : Keeps a (s.inc f) := h.put _ _
theorem Keeps.add (h : Keeps a s) (f : FieldRef) (n : Nat) : Keeps a (s.add f n) := h.put _ _
theorem Keeps.incSat (h : Keeps a s) (f : FieldRef) : Keeps a (s.incSat f) := h.put _ _
theorem Keeps.orF (h : Keeps a s) (f : FieldRef) (n : Nat) : Keeps a (s.orF f n) := h.put _ _
theorem Keeps.clearRegs (h : Keeps a s) (lo hi : Nat) : Keeps a (s.clearRegs lo hi) := h.of_regs rfl (s.regs_clearRegs_wf lo hi)

theorem Keeps.emit (h : Keeps a s) (o : Out) : Keeps a (s.emit o) :=
  h.trans ⟨rfl, rfl, rfl, ⟨[o], rfl⟩, Nat.le_refl _, id, id, Nat.le_max_right ..⟩
theorem Keeps.emits (h : Keeps a s) (os : List Out) : Keeps a (s.emits os) :=
  h.trans ⟨rfl, rfl, rfl, ⟨os.reverse, rfl⟩, Nat.le_refl _, id, id, Nat.le_max_right ..⟩
theorem Keeps.drawN (h : Keeps a s) (n : Nat) : Keeps a (s.drawN n) :=
  h.trans ⟨rfl, rfl, rfl, ⟨[], rfl⟩, Nat.le_add_right .., id, id, Nat.le_max_right ..⟩
theorem Keeps.draw (h : Keeps a s) : Keeps a s.draw := h.drawN 1

/-- A state that differs in no field that `Keeps` speaks of. -/
theorem Keeps.of_same {t : State} (h : Keeps a s) (hp : t.pending = s.pending) (he : t.env = s.env) (hs : t.top.straps = s.top.straps)
    (ho : t.out = s.out) (hf : t.free = s.free) (hr : t.regs = s.regs) (hw : t.store.words = s.store.words)
    (hb : t.hif.buf = s.hif.buf) : Keeps a t :=
  h.trans ⟨hp, he, hs, ⟨[], by simp [ho]⟩, by simp [hf], by simp [hr], by simp [hw], by simp [hb]⟩

theorem Keeps.modTop (h : Keeps a s) (f : Top → Top) (hf : (f s.top).straps = s.top.straps) : Keeps a (s.modTop f) :=
  h.of_same rfl rfl hf rfl rfl rfl rfl rfl
theorem Keeps.modHif (h : Keeps a s) (f : Hif → Hif) (hf : (f s.hif).buf.length ≤ max 256 s.hif.buf.length) : Keeps a (s.modHif f) :=
  h.trans ⟨rfl, rfl, rfl, ⟨[], rfl⟩, Nat.le_refl _, id, id, hf⟩
theorem Keeps.modStore (h : Keeps a s) (f : Store → Store) (hf : Memory.wf s.store.words = true → Memory.wf (f s.store).words = true) :
    Keeps a (s.modStore f) := h.trans ⟨rfl, rfl, rfl, ⟨[], rfl⟩, Nat.le_refl _, id, hf, Nat.le_max_right ..⟩
theorem Keeps.modPcie (h : Keeps a s) (f : Pcie → Pcie) : Keeps a (s.modPcie f) := h.of_same rfl rfl rfl rfl rfl rfl rfl rfl
theorem Keeps.modSpi (h : Keeps a s) (f : Spi → Spi) : Keeps a (s.modSpi f) := h.of_same rfl rfl rfl rfl rfl rfl rfl rfl
theorem Keeps.modJtag (h : Keeps a s) (f : Jtag → Jtag) : Keeps a (s.modJtag f) := h.of_same rfl rfl rfl rfl rfl rfl rfl rfl
theorem Keeps.modBoot (h : Keeps a s) (f : Boot → Boot) : Keeps a (s.modBoot f) := h.of_same rfl rfl rfl rfl rfl rfl rfl rfl
theorem Keeps.modPwr (h : Keeps a s) (f : Pwr → Pwr) : Keeps a (s.modPwr f) := h.of_same rfl rfl rfl rfl rfl rfl rfl rfl
theorem Keeps.modFlt (h : Keeps a s) (f : Flt → Flt) : Keeps a (s.modFlt f) := h.of_same rfl rfl rfl rfl rfl rfl rfl rfl
theorem Keeps.modLnk (h : Keeps a s) (f : Lnk → Lnk) : Keeps a (s.modLnk f) := h.of_same rfl rfl rfl rfl rfl rfl rfl rfl
theorem Keeps.modTelem (h : Keeps a s) (f : Telem → Telem) : Keeps a (s.modTelem f) := h.of_same rfl rfl rfl rfl rfl rfl rfl rfl
theorem Keeps.modPip (h : Keeps a s) (f : Pip → Pip) : Keeps a (s.modPip f) := h.of_same rfl rfl rfl rfl rfl rfl rfl rfl
theorem Keeps.modClk (h : Keeps a s) (f : Clk → Clk) : Keeps a (s.modClk f) := h.of_same rfl rfl rfl rfl rfl rfl rfl rfl
theorem Keeps.modRadio (h : Keeps a s) (f : Radio → Radio) : Keeps a (s.modRadio f) := h.of_same rfl rfl rfl rfl rfl rfl rfl rfl
theorem Keeps.modSamp (h : Keeps a s) (f : Samp → Samp) : Keeps a (s.modSamp f) := h.of_same rfl rfl rfl rfl rfl rfl rfl rfl
theorem Keeps.modCal (h : Keeps a s) (f : Cal → Cal) : Keeps a (s.modCal f) := h.of_same rfl rfl rfl rfl rfl rfl rfl rfl
theorem Keeps.modBcst (h : Keeps a s) (f : Bcst → Bcst) : Keeps a (s.modBcst f) := h.of_same rfl rfl rfl rfl rfl rfl rfl rfl
theorem Keeps.modAud (h : Keeps a s) (f : Aud → Aud) : Keeps a (s.modAud f) := h.of_same rfl rfl rfl rfl rfl rfl rfl rfl
theorem Keeps.modTag (h : Keeps a s) (f : Tag → Tag) : Keeps a (s.modTag f) := h.of_same rfl rfl rfl rfl rfl rfl rfl rfl
theorem Keeps.modSvc (h : Keeps a s) (f : Svc → Svc) : Keeps a (s.modSvc f) := h.of_same rfl rfl rfl rfl rfl rfl rfl rfl
theorem Keeps.modExch (h : Keeps a s) (f : Exch → Exch) : Keeps a (s.modExch f) := h.of_same rfl rfl rfl rfl rfl rfl rfl rfl
theorem Keeps.modLo (h : Keeps a s) (n : Fin 5) (f : LoSt → LoSt) : Keeps a (s.modLo n f) := h.of_same rfl rfl rfl rfl rfl rfl rfl rfl
theorem Keeps.modPath (h : Keeps a s) (n : Fin 4) (f : PathSt → PathSt) : Keeps a (s.modPath n f) := h.of_same rfl rfl rfl rfl rfl rfl rfl rfl
theorem Keeps.modAgc (h : Keeps a s) (n : Fin 4) (f : AgcSt → AgcSt) : Keeps a (s.modAgc n f) := h.of_same rfl rfl rfl rfl rfl rfl rfl rfl
theorem Keeps.modSrc (h : Keeps a s) (n : Fin 4) (f : Source → Source) : Keeps a (s.modSrc n f) := h.of_same rfl rfl rfl rfl rfl rfl rfl rfl
theorem Keeps.modOut (h : Keeps a s) (n : Fin 4) (f : OutputSt → OutputSt) : Keeps a (s.modOut n f) := h.of_same rfl rfl rfl rfl rfl rfl rfl rfl
theorem Keeps.modRing (h : Keeps a s) (n : Fin 24) (f : RingSt → RingSt) : Keeps a (s.modRing n f) := h.of_same rfl rfl rfl rfl rfl rfl rfl rfl
theorem Keeps.setTile (h : Keeps a s) (v : BitVec 32) : Keeps a (s.setTile v) := h.of_same rfl rfl rfl rfl rfl rfl rfl rfl

end Sys2Proof.Machine
end

