-- ==== Sys2Proof/Laws/Keeps/Fabric.lean ====
section
/-! SUPPORT. Fabric: what every operation and meaning of this file keeps. -/

namespace Sys2Proof.Machine

theorem Keeps.modLink {a s : State} (h : Keeps a s) (k : Fin 4) (f : LinkSt → LinkSt) : Keeps a (Machine.State.modLink s k f) := by
  unfold Machine.State.modLink
  repeat' (first | with_reducible exact h | with_reducible assumption | intro _ | with_reducible apply Keeps.ite | split | (with_reducible first | apply Keeps.modLnk))
theorem Keeps.placeFree {a s : State} (h : Keeps a s) (w : Waiting) : Keeps a (Machine.State.placeFree s w) := by
  unfold Machine.State.placeFree
  repeat' (first | with_reducible exact h | with_reducible assumption | intro _ | split | (with_reducible first | apply Keeps.modLink) | extract_lets | dsimp only | dsimp +zetaDelta only)
theorem Keeps.pumpN {a : State} : ∀ (n : Nat) {s : State} (_ : Keeps a s) (k : Fin 4), Keeps a (Machine.pumpN n s k) := by
  intro n
  induction n with
  | zero => intro s h; intros; exact h
  | succ n ih =>
    intro s h; intros; unfold Machine.pumpN
    repeat' (first | with_reducible exact h | with_reducible assumption | intro _ | split | apply ih | (with_reducible first | apply Keeps.placeFree | apply Keeps.emit | apply Keeps.modLink) | extract_lets | dsimp only | dsimp +zetaDelta only)
theorem Keeps.pump {a s : State} (h : Keeps a s) (k : Fin 4) : Keeps a (Machine.State.pump s k) := by
  unfold Machine.State.pump
  repeat' (first | with_reducible exact h | with_reducible assumption | intro _ | with_reducible apply Keeps.ite | split | (with_reducible first | apply Keeps.pumpN))
theorem Keeps.offer {a s : State} (h : Keeps a s) (k : Fin 4) (w : Waiting) : Keeps a (Machine.State.offer s k w) := by
  unfold Machine.State.offer
  repeat' (first | with_reducible exact h | with_reducible assumption | intro _ | with_reducible apply Keeps.ite | split | (with_reducible first | apply Keeps.incSat | apply Keeps.modLink) | extract_lets | dsimp only | dsimp +zetaDelta only)
theorem Keeps.txFlit {a s : State} (h : Keeps a s) (k : Fin 4) (f : Flit) : Keeps a (Machine.State.txFlit s k f) := by
  unfold Machine.State.txFlit
  repeat' (first | with_reducible exact h | with_reducible assumption | intro _ | split | (with_reducible first | apply Keeps.pump | apply Keeps.offer))
theorem Keeps.passFlit {a s : State} (h : Keeps a s) (w : Waiting) (outs : List (Fin 4 × Flit)) : Keeps a (Machine.State.passFlit s w outs) := by
  unfold Machine.State.passFlit
  repeat' (first | with_reducible exact h | with_reducible assumption | intro _ | with_reducible apply Keeps.ite | split | (with_reducible first | apply Keeps.placeFree | apply Keeps.pump | apply Keeps.offer | apply Keeps.forEach) | extract_lets | dsimp only | dsimp +zetaDelta only)
theorem Keeps.dropWaiting {a s : State} (h : Keeps a s) (k : Fin 4) : Keeps a (Machine.State.dropWaiting s k) := by
  unfold Machine.State.dropWaiting
  repeat' (first | with_reducible exact h | with_reducible assumption | intro _ | with_reducible apply Keeps.ite | split | (with_reducible first | apply Keeps.modLink | apply Keeps.placeFree | apply Keeps.forEach) | extract_lets | dsimp only | dsimp +zetaDelta only)
theorem Keeps.injectFlit {a s : State} (h : Keeps a s) (f : Flit) : Keeps a (Machine.State.injectFlit s f) := by
  unfold Machine.State.injectFlit
  repeat' (first | with_reducible exact h | with_reducible assumption | intro _ | with_reducible apply Keeps.ite | split | (with_reducible first | apply Keeps.txFlit | apply Keeps.forEach))
theorem Keeps.sendMsg {a s : State} (h : Keeps a s) (m : Msg) : Keeps a (Machine.State.sendMsg s m) := by
  unfold Machine.State.sendMsg
  repeat' (first | with_reducible exact h | with_reducible assumption | intro _ | with_reducible apply Keeps.ite | split | (with_reducible first | apply Keeps.emit | apply Keeps.txFlit | apply Keeps.injectFlit | apply Keeps.forEach))
theorem Keeps.setReqUsed {a s : State} (h : Keeps a s) (peer n : Nat) : Keeps a (Machine.State.setReqUsed s peer n) := by
  unfold Machine.State.setReqUsed
  repeat' (first | with_reducible exact h | with_reducible assumption | intro _ | with_reducible apply Keeps.ite | split | (with_reducible first | apply Keeps.modLnk))
theorem Keeps.sendReq {a s : State} (h : Keeps a s) (m : Msg) (d : Option Desc) : Keeps a (Machine.State.sendReq s m d) := by
  unfold Machine.State.sendReq
  repeat' (first | with_reducible exact h | with_reducible assumption | intro _ | with_reducible apply Keeps.ite | split | (with_reducible first | apply Keeps.modLnk | apply Keeps.sendMsg | apply Keeps.setReqUsed))
theorem Keeps.creditBack {a s : State} (h : Keeps a s) (peer : Nat) : Keeps a (Machine.State.creditBack s peer) := by
  unfold Machine.State.creditBack
  repeat' (first | with_reducible exact h | with_reducible assumption | intro _ | with_reducible apply Keeps.ite | split | (with_reducible first | apply Keeps.modLnk | apply Keeps.sendMsg | apply Keeps.setReqUsed))

end Sys2Proof.Machine
end

