-- ==== Sys2Proof/Laws/Keeps/Records.lean ====
section
/-! SUPPORT. Records: what every operation and meaning of this file keeps. -/

namespace Sys2Proof.Machine

theorem Keeps.readyFrom {a s : State} (h : Keeps a s) (d : Nat) : Keeps a (Machine.State.readyFrom s d) := by
  unfold Machine.State.readyFrom
  repeat' (first | with_reducible exact h | with_reducible assumption | intro _ | with_reducible apply Keeps.ite | split | (with_reducible first | apply Keeps.flag | apply Keeps.cond))
theorem Keeps.wake {a s : State} (h : Keeps a s) (i : Nat) : Keeps a (Machine.State.wake s i) := by
  unfold Machine.State.wake
  repeat' (first | with_reducible exact h | with_reducible assumption | intro _ | with_reducible apply Keeps.ite | split | (with_reducible first | apply Keeps.put | apply Keeps.orF | apply Keeps.modPwr | apply Keeps.readyFrom) | extract_lets)
theorem Keeps.sendVector {a s : State} (h : Keeps a s) (v : Nat) : Keeps a (Machine.State.sendVector s v) := by
  unfold Machine.State.sendVector
  repeat' (first | with_reducible exact h | with_reducible assumption | intro _ | with_reducible apply Keeps.ite | split | (with_reducible first | apply Keeps.emit | apply Keeps.modHif) | exact Nat.le_max_right _ _)
theorem Keeps.signalRing {a s : State} (h : Keeps a s) (n : Fin 24) : Keeps a (Machine.State.signalRing s n) := by
  unfold Machine.State.signalRing
  repeat' (first | with_reducible exact h | with_reducible assumption | intro _ | with_reducible apply Keeps.ite | split | (with_reducible first | apply Keeps.modRing | apply Keeps.sendVector))
theorem Keeps.ringEvent {a s : State} (h : Keeps a s) (n : Fin 24) : Keeps a (Machine.State.ringEvent s n) := by
  unfold Machine.State.ringEvent
  repeat' (first | with_reducible exact h | with_reducible assumption | intro _ | with_reducible apply Keeps.ite | split | (with_reducible first | apply Keeps.modRing | apply Keeps.signalRing))
theorem Keeps.takeEntry {a s : State} (h : Keeps a s) (n : Fin 24) : Keeps a (Machine.State.takeEntry s n).2.2 := by
  unfold Machine.State.takeEntry
  repeat' (first | with_reducible exact h | with_reducible assumption | intro _ | with_reducible apply Keeps.ite | split | (with_reducible first | apply Keeps.put | apply Keeps.putB))
theorem Keeps.post {a s : State} (h : Keeps a s) (w : HostWrite) : Keeps a (Machine.State.post s w) := by
  unfold Machine.State.post
  repeat' (first | with_reducible exact h | with_reducible assumption | intro _ | with_reducible apply Keeps.ite | split | (with_reducible first | apply Keeps.emit | apply Keeps.modHif) | exact Nat.le_max_right _ _)
theorem Keeps.putCpl {a s : State} (h : Keeps a s) (ring : Fin 8) (c : CplWait) : Keeps a (Machine.State.putCpl s ring c) := by
  unfold Machine.State.putCpl
  repeat' (first | with_reducible exact h | with_reducible assumption | intro _ | with_reducible apply Keeps.ite | split | (with_reducible first | apply Keeps.ringEvent | apply Keeps.takeEntry | apply Keeps.post))
theorem Keeps.writeCpl {a s : State} (h : Keeps a s) (ring : Fin 8) (c : CplWait) : Keeps a (Machine.State.writeCpl s ring c) := by
  unfold Machine.State.writeCpl
  repeat' (first | with_reducible exact h | with_reducible assumption | intro _ | with_reducible apply Keeps.ite | split | (with_reducible first | apply Keeps.inc | apply Keeps.modRing | apply Keeps.putCpl))
theorem Keeps.modStarted {a s : State} (h : Keeps a s) (d : Desc) (f : StartedDesc → StartedDesc) : Keeps a (Machine.State.modStarted s d f) := by
  unfold Machine.State.modStarted
  repeat' (first | with_reducible exact h | with_reducible assumption | intro _ | with_reducible apply Keeps.ite | split | (with_reducible first | apply Keeps.modHif) | exact Nat.le_max_right _ _)
theorem Keeps.cancelEnded {a s : State} (h : Keeps a s) (d : Desc) (committed : Bool) : Keeps a (Machine.State.cancelEnded s d committed) := by
  unfold Machine.State.cancelEnded
  repeat' (first | with_reducible exact h | with_reducible assumption | intro _ | with_reducible apply Keeps.ite | split | (with_reducible first | apply Keeps.modHif) | exact Nat.le_max_right _ _)
theorem Keeps.answer {a s : State} (h : Keeps a s) (d : Desc) (r : Result) (data : List Word) : Keeps a (Machine.State.answer s d r data) := by
  unfold Machine.State.answer
  repeat' (first | with_reducible exact h | with_reducible assumption | intro _ | with_reducible apply Keeps.ite | split | (with_reducible first | apply Keeps.modLnk | apply Keeps.sendMsg))
theorem Keeps.dropRegion {a s : State} (h : Keeps a s) (d : Desc) : Keeps a (Machine.State.dropRegion s d) := by
  unfold Machine.State.dropRegion
  repeat' (first | with_reducible exact h | with_reducible assumption | intro _ | with_reducible apply Keeps.ite | split | (with_reducible first | apply Keeps.modHif) | exact Nat.le_max_right _ _)
theorem Keeps.complete {a s : State} (h : Keeps a s) (d : Desc) (r : Result) : Keeps a (Machine.State.complete s d r) := by
  unfold Machine.State.complete
  repeat' (first | with_reducible exact h | with_reducible assumption | intro _ | with_reducible apply Keeps.ite | split | (with_reducible first | apply Keeps.inc | apply Keeps.writeCpl | apply Keeps.cancelEnded | apply Keeps.answer | apply Keeps.dropRegion | apply Keeps.modHif) | exact Nat.le_max_right _ _)
theorem Keeps.finish {a s : State} (h : Keeps a s) (d : Desc) (status : Nat) : Keeps a (Machine.State.finish s d status) := by
  unfold Machine.State.finish
  repeat' (first | with_reducible exact h | with_reducible assumption | intro _ | with_reducible apply Keeps.ite | split | (with_reducible first | apply Keeps.complete))
theorem Keeps.bad {a s : State} (h : Keeps a s) (d : Desc) (detail : Nat) : Keeps a (Machine.State.bad s d detail) := by
  unfold Machine.State.bad
  repeat' (first | with_reducible exact h | with_reducible assumption | intro _ | with_reducible apply Keeps.ite | split | (with_reducible first | apply Keeps.complete))
theorem Keeps.commit {a s : State} (h : Keeps a s) (d : Desc) : Keeps a (Machine.State.commit s d) := by
  unfold Machine.State.commit
  repeat' (first | with_reducible exact h | with_reducible assumption | intro _ | with_reducible apply Keeps.ite | split | (with_reducible first | apply Keeps.modLnk | apply Keeps.modStarted))
theorem Keeps.serve {a s : State} (h : Keeps a s) (d : Desc) : Keeps a (Machine.State.serve s d) := by
  unfold Machine.State.serve
  repeat' (first | with_reducible exact h | with_reducible assumption | intro _ | with_reducible apply Keeps.ite | split | (with_reducible first | apply Keeps.modLnk))
theorem Keeps.finishOpt {a s : State} (h : Keeps a s) (d : Option Desc) (r : Result) : Keeps a (Machine.State.finishOpt s d r) := by
  unfold Machine.State.finishOpt
  repeat' (first | with_reducible exact h | with_reducible assumption | intro _ | with_reducible apply Keeps.ite | split | (with_reducible first | apply Keeps.complete))
theorem Keeps.atBlock {a s : State} (h : Keeps a s) (d : Desc) : Keeps a (Machine.State.atBlock s d) := by
  unfold Machine.State.atBlock
  repeat' (first | with_reducible exact h | with_reducible assumption | intro _ | with_reducible apply Keeps.ite | split | (with_reducible first | apply Keeps.modStarted | apply Keeps.serve))
theorem Keeps.taking {a s : State} (h : Keeps a s) (op : Nat) (d : Desc) (act : State → State) (hact : ∀ t, Keeps a t → Keeps a (act t)) : Keeps a (Machine.State.taking s op d act) := by
  unfold Machine.State.taking
  repeat' (first | with_reducible exact h | with_reducible assumption | intro _ | with_reducible apply Keeps.ite | split | with_reducible apply hact | (with_reducible first | apply Keeps.atBlock))
theorem Keeps.forward {a s : State} (h : Keeps a s) (d : Desc) (m : Nat) : Keeps a (Machine.State.forward s d m) := by
  unfold Machine.State.forward
  repeat' (first | with_reducible exact h | with_reducible assumption | intro _ | with_reducible apply Keeps.ite | split | (with_reducible first | apply Keeps.sendReq | apply Keeps.modStarted | apply Keeps.finish))
theorem Keeps.atMember {a s : State} (h : Keeps a s) (op : Nat) (d : Desc) (seen act : State → State) (hseen : ∀ t, Keeps a t → Keeps a (seen t)) (hact : ∀ t, Keeps a t → Keeps a (act t)) : Keeps a (Machine.State.atMember s op d seen act) := by
  unfold Machine.State.atMember
  repeat' (first | with_reducible exact h | with_reducible assumption | intro _ | with_reducible apply Keeps.ite | split | with_reducible apply hseen | with_reducible apply hact | (with_reducible first | apply Keeps.taking | apply Keeps.forward))
theorem Keeps.laceAll {a s : State} (h : Keeps a s) (d : Desc) (extra : List Word) : Keeps a (Machine.State.laceAll s d extra) := by
  unfold Machine.State.laceAll
  repeat' (first | with_reducible exact h | with_reducible assumption | intro _ | with_reducible apply Keeps.ite | split | (with_reducible first | apply Keeps.sendReq | apply Keeps.modStarted | apply Keeps.forEach))
theorem Keeps.lacePart {a s : State} (h : Keeps a s) (d : Desc) (m : Nat) (r : Result) : Keeps a (Machine.State.lacePart s d m r) := by
  unfold Machine.State.lacePart
  repeat' (first | with_reducible exact h | with_reducible assumption | intro _ | with_reducible apply Keeps.ite | split | (with_reducible first | apply Keeps.modStarted | apply Keeps.complete))
theorem Keeps.partDone {a s : State} (h : Keeps a s) (d : Desc) (r : Result) : Keeps a (Machine.State.partDone s d r) := by
  unfold Machine.State.partDone
  repeat' (first | with_reducible exact h | with_reducible assumption | intro _ | with_reducible apply Keeps.ite | split | (with_reducible first | apply Keeps.complete | apply Keeps.lacePart))
theorem Keeps.needBlk {a s : State} (h : Keeps a s) (b : Blk) (d : Desc) (act : State → State) (hact : ∀ t, Keeps a t → Keeps a (act t)) : Keeps a (Machine.State.needBlk s b d act) := by
  unfold Machine.State.needBlk
  repeat' (first | with_reducible exact h | with_reducible assumption | intro _ | with_reducible apply Keeps.ite | split | with_reducible apply hact | (with_reducible first | apply Keeps.finish))
theorem Keeps.writeRec {a s : State} (h : Keeps a s) (n : Fin 24) (r : Rec) : Keeps a (Machine.State.writeRec s n r) := by
  unfold Machine.State.writeRec
  repeat' (first | with_reducible exact h | with_reducible assumption | intro _ | with_reducible apply Keeps.ite | split | (with_reducible first | apply Keeps.modRing | apply Keeps.ringEvent | apply Keeps.takeEntry | apply Keeps.post))
theorem Keeps.reportDrops {a s : State} (h : Keeps a s) (n : Fin 24) : Keeps a (Machine.State.reportDrops s n) := by
  unfold Machine.State.reportDrops
  repeat' (first | with_reducible exact h | with_reducible assumption | intro _ | with_reducible apply Keeps.ite | split | (with_reducible first | apply Keeps.modRing | apply Keeps.writeRec))
theorem Keeps.toRing {a s : State} (h : Keeps a s) (n : Fin 24) (r : Rec) : Keeps a (Machine.State.toRing s n r) := by
  unfold Machine.State.toRing
  repeat' (first | with_reducible exact h | with_reducible assumption | intro _ | with_reducible apply Keeps.ite | split | (with_reducible first | apply Keeps.inc | apply Keeps.modRing | apply Keeps.writeRec | apply Keeps.reportDrops))
theorem Keeps.bufferRec {a s : State} (h : Keeps a s) (r : Rec) : Keeps a (Machine.State.bufferRec s r) := by
  unfold Machine.State.bufferRec
  repeat' (first | with_reducible exact h | with_reducible assumption | intro _ | split | (with_reducible first | apply Keeps.modHif) | exact Nat.le_max_right _ _ | (simp only [List.length_append, List.length_cons, List.length_nil]; omega))
theorem Keeps.takeRec {a s : State} (h : Keeps a s) (r : Rec) : Keeps a (Machine.State.takeRec s r) := by
  unfold Machine.State.takeRec
  repeat' (first | with_reducible exact h | with_reducible assumption | intro _ | with_reducible apply Keeps.ite | split | (with_reducible first | apply Keeps.toRing | apply Keeps.bufferRec))
theorem Keeps.postRec {a s : State} (h : Keeps a s) (r : Rec) : Keeps a (Machine.State.postRec s r) := by
  unfold Machine.State.postRec
  repeat' (first | with_reducible exact h | with_reducible assumption | intro _ | with_reducible apply Keeps.ite | split | (with_reducible first | apply Keeps.sendReq | apply Keeps.bufferRec | apply Keeps.takeRec))
theorem Keeps.record {a s : State} (h : Keeps a s) (typ : Nat) (body : List Word) : Keeps a (Machine.State.record s typ body) := by
  unfold Machine.State.record
  repeat' (first | with_reducible exact h | with_reducible assumption | intro _ | with_reducible apply Keeps.ite | split | (with_reducible first | apply Keeps.postRec))
theorem Keeps.fltBit {a s : State} (h : Keeps a s) (f : FieldRef) : Keeps a (Machine.State.fltBit s f) := by
  unfold Machine.State.fltBit
  repeat' (first | with_reducible exact h | with_reducible assumption | intro _ | with_reducible apply Keeps.ite | split | (with_reducible first | apply Keeps.flag | apply Keeps.wake))
theorem Keeps.faultRec {a s : State} (h : Keeps a s) (code cls inst : Nat) (i0 i1 : Nat) : Keeps a (Machine.State.faultRec s code cls inst i0 i1) := by
  unfold Machine.State.faultRec
  repeat' (first | with_reducible exact h | with_reducible assumption | intro _ | with_reducible apply Keeps.ite | split | (with_reducible first | apply Keeps.record))
theorem Keeps.fault {a s : State} (h : Keeps a s) (code cls inst i0 i1 : Nat) : Keeps a (Machine.State.fault s code cls inst i0 i1) := by
  unfold Machine.State.fault
  repeat' (first | with_reducible exact h | with_reducible assumption | intro _ | with_reducible apply Keeps.ite | split | (with_reducible first | apply Keeps.modFlt | apply Keeps.modTelem | apply Keeps.fltBit | apply Keeps.faultRec))

end Sys2Proof.Machine
end

