-- ==== Sys2Proof/Laws/Keeps/RadioOps.lean ====
section
/-! SUPPORT. RadioOps: what every operation and meaning of this file keeps. -/

namespace Sys2Proof.Machine

theorem Keeps.setClean {a s : State} (h : Keeps a s) (p : Fin 4) (b : Bool) : Keeps a (Machine.State.setClean s p b) := by
  unfold Machine.State.setClean
  repeat' (first | with_reducible exact h | with_reducible assumption | intro _ | with_reducible apply Keeps.ite | split | (with_reducible first | apply Keeps.putB))
theorem Keeps.gapStart {a s : State} (h : Keeps a s) (p : Fin 4) : Keeps a (Machine.State.gapStart s p) := by
  unfold Machine.State.gapStart
  repeat' (first | with_reducible exact h | with_reducible assumption | intro _ | with_reducible apply Keeps.ite | split | (with_reducible first | apply Keeps.modPath | apply Keeps.setClean))
theorem Keeps.gapEnd {a s : State} (h : Keeps a s) (p : Fin 4) (clean : Nat) : Keeps a (Machine.State.gapEnd s p clean) := by
  unfold Machine.State.gapEnd
  repeat' (first | with_reducible exact h | with_reducible assumption | intro _ | with_reducible apply Keeps.ite | split | (with_reducible first | apply Keeps.modPath | apply Keeps.setClean))
theorem Keeps.gapAll {a s : State} (h : Keeps a s) (ps : List (Fin 4)) : Keeps a (Machine.State.gapAll s ps) := by
  unfold Machine.State.gapAll
  repeat' (first | with_reducible exact h | with_reducible assumption | intro _ | with_reducible apply Keeps.ite | split | (with_reducible first | apply Keeps.gapStart | apply Keeps.forEach))
theorem Keeps.movedAll {a s : State} (h : Keeps a s) (ps : List (Fin 4)) : Keeps a (Machine.State.movedAll s ps) := by
  unfold Machine.State.movedAll
  repeat' (first | with_reducible exact h | with_reducible assumption | intro _ | with_reducible apply Keeps.ite | split | (with_reducible first | apply Keeps.modPath | apply Keeps.forEach))
theorem Keeps.setLoState {a s : State} (h : Keeps a s) (n : Fin 5) (v : Nat) : Keeps a (Machine.State.setLoState s n v) := by
  unfold Machine.State.setLoState
  repeat' (first | with_reducible exact h | with_reducible assumption | intro _ | with_reducible apply Keeps.ite | split | (with_reducible first | apply Keeps.put | apply Keeps.modPath | apply Keeps.cond | apply Keeps.forEach))
theorem Keeps.loOff {a s : State} (h : Keeps a s) (n : Fin 5) (v : Nat) : Keeps a (Machine.State.loOff s n v) := by
  unfold Machine.State.loOff
  repeat' (first | with_reducible exact h | with_reducible assumption | intro _ | with_reducible apply Keeps.ite | split | (with_reducible first | apply Keeps.put | apply Keeps.putB | apply Keeps.modLo | apply Keeps.gapAll | apply Keeps.setLoState))
theorem Keeps.radioEnds {a s : State} (h : Keeps a s) (d : Desc) (status : Nat) : Keeps a (Machine.State.radioEnds s d status) := by
  unfold Machine.State.radioEnds
  repeat' (first | with_reducible exact h | with_reducible assumption | intro _ | with_reducible apply Keeps.ite | split | (with_reducible first | apply Keeps.modRadio | apply Keeps.finish))
theorem Keeps.putDuty {a s : State} (h : Keeps a s) : Keeps a (Machine.State.putDuty s) := by
  unfold Machine.State.putDuty
  repeat' (first | with_reducible exact h | with_reducible assumption | intro _ | with_reducible apply Keeps.ite | split | (with_reducible first | apply Keeps.put))
theorem Keeps.endBeacon {a s : State} (h : Keeps a s) (b : BeaconReq) (status : Nat) : Keeps a (Machine.State.endBeacon s b status) := by
  unfold Machine.State.endBeacon
  repeat' (first | with_reducible exact h | with_reducible assumption | intro _ | with_reducible apply Keeps.ite | split | (with_reducible first | apply Keeps.modTag | apply Keeps.finishOpt | apply Keeps.putDuty))
theorem Keeps.serveEnds {a s : State} (h : Keeps a s) (status : Nat) : Keeps a (Machine.State.serveEnds s status) := by
  unfold Machine.State.serveEnds
  repeat' (first | with_reducible exact h | with_reducible assumption | intro _ | with_reducible apply Keeps.ite | split | (with_reducible first | apply Keeps.modTag | apply Keeps.endBeacon))
theorem Keeps.loFlush {a s : State} (h : Keeps a s) (n : Fin 5) (status : Nat) : Keeps a (Machine.State.loFlush s n status) := by
  unfold Machine.State.loFlush
  repeat' (first | with_reducible exact h | with_reducible assumption | intro _ | with_reducible apply Keeps.ite | split | (with_reducible first | apply Keeps.putB | apply Keeps.modLo | apply Keeps.radioEnds | apply Keeps.serveEnds | apply Keeps.cond | apply Keeps.forEach))
theorem Keeps.sendEnds {a s : State} (h : Keeps a s) (status : Nat) : Keeps a (Machine.State.sendEnds s status) := by
  unfold Machine.State.sendEnds
  repeat' (first | with_reducible exact h | with_reducible assumption | intro _ | with_reducible apply Keeps.ite | split | (with_reducible first | apply Keeps.modRadio | apply Keeps.modTag | apply Keeps.setLoState | apply Keeps.endBeacon | apply Keeps.cond | apply Keeps.modTop) | rfl | extract_lets)
theorem Keeps.radiosSleep {a s : State} (h : Keeps a s) (send moves : Nat) : Keeps a (Machine.State.radiosSleep s send moves) := by
  unfold Machine.State.radiosSleep
  repeat' (first | with_reducible exact h | with_reducible assumption | intro _ | with_reducible apply Keeps.ite | split | (with_reducible first | apply Keeps.put | apply Keeps.loOff | apply Keeps.loFlush | apply Keeps.sendEnds | apply Keeps.forEach))

end Sys2Proof.Machine
end

