-- ==== Sys2Proof/Laws/Keeps/Fault.lean ====
section
/-! SUPPORT. Fault: what every operation and meaning of this file keeps. -/

namespace Sys2Proof.Machine

theorem Keeps.linkRec {a s : State} (h : Keeps a s) (ev : Nat) (k : Fin 4) : Keeps a (Machine.State.linkRec s ev k) := by
  unfold Machine.State.linkRec
  repeat' (first | with_reducible exact h | with_reducible assumption | intro _ | with_reducible apply Keeps.ite | split | (with_reducible first | apply Keeps.record))
theorem Keeps.memberRec {a s : State} (h : Keeps a s) (ev m : Nat) : Keeps a (Machine.State.memberRec s ev m) := by
  unfold Machine.State.memberRec
  repeat' (first | with_reducible exact h | with_reducible assumption | intro _ | with_reducible apply Keeps.ite | split | (with_reducible first | apply Keeps.record))
theorem Keeps.retree {a s : State} (h : Keeps a s) : Keeps a (Machine.State.retree s) := by
  unfold Machine.State.retree
  repeat' (first | with_reducible exact h | with_reducible assumption | intro _ | with_reducible apply Keeps.ite | split | (with_reducible first | apply Keeps.putB | apply Keeps.emit | apply Keeps.modLnk | apply Keeps.cond | apply Keeps.forEach))
theorem Keeps.setRun {a s : State} (h : Keeps a s) (xid : Nat) (r : Option ExchRun) : Keeps a (Machine.State.setRun s xid r) := by
  unfold Machine.State.setRun
  repeat' (first | with_reducible exact h | with_reducible assumption | intro _ | with_reducible apply Keeps.ite | split | (with_reducible first | apply Keeps.putB | apply Keeps.modExch))
theorem Keeps.setDef {a s : State} (h : Keeps a s) (xid : Nat) (d : Option ExchDef) : Keeps a (Machine.State.setDef s xid d) := by
  unfold Machine.State.setDef
  repeat' (first | with_reducible exact h | with_reducible assumption | intro _ | with_reducible apply Keeps.ite | split | (with_reducible first | apply Keeps.putB | apply Keeps.modExch))
theorem Keeps.endExch {a s : State} (h : Keeps a s) (xid status : Nat) : Keeps a (Machine.State.endExch s xid status) := by
  unfold Machine.State.endExch
  repeat' (first | with_reducible exact h | with_reducible assumption | intro _ | with_reducible apply Keeps.ite | split | (with_reducible first | apply Keeps.modExch | apply Keeps.complete | apply Keeps.finish | apply Keeps.finishOpt | apply Keeps.setRun | apply Keeps.forEach))
theorem Keeps.endCollectives {a s : State} (h : Keeps a s) : Keeps a (Machine.State.endCollectives s) := by
  unfold Machine.State.endCollectives
  repeat' (first | with_reducible exact h | with_reducible assumption | intro _ | with_reducible apply Keeps.ite | split | (with_reducible first | apply Keeps.complete | apply Keeps.endExch | apply Keeps.forEach))
theorem Keeps.calLost {a s : State} (h : Keeps a s) : Keeps a (Machine.State.calLost s) := by
  unfold Machine.State.calLost
  repeat' (first | with_reducible exact h | with_reducible assumption | intro _ | with_reducible apply Keeps.ite | split | (with_reducible first | apply Keeps.put | apply Keeps.modCal | apply Keeps.finish | apply Keeps.forEach))
theorem Keeps.capCancel {a s : State} (h : Keeps a s) (d : Desc) : Keeps a (Machine.State.capCancel s d) := by
  unfold Machine.State.capCancel
  repeat' (first | with_reducible exact h | with_reducible assumption | intro _ | with_reducible apply Keeps.ite | split | (with_reducible first | apply Keeps.modSamp))
theorem Keeps.finishLost {a s : State} (h : Keeps a s) (d : Option Desc) : Keeps a (Machine.State.finishLost s d) := by
  unfold Machine.State.finishLost
  repeat' (first | with_reducible exact h | with_reducible assumption | intro _ | with_reducible apply Keeps.ite | split | (with_reducible first | apply Keeps.draw | apply Keeps.complete | apply Keeps.finish | apply Keeps.finishOpt | apply Keeps.capCancel | apply Keeps.modHif) | exact Nat.le_max_right _ _ | extract_lets | dsimp only | dsimp +zetaDelta only)
theorem Keeps.loseMember {a s : State} (h : Keeps a s) (m : Nat) : Keeps a (Machine.State.loseMember s m) := by
  unfold Machine.State.loseMember
  repeat' (first | with_reducible exact h | with_reducible assumption | intro _ | with_reducible apply Keeps.ite | split | (with_reducible first | apply Keeps.modBoot | apply Keeps.modPwr | apply Keeps.modLnk | apply Keeps.memberRec | apply Keeps.calLost | apply Keeps.finishLost | apply Keeps.cond | apply Keeps.forEach))
theorem Keeps.addBreak {a s : State} (h : Keeps a s) (b : Break) : Keeps a (Machine.State.addBreak s b) := by
  unfold Machine.State.addBreak
  repeat' (first | with_reducible exact h | with_reducible assumption | intro _ | with_reducible apply Keeps.ite | split | (with_reducible first | apply Keeps.putB | apply Keeps.modLnk | apply Keeps.memberRec | apply Keeps.endCollectives | apply Keeps.loseMember | apply Keeps.cond | apply Keeps.forEach))
theorem Keeps.flood {a s : State} (h : Keeps a s) (b : Break) (except : Option (Fin 4)) : Keeps a (Machine.State.flood s b except) := by
  unfold Machine.State.flood
  repeat' (first | with_reducible exact h | with_reducible assumption | intro _ | with_reducible apply Keeps.ite | split | (with_reducible first | apply Keeps.emit | apply Keeps.cond | apply Keeps.forEach))
theorem Keeps.reportBreak {a s : State} (h : Keeps a s) (k : Fin 4) (kind : Nat) : Keeps a (Machine.State.reportBreak s k kind) := by
  unfold Machine.State.reportBreak
  repeat' (first | with_reducible exact h | with_reducible assumption | intro _ | with_reducible apply Keeps.ite | split | (with_reducible first | apply Keeps.modLnk | apply Keeps.addBreak | apply Keeps.flood))
theorem Keeps.trainLink {a s : State} (h : Keeps a s) (k : Fin 4) : Keeps a (Machine.State.trainLink s k) := by
  unfold Machine.State.trainLink
  repeat' (first | with_reducible exact h | with_reducible assumption | intro _ | with_reducible apply Keeps.ite | split | (with_reducible first | apply Keeps.put | apply Keeps.emit | apply Keeps.draw | apply Keeps.modLink | apply Keeps.cond | apply Keeps.forEach))
theorem Keeps.linkLost {a s : State} (h : Keeps a s) (k : Fin 4) (kind : Nat) : Keeps a (Machine.State.linkLost s k kind) := by
  unfold Machine.State.linkLost
  repeat' (first | with_reducible exact h | with_reducible assumption | intro _ | with_reducible apply Keeps.ite | split | (with_reducible first | apply Keeps.put | apply Keeps.putB | apply Keeps.flag | apply Keeps.incSat | apply Keeps.modLink | apply Keeps.dropWaiting | apply Keeps.linkRec | apply Keeps.retree | apply Keeps.reportBreak))
theorem Keeps.linkDown {a s : State} (h : Keeps a s) (k : Fin 4) : Keeps a (Machine.State.linkDown s k) := by
  unfold Machine.State.linkDown
  repeat' (first | with_reducible exact h | with_reducible assumption | intro _ | with_reducible apply Keeps.ite | split | (with_reducible first | apply Keeps.trainLink | apply Keeps.linkLost))
theorem Keeps.retireRec {a s : State} (h : Keeps a s) (cls inst cause fails : Nat) : Keeps a (Machine.State.retireRec s cls inst cause fails) := by
  unfold Machine.State.retireRec
  repeat' (first | with_reducible exact h | with_reducible assumption | intro _ | with_reducible apply Keeps.ite | split | (with_reducible first | apply Keeps.record))
theorem Keeps.retireAdd {a s : State} (h : Keeps a s) : Keeps a (Machine.State.retireAdd s) := by
  unfold Machine.State.retireAdd
  repeat' (first | with_reducible exact h | with_reducible assumption | intro _ | with_reducible apply Keeps.ite | split | (with_reducible first | apply Keeps.putB | apply Keeps.inc | apply Keeps.sendReq | apply Keeps.fltBit | apply Keeps.endExch | apply Keeps.retireRec | apply Keeps.cond | apply Keeps.forEach))
theorem Keeps.retireAdder {a s : State} (h : Keeps a s) (l : Nat) : Keeps a (Machine.State.retireAdder s l) := by
  unfold Machine.State.retireAdder
  repeat' (first | with_reducible exact h | with_reducible assumption | intro _ | with_reducible apply Keeps.ite | split | (with_reducible first | apply Keeps.put | apply Keeps.putB | apply Keeps.orF | apply Keeps.retireAdd | apply Keeps.cond))
theorem Keeps.retireBank {a s : State} (h : Keeps a s) (p : Nat) : Keeps a (Machine.State.retireBank s p) := by
  unfold Machine.State.retireBank
  repeat' (first | with_reducible exact h | with_reducible assumption | intro _ | with_reducible apply Keeps.ite | split | (with_reducible first | apply Keeps.putB | apply Keeps.inc | apply Keeps.orF | apply Keeps.fault | apply Keeps.modStore) | exact Sparse.wf_eraseRange _ _ _ _ ‹_›)
theorem Keeps.retireEffect {a s : State} (h : Keeps a s) (cls inst : Nat) : Keeps a (Machine.State.retireEffect s cls inst) := by
  unfold Machine.State.retireEffect
  repeat' (first | with_reducible exact h | with_reducible assumption | intro _ | with_reducible apply Keeps.ite | split | (with_reducible first | apply Keeps.put | apply Keeps.putB | apply Keeps.orF | apply Keeps.modPath | apply Keeps.gapStart | apply Keeps.loOff | apply Keeps.loFlush | apply Keeps.sendEnds | apply Keeps.linkRec | apply Keeps.linkLost | apply Keeps.retireAdder | apply Keeps.retireBank | apply Keeps.cond | apply Keeps.forEach))
theorem Keeps.retire1 {a s : State} (h : Keeps a s) (cls inst cause fails : Nat) : Keeps a (Machine.State.retire1 s cls inst cause fails) := by
  unfold Machine.State.retire1
  repeat' (first | with_reducible exact h | with_reducible assumption | intro _ | with_reducible apply Keeps.ite | split | (with_reducible first | apply Keeps.putB | apply Keeps.inc | apply Keeps.fltBit | apply Keeps.retireRec | apply Keeps.retireEffect))
theorem Keeps.retire {a s : State} (h : Keeps a s) (cls inst cause fails : Nat) : Keeps a (Machine.State.retire s cls inst cause fails) := by
  unfold Machine.State.retire
  repeat' (first | with_reducible exact h | with_reducible assumption | intro _ | with_reducible apply Keeps.ite | split | (with_reducible first | apply Keeps.retire1))
theorem Keeps.fail {a s : State} (h : Keeps a s) (cls inst : Nat) (transient : Bool) : Keeps a (Machine.State.fail s cls inst transient) := by
  unfold Machine.State.fail
  repeat' (first | with_reducible exact h | with_reducible assumption | intro _ | with_reducible apply Keeps.ite | split | (with_reducible first | apply Keeps.inc | apply Keeps.modFlt | apply Keeps.modTelem | apply Keeps.fault | apply Keeps.retire | apply Keeps.cond))
theorem Keeps.transientErr {a s : State} (h : Keeps a s) (cls inst : Nat) : Keeps a (Machine.State.transientErr s cls inst) := by
  unfold Machine.State.transientErr
  repeat' (first | with_reducible exact h | with_reducible assumption | intro _ | with_reducible apply Keeps.ite | split | (with_reducible first | apply Keeps.inc | apply Keeps.modTelem | apply Keeps.fault | apply Keeps.cond))

end Sys2Proof.Machine
end

