-- ==== Sys2Proof/Laws/Keeps/Link.lean ====
section
/-! SUPPORT. Link: what every operation and meaning of this file keeps. -/

namespace Sys2Proof.Machine

theorem Keeps.execLinkTrainingStart  (s : State) : KeepsOut s (Machine.execLinkTrainingStart s) := by
  unfold Machine.execLinkTrainingStart
  repeat' (first | with_reducible exact Keeps.refl _ | with_reducible assumption | with_reducible apply KeepsOut.live | intro _ | with_reducible apply Keeps.ite | split | (with_reducible first | apply Keeps.trainLink | apply Keeps.cond | apply Keeps.forEach))
theorem Keeps.sendDist {a s : State} (h : Keeps a s) (k : Fin 4) : Keeps a (Machine.State.sendDist s k) := by
  unfold Machine.State.sendDist
  repeat' (first | with_reducible exact h | with_reducible assumption | intro _ | with_reducible apply Keeps.ite | split | (with_reducible first | apply Keeps.emit))
theorem Keeps.execLinkTrainingDone (link : Fin 4) (lanes inverted skew member plink : Nat) (phead : Bool) (token : Nat) (s : State) : KeepsOut s (Machine.execLinkTrainingDone link lanes inverted skew member plink phead token s) := by
  unfold Machine.execLinkTrainingDone
  repeat' (first | with_reducible exact Keeps.refl _ | with_reducible assumption | with_reducible apply KeepsOut.live | intro _ | with_reducible apply Keeps.ite | split | (with_reducible first | apply Keeps.put | apply Keeps.putB | apply Keeps.modLink | apply Keeps.linkRec | apply Keeps.retree | apply Keeps.reportBreak | apply Keeps.fail | apply Keeps.sendDist | apply Keeps.cond))
theorem Keeps.loneLace {a s : State} (h : Keeps a s) : Keeps a (Machine.State.loneLace s) := by
  unfold Machine.State.loneLace
  repeat' (first | with_reducible exact h | with_reducible assumption | intro _ | with_reducible apply Keeps.ite | split | (with_reducible first | apply Keeps.putB | apply Keeps.modLnk | apply Keeps.cond))
theorem Keeps.execLinkGiveUp (link : Fin 4) (s : State) : KeepsOut s (Machine.execLinkGiveUp link s) := by
  unfold Machine.execLinkGiveUp
  repeat' (first | with_reducible exact Keeps.refl _ | with_reducible assumption | with_reducible apply KeepsOut.live | intro _ | with_reducible apply Keeps.ite | split | (with_reducible first | apply Keeps.flag | apply Keeps.linkRec | apply Keeps.loneLace))
theorem Keeps.execLaneLockLoss (link : Fin 4) (lane : Fin 2) (errors : Nat) (s : State) : KeepsOut s (Machine.execLaneLockLoss link lane errors s) := by
  unfold Machine.execLaneLockLoss
  repeat' (first | with_reducible exact Keeps.refl _ | with_reducible assumption | with_reducible apply KeepsOut.live | intro _ | with_reducible apply Keeps.ite | split | (with_reducible first | apply Keeps.put | apply Keeps.modLink))
theorem Keeps.resend {a s : State} (h : Keeps a s) (k : Fin 4) (no : Nat) : Keeps a (Machine.State.resend s k no) := by
  unfold Machine.State.resend
  repeat' (first | with_reducible exact h | with_reducible assumption | intro _ | with_reducible apply Keeps.ite | split | (with_reducible first | apply Keeps.emits | apply Keeps.modLink | apply Keeps.fail | apply Keeps.cond))
theorem Keeps.execFastRetrainEnd (link : Fin 4) (lanes token : Nat) (s : State) : KeepsOut s (Machine.execFastRetrainEnd link lanes token s) := by
  unfold Machine.execFastRetrainEnd
  repeat' (first | with_reducible exact Keeps.refl _ | with_reducible assumption | with_reducible apply KeepsOut.live | intro _ | with_reducible apply Keeps.ite | split | (with_reducible first | apply Keeps.put | apply Keeps.modLink | apply Keeps.pump | apply Keeps.linkRec | apply Keeps.trainLink | apply Keeps.linkLost | apply Keeps.fail | apply Keeps.resend | apply Keeps.cond | apply Keeps.forEach))
theorem Keeps.foreign {a s : State} (h : Keeps a s) : Keeps a (Machine.State.foreign s) := by
  unfold Machine.State.foreign
  repeat' (first | with_reducible exact h | with_reducible assumption | intro _ | with_reducible apply Keeps.ite | split | (with_reducible first | apply Keeps.put | apply Keeps.linkRec | apply Keeps.forEach))
theorem Keeps.execDistBlock (link : Fin 4) (head dist uid : Nat) (child : Bool) (s : State) : KeepsOut s (Machine.execDistBlock link head dist uid child s) := by
  unfold Machine.execDistBlock
  repeat' (first | with_reducible exact Keeps.refl _ | with_reducible assumption | with_reducible apply KeepsOut.live | intro _ | with_reducible apply Keeps.ite | split | (with_reducible first | apply Keeps.modLink | apply Keeps.retree | apply Keeps.foreign))
theorem Keeps.execBootTreeMessage (link : Fin 4) (up : Bool) (m : Msg) (s : State) : KeepsOut s (Machine.execBootTreeMessage link up m s) := by
  unfold Machine.execBootTreeMessage
  repeat' (first | with_reducible exact Keeps.refl _ | with_reducible assumption | with_reducible apply KeepsOut.live | intro _ | with_reducible apply Keeps.ite | split | (with_reducible first | apply Keeps.pump | apply Keeps.offer | apply Keeps.forEach))
theorem Keeps.sendAck {a s : State} (h : Keeps a s) (k : Fin 4) : Keeps a (Machine.State.sendAck s k) := by
  unfold Machine.State.sendAck
  repeat' (first | with_reducible exact h | with_reducible assumption | intro _ | with_reducible apply Keeps.ite | split | (with_reducible first | apply Keeps.emit | apply Keeps.modLink))
theorem Keeps.takeRecordMsg {a s : State} (h : Keeps a s) (ws : List Word) : Keeps a (Machine.State.takeRecordMsg s ws) := by
  unfold Machine.State.takeRecordMsg
  repeat' (first | with_reducible exact h | with_reducible assumption | intro _ | with_reducible apply Keeps.ite | split | (with_reducible first | apply Keeps.takeRec))
theorem Keeps.eject {a s : State} (h : Keeps a s) (f : Flit) : Keeps a (Machine.State.eject s f) := by
  unfold Machine.State.eject
  repeat' (first | with_reducible exact h | with_reducible assumption | intro _ | with_reducible apply Keeps.ite | split | (with_reducible first | apply Keeps.incSat | apply Keeps.modLnk | apply Keeps.bad | apply Keeps.takeRecordMsg | apply Keeps.cond))
theorem Keeps.switchFlit {a s : State} (h : Keeps a s) (k : Fin 4) (f : Flit) : Keeps a (Machine.State.switchFlit s k f) := by
  unfold Machine.State.switchFlit
  repeat' (first | with_reducible exact h | with_reducible assumption | intro _ | split | (with_reducible first | apply Keeps.incSat | apply Keeps.placeFree | apply Keeps.passFlit | apply Keeps.eject))
theorem Keeps.execFlitReceive (link : Fin 4) (f : Flit) (again : Bool) (s : State) : KeepsOut s (Machine.execFlitReceive link f again s) := by
  unfold Machine.execFlitReceive
  repeat' (first | with_reducible exact Keeps.refl _ | with_reducible assumption | with_reducible apply KeepsOut.live | intro _ | with_reducible apply Keeps.ite | split | (with_reducible first | apply Keeps.inc | apply Keeps.emit | apply Keeps.modLink | apply Keeps.wake | apply Keeps.sendAck | apply Keeps.switchFlit | apply Keeps.cond))
theorem Keeps.acked {a s : State} (h : Keeps a s) (k : Fin 4) (no : Nat) : Keeps a (Machine.State.acked s k no) := by
  unfold Machine.State.acked
  repeat' (first | with_reducible exact h | with_reducible assumption | intro _ | with_reducible apply Keeps.ite | split | (with_reducible first | apply Keeps.modLink | apply Keeps.pump))
theorem Keeps.execAckBlock (link : Fin 4) (no : Nat) (s : State) : KeepsOut s (Machine.execAckBlock link no s) := by
  unfold Machine.execAckBlock
  repeat' (first | with_reducible exact Keeps.refl _ | with_reducible assumption | with_reducible apply KeepsOut.live | intro _ | with_reducible apply Keeps.ite | split | (with_reducible first | apply Keeps.acked | apply Keeps.cond))
theorem Keeps.execNakBlock (link : Fin 4) (expect : Nat) (s : State) : KeepsOut s (Machine.execNakBlock link expect s) := by
  unfold Machine.execNakBlock
  repeat' (first | with_reducible exact Keeps.refl _ | with_reducible assumption | with_reducible apply KeepsOut.live | intro _ | with_reducible apply Keeps.ite | split | (with_reducible first | apply Keeps.inc | apply Keeps.resend))
theorem Keeps.execReplayTimeout (link : Fin 4) (s : State) : KeepsOut s (Machine.execReplayTimeout link s) := by
  unfold Machine.execReplayTimeout
  repeat' (first | with_reducible exact Keeps.refl _ | with_reducible assumption | with_reducible apply KeepsOut.live | intro _ | with_reducible apply Keeps.ite | split | (with_reducible first | apply Keeps.inc | apply Keeps.resend | apply Keeps.cond))
theorem Keeps.execAckSend (link : Fin 4) (s : State) : KeepsOut s (Machine.execAckSend link s) := by
  unfold Machine.execAckSend
  repeat' (first | with_reducible exact Keeps.refl _ | with_reducible assumption | with_reducible apply KeepsOut.live | intro _ | with_reducible apply Keeps.ite | split | (with_reducible first | apply Keeps.sendAck | apply Keeps.cond))
theorem Keeps.execFlowBlock (link : Fin 4) (ack vc0 vc1 boot : Nat) (s : State) : KeepsOut s (Machine.execFlowBlock link ack vc0 vc1 boot s) := by
  unfold Machine.execFlowBlock
  repeat' (first | with_reducible exact Keeps.refl _ | with_reducible assumption | with_reducible apply KeepsOut.live | intro _ | with_reducible apply Keeps.ite | split | (with_reducible first | apply Keeps.modLink | apply Keeps.acked | apply Keeps.cond))
theorem Keeps.execLaneChkSend (link : Fin 4) (lane : Fin 2) (s : State) : KeepsOut s (Machine.execLaneChkSend link lane s) := by
  unfold Machine.execLaneChkSend
  repeat' (first | with_reducible exact Keeps.refl _ | with_reducible assumption | with_reducible apply KeepsOut.live | intro _ | with_reducible apply Keeps.ite | split | (with_reducible first | apply Keeps.emit | apply Keeps.cond))
theorem Keeps.execLinkDownDetect (link : Fin 4) (s : State) : KeepsOut s (Machine.execLinkDownDetect link s) := by
  unfold Machine.execLinkDownDetect
  repeat' (first | with_reducible exact Keeps.refl _ | with_reducible assumption | with_reducible apply KeepsOut.live | intro _ | with_reducible apply Keeps.ite | split | (with_reducible first | apply Keeps.linkDown | apply Keeps.cond))
theorem Keeps.execBreakBlock (link : Fin 4) (kind reporter rlink partner epoch count : Nat) (s : State) : KeepsOut s (Machine.execBreakBlock link kind reporter rlink partner epoch count s) := by
  unfold Machine.execBreakBlock
  repeat' (first | with_reducible exact Keeps.refl _ | with_reducible assumption | with_reducible apply KeepsOut.live | intro _ | with_reducible apply Keeps.ite | split | (with_reducible first | apply Keeps.addBreak | apply Keeps.flood))
theorem Keeps.execRequestBreakTimeout (tag : Nat) (s : State) : KeepsOut s (Machine.execRequestBreakTimeout tag s) := by
  unfold Machine.execRequestBreakTimeout
  repeat' (first | with_reducible exact Keeps.refl _ | with_reducible assumption | with_reducible apply KeepsOut.live | intro _ | with_reducible apply Keeps.ite | split | (with_reducible first | apply Keeps.modLnk | apply Keeps.creditBack | apply Keeps.finishLost | apply Keeps.cond))
theorem Keeps.execSleepBlock (link : Fin 4) (entering : Bool) (s : State) : KeepsOut s (Machine.execSleepBlock link entering s) := by
  unfold Machine.execSleepBlock
  repeat' (first | with_reducible exact Keeps.refl _ | with_reducible assumption | with_reducible apply KeepsOut.live | intro _ | with_reducible apply Keeps.ite | split | (with_reducible first | apply Keeps.put | apply Keeps.pump))

end Sys2Proof.Machine
end

