-- ==== Sys2Proof/Laws/Keeps/Pip.lean ====
section
/-! SUPPORT. Pip: what every operation and meaning of this file keeps. -/

namespace Sys2Proof.Machine

theorem Keeps.setPipCount {a s : State} (h : Keeps a s) (c : Int) : Keeps a (Machine.State.setPipCount s c) := by
  unfold Machine.State.setPipCount
  repeat' (first | with_reducible exact h | with_reducible assumption | intro _ | with_reducible apply Keeps.ite | split | (with_reducible first | apply Keeps.wr))
theorem Keeps.setSince {a s : State} (h : Keeps a s) (ns : Nat) : Keeps a (Machine.State.setSince s ns) := by
  unfold Machine.State.setSince
  repeat' (first | with_reducible exact h | with_reducible assumption | intro _ | with_reducible apply Keeps.ite | split | (with_reducible first | apply Keeps.put | apply Keeps.modPip))
theorem Keeps.setCycle {a s : State} (h : Keeps a s) (c : Nat) : Keeps a (Machine.State.setCycle s c) := by
  unfold Machine.State.setCycle
  repeat' (first | with_reducible exact h | with_reducible assumption | intro _ | with_reducible apply Keeps.ite | split | (with_reducible first | apply Keeps.modPip))
theorem Keeps.edgeRate {a s : State} (h : Keeps a s) (ns : Nat) (down : Bool) : Keeps a (Machine.State.edgeRate s ns down) := by
  unfold Machine.State.edgeRate
  repeat' (first | with_reducible exact h | with_reducible assumption | intro _ | with_reducible apply Keeps.ite | split | (with_reducible first | apply Keeps.put | apply Keeps.putB | apply Keeps.modPip | apply Keeps.setSince))
theorem Keeps.setSlot {a s : State} (h : Keeps a s) (n : Nat) (e : Option PipEvent) : Keeps a (Machine.State.setSlot s n e) := by
  unfold Machine.State.setSlot
  repeat' (first | with_reducible exact h | with_reducible assumption | intro _ | with_reducible apply Keeps.ite | split | (with_reducible first | apply Keeps.modPip))
theorem Keeps.commitFiring {a s : State} (h : Keeps a s) (e : PipEvent) (edgeDir tile cycle skipped : Nat) : Keeps a (Machine.State.commitFiring s e edgeDir tile cycle skipped) := by
  unfold Machine.State.commitFiring
  repeat' (first | with_reducible exact h | with_reducible assumption | intro _ | with_reducible apply Keeps.ite | split | (with_reducible first | apply Keeps.modPip | apply Keeps.setSlot))
theorem Keeps.cutShort {a s : State} (h : Keeps a s) (tile cycle : Nat) : Keeps a (Machine.State.cutShort s tile cycle) := by
  unfold Machine.State.cutShort
  repeat' (first | with_reducible exact h | with_reducible assumption | intro _ | with_reducible apply Keeps.ite | split | (with_reducible first | apply Keeps.commitFiring | apply Keeps.forEach))
theorem Keeps.sendNotice {a s : State} (h : Keeps a s) (edgeDir : Nat) (old new : Int) (frac tile cycle : Nat) (revised : Bool) : Keeps a (Machine.State.sendNotice s edgeDir old new frac tile cycle revised) := by
  unfold Machine.State.sendNotice
  repeat' (first | with_reducible exact h | with_reducible assumption | intro _ | with_reducible apply Keeps.ite | split | (with_reducible first | apply Keeps.sendMsg))
theorem Keeps.noteRemote {a s : State} (h : Keeps a s) (m : Nat) (e : PipEvent) : Keeps a (Machine.State.noteRemote s m e) := by
  unfold Machine.State.noteRemote
  repeat' (first | with_reducible exact h | with_reducible assumption | intro _ | with_reducible apply Keeps.ite | split | (with_reducible first | apply Keeps.modPip))
theorem Keeps.dropRemote {a s : State} (h : Keeps a s) (m : Nat) (slot : Option Nat) : Keeps a (Machine.State.dropRemote s m slot) := by
  unfold Machine.State.dropRemote
  repeat' (first | with_reducible exact h | with_reducible assumption | intro _ | with_reducible apply Keeps.ite | split | (with_reducible first | apply Keeps.modPip))
theorem Keeps.noticeRemote {a s : State} (h : Keeps a s) (edgeDir : Nat) (old new : Int) (ns : Nat) : Keeps a (Machine.State.noticeRemote s edgeDir old new ns) := by
  unfold Machine.State.noticeRemote
  repeat' (first | with_reducible exact h | with_reducible assumption | intro _ | with_reducible apply Keeps.ite | split | (with_reducible first | apply Keeps.modPip | apply Keeps.sendNotice | apply Keeps.cond | apply Keeps.forEach))
theorem Keeps.backstep {a s : State} (h : Keeps a s) (kind : Nat) (old new : Int) : Keeps a (Machine.State.backstep s kind old new) := by
  unfold Machine.State.backstep
  repeat' (first | with_reducible exact h | with_reducible assumption | intro _ | with_reducible apply Keeps.ite | split | (with_reducible first | apply Keeps.inc | apply Keeps.record))
theorem Keeps.guardWake {a s : State} (h : Keeps a s) (qualified : Bool) : Keeps a (Machine.State.guardWake s qualified) := by
  unfold Machine.State.guardWake
  repeat' (first | with_reducible exact h | with_reducible assumption | intro _ | with_reducible apply Keeps.ite | split | (with_reducible first | apply Keeps.wake | apply Keeps.cond))
theorem Keeps.pipEdge {a s : State} (h : Keeps a s) (down : Bool) (ns cycle : Nat) : Keeps a (Machine.State.pipEdge s down ns cycle) := by
  unfold Machine.State.pipEdge
  repeat' (first | with_reducible exact h | with_reducible assumption | intro _ | with_reducible apply Keeps.ite | split | (with_reducible first | apply Keeps.modPip | apply Keeps.setPipCount | apply Keeps.setCycle | apply Keeps.edgeRate | apply Keeps.setSlot | apply Keeps.commitFiring | apply Keeps.cutShort | apply Keeps.noticeRemote | apply Keeps.backstep | apply Keeps.guardWake | apply Keeps.cond | apply Keeps.forEach))
theorem Keeps.pipJump {a s : State} (h : Keeps a s) (kind : Nat) (new : Int) : Keeps a (Machine.State.pipJump s kind new) := by
  unfold Machine.State.pipJump
  repeat' (first | with_reducible exact h | with_reducible assumption | intro _ | with_reducible apply Keeps.ite | split | (with_reducible first | apply Keeps.modPip | apply Keeps.setPipCount | apply Keeps.setSince | apply Keeps.commitFiring | apply Keeps.noticeRemote | apply Keeps.backstep | apply Keeps.guardWake | apply Keeps.cond | apply Keeps.forEach))
theorem Keeps.execPipEdgeQuad (a b : Bool) (ns cycle : Nat) (s : State) : KeepsOut s (Machine.execPipEdgeQuad a b ns cycle s) := by
  unfold Machine.execPipEdgeQuad
  repeat' (first | with_reducible exact Keeps.refl _ | with_reducible assumption | with_reducible apply KeepsOut.inBlock | intro _ | with_reducible apply Keeps.ite | split | (with_reducible first | apply Keeps.flag | apply Keeps.modPip | apply Keeps.pipEdge))
theorem Keeps.execPipEdgePulse (dir : Bool) (ns cycle : Nat) (s : State) : KeepsOut s (Machine.execPipEdgePulse dir ns cycle s) := by
  unfold Machine.execPipEdgePulse
  repeat' (first | with_reducible exact Keeps.refl _ | with_reducible assumption | with_reducible apply KeepsOut.inBlock | intro _ | with_reducible apply Keeps.ite | split | (with_reducible first | apply Keeps.pipEdge | apply Keeps.cond))
theorem Keeps.execPipHoming (cycle : Nat) (s : State) : KeepsOut s (Machine.execPipHoming cycle s) := by
  unfold Machine.execPipHoming
  repeat' (first | with_reducible exact Keeps.refl _ | with_reducible assumption | with_reducible apply KeepsOut.inBlock | intro _ | with_reducible apply Keeps.ite | split | (with_reducible first | apply Keeps.putB | apply Keeps.setCycle | apply Keeps.pipJump | apply Keeps.cond))
theorem Keeps.zArm {a s : State} (h : Keeps a s) : Keeps a (Machine.State.zArm s) := by
  unfold Machine.State.zArm
  repeat' (first | with_reducible exact h | with_reducible assumption | intro _ | with_reducible apply Keeps.ite | split | (with_reducible first | apply Keeps.putB | apply Keeps.cond))
theorem Keeps.pipHostWrite {a s : State} (h : Keeps a s) (v : Int) (ns cycle : Nat) : Keeps a (Machine.State.pipHostWrite s v ns cycle) := by
  unfold Machine.State.pipHostWrite
  repeat' (first | with_reducible exact h | with_reducible assumption | intro _ | with_reducible apply Keeps.ite | split | (with_reducible first | apply Keeps.setCycle | apply Keeps.pipEdge | apply Keeps.pipJump))
theorem Keeps.pipSrcChanged {a s : State} (h : Keeps a s) : Keeps a (Machine.State.pipSrcChanged s) := by
  unfold Machine.State.pipSrcChanged
  repeat' (first | with_reducible exact h | with_reducible assumption | intro _ | with_reducible apply Keeps.ite | split | (with_reducible first | apply Keeps.wr | apply Keeps.modPip))
theorem Keeps.execPipStopped  (s : State) : KeepsOut s (Machine.execPipStopped s) := by
  unfold Machine.execPipStopped
  repeat' (first | with_reducible exact Keeps.refl _ | with_reducible assumption | with_reducible apply KeepsOut.inBlock | intro _ | with_reducible apply Keeps.ite | split | (with_reducible first | apply Keeps.wr | apply Keeps.put))
theorem Keeps.execPipQualInstant (slot : Nat) (s : State) : KeepsOut s (Machine.execPipQualInstant slot s) := by
  unfold Machine.execPipQualInstant
  repeat' (first | with_reducible exact Keeps.refl _ | with_reducible assumption | with_reducible apply KeepsOut.inBlock | intro _ | with_reducible apply Keeps.ite | split | (with_reducible first | apply Keeps.commitFiring))
theorem Keeps.firedRec {a s : State} (h : Keeps a s) (c : PipCommit) (lateNs : Nat) : Keeps a (Machine.State.firedRec s c lateNs) := by
  unfold Machine.State.firedRec
  repeat' (first | with_reducible exact h | with_reducible assumption | intro _ | with_reducible apply Keeps.ite | split | (with_reducible first | apply Keeps.record))
theorem Keeps.fireAction {a s : State} (h : Keeps a s) (action slot lateNs : Nat) (eff : State → PipEvent → State) (heff : ∀ t e, Keeps a t → Keeps a (eff t e)) : Keeps a (Machine.State.fireAction s action slot lateNs eff) := by
  unfold Machine.State.fireAction
  repeat' (first | with_reducible exact h | with_reducible assumption | intro _ | with_reducible apply Keeps.ite | split | with_reducible apply heff | (with_reducible first | apply Keeps.modPip | apply Keeps.firedRec | apply Keeps.cond))
theorem Keeps.gpio {a s : State} (h : Keeps a s) (n : Nat) (level : Bool) : Keeps a (Machine.State.gpio s n level) := by
  unfold Machine.State.gpio
  repeat' (first | with_reducible exact h | with_reducible assumption | intro _ | with_reducible apply Keeps.ite | split | (with_reducible first | apply Keeps.modTop) | rfl)
theorem Keeps.execPipGpioSet (slot lateNs : Nat) (s : State) : KeepsOut s (Machine.execPipGpioSet slot lateNs s) := by
  unfold Machine.execPipGpioSet
  repeat' (first | with_reducible exact Keeps.refl _ | with_reducible assumption | with_reducible apply KeepsOut.running | intro _ | with_reducible apply Keeps.ite | split | (with_reducible first | apply Keeps.fireAction | apply Keeps.gpio))
theorem Keeps.execPipGpioClear (slot lateNs : Nat) (s : State) : KeepsOut s (Machine.execPipGpioClear slot lateNs s) := by
  unfold Machine.execPipGpioClear
  repeat' (first | with_reducible exact Keeps.refl _ | with_reducible assumption | with_reducible apply KeepsOut.running | intro _ | with_reducible apply Keeps.ite | split | (with_reducible first | apply Keeps.fireAction | apply Keeps.gpio))
theorem Keeps.execPipPostRecord (slot lateNs : Nat) (s : State) : KeepsOut s (Machine.execPipPostRecord slot lateNs s) := by
  unfold Machine.execPipPostRecord
  repeat' (first | with_reducible exact Keeps.refl _ | with_reducible assumption | with_reducible apply KeepsOut.running | intro _ | with_reducible apply Keeps.ite | split | (with_reducible first | apply Keeps.fireAction))
theorem Keeps.execPipEventArm (d : Desc) (s : State) : KeepsOut s (Machine.execPipEventArm d s) := by
  unfold Machine.execPipEventArm
  repeat' (first | with_reducible exact Keeps.refl _ | with_reducible assumption | with_reducible apply KeepsOut.running | intro _ | with_reducible apply Keeps.ite | split | (with_reducible first | apply Keeps.complete | apply Keeps.commit | apply Keeps.atMember | apply Keeps.needBlk | apply Keeps.setSlot | apply Keeps.noteRemote))
theorem Keeps.execPipEventDisarm (d : Desc) (s : State) : KeepsOut s (Machine.execPipEventDisarm d s) := by
  unfold Machine.execPipEventDisarm
  repeat' (first | with_reducible exact Keeps.refl _ | with_reducible assumption | with_reducible apply KeepsOut.running | intro _ | with_reducible apply Keeps.ite | split | (with_reducible first | apply Keeps.modPip | apply Keeps.complete | apply Keeps.finish | apply Keeps.commit | apply Keeps.atMember | apply Keeps.needBlk | apply Keeps.setSlot | apply Keeps.dropRemote))
theorem Keeps.pipTable {a s : State} (h : Keeps a s) (ws : List Word) (part : Bool) : Keeps a (Machine.State.pipTable s ws part) := by
  unfold Machine.State.pipTable
  repeat' (first | with_reducible exact h | with_reducible assumption | intro _ | with_reducible apply Keeps.ite | split | (with_reducible first | apply Keeps.modPip | apply Keeps.setSlot | apply Keeps.forEach))
theorem Keeps.noteTable {a s : State} (h : Keeps a s) (m : Nat) (ws : List Word) (part : Bool) : Keeps a (Machine.State.noteTable s m ws part) := by
  unfold Machine.State.noteTable
  repeat' (first | with_reducible exact h | with_reducible assumption | intro _ | with_reducible apply Keeps.ite | split | (with_reducible first | apply Keeps.noteRemote | apply Keeps.dropRemote | apply Keeps.forEach))
theorem Keeps.pipBeacon {a s : State} (h : Keeps a s) : Keeps a (Machine.State.pipBeacon s) := by
  unfold Machine.State.pipBeacon
  repeat' (first | with_reducible exact h | with_reducible assumption | intro _ | with_reducible apply Keeps.ite | split | (with_reducible first | apply Keeps.sendMsg | apply Keeps.cond))
theorem Keeps.execPipBeaconSend (sinceNs cycle : Nat) (s : State) : KeepsOut s (Machine.execPipBeaconSend sinceNs cycle s) := by
  unfold Machine.execPipBeaconSend
  repeat' (first | with_reducible exact Keeps.refl _ | with_reducible assumption | with_reducible apply KeepsOut.inBlock | intro _ | with_reducible apply Keeps.ite | split | (with_reducible first | apply Keeps.setSince | apply Keeps.setCycle | apply Keeps.pipBeacon))
theorem Keeps.execPipBeaconReceive (count : Int) (frac : Nat) (rate : Word) (s : State) : KeepsOut s (Machine.execPipBeaconReceive count frac rate s) := by
  unfold Machine.execPipBeaconReceive
  repeat' (first | with_reducible exact Keeps.refl _ | with_reducible assumption | with_reducible apply KeepsOut.inBlock | intro _ | with_reducible apply Keeps.ite | split | (with_reducible first | apply Keeps.wr | apply Keeps.put | apply Keeps.modPip | apply Keeps.setPipCount | apply Keeps.pipJump))
theorem Keeps.execPipNoticeReceive (edgeDir : Nat) (old count : Int) (frac tile cycle : Nat) (revised : Bool) (s : State) : KeepsOut s (Machine.execPipNoticeReceive edgeDir old count frac tile cycle revised s) := by
  unfold Machine.execPipNoticeReceive
  repeat' (first | with_reducible exact Keeps.refl _ | with_reducible assumption | with_reducible apply KeepsOut.inBlock | intro _ | with_reducible apply Keeps.ite | split | (with_reducible first | apply Keeps.setPipCount | apply Keeps.setSlot | apply Keeps.commitFiring | apply Keeps.forEach))
theorem Keeps.execPipLockLoss  (s : State) : KeepsOut s (Machine.execPipLockLoss s) := by
  unfold Machine.execPipLockLoss
  repeat' (first | with_reducible exact Keeps.refl _ | with_reducible assumption | with_reducible apply KeepsOut.inBlock | intro _ | with_reducible apply Keeps.ite | split | (with_reducible first | apply Keeps.modPip | apply Keeps.cond))
theorem Keeps.pipHeld {a s : State} (h : Keeps a s) : Keeps a (Machine.State.pipHeld s) := by
  unfold Machine.State.pipHeld
  repeat' (first | with_reducible exact h | with_reducible assumption | intro _ | with_reducible apply Keeps.ite | split | (with_reducible first | apply Keeps.modPip))

end Sys2Proof.Machine
end

