-- ==== Sys2Proof/Laws/Keeps/Radio.lean ====
section
/-! SUPPORT. Radio: what every operation and meaning of this file keeps. -/

namespace Sys2Proof.Machine

theorem Keeps.loLock {a s : State} (h : Keeps a s) (n : Fin 5) (freq : Nat) (cal : Bool) : Keeps a (Machine.State.loLock s n freq cal) := by
  unfold Machine.State.loLock
  repeat' (first | with_reducible exact h | with_reducible assumption | intro _ | with_reducible apply Keeps.ite | split | (with_reducible first | apply Keeps.put | apply Keeps.putB | apply Keeps.modLo))
theorem Keeps.calDue {a s : State} (h : Keeps a s) : Keeps a (Machine.State.calDue s) := by
  unfold Machine.State.calDue
  repeat' (first | with_reducible exact h | with_reducible assumption | intro _ | with_reducible apply Keeps.ite | split | (with_reducible first | apply Keeps.flag | apply Keeps.cond | apply Keeps.forEach))
theorem Keeps.loDone {a s : State} (h : Keeps a s) (n : Fin 5) (req : LoReq) (cal : Bool) : Keeps a (Machine.State.loDone s n req cal) := by
  unfold Machine.State.loDone
  repeat' (first | with_reducible exact h | with_reducible assumption | intro _ | with_reducible apply Keeps.ite | split | (with_reducible first | apply Keeps.putB | apply Keeps.modRadio | apply Keeps.modSrc | apply Keeps.complete) | extract_lets)
theorem Keeps.loBegin {a s : State} (h : Keeps a s) (n : Fin 5) (req : LoReq) : Keeps a (Machine.State.loBegin s n req).1 := by
  unfold Machine.State.loBegin
  repeat' (first | with_reducible exact h | with_reducible assumption | intro _ | with_reducible apply Keeps.ite | split | (with_reducible first | apply Keeps.wr | apply Keeps.put) | extract_lets | dsimp only | dsimp +zetaDelta only)
theorem Keeps.loServeN {a : State} : ∀ (n : Nat) {s : State} (_ : Keeps a s) (k : Fin 5), Keeps a (Machine.loServeN n s k) := by
  intro n
  induction n with
  | zero => intro s h; intros; exact h
  | succ n ih =>
    intro s h; intros; unfold Machine.loServeN
    repeat' (first | with_reducible exact h | with_reducible assumption | intro _ | split | apply ih | (with_reducible first | apply Keeps.cond | apply Keeps.movedAll | apply Keeps.gapAll | apply Keeps.putB | apply Keeps.modLo | apply Keeps.commit | apply Keeps.loDone | apply Keeps.loBegin) | extract_lets | dsimp only | dsimp +zetaDelta only)
theorem Keeps.loServe {a s : State} (h : Keeps a s) (n : Fin 5) : Keeps a (Machine.State.loServe s n) := by
  unfold Machine.State.loServe
  repeat' (first | with_reducible exact h | with_reducible assumption | intro _ | with_reducible apply Keeps.ite | split | (with_reducible first | apply Keeps.loServeN))
theorem Keeps.loRequest {a s : State} (h : Keeps a s) (n : Fin 5) (req : LoReq) : Keeps a (Machine.State.loRequest s n req) := by
  unfold Machine.State.loRequest
  repeat' (first | with_reducible exact h | with_reducible assumption | intro _ | with_reducible apply Keeps.ite | split | (with_reducible first | apply Keeps.modLo | apply Keeps.loServe))
theorem Keeps.execSynthStepDone (unit : Fin 5) (cycle : Nat) (s : State) : KeepsOut s (Machine.execSynthStepDone unit cycle s) := by
  unfold Machine.execSynthStepDone
  repeat' (first | with_reducible exact Keeps.refl _ | with_reducible assumption | with_reducible apply KeepsOut.inBlock | intro _ | with_reducible apply Keeps.ite | split | (with_reducible first | apply Keeps.putB | apply Keeps.modLo | apply Keeps.gapEnd | apply Keeps.setLoState | apply Keeps.loOff | apply Keeps.loLock | apply Keeps.loDone | apply Keeps.loBegin | apply Keeps.loServe | apply Keeps.cond | apply Keeps.forEach) | extract_lets)
theorem Keeps.execSynthLockTimeout (unit : Fin 5) (s : State) : KeepsOut s (Machine.execSynthLockTimeout unit s) := by
  unfold Machine.execSynthLockTimeout
  repeat' (first | with_reducible exact Keeps.refl _ | with_reducible assumption | with_reducible apply KeepsOut.inBlock | intro _ | with_reducible apply Keeps.ite | split | (with_reducible first | apply Keeps.putB | apply Keeps.loOff | apply Keeps.radioEnds | apply Keeps.serveEnds | apply Keeps.fail | apply Keeps.loServe | apply Keeps.cond))
theorem Keeps.execSynthRelockTimeout (unit : Fin 5) (s : State) : KeepsOut s (Machine.execSynthRelockTimeout unit s) := by
  unfold Machine.execSynthRelockTimeout
  repeat' (first | with_reducible exact Keeps.refl _ | with_reducible assumption | with_reducible apply KeepsOut.inBlock | intro _ | with_reducible apply Keeps.ite | split | (with_reducible first | apply Keeps.modLo | apply Keeps.fail | apply Keeps.cond))
theorem Keeps.execRadioRailWaitTimeout (unit : Fin 5) (s : State) : KeepsOut s (Machine.execRadioRailWaitTimeout unit s) := by
  unfold Machine.execRadioRailWaitTimeout
  repeat' (first | with_reducible exact Keeps.refl _ | with_reducible assumption | with_reducible apply KeepsOut.inBlock | intro _ | with_reducible apply Keeps.ite | split | (with_reducible first | apply Keeps.modLo | apply Keeps.radioEnds))
theorem Keeps.railsBack {a s : State} (h : Keeps a s) : Keeps a (Machine.State.railsBack s) := by
  unfold Machine.State.railsBack
  repeat' (first | with_reducible exact h | with_reducible assumption | intro _ | with_reducible apply Keeps.ite | split | (with_reducible first | apply Keeps.modRadio))
theorem Keeps.execTune (d : Desc) (s : State) : KeepsOut s (Machine.execTune d s) := by
  unfold Machine.execTune
  repeat' (first | with_reducible exact Keeps.refl _ | with_reducible assumption | with_reducible apply KeepsOut.running | intro _ | with_reducible apply Keeps.ite | split | (with_reducible first | apply Keeps.finish | apply Keeps.bad | apply Keeps.atMember | apply Keeps.needBlk | apply Keeps.loRequest | apply Keeps.idle))
theorem Keeps.execRadioState (d : Desc) (s : State) : KeepsOut s (Machine.execRadioState d s) := by
  unfold Machine.execRadioState
  repeat' (first | with_reducible exact Keeps.refl _ | with_reducible assumption | with_reducible apply KeepsOut.running | intro _ | with_reducible apply Keeps.ite | split | (with_reducible first | apply Keeps.modRadio | apply Keeps.finish | apply Keeps.bad | apply Keeps.atMember | apply Keeps.needBlk | apply Keeps.loRequest | apply Keeps.forEach | apply Keeps.idle))
theorem Keeps.radioCancel {a s : State} (h : Keeps a s) (d : Desc) : Keeps a (Machine.State.radioCancel s d) := by
  unfold Machine.State.radioCancel
  repeat' (first | with_reducible exact h | with_reducible assumption | intro _ | with_reducible apply Keeps.ite | split | (with_reducible first | apply Keeps.modRadio))
theorem Keeps.loInvalidate {a s : State} (h : Keeps a s) (n : Fin 5) : Keeps a (Machine.State.loInvalidate s n) := by
  unfold Machine.State.loInvalidate
  repeat' (first | with_reducible exact h | with_reducible assumption | intro _ | with_reducible apply Keeps.ite | split | (with_reducible first | apply Keeps.modLo))
theorem Keeps.loLoss {a s : State} (h : Keeps a s) (n : Fin 5) (kind : Nat) : Keeps a (Machine.State.loLoss s n kind) := by
  unfold Machine.State.loLoss
  repeat' (first | with_reducible exact h | with_reducible assumption | intro _ | with_reducible apply Keeps.ite | split | (with_reducible first | apply Keeps.putB | apply Keeps.flag | apply Keeps.modLo | apply Keeps.fltBit | apply Keeps.fault | apply Keeps.gapAll | apply Keeps.sendEnds | apply Keeps.cond))
theorem Keeps.loRelock {a s : State} (h : Keeps a s) (n : Fin 5) (cycle : Nat) : Keeps a (Machine.State.loRelock s n cycle) := by
  unfold Machine.State.loRelock
  repeat' (first | with_reducible exact h | with_reducible assumption | intro _ | with_reducible apply Keeps.ite | split | (with_reducible first | apply Keeps.putB | apply Keeps.modLo | apply Keeps.gapEnd | apply Keeps.transientErr | apply Keeps.cond | apply Keeps.forEach))
theorem Keeps.radioRailLost {a s : State} (h : Keeps a s) (supply : Nat) : Keeps a (Machine.State.radioRailLost s supply) := by
  unfold Machine.State.radioRailLost
  repeat' (first | with_reducible exact h | with_reducible assumption | intro _ | with_reducible apply Keeps.ite | split | (with_reducible first | apply Keeps.fault | apply Keeps.radiosSleep))
theorem Keeps.pathBoundary {a s : State} (h : Keeps a s) : Keeps a (Machine.State.pathBoundary s) := by
  unfold Machine.State.pathBoundary
  repeat' (first | with_reducible exact h | with_reducible assumption | intro _ | with_reducible apply Keeps.ite | split | (with_reducible first | apply Keeps.modLo | apply Keeps.modPath | apply Keeps.gapStart | apply Keeps.gapEnd | apply Keeps.loOff | apply Keeps.loDone | apply Keeps.loRequest | apply Keeps.forEach))
theorem Keeps.pathTile {a s : State} (h : Keeps a s) : Keeps a (Machine.State.pathTile s) := by
  unfold Machine.State.pathTile
  repeat' (first | with_reducible exact h | with_reducible assumption | intro _ | with_reducible apply Keeps.ite | split | (with_reducible first | apply Keeps.modPath | apply Keeps.setClean | apply Keeps.forEach))
theorem Keeps.modTx {a s : State} (h : Keeps a s) (f : TxSt → TxSt) : Keeps a (Machine.State.modTx s f) := by
  unfold Machine.State.modTx
  repeat' (first | with_reducible exact h | with_reducible assumption | intro _ | with_reducible apply Keeps.ite | split | (with_reducible first | apply Keeps.modRadio))
theorem Keeps.execPaEnRise  (s : State) : KeepsOut s (Machine.execPaEnRise s) := by
  unfold Machine.execPaEnRise
  repeat' (first | with_reducible exact Keeps.refl _ | with_reducible assumption | with_reducible apply KeepsOut.inBlock | intro _ | with_reducible apply Keeps.ite | split | (with_reducible first | apply Keeps.cond | apply Keeps.modTop) | rfl)
theorem Keeps.execTxRampUpStart  (s : State) : KeepsOut s (Machine.execTxRampUpStart s) := by
  unfold Machine.execTxRampUpStart
  repeat' (first | with_reducible exact Keeps.refl _ | with_reducible assumption | with_reducible apply KeepsOut.inBlock | intro _ | with_reducible apply Keeps.ite | split | (with_reducible first | apply Keeps.modTx | apply Keeps.cond))
theorem Keeps.execTxFullPower  (s : State) : KeepsOut s (Machine.execTxFullPower s) := by
  unfold Machine.execTxFullPower
  repeat' (first | with_reducible exact Keeps.refl _ | with_reducible assumption | with_reducible apply KeepsOut.inBlock | intro _ | with_reducible apply Keeps.ite | split | (with_reducible first | apply Keeps.putB | apply Keeps.emit | apply Keeps.modTx | apply Keeps.cond))
theorem Keeps.execTxLastSymbol  (s : State) : KeepsOut s (Machine.execTxLastSymbol s) := by
  unfold Machine.execTxLastSymbol
  repeat' (first | with_reducible exact Keeps.refl _ | with_reducible assumption | with_reducible apply KeepsOut.inBlock | intro _ | with_reducible apply Keeps.ite | split | (with_reducible first | apply Keeps.modTx | apply Keeps.cond))
theorem Keeps.txOver {a s : State} (h : Keeps a s) : Keeps a (Machine.State.txOver s) := by
  unfold Machine.State.txOver
  repeat' (first | with_reducible exact h | with_reducible assumption | intro _ | with_reducible apply Keeps.ite | split | (with_reducible first | apply Keeps.modRadio | apply Keeps.setLoState | apply Keeps.loServe))
theorem Keeps.execTxRampDownEnd  (s : State) : KeepsOut s (Machine.execTxRampDownEnd s) := by
  unfold Machine.execTxRampDownEnd
  repeat' (first | with_reducible exact Keeps.refl _ | with_reducible assumption | with_reducible apply KeepsOut.inBlock | intro _ | with_reducible apply Keeps.ite | split | (with_reducible first | apply Keeps.modTx | apply Keeps.txOver | apply Keeps.cond))
theorem Keeps.execPaEnFall  (s : State) : KeepsOut s (Machine.execPaEnFall s) := by
  unfold Machine.execPaEnFall
  repeat' (first | with_reducible exact Keeps.refl _ | with_reducible assumption | with_reducible apply KeepsOut.inBlock | intro _ | with_reducible apply Keeps.ite | split | (with_reducible first | apply Keeps.txOver | apply Keeps.cond | apply Keeps.modTop) | rfl)
theorem Keeps.blank {a s : State} (h : Keeps a s) : Keeps a (Machine.State.blank s) := by
  unfold Machine.State.blank
  repeat' (first | with_reducible exact h | with_reducible assumption | intro _ | with_reducible apply Keeps.ite | split | (with_reducible first | apply Keeps.put | apply Keeps.modPath | apply Keeps.forEach))
theorem Keeps.execBlankingEnd (cycle : Nat) (s : State) : KeepsOut s (Machine.execBlankingEnd cycle s) := by
  unfold Machine.execBlankingEnd
  repeat' (first | with_reducible exact Keeps.refl _ | with_reducible assumption | with_reducible apply KeepsOut.inBlock | intro _ | with_reducible apply Keeps.ite | split | (with_reducible first | apply Keeps.put | apply Keeps.modPath | apply Keeps.cond | apply Keeps.forEach))
theorem Keeps.radioHeld {a s : State} (h : Keeps a s) : Keeps a (Machine.State.radioHeld s) := by
  unfold Machine.State.radioHeld
  repeat' (first | with_reducible exact h | with_reducible assumption | intro _ | with_reducible apply Keeps.ite | split | (with_reducible first | apply Keeps.modRadio | apply Keeps.radiosSleep))

end Sys2Proof.Machine
end

