-- ==== Sys2Proof/Laws/Keeps/Store.lean ====
section
/-! SUPPORT. Store: what every operation and meaning of this file keeps. -/

namespace Sys2Proof.Machine

theorem Keeps.storeWrite {s₀ s : State} (h : Keeps s₀ s) (a : Nat) (w : Word) : Keeps s₀ (Machine.State.storeWrite s a w) := by
  unfold Machine.State.storeWrite
  repeat' (first | with_reducible exact h | with_reducible assumption | intro _ | with_reducible apply Keeps.ite | split | (with_reducible first | apply Keeps.put | apply Keeps.modStore) | exact Sparse.wf_eraseRange _ _ _ _ ‹_› | exact Sparse.wf_put _ _ _ _ ‹_›)
theorem Keeps.storeWriteAll {s₀ s : State} (h : Keeps s₀ s) (a : Nat) (ws : List Word) : Keeps s₀ (Machine.State.storeWriteAll s a ws) := by
  unfold Machine.State.storeWriteAll
  repeat' (first | with_reducible exact h | with_reducible assumption | intro _ | with_reducible apply Keeps.ite | split | (with_reducible first | apply Keeps.storeWrite | apply Keeps.forEach))
theorem Keeps.corrected {s₀ s : State} (h : Keeps s₀ s) (a : Nat) : Keeps s₀ (Machine.State.corrected s a) := by
  unfold Machine.State.corrected
  repeat' (first | with_reducible exact h | with_reducible assumption | intro _ | with_reducible apply Keeps.ite | split | (with_reducible first | apply Keeps.inc | apply Keeps.fault | apply Keeps.cond | apply Keeps.modStore))
theorem Keeps.uncorrectable {s₀ s : State} (h : Keeps s₀ s) (rank a : Nat) : Keeps s₀ (Machine.State.uncorrectable s rank a) := by
  unfold Machine.State.uncorrectable
  repeat' (first | with_reducible exact h | with_reducible assumption | intro _ | with_reducible apply Keeps.ite | split | (with_reducible first | apply Keeps.inc | apply Keeps.fault | apply Keeps.fail | apply Keeps.modStore))
theorem Keeps.eccRead {s₀ s : State} (h : Keeps s₀ s) (rank a n : Nat) (flips : List (Nat × Bool)) : Keeps s₀ (Machine.State.eccRead s rank a n flips).1 := by
  unfold Machine.State.eccRead
  repeat' (first | with_reducible exact h | with_reducible assumption | intro _ | with_reducible apply Keeps.ite | split | (with_reducible first | apply Keeps.corrected | apply Keeps.uncorrectable | apply Keeps.foldl | apply Keeps.foldlFst) | extract_lets)
theorem Keeps.regionDone {a s : State} (h : Keeps a s) (d : Desc) (r : Result) : Keeps a (Machine.State.regionDone s d r) := by
  unfold Machine.State.regionDone
  repeat' (first | with_reducible exact h | with_reducible assumption | intro _ | with_reducible apply Keeps.ite | split | (with_reducible first | apply Keeps.complete))
theorem Keeps.accessFails {s₀ s : State} (h : Keeps s₀ s) (a : Access) (status : Nat) : Keeps s₀ (Machine.State.accessFails s a status) := by
  unfold Machine.State.accessFails
  repeat' (first | with_reducible exact h | with_reducible assumption | intro _ | with_reducible apply Keeps.ite | split | (with_reducible first | apply Keeps.finish))
theorem Keeps.makeBeats {s₀ s : State} (h : Keeps s₀ s) (a : Access) (n : Nat) (flips : List (Nat × Bool)) : Keeps s₀ (Machine.State.makeBeats s a n flips).1 := by
  unfold Machine.State.makeBeats
  repeat' (first | with_reducible exact h | with_reducible assumption | intro _ | with_reducible apply Keeps.ite | split | (with_reducible first | apply Keeps.storeWriteAll | apply Keeps.eccRead | apply Keeps.cond | apply Keeps.modStore))
theorem Keeps.request {s₀ s : State} (h : Keeps s₀ s) (a : Access) : Keeps s₀ (Machine.State.request s a) := by
  unfold Machine.State.request
  repeat' (first | with_reducible exact h | with_reducible assumption | intro _ | with_reducible apply Keeps.ite | split | (with_reducible first | apply Keeps.accessFails | apply Keeps.modStore))
theorem Keeps.grant {a s : State} (h : Keeps a s) (flips : List (Nat × Bool)) : Keeps a (Machine.State.grant s flips) := by
  unfold Machine.State.grant
  repeat' (first | with_reducible exact h | with_reducible assumption | intro _ | with_reducible apply Keeps.ite | split | (with_reducible first | apply Keeps.eccRead | apply Keeps.accessFails | apply Keeps.modStore))
theorem Keeps.execStoreGrant (requests : List Access) (progress : Nat) (flips : List (Nat × Bool)) (s : State) : KeepsOut s (Machine.execStoreGrant requests progress flips s) := by
  unfold Machine.execStoreGrant
  repeat' (first | with_reducible exact Keeps.refl _ | with_reducible assumption | with_reducible apply KeepsOut.live | intro _ | with_reducible apply Keeps.ite | split | (with_reducible first | apply Keeps.accessFails | apply Keeps.makeBeats | apply Keeps.request | apply Keeps.grant | apply Keeps.forEach | apply Keeps.modStore) | exact Sparse.wf_eraseRange _ _ _ _ ‹_› | exact Sparse.wf_put _ _ _ _ ‹_› | extract_lets)
theorem Keeps.execStitchEnd (writes : List (Nat × Word)) (s : State) : KeepsOut s (Machine.execStitchEnd writes s) := by
  unfold Machine.execStitchEnd
  repeat' (first | with_reducible exact Keeps.refl _ | with_reducible assumption | with_reducible apply KeepsOut.live | intro _ | with_reducible apply Keeps.ite | split | (with_reducible first | apply Keeps.storeWrite | apply Keeps.forEach | apply Keeps.modStore))
theorem Keeps.execHoldCutoff (progress : Nat) (s : State) : KeepsOut s (Machine.execHoldCutoff progress s) := by
  unfold Machine.execHoldCutoff
  repeat' (first | with_reducible exact Keeps.refl _ | with_reducible assumption | with_reducible apply KeepsOut.live | intro _ | with_reducible apply Keeps.ite | split | (with_reducible first | apply Keeps.put | apply Keeps.incSat | apply Keeps.orF | apply Keeps.fault | apply Keeps.fail | apply Keeps.accessFails | apply Keeps.makeBeats | apply Keeps.modStore))
theorem Keeps.execRefreshDue  (s : State) : KeepsOut s (Machine.execRefreshDue s) := by
  unfold Machine.execRefreshDue
  repeat' (first | with_reducible exact Keeps.refl _ | with_reducible assumption | with_reducible apply KeepsOut.live | intro _ | with_reducible apply Keeps.ite | split | (with_reducible first | apply Keeps.put | apply Keeps.modStore))
theorem Keeps.execRefreshCommand  (s : State) : KeepsOut s (Machine.execRefreshCommand s) := by
  unfold Machine.execRefreshCommand
  repeat' (first | with_reducible exact Keeps.refl _ | with_reducible assumption | with_reducible apply KeepsOut.live | intro _ | with_reducible apply Keeps.ite | split | (with_reducible first | apply Keeps.modStore))
theorem Keeps.storeTemp {a s : State} (h : Keeps a s) : Keeps a (Machine.State.storeTemp s) := by
  unfold Machine.State.storeTemp
  repeat' (first | with_reducible exact h | with_reducible assumption | intro _ | with_reducible apply Keeps.ite | split | (with_reducible first | apply Keeps.put | apply Keeps.flag | apply Keeps.modFlt | apply Keeps.fault))
theorem Keeps.selfRefresh {a s : State} (h : Keeps a s) (b : Bool) : Keeps a (Machine.State.selfRefresh s b) := by
  unfold Machine.State.selfRefresh
  repeat' (first | with_reducible exact h | with_reducible assumption | intro _ | with_reducible apply Keeps.ite | split | (with_reducible first | apply Keeps.putB))
theorem Keeps.execScrubWriteBack (addr : Nat) (again : Option Bool) (s : State) : KeepsOut s (Machine.execScrubWriteBack addr again s) := by
  unfold Machine.execScrubWriteBack
  repeat' (first | with_reducible exact Keeps.refl _ | with_reducible assumption | with_reducible apply KeepsOut.live | intro _ | with_reducible apply Keeps.ite | split | (with_reducible first | apply Keeps.inc | apply Keeps.fault | apply Keeps.fail | apply Keeps.transientErr | apply Keeps.uncorrectable | apply Keeps.cond | apply Keeps.modStore))
theorem Keeps.execScrubPassEnd (late : Bool) (s : State) : KeepsOut s (Machine.execScrubPassEnd late s) := by
  unfold Machine.execScrubPassEnd
  repeat' (first | with_reducible exact Keeps.refl _ | with_reducible assumption | with_reducible apply KeepsOut.live | intro _ | with_reducible apply Keeps.ite | split | (with_reducible first | apply Keeps.flag | apply Keeps.inc | apply Keeps.cond | apply Keeps.modStore))
theorem Keeps.shrink {a s : State} (h : Keeps a s) : Keeps a (Machine.State.shrink s) := by
  unfold Machine.State.shrink
  repeat' (first | with_reducible exact h | with_reducible assumption | intro _ | with_reducible apply Keeps.ite | split | (with_reducible first | apply Keeps.modStore) | exact Sparse.wf_eraseRange _ _ _ _ ‹_›)
theorem Keeps.moveBoundary {a s : State} (h : Keeps a s) (m : BankMove) : Keeps a (Machine.State.moveBoundary s m) := by
  unfold Machine.State.moveBoundary
  repeat' (first | with_reducible exact h | with_reducible assumption | intro _ | with_reducible apply Keeps.ite | split | (with_reducible first | apply Keeps.putB | apply Keeps.shrink | apply Keeps.modStore))
theorem Keeps.bankBoundary {a s : State} (h : Keeps a s) : Keeps a (Machine.State.bankBoundary s) := by
  unfold Machine.State.bankBoundary
  repeat' (first | with_reducible exact h | with_reducible assumption | intro _ | with_reducible apply Keeps.ite | split | (with_reducible first | apply Keeps.putB | apply Keeps.moveBoundary | apply Keeps.forEach | apply Keeps.modStore))
theorem Keeps.execBankCopyDone  (s : State) : KeepsOut s (Machine.execBankCopyDone s) := by
  unfold Machine.execBankCopyDone
  repeat' (first | with_reducible exact Keeps.refl _ | with_reducible assumption | with_reducible apply KeepsOut.live | intro _ | with_reducible apply Keeps.ite | split | (with_reducible first | apply Keeps.modStore))

end Sys2Proof.Machine
end

