-- ==== Sys2Proof/Laws/Keeps/Samp.lean ====
section
/-! SUPPORT. Samp: what every operation and meaning of this file keeps. -/

namespace Sys2Proof.Machine

theorem Keeps.sampViews {a s : State} (h : Keeps a s) : Keeps a (Machine.State.sampViews s) := by
  unfold Machine.State.sampViews
  repeat' (first | with_reducible exact h | with_reducible assumption | intro _ | with_reducible apply Keeps.ite | split | (with_reducible first | apply Keeps.put | apply Keeps.putB | apply Keeps.forEach))
theorem Keeps.agcBoundary {a s : State} (h : Keeps a s) (p : Fin 4) (peak : Int) : Keeps a (Machine.State.agcBoundary s p peak) := by
  unfold Machine.State.agcBoundary
  repeat' (first | with_reducible exact h | with_reducible assumption | intro _ | with_reducible apply Keeps.ite | split | (with_reducible first | apply Keeps.modAgc))
theorem Keeps.execAgcAttack (path : Fin 4) (s : State) : KeepsOut s (Machine.execAgcAttack path s) := by
  unfold Machine.execAgcAttack
  repeat' (first | with_reducible exact Keeps.refl _ | with_reducible assumption | with_reducible apply KeepsOut.inBlock | intro _ | with_reducible apply Keeps.ite | split | (with_reducible first | apply Keeps.modAgc | apply Keeps.sampViews | apply Keeps.cond))
theorem Keeps.execSentinelFreeze (path : Fin 4) (cond : Fin 3) (s : State) : KeepsOut s (Machine.execSentinelFreeze path cond s) := by
  unfold Machine.execSentinelFreeze
  repeat' (first | with_reducible exact Keeps.refl _ | with_reducible assumption | with_reducible apply KeepsOut.inBlock | intro _ | with_reducible apply Keeps.ite | split | (with_reducible first | apply Keeps.modAgc | apply Keeps.sampViews | apply Keeps.cond))
theorem Keeps.execSentinelRelease (path : Fin 4) (s : State) : KeepsOut s (Machine.execSentinelRelease path s) := by
  unfold Machine.execSentinelRelease
  repeat' (first | with_reducible exact Keeps.refl _ | with_reducible assumption | with_reducible apply KeepsOut.inBlock | intro _ | with_reducible apply Keeps.ite | split | (with_reducible first | apply Keeps.modAgc | apply Keeps.sampViews))
theorem Keeps.execFreezeMaxExpiry (path : Fin 4) (s : State) : KeepsOut s (Machine.execFreezeMaxExpiry path s) := by
  unfold Machine.execFreezeMaxExpiry
  repeat' (first | with_reducible exact Keeps.refl _ | with_reducible assumption | with_reducible apply KeepsOut.inBlock | intro _ | with_reducible apply Keeps.ite | split | (with_reducible first | apply Keeps.modAgc | apply Keeps.sampViews | apply Keeps.cond))
theorem Keeps.episodeTile {a s : State} (h : Keeps a s) : Keeps a (Machine.State.episodeTile s) := by
  unfold Machine.State.episodeTile
  repeat' (first | with_reducible exact h | with_reducible assumption | intro _ | with_reducible apply Keeps.ite | split | (with_reducible first | apply Keeps.modSamp))
theorem Keeps.execAdcClip (path : Fin 4) (cycle : Nat) (s : State) : KeepsOut s (Machine.execAdcClip path cycle s) := by
  unfold Machine.execAdcClip
  repeat' (first | with_reducible exact Keeps.refl _ | with_reducible assumption | with_reducible apply KeepsOut.inBlock | intro _ | with_reducible apply Keeps.ite | split | (with_reducible first | apply Keeps.putB | apply Keeps.inc | apply Keeps.modSamp | apply Keeps.modAgc | apply Keeps.sampViews | apply Keeps.episodeTile | apply Keeps.cond))
theorem Keeps.episodeRec {a s : State} (h : Keeps a s) (e : Episode) (ongoing : Bool) : Keeps a (Machine.State.episodeRec s e ongoing) := by
  unfold Machine.State.episodeRec
  repeat' (first | with_reducible exact h | with_reducible assumption | intro _ | with_reducible apply Keeps.ite | split | (with_reducible first | apply Keeps.record | apply Keeps.cond))
theorem Keeps.execOverloadEpisodeEnd  (s : State) : KeepsOut s (Machine.execOverloadEpisodeEnd s) := by
  unfold Machine.execOverloadEpisodeEnd
  repeat' (first | with_reducible exact Keeps.refl _ | with_reducible assumption | with_reducible apply KeepsOut.inBlock | intro _ | with_reducible apply Keeps.ite | split | (with_reducible first | apply Keeps.modSamp | apply Keeps.episodeRec | apply Keeps.cond))
theorem Keeps.execOverloadOngoing  (s : State) : KeepsOut s (Machine.execOverloadOngoing s) := by
  unfold Machine.execOverloadOngoing
  repeat' (first | with_reducible exact Keeps.refl _ | with_reducible assumption | with_reducible apply KeepsOut.inBlock | intro _ | with_reducible apply Keeps.ite | split | (with_reducible first | apply Keeps.modSamp | apply Keeps.episodeRec))
theorem Keeps.tileEnds {a s : State} (h : Keeps a s) : Keeps a (Machine.State.tileEnds s) := by
  unfold Machine.State.tileEnds
  repeat' (first | with_reducible exact h | with_reducible assumption | intro _ | with_reducible apply Keeps.ite | split | (with_reducible first | apply Keeps.modSamp))
theorem Keeps.sampCtlLands {a s : State} (h : Keeps a s) : Keeps a (Machine.State.sampCtlLands s) := by
  unfold Machine.State.sampCtlLands
  repeat' (first | with_reducible exact h | with_reducible assumption | intro _ | with_reducible apply Keeps.ite | split | (with_reducible first | apply Keeps.modSamp))
theorem Keeps.sampMaskLands {a s : State} (h : Keeps a s) : Keeps a (Machine.State.sampMaskLands s) := by
  unfold Machine.State.sampMaskLands
  repeat' (first | with_reducible exact h | with_reducible assumption | intro _ | with_reducible apply Keeps.ite | split | (with_reducible first | apply Keeps.modSamp))
theorem Keeps.sampApply {a s : State} (h : Keeps a s) : Keeps a (Machine.State.sampApply s) := by
  unfold Machine.State.sampApply
  repeat' (first | with_reducible exact h | with_reducible assumption | intro _ | with_reducible apply Keeps.ite | split | (with_reducible first | apply Keeps.put | apply Keeps.modSamp))
theorem Keeps.sampTile {a s : State} (h : Keeps a s) : Keeps a (Machine.State.sampTile s) := by
  unfold Machine.State.sampTile
  repeat' (first | with_reducible exact h | with_reducible assumption | intro _ | with_reducible apply Keeps.ite | split | (with_reducible first | apply Keeps.modSamp | apply Keeps.sampViews | apply Keeps.episodeTile))
theorem Keeps.keepTile {a s : State} (h : Keeps a s) (t : TileRec) : Keeps a (Machine.State.keepTile s t) := by
  unfold Machine.State.keepTile
  repeat' (first | with_reducible exact h | with_reducible assumption | intro _ | with_reducible apply Keeps.ite | split | (with_reducible first | apply Keeps.modSamp))
theorem Keeps.execTileWriteDone (octet : Nat) (exps : List Nat) (data : List Word) (s : State) : KeepsOut s (Machine.execTileWriteDone octet exps data s) := by
  unfold Machine.execTileWriteDone
  repeat' (first | with_reducible exact Keeps.refl _ | with_reducible assumption | with_reducible apply KeepsOut.inBlock | intro _ | with_reducible apply Keeps.ite | split | (with_reducible first | apply Keeps.keepTile))
theorem Keeps.setCap {a s : State} (h : Keeps a s) (r : Fin 4) (c : Option Capture) : Keeps a (Machine.State.setCap s r c) := by
  unfold Machine.State.setCap
  repeat' (first | with_reducible exact h | with_reducible assumption | intro _ | with_reducible apply Keeps.ite | split | (with_reducible first | apply Keeps.modSamp))
theorem Keeps.capEnd {a s : State} (h : Keeps a s) (r : Fin 4) (status : Nat) : Keeps a (Machine.State.capEnd s r status) := by
  unfold Machine.State.capEnd
  repeat' (first | with_reducible exact h | with_reducible assumption | intro _ | with_reducible apply Keeps.ite | split | (with_reducible first | apply Keeps.complete | apply Keeps.setCap))
theorem Keeps.capStart {a s : State} (h : Keeps a s) (d : Desc) : Keeps a (Machine.State.capStart s d) := by
  unfold Machine.State.capStart
  repeat' (first | with_reducible exact h | with_reducible assumption | intro _ | with_reducible apply Keeps.ite | split | (with_reducible first | apply Keeps.finish | apply Keeps.bad | apply Keeps.needBlk | apply Keeps.setCap))
theorem Keeps.execCaptureStart (d : Desc) (s : State) : KeepsOut s (Machine.execCaptureStart d s) := by
  unfold Machine.execCaptureStart
  repeat' (first | with_reducible exact Keeps.refl _ | with_reducible assumption | with_reducible apply KeepsOut.running | intro _ | with_reducible apply Keeps.ite | split | (with_reducible first | apply Keeps.finish | apply Keeps.bad | apply Keeps.taking | apply Keeps.forward | apply Keeps.setCap | apply Keeps.capStart))
theorem Keeps.execCaptureStop (d : Desc) (s : State) : KeepsOut s (Machine.execCaptureStop d s) := by
  unfold Machine.execCaptureStop
  repeat' (first | with_reducible exact Keeps.refl _ | with_reducible assumption | with_reducible apply KeepsOut.running | intro _ | with_reducible apply Keeps.ite | split | (with_reducible first | apply Keeps.finish | apply Keeps.atMember | apply Keeps.needBlk | apply Keeps.setCap | apply Keeps.idle))
theorem Keeps.capSettle {a s : State} (h : Keeps a s) (r : Fin 4) : Keeps a (Machine.State.capSettle s r) := by
  unfold Machine.State.capSettle
  repeat' (first | with_reducible exact h | with_reducible assumption | intro _ | with_reducible apply Keeps.ite | split | (with_reducible first | apply Keeps.capEnd | apply Keeps.cond))
theorem Keeps.capBoundary {a s : State} (h : Keeps a s) : Keeps a (Machine.State.capBoundary s) := by
  unfold Machine.State.capBoundary
  repeat' (first | with_reducible exact h | with_reducible assumption | intro _ | with_reducible apply Keeps.ite | split | (with_reducible first | apply Keeps.finishOpt | apply Keeps.setCap | apply Keeps.capSettle | apply Keeps.forEach))
theorem Keeps.execCaptureTileWrite (ring : Fin 4) (seq : Nat) (words : List Word) (s : State) : KeepsOut s (Machine.execCaptureTileWrite ring seq words s) := by
  unfold Machine.execCaptureTileWrite
  repeat' (first | with_reducible exact Keeps.refl _ | with_reducible assumption | with_reducible apply KeepsOut.running | intro _ | with_reducible apply Keeps.ite | split | (with_reducible first | apply Keeps.inc | apply Keeps.emit | apply Keeps.modRing | apply Keeps.ringEvent | apply Keeps.takeEntry | apply Keeps.post | apply Keeps.commit | apply Keeps.setCap | apply Keeps.capEnd | apply Keeps.capSettle))
theorem Keeps.execPipCaptureStart (slot lateNs : Nat) (s : State) : KeepsOut s (Machine.execPipCaptureStart slot lateNs s) := by
  unfold Machine.execPipCaptureStart
  repeat' (first | with_reducible exact Keeps.refl _ | with_reducible assumption | with_reducible apply KeepsOut.running | intro _ | with_reducible apply Keeps.ite | split | (with_reducible first | apply Keeps.fireAction | apply Keeps.setCap | apply Keeps.cond) | extract_lets)
theorem Keeps.sampHeld {a s : State} (h : Keeps a s) : Keeps a (Machine.State.sampHeld s) := by
  unfold Machine.State.sampHeld
  repeat' (first | with_reducible exact h | with_reducible assumption | intro _ | with_reducible apply Keeps.ite | split | (with_reducible first | apply Keeps.modSamp | apply Keeps.capEnd | apply Keeps.forEach))

end Sys2Proof.Machine
end

