-- ==== Sys2Proof/Laws/Keeps/Cal.lean ====
section
/-! SUPPORT. Cal: what every operation and meaning of this file keeps. -/

namespace Sys2Proof.Machine

theorem Keeps.modCalPath {a s : State} (h : Keeps a s) (p : Fin 4) (f : CalPath → CalPath) : Keeps a (Machine.State.modCalPath s p f) := by
  unfold Machine.State.modCalPath
  repeat' (first | with_reducible exact h | with_reducible assumption | intro _ | with_reducible apply Keeps.ite | split | (with_reducible first | apply Keeps.modCal))
theorem Keeps.calApply {a s : State} (h : Keeps a s) (p : Fin 4) (x : CalSet) : Keeps a (Machine.State.calApply s p x) := by
  unfold Machine.State.calApply
  repeat' (first | with_reducible exact h | with_reducible assumption | intro _ | with_reducible apply Keeps.ite | split | (with_reducible first | apply Keeps.wr | apply Keeps.modAgc | apply Keeps.modCalPath | apply Keeps.forEach))
theorem Keeps.calRecord {a s : State} (h : Keeps a s) (w6 : Word) : Keeps a (Machine.State.calRecord s w6) := by
  unfold Machine.State.calRecord
  repeat' (first | with_reducible exact h | with_reducible assumption | intro _ | with_reducible apply Keeps.ite | split | (with_reducible first | apply Keeps.record | apply Keeps.cond))
theorem Keeps.calTriggered {a s : State} (h : Keeps a s) (cause : Nat) : Keeps a (Machine.State.calTriggered s cause) := by
  unfold Machine.State.calTriggered
  repeat' (first | with_reducible exact h | with_reducible assumption | intro _ | with_reducible apply Keeps.ite | split | (with_reducible first | apply Keeps.put | apply Keeps.modCal))
theorem Keeps.calRaise {a s : State} (h : Keeps a s) (cause : Nat) : Keeps a (Machine.State.calRaise s cause) := by
  unfold Machine.State.calRaise
  repeat' (first | with_reducible exact h | with_reducible assumption | intro _ | with_reducible apply Keeps.ite | split | (with_reducible first | apply Keeps.sendReq | apply Keeps.calTriggered))
theorem Keeps.calTemp {a s : State} (h : Keeps a s) : Keeps a (Machine.State.calTemp s) := by
  unfold Machine.State.calTemp
  repeat' (first | with_reducible exact h | with_reducible assumption | intro _ | with_reducible apply Keeps.ite | split | (with_reducible first | apply Keeps.put | apply Keeps.calRaise | apply Keeps.cond))
theorem Keeps.calBegin {a s : State} (h : Keeps a s) (cause items mask : Nat) : Keeps a (Machine.State.calBegin s cause items mask) := by
  unfold Machine.State.calBegin
  repeat' (first | with_reducible exact h | with_reducible assumption | intro _ | with_reducible apply Keeps.ite | split | (with_reducible first | apply Keeps.put | apply Keeps.modCal))
theorem Keeps.execCalRoundStart (cause items mask : Nat) (s : State) : KeepsOut s (Machine.execCalRoundStart cause items mask s) := by
  unfold Machine.execCalRoundStart
  repeat' (first | with_reducible exact Keeps.refl _ | with_reducible assumption | with_reducible apply KeepsOut.inBlock | intro _ | with_reducible apply Keeps.ite | split | (with_reducible first | apply Keeps.sendMsg | apply Keeps.calBegin | apply Keeps.cond))
theorem Keeps.execCalRun (d : Desc) (s : State) : KeepsOut s (Machine.execCalRun d s) := by
  unfold Machine.execCalRun
  repeat' (first | with_reducible exact Keeps.refl _ | with_reducible assumption | with_reducible apply KeepsOut.running | intro _ | with_reducible apply Keeps.ite | split | (with_reducible first | apply Keeps.modCal | apply Keeps.atMember | apply Keeps.needBlk | apply Keeps.calTriggered))
theorem Keeps.calSolved {a s : State} (h : Keeps a s) : Keeps a (Machine.State.calSolved s) := by
  unfold Machine.State.calSolved
  repeat' (first | with_reducible exact h | with_reducible assumption | intro _ | with_reducible apply Keeps.ite | split | (with_reducible first | apply Keeps.modCal | apply Keeps.sendMsg | apply Keeps.cond | apply Keeps.forEach))
theorem Keeps.execCalSumsReceive (owner : Nat) (sums : List CalSum) (s : State) : KeepsOut s (Machine.execCalSumsReceive owner sums s) := by
  unfold Machine.execCalSumsReceive
  repeat' (first | with_reducible exact Keeps.refl _ | with_reducible assumption | with_reducible apply KeepsOut.inBlock | intro _ | with_reducible apply Keeps.ite | split | (with_reducible first | apply Keeps.modCal | apply Keeps.calSolved))
theorem Keeps.execCalValuesReceive (values : List CalValue) (s : State) : KeepsOut s (Machine.execCalValuesReceive values s) := by
  unfold Machine.execCalValuesReceive
  repeat' (first | with_reducible exact Keeps.refl _ | with_reducible assumption | with_reducible apply KeepsOut.inBlock | intro _ | with_reducible apply Keeps.ite | split | (with_reducible first | apply Keeps.modCal | apply Keeps.cond))
theorem Keeps.calStep {a s : State} (h : Keeps a s) (r : CalRound) : Keeps a (Machine.State.calStep s r) := by
  unfold Machine.State.calStep
  repeat' (first | with_reducible exact h | with_reducible assumption | intro _ | with_reducible apply Keeps.ite | split | (with_reducible first | apply Keeps.put | apply Keeps.inc | apply Keeps.orF | apply Keeps.modCal | apply Keeps.complete | apply Keeps.calApply | apply Keeps.calRecord | apply Keeps.calTriggered | apply Keeps.calTemp | apply Keeps.cond | apply Keeps.forEach))
theorem Keeps.calSolveTile {a s : State} (h : Keeps a s) (r : CalRound) (stats : List CalStat) (sums : List CalSum) : Keeps a (Machine.State.calSolveTile s r stats sums) := by
  unfold Machine.State.calSolveTile
  repeat' (first | with_reducible exact h | with_reducible assumption | intro _ | with_reducible apply Keeps.ite | split | (with_reducible first | apply Keeps.put | apply Keeps.modCal | apply Keeps.modAgc | apply Keeps.sendMsg | apply Keeps.commit | apply Keeps.calSolved | apply Keeps.cond | apply Keeps.forEach))
theorem Keeps.calBoundary {a s : State} (h : Keeps a s) (stats : List CalStat) (sums : List CalSum) : Keeps a (Machine.State.calBoundary s stats sums) := by
  unfold Machine.State.calBoundary
  repeat' (first | with_reducible exact h | with_reducible assumption | intro _ | with_reducible apply Keeps.ite | split | (with_reducible first | apply Keeps.modCal | apply Keeps.modPath | apply Keeps.modCalPath | apply Keeps.calApply | apply Keeps.calRecord | apply Keeps.calRaise | apply Keeps.calStep | apply Keeps.calSolveTile | apply Keeps.cond | apply Keeps.forEach) | extract_lets)
theorem Keeps.calEnd {a s : State} (h : Keeps a s) (status : Nat) (keep : List Desc) : Keeps a (Machine.State.calEnd s status keep) := by
  unfold Machine.State.calEnd
  repeat' (first | with_reducible exact h | with_reducible assumption | intro _ | with_reducible apply Keeps.ite | split | (with_reducible first | apply Keeps.put | apply Keeps.modCal | apply Keeps.sendMsg | apply Keeps.finish | apply Keeps.calTriggered | apply Keeps.calTemp | apply Keeps.cond | apply Keeps.forEach))
theorem Keeps.execCalRunTimeout (d : Desc) (s : State) : KeepsOut s (Machine.execCalRunTimeout d s) := by
  unfold Machine.execCalRunTimeout
  repeat' (first | with_reducible exact Keeps.refl _ | with_reducible assumption | with_reducible apply KeepsOut.inBlock | intro _ | with_reducible apply Keeps.ite | split | (with_reducible first | apply Keeps.modCal | apply Keeps.finish | apply Keeps.calEnd))
theorem Keeps.calCancel {a s : State} (h : Keeps a s) (d : Desc) : Keeps a (Machine.State.calCancel s d) := by
  unfold Machine.State.calCancel
  repeat' (first | with_reducible exact h | with_reducible assumption | intro _ | with_reducible apply Keeps.ite | split | (with_reducible first | apply Keeps.put | apply Keeps.modCal | apply Keeps.calEnd | apply Keeps.cond))
theorem Keeps.execPipCalSlot (slot lateNs : Nat) (s : State) : KeepsOut s (Machine.execPipCalSlot slot lateNs s) := by
  unfold Machine.execPipCalSlot
  repeat' (first | with_reducible exact Keeps.refl _ | with_reducible assumption | with_reducible apply KeepsOut.running | intro _ | with_reducible apply Keeps.ite | split | (with_reducible first | apply Keeps.modCal | apply Keeps.fireAction | apply Keeps.cond))
theorem Keeps.execCalSlotEnd  (s : State) : KeepsOut s (Machine.execCalSlotEnd s) := by
  unfold Machine.execCalSlotEnd
  repeat' (first | with_reducible exact Keeps.refl _ | with_reducible assumption | with_reducible apply KeepsOut.inBlock | intro _ | with_reducible apply Keeps.ite | split | (with_reducible first | apply Keeps.modCal | apply Keeps.cond))
theorem Keeps.calWritten {a s : State} (h : Keeps a s) (p : Fin 4) : Keeps a (Machine.State.calWritten s p) := by
  unfold Machine.State.calWritten
  repeat' (first | with_reducible exact h | with_reducible assumption | intro _ | with_reducible apply Keeps.ite | split | (with_reducible first | apply Keeps.wr | apply Keeps.modCal | apply Keeps.modCalPath))
theorem Keeps.calHeld {a s : State} (h : Keeps a s) : Keeps a (Machine.State.calHeld s) := by
  unfold Machine.State.calHeld
  repeat' (first | with_reducible exact h | with_reducible assumption | intro _ | with_reducible apply Keeps.ite | split | (with_reducible first | apply Keeps.modCal | apply Keeps.finish | apply Keeps.forEach))

end Sys2Proof.Machine
end

