-- ==== Sys2Proof/Laws/Keeps/Bcst.lean ====
section
/-! SUPPORT. Bcst: what every operation and meaning of this file keeps. -/

namespace Sys2Proof.Machine

theorem Keeps.rdsRec {a s : State} (h : Keeps a s) (i : Fin 4) (kind : Nat) (ws : List Word) : Keeps a (Machine.State.rdsRec s i kind ws) := by
  unfold Machine.State.rdsRec
  repeat' (first | with_reducible exact h | with_reducible assumption | intro _ | with_reducible apply Keeps.ite | split | (with_reducible first | apply Keeps.record | apply Keeps.cond))
theorem Keeps.dabRec {a s : State} (h : Keeps a s) (i : Fin 4) (kind : Nat) (ws : List Word) : Keeps a (Machine.State.dabRec s i kind ws) := by
  unfold Machine.State.dabRec
  repeat' (first | with_reducible exact h | with_reducible assumption | intro _ | with_reducible apply Keeps.ite | split | (with_reducible first | apply Keeps.record | apply Keeps.cond))
theorem Keeps.switchRec {a s : State} (h : Keeps a s) (i : Fin 4) (w : Switch) : Keeps a (Machine.State.switchRec s i w) := by
  unfold Machine.State.switchRec
  repeat' (first | with_reducible exact h | with_reducible assumption | intro _ | with_reducible apply Keeps.ite | split | (with_reducible first | apply Keeps.record | apply Keeps.cond))
theorem Keeps.selectEnds {a s : State} (h : Keeps a s) (i : Fin 4) (status : Nat) : Keeps a (Machine.State.selectEnds s i status) := by
  unfold Machine.State.selectEnds
  repeat' (first | with_reducible exact h | with_reducible assumption | intro _ | with_reducible apply Keeps.ite | split | (with_reducible first | apply Keeps.modSrc | apply Keeps.complete) | extract_lets)
theorem Keeps.selectNow {a s : State} (h : Keeps a s) (d : Desc) : Keeps a (Machine.State.selectNow s d) := by
  unfold Machine.State.selectNow
  repeat' (first | with_reducible exact h | with_reducible assumption | intro _ | with_reducible apply Keeps.ite | split | (with_reducible first | apply Keeps.modBcst | apply Keeps.modSrc | apply Keeps.finish | apply Keeps.bad | apply Keeps.commit | apply Keeps.finishOpt | apply Keeps.loRequest | apply Keeps.cond))
theorem Keeps.execBcstSelect (d : Desc) (s : State) : KeepsOut s (Machine.execBcstSelect d s) := by
  unfold Machine.execBcstSelect
  repeat' (first | with_reducible exact Keeps.refl _ | with_reducible assumption | with_reducible apply KeepsOut.running | intro _ | with_reducible apply Keeps.ite | split | (with_reducible first | apply Keeps.modSrc | apply Keeps.finish | apply Keeps.atMember | apply Keeps.needBlk | apply Keeps.selectNow | apply Keeps.idle))
theorem Keeps.serveWaits {a s : State} (h : Keeps a s) (i : Fin 4) : Keeps a (Machine.State.serveWaits s i) := by
  unfold Machine.State.serveWaits
  repeat' (first | with_reducible exact h | with_reducible assumption | intro _ | with_reducible apply Keeps.ite | split | (with_reducible first | apply Keeps.modSrc | apply Keeps.selectNow | apply Keeps.forEach))
theorem Keeps.bcstCancel {a s : State} (h : Keeps a s) (d : Desc) : Keeps a (Machine.State.bcstCancel s d) := by
  unfold Machine.State.bcstCancel
  repeat' (first | with_reducible exact h | with_reducible assumption | intro _ | with_reducible apply Keeps.ite | split | (with_reducible first | apply Keeps.modSrc | apply Keeps.forEach))
theorem Keeps.execBcstSelectTimeout (source : Fin 4) (s : State) : KeepsOut s (Machine.execBcstSelectTimeout source s) := by
  unfold Machine.execBcstSelectTimeout
  repeat' (first | with_reducible exact Keeps.refl _ | with_reducible assumption | with_reducible apply KeepsOut.inBlock | intro _ | with_reducible apply Keeps.ite | split | (with_reducible first | apply Keeps.selectEnds))
theorem Keeps.selectFm {a s : State} (h : Keeps a s) (i : Fin 4) : Keeps a (Machine.State.selectFm s i) := by
  unfold Machine.State.selectFm
  repeat' (first | with_reducible exact h | with_reducible assumption | intro _ | with_reducible apply Keeps.ite | split | (with_reducible first | apply Keeps.selectEnds))
theorem Keeps.startSwitch {a s : State} (h : Keeps a s) (i : Fin 4) (w : Switch) : Keeps a (Machine.State.startSwitch s i w) := by
  unfold Machine.State.startSwitch
  repeat' (first | with_reducible exact h | with_reducible assumption | intro _ | with_reducible apply Keeps.ite | split | (with_reducible first | apply Keeps.modSrc))
theorem Keeps.returnSwitch {a s : State} (h : Keeps a s) (i : Fin 4) (w : Switch) : Keeps a (Machine.State.returnSwitch s i w) := by
  unfold Machine.State.returnSwitch
  repeat' (first | with_reducible exact h | with_reducible assumption | intro _ | with_reducible apply Keeps.ite | split | (with_reducible first | apply Keeps.modBcst | apply Keeps.startSwitch))
theorem Keeps.srcFrame {a s : State} (h : Keeps a s) (i : Fin 4) : Keeps a (Machine.State.srcFrame s i) := by
  unfold Machine.State.srcFrame
  repeat' (first | with_reducible exact h | with_reducible assumption | intro _ | with_reducible apply Keeps.ite | split | (with_reducible first | apply Keeps.modBcst | apply Keeps.modSrc | apply Keeps.loRequest | apply Keeps.serveWaits | apply Keeps.cond) | extract_lets)
theorem Keeps.audioReady {a s : State} (h : Keeps a s) (i : Fin 4) : Keeps a (Machine.State.audioReady s i) := by
  unfold Machine.State.audioReady
  repeat' (first | with_reducible exact h | with_reducible assumption | intro _ | with_reducible apply Keeps.ite | split | (with_reducible first | apply Keeps.modSrc | apply Keeps.switchRec | apply Keeps.cond) | extract_lets)
theorem Keeps.execFmAudioReady (source : Fin 4) (s : State) : KeepsOut s (Machine.execFmAudioReady source s) := by
  unfold Machine.execFmAudioReady
  repeat' (first | with_reducible exact Keeps.refl _ | with_reducible assumption | with_reducible apply KeepsOut.inBlock | intro _ | with_reducible apply Keeps.ite | split | (with_reducible first | apply Keeps.selectFm | apply Keeps.audioReady | apply Keeps.cond))
theorem Keeps.execDabAudioReady (source : Fin 4) (s : State) : KeepsOut s (Machine.execDabAudioReady source s) := by
  unfold Machine.execDabAudioReady
  repeat' (first | with_reducible exact Keeps.refl _ | with_reducible assumption | with_reducible apply KeepsOut.inBlock | intro _ | with_reducible apply Keeps.ite | split | (with_reducible first | apply Keeps.audioReady | apply Keeps.cond))
theorem Keeps.execSwitchConfirmTimeout (source : Fin 4) (s : State) : KeepsOut s (Machine.execSwitchConfirmTimeout source s) := by
  unfold Machine.execSwitchConfirmTimeout
  repeat' (first | with_reducible exact Keeps.refl _ | with_reducible assumption | with_reducible apply KeepsOut.inBlock | intro _ | with_reducible apply Keeps.ite | split | (with_reducible first | apply Keeps.modSrc | apply Keeps.returnSwitch))
theorem Keeps.execAfBarExpiry (source : Fin 4) (mode freq : Nat) (s : State) : KeepsOut s (Machine.execAfBarExpiry source mode freq s) := by
  unfold Machine.execAfBarExpiry
  repeat' (first | with_reducible exact Keeps.refl _ | with_reducible assumption | with_reducible apply KeepsOut.inBlock | intro _ | with_reducible apply Keeps.ite | split | (with_reducible first | apply Keeps.modBcst))
theorem Keeps.fmTa {a s : State} (h : Keeps a s) (i : Fin 4) : Keeps a (Machine.State.fmTa s i) := by
  unfold Machine.State.fmTa
  repeat' (first | with_reducible exact h | with_reducible assumption | intro _ | with_reducible apply Keeps.ite | split | (with_reducible first | apply Keeps.modSrc | apply Keeps.switchRec))
theorem Keeps.seenPi {a s : State} (h : Keeps a s) (i : Fin 4) (pi : Nat) : Keeps a (Machine.State.seenPi s i pi) := by
  unfold Machine.State.seenPi
  repeat' (first | with_reducible exact h | with_reducible assumption | intro _ | with_reducible apply Keeps.ite | split | (with_reducible first | apply Keeps.modSrc | apply Keeps.selectFm | apply Keeps.returnSwitch))
theorem Keeps.modCand {a s : State} (h : Keeps a s) (mode freq id : Nat) (f : Candid → Candid) : Keeps a (Machine.State.modCand s mode freq id f) := by
  unfold Machine.State.modCand
  repeat' (first | with_reducible exact h | with_reducible assumption | intro _ | with_reducible apply Keeps.ite | split | (with_reducible first | apply Keeps.modBcst))
theorem Keeps.execRdsBlock (path : Fin 4) (freq : Nat) (kind : Fin 5) (info corr : Nat) (s : State) : KeepsOut s (Machine.execRdsBlock path freq kind info corr s) := by
  unfold Machine.execRdsBlock
  repeat' (first | with_reducible exact Keeps.refl _ | with_reducible assumption | with_reducible apply KeepsOut.inBlock | intro _ | with_reducible apply Keeps.ite | split | (with_reducible first | apply Keeps.modBcst | apply Keeps.modSrc | apply Keeps.rdsRec | apply Keeps.fmTa | apply Keeps.seenPi | apply Keeps.modCand | apply Keeps.cond | apply Keeps.forEach))
theorem Keeps.modDab {a s : State} (h : Keeps a s) (p : Fin 4) (f : Dab → Dab) : Keeps a (Machine.State.modDab s p f) := by
  unfold Machine.State.modDab
  repeat' (first | with_reducible exact h | with_reducible assumption | intro _ | with_reducible apply Keeps.ite | split | (with_reducible first | apply Keeps.modBcst))
theorem Keeps.dabLost {a s : State} (h : Keeps a s) (p : Fin 4) : Keeps a (Machine.State.dabLost s p) := by
  unfold Machine.State.dabLost
  repeat' (first | with_reducible exact h | with_reducible assumption | intro _ | with_reducible apply Keeps.ite | split | (with_reducible first | apply Keeps.dabRec | apply Keeps.modDab | apply Keeps.forEach))
theorem Keeps.execDabNullSymbol (path : Fin 4) (s : State) : KeepsOut s (Machine.execDabNullSymbol path s) := by
  unfold Machine.execDabNullSymbol
  repeat' (first | with_reducible exact Keeps.refl _ | with_reducible assumption | with_reducible apply KeepsOut.inBlock | intro _ | with_reducible apply Keeps.ite | split | (with_reducible first | apply Keeps.dabRec | apply Keeps.modDab | apply Keeps.cond | apply Keeps.forEach))
theorem Keeps.execDabNullSymbolAbsent (path : Fin 4) (s : State) : KeepsOut s (Machine.execDabNullSymbolAbsent path s) := by
  unfold Machine.execDabNullSymbolAbsent
  repeat' (first | with_reducible exact Keeps.refl _ | with_reducible assumption | with_reducible apply KeepsOut.inBlock | intro _ | with_reducible apply Keeps.ite | split | (with_reducible first | apply Keeps.modDab | apply Keeps.dabLost | apply Keeps.cond))
theorem Keeps.annSwitch {s₀ s : State} (h : Keeps s₀ s) (i : Fin 4) (a : Option Announce) : Keeps s₀ (Machine.State.annSwitch s i a) := by
  unfold Machine.State.annSwitch
  repeat' (first | with_reducible exact h | with_reducible assumption | intro _ | with_reducible apply Keeps.ite | split | (with_reducible first | apply Keeps.modSrc | apply Keeps.dabRec))
theorem Keeps.announce {a s : State} (h : Keeps a s) (i : Fin 4) (cluster flags subch : Nat) : Keeps a (Machine.State.announce s i cluster flags subch) := by
  unfold Machine.State.announce
  repeat' (first | with_reducible exact h | with_reducible assumption | intro _ | with_reducible apply Keeps.ite | split | (with_reducible first | apply Keeps.modSrc | apply Keeps.annSwitch | apply Keeps.idle) | extract_lets)
theorem Keeps.execAnnouncementTimeout (source : Fin 4) (s : State) : KeepsOut s (Machine.execAnnouncementTimeout source s) := by
  unfold Machine.execAnnouncementTimeout
  repeat' (first | with_reducible exact Keeps.refl _ | with_reducible assumption | with_reducible apply KeepsOut.inBlock | intro _ | with_reducible apply Keeps.ite | split | (with_reducible first | apply Keeps.annSwitch | apply Keeps.cond))
theorem Keeps.dabFact {a s : State} (h : Keeps a s) (i : Fin 4) (f : DabFact) : Keeps a (Machine.State.dabFact s i f) := by
  unfold Machine.State.dabFact
  repeat' (first | with_reducible exact h | with_reducible assumption | intro _ | with_reducible apply Keeps.ite | split | (with_reducible first | apply Keeps.modSrc | apply Keeps.dabRec | apply Keeps.announce))
theorem Keeps.selectDab {a s : State} (h : Keeps a s) (i : Fin 4) : Keeps a (Machine.State.selectDab s i) := by
  unfold Machine.State.selectDab
  repeat' (first | with_reducible exact h | with_reducible assumption | intro _ | with_reducible apply Keeps.ite | split | (with_reducible first | apply Keeps.complete | apply Keeps.selectEnds))
theorem Keeps.timeAlign {a s : State} (h : Keeps a s) (p : Fin 4) (facts : List DabFact) : Keeps a (Machine.State.timeAlign s p facts) := by
  unfold Machine.State.timeAlign
  repeat' (first | with_reducible exact h | with_reducible assumption | intro _ | with_reducible apply Keeps.ite | split | (with_reducible first | apply Keeps.pipJump | apply Keeps.cond | apply Keeps.forEach))
theorem Keeps.execDabFrame (path : Fin 4) (fibs : List Bool) (audBad audAll : Nat) (facts : List DabFact) (s : State) : KeepsOut s (Machine.execDabFrame path fibs audBad audAll facts s) := by
  unfold Machine.execDabFrame
  repeat' (first | with_reducible exact Keeps.refl _ | with_reducible assumption | with_reducible apply KeepsOut.inBlock | intro _ | with_reducible apply Keeps.ite | split | (with_reducible first | apply Keeps.modSrc | apply Keeps.bad | apply Keeps.modDab | apply Keeps.dabLost | apply Keeps.dabFact | apply Keeps.selectDab | apply Keeps.timeAlign | apply Keeps.cond | apply Keeps.forEach))
theorem Keeps.execDabReconfig (path : Fin 4) (cif : Nat) (services : List DabFact) (s : State) : KeepsOut s (Machine.execDabReconfig path cif services s) := by
  unfold Machine.execDabReconfig
  repeat' (first | with_reducible exact Keeps.refl _ | with_reducible assumption | with_reducible apply KeepsOut.inBlock | intro _ | with_reducible apply Keeps.ite | split | (with_reducible first | apply Keeps.modSrc | apply Keeps.dabRec | apply Keeps.modDab | apply Keeps.dabFact | apply Keeps.cond | apply Keeps.forEach))
theorem Keeps.execBcstFollow (d : Desc) (s : State) : KeepsOut s (Machine.execBcstFollow d s) := by
  unfold Machine.execBcstFollow
  repeat' (first | with_reducible exact Keeps.refl _ | with_reducible assumption | with_reducible apply KeepsOut.running | intro _ | with_reducible apply Keeps.ite | split | (with_reducible first | apply Keeps.modSrc | apply Keeps.finish | apply Keeps.bad | apply Keeps.commit | apply Keeps.atMember | apply Keeps.needBlk | apply Keeps.idle))
theorem Keeps.evaluate {a s : State} (h : Keeps a s) (i : Fin 4) : Keeps a (Machine.State.evaluate s i) := by
  unfold Machine.State.evaluate
  repeat' (first | with_reducible exact h | with_reducible assumption | intro _ | with_reducible apply Keeps.ite | split | (with_reducible first | apply Keeps.modSrc | apply Keeps.startSwitch | apply Keeps.idle) | extract_lets)
theorem Keeps.execFollowEvaluate  (s : State) : KeepsOut s (Machine.execFollowEvaluate s) := by
  unfold Machine.execFollowEvaluate
  repeat' (first | with_reducible exact Keeps.refl _ | with_reducible assumption | with_reducible apply KeepsOut.inBlock | intro _ | with_reducible apply Keeps.ite | split | (with_reducible first | apply Keeps.modBcst | apply Keeps.regionDone | apply Keeps.evaluate | apply Keeps.forEach))
theorem Keeps.execBcstMeterUpdate (meters : List BcstMeter) (s : State) : KeepsOut s (Machine.execBcstMeterUpdate meters s) := by
  unfold Machine.execBcstMeterUpdate
  repeat' (first | with_reducible exact Keeps.refl _ | with_reducible assumption | with_reducible apply KeepsOut.inBlock | intro _ | with_reducible apply Keeps.ite | split | (with_reducible first | apply Keeps.modSrc | apply Keeps.modCand | apply Keeps.cond | apply Keeps.forEach))
theorem Keeps.execDabProbe (source : Fin 4) (freq id scids : Nat) (s : State) : KeepsOut s (Machine.execDabProbe source freq id scids s) := by
  unfold Machine.execDabProbe
  repeat' (first | with_reducible exact Keeps.refl _ | with_reducible assumption | with_reducible apply KeepsOut.inBlock | intro _ | with_reducible apply Keeps.ite | split | (with_reducible first | apply Keeps.modBcst | apply Keeps.modSrc | apply Keeps.loRequest | apply Keeps.modDab | apply Keeps.cond))
theorem Keeps.execDabProbeEnd (qual : Nat) (s : State) : KeepsOut s (Machine.execDabProbeEnd qual s) := by
  unfold Machine.execDabProbeEnd
  repeat' (first | with_reducible exact Keeps.refl _ | with_reducible assumption | with_reducible apply KeepsOut.inBlock | intro _ | with_reducible apply Keeps.ite | split | (with_reducible first | apply Keeps.modBcst | apply Keeps.loRequest | apply Keeps.modCand | apply Keeps.modDab | apply Keeps.cond))
theorem Keeps.execDatacastSubscribe (d : Desc) (s : State) : KeepsOut s (Machine.execDatacastSubscribe d s) := by
  unfold Machine.execDatacastSubscribe
  repeat' (first | with_reducible exact Keeps.refl _ | with_reducible assumption | with_reducible apply KeepsOut.running | intro _ | with_reducible apply Keeps.ite | split | (with_reducible first | apply Keeps.modBcst | apply Keeps.complete | apply Keeps.finish | apply Keeps.bad | apply Keeps.commit | apply Keeps.taking | apply Keeps.needBlk))
theorem Keeps.execPipEdgeDab (ns cycle : Nat) (s : State) : KeepsOut s (Machine.execPipEdgeDab ns cycle s) := by
  unfold Machine.execPipEdgeDab
  repeat' (first | with_reducible exact Keeps.refl _ | with_reducible assumption | with_reducible apply KeepsOut.inBlock | intro _ | with_reducible apply Keeps.ite | split | (with_reducible first | apply Keeps.pipEdge | apply Keeps.cond))
theorem Keeps.execPipEdgeRds (ns cycle : Nat) (s : State) : KeepsOut s (Machine.execPipEdgeRds ns cycle s) := by
  unfold Machine.execPipEdgeRds
  repeat' (first | with_reducible exact Keeps.refl _ | with_reducible assumption | with_reducible apply KeepsOut.inBlock | intro _ | with_reducible apply Keeps.ite | split | (with_reducible first | apply Keeps.pipEdge | apply Keeps.cond))
theorem Keeps.bcstTile {a s : State} (h : Keeps a s) : Keeps a (Machine.State.bcstTile s) := by
  unfold Machine.State.bcstTile
  repeat' (first | with_reducible exact h | with_reducible assumption | intro _ | with_reducible apply Keeps.ite | split | (with_reducible first | apply Keeps.modSrc | apply Keeps.forEach))
theorem Keeps.bcstHeld {a s : State} (h : Keeps a s) : Keeps a (Machine.State.bcstHeld s) := by
  unfold Machine.State.bcstHeld
  repeat' (first | with_reducible exact h | with_reducible assumption | intro _ | with_reducible apply Keeps.ite | split | (with_reducible first | apply Keeps.modBcst | apply Keeps.modSrc | apply Keeps.finish | apply Keeps.regionDone | apply Keeps.forEach))

end Sys2Proof.Machine
end

