-- ==== Sys2Proof/Laws/Keeps/Flags.lean ====
section
/-! SUPPORT. Flags: what every operation and meaning of this file keeps. -/

namespace Sys2Proof.Machine

theorem Keeps.accErr {a s : State} (h : Keeps a s) (f : FieldRef) (cause : Nat) (p : Port) (write : Bool) (off : Nat) : Keeps a (Machine.State.accErr s f cause p write off) := by
  unfold Machine.State.accErr
  repeat' (first | with_reducible exact h | with_reducible assumption | intro _ | with_reducible apply Keeps.ite | split | (with_reducible first | apply Keeps.wr | apply Keeps.flag))
theorem Keeps.rsvdAcc {a s : State} (h : Keeps a s) (p : Port) (write : Bool) (off : Nat) : Keeps a (Machine.State.rsvdAcc s p write off) := by
  unfold Machine.State.rsvdAcc
  repeat' (first | with_reducible exact h | with_reducible assumption | intro _ | with_reducible apply Keeps.ite | split | (with_reducible first | apply Keeps.accErr))
theorem Keeps.encErr {a s : State} (h : Keeps a s) (p : Port) (off : Nat) : Keeps a (Machine.State.encErr s p off) := by
  unfold Machine.State.encErr
  repeat' (first | with_reducible exact h | with_reducible assumption | intro _ | with_reducible apply Keeps.ite | split | (with_reducible first | apply Keeps.accErr))
theorem Keeps.ringErr {a s : State} (h : Keeps a s) (f : FieldRef) (n : Nat) : Keeps a (Machine.State.ringErr s f n) := by
  unfold Machine.State.ringErr
  repeat' (first | with_reducible exact h | with_reducible assumption | intro _ | with_reducible apply Keeps.ite | split | (with_reducible first | apply Keeps.put | apply Keeps.flag))

end Sys2Proof.Machine
end

