-- ==== Sys2Proof/Laws/Keeps/Tag.lean ====
section
/-! SUPPORT. Tag: what every operation and meaning of this file keeps. -/

namespace Sys2Proof.Machine

theorem Keeps.tellOthers {a s : State} (h : Keeps a s) (code : Nat) (ws : List Word) : Keeps a (Machine.State.tellOthers s code ws) := by
  unfold Machine.State.tellOthers
  repeat' (first | with_reducible exact h | with_reducible assumption | intro _ | with_reducible apply Keeps.ite | split | (with_reducible first | apply Keeps.sendReq | apply Keeps.forEach))
theorem Keeps.addAck {a s : State} (h : Keeps a s) (band channel mac : Nat) : Keeps a (Machine.State.addAck s band channel mac) := by
  unfold Machine.State.addAck
  repeat' (first | with_reducible exact h | with_reducible assumption | intro _ | with_reducible apply Keeps.ite | split | (with_reducible first | apply Keeps.modTag))
theorem Keeps.ackAll {a s : State} (h : Keeps a s) (c : Candidate) : Keeps a (Machine.State.ackAll s c) := by
  unfold Machine.State.ackAll
  repeat' (first | with_reducible exact h | with_reducible assumption | intro _ | with_reducible apply Keeps.ite | split | (with_reducible first | apply Keeps.tellOthers | apply Keeps.addAck))
theorem Keeps.execAckMacExpiry (band channel mac : Nat) (s : State) : KeepsOut s (Machine.execAckMacExpiry band channel mac s) := by
  unfold Machine.execAckMacExpiry
  repeat' (first | with_reducible exact Keeps.refl _ | with_reducible assumption | with_reducible apply KeepsOut.inBlock | intro _ | with_reducible apply Keeps.ite | split | (with_reducible first | apply Keeps.modTag))
theorem Keeps.modSets {a s : State} (h : Keeps a s) (l : List Nat) (f : OpenSet → OpenSet) : Keeps a (Machine.State.modSets s l f) := by
  unfold Machine.State.modSets
  repeat' (first | with_reducible exact h | with_reducible assumption | intro _ | with_reducible apply Keeps.ite | split | (with_reducible first | apply Keeps.modTag))
theorem Keeps.execTagBurst (entry mode errors : Nat) (bytes : List Byte) (rssi : Int) (beam cycle : Nat) (s : State) : KeepsOut s (Machine.execTagBurst entry mode errors bytes rssi beam cycle s) := by
  unfold Machine.execTagBurst
  repeat' (first | with_reducible exact Keeps.refl _ | with_reducible assumption | with_reducible apply KeepsOut.inBlock | intro _ | with_reducible apply Keeps.ite | split | (with_reducible first | apply Keeps.modTelem | apply Keeps.modTag | apply Keeps.modSvc | apply Keeps.sendReq | apply Keeps.modSets | apply Keeps.cond))
theorem Keeps.takeBeacon {a s : State} (h : Keeps a s) (d : Option Desc) (words : List Word) (sends cost : Nat) : Keeps a (Machine.State.takeBeacon s d words sends cost) := by
  unfold Machine.State.takeBeacon
  repeat' (first | with_reducible exact h | with_reducible assumption | intro _ | with_reducible apply Keeps.ite | split | (with_reducible first | apply Keeps.modTag | apply Keeps.putDuty))
theorem Keeps.execTagBeacon (d : Desc) (otherHears : Bool) (s : State) : KeepsOut s (Machine.execTagBeacon d otherHears s) := by
  unfold Machine.execTagBeacon
  repeat' (first | with_reducible exact Keeps.refl _ | with_reducible assumption | with_reducible apply KeepsOut.running | intro _ | with_reducible apply Keeps.ite | split | (with_reducible first | apply Keeps.complete | apply Keeps.finish | apply Keeps.bad | apply Keeps.atMember | apply Keeps.needBlk | apply Keeps.takeBeacon | apply Keeps.idle) | extract_lets)
theorem Keeps.execPipBeacon (slot lateNs : Nat) (otherHears : Bool) (s : State) : KeepsOut s (Machine.execPipBeacon slot lateNs otherHears s) := by
  unfold Machine.execPipBeacon
  repeat' (first | with_reducible exact Keeps.refl _ | with_reducible assumption | with_reducible apply KeepsOut.running | intro _ | with_reducible apply Keeps.ite | split | (with_reducible first | apply Keeps.incSat | apply Keeps.fireAction | apply Keeps.takeBeacon | apply Keeps.cond))
theorem Keeps.modCur {a s : State} (h : Keeps a s) (f : BeaconReq → BeaconReq) : Keeps a (Machine.State.modCur s f) := by
  unfold Machine.State.modCur
  repeat' (first | with_reducible exact h | with_reducible assumption | intro _ | with_reducible apply Keeps.ite | split | (with_reducible first | apply Keeps.modTag))
theorem Keeps.curEnds {a s : State} (h : Keeps a s) (r : BeaconReq → Result) : Keeps a (Machine.State.curEnds s r) := by
  unfold Machine.State.curEnds
  repeat' (first | with_reducible exact h | with_reducible assumption | intro _ | with_reducible apply Keeps.ite | split | (with_reducible first | apply Keeps.incSat | apply Keeps.modTag | apply Keeps.finishOpt | apply Keeps.putDuty | apply Keeps.cond))
theorem Keeps.execBeaconServe  (s : State) : KeepsOut s (Machine.execBeaconServe s) := by
  unfold Machine.execBeaconServe
  repeat' (first | with_reducible exact Keeps.refl _ | with_reducible assumption | with_reducible apply KeepsOut.inBlock | intro _ | with_reducible apply Keeps.ite | split | (with_reducible first | apply Keeps.modTag | apply Keeps.serveEnds | apply Keeps.loRequest | apply Keeps.curEnds | apply Keeps.cond) | extract_lets)
theorem Keeps.lbtBoundary {a s : State} (h : Keeps a s) : Keeps a (Machine.State.lbtBoundary s) := by
  unfold Machine.State.lbtBoundary
  repeat' (first | with_reducible exact h | with_reducible assumption | intro _ | with_reducible apply Keeps.ite | split | (with_reducible first | apply Keeps.sendReq | apply Keeps.modCur | apply Keeps.cond) | extract_lets)
theorem Keeps.execLbtJudge (power count : Nat) (s : State) : KeepsOut s (Machine.execLbtJudge power count s) := by
  unfold Machine.execLbtJudge
  repeat' (first | with_reducible exact Keeps.refl _ | with_reducible assumption | with_reducible apply KeepsOut.inBlock | intro _ | with_reducible apply Keeps.ite | split | (with_reducible first | apply Keeps.draw | apply Keeps.modCur | apply Keeps.curEnds | apply Keeps.cond))
theorem Keeps.execLbtRetryWait  (s : State) : KeepsOut s (Machine.execLbtRetryWait s) := by
  unfold Machine.execLbtRetryWait
  repeat' (first | with_reducible exact Keeps.refl _ | with_reducible assumption | with_reducible apply KeepsOut.inBlock | intro _ | with_reducible apply Keeps.ite | split | (with_reducible first | apply Keeps.modCur))
theorem Keeps.execTxGrant  (s : State) : KeepsOut s (Machine.execTxGrant s) := by
  unfold Machine.execTxGrant
  repeat' (first | with_reducible exact Keeps.refl _ | with_reducible assumption | with_reducible apply KeepsOut.inBlock | intro _ | with_reducible apply Keeps.ite | split | (with_reducible first | apply Keeps.putB | apply Keeps.modRadio | apply Keeps.modTag | apply Keeps.commit | apply Keeps.setLoState | apply Keeps.putDuty | apply Keeps.loRequest | apply Keeps.blank | apply Keeps.tellOthers | apply Keeps.cond))
theorem Keeps.execImplicitWindowOpen (chan mode : Nat) (mine : Bool) (s : State) : KeepsOut s (Machine.execImplicitWindowOpen chan mode mine s) := by
  unfold Machine.execImplicitWindowOpen
  repeat' (first | with_reducible exact Keeps.refl _ | with_reducible assumption | with_reducible apply KeepsOut.inBlock | intro _ | with_reducible apply Keeps.ite | split | (with_reducible first | apply Keeps.modTag | apply Keeps.cond))
theorem Keeps.execImplicitWindowClose (chan mode : Nat) (mine : Bool) (s : State) : KeepsOut s (Machine.execImplicitWindowClose chan mode mine s) := by
  unfold Machine.execImplicitWindowClose
  repeat' (first | with_reducible exact Keeps.refl _ | with_reducible assumption | with_reducible apply KeepsOut.inBlock | intro _ | with_reducible apply Keeps.ite | split | (with_reducible first | apply Keeps.modTag))
theorem Keeps.execBeaconDecision (crc accepted : Nat) (s : State) : KeepsOut s (Machine.execBeaconDecision crc accepted s) := by
  unfold Machine.execBeaconDecision
  repeat' (first | with_reducible exact Keeps.refl _ | with_reducible assumption | with_reducible apply KeepsOut.inBlock | intro _ | with_reducible apply Keeps.ite | split | (with_reducible first | apply Keeps.modTag | apply Keeps.endBeacon))
theorem Keeps.execBeaconRepeat (d : Desc) (s : State) : KeepsOut s (Machine.execBeaconRepeat d s) := by
  unfold Machine.execBeaconRepeat
  repeat' (first | with_reducible exact Keeps.refl _ | with_reducible assumption | with_reducible apply KeepsOut.inBlock | intro _ | with_reducible apply Keeps.ite | split | (with_reducible first | apply Keeps.modTag))
theorem Keeps.execDutyWindowTick  (s : State) : KeepsOut s (Machine.execDutyWindowTick s) := by
  unfold Machine.execDutyWindowTick
  repeat' (first | with_reducible exact Keeps.refl _ | with_reducible assumption | with_reducible apply KeepsOut.running | intro _ | with_reducible apply Keeps.ite | split | (with_reducible first | apply Keeps.modTag | apply Keeps.putDuty | apply Keeps.cond))
theorem Keeps.beaconCancel {a s : State} (h : Keeps a s) (d : Desc) : Keeps a (Machine.State.beaconCancel s d) := by
  unfold Machine.State.beaconCancel
  repeat' (first | with_reducible exact h | with_reducible assumption | intro _ | with_reducible apply Keeps.ite | split | (with_reducible first | apply Keeps.modTag | apply Keeps.endBeacon | apply Keeps.modCur) | extract_lets)
theorem Keeps.closeSets {a s : State} (h : Keeps a s) (p : OpenSet → Bool) (status : Nat) : Keeps a (Machine.State.closeSets s p status) := by
  unfold Machine.State.closeSets
  repeat' (first | with_reducible exact h | with_reducible assumption | intro _ | with_reducible apply Keeps.ite | split | (with_reducible first | apply Keeps.modTag | apply Keeps.partDone | apply Keeps.forEach))
theorem Keeps.execPipWinOpen (slot lateNs : Nat) (s : State) : KeepsOut s (Machine.execPipWinOpen slot lateNs s) := by
  unfold Machine.execPipWinOpen
  repeat' (first | with_reducible exact Keeps.refl _ | with_reducible assumption | with_reducible apply KeepsOut.running | intro _ | with_reducible apply Keeps.ite | split | (with_reducible first | apply Keeps.modTag | apply Keeps.fireAction | apply Keeps.cond))
theorem Keeps.execPipWinClose (slot lateNs : Nat) (s : State) : KeepsOut s (Machine.execPipWinClose slot lateNs s) := by
  unfold Machine.execPipWinClose
  repeat' (first | with_reducible exact Keeps.refl _ | with_reducible assumption | with_reducible apply KeepsOut.running | intro _ | with_reducible apply Keeps.ite | split | (with_reducible first | apply Keeps.fireAction | apply Keeps.tellOthers | apply Keeps.closeSets | apply Keeps.cond))
theorem Keeps.execTagListen (d : Desc) (s : State) : KeepsOut s (Machine.execTagListen d s) := by
  unfold Machine.execTagListen
  repeat' (first | with_reducible exact Keeps.refl _ | with_reducible assumption | with_reducible apply KeepsOut.running | intro _ | with_reducible apply Keeps.ite | split | (with_reducible first | apply Keeps.modTag | apply Keeps.finish | apply Keeps.bad | apply Keeps.taking | apply Keeps.laceAll | apply Keeps.needBlk | apply Keeps.cond))
theorem Keeps.setCloses {a s : State} (h : Keeps a s) (n : Nat) : Keeps a (Machine.State.setCloses s n) := by
  unfold Machine.State.setCloses
  repeat' (first | with_reducible exact h | with_reducible assumption | intro _ | with_reducible apply Keeps.ite | split | (with_reducible first | apply Keeps.modSets))
theorem Keeps.execTagListenClose (d : Desc) (s : State) : KeepsOut s (Machine.execTagListenClose d s) := by
  unfold Machine.execTagListenClose
  repeat' (first | with_reducible exact Keeps.refl _ | with_reducible assumption | with_reducible apply KeepsOut.running | intro _ | with_reducible apply Keeps.ite | split | (with_reducible first | apply Keeps.finish | apply Keeps.taking | apply Keeps.needBlk | apply Keeps.tellOthers | apply Keeps.setCloses | apply Keeps.cond))
theorem Keeps.execTagListenDurationEnd (set : Nat) (s : State) : KeepsOut s (Machine.execTagListenDurationEnd set s) := by
  unfold Machine.execTagListenDurationEnd
  repeat' (first | with_reducible exact Keeps.refl _ | with_reducible assumption | with_reducible apply KeepsOut.inBlock | intro _ | with_reducible apply Keeps.ite | split | (with_reducible first | apply Keeps.setCloses))
theorem Keeps.listenCancel {a s : State} (h : Keeps a s) (d : Desc) : Keeps a (Machine.State.listenCancel s d) := by
  unfold Machine.State.listenCancel
  repeat' (first | with_reducible exact h | with_reducible assumption | intro _ | with_reducible apply Keeps.ite | split | (with_reducible first | apply Keeps.modTag | apply Keeps.modStarted | apply Keeps.finish))
theorem Keeps.planBoundary {a s : State} (h : Keeps a s) : Keeps a (Machine.State.planBoundary s) := by
  unfold Machine.State.planBoundary
  repeat' (first | with_reducible exact h | with_reducible assumption | intro _ | with_reducible apply Keeps.ite | split | (with_reducible first | apply Keeps.modTag | apply Keeps.partDone))
theorem Keeps.tagBoundary {a s : State} (h : Keeps a s) : Keeps a (Machine.State.tagBoundary s) := by
  unfold Machine.State.tagBoundary
  repeat' (first | with_reducible exact h | with_reducible assumption | intro _ | with_reducible apply Keeps.ite | split | (with_reducible first | apply Keeps.modTag | apply Keeps.commit | apply Keeps.partDone | apply Keeps.lbtBoundary | apply Keeps.closeSets | apply Keeps.planBoundary | apply Keeps.cond | apply Keeps.forEach))
theorem Keeps.countCandidate {a s : State} (h : Keeps a s) (c : Candidate) (accepted : Bool) : Keeps a (Machine.State.countCandidate s c accepted) := by
  unfold Machine.State.countCandidate
  repeat' (first | with_reducible exact h | with_reducible assumption | intro _ | with_reducible apply Keeps.ite | split | (with_reducible first | apply Keeps.modSets | apply Keeps.modCur | apply Keeps.cond))
theorem Keeps.tagHeld {a s : State} (h : Keeps a s) : Keeps a (Machine.State.tagHeld s) := by
  unfold Machine.State.tagHeld
  repeat' (first | with_reducible exact h | with_reducible assumption | intro _ | with_reducible apply Keeps.ite | split | (with_reducible first | apply Keeps.modTag | apply Keeps.partDone | apply Keeps.endBeacon | apply Keeps.sendEnds | apply Keeps.closeSets | apply Keeps.forEach))

end Sys2Proof.Machine
end

