-- ==== Sys2Proof/Laws/Keeps/Svc.lean ====
section
/-! SUPPORT. Svc: what every operation and meaning of this file keeps. -/

namespace Sys2Proof.Machine

theorem Keeps.setRoster {a s : State} (h : Keeps a s) (r : List (Nat × List Word)) : Keeps a (Machine.State.setRoster s r) := by
  unfold Machine.State.setRoster
  repeat' (first | with_reducible exact h | with_reducible assumption | intro _ | with_reducible apply Keeps.ite | split | (with_reducible first | apply Keeps.put | apply Keeps.modSvc))
theorem Keeps.putEntry {a s : State} (h : Keeps a s) (n : Nat) (e : List Word) : Keeps a (Machine.State.putEntry s n e) := by
  unfold Machine.State.putEntry
  repeat' (first | with_reducible exact h | with_reducible assumption | intro _ | with_reducible apply Keeps.ite | split | (with_reducible first | apply Keeps.setRoster))
theorem Keeps.drops {a s : State} (h : Keeps a s) : Keeps a (Machine.State.drops s) := by
  unfold Machine.State.drops
  repeat' (first | with_reducible exact h | with_reducible assumption | intro _ | with_reducible apply Keeps.ite | split | (with_reducible first | apply Keeps.modTelem))
theorem Keeps.setRecall {a s : State} (h : Keeps a s) (l : List RecallEntry) : Keeps a (Machine.State.setRecall s l) := by
  unfold Machine.State.setRecall
  repeat' (first | with_reducible exact h | with_reducible assumption | intro _ | with_reducible apply Keeps.ite | split | (with_reducible first | apply Keeps.put | apply Keeps.modSvc))
theorem Keeps.execCandidateReceive (c : Candidate) (s : State) : KeepsOut s (Machine.execCandidateReceive c s) := by
  unfold Machine.execCandidateReceive
  repeat' (first | with_reducible exact Keeps.refl _ | with_reducible assumption | with_reducible apply KeepsOut.running | intro _ | with_reducible apply Keeps.ite | split | (with_reducible first | apply Keeps.modSvc | apply Keeps.drops))
theorem Keeps.sighting {a s : State} (h : Keeps a s) (c : Candidate) (x : Sighting) (recalls : Bool) : Keeps a (Machine.State.sighting s c x recalls) := by
  unfold Machine.State.sighting
  repeat' (first | with_reducible exact h | with_reducible assumption | intro _ | with_reducible apply Keeps.ite | split | (with_reducible first | apply Keeps.postRec))
theorem Keeps.recallRec {a s : State} (h : Keeps a s) (c : Candidate) (number : Nat) (hits : List RecallEntry) : Keeps a (Machine.State.recallRec s c number hits) := by
  unfold Machine.State.recallRec
  repeat' (first | with_reducible exact h | with_reducible assumption | intro _ | with_reducible apply Keeps.ite | split | (with_reducible first | apply Keeps.postRec))
theorem Keeps.accepted {a s : State} (h : Keeps a s) (c : Candidate) (x : Sighting) (posts wasRecalled : Bool) : Keeps a (Machine.State.accepted s c x posts wasRecalled) := by
  unfold Machine.State.accepted
  repeat' (first | with_reducible exact h | with_reducible assumption | intro _ | with_reducible apply Keeps.ite | split | (with_reducible first | apply Keeps.ackAll | apply Keeps.countCandidate | apply Keeps.sighting | apply Keeps.recallRec | apply Keeps.cond))
theorem Keeps.judgeCandidate {a s : State} (h : Keeps a s) (c : Candidate) : Keeps a (Machine.State.judgeCandidate s c) := by
  unfold Machine.State.judgeCandidate
  repeat' (first | with_reducible exact h | with_reducible assumption | intro _ | with_reducible apply Keeps.ite | split | (with_reducible first | apply Keeps.modTelem | apply Keeps.blank | apply Keeps.countCandidate | apply Keeps.putEntry | apply Keeps.accepted) | extract_lets | dsimp only | dsimp +zetaDelta only)
theorem Keeps.execCandidateHandle (cut : Nat) (bad : Bool) (s : State) : KeepsOut s (Machine.execCandidateHandle cut bad s) := by
  unfold Machine.execCandidateHandle
  repeat' (first | with_reducible exact Keeps.refl _ | with_reducible assumption | with_reducible apply KeepsOut.running | intro _ | with_reducible apply Keeps.ite | split | (with_reducible first | apply Keeps.modSvc | apply Keeps.bad | apply Keeps.fault | apply Keeps.putEntry | apply Keeps.drops | apply Keeps.accepted | apply Keeps.judgeCandidate))
theorem Keeps.editStitch {a s : State} (h : Keeps a s) (d : Desc) (img : List Word) (stitch : Nat) : Keeps a (Machine.State.editStitch s d img stitch) := by
  unfold Machine.State.editStitch
  repeat' (first | with_reducible exact h | with_reducible assumption | intro _ | with_reducible apply Keeps.ite | split | (with_reducible first | apply Keeps.complete | apply Keeps.finish | apply Keeps.bad | apply Keeps.commit | apply Keeps.setRoster | apply Keeps.putEntry) | extract_lets | dsimp only | dsimp +zetaDelta only)
theorem Keeps.execRosterEdit (d : Desc) (stitch : Nat) (s : State) : KeepsOut s (Machine.execRosterEdit d stitch s) := by
  unfold Machine.execRosterEdit
  repeat' (first | with_reducible exact Keeps.refl _ | with_reducible assumption | with_reducible apply KeepsOut.running | intro _ | with_reducible apply Keeps.ite | split | (with_reducible first | apply Keeps.emit | apply Keeps.modSvc | apply Keeps.finish | apply Keeps.taking | apply Keeps.editStitch | apply Keeps.cond))
theorem Keeps.execRosterImageReadComplete (d : Desc) (image : Option (List Word)) (stitch : Nat) (s : State) : KeepsOut s (Machine.execRosterImageReadComplete d image stitch s) := by
  unfold Machine.execRosterImageReadComplete
  repeat' (first | with_reducible exact Keeps.refl _ | with_reducible assumption | with_reducible apply KeepsOut.running | intro _ | with_reducible apply Keeps.ite | split | (with_reducible first | apply Keeps.modSvc | apply Keeps.bad | apply Keeps.editStitch))
theorem Keeps.editCancel {a s : State} (h : Keeps a s) (d : Desc) : Keeps a (Machine.State.editCancel s d) := by
  unfold Machine.State.editCancel
  repeat' (first | with_reducible exact h | with_reducible assumption | intro _ | with_reducible apply Keeps.ite | split | (with_reducible first | apply Keeps.modSvc | apply Keeps.finish))
theorem Keeps.execRosterQuery (d : Desc) (bad : Option (Nat × Nat)) (s : State) : KeepsOut s (Machine.execRosterQuery d bad s) := by
  unfold Machine.execRosterQuery
  repeat' (first | with_reducible exact Keeps.refl _ | with_reducible assumption | with_reducible apply KeepsOut.running | intro _ | with_reducible apply Keeps.ite | split | (with_reducible first | apply Keeps.post | apply Keeps.complete | apply Keeps.finish | apply Keeps.bad | apply Keeps.commit | apply Keeps.taking | apply Keeps.cond | apply Keeps.forEach) | extract_lets | dsimp only | dsimp +zetaDelta only)
theorem Keeps.dropKey {a s : State} (h : Keeps a s) (pool use id : Nat) : Keeps a (Machine.State.dropKey s pool use id) := by
  unfold Machine.State.dropKey
  repeat' (first | with_reducible exact h | with_reducible assumption | intro _ | with_reducible apply Keeps.ite | split | (with_reducible first | apply Keeps.modSvc))
theorem Keeps.putKey {a s : State} (h : Keeps a s) (pool use id key : Nat) : Keeps a (Machine.State.putKey s pool use id key) := by
  unfold Machine.State.putKey
  repeat' (first | with_reducible exact h | with_reducible assumption | intro _ | with_reducible apply Keeps.ite | split | (with_reducible first | apply Keeps.modSvc | apply Keeps.dropKey))
theorem Keeps.execKeyLoad (d : Desc) (s : State) : KeepsOut s (Machine.execKeyLoad d s) := by
  unfold Machine.execKeyLoad
  repeat' (first | with_reducible exact Keeps.refl _ | with_reducible assumption | with_reducible apply KeepsOut.running | intro _ | with_reducible apply Keeps.ite | split | (with_reducible first | apply Keeps.finish | apply Keeps.bad | apply Keeps.commit | apply Keeps.taking | apply Keeps.laceAll | apply Keeps.partDone | apply Keeps.dropKey | apply Keeps.putKey | apply Keeps.cond))
theorem Keeps.modSlot {a s : State} (h : Keeps a s) (n : Fin 8) (f : NoticeSlot → NoticeSlot) : Keeps a (Machine.State.modSlot s n f) := by
  unfold Machine.State.modSlot
  repeat' (first | with_reducible exact h | with_reducible assumption | intro _ | with_reducible apply Keeps.ite | split | (with_reducible first | apply Keeps.modSvc))
theorem Keeps.abandon {a s : State} (h : Keeps a s) (n : Fin 8) : Keeps a (Machine.State.abandon s n) := by
  unfold Machine.State.abandon
  repeat' (first | with_reducible exact h | with_reducible assumption | intro _ | with_reducible apply Keeps.ite | split | (with_reducible first | apply Keeps.modTelem | apply Keeps.modSlot))
theorem Keeps.noticeRec {a s : State} (h : Keeps a s) (n : Nat) (o : List Byte) (outcome applied dropped : Nat) : Keeps a (Machine.State.noticeRec s n o outcome applied dropped) := by
  unfold Machine.State.noticeRec
  repeat' (first | with_reducible exact h | with_reducible assumption | intro _ | with_reducible apply Keeps.ite | split | (with_reducible first | apply Keeps.record))
theorem Keeps.noticeRefused {a s : State} (h : Keeps a s) (n : Fin 8) (o : List Byte) (outcome : Nat) : Keeps a (Machine.State.noticeRefused s n o outcome) := by
  unfold Machine.State.noticeRefused
  repeat' (first | with_reducible exact h | with_reducible assumption | intro _ | with_reducible apply Keeps.ite | split | (with_reducible first | apply Keeps.modSlot | apply Keeps.noticeRec | apply Keeps.cond))
theorem Keeps.fragments {a s : State} (h : Keeps a s) (n : Nat) (o : List Byte) : Keeps a (Machine.State.fragments s n o) := by
  unfold Machine.State.fragments
  repeat' (first | with_reducible exact h | with_reducible assumption | intro _ | with_reducible apply Keeps.ite | split | (with_reducible first | apply Keeps.record | apply Keeps.forEach))
theorem Keeps.applyRecall {a s : State} (h : Keeps a s) (n : NoticeWait) : Keeps a (Machine.State.applyRecall s n) := by
  unfold Machine.State.applyRecall
  repeat' (first | with_reducible exact h | with_reducible assumption | intro _ | with_reducible apply Keeps.ite | split | (with_reducible first | apply Keeps.setRecall | apply Keeps.noticeRec))
theorem Keeps.applyNotices {a s : State} (h : Keeps a s) : Keeps a (Machine.State.applyNotices s) := by
  unfold Machine.State.applyNotices
  repeat' (first | with_reducible exact h | with_reducible assumption | intro _ | with_reducible apply Keeps.ite | split | (with_reducible first | apply Keeps.modSvc | apply Keeps.applyRecall | apply Keeps.forEach))
theorem Keeps.keyUnwrapped {a s : State} (h : Keeps a s) (n : Fin 8) (o : List Byte) (use id : Nat) (r : Option Nat) :
    Keeps a (s.keyUnwrapped n o use id r) := by
  cases r with
  | none => exact h.noticeRec ..
  | some key =>
    simp only [Machine.State.keyUnwrapped]
    split
    · exact h.noticeRec ..
    · exact ((h.putKey ..).tellOthers ..).noticeRec ..
theorem Keeps.applyKey {a s : State} (h : Keeps a s) (n : Fin 8) (o : List Byte) : Keeps a (Machine.State.applyKey s n o) := by
  simp only [Machine.State.applyKey]
  split
  · exact h.noticeRefused ..
  · exact h.keyUnwrapped ..
theorem Keeps.noticeWhole {a s : State} (h : Keeps a s) (n : Fin 8) (o : List Byte) : Keeps a (Machine.State.noticeWhole s n o) := by
  unfold Machine.State.noticeWhole
  repeat' (first | with_reducible exact h | with_reducible assumption | intro _ | with_reducible apply Keeps.ite | split | (with_reducible first | apply Keeps.modTelem | apply Keeps.modSvc | apply Keeps.noticeRec | apply Keeps.noticeRefused | apply Keeps.fragments | apply Keeps.applyKey | apply Keeps.cond))
theorem Keeps.extend {a s : State} (h : Keeps a s) (n : Fin 8) (bytes : List Byte) (cont : Nat) : Keeps a (Machine.State.extend s n bytes cont) := by
  unfold Machine.State.extend
  repeat' (first | with_reducible exact h | with_reducible assumption | intro _ | with_reducible apply Keeps.ite | split | (with_reducible first | apply Keeps.modSlot | apply Keeps.abandon | apply Keeps.noticeWhole))
theorem Keeps.execDatacastUnit (slot : Fin 8) (unit : DataUnit) (s : State) : KeepsOut s (Machine.execDatacastUnit slot unit s) := by
  unfold Machine.execDatacastUnit
  repeat' (first | with_reducible exact Keeps.refl _ | with_reducible assumption | with_reducible apply KeepsOut.inBlock | intro _ | with_reducible apply Keeps.ite | split | (with_reducible first | apply Keeps.add | apply Keeps.modSlot))
theorem Keeps.execNoticeSegment (slot : Fin 8) (s : State) : KeepsOut s (Machine.execNoticeSegment slot s) := by
  unfold Machine.execNoticeSegment
  repeat' (first | with_reducible exact Keeps.refl _ | with_reducible assumption | with_reducible apply KeepsOut.running | intro _ | with_reducible apply Keeps.ite | split | (with_reducible first | apply Keeps.modSlot | apply Keeps.abandon | apply Keeps.extend | apply Keeps.cond) | extract_lets)
theorem Keeps.execNoticeAbandonTimeout (slot : Fin 8) (s : State) : KeepsOut s (Machine.execNoticeAbandonTimeout slot s) := by
  unfold Machine.execNoticeAbandonTimeout
  repeat' (first | with_reducible exact Keeps.refl _ | with_reducible assumption | with_reducible apply KeepsOut.running | intro _ | with_reducible apply Keeps.ite | split | (with_reducible first | apply Keeps.abandon))
theorem Keeps.execNoticeRecallApply  (s : State) : KeepsOut s (Machine.execNoticeRecallApply s) := by
  unfold Machine.execNoticeRecallApply
  repeat' (first | with_reducible exact Keeps.refl _ | with_reducible assumption | with_reducible apply KeepsOut.running | intro _ | with_reducible apply Keeps.ite | split | (with_reducible first | apply Keeps.modSvc | apply Keeps.applyRecall | apply Keeps.cond))
theorem Keeps.recallUpdate {a s : State} (h : Keeps a s) (d : Desc) (ws : List Word) : Keeps a (Machine.State.recallUpdate s d ws) := by
  unfold Machine.State.recallUpdate
  repeat' (first | with_reducible exact h | with_reducible assumption | intro _ | with_reducible apply Keeps.ite | split | (with_reducible first | apply Keeps.regionDone | apply Keeps.setRecall | apply Keeps.applyNotices))
theorem Keeps.rosterUpdate {a s : State} (h : Keeps a s) (d : Desc) (ws : List Word) : Keeps a (Machine.State.rosterUpdate s d ws) := by
  unfold Machine.State.rosterUpdate
  repeat' (first | with_reducible exact h | with_reducible assumption | intro _ | with_reducible apply Keeps.ite | split | (with_reducible first | apply Keeps.fail | apply Keeps.regionDone | apply Keeps.setRoster))
theorem Keeps.rosterSized {a s : State} (h : Keeps a s) : Keeps a (Machine.State.rosterSized s) := by
  unfold Machine.State.rosterSized
  repeat' (first | with_reducible exact h | with_reducible assumption | intro _ | with_reducible apply Keeps.ite | split | (with_reducible first | apply Keeps.setRoster))

end Sys2Proof.Machine
end

