-- ==== Sys2Proof/Laws/Keeps/Form.lean ====
section
/-! SUPPORT. Form: what every operation and meaning of this file keeps. -/

namespace Sys2Proof.Machine

theorem Keeps.bootMsg {a s : State} (h : Keeps a s) (dst code tag : Nat) (ws : List Word) : Keeps a (Machine.State.bootMsg s dst code tag ws) := by
  unfold Machine.State.bootMsg
  repeat' (first | with_reducible exact h | with_reducible assumption | intro _ | with_reducible apply Keeps.ite | split | (with_reducible first | apply Keeps.sendMsg))
theorem Keeps.sendArm {a s : State} (h : Keeps a s) (fire : Bool) : Keeps a (Machine.State.sendArm s fire) := by
  unfold Machine.State.sendArm
  repeat' (first | with_reducible exact h | with_reducible assumption | intro _ | with_reducible apply Keeps.ite | split | (with_reducible first | apply Keeps.modClk | apply Keeps.bootMsg | apply Keeps.cond))
theorem Keeps.fireNext {a s : State} (h : Keeps a s) : Keeps a (Machine.State.fireNext s) := by
  unfold Machine.State.fireNext
  repeat' (first | with_reducible exact h | with_reducible assumption | intro _ | with_reducible apply Keeps.ite | split | (with_reducible first | apply Keeps.sendArm | apply Keeps.cond))
theorem Keeps.syncFire {a s : State} (h : Keeps a s) : Keeps a (Machine.State.syncFire s) := by
  unfold Machine.State.syncFire
  repeat' (first | with_reducible exact h | with_reducible assumption | intro _ | with_reducible apply Keeps.ite | split | (with_reducible first | apply Keeps.putB | apply Keeps.fireNext))
theorem Keeps.fireDone {a s : State} (h : Keeps a s) : Keeps a (Machine.State.fireDone s) := by
  unfold Machine.State.fireDone
  repeat' (first | with_reducible exact h | with_reducible assumption | intro _ | with_reducible apply Keeps.ite | split | (with_reducible first | apply Keeps.putB | apply Keeps.modClk))
theorem Keeps.miswire {a s : State} (h : Keeps a s) (fs : List LinkFault) : Keeps a (Machine.State.miswire s fs) := by
  unfold Machine.State.miswire
  repeat' (first | with_reducible exact h | with_reducible assumption | intro _ | with_reducible apply Keeps.ite | split | (with_reducible first | apply Keeps.put | apply Keeps.cond | apply Keeps.forEach))
theorem Keeps.adopt {a s : State} (h : Keeps a s) (epoch : Nat) (shape : Word) (mask : Nat) (faults : List LinkFault) : Keeps a (Machine.State.adopt s epoch shape mask faults) := by
  unfold Machine.State.adopt
  repeat' (first | with_reducible exact h | with_reducible assumption | intro _ | with_reducible apply Keeps.ite | split | (with_reducible first | apply Keeps.put | apply Keeps.putB | apply Keeps.modLnk | apply Keeps.modLink | apply Keeps.loneLace | apply Keeps.miswire | apply Keeps.forEach))
theorem Keeps.formed {a s : State} (h : Keeps a s) (mask : Nat) : Keeps a (Machine.State.formed s mask) := by
  unfold Machine.State.formed
  repeat' (first | with_reducible exact h | with_reducible assumption | intro _ | with_reducible apply Keeps.ite | split | (with_reducible first | apply Keeps.wr | apply Keeps.putB | apply Keeps.modPwr | apply Keeps.modLnk))
theorem Keeps.formEnd {a s : State} (h : Keeps a s) (f : Forming) : Keeps a (Machine.State.formEnd s f) := by
  unfold Machine.State.formEnd
  repeat' (first | with_reducible exact h | with_reducible assumption | intro _ | with_reducible apply Keeps.ite | split | (with_reducible first | apply Keeps.modLnk | apply Keeps.modClk | apply Keeps.sendMsg | apply Keeps.sendReq | apply Keeps.complete | apply Keeps.memberRec | apply Keeps.pipBeacon | apply Keeps.fireNext | apply Keeps.formed | apply Keeps.cond | apply Keeps.forEach) | extract_lets | dsimp only | dsimp +zetaDelta only)
theorem Keeps.formSync {a s : State} (h : Keeps a s) : Keeps a (Machine.State.formSync s) := by
  unfold Machine.State.formSync
  repeat' (first | with_reducible exact h | with_reducible assumption | intro _ | with_reducible apply Keeps.ite | split | (with_reducible first | apply Keeps.modLnk | apply Keeps.sendArm))
theorem Keeps.formStep1 {a s : State} (h : Keeps a s) (f : Forming) (cands : List Nat) : Keeps a (Machine.State.formStep1 s f cands) := by
  unfold Machine.State.formStep1
  repeat' (first | with_reducible exact h | with_reducible assumption | intro _ | with_reducible apply Keeps.ite | split | (with_reducible first | apply Keeps.modLnk | apply Keeps.modClk | apply Keeps.bootMsg | apply Keeps.adopt | apply Keeps.formSync))
theorem Keeps.formStart {a s : State} (h : Keeps a s) (d : Option Desc) (mask : Nat) (faults : List LinkFault) : Keeps a (Machine.State.formStart s d mask faults) := by
  unfold Machine.State.formStart
  repeat' (first | with_reducible exact h | with_reducible assumption | intro _ | with_reducible apply Keeps.ite | split | (with_reducible first | apply Keeps.postRec | apply Keeps.formStep1 | apply Keeps.forEach))
theorem Keeps.formWithout {a s : State} (h : Keeps a s) (ms : List Nat) : Keeps a (Machine.State.formWithout s ms) := by
  unfold Machine.State.formWithout
  repeat' (first | with_reducible exact h | with_reducible assumption | intro _ | with_reducible apply Keeps.ite | split | (with_reducible first | apply Keeps.formStep1))
theorem Keeps.epochOne {a s : State} (h : Keeps a s) (faults : List LinkFault) : Keeps a (Machine.State.epochOne s faults) := by
  unfold Machine.State.epochOne
  repeat' (first | with_reducible exact h | with_reducible assumption | intro _ | with_reducible apply Keeps.ite | split | (with_reducible first | apply Keeps.accepted | apply Keeps.formStart | apply Keeps.cond))
theorem Keeps.execLaceForm (d : Desc) (faults : List LinkFault) (s : State) : KeepsOut s (Machine.execLaceForm d faults s) := by
  unfold Machine.execLaceForm
  repeat' (first | with_reducible exact Keeps.refl _ | with_reducible assumption | with_reducible apply KeepsOut.running | intro _ | with_reducible apply Keeps.ite | split | (with_reducible first | apply Keeps.finish | apply Keeps.bad | apply Keeps.commit | apply Keeps.taking | apply Keeps.needBlk | apply Keeps.formStart | apply Keeps.cond))
theorem Keeps.execEpochOneTimeout (faults : List LinkFault) (s : State) : KeepsOut s (Machine.execEpochOneTimeout faults s) := by
  unfold Machine.execEpochOneTimeout
  repeat' (first | with_reducible exact Keeps.refl _ | with_reducible assumption | with_reducible apply KeepsOut.running | intro _ | with_reducible apply Keeps.ite | split | (with_reducible first | apply Keeps.formStart | apply Keeps.cond))
theorem Keeps.execEpochSetReceive (epoch : Nat) (shape : Word) (mask : Nat) (faults : List LinkFault) (s : State) : KeepsOut s (Machine.execEpochSetReceive epoch shape mask faults s) := by
  unfold Machine.execEpochSetReceive
  repeat' (first | with_reducible exact Keeps.refl _ | with_reducible assumption | with_reducible apply KeepsOut.running | intro _ | with_reducible apply Keeps.ite | split | (with_reducible first | apply Keeps.bootMsg | apply Keeps.adopt | apply Keeps.cond))
theorem Keeps.execEpochAckReceive (member epoch : Nat) (s : State) : KeepsOut s (Machine.execEpochAckReceive member epoch s) := by
  unfold Machine.execEpochAckReceive
  repeat' (first | with_reducible exact Keeps.refl _ | with_reducible assumption | with_reducible apply KeepsOut.running | intro _ | with_reducible apply Keeps.ite | split | (with_reducible first | apply Keeps.modLnk | apply Keeps.formSync | apply Keeps.cond))
theorem Keeps.execEpochAckTimeout  (s : State) : KeepsOut s (Machine.execEpochAckTimeout s) := by
  unfold Machine.execEpochAckTimeout
  repeat' (first | with_reducible exact Keeps.refl _ | with_reducible assumption | with_reducible apply KeepsOut.running | intro _ | with_reducible apply Keeps.ite | split | (with_reducible first | apply Keeps.formWithout | apply Keeps.cond))
theorem Keeps.syncReported {a s : State} (h : Keeps a s) : Keeps a (Machine.State.syncReported s) := by
  unfold Machine.State.syncReported
  repeat' (first | with_reducible exact h | with_reducible assumption | intro _ | with_reducible apply Keeps.ite | split | (with_reducible first | apply Keeps.modClk | apply Keeps.fireDone | apply Keeps.formEnd))
theorem Keeps.execSyncPulseDrive (acked : List Nat) (s : State) : KeepsOut s (Machine.execSyncPulseDrive acked s) := by
  unfold Machine.execSyncPulseDrive
  repeat' (first | with_reducible exact Keeps.refl _ | with_reducible assumption | with_reducible apply KeepsOut.running | intro _ | with_reducible apply Keeps.ite | split | (with_reducible first | apply Keeps.inc | apply Keeps.emit | apply Keeps.modLnk | apply Keeps.modClk | apply Keeps.acked | apply Keeps.sendArm | apply Keeps.syncReported | apply Keeps.cond))
theorem Keeps.execSyncDoneReceive (member : Nat) (s : State) : KeepsOut s (Machine.execSyncDoneReceive member s) := by
  unfold Machine.execSyncDoneReceive
  repeat' (first | with_reducible exact Keeps.refl _ | with_reducible assumption | with_reducible apply KeepsOut.running | intro _ | with_reducible apply Keeps.ite | split | (with_reducible first | apply Keeps.modClk | apply Keeps.syncReported | apply Keeps.cond))
theorem Keeps.execSyncMissedReceive (member : Nat) (s : State) : KeepsOut s (Machine.execSyncMissedReceive member s) := by
  unfold Machine.execSyncMissedReceive
  repeat' (first | with_reducible exact Keeps.refl _ | with_reducible assumption | with_reducible apply KeepsOut.running | intro _ | with_reducible apply Keeps.ite | split | (with_reducible first | apply Keeps.formWithout | apply Keeps.cond))
theorem Keeps.execSyncReportTimeout  (s : State) : KeepsOut s (Machine.execSyncReportTimeout s) := by
  unfold Machine.execSyncReportTimeout
  repeat' (first | with_reducible exact Keeps.refl _ | with_reducible assumption | with_reducible apply KeepsOut.running | intro _ | with_reducible apply Keeps.ite | split | (with_reducible first | apply Keeps.formWithout | apply Keeps.cond))
theorem Keeps.execSyncFireTimeout  (s : State) : KeepsOut s (Machine.execSyncFireTimeout s) := by
  unfold Machine.execSyncFireTimeout
  repeat' (first | with_reducible exact Keeps.refl _ | with_reducible assumption | with_reducible apply KeepsOut.running | intro _ | with_reducible apply Keeps.ite | split | (with_reducible first | apply Keeps.fireDone | apply Keeps.cond))

end Sys2Proof.Machine
end

