-- ==== Sys2Proof/Laws/Keeps/Aud.lean ====
section
/-! SUPPORT. Aud: what every operation and meaning of this file keeps. -/

namespace Sys2Proof.Machine

theorem Keeps.audViews {a s : State} (h : Keeps a s) : Keeps a (Machine.State.audViews s) := by
  unfold Machine.State.audViews
  repeat' (first | with_reducible exact h | with_reducible assumption | intro _ | with_reducible apply Keeps.ite | split | (with_reducible first | apply Keeps.put | apply Keeps.putB | apply Keeps.forEach))
theorem Keeps.audRec {a s : State} (h : Keeps a s) (event port fill silent info : Nat) : Keeps a (Machine.State.audRec s event port fill silent info) := by
  unfold Machine.State.audRec
  repeat' (first | with_reducible exact h | with_reducible assumption | intro _ | with_reducible apply Keeps.ite | split | (with_reducible first | apply Keeps.record | apply Keeps.cond))
theorem Keeps.startOutput {a s : State} (h : Keeps a s) (o : Fin 4) : Keeps a (Machine.State.startOutput s o) := by
  unfold Machine.State.startOutput
  repeat' (first | with_reducible exact h | with_reducible assumption | intro _ | with_reducible apply Keeps.ite | split | (with_reducible first | apply Keeps.modOut | apply Keeps.audRec))
theorem Keeps.audTrigger {a s : State} (h : Keeps a s) (kind : Nat) (near : Bool) : Keeps a (Machine.State.audTrigger s kind near) := by
  unfold Machine.State.audTrigger
  repeat' (first | with_reducible exact h | with_reducible assumption | intro _ | with_reducible apply Keeps.ite | split | (with_reducible first | apply Keeps.flag | apply Keeps.modOut | apply Keeps.audViews | apply Keeps.forEach))
theorem Keeps.execAudStartBall (near : Bool) (s : State) : KeepsOut s (Machine.execAudStartBall near s) := by
  unfold Machine.execAudStartBall
  repeat' (first | with_reducible exact Keeps.refl _ | with_reducible assumption | with_reducible apply KeepsOut.inBlock | intro _ | with_reducible apply Keeps.ite | split | (with_reducible first | apply Keeps.audTrigger))
theorem Keeps.execPipAudioStart (slot lateNs : Nat) (near : Bool) (s : State) : KeepsOut s (Machine.execPipAudioStart slot lateNs near s) := by
  unfold Machine.execPipAudioStart
  repeat' (first | with_reducible exact Keeps.refl _ | with_reducible assumption | with_reducible apply KeepsOut.running | intro _ | with_reducible apply Keeps.ite | split | (with_reducible first | apply Keeps.fireAction | apply Keeps.audTrigger | apply Keeps.cond))
theorem Keeps.audGo {a s : State} (h : Keeps a s) (near : Bool) : Keeps a (Machine.State.audGo s near) := by
  unfold Machine.State.audGo
  repeat' (first | with_reducible exact h | with_reducible assumption | intro _ | with_reducible apply Keeps.ite | split | (with_reducible first | apply Keeps.putB | apply Keeps.audTrigger))
theorem Keeps.execAudStartFrame  (s : State) : KeepsOut s (Machine.execAudStartFrame s) := by
  unfold Machine.execAudStartFrame
  repeat' (first | with_reducible exact Keeps.refl _ | with_reducible assumption | with_reducible apply KeepsOut.inBlock | intro _ | with_reducible apply Keeps.ite | split | (with_reducible first | apply Keeps.putB | apply Keeps.audViews | apply Keeps.startOutput | apply Keeps.forEach))
theorem Keeps.modRoute {a s : State} (h : Keeps a s) (o p : Fin 4) (f : RouteSt → RouteSt) : Keeps a (Machine.State.modRoute s o p f) := by
  unfold Machine.State.modRoute
  repeat' (first | with_reducible exact h | with_reducible assumption | intro _ | with_reducible apply Keeps.ite | split | (with_reducible first | apply Keeps.modOut))
theorem Keeps.routeNextN {a : State} : ∀ (n : Nat) {s : State} (_ : Keeps a s) (k : Fin 4), Keeps a (Machine.routeNextN n s k) := by
  intro n
  induction n with
  | zero => intro s h; intros; exact h
  | succ n ih =>
    intro s h; intros; unfold Machine.routeNextN
    repeat' (first | with_reducible exact h | with_reducible assumption | intro _ | split | apply ih | (with_reducible first | apply Keeps.modRoute | apply Keeps.complete | apply Keeps.modOut) | extract_lets | dsimp only | dsimp +zetaDelta only)
theorem Keeps.routeNext {a s : State} (h : Keeps a s) (o : Fin 4) : Keeps a (Machine.State.routeNext s o) := by
  unfold Machine.State.routeNext
  repeat' (first | with_reducible exact h | with_reducible assumption | intro _ | with_reducible apply Keeps.ite | split | (with_reducible first | apply Keeps.routeNextN))
theorem Keeps.execAudioRoute (d : Desc) (s : State) : KeepsOut s (Machine.execAudioRoute d s) := by
  unfold Machine.execAudioRoute
  repeat' (first | with_reducible exact Keeps.refl _ | with_reducible assumption | with_reducible apply KeepsOut.running | intro _ | with_reducible apply Keeps.ite | split | (with_reducible first | apply Keeps.modOut | apply Keeps.complete | apply Keeps.finish | apply Keeps.bad | apply Keeps.commit | apply Keeps.atMember | apply Keeps.needBlk | apply Keeps.modRoute | apply Keeps.routeNext | apply Keeps.cond | apply Keeps.idle))
theorem Keeps.execAudioRouteRampStart (output : Fin 4) (s : State) : KeepsOut s (Machine.execAudioRouteRampStart output s) := by
  unfold Machine.execAudioRouteRampStart
  repeat' (first | with_reducible exact Keeps.refl _ | with_reducible assumption | with_reducible apply KeepsOut.inBlock | intro _ | with_reducible apply Keeps.ite | split | (with_reducible first | apply Keeps.modOut | apply Keeps.complete | apply Keeps.audRec | apply Keeps.modRoute | apply Keeps.routeNext))
theorem Keeps.stopOutput {a s : State} (h : Keeps a s) (o : Fin 4) (why : Nat) : Keeps a (Machine.State.stopOutput s o why) := by
  unfold Machine.State.stopOutput
  repeat' (first | with_reducible exact h | with_reducible assumption | intro _ | with_reducible apply Keeps.ite | split | (with_reducible first | apply Keeps.modOut | apply Keeps.complete | apply Keeps.modRoute | apply Keeps.forEach))
theorem Keeps.modIn {a s : State} (h : Keeps a s) (i : Fin 2) (f : InputSt → InputSt) : Keeps a (Machine.State.modIn s i f) := by
  unfold Machine.State.modIn
  repeat' (first | with_reducible exact h | with_reducible assumption | intro _ | with_reducible apply Keeps.ite | split | (with_reducible first | apply Keeps.modAud))
theorem Keeps.execAudioUnderrun (port : Fin 6) (s : State) : KeepsOut s (Machine.execAudioUnderrun port s) := by
  unfold Machine.execAudioUnderrun
  repeat' (first | with_reducible exact Keeps.refl _ | with_reducible assumption | with_reducible apply KeepsOut.inBlock | intro _ | with_reducible apply Keeps.ite | split | (with_reducible first | apply Keeps.flag | apply Keeps.modOut | apply Keeps.audViews | apply Keeps.audRec | apply Keeps.modIn | apply Keeps.cond))
theorem Keeps.execAudioOverrun (port : Fin 6) (s : State) : KeepsOut s (Machine.execAudioOverrun port s) := by
  unfold Machine.execAudioOverrun
  repeat' (first | with_reducible exact Keeps.refl _ | with_reducible assumption | with_reducible apply KeepsOut.inBlock | intro _ | with_reducible apply Keeps.ite | split | (with_reducible first | apply Keeps.flag | apply Keeps.modOut | apply Keeps.audViews | apply Keeps.audRec | apply Keeps.modIn | apply Keeps.cond))
theorem Keeps.execAudioResume (port : Fin 6) (s : State) : KeepsOut s (Machine.execAudioResume port s) := by
  unfold Machine.execAudioResume
  repeat' (first | with_reducible exact Keeps.refl _ | with_reducible assumption | with_reducible apply KeepsOut.inBlock | intro _ | with_reducible apply Keeps.ite | split | (with_reducible first | apply Keeps.modOut | apply Keeps.audViews | apply Keeps.audRec | apply Keeps.modIn))
theorem Keeps.execFollowerClockLost (port : Fin 3) (bclk : Nat) (s : State) : KeepsOut s (Machine.execFollowerClockLost port bclk s) := by
  unfold Machine.execFollowerClockLost
  repeat' (first | with_reducible exact Keeps.refl _ | with_reducible assumption | with_reducible apply KeepsOut.inBlock | intro _ | with_reducible apply Keeps.ite | split | (with_reducible first | apply Keeps.flag | apply Keeps.modOut | apply Keeps.audViews | apply Keeps.audRec | apply Keeps.modIn | apply Keeps.cond))
theorem Keeps.execFollowerClockBack (port : Fin 3) (s : State) : KeepsOut s (Machine.execFollowerClockBack port s) := by
  unfold Machine.execFollowerClockBack
  repeat' (first | with_reducible exact Keeps.refl _ | with_reducible assumption | with_reducible apply KeepsOut.inBlock | intro _ | with_reducible apply Keeps.ite | split | (with_reducible first | apply Keeps.modOut | apply Keeps.audViews | apply Keeps.audRec | apply Keeps.modIn | apply Keeps.cond))
theorem Keeps.execAudioExtLost  (s : State) : KeepsOut s (Machine.execAudioExtLost s) := by
  unfold Machine.execAudioExtLost
  repeat' (first | with_reducible exact Keeps.refl _ | with_reducible assumption | with_reducible apply KeepsOut.live | intro _ | with_reducible apply Keeps.ite | split | (with_reducible first | apply Keeps.putB | apply Keeps.flag | apply Keeps.modAud | apply Keeps.modOut | apply Keeps.audViews | apply Keeps.audRec | apply Keeps.cond | apply Keeps.forEach))
theorem Keeps.execAudioHoldoverExit  (s : State) : KeepsOut s (Machine.execAudioHoldoverExit s) := by
  unfold Machine.execAudioHoldoverExit
  repeat' (first | with_reducible exact Keeps.refl _ | with_reducible assumption | with_reducible apply KeepsOut.live | intro _ | with_reducible apply Keeps.ite | split | (with_reducible first | apply Keeps.putB | apply Keeps.modAud | apply Keeps.cond))
theorem Keeps.audGate {a s : State} (h : Keeps a s) (tell : Bool) : Keeps a (Machine.State.audGate s tell) := by
  unfold Machine.State.audGate
  repeat' (first | with_reducible exact h | with_reducible assumption | intro _ | with_reducible apply Keeps.ite | split | (with_reducible first | apply Keeps.putB | apply Keeps.modAud | apply Keeps.modOut | apply Keeps.audViews | apply Keeps.audRec | apply Keeps.cond | apply Keeps.forEach))
theorem Keeps.audLock {a s : State} (h : Keeps a s) : Keeps a (Machine.State.audLock s) := by
  unfold Machine.State.audLock
  repeat' (first | with_reducible exact h | with_reducible assumption | intro _ | with_reducible apply Keeps.ite | split | (with_reducible first | apply Keeps.putB | apply Keeps.modAud | apply Keeps.audViews))
theorem Keeps.audClkWritten {a s : State} (h : Keeps a s) (old : Word) : Keeps a (Machine.State.audClkWritten s old) := by
  unfold Machine.State.audClkWritten
  repeat' (first | with_reducible exact h | with_reducible assumption | intro _ | with_reducible apply Keeps.ite | split | (with_reducible first | apply Keeps.putB | apply Keeps.flag | apply Keeps.audViews | apply Keeps.stopOutput | apply Keeps.audGate | apply Keeps.forEach))
theorem Keeps.sapWrite {a s : State} (h : Keeps a s) (n : Nat) (w : Word) : Keeps a (Machine.State.sapWrite s n w) := by
  unfold Machine.State.sapWrite
  repeat' (first | with_reducible exact h | with_reducible assumption | intro _ | with_reducible apply Keeps.ite | split | (with_reducible first | apply Keeps.wr | apply Keeps.flag))
theorem Keeps.spdoWrite {a s : State} (h : Keeps a s) (w : Word) : Keeps a (Machine.State.spdoWrite s w) := by
  unfold Machine.State.spdoWrite
  repeat' (first | with_reducible exact h | with_reducible assumption | intro _ | with_reducible apply Keeps.ite | split | (with_reducible first | apply Keeps.wr | apply Keeps.flag | apply Keeps.modAud))
theorem Keeps.spdoFrame {a s : State} (h : Keeps a s) : Keeps a (Machine.State.spdoFrame s) := by
  unfold Machine.State.spdoFrame
  repeat' (first | with_reducible exact h | with_reducible assumption | intro _ | with_reducible apply Keeps.ite | split | (with_reducible first | apply Keeps.emit | apply Keeps.modAud))
theorem Keeps.execSpdoBlockStart  (s : State) : KeepsOut s (Machine.execSpdoBlockStart s) := by
  unfold Machine.execSpdoBlockStart
  repeat' (first | with_reducible exact Keeps.refl _ | with_reducible assumption | with_reducible apply KeepsOut.inBlock | intro _ | with_reducible apply Keeps.ite | split | (with_reducible first | apply Keeps.putB | apply Keeps.modAud | apply Keeps.regionDone) | extract_lets | dsimp only | dsimp +zetaDelta only)
theorem Keeps.execSpdiBlock (cs : BitVec 16) (v : Bool) (s : State) : KeepsOut s (Machine.execSpdiBlock cs v s) := by
  unfold Machine.execSpdiBlock
  repeat' (first | with_reducible exact Keeps.refl _ | with_reducible assumption | with_reducible apply KeepsOut.inBlock | intro _ | with_reducible apply Keeps.ite | split | (with_reducible first | apply Keeps.put | apply Keeps.putB | apply Keeps.modAud | apply Keeps.modIn | apply Keeps.cond))
theorem Keeps.execSpdiLock (rate : Fin 8) (s : State) : KeepsOut s (Machine.execSpdiLock rate s) := by
  unfold Machine.execSpdiLock
  repeat' (first | with_reducible exact Keeps.refl _ | with_reducible assumption | with_reducible apply KeepsOut.inBlock | intro _ | with_reducible apply Keeps.ite | split | (with_reducible first | apply Keeps.put | apply Keeps.putB | apply Keeps.audRec | apply Keeps.modIn))
theorem Keeps.execSpdiLoss  (s : State) : KeepsOut s (Machine.execSpdiLoss s) := by
  unfold Machine.execSpdiLoss
  repeat' (first | with_reducible exact Keeps.refl _ | with_reducible assumption | with_reducible apply KeepsOut.inBlock | intro _ | with_reducible apply Keeps.ite | split | (with_reducible first | apply Keeps.put | apply Keeps.putB | apply Keeps.flag | apply Keeps.modAud | apply Keeps.audRec | apply Keeps.modIn))
theorem Keeps.execSpdiNonpcm  (s : State) : KeepsOut s (Machine.execSpdiNonpcm s) := by
  unfold Machine.execSpdiNonpcm
  repeat' (first | with_reducible exact Keeps.refl _ | with_reducible assumption | with_reducible apply KeepsOut.inBlock | intro _ | with_reducible apply Keeps.ite | split | (with_reducible first | apply Keeps.putB | apply Keeps.audRec | apply Keeps.modIn))
theorem Keeps.execSpdiErasure (parity : Bool) (s : State) : KeepsOut s (Machine.execSpdiErasure parity s) := by
  unfold Machine.execSpdiErasure
  repeat' (first | with_reducible exact Keeps.refl _ | with_reducible assumption | with_reducible apply KeepsOut.inBlock | intro _ | with_reducible apply Keeps.ite | split | (with_reducible first | apply Keeps.flag | apply Keeps.modIn))
theorem Keeps.outEnable {a s : State} (h : Keeps a s) (o : Fin 4) : Keeps a (Machine.State.outEnable s o) := by
  unfold Machine.State.outEnable
  repeat' (first | with_reducible exact h | with_reducible assumption | intro _ | with_reducible apply Keeps.ite | split | (with_reducible first | apply Keeps.modAud | apply Keeps.modOut | apply Keeps.stopOutput | apply Keeps.cond))
theorem Keeps.outFrame {a s : State} (h : Keeps a s) (o : Fin 4) (w : AudFlow) : Keeps a (Machine.State.outFrame s o w) := by
  unfold Machine.State.outFrame
  repeat' (first | with_reducible exact h | with_reducible assumption | intro _ | with_reducible apply Keeps.ite | split | (with_reducible first | apply Keeps.modOut | apply Keeps.spdoFrame | apply Keeps.cond | apply Keeps.forEach))
theorem Keeps.inFrame {a s : State} (h : Keeps a s) (i : Fin 2) (w : AudFlow) : Keeps a (Machine.State.inFrame s i w) := by
  unfold Machine.State.inFrame
  repeat' (first | with_reducible exact h | with_reducible assumption | intro _ | with_reducible apply Keeps.ite | split | (with_reducible first | apply Keeps.modIn))
theorem Keeps.audTimes {a s : State} (h : Keeps a s) : Keeps a (Machine.State.audTimes s) := by
  unfold Machine.State.audTimes
  repeat' (first | with_reducible exact h | with_reducible assumption | intro _ | with_reducible apply Keeps.ite | split | (with_reducible first | apply Keeps.modAud | apply Keeps.modOut | apply Keeps.audRec | apply Keeps.cond | apply Keeps.forEach) | extract_lets)
theorem Keeps.execAudioFrameBoundary (flows : List AudFlow) (s : State) : KeepsOut s (Machine.execAudioFrameBoundary flows s) := by
  unfold Machine.execAudioFrameBoundary
  repeat' (first | with_reducible exact Keeps.refl _ | with_reducible assumption | with_reducible apply KeepsOut.live | intro _ | with_reducible apply Keeps.ite | split | (with_reducible first | apply Keeps.modClk | apply Keeps.srcFrame | apply Keeps.audViews | apply Keeps.startOutput | apply Keeps.outEnable | apply Keeps.outFrame | apply Keeps.inFrame | apply Keeps.audTimes | apply Keeps.cond | apply Keeps.forEach))
theorem Keeps.audSync {a s : State} (h : Keeps a s) : Keeps a (Machine.State.audSync s) := by
  unfold Machine.State.audSync
  repeat' (first | with_reducible exact h | with_reducible assumption | intro _ | with_reducible apply Keeps.ite | split | (with_reducible first | apply Keeps.modOut | apply Keeps.forEach))
theorem Keeps.audHeld {a s : State} (h : Keeps a s) : Keeps a (Machine.State.audHeld s) := by
  unfold Machine.State.audHeld
  repeat' (first | with_reducible exact h | with_reducible assumption | intro _ | with_reducible apply Keeps.ite | split | (with_reducible first | apply Keeps.modAud | apply Keeps.finish | apply Keeps.regionDone | apply Keeps.forEach) | extract_lets | dsimp only | dsimp +zetaDelta only)

end Sys2Proof.Machine
end

