-- ==== Sys2Proof/Laws/Keeps/Load.lean ====
section
/-! SUPPORT. Load: what every operation and meaning of this file keeps. -/

namespace Sys2Proof.Machine

theorem Keeps.setImg {a s : State} (h : Keeps a s) (g : Img) (i : Nat) (ws : List Word) : Keeps a (Machine.State.setImg s g i ws) := by
  unfold Machine.State.setImg
  repeat' (first | with_reducible exact h | with_reducible assumption | intro _ | with_reducible apply Keeps.ite | split | (with_reducible first | apply Keeps.put | apply Keeps.modBoot))
theorem Keeps.dropImages {a s : State} (h : Keeps a s) : Keeps a (Machine.State.dropImages s) := by
  unfold Machine.State.dropImages
  repeat' (first | with_reducible exact h | with_reducible assumption | intro _ | with_reducible apply Keeps.ite | split | (with_reducible first | apply Keeps.modBoot))
theorem Keeps.setPhase {a s : State} (h : Keeps a s) (p : Nat) : Keeps a (Machine.State.setPhase s p) := by
  unfold Machine.State.setPhase
  repeat' (first | with_reducible exact h | with_reducible assumption | intro _ | with_reducible apply Keeps.ite | split | (with_reducible first | apply Keeps.put))
theorem Keeps.loadEnds {a s : State} (h : Keeps a s) : Keeps a (Machine.State.loadEnds s) := by
  unfold Machine.State.loadEnds
  repeat' (first | with_reducible exact h | with_reducible assumption | intro _ | with_reducible apply Keeps.ite | split | (with_reducible first | apply Keeps.putB | apply Keeps.modBoot))
theorem Keeps.startPair {a s : State} (h : Keeps a s) (pushed untested : Bool) : Keeps a (Machine.State.startPair s pushed untested) := by
  unfold Machine.State.startPair
  repeat' (first | with_reducible exact h | with_reducible assumption | intro _ | with_reducible apply Keeps.ite | split | (with_reducible first | apply Keeps.wr | apply Keeps.putB | apply Keeps.flag | apply Keeps.modBoot | apply Keeps.epochOne | apply Keeps.setPhase | apply Keeps.loadEnds | apply Keeps.cond))
theorem Keeps.hold {a s : State} (h : Keeps a s) (code image : Nat) (fetch pushed force : Bool) : Keeps a (Machine.State.hold s code image fetch pushed force) := by
  unfold Machine.State.hold
  repeat' (first | with_reducible exact h | with_reducible assumption | intro _ | with_reducible apply Keeps.ite | split | (with_reducible first | apply Keeps.put | apply Keeps.putB | apply Keeps.modBoot | apply Keeps.setPhase | apply Keeps.loadEnds | apply Keeps.startPair))
theorem Keeps.judgeImages {a s : State} (h : Keeps a s) (pushed force : Bool) : Keeps a (Machine.State.judgeImages s pushed force) := by
  unfold Machine.State.judgeImages
  repeat' (first | with_reducible exact h | with_reducible assumption | intro _ | with_reducible apply Keeps.ite | split | (with_reducible first | apply Keeps.wr | apply Keeps.setPhase | apply Keeps.startPair | apply Keeps.hold | apply Keeps.cond) | extract_lets)
theorem Keeps.fetchStep {a s : State} (h : Keeps a s) : Keeps a (Machine.State.fetchStep s) := by
  unfold Machine.State.fetchStep
  repeat' (first | with_reducible exact h | with_reducible assumption | intro _ | with_reducible apply Keeps.ite | split | (with_reducible first | apply Keeps.emits | apply Keeps.modBoot | apply Keeps.hold | apply Keeps.judgeImages))
theorem Keeps.startLoad {a s : State} (h : Keeps a s) : Keeps a (Machine.State.startLoad s) := by
  unfold Machine.State.startLoad
  repeat' (first | with_reducible exact h | with_reducible assumption | intro _ | with_reducible apply Keeps.ite | split | (with_reducible first | apply Keeps.wr | apply Keeps.modBoot | apply Keeps.dropImages | apply Keeps.setPhase | apply Keeps.judgeImages | apply Keeps.fetchStep))
theorem Keeps.waitImages {a s : State} (h : Keeps a s) : Keeps a (Machine.State.waitImages s) := by
  unfold Machine.State.waitImages
  repeat' (first | with_reducible exact h | with_reducible assumption | intro _ | with_reducible apply Keeps.ite | split | (with_reducible first | apply Keeps.orF | apply Keeps.modBoot | apply Keeps.modPwr | apply Keeps.setPhase | apply Keeps.startLoad | apply Keeps.cond))
theorem Keeps.bootCtl {a s : State} (h : Keeps a s) (start : Bool) : Keeps a (Machine.State.bootCtl s start) := by
  unfold Machine.State.bootCtl
  repeat' (first | with_reducible exact h | with_reducible assumption | intro _ | with_reducible apply Keeps.ite | split | (with_reducible first | apply Keeps.putB | apply Keeps.startPair | apply Keeps.startLoad | apply Keeps.cond))
theorem Keeps.windowWrite {a s : State} (h : Keeps a s) (w : Word) : Keeps a (Machine.State.windowWrite s w) := by
  unfold Machine.State.windowWrite
  repeat' (first | with_reducible exact h | with_reducible assumption | intro _ | with_reducible apply Keeps.ite | split | (with_reducible first | apply Keeps.put | apply Keeps.flag | apply Keeps.setImg))
theorem Keeps.execImageReadComplete (i : Nat) (data : Option (List Word)) (s : State) : KeepsOut s (Machine.execImageReadComplete i data s) := by
  unfold Machine.execImageReadComplete
  repeat' (first | with_reducible exact Keeps.refl _ | with_reducible assumption | with_reducible apply KeepsOut.live | intro _ | with_reducible apply Keeps.ite | split | (with_reducible first | apply Keeps.modBoot | apply Keeps.setImg | apply Keeps.fetchStep))
theorem Keeps.execBusMasterClear  (s : State) : KeepsOut s (Machine.execBusMasterClear s) := by
  unfold Machine.execBusMasterClear
  repeat' (first | with_reducible exact Keeps.refl _ | with_reducible assumption | with_reducible apply KeepsOut.live | intro _ | with_reducible apply Keeps.ite | split | (with_reducible first | apply Keeps.modPcie | apply Keeps.modBoot | apply Keeps.fetchStep) | extract_lets)
theorem Keeps.fetchAbort {a s : State} (h : Keeps a s) : Keeps a (Machine.State.fetchAbort s) := by
  unfold Machine.State.fetchAbort
  repeat' (first | with_reducible exact h | with_reducible assumption | intro _ | with_reducible apply Keeps.ite | split | (with_reducible first | apply Keeps.setPhase | apply Keeps.loadEnds | apply Keeps.cond))
theorem Keeps.execHelloSend  (s : State) : KeepsOut s (Machine.execHelloSend s) := by
  unfold Machine.execHelloSend
  repeat' (first | with_reducible exact Keeps.refl _ | with_reducible assumption | with_reducible apply KeepsOut.live | intro _ | with_reducible apply Keeps.ite | split | (with_reducible first | apply Keeps.incSat | apply Keeps.modBoot | apply Keeps.bootMsg))
theorem Keeps.startPush {a s : State} (h : Keeps a s) : Keeps a (Machine.State.startPush s) := by
  unfold Machine.State.startPush
  repeat' (first | with_reducible exact h | with_reducible assumption | intro _ | with_reducible apply Keeps.ite | split | (with_reducible first | apply Keeps.modBoot | apply Keeps.bootMsg))
theorem Keeps.refuse {a s : State} (h : Keeps a s) (m : Nat) : Keeps a (Machine.State.refuse s m) := by
  unfold Machine.State.refuse
  repeat' (first | with_reducible exact h | with_reducible assumption | intro _ | with_reducible apply Keeps.ite | split | (with_reducible first | apply Keeps.put | apply Keeps.flag))
theorem Keeps.execHelloReceive (member phase : Nat) (untested : Bool) (svcCrc seqCrc : Word) (uid : BitVec 64) (tag : Nat) (faults : List LinkFault) (s : State) : KeepsOut s (Machine.execHelloReceive member phase untested svcCrc seqCrc uid tag faults s) := by
  unfold Machine.execHelloReceive
  repeat' (first | with_reducible exact Keeps.refl _ | with_reducible assumption | with_reducible apply KeepsOut.live | intro _ | with_reducible apply Keeps.ite | split | (with_reducible first | apply Keeps.modBoot | apply Keeps.answer | apply Keeps.memberRec | apply Keeps.accepted | apply Keeps.bootMsg | apply Keeps.epochOne | apply Keeps.startPush | apply Keeps.refuse))
theorem Keeps.execPushEnd  (s : State) : KeepsOut s (Machine.execPushEnd s) := by
  unfold Machine.execPushEnd
  repeat' (first | with_reducible exact Keeps.refl _ | with_reducible assumption | with_reducible apply KeepsOut.running | intro _ | with_reducible apply Keeps.ite | split | (with_reducible first | apply Keeps.modBoot | apply Keeps.startPush | apply Keeps.cond))
theorem Keeps.execAnswerReceive (member status tag : Nat) (s : State) : KeepsOut s (Machine.execAnswerReceive member status tag s) := by
  unfold Machine.execAnswerReceive
  repeat' (first | with_reducible exact Keeps.refl _ | with_reducible assumption | with_reducible apply KeepsOut.live | intro _ | with_reducible apply Keeps.ite | split | (with_reducible first | apply Keeps.modBoot))
theorem Keeps.execPushReceive (first force : Bool) (svc seq : List Word) (s : State) : KeepsOut s (Machine.execPushReceive first force svc seq s) := by
  unfold Machine.execPushReceive
  repeat' (first | with_reducible exact Keeps.refl _ | with_reducible assumption | with_reducible apply KeepsOut.live | intro _ | with_reducible apply Keeps.ite | split | (with_reducible first | apply Keeps.wr | apply Keeps.setImg | apply Keeps.dropImages | apply Keeps.judgeImages))

end Sys2Proof.Machine
end

