-- ==== Sys2Proof/Laws/Keeps/Clocks.lean ====
section
/-! SUPPORT. Clocks: what every operation and meaning of this file keeps. -/

namespace Sys2Proof.Machine

theorem Keeps.execRefDetectWindowEnd  (s : State) : KeepsOut s (Machine.execRefDetectWindowEnd s) := by
  unfold Machine.execRefDetectWindowEnd
  repeat' (first | with_reducible exact Keeps.refl _ | with_reducible assumption | with_reducible apply KeepsOut.live | intro _ | with_reducible apply Keeps.ite | split | (with_reducible first | apply Keeps.putB | apply Keeps.cond))
theorem Keeps.execRefclkDetected  (s : State) : KeepsOut s (Machine.execRefclkDetected s) := by
  unfold Machine.execRefclkDetected
  repeat' (first | with_reducible exact Keeps.refl _ | with_reducible assumption | with_reducible apply KeepsOut.live | intro _ | with_reducible apply Keeps.ite | split | (with_reducible first | apply Keeps.putB | apply Keeps.cond))
theorem Keeps.execRefDetFall  (s : State) : KeepsOut s (Machine.execRefDetFall s) := by
  unfold Machine.execRefDetFall
  repeat' (first | with_reducible exact Keeps.refl _ | with_reducible assumption | with_reducible apply KeepsOut.live | intro _ | with_reducible apply Keeps.ite | split | (with_reducible first | apply Keeps.putB))
theorem Keeps.execCrystalStarted  (s : State) : KeepsOut s (Machine.execCrystalStarted s) := by
  unfold Machine.execCrystalStarted
  repeat' (first | with_reducible exact Keeps.refl _ | with_reducible assumption | with_reducible apply KeepsOut.live | intro _ | with_reducible apply Keeps.ite | split | (with_reducible first | apply Keeps.putB | apply Keeps.cond))
theorem Keeps.crystalStops {a s : State} (h : Keeps a s) : Keeps a (Machine.State.crystalStops s) := by
  unfold Machine.State.crystalStops
  repeat' (first | with_reducible exact h | with_reducible assumption | intro _ | with_reducible apply Keeps.ite | split | (with_reducible first | apply Keeps.putB | apply Keeps.cond))
theorem Keeps.clockFault {a s : State} (h : Keeps a s) (inst kind : Nat) : Keeps a (Machine.State.clockFault s inst kind) := by
  unfold Machine.State.clockFault
  repeat' (first | with_reducible exact h | with_reducible assumption | intro _ | with_reducible apply Keeps.ite | split | (with_reducible first | apply Keeps.fltBit | apply Keeps.fault))
theorem Keeps.misaligned {a s : State} (h : Keeps a s) : Keeps a (Machine.State.misaligned s) := by
  unfold Machine.State.misaligned
  repeat' (first | with_reducible exact h | with_reducible assumption | intro _ | with_reducible apply Keeps.ite | split | (with_reducible first | apply Keeps.putB | apply Keeps.loneLace | apply Keeps.cond))
theorem Keeps.sysLoss {a s : State} (h : Keeps a s) (kind : Nat) : Keeps a (Machine.State.sysLoss s kind) := by
  unfold Machine.State.sysLoss
  repeat' (first | with_reducible exact h | with_reducible assumption | intro _ | with_reducible apply Keeps.ite | split | (with_reducible first | apply Keeps.put | apply Keeps.putB | apply Keeps.flag | apply Keeps.incSat | apply Keeps.gapAll | apply Keeps.linkLost | apply Keeps.selfRefresh | apply Keeps.clockFault | apply Keeps.misaligned | apply Keeps.cond | apply Keeps.forEach))
theorem Keeps.audLoss {a s : State} (h : Keeps a s) (kind : Nat) : Keeps a (Machine.State.audLoss s kind) := by
  unfold Machine.State.audLoss
  repeat' (first | with_reducible exact h | with_reducible assumption | intro _ | with_reducible apply Keeps.ite | split | (with_reducible first | apply Keeps.putB | apply Keeps.flag | apply Keeps.audGate | apply Keeps.clockFault))
theorem Keeps.refLoss {a s : State} (h : Keeps a s) : Keeps a (Machine.State.refLoss s) := by
  unfold Machine.State.refLoss
  repeat' (first | with_reducible exact h | with_reducible assumption | intro _ | with_reducible apply Keeps.ite | split | (with_reducible first | apply Keeps.modClk | apply Keeps.loLoss | apply Keeps.misaligned | apply Keeps.sysLoss | apply Keeps.audLoss | apply Keeps.forEach))
theorem Keeps.execAdpllLossOfLock (unit : Fin 7) (s : State) : KeepsOut s (Machine.execAdpllLossOfLock unit s) := by
  unfold Machine.execAdpllLossOfLock
  repeat' (first | with_reducible exact Keeps.refl _ | with_reducible assumption | with_reducible apply KeepsOut.live | intro _ | with_reducible apply Keeps.ite | split | (with_reducible first | apply Keeps.loLoss | apply Keeps.sysLoss | apply Keeps.audLoss | apply Keeps.cond))
theorem Keeps.execAdpllLossOfRef  (s : State) : KeepsOut s (Machine.execAdpllLossOfRef s) := by
  unfold Machine.execAdpllLossOfRef
  repeat' (first | with_reducible exact Keeps.refl _ | with_reducible assumption | with_reducible apply KeepsOut.live | intro _ | with_reducible apply Keeps.ite | split | (with_reducible first | apply Keeps.refLoss | apply Keeps.cond))
theorem Keeps.internalSync {a s : State} (h : Keeps a s) : Keeps a (Machine.State.internalSync s) := by
  unfold Machine.State.internalSync
  repeat' (first | with_reducible exact h | with_reducible assumption | intro _ | with_reducible apply Keeps.ite | split | (with_reducible first | apply Keeps.putB | apply Keeps.inc | apply Keeps.modPip | apply Keeps.modClk | apply Keeps.setTile | apply Keeps.loneLace | apply Keeps.cond))
theorem Keeps.sysLock {a s : State} (h : Keeps a s) (cycle : Nat) : Keeps a (Machine.State.sysLock s cycle) := by
  unfold Machine.State.sysLock
  repeat' (first | with_reducible exact h | with_reducible assumption | intro _ | with_reducible apply Keeps.ite | split | (with_reducible first | apply Keeps.putB | apply Keeps.gapEnd | apply Keeps.trainLink | apply Keeps.selfRefresh | apply Keeps.waitImages | apply Keeps.internalSync | apply Keeps.cond | apply Keeps.forEach))
theorem Keeps.execAdpllLock (unit : Fin 7) (cycle : Nat) (s : State) : KeepsOut s (Machine.execAdpllLock unit cycle s) := by
  unfold Machine.execAdpllLock
  repeat' (first | with_reducible exact Keeps.refl _ | with_reducible assumption | with_reducible apply KeepsOut.live | intro _ | with_reducible apply Keeps.ite | split | (with_reducible first | apply Keeps.loRelock | apply Keeps.audLock | apply Keeps.sysLock | apply Keeps.cond))
theorem Keeps.refSelect {a s : State} (h : Keeps a s) (sel : Bool) : Keeps a (Machine.State.refSelect s sel) := by
  unfold Machine.State.refSelect
  repeat' (first | with_reducible exact h | with_reducible assumption | intro _ | with_reducible apply Keeps.ite | split | (with_reducible first | apply Keeps.putB | apply Keeps.flag | apply Keeps.crystalStops | apply Keeps.refLoss | apply Keeps.cond))
theorem Keeps.execSyncArmReceive (tile frame : Nat) (s : State) : KeepsOut s (Machine.execSyncArmReceive tile frame s) := by
  unfold Machine.execSyncArmReceive
  repeat' (first | with_reducible exact Keeps.refl _ | with_reducible assumption | with_reducible apply KeepsOut.running | intro _ | with_reducible apply Keeps.ite | split | (with_reducible first | apply Keeps.modClk | apply Keeps.bootMsg | apply Keeps.cond))
theorem Keeps.execSyncPulseSample (valid : Bool) (s : State) : KeepsOut s (Machine.execSyncPulseSample valid s) := by
  unfold Machine.execSyncPulseSample
  repeat' (first | with_reducible exact Keeps.refl _ | with_reducible assumption | with_reducible apply KeepsOut.running | intro _ | with_reducible apply Keeps.ite | split | (with_reducible first | apply Keeps.flag | apply Keeps.modClk))
theorem Keeps.loMoved {a s : State} (h : Keeps a s) (n : Fin 5) : Keeps a (Machine.State.loMoved s n) := by
  unfold Machine.State.loMoved
  repeat' (first | with_reducible exact h | with_reducible assumption | intro _ | with_reducible apply Keeps.ite | split | (with_reducible first | apply Keeps.putB | apply Keeps.modLo | apply Keeps.gapAll | apply Keeps.sendEnds | apply Keeps.cond))
theorem Keeps.execSyncEffect (movesSys : Bool) (movesLo : Nat) (movesAud : Bool) (s : State) : KeepsOut s (Machine.execSyncEffect movesSys movesLo movesAud s) := by
  unfold Machine.execSyncEffect
  repeat' (first | with_reducible exact Keeps.refl _ | with_reducible assumption | with_reducible apply KeepsOut.running | intro _ | with_reducible apply Keeps.ite | split | (with_reducible first | apply Keeps.putB | apply Keeps.flag | apply Keeps.inc | apply Keeps.modPip | apply Keeps.modClk | apply Keeps.setTile | apply Keeps.gapEnd | apply Keeps.bootMsg | apply Keeps.audSync | apply Keeps.loMoved | apply Keeps.cond | apply Keeps.forEach))
theorem Keeps.execSyncArmExpiry  (s : State) : KeepsOut s (Machine.execSyncArmExpiry s) := by
  unfold Machine.execSyncArmExpiry
  repeat' (first | with_reducible exact Keeps.refl _ | with_reducible assumption | with_reducible apply KeepsOut.running | intro _ | with_reducible apply Keeps.ite | split | (with_reducible first | apply Keeps.putB | apply Keeps.flag | apply Keeps.modClk | apply Keeps.bootMsg))

end Sys2Proof.Machine
end

