-- ==== Sys2Proof/Laws/Keeps/Mon.lean ====
section
/-! SUPPORT. Mon: what every operation and meaning of this file keeps. -/

namespace Sys2Proof.Machine

theorem Keeps.sensorStep {a s : State} (h : Keeps a s) (n : Fin 8) (t : Option Int) : Keeps a (Machine.State.sensorStep s n t) := by
  unfold Machine.State.sensorStep
  repeat' (first | with_reducible exact h | with_reducible assumption | intro _ | with_reducible apply Keeps.ite | split | (with_reducible first | apply Keeps.put | apply Keeps.putB | apply Keeps.flag | apply Keeps.modFlt | apply Keeps.fault | apply Keeps.cond))
theorem Keeps.junction {a s : State} (h : Keeps a s) : Keeps a (Machine.State.junction s) := by
  unfold Machine.State.junction
  repeat' (first | with_reducible exact h | with_reducible assumption | intro _ | with_reducible apply Keeps.ite | split | (with_reducible first | apply Keeps.modFlt | apply Keeps.fault) | extract_lets)
theorem Keeps.thermal {a s : State} (h : Keeps a s) : Keeps a (Machine.State.thermal s) := by
  unfold Machine.State.thermal
  repeat' (first | with_reducible exact h | with_reducible assumption | intro _ | with_reducible apply Keeps.ite | split | (with_reducible first | apply Keeps.putB | apply Keeps.fault | apply Keeps.radiosSleep))
theorem Keeps.supplyStep {a s : State} (h : Keeps a s) (n : Fin 8) (mv dt : Nat) : Keeps a (Machine.State.supplyStep s n mv dt) := by
  unfold Machine.State.supplyStep
  repeat' (first | with_reducible exact h | with_reducible assumption | intro _ | with_reducible apply Keeps.ite | split | (with_reducible first | apply Keeps.put | apply Keeps.putB | apply Keeps.modFlt))
theorem Keeps.telemTick {a s : State} (h : Keeps a s) (dt : Nat) : Keeps a (Machine.State.telemTick s dt) := by
  unfold Machine.State.telemTick
  repeat' (first | with_reducible exact h | with_reducible assumption | intro _ | with_reducible apply Keeps.ite | split | (with_reducible first | apply Keeps.modTelem))
theorem Keeps.execSensorConversion (temps : List (Option Int)) (mv : List Nat) (s : State) : KeepsOut s (Machine.execSensorConversion temps mv s) := by
  unfold Machine.execSensorConversion
  repeat' (first | with_reducible exact Keeps.refl _ | with_reducible assumption | with_reducible apply KeepsOut.live | intro _ | with_reducible apply Keeps.ite | split | (with_reducible first | apply Keeps.put | apply Keeps.modFlt | apply Keeps.calDue | apply Keeps.storeTemp | apply Keeps.calTemp | apply Keeps.sensorStep | apply Keeps.junction | apply Keeps.thermal | apply Keeps.supplyStep | apply Keeps.telemTick | apply Keeps.foldl))
theorem Keeps.execSupplyRange (supply : Fin 8) (s : State) : KeepsOut s (Machine.execSupplyRange supply s) := by
  unfold Machine.execSupplyRange
  repeat' (first | with_reducible exact Keeps.refl _ | with_reducible assumption | with_reducible apply KeepsOut.live | intro _ | with_reducible apply Keeps.ite | split | (with_reducible first | apply Keeps.modFlt | apply Keeps.fault))
theorem Keeps.execTelemetry  (s : State) : KeepsOut s (Machine.execTelemetry s) := by
  unfold Machine.execTelemetry
  repeat' (first | with_reducible exact Keeps.refl _ | with_reducible assumption | with_reducible apply KeepsOut.running | intro _ | with_reducible apply Keeps.ite | split | (with_reducible first | apply Keeps.modTelem | apply Keeps.record))
theorem Keeps.execFaultSuppressWindowEnd (code : Nat) (s : State) : KeepsOut s (Machine.execFaultSuppressWindowEnd code s) := by
  unfold Machine.execFaultSuppressWindowEnd
  repeat' (first | with_reducible exact Keeps.refl _ | with_reducible assumption | with_reducible apply KeepsOut.live | intro _ | with_reducible apply Keeps.ite | split | (with_reducible first | apply Keeps.modFlt | apply Keeps.faultRec))
theorem Keeps.setTry {a s : State} (h : Keeps a s) (p : Fin 4) (v : Nat) : Keeps a (Machine.State.setTry s p v) := by
  unfold Machine.State.setTry
  repeat' (first | with_reducible exact h | with_reducible assumption | intro _ | with_reducible apply Keeps.ite | split | (with_reducible first | apply Keeps.modFlt))
theorem Keeps.execPathStuckError (path : Fin 4) (s : State) : KeepsOut s (Machine.execPathStuckError path s) := by
  unfold Machine.execPathStuckError
  repeat' (first | with_reducible exact Keeps.refl _ | with_reducible assumption | with_reducible apply KeepsOut.inBlock | intro _ | with_reducible apply Keeps.ite | split | (with_reducible first | apply Keeps.modPath | apply Keeps.gapStart | apply Keeps.fail | apply Keeps.setTry | apply Keeps.cond))
theorem Keeps.execPathRetryRestore (path : Fin 4) (cycle : Nat) (s : State) : KeepsOut s (Machine.execPathRetryRestore path cycle s) := by
  unfold Machine.execPathRetryRestore
  repeat' (first | with_reducible exact Keeps.refl _ | with_reducible assumption | with_reducible apply KeepsOut.inBlock | intro _ | with_reducible apply Keeps.ite | split | (with_reducible first | apply Keeps.gapEnd | apply Keeps.setTry | apply Keeps.cond))
theorem Keeps.execPathTransientWindow (path : Fin 4) (s : State) : KeepsOut s (Machine.execPathTransientWindow path s) := by
  unfold Machine.execPathTransientWindow
  repeat' (first | with_reducible exact Keeps.refl _ | with_reducible assumption | with_reducible apply KeepsOut.live | intro _ | with_reducible apply Keeps.ite | split | (with_reducible first | apply Keeps.transientErr | apply Keeps.setTry | apply Keeps.cond))
theorem Keeps.mapWrite {a s : State} (h : Keeps a s) (n : Nat) (w : Word) : Keeps a (Machine.State.mapWrite s n w) := by
  unfold Machine.State.mapWrite
  repeat' (first | with_reducible exact h | with_reducible assumption | intro _ | with_reducible apply Keeps.ite | split | (with_reducible first | apply Keeps.retire | apply Keeps.forEach))

end Sys2Proof.Machine
end

