-- ==== Sys2Proof/Laws/Keeps/Exch.lean ====
section
/-! SUPPORT. Exch: what every operation and meaning of this file keeps. -/

namespace Sys2Proof.Machine

theorem Keeps.putOwned {a s : State} (h : Keeps a s) : Keeps a (Machine.State.putOwned s) := by
  unfold Machine.State.putOwned
  repeat' (first | with_reducible exact h | with_reducible assumption | intro _ | with_reducible apply Keeps.ite | split | (with_reducible first | apply Keeps.put))
theorem Keeps.execExchDefine (d : Desc) (barred : List Nat) (s : State) : KeepsOut s (Machine.execExchDefine d barred s) := by
  unfold Machine.execExchDefine
  repeat' (first | with_reducible exact Keeps.refl _ | with_reducible assumption | with_reducible apply KeepsOut.running | intro _ | with_reducible apply Keeps.ite | split | (with_reducible first | apply Keeps.finish | apply Keeps.bad | apply Keeps.commit | apply Keeps.taking | apply Keeps.laceAll | apply Keeps.partDone | apply Keeps.needBlk | apply Keeps.setDef | apply Keeps.putOwned))
theorem Keeps.modRun {a s : State} (h : Keeps a s) (xid : Nat) (f : ExchRun → ExchRun) : Keeps a (Machine.State.modRun s xid f) := by
  unfold Machine.State.modRun
  repeat' (first | with_reducible exact h | with_reducible assumption | intro _ | with_reducible apply Keeps.ite | split | (with_reducible first | apply Keeps.setRun))
theorem Keeps.exchAck {a s : State} (h : Keeps a s) (peer typ xid octet tile : Nat) : Keeps a (Machine.State.exchAck s peer typ xid octet tile) := by
  unfold Machine.State.exchAck
  repeat' (first | with_reducible exact h | with_reducible assumption | intro _ | with_reducible apply Keeps.ite | split | (with_reducible first | apply Keeps.sendMsg))
theorem Keeps.fixFirst {a s : State} (h : Keeps a s) (xid first : Nat) : Keeps a (Machine.State.fixFirst s xid first) := by
  unfold Machine.State.fixFirst
  repeat' (first | with_reducible exact h | with_reducible assumption | intro _ | with_reducible apply Keeps.ite | split | (with_reducible first | apply Keeps.modExch | apply Keeps.modRun))
theorem Keeps.allConfirmed {a s : State} (h : Keeps a s) (xid : Nat) : Keeps a (Machine.State.allConfirmed s xid) := by
  unfold Machine.State.allConfirmed
  repeat' (first | with_reducible exact h | with_reducible assumption | intro _ | with_reducible apply Keeps.ite | split | (with_reducible first | apply Keeps.bad | apply Keeps.setRun | apply Keeps.tellOthers | apply Keeps.fixFirst))
theorem Keeps.confirmSource {a s : State} (h : Keeps a s) (xid m : Nat) : Keeps a (Machine.State.confirmSource s xid m) := by
  unfold Machine.State.confirmSource
  repeat' (first | with_reducible exact h | with_reducible assumption | intro _ | with_reducible apply Keeps.ite | split | (with_reducible first | apply Keeps.sendReq | apply Keeps.modRun | apply Keeps.allConfirmed | apply Keeps.cond) | extract_lets)
theorem Keeps.exchBegin {a s : State} (h : Keeps a s) (xid : Nat) (e : ExchDef) (desc : Option Desc) (start count : Nat) : Keeps a (Machine.State.exchBegin s xid e desc start count) := by
  unfold Machine.State.exchBegin
  repeat' (first | with_reducible exact h | with_reducible assumption | intro _ | with_reducible apply Keeps.ite | split | (with_reducible first | apply Keeps.setRun | apply Keeps.exchAck | apply Keeps.allConfirmed | apply Keeps.confirmSource | apply Keeps.cond | apply Keeps.forEach))
theorem Keeps.exchStartHead {a s : State} (h : Keeps a s) (d : Desc) (barred addBarred : List Nat) : Keeps a (Machine.State.exchStartHead s d barred addBarred) := by
  unfold Machine.State.exchStartHead
  repeat' (first | with_reducible exact h | with_reducible assumption | intro _ | with_reducible apply Keeps.ite | split | (with_reducible first | apply Keeps.sendReq | apply Keeps.finish | apply Keeps.bad | apply Keeps.needBlk | apply Keeps.exchBegin | apply Keeps.forEach) | extract_lets)
theorem Keeps.execExchStart (d : Desc) (barred addBarred : List Nat) (s : State) : KeepsOut s (Machine.execExchStart d barred addBarred s) := by
  unfold Machine.execExchStart
  repeat' (first | with_reducible exact Keeps.refl _ | with_reducible assumption | with_reducible apply KeepsOut.running | intro _ | with_reducible apply Keeps.ite | split | (with_reducible first | apply Keeps.taking | apply Keeps.tellOthers | apply Keeps.exchBegin | apply Keeps.exchStartHead))
theorem Keeps.execExchPostReceive (xid octet : Nat) (s : State) : KeepsOut s (Machine.execExchPostReceive xid octet s) := by
  unfold Machine.execExchPostReceive
  repeat' (first | with_reducible exact Keeps.refl _ | with_reducible assumption | with_reducible apply KeepsOut.inBlock | intro _ | with_reducible apply Keeps.ite | split | (with_reducible first | apply Keeps.modRun | apply Keeps.confirmSource | apply Keeps.cond))
theorem Keeps.execExchConfirmReceive (xid src : Nat) (s : State) : KeepsOut s (Machine.execExchConfirmReceive xid src s) := by
  unfold Machine.execExchConfirmReceive
  repeat' (first | with_reducible exact Keeps.refl _ | with_reducible assumption | with_reducible apply KeepsOut.inBlock | intro _ | with_reducible apply Keeps.ite | split | (with_reducible first | apply Keeps.confirmSource | apply Keeps.cond))
theorem Keeps.exchLimit {a s : State} (h : Keeps a s) (xid last : Nat) : Keeps a (Machine.State.exchLimit s xid last) := by
  unfold Machine.State.exchLimit
  repeat' (first | with_reducible exact h | with_reducible assumption | intro _ | with_reducible apply Keeps.ite | split | (with_reducible first | apply Keeps.modRun))
theorem Keeps.execExchStop (d : Desc) (s : State) : KeepsOut s (Machine.execExchStop d s) := by
  unfold Machine.execExchStop
  repeat' (first | with_reducible exact Keeps.refl _ | with_reducible assumption | with_reducible apply KeepsOut.running | intro _ | with_reducible apply Keeps.ite | split | (with_reducible first | apply Keeps.finish | apply Keeps.commit | apply Keeps.taking | apply Keeps.needBlk | apply Keeps.tellOthers | apply Keeps.modRun | apply Keeps.exchLimit | apply Keeps.cond))
theorem Keeps.exchCancel {a s : State} (h : Keeps a s) (d : Desc) : Keeps a (Machine.State.exchCancel s d) := by
  unfold Machine.State.exchCancel
  repeat' (first | with_reducible exact h | with_reducible assumption | intro _ | with_reducible apply Keeps.ite | split | (with_reducible first | apply Keeps.endExch | apply Keeps.tellOthers | apply Keeps.cond | apply Keeps.forEach))
theorem Keeps.exchBoundary {a s : State} (h : Keeps a s) : Keeps a (Machine.State.exchBoundary s) := by
  unfold Machine.State.exchBoundary
  repeat' (first | with_reducible exact h | with_reducible assumption | intro _ | with_reducible apply Keeps.ite | split | (with_reducible first | apply Keeps.modExch | apply Keeps.commit | apply Keeps.endExch | apply Keeps.regionDone | apply Keeps.modRun | apply Keeps.cond | apply Keeps.forEach) | extract_lets)
theorem Keeps.sendKept {a s : State} (h : Keeps a s) (peer : Nat) (k : Kept) : Keeps a (Machine.State.sendKept s peer k) := by
  unfold Machine.State.sendKept
  repeat' (first | with_reducible exact h | with_reducible assumption | intro _ | with_reducible apply Keeps.ite | split | (with_reducible first | apply Keeps.modExch | apply Keeps.sendMsg))
theorem Keeps.execExchTileSend  (s : State) : KeepsOut s (Machine.execExchTileSend s) := by
  unfold Machine.execExchTileSend
  repeat' (first | with_reducible exact Keeps.refl _ | with_reducible assumption | with_reducible apply KeepsOut.inBlock | intro _ | with_reducible apply Keeps.ite | split | (with_reducible first | apply Keeps.modExch | apply Keeps.sendKept) | extract_lets)
theorem Keeps.nack {a s : State} (h : Keeps a s) (xid src octet tile : Nat) : Keeps a (Machine.State.nack s xid src octet tile) := by
  unfold Machine.State.nack
  repeat' (first | with_reducible exact h | with_reducible assumption | intro _ | with_reducible apply Keeps.ite | split | (with_reducible first | apply Keeps.flag | apply Keeps.incSat | apply Keeps.fault | apply Keeps.exchAck | apply Keeps.cond))
theorem Keeps.execExchTileArrive (src : Nat) (words : List Word) (res : List Nat) (s : State) : KeepsOut s (Machine.execExchTileArrive src words res s) := by
  unfold Machine.execExchTileArrive
  repeat' (first | with_reducible exact Keeps.refl _ | with_reducible assumption | with_reducible apply KeepsOut.inBlock | intro _ | with_reducible apply Keeps.ite | split | (with_reducible first | apply Keeps.flag | apply Keeps.modExch | apply Keeps.exchAck | apply Keeps.nack))
theorem Keeps.execExchAckReceive (xid octet tile released : Nat) (s : State) : KeepsOut s (Machine.execExchAckReceive xid octet tile released s) := by
  unfold Machine.execExchAckReceive
  repeat' (first | with_reducible exact Keeps.refl _ | with_reducible assumption | with_reducible apply KeepsOut.inBlock | intro _ | with_reducible apply Keeps.ite | split | (with_reducible first | apply Keeps.modExch))
theorem Keeps.execExchNackReceive (xid octet tile released : Nat) (s : State) : KeepsOut s (Machine.execExchNackReceive xid octet tile released s) := by
  unfold Machine.execExchNackReceive
  repeat' (first | with_reducible exact Keeps.refl _ | with_reducible assumption | with_reducible apply KeepsOut.inBlock | intro _ | with_reducible apply Keeps.ite | split | (with_reducible first | apply Keeps.modExch | apply Keeps.cond) | extract_lets)
theorem Keeps.execExchTileDeadline (xid tile elsewhere : Nat) (s : State) : KeepsOut s (Machine.execExchTileDeadline xid tile elsewhere s) := by
  unfold Machine.execExchTileDeadline
  repeat' (first | with_reducible exact Keeps.refl _ | with_reducible assumption | with_reducible apply KeepsOut.inBlock | intro _ | with_reducible apply Keeps.ite | split | (with_reducible first | apply Keeps.flag | apply Keeps.add | apply Keeps.modExch | apply Keeps.endExch | apply Keeps.modRun | apply Keeps.cond))
theorem Keeps.execExchWindowRelease (octet tile : Nat) (s : State) : KeepsOut s (Machine.execExchWindowRelease octet tile s) := by
  unfold Machine.execExchWindowRelease
  repeat' (first | with_reducible exact Keeps.refl _ | with_reducible assumption | with_reducible apply KeepsOut.inBlock | intro _ | with_reducible apply Keeps.ite | split | (with_reducible first | apply Keeps.modExch | apply Keeps.cond))
theorem Keeps.addFails {a s : State} (h : Keeps a s) (tile : Nat) (l : Nat × Nat) : Keeps a (Machine.State.addFails s tile l).1 := by
  unfold Machine.State.addFails
  repeat' (first | with_reducible exact h | with_reducible assumption | intro _ | with_reducible apply Keeps.ite | split | (with_reducible first | apply Keeps.incSat | apply Keeps.fault | apply Keeps.fail | apply Keeps.transientErr) | extract_lets)
theorem Keeps.addTo {a s : State} (h : Keeps a s) (src : Nat) (words : List Word) (signed : Bool) (fails : List (Nat × Nat)) : Keeps a (Machine.State.addTo s src words signed fails) := by
  unfold Machine.State.addTo
  repeat' (first | with_reducible exact h | with_reducible assumption | intro _ | with_reducible apply Keeps.ite | split | (with_reducible first | apply Keeps.modExch | apply Keeps.addFails | apply Keeps.foldl | apply Keeps.foldlFst))
theorem Keeps.execSurveyContribution (octet tile : Nat) (s : State) : KeepsOut s (Machine.execSurveyContribution octet tile s) := by
  unfold Machine.execSurveyContribution
  repeat' (first | with_reducible exact Keeps.refl _ | with_reducible assumption | with_reducible apply KeepsOut.inBlock | intro _ | with_reducible apply Keeps.ite | split | (with_reducible first | apply Keeps.complete | apply Keeps.sendKept | apply Keeps.addTo | apply Keeps.cond))
theorem Keeps.execAddArrival (src : Nat) (words : List Word) (res : List Nat) (fails : List (Nat × Nat)) (s : State) : KeepsOut s (Machine.execAddArrival src words res fails s) := by
  unfold Machine.execAddArrival
  repeat' (first | with_reducible exact Keeps.refl _ | with_reducible assumption | with_reducible apply KeepsOut.inBlock | intro _ | with_reducible apply Keeps.ite | split | (with_reducible first | apply Keeps.flag | apply Keeps.complete | apply Keeps.exchAck | apply Keeps.nack | apply Keeps.addTo))
theorem Keeps.execAccumulatorComplete (octet tile : Nat) (s : State) : KeepsOut s (Machine.execAccumulatorComplete octet tile s) := by
  unfold Machine.execAccumulatorComplete
  repeat' (first | with_reducible exact Keeps.refl _ | with_reducible assumption | with_reducible apply KeepsOut.inBlock | intro _ | with_reducible apply Keeps.ite | split | (with_reducible first | apply Keeps.modExch | apply Keeps.complete | apply Keeps.cond))
theorem Keeps.execSurveyQuery (src tag k periods : Nat) (s : State) : KeepsOut s (Machine.execSurveyQuery src tag k periods s) := by
  unfold Machine.execSurveyQuery
  repeat' (first | with_reducible exact Keeps.refl _ | with_reducible assumption | with_reducible apply KeepsOut.inBlock | intro _ | with_reducible apply Keeps.ite | split | (with_reducible first | apply Keeps.sendMsg))
theorem Keeps.execBeamform (octet tile : Nat) (s : State) : KeepsOut s (Machine.execBeamform octet tile s) := by
  unfold Machine.execBeamform
  repeat' (first | with_reducible exact Keeps.refl _ | with_reducible assumption | with_reducible apply KeepsOut.running | intro _ | with_reducible apply Keeps.ite | split | (with_reducible first | apply Keeps.inc | apply Keeps.modExch))
theorem Keeps.exchHeld {a s : State} (h : Keeps a s) : Keeps a (Machine.State.exchHeld s) := by
  unfold Machine.State.exchHeld
  repeat' (first | with_reducible exact h | with_reducible assumption | intro _ | with_reducible apply Keeps.ite | split | (with_reducible first | apply Keeps.modExch | apply Keeps.endExch | apply Keeps.tellOthers | apply Keeps.cond))

end Sys2Proof.Machine
end

