-- ==== Sys2Proof/Laws/Keeps/Pwr.lean ====
section
/-! SUPPORT. Pwr: what every operation and meaning of this file keeps. -/

namespace Sys2Proof.Machine

theorem Keeps.linksSleep {a s : State} (h : Keeps a s) : Keeps a (Machine.State.linksSleep s) := by
  unfold Machine.State.linksSleep
  repeat' (first | with_reducible exact h | with_reducible assumption | intro _ | with_reducible apply Keeps.ite | split | (with_reducible first | apply Keeps.put | apply Keeps.emit | apply Keeps.cond | apply Keeps.forEach))
theorem Keeps.linksWake {a s : State} (h : Keeps a s) : Keeps a (Machine.State.linksWake s) := by
  unfold Machine.State.linksWake
  repeat' (first | with_reducible exact h | with_reducible assumption | intro _ | with_reducible apply Keeps.ite | split | (with_reducible first | apply Keeps.put | apply Keeps.emit | apply Keeps.pump | apply Keeps.cond | apply Keeps.forEach))
theorem Keeps.linksIdle {a s : State} (h : Keeps a s) : Keeps a (Machine.State.linksIdle s) := by
  unfold Machine.State.linksIdle
  repeat' (first | with_reducible exact h | with_reducible assumption | intro _ | with_reducible apply Keeps.ite | split | (with_reducible first | apply Keeps.put | apply Keeps.putB | apply Keeps.modLnk | apply Keeps.modLink | apply Keeps.retree | apply Keeps.cond | apply Keeps.forEach))
theorem Keeps.execPowerEntryComplete  (s : State) : KeepsOut s (Machine.execPowerEntryComplete s) := by
  unfold Machine.execPowerEntryComplete
  repeat' (first | with_reducible exact Keeps.refl _ | with_reducible assumption | with_reducible apply KeepsOut.running | intro _ | with_reducible apply Keeps.ite | split | (with_reducible first | apply Keeps.put | apply Keeps.putB | apply Keeps.modPwr | apply Keeps.modClk | apply Keeps.selfRefresh | apply Keeps.audGate | apply Keeps.misaligned | apply Keeps.linksSleep | apply Keeps.linksIdle | apply Keeps.cond))
theorem Keeps.ownExit {a s : State} (h : Keeps a s) : Keeps a (Machine.State.ownExit s) := by
  unfold Machine.State.ownExit
  repeat' (first | with_reducible exact h | with_reducible assumption | intro _ | with_reducible apply Keeps.ite | split | (with_reducible first | apply Keeps.wake | apply Keeps.cond))
theorem Keeps.execPowerOwnExit  (s : State) : KeepsOut s (Machine.execPowerOwnExit s) := by
  unfold Machine.execPowerOwnExit
  repeat' (first | with_reducible exact Keeps.refl _ | with_reducible assumption | with_reducible apply KeepsOut.running | intro _ | with_reducible apply Keeps.ite | split | (with_reducible first | apply Keeps.ownExit))
theorem Keeps.leave {a s : State} (h : Keeps a s) (d : Nat) : Keeps a (Machine.State.leave s d) := by
  unfold Machine.State.leave
  repeat' (first | with_reducible exact h | with_reducible assumption | intro _ | with_reducible apply Keeps.ite | split | (with_reducible first | apply Keeps.put | apply Keeps.putB | apply Keeps.modBoot | apply Keeps.trainLink | apply Keeps.selfRefresh | apply Keeps.accepted | apply Keeps.internalSync | apply Keeps.linksWake | apply Keeps.cond | apply Keeps.forEach))
theorem Keeps.execPowerExitComplete  (s : State) : KeepsOut s (Machine.execPowerExitComplete s) := by
  unfold Machine.execPowerExitComplete
  repeat' (first | with_reducible exact Keeps.refl _ | with_reducible assumption | with_reducible apply KeepsOut.running | intro _ | with_reducible apply Keeps.ite | split | (with_reducible first | apply Keeps.put | apply Keeps.modPwr | apply Keeps.readyFrom | apply Keeps.leave | apply Keeps.cond))
theorem Keeps.execPowerStateEntry (target : Fin 4) (s : State) : KeepsOut s (Machine.execPowerStateEntry target s) := by
  unfold Machine.execPowerStateEntry
  repeat' (first | with_reducible exact Keeps.refl _ | with_reducible assumption | with_reducible apply KeepsOut.running | intro _ | with_reducible apply Keeps.ite | split | (with_reducible first | apply Keeps.modPwr | apply Keeps.leave | apply Keeps.cond))
theorem Keeps.execDwellExpiry  (s : State) : KeepsOut s (Machine.execDwellExpiry s) := by
  unfold Machine.execDwellExpiry
  repeat' (first | with_reducible exact Keeps.refl _ | with_reducible assumption | with_reducible apply KeepsOut.live | intro _ | with_reducible apply Keeps.ite | split | (with_reducible first | apply Keeps.modPwr))
theorem Keeps.execWakeInEdge  (s : State) : KeepsOut s (Machine.execWakeInEdge s) := by
  unfold Machine.execWakeInEdge
  repeat' (first | with_reducible exact Keeps.refl _ | with_reducible assumption | with_reducible apply KeepsOut.done | intro _ | with_reducible apply Keeps.ite | split | (with_reducible first | apply Keeps.modPwr | apply Keeps.wake))
theorem Keeps.execLaceRestStart  (s : State) : KeepsOut s (Machine.execLaceRestStart s) := by
  unfold Machine.execLaceRestStart
  repeat' (first | with_reducible exact Keeps.refl _ | with_reducible assumption | with_reducible apply KeepsOut.running | intro _ | with_reducible apply Keeps.ite | split | (with_reducible first | apply Keeps.putB | apply Keeps.modPwr | apply Keeps.sendMsg))
theorem Keeps.execRestReceive  (s : State) : KeepsOut s (Machine.execRestReceive s) := by
  unfold Machine.execRestReceive
  repeat' (first | with_reducible exact Keeps.refl _ | with_reducible assumption | with_reducible apply KeepsOut.running | intro _ | with_reducible apply Keeps.ite | split | (with_reducible first | apply Keeps.putB | apply Keeps.modPwr | apply Keeps.cond))
theorem Keeps.execLaceRestEnd  (s : State) : KeepsOut s (Machine.execLaceRestEnd s) := by
  unfold Machine.execLaceRestEnd
  repeat' (first | with_reducible exact Keeps.refl _ | with_reducible assumption | with_reducible apply KeepsOut.running | intro _ | with_reducible apply Keeps.ite | split | (with_reducible first | apply Keeps.putB | apply Keeps.modPwr | apply Keeps.sendMsg | apply Keeps.pipBeacon | apply Keeps.fireNext | apply Keeps.cond))
theorem Keeps.execResumeReceive  (s : State) : KeepsOut s (Machine.execResumeReceive s) := by
  unfold Machine.execResumeReceive
  repeat' (first | with_reducible exact Keeps.refl _ | with_reducible assumption | with_reducible apply KeepsOut.running | intro _ | with_reducible apply Keeps.ite | split | (with_reducible first | apply Keeps.putB | apply Keeps.modPwr | apply Keeps.sendMsg | apply Keeps.cond))
theorem Keeps.execResumeAckReceive (member : Nat) (s : State) : KeepsOut s (Machine.execResumeAckReceive member s) := by
  unfold Machine.execResumeAckReceive
  repeat' (first | with_reducible exact Keeps.refl _ | with_reducible assumption | with_reducible apply KeepsOut.running | intro _ | with_reducible apply Keeps.ite | split | (with_reducible first | apply Keeps.modPwr | apply Keeps.fireNext | apply Keeps.cond))
theorem Keeps.execAspmL1Entry (sub : Fin 3) (s : State) : KeepsOut s (Machine.execAspmL1Entry sub s) := by
  unfold Machine.execAspmL1Entry
  repeat' (first | with_reducible exact Keeps.refl _ | with_reducible assumption | with_reducible apply KeepsOut.live | intro _ | with_reducible apply Keeps.ite | split | (with_reducible first | apply Keeps.modPcie | apply Keeps.cond))
theorem Keeps.execAspmL1Exit  (s : State) : KeepsOut s (Machine.execAspmL1Exit s) := by
  unfold Machine.execAspmL1Exit
  repeat' (first | with_reducible exact Keeps.refl _ | with_reducible assumption | with_reducible apply KeepsOut.live | intro _ | with_reducible apply Keeps.ite | split | (with_reducible first | apply Keeps.modPcie))

end Sys2Proof.Machine
end

