-- ==== Sys2Proof/Laws/Keeps/Hif.lean ====
section
/-! SUPPORT. Hif: what every operation and meaning of this file keeps. -/

namespace Sys2Proof.Machine

theorem Keeps.unbuffer {a s : State} (h : Keeps a s) (r : Rec) : Keeps a (Machine.State.unbuffer s r) := by
  unfold Machine.State.unbuffer
  repeat' (first | with_reducible exact h | with_reducible assumption | intro _ | with_reducible apply Keeps.ite | split | (with_reducible first | apply Keeps.toRing | apply Keeps.takeRec))
theorem Keeps.flushBuf {a s : State} (h : Keeps a s) : Keeps a (Machine.State.flushBuf s) := by
  unfold Machine.State.flushBuf
  repeat' (first | with_reducible exact h | with_reducible assumption | intro _ | split | (with_reducible first | apply Keeps.takeRec | apply Keeps.unbuffer | apply Keeps.cond | apply Keeps.forEach | apply Keeps.modHif) | exact Nat.le_max_right _ _ | (simp only [List.length_append, List.length_cons, List.length_nil]; omega))
theorem Keeps.sendPending {a s : State} (h : Keeps a s) : Keeps a (Machine.State.sendPending s) := by
  unfold Machine.State.sendPending
  repeat' (first | with_reducible exact h | with_reducible assumption | intro _ | with_reducible apply Keeps.ite | split | (with_reducible first | apply Keeps.sendVector | apply Keeps.cond | apply Keeps.forEach | apply Keeps.modHif) | exact Nat.le_max_right _ _)
theorem Keeps.drain {a s : State} (h : Keeps a s) : Keeps a (Machine.State.drain s) := by
  unfold Machine.State.drain
  repeat' (first | with_reducible exact h | with_reducible assumption | intro _ | with_reducible apply Keeps.ite | split | (with_reducible first | apply Keeps.signalRing | apply Keeps.post | apply Keeps.flushBuf | apply Keeps.sendPending | apply Keeps.forEach | apply Keeps.modHif) | exact Nat.le_max_right _ _)
theorem Keeps.execPciPmD3hotEnter  (s : State) : KeepsOut s (Machine.execPciPmD3hotEnter s) := by
  unfold Machine.execPciPmD3hotEnter
  repeat' (first | with_reducible exact Keeps.refl _ | with_reducible assumption | with_reducible apply KeepsOut.live | intro _ | with_reducible apply Keeps.ite | split | (with_reducible first | apply Keeps.modPcie | apply Keeps.cond))
theorem Keeps.execOverloadPost (ring : Fin 24) (s : State) : KeepsOut s (Machine.execOverloadPost ring s) := by
  unfold Machine.execOverloadPost
  repeat' (first | with_reducible exact Keeps.refl _ | with_reducible assumption | with_reducible apply KeepsOut.live | intro _ | with_reducible apply Keeps.ite | split | (with_reducible first | apply Keeps.reportDrops | apply Keeps.cond))
theorem Keeps.execCaptureDropReport (ring : Fin 4) (s : State) : KeepsOut s (Machine.execCaptureDropReport ring s) := by
  unfold Machine.execCaptureDropReport
  repeat' (first | with_reducible exact Keeps.refl _ | with_reducible assumption | with_reducible apply KeepsOut.live | intro _ | with_reducible apply Keeps.ite | split | (with_reducible first | apply Keeps.modRing | apply Keeps.record))
theorem Keeps.execMsixSend (ring : Fin 24) (s : State) : KeepsOut s (Machine.execMsixSend ring s) := by
  unfold Machine.execMsixSend
  repeat' (first | with_reducible exact Keeps.refl _ | with_reducible assumption | with_reducible apply KeepsOut.live | intro _ | with_reducible apply Keeps.ite | split | (with_reducible first | apply Keeps.signalRing))
theorem Keeps.execMsixTableWrite (off : Option Nat) (w : Word) (s : State) : KeepsOut s (Machine.execMsixTableWrite off w s) := by
  unfold Machine.execMsixTableWrite
  repeat' (first | with_reducible exact Keeps.refl _ | with_reducible assumption | with_reducible apply KeepsOut.live | intro _ | with_reducible apply Keeps.ite | split | (with_reducible first | apply Keeps.sendPending | apply Keeps.modHif) | exact Nat.le_max_right _ _)
theorem Keeps.execDoorbellArrival (off : Nat) (w : Word) (full : Bool) (s : State) : KeepsOut s (Machine.execDoorbellArrival off w full s) := by
  unfold Machine.execDoorbellArrival
  repeat' (first | with_reducible exact Keeps.refl _ | with_reducible assumption | with_reducible apply KeepsOut.running | intro _ | with_reducible apply Keeps.ite | split | (with_reducible first | apply Keeps.modRing | apply Keeps.ringErr | apply Keeps.wake))
theorem Keeps.putWaitingN {a : State} : ∀ (n : Nat) {s : State} (_ : Keeps a s) (k : Fin 8), Keeps a (Machine.putWaitingN n s k) := by
  intro n
  induction n with
  | zero => intro s h; intros; exact h
  | succ n ih =>
    intro s h; intros; unfold Machine.putWaitingN
    repeat' (first | with_reducible exact h | with_reducible assumption | intro _ | split | apply ih | (with_reducible first | apply Keeps.putCpl | apply Keeps.modRing) | extract_lets | dsimp only | dsimp +zetaDelta only)
theorem Keeps.putWaiting {a s : State} (h : Keeps a s) (r : Fin 8) : Keeps a (Machine.State.putWaiting s r) := by
  unfold Machine.State.putWaiting
  repeat' (first | with_reducible exact h | with_reducible assumption | intro _ | with_reducible apply Keeps.ite | split | (with_reducible first | apply Keeps.putWaitingN))
theorem Keeps.execDoorbellTake (ring : Fin 24) (s : State) : KeepsOut s (Machine.execDoorbellTake ring s) := by
  unfold Machine.execDoorbellTake
  repeat' (first | with_reducible exact Keeps.refl _ | with_reducible assumption | with_reducible apply KeepsOut.running | intro _ | with_reducible apply Keeps.ite | split | (with_reducible first | apply Keeps.put | apply Keeps.modRing | apply Keeps.ringErr | apply Keeps.putWaiting))
theorem Keeps.capDrop {a s : State} (h : Keeps a s) (r : Fin 4) (status : Nat) : Keeps a (Machine.State.capDrop s r status) := by
  unfold Machine.State.capDrop
  repeat' (first | with_reducible exact h | with_reducible assumption | intro _ | with_reducible apply Keeps.ite | split | (with_reducible first | apply Keeps.sendReq | apply Keeps.capEnd | apply Keeps.cond))
theorem Keeps.writeHifCtl {a s : State} (h : Keeps a s) (w : Word) : Keeps a (Machine.State.writeHifCtl s w) := by
  unfold Machine.State.writeHifCtl
  repeat' (first | with_reducible exact h | with_reducible assumption | intro _ | with_reducible apply Keeps.ite | split | (with_reducible first | apply Keeps.putB | apply Keeps.flag | apply Keeps.ringErr | apply Keeps.flushBuf))
theorem Keeps.writeRingPlace {a s : State} (h : Keeps a s) (n : Fin 24) (off : Nat) (w : Word) : Keeps a (Machine.State.writeRingPlace s n off w) := by
  unfold Machine.State.writeRingPlace
  repeat' (first | with_reducible exact h | with_reducible assumption | intro _ | with_reducible apply Keeps.ite | split | (with_reducible first | apply Keeps.wr | apply Keeps.put | apply Keeps.ringErr))
theorem Keeps.ringEnable {a s : State} (h : Keeps a s) (n : Fin 24) : Keeps a (Machine.State.ringEnable s n) := by
  unfold Machine.State.ringEnable
  repeat' (first | with_reducible exact h | with_reducible assumption | intro _ | with_reducible apply Keeps.ite | split | (with_reducible first | apply Keeps.put | apply Keeps.putB | apply Keeps.modRing | apply Keeps.ringErr | apply Keeps.cond))
theorem Keeps.ringDisable {a s : State} (h : Keeps a s) (n : Fin 24) : Keeps a (Machine.State.ringDisable s n) := by
  unfold Machine.State.ringDisable
  repeat' (first | with_reducible exact h | with_reducible assumption | intro _ | with_reducible apply Keeps.ite | split | (with_reducible first | apply Keeps.putB | apply Keeps.add | apply Keeps.modRing | apply Keeps.writeCpl | apply Keeps.drops | apply Keeps.capDrop | apply Keeps.forEach | apply Keeps.modHif) | exact Nat.le_max_right _ _)
theorem Keeps.writeRingCtl {a s : State} (h : Keeps a s) (n : Fin 24) (w : Word) : Keeps a (Machine.State.writeRingCtl s n w) := by
  unfold Machine.State.writeRingCtl
  repeat' (first | with_reducible exact h | with_reducible assumption | intro _ | with_reducible apply Keeps.ite | split | (with_reducible first | apply Keeps.put | apply Keeps.ringEnable | apply Keeps.ringDisable | apply Keeps.cond) | extract_lets)
theorem Keeps.regionReset {a s : State} (h : Keeps a s) (r : Fin 8) : Keeps a (Machine.State.regionReset s r) := by
  unfold Machine.State.regionReset
  repeat' (first | with_reducible exact h | with_reducible assumption | intro _ | with_reducible apply Keeps.ite | split | (with_reducible first | apply Keeps.cancelEnded | apply Keeps.regionDone | apply Keeps.modHif) | exact Nat.le_max_right _ _ | extract_lets | dsimp only | dsimp +zetaDelta only)
theorem Keeps.restoreReset {a s : State} (h : Keeps a s) : Keeps a (Machine.State.restoreReset s) := by
  unfold Machine.State.restoreReset
  repeat' (first | with_reducible exact h | with_reducible assumption | intro _ | with_reducible apply Keeps.ite | split | (with_reducible first | apply Keeps.bad | apply Keeps.modHif) | exact Nat.le_max_right _ _)
theorem Keeps.hifReset {a s : State} (h : Keeps a s) : Keeps a (Machine.State.hifReset s) := by
  unfold Machine.State.hifReset
  extract_lets q stale s1 s2 s3 s4 s5
  have h1 : Keeps a s1 := (h.clearRegs ..).add ..
  have h2 : Keeps a s2 := h1.modHif _ (Nat.le_max_right ..)
  have h3 : Keeps a s3 := h2.modTop _ rfl
  have h4 : Keeps a s4 := h3.forEach _ _ (fun _ _ k => k.capDrop ..)
  have h5 : Keeps a s5 := h4.forEach _ _ (fun _ _ k => (k.modSvc _).bad ..)
  split
  · exact h3
  · exact (h5.forEach _ _ (fun _ _ k => k.regionReset _)).restoreReset
theorem Keeps.functionReset {a s : State} (h : Keeps a s) : Keeps a (Machine.State.functionReset s) := by
  unfold Machine.State.functionReset
  repeat' (first | with_reducible exact h | with_reducible assumption | intro _ | with_reducible apply Keeps.ite | split | (with_reducible first | apply Keeps.modPcie | apply Keeps.modHif) | exact Nat.le_max_right _ _)

end Sys2Proof.Machine
end

