-- ==== Sys2Proof/Laws/Keeps/Reset.lean ====
section
/-! SUPPORT. Reset: what every operation and meaning of this file keeps. -/

namespace Sys2Proof.Machine

theorem Keeps.hardReset {a s : State} (h : Keeps a s) (por : Bool) : Keeps a (Machine.State.hardReset s por) :=
  h.trans ⟨rfl, rfl, rfl, ⟨[], rfl⟩, Nat.le_refl _, fun _ => rfl, fun _ => rfl, Nat.zero_le _⟩
theorem Keeps.retiredMirrors {a s : State} (h : Keeps a s) : Keeps a (Machine.State.retiredMirrors s) := by
  unfold Machine.State.retiredMirrors
  repeat' (first | with_reducible exact h | with_reducible assumption | intro _ | with_reducible apply Keeps.ite | split | (with_reducible first | apply Keeps.put | apply Keeps.putB | apply Keeps.cond | apply Keeps.forEach))
theorem Keeps.softCleared {a s : State} (h : Keeps a s) : Keeps a (Machine.State.softCleared s) :=
  h.trans ⟨rfl, rfl, rfl, ⟨[], rfl⟩, Nat.le_refl _, fun w => Sparse.wf_filter _ _ _ w, fun _ => rfl, Nat.zero_le _⟩
theorem Keeps.softReset {a s : State} (h : Keeps a s) : Keeps a (Machine.State.softReset s) := by
  unfold Machine.State.softReset
  repeat' (first | with_reducible exact h | with_reducible assumption | intro _ | with_reducible apply Keeps.ite | split | (with_reducible first | apply Keeps.putB | apply Keeps.loneLace | apply Keeps.waitImages | apply Keeps.retiredMirrors | apply Keeps.softCleared | apply Keeps.cond))
theorem Keeps.lnkHeld {a s : State} (h : Keeps a s) : Keeps a (Machine.State.lnkHeld s) := by
  unfold Machine.State.lnkHeld
  repeat' (first | with_reducible exact h | with_reducible assumption | intro _ | with_reducible apply Keeps.ite | split | (with_reducible first | apply Keeps.wr | apply Keeps.put | apply Keeps.cond | apply Keeps.forEach))
theorem Keeps.blkCleared {a s : State} (h : Keeps a s) (b : Blk) : Keeps a (Machine.State.blkCleared s b) := by
  unfold Machine.State.blkCleared
  repeat' (first | with_reducible exact h | with_reducible assumption | intro _ | with_reducible apply Keeps.ite | split | (with_reducible first | apply Keeps.wr | apply Keeps.clearRegs | apply Keeps.radioHeld | apply Keeps.pipHeld | apply Keeps.sampHeld | apply Keeps.tagHeld | apply Keeps.calHeld | apply Keeps.bcstHeld | apply Keeps.audHeld | apply Keeps.hifReset | apply Keeps.exchHeld | apply Keeps.retiredMirrors | apply Keeps.lnkHeld))
theorem Keeps.holdBlk {a s : State} (h : Keeps a s) (b : Blk) : Keeps a (Machine.State.holdBlk s b) := by
  unfold Machine.State.holdBlk
  repeat' (first | with_reducible exact h | with_reducible assumption | intro _ | with_reducible apply Keeps.ite | split | (with_reducible first | apply Keeps.hold | apply Keeps.blkCleared | apply Keeps.modTop) | rfl)
theorem Keeps.releaseBlk {a s : State} (h : Keeps a s) (b : Blk) : Keeps a (Machine.State.releaseBlk s b) := by
  unfold Machine.State.releaseBlk
  repeat' (first | with_reducible exact h | with_reducible assumption | intro _ | with_reducible apply Keeps.ite | split | (with_reducible first | apply Keeps.hold | apply Keeps.cond | apply Keeps.modTop) | rfl)
theorem Keeps.writeBlockReset {a s : State} (h : Keeps a s) (w : Word) : Keeps a (Machine.State.writeBlockReset s w) := by
  unfold Machine.State.writeBlockReset
  repeat' (first | with_reducible exact h | with_reducible assumption | intro _ | with_reducible apply Keeps.ite | split | (with_reducible first | apply Keeps.holdBlk | apply Keeps.releaseBlk | apply Keeps.forEach))
theorem Keeps.softDue {a s : State} (h : Keeps a s) : Keeps a (Machine.State.softDue s) := by
  unfold Machine.State.softDue
  repeat' (first | with_reducible exact h | with_reducible assumption | intro _ | with_reducible apply Keeps.ite | split | (with_reducible first | apply Keeps.softReset | apply Keeps.cond))

end Sys2Proof.Machine
end

