-- ==== Sys2Proof/Laws/Keeps/Access.lean ====
section
/-! SUPPORT. Access: what every operation and meaning of this file keeps. -/

namespace Sys2Proof.Machine

theorem Keeps.refused {a s : State} (h : Keeps a s) (r : Reach) (p : Port) (write : Bool) (off : Nat) : Keeps a (Machine.State.refused s r p write off) := by
  unfold Machine.State.refused
  repeat' (first | with_reducible exact h | with_reducible assumption | intro _ | with_reducible apply Keeps.ite | split | (with_reducible first | apply Keeps.flag | apply Keeps.accErr | apply Keeps.rsvdAcc | apply Keeps.cond))
theorem Keeps.serveRead {a s : State} (h : Keeps a s) (p : Port) (off : Nat) : Keeps a (Machine.State.serveRead s p off).2 := by
  unfold Machine.State.serveRead
  repeat' (first | with_reducible exact h | with_reducible assumption | intro _ | with_reducible apply Keeps.ite | split | (with_reducible first | apply Keeps.refused | apply Keeps.modTop) | rfl)
theorem Keeps.readRun {a : State} : ∀ (n : Nat) {s : State} (_ : Keeps a s) (p : Port) (off : Nat), Keeps a (Machine.readRun n s p off).2 := by
  intro n
  induction n with
  | zero => intro s h; intros; exact h
  | succ n ih =>
    intro s h; intros; unfold Machine.readRun
    repeat' (first | with_reducible exact h | with_reducible assumption | intro _ | split | apply ih | (with_reducible first | apply Keeps.serveRead) | extract_lets | dsimp only | dsimp +zetaDelta only)
theorem Keeps.dbgGo {a s : State} (h : Keeps a s) (flips : List (Nat × Bool)) : Keeps a (Machine.State.dbgGo s flips) := by
  unfold Machine.State.dbgGo
  repeat' (first | with_reducible exact h | with_reducible assumption | intro _ | with_reducible apply Keeps.ite | split | (with_reducible first | apply Keeps.wr | apply Keeps.put | apply Keeps.flag | apply Keeps.storeWrite | apply Keeps.eccRead))
theorem Keeps.writeLoCtl {a s : State} (h : Keeps a s) (n : Fin 5) (w : Word) : Keeps a (Machine.State.writeLoCtl s n w) := by
  unfold Machine.State.writeLoCtl
  repeat' (first | with_reducible exact h | with_reducible assumption | intro _ | with_reducible apply Keeps.ite | split | (with_reducible first | apply Keeps.put | apply Keeps.putB | apply Keeps.loRequest | apply Keeps.cond))
theorem Keeps.landPair {a s : State} (hk : Keeps a s) (lo : Nat) (l h : Word) (t : WriteAt) : Keeps a (Machine.State.landPair s lo l h t) := by
  unfold Machine.State.landPair
  repeat' (first | with_reducible exact hk | with_reducible assumption | intro _ | with_reducible apply Keeps.ite | split | (with_reducible first | apply Keeps.wr | apply Keeps.pipHostWrite | apply Keeps.sampMaskLands))
theorem Keeps.afterWrite {a s : State} (h : Keeps a s) (off : Nat) (old w : Word) (t : WriteAt) : Keeps a (Machine.State.afterWrite s off old w t) := by
  unfold Machine.State.afterWrite
  repeat' (first | with_reducible exact h | with_reducible assumption | intro _ | with_reducible apply Keeps.ite | split | (with_reducible first | apply Keeps.modPwr | apply Keeps.modFlt | apply Keeps.loInvalidate | apply Keeps.zArm | apply Keeps.pipSrcChanged | apply Keeps.sampCtlLands | apply Keeps.calWritten | apply Keeps.rosterSized | apply Keeps.syncFire | apply Keeps.bootCtl | apply Keeps.audGo | apply Keeps.audClkWritten | apply Keeps.crystalStops | apply Keeps.ownExit | apply Keeps.dbgGo | apply Keeps.cond))
theorem Keeps.landWrite {a s : State} (h : Keeps a s) (p : Port) (off : Nat) (w : Word) (fs : List Field) (t : WriteAt) : Keeps a (Machine.State.landWrite s p off w fs t) := by
  unfold Machine.State.landWrite
  repeat' (first | with_reducible exact h | with_reducible assumption | intro _ | with_reducible apply Keeps.ite | split | (with_reducible first | apply Keeps.wr | apply Keeps.put | apply Keeps.accErr | apply Keeps.encErr | apply Keeps.windowWrite | apply Keeps.sapWrite | apply Keeps.spdoWrite | apply Keeps.refSelect | apply Keeps.mapWrite | apply Keeps.writeHifCtl | apply Keeps.writeRingPlace | apply Keeps.writeRingCtl | apply Keeps.softReset | apply Keeps.writeBlockReset | apply Keeps.writeLoCtl | apply Keeps.afterWrite | apply Keeps.modTop) | rfl)
theorem Keeps.regWrite {a s : State} (h : Keeps a s) (p : Port) (off : Nat) (w : Word) (t : WriteAt) : Keeps a (Machine.State.regWrite s p off w t) := by
  unfold Machine.State.regWrite
  repeat' (first | with_reducible exact h | with_reducible assumption | intro _ | with_reducible apply Keeps.ite | split | (with_reducible first | apply Keeps.rsvdAcc | apply Keeps.encErr | apply Keeps.landPair | apply Keeps.landWrite | apply Keeps.modTop) | rfl)
theorem Keeps.serveWrite {a s : State} (h : Keeps a s) (p : Port) (off : Nat) (w : Word) (t : WriteAt) : Keeps a (Machine.State.serveWrite s p off w t) := by
  unfold Machine.State.serveWrite
  repeat' (first | with_reducible exact h | with_reducible assumption | intro _ | with_reducible apply Keeps.ite | split | (with_reducible first | apply Keeps.refused | apply Keeps.regWrite))
theorem Keeps.writeRun {a : State} (p : Port) (ws : List Word) : ∀ {s : State} (_ : Keeps a s) (off : Nat), Keeps a (Machine.writeRun s p off ws) := by
  induction ws with
  | nil => intro s h off; exact h
  | cons w ws ih => intro s h off; exact ih (h.serveWrite ..) _
theorem Keeps.hostWrite {a s : State} (h : Keeps a s) (p : Port) (off : Nat) (w : Word) (t : WriteAt) : Keeps a (Machine.State.hostWrite s p off w t) := by
  unfold Machine.State.hostWrite
  repeat' (first | with_reducible exact h | with_reducible assumption | intro _ | with_reducible apply Keeps.ite | split | (with_reducible first | apply Keeps.softDue | apply Keeps.serveWrite | apply Keeps.cond))
theorem Keeps.execRegisterWrite (port : Port) (off : Nat) (words : List Word) (full : Bool) (s : State) : KeepsOut s (Machine.execRegisterWrite port off words full s) := by
  unfold Machine.execRegisterWrite
  repeat' (first | with_reducible exact Keeps.refl _ | with_reducible assumption | with_reducible apply KeepsOut.done | intro _ | with_reducible apply Keeps.ite | split | (with_reducible first | apply Keeps.accErr | apply Keeps.softDue | apply Keeps.writeRun | apply Keeps.cond))
theorem Keeps.execBar0OtherRequest  (s : State) : KeepsOut s (Machine.execBar0OtherRequest s) := by
  unfold Machine.execBar0OtherRequest
  repeat' (first | with_reducible exact Keeps.refl _ | with_reducible assumption | with_reducible apply KeepsOut.done | intro _ | with_reducible apply Keeps.ite | split | (with_reducible first | apply Keeps.emit | apply Keeps.cond))
theorem Keeps.execLoHalfRead (port : Port) (off n : Nat) (s : State) : KeepsOut s (Machine.execLoHalfRead port off n s) := by
  unfold Machine.execLoHalfRead
  repeat' (first | with_reducible exact Keeps.refl _ | with_reducible assumption | with_reducible apply KeepsOut.done | intro _ | with_reducible apply Keeps.ite | split | (with_reducible first | apply Keeps.emit | apply Keeps.readRun))
theorem Keeps.execPairedLoWrite (port : Port) (pip : Bool) (w : Word) (s : State) : KeepsOut s (Machine.execPairedLoWrite port pip w s) := by
  unfold Machine.execPairedLoWrite
  repeat' (first | with_reducible exact Keeps.refl _ | with_reducible assumption | with_reducible apply KeepsOut.done | intro _ | with_reducible apply Keeps.ite | split | (with_reducible first | apply Keeps.hostWrite))
theorem Keeps.execPairedHiWrite (port : Port) (pip : Bool) (w : Word) (ns cycle : Nat) (s : State) : KeepsOut s (Machine.execPairedHiWrite port pip w ns cycle s) := by
  unfold Machine.execPairedHiWrite
  repeat' (first | with_reducible exact Keeps.refl _ | with_reducible assumption | with_reducible apply KeepsOut.done | intro _ | with_reducible apply Keeps.ite | split | (with_reducible first | apply Keeps.hostWrite))
theorem Keeps.execPipCountHostWrite (port : Port) (value : BitVec 64) (ns cycle : Nat) (s : State) : KeepsOut s (Machine.execPipCountHostWrite port value ns cycle s) := by
  unfold Machine.execPipCountHostWrite
  repeat' (first | with_reducible exact Keeps.refl _ | with_reducible assumption | with_reducible apply KeepsOut.done | intro _ | with_reducible apply Keeps.ite | split | (with_reducible first | apply Keeps.hostWrite))
theorem Keeps.execBootStart (port : Port) (w : Word) (busMaster : Bool) (mrrs : Fin 6) (s : State) : KeepsOut s (Machine.execBootStart port w busMaster mrrs s) := by
  unfold Machine.execBootStart
  repeat' (first | with_reducible exact Keeps.refl _ | with_reducible assumption | with_reducible apply KeepsOut.done | intro _ | with_reducible apply Keeps.ite | split | (with_reducible first | apply Keeps.modPcie | apply Keeps.bootCtl | apply Keeps.hostWrite | apply Keeps.cond))
theorem Keeps.execBootForceUntested (port : Port) (w : Word) (s : State) : KeepsOut s (Machine.execBootForceUntested port w s) := by
  unfold Machine.execBootForceUntested
  repeat' (first | with_reducible exact Keeps.refl _ | with_reducible assumption | with_reducible apply KeepsOut.done | intro _ | with_reducible apply Keeps.ite | split | (with_reducible first | apply Keeps.bootCtl | apply Keeps.hostWrite))
theorem Keeps.execBootWindowWrite (port : Port) (index : Fin 64) (w : Word) (s : State) : KeepsOut s (Machine.execBootWindowWrite port index w s) := by
  unfold Machine.execBootWindowWrite
  repeat' (first | with_reducible exact Keeps.refl _ | with_reducible assumption | with_reducible apply KeepsOut.done | intro _ | with_reducible apply Keeps.ite | split | (with_reducible first | apply Keeps.hostWrite))
theorem Keeps.execTopSoftReset (port : Port) (w : Word) (s : State) : KeepsOut s (Machine.execTopSoftReset port w s) := by
  unfold Machine.execTopSoftReset
  repeat' (first | with_reducible exact Keeps.refl _ | with_reducible assumption | with_reducible apply KeepsOut.done | intro _ | with_reducible apply Keeps.ite | split | (with_reducible first | apply Keeps.hostWrite))
theorem Keeps.execBlockResetHold (port : Port) (w : Word) (s : State) : KeepsOut s (Machine.execBlockResetHold port w s) := by
  unfold Machine.execBlockResetHold
  repeat' (first | with_reducible exact Keeps.refl _ | with_reducible assumption | with_reducible apply KeepsOut.done | intro _ | with_reducible apply Keeps.ite | split | (with_reducible first | apply Keeps.hostWrite))
theorem Keeps.execBlockResetRelease (port : Port) (w : Word) (s : State) : KeepsOut s (Machine.execBlockResetRelease port w s) := by
  unfold Machine.execBlockResetRelease
  repeat' (first | with_reducible exact Keeps.refl _ | with_reducible assumption | with_reducible apply KeepsOut.done | intro _ | with_reducible apply Keeps.ite | split | (with_reducible first | apply Keeps.hostWrite))
theorem Keeps.execCompat6Write (port : Port) (w : Word) (s : State) : KeepsOut s (Machine.execCompat6Write port w s) := by
  unfold Machine.execCompat6Write
  repeat' (first | with_reducible exact Keeps.refl _ | with_reducible assumption | with_reducible apply KeepsOut.done | intro _ | with_reducible apply Keeps.ite | split | (with_reducible first | apply Keeps.hostWrite))
theorem Keeps.execDbgGo (w : Word) (flips : List (Nat × Bool)) (s : State) : KeepsOut s (Machine.execDbgGo w flips s) := by
  unfold Machine.execDbgGo
  repeat' (first | with_reducible exact Keeps.refl _ | with_reducible assumption | with_reducible apply KeepsOut.done | intro _ | with_reducible apply Keeps.ite | split | (with_reducible first | apply Keeps.hostWrite))
theorem Keeps.execHifEngineEnable (port : Port) (w : Word) (busMaster : Bool) (s : State) : KeepsOut s (Machine.execHifEngineEnable port w busMaster s) := by
  unfold Machine.execHifEngineEnable
  repeat' (first | with_reducible exact Keeps.refl _ | with_reducible assumption | with_reducible apply KeepsOut.done | intro _ | with_reducible apply Keeps.ite | split | (with_reducible first | apply Keeps.modPcie | apply Keeps.hostWrite | apply Keeps.cond))
theorem Keeps.execHifEngineDisable (port : Port) (w : Word) (s : State) : KeepsOut s (Machine.execHifEngineDisable port w s) := by
  unfold Machine.execHifEngineDisable
  repeat' (first | with_reducible exact Keeps.refl _ | with_reducible assumption | with_reducible apply KeepsOut.done | intro _ | with_reducible apply Keeps.ite | split | (with_reducible first | apply Keeps.hostWrite))
theorem Keeps.execRingEnable (port : Port) (ring : Fin 24) (w : Word) (s : State) : KeepsOut s (Machine.execRingEnable port ring w s) := by
  unfold Machine.execRingEnable
  repeat' (first | with_reducible exact Keeps.refl _ | with_reducible assumption | with_reducible apply KeepsOut.done | intro _ | with_reducible apply Keeps.ite | split | (with_reducible first | apply Keeps.hostWrite))
theorem Keeps.execRingDisable (port : Port) (ring : Fin 24) (w : Word) (s : State) : KeepsOut s (Machine.execRingDisable port ring w s) := by
  unfold Machine.execRingDisable
  repeat' (first | with_reducible exact Keeps.refl _ | with_reducible assumption | with_reducible apply KeepsOut.done | intro _ | with_reducible apply Keeps.ite | split | (with_reducible first | apply Keeps.hostWrite))
theorem Keeps.execPipZArm (port : Port) (w : Word) (s : State) : KeepsOut s (Machine.execPipZArm port w s) := by
  unfold Machine.execPipZArm
  repeat' (first | with_reducible exact Keeps.refl _ | with_reducible assumption | with_reducible apply KeepsOut.done | intro _ | with_reducible apply Keeps.ite | split | (with_reducible first | apply Keeps.hostWrite))
theorem Keeps.execPipSrcWrite (port : Port) (w : Word) (s : State) : KeepsOut s (Machine.execPipSrcWrite port w s) := by
  unfold Machine.execPipSrcWrite
  repeat' (first | with_reducible exact Keeps.refl _ | with_reducible assumption | with_reducible apply KeepsOut.done | intro _ | with_reducible apply Keeps.ite | split | (with_reducible first | apply Keeps.hostWrite))
theorem Keeps.execRefSelectWrite (port : Port) (w : Word) (s : State) : KeepsOut s (Machine.execRefSelectWrite port w s) := by
  unfold Machine.execRefSelectWrite
  repeat' (first | with_reducible exact Keeps.refl _ | with_reducible assumption | with_reducible apply KeepsOut.done | intro _ | with_reducible apply Keeps.ite | split | (with_reducible first | apply Keeps.hostWrite))
theorem Keeps.execAudioFamilyChange (port : Port) (w : Word) (s : State) : KeepsOut s (Machine.execAudioFamilyChange port w s) := by
  unfold Machine.execAudioFamilyChange
  repeat' (first | with_reducible exact Keeps.refl _ | with_reducible assumption | with_reducible apply KeepsOut.done | intro _ | with_reducible apply Keeps.ite | split | (with_reducible first | apply Keeps.hostWrite))
theorem Keeps.execAudioSrcChange (port : Port) (w : Word) (s : State) : KeepsOut s (Machine.execAudioSrcChange port w s) := by
  unfold Machine.execAudioSrcChange
  repeat' (first | with_reducible exact Keeps.refl _ | with_reducible assumption | with_reducible apply KeepsOut.done | intro _ | with_reducible apply Keeps.ite | split | (with_reducible first | apply Keeps.hostWrite))
theorem Keeps.execSyncFire (port : Port) (w : Word) (s : State) : KeepsOut s (Machine.execSyncFire port w s) := by
  unfold Machine.execSyncFire
  repeat' (first | with_reducible exact Keeps.refl _ | with_reducible assumption | with_reducible apply KeepsOut.done | intro _ | with_reducible apply Keeps.ite | split | (with_reducible first | apply Keeps.hostWrite))
theorem Keeps.execLoTargetWrite (port : Port) (unit : Fin 5) (w : Word) (s : State) : KeepsOut s (Machine.execLoTargetWrite port unit w s) := by
  unfold Machine.execLoTargetWrite
  repeat' (first | with_reducible exact Keeps.refl _ | with_reducible assumption | with_reducible apply KeepsOut.done | intro _ | with_reducible apply Keeps.ite | split | (with_reducible first | apply Keeps.hostWrite))
theorem Keeps.execLoTuneWrite (port : Port) (unit : Fin 5) (w : Word) (s : State) : KeepsOut s (Machine.execLoTuneWrite port unit w s) := by
  unfold Machine.execLoTuneWrite
  repeat' (first | with_reducible exact Keeps.refl _ | with_reducible assumption | with_reducible apply KeepsOut.done | intro _ | with_reducible apply Keeps.ite | split | (with_reducible first | apply Keeps.hostWrite))
theorem Keeps.execLoCalInvalidate (port : Port) (unit : Fin 5) (w : Word) (s : State) : KeepsOut s (Machine.execLoCalInvalidate port unit w s) := by
  unfold Machine.execLoCalInvalidate
  repeat' (first | with_reducible exact Keeps.refl _ | with_reducible assumption | with_reducible apply KeepsOut.done | intro _ | with_reducible apply Keeps.ite | split | (with_reducible first | apply Keeps.hostWrite))
theorem Keeps.execCalCoeffWrite (port : Port) (path : Fin 4) (item : Fin 6) (w : Word) (s : State) : KeepsOut s (Machine.execCalCoeffWrite port path item w s) := by
  unfold Machine.execCalCoeffWrite
  repeat' (first | with_reducible exact Keeps.refl _ | with_reducible assumption | with_reducible apply KeepsOut.done | intro _ | with_reducible apply Keeps.ite | split | (with_reducible first | apply Keeps.hostWrite))
theorem Keeps.execSapCtlWrite (port : Port) (sap : Fin 3) (w : Word) (s : State) : KeepsOut s (Machine.execSapCtlWrite port sap w s) := by
  unfold Machine.execSapCtlWrite
  repeat' (first | with_reducible exact Keeps.refl _ | with_reducible assumption | with_reducible apply KeepsOut.done | intro _ | with_reducible apply Keeps.ite | split | (with_reducible first | apply Keeps.hostWrite))
theorem Keeps.execSpdoCsLoad (port : Port) (w : Word) (s : State) : KeepsOut s (Machine.execSpdoCsLoad port w s) := by
  unfold Machine.execSpdoCsLoad
  repeat' (first | with_reducible exact Keeps.refl _ | with_reducible assumption | with_reducible apply KeepsOut.done | intro _ | with_reducible apply Keeps.ite | split | (with_reducible first | apply Keeps.hostWrite))
theorem Keeps.execAudStartGo (port : Port) (w : Word) (near : Bool) (s : State) : KeepsOut s (Machine.execAudStartGo port w near s) := by
  unfold Machine.execAudStartGo
  repeat' (first | with_reducible exact Keeps.refl _ | with_reducible assumption | with_reducible apply KeepsOut.done | intro _ | with_reducible apply Keeps.ite | split | (with_reducible first | apply Keeps.hostWrite))
theorem Keeps.execRosterSizeWrite (port : Port) (w : Word) (s : State) : KeepsOut s (Machine.execRosterSizeWrite port w s) := by
  unfold Machine.execRosterSizeWrite
  repeat' (first | with_reducible exact Keeps.refl _ | with_reducible assumption | with_reducible apply KeepsOut.done | intro _ | with_reducible apply Keeps.ite | split | (with_reducible first | apply Keeps.hostWrite))
theorem Keeps.execLatTolWrite (port : Port) (w : Word) (s : State) : KeepsOut s (Machine.execLatTolWrite port w s) := by
  unfold Machine.execLatTolWrite
  repeat' (first | with_reducible exact Keeps.refl _ | with_reducible assumption | with_reducible apply KeepsOut.done | intro _ | with_reducible apply Keeps.ite | split | (with_reducible first | apply Keeps.hostWrite))
theorem Keeps.execRetireMapWrite (port : Port) (n : Fin 3) (w : Word) (s : State) : KeepsOut s (Machine.execRetireMapWrite port n w s) := by
  unfold Machine.execRetireMapWrite
  repeat' (first | with_reducible exact Keeps.refl _ | with_reducible assumption | with_reducible apply KeepsOut.done | intro _ | with_reducible apply Keeps.ite | split | (with_reducible first | apply Keeps.hostWrite))
theorem Keeps.execBlockReleaseDone (block : Blk) (s : State) : KeepsOut s (Machine.execBlockReleaseDone block s) := by
  unfold Machine.execBlockReleaseDone
  repeat' (first | with_reducible exact Keeps.refl _ | with_reducible assumption | with_reducible apply KeepsOut.live | intro _ | with_reducible apply Keeps.ite | split | (with_reducible first | apply Keeps.hold | apply Keeps.cond | apply Keeps.modTop) | rfl)
theorem Keeps.execStaleReply (block : Blk) (gen : BitVec 8) (s : State) : KeepsOut s (Machine.execStaleReply block gen s) := by
  unfold Machine.execStaleReply
  repeat' (first | with_reducible exact Keeps.refl _ | with_reducible assumption | with_reducible apply KeepsOut.live | intro _ | with_reducible apply Keeps.ite | split | (with_reducible first | apply Keeps.inc | apply Keeps.cond))

end Sys2Proof.Machine
end

