-- ==== Sys2Proof/Laws/Keeps/Desc.lean ====
section
/-! SUPPORT. Desc: what every operation and meaning of this file keeps. -/

namespace Sys2Proof.Machine

theorem Keeps.fetchRead {a s : State} (h : Keeps a s) (r : Fin 8) : Keeps a (Machine.State.fetchRead s r) := by
  unfold Machine.State.fetchRead
  repeat' (first | with_reducible exact h | with_reducible assumption | intro _ | with_reducible apply Keeps.ite | split | (with_reducible first | apply Keeps.emit | apply Keeps.modHif) | exact Nat.le_max_right _ _)
theorem Keeps.execDescriptorFetchComplete (words : List Word) (s : State) : KeepsOut s (Machine.execDescriptorFetchComplete words s) := by
  unfold Machine.execDescriptorFetchComplete
  repeat' (first | with_reducible exact Keeps.refl _ | with_reducible assumption | with_reducible apply KeepsOut.running | intro _ | with_reducible apply Keeps.ite | split | (with_reducible first | apply Keeps.put | apply Keeps.modRing | apply Keeps.ringEvent | apply Keeps.fetchRead | apply Keeps.modHif) | exact Nat.le_max_right _ _)
theorem Keeps.execDescriptorFetchFail  (s : State) : KeepsOut s (Machine.execDescriptorFetchFail s) := by
  unfold Machine.execDescriptorFetchFail
  repeat' (first | with_reducible exact Keeps.refl _ | with_reducible assumption | with_reducible apply KeepsOut.running | intro _ | with_reducible apply Keeps.ite | split | (with_reducible first | apply Keeps.putB | apply Keeps.ringErr | apply Keeps.writeCpl | apply Keeps.fetchRead))
theorem Keeps.execDescriptorStart (ring : Fin 8) (s : State) : KeepsOut s (Machine.execDescriptorStart ring s) := by
  unfold Machine.execDescriptorStart
  repeat' (first | with_reducible exact Keeps.refl _ | with_reducible assumption | with_reducible apply KeepsOut.running | intro _ | with_reducible apply Keeps.ite | split | (with_reducible first | apply Keeps.modRing | apply Keeps.finish | apply Keeps.bad | apply Keeps.modHif) | exact Nat.le_max_right _ _ | extract_lets)
theorem Keeps.execNop (d : Desc) (s : State) : KeepsOut s (Machine.execNop d s) := by
  unfold Machine.execNop
  repeat' (first | with_reducible exact Keeps.refl _ | with_reducible assumption | with_reducible apply KeepsOut.running | intro _ | with_reducible apply Keeps.ite | split | (with_reducible first | apply Keeps.finish | apply Keeps.taking))
theorem Keeps.execFence (d : Desc) (s : State) : KeepsOut s (Machine.execFence d s) := by
  unfold Machine.execFence
  repeat' (first | with_reducible exact Keeps.refl _ | with_reducible assumption | with_reducible apply KeepsOut.running | intro _ | with_reducible apply Keeps.ite | split | (with_reducible first | apply Keeps.finish | apply Keeps.taking))
theorem Keeps.cancelDone {a s : State} (h : Keeps a s) (d : Desc) (status : Nat) : Keeps a (Machine.State.cancelDone s d status) := by
  unfold Machine.State.cancelDone
  repeat' (first | with_reducible exact h | with_reducible assumption | intro _ | with_reducible apply Keeps.ite | split | (with_reducible first | apply Keeps.finish | apply Keeps.modHif) | exact Nat.le_max_right _ _)
theorem Keeps.execCancel (d : Desc) (s : State) : KeepsOut s (Machine.execCancel d s) := by
  unfold Machine.execCancel
  repeat' (first | with_reducible exact Keeps.refl _ | with_reducible assumption | with_reducible apply KeepsOut.running | intro _ | with_reducible apply Keeps.ite | split | (with_reducible first | apply Keeps.modRing | apply Keeps.writeCpl | apply Keeps.finish | apply Keeps.taking | apply Keeps.cond | apply Keeps.modHif) | exact Nat.le_max_right _ _ | extract_lets)
theorem Keeps.regionCancel {a s : State} (h : Keeps a s) (d : Desc) : Keeps a (Machine.State.regionCancel s d) := by
  unfold Machine.State.regionCancel
  repeat' (first | with_reducible exact h | with_reducible assumption | intro _ | with_reducible apply Keeps.ite | split | (with_reducible first | apply Keeps.modHif) | exact Nat.le_max_right _ _)
theorem Keeps.pullBack {a s : State} (h : Keeps a s) (d : Desc) : Keeps a (Machine.State.pullBack s d) := by
  unfold Machine.State.pullBack
  repeat' (first | with_reducible exact h | with_reducible assumption | intro _ | with_reducible apply Keeps.ite | split | (with_reducible first | apply Keeps.capCancel | apply Keeps.radioCancel | apply Keeps.beaconCancel | apply Keeps.listenCancel | apply Keeps.calCancel | apply Keeps.bcstCancel | apply Keeps.editCancel | apply Keeps.exchCancel | apply Keeps.regionCancel))
theorem Keeps.cancelHead {a s : State} (h : Keeps a s) (d target : Desc) : Keeps a (Machine.State.cancelHead s d target) := by
  unfold Machine.State.cancelHead
  repeat' (first | with_reducible exact h | with_reducible assumption | intro _ | with_reducible apply Keeps.ite | split | (with_reducible first | apply Keeps.sendReq | apply Keeps.modStarted | apply Keeps.finish | apply Keeps.beaconCancel | apply Keeps.cancelDone | apply Keeps.pullBack | apply Keeps.cond))
theorem Keeps.cancelMember {a s : State} (h : Keeps a s) (d target : Desc) : Keeps a (Machine.State.cancelMember s d target) := by
  unfold Machine.State.cancelMember
  repeat' (first | with_reducible exact h | with_reducible assumption | intro _ | with_reducible apply Keeps.ite | split | (with_reducible first | apply Keeps.answer | apply Keeps.finish | apply Keeps.beaconCancel | apply Keeps.pullBack | apply Keeps.cond))
theorem Keeps.execCancelArrival (d target : Desc) (s : State) : KeepsOut s (Machine.execCancelArrival d target s) := by
  unfold Machine.execCancelArrival
  repeat' (first | with_reducible exact Keeps.refl _ | with_reducible assumption | with_reducible apply KeepsOut.running | intro _ | with_reducible apply Keeps.ite | split | (with_reducible first | apply Keeps.cancelHead | apply Keeps.cancelMember | apply Keeps.cond))
theorem Keeps.regReadAt {a s : State} (h : Keeps a s) (d : Desc) : Keeps a (Machine.State.regReadAt s d).2.2 := by
  unfold Machine.State.regReadAt
  repeat' (first | with_reducible exact h | with_reducible assumption | intro _ | with_reducible apply Keeps.ite | split | (with_reducible first | apply Keeps.readRun) | extract_lets)
theorem Keeps.regWriteN {a : State} (t : WriteAt) (ws : List Word) :
    ∀ {s : State} (_ : Keeps a s) (off k : Nat), Keeps a (Machine.regWriteN ws s off k t).2.2 := by
  induction ws with
  | nil => intro s h off k; exact h
  | cons w ws ih =>
    intro s h off k; unfold Machine.regWriteN
    repeat' (first | with_reducible exact h | with_reducible assumption | intro _ | split | apply ih | apply Keeps.serveWrite | extract_lets | dsimp only | dsimp +zetaDelta only)
theorem Keeps.regWriteAt {a s : State} (h : Keeps a s) (d : Desc) (t : WriteAt) : Keeps a (Machine.State.regWriteAt s d t).2 := by
  unfold Machine.State.regWriteAt
  repeat' (first | with_reducible exact h | with_reducible assumption | intro _ | with_reducible apply Keeps.ite | split | (with_reducible first | apply Keeps.regWriteN))
theorem Keeps.regReadHere {a s : State} (h : Keeps a s) (d : Desc) : Keeps a (Machine.State.regReadHere s d) := by
  unfold Machine.State.regReadHere
  repeat' (first | with_reducible exact h | with_reducible assumption | intro _ | with_reducible apply Keeps.ite | split | (with_reducible first | apply Keeps.post | apply Keeps.answer | apply Keeps.complete | apply Keeps.regReadAt))
theorem Keeps.regWriteHere {a s : State} (h : Keeps a s) (d : Desc) (t : WriteAt) : Keeps a (Machine.State.regWriteHere s d t) := by
  unfold Machine.State.regWriteHere
  repeat' (first | with_reducible exact h | with_reducible assumption | intro _ | with_reducible apply Keeps.ite | split | (with_reducible first | apply Keeps.complete | apply Keeps.softDue | apply Keeps.regWriteAt))
theorem Keeps.execRegRead (d : Desc) (s : State) : KeepsOut s (Machine.execRegRead d s) := by
  unfold Machine.execRegRead
  repeat' (first | with_reducible exact Keeps.refl _ | with_reducible assumption | with_reducible apply KeepsOut.running | intro _ | with_reducible apply Keeps.ite | split | (with_reducible first | apply Keeps.atMember | apply Keeps.regReadHere | apply Keeps.cond | apply Keeps.idle))
theorem Keeps.execRegWrite (d : Desc) (ns cycle : Nat) (near : Bool) (flips : List (Nat × Bool)) (s : State) : KeepsOut s (Machine.execRegWrite d ns cycle near flips s) := by
  unfold Machine.execRegWrite
  repeat' (first | with_reducible exact Keeps.refl _ | with_reducible assumption | with_reducible apply KeepsOut.running | intro _ | with_reducible apply Keeps.ite | split | (with_reducible first | apply Keeps.atMember | apply Keeps.regWriteHere | apply Keeps.cond | apply Keeps.idle))
theorem Keeps.respond {a s : State} (h : Keeps a s) (d : Desc) (src : Nat) (late : Bool) (r : Result) (data : List Word) : Keeps a (Machine.State.respond s d src late r data) := by
  unfold Machine.State.respond
  repeat' (first | with_reducible exact h | with_reducible assumption | intro _ | with_reducible apply Keeps.ite | split | (with_reducible first | apply Keeps.post | apply Keeps.complete | apply Keeps.commit | apply Keeps.lacePart | apply Keeps.capCancel | apply Keeps.cancelDone | apply Keeps.cond))
theorem Keeps.execResponseReceive (src tag : Nat) (late : Bool) (r : Result) (data : List Word) (s : State) : KeepsOut s (Machine.execResponseReceive src tag late r data s) := by
  unfold Machine.execResponseReceive
  repeat' (first | with_reducible exact Keeps.refl _ | with_reducible assumption | with_reducible apply KeepsOut.running | intro _ | with_reducible apply Keeps.ite | split | (with_reducible first | apply Keeps.incSat | apply Keeps.modLnk | apply Keeps.creditBack | apply Keeps.respond))

end Sys2Proof.Machine
end

