-- ==== Sys2Proof/Laws/Keeps/Region.lean ====
section
/-! SUPPORT. Region: what every operation and meaning of this file keeps. -/

namespace Sys2Proof.Machine

theorem Keeps.modRegion {a s : State} (h : Keeps a s) (i : Fin 8) (f : RegionSt → RegionSt) : Keeps a (Machine.State.modRegion s i f) := by
  unfold Machine.State.modRegion
  repeat' (first | with_reducible exact h | with_reducible assumption | intro _ | with_reducible apply Keeps.ite | split | (with_reducible first | apply Keeps.modHif) | exact Nat.le_max_right _ _)
theorem Keeps.regionRun {a s : State} (h : Keeps a s) (d : Desc) : Keeps a (Machine.State.regionRun s d) := by
  unfold Machine.State.regionRun
  repeat' (first | with_reducible exact h | with_reducible assumption | intro _ | with_reducible apply Keeps.ite | split | (with_reducible first | apply Keeps.sendReq | apply Keeps.commit | apply Keeps.modRegion | apply Keeps.cond))
theorem Keeps.regionArrive {a s : State} (h : Keeps a s) (d : Desc) : Keeps a (Machine.State.regionArrive s d) := by
  unfold Machine.State.regionArrive
  repeat' (first | with_reducible exact h | with_reducible assumption | intro _ | with_reducible apply Keeps.ite | split | (with_reducible first | apply Keeps.finish | apply Keeps.modRegion | apply Keeps.regionRun))
theorem Keeps.updateRegion {a s : State} (h : Keeps a s) (i : Fin 8) (d : Desc) : Keeps a (Machine.State.updateRegion s i d) := by
  unfold Machine.State.updateRegion
  repeat' (first | with_reducible exact h | with_reducible assumption | intro _ | with_reducible apply Keeps.ite | split | (with_reducible first | apply Keeps.finish | apply Keeps.taking | apply Keeps.forward | apply Keeps.needBlk | apply Keeps.regionArrive))
theorem Keeps.execUpdateRegionRun (region : Fin 8) (s : State) : KeepsOut s (Machine.execUpdateRegionRun region s) := by
  unfold Machine.execUpdateRegionRun
  repeat' (first | with_reducible exact Keeps.refl _ | with_reducible assumption | with_reducible apply KeepsOut.running | intro _ | with_reducible apply Keeps.ite | split | (with_reducible first | apply Keeps.finish | apply Keeps.needBlk | apply Keeps.modRegion | apply Keeps.regionRun) | extract_lets)
theorem Keeps.spread {a s : State} (h : Keeps a s) (d : Desc) (ws : List Word) : Keeps a (Machine.State.spread s d ws) := by
  unfold Machine.State.spread
  repeat' (first | with_reducible exact h | with_reducible assumption | intro _ | with_reducible apply Keeps.ite | split | (with_reducible first | apply Keeps.laceAll | apply Keeps.cond))
theorem Keeps.templateUpdate {a s : State} (h : Keeps a s) (d : Desc) (ws : List Word) : Keeps a (Machine.State.templateUpdate s d ws) := by
  unfold Machine.State.templateUpdate
  repeat' (first | with_reducible exact h | with_reducible assumption | intro _ | with_reducible apply Keeps.ite | split | (with_reducible first | apply Keeps.wr | apply Keeps.modAud | apply Keeps.regionDone | apply Keeps.forEach))
theorem Keeps.regionApply {a s : State} (h : Keeps a s) (d : Desc) (ws : List Word) : Keeps a (Machine.State.regionApply s d ws) := by
  unfold Machine.State.regionApply
  repeat' (first | with_reducible exact h | with_reducible assumption | intro _ | with_reducible apply Keeps.ite | split | (with_reducible first | apply Keeps.modBcst | apply Keeps.modTag | apply Keeps.modExch | apply Keeps.bad | apply Keeps.partDone | apply Keeps.regionDone | apply Keeps.pipTable | apply Keeps.recallUpdate | apply Keeps.rosterUpdate | apply Keeps.spread | apply Keeps.templateUpdate) | extract_lets)
theorem Keeps.laceRegion {a s : State} (h : Keeps a s) (d : Desc) : Keeps a (Machine.State.laceRegion s d) := by
  unfold Machine.State.laceRegion
  repeat' (first | with_reducible exact h | with_reducible assumption | intro _ | with_reducible apply Keeps.ite | split | (with_reducible first | apply Keeps.needBlk | apply Keeps.regionApply))
theorem Keeps.execRegionDataReadComplete (d : Desc) (data : Option (List Word)) (s : State) : KeepsOut s (Machine.execRegionDataReadComplete d data s) := by
  unfold Machine.execRegionDataReadComplete
  repeat' (first | with_reducible exact Keeps.refl _ | with_reducible assumption | with_reducible apply KeepsOut.running | intro _ | with_reducible apply Keeps.ite | split | (with_reducible first | apply Keeps.emit | apply Keeps.sendReq | apply Keeps.bad | apply Keeps.noteTable | apply Keeps.modRegion | apply Keeps.regionApply | apply Keeps.cond))
theorem Keeps.execUpdateBeamWeights (d : Desc) (s : State) : KeepsOut s (Machine.execUpdateBeamWeights d s) := by
  unfold Machine.execUpdateBeamWeights
  repeat' (first | with_reducible exact Keeps.refl _ | with_reducible assumption | with_reducible apply KeepsOut.running | intro _ | with_reducible apply Keeps.ite | split | (with_reducible first | apply Keeps.updateRegion))
theorem Keeps.execUpdateOwnershipMap (d : Desc) (s : State) : KeepsOut s (Machine.execUpdateOwnershipMap d s) := by
  unfold Machine.execUpdateOwnershipMap
  repeat' (first | with_reducible exact Keeps.refl _ | with_reducible assumption | with_reducible apply KeepsOut.running | intro _ | with_reducible apply Keeps.ite | split | (with_reducible first | apply Keeps.taking | apply Keeps.updateRegion | apply Keeps.laceRegion | apply Keeps.cond))
theorem Keeps.execUpdateAfList (d : Desc) (s : State) : KeepsOut s (Machine.execUpdateAfList d s) := by
  unfold Machine.execUpdateAfList
  repeat' (first | with_reducible exact Keeps.refl _ | with_reducible assumption | with_reducible apply KeepsOut.running | intro _ | with_reducible apply Keeps.ite | split | (with_reducible first | apply Keeps.updateRegion))
theorem Keeps.execUpdateRecallList (d : Desc) (s : State) : KeepsOut s (Machine.execUpdateRecallList d s) := by
  unfold Machine.execUpdateRecallList
  repeat' (first | with_reducible exact Keeps.refl _ | with_reducible assumption | with_reducible apply KeepsOut.running | intro _ | with_reducible apply Keeps.ite | split | (with_reducible first | apply Keeps.updateRegion | apply Keeps.cond))
theorem Keeps.execUpdateSpdoTemplate (d : Desc) (s : State) : KeepsOut s (Machine.execUpdateSpdoTemplate d s) := by
  unfold Machine.execUpdateSpdoTemplate
  repeat' (first | with_reducible exact Keeps.refl _ | with_reducible assumption | with_reducible apply KeepsOut.running | intro _ | with_reducible apply Keeps.ite | split | (with_reducible first | apply Keeps.updateRegion))
theorem Keeps.execUpdateTagPlan (d : Desc) (s : State) : KeepsOut s (Machine.execUpdateTagPlan d s) := by
  unfold Machine.execUpdateTagPlan
  repeat' (first | with_reducible exact Keeps.refl _ | with_reducible assumption | with_reducible apply KeepsOut.running | intro _ | with_reducible apply Keeps.ite | split | (with_reducible first | apply Keeps.taking | apply Keeps.updateRegion | apply Keeps.laceRegion | apply Keeps.cond))
theorem Keeps.execUpdateRoster (d : Desc) (s : State) : KeepsOut s (Machine.execUpdateRoster d s) := by
  unfold Machine.execUpdateRoster
  repeat' (first | with_reducible exact Keeps.refl _ | with_reducible assumption | with_reducible apply KeepsOut.running | intro _ | with_reducible apply Keeps.ite | split | (with_reducible first | apply Keeps.updateRegion | apply Keeps.cond))
theorem Keeps.execUpdatePipTable (d : Desc) (s : State) : KeepsOut s (Machine.execUpdatePipTable d s) := by
  unfold Machine.execUpdatePipTable
  repeat' (first | with_reducible exact Keeps.refl _ | with_reducible assumption | with_reducible apply KeepsOut.running | intro _ | with_reducible apply Keeps.ite | split | (with_reducible first | apply Keeps.updateRegion))
theorem Keeps.execSnapshot (d : Desc) (others : List (Nat × List Word)) (stitch : Nat) (s : State) : KeepsOut s (Machine.execSnapshot d others stitch s) := by
  unfold Machine.execSnapshot
  repeat' (first | with_reducible exact Keeps.refl _ | with_reducible assumption | with_reducible apply KeepsOut.running | intro _ | with_reducible apply Keeps.ite | split | (with_reducible first | apply Keeps.post | apply Keeps.complete | apply Keeps.finish | apply Keeps.taking | apply Keeps.cond))
theorem Keeps.execRestore (d : Desc) (remoteBusy : Bool) (s : State) : KeepsOut s (Machine.execRestore d remoteBusy s) := by
  unfold Machine.execRestore
  repeat' (first | with_reducible exact Keeps.refl _ | with_reducible assumption | with_reducible apply KeepsOut.running | intro _ | with_reducible apply Keeps.ite | split | (with_reducible first | apply Keeps.finish | apply Keeps.taking | apply Keeps.cond | apply Keeps.modHif) | exact Nat.le_max_right _ _)
theorem Keeps.putItem {a s : State} (h : Keeps a s) (x : Nat × Word) : Keeps a (Machine.State.putItem s x) := by
  unfold Machine.State.putItem
  repeat' (first | with_reducible exact h | with_reducible assumption | intro _ | with_reducible apply Keeps.ite | split | (with_reducible first | apply Keeps.serveWrite))
theorem Keeps.restoreItems {a s : State} (h : Keeps a s) (config : Bool) (ws : List Word) : Keeps a (Machine.State.restoreItems s config ws) := by
  unfold Machine.State.restoreItems
  repeat' (first | with_reducible exact h | with_reducible assumption | intro _ | with_reducible apply Keeps.ite | split | (with_reducible first | apply Keeps.putItem | apply Keeps.cond | apply Keeps.forEach))
theorem Keeps.restoreRegion {a s : State} (h : Keeps a s) (i : Nat) (ws : List Word) : Keeps a (Machine.State.restoreRegion s i ws).1 := by
  unfold Machine.State.restoreRegion
  repeat' (first | with_reducible exact h | with_reducible assumption | intro _ | with_reducible apply Keeps.ite | split | (with_reducible first | apply Keeps.wr | apply Keeps.modBcst | apply Keeps.modAud | apply Keeps.modTag | apply Keeps.modExch | apply Keeps.sendReq | apply Keeps.pipTable | apply Keeps.cond | apply Keeps.forEach))
theorem Keeps.restoreSection {a s : State} (h : Keeps a s) (x : Section) : Keeps a (Machine.State.restoreSection s x).1 := by
  unfold Machine.State.restoreSection
  repeat' (first | with_reducible exact h | with_reducible assumption | intro _ | with_reducible apply Keeps.ite | split | (with_reducible first | apply Keeps.setRoster | apply Keeps.setRecall | apply Keeps.restoreItems | apply Keeps.restoreRegion) | extract_lets)
theorem Keeps.restoreAll {a s : State} (h : Keeps a s) (xs : List Section) : Keeps a (Machine.State.restoreAll s xs).1 := by
  unfold Machine.State.restoreAll
  repeat' (first | with_reducible exact h | with_reducible assumption | intro _ | with_reducible apply Keeps.ite | split | (with_reducible first | apply Keeps.restoreSection | apply Keeps.foldl | apply Keeps.foldlFst))
theorem Keeps.execRestoreBlobReadComplete (d : Desc) (blob : Option (List Word)) (s : State) : KeepsOut s (Machine.execRestoreBlobReadComplete d blob s) := by
  unfold Machine.execRestoreBlobReadComplete
  repeat' (first | with_reducible exact Keeps.refl _ | with_reducible assumption | with_reducible apply KeepsOut.running | intro _ | with_reducible apply Keeps.ite | split | (with_reducible first | apply Keeps.emit | apply Keeps.sendReq | apply Keeps.modStarted | apply Keeps.bad | apply Keeps.lacePart | apply Keeps.restoreAll | apply Keeps.forEach | apply Keeps.modHif) | exact Nat.le_max_right _ _ | extract_lets)

end Sys2Proof.Machine
end

