-- ==== Sys2Proof/Laws/Keeps/Request.lean ====
section
/-! SUPPORT. Request: what every operation and meaning of this file keeps. -/

namespace Sys2Proof.Machine

theorem Keeps.ownRequest {a s : State} (h : Keeps a s) (m : Msg) : Keeps a (Machine.State.ownRequest s m) := by
  unfold Machine.State.ownRequest
  repeat' (first | with_reducible exact h | with_reducible assumption | intro _ | with_reducible apply Keeps.ite | split | (with_reducible first | apply Keeps.endExch | apply Keeps.capEnd | apply Keeps.addAck | apply Keeps.setCloses | apply Keeps.calRaise | apply Keeps.calEnd | apply Keeps.putKey | apply Keeps.formed | apply Keeps.fixFirst | apply Keeps.confirmSource | apply Keeps.exchLimit | apply Keeps.restoreRegion | apply Keeps.cond | apply Keeps.modHif) | exact Nat.le_max_right _ _)
theorem Keeps.thank {a s : State} (h : Keeps a s) (m : Msg) : Keeps a (Machine.State.thank s m) := by
  unfold Machine.State.thank
  repeat' (first | with_reducible exact h | with_reducible assumption | intro _ | with_reducible apply Keeps.ite | split | (with_reducible first | apply Keeps.sendMsg))
theorem Keeps.restoreHere {a s : State} (h : Keeps a s) (m : Msg) : Keeps a (Machine.State.restoreHere s m) := by
  unfold Machine.State.restoreHere
  repeat' (first | with_reducible exact h | with_reducible assumption | intro _ | with_reducible apply Keeps.ite | split | (with_reducible first | apply Keeps.sendMsg | apply Keeps.restoreAll))
theorem Keeps.execForwardedRequestReceive (m : Msg) (ns cycle : Nat) (near : Bool) (flips : List (Nat × Bool)) (s : State) : KeepsOut s (Machine.execForwardedRequestReceive m ns cycle near flips s) := by
  unfold Machine.execForwardedRequestReceive
  repeat' (first | with_reducible exact Keeps.refl _ | with_reducible assumption | with_reducible apply KeepsOut.running | intro _ | with_reducible apply Keeps.ite | split | (with_reducible first | apply Keeps.wake | apply Keeps.answer | apply Keeps.serve | apply Keeps.regReadHere | apply Keeps.regWriteHere | apply Keeps.ownRequest | apply Keeps.thank | apply Keeps.restoreHere))

end Sys2Proof.Machine
end

