-- ==== Sys2Proof/Laws/Keeps/Boundary.lean ====
section
/-! SUPPORT. Boundary: what every operation and meaning of this file keeps. -/

namespace Sys2Proof.Machine

theorem Keeps.agcTile {a s : State} (h : Keeps a s) (peaks : List Int) : Keeps a (Machine.State.agcTile s peaks) := by
  unfold Machine.State.agcTile
  repeat' (first | with_reducible exact h | with_reducible assumption | intro _ | with_reducible apply Keeps.ite | split | (with_reducible first | apply Keeps.agcBoundary | apply Keeps.forEach))
theorem Keeps.tileBoundary {a s : State} (h : Keeps a s) (peaks : List Int) (stats : List CalStat) (sums : List CalSum) : Keeps a (Machine.State.tileBoundary s peaks stats sums) := by
  unfold Machine.State.tileBoundary
  repeat' (first | with_reducible exact h | with_reducible assumption | intro _ | with_reducible apply Keeps.ite | split | (with_reducible first | apply Keeps.modPip | apply Keeps.setTile | apply Keeps.pathBoundary | apply Keeps.pathTile | apply Keeps.bankBoundary | apply Keeps.tileEnds | apply Keeps.sampApply | apply Keeps.sampTile | apply Keeps.capBoundary | apply Keeps.tagBoundary | apply Keeps.calBoundary | apply Keeps.bcstTile | apply Keeps.exchBoundary | apply Keeps.agcTile | apply Keeps.cond))
theorem Keeps.execTileBoundary (peaks : List Int) (stats : List CalStat) (sums : List CalSum) (s : State) : KeepsOut s (Machine.execTileBoundary peaks stats sums s) := by
  unfold Machine.execTileBoundary
  repeat' (first | with_reducible exact Keeps.refl _ | with_reducible assumption | with_reducible apply KeepsOut.live | intro _ | with_reducible apply Keeps.ite | split | (with_reducible first | apply Keeps.tileBoundary | apply Keeps.cond))

end Sys2Proof.Machine
end

