-- ==== Sys2Proof/Laws/Keeps/Jtag.lean ====
section
/-! SUPPORT. Jtag: what every operation and meaning of this file keeps. -/

namespace Sys2Proof.Machine

theorem Keeps.jtagIr {a s : State} (h : Keeps a s) (code : BitVec 6) (drives highz : Bool) : Keeps a (Machine.State.jtagIr s code drives highz) := by
  unfold Machine.State.jtagIr
  repeat' (first | with_reducible exact h | with_reducible assumption | intro _ | with_reducible apply Keeps.ite | split | (with_reducible first | apply Keeps.modJtag))
theorem Keeps.execJtagRegacc (wr valid : Bool) (off : BitVec 16) (data : Word) (busy : Bool) (s : State) : KeepsOut s (Machine.execJtagRegacc wr valid off data busy s) := by
  unfold Machine.execJtagRegacc
  repeat' (first | with_reducible exact Keeps.refl _ | with_reducible assumption | with_reducible apply KeepsOut.done | intro _ | with_reducible apply Keeps.ite | split | (with_reducible first | apply Keeps.wr | apply Keeps.emit | apply Keeps.modJtag | apply Keeps.serveRead | apply Keeps.serveWrite | apply Keeps.jtagIr))
theorem Keeps.boundaryScan {a s : State} (h : Keeps a s) (balls value : BitVec 214) : Keeps a (Machine.State.boundaryScan s balls value) := by
  unfold Machine.State.boundaryScan
  repeat' (first | with_reducible exact h | with_reducible assumption | intro _ | with_reducible apply Keeps.ite | split | (with_reducible first | apply Keeps.emit | apply Keeps.modJtag))
theorem Keeps.execJtagExtest (balls value : BitVec 214) (s : State) : KeepsOut s (Machine.execJtagExtest balls value s) := by
  unfold Machine.execJtagExtest
  repeat' (first | with_reducible exact Keeps.refl _ | with_reducible assumption | with_reducible apply KeepsOut.live | intro _ | with_reducible apply Keeps.ite | split | (with_reducible first | apply Keeps.jtagIr | apply Keeps.boundaryScan))
theorem Keeps.execJtagSamplePreload (balls value : BitVec 214) (s : State) : KeepsOut s (Machine.execJtagSamplePreload balls value s) := by
  unfold Machine.execJtagSamplePreload
  repeat' (first | with_reducible exact Keeps.refl _ | with_reducible assumption | with_reducible apply KeepsOut.live | intro _ | with_reducible apply Keeps.ite | split | (with_reducible first | apply Keeps.jtagIr | apply Keeps.boundaryScan))
theorem Keeps.execJtagIdcode  (s : State) : KeepsOut s (Machine.execJtagIdcode s) := by
  unfold Machine.execJtagIdcode
  repeat' (first | with_reducible exact Keeps.refl _ | with_reducible assumption | with_reducible apply KeepsOut.live | intro _ | with_reducible apply Keeps.ite | split | (with_reducible first | apply Keeps.emit | apply Keeps.jtagIr))
theorem Keeps.execJtagClamp  (s : State) : KeepsOut s (Machine.execJtagClamp s) := by
  unfold Machine.execJtagClamp
  repeat' (first | with_reducible exact Keeps.refl _ | with_reducible assumption | with_reducible apply KeepsOut.live | intro _ | with_reducible apply Keeps.ite | split | (with_reducible first | apply Keeps.jtagIr))
theorem Keeps.execJtagHighz  (s : State) : KeepsOut s (Machine.execJtagHighz s) := by
  unfold Machine.execJtagHighz
  repeat' (first | with_reducible exact Keeps.refl _ | with_reducible assumption | with_reducible apply KeepsOut.live | intro _ | with_reducible apply Keeps.ite | split | (with_reducible first | apply Keeps.jtagIr))
theorem Keeps.execJtagBypass (code : BitVec 6) (s : State) : KeepsOut s (Machine.execJtagBypass code s) := by
  unfold Machine.execJtagBypass
  repeat' (first | with_reducible exact Keeps.refl _ | with_reducible assumption | with_reducible apply KeepsOut.live | intro _ | with_reducible apply Keeps.ite | split | (with_reducible first | apply Keeps.jtagIr))

end Sys2Proof.Machine
end

