-- ==== Sys2Proof/Laws/Keeps/Spi.lean ====
section
/-! SUPPORT. Spi: what every operation and meaning of this file keeps. -/

namespace Sys2Proof.Machine

theorem Keeps.frameEnds {a s : State} (h : Keeps a s) (cmd : Option Nat) : Keeps a (Machine.State.frameEnds s cmd) := by
  unfold Machine.State.frameEnds
  repeat' (first | with_reducible exact h | with_reducible assumption | intro _ | with_reducible apply Keeps.ite | split | (with_reducible first | apply Keeps.put | apply Keeps.inc | apply Keeps.modSpi))
theorem Keeps.frame {a s : State} (h : Keeps a s) (f : State → State) (hf : ∀ t, Keeps a t → Keeps a (f t)) : Keeps a (Machine.State.frame s f) := by
  unfold Machine.State.frame
  repeat' (first | with_reducible exact h | with_reducible assumption | intro _ | with_reducible apply Keeps.ite | split | with_reducible apply hf)
theorem Keeps.overclock {a s : State} (h : Keeps a s) (tooFast : Bool) (ws : List Word) : Keeps a (Machine.State.overclock s tooFast ws).2 := by
  unfold Machine.State.overclock
  repeat' (first | with_reducible exact h | with_reducible assumption | intro _ | with_reducible apply Keeps.ite | split | (with_reducible first | apply Keeps.drawN))
theorem Keeps.spiReads {a s : State} (h : Keeps a s) (cmd : Nat) (addr : BitVec 16) (n : Nat) (tooFast : Bool) : Keeps a (Machine.State.spiReads s cmd addr n tooFast) := by
  unfold Machine.State.spiReads
  repeat' (first | with_reducible exact h | with_reducible assumption | intro _ | with_reducible apply Keeps.ite | split | (with_reducible first | apply Keeps.flag | apply Keeps.emit | apply Keeps.readRun | apply Keeps.frameEnds | apply Keeps.frame | apply Keeps.overclock | apply Keeps.cond))
theorem Keeps.execSpiRead (addr : BitVec 16) (n : Nat) (tooFast : Bool) (s : State) : KeepsOut s (Machine.execSpiRead addr n tooFast s) := by
  unfold Machine.execSpiRead
  repeat' (first | with_reducible exact Keeps.refl _ | with_reducible assumption | with_reducible apply KeepsOut.done | intro _ | with_reducible apply Keeps.ite | split | (with_reducible first | apply Keeps.spiReads))
theorem Keeps.execSpiFastRead (addr : BitVec 16) (n : Nat) (tooFast : Bool) (s : State) : KeepsOut s (Machine.execSpiFastRead addr n tooFast s) := by
  unfold Machine.execSpiFastRead
  repeat' (first | with_reducible exact Keeps.refl _ | with_reducible assumption | with_reducible apply KeepsOut.done | intro _ | with_reducible apply Keeps.ite | split | (with_reducible first | apply Keeps.spiReads))
theorem Keeps.execSpiWrite (addr : BitVec 16) (words : List Word) (cut : Bool) (s : State) : KeepsOut s (Machine.execSpiWrite addr words cut s) := by
  unfold Machine.execSpiWrite
  repeat' (first | with_reducible exact Keeps.refl _ | with_reducible assumption | with_reducible apply KeepsOut.done | intro _ | with_reducible apply Keeps.ite | split | (with_reducible first | apply Keeps.flag | apply Keeps.writeRun | apply Keeps.frameEnds | apply Keeps.frame | apply Keeps.cond))
theorem Keeps.execSpiStatus (n : Nat) (tooFast : Bool) (s : State) : KeepsOut s (Machine.execSpiStatus n tooFast s) := by
  unfold Machine.execSpiStatus
  repeat' (first | with_reducible exact Keeps.refl _ | with_reducible assumption | with_reducible apply KeepsOut.done | intro _ | with_reducible apply Keeps.ite | split | (with_reducible first | apply Keeps.emit | apply Keeps.frameEnds | apply Keeps.frame | apply Keeps.overclock))
theorem Keeps.execSpiWake  (s : State) : KeepsOut s (Machine.execSpiWake s) := by
  unfold Machine.execSpiWake
  repeat' (first | with_reducible exact Keeps.refl _ | with_reducible assumption | with_reducible apply KeepsOut.done | intro _ | with_reducible apply Keeps.ite | split | (with_reducible first | apply Keeps.wake | apply Keeps.frameEnds | apply Keeps.frame | apply Keeps.cond))
theorem Keeps.execSpiResetArm (clocks : Nat) (s : State) : KeepsOut s (Machine.execSpiResetArm clocks s) := by
  unfold Machine.execSpiResetArm
  repeat' (first | with_reducible exact Keeps.refl _ | with_reducible assumption | with_reducible apply KeepsOut.done | intro _ | with_reducible apply Keeps.ite | split | (with_reducible first | apply Keeps.flag | apply Keeps.modSpi | apply Keeps.frameEnds | apply Keeps.frame | apply Keeps.cond))
theorem Keeps.execSpiResetFire (clocks : Nat) (s : State) : KeepsOut s (Machine.execSpiResetFire clocks s) := by
  unfold Machine.execSpiResetFire
  repeat' (first | with_reducible exact Keeps.refl _ | with_reducible assumption | with_reducible apply KeepsOut.done | intro _ | with_reducible apply Keeps.ite | split | (with_reducible first | apply Keeps.flag | apply Keeps.softReset | apply Keeps.frameEnds | apply Keeps.frame))
theorem Keeps.execSpiArmExpiry  (s : State) : KeepsOut s (Machine.execSpiArmExpiry s) := by
  unfold Machine.execSpiArmExpiry
  repeat' (first | with_reducible exact Keeps.refl _ | with_reducible assumption | with_reducible apply KeepsOut.done | intro _ | with_reducible apply Keeps.ite | split | (with_reducible first | apply Keeps.modSpi))
theorem Keeps.execSpiUnknownCommand (cmd : BitVec 8) (s : State) : KeepsOut s (Machine.execSpiUnknownCommand cmd s) := by
  unfold Machine.execSpiUnknownCommand
  repeat' (first | with_reducible exact Keeps.refl _ | with_reducible assumption | with_reducible apply KeepsOut.done | intro _ | with_reducible apply Keeps.ite | split | (with_reducible first | apply Keeps.flag | apply Keeps.frameEnds | apply Keeps.frame))
theorem Keeps.execSpiShortFrame (cmd : Option (BitVec 8)) (s : State) : KeepsOut s (Machine.execSpiShortFrame cmd s) := by
  unfold Machine.execSpiShortFrame
  repeat' (first | with_reducible exact Keeps.refl _ | with_reducible assumption | with_reducible apply KeepsOut.done | intro _ | with_reducible apply Keeps.ite | split | (with_reducible first | apply Keeps.flag | apply Keeps.frameEnds | apply Keeps.frame))
theorem Keeps.execSpiNoClockFrame  (s : State) : KeepsOut s (Machine.execSpiNoClockFrame s) := by
  unfold Machine.execSpiNoClockFrame
  repeat' (first | with_reducible exact Keeps.refl _ | with_reducible assumption | with_reducible apply KeepsOut.done)
theorem Keeps.execSpiD4WakeEdge  (s : State) : KeepsOut s (Machine.execSpiD4WakeEdge s) := by
  unfold Machine.execSpiD4WakeEdge
  repeat' (first | with_reducible exact Keeps.refl _ | with_reducible assumption | with_reducible apply KeepsOut.done | intro _ | with_reducible apply Keeps.ite | split | (with_reducible first | apply Keeps.modSpi | apply Keeps.modPwr | apply Keeps.cond))

end Sys2Proof.Machine
end

