-- ==== Sys2Proof/Laws/Keeps/Top.lean ====
section
/-! SUPPORT. Top: what every operation and meaning of this file keeps. -/

namespace Sys2Proof.Machine

theorem Keeps.execStrapPullDownOff  (s : State) : KeepsOut s (Machine.execStrapPullDownOff s) := by
  unfold Machine.execStrapPullDownOff
  repeat' (first | with_reducible exact Keeps.refl _ | with_reducible assumption | with_reducible apply KeepsOut.done | intro _ | with_reducible apply Keeps.ite | split | (with_reducible first | apply Keeps.modTop) | rfl)
theorem Keeps.execPcieRetryEnd  (s : State) : KeepsOut s (Machine.execPcieRetryEnd s) := by
  unfold Machine.execPcieRetryEnd
  repeat' (first | with_reducible exact Keeps.refl _ | with_reducible assumption | with_reducible apply KeepsOut.live | intro _ | with_reducible apply Keeps.ite | split | (with_reducible first | apply Keeps.modPcie | apply Keeps.cond))
theorem Keeps.execFunctionLevelReset  (s : State) : KeepsOut s (Machine.execFunctionLevelReset s) := by
  unfold Machine.execFunctionLevelReset
  repeat' (first | with_reducible exact Keeps.refl _ | with_reducible assumption | with_reducible apply KeepsOut.live | intro _ | with_reducible apply Keeps.ite | split | (with_reducible first | apply Keeps.fetchAbort | apply Keeps.hifReset | apply Keeps.functionReset | apply Keeps.cond))
theorem Keeps.execHostWriteResume (accepts : Bool) (s : State) : KeepsOut s (Machine.execHostWriteResume accepts s) := by
  unfold Machine.execHostWriteResume
  repeat' (first | with_reducible exact Keeps.refl _ | with_reducible assumption | with_reducible apply KeepsOut.live | intro _ | with_reducible apply Keeps.ite | split | (with_reducible first | apply Keeps.drain | apply Keeps.softDue | apply Keeps.modHif) | exact Nat.le_max_right _ _)
theorem Keeps.execPciPmD0Return  (s : State) : KeepsOut s (Machine.execPciPmD0Return s) := by
  unfold Machine.execPciPmD0Return
  repeat' (first | with_reducible exact Keeps.refl _ | with_reducible assumption | with_reducible apply KeepsOut.live | intro _ | with_reducible apply Keeps.ite | split | (with_reducible first | apply Keeps.modPcie | apply Keeps.drain | apply Keeps.softDue | apply Keeps.cond))
theorem Keeps.execSoftResetSilentEnd  (s : State) : KeepsOut s (Machine.execSoftResetSilentEnd s) := by
  unfold Machine.execSoftResetSilentEnd
  repeat' (first | with_reducible exact Keeps.refl _ | with_reducible assumption | with_reducible apply KeepsOut.done | intro _ | with_reducible apply Keeps.ite | split | (with_reducible first | apply Keeps.modTop) | rfl)
theorem Keeps.execSoftResetDeferredFire  (s : State) : KeepsOut s (Machine.execSoftResetDeferredFire s) := by
  unfold Machine.execSoftResetDeferredFire
  repeat' (first | with_reducible exact Keeps.refl _ | with_reducible assumption | with_reducible apply KeepsOut.live | intro _ | with_reducible apply Keeps.ite | split | (with_reducible first | apply Keeps.softReset | apply Keeps.cond))
theorem Keeps.execD4Entry (enMainFalls : Bool) (s : State) : KeepsOut s (Machine.execD4Entry enMainFalls s) := by
  unfold Machine.execD4Entry
  repeat' (first | with_reducible exact Keeps.refl _ | with_reducible assumption | with_reducible apply KeepsOut.running | intro _ | with_reducible apply Keeps.ite | split | (with_reducible first | apply Keeps.modPwr | apply Keeps.hardReset | apply Keeps.cond))
theorem Keeps.execD4Abandon (event : Fin 12) (s : State) : KeepsOut s (Machine.execD4Abandon event s) := by
  unfold Machine.execD4Abandon
  repeat' (first | with_reducible exact Keeps.refl _ | with_reducible assumption | with_reducible apply KeepsOut.running | intro _ | with_reducible apply Keeps.ite | split | (with_reducible first | apply Keeps.orF | apply Keeps.modPwr | apply Keeps.wake))
theorem Keeps.execD4TimerExpiry  (s : State) : KeepsOut s (Machine.execD4TimerExpiry s) := by
  unfold Machine.execD4TimerExpiry
  repeat' (first | with_reducible exact Keeps.refl _ | with_reducible assumption | with_reducible apply KeepsOut.done | intro _ | with_reducible apply Keeps.ite | split | (with_reducible first | apply Keeps.modPwr | apply Keeps.cond))

end Sys2Proof.Machine
end

