-- ==== Sys2Proof/Laws/Logs.lean ====
section
/-! SUPPORT. What reporting leaves: sending messages, writing completions and records, waking and noting a fault change nothing but the
ring engine, the links, the power state machine, the fault manager, and the registers that tell of them. -/

namespace Sys2Proof.Machine

theorem mem_hifRingHead (n : Fin 24) : Reg.hifRingHead n.val ∈ logRegs := by revert n; decide
theorem mem_hifDropCnt (n : Fin 24) : Reg.hifDropCnt n.val ∈ logRegs := by revert n; decide
theorem mem_lnkStat (k : Fin 4) : Reg.lnkStat k.val ∈ logRegs := by revert k; decide
theorem mem_faultBit (code : Nat) (f : FieldRef) (h : faultBit code = some f) : f.off ∈ logRegs := by
  unfold faultBit at h
  split at h <;> first | (cases h; decide) | contradiction

theorem logsOnly.refl (s : State) : logsOnly s s := ⟨rfl, fun _ _ => rfl⟩
theorem logsOnly.trans {s t u : State} (h : logsOnly s t) (k : logsOnly t u) : logsOnly s u := by
  refine ⟨?_, regsOnly_trans h.2 k.2⟩
  have e := h.1
  rw [← k.1] at e
  exact e

variable {a s : State}

theorem logsOnly.cond (h : logsOnly a s) (b : Bool) (f : State → State) (hf : ∀ t, logsOnly a t → logsOnly a (f t)) : logsOnly a (s.cond b f) := by
  unfold State.cond; split
  · exact hf s h
  · exact h
theorem logsOnly.ite {t : State} (c : Prop) [Decidable c] (h1 : logsOnly a s) (h2 : logsOnly a t) : logsOnly a (if c then s else t) := by
  split
  · exact h1
  · exact h2
theorem logsOnly.forEach {α : Type} (h : logsOnly a s) (l : List α) (f : State → α → State) (hf : ∀ t x, logsOnly a t → logsOnly a (f t x)) :
    logsOnly a (s.forEach l f) := by
  unfold State.forEach
  induction l generalizing s with
  | nil => exact h
  | cons x l ih => exact ih (hf s x h)
theorem logsOnly.idle (h : logsOnly a s) : logsOnly a (id s) := h

theorem logsOnly.wr (h : logsOnly a s) (o : Nat) (w : Word) (ho : o ∈ logRegs) : logsOnly a (s.wr o w) := h.trans ⟨rfl, regsOnly_wr s o w ho⟩
theorem logsOnly.put (h : logsOnly a s) (f : FieldRef) (v : Nat) (ho : f.off ∈ logRegs) : logsOnly a (s.put f v) := h.wr _ _ ho
theorem logsOnly.putB (h : logsOnly a s) (f : FieldRef) (b : Bool) (ho : f.off ∈ logRegs) : logsOnly a (s.putB f b) := h.wr _ _ ho
theorem logsOnly.flag (h : logsOnly a s) (f : FieldRef) (ho : f.off ∈ logRegs) : logsOnly a (s.flag f) := h.wr _ _ ho
theorem logsOnly.inc (h : logsOnly a s) (f : FieldRef) (ho : f.off ∈ logRegs) : logsOnly a (s.inc f) := h.wr _ _ ho
theorem logsOnly.incSat (h : logsOnly a s) (f : FieldRef) (ho : f.off ∈ logRegs) : logsOnly a (s.incSat f) := h.wr _ _ ho
theorem logsOnly.orF (h : logsOnly a s) (f : FieldRef) (m : Nat) (ho : f.off ∈ logRegs) : logsOnly a (s.orF f m) := h.wr _ _ ho
theorem logsOnly.emit (h : logsOnly a s) (o : Out) : logsOnly a (s.emit o) := h.trans ⟨rfl, fun _ _ => rfl⟩
theorem logsOnly.emits (h : logsOnly a s) (os : List Out) : logsOnly a (s.emits os) := h.trans ⟨rfl, fun _ _ => rfl⟩
theorem logsOnly.modHif (h : logsOnly a s) (f : Hif → Hif) : logsOnly a (s.modHif f) := h.trans ⟨rfl, fun _ _ => rfl⟩
theorem logsOnly.modPwr (h : logsOnly a s) (f : Pwr → Pwr) : logsOnly a (s.modPwr f) := h.trans ⟨rfl, fun _ _ => rfl⟩
theorem logsOnly.modFlt (h : logsOnly a s) (f : Flt → Flt) : logsOnly a (s.modFlt f) := h.trans ⟨rfl, fun _ _ => rfl⟩
theorem logsOnly.modTelem (h : logsOnly a s) (f : Telem → Telem) : logsOnly a (s.modTelem f) := h.trans ⟨rfl, fun _ _ => rfl⟩
theorem logsOnly.modLnk (h : logsOnly a s) (f : Lnk → Lnk) : logsOnly a (s.modLnk f) := h.trans ⟨rfl, fun _ _ => rfl⟩
theorem logsOnly.modRing (h : logsOnly a s) (n : Fin 24) (f : RingSt → RingSt) : logsOnly a (s.modRing n f) := h.trans ⟨rfl, fun _ _ => rfl⟩

end Sys2Proof.Machine
end

