-- ==== Sys2Proof/Laws/Logs/Fabric.lean ====
section
/-! SUPPORT. Fabric: what its operations leave. -/

namespace Sys2Proof.Machine

theorem logsOnly.modLink {a s : State} (h : logsOnly a s) (k : Fin 4) (f : LinkSt → LinkSt) : logsOnly a (Machine.State.modLink s k f) := by
  unfold Machine.State.modLink
  repeat' (first | with_reducible exact h | with_reducible assumption | intro _ | with_reducible apply logsOnly.ite | split | (with_reducible first | apply logsOnly.modLnk))
theorem logsOnly.placeFree {a s : State} (h : logsOnly a s) (w : Waiting) : logsOnly a (Machine.State.placeFree s w) := by
  unfold Machine.State.placeFree
  repeat' (first | with_reducible exact h | with_reducible assumption | intro _ | split | (with_reducible first | apply logsOnly.modLink) | exact mem_hifRingHead _ | exact mem_hifDropCnt _ | exact mem_lnkStat _ | (exact mem_faultBit _ _ ‹_›) | decide | extract_lets | dsimp only | dsimp +zetaDelta only)
theorem logsOnly.pumpN {a : State} : ∀ (n : Nat) {s : State} (_ : logsOnly a s) (k : Fin 4), logsOnly a (Machine.pumpN n s k) := by
  intro n
  induction n with
  | zero => intro s h; intros; exact h
  | succ n ih =>
    intro s h; intros; unfold Machine.pumpN
    repeat' (first | with_reducible exact h | with_reducible assumption | intro _ | split | apply ih | (with_reducible first | apply logsOnly.placeFree | apply logsOnly.emit | apply logsOnly.modLink) | extract_lets | dsimp only | dsimp +zetaDelta only)
theorem logsOnly.pump {a s : State} (h : logsOnly a s) (k : Fin 4) : logsOnly a (Machine.State.pump s k) := by
  unfold Machine.State.pump
  repeat' (first | with_reducible exact h | with_reducible assumption | intro _ | with_reducible apply logsOnly.ite | split | (with_reducible first | apply logsOnly.pumpN))
theorem logsOnly.offer {a s : State} (h : logsOnly a s) (k : Fin 4) (w : Waiting) : logsOnly a (Machine.State.offer s k w) := by
  unfold Machine.State.offer
  repeat' (first | with_reducible exact h | with_reducible assumption | intro _ | with_reducible apply logsOnly.ite | split | (with_reducible first | apply logsOnly.incSat | apply logsOnly.modLink) | exact mem_hifRingHead _ | exact mem_hifDropCnt _ | exact mem_lnkStat _ | (exact mem_faultBit _ _ ‹_›) | decide | extract_lets | dsimp only | dsimp +zetaDelta only)
theorem logsOnly.txFlit {a s : State} (h : logsOnly a s) (k : Fin 4) (f : Flit) : logsOnly a (Machine.State.txFlit s k f) := by
  unfold Machine.State.txFlit
  repeat' (first | with_reducible exact h | with_reducible assumption | intro _ | split | (with_reducible first | apply logsOnly.pump | apply logsOnly.offer) | exact mem_hifRingHead _ | exact mem_hifDropCnt _ | exact mem_lnkStat _)
theorem logsOnly.passFlit {a s : State} (h : logsOnly a s) (w : Waiting) (outs : List (Fin 4 × Flit)) : logsOnly a (Machine.State.passFlit s w outs) := by
  unfold Machine.State.passFlit
  repeat' (first | with_reducible exact h | with_reducible assumption | intro _ | with_reducible apply logsOnly.ite | split | (with_reducible first | apply logsOnly.placeFree | apply logsOnly.pump | apply logsOnly.offer | apply logsOnly.forEach) | exact mem_hifRingHead _ | exact mem_hifDropCnt _ | exact mem_lnkStat _ | (exact mem_faultBit _ _ ‹_›) | decide | extract_lets | dsimp only | dsimp +zetaDelta only)
theorem logsOnly.dropWaiting {a s : State} (h : logsOnly a s) (k : Fin 4) : logsOnly a (Machine.State.dropWaiting s k) := by
  unfold Machine.State.dropWaiting
  repeat' (first | with_reducible exact h | with_reducible assumption | intro _ | with_reducible apply logsOnly.ite | split | (with_reducible first | apply logsOnly.modLink | apply logsOnly.placeFree | apply logsOnly.forEach) | exact mem_hifRingHead _ | exact mem_hifDropCnt _ | exact mem_lnkStat _ | (exact mem_faultBit _ _ ‹_›) | decide | extract_lets | dsimp only | dsimp +zetaDelta only)
theorem logsOnly.injectFlit {a s : State} (h : logsOnly a s) (f : Flit) : logsOnly a (Machine.State.injectFlit s f) := by
  unfold Machine.State.injectFlit
  repeat' (first | with_reducible exact h | with_reducible assumption | intro _ | with_reducible apply logsOnly.ite | split | (with_reducible first | apply logsOnly.txFlit | apply logsOnly.forEach))
theorem logsOnly.sendMsg {a s : State} (h : logsOnly a s) (m : Msg) : logsOnly a (Machine.State.sendMsg s m) := by
  unfold Machine.State.sendMsg
  repeat' (first | with_reducible exact h | with_reducible assumption | intro _ | with_reducible apply logsOnly.ite | split | (with_reducible first | apply logsOnly.emit | apply logsOnly.txFlit | apply logsOnly.injectFlit | apply logsOnly.forEach))
theorem logsOnly.setReqUsed {a s : State} (h : logsOnly a s) (peer n : Nat) : logsOnly a (Machine.State.setReqUsed s peer n) := by
  unfold Machine.State.setReqUsed
  repeat' (first | with_reducible exact h | with_reducible assumption | intro _ | with_reducible apply logsOnly.ite | split | (with_reducible first | apply logsOnly.modLnk))
theorem logsOnly.sendReq {a s : State} (h : logsOnly a s) (m : Msg) (d : Option Desc) : logsOnly a (Machine.State.sendReq s m d) := by
  unfold Machine.State.sendReq
  repeat' (first | with_reducible exact h | with_reducible assumption | intro _ | with_reducible apply logsOnly.ite | split | (with_reducible first | apply logsOnly.modLnk | apply logsOnly.sendMsg | apply logsOnly.setReqUsed))
theorem logsOnly.creditBack {a s : State} (h : logsOnly a s) (peer : Nat) : logsOnly a (Machine.State.creditBack s peer) := by
  unfold Machine.State.creditBack
  repeat' (first | with_reducible exact h | with_reducible assumption | intro _ | with_reducible apply logsOnly.ite | split | (with_reducible first | apply logsOnly.modLnk | apply logsOnly.sendMsg | apply logsOnly.setReqUsed))

end Sys2Proof.Machine
end

