-- ==== Sys2Proof/Laws/Logs/Records.lean ====
section
/-! SUPPORT. Records: what its operations leave. -/

namespace Sys2Proof.Machine

theorem logsOnly.readyFrom {a s : State} (h : logsOnly a s) (d : Nat) : logsOnly a (Machine.State.readyFrom s d) := by
  unfold Machine.State.readyFrom
  repeat' (first | with_reducible exact h | with_reducible assumption | intro _ | with_reducible apply logsOnly.ite | split | (with_reducible first | apply logsOnly.flag | apply logsOnly.cond) | exact mem_hifRingHead _ | exact mem_hifDropCnt _ | exact mem_lnkStat _ | (exact mem_faultBit _ _ ‹_›) | decide)
theorem logsOnly.wake {a s : State} (h : logsOnly a s) (i : Nat) : logsOnly a (Machine.State.wake s i) := by
  unfold Machine.State.wake
  repeat' (first | with_reducible exact h | with_reducible assumption | intro _ | with_reducible apply logsOnly.ite | split | (with_reducible first | apply logsOnly.put | apply logsOnly.orF | apply logsOnly.modPwr | apply logsOnly.readyFrom) | exact mem_hifRingHead _ | exact mem_hifDropCnt _ | exact mem_lnkStat _ | (exact mem_faultBit _ _ ‹_›) | decide | extract_lets)
theorem logsOnly.sendVector {a s : State} (h : logsOnly a s) (v : Nat) : logsOnly a (Machine.State.sendVector s v) := by
  unfold Machine.State.sendVector
  repeat' (first | with_reducible exact h | with_reducible assumption | intro _ | with_reducible apply logsOnly.ite | split | (with_reducible first | apply logsOnly.emit | apply logsOnly.modHif))
theorem logsOnly.signalRing {a s : State} (h : logsOnly a s) (n : Fin 24) : logsOnly a (Machine.State.signalRing s n) := by
  unfold Machine.State.signalRing
  repeat' (first | with_reducible exact h | with_reducible assumption | intro _ | with_reducible apply logsOnly.ite | split | (with_reducible first | apply logsOnly.modRing | apply logsOnly.sendVector))
theorem logsOnly.ringEvent {a s : State} (h : logsOnly a s) (n : Fin 24) : logsOnly a (Machine.State.ringEvent s n) := by
  unfold Machine.State.ringEvent
  repeat' (first | with_reducible exact h | with_reducible assumption | intro _ | with_reducible apply logsOnly.ite | split | (with_reducible first | apply logsOnly.modRing | apply logsOnly.signalRing))
theorem logsOnly.takeEntry {a s : State} (h : logsOnly a s) (n : Fin 24) : logsOnly a (Machine.State.takeEntry s n).2.2 := by
  unfold Machine.State.takeEntry
  repeat' (first | with_reducible exact h | with_reducible assumption | intro _ | with_reducible apply logsOnly.ite | split | (with_reducible first | apply logsOnly.put | apply logsOnly.putB) | exact mem_hifRingHead _)
theorem logsOnly.post {a s : State} (h : logsOnly a s) (w : HostWrite) : logsOnly a (Machine.State.post s w) := by
  unfold Machine.State.post
  repeat' (first | with_reducible exact h | with_reducible assumption | intro _ | with_reducible apply logsOnly.ite | split | (with_reducible first | apply logsOnly.emit | apply logsOnly.modHif))
theorem logsOnly.putCpl {a s : State} (h : logsOnly a s) (ring : Fin 8) (c : CplWait) : logsOnly a (Machine.State.putCpl s ring c) := by
  unfold Machine.State.putCpl
  repeat' (first | with_reducible exact h | with_reducible assumption | intro _ | with_reducible apply logsOnly.ite | split | (with_reducible first | apply logsOnly.ringEvent | apply logsOnly.takeEntry | apply logsOnly.post))
theorem logsOnly.writeCpl {a s : State} (h : logsOnly a s) (ring : Fin 8) (c : CplWait) : logsOnly a (Machine.State.writeCpl s ring c) := by
  unfold Machine.State.writeCpl
  repeat' (first | with_reducible exact h | with_reducible assumption | intro _ | with_reducible apply logsOnly.ite | split | (with_reducible first | apply logsOnly.inc | apply logsOnly.modRing | apply logsOnly.putCpl) | exact mem_hifRingHead _ | exact mem_hifDropCnt _)
theorem logsOnly.modStarted {a s : State} (h : logsOnly a s) (d : Desc) (f : StartedDesc → StartedDesc) : logsOnly a (Machine.State.modStarted s d f) := by
  unfold Machine.State.modStarted
  repeat' (first | with_reducible exact h | with_reducible assumption | intro _ | with_reducible apply logsOnly.ite | split | (with_reducible first | apply logsOnly.modHif))
theorem logsOnly.cancelEnded {a s : State} (h : logsOnly a s) (d : Desc) (committed : Bool) : logsOnly a (Machine.State.cancelEnded s d committed) := by
  unfold Machine.State.cancelEnded
  repeat' (first | with_reducible exact h | with_reducible assumption | intro _ | with_reducible apply logsOnly.ite | split | (with_reducible first | apply logsOnly.modHif))
theorem logsOnly.answer {a s : State} (h : logsOnly a s) (d : Desc) (r : Result) (data : List Word) : logsOnly a (Machine.State.answer s d r data) := by
  unfold Machine.State.answer
  repeat' (first | with_reducible exact h | with_reducible assumption | intro _ | with_reducible apply logsOnly.ite | split | (with_reducible first | apply logsOnly.modLnk | apply logsOnly.sendMsg))
theorem logsOnly.dropRegion {a s : State} (h : logsOnly a s) (d : Desc) : logsOnly a (Machine.State.dropRegion s d) := by
  unfold Machine.State.dropRegion
  repeat' (first | with_reducible exact h | with_reducible assumption | intro _ | with_reducible apply logsOnly.ite | split | (with_reducible first | apply logsOnly.modHif))
theorem logsOnly.complete {a s : State} (h : logsOnly a s) (d : Desc) (r : Result) : logsOnly a (Machine.State.complete s d r) := by
  unfold Machine.State.complete
  repeat' (first | with_reducible exact h | with_reducible assumption | intro _ | with_reducible apply logsOnly.ite | split | (with_reducible first | apply logsOnly.inc | apply logsOnly.modHif | apply logsOnly.writeCpl | apply logsOnly.cancelEnded | apply logsOnly.answer | apply logsOnly.dropRegion) | exact mem_hifRingHead _ | exact mem_hifDropCnt _ | exact mem_lnkStat _ | (exact mem_faultBit _ _ ‹_›) | decide)
theorem logsOnly.finish {a s : State} (h : logsOnly a s) (d : Desc) (status : Nat) : logsOnly a (Machine.State.finish s d status) := by
  unfold Machine.State.finish
  repeat' (first | with_reducible exact h | with_reducible assumption | intro _ | with_reducible apply logsOnly.ite | split | (with_reducible first | apply logsOnly.complete))
theorem logsOnly.bad {a s : State} (h : logsOnly a s) (d : Desc) (detail : Nat) : logsOnly a (Machine.State.bad s d detail) := by
  unfold Machine.State.bad
  repeat' (first | with_reducible exact h | with_reducible assumption | intro _ | with_reducible apply logsOnly.ite | split | (with_reducible first | apply logsOnly.complete))
theorem logsOnly.commit {a s : State} (h : logsOnly a s) (d : Desc) : logsOnly a (Machine.State.commit s d) := by
  unfold Machine.State.commit
  repeat' (first | with_reducible exact h | with_reducible assumption | intro _ | with_reducible apply logsOnly.ite | split | (with_reducible first | apply logsOnly.modLnk | apply logsOnly.modStarted))
theorem logsOnly.serve {a s : State} (h : logsOnly a s) (d : Desc) : logsOnly a (Machine.State.serve s d) := by
  unfold Machine.State.serve
  repeat' (first | with_reducible exact h | with_reducible assumption | intro _ | with_reducible apply logsOnly.ite | split | (with_reducible first | apply logsOnly.modLnk))
theorem logsOnly.finishOpt {a s : State} (h : logsOnly a s) (d : Option Desc) (r : Result) : logsOnly a (Machine.State.finishOpt s d r) := by
  unfold Machine.State.finishOpt
  repeat' (first | with_reducible exact h | with_reducible assumption | intro _ | with_reducible apply logsOnly.ite | split | (with_reducible first | apply logsOnly.complete))
theorem logsOnly.atBlock {a s : State} (h : logsOnly a s) (d : Desc) : logsOnly a (Machine.State.atBlock s d) := by
  unfold Machine.State.atBlock
  repeat' (first | with_reducible exact h | with_reducible assumption | intro _ | with_reducible apply logsOnly.ite | split | (with_reducible first | apply logsOnly.modStarted | apply logsOnly.serve))
theorem logsOnly.taking {a s : State} (h : logsOnly a s) (op : Nat) (d : Desc) (act : State → State) (hact : ∀ t, logsOnly a t → logsOnly a (act t)) : logsOnly a (Machine.State.taking s op d act) := by
  unfold Machine.State.taking
  repeat' (first | with_reducible exact h | with_reducible assumption | intro _ | with_reducible apply logsOnly.ite | split | with_reducible apply hact | (with_reducible first | apply logsOnly.atBlock))
theorem logsOnly.forward {a s : State} (h : logsOnly a s) (d : Desc) (m : Nat) : logsOnly a (Machine.State.forward s d m) := by
  unfold Machine.State.forward
  repeat' (first | with_reducible exact h | with_reducible assumption | intro _ | with_reducible apply logsOnly.ite | split | (with_reducible first | apply logsOnly.sendReq | apply logsOnly.modStarted | apply logsOnly.finish))
theorem logsOnly.atMember {a s : State} (h : logsOnly a s) (op : Nat) (d : Desc) (seen act : State → State) (hseen : ∀ t, logsOnly a t → logsOnly a (seen t)) (hact : ∀ t, logsOnly a t → logsOnly a (act t)) : logsOnly a (Machine.State.atMember s op d seen act) := by
  unfold Machine.State.atMember
  repeat' (first | with_reducible exact h | with_reducible assumption | intro _ | with_reducible apply logsOnly.ite | split | with_reducible apply hseen | with_reducible apply hact | (with_reducible first | apply logsOnly.taking | apply logsOnly.forward))
theorem logsOnly.laceAll {a s : State} (h : logsOnly a s) (d : Desc) (extra : List Word) : logsOnly a (Machine.State.laceAll s d extra) := by
  unfold Machine.State.laceAll
  repeat' (first | with_reducible exact h | with_reducible assumption | intro _ | with_reducible apply logsOnly.ite | split | (with_reducible first | apply logsOnly.sendReq | apply logsOnly.modStarted | apply logsOnly.forEach))
theorem logsOnly.lacePart {a s : State} (h : logsOnly a s) (d : Desc) (m : Nat) (r : Result) : logsOnly a (Machine.State.lacePart s d m r) := by
  unfold Machine.State.lacePart
  repeat' (first | with_reducible exact h | with_reducible assumption | intro _ | with_reducible apply logsOnly.ite | split | (with_reducible first | apply logsOnly.modStarted | apply logsOnly.complete))
theorem logsOnly.partDone {a s : State} (h : logsOnly a s) (d : Desc) (r : Result) : logsOnly a (Machine.State.partDone s d r) := by
  unfold Machine.State.partDone
  repeat' (first | with_reducible exact h | with_reducible assumption | intro _ | with_reducible apply logsOnly.ite | split | (with_reducible first | apply logsOnly.complete | apply logsOnly.lacePart))
theorem logsOnly.needBlk {a s : State} (h : logsOnly a s) (b : Blk) (d : Desc) (act : State → State) (hact : ∀ t, logsOnly a t → logsOnly a (act t)) : logsOnly a (Machine.State.needBlk s b d act) := by
  unfold Machine.State.needBlk
  repeat' (first | with_reducible exact h | with_reducible assumption | intro _ | with_reducible apply logsOnly.ite | split | with_reducible apply hact | (with_reducible first | apply logsOnly.finish))
theorem logsOnly.writeRec {a s : State} (h : logsOnly a s) (n : Fin 24) (r : Rec) : logsOnly a (Machine.State.writeRec s n r) := by
  unfold Machine.State.writeRec
  repeat' (first | with_reducible exact h | with_reducible assumption | intro _ | with_reducible apply logsOnly.ite | split | (with_reducible first | apply logsOnly.modRing | apply logsOnly.ringEvent | apply logsOnly.takeEntry | apply logsOnly.post))
theorem logsOnly.reportDrops {a s : State} (h : logsOnly a s) (n : Fin 24) : logsOnly a (Machine.State.reportDrops s n) := by
  unfold Machine.State.reportDrops
  repeat' (first | with_reducible exact h | with_reducible assumption | intro _ | with_reducible apply logsOnly.ite | split | (with_reducible first | apply logsOnly.modRing | apply logsOnly.writeRec))
theorem logsOnly.toRing {a s : State} (h : logsOnly a s) (n : Fin 24) (r : Rec) : logsOnly a (Machine.State.toRing s n r) := by
  unfold Machine.State.toRing
  repeat' (first | with_reducible exact h | with_reducible assumption | intro _ | with_reducible apply logsOnly.ite | split | (with_reducible first | apply logsOnly.inc | apply logsOnly.modRing | apply logsOnly.writeRec | apply logsOnly.reportDrops) | exact mem_hifRingHead _ | exact mem_hifDropCnt _)
theorem logsOnly.bufferRec {a s : State} (h : logsOnly a s) (r : Rec) : logsOnly a (Machine.State.bufferRec s r) := by
  unfold Machine.State.bufferRec
  repeat' (first | with_reducible exact h | with_reducible assumption | intro _ | split | (with_reducible first | apply logsOnly.modHif))
theorem logsOnly.takeRec {a s : State} (h : logsOnly a s) (r : Rec) : logsOnly a (Machine.State.takeRec s r) := by
  unfold Machine.State.takeRec
  repeat' (first | with_reducible exact h | with_reducible assumption | intro _ | with_reducible apply logsOnly.ite | split | (with_reducible first | apply logsOnly.toRing | apply logsOnly.bufferRec))
theorem logsOnly.postRec {a s : State} (h : logsOnly a s) (r : Rec) : logsOnly a (Machine.State.postRec s r) := by
  unfold Machine.State.postRec
  repeat' (first | with_reducible exact h | with_reducible assumption | intro _ | with_reducible apply logsOnly.ite | split | (with_reducible first | apply logsOnly.sendReq | apply logsOnly.bufferRec | apply logsOnly.takeRec))
theorem logsOnly.record {a s : State} (h : logsOnly a s) (typ : Nat) (body : List Word) : logsOnly a (Machine.State.record s typ body) := by
  unfold Machine.State.record
  repeat' (first | with_reducible exact h | with_reducible assumption | intro _ | with_reducible apply logsOnly.ite | split | (with_reducible first | apply logsOnly.postRec))
theorem logsOnly.fltBit {a s : State} (h : logsOnly a s) (f : FieldRef) (hf : f.off ∈ logRegs) : logsOnly a (s.fltBit f) :=
  ((h.flag f hf).flag _ (by decide)).wake 7
theorem logsOnly.faultRec {a s : State} (h : logsOnly a s) (code cls inst : Nat) (i0 i1 : Nat) : logsOnly a (Machine.State.faultRec s code cls inst i0 i1) := by
  unfold Machine.State.faultRec
  repeat' (first | with_reducible exact h | with_reducible assumption | intro _ | with_reducible apply logsOnly.ite | split | (with_reducible first | apply logsOnly.record))
theorem logsOnly.fault {a s : State} (h : logsOnly a s) (code cls inst i0 i1 : Nat) : logsOnly a (Machine.State.fault s code cls inst i0 i1) := by
  unfold Machine.State.fault
  repeat' (first | with_reducible exact h | with_reducible assumption | intro _ | with_reducible apply logsOnly.ite | split | (with_reducible first | apply logsOnly.modFlt | apply logsOnly.modTelem | apply logsOnly.fltBit | apply logsOnly.faultRec) | exact mem_hifRingHead _ | exact mem_hifDropCnt _ | exact mem_lnkStat _ | (exact mem_faultBit _ _ ‹_›))

end Sys2Proof.Machine
end

