-- ==== Sys2Proof/WellFormed.lean ====
section
/-! DEFINITION. Well-formed commands: operands within what the spec lets them be. A descriptor has eight words (Table 6.7; a
forwarded one carries more), and an opcode's row carries a descriptor of that opcode. -/

namespace Sys2Proof

open Sys2Proof.Machine

/-- Eight words or more, and an entry of a ring. -/
def wfDesc (d : Desc) : Bool := decide (8 ≤ d.words.length) && decide (d.index < 65536)
/-- A descriptor of one opcode. -/
def wfOp (op : Nat) (d : Desc) : Bool := wfDesc d && d.opcode == op
/-- A message between members of a Lace, of a kind that Table 16.7 names. -/
def wfMsg (m : Msg) : Bool := decide (m.dst < 64) && decide (m.src < 64) && decide (m.kind < 8) && decide (m.tag < 65536)
/-- A flit of eight words (R684). -/
def wfFlit (f : Flit) : Bool := f.data.length == 8 && f.res.length == 8 && decide (f.kind < 8) && decide (f.dest < 64) && decide (f.src < 64)
/-- A SYSCLK cycle of a tile (R387). -/
def wfCycle (c : Nat) : Bool := decide (c < 245760)
/-- A member number or an octet. -/
def wfSix (n : Nat) : Bool := decide (n < 64)
/-- A tile sequence number. -/
def wfTile (n : Nat) : Bool := decide (n < 2 ^ 32)
/-- A field of 16 bits. -/
def wfHalf (n : Nat) : Bool := decide (n < 65536)
/-- An exchange slot. -/
def wfXid (n : Nat) : Bool := decide (n < 2)
/-- A pip event slot. -/
def wfSlot (n : Nat) : Bool := decide (n < 256)
/-- A listen set. -/
def wfSet (n : Nat) : Bool := decide (n < 16)
/-- A byte offset of the setup map or of BAR2. -/
def wfOff (n : Nat) : Bool := decide (n < 65536)
/-- A tag band (Table 14.1). -/
def wfBand (n : Nat) : Bool := decide (n < 3)
/-- An entry of a command ring: eight words, or six under COMPAT6. -/
def wfEntry (ws : List Word) : Bool := ws.length == 8 || ws.length == 6
/-- A burst of written words: one at least. -/
def wfBurst (ws : List Word) : Bool := !ws.isEmpty

/-- The command's operands are within their ranges. -/
def Instr.wf (i : Instr) : Bool :=
  match i with
  | .railGood _ => true
  | .railLost _ => true
  | .powerOnResetRelease _ => true
  | .radioRailWaitTimeout _ => true
  | .resetNAssert _ => true
  | .resetNRelease _ _ => true
  | .refDetectWindowEnd => true
  | .refclkDetected => true
  | .crystalStarted => true
  | .adpllLock _ cycle => wfCycle cycle
  | .adpllLossOfLock _ => true
  | .adpllLossOfRef => true
  | .linkTrainingStart => true
  | .pcieRetryEnd => true
  | .bootStart _ _ _ _ => true
  | .bootForceUntested _ _ => true
  | .bootWindowWrite _ _ _ => true
  | .imageReadComplete _ _ => true
  | .busMasterClear => true
  | .topSoftReset _ _ => true
  | .softResetSilentEnd => true
  | .softResetDeferredFire => true
  | .helloSend => true
  | .helloReceive member _ _ _ _ _ tag _ => wfSix member && wfHalf tag
  | .pushEnd => true
  | .answerReceive member _ tag => wfSix member && wfHalf tag
  | .pushReceive _ _ _ _ => true
  | .epochOneTimeout _ => true
  | .perstNAssert => true
  | .perstNRelease => true
  | .functionLevelReset => true
  | .pciPmD3hotEnter => true
  | .pciPmD0Return => true
  | .registerWrite _ off words _ => wfOff off && wfBurst words
  | .bar0OtherRequest => true
  | .loHalfRead _ off _ => wfOff off
  | .pairedLoWrite _ _ _ => true
  | .pairedHiWrite _ _ _ _ cycle => wfCycle cycle
  | .jtagRegacc _ _ _ _ _ => true
  | .jtagExtest _ _ => true
  | .jtagIdcode => true
  | .jtagSamplePreload _ _ => true
  | .jtagClamp => true
  | .jtagHighz => true
  | .jtagBypass _ => true
  | .blockResetHold _ _ => true
  | .blockResetRelease _ _ => true
  | .blockReleaseDone _ => true
  | .staleReply _ _ => true
  | .compat6Write _ _ => true
  | .dbgGo _ _ => true
  | .spiRead _ _ _ => true
  | .spiFastRead _ _ _ => true
  | .spiWrite _ words _ => wfBurst words
  | .spiStatus _ _ => true
  | .spiWake => true
  | .spiResetArm _ => true
  | .spiResetFire _ => true
  | .spiArmExpiry => true
  | .spiUnknownCommand _ => true
  | .spiShortFrame _ => true
  | .spiNoClockFrame => true
  | .spiD4WakeEdge => true
  | .hifEngineEnable _ _ _ => true
  | .hifEngineDisable _ _ => true
  | .ringEnable _ _ _ => true
  | .ringDisable _ _ _ => true
  | .doorbellArrival off _ _ => wfOff off
  | .doorbellTake _ => true
  | .descriptorFetchComplete words => wfEntry words
  | .descriptorFetchFail => true
  | .descriptorStart _ => true
  | .nop d => wfOp 0x01 d
  | .fence d => wfOp 0x02 d
  | .cancel d => wfOp 0x03 d
  | .cancelArrival d target => wfOp 0x03 d && wfDesc target
  | .regRead d => wfOp 0x04 d
  | .regWrite d _ cycle _ _ => wfOp 0x05 d && wfCycle cycle
  | .forwardedRequestReceive m _ cycle _ _ => wfMsg m && wfCycle cycle
  | .responseReceive src tag _ _ _ => wfSix src && wfHalf tag
  | .updateRegionRun _ => true
  | .regionDataReadComplete d _ => wfOp 0x06 d
  | .updateBeamWeights d => wfOp 0x06 d
  | .updateOwnershipMap d => wfOp 0x06 d
  | .updateAfList d => wfOp 0x06 d
  | .updateRecallList d => wfOp 0x06 d
  | .updateSpdoTemplate d => wfOp 0x06 d
  | .updateTagPlan d => wfOp 0x06 d
  | .updateRoster d => wfOp 0x06 d
  | .updatePipTable d => wfOp 0x06 d
  | .snapshot d _ _ => wfOp 0x07 d
  | .restore d _ => wfOp 0x08 d
  | .overloadPost _ => true
  | .captureDropReport _ => true
  | .msixSend _ => true
  | .hostWriteResume _ => true
  | .pipEdgeQuad _ _ _ cycle => wfCycle cycle
  | .pipEdgePulse _ _ cycle => wfCycle cycle
  | .pipEdgeDab _ cycle => wfCycle cycle
  | .pipEdgeRds _ cycle => wfCycle cycle
  | .pipCountHostWrite _ _ _ cycle => wfCycle cycle
  | .pipHoming cycle => wfCycle cycle
  | .pipZArm _ _ => true
  | .pipSrcWrite _ _ => true
  | .pipQualInstant slot => wfSlot slot
  | .pipWinOpen slot _ => wfSlot slot
  | .pipWinClose slot _ => wfSlot slot
  | .pipBeacon slot _ _ => wfSlot slot
  | .pipAudioStart slot _ _ => wfSlot slot
  | .pipCaptureStart slot _ => wfSlot slot
  | .pipCalSlot slot _ => wfSlot slot
  | .calSlotEnd => true
  | .pipGpioSet slot _ => wfSlot slot
  | .pipGpioClear slot _ => wfSlot slot
  | .pipPostRecord slot _ => wfSlot slot
  | .pipEventArm d => wfOp 0x20 d
  | .pipEventDisarm d => wfOp 0x21 d
  | .pipBeaconSend _ cycle => wfCycle cycle
  | .pipBeaconReceive _ frac _ => wfHalf frac
  | .pipNoticeReceive _ _ _ frac tile cycle _ => wfHalf frac && wfTile tile && wfCycle cycle
  | .pipLockLoss => true
  | .pipStopped => true
  | .refSelectWrite _ _ => true
  | .audioExtLost => true
  | .audioHoldoverExit => true
  | .audioFamilyChange _ _ => true
  | .audioSrcChange _ _ => true
  | .syncFire _ _ => true
  | .syncArmReceive tile _ => wfTile tile
  | .syncPulseDrive _ => true
  | .syncPulseSample _ => true
  | .syncEffect _ _ _ => true
  | .syncArmExpiry => true
  | .syncDoneReceive member => wfSix member
  | .syncFireTimeout => true
  | .loTargetWrite _ _ _ => true
  | .loTuneWrite _ _ _ => true
  | .loCalInvalidate _ _ _ => true
  | .tune d => wfOp 0x10 d
  | .radioState d => wfOp 0x11 d
  | .synthStepDone _ cycle => wfCycle cycle
  | .synthLockTimeout _ => true
  | .txGrant => true
  | .paEnRise => true
  | .txRampUpStart => true
  | .txFullPower => true
  | .txLastSymbol => true
  | .txRampDownEnd => true
  | .paEnFall => true
  | .blankingEnd cycle => wfCycle cycle
  | .tileBoundary _ _ _ => true
  | .adcClip _ cycle => wfCycle cycle
  | .agcAttack _ => true
  | .tileWriteDone octet _ _ => wfSix octet
  | .sentinelFreeze _ _ => true
  | .sentinelRelease _ => true
  | .freezeMaxExpiry _ => true
  | .overloadEpisodeEnd => true
  | .overloadOngoing => true
  | .captureStart d => wfOp 0x28 d
  | .captureStop d => wfOp 0x29 d
  | .captureTileWrite _ seq _ => wfTile seq
  | .calRun d => wfOp 0x40 d
  | .calRoundStart _ _ _ => true
  | .calSumsReceive owner _ => wfSix owner
  | .calValuesReceive _ => true
  | .calCoeffWrite _ _ _ _ => true
  | .calRunTimeout d => wfOp 0x40 d
  | .bcstSelect d => wfOp 0x18 d
  | .bcstSelectTimeout _ => true
  | .bcstFollow d => wfOp 0x19 d
  | .datacastSubscribe d => wfOp 0x1A d
  | .fmAudioReady _ => true
  | .rdsBlock _ _ _ _ _ => true
  | .dabNullSymbol _ => true
  | .dabFrame _ _ _ _ _ => true
  | .dabReconfig _ _ _ => true
  | .dabAudioReady _ => true
  | .announcementTimeout _ => true
  | .followEvaluate => true
  | .switchConfirmTimeout _ => true
  | .afBarExpiry _ _ _ => true
  | .dabProbe _ _ _ _ => true
  | .dabProbeEnd _ => true
  | .bcstMeterUpdate _ => true
  | .datacastUnit _ _ => true
  | .audioRoute d => wfOp 0x50 d
  | .audioRouteRampStart _ => true
  | .audioFrameBoundary _ => true
  | .sapCtlWrite _ _ _ => true
  | .audioUnderrun _ => true
  | .audioOverrun _ => true
  | .audioResume _ => true
  | .followerClockLost _ _ => true
  | .followerClockBack _ => true
  | .spdoBlockStart => true
  | .spdoCsLoad _ _ => true
  | .spdiLock _ => true
  | .spdiLoss => true
  | .spdiNonpcm => true
  | .spdiErasure _ => true
  | .audStartGo _ _ _ => true
  | .audStartBall _ => true
  | .audStartFrame => true
  | .tagBurst _ _ _ _ _ _ cycle => wfCycle cycle
  | .candidateReceive _ => true
  | .candidateHandle _ _ => true
  | .ackMacExpiry band _ _ => wfBand band
  | .tagBeacon d _ => wfOp 0x12 d
  | .beaconServe => true
  | .lbtJudge _ _ => true
  | .lbtRetryWait => true
  | .implicitWindowOpen _ _ _ => true
  | .implicitWindowClose _ _ _ => true
  | .beaconDecision _ _ => true
  | .beaconRepeat d => wfOp 0x12 d
  | .dutyWindowTick => true
  | .tagListen d => wfOp 0x13 d
  | .tagListenClose d => wfOp 0x13 d
  | .tagListenDurationEnd set => wfSet set
  | .refreshDue => true
  | .refreshCommand => true
  | .storeGrant _ _ _ => true
  | .scrubWriteBack _ _ => true
  | .stitchEnd _ => true
  | .holdCutoff _ => true
  | .scrubPassEnd _ => true
  | .bankCopyDone => true
  | .linkTrainingDone _ _ _ _ member _ _ _ => wfSix member
  | .linkGiveUp _ => true
  | .laneLockLoss _ _ _ => true
  | .fastRetrainEnd _ _ _ => true
  | .distBlock _ _ _ _ _ => true
  | .bootTreeMessage _ _ m => wfMsg m
  | .flitReceive _ f _ => wfFlit f
  | .ackBlock _ _ => true
  | .nakBlock _ _ => true
  | .replayTimeout _ => true
  | .ackSend _ => true
  | .flowBlock _ _ _ _ _ => true
  | .laneChkSend _ _ => true
  | .linkDownDetect _ => true
  | .breakBlock _ _ reporter _ partner epoch _ => wfSix reporter && wfSix partner && wfHalf epoch
  | .requestBreakTimeout tag => wfHalf tag
  | .sleepBlock _ _ => true
  | .laceForm d _ => wfOp 0x48 d
  | .epochSetReceive epoch _ _ _ => wfHalf epoch
  | .epochAckReceive member epoch => wfSix member && wfHalf epoch
  | .epochAckTimeout => true
  | .syncReportTimeout => true
  | .laceRestStart => true
  | .restReceive => true
  | .laceRestEnd => true
  | .resumeReceive => true
  | .exchDefine d _ => wfOp 0x30 d
  | .exchStart d _ _ => wfOp 0x31 d
  | .exchStop d => wfOp 0x32 d
  | .exchPostReceive xid octet => wfXid xid && wfSix octet
  | .exchConfirmReceive xid src => wfXid xid && wfSix src
  | .exchTileSend => true
  | .exchTileArrive src _ _ => wfSix src
  | .exchAckReceive xid octet tile released => wfXid xid && wfSix octet && wfTile tile && wfTile released
  | .exchNackReceive xid octet tile released => wfXid xid && wfSix octet && wfTile tile && wfTile released
  | .exchTileDeadline xid tile _ => wfXid xid && wfTile tile
  | .exchWindowRelease octet tile => wfSix octet && wfTile tile
  | .beamform octet tile => wfSix octet && wfTile tile
  | .surveyContribution octet tile => wfSix octet && wfTile tile
  | .addArrival src _ _ _ => wfSix src
  | .accumulatorComplete octet tile => wfSix octet && wfTile tile
  | .surveyQuery src tag _ _ => wfSix src && wfHalf tag
  | .rosterEdit d _ => wfOp 0x38 d
  | .rosterQuery d _ => wfOp 0x39 d
  | .keyLoad d => wfOp 0x3A d
  | .rosterSizeWrite _ _ => true
  | .noticeSegment _ => true
  | .noticeRecallApply => true
  | .noticeAbandonTimeout _ => true
  | .latTolWrite _ _ => true
  | .powerStateEntry _ => true
  | .powerOwnExit => true
  | .powerExitComplete => true
  | .wakeInEdge => true
  | .dwellExpiry => true
  | .d4Entry _ => true
  | .d4Abandon _ => true
  | .d4Wake _ => true
  | .d4TimerExpiry => true
  | .sensorConversion _ _ => true
  | .supplyRange _ => true
  | .telemetry => true
  | .faultSuppressWindowEnd _ => true
  | .retireMapWrite _ _ _ => true
  | .pathStuckError _ => true
  | .pathRetryRestore _ cycle => wfCycle cycle
  | .pathTransientWindow _ => true
  | .strapPullDownOff => true
  | .refDetFall => true
  | .syncMissedReceive member => wfSix member
  | .resumeAckReceive member => wfSix member
  | .dabNullSymbolAbsent _ => true
  | .spdiBlock _ _ => true
  | .powerEntryComplete => true
  | .synthRelockTimeout _ => true
  | .restoreBlobReadComplete d _ => wfOp 0x08 d
  | .rosterImageReadComplete d _ _ => wfOp 0x38 d
  | .msixTableWrite _ _ => true
  | .aspmL1Entry _ => true
  | .aspmL1Exit => true

/-- Well-formedness as a proposition. -/
abbrev Instr.WellFormed (i : Instr) : Prop := i.wf = true

end Sys2Proof
end

