-- ==== Sys2Proof/Tests/Slice0.lean ====
section
/-! SUPPORT. Tests: ill-formed commands that the check refuses, and for every statement with hypotheses a state and operands that meet them. -/

namespace Sys2Proof.Tests

set_option Elab.async false

open Sys2Proof Sys2Proof.Machine

/-! ### States that the tests start from -/

/-- Under power-on reset with the supplies good. -/
def inPor : State := State.reset.modTop (fun t => { t with por := true })
/-- Every rail good, the ADPLL locked, synchronised, the images running. -/
def started (head : Bool) : State :=
  ((((State.reset.modEnv (fun e => { e with rails := ⟨true, true, true, true, true, true, true, true⟩ })).modTop (fun t =>
    { t with straps := { t.straps with head := head } })).put Fld.bootStatPhase phRun).putB Fld.clkSysStatLock true).modClk (fun c => { c with synced := true })
/-- A head that runs alone in epoch 1. -/
def running : State := (((started true).put Fld.laceEpochEpoch 1).wr Reg.laceMembersLo 1).modLnk (fun l => { l with inEpoch := true })
/-- Another member, number 0 of a Lace whose head is member 5. -/
def member : State :=
  (((started false).put Fld.laceEpochEpoch 1).wr Reg.laceMembersLo 0x21).modLnk (fun l => { l with inEpoch := true, headId := some (5, 0) })

/-- The running head with the ring engine on. -/
def engineOn : State := running.putB Fld.hifCtlEngineEn true
/-- Rings of 16 entries enabled: a command ring, its completion ring, an event ring, a capture ring. -/
def ringsOn : State :=
  [0, 8, 16, 20].foldl (fun s n => ((s.put (Fld.hifRingSizeLog2 n) 4).putB (Fld.hifRingCtlEn n) true).put (Fld.hifRingCtlTypeMask n) 0x7FFF) engineOn
/-- A descriptor in entry 0 of ring 0, from its words. -/
def dsc (ws : List Word) : Desc := ⟨0, 0, ws⟩
/-- The running head with a descriptor started and not yet at its block. -/
def begun (d : Desc) : State := ringsOn.modHif (fun h => { h with started := [⟨d, 0, false, false, [], { status := 0 }, false, false⟩] })
/-- LACE_FORM of every member. -/
def form : Desc := dsc [0x48, 0, 0, 0, 0, 0, 0, 0]
/-- A descriptor that has just started at the running head is due, and its completion can be told. -/
theorem due_begun (d : Desc) (op : Nat) (ho : (begun d).takes op d = true) (he : (begun d).is (Fld.hifRingCtlEn (cplRing d.ring).val) = true ∧
    (begun d).ringRoom (cplRing d.ring) ≠ 0) : dueHere (begun d) op d :=
  ⟨ho, fun _ => ⟨⟨⟨d, 0, false, false, [], { status := 0 }, false, false⟩, by simp [begun, State.findStarted, State.modHif, Desc.same], rfl, rfl⟩, he.1, he.2, rfl, rfl⟩⟩

/-! ### Ill-formed commands: one for each check, which the check refuses -/

/-- A descriptor of two words, a message to no member, a flit of no words. -/
theorem test_ill_formed_shapes :
    Instr.wf (.nop (dsc [1, 0])) = false ∧ Instr.wf (.cancelArrival (dsc [3, 0, 0, 0, 0, 0, 0, 0]) (dsc [])) = false ∧
    Instr.wf (.nop (dsc [2, 0, 0, 0, 0, 0, 0, 0])) = false ∧ Instr.wf (.bootTreeMessage 0 true ⟨64, 0, 2, 1, 0, false, []⟩) = false ∧
    Instr.wf (.flitReceive 0 ⟨0, 0, 0, 0, 0, true, true, false, [], [], 0⟩ false) = false ∧ Instr.wf (.descriptorFetchComplete [1]) = false ∧
    Instr.wf (.registerWrite .spi 0 [] true) = false := by decide
/-- A cycle, a member, a tile, a half word, an exchange, an event slot, a listen set, an offset and a band past their ranges. -/
theorem test_ill_formed_numbers :
    Instr.wf (.pairedHiWrite .pcie true 0 0 245760) = false ∧ Instr.wf (.answerReceive 64 0 0) = false ∧ Instr.wf (.syncArmReceive (2 ^ 32) 0) = false ∧
    Instr.wf (.answerReceive 0 0 65536) = false ∧ Instr.wf (.exchPostReceive 2 0) = false ∧ Instr.wf (.pipQualInstant 256) = false ∧
    Instr.wf (.tagListenDurationEnd 16) = false ∧ Instr.wf (.loHalfRead .jtag 65536 1) = false ∧ Instr.wf (.ackMacExpiry 3 0 0) = false := by decide
/-- Well-formed commands of the same shapes. -/
theorem test_well_formed :
    Instr.wf (.nop form) = false ∧ Instr.wf (.laceForm form []) = true ∧ Instr.wf (.pairedHiWrite .pcie true 0 0 245759) = true ∧
    Instr.wf (.registerWrite .spi 0xFFFC [0] true) = true ∧ Instr.wf (.ackMacExpiry 2 0 0) = true := by decide

/-! ### Commands whose result the spec states in numbers -/

/-- The words that a command puts out, newest first. -/
def outOf (i : Instr) (s : State) : List Out :=
  match exec i s with
  | .next t => t.out
  | _ => []
/-- What a register reads as after a command. -/
def viewAfter (i : Instr) (s : State) (off : Nat) : Word :=
  match exec i s with
  | .next t => t.regView off
  | _ => 0

/-- IDCODE shifts out 0x17340B4D (R847); TOP_PART reads 0x0000_7340 (Table 5.7). -/
theorem test_identity : outOf .jtagIdcode State.reset = [.jtag 0x17340B4D] ∧ outOf (.loHalfRead .pcie Reg.topPart 1) State.reset = [.words .pcie [0x7340]] := by
  decide +kernel
/-- Spec 05, worked example: a shadow tagged with the octet mask gives the live PIP_COUNT_HI; one tagged with the pair gives what it holds. -/
theorem test_shadow_tags :
    (let s := running.modTop (fun t => { t with rdShadow := upd t.rdShadow 0 (fun _ => some (Reg.sampOctetMaskLo, 1)) })
     outOf (.loHalfRead .pcie Reg.pipCountHi 1) (s.wr Reg.pipCountHi 2) = [.words .pcie [2]]) ∧
    (let s := running.modTop (fun t => { t with rdShadow := upd t.rdShadow 0 (fun _ => some (Reg.pipCountLo, 1)) })
     outOf (.loHalfRead .pcie Reg.pipCountHi 1) (s.wr Reg.pipCountHi 2) = [.words .pcie [1]]) := by
  decide +kernel
/-- Any word but 0x50F7_0001 is an undefined encoding of TOP_SOFT_RESET: ENC_ERR, cause 2, a write through JTAG at 0x0020's place (R182, R165). -/
theorem test_soft_reset_key : getF (viewAfter (.topSoftReset .jtag 0x50F70002) State.reset Reg.topStatus) Fld.topStatusEncErr.lo 1 = 1 ∧
    getF (viewAfter (.topSoftReset .jtag 0x50F70002) State.reset Reg.topErrAddr) 0 16 = Reg.topSoftReset := by decide +kernel
/-- A step up past 2^63 − 1 wraps to −2^63 (R264). -/
theorem test_pip_wraps : (match exec (.pipCountHostWrite .pcie 0x7FFFFFFFFFFFFFFF 0 0) running with
    | .next s => s.pipCount
    | _ => 0) = 2 ^ 63 - 1 ∧ sgn 64 (unsgn 64 ((2 : Int) ^ 63 - 1 + 1)) = -2 ^ 63 := by decide +kernel
/-- A HEAD with BOOTSRC 0b10 boots as for 0b00, another member from the Lace (R55, Table 2.3). -/
theorem test_boot_source : ({ State.reset with top := { State.reset.top with straps := { State.reset.top.straps with head := true, bootsrc := 2 } } } : State).source = 0 ∧
    ({ State.reset with top := { State.reset.top with straps := { State.reset.top.straps with head := false, bootsrc := 2 } } } : State).source = 2 := by decide
/-- The front of the queue runs with the rest; an empty queue leaves the state. -/
theorem test_queue : step { State.reset with pending := [.spiNoClockFrame, .jtagClamp] } = .next { State.reset with pending := [.jtagClamp] } ∧
    step State.reset = .next State.reset := ⟨rfl, rfl⟩
/-- The reset state is safe, and of its memories nothing is listed. -/
theorem test_reset_lists_nothing : State.reset.safe = true ∧ State.reset.regs = [] ∧ State.reset.store.words = [] := by decide
/-- StepRunsTheFrontCommand: a queue of one command, and an empty queue. -/
theorem wit_StepRunsTheFrontCommand :
    ({ State.reset with pending := [.softResetSilentEnd] }).pending = [.softResetSilentEnd] ∧ State.reset.pending = [] := ⟨rfl, rfl⟩

/-- CanonicalFormIsKeptByEveryStep: a state in canonical form that takes a step. -/
theorem wit_CanonicalFormIsKeptByEveryStep :
    ({ State.reset with pending := [.crystalStarted] }).canonical = true ∧ step State.reset = .next State.reset := ⟨by decide, rfl⟩

/-- CanonicalStateIsDeterminedByItsReads: two canonical states. -/
theorem wit_CanonicalStateIsDeterminedByItsReads :
    State.reset.canonical = true ∧ (State.reset.put Fld.topCfgCompat6 1).canonical = true := by decide

/-- RecordBufferHoldsAtMost256: a state with an empty buffer that takes a step. -/
theorem wit_RecordBufferHoldsAtMost256 : State.reset.hif.buf.length ≤ 256 ∧ step State.reset = .next State.reset := ⟨by decide, rfl⟩

/-- OnlyTheBoardMovesStrapsAndRails: a command that runs and is none of those named. -/
theorem wit_OnlyTheBoardMovesStrapsAndRails :
    (∃ t, exec .strapPullDownOff State.reset = .next t) ∧ (∀ st, Instr.strapPullDownOff ≠ .powerOnResetRelease st) ∧
      (∀ st ns, Instr.strapPullDownOff ≠ .resetNRelease st ns) ∧ (∀ st, Instr.strapPullDownOff ≠ .d4Wake st) ∧
      (∀ r, Instr.strapPullDownOff ≠ .railGood r) ∧ (∀ r, Instr.strapPullDownOff ≠ .railLost r) ∧
      (∀ ns, Instr.strapPullDownOff ≠ .resetNAssert ns) ∧ Instr.strapPullDownOff ≠ .perstNAssert ∧ Instr.strapPullDownOff ≠ .perstNRelease := by
  refine ⟨⟨_, rfl⟩, ?_, ?_, ?_, ?_, ?_, ?_, ?_, ?_⟩ <;> intros <;> intro h <;> cases h

/-- RailsAndResetPinsActAsTheBoardDrivesThem: a state for each clause with hypotheses. -/
theorem wit_RailsAndResetPinsActAsTheBoardDrivesThem :
    State.reset.env.rails.get .rf = false ∧ (Rail.rf.isCore = true ∨ State.reset.runs = false) ∧
    (State.reset.env.rails.get .vbatAo = true ∧ Rail.vbatAo.isCore = true ∧ State.reset.pwr.d4 = false) ∧
    (running.env.rails.get .pa = true ∧ Rail.pa.isCore = false ∧ running.runs = true ∧ running.enRf = true) ∧
    (inPor.top.por = true ∧ inPor.env.rails.up = true ∧ inPor.pwr.d4 = false) ∧
    (let s := State.reset.modEnv (fun e => { e with resetLow := true })
     s.env.resetLow = true ∧ s.pwr.d4 = false ∧ s.top.por = false) ∧
    (let s := (State.reset.modEnv (fun e => { e with resetLow := true })).modPwr (fun p => { p with d4 := true })
     s.env.resetLow = true ∧ s.pwr.d4 = true) := by decide +kernel

/-- ReferenceAndLocks: a state for each clause. -/
theorem wit_ReferenceAndLocks :
    (State.reset.alive = true ∧ State.reset.phase = phROM ∧ State.reset.is Fld.clkSysStatLock = false ∧ State.reset.pst < 3 ∧
      State.reset.is Fld.clkRefSelSel = false) ∧
    (let s := State.reset.putB Fld.clkRefSelXtalRun true
     s.alive = true ∧ s.refThere = true ∧ s.pst < 2 ∧ s.is Fld.clkSysStatLock = false ∧ s.clk.synced = false ∧ s.is Fld.bootCtlStart = false) ∧
    (let s := (running.putB Fld.clkRefSelXtalRun true).modLo 4 (fun l => { l with gated := true })
     s.alive = true ∧ s.refThere = true ∧ s.pst < 2 ∧ s.free? .radio = true ∧ s.radio.los[(4 : Fin 5)].gated = true ∧
       s.radio.los[(4 : Fin 5)].relock = false) ∧
    (let s := (running.putB Fld.clkRefSelXtalRun true).wr Reg.clkAudCtl 1
     s.refThere = true ∧ s.audSrc ≠ 0 ∧ s.is Fld.clkAudStatLock = false) ∧
    (running.alive = true ∧ running.is Fld.clkSysStatLock = true ∧ running.pst < 2 ∧ running.clk.synced = true ∧ running.clk.refLost = false) ∧
    (let s := (running.put (Fld.loStatState 0) 3).putB (Fld.loStatLock 0) true
     s.free? .radio = true ∧ 2 ≤ s.loState 0 ∧ s.is (Fld.loStatLock (0 : Fin 5).val) = true) ∧
    (served running .jtag Reg.clkRefSel ∧ running.is Fld.clkRefSelRefDet = false ∧ getF (1 : Word) 0 1 = 1) ∧
    (let s := running.putB Fld.clkRefSelRefDet true
     served s .svc Reg.clkRefSel ∧ s.is Fld.clkRefSelRefDet = true ∧ s.is Fld.clkRefSelSel ≠ (getF (1 : Word) 0 1 == 1)) := by
  unfold served; decide +kernel

/-- LoadsStartAsTheHostAsks: in ROM, in WAIT_IMAGES with a length written, in HELD. -/
theorem wit_LoadsStartAsTheHostAsks :
    (served State.reset .pcie Reg.bootCtl ∧ State.reset.phase = phROM ∧ State.reset.source ≠ 2 ∧ getF (1 : Word) 0 1 = 1) ∧
    (let s := (State.reset.put Fld.bootStatPhase phWait).wr Reg.bootSvcLen 128
     served s .jtag Reg.bootCtl ∧ s.portOpen .pcie = true ∧ s.source = 0 ∧ s.phase = phWait ∧ s.is Fld.bootCtlStart = false ∧
       (s.rd Reg.bootSvcLen).toNat ≠ 0) ∧
    (let s := (State.reset.put Fld.bootStatPhase phHeld).put Fld.bootMismatchCode heldStep
     served s .spi Reg.bootCtl ∧ s.phase = phHeld ∧ getF (2 : Word) 1 1 = 1 ∧ getF (2 : Word) 0 1 = 0 ∧ s.get Fld.bootMismatchCode = heldStep) ∧
    (served running .svc Reg.bootCtl ∧ running.phase ≠ phHeld) := by
  unfold served; decide +kernel

/-- ImagesArriveWordByWord: a state for each clause. -/
theorem wit_ImagesArriveWordByWord :
    (let s := State.reset.put Fld.bootWinAddrTarget 2
     served s .spi (Reg.bootWinData 3) ∧ s.get Fld.bootWinAddrTarget = imgCode .seq ∧ 4 * s.get Fld.bootWinAddrOffset < imgMax .seq) ∧
    (served State.reset .jtag (Reg.bootWinData 63) ∧ State.reset.get Fld.bootWinAddrTarget = 0) ∧
    (let f : Fetch := ⟨[⟨.svc, 0, 8⟩, ⟨.seq, 4, 4⟩], [], none⟩
     let s := State.reset.modBoot (fun b => { b with fetch := some f })
     s.alive = true ∧ s.boot.fetch = some f ∧ f.out[1]? = some ⟨.seq, 4, 4⟩ ∧ 2 ≤ f.out.length ∧ f.out ≠ []) ∧
    (let s := State.reset.modBoot (fun b => { b with fetch := some ⟨[⟨.svc, 0, 8⟩], [], none⟩ })
     s.alive = true ∧ s.boot.fetch = some ⟨[⟨.svc, 0, 8⟩], [], none⟩) ∧
    (State.reset.alive = true ∧ State.reset.boot.fetch = none ∧ State.reset.phase ≠ phWait) ∧
    (let s := (State.reset.modTop (fun t => { t with straps := { t.straps with bootsrc := 2 } })).put Fld.bootStatPhase phWait
     s.alive = true ∧ s.source = 2 ∧ s.phase = phWait) := by
  unfold served; decide +kernel

/-- JoiningALace: a member that owes a HELLO, a head that runs, a link that is down. -/
theorem wit_JoiningALace :
    (let s := (member.put (Fld.lnkStatState 1) lkUp).modBoot (fun b => { b with helloDue := true })
     s.alive = true ∧ s.head = false ∧ s.phase ≠ phROM ∧ s.boot.helloDue = true ∧ s.boot.refused = false ∧ s.trained 1 = true) ∧
    (running.alive = true ∧ running.head = true ∧ running.phase = phRun ∧ (7 : Nat) ≠ running.me ∧ running.boot.ids = [] ∧ running.epoch ≠ 0 ∧
      (1 : Word) ≠ running.rd Reg.bootSvcCrc ∧ running.is Fld.bootCtlForceUntested = false ∧ running.runs = true ∧ running.linkState 2 = lkDown) ∧
    (let s := (started true).put Fld.bootStatPhase phHeld
     s.alive = true ∧ s.head = true ∧ s.phase ≠ phRun) ∧
    ((running.modBoot (fun b => { b with pushing := true })).boot.pushing = true) ∧
    (let s := started true
     s.runs = true ∧ s.head = true ∧ s.me < 64 ∧ s.epoch = 0 ∧ s.lnk.forming = none) := by decide +kernel

/-- TheHostsFunctionAndItsResets: a device that is alive and one that is not, in D3hot and not. -/
theorem wit_TheHostsFunctionAndItsResets :
    (State.reset.alive = true ∧ State.reset.env.perstLow = false ∧ State.reset.pcie.d3hot = false ∧ State.reset.top.softPending = false ∧
      State.reset.head = false ∧ inPor.alive = false) ∧
    (let s := State.reset.put Fld.bootStatPhase phFetch
     s.alive = true ∧ s.phase = phFetch) ∧
    (let s := running.modPcie (fun p => { p with d3hot := true })
     s.alive = true ∧ s.pcie.d3hot = true ∧ s.hif.accepts = true ∧ s.top.softPending = false) := by decide +kernel

/-- SoftResetsAndTheirFrames: a running device, its service core with a completion that waits, an armed SPI port. -/
theorem wit_SoftResetsAndTheirFrames :
    (served running .spi Reg.topSoftReset ∧ (0 : Word) ≠ 0x50F70001 ∧ running.top.softPending = false ∧ running.portOpen .spi = true ∧
      running.spi.armed = false) ∧
    (let s := running.modHif (fun h => { h with outq := [.completion 8 0 []] })
     served s .svc Reg.topSoftReset ∧ HostWrite.completion 8 0 [] ∈ s.hif.outq) ∧
    (let s := running.modTop (fun t => { t with softPending := true })
     s.alive = true ∧ s.top.softPending = true) ∧
    (let s := running.modSpi (fun p => { p with armed := true })
     s.portOpen .spi = true ∧ s.spi.armed = true) := by
  unfold served; decide +kernel

/-- SetupAccessesActOnTheirRegisters: served registers, a held block, a kept half. -/
theorem wit_SetupAccessesActOnTheirRegisters :
    (served State.reset .pcie (Reg.topScratch 3) ∧ served State.reset .jtag (Reg.topScratch 2) ∧ served State.reset .spi Reg.topStatus ∧
      served State.reset .spi Reg.topPart ∧ State.reset.top.softPending = false ∧ State.reset.portOpen .pcie = true ∧ State.reset.top.silent = false ∧
      State.reset.portOpen .svc = false) ∧
    (let s := running.modTop (fun t => { t with blk := upd t.blk 1 (fun b => { b with hold := .held }) })
     s.portOpen .spi = true ∧ s.reach .spi Reg.pipCtl = .held) ∧
    (served running .jtag Reg.pipCtl ∧ isPairLo Reg.pipCtl = false ∧ isPairLo (Reg.pipCtl - 4) = false) ∧
    (served running .jtag Reg.pipCountLo ∧ isPairLo Reg.pipCountLo = true ∧ running.pipSrc = srcHost) ∧
    (let s := running.modTop (fun t => { t with rdShadow := upd t.rdShadow 2 (fun _ => some (Reg.pipCountLo, 5)) })
     served s .jtag (Reg.pipCountLo + 4) ∧ isPairLo (Reg.pipCountLo + 4) = false ∧ s.top.rdShadow[Port.jtag.idx] = some (Reg.pipCountLo, 5)) ∧
    (let s := running.modTop (fun t => { t with wrShadow := upd t.wrShadow 3 (fun _ => some (Reg.sampOctetMaskLo, 5)) })
     served s .svc Reg.sampOctetMaskHi ∧ s.top.wrShadow[Port.svc.idx] = some (Reg.sampOctetMaskLo, 5)) ∧
    (let s := running.modTop (fun t => { t with wrShadow := upd t.wrShadow 0 (fun _ => some (Reg.pipCountLo, 5)) })
     served s .pcie Reg.pipCountHi ∧ s.top.wrShadow[Port.pcie.idx] = some (Reg.pipCountLo, 5) ∧ s.pipSrc = srcHost) ∧
    (let s := running.put Fld.pipSrcSrc srcQuad
     served s .pcie Reg.pipCountLo ∧ served s .pcie Reg.pipCountHi ∧ s.pipSrc ≠ srcHost) := by
  unfold served; decide +kernel

/-- JtagInstructionsAndTheirScans: an alive device, a code that is not listed, a served register. -/
theorem wit_JtagInstructionsAndTheirScans :
    State.reset.alive = true ∧ (0b111111 : BitVec 6).toNat ∉ jtagCodes ∧ served State.reset .jtag (Reg.topScratch 0) ∧
    (served running .jtag Reg.topCfg ∧ isPairLo Reg.topCfg = false ∧ isPairLo (Reg.topCfg - 4) = false) ∧
    exec .jtagClamp State.reset = .next (State.reset.modJtag (fun p => { p with ir := 3, drives := true })) := by
  refine ⟨by decide, by decide, by unfold served; decide, by unfold served; decide +kernel, rfl⟩

/-- BlocksHeldAndReleased: no block held, one held, one releasing; the engine off and on; the debug port in RUNNING. -/
theorem wit_BlocksHeldAndReleased :
    (served running .pcie Reg.topBlockReset ∧ (∀ c ∈ Blk.all, running.free? c = true)) ∧
    (let s := running.modTop (fun t => { t with blk := upd t.blk Blk.exch.idx (fun b => { b with hold := .held }) })
     served s .jtag Reg.topBlockReset ∧ (s.blkSt .exch).hold = .held ∧ getF (0 : Word) Blk.exch.bit 1 = 0 ∧
       (∀ c ∈ Blk.all, c ≠ .exch → s.free? c = true ∧ getF (0 : Word) c.bit 1 = 0)) ∧
    (let s := running.modTop (fun t => { t with blk := upd t.blk Blk.hif.idx (fun b => { b with hold := .releasing }) })
     s.alive = true ∧ (s.blkSt .hif).hold = .releasing) ∧
    (served running .svc Reg.topCfg ∧ running.engine = false) ∧
    (let s := running.putB Fld.hifCtlEngineEn true
     served s .spi Reg.topCfg ∧ s.engine = true ∧ s.is Fld.topCfgCompat6 ≠ (1 : Word).getLsbD 0) ∧
    (served running .jtag Reg.dbgCtl ∧ running.reqRetired 8 = false ∧ running.get Fld.dbgStoreAddrWord < running.storeWords ∧
      running.get Fld.dbgStoreAddrWord ∉ running.store.ue) := by
  unfold served; decide +kernel

/-- SpiFramesOfThePort: an open port, a running device in D2, a device in D4, a device that has just been reset. -/
theorem wit_SpiFramesOfThePort :
    (State.reset.portOpen .spi = true ∧ State.reset.reach .spi Reg.topStep = .ok ∧ isPairLo Reg.topStep = false ∧ isPairLo (Reg.topStep - 4) = false ∧
      served State.reset .spi (Reg.topScratch 1) ∧ State.reset.pst = 0 ∧ State.reset.pwr.entry = none) ∧
    (let s := running.put Fld.pwrStateState 2
     s.portOpen .spi = true ∧ s.runs = true ∧ s.pst = 2 ∧ s.pwr.entry = none) ∧
    ((0x9F : BitVec 8).toNat ∉ spiCommands ∧ State.reset.pwr.d4 = false) ∧
    ((State.reset.modPwr (fun p => { p with d4 := true })).pwr.d4 = true) := by
  unfold served; decide +kernel

/-- RingsAndDoorbells: a head with its engine off and on, a ring of 16 entries, a doorbell that waits, drops to report. -/
theorem wit_RingsAndDoorbells :
    (served running .pcie Reg.hifCtl ∧ running.head = true ∧ running.engine = false ∧ running.hif.buf = [] ∧ running.hif.bufDrops = 0) ∧
    (served member .svc Reg.hifCtl ∧ member.head = false ∧ getF (1 : Word) 0 1 = 1) ∧
    (let s := engineOn
     served s .pcie Reg.hifCtl ∧ s.engine = true ∧ (∀ n : Fin 24, s.ringActive n = false)) ∧
    (served ringsOn .jtag Reg.hifCtl ∧ ringsOn.engine = true ∧ ringsOn.ringActive 0 = true) ∧
    (let s := running.put (Fld.hifRingSizeLog2 17) 4
     served s .pcie (Reg.hifRingCtl 17) ∧ s.is (Fld.hifRingCtlEn 17) = false ∧ 4 ≤ s.get (Fld.hifRingSizeLog2 17)) ∧
    (running.get (Fld.hifRingSizeLog2 17) < 4) ∧
    (served ringsOn .pcie (Reg.hifRingCtl 0) ∧ ringsOn.is (Fld.hifRingCtlEn 0) = true ∧ ringsOn.hif.rings[(0 : Fin 24)].held = []) ∧
    (ringsOn.runs = true ∧ ringsOn.free? .hif = true ∧ ringsOn.pcie.d3hot = false ∧ ringsOn.pwr.entry = none ∧ ringsOn.env.perstLow = false ∧ ringsOn.compat6 = false ∧ ringsOn.pst = 0 ∧ ringsOn.doorbellOf (8 * 0) 3 = some (ringFin 0, 3) ∧
      ringsOn.doorbellOk (ringFin 0) 3 = true ∧ ringsOn.doorbellOk (ringFin 0) 16 = false) ∧
    (let s := ringsOn.modRing 0 (fun r => { r with doorbell := some 3 })
     s.runs = true ∧ s.pst = 0 ∧ s.hif.rings[(0 : Fin 24)].doorbell = some 3 ∧ s.doorbellOk 0 3 = true) ∧
    (let s := (ringsOn.put (Fld.hifRingHeadProducer 8) 2).modRing 8 (fun r => { r with doorbell := some 1 })
     s.hif.rings[(8 : Fin 24)].doorbell = some 1 ∧ s.doorbellOk 8 1 = true ∧ s.hif.rings[cmdRing (Fin.ofNat 8 8)].cplWait = []) ∧
    (let s := (((ringsOn.wr (Reg.hifMsixMap 2) 0x80).modRing 8 (fun r => { r with unsignalled := true })).modHif (fun h =>
       { h with msixEnable := true, msix := upd h.msix 0 (fun e => { e with masked := false }) }))
     s.alive = true ∧ s.hif.rings[(8 : Fin 24)].unsignalled = true ∧ s.hostOpen = true ∧ s.hif.accepts = true ∧ s.ringVector 8 = some 0 ∧
       s.hif.msix[Fin.ofNat 32 0].masked = false) ∧
    (let s := ringsOn.modRing 16 (fun r => { r with drops := 2 })
     s.alive = true ∧ s.hif.accepts = true ∧ s.hif.rings[(16 : Fin 24)].drops ≠ 0 ∧ s.ringOn 16 = true ∧ 0 < s.ringRoom 16) ∧
    (let s := ringsOn.modRing 20 (fun r => { r with drops := 2 })
     s.hif.rings[capRing 0].drops ≠ 0 ∧ s.ringOn (capRing 0) = true ∧ 0 < s.ringRoom (capRing 0) ∧ s.outBytes + 4160 ≤ 65536) := by
  unfold served; decide +kernel

/-- SyncAcrossTheLace: a head with its SYNC at every stage, a member with an arm and with a hit. -/
theorem wit_SyncAcrossTheLace :
    (served running .svc Reg.clkSyncCtl ∧ running.head = true ∧ running.is Fld.clkSyncCtlFire = false ∧ running.clk.headSync = none ∧
      running.lnk.forming = none ∧ running.is Fld.pwrStateRest = false ∧ running.pwr.resumeWait = []) ∧
    (served member .spi Reg.clkSyncCtl ∧ member.head = false ∧ member.runs = true ∧ member.is Fld.clkSyncCtlInIgnore = false ∧ member.pst < 2 ∧
      member.clk.arm = none) ∧
    (let h : HeadSync := ⟨true, ⟨1, 0⟩, false, [5]⟩
     let s := running.modClk (fun c => { c with headSync := some h })
     s.runs = true ∧ s.clk.headSync = some h ∧ s.clk.refLost = false ∧ (s.tile.toNat + 1) % 2 ^ 32 = h.arm.tile ∧ (∀ m ∈ h.dones, m ∈ [5])) ∧
    (let h : HeadSync := ⟨true, ⟨1, 0⟩, true, [5, 6]⟩
     let s := running.modClk (fun c => { c with headSync := some h })
     s.clk.headSync = some h ∧ h.dones.filter (· != 5) ≠ [] ∧ (h.dones.filter (· != 5)).filter (· != 6) = []) ∧
    (let h : HeadSync := ⟨false, ⟨1, 0⟩, true, [5]⟩
     let f : Forming := ⟨4, [0, 5], [], [], none, [], []⟩
     let s := (running.modClk (fun c => { c with headSync := some h })).modLnk (fun l => { l with forming := some f })
     s.runs = true ∧ s.clk.headSync = some h ∧ s.lnk.forming = some f ∧ h.dones.filter (· != 5) = [] ∧ h.dones ≠ [] ∧ (5 : Nat) ∈ f.cands ∧ (5 : Nat) ≠ s.me) ∧
    (let s := member.modClk (fun c => { c with arm := some ⟨9, 0⟩, hit := some ⟨9, 0⟩ })
     s.runs = true ∧ s.clk.arm = some ⟨9, 0⟩ ∧ s.clk.hit = some ⟨9, 0⟩ ∧ s.is Fld.clkSyncStatAligned = false ∧
       (s.putB Fld.clkSyncStatAligned true).is Fld.clkSyncStatAligned = true) := by
  unfold served; decide +kernel

/-- EpochsAndLaceRest: a head with a LACE_FORM started, quiet and with an exchange; a formation that awaits; a member of the epoch. -/
theorem wit_EpochsAndLaceRest :
    (let s := begun form
     s.runs = true ∧ s.head = true ∧ s.takes 0x48 form = true ∧ s.free? .lnk = true ∧ s.exch.run0 = none ∧ s.started? [0x06, 0x07, 0x08] = false ∧
       s.lnk.forming = none ∧ shapeOk (s.rd Reg.laceShape) = true ∧ form.w 2 = 0 ∧ form.w 3 = 0 ∧ s.me < 64) ∧
    (let s := (begun form).modExch (fun e => { e with run0 := some ⟨none, 0, none, 0, none, [], [], [], 0, 0, false, none⟩ })
     s.takes 0x48 form = true ∧ s.exch.run0.isSome = true) ∧
    (member.runs = true ∧ member.head = false ∧ member.boot.refused = false ∧ tb 0x21 member.me = true ∧ member.lnk.inEpoch = true) ∧
    (let f : Forming := ⟨1, [0, 5, 6], [5, 6], [], none, [], []⟩
     let s := running.modLnk (fun l => { l with forming := some f })
     s.runs = true ∧ s.lnk.forming = some f ∧ (5 : Nat) ∈ f.awaiting ∧ f.awaiting.filter (· != 5) ≠ [] ∧ [6].filter (· != 6) = []) ∧
    (let s := running.wr Reg.laceMembersLo 0x21
     s.runs = true ∧ s.lnk.inEpoch = true ∧ s.others ≠ [] ∧ s.is Fld.pwrStateRest = false ∧ s.pwr.resumeWait = [] ∧ s.restReady = true) ∧
    (let s := (running.putB Fld.pwrStateRest true).putB Fld.clkSyncCtlFire true
     s.is Fld.pwrStateRest = true ∧ s.restReady = false) ∧
    (let s := running.modPwr (fun p => { p with resumeWait := [5] })
     (5 : Nat) ∈ s.pwr.resumeWait ∧ s.is Fld.clkSyncCtlFire = false) := by
  decide +kernel

/-- LinksTrainAndFall: a link that trains, one that is up, one that retrains, one asleep. -/
theorem wit_LinksTrainAndFall :
    (let s := running.put (Fld.lnkStatState 1) lkTraining
     s.alive = true ∧ s.linkState 1 = lkTraining ∧ 3 % 4 &&& s.usableLanes 1 ≠ 0 ∧ s.lnk.links[(1 : Fin 4)].broken = false ∧
       s.is (Fld.lnkStatGaveUp 1) = false ∧ s.lnk.links[(1 : Fin 4)].partnerToken = none ∧ s.lnk.links[(1 : Fin 4)].retraining = false) ∧
    (let s := (member.put (Fld.lnkStatState 1) lkUp).put (Fld.lnkLanesActive 1) 3
     s.alive = true ∧ s.linkState 1 = lkUp ∧ tb (s.get (Fld.lnkLanesActive 1)) 0 = true ∧ s.trained 1 = true ∧ s.head = false ∧ s.linkState 1 ≠ lkAsleep ∧
       (∀ j : Fin 4, j ≠ 1 → s.lnk.links[j].advert = none)) ∧
    (let s := (running.put (Fld.lnkLanesActive 1) 3).modLink 1 (fun l => { l with retraining := true, partnerToken := some 7 })
     s.alive = true ∧ s.lnk.links[(1 : Fin 4)].retraining = true ∧ s.lnk.links[(1 : Fin 4)].failing = 0 ∧ s.lnk.links[(1 : Fin 4)].txq = [] ∧
       s.get (Fld.lnkLanesActive 1) ≠ 0 ∧ s.get (Fld.lnkLanesActive 1) &&& s.usableLanes 1 = s.get (Fld.lnkLanesActive 1) ∧
       s.lnk.links[(1 : Fin 4)].partnerToken = some 7 ∧ s.lnk.links[(1 : Fin 4)].partnerToken ≠ some 8) ∧
    (let s := running.put (Fld.lnkStatState 1) lkAsleep
     s.linkState 1 = lkAsleep ∧ s.lnk.links[(1 : Fin 4)].txq = []) := by decide +kernel

/-- FlitsAcknowledgementsAndBreaks: a member whose parent is up, flits kept, a break known, a request sent before it. -/
theorem wit_FlitsAcknowledgementsAndBreaks :
    (let s := ((member.put (Fld.lnkStatState 1) lkUp).put (Fld.lnkStatState 2) lkUp).modLnk (fun l => { l with parent := some 2 })
     let f := ((flitsOf { dst := 5, src := 0, kind := 6, code := 5, tag := 1, words := [] } 0).headD ⟨0, 0, 0, 0, 0, false, false, false, [], [], 0⟩)
     s.alive = true ∧ s.linkState 1 = lkUp ∧ s.head = false ∧ s.lnk.parent = some 2 ∧ s.linkState 2 = lkUp ∧ s.lnk.links[(2 : Fin 4)].retraining = false ∧
       s.lnk.links[(2 : Fin 4)].txq = [] ∧ 0 < s.lnk.links[(2 : Fin 4)].credit.boot ∧ s.lnk.links[(2 : Fin 4)].replay.length < 64 ∧
       flitsOf { dst := 5, src := 0, kind := 6, code := 5, tag := 1, words := [] } 0 = [f] ∧ f.kind = 6 ∧ f.seal.crc = f.seal.crcOf ∧ f.crc ≠ f.crcOf ∧
       s.lnk.links[(1 : Fin 4)].rxDiscard = false ∧ s.lnk.links[(1 : Fin 4)].unacked < 7) ∧
    (let f : Flit := ⟨0, 1, 0, 5, 4, true, true, false, [], [], 0⟩
     f.seal.crc = f.seal.crcOf ∧ f.seal.kind ≠ 6 ∧ f.seal.epoch % 8 ≠ running.epoch % 8) ∧
    (let e : Sent := ⟨3, ⟨0, 1, 0, 5, 4, true, true, false, [], [], 0⟩, 0⟩
     let s := (running.put (Fld.lnkStatState 1) lkUp).modLink 1 (fun l => { l with replay := [e], unacked := 7 })
     s.trained 1 = true ∧ s.lnk.links[(1 : Fin 4)].replay = [e] ∧ s.lnk.links[(1 : Fin 4)].replay.find? (·.no == 3) = some e ∧ e.resent < 7 ∧
       s.lnk.links[(1 : Fin 4)].unacked = 7 ∧ s.lnk.links[(1 : Fin 4)].rxNo < 256 ∧ s.lnk.breaks = []) ∧
    (let s := running.modLnk (fun l => { l with breaks := [⟨0, 1, 2, 3, 4⟩], requests := [⟨9, 5, none, true⟩] })
     s.alive = true ∧ ⟨0, 1, 2, 3, 4⟩ ∈ s.lnk.breaks ∧ s.lnk.requests.find? (fun r => r.tag == 9 && r.afterBreak) = some ⟨9, 5, none, true⟩) ∧
    (let d := dsc [0x510, 2]
     let s := (begun d).modLnk (fun l => { l with requests := [⟨9, 5, some d, true⟩] })
     s.lnk.requests.find? (fun r => r.tag == 9 && r.afterBreak) = some ⟨9, 5, some d, true⟩ ∧ d.opcode ≠ 0x12 ∧ d.opcode ≠ 0x28 ∧ tellable s d) := by
  refine ⟨?_, ?_, ?_, ?_, ⟨by decide +kernel, by decide +kernel, by decide +kernel, fun _ => ⟨⟨_, rfl, rfl, rfl⟩, by decide +kernel⟩⟩⟩ <;> decide +kernel

/-- DescriptorsAreFetchedAndStarted: a ring with an entry to fetch, a descriptor held, one started, a CANCEL of it. -/
theorem wit_DescriptorsAreFetchedAndStarted :
    (let s := (ringsOn.put (Fld.hifRingHeadProducer 0) 1).modPcie (fun p => { p with busMaster := true })
     s.runs = true ∧ s.nextFetch = some 0 ∧ s.compat6 = false) ∧
    (let h : HeldDesc := ⟨dsc [1, 0, 0, 0, 0, 0, 0, 0], 0⟩
     let s := ringsOn.modRing 0 (fun r => { r with held := [h] })
     s.runs = true ∧ s.head = true ∧ s.hif.rings[cmdRing 0].held = [h] ∧ s.startable 0 h = true ∧ s.judge h.d = none ∧ h.d.memberScoped = false ∧
       h.d.laceScoped = false ∧ h.d.ring = 0 ∧ s.findStarted h.d = none ∧ s.hif.accepts = true ∧ s.pcie.d3hot = false) ∧
    (let h : HeldDesc := ⟨dsc [0xFF, 0, 0, 0, 0, 0, 0, 0], 0⟩
     let s := ringsOn.modRing 0 (fun r => { r with held := [h] })
     s.startable 0 h = true ∧ s.judge h.d = some dtOpcode) ∧
    (let h : HeldDesc := ⟨dsc [0x0911, 0x01, 0, 0, 0, 0, 0, 0], 0⟩
     let s := ringsOn.modRing 0 (fun r => { r with held := [h] })
     s.startable 0 h = true ∧ s.judge h.d = none ∧ h.d.memberScoped = true ∧ s.isMember h.d.member = false) ∧
    ((begun (dsc [1])).runs = true ∧ dueHere (begun (dsc [1])) 0x01 (dsc [1]) ∧ dueHere (begun (dsc [2])) 0x02 (dsc [2])) ∧
    (let d := dsc [3, 0x70000]
     dueHere (begun d) 0x03 d ∧ (∀ x ∈ (begun d).hif.started, ¬(x.d.ring = Fin.ofNat 8 (d.f 1 0 3) ∧ x.d.tag = d.f 1 16 16 ∧ x.orphan = false)) ∧
       (∀ x ∈ (begun d).hif.rings[cmdRing (Fin.ofNat 8 (d.f 1 0 3))].held, x.d.tag ≠ d.f 1 16 16)) ∧
    (let d := dsc [3, 0x70000]
     let x : StartedDesc := ⟨dsc [0x70001], 0, true, true, [], { status := 0 }, false, false⟩
     let s := (begun d).modHif (fun h => { h with started := h.started ++ [x], cancels := [⟨d, x.d, none⟩] })
     dueHere s 0x03 d ∧ s.hif.started.find? (fun t => t.d.ring == Fin.ofNat 8 (d.f 1 0 3) && t.d.tag == d.f 1 16 16 && !t.orphan) = some x ∧ x.d.opcode ≠ 0x03 ∧
       s.hif.cancels.find? (fun c => c.d.same d && c.target.same x.d) = some ⟨d, x.d, none⟩ ∧ s.findStarted x.d = some x ∧ x.d ≠ d ∧ s.tag.cur = none) ∧
    (let d := dsc [0x70003, 0x70000]
     let s := begun d
     dueHere s 0x03 d ∧ (s.hif.started.find? (fun t => t.d.ring == Fin.ofNat 8 (d.f 1 0 3) && t.d.tag == d.f 1 16 16 && !t.orphan)).any (·.d.opcode == 0x03) = true) ∧
    (member.runs = true ∧ member.head = false ∧ (dsc [3]).opcode = 0x03 ∧ member.lnk.served = []) := by
  refine ⟨by decide +kernel, by decide +kernel, by decide +kernel, by decide +kernel, ⟨by decide +kernel, due_begun _ _ (by decide +kernel) (by decide +kernel),
    due_begun _ _ (by decide +kernel) (by decide +kernel)⟩, ⟨due_begun _ _ (by decide +kernel) (by decide +kernel), by decide +kernel, by decide +kernel⟩,
    ⟨⟨by decide +kernel, fun _ => ⟨⟨_, rfl, rfl, rfl⟩, by decide +kernel⟩⟩, by decide +kernel⟩, ⟨due_begun _ _ (by decide +kernel) (by decide +kernel), by decide +kernel⟩, by decide +kernel⟩

/-- RegistersAreReadAndWrittenByDescriptor: started descriptors at the head, requests at a member, a request outstanding. -/
theorem wit_RegistersAreReadAndWrittenByDescriptor :
    (let d := dsc [4, 0x10030, 0, 1]
     (begun d).runs = true ∧ (begun d).head = true ∧ d.member = (begun d).me ∧ dueHere (begun d) 0x04 d ∧ (begun d).regBehind d = false ∧
       (∀ i < d.f 1 16 8, (begun d).heldAt (d.f 1 0 16 + 4 * i) = false) ∧ 0 < d.f 1 16 8) ∧
    (let d := dsc [4, 0x11800, 0, 1]
     let s := (begun d).modTop (fun t => { t with blk := upd t.blk 1 (fun b => { b with hold := .held }) })
     dueHere s 0x04 d ∧ s.heldAt (d.f 1 0 16 + 4 * 0) = true) ∧
    (let d := dsc [5, 0x10030, 7]
     dueHere (begun d) 0x05 d ∧ (begun d).regBehind d = false ∧ d.f 1 16 3 = 1 ∧ d.f 1 0 16 = Reg.topScratch 0 ∧ (begun d).top.softPending = false) ∧
    (let d := dsc [5, 0x10014, 4]
     dueHere (begun d) 0x05 d ∧ d.writesProtected = true) ∧
    (let ws : List Word := [4, 0x11800, 0, 1, 0, 0, 0, 0, 9, 0]
     let d : Desc := ⟨0, 0, ws⟩
     let s := member.modTop (fun t => { t with blk := upd t.blk 1 (fun b => { b with hold := .held }) })
     s.runs = true ∧ s.head = false ∧ s.free? .lnk = true ∧ d = descOfMsg ⟨s.me, 5, 2, 0x04, 0, false, d.words⟩ ∧ s.heldAt (d.f 1 0 16 + 4 * 0) = true ∧ s.lnk.served = []) ∧
    (let ws : List Word := [5, 0x10030, 0, 1, 0, 0, 0, 0, 9, 0]
     let d : Desc := ⟨0, 0, ws⟩
     d = descOfMsg ⟨member.me, 5, 2, 0x05, 0, false, d.words⟩ ∧ d.f 1 16 3 = 1 ∧ d.f 1 0 16 = Reg.topScratch 0 ∧ member.top.softPending = false) ∧
    (let s := running.modLnk (fun l => { l with requests := [⟨1, 5, none, false⟩] })
     s.runs = true ∧ s.lnk.requests.find? (fun q => q.peer == 5 && q.tag == 1) = some ⟨1, 5, none, false⟩ ∧ s.lnk.reqQueue = []) ∧
    (let d := dsc [0x11]
     let s := (begun d).modLnk (fun l => { l with requests := [⟨1, 5, some d, false⟩] })
     s.lnk.requests.find? (fun q => q.peer == 5 && q.tag == 1) = some ⟨1, 5, some d, false⟩ ∧ tellable s d ∧ d.opcode ∉ [0x03, 0x04, 0x28] ∧ d.laceScoped = false) := by
  refine ⟨⟨by decide +kernel, by decide +kernel, by decide +kernel, due_begun _ _ (by decide +kernel) (by decide +kernel), by decide +kernel⟩,
    ⟨⟨by decide +kernel, fun _ => ⟨⟨_, rfl, rfl, rfl⟩, by decide +kernel⟩⟩, by decide +kernel⟩, ⟨due_begun _ _ (by decide +kernel) (by decide +kernel), by decide +kernel⟩,
    ⟨due_begun _ _ (by decide +kernel) (by decide +kernel), by decide +kernel⟩, by decide +kernel, by decide +kernel, by decide +kernel,
    ⟨by decide +kernel, fun _ => ⟨⟨_, rfl, rfl, rfl⟩, by decide +kernel⟩, by decide +kernel⟩⟩

/-- UpdatesOfRegionsArriveRunAndAct: an update that is due, one that runs, one that waits; a block held; a member with a map. -/
theorem wit_UpdatesOfRegionsArriveRunAndAct :
    (let d := dsc [6, 7, 0, 0, 24]
     (begun d).runs = true ∧ (begun d).head = true ∧ d.regionNo = 7 ∧ dueHere (begun d) 0x06 d ∧ (begun d).blobRuns d = false ∧ d.member = (begun d).me ∧
       (begun d).free? .pip = true ∧ ((begun d).region 7).running = none ∧ (begun d).regionGone 7 = false) ∧
    (let d := dsc [6, 3, 0, 0, 4]
     dueHere (begun d) 0x06 d ∧ (begun d).blobRuns d = false ∧ ((begun d).put ⟨Reg.fltRetireMap2, 7, 1⟩ 1).crateGone = true) ∧
    (let d := dsc [6, 7, 0, 0, 24]
     let old := dsc [0x10006, 7, 0, 0, 24]
     let s := ((begun d).modRegion 7 (fun _ => ⟨some (dsc [0x20006]), some old, none⟩)).modHif (fun h =>
       { h with started := h.started ++ [⟨old, 1, false, true, [], { status := 0 }, false, false⟩] })
     dueHere s 0x06 d ∧ (s.region 7).running.isSome = true ∧ (s.region 7).waiting = some old ∧ old ≠ d ∧ (s.region 7).running ≠ some old ∧ tellable s old) ∧
    (let d := dsc [6, 7, 0, 0, 24]
     let s := (begun d).modTop (fun t => { t with blk := upd t.blk 1 (fun b => { b with hold := .held }) })
     dueHere s 0x06 d ∧ s.blobRuns d = false ∧ s.free? .pip = false) ∧
    (let d := dsc [6, 7, 0, 0, 24]
     let s := running.modRegion 7 (fun _ => ⟨none, some d, none⟩)
     s.runs = true ∧ (s.region 7).running = none ∧ (s.region 7).waiting = some d ∧ s.regionGone 7 = false) ∧
    (let d := dsc ([6, 1, 0, 0, 0, 0, 0, 0, 0, 0, 0x01000000] ++ List.replicate 16 0)
     member.runs = true ∧ member.head = false ∧ d.regionNo = 1 ∧ member.takes 0x06 d = true ∧ mapJudge (d.words.drop 10) = none) ∧
    (let d := dsc [6, 7, 0, 0, 24]
     let s := ((begun d).modRegion 7 (fun _ => ⟨some d, none, none⟩)).modPcie (fun p => { p with busMaster := true })
     s.runs = true ∧ s.head = true ∧ s.pcie.busMaster = true ∧ d.opcode = 0x06 ∧ (s.region d.regionNo).running = some d ∧ (s.region 7).data = none ∧ tellable s d ∧
       tableJudge [0x0103, 1, 0, 0, 5, 0] = some dtOperand ∧ tableJudge [0x9103, 1, 0, 0, 5, 0] = none ∧ d.f 5 0 1 = 0 ∧ [(0 : Word), 1, 0, 0, 5, 0].length = (d.w 4).toNat / 4) ∧
    (let d := dsc [6, 2, 0, 0, 16]
     let s := ((begun d).modRegion 2 (fun _ => ⟨some d, none, none⟩)).modPcie (fun p => { p with busMaster := true })
     s.pcie.d3hot = false ∧ d.regionNo = 2 ∧ (s.region 2).running = some d ∧ listJudge (itemsOf 4 128 [0x01001234, 90000, 0, 0]) = none) := by
  refine ⟨⟨by decide +kernel, by decide +kernel, by decide +kernel, due_begun _ _ (by decide +kernel) (by decide +kernel), by decide +kernel⟩,
    ⟨due_begun _ _ (by decide +kernel) (by decide +kernel), by decide +kernel⟩,
    ⟨⟨by decide +kernel, fun _ => ⟨⟨_, rfl, rfl, rfl⟩, by decide +kernel⟩⟩, by decide +kernel, by decide +kernel, by decide +kernel, by decide +kernel,
      fun _ => ⟨⟨_, rfl, rfl, rfl⟩, by decide +kernel⟩⟩,
    ⟨⟨by decide +kernel, fun _ => ⟨⟨_, rfl, rfl, rfl⟩, by decide +kernel⟩⟩, by decide +kernel⟩, by decide +kernel, by decide +kernel,
    ⟨by decide +kernel, by decide +kernel, by decide +kernel, by decide +kernel, by decide +kernel, by decide +kernel, fun _ => ⟨⟨_, rfl, rfl, rfl⟩, by decide +kernel⟩, by decide +kernel⟩,
    by decide +kernel⟩

/-- SnapshotsAndRestores: a SNAPSHOT and a RESTORE that are due, a busy device, a blob that fails its checks and one that passes them. -/
theorem wit_SnapshotsAndRestores :
    (let d := dsc [7, 0]
     (begun d).runs = true ∧ (begun d).head = true ∧ dueHere (begun d) 0x07 d ∧ (begun d).blobRuns d = false ∧ (begun d).blobHeld (d.f 1 0 5) = false ∧ (begun d).crateGone = false) ∧
    (let d := dsc [8, 0]
     dueHere (begun d) 0x08 d ∧ (begun d).blobRuns d = false ∧ (begun d).restoreBusy = false ∧ (begun d).crateGone = false ∧ ((begun d).put (Fld.loStatState 0) 3).restoreBusy = true) ∧
    (let d := dsc [8, 4, 0, 0, 0]
     let s := ((begun d).modHif (fun h => { h with restore := some d })).modPcie (fun p => { p with busMaster := true })
     s.runs = true ∧ s.hif.restore = some d ∧ s.pcie.busMaster = true ∧ tellable s d ∧ s.blobJudge (d.w 4).toNat [] = some dtBlobFormat) ∧
    (let body : List Word := [0x01000001, 3, 0]
     let d := dsc [8, 4, 0, 0, 92]
     let s := ((begun d).modHif (fun h => { h with restore := some d })).modPcie (fun p => { p with busMaster := true })
     let b : List Word := [blobMagic, 0x40001, 0xB1, 92] ++ List.replicate 12 0 ++ blobSection 3 0 0 0 body
     s.blobJudge (d.w 4).toNat (b.set 15 (blobCrc b)) = none ∧ sectionsOf 1024 ((b.set 15 (blobCrc b)).drop 16) = [⟨3, 0, s.me, body⟩] ∧
       tb (d.f 1 0 5 &&& getF ((b.set 15 (blobCrc b)).getD 1 0) 16 5) 2 = true ∧ weightsJudge body = none ∧ s.isMember s.me = true) := by
  refine ⟨⟨by decide +kernel, by decide +kernel, due_begun _ _ (by decide +kernel) (by decide +kernel), by decide +kernel⟩,
    ⟨due_begun _ _ (by decide +kernel) (by decide +kernel), by decide +kernel⟩,
    ⟨by decide +kernel, by decide +kernel, by decide +kernel, fun _ => ⟨⟨_, rfl, rfl, rfl⟩, by decide +kernel⟩, by decide +kernel⟩, by decide +kernel⟩

/-- EdgesMoveThePipCount: every source, an armed index, an event that waits for the next count and one whose instant is to come. -/
theorem wit_EdgesMoveThePipCount :
    (let s := running.put Fld.pipSrcSrc srcQuad
     s.runs = true ∧ s.free? .pip = true ∧ s.pipSrc = srcQuad ∧ s.is Fld.pipCtlQx4 = false ∧ s.pip.ballA = false ∧
       (s.putB Fld.pipCtlQx4 true).pipSrc = srcQuad ∧ (s.putB Fld.pipCtlQx4 true).is Fld.pipCtlQx4 = true ∧ (s.putB Fld.pipCtlZArm true).is Fld.pipCtlZArm = true) ∧
    ((running.put Fld.pipSrcSrc srcPulse).pipSrc = srcPulse) ∧
    (let rx := (((running.put (Fld.loStatState 0) 3).modPath 0 (fun q => { q with ctl := 0x01, cleanAt := some 0 })).modSamp (fun q => { q with en := true, octets := 2 ^ 64 - 1 })).setTile 3
     let dab := (((rx.modLo 0 (fun l => { l with freq := 227360000 })).modSrc 0 (fun q => { q with srv := ⟨2, 227360000, 7, 0⟩, tuned := true })).modDab 0 (fun d =>
       { d with sync := true, facts := [.service 7 0 2 1 64 []] })).put Fld.pipSrcSrc srcDab
     let rds := ((rx.modLo 0 (fun l => { l with freq := 90000000 })).modSrc 0 (fun q => { q with srv := ⟨1, 90000000, 7, 0⟩, tuned := true, rds := { rdsReset with sync := true } })).put Fld.pipSrcSrc srcRds
     dab.pipSrc = srcDab ∧ dab.pipBcstSync = true ∧ dab.reqRetired 5 = false ∧ dab.runs = true ∧ dab.free? .pip = true ∧
       rds.pipSrc = srcRds ∧ rds.pipBcstSync = true ∧ rds.reqRetired 5 = false ∧ rds.runs = true) ∧
    (served running .svc Reg.pipCtl ∧ getF (2 : Word) 1 1 = 1 ∧ served running .jtag Reg.pipSrc ∧ getF (1 : Word) 0 3 < 6 ∧ getF (1 : Word) 0 3 ≠ srcLace ∧
      getF (1 : Word) 0 3 ≠ running.pipSrc ∧ 6 ≤ getF (7 : Word) 0 3 ∧ running.head = true ∧ getF (5 : Word) 0 3 = srcLace) ∧
    (let e : PipEvent := ⟨3, 0, 7, false, false, 1, 1, 0, 0, none, 0, none⟩
     let s := (running.put Fld.pipSrcSrc srcPulse).setSlot 3 (some e)
     Sparse.sorted s.pip.slots = true ∧ (∀ x ∈ s.pip.slots, x.2.slot = x.1) ∧ s.slotEv 3 = some e ∧ e.qual = none ∧ edgeQualifies e 1 false = true ∧
       edgeQualifies e 2 false = false) ∧
    (let q : PipQual := ⟨1, 0, 0, 1000⟩
     let e : PipEvent := ⟨3, 100, 7, false, false, 1, 1, 0, 0, none, 0, some q⟩
     let s := running.setSlot 3 (some e)
     s.slotEv 3 = some e ∧ e.slot = 3 ∧ e.qual = some q ∧ q.period ≠ 0) := by
  unfold served; decide +kernel

/-- EventsAreArmedAndTheirActionsTakeEffect: arming and disarming that are due, and a committed firing of every action. -/
theorem wit_EventsAreArmedAndTheirActionsTakeEffect :
    (let d := dsc [0x20, 0x9103, 1]
     (begun d).runs = true ∧ (begun d).free? .pip = true ∧ dueHere (begun d) 0x20 d ∧ d.member = (begun d).me) ∧
    (let d := dsc [0x20, 0x9103, 1]
     let s := (begun d).modTop (fun t => { t with blk := upd t.blk 1 (fun b => { b with hold := .held }) })
     s.free? .pip = false ∧ dueHere s 0x20 d) ∧
    (let d := dsc [0x21, 3]
     dueHere (begun d) 0x21 d ∧ d.f 1 8 1 ≠ 1) ∧
    ((running.put Fld.pwrStateState 1).runs = true ∧ (running.put Fld.pwrStateState 1).pst ≠ 0) ∧
    (let k (a : Nat) (arg : Word) : PipCommit := ⟨⟨3, 0, a, false, false, 1, 1, 0, arg, none, 0, none⟩, 1, 0, 0, 1, 0⟩
     let cap : Capture := ⟨dsc [], 0, 0, 2, 1, 0, 0, none, 0, 0, 0, 0, none, none⟩
     let s := ((((running.modPip (fun p => { p with commits := [k 1 0, k 2 0, k 3 0, k 4 0, k 5 0, k 6 0x820003, k 7 2, k 8 2, k 9 0] })).putB Fld.tagCtlEn true).put
       Fld.audStartCtlTrig 2).modOut 1 (fun q => { q with run := 1 })).setCap 0 (some cap)
     let p : TagPlan := ⟨[(433098000, 0)], [(1, 0)], [[0, 0, 0]], []⟩
     let u := (((s.modTag (fun t => { t with plan := some p })).putB ⟨Reg.tagChanMask, 0, 1⟩ true).put Fld.tagBandBand 0).put Fld.tagDutyBudgetMs 1000
     s.runs = true ∧ s.pst = 0 ∧ s.pip.commits.find? (fun c => c.ev.slot == 3 && c.ev.action == actGpioSet) = some (k 7 2) ∧
       s.pip.commits.find? (fun c => c.ev.slot == 3 && c.ev.action == actGpioClear) = some (k 8 2) ∧
       s.pip.commits.find? (fun c => c.ev.slot == 3 && c.ev.action == actRecord) = some (k 9 0) ∧
       s.pip.commits.find? (fun c => c.ev.slot == 3 && c.ev.action == actWinOpen) = some (k 1 0) ∧ s.free? .tag = true ∧
       s.pip.commits.find? (fun c => c.ev.slot == 3 && c.ev.action == actWinClose) = some (k 2 0) ∧ s.tag.plan = none ∧ s.tag.sets = [] ∧
       s.pip.commits.find? (fun c => c.ev.slot == 3 && c.ev.action == actBeacon) = some (k 3 0) ∧
       s.pip.commits.find? (fun c => c.ev.slot == 3 && c.ev.action == actAudioStart) = some (k 4 0) ∧ s.free? .aud = true ∧ s.get Fld.audStartCtlTrig = 2 ∧ (s.outSt 1).run = 1 ∧
       s.pip.commits.find? (fun c => c.ev.slot == 3 && c.ev.action == actCapture) = some (k 5 0) ∧ s.samp.caps[(0 : Fin 4)] = some cap ∧ cap.member = s.me ∧
       s.pip.commits.find? (fun c => c.ev.slot == 3 && c.ev.action == actCalSlot) = some (k 6 0x820003) ∧ s.head = true ∧
       u.is Fld.tagCtlEn = true ∧ (u.listenSet 0).isSome = true ∧ u.beaconJudge 0 true = none ∧ u.loRetired loT = false ∧ u.reqRetired 5 = false ∧ u.lotBarred = false ∧
       u.dutyUsed + u.sendCost 0 0 ≤ u.get Fld.tagDutyBudgetMs ∧ u.beaconsHeld < 8) ∧
    (let s := running.modCal (fun c => { c with slot := some (3, 0) })
     s.runs = true ∧ s.free? .cal = true ∧ s.cal.slot = some (3, 0) ∧ s.tileAt 0 = true) := by
  refine ⟨⟨by decide +kernel, by decide +kernel, due_begun _ _ (by decide +kernel) (by decide +kernel), by decide +kernel⟩,
    ⟨by decide +kernel, by decide +kernel, fun _ => ⟨⟨_, rfl, rfl, rfl⟩, by decide +kernel⟩⟩, ⟨due_begun _ _ (by decide +kernel) (by decide +kernel), by decide +kernel⟩,
    by decide +kernel, by decide +kernel, by decide +kernel⟩

/-- ThePipIsCarriedAcrossTheLace: a head of a Lace of two, a member that follows it, and descriptors for the other member. -/
theorem wit_ThePipIsCarriedAcrossTheLace :
    (let s := (running.wr Reg.laceMembersLo 3)
     s.runs = true ∧ s.free? .pip = true ∧ s.head = true ∧ s.others ≠ [] ∧ s.is Fld.pwrStateRest = false ∧ (s.putB Fld.pwrStateRest true).is Fld.pwrStateRest = true) ∧
    (let e : PipEvent := ⟨3, 0, 7, false, false, 1, 1, 0, 0, none, 0, none⟩
     let s := ((member.put Fld.pipSrcSrc srcLace).setSlot 3 (some e)).modPip (fun p => { p with beaconOk := true })
     s.runs = true ∧ s.free? .pip = true ∧ s.head = false ∧ s.pipSrc = srcLace ∧ s.pip.beaconOk = true ∧ Sparse.sorted s.pip.slots = true ∧
       (∀ x ∈ s.pip.slots, x.2.slot = x.1) ∧ s.slotEv 3 = some e ∧ e.frac = 0 ∧ e.qual = none ∧ edgeQualifies e 1 false = true ∧ member.pip.beaconOk = false ∧ running.pipSrc ≠ srcLace) ∧
    (let d := dsc [0x110, 2]
     let s := ((begun d).wr Reg.laceMembersLo 3).modLnk (fun l => { l with shape := 0x00000201, routes := 3 })
     s.runs = true ∧ s.head = true ∧ s.takes d.opcode d = true ∧ d.opcode = 0x10 ∧ d.member ≠ s.me ∧ s.reaches d.member = true) ∧
    (let d := dsc [0x120, 0x9103, 1]
     let s := ((begun d).wr Reg.laceMembersLo 3).modLnk (fun l => { l with shape := 0x00000201, routes := 3 })
     s.runs = true ∧ dueHere s 0x20 d ∧ d.member ≠ s.me ∧ s.reaches d.member = true ∧ s.reqUsed d.member < 2 ∧ (eventOf (d.words.drop 1)).dir ≠ 0) := by
  refine ⟨by decide +kernel, by decide +kernel, by decide +kernel, ⟨by decide +kernel, ⟨by decide +kernel, fun _ => ⟨⟨_, rfl, rfl, rfl⟩, by decide +kernel⟩⟩, by decide +kernel⟩⟩

/-- SynthesisersMoveTuneAndTimeOut: synthesisers at rest and on their way, TUNE and RADIO_STATE that are due, rails not there. -/
theorem wit_SynthesisersMoveTuneAndTimeOut :
    (let s := running.wr (Reg.loFreq 4) 440000000
     served s .svc (Reg.loCtl 4) ∧ s.loFreqReg 4 ≠ 0 ∧ s.radio.los[(4 : Fin 5)].queue = [] ∧ s.radio.los[(4 : Fin 5)].run = none ∧ s.loState 4 ≠ stTx ∧
       getF (2 : Word) 0 3 ≠ s.loState 4 ∧ s.loHeld 4 = false ∧ s.loRetired 4 = false ∧ s.protect = false ∧ getF (0 : Word) 0 3 = s.loState 4) ∧
    (let s := (running.wr (Reg.loFreq 4) 440000000).put (Fld.loStatState 4) 2
     served s .pcie (Reg.loCtl 4) ∧ getF (0x102 : Word) 8 1 = 1 ∧ s.is (Fld.loCtlTune 4) = false ∧ getF (0x102 : Word) 0 3 = s.loState 4 ∧ s.loFreqReg 4 ≠ s.radio.los[(4 : Fin 5)].freq) ∧
    (served running .svc (Reg.loCalmode 3) ∧ getF (2 : Word) 1 1 = 1) ∧
    (let r : LoRun := ⟨.target 2, 2, 440000000, true, false, false⟩
     let s := (running.modLo 4 (fun l => { l with run := some r })).put (Fld.loStatState 4) 1
     s.runs = true ∧ s.free? .radio = true ∧ s.radio.los[(4 : Fin 5)].run = some r ∧ s.radio.los[(4 : Fin 5)].queue = [] ∧ s.loState 4 = 1 ∧ s.retired 1 4 = false ∧
       s.get (Fld.fltPolicyK 1) ≠ 1 ∧ s.flt.fails = []) ∧
    (let r : LoRun := ⟨.target 2, 1, 440000000, false, false, false⟩
     let s := running.modLo 4 (fun l => { l with run := some r })
     s.radio.los[(4 : Fin 5)].run = some r ∧ s.loState 4 = 0 ∧ s.loHeld 4 = false ∧ s.loRetired 4 = false) ∧
    (let r : LoRun := ⟨.tune false, 5, 440000000, false, false, false⟩
     let s := (running.modLo 4 (fun l => { l with run := some r })).put (Fld.loStatState 4) 2
     s.radio.los[(4 : Fin 5)].run = some r ∧ s.loState 4 = stSynth) ∧
    (let d := dsc [0x11, 0x210]
     let r : LoRun := ⟨.move d 2, 2, 440000000, false, false, false⟩
     let s := (((begun d).modLo 4 (fun l => { l with run := some r })).put (Fld.loStatState 4) 1).modRadio (fun q => { q with moves := [⟨d, [4], false, 0⟩] })
     s.radio.los[(4 : Fin 5)].run = some r ∧ s.loState 4 = 1 ∧ s.radio.moves = [⟨d, [(4 : Fin 5).val], false, 0⟩] ∧ tellable s d) ∧
    (let d := dsc [0x10, 4, 440000000]
     (begun d).runs = true ∧ dueHere (begun d) 0x10 d ∧ d.member = (begun d).me ∧ Fin.ofNat 5 (d.f 1 0 3) = (4 : Fin 5) ∧ freqOk 4 (d.w 2).toNat = true ∧ freqOk 4 5 = false ∧
       (begun d).loState 4 < 2) ∧
    (let d := dsc [0x11, 0x10]
     dueHere (begun d) 0x11 d ∧ d.f 1 0 5 = 2 ^ (4 : Fin 5).val ∧ d.f 1 8 3 = (begun d).loState 4 ∧ (begun d).radio.moves = [] ∧ (begun d).protect = false ∧ (begun d).loFreqReg 4 = 0) ∧
    (let s := running.modLo 0 (fun l => { l with relock := true })
     s.radio.los[(0 : Fin 5)].relock = true ∧ s.retired 1 0 = false ∧ s.get (Fld.fltPolicyK 1) ≠ 1 ∧ s.flt.fails = []) ∧
    (let d := dsc [0x11, 0x110]
     let r : LoRun := ⟨.move d 1, 1, 0, false, false, true⟩
     let s := (begun d).modLo 4 (fun l => { l with run := some r })
     s.radio.los[(4 : Fin 5)].run = some r ∧ tellable s d) := by
  refine ⟨by unfold served; decide +kernel, by unfold served; decide +kernel, by unfold served; decide +kernel, by decide +kernel, by decide +kernel, by decide +kernel,
    ⟨by decide +kernel, by decide +kernel, by decide +kernel, fun _ => ⟨⟨_, rfl, rfl, rfl⟩, by decide +kernel⟩⟩,
    ⟨by decide +kernel, due_begun _ _ (by decide +kernel) (by decide +kernel), by decide +kernel⟩,
    ⟨due_begun _ _ (by decide +kernel) (by decide +kernel), by decide +kernel⟩, by decide +kernel,
    ⟨by decide +kernel, fun _ => ⟨⟨_, rfl, rfl, rfl⟩, by decide +kernel⟩⟩⟩

/-- ASendOfTheTagRadio: a request judged free with LOT ready, and a send in every phase. -/
theorem wit_ASendOfTheTagRadio :
    (let b : BeaconReq := { d := none, words := [0, 0, 0], left := 1, onAir := 4, made := 0, crc := 0, accepted := 0, answered := false
                            first := 0, last := 0, tries := 0, stage := 4, cancelled := false }
     let p : TagPlan := ⟨[(433098000, 0)], [], [], []⟩
     let s := ((((running.modTag (fun t => { t with plan := some p, cur := some b })).put (Fld.loStatState 4) 2).putB (Fld.loStatLock 4) true).modLo 4 (fun l => { l with freq := 433098000 }))
     s.runs = true ∧ s.free? .tag = true ∧ s.tag.cur = some b ∧ s.chanEntry b.chan = some (433098000, 0) ∧ s.grantable b 433098000 = true) ∧
    (let x (k : Nat) : TxSt := ⟨20, true, 433098000, [true], k⟩
     let s (k : Nat) := running.modRadio (fun r => { r with tx := some (x k) })
     (s 0).runs = true ∧ (s 0).free? .radio = true ∧ (s 0).radio.tx = some (x 0) ∧ (s 1).radio.tx = some (x 1) ∧ (s 2).radio.tx = some (x 2) ∧ (s 3).radio.tx = some (x 3) ∧
       (s 3).top.paEn = false ∧ (s 3).radio.los[loT].queue = [] ∧ ((s 4).modTop (fun t => { t with paEn := true })).top.paEn = true ∧ running.radio.tx = none) := by
  decide +kernel

/-- TilesGainAndOverload: a path in RX, tiles being made, a freeze and an episode. -/
theorem wit_TilesGainAndOverload :
    (running.alive = true ∧ running.clk.synced = true ∧ running.clk.refLost = false ∧ running.pst ≠ 3 ∧ running.free? .samp = true ∧ running.samp.making = false ∧
      running.rd (Reg.pathCtl 0) = running.radio.paths[(0 : Fin 4)].ctl ∧ getF ((running.put ⟨Reg.agcCtl 0, 7, 1⟩ 1).rd (Reg.agcCtl 0)) 7 1 = 1) ∧
    (let s := running.modSamp (fun q => { q with making := true, pend := [(1, false, 5)] })
     s.samp.making = true ∧ s.samp.pend = [((s.tile.toNat + 1) % 2 ^ 32, false, 5)]) ∧
    (let m : TileMeta := ⟨7, 1, [0, 0, 0, 0], [0, 0, 0, 0], [0, 0, 0, 0], 1⟩
     let s := running.modSamp (fun q => { q with prev := some m })
     s.runs = true ∧ s.samp.prev = some m ∧ tb m.octets 0 = true ∧ s.reqRetired 2 = false ∧ s.effDepth.isSome = true ∧ (∀ p < 4, tb (m.flags.getD p 0) 2 = false)) ∧
    (let s := (running.put (Fld.loStatState 0) 3).modPath 0 (fun q => { q with ctl := 0x01 })
     s.pathRx 0 = true ∧ s.agcManual 0 = false ∧ s.samp.agc[(0 : Fin 4)].clip = none ∧ s.samp.skip ≠ some s.tile.toNat ∧
       (s.modAgc 0 (fun a => { a with clip := some (0, 10) })).samp.agc[(0 : Fin 4)].clip = some (s.tile.toNat, 10)) ∧
    (let s := running.modAgc 0 (fun a => { a with ctl := 2, frozen := some 24 })
     s.agcF 0 (1 + (0 : Fin 3).val) 1 = 1 ∧ s.agcManual 0 = false ∧ s.samp.agc[(0 : Fin 4)].frozen = some 24 ∧ s.get Fld.sampCtlFreezeMax = 0) ∧
    (let e : Episode := ⟨0, 0, 1, 1, 1, [], []⟩
     let s := running.modSamp (fun q => { q with episode := some e })
     s.samp.episode = some e ∧ s.contamMask = 0 ∧ s.is Fld.sampCtlOvrRec = false ∧ (s.putB Fld.sampCtlOvrRec true).is Fld.sampCtlOvrRec = true) := by
  decide +kernel

/-- CapturesStartWriteAndStop: descriptors that are due, and a capture with a tile to write. -/
theorem wit_CapturesStartWriteAndStop :
    (let d := dsc [0x28, 0, 1]
     let s := (begun d).modSamp (fun q => { q with en := true, octets := 1 })
     s.runs = true ∧ s.head = true ∧ dueHere s 0x28 d ∧ d.member = s.me ∧ s.samp.caps[(0 : Fin 4)] = none ∧ s.ringOn (capRing 0) = true ∧ s.free? .samp = true ∧
       s.reqRetired 2 = false ∧ s.reqRetired 6 = false ∧ s.capGone = false ∧ s.pretrigBad d = false ∧ s.pretrigBad (dsc [0x28, 0x1F0000, 1]) = true ∧ s.effDepth = some 4 ∧ d.f 1 8 6 ∈ s.octets ∧ d.f 1 16 5 < 4 ∧ d.f 1 4 2 = 0 ∧ (begun d).effDepth.isSome = true ∧ (begun d).octets = []) ∧
    (let d := dsc [0x29, 0]
     let c : Capture := ⟨dsc [0x28], 0, 0, 0, 1, 0, 0, some 0, 0, 0, 0, 0, none, none⟩
     let s := (begun d).setCap 0 (some c)
     dueHere s 0x29 d ∧ s.samp.caps[(0 : Fin 4)] = some c ∧ c.stop = none ∧ (begun d).samp.caps[(0 : Fin 4)] = none) ∧
    (let c : Capture := ⟨dsc [0x28, 0, 1], 0, 0, 0, 0, 0, 0, some 4, 4, 0, 0, 0, none, none⟩
     let s := ((ringsOn.setCap 0 (some c)).setTile 9).modSamp (fun q => { q with tiles := [⟨0, 4, [1]⟩] })
     s.runs = true ∧ s.head = true ∧ s.samp.caps[(0 : Fin 4)] = some c ∧ c.member = s.me ∧ c.next ≠ s.tile.toNat ∧ seqLater c.next s.tile.toNat = false ∧
       s.ringOn (capRing 0) = true ∧ 0 < s.ringRoom (capRing 0) ∧ s.hif.outq = [] ∧ s.hif.accepts = true ∧ s.pcie.d3hot = false ∧
       ((s.samp.tiles.find? (fun t => t.octet == c.octet && t.seq == 4)).map (·.words)).getD [] = [1] ∧ running.ringRoom (capRing 0) = 0) ∧
    (let c : Capture := ⟨dsc [0x28, 0, 1], 0, 0, 0, 1, 0, 0, some 4, 4, 0, 0, 0, none, none⟩
     let s := ((begun c.d).setCap 0 (some c)).setTile 9
     s.runs = true ∧ s.samp.caps[(0 : Fin 4)] = some c ∧ c.count = c.written + c.dropped + 1 ∧ s.samp.tiles = [] ∧ tellable s c.d) := by
  refine ⟨⟨by decide +kernel, by decide +kernel, ⟨by decide +kernel, fun _ => ⟨⟨_, rfl, rfl, rfl⟩, by decide +kernel⟩⟩, by decide +kernel⟩,
    ⟨⟨by decide +kernel, fun _ => ⟨⟨_, rfl, rfl, rfl⟩, by decide +kernel⟩⟩, by decide +kernel⟩, by decide +kernel,
    ⟨by decide +kernel, by decide +kernel, by decide +kernel, by decide +kernel, fun _ => ⟨⟨_, rfl, rfl, rfl⟩, by decide +kernel⟩⟩⟩

/-- CalibrationRoundsAndWrites: a CAL_RUN due, a trigger that waits, a round that solves at the head and at a member, a write. -/
theorem wit_CalibrationRoundsAndWrites :
    (let d := dsc [0x40, 1]
     let s := begun d
     s.runs = true ∧ dueHere s 0x40 d ∧ d.member = s.me ∧ s.free? .cal = true ∧ s.calLeads = true ∧ s.cal.round = none ∧ s.cal.trigger = none ∧ member.calLeads = false ∧
       member.cal.round = none) ∧
    (let s := running.modCal (fun c => { c with trigger := some (0, 1), waiting := [dsc [0x40, 1]] })
     s.runs = true ∧ s.cal.trigger = some (0, 1) ∧ s.tileAt 0 = true ∧ s.is Fld.calCtlSlotted = false ∧ s.tileAt 4 = false ∧ (dsc [0x40, 1]).f 1 0 4 ≠ 0) ∧
    (let r : CalRound := ⟨0, 1, 1, 1, 0, true, 0, 0, [], [], [5, 6], none⟩
     let s := running.modCal (fun c => { c with round := some r })
     let t := member.modCal (fun c => { c with round := some r })
     s.head = true ∧ s.cal.round = some r ∧ r.solving = true ∧ 5 ∈ r.owners ∧ r.owners.filter (· != 5) ≠ [] ∧ (r.owners.drop 1).filter (· != 6) = [] ∧ t.head = false ∧
       t.cal.round = some r ∧ t.free? .cal = true) ∧
    (served running .svc (Reg.calDcI 2 + 4 * 3) ∧ running.cal.round = none) ∧
    (let s := running.modCalPath 1 (fun c => { c with writeAt := some 1 })
     s.alive = true ∧ s.clk.synced = true ∧ s.clk.refLost = false ∧ s.pst ≠ 3 ∧ s.cal.round = none ∧ s.cal.paths[(1 : Fin 4)].writeAt = some ((s.tile.toNat + 1) % 2 ^ 32)) ∧
    (let d := dsc [0x40, 1]
     let s := (begun d).modCal (fun c => { c with waiting := [d] })
     d ∈ s.cal.waiting ∧ tellable s d) := by
  refine ⟨⟨by decide +kernel, due_begun _ _ (by decide +kernel) (by decide +kernel), by decide +kernel⟩, by decide +kernel, by decide +kernel,
    by unfold served; decide +kernel, by decide +kernel, ⟨by decide +kernel, fun _ => ⟨⟨_, rfl, rfl, rfl⟩, by decide +kernel⟩⟩⟩

/-- AudioClocksAndTheCommonStart: a locked audio ADPLL with an external source, a running SPDO, outputs armed and due. -/
theorem wit_AudioClocksAndTheCommonStart :
    (let s := ((running.wr Reg.clkAudCtl 2).putB Fld.clkAudStatLock true).modOut 3 (fun q => { q with en := true, run := 3, fill := 1500 })
     s.alive = true ∧ 2 ≤ s.audSrc ∧ s.is Fld.clkAudStatHoldover = false ∧ s.is Fld.clkAudStatLock = true ∧ s.outMaster 3 = true ∧ (s.outSt 3).en = true ∧
       served s .svc Reg.clkAudCtl ∧ (getF (0x102 : Word) 8 1 == 1) ≠ s.audFamily ∧ getF (0x102 : Word) 0 3 ≤ 5 ∧ getF (0x102 : Word) 0 3 ≠ 0 ∧
       famOk (getF (0x102 : Word) 8 1 == 1) ((s.wr Reg.spdoCtl 0x10).outFsel 3) = false ∧ famOk (getF (0x102 : Word) 8 1 == 1) (s.outFsel 3) = true ∧
       getF (0 : Word) 0 3 = 0 ∧ getF (3 : Word) 0 3 ≠ s.audSrc ∧ (getF (3 : Word) 8 1 == 1) = s.audFamily ∧
       (s.putB Fld.spdoCtlEn true).outEn 3 = true ∧ s.runs = true ∧ s.free? .aud = true ∧ (s.outSt 3).run = 3 ∧ (s.outSt 3).why = 0 ∧ s.aud.gated = false ∧ s.reqRetired 3 = false ∧ s.aud.holdOut = none ∧
       (s.putB Fld.clkAudStatHoldover true).is Fld.clkAudStatHoldover = true) ∧
    (let s := running.modOut 0 (fun q => { q with en := true, run := 1, armed := true })
     served s .pcie Reg.audStartCtl ∧ getF (0x101 : Word) 4 2 = 0 ∧ getF (0x101 : Word) 8 1 = 1 ∧ (s.outSt 0).run = 1 ∧ (s.outSt 0).armed = true ∧
       (s.put Fld.audStartCtlTrig 1).get Fld.audStartCtlTrig = 1 ∧ s.get Fld.audStartCtlTrig ≠ 1) ∧
    (let s := running.modOut 0 (fun q => { q with en := true, run := 2, armed := true, startAt := some 0 })
     (s.outSt 0).run = 2 ∧ (s.outSt 0).armed = true ∧ (s.outSt 0).startAt = some s.clk.audFrame ∧ (s.outSt 0).fill < 1024) := by
  unfold served; decide +kernel

/-- AudioPortsRoutesAndDigitalInput: ports enabled and not, routes that are due, outputs at their limits, a block start, SPDI locked. -/
theorem wit_AudioPortsRoutesAndDigitalInput :
    (served running .svc (Reg.sapCtl 2) ∧ running.is (Fld.sapCtlEn 2) = false ∧ (running.putB (Fld.sapCtlEn 2) true).is (Fld.sapCtlEn 2) = true ∧
      getF (0x40 : Word) 6 2 ≠ (running.putB (Fld.sapCtlEn 2) true).get (Fld.sapCtlFsel 2) ∧ getF (0x40 : Word) 0 1 ≠ 1) ∧
    (let d := dsc [0x50, 0x10300]
     let s := begun d
     s.runs = true ∧ dueHere s 0x50 d ∧ d.member = s.me ∧ Fin.ofNat 4 (d.f 1 0 3) = (0 : Fin 4) ∧ Fin.ofNat 4 (d.f 1 4 2) = (0 : Fin 4) ∧ s.free? .aud = true ∧ s.reqRetired 3 = false ∧ (s.outSt 0).runs = false ∧
       (s.carried 0 0 (routeOf d).input).length ≤ 2 ∧ ((s.modOut 0 (fun q => { q with run := 3 })).outSt 0).runs = true ∧ (s.outSt 0).queue = [] ∧
       (s.outSt 0).routes[(0 : Fin 4)].cur.input ≠ (routeOf d).input ∧ (s.outSt 0).routes[(0 : Fin 4)].fader.mode ≠ 2 ∧
       (s.outSt 0).routes[(0 : Fin 4)].cur.input = (routeOf (dsc [0x50, 0x10600])).input) ∧
    (let d := dsc [0x50, 0x310]
     (1 : Fin 4) = Fin.ofNat 4 (d.f 1 4 2) ∧ (begun d).get (Fld.sapCtlFmt 0) ≠ 2) ∧
    (let d := dsc [0x50, 0x10300]
     let s := (begun d).modOut 0 (fun q => { q with run := 3, queue := [(d, 0, routeOf d)], routes := upd q.routes 0 (fun x => { x with fader := faderOff }) })
     (s.outSt 0).queue = [(d, (0 : Fin 4).val, routeOf d)] ∧ (s.outSt 0).routes[(0 : Fin 4)].fader.mode = 0 ∧ tellable s d ∧ (s.putB Fld.audFadeCfgRec false).is Fld.audFadeCfgRec = false) ∧
    (let s := running.modOut 1 (fun q => { q with en := true, run := 3, fill := 2048 })
     (s.outSt 1).runs = true ∧ (s.outSt 1).why = 0 ∧ 2048 ≤ (s.outSt 1).fill ∧ s.fadeLen < (s.outSt 1).fill ∧ s.outMaster (Fin.ofNat 4 (1 : Fin 3).val) = false ∧
       ((running.modOut 1 (fun q => { q with en := true, run := 3, fader := faderFull })).outSt 1).fill ≤ running.fadeLen ∧
       ((running.modOut 1 (fun q => { q with run := 3, fill := 1024, why := 1 })).outSt 1).fader.mode = 0 ∧ running.reqRetired 3 = false ∧ ((running.modOut 1 (fun q => { q with why := 3 })).outSt (Fin.ofNat 4 (1 : Fin 3).val)).why = 3) ∧
    (let d := dsc [6, 4, 0, 0, 24]
     let s := ((begun d).modOut 3 (fun q => { q with en := true })).modAud (fun a => { a with loadNext := true, region := some d })
     (s.outSt spdo).en = true ∧ 192 ≤ s.aud.block ∧ s.aud.gated = false ∧ s.aud.loadNext = true ∧ tellable s d) ∧
    (let s := running.putB Fld.spdoCtlEn true
     served s .spi Reg.spdoCtl ∧ s.is Fld.spdoCtlEn = true ∧ getF (0x101 : Word) 4 2 = s.get Fld.spdoCtlFsel ∧ getF (0x101 : Word) 8 1 = 1) ∧
    (let s := (running.putB Fld.spdiCtlEn true).modAud (fun a => { a with spdiBlocks := 2 })
     s.is Fld.spdiCtlEn = true ∧ s.is Fld.spdiStatLock = false ∧ 2 ≤ s.aud.spdiBlocks ∧ ((s.putB Fld.spdiStatLock true).put Fld.spdiStatCs 2).is Fld.spdiStatLock = true ∧
       tb (((s.putB Fld.spdiStatLock true).put Fld.spdiStatCs 2).get Fld.spdiStatCs) 1 = true ∧ s.is Fld.spdiStatNonpcm = false ∧ s.is Fld.spdiCtlIgnoreV = false) := by
  refine ⟨by unfold served; decide +kernel, ⟨by decide +kernel, due_begun _ _ (by decide +kernel) (by decide +kernel), by decide +kernel⟩, by decide +kernel,
    ⟨by decide +kernel, by decide +kernel, fun _ => ⟨⟨_, rfl, rfl, rfl⟩, by decide +kernel⟩, by decide +kernel⟩, by decide +kernel,
    ⟨by decide +kernel, by decide +kernel, by decide +kernel, by decide +kernel, fun _ => ⟨⟨_, rfl, rfl, rfl⟩, by decide +kernel⟩⟩, by unfold served; decide +kernel, by decide +kernel⟩

/-- BroadcastSourcesAreSelectedAndHeard: a path in RX with a covered station, selects that are due and that wait, DAB on a path. -/
theorem wit_BroadcastSourcesAreSelectedAndHeard :
    (let d := dsc [0x18, 0x100, 90000000, 0, 0]
     let rx (s : State) : State := ((s.put (Fld.loStatState 0) 3).modPath 0 (fun q => { q with ctl := 0x01, cleanAt := some 0 })).modLo 0 (fun l => { l with freq := 90000000 })
     let s := (rx (begun d)).modSamp (fun q => { q with en := true, octets := 2 ^ 64 - 1 })
     s.runs = true ∧ dueHere s 0x18 d ∧ d.member = s.me ∧ Fin.ofNat 4 (d.f 1 0 2) = (0 : Fin 4) ∧ Fin.ofNat 4 (d.f 1 12 2) = (0 : Fin 4) ∧ s.free? .bcst = true ∧ s.reqRetired 5 = false ∧
       State.switching (s.src 0) = false ∧ d.f 1 8 2 = 1 ∧ d.f 1 16 1 = 0 ∧ s.bgEn = false ∧ (s.src 0).select = none ∧ s.covered 0 (s.loNow 0) 1 (d.w 2).toNat = true ∧
       (begun d).covered 0 ((begun d).loNow 0) 1 (d.w 2).toNat = false ∧ (begun d).bgPath = 0 ∧ ((begun d).putB Fld.bcstCtlBgEn true).bgEn = true) ∧
    (let d := dsc [0x18, 0]
     let w : Switch := ⟨1, 1, ⟨1, 0, 0, 0⟩, ⟨1, 0, 0, 0⟩, 0, 0, 0, false, 0, 0, 0⟩
     d.f 1 8 2 = 0 ∧ dueHere (begun d) 0x18 d ∧ State.switching (((begun d).modSrc 0 (fun q => { q with sw := some w })).src 0) = true) ∧
    (let d := dsc [0x18, 0x100]
     let s := (begun d).modSrc 1 (fun q => { q with select := some d })
     (s.src 1).select = some d ∧ tellable s d) ∧
    (let rx (s : State) : State := ((s.put (Fld.loStatState 0) 3).modPath 0 (fun q => { q with ctl := 0x01, cleanAt := some 0 })).modLo 0 (fun l => { l with freq := 90000000 })
     let s := ((rx running).modSamp (fun q => { q with en := true, octets := 2 ^ 64 - 1 })).setTile 3
     let fm := s.modSrc 0 (fun q => { q with srv := ⟨1, 90000000, 7, 0⟩, tuned := true })
     let v := (s.modLo 0 (fun l => { l with freq := 227360000 })).modSrc 0 (fun q => { q with srv := ⟨2, 227360000, 7, 0⟩, tuned := true })
     let dab := v.modDab 0 (fun d => { d with sync := true, facts := [.service 7 0 2 1 64 []] })
     fm.runs = true ∧ fm.free? .bcst = true ∧ fm.reqRetired 5 = false ∧ dab.reqRetired 5 = false ∧ (fm.src 0).srv.mode = 1 ∧ (fm.src 0).tuned = true ∧ (fm.src 0).audio = false ∧ fm.srcCovered (fm.src 0) = true ∧
       fm.cleanEnded (fm.src 0).path = true ∧ (fm.src 0).sw = none ∧ (fm.src 0).select = none ∧ fm.bgEn = false ∧ fm.samp.agc[(0 : Fin 4)].stale = false ∧
       (∀ i : Fin 4, ((fm.src i).rds.block (1 : Fin 5).val 5 0).2 = none) ∧
       (dab.src 0).srv.mode = 2 ∧ dab.srcCovered (dab.src 0) = true ∧ dab.bcst.dab[(dab.src 0).path].sync = true ∧ dab.bcst.dab[(dab.src 0).path].has 7 0 = true ∧ (dab.src 0).sw = none ∧
       dab.dabOn 0 = true ∧ dab.pathRx 0 = true ∧ [true, false].foldl (fun n ok => if ok then 0 else n + 1) dab.bcst.dab[(0 : Fin 4)].badRun < 40) ∧
    (let d := dsc [0x1A, 0x100]
     dueHere (begun d) 0x1A d ∧ d.f 1 8 2 = 1 ∧ (d.w 2).toNat = 0 ∧ (begun d).bgEn = false ∧ (dsc [0x1A, 0]).f 1 8 2 = 0) := by
  refine ⟨⟨by decide +kernel, ⟨by decide +kernel, fun _ => ⟨⟨_, rfl, rfl, rfl⟩, by decide +kernel⟩⟩, by decide +kernel⟩,
    ⟨by decide +kernel, due_begun _ _ (by decide +kernel) (by decide +kernel), by decide +kernel⟩, ⟨by decide +kernel, fun _ => ⟨⟨_, rfl, rfl, rfl⟩, by decide +kernel⟩⟩, by decide +kernel,
    ⟨due_begun _ _ (by decide +kernel) (by decide +kernel), by decide +kernel⟩⟩

/-- ServicesAreFollowedAndSwitched: BCST_FOLLOW that is due, a list that waits, switches to be confirmed, an announcement, a probe. -/
theorem wit_ServicesAreFollowedAndSwitched :
    (let d := dsc [0x19, 0x10]
     (begun d).runs = true ∧ dueHere (begun d) 0x19 d ∧ d.member = (begun d).me ∧ (begun d).free? .bcst = true ∧ d.f 1 4 1 = 1 ∧ (begun d).bgEn = false ∧
       (∀ p ∈ (begun d).takers ((begun d).pathLo ((begun d).src 0).path), p = ((begun d).src 0).path) ∧ (dsc [0x19, 0]).f 1 4 3 = 0 ∧
       (let s := ((begun d).modPath 0 (fun q => { q with ctl := 1 })).modPath 1 (fun q => { q with ctl := 0x11 })
        ∃ p ∈ s.takers (s.pathLo (s.src 0).path), p ≠ (s.src 0).path)) ∧
    (let d := dsc [6, 2, 0, 0, 16]
     let s := (begun d).modBcst (fun b => { b with listNext := some (d, [[0x01001234, 90000, 0, 0]]) })
     s.bcst.listNext = some (d, [[0x01001234, 90000, 0, 0]]) ∧ tellable s d) ∧
    (running.bcst.listNext = none ∧ ∀ i : Fin 4, (running.src i).follow = none) ∧
    (let w : Switch := ⟨5, 1, ⟨1, 1, 1, 0⟩, ⟨1, 2, 1, 0⟩, 0, 0, 0, false, 0, 0, 0⟩
     let s := running.modSrc 2 (fun q => { q with sw := some w })
     s.runs = true ∧ s.free? .bcst = true ∧ (s.src 2).sw = some w ∧ 3 ≤ w.stage ∧ w.isAnn = false ∧ w.trial = false ∧ ({ w with trial := true } : Switch).right < 2) ∧
    (let s := running.modSrc 2 (fun q => { q with srv := ⟨2, 1, 1, 0⟩, ann := some ⟨2, 1, 1⟩ })
     (s.src 2).srv.mode = 2 ∧ (s.src 2).ann = some ⟨2, 1, 1⟩) ∧
    (let f : Follow := ⟨0, false, true, false, true, 0, 0, 0, 0, 2000⟩
     let fr : Nat := 220000000
     let rx := (((running.put (Fld.loStatState 0) 3).modPath 0 (fun q => { q with ctl := 0x01 })).modSamp (fun q => { q with en := true, octets := 2 ^ 64 - 1 })).putB Fld.bcstCtlBgEn true
     let s := (rx.modSrc 0 (fun q => { q with srv := ⟨2, 221000000, 9, 0⟩, follow := some f })).modBcst (fun b => { b with list := [[0x02000000, 221000000, 9, 0], [0x02000000, 220000000, 9, 0]] })
     s.bgEn = true ∧ s.reqRetired 5 = false ∧ s.bcst.probe = none ∧ (s.src 0).follow = some f ∧ f.probe ≤ (s.src 0).probeMs ∧ State.switching (s.src 0) = false ∧ (⟨2, fr, 9, 0⟩ : Service) ∈ s.candidates 0) ∧
    (let s := (running.modBcst (fun b => { b with probe := some (0, ⟨2, 220000000, 9, 0⟩) })).modDab 0 (fun d => { d with facts := [.service 9 0 2 1 64 []] })
     s.bcst.probe = some (0, ⟨2, 220000000, 9, 0⟩) ∧ s.bgPath = 0 ∧ DabFact.service 9 0 2 1 64 [] ∈ s.bcst.dab[(0 : Fin 4)].facts) := by
  refine ⟨⟨by decide +kernel, due_begun _ _ (by decide +kernel) (by decide +kernel), by decide +kernel⟩,
    ⟨by decide +kernel, fun _ => ⟨⟨_, rfl, rfl, rfl⟩, by decide +kernel⟩⟩, by decide +kernel, by decide +kernel, by decide +kernel, by decide +kernel, by decide +kernel⟩

/-- The running head hears channel entry 0 of its plan, 863.048 MHz, on path 0, and listen set 0 is open on it. -/
def hearing : State :=
  (((((running.put (Fld.loStatState 0) 3).put Fld.tagChanMaskMask 1).modPath 0 (fun q => { q with ctl := 0x03 })).modLo 0 (fun l => { l with freq := 863024000 })).modSamp (fun q => { q with octets := 2 ^ 64 - 1 })).modTag
    (fun x => { x with plan := some ⟨[(863048000, 1)], [(1, 0)], [], []⟩, sets := [⟨0, none, 0, 0, 0, 0, false⟩] })
/-- The first sixteen bytes of a response of pool 1, serial 2, SEQ 3. -/
def respHead (hdr : Nat) : List Byte := natBe 2 hdr ++ natBe 2 1 ++ natBe 4 2 ++ natBe 5 0 ++ natBe 3 3
/-- The response with a MAC, whitened as it is received. -/
def resp (hdr mac : Nat) : List Byte :=
  let f := respHead hdr ++ natBe 4 mac
  dewhiten (f ++ natBe 2 (crc16 f))
/-- The header, crate, SEQ and MAC that the verification of a frame reads, and whether its CRC is right. -/
def readBack (bs : List Byte) : Bool × Nat × Nat × Nat × Nat × Nat :=
  let f := dewhiten (bs.take 22)
  (decide (22 ≤ bs.length) && crc16 (f.take 20) == beNat (f.drop 20), beNat (f.take 2), beNat ((f.drop 2).take 2), beNat ((f.drop 4).take 4), beNat ((f.drop 13).take 3),
    beNat ((f.drop 16).take 4))
/-- A candidate of pool 1, serial 2, SEQ 3, and an entry of its crate with a SEQ. -/
def cand : Candidate := ⟨1, 2, 3, 4, 0, 0, -60, 0, 1, 0, 0, 0, 0, [], false⟩
def entryOf (seq : Nat) : List Word := [2, 0x10001, 5, BitVec.ofNat 32 seq, 4] ++ List.replicate 11 0
/-- The head with candidates enabled, this one waiting, and a roster. -/
def judging (es : List (Nat × List Word)) : State :=
  ((ringsOn.putB Fld.svcCtlEn true).putB Fld.svcCtlAddNew true).modSvc (fun v => { v with cands := [cand], roster := es })
theorem recordable_judging : recordable (judging []) 0x01 := ⟨by decide +kernel, by decide +kernel, by decide +kernel, by decide +kernel, 16, by decide +kernel⟩
/-- BurstsAreVerified: a burst that is heard, and frames that are good, of another version, and with the MAC of key 7 or not; candidates of a crate that
is new, known with an older, the same and a later SEQ. -/
theorem wit_TagBurstsAreVerifiedAndTheirCandidatesJudged :
    (hearing.runs = true ∧ hearing.free? .tag = true ∧ hearing.chanEntry 0 = some (863048000, 1) ∧ chanOf 1 863048000 = some 0 ∧
      allPaths.findSome? (fun p => hearing.hears p 863048000) = some 256 ∧ hearing.octetOwner 32 = hearing.me ∧ hearing.reqRetired 5 = false ∧
      tb (hearing.get Fld.tagChanMaskMask) 0 = true ∧ hearing.openSets 0 0 = [0] ∧ hearing.tag.heard = [] ∧ hearing.head = true ∧ hearing.svc.cands.length < 4096) ∧
    readBack (resp 0x1000 (cmac32 7 (respHead 0x1000))) = (true, 0x1000, 1, 2, 3, cmac32 7 (respHead 0x1000)) ∧ (dewhiten ((resp 0x1000 9).take 22)).take 16 = respHead 0x1000 ∧
    readBack (resp 0x2000 9) = (true, 0x2000, 1, 2, 3, 9) ∧ cmac32 7 (respHead 0x1000) ≠ 9 ∧
    ((hearing.modTag (fun x => { x with windows := [⟨0, 2, true⟩] })).tag.windows = [⟨0, 2, true⟩]) ∧
    near20 ⟨1, 2, 3, 9, 0, 5⟩ 0 100 = true ∧
    ((judging []).runs = true ∧ (judging []).svc.cands = [cand] ∧ (judging []).hif.regions[6].running.isSome = false ∧ (judging []).is Fld.svcCtlEn = true ∧
      (judging []).svcStopped = false ∧ (judging []).crate 1 2 = none ∧ (judging []).is Fld.svcCtlAddNew = true ∧ (judging []).svc.roster.length < (judging []).rosterCap ∧
      (judging []).freeEntry = some 0) ∧
    (judging [(3, entryOf 2)]).crate 1 2 = some (3, entryOf 2) ∧ seq24Later 3 (getF (ew (entryOf 2) 3) 0 24) = true ∧ entryFlag (entryOf 2) flMUTE = false ∧
    (judging []).get Fld.svcCtlAggS = 0 ∧ seq24Later 3 (getF (ew (entryOf 7) 3) 0 24) = false ∧ cand.mac = (ew (entryOf 3) 4).toNat ∧
    (running.is Fld.svcCtlEn = false ∧ ((judging []).putB Fld.svcCtlEn false).is Fld.svcCtlEn = false) := by
  refine ⟨?_, ?_, ?_, ?_, ?_, ?_, ?_, ?_, ?_, ?_, ?_, ?_, ?_, ?_, ?_⟩ <;> decide +kernel

/-- TAG_BEACON of channel entry 0 with one send. -/
def sendIt : Desc := dsc [0x12, 0x01000000, 0x00010000]
/-- It has started at a head whose plan, band and budget let it send; LOT stands in SLEEP. -/
def mayOn (s : State) : State :=
  (((((((s.putB Fld.tagCtlEn true).put Fld.tagChanMaskMask 1).put Fld.tagBandBand 1).put Fld.tagDutyBudgetMs 36000).put (Fld.loStatState 0) 3).modPath 0 (fun q => { q with ctl := 0x03 })).modLo 0
    (fun l => { l with freq := 863024000 })).modSamp (fun q => { q with octets := 2 ^ 64 - 1 }) |>.modTag (fun x => { x with plan := some ⟨[(863048000, 1)], [(1, 0)], [], []⟩ })
def may : State := mayOn (begun sendIt)
/-- The request that it becomes, at a stage. -/
def request (d : Option Desc) (stage tries : Nat) : BeaconReq := ⟨d, [0x01000000, 0x00010000, 0], 1, 5, 0, 0, 0, false, 0, 0, tries, stage, false⟩
def serving (d : Option Desc) (stage tries : Nat) : State := may.modTag (fun x => { x with cur := some (request d stage tries), reserved := 5 })
theorem tellable_may : tellable may sendIt := fun _ => ⟨⟨_, rfl, rfl, rfl⟩, by decide +kernel⟩
/-- BeaconsAndListenWindowsRunToTheirEnds: a TAG_BEACON that is due, judged and turned down; requests at every stage; TAG_LISTEN. -/
theorem wit_BeaconsAndListenWindowsRunToTheirEnds :
    (may.runs = true ∧ dueHere may 0x12 sendIt ∧ sendIt.member = may.me ∧ may.free? .tag = true ∧ may.beaconJudge 0 false = none ∧ may.loRetired loT = false ∧ may.reqRetired 5 = false ∧
      may.lotBarred = false ∧ may.dutyUsed + 1 * may.sendCost 0 0 ≤ may.get Fld.tagDutyBudgetMs ∧ may.beaconsHeld < 8 ∧
      (may.put Fld.tagDutyBudgetMs 0).get Fld.tagDutyBudgetMs < may.dutyUsed + 1 * may.sendCost 0 0 ∧ (begun sendIt).is Fld.tagCtlEn = false ∧ may.chanEntry 0 = some (863048000, 1) ∧
      tb ((may.put Fld.tagChanMaskMask 2).get Fld.tagChanMaskMask) 0 = false ∧ (may.put Fld.tagBandBand 0).get Fld.tagBandBand ≠ 1 ∧
      (∀ p : Fin 4, (may.put (Fld.loStatState 0) 0).hears p 863048000 = none)) ∧
    (let q := may.modTag (fun x => { x with queue := [request (some sendIt) 0 0] })
     q.tag.cur = none ∧ q.tag.queue = [request (some sendIt) 0 0] ∧ q.chanEntry (request (some sendIt) 0 0).chan = some (863048000, 1) ∧ q.loState loT < stSynth ∧
       q.radio.los[loT].queue = [] ∧ q.radio.los[loT].run = none) ∧
    ((serving none 2 0).tag.cur = some (request none 2 0) ∧ lbtBusy 90 0 5 = false ∧ lbtBusy 90 (2 ^ 40) 5 = true ∧ may.get Fld.tagCtlLbtTries = 0 ∧ may.radio.tx = none ∧
      (serving (some sendIt) 5 0).tag.cur = some (request (some sendIt) 5 0)) ∧
    tellable may sendIt ∧
    (may.modTag (fun x => { x with gaps := [request (some sendIt) 0 0] })).tag.gaps = [request (some sendIt) 0 0] ∧
    (let l := dsc [0x13, 0]
     let s := mayOn (begun l)
     l.f 1 16 1 = 0 ∧ dueHere s 0x13 l ∧ s.head = true ∧ s.is Fld.tagCtlEn = true ∧ s.listenSet 0 ≠ none ∧ (begun l).is Fld.tagCtlEn = false ∧ (s.modTag (fun x => { x with plan := none })).listenSet 0 = none) ∧
    (member.takes 0x13 (dsc [0x13, 0]) = true ∧ member.head = false ∧ member.runs = true ∧ member.free? .tag = true) ∧
    (let l := dsc [0x13, 0x10000]
     l.f 1 16 1 = 1 ∧ dueHere (begun l) 0x13 l) := by
  refine ⟨⟨by decide +kernel, ⟨by decide +kernel, tellable_may⟩, by decide +kernel⟩, by decide +kernel, by decide +kernel, tellable_may, by decide +kernel,
    ⟨by decide +kernel, ⟨by decide +kernel, fun _ => ⟨⟨_, rfl, rfl, rfl⟩, by decide +kernel⟩⟩, by decide +kernel⟩, by decide +kernel,
    ⟨by decide +kernel, due_begun _ _ (by decide +kernel) (by decide +kernel)⟩⟩

/-- An access of a rank at word 1024 with two beats, its data all ones, and one of sixteen beats. -/
def acc (rank : Nat) (stitch write : Bool) (d : Option Desc) (mode : Bool) : Access := ⟨rank, stitch, write, 1024, 2, 0, List.replicate 16 0xFFFFFFFF, d, 0, mode⟩
def long (rank made : Nat) (mode : Bool) : Access := ⟨rank, false, false, 1024, 16, 0, [], none, made, mode⟩
def xfer : Desc := dsc [0x39, 0]
def porting (a : Access) : State := (begun xfer).modStore (fun x => { x with cur := some a })
theorem tellable_begun (d : Desc) (h : (begun d).is (Fld.hifRingCtlEn (cplRing d.ring).val) = true ∧ (begun d).ringRoom (cplRing d.ring) ≠ 0) : tellable (begun d) d :=
  fun _ => ⟨⟨⟨d, 0, false, false, [], { status := 0 }, false, false⟩, by simp [begun, State.findStarted, State.modHif, Desc.same], rfl, rfl⟩, h.1, h.2, rfl, rfl⟩
/-- TheStorePortGrantsMovesAndCutsOff: accesses of two ranks, plain and stitched, that wait or hold the port; a requester that is retired. -/
theorem wit_TheStorePortGrantsMovesAndCutsOff :
    (running.alive = true ∧ running.store.cur = none ∧ running.store.waiting = [] ∧ running.reqRetired 8 = false ∧ running.reqRetired 3 = false ∧ running.store.debt = 0 ∧
      running.is Fld.refreshStatSelf = false ∧ (acc 8 false true none false).stitch = false ∧ (running.putB ⟨Reg.fltRetireMap2, 8, 1⟩ true).reqRetired 8 = true) ∧
    tellable (begun xfer) xfer ∧
    (let s := porting (acc 8 false true none false)
     s.alive = true ∧ s.store.waiting = [] ∧ 1024 + 8 * 2 ≤ s.storeWords ∧ (acc 8 false true none false).data.length = 8 * 2 ∧ firstFailure s 6 8) ∧
    (let s := (porting (long 8 4 false)).modStore (fun x => { x with waiting := [acc 3 false false none false] })
     s.store.ue = [] ∧ s.store.waiting = [acc 3 false false none false] ∧ (long 8 4 false).made + 4 < (long 8 4 false).beats ∧ (4 + 4) % 8 = 0 ∧ s.store.debt = 0) ∧
    (let s := (begun xfer).modStore (fun x => { x with ue := [1024] })
     tellable s xfer ∧ 0 < s.get Fld.arbStitchMaxBeats ∧ s.store.ue = [1024] ∧ firstFailure s 4 (s.bankOf 1024)) ∧
    (let s := porting (acc 7 true true (some xfer) false)
     tellable s xfer ∧ (acc 7 true true (some xfer) false).stitch = true ∧ firstFailure s 6 7) := by
  unfold firstFailure
  refine ⟨by decide +kernel, tellable_begun _ (by decide +kernel), by decide +kernel, by decide +kernel, ⟨fun _ => ⟨⟨_, rfl, rfl, rfl⟩, by decide +kernel⟩, by decide +kernel⟩,
    ⟨fun _ => ⟨⟨_, rfl, rfl, rfl⟩, by decide +kernel⟩, by decide +kernel⟩⟩

/-- RefreshScrubAndBankMoves: an idle port and one with a stitch, a word that waits for its write-back, a copy in progress. -/
theorem wit_RefreshScrubAndBankMoves :
    (running.alive = true ∧ running.is Fld.refreshStatSelf = false ∧ running.store.debt < 5 ∧ running.store.cur = none ∧ (running.modStore (fun x => { x with debt := 5 })).store.debt = 5) ∧
    ((porting (acc 7 true true none false)).store.cur = some (acc 7 true true none false) ∧ (acc 7 true true none false).stitch = true) ∧
    (let s := running.modStore (fun x => { x with ce := [9], moves := [⟨3, 3, 7, 1⟩] })
     s.scrubActive = true ∧ 9 ∈ s.store.ce ∧ s.store.moves = [⟨3, 3, 7, 1⟩] ∧ firstFailure s 4 (s.bankOf 9)) ∧
    ((running.put Fld.pwrStateState 1).scrubActive = false ∧ 9 < running.storeWords) := by
  unfold firstFailure
  refine ⟨?_, ?_, ?_, ?_⟩ <;> decide +kernel

/-- A Lace of two whose head defines octet 0: owner member 0, or member 1; both contribute, member 1 by one path. -/
def two (d : Desc) : State := (((begun d).wr Reg.laceMembersLo 3).modLnk (fun l => { l with shape := 0x00000201, routes := 3 })).modSamp (fun q => { q with octets := 3 })
def defOf (owner : Nat) : ExchDef :=
  ⟨1, [0, 1], [owner, 1 - owner] ++ List.replicate 62 64, [15, 1] ++ List.replicate 62 0, 0, 0, 0, 0, 0, 0⟩
def runOf (d : Option Desc) : ExchRun := ⟨d, 0, none, 0, none, [], [0, 1], [1], 0, 0, false, none⟩
def exch (s : State) (r : Option ExchRun) : State := s.modExch (fun e => { e with def0 := some (defOf 0), run0 := r })
def exDef : Desc := dsc [0x30, 0, 0]
def exStart : Desc := dsc [0x31, 0, 0, 0]
def exStop : Desc := dsc [0x32, 0]
/-- ExchangesAreDefinedStartedAndStopped: definitions, starts and stops that are due, alone and in a Lace of two; a slot that awaits a POST and
confirmations, and one at its last period. -/
theorem wit_ExchangesAreDefinedStartedAndStopped :
    (let s := two exDef
     let e := s.exchMake s.samp.octets false 0
     s.runs = true ∧ s.head = true ∧ dueHere s 0x30 exDef ∧ s.free? .exch = true ∧ s.memberList ≠ [] ∧ exDef.f 2 0 16 = 0 ∧ s.exchRun 0 = none ∧ e.octets ≠ [] ∧
       e.octets.length % s.memberList.length = 0 ∧ (∀ o ∈ e.octets, s.isMember (e.owners.getD o 64) = true) ∧ s.others ≠ [] ∧ (∀ k ∈ s.memberList, s.cannotOwn 0 [] k = false ∨ e.ownedBy k = []) ∧
       s.exchWindow e ≤ 2097152 ∧ ¬ (∀ k ∈ s.memberList, s.cannotOwn 0 [1] k = false ∨ e.ownedBy k = []) ∧ (begun exDef).others = [] ∧
       ((begun exDef).exchMake (begun exDef).samp.octets false 0).octets = [] ∧ (∀ x, (begun exDef).findStarted exDef = some x → x.part = { status := stOK })) ∧
    (member.takes 0x30 exDef = true ∧ member.runs = true ∧ member.head = false ∧ member.free? .exch = true) ∧
    (let s := exch (two exStart) none
     dueHere s 0x31 exStart ∧ s.exchDef 0 = some (defOf 0) ∧ (defOf 0).epoch = s.epoch ∧ s.reqRetired 1 = false ∧ s.reqRetired 4 = false ∧ s.addGone = false ∧
       s.me ∈ s.memberList.filter (fun m => (defOf 0).mask m != 0 && (defOf 0).octets.any (fun o => (defOf 0).owners.getD o 64 != m)) ∧
       (defOf 0).octets.filter (fun o => (defOf 0).owners.getD o 64 != s.me) ≠ []) ∧
    (let e : ExchDef := { defOf 0 with owners := List.replicate 64 0 }
     let s := (begun exStart).modExch (fun x => { x with def0 := some e })
     dueHere s 0x31 exStart ∧ s.exchDef 0 = some e ∧ e.epoch = s.epoch ∧ s.memberList = [s.me] ∧ (∀ o ∈ e.octets, e.owners.getD o 64 = s.me) ∧ s.reqRetired 1 = false ∧ seqLater s.bound100 0xFFFFFFFF = true) ∧
    (member.modExch (fun e => { e with def0 := some (defOf 0) })).exchDef 0 = some (defOf 0) ∧
    (let s := exch (two exStart) (some (runOf (some exStart)))
     s.exchRun 0 = some (runOf (some exStart)) ∧ (runOf none).posts = [1] ∧ (runOf none).confirms.filter (· != 1) ≠ [] ∧ [0].filter (· != 0) = [] ∧ tellable s exStart) ∧
    (let s := exch (two exStop) (some (runOf none))
     dueHere s 0x32 exStop ∧ s.exchRun 0 ≠ none) ∧
    (let r : ExchRun := { runOf (some exStart) with first := some 3, last := some 7 }
     r.carries 7 = true ∧ r.past 7 = false ∧ r.carries 8 = false) := by
  refine ⟨⟨by decide +kernel, by decide +kernel, ⟨by decide +kernel, fun _ => ⟨⟨_, rfl, rfl, rfl⟩, by decide +kernel⟩⟩, by decide +kernel, by decide +kernel, by decide +kernel, by decide +kernel,
      by decide +kernel, by decide +kernel, by decide +kernel, by decide +kernel, by decide +kernel, by decide +kernel, by decide +kernel, by decide +kernel, by decide +kernel,
      fun x hx => by simp [begun, State.findStarted, State.modHif, Desc.same] at hx; subst hx; rfl⟩,
    by decide +kernel, ⟨⟨by decide +kernel, fun _ => ⟨⟨_, rfl, rfl, rfl⟩, by decide +kernel⟩⟩, by decide +kernel⟩,
    ⟨⟨by decide +kernel, fun _ => ⟨⟨_, rfl, rfl, rfl⟩, by decide +kernel⟩⟩, by decide +kernel⟩, by decide +kernel,
    ⟨by decide +kernel, by decide +kernel, by decide +kernel, by decide +kernel, fun _ => ⟨⟨_, rfl, rfl, rfl⟩, by decide +kernel⟩⟩,
    ⟨⟨by decide +kernel, fun _ => ⟨⟨_, rfl, rfl, rfl⟩, by decide +kernel⟩⟩, by decide +kernel⟩, by decide +kernel⟩

def tileWords : List Word := [5] ++ List.replicate 271 0
def sumWords : List Word := [5] ++ List.replicate 15 0
def exRun : ExchRun := { runOf none with first := some 3 }
/-- Both slots of the head run in a Lace of two, octet 0 its own, octet 1 member 1's; it has tile 5 of both. -/
def bothOn : State :=
  ((two exDef).modExch (fun e => { e with def0 := some (defOf 0), run0 := some exRun, def1 := some (defOf 0), run1 := some exRun, released := [(1, 4)], freed := [(0, 4)] })).modSamp
    (fun q => { q with tiles := [⟨0, 5, [5, 0xF00]⟩, ⟨1, 5, [5, 0xF01]⟩] })
/-- TilesSumsAndBeamsCrossTheExchange: a tile due with a free slot and one NACKed, a tile and a contribution that arrive, an accumulator, beams. -/
theorem wit_TilesSumsAndBeamsCrossTheExchange :
    (bothOn.runs = true ∧ bothOn.free? .exch = true ∧ bothOn.reqRetired 4 = false ∧ bothOn.reqRetired 1 = false ∧ bothOn.reqRetired 5 = false ∧ bothOn.exch.again = [] ∧ bothOn.exch.todo = [] ∧
      (bothOn.modExch (fun e => { e with todo := [(1, 5)] })).exch.todo.find? (fun t => (bothOn.modExch (fun e => { e with todo := [(1, 5)] })).slotFree t.1 t.2) = some (1, 5) ∧
      bothOn.samp.tiles.find? (fun t => t.octet == 1 && t.seq == 5) = some ⟨1, 5, [5, 0xF01]⟩) ∧
    (let s := bothOn.modExch (fun e => { e with again := [(0, 1, 5)], kept := [⟨0, 1, 5, 0, []⟩] })
     s.exch.again = [(0, 1, 5)] ∧ s.exch.kept.find? (fun k => k.xid == 0 && k.octet == 1 && k.tile == 5) = some ⟨0, 1, 5, 0, []⟩) ∧
    ((defOf 0).owners.getD (getF (tileWords.getD 1 0) 0 6) 64 = bothOn.me ∧ (1 : Nat) ≠ bothOn.me ∧ (defOf 0).mask 1 ≠ 0 ∧ tileWords.length = 16 + 256 * popc ((defOf 0).mask 1) ∧
      exRun.past 5 = false ∧ exRun.carries 5 = true ∧ exRun.carries 2 = false ∧ resOk tileWords (tileWords.map res7) = true ∧
      ((([5] : List Word) ++ List.replicate 14 0).foldl (fun (a : Nat) (x : Word) => a + x.toNat) 0) % 7 = 5 ∧ resOk (tileWords.set 15 5) ((tileWords.set 15 5).map res7) = true ∧
      getF ((tileWords.set 15 5).getD 15 0) 0 3 = 5 ∧ resOk tileWords [] = false) ∧
    ((1, 4) ∈ bothOn.exch.released ∧ seqLater 5 4 = true ∧ (0, 4) ∈ bothOn.exch.freed ∧
      (bothOn.modExch (fun e => { e with beams := [⟨0, 5, []⟩] })).exch.run0 ≠ none) ∧
    (sumWords.length = 16 ∧ resOk sumWords (sumWords.map res7) = true ∧ bothOn.addGone = false ∧ bothOn.exch.accums = [] ∧
      (1 : Nat) ∈ (⟨0, 5, [1], 0, [], false, false⟩ : Accum).added ∧ (∀ m ∈ bothOn.memberList, (defOf 0).mask m = 0 ∨ m ∈ [0, 1])) ∧
    (bothOn.octetOwner 0 = bothOn.me ∧ running.octetOwner 0 = running.me ∧ running.others = [] ∧ running.exch.weights = none ∧
      (let ws : List Word := [0x01000001, 0x00000000, 0x00010000]
       beamBlocks (getF (ws.getD 0 0) 0 7) (ws.drop 1) = some [⟨0, 1, 1, false, [0x00010000]⟩])) := by
  refine ⟨?_, ?_, ?_, ?_, ?_, ?_⟩ <;> decide +kernel

def edit (op : Nat) : Desc := dsc [0x38, BitVec.ofNat 32 op, 1, 2, 5]
/-- The head with a roster, and with an edit whose image it reads. -/
def rost (d : Desc) (es : List (Nat × List Word)) : State := (begun d).modSvc (fun v => { v with roster := es })
def imaging (op : Nat) (es : List (Nat × List Word)) : State := (begun (edit op)).modSvc (fun v => { v with roster := es, edits := [edit op] })
/-- TheRosterIsEditedQueriedAndSized: edits of a crate that is there and of one that is not, queries, keys, a roster of 1024 entries. -/
theorem wit_TheRosterIsEditedQueriedAndSized :
    ((begun (edit 3)).runs = true ∧ dueHere (rost (edit 3) [(3, entryOf 2)]) 0x38 (edit 3) ∧ (begun (edit 3)).svcStopped = false ∧ (begun (edit 3)).reqRetired 6 = false ∧
      (edit 3).f 1 0 3 = 3 ∧ (rost (edit 3) [(3, entryOf 2)]).crate 1 2 = some (3, entryOf 2) ∧ entryGen (entryOf 2) = 5 ∧ ((edit 3).w 4).toNat = 5 ∧ (begun (edit 3)).crate 1 2 = none ∧
      (dsc [0x38, 3, 1, 2, 4]).f 1 9 1 = 0 ∧ ((dsc [0x38, 3, 1, 2, 4]).w 4).toNat ≠ 5) ∧
    (let s := imaging 1 []
     edit 1 ∈ s.svc.edits ∧ s.holds (edit 1) = true ∧ tellable s (edit 1) ∧ (edit 1).f 1 0 3 = 1 ∧ s.crate 1 2 = none ∧ s.freeEntry = some 0 ∧ s.svc.roster.length < s.rosterCap) ∧
    ((imaging 2 [(3, entryOf 2)]).crate 1 2 = some (3, entryOf 2) ∧ (edit 2).f 1 0 3 = 2 ∧ (edit 2).f 1 9 1 = 0) ∧
    (let q := dsc [0x39, 1, 0, 4]
     dueHere (begun q) 0x39 q ∧ q.f 1 0 1 = 1 ∧ (q.w 2).toNat + q.f 3 0 17 ≤ (begun q).rosterCap ∧ 0 < q.f 3 0 17 ∧ (begun q).rosterCap < 2 ^ 20) ∧
    (let q := dsc [0x39, 0x10000, 2]
     q.f 1 0 1 = 0 ∧ (rost q [(3, entryOf 2)]).crate 1 2 = some (3, entryOf 2) ∧ dueHere (rost q [(3, entryOf 2)]) 0x39 q) ∧
    (let k := dsc [0x3A, 0x10000, 1, 2, 3, 4]
     dueHere (begun k) 0x3A k ∧ (begun k).findKey 1 0 0 = none ∧ k.f 1 4 1 = 0 ∧ (begun k).svc.keys = [] ∧ (begun k).others = [] ∧
       (∀ x, (begun k).findStarted k = some x → x.part = { status := stOK }) ∧ (dsc [0x3A, 0x10010]).f 1 4 1 = 1) ∧
    (served running .pcie Reg.svcRosterSize ∧ running.is Fld.svcCtlEn = false ∧ getF (10 : Word) 0 5 = 10) := by
  unfold served
  refine ⟨⟨by decide +kernel, ⟨by decide +kernel, fun _ => ⟨⟨_, rfl, rfl, rfl⟩, by decide +kernel⟩⟩, by decide +kernel⟩,
    ⟨by decide +kernel, by decide +kernel, fun _ => ⟨⟨_, rfl, rfl, rfl⟩, by decide +kernel⟩, by decide +kernel⟩, by decide +kernel,
    ⟨due_begun _ _ (by decide +kernel) (by decide +kernel), by decide +kernel⟩, ⟨by decide +kernel, by decide +kernel, ⟨by decide +kernel, fun _ => ⟨⟨_, rfl, rfl, rfl⟩, by decide +kernel⟩⟩⟩,
    ⟨due_begun _ _ (by decide +kernel) (by decide +kernel), by decide +kernel, by decide +kernel, by decide +kernel, by decide +kernel,
      fun x hx => by simp [begun, State.findStarted, State.modHif, Desc.same] at hx; subst hx; rfl, by decide +kernel⟩, by decide +kernel⟩

/-- An object of pool 1 with a KIND, without body, with the authentication and the check that key 7 and its bytes give. -/
def object (kind mac : Nat) : List Byte :=
  let h := natBe 2 0x504E ++ natBe 1 1 ++ natBe 1 kind ++ natBe 2 1 ++ natBe 1 0 ++ natBe 1 0 ++ natBe 4 9 ++ natBe 2 0 ++ natBe 2 0
  let b := h ++ natBe 8 mac
  b ++ natBe 4 (crc32 b).toNat
def macObj (kind : Nat) : Nat := cmac 7 ((object kind 0).take 16) / 2 ^ 64
def slotted (bytes : Option (List Byte)) (u : Bool × Nat × List Byte) : State :=
  running.modSvc (fun v => { v with slots := upd v.slots 2 (fun _ => ⟨bytes, 0, false, none, [some u]⟩), keys := [⟨1, 1, 0, 7⟩] })
/-- PoolNoticesAreReassembledAndApplied: a slot with a subscription that is located, segments first and later, an object whole and good or not,
objects that wait for the list. -/
theorem wit_PoolNoticesAreReassembledAndApplied :
    (let e : Subscription := ⟨1, 0, 0, 0x5050, 0⟩
     let s := (running.modBcst (fun b => { b with subs := upd b.subs 2 (fun _ => some e) })).modSrc 0 (fun q => { q with srv := ⟨1, 1, 1, 0⟩, rds := { rdsReset with sync := true, oda := [(22, 0x5050)] } })
     s.bcst.subs[(2 : Fin 8)] = some e ∧ s.head = true ∧ s.svcStopped = false ∧ s.subLocated e = true ∧ (running.modBcst (fun b => { b with subs := upd b.subs 2 (fun _ => some e) })).subLocated e = false) ∧
    ((slotted none (true, 3, [1])).svcStopped = false ∧ ((slotted none (true, 3, [1])).svc.slots[(2 : Fin 8)]).units = [some (true, 3, [1])] ∧ ([1] : List Byte).length < 16 ∧
      ((slotted (some [1]) (false, 1, [2])).svc.slots[(2 : Fin 8)]).bytes = some [1] ∧ 1 = (((slotted (some [1]) (false, 1, [2])).svc.slots[(2 : Fin 8)]).cont + 1) % 16) ∧
    (noticeHeader (object 1 (macObj 1)) = true ∧ (object 1 (macObj 1)).length = 28 + noticeLen (object 1 (macObj 1)) ∧
      (crc32 ((object 1 (macObj 1)).take 24)).toNat = nb (object 1 (macObj 1)) 24 4 ∧ (slotted none (true, 0, [])).findKey 1 1 0 = some ⟨1, 1, 0, 7⟩) ∧
    (noticePool (object 1 (macObj 1)) = 1 ∧ nb (object 1 (macObj 1)) 6 1 = 0 ∧ cmac 7 ((object 1 (macObj 1)).take 16) / 2 ^ 64 = nb (object 1 (macObj 1)) 16 8 ∧ isNew none 9 = true ∧
      isNew (some ⟨1, 9, []⟩) 9 = false ∧ noticeBodyOk (object 1 (macObj 1)) = true ∧ noticeKind (object 4 0) = 4 ∧ running.is Fld.svcCtlObjBody = false ∧ macObj 1 ≠ 0) ∧
    (let s := ringsOn.modSvc (fun v => { v with notices := [⟨2, object 2 0⟩] })
     s.svc.notices = [⟨2, object 2 0⟩] ∧ s.svcStopped = false ∧ s.hif.regions[3].running.isSome = false ∧ noticeKind (object 2 0) ≠ 1 ∧ noticeKind (object 1 0) = 1) ∧
    recordable ringsOn 0x05 := by
  refine ⟨?_, ?_, ?_, ?_, ?_, ⟨by decide +kernel, by decide +kernel, by decide +kernel, by decide +kernel, 16, by decide +kernel⟩⟩ <;> decide +kernel

/-- The running device in a power state, ready for D4. -/
def lowPower (d : Nat) : State := (((running.put Fld.pwrStateState d).wr Reg.pwrCtl 1).wr Reg.pwrLatTol 0xFFFFFFFF).put Fld.telemIntervalMs 0
/-- PowerStatesAreEnteredAndLeft: a state due, entries and exits, a device that no longer may stay, and one that may go to D4. -/
theorem wit_PowerStatesAreEnteredAndLeft :
    ((lowPower 0).runs = true ∧ (lowPower 0).pwr.entry = none ∧ (lowPower 0).pwr.exiting = false ∧ (lowPower 0).pwr.d4Step = false ∧ 3 ≤ (lowPower 0).deepest ∧ (lowPower 0).pst = 0 ∧
      (lowPower 1).pst = 1 ∧ 2 ≤ (lowPower 1).deepest) ∧
    (((lowPower 0).modPwr (fun p => { p with entry := some 2 })).pwr.entry = some 2) ∧
    ((lowPower 2).pst = 2 ∧ (lowPower 2).lead = none ∧ ((lowPower 2).putB Fld.pwrCtlRetainLinks true).is Fld.pwrCtlRetainLinks = true ∧
      (((lowPower 2).put Fld.telemIntervalMs 1).modTelem (fun x => { x with ms := 1 })).lead = some 0 ∧ (lowPower 2).tolAdmits = 4) ∧
    (served (lowPower 2) .pcie Reg.pwrLatTol ∧ served (lowPower 0) .pcie Reg.pwrLatTol) ∧
    (((lowPower 2).modPwr (fun p => { p with exiting := true })).runs = true ∧ ((lowPower 2).putB Fld.clkRefSelXtalRun true).refThere = true ∧ (lowPower 3).pst = 3 ∧ (lowPower 1).is Fld.clkSysStatLock = true) ∧
    ((lowPower 3).sleepReady = true ∧ ((lowPower 3).modPwr (fun p => { p with d4Step := true })).pwr.d4Step = true ∧
      ((lowPower 3).modPwr (fun p => { p with d4 := true, d4Timer := 5 })).pwr.d4Timer ≠ 0 ∧
      ((lowPower 3).modPwr (fun p => { p with d4 := true, d4Wake := 256 })).pwr.d4Wake ≠ 0 ∧ running.sleepReady = false) := by
  unfold served
  refine ⟨?_, ?_, ?_, ?_, ?_, ?_⟩ <;> decide +kernel

/-- MonitorsFaultsAndRetirementAct: readings that are valid, that are not, that are hot; a supply out of range; a path in RX on its trials. -/
theorem wit_MonitorsFaultsAndRetirementAct :
    (running.alive = true ∧ running.runs = true ∧ running.calHoldsSensor 3 = false ∧ running.railOn 1 = true ∧ (running.put Fld.pwrStateState 2).railOn 3 = false ∧
      tempOk (some 3000) = none ∧ (running.flt.sensors[(0 : Fin 8)]).hot = false) ∧
    (running.cal.round = none ∧ (∀ n : Fin 8, running.is (Fld.tempFailed n.val) = false) ∧ (∀ n : Fin 8, (List.replicate 8 (some (2700 : Int))).getD n.val none = some 2700)) ∧
    ((running.putB (Fld.supplyLow 1) true).is (Fld.supplyLow 1) = true ∧ (running.flt.supplies[(1 : Fin 8)]).posted = false) ∧
    ((ringsOn.put Fld.telemIntervalMs 1000).get Fld.telemIntervalMs ≠ 0 ∧ (running.put Fld.telemIntervalMs 0).get Fld.telemIntervalMs = 0) ∧
    (recordable ringsOn 0x0C ∧ recordable ringsOn 0x0A ∧ recordable ringsOn 0x0B) ∧
    ((takeLimit 4 (running.modFlt (fun f => { f with limits := [⟨4, [], 3⟩] })).flt.limits).suppressed = 3) ∧
    (served running .pcie (Reg.fltRetireMap0 + 4 * 2) ∧ running.retired 6 8 = false ∧ (8, 6, 8) ∈ mapBits 2) ∧
    (let s := (running.put (Fld.loStatState 0) 3).modPath 0 (fun q => { q with ctl := 0x01 })
     s.free? .radio = true ∧ s.pathRx 0 = true ∧ (s.flt.pathTry[(0 : Fin 4)]) = 0 ∧ firstFailure s 0 0 ∧ running.pathRx 0 = false) := by
  unfold served firstFailure
  refine ⟨by decide +kernel, by decide +kernel, by decide +kernel, by decide +kernel,
    ⟨⟨by decide +kernel, by decide +kernel, by decide +kernel, by decide +kernel, 16, by decide +kernel⟩, ⟨by decide +kernel, by decide +kernel, by decide +kernel, by decide +kernel, 16, by decide +kernel⟩,
      ⟨by decide +kernel, by decide +kernel, by decide +kernel, by decide +kernel, 16, by decide +kernel⟩⟩, by decide +kernel, by decide +kernel, by decide +kernel⟩

/-- AFrameWithoutAClockDoesNothing has no hypotheses; a state with the soft reset armed and a frame counted keeps both. -/
theorem wit_AFrameWithoutAClockDoesNothing :
    exec .spiNoClockFrame (State.reset.inc Fld.spiFrameCntCount) = .next (State.reset.inc Fld.spiFrameCntCount) := rfl

/-- WritesOfReadOnlyRegistersDoNothing: TOP_PART through each port, SVC_RECALL_CNT of a running device, LACE_SHAPE of a member that is not the head. -/
theorem wit_WritesOfReadOnlyRegistersDoNothing :
    (∀ p ∈ [Port.pcie, Port.spi, Port.jtag], State.reset.portOpen p = true ∧ State.reset.reach p Reg.topPart = .ok) ∧
    (∃ r, regRow Reg.topPart = some r ∧ ∀ f ∈ State.reset.fieldsAt Reg.topPart r, f.acc = .ro) ∧
    (served running .svc Reg.svcRecallCnt ∧ running.top.softPending = false ∧ ∃ r, regRow Reg.svcRecallCnt = some r ∧ ∀ f ∈ running.fieldsAt Reg.svcRecallCnt r, f.acc = .ro) ∧
    (served member .jtag Reg.laceShape ∧ ∃ r, regRow Reg.laceShape = some r ∧ ∀ f ∈ member.fieldsAt Reg.laceShape r, f.acc = .ro) := by
  refine ⟨by decide +kernel, ⟨_, rfl, by decide +kernel⟩, ⟨by unfold served; decide +kernel, by decide +kernel, _, rfl, by decide +kernel⟩,
    by unfold served; decide +kernel, _, rfl, by decide +kernel⟩

/-- TheHighHalfIsReadFromThePortsShadow: a shadow tagged with the pair, an empty one, one tagged with another pair. -/
theorem wit_TheHighHalfIsReadFromThePortsShadow :
    (let s := running.modTop (fun t => { t with rdShadow := upd t.rdShadow 2 (fun _ => some (Reg.pipCountLo, 5)) })
     served s .jtag (Reg.pipCountLo + 4) ∧ isPairLo Reg.pipCountLo = true ∧ s.top.rdShadow[Port.jtag.idx] = some (Reg.pipCountLo, 5)) ∧
    (served running .spi (Reg.pipCountLo + 4) ∧ ∀ w, running.top.rdShadow[Port.spi.idx] ≠ some (Reg.pipCountLo, w)) ∧
    (let s := running.modTop (fun t => { t with rdShadow := upd t.rdShadow 2 (fun _ => some (Reg.sampOctetMaskLo, 5)) })
     ∀ w, s.top.rdShadow[Port.jtag.idx] ≠ some (Reg.pipCountLo, w)) := by
  refine ⟨by unfold served; decide +kernel, ⟨by unfold served; decide +kernel, fun w => ?_⟩, fun w => ?_⟩
  · exact fun h => nomatch h
  · intro h
    exact absurd (show Reg.sampOctetMaskLo = Reg.pipCountLo from congrArg Prod.fst (Option.some.inj h)) (by decide)

/-- TheEngineStaysOnWhileARingIsActive: the lowest ring active, and ring 16 alone active. -/
theorem wit_TheEngineStaysOnWhileARingIsActive :
    (served ringsOn .jtag Reg.hifCtl ∧ getF (ringsOn.regView (Reg.hifRingCtl 0)) 2 1 = 1 ∧ ringsOn.top.softPending = false) ∧
    (let s := (engineOn.put (Fld.hifRingSizeLog2 16) 4).putB (Fld.hifRingCtlEn 16) true
     served s .pcie Reg.hifCtl ∧ getF (s.regView (Reg.hifRingCtl 16)) 2 1 = 1 ∧ ∀ m < 16, getF (s.regView (Reg.hifRingCtl m)) 2 1 = 0) := by
  unfold served; decide +kernel

/-- TheBaseAndSizeOfARingInUseStay: ring 0 in use through three ports, the last ring in use. -/
theorem wit_TheBaseAndSizeOfARingInUseStay :
    (served ringsOn .pcie (Reg.hifRingBaseLo 0) ∧ served ringsOn .spi (Reg.hifRingBaseHi 0) ∧ served ringsOn .jtag (Reg.hifRingSize 0) ∧
      getF (ringsOn.regView (Reg.hifRingCtl 0)) 0 1 = 1 ∧ getF (ringsOn.regView (Reg.hifRingCtl 0)) 2 1 = 1 ∧ ringsOn.top.softPending = false) ∧
    (let s := engineOn.putB (Fld.hifRingCtlEn 23) true
     served s .pcie (Reg.hifRingSize 23) ∧ getF (s.regView (Reg.hifRingCtl 23)) 0 1 = 1) := by
  unfold served; decide +kernel

/-- TheRosterIsSizedOnlyWhileServicesAreOff: the head with its services off and on. -/
theorem wit_TheRosterIsSizedOnlyWhileServicesAreOff :
    running.head = true ∧ served running .spi Reg.svcRosterSize ∧ running.top.softPending = false ∧ running.is Fld.svcCtlEn = false ∧
    (let s := running.putB Fld.svcCtlEn true
     served s .pcie Reg.svcRosterSize ∧ s.is Fld.svcCtlEn = true) := by
  unfold served; decide +kernel

end Sys2Proof.Tests
end

section
/-! When the end of a descriptor is told: the completion that the head writes, and the answer of another member. -/

namespace Sys2Proof.Machine

/-! ### What a completion reads of the state (Table 6.9, R202, R216, R257) -/

/-- Registers that say whether a completion goes out, where it goes and what it tells. -/
def cplRegs : List Nat :=
  [Reg.topCfg, Reg.laceMembersLo, Reg.laceMembersHi] ++ (List.range 24).map Reg.hifRingCtl ++ (List.range 24).map Reg.hifRingSize
    ++ (List.range 24).map Reg.hifRingHead ++ (List.range 24).map Reg.hifRingTail

theorem mem_cplRegs_ring (n : Fin 24) :
    Reg.hifRingCtl n.val ∈ cplRegs ∧ Reg.hifRingSize n.val ∈ cplRegs ∧ Reg.hifRingHead n.val ∈ cplRegs ∧ Reg.hifRingTail n.val ∈ cplRegs := by
  revert n; decide

/-- The head completes `d` in `t` as in `s`: with the same words, and under the same conditions. -/
structure TellsAlike (d : Desc) (s t : State) : Prop where
  straps : t.top.straps = s.top.straps
  boot : t.boot = s.boot
  tile : t.tile = s.tile
  d3hot : t.pcie.d3hot = s.pcie.d3hot
  accepts : t.hif.accepts = s.hif.accepts
  started : (t.findStarted d).map (fun x => (x.orphan, x.dropped)) = (s.findStarted d).map (fun x => (x.orphan, x.dropped))
  untested : t.is Fld.topStatusUntested = s.is Fld.topStatusUntested
  regs : ∀ off ∈ cplRegs, t.rd off = s.rd off

theorem TellsAlike.refl (d : Desc) (s : State) : TellsAlike d s s := ⟨rfl, rfl, rfl, rfl, rfl, rfl, rfl, fun _ _ => rfl⟩

theorem TellsAlike.trans {d : Desc} {s t u : State} (h : TellsAlike d s t) (k : TellsAlike d t u) : TellsAlike d s u :=
  ⟨k.straps.trans h.straps, k.boot.trans h.boot, k.tile.trans h.tile, k.d3hot.trans h.d3hot, k.accepts.trans h.accepts,
    k.started.trans h.started, k.untested.trans h.untested, fun off ho => (k.regs off ho).trans (h.regs off ho)⟩

/-- A write of a register that a completion does not read. -/
theorem TellsAlike.wr (d : Desc) (s : State) (o : Nat) (w : Word) (hs : o ≠ Reg.topStatus) (ho : o ∉ cplRegs) : TellsAlike d s (s.wr o w) :=
  ⟨rfl, rfl, rfl, rfl, rfl, rfl, by rw [State.is, State.get, s.rd_wr_ne _ _ _ (Ne.symm hs)]; rfl,
    fun off h => s.rd_wr_ne _ _ _ (fun e => ho (e ▸ h))⟩

/-- A status bit of a register that a completion does not read, or a bit of TOP_STATUS other than UNTESTED. -/
theorem TellsAlike.flag (d : Desc) (s : State) (f : FieldRef) (hu : f.off ≠ Reg.topStatus ∨ 1 ≤ f.lo) (ho : f.off ∉ cplRegs) :
    TellsAlike d s (s.flag f) :=
  ⟨rfl, rfl, rfl, rfl, rfl, rfl, by
      rw [State.is, State.flag_eq, s.get_put_ne f _ _ (hu.imp Ne.symm .inr)]; rfl,
    fun off h => s.rd_put_ne _ _ _ (fun e => ho (e ▸ h))⟩

theorem TellsAlike.emit (d : Desc) (s : State) (o : Out) : TellsAlike d s (s.emit o) := ⟨rfl, rfl, rfl, rfl, rfl, rfl, rfl, fun _ _ => rfl⟩
theorem TellsAlike.modLnk (d : Desc) (s : State) (f : Lnk → Lnk) : TellsAlike d s (s.modLnk f) :=
  ⟨rfl, rfl, rfl, rfl, rfl, rfl, rfl, fun _ _ => rfl⟩
theorem TellsAlike.cond (d : Desc) {s : State} (b : Bool) (f : State → State) (hf : TellsAlike d s (f s)) : TellsAlike d s (s.cond b f) := by
  unfold State.cond
  split
  · exact hf
  · exact .refl d s

theorem TellsAlike.modTop (d : Desc) (s : State) (f : Top → Top) (hf : (f s.top).straps = s.top.straps) : TellsAlike d s (s.modTop f) :=
  ⟨hf, rfl, rfl, rfl, rfl, rfl, rfl, fun _ _ => rfl⟩

/-- A note on a started descriptor that leaves whether its completion is owed. -/
theorem TellsAlike.modStarted (d : Desc) (s : State) (e : Desc) (f : StartedDesc → StartedDesc)
    (hf : ∀ x, (f x).d = x.d ∧ (f x).orphan = x.orphan ∧ (f x).dropped = x.dropped) : TellsAlike d s (s.modStarted e f) := by
  refine ⟨rfl, rfl, rfl, rfl, rfl, ?_, rfl, fun _ _ => rfl⟩
  have hd : ∀ x : StartedDesc, (if x.d.same e then f x else x).d = x.d := by
    intro x; split
    · exact (hf x).1
    · rfl
  simp only [State.findStarted, State.modStarted, State.modHif, List.find?_map, Function.comp_def, hd, Option.map_map]
  congr 1
  funext x
  split
  · rw [(hf x).2.1, (hf x).2.2]
  · rfl

theorem TellsAlike.atBlock (d : Desc) (s : State) : TellsAlike d s (s.atBlock d) := by
  unfold State.atBlock
  split
  · exact .modStarted d s d _ (fun _ => ⟨rfl, rfl, rfl⟩)
  · exact .modLnk d s _

/-! ### The completion itself -/

theorem TellsAlike.head {d : Desc} {s t : State} (h : TellsAlike d s t) : t.head = s.head := congrArg Straps.head h.straps
theorem TellsAlike.me {d : Desc} {s t : State} (h : TellsAlike d s t) : t.me = s.me := congrArg (fun p => p.id.toNat) h.straps

theorem TellsAlike.get {d : Desc} {s t : State} (h : TellsAlike d s t) (f : FieldRef) (hf : f.off ∈ cplRegs) : t.get f = s.get f :=
  congrArg (fun w => getF w f.lo f.width) (h.regs _ hf)

theorem TellsAlike.ringRoom {d : Desc} {s t : State} (h : TellsAlike d s t) (n : Fin 24) : t.ringRoom n = s.ringRoom n := by
  obtain ⟨-, hsize, hhead, htail⟩ := mem_cplRegs_ring n
  simp only [State.ringRoom, State.ringUsed, State.ringSize, State.prod, State.cons, h.get (Fld.hifRingSizeLog2 n.val) hsize,
    h.get (Fld.hifRingHeadProducer n.val) hhead, h.get (Fld.hifRingTailConsumer n.val) htail]

theorem TellsAlike.tellable_of {d : Desc} {s t : State} (h : TellsAlike d s t) (ht : tellable s d) : tellable t d := by
  intro hh
  obtain ⟨⟨x, hx, ho, hdr⟩, hen, hroom, hacc, hd3⟩ := ht (h.head ▸ hh)
  refine ⟨?_, ?_, h.ringRoom _ ▸ hroom, h.accepts.trans hacc, h.d3hot.trans hd3⟩
  · have e := h.started
    rw [hx] at e
    obtain ⟨y, hy, hp⟩ := Option.map_eq_some_iff.mp e
    obtain ⟨h1, h2⟩ := Prod.mk.inj hp
    exact ⟨y, hy, h1.trans ho, h2.trans hdr⟩
  · exact (congrArg (· != 0) (h.get (Fld.hifRingCtlEn _) (mem_cplRegs_ring _).1)).trans hen

theorem TellsAlike.cplWords {d : Desc} {s t : State} (h : TellsAlike d s t) (ph : Bool) (m op ring tag index : Nat) (r : Result) :
    t.cplWords ph m op ring tag index r = s.cplWords ph m op ring tag index r := by
  have hc : t.compat6 = s.compat6 := congrArg (· != 0) (h.get Fld.topCfgCompat6 (by decide))
  have hm : t.members = s.members := by
    rw [State.members, State.members, h.regs Reg.laceMembersLo (by decide), h.regs Reg.laceMembersHi (by decide)]
  have hu : t.untested = s.untested := by
    simp only [State.untested, State.isMember, h.untested, h.boot, hm]
  rw [State.cplWords, State.cplWords, hc, hu, h.tile]

theorem TellsAlike.cplMember {d : Desc} {s t : State} (h : TellsAlike d s t) (e : Desc) : t.cplMember e = s.cplMember e := by
  rw [State.cplMember, State.cplMember, h.me]

/-- What has gone out stays so. -/
theorem Keeps.mem_out {s t : State} (h : Keeps s t) {o : Out} (ho : o ∈ s.out) : o ∈ t.out := by
  obtain ⟨l, hl⟩ := h.out
  exact hl ▸ List.mem_append_right l ho

theorem takeEntry_hif (s : State) (n : Fin 24) : (s.takeEntry n).2.2.hif = s.hif := by
  unfold State.takeEntry; dsimp only; split <;> rfl
theorem takeEntry_pcie (s : State) (n : Fin 24) : (s.takeEntry n).2.2.pcie = s.pcie := by
  unfold State.takeEntry; dsimp only; split <;> rfl

/-- Words for the host go out at once while it takes posted writes. -/
theorem post_data_of_accepts (s : State) (a : Nat) (ws : List Word) (hacc : s.hif.accepts = true) (hd3 : s.pcie.d3hot = false) :
    s.post (.data a ws) = s.emit (.hostWrite a ws) := by
  simp [State.post, hacc, hd3]

theorem putCpl_writes (s : State) (ring : Fin 8) (c : CplWait) (hacc : s.hif.accepts = true) (hd3 : s.pcie.d3hot = false) :
    ∃ ph a, Out.hostWrite a (s.cplWords ph c.member c.opcode ring.val c.tag c.index c.r) ∈ (s.putCpl ring c).out := by
  refine ⟨(s.takeEntry (cplRing ring)).2.1, (s.takeEntry (cplRing ring)).1, Keeps.mem_out (Keeps.ringEvent (.refl _) (cplRing ring)) ?_⟩
  simp [State.post, takeEntry_hif, takeEntry_pcie, hacc, hd3, State.emit]

theorem writeCpl_of_room (s : State) (ring : Fin 8) (c : CplWait) (hen : s.is (Fld.hifRingCtlEn (cplRing ring).val) = true)
    (hroom : s.ringRoom (cplRing ring) ≠ 0) : s.writeCpl ring c = s.putCpl ring c := by
  simp [State.writeCpl, hen, hroom]

/-- The head no longer works on a descriptor: its region is free, it is started no more, and a CANCEL of it learns that it has ended. -/
def State.letGo (s : State) (d : Desc) (committed : Bool) : State :=
  ((s.dropRegion d).modHif (fun h => { h with started := h.started.eraseP (fun t => t.d.same d) })).cancelEnded d committed

theorem complete_of_started (s : State) (d : Desc) (r : Result) (x : StartedDesc) (hh : s.head = true) (hx : s.findStarted d = some x)
    (ho : x.orphan = false) (hd : x.dropped = false) : s.complete d r = (s.letGo d x.committed).writeCpl d.ring (s.cplOf d r) := by
  have hh' : (s.dropRegion d).head = true := hh
  have hx' : (s.dropRegion d).findStarted d = some x := hx
  rw [State.complete]
  simp only [hh', hx', ho, hd, if_true, Bool.false_eq_true, if_false]
  rfl

/-- The head writes a completion that can be told at once. -/
theorem complete_writes (s : State) (d : Desc) (r : Result) (hh : s.head = true) (ht : tellable s d) :
    ∃ ph a, Out.hostWrite a (s.cplWords ph (s.cplMember d) d.opcode d.ring.val d.tag d.index r) ∈ (s.complete d r).out := by
  obtain ⟨⟨x, hx, ho, hdr⟩, hen, hroom, hacc, hd3⟩ := ht hh
  rw [complete_of_started s d r x hh hx ho hdr, writeCpl_of_room (s.letGo d x.committed) _ _ hen hroom]
  exact putCpl_writes (s.letGo d x.committed) d.ring (s.cplOf d r) hacc hd3

/-- A descriptor whose completion could be told in `s` has ended since, when the head completes it in a state that tells it alike. -/
theorem TellsAlike.ended_complete {d : Desc} {s t : State} (h : TellsAlike d s t) (hh : s.head = true) (ht : tellable s d) (r : Result) :
    ended s (t.complete d r) d r := by
  obtain ⟨ph, a, hm⟩ := complete_writes t d r (h.head.trans hh) (h.tellable_of ht)
  rw [h.cplWords, h.cplMember] at hm
  rw [ended, if_pos hh]
  exact ⟨ph, a, hm⟩

/-! ### The answer of another member -/

theorem mem_out_sendMsg (s : State) (m : Msg) : Out.msg m ∈ (s.sendMsg m).out := by
  have hin : Out.msg m ∈ (s.emit (.msg m)).out := List.mem_cons_self
  have hk : Keeps (s.emit (.msg m)) (s.sendMsg m) := by
    unfold State.sendMsg
    dsimp only
    split
    · exact Keeps.forEach (.refl _) _ _ fun _ k hk => hk.forEach _ _ fun _ f hf => hf.txFlit k f
    · exact Keeps.forEach (.refl _) _ _ fun _ f hf => hf.injectFlit f
  exact hk.mem_out hin

/-- A member other than the head has ended a descriptor when it answers it in a state that knows itself and the head as `s` does. -/
theorem ended_answer {s t : State} (hh : s.head = false) (hs : t.top.straps = s.top.straps) (hid : t.lnk.headId = s.lnk.headId)
    (d : Desc) (r : Result) : ended s (t.answer d r []) d r := by
  have hme : t.me = s.me := congrArg (fun p => p.id.toNat) hs
  have hth : t.head = s.head := congrArg Straps.head hs
  have hno : t.headNo = s.headNo := by rw [State.headNo, State.headNo, hth, hme, hid]
  rw [ended, if_neg (by simp [hh]), ← hno, ← hme]
  refine ⟨t.lnk.served.any (fun x => x.1.same d && x.2), ?_⟩
  have hm := mem_out_sendMsg (t.modLnk (fun l => { l with served := l.served.eraseP (fun x => x.1.same d) }))
    { dst := t.headNo, src := t.me, kind := 3, code := msgCompletion, tag := (d.w 8).toNat % 65536
      words := [packW [(31, 1, b2n (t.lnk.served.any (fun x => x.1.same d && x.2))), (8, 8, r.detail), (0, 8, r.status)], r.r0, r.r1, r.r2, r.r3] }
  simpa [State.answer] using hm

theorem complete_member (s : State) (d : Desc) (r : Result) (hh : s.head = false) : s.complete d r = (s.dropRegion d).answer d r [] := by
  rw [State.complete]
  exact if_neg (by simp [show (s.dropRegion d).head = false from hh])

end Sys2Proof.Machine
end

section
/-! Links: what the sending of messages leaves, and that a completion is told alike after it. -/

namespace Sys2Proof.Machine

/-! ### What sending over the links leaves -/

/-- LNKn_STAT of the four links. -/
def lnkStatRegs : List Nat := (List.range 4).map Reg.lnkStat

/-- The state `t` is `s` but for the links' own data, LNKn_STAT and what has gone out. -/
structure LinksOnly (s t : State) : Prop where
  rest : { t with regs := s.regs, lnk := s.lnk, out := s.out } = s
  regs : regsOnly lnkStatRegs s t

namespace LinksOnly

variable {a s : State}

theorem refl (s : State) : LinksOnly s s := ⟨rfl, regsOnly_refl _ s⟩
theorem trans {t : State} (h : LinksOnly a s) (k : LinksOnly s t) : LinksOnly a t := by
  refine ⟨?_, regsOnly_trans h.regs k.regs⟩
  have e := h.rest
  rw [← k.rest] at e
  exact e
theorem ite {t : State} (c : Prop) [Decidable c] (h : LinksOnly a s) (k : LinksOnly a t) : LinksOnly a (if c then s else t) := by
  split
  · exact h
  · exact k
theorem forEach {α : Type} (h : LinksOnly a s) (l : List α) (f : State → α → State) (hf : ∀ t x, LinksOnly a t → LinksOnly a (f t x)) :
    LinksOnly a (s.forEach l f) := by
  unfold State.forEach
  induction l generalizing s with
  | nil => exact h
  | cons x l ih => exact ih (hf s x h)
theorem emit (h : LinksOnly a s) (o : Out) : LinksOnly a (s.emit o) := h.trans ⟨rfl, fun _ _ => rfl⟩
theorem modLnk (h : LinksOnly a s) (f : Lnk → Lnk) : LinksOnly a (s.modLnk f) := h.trans ⟨rfl, fun _ _ => rfl⟩
theorem placeFree (h : LinksOnly a s) (w : Waiting) : LinksOnly a (s.placeFree w) := .ite _ h (h.modLnk _)
theorem offer (h : LinksOnly a s) (k : Fin 4) (w : Waiting) : LinksOnly a (s.offer k w) :=
  .ite _ (h.modLnk _) (h.trans ⟨rfl, regsOnly_put s _ _ (by revert k; decide)⟩)
theorem pumpN (n : Nat) (k : Fin 4) (h : LinksOnly a s) : LinksOnly a (Machine.pumpN n s k) := by
  induction n generalizing s with
  | zero => exact h
  | succ n ih =>
    rw [Machine.pumpN]
    dsimp only
    split
    · exact h
    · exact ih (((h.modLnk _).emit _).placeFree _)
theorem txFlit (h : LinksOnly a s) (k : Fin 4) (f : Flit) : LinksOnly a (s.txFlit k f) := (h.offer k _).pumpN _ k
theorem injectFlit (h : LinksOnly a s) (f : Flit) : LinksOnly a (s.injectFlit f) := by
  unfold State.injectFlit
  split
  · exact h.forEach _ _ fun _ _ ht => ht.txFlit _ _
  · split
    · exact h
    · exact h.txFlit _ _
theorem sendMsg (h : LinksOnly a s) (m : Msg) : LinksOnly a (s.sendMsg m) :=
  .ite _ ((h.emit _).forEach _ _ fun _ k hk => hk.forEach _ _ fun _ f hf => hf.txFlit k f)
    ((h.emit _).forEach _ _ fun _ f hf => hf.injectFlit f)
theorem creditBack (h : LinksOnly a s) (peer : Nat) : LinksOnly a (s.creditBack peer) := by
  unfold State.creditBack
  split
  · exact (h.modLnk _).sendMsg _
  · exact h.modLnk _

end LinksOnly

/-- The traffic of the links leaves what a completion reads. -/
theorem LinksOnly.tellsAlike {s t : State} (h : LinksOnly s t) (d : Desc) : TellsAlike d s t where
  straps := congrArg (·.top.straps) h.rest
  boot := congrArg (·.boot) h.rest
  tile := congrArg (·.tile) h.rest
  d3hot := congrArg (·.pcie.d3hot) h.rest
  accepts := congrArg (·.hif.accepts) h.rest
  started := congrArg (fun u => (u.findStarted d).map (fun x => (x.orphan, x.dropped))) h.rest
  untested := congrArg (fun w => getF w 0 1 != 0) (h.regs Reg.topStatus (by decide))
  regs off ho := h.regs off ((show ∀ o ∈ cplRegs, o ∉ lnkStatRegs by decide) off ho)

end Sys2Proof.Machine
end

section
/-! Accesses of the service core: what a read leaves, and a write of a register that only takes its word. -/

namespace Sys2Proof.Machine

/-! ### Reads of registers by the service core (R155, R162, R168) -/

theorem TellsAlike.accErr (d : Desc) (s : State) (f : FieldRef) (cause : Nat) (p : Port) (write : Bool) (off : Nat)
    (hu : f.off ≠ Reg.topStatus ∨ 1 ≤ f.lo) (ho : f.off ∉ cplRegs) : TellsAlike d s (s.accErr f cause p write off) :=
  (TellsAlike.flag d s f hu ho).trans (.wr d _ Reg.topErrAddr _ (by decide) (by decide))

/-- An access that is not served changes nothing that a completion reads. -/
theorem TellsAlike.refused (d : Desc) (s : State) (r : Reach) (p : Port) (write : Bool) (off : Nat) : TellsAlike d s (s.refused r p write off) := by
  have hflag : ∀ (t : State) (b : Bool) (f : FieldRef), f.off = Reg.spiStat → TellsAlike d t (t.cond b (·.flag f)) := fun t b f hf =>
    .cond d b _ (.flag d t f (.inl (by rw [hf]; decide)) (by rw [hf]; decide))
  cases r with
  | ok => exact .refl d s
  | silent => exact .refl d s
  | reserved e => exact (TellsAlike.accErr d s _ 1 p write off (.inr (by decide)) (by decide)).trans (hflag _ _ _ rfl)
  | early => exact hflag _ _ _ rfl
  | doze => exact (TellsAlike.accErr d s _ 6 p write off (.inr (by decide)) (by decide)).trans (hflag _ _ _ rfl)
  | held => exact (TellsAlike.accErr d s _ 4 p write off (.inr (by decide)) (by decide)).trans (hflag _ _ _ rfl)

theorem TellsAlike.serveRead (d : Desc) (s : State) (p : Port) (off : Nat) : TellsAlike d s (s.serveRead p off).2 := by
  unfold State.serveRead
  split
  · split
    · exact .modTop d s (fun q => { q with rdShadow := upd q.rdShadow p.idx (fun _ => some (off, s.regView (off + 4))) }) rfl
    · split
      · split <;> exact .refl d s
      · exact .refl d s
  · exact .refused d s _ p false off

theorem TellsAlike.readRun (d : Desc) (n : Nat) (s : State) (p : Port) (off : Nat) : TellsAlike d s (readRun n s p off).2 := by
  induction n generalizing s off with
  | zero => exact .refl d s
  | succ n ih => exact (TellsAlike.serveRead d s p _).trans (ih _ _)

theorem readRun_length (n : Nat) (s : State) (p : Port) (off : Nat) : (readRun n s p off).1.length = n := by
  induction n generalizing s off with
  | zero => rfl
  | succ n ih => exact congrArg (· + 1) (ih _ _)

/-! ### A write of TOP_SCRATCHn (R151, R155) -/

theorem phase_of_runs {s : State} (h : s.runs = true) : s.phase = phRun := by
  simp only [State.runs, Bool.and_eq_true, beq_iff_eq] at h
  exact h.2

theorem reach_topScratch (s : State) (n : Fin 4) (hp : s.phase = phRun) : s.reach .svc (Reg.topScratch n.val) = .ok := by
  have hmod : Reg.topScratch n.val % 4 = 0 := by revert n; decide
  have hat : blockAt (Reg.topScratch n.val) = some true := by revert n; decide
  have hreg : isReg (Reg.topScratch n.val) = true := by revert n; decide
  have hblk : blkAt (Reg.topScratch n.val) = none := by revert n; decide
  simp [State.reach, hmod, hp, hat, hreg, hblk]

theorem setF_getF_whole (old w : Word) : setF old 0 32 (getF w 0 32) = w := by
  apply BitVec.eq_of_getLsbD_eq
  intro i hi
  rw [getLsbD_setF, testBit_getF]
  simp [hi]

/-- Registers whose write does more than take the word, or depends on more than their field table. -/
def actingRegs : List Nat :=
  [Reg.topSoftReset, Reg.topBlockReset, Reg.topCfg, Reg.hifCtl, Reg.svcRosterSize, Reg.clkRefSel, Reg.spdoCtl, Reg.txPower, Reg.bootCtl,
   Reg.pwrCtl, Reg.pwrLatTol, Reg.clkSysCtl, Reg.clkSyncCtl, Reg.clkAudCtl, Reg.pipSrc, Reg.pipCtl, Reg.sampCtl, Reg.audStartCtl,
   Reg.telemInterval, Reg.dbgCtl, Reg.laceShape, Reg.fltPolicy 7]

/-- An offset below the SVC block whose register only takes the words written to it. -/
structure PlainReg (off : Nat) : Prop where
  low : off < 0x6800
  acting : off ∉ actingRegs
  window : ¬(Reg.bootWinData 0 ≤ off ∧ off ≤ Reg.bootWinData 63)
  ringCtl : ringOfCtl off = none
  ringPlace : ringOfPlace off = none
  loCtl : loOfCtl off = none
  loFreq : loOfFreq off = none
  loCalmode : loOfCalmode off = none
  agc : pathOfAgc off = none
  sap : sapOfCtl off = none
  cal : pathOfCal off = none
  map : mapOf off = none
  pair : isPaired off = false ∧ isPaired (off - 4) = false

theorem PlainReg.landWrite {off : Nat} (h : PlainReg off) (s : State) (p : Port) (w : Word) (fs : List Field) (t : WriteAt) :
    s.landWrite p off w fs t = s.wr off (applyFields fs (s.rd off) w) := by
  have hact := h.acting
  simp only [actingRegs, List.mem_cons, not_or] at hact
  simp [State.landWrite, State.afterWrite, h.window, h.ringCtl, h.ringPlace, h.loCtl, h.sap, h.map, h.loCalmode, h.cal, hact]

theorem PlainReg.regWrite {off : Nat} (h : PlainReg off) (s : State) (p : Port) (w : Word) (t : WriteAt) {r : RegRow}
    (hrow : regRow off = some r) (hro : allRO r.fields = false) (hdef : fieldsDefined r.fields w = true) :
    s.regWrite p off w t = s.wr off (applyFields r.fields (s.rd off) w) := by
  have hact := h.acting
  simp only [actingRegs, List.mem_cons, not_or] at hact
  have hfs : s.fieldsAt off r = r.fields := by simp [State.fieldsAt, hact]
  have hwd : s.writeDefined off w = true := by simp [State.writeDefined, hact, h.loCtl, h.loFreq, h.agc]
  have hlow := h.low
  have hdbg : ¬ 0xF004 ≤ off := by omega
  have haway : s.svcAway off = false := by simp [State.svcAway, show ¬ 0x6800 ≤ off by omega]
  simp [State.regWrite, hrow, hfs, hwd, hdbg, haway, hro, hdef, h.pair, h.landWrite]

theorem plainReg_topScratch (n : Fin 4) : PlainReg (Reg.topScratch n.val) := by
  constructor <;> (revert n; decide)

/-- The entry of TOP_SCRATCHn: one field of 32 bits that every write may change. -/
theorem regRow_topScratch (n : Fin 4) : ∃ r, regRow (Reg.topScratch n.val) = some r ∧ r.fields = [⟨0, 32, .rw, []⟩] := by
  revert n; decide

theorem regWrite_topScratch (s : State) (p : Port) (n : Fin 4) (w : Word) (t : WriteAt) :
    s.regWrite p (Reg.topScratch n.val) w t = s.wr (Reg.topScratch n.val) w := by
  obtain ⟨r, hrow, hf⟩ := regRow_topScratch n
  rw [(plainReg_topScratch n).regWrite s p w t hrow (by rw [hf]; decide) (by rw [hf]; rfl), hf]
  exact congrArg _ (setF_getF_whole _ w)

theorem serveWrite_topScratch (s : State) (n : Fin 4) (w : Word) (t : WriteAt) (hp : s.phase = phRun) :
    s.serveWrite .svc (Reg.topScratch n.val) w t = s.wr (Reg.topScratch n.val) w := by
  rw [State.serveWrite, reach_topScratch s n hp]
  exact regWrite_topScratch s .svc n w t

theorem regsOnly_mono {offs offs' : List Nat} {s t : State} (h : regsOnly offs s t) (hs : offs ⊆ offs') : regsOnly offs' s t :=
  fun off ho => h off (fun hm => ho (hs hm))

theorem topScratch_not_logged (n : Fin 4) : Reg.topScratch n.val ∉ logRegs := by revert n; decide

theorem TellsAlike.wr_topScratch (d : Desc) (s : State) (n : Fin 4) (w : Word) : TellsAlike d s (s.wr (Reg.topScratch n.val) w) :=
  .wr d s _ w (by revert n; decide) (by revert n; decide)

/-- What is written to TOP_SCRATCHn stands there while a completion goes out. -/
theorem rd_complete_wr_topScratch (s : State) (n : Fin 4) (w : Word) (d : Desc) (r : Result) :
    ((s.wr (Reg.topScratch n.val) w).complete d r).rd (Reg.topScratch n.val) = w :=
  (((logsOnly.refl _).complete d r).2 _ (topScratch_not_logged n)).trans (s.rd_wr_self _ w)

end Sys2Proof.Machine
end

section
/-! REG_READ, REG_WRITE, forwarded requests and responses: what each command does in the states that the statements speak of. -/

namespace Sys2Proof.Machine

/-! ### REG_READ and REG_WRITE at the member they act at (R155, R156, R178, R181) -/

theorem running_of_runs {s : State} (h : s.runs = true) (f : State → State) : running s f = .next (f s) := by
  simp [running, done, h]

@[simp] theorem atBlock_top (s : State) (d : Desc) : (s.atBlock d).top = s.top := by
  unfold State.atBlock
  split <;> rfl
@[simp] theorem atBlock_regs (s : State) (d : Desc) : (s.atBlock d).regs = s.regs := by
  unfold State.atBlock
  split <;> rfl
@[simp] theorem atBlock_head (s : State) (d : Desc) : (s.atBlock d).head = s.head := congrArg (·.straps.head) (atBlock_top s d)
@[simp] theorem atBlock_me (s : State) (d : Desc) : (s.atBlock d).me = s.me := congrArg (·.straps.id.toNat) (atBlock_top s d)

@[simp] theorem atBlock_phase (s : State) (d : Desc) : (s.atBlock d).phase = s.phase := by
  simp only [State.phase, State.get, State.rd, atBlock_regs]

/-- A descriptor that is due and names this member acts here. -/
theorem atMember_here (s : State) (op : Nat) (d : Desc) (seen act : State → State) (ht : s.takes op d = true)
    (hm : s.head = true → d.member = s.me) : s.atMember op d seen act = act (s.atBlock d) := by
  cases hh : s.head <;> simp [State.atMember, State.taking, ht, hh, hm]

theorem exec_regRead_here (s : State) (d : Desc) (hr : s.runs = true) (hh : s.head = true) (hm : d.member = s.me)
    (ht : s.takes 0x04 d = true) (hb : s.regBehind d = false) : exec (.regRead d) s = .next ((s.atBlock d).regReadHere d) := by
  change execRegRead d s = _
  rw [execRegRead, running_of_runs hr]
  simp [State.cond, hh, hb, atMember_here s 0x04 d _ _ ht (fun _ => hm)]

theorem exec_regWrite_here (s : State) (d : Desc) (ns cycle : Nat) (near : Bool) (flips : List (Nat × Bool)) (hr : s.runs = true)
    (hh : s.head = true) (hm : d.member = s.me) (ht : s.takes 0x05 d = true) (hb : s.regBehind d = false) :
    exec (.regWrite d ns cycle near flips) s = .next ((s.atBlock d).regWriteHere d ⟨ns, cycle, near, flips⟩) := by
  change execRegWrite d ns cycle near flips s = _
  rw [execRegWrite, running_of_runs hr]
  simp [State.cond, hh, hb, atMember_here s 0x05 d _ _ ht (fun _ => hm)]

/-- Whether an offset is held depends on the blocks alone. -/
theorem heldAt_of_top {s t : State} (h : t.top = s.top) (off : Nat) : t.heldAt off = s.heldAt off := by
  simp only [State.heldAt, State.free?, State.blkSt, h]

theorem regReadAt_of_held (s : State) (d : Desc) (i : Nat) (hi : i < d.f 1 16 8) (hheld : s.heldAt (d.f 1 0 16 + 4 * i) = true) :
    s.regReadAt d = ({ status := stPeerReset }, [], s) := by
  have hany : (List.range (d.f 1 16 8)).any (fun i => s.heldAt (d.f 1 0 16 + 4 * i)) = true :=
    List.any_eq_true.mpr ⟨i, List.mem_range.mpr hi, hheld⟩
  simp [State.regReadAt, hany]

theorem regReadAt_of_free (s : State) (d : Desc) (hfree : ∀ i < d.f 1 16 8, s.heldAt (d.f 1 0 16 + 4 * i) = false) :
    s.regReadAt d = ({ status := stOK, r0 := (readRun (d.f 1 16 8) s .svc (d.f 1 0 16)).1.getD 0 0, r1 := BitVec.ofNat 32 (d.f 1 16 8) },
      readRun (d.f 1 16 8) s .svc (d.f 1 0 16)) := by
  have hany : (List.range (d.f 1 16 8)).any (fun i => s.heldAt (d.f 1 0 16 + 4 * i)) = false := by
    simpa using hfree
  simp [State.regReadAt, hany]

/-- A read that touches a held block ends with PEER_RESET, and reads nothing. -/
theorem regReadHere_of_held (s : State) (d : Desc) (i : Nat) (hi : i < d.f 1 16 8) (hheld : s.heldAt (d.f 1 0 16 + 4 * i) = true) :
    s.regReadHere d = if s.head then s.complete d { status := stPeerReset } else s.answer d { status := stPeerReset } [] := by
  simp [State.regReadHere, regReadAt_of_held s d i hi hheld]

/-- At the head a read of free blocks writes its words to host memory and completes with the first of them and their number. -/
theorem regReadHere_of_free (s : State) (d : Desc) (hh : s.head = true) (hn : 0 < d.f 1 16 8)
    (hfree : ∀ i < d.f 1 16 8, s.heldAt (d.f 1 0 16 + 4 * i) = false) :
    s.regReadHere d =
      ((readRun (d.f 1 16 8) s .svc (d.f 1 0 16)).2.post (.data (d.addr 2) (readRun (d.f 1 16 8) s .svc (d.f 1 0 16)).1)).complete d
        { status := stOK, r0 := (readRun (d.f 1 16 8) s .svc (d.f 1 0 16)).1.getD 0 0, r1 := BitVec.ofNat 32 (d.f 1 16 8) } := by
  have hne : (readRun (d.f 1 16 8) s .svc (d.f 1 0 16)).1.isEmpty = false := by
    rw [List.isEmpty_eq_false_iff, ← List.length_pos_iff, readRun_length]
    exact hn
  simp [State.regReadHere, regReadAt_of_free s d hfree, hh, hne]

theorem regWriteAt_of_protected (s : State) (d : Desc) (t : WriteAt) (h : d.writesProtected = true) :
    s.regWriteAt d t = ({ status := stBadDesc, detail := dtProtected }, s) := by
  simp [State.regWriteAt, h]

/-- TOP_SCRATCHn lies in the setup space, in no block that can be held, and is not TOP_BLOCK_RESET. -/
theorem topScratch_place (n : Fin 4) : Reg.topScratch n.val % 0x10000 = Reg.topScratch n.val ∧ blkAt (Reg.topScratch n.val) = none ∧
    Reg.topScratch n.val ≠ Reg.topBlockReset := by
  revert n; decide

/-- A write of one word to TOP_SCRATCHn lands. -/
theorem regWriteAt_topScratch (s : State) (d : Desc) (n : Fin 4) (t : WriteAt) (hp : s.phase = phRun) (hs : s.top.softPending = false)
    (hn : d.f 1 16 3 = 1) (ho : d.f 1 0 16 = Reg.topScratch n.val) :
    s.regWriteAt d t = ({ status := stOK, r1 := 1 }, s.wr (Reg.topScratch n.val) (d.w 2)) := by
  obtain ⟨hmod, hblk, hne⟩ := topScratch_place n
  have hprot : d.writesProtected = false := by simp [Desc.writesProtected, hn, ho, hmod, hne]
  have hheld : s.heldAt (Reg.topScratch n.val) = false := by simp [State.heldAt, hmod, hblk]
  simp [State.regWriteAt, hprot, hn, ho, regWriteN, hheld, hmod, serveWrite_topScratch s n _ t hp, hs]

theorem softDue_of_not_pending {s : State} (h : s.top.softPending = false) : s.softDue = s := by
  simp [State.softDue, State.cond, h]

theorem complete_top (s : State) (d : Desc) (r : Result) : (s.complete d r).top = s.top :=
  congrArg (·.top) ((logsOnly.refl s).complete d r).1

/-- A REG_WRITE that fires no soft reset ends where its words have been served. -/
theorem regWriteHere_of (s : State) (d : Desc) (t : WriteAt) {r : Result} {u : State} (h : s.regWriteAt d t = (r, u))
    (hs : u.top.softPending = false) : s.regWriteHere d t = u.complete d r := by
  rw [State.regWriteHere, h]
  exact softDue_of_not_pending ((congrArg (·.softPending) (complete_top u d r)).trans hs)

/-! ### Requests that another member sends (R155, R659, R774) -/

theorem wake_lnk (s : State) (i : Nat) : (s.wake i).lnk = s.lnk := by
  unfold State.wake State.readyFrom State.cond
  dsimp only
  (repeat' split) <;> rfl

theorem wake_top (s : State) (i : Nat) : (s.wake i).top = s.top := congrArg (·.top) ((logsOnly.refl s).wake i).1
theorem wake_phase (s : State) (i : Nat) : (s.wake i).phase = s.phase :=
  congrArg (fun w => getF w Fld.bootStatPhase.lo Fld.bootStatPhase.width) (((logsOnly.refl s).wake i).2 Reg.bootStat (by decide))

/-- What a member has in hand when a request that carries `d` has woken it. -/
def State.receive (s : State) (d : Desc) : State := (s.wake 1).serve d

theorem receive_top (s : State) (d : Desc) : (s.receive d).top = s.top := wake_top s 1
theorem receive_phase (s : State) (d : Desc) : (s.receive d).phase = s.phase := wake_phase s 1
theorem receive_headId (s : State) (d : Desc) : (s.receive d).lnk.headId = s.lnk.headId := congrArg (·.headId) (wake_lnk s 1)
theorem receive_logsOnly (s : State) (d : Desc) : logsOnly s (s.receive d) := ((logsOnly.refl s).wake 1).serve d

/-- A forwarded REG_READ or REG_WRITE is served by a member whose links run. -/
theorem exec_forwarded_register (s : State) (m : Msg) (ns cycle : Nat) (near : Bool) (flips : List (Nat × Bool)) (hr : s.runs = true)
    (hh : s.head = false) (hl : s.free? .lnk = true) (hk : m.kind = 2) (hc : m.code = 0x04 ∨ m.code = 0x05) :
    exec (.forwardedRequestReceive m ns cycle near flips) s =
      .next (if m.code = 0x04 then (s.receive (descOfMsg m)).regReadHere (descOfMsg m)
        else (s.receive (descOfMsg m)).regWriteHere (descOfMsg m) ⟨ns, cycle, near, flips⟩) := by
  have hh' : (s.wake 1).head = false := (congrArg (·.straps.head) (wake_top s 1)).trans hh
  have hl' : ((s.wake 1).serve (descOfMsg m)).free? .lnk = true := (congrArg (fun t => (t.blk[Blk.lnk.idx]).hold == .free) (wake_top s 1)).trans hl
  change execForwardedRequestReceive m ns cycle near flips s = _
  rw [execForwardedRequestReceive, running_of_runs hr]
  rcases hc with hc | hc <;> simp [hk, hc, hh', hl', State.receive]

/-- A request whose code has no row and asks nothing of this member is only answered. -/
theorem exec_forwarded_unknown (s : State) (src tag : Nat) (ws : List Word) (ns cycle : Nat) (near : Bool) (flips : List (Nat × Bool))
    (hr : s.runs = true) : exec (.forwardedRequestReceive ⟨s.me, src, 2, 0x7F, tag, false, ws⟩ ns cycle near flips) s =
      .next ((s.wake 1).thank ⟨s.me, src, 2, 0x7F, tag, false, ws⟩) := by
  change execForwardedRequestReceive _ ns cycle near flips s = _
  rw [execForwardedRequestReceive, running_of_runs hr]
  rfl

/-! ### Responses (R22, R660, R671) -/

theorem exec_responseReceive_of_none (s : State) (src tag : Nat) (late : Bool) (r : Result) (ws : List Word) (hr : s.runs = true)
    (hq : s.lnk.requests.find? (fun q => q.peer == src && q.tag == tag) = none) :
    exec (.responseReceive src tag late r ws) s = .next (s.incSat Fld.laceEpochStaleDrop) := by
  change execResponseReceive src tag late r ws s = _
  rw [execResponseReceive, running_of_runs hr]
  simp only [hq]

/-- A request that has been answered ends, and its credit returns. -/
def State.endRequest (s : State) (q : Request) (src : Nat) : State := (s.modLnk (fun l => { l with requests := l.requests.erase q })).creditBack src

theorem endRequest_linksOnly (s : State) (q : Request) (src : Nat) : LinksOnly s (s.endRequest q src) := ((LinksOnly.refl s).modLnk _).creditBack src
theorem endRequest_logsOnly (s : State) (q : Request) (src : Nat) : logsOnly s (s.endRequest q src) := ((logsOnly.refl s).modLnk _).creditBack src

theorem exec_responseReceive_of_plain (s : State) (src tag : Nat) (late : Bool) (r : Result) (ws : List Word) (q : Request) (hr : s.runs = true)
    (hq : s.lnk.requests.find? (fun q => q.peer == src && q.tag == tag) = some q) (hd : q.desc = none) :
    exec (.responseReceive src tag late r ws) s = .next (s.endRequest q src) := by
  change execResponseReceive src tag late r ws s = _
  rw [execResponseReceive, running_of_runs hr]
  simp only [hq, hd]
  rfl

theorem exec_responseReceive_of_desc (s : State) (src tag : Nat) (late : Bool) (r : Result) (ws : List Word) (q : Request) (d : Desc)
    (hr : s.runs = true) (hq : s.lnk.requests.find? (fun q => q.peer == src && q.tag == tag) = some q) (hd : q.desc = some d) :
    exec (.responseReceive src tag late r ws) s = .next ((s.endRequest q src).respond d src late r ws) := by
  change execResponseReceive src tag late r ws s = _
  rw [execResponseReceive, running_of_runs hr]
  simp only [hq, hd]
  rfl

/-- With no request to the peer waiting, the credit is free again. -/
theorem endRequest_of_no_queue (s : State) (q : Request) (src : Nat) (h : ∀ m ∈ s.lnk.reqQueue, m.dst ≠ src) :
    s.endRequest q src = (s.modLnk (fun l => { l with requests := l.requests.erase q })).setReqUsed src (s.reqUsed src - 1) := by
  have hnone : s.lnk.reqQueue.find? (·.dst == src) = none := List.find?_eq_none.mpr (by simpa using h)
  simp only [State.endRequest, State.creditBack, State.modLnk, hnone]
  rfl

theorem reqUsed_setReqUsed (s : State) (peer n : Nat) : (s.setReqUsed peer n).reqUsed peer = n := by
  simp [State.setReqUsed, State.reqUsed, State.modLnk]

/-- A response without data to a descriptor of one member completes it with what the response brought. -/
theorem respond_completes (s : State) (d : Desc) (src : Nat) (r : Result) (hop : d.opcode ∉ [0x03, 0x04, 0x28]) (hl : d.laceScoped = false) :
    s.respond d src false r [] = s.complete d r := by
  simp only [List.mem_cons, List.not_mem_nil, or_false, not_or] at hop
  simp [State.respond, State.cond, hop, hl]

theorem get_incSat (s : State) (f : FieldRef) (h : f.lo + f.width ≤ 32) :
    (s.incSat f).get f = min (2 ^ f.width - 1) (s.get f + 1) := by
  have hpos := Nat.two_pow_pos f.width
  rw [State.incSat, s.get_put_self f _ h, satAdd]
  exact Nat.mod_eq_of_lt (by omega)

end Sys2Proof.Machine
end

section
/-! The clauses of O25, and O25. -/

namespace Sys2Proof.Machine

/-- REG_READ of free blocks at the head. -/
theorem regRead_head_answers (s : State) (d : Desc) (hr : s.runs = true) (hh : s.head = true) (hm : d.member = s.me) (hdue : dueHere s 0x04 d)
    (hb : s.regBehind d = false) (hfree : ∀ i < d.f 1 16 8, s.heldAt (d.f 1 0 16 + 4 * i) = false) (hn : 0 < d.f 1 16 8) :
    answers (.regRead d) s fun t =>
      let ws := (readRun (d.f 1 16 8) (s.atBlock d) .svc (d.f 1 0 16)).1
      Out.hostWrite (d.addr 2) ws ∈ t.out ∧ ended s t d { status := stOK, r0 := ws.getD 0 0, r1 := BitVec.ofNat 32 (d.f 1 16 8) } := by
  obtain ⟨htake, htell⟩ := hdue
  have hfree' : ∀ i < d.f 1 16 8, (s.atBlock d).heldAt (d.f 1 0 16 + 4 * i) = false := fun i hi =>
    (heldAt_of_top (atBlock_top s d) _).trans (hfree i hi)
  have hread : TellsAlike d s (readRun (d.f 1 16 8) (s.atBlock d) .svc (d.f 1 0 16)).2 := (TellsAlike.atBlock d s).trans (.readRun d _ _ _ _)
  obtain ⟨-, -, -, hacc, hd3⟩ := hread.tellable_of htell (hread.head.trans hh)
  refine answers_of (exec_regRead_here s d hr hh hm htake hb) ?_
  rw [regReadHere_of_free _ d ((atBlock_head s d).trans hh) hn hfree', post_data_of_accepts _ _ _ hacc hd3]
  exact ⟨(Keeps.complete (.refl _) d _).mem_out List.mem_cons_self, (hread.trans (.emit d _ _)).ended_complete hh htell _⟩

/-- REG_READ of a held block at the head. -/
theorem regRead_head_held (s : State) (d : Desc) (i : Nat) (hr : s.runs = true) (hh : s.head = true) (hm : d.member = s.me)
    (hdue : dueHere s 0x04 d) (hb : s.regBehind d = false) (hi : i < d.f 1 16 8) (hheld : s.heldAt (d.f 1 0 16 + 4 * i) = true) :
    answers (.regRead d) s fun t => ended s t d { status := stPeerReset } ∧ logsOnly s t := by
  refine answers_of (exec_regRead_here s d hr hh hm hdue.1 hb) ?_
  rw [regReadHere_of_held _ d i hi ((heldAt_of_top (atBlock_top s d) _).trans hheld), if_pos ((atBlock_head s d).trans hh)]
  exact ⟨(TellsAlike.atBlock d s).ended_complete hh hdue.2 _, ((logsOnly.refl s).atBlock d).complete d _⟩

/-- REG_WRITE of TOP_SCRATCHn at the head. -/
theorem regWrite_head_scratch (s : State) (d : Desc) (n : Fin 4) (ns cyc : Nat) (near : Bool) (fl : List (Nat × Bool)) (hr : s.runs = true)
    (hh : s.head = true) (hm : d.member = s.me) (hdue : dueHere s 0x05 d) (hb : s.regBehind d = false) (hs : s.top.softPending = false)
    (hn : d.f 1 16 3 = 1) (ho : d.f 1 0 16 = Reg.topScratch n.val) : answers (.regWrite d ns cyc near fl) s fun t =>
      t.rd (Reg.topScratch n.val) = d.w 2 ∧ ended s t d { status := stOK, r1 := 1 } ∧ regsOnly (Reg.topScratch n.val :: logRegs) s t := by
  have hsoft : (s.atBlock d).top.softPending = false := (congrArg (·.softPending) (atBlock_top s d)).trans hs
  have hserved := regWriteAt_topScratch (s.atBlock d) d n ⟨ns, cyc, near, fl⟩ ((atBlock_phase s d).trans (phase_of_runs hr)) hsoft hn ho
  have hlog : logRegs ⊆ Reg.topScratch n.val :: logRegs := List.subset_cons_self _ _
  refine answers_of (exec_regWrite_here s d ns cyc near fl hr hh hm hdue.1 hb) ?_
  rw [regWriteHere_of _ d _ hserved hsoft]
  refine ⟨rd_complete_wr_topScratch _ n _ d _, ?_, ?_⟩
  · exact ((TellsAlike.atBlock d s).trans (.wr_topScratch d _ n _)).ended_complete hh hdue.2 _
  · exact regsOnly_trans (regsOnly_mono ((logsOnly.refl s).atBlock d).2 hlog)
      (regsOnly_trans (regsOnly_wr _ _ _ List.mem_cons_self) (regsOnly_mono ((logsOnly.refl _).complete d _).2 hlog))

/-- REG_WRITE at the head that would hold HIF or LNK. -/
theorem regWrite_head_protected (s : State) (d : Desc) (ns cyc : Nat) (near : Bool) (fl : List (Nat × Bool)) (hr : s.runs = true)
    (hh : s.head = true) (hm : d.member = s.me) (hdue : dueHere s 0x05 d) (hb : s.regBehind d = false) (hs : s.top.softPending = false)
    (hp : d.writesProtected = true) :
    answers (.regWrite d ns cyc near fl) s fun t => ended s t d { status := stBadDesc, detail := dtProtected } ∧ logsOnly s t := by
  have hsoft : (s.atBlock d).top.softPending = false := (congrArg (·.softPending) (atBlock_top s d)).trans hs
  refine answers_of (exec_regWrite_here s d ns cyc near fl hr hh hm hdue.1 hb) ?_
  rw [regWriteHere_of _ d _ (regWriteAt_of_protected _ d _ hp) hsoft]
  exact ⟨(TellsAlike.atBlock d s).ended_complete hh hdue.2 _, ((logsOnly.refl s).atBlock d).complete d _⟩

/-- A forwarded REG_READ of a held block. -/
theorem forwardedRead_held (s : State) (d : Desc) (i src ns cyc : Nat) (near : Bool) (fl : List (Nat × Bool)) (hr : s.runs = true)
    (hh : s.head = false) (hl : s.free? .lnk = true) (hd : d = descOfMsg ⟨s.me, src, 2, 0x04, 0, false, d.words⟩) (hi : i < d.f 1 16 8)
    (hheld : s.heldAt (d.f 1 0 16 + 4 * i) = true) :
    answers (.forwardedRequestReceive ⟨s.me, src, 2, 0x04, 0, false, d.words⟩ ns cyc near fl) s fun t =>
      ended s t d { status := stPeerReset } ∧ logsOnly s t := by
  have hhead : (s.receive d).head = false := (congrArg (·.straps.head) (receive_top s d)).trans hh
  refine answers_of (exec_forwarded_register s _ ns cyc near fl hr hh hl rfl (.inl rfl)) ?_
  rw [← hd, if_pos rfl, regReadHere_of_held _ d i hi ((heldAt_of_top (receive_top s d) _).trans hheld), if_neg (by simp [hhead])]
  exact ⟨ended_answer hh (congrArg (·.straps) (receive_top s d)) (receive_headId s d) d _, (receive_logsOnly s d).answer d _ _⟩

/-- A forwarded REG_WRITE of TOP_SCRATCHn. -/
theorem forwardedWrite_scratch (s : State) (d : Desc) (n : Fin 4) (src ns cyc : Nat) (near : Bool) (fl : List (Nat × Bool))
    (hr : s.runs = true) (hh : s.head = false) (hl : s.free? .lnk = true) (hd : d = descOfMsg ⟨s.me, src, 2, 0x05, 0, false, d.words⟩)
    (hs : s.top.softPending = false) (hn : d.f 1 16 3 = 1) (ho : d.f 1 0 16 = Reg.topScratch n.val) :
    answers (.forwardedRequestReceive ⟨s.me, src, 2, 0x05, 0, false, d.words⟩ ns cyc near fl) s fun t =>
      t.rd (Reg.topScratch n.val) = d.w 2 ∧ ended s t d { status := stOK, r1 := 1 } := by
  have htop := receive_top s d
  have hsoft : (s.receive d).top.softPending = false := (congrArg (·.softPending) htop).trans hs
  have hserved := regWriteAt_topScratch (s.receive d) d n ⟨ns, cyc, near, fl⟩ ((receive_phase s d).trans (phase_of_runs hr)) hsoft hn ho
  have hhead : ((s.receive d).wr (Reg.topScratch n.val) (d.w 2)).head = false := (congrArg (·.straps.head) htop).trans hh
  refine answers_of (exec_forwarded_register s _ ns cyc near fl hr hh hl rfl (.inr rfl)) ?_
  rw [← hd, if_neg (show ¬(0x05 = 0x04) by decide), regWriteHere_of _ d _ hserved hsoft]
  refine ⟨rd_complete_wr_topScratch _ n _ d _, ?_⟩
  rw [complete_member _ d _ hhead]
  exact ended_answer (t := ((s.receive d).wr (Reg.topScratch n.val) (d.w 2)).dropRegion d) hh (congrArg (·.straps) htop) (receive_headId s d) d _

/-- A request without a row of its own. -/
theorem forwardedUnknown_thanked (s : State) (src tag : Nat) (ws : List Word) (ns cyc : Nat) (near : Bool) (fl : List (Nat × Bool))
    (hr : s.runs = true) : answers (.forwardedRequestReceive ⟨s.me, src, 2, 0x7F, tag, false, ws⟩ ns cyc near fl) s fun t =>
      Out.msg { dst := src, src := s.me, kind := 3, code := msgCompletion, tag := tag, words := [] } ∈ t.out ∧ logsOnly s t := by
  have hme : (s.wake 1).me = s.me := congrArg (·.straps.id.toNat) (wake_top s 1)
  refine answers_of (exec_forwarded_unknown s src tag ws ns cyc near fl hr) ⟨?_, ((logsOnly.refl s).wake 1).sendMsg _⟩
  rw [← hme]
  exact mem_out_sendMsg _ _

/-- The response to a request that carries no descriptor. -/
theorem response_ends_request (s : State) (src tag : Nat) (late : Bool) (r : Result) (ws : List Word) (q : Request) (hr : s.runs = true)
    (hq : s.lnk.requests.find? (fun q => q.peer == src && q.tag == tag) = some q) (hd : q.desc = none)
    (hw : ∀ m ∈ s.lnk.reqQueue, m.dst ≠ src) : answers (.responseReceive src tag late r ws) s fun t =>
      t.lnk.requests = s.lnk.requests.erase q ∧ t.reqUsed src = s.reqUsed src - 1 ∧ { t with lnk := s.lnk } = s := by
  refine answers_of (exec_responseReceive_of_plain s src tag late r ws q hr hq hd) ?_
  rw [endRequest_of_no_queue s q src hw]
  exact ⟨rfl, reqUsed_setReqUsed _ _ _, rfl⟩

/-- The response to a request that carries a descriptor of one member. -/
theorem response_completes_descriptor (s : State) (src tag : Nat) (r : Result) (q : Request) (d : Desc) (hr : s.runs = true)
    (hh : s.head = true) (hq : s.lnk.requests.find? (fun q => q.peer == src && q.tag == tag) = some q) (hd : q.desc = some d)
    (ht : tellable s d) (hop : d.opcode ∉ [0x03, 0x04, 0x28]) (hl : d.laceScoped = false) :
    answers (.responseReceive src tag false r []) s fun t => ended s t d r ∧ logsOnly s t := by
  refine answers_of (exec_responseReceive_of_desc s src tag false r [] q d hr hq hd) ?_
  rw [respond_completes _ d src r hop hl]
  exact ⟨((endRequest_linksOnly s q src).tellsAlike d).ended_complete hh ht r, (endRequest_logsOnly s q src).complete d r⟩

/-- A response to no request. -/
theorem response_to_none_counted (s : State) (src tag : Nat) (late : Bool) (r : Result) (ws : List Word) (hr : s.runs = true)
    (hq : ∀ q ∈ s.lnk.requests, ¬(q.peer = src ∧ q.tag = tag)) : answers (.responseReceive src tag late r ws) s fun t =>
      t.get Fld.laceEpochStaleDrop = min (2 ^ Fld.laceEpochStaleDrop.width - 1) (s.get Fld.laceEpochStaleDrop + 1) ∧
        onlyFields [Fld.laceEpochStaleDrop] s t := by
  have hnone : s.lnk.requests.find? (fun q => q.peer == src && q.tag == tag) = none :=
    List.find?_eq_none.mpr fun q hm => by simpa using hq q hm
  exact answers_of (exec_responseReceive_of_none s src tag late r ws hr hnone)
    ⟨get_incSat s _ (by decide), onlyFields_put s _ _ List.mem_cons_self⟩

/-- Settles O25: each clause is one of the lemmas above. A REG_READ or REG_WRITE reaches its block and is served there; its completion tells
what it would have told before, since the accesses leave every register that a completion reads; and a response reaches the completion
through the links, which leave those registers too. -/
theorem registersAreReadAndWrittenByDescriptor : Obligations.RegistersAreReadAndWrittenByDescriptor := by
  unfold Obligations.RegistersAreReadAndWrittenByDescriptor
  refine ⟨regRead_head_answers, regRead_head_held, regWrite_head_scratch, regWrite_head_protected, ?_, ?_, forwardedUnknown_thanked,
    response_ends_request, response_completes_descriptor, response_to_none_counted⟩
  · exact fun s d i src ns cyc near fl hr hh hl hd hi hheld _ => forwardedRead_held s d i src ns cyc near fl hr hh hl hd hi hheld
  · exact fun s d n src ns cyc near fl hr hh hl hd hs hn ho _ => forwardedWrite_scratch s d n src ns cyc near fl hr hh hl hd hs hn ho

end Sys2Proof.Machine
end

section
/-! What the board does and what it leaves to the device: the commands that are its events, and that every other command keeps what it holds. -/

namespace Sys2Proof.Machine

/-- The events of the board: of the rails, of the reset balls, and of the sampling of the straps. -/
inductive BoardEvent : Instr → Prop
  | railGood (r : Rail) : BoardEvent (.railGood r)
  | railLost (r : Rail) : BoardEvent (.railLost r)
  | powerOnResetRelease (st : Straps) : BoardEvent (.powerOnResetRelease st)
  | resetNAssert (ns : Nat) : BoardEvent (.resetNAssert ns)
  | resetNRelease (st : Straps) (ns : Nat) : BoardEvent (.resetNRelease st ns)
  | perstNAssert : BoardEvent .perstNAssert
  | perstNRelease : BoardEvent .perstNRelease
  | d4Wake (st : Straps) : BoardEvent (.d4Wake st)

/-- Every command is an event of the board or keeps what `Keeps` says. -/
theorem boardEvent_or_keeps (c : Instr) (s : State) : BoardEvent c ∨ KeepsOut s (exec c s) :=
  match c with
  | .railGood _ => .inl (.railGood ..)
  | .railLost _ => .inl (.railLost ..)
  | .powerOnResetRelease _ => .inl (.powerOnResetRelease ..)
  | .radioRailWaitTimeout _ => .inr (Keeps.execRadioRailWaitTimeout _ s)
  | .resetNAssert _ => .inl (.resetNAssert ..)
  | .resetNRelease _ _ => .inl (.resetNRelease ..)
  | .refDetectWindowEnd => .inr (Keeps.execRefDetectWindowEnd s)
  | .refclkDetected => .inr (Keeps.execRefclkDetected s)
  | .crystalStarted => .inr (Keeps.execCrystalStarted s)
  | .adpllLock _ _ => .inr (Keeps.execAdpllLock _ _ s)
  | .adpllLossOfLock _ => .inr (Keeps.execAdpllLossOfLock _ s)
  | .adpllLossOfRef => .inr (Keeps.execAdpllLossOfRef s)
  | .linkTrainingStart => .inr (Keeps.execLinkTrainingStart s)
  | .pcieRetryEnd => .inr (Keeps.execPcieRetryEnd s)
  | .bootStart _ _ _ _ => .inr (Keeps.execBootStart _ _ _ _ s)
  | .bootForceUntested _ _ => .inr (Keeps.execBootForceUntested _ _ s)
  | .bootWindowWrite _ _ _ => .inr (Keeps.execBootWindowWrite _ _ _ s)
  | .imageReadComplete _ _ => .inr (Keeps.execImageReadComplete _ _ s)
  | .busMasterClear => .inr (Keeps.execBusMasterClear s)
  | .topSoftReset _ _ => .inr (Keeps.execTopSoftReset _ _ s)
  | .softResetSilentEnd => .inr (Keeps.execSoftResetSilentEnd s)
  | .softResetDeferredFire => .inr (Keeps.execSoftResetDeferredFire s)
  | .helloSend => .inr (Keeps.execHelloSend s)
  | .helloReceive _ _ _ _ _ _ _ _ => .inr (Keeps.execHelloReceive _ _ _ _ _ _ _ _ s)
  | .pushEnd => .inr (Keeps.execPushEnd s)
  | .answerReceive _ _ _ => .inr (Keeps.execAnswerReceive _ _ _ s)
  | .pushReceive _ _ _ _ => .inr (Keeps.execPushReceive _ _ _ _ s)
  | .epochOneTimeout _ => .inr (Keeps.execEpochOneTimeout _ s)
  | .perstNAssert => .inl (.perstNAssert)
  | .perstNRelease => .inl (.perstNRelease)
  | .functionLevelReset => .inr (Keeps.execFunctionLevelReset s)
  | .pciPmD3hotEnter => .inr (Keeps.execPciPmD3hotEnter s)
  | .pciPmD0Return => .inr (Keeps.execPciPmD0Return s)
  | .registerWrite _ _ _ _ => .inr (Keeps.execRegisterWrite _ _ _ _ s)
  | .bar0OtherRequest => .inr (Keeps.execBar0OtherRequest s)
  | .loHalfRead _ _ _ => .inr (Keeps.execLoHalfRead _ _ _ s)
  | .pairedLoWrite _ _ _ => .inr (Keeps.execPairedLoWrite _ _ _ s)
  | .pairedHiWrite _ _ _ _ _ => .inr (Keeps.execPairedHiWrite _ _ _ _ _ s)
  | .jtagRegacc _ _ _ _ _ => .inr (Keeps.execJtagRegacc _ _ _ _ _ s)
  | .jtagExtest _ _ => .inr (Keeps.execJtagExtest _ _ s)
  | .jtagIdcode => .inr (Keeps.execJtagIdcode s)
  | .jtagSamplePreload _ _ => .inr (Keeps.execJtagSamplePreload _ _ s)
  | .jtagClamp => .inr (Keeps.execJtagClamp s)
  | .jtagHighz => .inr (Keeps.execJtagHighz s)
  | .jtagBypass _ => .inr (Keeps.execJtagBypass _ s)
  | .blockResetHold _ _ => .inr (Keeps.execBlockResetHold _ _ s)
  | .blockResetRelease _ _ => .inr (Keeps.execBlockResetRelease _ _ s)
  | .blockReleaseDone _ => .inr (Keeps.execBlockReleaseDone _ s)
  | .staleReply _ _ => .inr (Keeps.execStaleReply _ _ s)
  | .compat6Write _ _ => .inr (Keeps.execCompat6Write _ _ s)
  | .dbgGo _ _ => .inr (Keeps.execDbgGo _ _ s)
  | .spiRead _ _ _ => .inr (Keeps.execSpiRead _ _ _ s)
  | .spiFastRead _ _ _ => .inr (Keeps.execSpiFastRead _ _ _ s)
  | .spiWrite _ _ _ => .inr (Keeps.execSpiWrite _ _ _ s)
  | .spiStatus _ _ => .inr (Keeps.execSpiStatus _ _ s)
  | .spiWake => .inr (Keeps.execSpiWake s)
  | .spiResetArm _ => .inr (Keeps.execSpiResetArm _ s)
  | .spiResetFire _ => .inr (Keeps.execSpiResetFire _ s)
  | .spiArmExpiry => .inr (Keeps.execSpiArmExpiry s)
  | .spiUnknownCommand _ => .inr (Keeps.execSpiUnknownCommand _ s)
  | .spiShortFrame _ => .inr (Keeps.execSpiShortFrame _ s)
  | .spiNoClockFrame => .inr (Keeps.execSpiNoClockFrame s)
  | .spiD4WakeEdge => .inr (Keeps.execSpiD4WakeEdge s)
  | .hifEngineEnable _ _ _ => .inr (Keeps.execHifEngineEnable _ _ _ s)
  | .hifEngineDisable _ _ => .inr (Keeps.execHifEngineDisable _ _ s)
  | .ringEnable _ _ _ => .inr (Keeps.execRingEnable _ _ _ s)
  | .ringDisable _ _ _ => .inr (Keeps.execRingDisable _ _ _ s)
  | .doorbellArrival _ _ _ => .inr (Keeps.execDoorbellArrival _ _ _ s)
  | .doorbellTake _ => .inr (Keeps.execDoorbellTake _ s)
  | .descriptorFetchComplete _ => .inr (Keeps.execDescriptorFetchComplete _ s)
  | .descriptorFetchFail => .inr (Keeps.execDescriptorFetchFail s)
  | .descriptorStart _ => .inr (Keeps.execDescriptorStart _ s)
  | .nop _ => .inr (Keeps.execNop _ s)
  | .fence _ => .inr (Keeps.execFence _ s)
  | .cancel _ => .inr (Keeps.execCancel _ s)
  | .cancelArrival _ _ => .inr (Keeps.execCancelArrival _ _ s)
  | .regRead _ => .inr (Keeps.execRegRead _ s)
  | .regWrite _ _ _ _ _ => .inr (Keeps.execRegWrite _ _ _ _ _ s)
  | .forwardedRequestReceive _ _ _ _ _ => .inr (Keeps.execForwardedRequestReceive _ _ _ _ _ s)
  | .responseReceive _ _ _ _ _ => .inr (Keeps.execResponseReceive _ _ _ _ _ s)
  | .updateRegionRun _ => .inr (Keeps.execUpdateRegionRun _ s)
  | .regionDataReadComplete _ _ => .inr (Keeps.execRegionDataReadComplete _ _ s)
  | .updateBeamWeights _ => .inr (Keeps.execUpdateBeamWeights _ s)
  | .updateOwnershipMap _ => .inr (Keeps.execUpdateOwnershipMap _ s)
  | .updateAfList _ => .inr (Keeps.execUpdateAfList _ s)
  | .updateRecallList _ => .inr (Keeps.execUpdateRecallList _ s)
  | .updateSpdoTemplate _ => .inr (Keeps.execUpdateSpdoTemplate _ s)
  | .updateTagPlan _ => .inr (Keeps.execUpdateTagPlan _ s)
  | .updateRoster _ => .inr (Keeps.execUpdateRoster _ s)
  | .updatePipTable _ => .inr (Keeps.execUpdatePipTable _ s)
  | .snapshot _ _ _ => .inr (Keeps.execSnapshot _ _ _ s)
  | .restore _ _ => .inr (Keeps.execRestore _ _ s)
  | .overloadPost _ => .inr (Keeps.execOverloadPost _ s)
  | .captureDropReport _ => .inr (Keeps.execCaptureDropReport _ s)
  | .msixSend _ => .inr (Keeps.execMsixSend _ s)
  | .hostWriteResume _ => .inr (Keeps.execHostWriteResume _ s)
  | .pipEdgeQuad _ _ _ _ => .inr (Keeps.execPipEdgeQuad _ _ _ _ s)
  | .pipEdgePulse _ _ _ => .inr (Keeps.execPipEdgePulse _ _ _ s)
  | .pipEdgeDab _ _ => .inr (Keeps.execPipEdgeDab _ _ s)
  | .pipEdgeRds _ _ => .inr (Keeps.execPipEdgeRds _ _ s)
  | .pipCountHostWrite _ _ _ _ => .inr (Keeps.execPipCountHostWrite _ _ _ _ s)
  | .pipHoming _ => .inr (Keeps.execPipHoming _ s)
  | .pipZArm _ _ => .inr (Keeps.execPipZArm _ _ s)
  | .pipSrcWrite _ _ => .inr (Keeps.execPipSrcWrite _ _ s)
  | .pipQualInstant _ => .inr (Keeps.execPipQualInstant _ s)
  | .pipWinOpen _ _ => .inr (Keeps.execPipWinOpen _ _ s)
  | .pipWinClose _ _ => .inr (Keeps.execPipWinClose _ _ s)
  | .pipBeacon _ _ _ => .inr (Keeps.execPipBeacon _ _ _ s)
  | .pipAudioStart _ _ _ => .inr (Keeps.execPipAudioStart _ _ _ s)
  | .pipCaptureStart _ _ => .inr (Keeps.execPipCaptureStart _ _ s)
  | .pipCalSlot _ _ => .inr (Keeps.execPipCalSlot _ _ s)
  | .calSlotEnd => .inr (Keeps.execCalSlotEnd s)
  | .pipGpioSet _ _ => .inr (Keeps.execPipGpioSet _ _ s)
  | .pipGpioClear _ _ => .inr (Keeps.execPipGpioClear _ _ s)
  | .pipPostRecord _ _ => .inr (Keeps.execPipPostRecord _ _ s)
  | .pipEventArm _ => .inr (Keeps.execPipEventArm _ s)
  | .pipEventDisarm _ => .inr (Keeps.execPipEventDisarm _ s)
  | .pipBeaconSend _ _ => .inr (Keeps.execPipBeaconSend _ _ s)
  | .pipBeaconReceive _ _ _ => .inr (Keeps.execPipBeaconReceive _ _ _ s)
  | .pipNoticeReceive _ _ _ _ _ _ _ => .inr (Keeps.execPipNoticeReceive _ _ _ _ _ _ _ s)
  | .pipLockLoss => .inr (Keeps.execPipLockLoss s)
  | .pipStopped => .inr (Keeps.execPipStopped s)
  | .refSelectWrite _ _ => .inr (Keeps.execRefSelectWrite _ _ s)
  | .audioExtLost => .inr (Keeps.execAudioExtLost s)
  | .audioHoldoverExit => .inr (Keeps.execAudioHoldoverExit s)
  | .audioFamilyChange _ _ => .inr (Keeps.execAudioFamilyChange _ _ s)
  | .audioSrcChange _ _ => .inr (Keeps.execAudioSrcChange _ _ s)
  | .syncFire _ _ => .inr (Keeps.execSyncFire _ _ s)
  | .syncArmReceive _ _ => .inr (Keeps.execSyncArmReceive _ _ s)
  | .syncPulseDrive _ => .inr (Keeps.execSyncPulseDrive _ s)
  | .syncPulseSample _ => .inr (Keeps.execSyncPulseSample _ s)
  | .syncEffect _ _ _ => .inr (Keeps.execSyncEffect _ _ _ s)
  | .syncArmExpiry => .inr (Keeps.execSyncArmExpiry s)
  | .syncDoneReceive _ => .inr (Keeps.execSyncDoneReceive _ s)
  | .syncFireTimeout => .inr (Keeps.execSyncFireTimeout s)
  | .loTargetWrite _ _ _ => .inr (Keeps.execLoTargetWrite _ _ _ s)
  | .loTuneWrite _ _ _ => .inr (Keeps.execLoTuneWrite _ _ _ s)
  | .loCalInvalidate _ _ _ => .inr (Keeps.execLoCalInvalidate _ _ _ s)
  | .tune _ => .inr (Keeps.execTune _ s)
  | .radioState _ => .inr (Keeps.execRadioState _ s)
  | .synthStepDone _ _ => .inr (Keeps.execSynthStepDone _ _ s)
  | .synthLockTimeout _ => .inr (Keeps.execSynthLockTimeout _ s)
  | .txGrant => .inr (Keeps.execTxGrant s)
  | .paEnRise => .inr (Keeps.execPaEnRise s)
  | .txRampUpStart => .inr (Keeps.execTxRampUpStart s)
  | .txFullPower => .inr (Keeps.execTxFullPower s)
  | .txLastSymbol => .inr (Keeps.execTxLastSymbol s)
  | .txRampDownEnd => .inr (Keeps.execTxRampDownEnd s)
  | .paEnFall => .inr (Keeps.execPaEnFall s)
  | .blankingEnd _ => .inr (Keeps.execBlankingEnd _ s)
  | .tileBoundary _ _ _ => .inr (Keeps.execTileBoundary _ _ _ s)
  | .adcClip _ _ => .inr (Keeps.execAdcClip _ _ s)
  | .agcAttack _ => .inr (Keeps.execAgcAttack _ s)
  | .tileWriteDone _ _ _ => .inr (Keeps.execTileWriteDone _ _ _ s)
  | .sentinelFreeze _ _ => .inr (Keeps.execSentinelFreeze _ _ s)
  | .sentinelRelease _ => .inr (Keeps.execSentinelRelease _ s)
  | .freezeMaxExpiry _ => .inr (Keeps.execFreezeMaxExpiry _ s)
  | .overloadEpisodeEnd => .inr (Keeps.execOverloadEpisodeEnd s)
  | .overloadOngoing => .inr (Keeps.execOverloadOngoing s)
  | .captureStart _ => .inr (Keeps.execCaptureStart _ s)
  | .captureStop _ => .inr (Keeps.execCaptureStop _ s)
  | .captureTileWrite _ _ _ => .inr (Keeps.execCaptureTileWrite _ _ _ s)
  | .calRun _ => .inr (Keeps.execCalRun _ s)
  | .calRoundStart _ _ _ => .inr (Keeps.execCalRoundStart _ _ _ s)
  | .calSumsReceive _ _ => .inr (Keeps.execCalSumsReceive _ _ s)
  | .calValuesReceive _ => .inr (Keeps.execCalValuesReceive _ s)
  | .calCoeffWrite _ _ _ _ => .inr (Keeps.execCalCoeffWrite _ _ _ _ s)
  | .calRunTimeout _ => .inr (Keeps.execCalRunTimeout _ s)
  | .bcstSelect _ => .inr (Keeps.execBcstSelect _ s)
  | .bcstSelectTimeout _ => .inr (Keeps.execBcstSelectTimeout _ s)
  | .bcstFollow _ => .inr (Keeps.execBcstFollow _ s)
  | .datacastSubscribe _ => .inr (Keeps.execDatacastSubscribe _ s)
  | .fmAudioReady _ => .inr (Keeps.execFmAudioReady _ s)
  | .rdsBlock _ _ _ _ _ => .inr (Keeps.execRdsBlock _ _ _ _ _ s)
  | .dabNullSymbol _ => .inr (Keeps.execDabNullSymbol _ s)
  | .dabFrame _ _ _ _ _ => .inr (Keeps.execDabFrame _ _ _ _ _ s)
  | .dabReconfig _ _ _ => .inr (Keeps.execDabReconfig _ _ _ s)
  | .dabAudioReady _ => .inr (Keeps.execDabAudioReady _ s)
  | .announcementTimeout _ => .inr (Keeps.execAnnouncementTimeout _ s)
  | .followEvaluate => .inr (Keeps.execFollowEvaluate s)
  | .switchConfirmTimeout _ => .inr (Keeps.execSwitchConfirmTimeout _ s)
  | .afBarExpiry _ _ _ => .inr (Keeps.execAfBarExpiry _ _ _ s)
  | .dabProbe _ _ _ _ => .inr (Keeps.execDabProbe _ _ _ _ s)
  | .dabProbeEnd _ => .inr (Keeps.execDabProbeEnd _ s)
  | .bcstMeterUpdate _ => .inr (Keeps.execBcstMeterUpdate _ s)
  | .datacastUnit _ _ => .inr (Keeps.execDatacastUnit _ _ s)
  | .audioRoute _ => .inr (Keeps.execAudioRoute _ s)
  | .audioRouteRampStart _ => .inr (Keeps.execAudioRouteRampStart _ s)
  | .audioFrameBoundary _ => .inr (Keeps.execAudioFrameBoundary _ s)
  | .sapCtlWrite _ _ _ => .inr (Keeps.execSapCtlWrite _ _ _ s)
  | .audioUnderrun _ => .inr (Keeps.execAudioUnderrun _ s)
  | .audioOverrun _ => .inr (Keeps.execAudioOverrun _ s)
  | .audioResume _ => .inr (Keeps.execAudioResume _ s)
  | .followerClockLost _ _ => .inr (Keeps.execFollowerClockLost _ _ s)
  | .followerClockBack _ => .inr (Keeps.execFollowerClockBack _ s)
  | .spdoBlockStart => .inr (Keeps.execSpdoBlockStart s)
  | .spdoCsLoad _ _ => .inr (Keeps.execSpdoCsLoad _ _ s)
  | .spdiLock _ => .inr (Keeps.execSpdiLock _ s)
  | .spdiLoss => .inr (Keeps.execSpdiLoss s)
  | .spdiNonpcm => .inr (Keeps.execSpdiNonpcm s)
  | .spdiErasure _ => .inr (Keeps.execSpdiErasure _ s)
  | .audStartGo _ _ _ => .inr (Keeps.execAudStartGo _ _ _ s)
  | .audStartBall _ => .inr (Keeps.execAudStartBall _ s)
  | .audStartFrame => .inr (Keeps.execAudStartFrame s)
  | .tagBurst _ _ _ _ _ _ _ => .inr (Keeps.execTagBurst _ _ _ _ _ _ _ s)
  | .candidateReceive _ => .inr (Keeps.execCandidateReceive _ s)
  | .candidateHandle _ _ => .inr (Keeps.execCandidateHandle _ _ s)
  | .ackMacExpiry _ _ _ => .inr (Keeps.execAckMacExpiry _ _ _ s)
  | .tagBeacon _ _ => .inr (Keeps.execTagBeacon _ _ s)
  | .beaconServe => .inr (Keeps.execBeaconServe s)
  | .lbtJudge _ _ => .inr (Keeps.execLbtJudge _ _ s)
  | .lbtRetryWait => .inr (Keeps.execLbtRetryWait s)
  | .implicitWindowOpen _ _ _ => .inr (Keeps.execImplicitWindowOpen _ _ _ s)
  | .implicitWindowClose _ _ _ => .inr (Keeps.execImplicitWindowClose _ _ _ s)
  | .beaconDecision _ _ => .inr (Keeps.execBeaconDecision _ _ s)
  | .beaconRepeat _ => .inr (Keeps.execBeaconRepeat _ s)
  | .dutyWindowTick => .inr (Keeps.execDutyWindowTick s)
  | .tagListen _ => .inr (Keeps.execTagListen _ s)
  | .tagListenClose _ => .inr (Keeps.execTagListenClose _ s)
  | .tagListenDurationEnd _ => .inr (Keeps.execTagListenDurationEnd _ s)
  | .refreshDue => .inr (Keeps.execRefreshDue s)
  | .refreshCommand => .inr (Keeps.execRefreshCommand s)
  | .storeGrant _ _ _ => .inr (Keeps.execStoreGrant _ _ _ s)
  | .scrubWriteBack _ _ => .inr (Keeps.execScrubWriteBack _ _ s)
  | .stitchEnd _ => .inr (Keeps.execStitchEnd _ s)
  | .holdCutoff _ => .inr (Keeps.execHoldCutoff _ s)
  | .scrubPassEnd _ => .inr (Keeps.execScrubPassEnd _ s)
  | .bankCopyDone => .inr (Keeps.execBankCopyDone s)
  | .linkTrainingDone _ _ _ _ _ _ _ _ => .inr (Keeps.execLinkTrainingDone _ _ _ _ _ _ _ _ s)
  | .linkGiveUp _ => .inr (Keeps.execLinkGiveUp _ s)
  | .laneLockLoss _ _ _ => .inr (Keeps.execLaneLockLoss _ _ _ s)
  | .fastRetrainEnd _ _ _ => .inr (Keeps.execFastRetrainEnd _ _ _ s)
  | .distBlock _ _ _ _ _ => .inr (Keeps.execDistBlock _ _ _ _ _ s)
  | .bootTreeMessage _ _ _ => .inr (Keeps.execBootTreeMessage _ _ _ s)
  | .flitReceive _ _ _ => .inr (Keeps.execFlitReceive _ _ _ s)
  | .ackBlock _ _ => .inr (Keeps.execAckBlock _ _ s)
  | .nakBlock _ _ => .inr (Keeps.execNakBlock _ _ s)
  | .replayTimeout _ => .inr (Keeps.execReplayTimeout _ s)
  | .ackSend _ => .inr (Keeps.execAckSend _ s)
  | .flowBlock _ _ _ _ _ => .inr (Keeps.execFlowBlock _ _ _ _ _ s)
  | .laneChkSend _ _ => .inr (Keeps.execLaneChkSend _ _ s)
  | .linkDownDetect _ => .inr (Keeps.execLinkDownDetect _ s)
  | .breakBlock _ _ _ _ _ _ _ => .inr (Keeps.execBreakBlock _ _ _ _ _ _ _ s)
  | .requestBreakTimeout _ => .inr (Keeps.execRequestBreakTimeout _ s)
  | .sleepBlock _ _ => .inr (Keeps.execSleepBlock _ _ s)
  | .laceForm _ _ => .inr (Keeps.execLaceForm _ _ s)
  | .epochSetReceive _ _ _ _ => .inr (Keeps.execEpochSetReceive _ _ _ _ s)
  | .epochAckReceive _ _ => .inr (Keeps.execEpochAckReceive _ _ s)
  | .epochAckTimeout => .inr (Keeps.execEpochAckTimeout s)
  | .syncReportTimeout => .inr (Keeps.execSyncReportTimeout s)
  | .laceRestStart => .inr (Keeps.execLaceRestStart s)
  | .restReceive => .inr (Keeps.execRestReceive s)
  | .laceRestEnd => .inr (Keeps.execLaceRestEnd s)
  | .resumeReceive => .inr (Keeps.execResumeReceive s)
  | .exchDefine _ _ => .inr (Keeps.execExchDefine _ _ s)
  | .exchStart _ _ _ => .inr (Keeps.execExchStart _ _ _ s)
  | .exchStop _ => .inr (Keeps.execExchStop _ s)
  | .exchPostReceive _ _ => .inr (Keeps.execExchPostReceive _ _ s)
  | .exchConfirmReceive _ _ => .inr (Keeps.execExchConfirmReceive _ _ s)
  | .exchTileSend => .inr (Keeps.execExchTileSend s)
  | .exchTileArrive _ _ _ => .inr (Keeps.execExchTileArrive _ _ _ s)
  | .exchAckReceive _ _ _ _ => .inr (Keeps.execExchAckReceive _ _ _ _ s)
  | .exchNackReceive _ _ _ _ => .inr (Keeps.execExchNackReceive _ _ _ _ s)
  | .exchTileDeadline _ _ _ => .inr (Keeps.execExchTileDeadline _ _ _ s)
  | .exchWindowRelease _ _ => .inr (Keeps.execExchWindowRelease _ _ s)
  | .beamform _ _ => .inr (Keeps.execBeamform _ _ s)
  | .surveyContribution _ _ => .inr (Keeps.execSurveyContribution _ _ s)
  | .addArrival _ _ _ _ => .inr (Keeps.execAddArrival _ _ _ _ s)
  | .accumulatorComplete _ _ => .inr (Keeps.execAccumulatorComplete _ _ s)
  | .surveyQuery _ _ _ _ => .inr (Keeps.execSurveyQuery _ _ _ _ s)
  | .rosterEdit _ _ => .inr (Keeps.execRosterEdit _ _ s)
  | .rosterQuery _ _ => .inr (Keeps.execRosterQuery _ _ s)
  | .keyLoad _ => .inr (Keeps.execKeyLoad _ s)
  | .rosterSizeWrite _ _ => .inr (Keeps.execRosterSizeWrite _ _ s)
  | .noticeSegment _ => .inr (Keeps.execNoticeSegment _ s)
  | .noticeRecallApply => .inr (Keeps.execNoticeRecallApply s)
  | .noticeAbandonTimeout _ => .inr (Keeps.execNoticeAbandonTimeout _ s)
  | .latTolWrite _ _ => .inr (Keeps.execLatTolWrite _ _ s)
  | .powerStateEntry _ => .inr (Keeps.execPowerStateEntry _ s)
  | .powerOwnExit => .inr (Keeps.execPowerOwnExit s)
  | .powerExitComplete => .inr (Keeps.execPowerExitComplete s)
  | .wakeInEdge => .inr (Keeps.execWakeInEdge s)
  | .dwellExpiry => .inr (Keeps.execDwellExpiry s)
  | .d4Entry _ => .inr (Keeps.execD4Entry _ s)
  | .d4Abandon _ => .inr (Keeps.execD4Abandon _ s)
  | .d4Wake _ => .inl (.d4Wake ..)
  | .d4TimerExpiry => .inr (Keeps.execD4TimerExpiry s)
  | .sensorConversion _ _ => .inr (Keeps.execSensorConversion _ _ s)
  | .supplyRange _ => .inr (Keeps.execSupplyRange _ s)
  | .telemetry => .inr (Keeps.execTelemetry s)
  | .faultSuppressWindowEnd _ => .inr (Keeps.execFaultSuppressWindowEnd _ s)
  | .retireMapWrite _ _ _ => .inr (Keeps.execRetireMapWrite _ _ _ s)
  | .pathStuckError _ => .inr (Keeps.execPathStuckError _ s)
  | .pathRetryRestore _ _ => .inr (Keeps.execPathRetryRestore _ _ s)
  | .pathTransientWindow _ => .inr (Keeps.execPathTransientWindow _ s)
  | .strapPullDownOff => .inr (Keeps.execStrapPullDownOff s)
  | .refDetFall => .inr (Keeps.execRefDetFall s)
  | .syncMissedReceive _ => .inr (Keeps.execSyncMissedReceive _ s)
  | .resumeAckReceive _ => .inr (Keeps.execResumeAckReceive _ s)
  | .dabNullSymbolAbsent _ => .inr (Keeps.execDabNullSymbolAbsent _ s)
  | .spdiBlock _ _ => .inr (Keeps.execSpdiBlock _ _ s)
  | .powerEntryComplete => .inr (Keeps.execPowerEntryComplete s)
  | .synthRelockTimeout _ => .inr (Keeps.execSynthRelockTimeout _ s)
  | .restoreBlobReadComplete _ _ => .inr (Keeps.execRestoreBlobReadComplete _ _ s)
  | .rosterImageReadComplete _ _ _ => .inr (Keeps.execRosterImageReadComplete _ _ _ s)
  | .msixTableWrite _ _ => .inr (Keeps.execMsixTableWrite _ _ s)
  | .aspmL1Entry _ => .inr (Keeps.execAspmL1Entry _ s)
  | .aspmL1Exit => .inr (Keeps.execAspmL1Exit s)

/-! ### The straps through the events that do not sample them -/

theorem railGood_keeps_straps {r : Rail} {s t : State} (h : exec (.railGood r) s = .next t) : t.top.straps = s.top.straps := by
  change execRailGood r s = .next t at h
  cases h
  split
  · rfl
  · have hrail : Keeps (s.setRail r true) (s.setRail r true) := .refl _
    exact ((hrail.cond _ _ fun _ k => k.modTop _ rfl).cond _ _ fun _ k => k.railsBack).straps

theorem railLost_keeps_straps {r : Rail} {s t : State} (h : exec (.railLost r) s = .next t) : t.top.straps = s.top.straps := by
  change execRailLost r s = .next t at h
  cases h
  have hrail : Keeps (s.setRail r false) (s.setRail r false) := .refl _
  split
  · rfl
  · split
    · exact (Keeps.ite _ hrail (hrail.hardReset true)).straps
    · exact (hrail.cond _ _ fun _ k => k.radioRailLost _).straps

theorem resetNAssert_keeps_straps {ns : Nat} {s t : State} (h : exec (.resetNAssert ns) s = .next t) : t.top.straps = s.top.straps := by
  change execResetNAssert ns s = .next t at h
  cases h
  split
  · rfl
  · have hlow := (Keeps.refl (s.modEnv fun p => { p with resetLow := true })).draw
    exact (Keeps.ite _ hlow (hlow.hardReset _)).straps

theorem perstNAssert_keeps_straps {s t : State} (h : exec .perstNAssert s = .next t) : t.top.straps = s.top.straps := by
  change execPerstNAssert s = .next t at h
  cases h
  have hlow : Keeps (s.modEnv fun p => { p with perstLow := true }) _ := .refl _
  exact (hlow.cond _ _ fun _ k => k.hifReset.fetchAbort.functionReset.modPcie _).straps

theorem perstNRelease_keeps_straps {s t : State} (h : exec .perstNRelease s = .next t) : t.top.straps = s.top.straps := by
  cases h; rfl

/-! ### The balls through the samplings of the straps -/

theorem powerOnResetRelease_keeps_env {st : Straps} {s t : State} (h : exec (.powerOnResetRelease st) s = .next t) : t.env = s.env := by
  change execPowerOnResetRelease st s = .next t at h
  cases h
  split <;> rfl

theorem d4Wake_keeps_env {st : Straps} {s t : State} (h : exec (.d4Wake st) s = .next t) : t.env = s.env := by
  change execD4Wake st s = .next t at h
  cases h
  unfold State.cond
  split <;> rfl

/-- Settles O6: an event of the board is one of eight commands, each with its lemma above, and every other command keeps both. -/
theorem onlyTheBoardMovesStrapsAndRails : Obligations.OnlyTheBoardMovesStrapsAndRails := by
  unfold Obligations.OnlyTheBoardMovesStrapsAndRails
  intro c s t h
  rcases boardEvent_or_keeps c s with hb | hk
  · cases hb with
    | railGood r => exact ⟨fun _ _ _ => railGood_keeps_straps h, fun hn _ _ _ _ _ => absurd rfl (hn r)⟩
    | railLost r => exact ⟨fun _ _ _ => railLost_keeps_straps h, fun _ hn _ _ _ _ => absurd rfl (hn r)⟩
    | powerOnResetRelease st => exact ⟨fun hn _ _ => absurd rfl (hn st), fun _ _ _ _ _ _ => powerOnResetRelease_keeps_env h⟩
    | resetNAssert ns => exact ⟨fun _ _ _ => resetNAssert_keeps_straps h, fun _ _ hn _ _ _ => absurd rfl (hn ns)⟩
    | resetNRelease st ns => exact ⟨fun _ hn _ => absurd rfl (hn st ns), fun _ _ _ hn _ _ => absurd rfl (hn st ns)⟩
    | perstNAssert => exact ⟨fun _ _ _ => perstNAssert_keeps_straps h, fun _ _ _ _ hn _ => absurd rfl hn⟩
    | perstNRelease => exact ⟨fun _ _ _ => perstNRelease_keeps_straps h, fun _ _ _ _ _ hn => absurd rfl hn⟩
    | d4Wake st => exact ⟨fun _ _ hn => absurd rfl (hn st), fun _ _ _ _ _ _ => d4Wake_keeps_env h⟩
  · have kept := hk t h
    exact ⟨fun _ _ _ => kept.straps, fun _ _ _ _ _ _ => kept.env⟩

end Sys2Proof.Machine
end

section
/-! The state right after reset. -/

namespace Sys2Proof.Machine

/-- A register whose reset value is not 0 is an entry of the map with such a value, at one of its offsets (Tables 5.7 to 5.14). -/
theorem resetWord_ne_zero {off : Nat} (h : resetWord off ≠ 0) :
    ∃ r ∈ regTable, BitVec.ofNat 32 r.reset ≠ 0 ∧ ∃ k < r.count, r.base + r.stride * k = off := by
  unfold resetWord at h
  cases hr : regRow off with
  | none => simp [hr] at h
  | some r =>
    have hat := List.find?_some hr
    simp only [List.any_eq_true, List.mem_range, beq_iff_eq] at hat
    exact ⟨r, List.mem_of_find?_eq_some hr, by simpa [hr] using h, hat⟩

/-- The offsets of the registers whose reset value is not 0. -/
def nonzeroResets : List Nat :=
  [0x0000, 0x0004, 0x100C, 0x3004, 0x4054, 0x4814, 0x500C, 0x7040, 0x7044, 0x7048, 0x704C, 0x7050, 0x7054, 0x7058, 0x705C, 0xF000]

theorem regTable_nonzeroResets :
    ∀ r ∈ regTable, BitVec.ofNat 32 r.reset ≠ 0 → ∀ k < r.count, r.base + r.stride * k ∈ nonzeroResets := by decide +kernel

theorem mem_nonzeroResets {off : Nat} (h : resetWord off ≠ 0) : off ∈ nonzeroResets := by
  obtain ⟨r, hr, hne, k, hk, rfl⟩ := resetWord_ne_zero h
  exact regTable_nonzeroResets r hr hne k hk

/-- Settles O7: an empty register file and an empty store read as reset values and blank words, and the rest is read off `State.reset`. -/
theorem resetLeavesTheStatedState : Obligations.ResetLeavesTheStatedState := by
  unfold Obligations.ResetLeavesTheStatedState
  refine ⟨by decide, by decide, by decide, by decide, by decide, by decide, by decide, by decide, by decide, ?_, by decide, by decide, by decide, by decide,
    by decide, by decide, by decide, by decide, fun a => rfl, by decide, rfl, rfl, rfl, rfl⟩
  exact fun off h => mem_nonzeroResets h

end Sys2Proof.Machine
end

section
/-! A descriptor that is due at its block: that it acts, when its end is told, and what the states on the way to its end have in common. -/

namespace Sys2Proof.Machine

/-! ### What a completion or an answer tells -/

/-- The device ends `d` in `t` as in `s`: the head by a completion that tells the same, another member by an answer to the same head. -/
structure EndsAlike (d : Desc) (s t : State) : Prop extends TellsAlike d s t where
  headId : t.lnk.headId = s.lnk.headId

namespace EndsAlike

variable {d : Desc} {a s : State}

theorem refl (d : Desc) (s : State) : EndsAlike d s s := ⟨.refl d s, rfl⟩
theorem trans {t : State} (h : EndsAlike d a s) (k : EndsAlike d s t) : EndsAlike d a t := ⟨h.toTellsAlike.trans k.toTellsAlike, k.headId.trans h.headId⟩

theorem modPip (h : EndsAlike d a s) (f : Pip → Pip) : EndsAlike d a (s.modPip f) :=
  h.trans ⟨⟨rfl, rfl, rfl, rfl, rfl, rfl, rfl, fun _ _ => rfl⟩, rfl⟩
theorem modRadio (h : EndsAlike d a s) (f : Radio → Radio) : EndsAlike d a (s.modRadio f) :=
  h.trans ⟨⟨rfl, rfl, rfl, rfl, rfl, rfl, rfl, fun _ _ => rfl⟩, rfl⟩
theorem atBlock (h : EndsAlike d a s) : EndsAlike d a (s.atBlock d) := by
  refine h.trans ⟨.atBlock d s, ?_⟩
  unfold State.atBlock
  split <;> rfl
/-- The commit point is noted on the descriptor; whether its completion is owed stays. -/
theorem commit (h : EndsAlike d a s) : EndsAlike d a (s.commit d) := by
  unfold State.commit
  split
  · exact h.trans ⟨.modStarted d s d _ (fun _ => ⟨rfl, rfl, rfl⟩), rfl⟩
  · exact h.trans ⟨.modLnk d s _, rfl⟩

/-- The descriptor ends with the result that it is completed with. -/
theorem ended {t : State} (h : EndsAlike d s t) (ht : tellable s d) (r : Result) : ended s (t.complete d r) d r := by
  cases hh : s.head with
  | true => exact h.toTellsAlike.ended_complete hh ht r
  | false =>
    rw [complete_member t d r (h.head.trans hh)]
    exact ended_answer (t := t.dropRegion d) hh h.straps h.headId d r

end EndsAlike

/-! ### The row of an opcode of member scope -/

theorem needBlk_of_free {s : State} {b : Blk} (h : s.free? b = true) (d : Desc) (act : State → State) : s.needBlk b d act = act s := if_pos h
theorem needBlk_of_held {s : State} {b : Blk} (h : s.free? b = false) (d : Desc) (act : State → State) :
    s.needBlk b d act = s.finish d stPeerReset := if_neg (by simp [h])

@[simp] theorem atBlock_free? (s : State) (d : Desc) (b : Blk) : (s.atBlock d).free? b = s.free? b :=
  congrArg (fun p : Top => (p.blk[b.idx]).hold == .free) (atBlock_top s d)

/-- A descriptor that is due at this member, where its block is free. -/
theorem row_of_free {s : State} {op : Nat} {b : Blk} {d : Desc} (hr : s.runs = true) (hm : s.head = true → d.member = s.me) (ht : s.takes op d = true)
    (hb : s.free? b = true) (seen act : State → State) :
    running s (fun s => s.atMember op d seen fun s => s.needBlk b d act) = .next (act (s.atBlock d)) := by
  rw [running_of_runs hr, atMember_here s op d _ _ ht hm, needBlk_of_free (by rwa [atBlock_free?])]

/-- A descriptor that is due at this member, where its block is held. -/
theorem row_of_held {s : State} {op : Nat} {b : Blk} {d : Desc} (hr : s.runs = true) (hm : s.head = true → d.member = s.me) (ht : s.takes op d = true)
    (hb : s.free? b = false) (seen act : State → State) :
    running s (fun s => s.atMember op d seen fun s => s.needBlk b d act) = .next ((s.atBlock d).finish d stPeerReset) := by
  rw [running_of_runs hr, atMember_here s op d _ _ ht hm, needBlk_of_held (by rwa [atBlock_free?])]

/-- A descriptor that ends at its block without an effect. -/
theorem atBlock_complete {s : State} {d : Desc} (ht : tellable s d) (r : Result) :
    ended s ((s.atBlock d).complete d r) d r ∧ logsOnly s ((s.atBlock d).complete d r) :=
  ⟨(EndsAlike.refl d s).atBlock.ended ht r, ((logsOnly.refl s).atBlock d).complete d r⟩

/-! ### The pip timebase through what reporting changes -/

theorem logsOnly.pip_eq {s t : State} (h : logsOnly s t) : t.pip = s.pip := congrArg (·.pip) h.1

/-- A change of the pip timebase's own data goes past what reporting changes. -/
theorem logsOnly.modPip {s t : State} (h : logsOnly s t) (f : Pip → Pip) : logsOnly (s.modPip f) (t.modPip f) :=
  ⟨congrArg (·.modPip f) h.1, h.2⟩

/-- What only reporting changes after a change of the pip timebase's own data has those data as they were set. -/
theorem logsOnly.of_modPip {s t : State} {f : Pip → Pip} (h : logsOnly (s.modPip f) t) :
    t.pip = f s.pip ∧ logsOnly (s.modPip (fun _ => t.pip)) t := by
  have hp : t.pip = f s.pip := h.pip_eq
  refine ⟨hp, ?_⟩
  rw [hp]
  exact h

end Sys2Proof.Machine
end

section
/-! Events of the pip timebase: arming and disarming, the committed firings and their actions, and O29. -/

namespace Sys2Proof.Machine

/-! ### Arming and disarming (R293 to R295) -/

/-- A descriptor that changes the pip timebase's own data ends: they have that change alone. -/
theorem complete_of_modPip {s u : State} {d : Desc} {f : Pip → Pip} (hl : logsOnly (s.modPip f) u) (he : EndsAlike d s u) (ht : tellable s d)
    (r : Result) :
    logsOnly (s.modPip (fun _ => (u.complete d r).pip)) (u.complete d r) ∧ (u.complete d r).pip = f s.pip ∧ ended s (u.complete d r) d r :=
  have hp := (hl.complete d r).of_modPip
  ⟨hp.2, hp.1, he.ended ht r⟩

theorem atBlock_pip (s : State) (d : Desc) : (s.atBlock d).pip = s.pip := ((logsOnly.refl s).atBlock d).pip_eq
theorem commit_pip (s : State) (d : Desc) : (s.commit d).pip = s.pip := ((logsOnly.refl s).commit d).pip_eq

theorem pipEventArm_free (s : State) (d : Desc) (hr : s.runs = true) (hb : s.free? .pip = true) (hdue : dueHere s 0x20 d)
    (hm : s.head = true → d.member = s.me) : answers (.pipEventArm d) s fun t =>
      let e := eventOf (d.words.drop 1)
      t.pip = { s.pip with slots := Sparse.insert s.pip.slots e.slot e } ∧
      ended s t d { status := stOK, r0 := BitVec.ofNat 32 e.slot, r1 := BitVec.ofNat 32 (b2n (s.slotEv e.slot).isSome) } ∧
      logsOnly (s.modPip (fun _ => t.pip)) t := by
  refine answers_of (row_of_free hr hm hdue.1 hb _ _) ?_
  have hslot : ∀ n, (s.atBlock d).slotEv n = s.slotEv n := fun n => congrArg (fun p : Pip => Sparse.find p.slots n) (atBlock_pip s d)
  rw [hslot]
  obtain ⟨hlogs, hpip, hended⟩ := complete_of_modPip ((((logsOnly.refl s).atBlock d).modPip _).commit d)
    (((EndsAlike.refl d s).atBlock.modPip _).commit) hdue.2 _
  exact ⟨hpip, hended, hlogs⟩

theorem pipEvent_held (s : State) (d : Desc) (c : Instr) (op : Nat) (hc : (c, op) ∈ [(Instr.pipEventArm d, 0x20), (.pipEventDisarm d, 0x21)])
    (hr : s.runs = true) (hb : s.free? .pip = false) (hdue : dueHere s op d) (hm : s.head = true → d.member = s.me) :
    answers c s fun t => ended s t d { status := stPeerReset } ∧ logsOnly s t := by
  simp only [List.mem_cons, Prod.mk.injEq, List.not_mem_nil, or_false] at hc
  rcases hc with ⟨rfl, rfl⟩ | ⟨rfl, rfl⟩
  · exact answers_of (row_of_held hr hm hdue.1 hb _ _) (atBlock_complete hdue.2 _)
  · exact answers_of (row_of_held hr hm hdue.1 hb _ _) (atBlock_complete hdue.2 _)

theorem pipEventDisarm_free (s : State) (d : Desc) (hr : s.runs = true) (hb : s.free? .pip = true) (hdue : dueHere s 0x21 d)
    (hm : s.head = true → d.member = s.me) : answers (.pipEventDisarm d) s fun t =>
      logsOnly (s.modPip (fun _ => t.pip)) t ∧
      (if d.f 1 8 1 = 1 then t.pip = { s.pip with slots := [] } ∧ ended s t d { status := stOK, r0 := BitVec.ofNat 32 s.pip.slots.length }
       else t.pip = { s.pip with slots := Sparse.erase s.pip.slots (d.f 1 0 8) } ∧
        (if s.pip.commits.any (·.ev.slot == d.f 1 0 8) then ended s t d { status := stCancelLate }
         else if (s.slotEv (d.f 1 0 8)).isSome then ended s t d { status := stOK, r0 := 1 } else ended s t d { status := stNotFound })) := by
  refine answers_of (row_of_free hr hm hdue.1 hb _ _) ?_
  have hpip : ((s.atBlock d).commit d).pip = s.pip := (commit_pip _ d).trans (atBlock_pip s d)
  have hslot : ((s.atBlock d).commit d).slotEv (d.f 1 0 8) = s.slotEv (d.f 1 0 8) :=
    congrArg (fun p : Pip => Sparse.find p.slots (d.f 1 0 8)) hpip
  have hends (f : Pip → Pip) := complete_of_modPip (((((logsOnly.refl s).atBlock d).commit d).modPip f))
    ((EndsAlike.refl d s).atBlock.commit.modPip f) hdue.2
  simp only [hpip, hslot, beq_iff_eq]
  split
  · exact hends (fun p => { p with slots := [] }) _
  · have hone := hends (fun p => { p with slots := Sparse.erase p.slots (d.f 1 0 8) })
    split
    · exact hone _
    · split <;> exact hone _

/-! ### A committed firing (R283, R284, R308) -/

/-- The state with a firing taken off the list of commits. -/
def State.fired (s : State) (k : PipCommit) : State := s.modPip (fun p => { p with commits := p.commits.erase k })

/-- The firing of a slot and an action that is committed. -/
def State.commitOf (s : State) (slot action : Nat) : Option PipCommit :=
  s.pip.commits.find? (fun c => c.ev.slot == slot && c.ev.action == action)

theorem fireAction_waits {s : State} (h : s.pst ≠ 0) (action slot late : Nat) (eff : State → PipEvent → State) :
    s.fireAction action slot late eff = s := by
  simp [State.fireAction, h]

theorem fireAction_of_commit {s : State} {action slot : Nat} {k : PipCommit} (h : s.pst = 0) (hk : s.commitOf slot action = some k) (late : Nat)
    (eff : State → PipEvent → State) : s.fireAction action slot late eff =
      (eff (s.fired k) k.ev).cond (k.ev.recd || action == actRecord || decide (25 < late)) (·.firedRec k late) := by
  unfold State.commitOf at hk
  simp [State.fireAction, h, hk, State.fired]

/-- A firing on time without a record of its own: its effect and nothing else. -/
theorem fireAction_on_time {s : State} {action slot late : Nat} {k : PipCommit} (h : s.pst = 0) (hk : s.commitOf slot action = some k)
    (hrec : k.ev.recd = false) (hlate : late ≤ 25) (ha : action ≠ actRecord) (eff : State → PipEvent → State) :
    s.fireAction action slot late eff = eff (s.fired k) k.ev := by
  simp [fireAction_of_commit h hk, State.cond, hrec, ha, hlate]

/-- A command that fires an action of a slot on time answers with the action's effect. -/
theorem answers_on_time {c : Instr} {s : State} {action slot late : Nat} {k : PipCommit} {eff : State → PipEvent → State} {P : State → Prop}
    (hc : exec c s = running s (·.fireAction action slot late eff)) (hr : s.runs = true) (h : s.pst = 0) (hk : s.commitOf slot action = some k)
    (hrec : k.ev.recd = false) (hlate : late ≤ 25) (ha : action ≠ actRecord) (hP : P (eff (s.fired k) k.ev)) : answers c s P := by
  rw [running_of_runs hr, fireAction_on_time h hk hrec hlate ha] at hc
  exact answers_of hc hP

theorem fire_waits (s : State) (c : Instr) (slot late : Nat) (hear near : Bool) (hr : s.runs = true) (hpst : s.pst ≠ 0)
    (hc : c ∈ [Instr.pipGpioSet slot late, .pipGpioClear slot late, .pipPostRecord slot late, .pipWinOpen slot late, .pipWinClose slot late,
      .pipBeacon slot late hear, .pipAudioStart slot late near, .pipCaptureStart slot late, .pipCalSlot slot late]) :
    answers c s fun t => t = s := by
  have hexec (action : Nat) (eff : State → PipEvent → State) : running s (·.fireAction action slot late eff) = .next s := by
    rw [running_of_runs hr, fireAction_waits hpst]
  simp only [List.mem_cons, List.not_mem_nil, or_false] at hc
  rcases hc with rfl | rfl | rfl | rfl | rfl | rfl | rfl | rfl | rfl <;> exact answers_of (hexec _ _) rfl

/-- PIP_POST_RECORD posts its record, on time, and nothing else. -/
theorem fire_record (s : State) (slot late : Nat) (k : PipCommit) (hr : s.runs = true) (hpst : s.pst = 0)
    (hk : s.commitOf slot actRecord = some k) (hlate : late ≤ 25) : answers (.pipPostRecord slot late) s fun t => t = (s.fired k).record 0x07
      [packW [(16, 16, k.ev.frac), (15, 1, b2n (s.slotEv k.ev.slot).isNone), (14, 1, 0), (12, 2, k.edgeDir), (8, 4, k.ev.action), (0, 8, k.ev.slot)],
       BitVec.ofNat 32 (unsgn 64 k.ev.target), BitVec.ofNat 32 (unsgn 64 k.ev.target >>> 32), k.ev.arg, BitVec.ofNat 32 k.count, BitVec.ofNat 32 k.tile,
       BitVec.ofNat 32 k.cycle, BitVec.ofNat 32 0, BitVec.ofNat 32 k.skipped] := by
  have hslot : (s.fired k).slotEv k.ev.slot = s.slotEv k.ev.slot := rfl
  have hon : decide (25 < late) = false := by simpa using hlate
  have hexec : exec (.pipPostRecord slot late) s = running s (·.fireAction actRecord slot late (fun s _ => s)) := rfl
  refine answers_of (hexec.trans (running_of_runs hr _)) ?_
  rw [fireAction_of_commit hpst hk, State.cond, if_pos (by simp), State.firedRec, hslot]
  simp only [hon]
  rfl

/-! ### The actions (R285 to R287, R417, R437, R438, R571) -/

theorem fire_winOpen (s : State) (slot late : Nat) (k : PipCommit) (n : Nat) (hr : s.runs = true) (hpst : s.pst = 0)
    (hk : s.commitOf slot actWinOpen = some k) (hrec : k.ev.recd = false) (hlate : late ≤ 25) (hn : n = getF k.ev.arg 0 16)
    (hb : s.free? .tag = true) (hen : s.is Fld.tagCtlEn = true) (hset : (s.listenSet n).isSome = true) (hnot : ∀ o ∈ s.tag.sets, o.set ≠ n) :
    answers (.pipWinOpen slot late) s fun t =>
      t = (s.fired k).modTag (fun g => { g with sets := g.sets ++ [⟨n, none, 0, 0, 0, 0, false⟩] }) := by
  refine answers_on_time rfl hr hpst hk hrec hlate (by decide) ?_
  subst hn
  have hany : s.tag.sets.any (·.set == getF k.ev.arg 0 16) = false := List.any_eq_false.mpr fun o ho => by simpa using hnot o ho
  have hopens : ((s.fired k).free? .tag && (s.fired k).is Fld.tagCtlEn && ((s.fired k).listenSet (getF k.ev.arg 0 16)).isSome &&
      !(s.fired k).tag.sets.any (·.set == getF k.ev.arg 0 16)) = true := by
    change (s.free? .tag && s.is Fld.tagCtlEn && (s.listenSet (getF k.ev.arg 0 16)).isSome && !s.tag.sets.any (·.set == getF k.ev.arg 0 16)) = true
    simp [hb, hen, hset, hany]
  exact if_pos hopens

/-- Sets that no descriptor opened close without an answer. -/
theorem closeSets_of_no_descriptor (s : State) (p : OpenSet → Bool) (status : Nat) (h : ∀ o ∈ s.tag.sets, p o = true → o.d = none) :
    s.closeSets p status = s.modTag (fun g => { g with sets := g.sets.filter (fun o => !p o) }) := by
  have hnone (l : List OpenSet) (hl : ∀ o ∈ l, o.d = none) (u : State) :
      u.forEach l (fun s o => match o.d with | some d => s.partDone d (setResult o status) | none => s) = u := by
    unfold State.forEach
    induction l with
    | nil => rfl
    | cons o l ih =>
      rw [List.foldl_cons, hl o List.mem_cons_self]
      exact ih fun o ho => hl o (List.mem_cons_of_mem _ ho)
  exact hnone _ (fun o ho => h o (List.mem_filter.mp ho).1 (List.mem_filter.mp ho).2) _

theorem fire_winClose (s : State) (slot late : Nat) (k : PipCommit) (n : Nat) (hr : s.runs = true) (hpst : s.pst = 0)
    (hk : s.commitOf slot actWinClose = some k) (hrec : k.ev.recd = false) (hlate : late ≤ 25) (hn : n = getF k.ev.arg 0 16)
    (hd : ∀ o ∈ s.tag.sets, o.set = n → o.d = none) : answers (.pipWinClose slot late) s fun t =>
      t = (s.fired k).modTag (fun g => { g with sets := g.sets.filter (fun o => !(o.set == n)) }) := by
  refine answers_on_time rfl hr hpst hk hrec hlate (by decide) ?_
  subst hn
  have hlocal : ((s.fired k).head && (s.fired k).tag.sets.any (fun o => o.set == getF k.ev.arg 0 16 && o.d.isSome)) = false := by
    refine Bool.and_eq_false_imp.mpr fun _ => List.any_eq_false.mpr fun o ho => ?_
    intro h
    obtain ⟨hset, hsome⟩ := Bool.and_eq_true_iff.mp h
    rw [hd o ho (beq_iff_eq.mp hset)] at hsome
    exact absurd hsome (by simp)
  simp only [hlocal, State.cond, Bool.false_eq_true, if_false]
  exact closeSets_of_no_descriptor _ _ _ fun o ho h => hd o ho (beq_iff_eq.mp h)

theorem fire_beacon_unplanned (s : State) (slot late : Nat) (hear : Bool) (k : PipCommit) (hr : s.runs = true) (hpst : s.pst = 0)
    (hk : s.commitOf slot actBeacon = some k) (hrec : k.ev.recd = false) (hlate : late ≤ 25) (hb : s.free? .tag = true) (hp : s.tag.plan = none) :
    answers (.pipBeacon slot late hear) s fun t => t = (s.fired k).incSat Fld.tagDutyUsedRefused := by
  refine answers_on_time rfl hr hpst hk hrec hlate (by decide) ?_
  have hplan : (s.fired k).tag.plan = none := hp
  rw [State.cond, if_pos (show (s.fired k).free? .tag = true from hb)]
  simp only [hplan, Option.bind_none]

theorem fire_beacon_taken (s : State) (slot late : Nat) (hear : Bool) (k : PipCommit) (p : TagPlan) (ws : List Word) (cost : Nat) (hr : s.runs = true)
    (hpst : s.pst = 0) (hk : s.commitOf slot actBeacon = some k) (hrec : k.ev.recd = false) (hlate : late ≤ 25) (hb : s.free? .tag = true)
    (hp : s.tag.plan = some p) (hws : p.beacons[getF k.ev.arg 0 16]? = some ws) (hj : s.beaconJudge (getF (ws.getD 0 0) 16 5) hear = none)
    (hlo : s.loRetired loT = false) (hreq : s.reqRetired 5 = false) (hbar : s.lotBarred = false)
    (hcost : cost = s.sendCost (getF (ws.getD 0 0) 16 5) (getF (ws.getD 0 0) 12 2)) (hduty : s.dutyUsed + cost ≤ s.get Fld.tagDutyBudgetMs)
    (hheld : s.beaconsHeld < 8) : answers (.pipBeacon slot late hear) s fun t => t = (s.fired k).takeBeacon none ws 1 cost := by
  refine answers_on_time rfl hr hpst hk hrec hlate (by decide) ?_
  rw [State.cond, if_pos (show (s.fired k).free? .tag = true from hb)]
  have hplan : (s.fired k).tag.plan.bind (fun p => p.beacons[getF k.ev.arg 0 16]?) = some ws := by
    change s.tag.plan.bind _ = _
    rw [hp]
    exact hws
  have hj' : (s.fired k).beaconJudge (getF (ws.getD 0 0) 16 5) hear = none := hj
  have hbars : ((s.fired k).loRetired loT || (s.fired k).reqRetired 5 || (s.fired k).lotBarred) = false := by
    change (s.loRetired loT || s.reqRetired 5 || s.lotBarred) = false
    simp [hlo, hreq, hbar]
  have hcost' : (s.fired k).sendCost (getF (ws.getD 0 0) 16 5) (getF (ws.getD 0 0) 12 2) = cost := hcost.symm
  have hfits : (decide ((s.fired k).get Fld.tagDutyBudgetMs < (s.fired k).dutyUsed + cost) || decide (8 ≤ (s.fired k).beaconsHeld)) = false := by
    change (decide (s.get Fld.tagDutyBudgetMs < s.dutyUsed + cost) || decide (8 ≤ s.beaconsHeld)) = false
    simp [hduty, hheld]
  simp only [hplan, hj', hbars, hcost', hfits, Option.isSome_none, Bool.false_eq_true, if_false]

theorem outSt_forEach_modOut (f : OutputSt → OutputSt) (o : Fin 4) (l : List (Fin 4)) (hl : l.Nodup) (s : State) :
    (s.forEach l (fun s o => s.modOut o f)).outSt o = if o ∈ l then f (s.outSt o) else s.outSt o := by
  induction l generalizing s with
  | nil => rfl
  | cons x l ih =>
    obtain ⟨hx, hl⟩ := List.nodup_cons.mp hl
    have hout : (s.modOut x f).outSt o = if o = x then f (s.outSt o) else s.outSt o := by
      by_cases h : o = x
      · simp [State.outSt, State.modOut, upd, h]
      · simp [State.outSt, State.modOut, upd, h, Fin.val_ne_of_ne (Ne.symm h)]
    change ((s.modOut x f).forEach l _).outSt o = _
    rw [ih hl, hout]
    by_cases h : o = x
    · subst h; simp [hx]
    · simp [h]

/-- What every step of a loop keeps, the loop keeps. -/
theorem forEach_induct {α : Type} {P : State → Prop} {f : State → α → State} (hf : ∀ t x, P t → P (f t x)) (l : List α) {s : State} (h : P s) :
    P (s.forEach l f) := by
  unfold State.forEach
  induction l generalizing s with
  | nil => exact h
  | cons x l ih => exact ih (hf s x h)

theorem audViews_aud (s : State) : s.audViews.aud = s.aud :=
  forEach_induct (P := fun t => t.aud = s.aud) (fun _ _ h => h) [0, 1, 2] rfl

/-- The views of SAPn_STAT and WAITING leave STARTED. -/
theorem audViews_started (s : State) : s.audViews.is Fld.audStartCtlStarted = s.is Fld.audStartCtlStarted := by
  have hstep : ∀ (t : State) (o : Fin 4) (v1 : Nat) (b2 b3 b4 b5 : Bool),
      (((((t.put (Fld.sapStatFill o.val) v1).putB (Fld.sapStatFading o.val) b2).putB (Fld.sapStatMuted o.val) b3).putB (Fld.sapStatClkOk o.val) b4).putB
        (Fld.sapStatRun o.val) b5).get Fld.audStartCtlStarted = t.get Fld.audStartCtlStarted := by
    intro t o v1 b2 b3 b4 b5
    have hoff : Fld.audStartCtlStarted.off ≠ 0x4004 + 0x8 * o.val := by simp only; omega
    simp only [State.putB_eq]
    rw [State.get_put_ne _ _ _ _ (.inl hoff), State.get_put_ne _ _ _ _ (.inl hoff), State.get_put_ne _ _ _ _ (.inl hoff),
      State.get_put_ne _ _ _ _ (.inl hoff), State.get_put_ne _ _ _ _ (.inl hoff)]
  unfold State.audViews State.is
  rw [State.putB_eq, State.get_put_ne _ _ _ _ (.inr (.inl (by decide)))]
  rw [forEach_induct (P := fun t => t.get Fld.audStartCtlStarted = s.get Fld.audStartCtlStarted) (fun t o h => (hstep ..).trans h) [0, 1, 2] rfl]

/-- A trigger of the kind that TRIG names, with outputs armed, gives these their start frame (R543, R544). -/
theorem audTrigger_of_armed (s : State) (kind : Nat) (near : Bool) (htrig : s.get Fld.audStartCtlTrig = kind)
    (harmed : ∃ o : Fin 4, (s.outSt o).run = 1) : (s.audTrigger kind near).is Fld.audStartCtlStarted = true ∧
      ∀ o : Fin 4, (s.audTrigger kind near).outSt o = if (s.outSt o).run = 1 then
        { s.outSt o with run := 2, startAt := some ((s.clk.audFrame + if near then 2 else 1) % 2 ^ 32) } else s.outSt o := by
  have hmem : ∀ o : Fin 4, o ∈ allPaths.filter (fun o => (s.outSt o).run == 1) ↔ (s.outSt o).run = 1 := by
    intro o
    have hall : o ∈ allPaths := by revert o; decide
    simp [List.mem_filter, hall]
  obtain ⟨a, ha⟩ := harmed
  have hne : (allPaths.filter (fun o => (s.outSt o).run == 1)).isEmpty = false := by
    cases h : allPaths.filter (fun o => (s.outSt o).run == 1) with
    | nil => exact absurd ((hmem a).mpr ha) (by simp [h])
    | cons => rfl
  have hgo : (s.get Fld.audStartCtlTrig != kind || (allPaths.filter (fun o => (s.outSt o).run == 1)).isEmpty) = false := by simp [htrig, hne]
  unfold State.audTrigger
  simp only [hgo, Bool.false_eq_true, if_false]
  refine ⟨(audViews_started _).trans (State.is_flag _ _ (by decide) (by decide)), fun o => ?_⟩
  rw [State.outSt, audViews_aud]
  change State.outSt (State.forEach s _ _) o = _
  rw [outSt_forEach_modOut _ o _ (List.Nodup.filter _ (by decide))]
  simp only [hmem]

theorem fire_audioStart (s : State) (slot late : Nat) (near : Bool) (k : PipCommit) (hr : s.runs = true) (hpst : s.pst = 0)
    (hk : s.commitOf slot actAudioStart = some k) (hrec : k.ev.recd = false) (hlate : late ≤ 25) (hb : s.free? .aud = true)
    (htrig : s.get Fld.audStartCtlTrig = 2) (harmed : ∃ o : Fin 4, (s.outSt o).run = 1) : answers (.pipAudioStart slot late near) s fun t =>
      t.is Fld.audStartCtlStarted = true ∧ (∀ o : Fin 4, t.outSt o = if (s.outSt o).run = 1 then
        { s.outSt o with run := 2, startAt := some ((s.clk.audFrame + if near then 2 else 1) % 2 ^ 32) } else s.outSt o) := by
  refine answers_on_time rfl hr hpst hk hrec hlate (by decide) ?_
  rw [State.cond, if_pos (show (s.fired k).free? .aud = true from hb)]
  exact audTrigger_of_armed (s.fired k) 2 near htrig harmed

theorem fire_captureStart (s : State) (slot late : Nat) (k : PipCommit) (r : Fin 4) (c : Capture) (hr : s.runs = true) (hpst : s.pst = 0)
    (hk : s.commitOf slot actCapture = some k) (hrec : k.ev.recd = false) (hlate : late ≤ 25) (hn : r = Fin.ofNat 4 (getF k.ev.arg 0 2))
    (hc : s.samp.caps[r] = some c) (hmode : c.mode = 2) (hfirst : c.first = none) (hm : c.member = s.me) :
    answers (.pipCaptureStart slot late) s fun t => t = (s.fired k).setCap r (some { c with
      first := some ((s.tile.toNat + 2 ^ 32 - c.pretrig) % 2 ^ 32), next := (s.tile.toNat + 2 ^ 32 - c.pretrig) % 2 ^ 32 }) := by
  refine answers_on_time rfl hr hpst hk hrec hlate (by decide) ?_
  subst hn
  have hc' : (s.fired k).samp.caps[Fin.ofNat 4 (getF k.ev.arg 0 2)] = some c := hc
  have hwaits : (c.mode == 2 && c.first.isNone && c.member == (s.fired k).me) = true := by
    change (c.mode == 2 && c.first.isNone && c.member == s.me) = true
    simp [hmode, hfirst, hm]
  simp only [hc', State.cond, hwaits, if_true]
  rfl

theorem fire_calSlot (s : State) (slot late : Nat) (k : PipCommit) (hr : s.runs = true) (hpst : s.pst = 0)
    (hk : s.commitOf slot actCalSlot = some k) (hrec : k.ev.recd = false) (hlate : late ≤ 25) (hh : s.head = true) :
    answers (.pipCalSlot slot late) s fun t => t = (s.fired k).modCal (fun c =>
      { c with slot := some (getF k.ev.arg 0 4, (s.tile.toNat + getF k.ev.arg 16 16) % 2 ^ 32) }) := by
  refine answers_on_time rfl hr hpst hk hrec hlate (by decide) ?_
  have hleads : (s.fired k).calLeads = true := by
    change (s.head || !s.lnk.inEpoch) = true
    simp [hh]
  exact if_pos hleads

theorem calSlot_ends (s : State) (m e : Nat) (hr : s.runs = true) (hb : s.free? .cal = true) (hs : s.cal.slot = some (m, e)) (ht : s.tileAt e = true) :
    answers .calSlotEnd s fun t => t = s.modCal (fun c => { c with slot := none }) := by
  have hexec : exec .calSlotEnd s = .next (s.modCal (fun c => { c with slot := none })) := by
    change execCalSlotEnd s = _
    simp [execCalSlotEnd, inBlock, done, hr, hb, hs, ht, State.cond]
  exact answers_of hexec rfl

/-- Settles O29: arming and disarming end as their lemmas say, and each action is its effect on the state that the firing has left. -/
theorem eventsAreArmedAndTheirActionsTakeEffect : Obligations.EventsAreArmedAndTheirActionsTakeEffect := by
  unfold Obligations.EventsAreArmedAndTheirActionsTakeEffect
  refine ⟨pipEventArm_free, fun s d c op hc hr hb => pipEvent_held s d c op hc hr hb, pipEventDisarm_free,
    fun s c slot late hear near => fire_waits s c slot late hear near, ?_, ?_, fire_record, fire_winOpen, fire_winClose, fire_beacon_unplanned,
    fire_beacon_taken, fire_audioStart, fire_captureStart, fire_calSlot, calSlot_ends⟩
  · exact fun s slot late k hr hpst hk hrec hlate => answers_on_time rfl hr hpst hk hrec hlate (by decide) rfl
  · exact fun s slot late k hr hpst hk hrec hlate => answers_on_time rfl hr hpst hk hrec hlate (by decide) rfl

end Sys2Proof.Machine
end

section
/-! Records of the fault manager: what posting a record leaves, and that a fault sets its bit of FLT_STAT and counts no failure. -/

namespace Sys2Proof.Machine

/-! ### What posting a record leaves (R221 to R227) -/

/-- Registers that posting a record may write: producer indices and drop counters of rings, and LNKn_STAT. -/
def recordRegs : List Nat := (List.range 24).map Reg.hifRingHead ++ (List.range 24).map Reg.hifDropCnt ++ lnkStatRegs

/-- The state `t` is `s` but for the ring engine, the links, these registers and what has gone out. -/
structure RecordsOnly (s t : State) : Prop where
  rest : { t with regs := s.regs, hif := s.hif, lnk := s.lnk, out := s.out } = s
  regs : regsOnly recordRegs s t

theorem LinksOnly.recordsOnly {s t : State} (h : LinksOnly s t) : RecordsOnly s t :=
  ⟨congrArg (fun u : State => { u with hif := s.hif }) h.rest, regsOnly_mono h.regs (List.subset_append_right _ _)⟩

namespace RecordsOnly

variable {a s : State}

theorem refl (s : State) : RecordsOnly s s := ⟨rfl, regsOnly_refl _ s⟩
theorem trans {t : State} (h : RecordsOnly a s) (k : RecordsOnly s t) : RecordsOnly a t := by
  refine ⟨?_, regsOnly_trans h.regs k.regs⟩
  have e := h.rest
  rw [← k.rest] at e
  exact e
theorem ite {t : State} (c : Prop) [Decidable c] (h : RecordsOnly a s) (k : RecordsOnly a t) : RecordsOnly a (if c then s else t) := by
  split
  · exact h
  · exact k
theorem flt {t : State} (h : RecordsOnly s t) : t.flt = s.flt := congrArg (·.flt) h.rest
theorem emit (h : RecordsOnly a s) (o : Out) : RecordsOnly a (s.emit o) := h.trans ⟨rfl, fun _ _ => rfl⟩
theorem modHif (h : RecordsOnly a s) (f : Hif → Hif) : RecordsOnly a (s.modHif f) := h.trans ⟨rfl, fun _ _ => rfl⟩
theorem modRing (h : RecordsOnly a s) (n : Fin 24) (f : RingSt → RingSt) : RecordsOnly a (s.modRing n f) := h.trans ⟨rfl, fun _ _ => rfl⟩
theorem put (h : RecordsOnly a s) (f : FieldRef) (v : Nat) (hf : f.off ∈ recordRegs) : RecordsOnly a (s.put f v) := h.trans ⟨rfl, regsOnly_put s f v hf⟩

theorem mem_head (n : Fin 24) : Reg.hifRingHead n.val ∈ recordRegs := by revert n; decide
theorem mem_drops (n : Fin 24) : Reg.hifDropCnt n.val ∈ recordRegs := by revert n; decide

theorem sendVector (h : RecordsOnly a s) (v : Nat) : RecordsOnly a (s.sendVector v) := .ite _ (h.modHif _) (h.emit _)
theorem signalRing (h : RecordsOnly a s) (n : Fin 24) : RecordsOnly a (s.signalRing n) := by
  unfold State.signalRing
  split
  · split
    · exact (h.sendVector _).modRing n _
    · exact h
  · exact h
theorem ringEvent (h : RecordsOnly a s) (n : Fin 24) : RecordsOnly a (s.ringEvent n) := .ite _ ((h.modRing n _).signalRing n) (h.modRing n _)
theorem takeEntry (h : RecordsOnly a s) (n : Fin 24) : RecordsOnly a (s.takeEntry n).2.2 :=
  .ite _ ((h.put _ _ (mem_head n)).put _ _ (mem_head n)) (h.put _ _ (mem_head n))
theorem post (h : RecordsOnly a s) (w : HostWrite) : RecordsOnly a (s.post w) := by
  unfold State.post
  split
  · cases w <;> exact h.emit _
  · exact h.modHif _
theorem writeRec (h : RecordsOnly a s) (n : Fin 24) (r : Rec) : RecordsOnly a (s.writeRec n r) := (((h.takeEntry n).modRing n _).post _).ringEvent n
theorem reportDrops (h : RecordsOnly a s) (n : Fin 24) : RecordsOnly a (s.reportDrops n) := .ite _ h ((h.modRing n _).writeRec n _)
theorem toRing (h : RecordsOnly a s) (n : Fin 24) (r : Rec) : RecordsOnly a (s.toRing n r) :=
  .ite _ (((h.reportDrops n).modRing n _).put _ _ (mem_drops n)) ((h.reportDrops n).writeRec n r)
theorem bufferRec (h : RecordsOnly a s) (r : Rec) : RecordsOnly a (s.bufferRec r) := .ite _ (h.modHif _) (h.modHif _)
theorem takeRec (h : RecordsOnly a s) (r : Rec) : RecordsOnly a (s.takeRec r) := by
  unfold State.takeRec
  split
  · exact h.bufferRec r
  · split
    · exact h
    · exact .ite _ (h.toRing _ r) (h.bufferRec _)
theorem sendReq (h : RecordsOnly a s) (m : Msg) (d : Option Desc) : RecordsOnly a (s.sendReq m d) :=
  h.trans (LinksOnly.ite _ ((((LinksOnly.refl s).modLnk _).modLnk _).sendMsg _) (((LinksOnly.refl s).modLnk _).modLnk _)).recordsOnly
theorem postRec (h : RecordsOnly a s) (r : Rec) : RecordsOnly a (s.postRec r) := .ite _ (h.takeRec r) (.ite _ (h.sendReq _ _) (h.bufferRec r))
theorem record (h : RecordsOnly a s) (typ : Nat) (body : List Word) : RecordsOnly a (s.record typ body) := h.postRec _
theorem faultRec (h : RecordsOnly a s) (code cls inst i0 i1 : Nat) : RecordsOnly a (s.faultRec code cls inst i0 i1) := h.record _ _

end RecordsOnly

/-! ### A fault (R801 to R803) -/

/-- Registers that waking may write. -/
def wakeRegs : List Nat := [Reg.pwrWakeSrc, Reg.pwrState, Reg.spiStat]

/-- The state `t` is `s` but for the power state machine's own data and those registers. -/
structure WakesOnly (s t : State) : Prop where
  rest : { t with regs := s.regs, pwr := s.pwr } = s
  regs : regsOnly wakeRegs s t

namespace WakesOnly

variable {a s : State}

theorem refl (s : State) : WakesOnly s s := ⟨rfl, regsOnly_refl _ s⟩
theorem trans {t : State} (h : WakesOnly a s) (k : WakesOnly s t) : WakesOnly a t := by
  refine ⟨?_, regsOnly_trans h.regs k.regs⟩
  have e := h.rest
  rw [← k.rest] at e
  exact e
theorem put (h : WakesOnly a s) (f : FieldRef) (v : Nat) (hf : f.off ∈ wakeRegs) : WakesOnly a (s.put f v) := h.trans ⟨rfl, regsOnly_put s f v hf⟩
theorem modPwr (h : WakesOnly a s) (f : Pwr → Pwr) : WakesOnly a (s.modPwr f) := h.trans ⟨rfl, fun _ _ => rfl⟩
theorem readyFrom (h : WakesOnly a s) (n : Nat) : WakesOnly a (s.readyFrom n) := by
  unfold State.readyFrom State.cond
  split
  · exact h.put Fld.spiStatReady _ (by decide)
  · exact h
theorem wake (h : WakesOnly a s) (i : Nat) : WakesOnly a (s.wake i) := by
  unfold State.wake
  extract_lets row target source dwelt
  have hdwelt : WakesOnly a dwelt := (h.put Fld.pwrWakeSrcSrc _ (by decide)).modPwr _
  split
  · exact h
  · split
    · split
      · exact ((hdwelt.modPwr _).put Fld.pwrStateLast _ (by decide)).readyFrom _
      · exact hdwelt.modPwr _
    · exact hdwelt.modPwr _

end WakesOnly

/-- A bit of FLT_STAT that is set stands set, and the fault manager's own data stay. -/
theorem fltBit_sets (s : State) (f : FieldRef) (hoff : f.off = Reg.fltStat) (h : f.lo + f.width ≤ 32) (hw : 0 < f.width) :
    (s.fltBit f).flt = s.flt ∧ (s.fltBit f).is f = true := by
  have hwake := (WakesOnly.refl ((s.flag f).flag Fld.spiStatFault)).wake 7
  refine ⟨congrArg (·.flt) hwake.rest, ?_⟩
  have hbit : ((s.flag f).flag Fld.spiStatFault).rd Reg.fltStat = (s.flag f).rd Reg.fltStat := State.rd_put_ne _ _ _ _ (by decide)
  have hset := s.is_flag f h hw
  unfold State.is State.get at hset ⊢
  rw [hoff] at hset ⊢
  rw [State.fltBit, hwake.regs _ (by decide), hbit]
  exact hset

theorem recordRegs_not_fltStat : Reg.fltStat ∉ recordRegs := by decide

/-- A fault sets its bit of FLT_STAT and leaves the failures that telemetry counts. -/
theorem fault_sets (s : State) (code cls inst i0 i1 : Nat) (f : FieldRef) (hf : faultBit code = some f) (hoff : f.off = Reg.fltStat)
    (h : f.lo + f.width ≤ 32) (hw : 0 < f.width) : (s.fault code cls inst i0 i1).is f = true ∧
      (s.fault code cls inst i0 i1).flt.telem.failures = s.flt.telem.failures := by
  obtain ⟨hflt, hbit⟩ := fltBit_sets s f hoff h hw
  have hfail : (s.fltBit f).flt.telem.failures = s.flt.telem.failures := by rw [hflt]
  unfold State.fault
  simp only [hf]
  split
  · have hrec (u : State) := (RecordsOnly.refl u).faultRec code cls inst i0 i1
    constructor
    · unfold State.is State.get
      rw [hoff, (hrec _).regs _ recordRegs_not_fltStat, ← hoff]
      exact hbit
    · rw [(hrec _).flt]
      exact hfail
  · exact ⟨hbit, hfail⟩

end Sys2Proof.Machine
end

section
/-! Synthesisers: what the operations on them and on their paths leave, and what they set. -/

namespace Sys2Proof.Machine

/-! ### Fields and entries -/

/-- A field of another register, after a write of a field. -/
theorem get_put_other (s : State) (f g : FieldRef) (v : Nat) (h : g.off ≠ f.off) : (s.put f v).get g = s.get g := s.get_put_ne f g v (.inl h)
/-- A field of other bits, after a write of a field. -/
theorem get_put_bits (s : State) (f g : FieldRef) (v : Nat) (h : f.lo + f.width ≤ g.lo ∨ g.lo + g.width ≤ f.lo) : (s.put f v).get g = s.get g :=
  s.get_put_ne f g v (.inr h)
theorem get_of_regsOnly {offs : List Nat} {s t : State} (h : regsOnly offs s t) (g : FieldRef) (hg : g.off ∉ offs) : t.get g = s.get g :=
  congrArg (fun w => getF w g.lo g.width) (h _ hg)

theorem upd_self {α : Type} {n : Nat} (v : Vector α n) (i : Fin n) (f : α → α) : (upd v i f)[i] = f v[i] := by simp [upd]
theorem upd_ne {α : Type} {n : Nat} (v : Vector α n) (i j : Fin n) (f : α → α) (h : j ≠ i) : (upd v i f)[j] = v[j] := by
  simp [upd, Fin.val_ne_of_ne (Ne.symm h)]

/-! ### Radio data and registers of the radio -/

/-- The state `t` is `s` but for the radio's own data and these registers. -/
structure RadioOnly (offs : List Nat) (s t : State) : Prop where
  rest : { t with regs := s.regs, radio := s.radio } = s
  regs : regsOnly offs s t

namespace RadioOnly

variable {offs : List Nat} {a s : State}

theorem refl (s : State) : RadioOnly offs s s := ⟨rfl, regsOnly_refl _ s⟩
theorem trans {t : State} (h : RadioOnly offs a s) (k : RadioOnly offs s t) : RadioOnly offs a t := by
  refine ⟨?_, regsOnly_trans h.regs k.regs⟩
  have e := h.rest
  rw [← k.rest] at e
  exact e
theorem mono {offs' : List Nat} (h : RadioOnly offs a s) (hs : offs ⊆ offs') : RadioOnly offs' a s := ⟨h.rest, regsOnly_mono h.regs hs⟩
theorem put (h : RadioOnly offs a s) (f : FieldRef) (v : Nat) (hf : f.off ∈ offs) : RadioOnly offs a (s.put f v) := h.trans ⟨rfl, regsOnly_put s f v hf⟩
theorem putB (h : RadioOnly offs a s) (f : FieldRef) (b : Bool) (hf : f.off ∈ offs) : RadioOnly offs a (s.putB f b) := h.put f _ hf
theorem wr (h : RadioOnly offs a s) (o : Nat) (w : Word) (ho : o ∈ offs) : RadioOnly offs a (s.wr o w) := h.trans ⟨rfl, regsOnly_wr s o w ho⟩
theorem modRadio (h : RadioOnly offs a s) (f : Radio → Radio) : RadioOnly offs a (s.modRadio f) := h.trans ⟨rfl, fun _ _ => rfl⟩
theorem modLo (h : RadioOnly offs a s) (n : Fin 5) (f : LoSt → LoSt) : RadioOnly offs a (s.modLo n f) := h.trans ⟨rfl, fun _ _ => rfl⟩

/-- As the statements say it. -/
theorem onlyRegs (h : RadioOnly offs a s) : onlyRegs offs (a.modRadio (fun _ => s.radio)) s :=
  ⟨congrArg (fun u : State => { u with radio := s.radio }) h.rest, h.regs⟩

/-- A descriptor ends alike when the registers are none that a completion reads. -/
theorem endsAlike (h : RadioOnly offs a s) (d : Desc) (hs : Reg.topStatus ∉ offs) (hc : ∀ o ∈ cplRegs, o ∉ offs) : EndsAlike d a s where
  straps := congrArg (·.top.straps) h.rest
  boot := congrArg (·.boot) h.rest
  tile := congrArg (·.tile) h.rest
  d3hot := congrArg (·.pcie.d3hot) h.rest
  accepts := congrArg (·.hif.accepts) h.rest
  started := congrArg (fun u => (u.findStarted d).map (fun x => (x.orphan, x.dropped))) h.rest
  untested := congrArg (fun w => getF w 0 1 != 0) (h.regs _ hs)
  regs off ho := h.regs off (hc off ho)
  headId := congrArg (·.lnk.headId) h.rest

end RadioOnly

/-! ### Paths (R349, R350, R360) -/

/-- The state `t` is `s` but for the paths' tiles and marks, and CLEAN of RADIO_STATE: PATHn_CTL as in effect stays. -/
structure PathsOnly (s t : State) : Prop where
  rest : { t with regs := s.regs, radio := { t.radio with paths := s.radio.paths } } = s
  ctl : ∀ p : Fin 4, t.radio.paths[p].ctl = s.radio.paths[p].ctl
  regs : regsOnly [Reg.radioState] s t

namespace PathsOnly

variable {a s : State}

theorem refl (s : State) : PathsOnly s s := ⟨rfl, fun _ => rfl, regsOnly_refl _ s⟩
theorem trans {t : State} (h : PathsOnly a s) (k : PathsOnly s t) : PathsOnly a t := by
  refine ⟨?_, fun p => (k.ctl p).trans (h.ctl p), regsOnly_trans h.regs k.regs⟩
  have e := h.rest
  rw [← k.rest] at e
  exact e
theorem modPath (h : PathsOnly a s) (p : Fin 4) (f : PathSt → PathSt) (hf : ∀ q, (f q).ctl = q.ctl) : PathsOnly a (s.modPath p f) := by
  refine h.trans ⟨rfl, fun q => ?_, fun _ _ => rfl⟩
  by_cases hq : q = p
  · subst hq
    exact (congrArg PathSt.ctl (upd_self s.radio.paths q f)).trans (hf _)
  · exact congrArg PathSt.ctl (upd_ne s.radio.paths p q f hq)
theorem setClean (h : PathsOnly a s) (p : Fin 4) (b : Bool) : PathsOnly a (s.setClean p b) :=
  h.trans ⟨rfl, fun _ => rfl, regsOnly_put s _ _ List.mem_cons_self⟩
theorem gapStart (h : PathsOnly a s) (p : Fin 4) : PathsOnly a (s.gapStart p) :=
  (h.modPath p (fun q => { q with cleanAt := none, gapTile := true }) fun _ => rfl).setClean p false
theorem gapEnd (h : PathsOnly a s) (p : Fin 4) (clean : Nat) : PathsOnly a (s.gapEnd p clean) :=
  (h.modPath p (fun q => { q with cleanAt := some clean, gapTile := true }) fun _ => rfl).setClean p false
theorem forEach {α : Type} (h : PathsOnly a s) (l : List α) (f : State → α → State) (hf : ∀ t x, PathsOnly t (f t x)) :
    PathsOnly a (s.forEach l f) := forEach_induct (P := PathsOnly a) (fun t x k => k.trans (hf t x)) l h
theorem gapAll (h : PathsOnly a s) (ps : List (Fin 4)) : PathsOnly a (s.gapAll ps) := h.forEach ps _ fun t p => (refl t).gapStart p
theorem movedAll (h : PathsOnly a s) (ps : List (Fin 4)) : PathsOnly a (s.movedAll ps) :=
  h.forEach ps _ fun t p => (refl t).modPath p _ fun _ => rfl

theorem los {t : State} (h : PathsOnly s t) : t.radio.los = s.radio.los := congrArg (·.radio.los) h.rest
theorem tx {t : State} (h : PathsOnly s t) : t.radio.tx = s.radio.tx := congrArg (·.radio.tx) h.rest
theorem moves {t : State} (h : PathsOnly s t) : t.radio.moves = s.radio.moves := congrArg (·.radio.moves) h.rest
theorem get {t : State} (h : PathsOnly s t) (g : FieldRef) (hg : g.off ≠ Reg.radioState) : t.get g = s.get g :=
  get_of_regsOnly h.regs g (by simpa using hg)
theorem radioOnly {t : State} (h : PathsOnly s t) {offs : List Nat} (ho : Reg.radioState ∈ offs) : RadioOnly offs s t :=
  ⟨congrArg (fun u : State => { u with radio := s.radio }) h.rest, regsOnly_mono h.regs (by simpa using ho)⟩

end PathsOnly

/-- The paths of a synthesiser depend on PATHn_CTL as in effect and on the retirement map alone. -/
theorem takers_congr {s t : State} (hctl : ∀ p : Fin 4, t.radio.paths[p].ctl = s.radio.paths[p].ctl)
    (hmap : t.rd Reg.fltRetireMap0 = s.rd Reg.fltRetireMap0) (n : Fin 5) : t.takers n = s.takers n := by
  simp only [State.takers, State.pathEn, State.pathLo, State.pathF, State.pathRetired, State.is, State.get, hctl, hmap]
  rfl
theorem PathsOnly.takers {s t : State} (h : PathsOnly s t) (n : Fin 5) : t.takers n = s.takers n := takers_congr h.ctl (h.regs _ (by decide)) n

/-- An event of R360 that completes at several paths settles their first clean tile. -/
theorem cleanAt_forEach_gapEnd (clean : Nat) (l : List (Fin 4)) (s : State) (p : Fin 4) (hp : p ∈ l ∨ s.radio.paths[p].cleanAt = some clean) :
    (s.forEach l (fun s p => s.gapEnd p clean)).radio.paths[p].cleanAt = some clean := by
  induction l generalizing s with
  | nil => exact hp.resolve_left (by simp)
  | cons q l ih =>
    refine ih (s.gapEnd q clean) ?_
    by_cases h : p = q
    · subst h
      exact .inr (congrArg PathSt.cleanAt (upd_self s.radio.paths p _))
    · rcases hp with hp | hp
      · exact .inl ((List.mem_cons.mp hp).resolve_left h)
      · exact .inr ((congrArg PathSt.cleanAt (upd_ne s.radio.paths q p _ h)).trans hp)

/-! ### STATE of a synthesiser, and what stands out of lock -/

/-- What a change of STATE does to the paths of a synthesiser. -/
theorem setLoState_paths (s : State) (n : Fin 5) (v : Nat) : ∃ u, PathsOnly s u ∧
    s.setLoState n v = (u.put (Fld.loStatState n.val) v).put ⟨Reg.radioState, 4 * n.val, 3⟩ v := by
  refine ⟨_, ?_, rfl⟩
  unfold State.cond
  split
  · exact (PathsOnly.refl s).forEach _ _ fun t p => (PathsOnly.refl t).modPath p _ fun _ => rfl
  · exact .refl s

theorem setLoState_radioOnly (s : State) (n : Fin 5) (v : Nat) : RadioOnly [Reg.loStat n.val, Reg.radioState] s (s.setLoState n v) := by
  obtain ⟨u, hu, he⟩ := setLoState_paths s n v
  rw [he]
  exact ((hu.radioOnly (by simp)).put _ _ (by simp)).put _ _ (by simp)

theorem setLoState_los (s : State) (n : Fin 5) (v : Nat) : (s.setLoState n v).radio.los = s.radio.los := by
  obtain ⟨u, hu, he⟩ := setLoState_paths s n v
  rw [he]
  exact hu.los
theorem setLoState_tx (s : State) (n : Fin 5) (v : Nat) : (s.setLoState n v).radio.tx = s.radio.tx := by
  obtain ⟨u, hu, he⟩ := setLoState_paths s n v
  rw [he]
  exact hu.tx
theorem setLoState_tile (s : State) (n : Fin 5) (v : Nat) : (s.setLoState n v).tile = s.tile := congrArg (·.tile) (setLoState_radioOnly s n v).rest
theorem setLoState_moves (s : State) (n : Fin 5) (v : Nat) : (s.setLoState n v).radio.moves = s.radio.moves := by
  obtain ⟨u, hu, he⟩ := setLoState_paths s n v
  rw [he]
  exact hu.moves
theorem fltRetireMap0_ne_loStat (n : Fin 5) : Reg.fltRetireMap0 ≠ Reg.loStat n.val := by revert n; decide
theorem setLoState_takers (s : State) (n m : Fin 5) (v : Nat) : (s.setLoState n v).takers m = s.takers m := by
  obtain ⟨u, hu, he⟩ := setLoState_paths s n v
  rw [he]
  have hmap : ((u.put (Fld.loStatState n.val) v).put ⟨Reg.radioState, 4 * n.val, 3⟩ v).rd Reg.fltRetireMap0 = u.rd Reg.fltRetireMap0 := by
    rw [State.rd_put_ne _ _ _ _ (by simp), State.rd_put_ne _ _ _ _ (fltRetireMap0_ne_loStat n)]
  exact (takers_congr (fun p => by rfl) hmap m).trans (hu.takers m)

theorem loStat_ne_radioState (n : Fin 5) : Reg.loStat n.val ≠ Reg.radioState := by revert n; decide

theorem setLoState_loState_self (s : State) (n : Fin 5) (v : Nat) : (s.setLoState n v).loState n = v % 8 := by
  obtain ⟨u, -, he⟩ := setLoState_paths s n v
  rw [he, State.loState, get_put_other _ _ _ _ (loStat_ne_radioState n), State.get_put_self _ _ _ (by simp)]
  rfl
theorem setLoState_loState_ne (s : State) (n m : Fin 5) (v : Nat) (h : m ≠ n) : (s.setLoState n v).loState m = s.loState m :=
  get_of_regsOnly (setLoState_radioOnly s n v).regs _ (by revert n m; decide)

end Sys2Proof.Machine
end

section
/-! The board's events at the device's balls: rails, power-on reset, RESET_N and the strap pull-downs, and O8. -/

namespace Sys2Proof.Machine

/-! ### Rails -/

theorem Rails.get_set_self (r : Rails) (x : Rail) (b : Bool) : (r.set x b).get x = b := by cases x <;> rfl
theorem Rails.get_set_ne (r : Rails) (x y : Rail) (b : Bool) (h : y ≠ x) : (r.set x b).get y = r.get y := by
  cases x <;> cases y <;> simp [Rails.get, Rails.set] at h ⊢

theorem railsBack_env (s : State) : s.railsBack.env = s.env := (Keeps.refl s).railsBack.env

/-- The pull-downs go on with VDD_IO alone (R51). -/
theorem pullDowns_cond (s : State) (b : Bool) : s.cond b (·.modTop (fun t => { t with pullDowns := true })) =
    s.modTop (fun t => { t with pullDowns := t.pullDowns || b }) := by
  cases b
  · simp [State.cond, State.modTop]
  · simp [State.cond]

theorem railGood_effect (s : State) (r : Rail) (h : s.env.rails.get r = false) : answers (.railGood r) s fun t =>
    t.env.rails.get r = true ∧ (∀ q, q ≠ r → t.env.rails.get q = s.env.rails.get q) ∧ t.env.resetLow = s.env.resetLow ∧ t.env.perstLow = s.env.perstLow ∧
    (r.isCore = true ∨ s.runs = false → { t with env := s.env, top := s.top } = s ∧
      t.top = { s.top with pullDowns := s.top.pullDowns || r == .io }) := by
  set u := (s.setRail r true).modTop (fun t => { t with pullDowns := t.pullDowns || r == .io }) with hu
  have he : exec (.railGood r) s = .next (u.cond (u.runs && !r.isCore) (·.railsBack)) := by
    change execRailGood r s = _
    simp only [execRailGood, done, h, Bool.false_eq_true, if_false, pullDowns_cond]
    rfl
  have henv : (u.cond (u.runs && !r.isCore) (·.railsBack)).env = u.env := by
    unfold State.cond
    split
    · exact railsBack_env u
    · rfl
  refine answers_of he ⟨?_, fun q hq => ?_, ?_, ?_, fun hcase => ?_⟩
  · rw [henv]
    exact Rails.get_set_self _ r true
  · rw [henv]
    exact Rails.get_set_ne _ r q true hq
  · rw [henv]; rfl
  · rw [henv]; rfl
  · have hno : (u.runs && !r.isCore) = false := by
      rcases hcase with hc | hc
      · simp [hc]
      · simp [show u.runs = false from hc]
    simp only [State.cond, hno, Bool.false_eq_true, if_false]
    exact ⟨rfl, rfl⟩

theorem coreRailLost_resets (s : State) (r : Rail) (h : s.env.rails.get r = true) (hc : r.isCore = true) (h4 : s.pwr.d4 = true → r = .vbatAo) :
    answers (.railLost r) s fun t =>
      t.env = { s.env with rails := s.env.rails.set r false } ∧ t.top.por = true ∧ (∀ off, t.rd off = resetWord off) ∧
      (∀ a, t.storeRead a = storeBlank a) ∧ t.top.straps = s.top.straps ∧ t.out = s.out := by
  have hno : ((s.setRail r false).pwr.d4 && r != .vbatAo) = false := by
    cases hd : s.pwr.d4 with
    | false => simp [State.setRail, State.modEnv, hd]
    | true => simp [h4 hd]
  have he : exec (.railLost r) s = .next ((s.setRail r false).hardReset true) := by
    change execRailLost r s = _
    simp only [execRailLost, done, h, hc, Bool.not_true, Bool.false_eq_true, if_false, if_true, hno]
  exact answers_of he ⟨rfl, rfl, fun _ => rfl, fun _ => rfl, rfl, rfl⟩

/-! ### Loss of a rail of the radios (R64) -/

/-- What is on the air and the state of every synthesiser are in `t` as in `s`. -/
structure SameStates (s t : State) : Prop where
  tx : t.radio.tx = s.radio.tx
  state : ∀ n, t.loState n = s.loState n

namespace SameStates

variable {a s : State}

theorem refl (s : State) : SameStates s s := ⟨rfl, fun _ => rfl⟩
theorem trans {t : State} (h : SameStates a s) (k : SameStates s t) : SameStates a t := ⟨k.tx.trans h.tx, fun n => (k.state n).trans (h.state n)⟩
theorem ite {t : State} (c : Prop) [Decidable c] (h : SameStates a s) (k : SameStates a t) : SameStates a (if c then s else t) := by
  split
  · exact h
  · exact k
theorem logs {t : State} (h : SameStates a s) (k : logsOnly s t) : SameStates a t :=
  h.trans ⟨congrArg (·.radio.tx) k.1, fun n => get_of_regsOnly k.2 _ (by revert n; decide)⟩
/-- A write of a field that is no STATE of a synthesiser. -/
theorem put (h : SameStates a s) (f : FieldRef) (v : Nat) (hf : (∀ n : Fin 5, Reg.loStat n.val ≠ f.off) ∨ 3 ≤ f.lo) : SameStates a (s.put f v) :=
  h.trans ⟨rfl, fun n => s.get_put_ne f (Fld.loStatState n.val) v (hf.imp (· n) .inr)⟩
theorem modTag (h : SameStates a s) (f : Tag → Tag) : SameStates a (s.modTag f) := h.trans ⟨rfl, fun _ => rfl⟩
theorem modLo (h : SameStates a s) (n : Fin 5) (f : LoSt → LoSt) : SameStates a (s.modLo n f) := h.trans ⟨rfl, fun _ => rfl⟩
theorem forEach {α : Type} (h : SameStates a s) (l : List α) (f : State → α → State) (hf : ∀ t x, SameStates t (f t x)) :
    SameStates a (s.forEach l f) := forEach_induct (P := SameStates a) (fun t x k => k.trans (hf t x)) l h
theorem radioEnds (h : SameStates a s) (d : Desc) (status : Nat) : SameStates a (s.radioEnds d status) := by
  have hmoves : SameStates a (s.modRadio (fun r => { r with moves := r.moves.filter (fun m => m.d != d) })) := h.trans ⟨rfl, fun _ => rfl⟩
  exact hmoves.logs ((logsOnly.refl _).finish d _)
theorem endBeacon (h : SameStates a s) (b : BeaconReq) (status : Nat) : SameStates a (s.endBeacon b status) :=
  ((h.modTag _).put _ _ (.inl (by decide))).logs ((logsOnly.refl _).finishOpt _ _)
theorem serveEnds (h : SameStates a s) (status : Nat) : SameStates a (s.serveEnds status) := by
  unfold State.serveEnds
  split
  · exact .ite _ h ((h.modTag _).endBeacon _ _)
  · exact h
theorem loFlush (h : SameStates a s) (n : Fin 5) (status : Nat) : SameStates a (s.loFlush n status) := by
  have hdrop := (h.modLo n (fun l => { l with run := none, queue := [] })).put (Fld.loCtlTune n.val) (b2n false) (.inr (by simp))
  have hends := hdrop.forEach (((s.radio.los[n].run.map (·.req)).toList ++ s.radio.los[n].queue).filterMap loDesc)
    (fun s d => s.radioEnds d status) fun t d => (refl t).radioEnds d status
  exact .ite _ (hends.serveEnds status) hends

end SameStates

/-- A send on the air ends: nothing is on the air. -/
theorem sendEnds_tx (s : State) (status : Nat) : (s.sendEnds status).radio.tx = none := by
  unfold State.sendEnds
  cases htx : s.radio.tx with
  | none => exact htx
  | some x =>
    set u := ((s.modRadio (fun r => { r with tx := none })).modTop (fun t => { t with paEn := false })) with hu
    have hdown : (u.cond (u.loState loT == stTx) (·.setLoState loT stSynth)).radio.tx = none := by
      unfold State.cond
      split
      · exact setLoState_tx u loT stSynth
      · rfl
    simp only
    split
    · split
      · exact (((SameStates.refl _).modTag _).endBeacon _ _).tx.trans hdown
      · exact hdown
    · exact hdown

/-- A synthesiser out of lock stands in the state given; the others and what is on the air stay. -/
theorem loOff_states (s : State) (n : Fin 5) (v : Nat) : (s.loOff n v).radio.tx = s.radio.tx ∧ (s.loOff n v).loState n = v % 8 ∧
    ∀ m, m ≠ n → (s.loOff n v).loState m = s.loState m := by
  have hgap := (PathsOnly.refl s).gapAll (s.takers n)
  have hrest := ((((SameStates.refl ((s.gapAll (s.takers n)).setLoState n v)).put (Fld.loStatDiv n.val) 0 (.inr (by simp))).put
    (Fld.loStatLock n.val) (b2n false) (.inr (by simp))).put (Fld.loStatBusy n.val) (b2n false) (.inr (by simp))).modLo n
    (fun l => { l with run := none, gated := false, relock := false })
  refine ⟨hrest.tx.trans ((setLoState_tx _ n v).trans hgap.tx), (hrest.state n).trans (setLoState_loState_self _ n v), fun m hm => ?_⟩
  exact (hrest.state m).trans ((setLoState_loState_ne _ n m v hm).trans (hgap.get _ (loStat_ne_radioState m)))

theorem loStat_ne_loCtl (n m : Fin 5) : Reg.loStat m.val ≠ Reg.loCtl n.val := by revert n m; decide

/-- One synthesiser falls asleep, its requests ended: what `State.radiosSleep` does to each. -/
def State.loSleep (status : Nat) (s : State) (n : Fin 5) : State :=
  ((s.loFlush n status).loOff n stSleep).put (Fld.loCtlTarget n.val) stSleep

theorem loSleep_states (s : State) (n : Fin 5) (status : Nat) : (s.loSleep status n).radio.tx = s.radio.tx ∧ (s.loSleep status n).loState n = 0 ∧
    ∀ m, m ≠ n → (s.loSleep status n).loState m = s.loState m := by
  have hflush := (SameStates.refl s).loFlush n status
  obtain ⟨htx, hself, hne⟩ := loOff_states (s.loFlush n status) n stSleep
  have htarget := (SameStates.refl ((s.loFlush n status).loOff n stSleep)).put (Fld.loCtlTarget n.val) stSleep
    (.inl (loStat_ne_loCtl n))
  exact ⟨htarget.tx.trans (htx.trans hflush.tx), (htarget.state n).trans hself,
    fun m hm => (htarget.state m).trans ((hne m hm).trans (hflush.state m))⟩

/-- All of a list of synthesisers fall asleep. -/
theorem forEach_loSleep (status : Nat) (l : List (Fin 5)) (s : State) : (s.forEach l (State.loSleep status)).radio.tx = s.radio.tx ∧
    ∀ m, m ∈ l ∨ s.loState m = 0 → (s.forEach l (State.loSleep status)).loState m = 0 := by
  induction l generalizing s with
  | nil => exact ⟨rfl, fun m hm => hm.resolve_left (by simp)⟩
  | cons n l ih =>
    obtain ⟨htx, hself, hne⟩ := loSleep_states s n status
    obtain ⟨ihtx, ihst⟩ := ih (s.loSleep status n)
    refine ⟨ihtx.trans htx, fun m hm => ihst m ?_⟩
    by_cases h : m = n
    · subst h
      exact .inr hself
    · rcases hm with hm | hm
      · exact .inl ((List.mem_cons.mp hm).resolve_left h)
      · exact .inr ((hne m h).trans hm)

theorem radiosSleep_states (s : State) (send moves : Nat) :
    (s.radiosSleep send moves).radio.tx = none ∧ ∀ n, (s.radiosSleep send moves).loState n = 0 := by
  have he : s.radiosSleep send moves = (s.sendEnds send).forEach allLos (State.loSleep moves) := rfl
  obtain ⟨htx, hst⟩ := forEach_loSleep moves allLos (s.sendEnds send)
  rw [he]
  exact ⟨htx.trans (sendEnds_tx s send), fun n => hst n (.inl (by revert n; decide))⟩

theorem radioRailLost_effect (s : State) (r : Rail) (h : s.env.rails.get r = true) (hc : r.isCore = false) (hr : s.runs = true)
    (hrf : s.enRf = true) : answers (.railLost r) s fun t =>
      t.env = { s.env with rails := s.env.rails.set r false } ∧ (∀ n : Fin 5, t.loState n = 0) ∧ t.radio.tx = none ∧
      t.is Fld.fltStatRail = true := by
  have hrun : ((s.setRail r false).runs && (s.setRail r false).enRf) = true := by
    simp [show (s.setRail r false).runs = true from hr, show (s.setRail r false).enRf = true from hrf]
  have he : exec (.railLost r) s = .next ((s.setRail r false).radioRailLost r.idx) := by
    change execRailLost r s = _
    simp only [execRailLost, done, h, hc, State.cond, hrun, Bool.not_true, Bool.false_eq_true, if_false, if_true]
  obtain ⟨htx, hst⟩ := radiosSleep_states (s.setRail r false) stTimeout stTimeout
  have hfault : SameStates ((s.setRail r false).radiosSleep stTimeout stTimeout) ((s.setRail r false).radioRailLost r.idx) :=
    (SameStates.refl _).logs ((logsOnly.refl _).fault _ _ _ _ _)
  exact answers_of he ⟨((Keeps.refl (s.setRail r false)).radioRailLost r.idx).env, fun n => (hfault.state n).trans (hst n), hfault.tx.trans htx,
    (fault_sets _ 0x01 0 r.idx 0 0 Fld.fltStatRail rfl rfl (by decide) (by decide)).1⟩

/-! ### Power-on reset and RESET_N (R36, R49, R50) -/

theorem sampleStraps_compat6 (s : State) (st : Straps) : (s.sampleStraps st).is Fld.topCfgCompat6 = st.compat6 :=
  State.is_putB _ _ _ (by decide) (by decide)
theorem sampleStraps_fieldsOnly (s : State) (st : Straps) : fieldsOnly [Fld.topCfgCompat6] s (s.sampleStraps st) :=
  fieldsOnly_put (s.modTop (fun t => { t with straps := st, pullDowns := true })) Fld.topCfgCompat6 _ List.mem_cons_self

theorem powerOnResetRelease_samples (s : State) (st : Straps) (hp : s.top.por = true) (hu : s.env.rails.up = true) (h4 : s.pwr.d4 = false) :
    answers (.powerOnResetRelease st) s fun t =>
      t.top = { s.top with por := false, straps := st, pullDowns := true } ∧ t.is Fld.topCfgCompat6 = st.compat6 ∧
      fieldsOnly [Fld.topCfgCompat6] s t ∧ { t with regs := s.regs, top := s.top, spi := s.spi } = s := by
  have he : exec (.powerOnResetRelease st) s = .next
      (((s.modTop (fun t => { t with por := false })).modSpi (fun p => { p with d4Silent := false })).sampleStraps st) := by
    change execPowerOnResetRelease st s = _
    simp [execPowerOnResetRelease, done, hp, hu, h4]
  exact answers_of he ⟨rfl, sampleStraps_compat6 _ st, sampleStraps_fieldsOnly
    ((s.modTop (fun t => { t with por := false })).modSpi (fun p => { p with d4Silent := false })) st, rfl⟩

theorem pulseActs_of_long {ns : Nat} (s : State) (h : 10000 ≤ ns) : s.pulseActs ns = true := if_pos h
theorem pulseActs_of_short {ns : Nat} (s : State) (h : ns < 1000) : s.pulseActs ns = false := by
  rw [State.pulseActs, if_neg (by omega), if_pos h]

theorem resetNAssert_clears (s : State) (ns : Nat) (h : 10000 ≤ ns) (h4 : s.pwr.d4 = false) : answers (.resetNAssert ns) s fun t =>
    t.env = { s.env with resetLow := true } ∧ t.alive = false ∧ (∀ off, t.rd off = resetWord off) ∧ (∀ a, t.storeRead a = storeBlank a) := by
  have he : exec (.resetNAssert ns) s = .next (((s.modEnv (fun p => { p with resetLow := true })).draw).hardReset s.top.por) := by
    change execResetNAssert ns s = _
    simp only [execResetNAssert, done, pulseActs_of_long s h, Bool.not_true, Bool.false_eq_true, if_false]
    exact congrArg Host.Outcome.next (if_neg (ne_true_of_eq_false h4))
  exact answers_of he ⟨rfl, by simp [State.alive, State.hardReset, State.draw, State.modEnv], fun _ => rfl, fun _ => rfl⟩

theorem resetNAssert_ignores (s : State) (ns : Nat) (h : ns < 1000) : answers (.resetNAssert ns) s fun t => t = s.draw := by
  refine answers_of (t := s.draw) ?_ rfl
  change execResetNAssert ns s = _
  simp [execResetNAssert, done, pulseActs_of_short s h]

/-- RESET_N rises after a low level that acted. -/
theorem resetNRelease_next (s : State) (st : Straps) (ns : Nat) (h : 10000 ≤ ns) (hl : s.env.resetLow = true) :
    let u := (s.modEnv (fun p => { p with resetLow := false })).draw
    exec (.resetNRelease st ns) s = .next (if s.pwr.d4 then (u.modPwr (fun p => { p with d4Wake := p.d4Wake ||| 2 ^ 10 })).leaveD4 st
      else if s.top.por then u else u.sampleStraps st) := by
  change execResetNRelease st ns s = _
  simp only [execResetNRelease, done, pulseActs_of_long s h, hl, Bool.not_true, Bool.or_self, Bool.false_eq_true, if_false]
  rfl

theorem resetNRelease_samples (s : State) (st : Straps) (ns : Nat) (h : 10000 ≤ ns) (hl : s.env.resetLow = true) (h4 : s.pwr.d4 = false)
    (hp : s.top.por = false) : answers (.resetNRelease st ns) s fun t =>
      t.env = { s.env with resetLow := false } ∧ t.top.straps = st ∧ t.is Fld.topCfgCompat6 = st.compat6 ∧ fieldsOnly [Fld.topCfgCompat6] s t ∧
      t.alive = true := by
  have he := resetNRelease_next s st ns h hl
  simp only [h4, hp, Bool.false_eq_true, if_false] at he
  refine answers_of he ⟨rfl, rfl, sampleStraps_compat6 _ st, sampleStraps_fieldsOnly ((s.modEnv (fun p => { p with resetLow := false })).draw) st, ?_⟩
  simp [State.alive, State.sampleStraps, State.modTop, State.putB, State.put, State.draw, State.modEnv, State.wr, hp, h4]

theorem resetNRelease_leavesD4 (s : State) (st : Straps) (ns : Nat) (h : 10000 ≤ ns) (hl : s.env.resetLow = true) (h4 : s.pwr.d4 = true) :
    answers (.resetNRelease st ns) s fun t =>
      t.pwr.d4 = false ∧ t.top.straps = st ∧ t.env = { s.env with resetLow := false } ∧ t.pwr.d4Wake = s.pwr.d4Wake ||| 2 ^ 10 := by
  have he := resetNRelease_next s st ns h hl
  simp only [h4, if_true] at he
  exact answers_of he ⟨rfl, rfl, rfl, rfl⟩

/-- Settles O8, a lemma for each of the board's events. -/
theorem railsAndResetPinsActAsTheBoardDrivesThem : Obligations.RailsAndResetPinsActAsTheBoardDrivesThem :=
  ⟨railGood_effect, coreRailLost_resets, radioRailLost_effect, powerOnResetRelease_samples, fun _ => answers_of rfl rfl,
    resetNAssert_clears, resetNAssert_ignores, resetNRelease_samples, resetNRelease_leavesD4⟩

end Sys2Proof.Machine
end

section
/-! Requests of a synthesiser: how one begins, starts and is done, and what a lock sets (R355, R358, R359). -/

namespace Sys2Proof.Machine

/-! ### A synthesiser's own data -/

theorem modLo_self (s : State) (n : Fin 5) (f : LoSt → LoSt) : (s.modLo n f).radio.los[n] = f s.radio.los[n] := upd_self ..
theorem modLo_ne (s : State) (n m : Fin 5) (f : LoSt → LoSt) (h : m ≠ n) : (s.modLo n f).radio.los[m] = s.radio.los[m] := upd_ne _ _ _ _ h
theorem modLo_modLo (s : State) (n : Fin 5) (f g : LoSt → LoSt) : (s.modLo n f).modLo n g = s.modLo n (fun l => g (f l)) := by
  simp [State.modLo, upd]
theorem modLo_of_fixed (s : State) (n : Fin 5) (f : LoSt → LoSt) (h : f s.radio.los[n] = s.radio.los[n]) : s.modLo n f = s := by
  have h' : f s.radio.los[n.val] = s.radio.los[n.val] := h
  simp [State.modLo, upd, h']

theorem logsOnly.radio_eq {s t : State} (h : logsOnly s t) : t.radio = s.radio := congrArg (·.radio) h.1
/-- What only reporting changes after a change of the radio's own data has those data as they were set. -/
theorem logsOnly.of_modRadio {s t : State} {f : Radio → Radio} (h : logsOnly (s.modRadio f) t) : logsOnly (s.modRadio (fun _ => t.radio)) t := by
  have hr : t.radio = f s.radio := h.radio_eq
  rw [hr]
  exact h

/-! ### Serving (R358) -/

theorem loServeN_idle (k : Nat) (s : State) (n : Fin 5) (hq : s.radio.los[n].queue = []) : loServeN (k + 1) s n = s := by
  rw [loServeN]
  simp only [hq]
theorem loServe_idle (s : State) (n : Fin 5) (hq : s.radio.los[n].queue = []) : s.loServe n = s := loServeN_idle _ s n hq

theorem loBegin_los (s : State) (n : Fin 5) (req : LoReq) : (s.loBegin n req).1.radio.los = s.radio.los := by
  unfold State.loBegin
  extract_lets st freq retune move
  have hretune : ∀ u f force noCal, (retune u f force noCal).1 = u := by
    intro u f force noCal
    simp only [retune]
    split
    · rfl
    · split <;> rfl
  have hmove : ∀ u t, (move u t).1.radio.los = u.radio.los := by
    intro u t
    simp only [move]
    split
    · rfl
    · split
      · rfl
      · split <;> rfl
  cases req with
  | target t => exact hmove s t
  | move d t => exact hmove s t
  | tune force => exact congrArg (·.radio.los) (hretune ..)
  | retune d => exact congrArg (·.radio.los) (hretune ..)
  | place i f => exact congrArg (·.radio.los) (hretune ..)
  | probe f => exact congrArg (·.radio.los) (hretune ..)
  | send f =>
    simp only
    split
    · exact hmove ..
    · exact congrArg (·.radio.los) (hretune ..)

theorem loDone_los (s : State) (n : Fin 5) (req : LoReq) (cal : Bool) : (s.loDone n req cal).radio.los = s.radio.los := by
  have hcomplete (u : State) (d : Desc) (r : Result) : (u.complete d r).radio = u.radio := ((logsOnly.refl u).complete d r).radio_eq
  cases req with
  | move d t =>
    simp only [State.loDone]
    split
    · exact congrArg (·.los) (hcomplete ..)
    · rfl
  | retune d => exact congrArg (·.los) (hcomplete ..)
  | target t => rfl
  | tune force => rfl
  | place i f => rfl
  | probe f => rfl
  | send f => rfl

/-- A request that is done leaves a synthesiser without a queue to serve. -/
theorem loDone_loServe (s : State) (n : Fin 5) (req : LoReq) (cal : Bool) (hq : s.radio.los[n].queue = []) :
    (s.loDone n req cal).loServe n = s.loDone n req cal :=
  loServe_idle _ n (by rw [loDone_los, hq])

/-- A request starts: as `loServeN` starts it. -/
def State.loStart (s : State) (n : Fin 5) (req : LoReq) (r : LoRun) : State :=
  let s := match loDesc req with
    | some d => s.commit d
    | none => s
  let s := (s.modLo n (fun l => { l with run := some r })).putB (Fld.loStatBusy n.val) true
  s.cond (s.loState n == stRx) (fun s => (s.gapAll (s.takers n)).movedAll (s.takers n))

section Requests

variable {s u : State} {n : Fin 5} {req : LoReq} {run : Option LoRun} (hq : s.radio.los[n].queue = []) (hr : s.radio.los[n].run = none) (hst : s.loState n ≠ stTx)
include hq hr hst

/-- A request of a synthesiser that does nothing and waits for nothing is served. -/
theorem loRequest_serves (hb : s.loBegin n req = (u, run)) : s.loRequest n req = match run with
    | none => u.loDone n req false
    | some r => u.loStart n req r := by
  have hqueue : (s.modLo n (fun l => { l with queue := l.queue ++ [req] })).radio.los[n].queue = [req] := by rw [modLo_self, hq]; rfl
  have hrun : (s.modLo n (fun l => { l with queue := l.queue ++ [req] })).radio.los[n].run.isSome = false := by rw [modLo_self, hr]; rfl
  have hstate : ((s.modLo n (fun l => { l with queue := l.queue ++ [req] })).loState n == stTx) = false := beq_false_of_ne hst
  have hpop : (s.modLo n (fun l => { l with queue := l.queue ++ [req] })).modLo n (fun l => { l with queue := [] }) = s := by
    rw [modLo_modLo]
    exact modLo_of_fixed _ _ _ (by rw [← hq])
  have hlos : u.radio.los = s.radio.los := by rw [← loBegin_los s n req, hb]
  rw [State.loRequest, State.loServe, hqueue, List.length_singleton, loServeN]
  simp only [hqueue, hrun, hstate, hpop, hb, Bool.or_self, Bool.false_eq_true, if_false]
  cases run with
  | none => exact loServeN_idle 0 _ n (by rw [loDone_los, hlos, hq])
  | some r => rfl
theorem loRequest_of_done (hb : s.loBegin n req = (u, none)) : s.loRequest n req = u.loDone n req false := loRequest_serves hq hr hst hb
theorem loRequest_of_run {r : LoRun} (hb : s.loBegin n req = (u, some r)) : s.loRequest n req = u.loStart n req r := loRequest_serves hq hr hst hb

end Requests

/-! ### How a request begins (R350, R355, R358, R359, R808) -/

/-- A way to a state: as `State.loBegin` has it. -/
def State.loWay (s : State) (n : Fin 5) (req : LoReq) (t : Nat) : State × Option LoRun :=
  let st := s.loState n
  let freq := s.loFreqReg n
  let s := s.put (Fld.loCtlTarget n.val) t
  if t == st || s.loHeld n || s.loRetired n then (s, none)
  else if t < st then (s, some ⟨req, t, freq, false, false, false⟩)
  else if st == stSleep && s.protect then (s, none)
  else (s, some ⟨req, st + 1, freq, st == stStandby && s.needCal n freq true false false, false, st == stSleep && !s.radioRails⟩)

theorem loBegin_target (s : State) (n : Fin 5) (t : Nat) : s.loBegin n (.target t) = s.loWay n (.target t) t := rfl
theorem loBegin_move (s : State) (n : Fin 5) (d : Desc) (t : Nat) : s.loBegin n (.move d t) = s.loWay n (.move d t) t := rfl

/-- TARGET is set whatever the way. -/
theorem loWay_state (s : State) (n : Fin 5) (req : LoReq) (t : Nat) : (s.loWay n req t).1 = s.put (Fld.loCtlTarget n.val) t := by
  unfold State.loWay
  extract_lets
  split
  · rfl
  · split
    · rfl
    · split <;> rfl

theorem loWay_stays {s : State} {n : Fin 5} {req : LoReq} {t : Nat} (h : t = s.loState n) :
    s.loWay n req t = (s.put (Fld.loCtlTarget n.val) t, none) := if_pos (by simp [h])

theorem put_takers (s : State) (f : FieldRef) (v : Nat) (n : Fin 5) (h : Reg.fltRetireMap0 ≠ f.off) : (s.put f v).takers n = s.takers n :=
  takers_congr (s := s) (t := s.put f v) (fun _ => rfl) (State.rd_put_ne _ _ _ _ h) n
theorem loHeld_of_takers {s t : State} {n : Fin 5} (h : t.takers n = s.takers n) : t.loHeld n = s.loHeld n := by
  rw [State.loHeld, h, State.loHeld]
theorem put_target_loHeld (s : State) (n : Fin 5) (t : Nat) : (s.put (Fld.loCtlTarget n.val) t).loHeld n = s.loHeld n :=
  loHeld_of_takers (put_takers s _ _ n (by revert n; decide))
theorem put_target_loRetired (s : State) (n : Fin 5) (t : Nat) : (s.put (Fld.loCtlTarget n.val) t).loRetired n = s.loRetired n :=
  congrArg (· != 0) (get_put_other _ _ _ _ (by revert n; decide))
theorem put_target_protect (s : State) (n : Fin 5) (t : Nat) : (s.put (Fld.loCtlTarget n.val) t).protect = s.protect :=
  congrArg (· != 0) (get_put_other _ _ _ _ (by revert n; decide))

section Ways

variable {s : State} {n : Fin 5} {req : LoReq} {t : Nat} (hheld : s.loHeld n = false) (hret : s.loRetired n = false)
include hheld hret

/-- Downwards in one step. -/
theorem loWay_down (h : t < s.loState n) :
    s.loWay n req t = (s.put (Fld.loCtlTarget n.val) t, some ⟨req, t, s.loFreqReg n, false, false, false⟩) := by
  have hne : (t == s.loState n) = false := beq_false_of_ne (Nat.ne_of_lt h)
  simp [State.loWay, put_target_loHeld, put_target_loRetired, hheld, hret, hne, h]

/-- Upwards by the next state, waiting for the rails out of SLEEP. -/
theorem loWay_up (h : s.loState n < t) (hp : s.loState n = stSleep → s.protect = false) : ∃ cal,
    s.loWay n req t = (s.put (Fld.loCtlTarget n.val) t,
      some ⟨req, s.loState n + 1, s.loFreqReg n, cal, false, s.loState n == stSleep && !s.radioRails⟩) := by
  have hne : (t == s.loState n) = false := beq_false_of_ne (Nat.ne_of_gt h)
  have hprot : (s.loState n == stSleep && s.protect) = false := by
    cases hs : (s.loState n == stSleep) with
    | false => rfl
    | true => exact hp (by simpa using hs)
  refine ⟨s.loState n == stStandby && (s.put (Fld.loCtlTarget n.val) t).needCal n (s.loFreqReg n) true false false, ?_⟩
  simp only [State.loWay, put_target_loHeld, put_target_loRetired, put_target_protect, hheld, hret, hne, Nat.not_lt_of_gt h, hprot, Bool.or_self,
    Bool.false_eq_true, if_false]
  rfl

end Ways

/-- A retune: as `State.loBegin` has it, STATE being `st`. -/
def State.loRetune (s : State) (st : Nat) (n : Fin 5) (req : LoReq) (f : Nat) (force noCal : Bool) : State × Option LoRun :=
  if st < stSynth then (s, none)
  else
    let cal := s.needCal n f false force noCal
    if f == s.radio.los[n].freq && s.is (Fld.loStatLock n.val) && !cal then (s, none)
    else (s, some ⟨req, 5, f, cal, false, false⟩)

theorem loBegin_tune (s : State) (n : Fin 5) (force : Bool) :
    s.loBegin n (.tune force) = s.loRetune (s.loState n) n (.tune force) (s.loFreqReg n) force false := rfl
theorem loBegin_retune (s : State) (n : Fin 5) (d : Desc) : s.loBegin n (.retune d) =
    (s.wr (Reg.loFreq n.val) (d.w 2)).loRetune (s.loState n) n (.retune d) (d.w 2).toNat (d.f 1 8 1 == 1) (d.f 1 9 1 == 1) := rfl

theorem loRetune_state (s : State) (st : Nat) (n : Fin 5) (req : LoReq) (f : Nat) (force noCal : Bool) :
    (s.loRetune st n req f force noCal).1 = s := by
  unfold State.loRetune
  extract_lets
  split
  · rfl
  · split <;> rfl
theorem loRetune_below {s : State} {st : Nat} (h : st < 2) (n : Fin 5) (req : LoReq) (f : Nat) (force noCal : Bool) :
    s.loRetune st n req f force noCal = (s, none) := if_pos h
theorem loRetune_moves {s : State} {st : Nat} {n : Fin 5} {f : Nat} (h : ¬ st < 2) (hf : f ≠ s.radio.los[n].freq) (req : LoReq) (force noCal : Bool) :
    ∃ cal, s.loRetune st n req f force noCal = (s, some ⟨req, 5, f, cal, false, false⟩) := by
  refine ⟨s.needCal n f false force noCal, (if_neg h).trans (if_neg ?_)⟩
  rw [beq_false_of_ne hf]
  simp

/-! ### How a request starts -/

/-- A synthesiser is BUSY with a request. -/
def State.loBusy (s : State) (n : Fin 5) (r : LoRun) : State := (s.modLo n (fun l => { l with run := some r })).putB (Fld.loStatBusy n.val) true

theorem loBusy_radioOnly (s : State) (n : Fin 5) (r : LoRun) : RadioOnly [Reg.loStat n.val] s (s.loBusy n r) :=
  ((RadioOnly.refl s).modLo n _).putB _ _ List.mem_cons_self

theorem loBusy_lo (s : State) (n : Fin 5) (r : LoRun) : (s.loBusy n r).radio.los[n] = { s.radio.los[n] with run := some r } := modLo_self s n _
theorem loBusy_busy (s : State) (n : Fin 5) (r : LoRun) : (s.loBusy n r).is (Fld.loStatBusy n.val) = true := State.is_putB _ _ _ (by simp) rfl
theorem loBusy_loState (s : State) (n : Fin 5) (r : LoRun) : (s.loBusy n r).loState n = s.loState n := get_put_bits _ _ _ _ (.inr (by simp))

/-- A request that starts notes the commit point of its descriptor, and the synthesiser is BUSY; in RX its paths have a GAP. -/
theorem loStart_paths (s : State) (n : Fin 5) (req : LoReq) (r : LoRun) : ∃ c, logsOnly s c ∧ (loDesc req = none → c = s) ∧
    PathsOnly (c.loBusy n r) (s.loStart n req r) ∧ (s.loState n ≠ stRx → s.loStart n req r = c.loBusy n r) := by
  have hstart (c : State) (hc : logsOnly s c) : (c.loBusy n r).loState n = s.loState n :=
    (loBusy_loState c n r).trans (get_of_regsOnly hc.2 _ (by revert n; decide))
  have hpaths (c : State) : PathsOnly (c.loBusy n r)
      ((c.loBusy n r).cond ((c.loBusy n r).loState n == stRx) (fun s => (s.gapAll (s.takers n)).movedAll (s.takers n))) := by
    unfold State.cond
    split
    · exact ((PathsOnly.refl _).gapAll _).movedAll _
    · exact .refl _
  have hidle (c : State) (hc : logsOnly s c) (h : s.loState n ≠ stRx) :
      (c.loBusy n r).cond ((c.loBusy n r).loState n == stRx) (fun s => (s.gapAll (s.takers n)).movedAll (s.takers n)) = c.loBusy n r :=
    if_neg (by simpa [hstart c hc] using h)
  cases hd : loDesc req with
  | none =>
    have he : s.loStart n req r = (s.loBusy n r).cond ((s.loBusy n r).loState n == stRx)
        (fun s => (s.gapAll (s.takers n)).movedAll (s.takers n)) := by
      rw [State.loStart, hd]
      rfl
    rw [he]
    exact ⟨s, .refl s, fun _ => rfl, hpaths s, hidle s (.refl s)⟩
  | some d =>
    have he : s.loStart n req r = ((s.commit d).loBusy n r).cond (((s.commit d).loBusy n r).loState n == stRx)
        (fun s => (s.gapAll (s.takers n)).movedAll (s.takers n)) := by
      rw [State.loStart, hd]
      rfl
    have hc := (logsOnly.refl s).commit d
    rw [he]
    exact ⟨s.commit d, hc, fun h => absurd h (by simp), hpaths _, hidle _ hc⟩

theorem loStart_run (s : State) (n : Fin 5) (req : LoReq) (r : LoRun) : (s.loStart n req r).radio.los[n].run = some r := by
  obtain ⟨c, -, -, hp, -⟩ := loStart_paths s n req r
  rw [hp.los, loBusy_lo]
theorem loStart_busy (s : State) (n : Fin 5) (req : LoReq) (r : LoRun) : (s.loStart n req r).is (Fld.loStatBusy n.val) = true := by
  obtain ⟨c, -, -, hp, -⟩ := loStart_paths s n req r
  rw [State.is, hp.get _ (loStat_ne_radioState n)]
  exact loBusy_busy c n r
theorem loStart_rd (s : State) (n : Fin 5) (req : LoReq) (r : LoRun) (off : Nat) (h : off ∉ [Reg.loStat n.val, Reg.radioState]) (hl : off ∉ logRegs) :
    (s.loStart n req r).rd off = s.rd off := by
  simp only [List.mem_cons, List.not_mem_nil, or_false, not_or] at h
  obtain ⟨c, hc, -, hp, -⟩ := loStart_paths s n req r
  rw [hp.regs off (by simpa using h.2), (loBusy_radioOnly c n r).regs off (by simpa using h.1), hc.2 off hl]
theorem loStart_radioOnly (s : State) (n : Fin 5) (req : LoReq) (r : LoRun) (hd : loDesc req = none) :
    RadioOnly [Reg.loStat n.val, Reg.radioState] s (s.loStart n req r) := by
  obtain ⟨c, -, he, hp, -⟩ := loStart_paths s n req r
  rw [he hd] at hp
  exact ((loBusy_radioOnly s n r).mono (by simp)).trans (hp.radioOnly (by simp))
theorem loStart_radioOnly_of_not_rx (s : State) (n : Fin 5) (req : LoReq) (r : LoRun) (hd : loDesc req = none) (hst : s.loState n ≠ stRx) :
    RadioOnly [Reg.loStat n.val] s (s.loStart n req r) := by
  obtain ⟨c, -, he, -, hidle⟩ := loStart_paths s n req r
  rw [hidle hst, he hd]
  exact loBusy_radioOnly s n r

/-! ### How a request is done -/

/-- A synthesiser that has done a request is not BUSY. -/
theorem loDone_target (s : State) (n : Fin 5) (t : Nat) (cal : Bool) : s.loDone n (.target t) cal = s.putB (Fld.loStatBusy n.val) false := rfl
theorem loDone_tune (s : State) (n : Fin 5) (force cal : Bool) :
    s.loDone n (.tune force) cal = (s.putB (Fld.loStatBusy n.val) false).putB (Fld.loCtlTune n.val) false := rfl

/-- Outside RX a retune of a descriptor completes with the divider and no clean tile. -/
theorem loDone_retune {s : State} {n : Fin 5} (hst : s.loState n ≠ stRx) (d : Desc) (cal : Bool) : s.loDone n (.retune d) cal =
    (s.putB (Fld.loStatBusy n.val) false).complete d
      { status := stOK, r1 := packW [(8, 8, s.get (Fld.loStatDiv n.val)), (0, 1, b2n cal)] } := by
  have hstate : (s.putB (Fld.loStatBusy n.val) false).loState n = s.loState n := get_put_bits _ _ _ _ (.inr (by simp))
  have hdiv : (s.putB (Fld.loStatBusy n.val) false).get (Fld.loStatDiv n.val) = s.get (Fld.loStatDiv n.val) := get_put_bits _ _ _ _ (.inl (by simp))
  have hrx : ((s.putB (Fld.loStatBusy n.val) false).loState n == stRx) = false := by rw [hstate]; exact beq_false_of_ne hst
  simp only [State.loDone, hrx, hdiv, Bool.false_eq_true, if_false]
  rfl

/-- The last move of a descriptor, below RX, completes it. -/
theorem loDone_move_last {s : State} {n : Fin 5} {d : Desc} {t : Nat} (hm : s.radio.moves = [⟨d, [n.val], false, 0⟩]) (ht : t ≠ stRx) (cal : Bool) :
    s.loDone n (.move d t) cal = ((s.putB (Fld.loStatBusy n.val) false).modRadio (fun r => { r with moves := [] })).complete d
      { status := stOK, r1 := BitVec.ofNat 32 (b2n cal) } := by
  simp [State.loDone, hm, ht, laterTile]

end Sys2Proof.Machine
end

section
/-! Writes of LOn_CTL and LOn_CALMODE over the bus, and what a target, a retune and INVALIDATE do (R358, R361). -/

namespace Sys2Proof.Machine

/-! ### A served write lands on its register -/

theorem hostWrite_served {s : State} {p : Port} {off : Nat} (h : served s p off) (hoff : off ≠ Reg.topSoftReset) (w : Word) (t : WriteAt) :
    s.hostWrite p off w t = s.regWrite p off w t := by
  obtain ⟨hopen, hreach⟩ := h
  have hsoft : (off == Reg.topSoftReset) = false := beq_false_of_ne hoff
  simp only [State.hostWrite, hopen, if_true, State.serveWrite, hreach, hsoft, State.cond, Bool.false_eq_true, if_false]

/-- Every value of the register's fields is defined by the field table. -/
theorem fieldsDefined_of_no_domains {fs : List Field} (h : fs.all (·.dom.isEmpty) = true) (w : Word) : fieldsDefined fs w = true := by
  rw [fieldsDefined, List.all_eq_true]
  intro f hf
  simp [List.all_eq_true.mp h f hf]

/-- A register of the synthesisers, where a write acts by itself: no pair, no ring, no register of another unit that acts. -/
structure SynthReg (off : Nat) : Prop where
  low : off < 0x6800
  acting : off ∉ actingRegs
  window : ¬(Reg.bootWinData 0 ≤ off ∧ off ≤ Reg.bootWinData 63)
  ringCtl : ringOfCtl off = none
  ringPlace : ringOfPlace off = none
  pair : isPaired off = false ∧ isPaired (off - 4) = false

theorem SynthReg.regWrite {off : Nat} (h : SynthReg off) (s : State) (p : Port) (w : Word) (t : WriteAt) {r : RegRow} (hrow : regRow off = some r)
    (hro : allRO r.fields = false) (hdom : r.fields.all (·.dom.isEmpty) = true) (hwd : s.writeDefined off w = true) :
    s.regWrite p off w t = s.landWrite p off w r.fields t := by
  have hact := h.acting
  simp only [actingRegs, List.mem_cons, not_or] at hact
  have hfs : s.fieldsAt off r = r.fields := by simp [State.fieldsAt, hact]
  have hlow := h.low
  have hdbg : ¬ 0xF004 ≤ off := by omega
  have haway : s.svcAway off = false := by simp [State.svcAway, show ¬ 0x6800 ≤ off by omega]
  simp [State.regWrite, hrow, hfs, hwd, hdbg, haway, hro, fieldsDefined_of_no_domains hdom w, h.pair]

theorem synthReg_loCtl (n : Fin 5) : SynthReg (Reg.loCtl n.val) := by
  constructor <;> (revert n; decide)
theorem synthReg_loCalmode (n : Fin 5) : SynthReg (Reg.loCalmode n.val) := by
  constructor <;> (revert n; decide)

theorem regRow_loCtl (n : Fin 5) : ∃ r, regRow (Reg.loCtl n.val) = some r ∧ allRO r.fields = false ∧ r.fields.all (·.dom.isEmpty) = true := by
  revert n; decide
theorem regRow_loCalmode (n : Fin 5) : ∃ r, regRow (Reg.loCalmode n.val) = some r ∧ r.fields = [⟨8, 8, .rw, []⟩, ⟨1, 1, .sc, []⟩, ⟨0, 1, .rw, []⟩] := by
  revert n; decide

theorem loOfCtl_loCtl (n : Fin 5) : loOfCtl (Reg.loCtl n.val) = some n := by revert n; decide
theorem loOfCtl_loCalmode (n : Fin 5) : loOfCtl (Reg.loCalmode n.val) = none := by revert n; decide
theorem loOfCalmode_loCalmode (n : Fin 5) : loOfCalmode (Reg.loCalmode n.val) = some n := by revert n; decide
theorem loCalmode_elsewhere (n : Fin 5) : loOfFreq (Reg.loCalmode n.val) = none ∧ pathOfAgc (Reg.loCalmode n.val) = none ∧
    sapOfCtl (Reg.loCalmode n.val) = none ∧ mapOf (Reg.loCalmode n.val) = none := by revert n; decide

/-- A served, defined write of LOn_CTL asks for its target, then for a retune. -/
theorem hostWrite_loCtl {s : State} {p : Port} {n : Fin 5} (h : served s p (Reg.loCtl n.val)) (w : Word) (t : WriteAt) (hlt : getF w 0 3 < 4)
    (htx : n = loT → getF w 0 3 ≠ 3) (hfreq : 2 ≤ getF w 0 3 → s.loFreqReg n ≠ 0) : s.hostWrite p (Reg.loCtl n.val) w t = s.writeLoCtl n w := by
  obtain ⟨r, hrow, hro, hdom⟩ := regRow_loCtl n
  have hsyn := synthReg_loCtl n
  have hact := hsyn.acting
  simp only [actingRegs, List.mem_cons, not_or] at hact
  have hwd : s.writeDefined (Reg.loCtl n.val) w = true := by
    simp only [State.writeDefined, beq_false_of_ne hact.1, beq_iff_eq, hact, if_false, Bool.false_eq_true, loOfCtl_loCtl]
    simpa [hlt] using ⟨imp_iff_not_or.mp htx, (Nat.lt_or_ge (getF w 0 3) 2).imp Nat.le_of_lt_succ hfreq⟩
  rw [hostWrite_served h hact.1, hsyn.regWrite s p w t hrow hro hdom hwd]
  simp [State.landWrite, hsyn.window, hsyn.ringCtl, hsyn.ringPlace, hact, loOfCtl_loCtl]

/-- A served write of LOn_CALMODE with INVALIDATE takes its fields and discards the held sets. -/
theorem hostWrite_loCalmode {s : State} {p : Port} {n : Fin 5} (h : served s p (Reg.loCalmode n.val)) (w : Word) (t : WriteAt) (hw : getF w 1 1 = 1) :
    s.hostWrite p (Reg.loCalmode n.val) w t =
      (s.wr (Reg.loCalmode n.val) (setF (setF (s.rd (Reg.loCalmode n.val)) 8 8 (getF w 8 8)) 0 1 (getF w 0 1))).loInvalidate n := by
  obtain ⟨r, hrow, hf⟩ := regRow_loCalmode n
  have hsyn := synthReg_loCalmode n
  have hact := hsyn.acting
  simp only [actingRegs, List.mem_cons, not_or] at hact
  obtain ⟨hlofreq, hagc, hsap, hmap⟩ := loCalmode_elsewhere n
  have hwd : s.writeDefined (Reg.loCalmode n.val) w = true := by
    simp [State.writeDefined, hact, loOfCtl_loCalmode, hlofreq, hagc]
  rw [hostWrite_served h hact.1, hsyn.regWrite s p w t hrow (by rw [hf]; rfl) (by rw [hf]; rfl) hwd, hf]
  simp [State.landWrite, State.afterWrite, State.cond, hsyn.window, hsyn.ringCtl, hsyn.ringPlace, hact, loOfCtl_loCalmode, hsap, hmap,
    loOfCalmode_loCalmode, hw, applyFields, applyField]

/-! ### INVALIDATE (R361) -/

theorem bit_ne_zero {v : Nat} (h : v < 2 ^ 1) : (v != 0) = (v == 1) := by
  obtain rfl | rfl : v = 0 ∨ v = 1 := by omega
  · rfl
  · rfl

theorem calInvalidate_discards (s : State) (p : Port) (n : Fin 5) (w : Word) (h : served s p (Reg.loCalmode n.val)) (hw : getF w 1 1 = 1) :
    answers (.loCalInvalidate p n w) s fun t =>
      t.radio.los[n] = { s.radio.los[n] with sets := [] } ∧ (∀ m : Fin 5, m ≠ n → t.radio.los[m] = s.radio.los[m]) ∧
      t.get (Fld.loCalmodeDtemp n.val) = getF w 8 8 ∧ t.is (Fld.loCalmodePolicy n.val) = (getF w 0 1 == 1) ∧
      onlyRegs [Reg.loCalmode n.val] (s.modRadio (fun _ => t.radio)) t := by
  refine answers_of (congrArg Host.Outcome.next (hostWrite_loCalmode h w s.now hw)) ⟨modLo_self .., fun m hm => modLo_ne _ _ _ _ hm, ?_, ?_, ?_⟩
  · rw [State.get, State.loInvalidate, State.modLo_rd, State.rd_wr_self, getF_setF_ne _ _ _ _ _ _ (.inl (by simp)),
      getF_setF_self _ _ _ _ (by decide), Nat.mod_eq_of_lt (getF_lt ..)]
  · rw [State.is, State.get, State.loInvalidate, State.modLo_rd, State.rd_wr_self, getF_setF_self _ _ _ _ (by decide), Nat.mod_eq_of_lt (getF_lt ..)]
    exact bit_ne_zero (getF_lt w 0 1)
  · exact (((RadioOnly.refl s).wr _ _ List.mem_cons_self).modLo n _).onlyRegs

/-! ### A write of LOn_CTL (R350, R355, R358, R359) -/

theorem loCtl_not_stat (n : Fin 5) : Reg.loCtl n.val ∉ [Reg.loStat n.val, Reg.radioState] := by revert n; decide

/-- A target asked of a synthesiser that does nothing: TARGET is set, and beside LOn_STAT, RADIO_STATE and the radio's own data nothing changes. -/
theorem loRequest_target {s : State} {n : Fin 5} (t : Nat) (hq : s.radio.los[n].queue = []) (hr : s.radio.los[n].run = none) (hst : s.loState n ≠ stTx) :
    RadioOnly [Reg.loCtl n.val, Reg.loStat n.val, Reg.radioState] s (s.loRequest n (.target t)) ∧
      (s.loRequest n (.target t)).get (Fld.loCtlTarget n.val) = t % 8 := by
  have hput : RadioOnly [Reg.loCtl n.val, Reg.loStat n.val, Reg.radioState] s (s.put (Fld.loCtlTarget n.val) t) := (RadioOnly.refl s).put _ _ (by simp)
  have htarget : (s.put (Fld.loCtlTarget n.val) t).get (Fld.loCtlTarget n.val) = t % 8 := State.get_put_self _ _ _ (by simp)
  have hne := loCtl_not_stat n
  rcases hb : s.loBegin n (.target t) with ⟨u, run⟩
  have hu : u = s.put (Fld.loCtlTarget n.val) t := by rw [← loWay_state s n (.target t) t, ← loBegin_target, hb]
  subst hu
  cases run with
  | none =>
    rw [loRequest_of_done hq hr hst hb, loDone_target]
    have hdone : RadioOnly [Reg.loStat n.val, Reg.radioState] _ ((s.put (Fld.loCtlTarget n.val) t).putB (Fld.loStatBusy n.val) false) :=
      (RadioOnly.refl _).putB _ _ List.mem_cons_self
    exact ⟨hput.trans (hdone.mono (List.subset_cons_self ..)), (get_of_regsOnly hdone.regs _ hne).trans htarget⟩
  | some r =>
    rw [loRequest_of_run hq hr hst hb]
    have hstart := loStart_radioOnly (s.put (Fld.loCtlTarget n.val) t) n (.target t) r rfl
    exact ⟨hput.trans (hstart.mono (List.subset_cons_self ..)), (get_of_regsOnly hstart.regs _ hne).trans htarget⟩

/-- A target that stands is done at once. -/
theorem loRequest_target_stays {s : State} {n : Fin 5} {t : Nat} (hq : s.radio.los[n].queue = []) (hr : s.radio.los[n].run = none)
    (hst : s.loState n ≠ stTx) (h : t = s.loState n) :
    s.loRequest n (.target t) = (s.put (Fld.loCtlTarget n.val) t).putB (Fld.loStatBusy n.val) false :=
  loRequest_of_done hq hr hst ((loBegin_target s n t).trans (loWay_stays h))

/-- A state before a write of TARGET, as the requests of the write see it. -/
theorem put_target_state (s : State) (n : Fin 5) (t : Nat) : (s.put (Fld.loCtlTarget n.val) t).loState n = s.loState n :=
  get_put_other _ _ _ _ (loStat_ne_loCtl n n)
theorem put_target_loFreqReg (s : State) (n : Fin 5) (t : Nat) : (s.put (Fld.loCtlTarget n.val) t).loFreqReg n = s.loFreqReg n :=
  congrArg BitVec.toNat (State.rd_put_ne _ _ _ _ (by revert n; decide))

/-- A target of another state is on its first step. -/
theorem loRequest_target_moves {s : State} {n : Fin 5} {t : Nat} (hq : s.radio.los[n].queue = []) (hr : s.radio.los[n].run = none)
    (hst : s.loState n ≠ stTx) (h : t ≠ s.loState n) (hheld : s.loHeld n = false) (hret : s.loRetired n = false)
    (hp : s.loState n = stSleep → s.protect = false) : (s.loRequest n (.target t)).is (Fld.loStatBusy n.val) = true ∧
      ∃ r, (s.loRequest n (.target t)).radio.los[n].run = some r ∧ r.req = .target t ∧ r.freq = s.loFreqReg n ∧ r.anyCal = false ∧
        r.next = (if t < s.loState n then t else s.loState n + 1) ∧ (r.waits = true ↔ s.loState n = stSleep ∧ s.radioRails = false) := by
  rcases Nat.lt_or_gt_of_ne h with hlt | hgt
  · rw [loRequest_of_run hq hr hst ((loBegin_target s n t).trans (loWay_down hheld hret hlt))]
    have hup : s.loState n ≠ stSleep := Nat.ne_of_gt (Nat.lt_of_le_of_lt (Nat.zero_le t) hlt)
    exact ⟨loStart_busy .., _, loStart_run .., rfl, rfl, rfl, (if_pos hlt).symm, by simp [hup]⟩
  · obtain ⟨cal, hway⟩ := loWay_up (req := .target t) hheld hret hgt hp
    rw [loRequest_of_run hq hr hst ((loBegin_target s n t).trans hway)]
    exact ⟨loStart_busy .., _, loStart_run .., rfl, rfl, rfl, (if_neg (Nat.not_lt_of_gt hgt)).symm, by simp⟩

theorem loTargetWrite_moves (s : State) (p : Port) (n : Fin 5) (w : Word) (h : served s p (Reg.loCtl n.val)) (hlt : getF w 0 3 < 4)
    (htx : n = loT → getF w 0 3 ≠ 3) (hfreq : 2 ≤ getF w 0 3 → s.loFreqReg n ≠ 0) (htune : getF w 8 1 = 0) (hq : s.radio.los[n].queue = [])
    (hr : s.radio.los[n].run = none) (hst : s.loState n ≠ stTx) : answers (.loTargetWrite p n w) s fun t =>
      t.get (Fld.loCtlTarget n.val) = getF w 0 3 ∧ onlyRegs [Reg.loCtl n.val, Reg.loStat n.val, Reg.radioState] (s.modRadio (fun _ => t.radio)) t ∧
      (getF w 0 3 = s.loState n → t.radio.los[n].run = none ∧ t.is (Fld.loStatBusy n.val) = false ∧ t.loState n = s.loState n) ∧
      (getF w 0 3 ≠ s.loState n → s.loHeld n = false → s.loRetired n = false → (s.loState n = stSleep → s.protect = false) →
        t.is (Fld.loStatBusy n.val) = true ∧ ∃ r, t.radio.los[n].run = some r ∧ r.req = .target (getF w 0 3) ∧ r.freq = s.loFreqReg n ∧ r.anyCal = false ∧
          r.next = (if getF w 0 3 < s.loState n then getF w 0 3 else s.loState n + 1) ∧
          (r.waits = true ↔ s.loState n = stSleep ∧ s.radioRails = false)) := by
  set u := s.put (Fld.loCtlTarget n.val) (getF w 0 3) with hu
  have hstate : u.loState n = s.loState n := put_target_state s n _
  have hst' : u.loState n ≠ stTx := by rw [hstate]; exact hst
  have he : exec (.loTargetWrite p n w) s = .next (u.loRequest n (.target (getF w 0 3))) := by
    refine congrArg Host.Outcome.next ((hostWrite_loCtl h w s.now hlt htx hfreq).trans ?_)
    simp [State.writeLoCtl, State.cond, htune, hu]
  obtain ⟨honly, htarget⟩ := loRequest_target (getF w 0 3) (s := u) hq hr hst'
  refine answers_of he ⟨htarget.trans (Nat.mod_eq_of_lt (by omega)), (((RadioOnly.refl s).put _ _ (by simp)).trans honly).onlyRegs,
    fun hsame => ?_, fun hmove hheld hret hp => ?_⟩
  · rw [loRequest_target_stays (s := u) hq hr hst' (hsame.trans hstate.symm)]
    refine ⟨hr, State.is_putB _ _ _ (by simp) rfl, ?_⟩
    exact (get_put_bits _ _ _ _ (.inr (by simp))).trans ((put_target_state u n _).trans hstate)
  · rw [← hstate, ← put_target_loFreqReg s n (getF w 0 3)]
    exact loRequest_target_moves hq hr hst' (hstate ▸ hmove) ((put_target_loHeld ..).trans hheld) ((put_target_loRetired ..).trans hret)
      fun hs => (put_target_protect ..).trans (hp (hstate ▸ hs))

theorem loFreq_not_written (n : Fin 5) : Reg.loFreq n.val ∉ [Reg.loCtl n.val, Reg.loStat n.val] := by revert n; decide

theorem loCtl_not_logged (n : Fin 5) : Reg.loCtl n.val ∉ logRegs := by revert n; decide

section Tune

variable {s : State} {n : Fin 5} (force : Bool) (hq : s.radio.los[n].queue = []) (hr : s.radio.los[n].run = none)
include hq hr

/-- Below SYNTH a retune is done at once, and nothing is tuned. -/
theorem loRequest_tune_below (h : s.loState n < 2) :
    s.loRequest n (.tune force) = (s.putB (Fld.loStatBusy n.val) false).putB (Fld.loCtlTune n.val) false :=
  loRequest_of_done hq hr (fun he => absurd (he ▸ h) (by decide)) ((loBegin_tune s n _).trans (loRetune_below h ..))

/-- In SYNTH a retune to another frequency runs. -/
theorem loRequest_tune_moves (h : s.loState n = 2) (hf : s.loFreqReg n ≠ s.radio.los[n].freq) : ∃ cal,
    s.loRequest n (.tune force) = s.loStart n (.tune force) ⟨.tune force, 5, s.loFreqReg n, cal, false, false⟩ := by
  obtain ⟨cal, hb⟩ := loRetune_moves (by omega : ¬ s.loState n < 2) hf (.tune force) force false
  exact ⟨cal, loRequest_of_run hq hr (fun he => absurd (he ▸ h) (by decide)) ((loBegin_tune s n _).trans hb)⟩

/-- Outside RX a retune writes LOn_CTL and LOn_STAT alone. -/
theorem loRequest_tune_radioOnly (h : s.loState n < 3) : RadioOnly [Reg.loCtl n.val, Reg.loStat n.val] s (s.loRequest n (.tune force)) := by
  have htx : s.loState n ≠ stTx := fun he => absurd (he ▸ h) (by decide)
  rcases hb : s.loBegin n (.tune force) with ⟨u, run⟩
  have hu : u = s := by rw [← loRetune_state s (s.loState n) n (.tune force) (s.loFreqReg n) force false, ← loBegin_tune, hb]
  subst hu
  cases run with
  | none =>
    rw [loRequest_of_done hq hr htx hb, loDone_tune]
    exact ((RadioOnly.refl _).putB _ _ (by simp)).putB _ _ (by simp)
  | some r =>
    rw [loRequest_of_run hq hr htx hb]
    exact (loStart_radioOnly_of_not_rx _ n _ r rfl (Nat.ne_of_lt h)).mono (by simp)

end Tune

/-- A write of LOn_CTL that keeps the target asks for its retune of a synthesiser that is not BUSY. -/
def State.tuneAsked (s : State) (n : Fin 5) (t : Nat) : State :=
  (((s.put (Fld.loCtlTarget n.val) t).put (Fld.loCtlTarget n.val) t).putB (Fld.loStatBusy n.val) false).putB (Fld.loCtlTune n.val) true

theorem tuneAsked_radioOnly (s : State) (n : Fin 5) (t : Nat) : RadioOnly [Reg.loCtl n.val, Reg.loStat n.val] s (s.tuneAsked n t) :=
  ((((RadioOnly.refl s).put _ _ (by simp)).put _ _ (by simp)).putB _ _ (by simp)).putB _ _ (by simp)
theorem tuneAsked_loState (s : State) (n : Fin 5) (t : Nat) : (s.tuneAsked n t).loState n = s.loState n := by
  have hbusy (y : State) : (y.putB (Fld.loStatBusy n.val) false).loState n = y.loState n := get_put_bits _ _ _ _ (.inr (by simp))
  exact (get_put_other _ _ _ _ (loStat_ne_loCtl n n)).trans ((hbusy _).trans ((put_target_state _ n t).trans (put_target_state s n t)))

/-- A write that keeps the target, with TUNE, where no retune is in progress. -/
theorem writeLoCtl_tunes {s : State} {n : Fin 5} {w : Word} (htune : getF w 8 1 = 1) (hidle : s.is (Fld.loCtlTune n.val) = false)
    (hsame : getF w 0 3 = s.loState n) (hq : s.radio.los[n].queue = []) (hr : s.radio.los[n].run = none) (hst : s.loState n ≠ stTx) :
    s.writeLoCtl n w = (s.tuneAsked n (getF w 0 3)).loRequest n (.tune (getF w 9 1 == 1)) := by
  set u := s.put (Fld.loCtlTarget n.val) (getF w 0 3) with hu
  have hstate : u.loState n = s.loState n := put_target_state s n _
  have hstays := loRequest_target_stays (s := u) (t := getF w 0 3) hq hr (hstate ▸ hst) (hsame.trans hstate.symm)
  have htarget (y : State) (f : FieldRef) (v : Nat) (h : f.lo + f.width ≤ 8 ∨ f.off ≠ Reg.loCtl n.val) :
      (y.put f v).is (Fld.loCtlTune n.val) = y.is (Fld.loCtlTune n.val) :=
    congrArg (· != 0) (y.get_put_ne f (Fld.loCtlTune n.val) v (h.symm.imp Ne.symm .inl))
  have hnone : ((u.put (Fld.loCtlTarget n.val) (getF w 0 3)).putB (Fld.loStatBusy n.val) false).is (Fld.loCtlTune n.val) = false := by
    rw [State.putB_eq, htarget _ _ _ (.inr (loStat_ne_loCtl n n)), htarget _ _ _ (.inl (by simp)), htarget _ _ _ (.inl (by simp)), hidle]
  simp only [State.writeLoCtl, ← hu, hstays, hnone, htune, State.cond]
  rfl

theorem loTuneWrite_retunes (s : State) (p : Port) (n : Fin 5) (w : Word) (h : served s p (Reg.loCtl n.val)) (htune : getF w 8 1 = 1)
    (hidle : s.is (Fld.loCtlTune n.val) = false) (hsame : getF w 0 3 = s.loState n) (hq : s.radio.los[n].queue = []) (hr : s.radio.los[n].run = none)
    (hfreq : s.loFreqReg n ≠ 0) (hlt : s.loState n < 3) : answers (.loTuneWrite p n w) s fun t =>
      (s.loState n < 2 → t.is (Fld.loCtlTune n.val) = false ∧ t.is (Fld.loStatBusy n.val) = false ∧ t.radio.los[n].run = none) ∧
      (s.loState n = 2 → s.loFreqReg n ≠ s.radio.los[n].freq → t.is (Fld.loCtlTune n.val) = true ∧ t.is (Fld.loStatBusy n.val) = true ∧
        ∃ r, t.radio.los[n].run = some r ∧ r.req = .tune (getF w 9 1 == 1) ∧ r.next = 5 ∧ r.freq = s.loFreqReg n) ∧
      onlyRegs [Reg.loCtl n.val, Reg.loStat n.val] (s.modRadio (fun _ => t.radio)) t := by
  have he : exec (.loTuneWrite p n w) s = .next ((s.tuneAsked n (getF w 0 3)).loRequest n (.tune (getF w 9 1 == 1))) :=
    congrArg Host.Outcome.next ((hostWrite_loCtl h w s.now (by omega) (by omega) fun _ => hfreq).trans
      (writeLoCtl_tunes htune hidle hsame hq hr fun he => absurd (he ▸ hlt) (by decide)))
  have hstate := tuneAsked_loState s n (getF w 0 3)
  have honly := tuneAsked_radioOnly s n (getF w 0 3)
  have hfreq : (s.tuneAsked n (getF w 0 3)).loFreqReg n = s.loFreqReg n := congrArg BitVec.toNat (honly.regs _ (loFreq_not_written n))
  refine answers_of he ⟨fun hlow => ?_, fun hsynth hne => ?_, ?_⟩
  · rw [loRequest_tune_below (s := s.tuneAsked n (getF w 0 3)) _ hq hr (hstate ▸ hlow)]
    refine ⟨State.is_putB _ _ _ (by simp) rfl, ?_, hr⟩
    rw [State.is, State.putB_eq, get_put_other _ _ _ _ (loStat_ne_loCtl n n)]
    exact State.is_putB _ _ _ (by simp) rfl
  · obtain ⟨cal, hrun⟩ := loRequest_tune_moves (s := s.tuneAsked n (getF w 0 3)) (getF w 9 1 == 1) hq hr (hstate.trans hsynth) (hfreq ▸ hne)
    rw [hrun]
    refine ⟨?_, loStart_busy .., _, loStart_run .., rfl, rfl, hfreq⟩
    rw [State.is, State.get, loStart_rd _ _ _ _ _ (loCtl_not_stat n) (loCtl_not_logged n)]
    exact State.is_putB _ _ _ (by simp) rfl
  · exact (honly.trans (loRequest_tune_radioOnly (s := s.tuneAsked n (getF w 0 3)) _ hq hr (hstate ▸ hlt))).onlyRegs

end Sys2Proof.Machine
end

section
/-! The end of a step or a retune of a synthesiser (R353, R355, R359, R360, R365). -/

namespace Sys2Proof.Machine

/-! ### Lock at a frequency (R353, R359, R365) -/

theorem divOf_lt (f : Nat) : divOf f < 256 := by
  unfold divOf
  cases h : divSet.find? (fun d => decide (3000000000 ≤ f * d)) with
  | none => decide
  | some d =>
    have hall : ∀ d ∈ divSet, d < 256 := by decide
    exact hall d (List.mem_of_find?_eq_some h)

/-- The state at which a lock takes the frequency: a calibration has replaced the held set of its range. -/
def State.loCalibrated (s : State) (n : Fin 5) (freq : Nat) (cal : Bool) : State :=
  if cal then (s.modLo n (fun l => { l with sets := (divOf freq, s.temp 1) :: l.sets.filter (·.1 != divOf freq) })).putB (Fld.loStatCalDue n.val) false
  else s

theorem loLock_eq (s : State) (n : Fin 5) (freq : Nat) (cal : Bool) : s.loLock n freq cal =
    ((((s.loCalibrated n freq cal).modLo n (fun l => { l with freq := freq, gated := false, relock := false })).put (Fld.loStatDiv n.val) (divOf freq)).putB
      (Fld.loStatLock n.val) true).put (Fld.loStatCalTemp n.val) (deg8 (((s.loCalibrated n freq cal).heldSet n (divOf freq)).getD 0)) := rfl

theorem loLock_radioOnly (s : State) (n : Fin 5) (freq : Nat) (cal : Bool) : RadioOnly [Reg.loStat n.val] s (s.loLock n freq cal) := by
  have hcal : RadioOnly [Reg.loStat n.val] s (s.loCalibrated n freq cal) := by
    unfold State.loCalibrated
    split
    · exact ((RadioOnly.refl s).modLo n _).putB _ _ List.mem_cons_self
    · exact .refl s
  exact (((hcal.modLo n _).put _ _ List.mem_cons_self).putB _ _ List.mem_cons_self).put _ _ List.mem_cons_self

/-- The synthesiser's own data at a lock. -/
theorem loLock_lo (s : State) (n : Fin 5) (freq : Nat) (cal : Bool) : (s.loLock n freq cal).radio.los[n] = { s.radio.los[n] with
    freq := freq, gated := false, relock := false,
    sets := if cal then (divOf freq, s.temp 1) :: s.radio.los[n].sets.filter (·.1 != divOf freq) else s.radio.los[n].sets } := by
  have hlo : (s.loLock n freq cal).radio.los[n] = { (s.loCalibrated n freq cal).radio.los[n] with freq := freq, gated := false, relock := false } :=
    modLo_self (s.loCalibrated n freq cal) n _
  cases cal with
  | false => exact hlo
  | true =>
    have hset : (s.loCalibrated n freq true).radio.los[n] =
        { s.radio.los[n] with sets := (divOf freq, s.temp 1) :: s.radio.los[n].sets.filter (·.1 != divOf freq) } := modLo_self s n _
    rw [hlo, hset]
    rfl
theorem loLock_moves (s : State) (n : Fin 5) (freq : Nat) (cal : Bool) : (s.loLock n freq cal).radio.moves = s.radio.moves := by
  cases cal <;> rfl

/-- A calibration leaves the set it took held. -/
theorem loLock_heldSet (s : State) (n : Fin 5) (freq : Nat) : (s.loLock n freq true).heldSet n (divOf freq) = some (s.temp 1) := by
  rw [State.heldSet, loLock_lo]
  simp

theorem loLock_lock (s : State) (n : Fin 5) (freq : Nat) (cal : Bool) : (s.loLock n freq cal).is (Fld.loStatLock n.val) = true := by
  rw [loLock_eq, State.is, get_put_bits _ _ _ _ (.inr (by simp))]
  exact State.is_putB _ _ _ (by simp) rfl
theorem loLock_div (s : State) (n : Fin 5) (freq : Nat) (cal : Bool) : (s.loLock n freq cal).get (Fld.loStatDiv n.val) = divOf freq := by
  rw [loLock_eq, get_put_bits _ _ _ _ (.inl (by simp)), State.putB_eq, get_put_bits _ _ _ _ (.inl (by simp)), State.get_put_self _ _ _ (by simp)]
  exact Nat.mod_eq_of_lt (divOf_lt freq)
theorem loLock_loState (s : State) (n : Fin 5) (freq : Nat) (cal : Bool) : (s.loLock n freq cal).loState n = s.loState n := by
  have hcal : (s.loCalibrated n freq cal).loState n = s.loState n := by
    unfold State.loCalibrated
    split
    · exact get_put_bits _ _ _ _ (.inr (by simp))
    · rfl
  rw [loLock_eq, State.loState, get_put_bits _ _ _ _ (.inr (by simp)), State.putB_eq, get_put_bits _ _ _ _ (.inr (by simp)),
    get_put_bits _ _ _ _ (.inr (by simp))]
  exact hcal

/-! ### The state a step leads to (R355, R360) -/

/-- Every path of a synthesiser has its first clean tile settled, by the cycle at which the step ended. -/
def State.loClean (cycle : Nat) (n : Fin 5) (s : State) : State := s.forEach (s.takers n) (fun s p => s.gapEnd p (s.cleanTile cycle))

theorem loClean_paths (s : State) (n : Fin 5) (cycle : Nat) : PathsOnly s (s.loClean cycle n) :=
  (PathsOnly.refl s).forEach _ _ fun t p => (PathsOnly.refl t).gapEnd p _

/-- A synthesiser in `st` takes the state of a step, as `execSynthStepDone` has it. -/
def State.loEnters (s : State) (st : Nat) (n : Fin 5) (cycle : Nat) (r : LoRun) : State :=
  if r.next == stSynth && st < stSynth then (s.setLoState n stSynth).loLock n r.freq r.cal
  else if r.next == stRx then (s.setLoState n stRx).loClean cycle n
  else if r.next == stSynth then s.setLoState n stSynth
  else s.loOff n r.next

theorem loOff_radioOnly (s : State) (n : Fin 5) (v : Nat) : RadioOnly [Reg.loStat n.val, Reg.radioState] s (s.loOff n v) :=
  ((((((PathsOnly.refl s).gapAll (s.takers n)).radioOnly (by simp)).trans (setLoState_radioOnly _ n v)).put _ _ (by simp)).putB _ _ (by simp)).putB _ _
    (by simp) |>.modLo n _

theorem loOff_eq (s : State) (n : Fin 5) (v : Nat) : s.loOff n v =
    (((((s.gapAll (s.takers n)).setLoState n v).put (Fld.loStatDiv n.val) 0).put (Fld.loStatLock n.val) (b2n false)).put (Fld.loStatBusy n.val)
      (b2n false)).modLo n (fun l => { l with run := none, gated := false, relock := false }) := rfl

theorem modLo_puts_lo (s : State) (n : Fin 5) (a b c : FieldRef) (x y z : Nat) (f : LoSt → LoSt) :
    ((((s.put a x).put b y).put c z).modLo n f).radio.los[n] = f s.radio.los[n] := modLo_self _ n f
/-- The synthesiser's own data out of lock. -/
theorem loOff_lo (s : State) (n : Fin 5) (v : Nat) :
    (s.loOff n v).radio.los[n] = { s.radio.los[n] with run := none, gated := false, relock := false } := by
  rw [loOff_eq, modLo_puts_lo, setLoState_los, ((PathsOnly.refl s).gapAll (s.takers n)).los]
theorem loOff_lock (s : State) (n : Fin 5) (v : Nat) : (s.loOff n v).is (Fld.loStatLock n.val) = false := by
  rw [loOff_eq, State.modLo_is, State.is, get_put_bits _ _ _ _ (.inl (by simp))]
  exact State.is_putB _ _ _ (by simp) rfl
theorem loOff_div (s : State) (n : Fin 5) (v : Nat) : (s.loOff n v).get (Fld.loStatDiv n.val) = 0 := by
  rw [loOff_eq, State.modLo_get, get_put_bits _ _ _ _ (.inl (by simp)), get_put_bits _ _ _ _ (.inl (by simp)), State.get_put_self _ _ _ (by simp)]
  exact Nat.zero_mod _
theorem loOff_busy (s : State) (n : Fin 5) (v : Nat) : (s.loOff n v).is (Fld.loStatBusy n.val) = false := by
  rw [loOff_eq, State.modLo_is]
  exact State.is_putB _ _ _ (by simp) rfl

theorem modLo_puts_moves (s : State) (n : Fin 5) (a b c : FieldRef) (x y z : Nat) (f : LoSt → LoSt) :
    ((((s.put a x).put b y).put c z).modLo n f).radio.moves = s.radio.moves := rfl
theorem loOff_moves (s : State) (n : Fin 5) (v : Nat) : (s.loOff n v).radio.moves = s.radio.moves := by
  rw [loOff_eq, modLo_puts_moves, setLoState_moves, ((PathsOnly.refl s).gapAll (s.takers n)).moves]
theorem modLo_takers (s : State) (n m : Fin 5) (f : LoSt → LoSt) : (s.modLo n f).takers m = s.takers m :=
  takers_congr (s := s) (t := s.modLo n f) (fun _ => rfl) rfl m
theorem loOff_takers (s : State) (n m : Fin 5) (v : Nat) : (s.loOff n v).takers m = s.takers m := by
  have hne := fltRetireMap0_ne_loStat n
  rw [loOff_eq, modLo_takers, put_takers _ _ _ _ hne, put_takers _ _ _ _ hne, put_takers _ _ _ _ hne, setLoState_takers,
    ((PathsOnly.refl s).gapAll (s.takers n)).takers]

theorem loEnters_radioOnly (s : State) (st : Nat) (n : Fin 5) (cycle : Nat) (r : LoRun) :
    RadioOnly [Reg.loStat n.val, Reg.radioState] s (s.loEnters st n cycle r) := by
  unfold State.loEnters
  split
  · exact (setLoState_radioOnly s n stSynth).trans ((loLock_radioOnly _ n r.freq r.cal).mono (by simp))
  · split
    · exact (setLoState_radioOnly s n stRx).trans ((loClean_paths _ n cycle).radioOnly (by simp))
    · split
      · exact setLoState_radioOnly s n stSynth
      · exact loOff_radioOnly s n r.next

theorem loEnters_state {s : State} {st : Nat} {n : Fin 5} {cycle : Nat} {r : LoRun} (h : r.next < 8) :
    (s.loEnters st n cycle r).loState n = r.next := by
  unfold State.loEnters
  split
  next hsynth =>
    simp only [Bool.and_eq_true, beq_iff_eq] at hsynth
    rw [loLock_loState, setLoState_loState_self, hsynth.1]
    rfl
  next =>
    split
    next hrx => rw [State.loState, (loClean_paths _ n cycle).get _ (loStat_ne_radioState n), ← State.loState, setLoState_loState_self, beq_iff_eq.mp hrx]; rfl
    next =>
      split
      next hdown => rw [setLoState_loState_self, beq_iff_eq.mp hdown]; rfl
      next => rw [(loOff_states s n r.next).2.1, Nat.mod_eq_of_lt h]

theorem asked_of_los {s t : State} {n : Fin 5} (h : t.radio.los = s.radio.los) (hr : s.radio.los[n].run = none) :
    t.radio.los[n].run = none ∧ t.radio.los[n].queue = s.radio.los[n].queue := by
  rw [h]
  exact ⟨hr, rfl⟩
/-- A step asks nothing new of the synthesiser. -/
theorem loEnters_asked (s : State) (st : Nat) (n : Fin 5) (cycle : Nat) (r : LoRun) (hr : s.radio.los[n].run = none) :
    (s.loEnters st n cycle r).radio.los[n].run = none ∧ (s.loEnters st n cycle r).radio.los[n].queue = s.radio.los[n].queue := by
  unfold State.loEnters
  split
  · rw [loLock_lo, setLoState_los]
    exact ⟨hr, rfl⟩
  · split
    · exact asked_of_los ((loClean_paths _ n cycle).los.trans (setLoState_los s n stRx)) hr
    · split
      · exact asked_of_los (setLoState_los s n stSynth) hr
      · rw [loOff_lo]
        exact ⟨rfl, rfl⟩

/-- The tile that the paths of one synthesiser are settled at is the same for each. -/
theorem forEach_gapEnd_cleanTile (clean cycle : Nat) (l : List (Fin 4)) (s : State) (h : s.cleanTile cycle = clean) :
    s.forEach l (fun s p => s.gapEnd p (s.cleanTile cycle)) = s.forEach l (fun s p => s.gapEnd p clean) := by
  induction l generalizing s with
  | nil => rfl
  | cons p l ih =>
    have hp : s.forEach (p :: l) (fun s p => s.gapEnd p (s.cleanTile cycle)) =
        (s.gapEnd p (s.cleanTile cycle)).forEach l (fun s p => s.gapEnd p (s.cleanTile cycle)) := rfl
    rw [hp, h, ih (s.gapEnd p clean) h]
    rfl

/-- At the end of an entry into RX each path of the synthesiser has its first clean tile settled. -/
theorem loClean_cleanAt (s : State) (n : Fin 5) (cycle : Nat) (p : Fin 4) (hp : p ∈ s.takers n) :
    (s.loClean cycle n).radio.paths[p].cleanAt = some (s.cleanTile cycle) := by
  rw [State.loClean, forEach_gapEnd_cleanTile (s.cleanTile cycle) cycle (s.takers n) s rfl]
  exact cleanAt_forEach_gapEnd _ _ s p (.inl hp)

theorem loEnters_moves (s : State) (st : Nat) (n : Fin 5) (cycle : Nat) (r : LoRun) : (s.loEnters st n cycle r).radio.moves = s.radio.moves := by
  unfold State.loEnters
  split
  · rw [loLock_moves, setLoState_moves]
  · split
    · rw [(loClean_paths _ n cycle).moves, setLoState_moves]
    · split
      · rw [setLoState_moves]
      · exact loOff_moves s n r.next

section Enters

variable (s : State) {st : Nat} (n : Fin 5) (cycle : Nat) {r : LoRun}

/-- Into STANDBY or SLEEP. -/
theorem loEnters_low (h : r.next < 2) : s.loEnters st n cycle r = s.loOff n r.next := by
  rw [State.loEnters, if_neg, if_neg, if_neg]
  all_goals simp only [Bool.and_eq_true, beq_iff_eq, stSynth, stRx]; omega
/-- Into SYNTH from below. -/
theorem loEnters_synth (h : r.next = 2) (hst : st < 2) : s.loEnters st n cycle r = (s.setLoState n stSynth).loLock n r.freq r.cal := by
  rw [State.loEnters, if_pos]
  simpa using ⟨h, hst⟩
/-- Into RX. -/
theorem loEnters_rx (h : r.next = 3) : s.loEnters st n cycle r = (s.setLoState n stRx).loClean cycle n := by
  rw [State.loEnters, if_neg, if_pos]
  · rw [h]
    rfl
  · rw [h]
    simp [stSynth]

/-- An entry into SYNTH from below locks at the frequency of the request, and a calibration's set is held. -/
theorem loEnters_synth_locks (h : r.next = 2) (hst : st < 2) : (s.loEnters st n cycle r).is (Fld.loStatLock n.val) = true ∧
    (s.loEnters st n cycle r).get (Fld.loStatDiv n.val) = divOf r.freq ∧ (s.loEnters st n cycle r).radio.los[n].freq = r.freq ∧
    (r.cal = true → (s.loEnters st n cycle r).heldSet n (divOf r.freq) = some (s.temp 1)) := by
  have htemp : (s.setLoState n stSynth).temp 1 = s.temp 1 :=
    congrArg (sgn 16) (get_of_regsOnly (setLoState_radioOnly s n stSynth).regs (Fld.tempTemp 1) (by revert n; decide))
  rw [loEnters_synth s n cycle h hst]
  refine ⟨loLock_lock .., loLock_div .., congrArg LoSt.freq (loLock_lo ..), fun hcal => ?_⟩
  rw [hcal, loLock_heldSet, htemp]
/-- An entry into RX settles the first clean tile of every path. -/
theorem loEnters_rx_clean (h : r.next = 3) (p : Fin 4) (hp : p ∈ s.takers n) :
    (s.loEnters st n cycle r).radio.paths[p].cleanAt = some (s.cleanTile cycle) := by
  have htile : (s.setLoState n stRx).cleanTile cycle = s.cleanTile cycle :=
    congrArg (fun tile : Word => (tile.toNat + (if cycle ≤ 46694 then 1 else 2)) % 2 ^ 32) (setLoState_tile s n stRx)
  rw [loEnters_rx s n cycle h, loClean_cleanAt _ _ _ _ (setLoState_takers s n n stRx ▸ hp), htile]

end Enters

/-! ### The end of a step -/

/-- The request of a synthesiser is taken off it as its step ends. -/
def State.loFreed (s : State) (n : Fin 5) : State := s.modLo n (fun l => { l with run := none })

/-- The state a retune leads to. -/
def State.loRetuned (s : State) (n : Fin 5) (cycle : Nat) (r : LoRun) : State :=
  ((s.loFreed n).loLock n r.freq r.cal).cond (s.loState n == stRx) (·.loClean cycle n)

section Ends

variable {s : State} {n : Fin 5} {r : LoRun} (cyc : Nat) (hruns : s.runs = true) (hfree : s.free? .radio = true)
  (hrun : s.radio.los[n].run = some r) (hw : r.waits = false)
include hruns hfree hrun hw

/-- A retune that ends serves its request, then what waits. -/
theorem synthStepDone_retune (hnext : r.next = 5) : exec (.synthStepDone n cyc) s =
    .next (((s.loRetuned n cyc r).loDone n r.req (r.anyCal || r.cal)).loServe n) := by
  change execSynthStepDone n cyc s = _
  simp only [execSynthStepDone, inBlock, done, hruns, hfree, hrun, hw, hnext, Bool.and_self, if_true, Bool.false_eq_true, if_false, beq_self_eq_true]
  rfl

/-- A step that reaches the state asked for serves its request, then what waits. -/
theorem synthStepDone_arrives {t : Nat} (hreq : r.req = .target t ∨ ∃ d, r.req = .move d t) (hnext : r.next ≠ 5) (ht : ¬ r.next < t) :
    exec (.synthStepDone n cyc) s =
      .next (((((s.loFreed n).loEnters (s.loState n) n cyc r).loDone n r.req (r.anyCal || r.cal)).loServe n)) := by
  change execSynthStepDone n cyc s = _
  simp only [execSynthStepDone, inBlock, done, hruns, hfree, hrun, hw, beq_false_of_ne hnext, Bool.and_self, if_true, Bool.false_eq_true, if_false]
  rcases hreq with hreq | ⟨d, hreq⟩
  · simp only [hreq, ht, if_false]
    rfl
  · simp only [hreq, ht, if_false]
    rfl

/-- A step on the way to its target begins the next. -/
theorem synthStepDone_goes_on {t : Nat} (hreq : r.req = .target t) (hnext : r.next ≠ 5) (ht : r.next < t) {u v : State} {r' : LoRun}
    (hv : (s.loFreed n).loEnters (s.loState n) n cyc r = v) (hb : v.loBegin n (.target t) = (u, some r')) :
    exec (.synthStepDone n cyc) s = .next (u.loBusy n { r' with anyCal := r.anyCal || r.cal }) := by
  change execSynthStepDone n cyc s = _
  have hb' : (if r.next == stSynth && s.loState n < stSynth then ((s.loFreed n).setLoState n stSynth).loLock n r.freq r.cal
      else if r.next == stRx then ((s.loFreed n).setLoState n stRx).loClean cyc n
      else if r.next == stSynth then (s.loFreed n).setLoState n stSynth
      else (s.loFreed n).loOff n r.next).loBegin n (.target t) = (u, some r') := by
    subst hv
    exact hb
  simp only [State.loFreed, State.loClean] at hb'
  simp only [execSynthStepDone, inBlock, done, hruns, hfree, hrun, hw, beq_false_of_ne hnext, Bool.and_self, if_true, Bool.false_eq_true, if_false,
    hreq, ht, hb']
  rfl

end Ends

/-! ### The clauses of O31 on steps -/

theorem loFreed_lo (s : State) (n : Fin 5) : (s.loFreed n).radio.los[n] = { s.radio.los[n] with run := none } := modLo_self s n _
theorem loFreed_run (s : State) (n : Fin 5) : (s.loFreed n).radio.los[n].run = none := congrArg LoSt.run (loFreed_lo s n)
theorem loFreed_queue (s : State) (n : Fin 5) : (s.loFreed n).radio.los[n].queue = s.radio.los[n].queue := by rw [loFreed_lo]

theorem synthStepDone_target (s : State) (n : Fin 5) (r : LoRun) (cyc k : Nat) (hruns : s.runs = true) (hfree : s.free? .radio = true)
    (hrun : s.radio.los[n].run = some r) (hq : s.radio.los[n].queue = []) (hw : r.waits = false) (hreq : r.req = .target k) (hnext : r.next = k)
    (hk : k < 4) : answers (.synthStepDone n cyc) s fun t =>
      t.loState n = k ∧ t.is (Fld.loStatBusy n.val) = false ∧ t.radio.los[n].run = none ∧
      onlyRegs [Reg.loStat n.val, Reg.radioState] (s.modRadio (fun _ => t.radio)) t ∧
      (k < 2 → t.is (Fld.loStatLock n.val) = false ∧ t.get (Fld.loStatDiv n.val) = 0) ∧
      (k = 2 → s.loState n < 2 → t.is (Fld.loStatLock n.val) = true ∧ t.get (Fld.loStatDiv n.val) = divOf r.freq ∧ t.radio.los[n].freq = r.freq ∧
        (r.cal = true → t.heldSet n (divOf r.freq) = some (s.temp 1))) ∧
      (k = 3 → ∀ p ∈ s.takers n, t.radio.paths[p].cleanAt = some (s.cleanTile cyc)) := by
  set u := (s.loFreed n).loEnters (s.loState n) n cyc r with hu
  obtain ⟨hidle, hqueue⟩ := loEnters_asked (s.loFreed n) (s.loState n) n cyc r (loFreed_run s n)
  have he : exec (.synthStepDone n cyc) s = .next (u.putB (Fld.loStatBusy n.val) false) := by
    rw [synthStepDone_arrives cyc hruns hfree hrun hw (.inl hreq) (by omega) (by omega),
      loDone_loServe _ _ _ _ (hqueue.trans ((loFreed_queue s n).trans hq)), hreq]
    rfl
  have honly : RadioOnly [Reg.loStat n.val, Reg.radioState] s (u.putB (Fld.loStatBusy n.val) false) :=
    (((RadioOnly.refl s).modLo n _).trans (loEnters_radioOnly _ (s.loState n) n cyc r)).putB _ _ List.mem_cons_self
  have hstat (g : FieldRef) (hg : g.lo + g.width ≤ 3 ∨ 4 ≤ g.lo) : (u.putB (Fld.loStatBusy n.val) false).get g = u.get g :=
    get_put_bits _ _ _ _ hg.symm
  refine answers_of he ⟨?_, State.is_putB _ _ _ (by simp) rfl, hidle, honly.onlyRegs, fun hlow => ?_, fun hsynth hst => ?_, fun hrx p hp => ?_⟩
  · exact (hstat _ (.inl (by simp))).trans ((loEnters_state (by omega)).trans hnext)
  · have hoff : u = (s.loFreed n).loOff n r.next := loEnters_low _ _ _ (hnext ▸ hlow)
    rw [State.is, hstat _ (.inr (by simp)), hstat _ (.inr (by simp)), hoff]
    exact ⟨loOff_lock .., loOff_div ..⟩
  · obtain ⟨hlock, hdiv, hfreq, hset⟩ := loEnters_synth_locks (s.loFreed n) n cyc (hnext.trans hsynth) hst
    rw [State.is, hstat _ (.inr (by simp)), hstat _ (.inr (by simp))]
    exact ⟨hlock, hdiv, hfreq, hset⟩
  · exact loEnters_rx_clean (s.loFreed n) n cyc (hnext.trans hrx) p hp

theorem step_not_written (n : Fin 5) : Reg.fltRetireMap0 ∉ [Reg.loStat n.val, Reg.radioState] ∧ Reg.loFreq n.val ∉ [Reg.loStat n.val, Reg.radioState] := by
  revert n
  decide

theorem synthStepDone_first_step (s : State) (n : Fin 5) (r : LoRun) (cyc : Nat) (hruns : s.runs = true) (hfree : s.free? .radio = true)
    (hrun : s.radio.los[n].run = some r) (hw : r.waits = false) (hreq : r.req = .target 2) (hnext : r.next = 1) (hheld : s.loHeld n = false)
    (hret : s.loRetired n = false) : answers (.synthStepDone n cyc) s fun t =>
      t.loState n = 1 ∧ t.is (Fld.loStatBusy n.val) = true ∧ ∃ r', t.radio.los[n].run = some r' ∧ r'.next = 2 ∧ r'.req = .target 2 ∧
        r'.freq = s.loFreqReg n ∧ r'.waits = false := by
  set u := (s.loFreed n).loOff n 1 with hu
  have honly : RadioOnly [Reg.loStat n.val, Reg.radioState] s u := ((RadioOnly.refl s).modLo n _).trans (loOff_radioOnly _ n 1)
  have hstate : u.loState n = 1 := (loOff_states _ n 1).2.1
  have hheld' : u.loHeld n = false := (loHeld_of_takers ((loOff_takers ..).trans (modLo_takers s n n _))).trans hheld
  have hret' : u.loRetired n = false :=
    (congrArg (· != 0) (get_of_regsOnly honly.regs ⟨Reg.fltRetireMap0, 8 + n.val, 1⟩ (step_not_written n).1)).trans hret
  have hfreq : u.loFreqReg n = s.loFreqReg n := congrArg BitVec.toNat (honly.regs _ (step_not_written n).2)
  obtain ⟨cal, hway⟩ := loWay_up (s := u) (req := .target 2) (t := 2) hheld' hret' (by omega) fun h => absurd (hstate.symm.trans h) (by decide)
  have hlow : (s.loFreed n).loEnters (s.loState n) n cyc r = u := by rw [loEnters_low _ _ _ (by omega : r.next < 2), hnext]
  clear_value u
  refine answers_of (synthStepDone_goes_on cyc hruns hfree hrun hw hreq (by omega) (by omega) hlow hway) ⟨?_, loBusy_busy .., _,
    congrArg LoSt.run (loBusy_lo ..), congrArg (· + 1) hstate, rfl, hfreq, by simp [hstate, stSleep]⟩
  rw [loBusy_loState, put_target_state, hstate]

/-! ### The clauses of O31 on retunes and moves that end -/

theorem loRetuned_paths (s : State) (n : Fin 5) (cyc : Nat) (r : LoRun) :
    PathsOnly ((s.loFreed n).loLock n r.freq r.cal) (s.loRetuned n cyc r) := by
  unfold State.loRetuned State.cond
  split
  · exact loClean_paths _ n cyc
  · exact .refl _
theorem loRetuned_radioOnly (s : State) (n : Fin 5) (cyc : Nat) (r : LoRun) :
    RadioOnly [Reg.loStat n.val, Reg.radioState] s (s.loRetuned n cyc r) :=
  ((((RadioOnly.refl s).modLo n _).trans (loLock_radioOnly _ n r.freq r.cal)).mono (by simp)).trans ((loRetuned_paths s n cyc r).radioOnly (by simp))
theorem loRetuned_lo (s : State) (n : Fin 5) (cyc : Nat) (r : LoRun) : (s.loRetuned n cyc r).radio.los[n].freq = r.freq ∧
    (s.loRetuned n cyc r).radio.los[n].run = none ∧ (s.loRetuned n cyc r).radio.los[n].queue = s.radio.los[n].queue := by
  rw [(loRetuned_paths s n cyc r).los, loLock_lo, loFreed_lo]
  exact ⟨rfl, rfl, rfl⟩
theorem loRetuned_stat (s : State) (n : Fin 5) (cyc : Nat) (r : LoRun) : (s.loRetuned n cyc r).is (Fld.loStatLock n.val) = true ∧
    (s.loRetuned n cyc r).get (Fld.loStatDiv n.val) = divOf r.freq ∧ (s.loRetuned n cyc r).loState n = s.loState n := by
  have hstat (g : FieldRef) (hg : g.off = Reg.loStat n.val) : (s.loRetuned n cyc r).get g = ((s.loFreed n).loLock n r.freq r.cal).get g :=
    (loRetuned_paths s n cyc r).get g (hg ▸ loStat_ne_radioState n)
  rw [State.is, State.loState, hstat _ rfl, hstat _ rfl, hstat _ rfl]
  exact ⟨loLock_lock .., loLock_div .., loLock_loState ..⟩

theorem synthStepDone_tune (s : State) (n : Fin 5) (r : LoRun) (cyc : Nat) (b : Bool) (hruns : s.runs = true) (hfree : s.free? .radio = true)
    (hrun : s.radio.los[n].run = some r) (hq : s.radio.los[n].queue = []) (hw : r.waits = false) (hreq : r.req = .tune b) (hnext : r.next = 5) :
    answers (.synthStepDone n cyc) s fun t =>
      t.radio.los[n].freq = r.freq ∧ t.is (Fld.loStatLock n.val) = true ∧ t.get (Fld.loStatDiv n.val) = divOf r.freq ∧ t.is (Fld.loCtlTune n.val) = false ∧
      t.is (Fld.loStatBusy n.val) = false ∧ t.radio.los[n].run = none ∧ t.loState n = s.loState n ∧
      onlyRegs [Reg.loCtl n.val, Reg.loStat n.val, Reg.radioState] (s.modRadio (fun _ => t.radio)) t := by
  set u := s.loRetuned n cyc r with hu
  obtain ⟨hfreq, hidle, hqueue⟩ := loRetuned_lo s n cyc r
  obtain ⟨hlock, hdiv, hstate⟩ := loRetuned_stat s n cyc r
  have he : exec (.synthStepDone n cyc) s = .next ((u.putB (Fld.loStatBusy n.val) false).putB (Fld.loCtlTune n.val) false) := by
    rw [synthStepDone_retune cyc hruns hfree hrun hw hnext, loDone_loServe _ _ _ _ (hqueue.trans hq), hreq, loDone_tune]
  have hstat (g : FieldRef) (hoff : g.off = Reg.loStat n.val) : ((u.putB (Fld.loStatBusy n.val) false).putB (Fld.loCtlTune n.val) false).get g =
      (u.putB (Fld.loStatBusy n.val) false).get g := get_put_other _ _ _ _ (hoff ▸ loStat_ne_loCtl n n)
  have hbits (g : FieldRef) (hg : 4 ≤ g.lo ∨ g.lo + g.width ≤ 3) : (u.putB (Fld.loStatBusy n.val) false).get g = u.get g := get_put_bits _ _ _ _ hg
  have honly : RadioOnly [Reg.loCtl n.val, Reg.loStat n.val, Reg.radioState] s ((u.putB (Fld.loStatBusy n.val) false).putB (Fld.loCtlTune n.val) false) :=
    (((loRetuned_radioOnly s n cyc r).mono (by simp)).putB _ _ (by simp)).putB _ _ (by simp)
  refine answers_of he ⟨hfreq, ?_, ?_, State.is_putB _ _ _ (by simp) rfl, ?_, hidle, ?_, honly.onlyRegs⟩
  · rw [State.is, hstat _ rfl, hbits _ (.inl (by simp))]
    exact hlock
  · rw [hstat _ rfl, hbits _ (.inl (by simp))]
    exact hdiv
  · rw [State.is, hstat _ rfl]
    exact State.is_putB _ _ _ (by simp) rfl
  · rw [State.loState, hstat _ rfl, hbits _ (.inr (by simp))]
    exact hstate

theorem loState_not_logged (n : Fin 5) : Reg.loStat n.val ∉ logRegs := by revert n; decide
/-- Neither LOn_STAT nor RADIO_STATE is a register that a completion reads. -/
theorem loStat_not_completed (n : Fin 5) : Reg.topStatus ∉ [Reg.loStat n.val, Reg.radioState] ∧ ∀ o ∈ cplRegs, o ∉ [Reg.loStat n.val, Reg.radioState] := by
  revert n
  decide

theorem synthStepDone_retune_descriptor (s : State) (n : Fin 5) (r : LoRun) (cyc : Nat) (d : Desc) (hruns : s.runs = true)
    (hfree : s.free? .radio = true) (hrun : s.radio.los[n].run = some r) (hq : s.radio.los[n].queue = []) (hw : r.waits = false)
    (hreq : r.req = .retune d) (hnext : r.next = 5) (hst : s.loState n = stSynth) (ht : tellable s d) : answers (.synthStepDone n cyc) s fun t =>
      ended s t d { status := stOK, r1 := packW [(8, 8, divOf r.freq), (0, 1, b2n (r.anyCal || r.cal))] } ∧ t.radio.los[n].freq = r.freq := by
  set u := s.loRetuned n cyc r with hu
  obtain ⟨hfreq, -, hqueue⟩ := loRetuned_lo s n cyc r
  obtain ⟨-, hdiv, hstate⟩ := loRetuned_stat s n cyc r
  have hrx : u.loState n ≠ stRx := by rw [hstate, hst]; decide
  obtain ⟨hs, hc⟩ := loStat_not_completed n
  have he := synthStepDone_retune cyc hruns hfree hrun hw hnext
  rw [loDone_loServe _ _ _ _ (hqueue.trans hq), hreq, loDone_retune hrx, hdiv] at he
  refine answers_of he ⟨((((loRetuned_radioOnly s n cyc r).putB _ _ List.mem_cons_self).endsAlike d hs hc).ended ht _), ?_⟩
  rw [((logsOnly.refl (u.putB (Fld.loStatBusy n.val) false)).complete d _).radio_eq]
  exact hfreq

theorem synthStepDone_move_ends (s : State) (n : Fin 5) (r : LoRun) (cyc : Nat) (d : Desc) (hruns : s.runs = true)
    (hfree : s.free? .radio = true) (hrun : s.radio.los[n].run = some r) (hq : s.radio.los[n].queue = []) (hw : r.waits = false)
    (hreq : r.req = .move d 2) (hnext : r.next = 2) (hmoves : s.radio.moves = [⟨d, [n.val], false, 0⟩]) (ht : tellable s d) :
    answers (.synthStepDone n cyc) s fun t =>
      ended s t d { status := stOK, r1 := BitVec.ofNat 32 (b2n (r.anyCal || r.cal)) } ∧ t.loState n = 2 ∧ t.radio.moves = [] := by
  set u := (s.loFreed n).loEnters (s.loState n) n cyc r with hu
  obtain ⟨-, hqueue⟩ := loEnters_asked (s.loFreed n) (s.loState n) n cyc r (loFreed_run s n)
  have honly : RadioOnly [Reg.loStat n.val, Reg.radioState] s u := ((RadioOnly.refl s).modLo n _).trans (loEnters_radioOnly _ (s.loState n) n cyc r)
  have hmoves' : u.radio.moves = [⟨d, [n.val], false, 0⟩] := (loEnters_moves (s.loFreed n) (s.loState n) n cyc r).trans hmoves
  obtain ⟨hs, hc⟩ := loStat_not_completed n
  have he := synthStepDone_arrives cyc hruns hfree hrun hw (.inr ⟨d, hreq⟩) (by omega) (by omega)
  rw [loDone_loServe _ _ _ _ (hqueue.trans ((loFreed_queue s n).trans hq)), hreq, loDone_move_last hmoves' (by decide)] at he
  have hlogs := (logsOnly.refl ((u.putB (Fld.loStatBusy n.val) false).modRadio (fun r => { r with moves := [] }))).complete d
    { status := stOK, r1 := BitVec.ofNat 32 (b2n (r.anyCal || r.cal)) }
  refine answers_of he ⟨(((honly.putB _ _ List.mem_cons_self).modRadio _).endsAlike d hs hc).ended ht _, ?_, ?_⟩
  · rw [State.loState, get_of_regsOnly hlogs.2 _ (loState_not_logged n), State.modRadio_get, State.putB_eq, get_put_bits _ _ _ _ (.inr (by simp))]
    exact (loEnters_state (by omega)).trans hnext
  · rw [hlogs.radio_eq]
    rfl

end Sys2Proof.Machine
end

section
/-! TUNE and RADIO_STATE with their results (R355 to R359, R376). -/

namespace Sys2Proof.Machine

/-! ### A descriptor at the radio's block -/

theorem atBlock_radio (s : State) (d : Desc) : (s.atBlock d).radio = s.radio := ((logsOnly.refl s).atBlock d).radio_eq
theorem atBlock_rd (s : State) (d : Desc) (off : Nat) : (s.atBlock d).rd off = s.rd off := by
  unfold State.atBlock
  split <;> rfl
theorem atBlock_get (s : State) (d : Desc) (g : FieldRef) : (s.atBlock d).get g = s.get g := congrArg (fun w => getF w g.lo g.width) (atBlock_rd s d g.off)

theorem loFreq_not_logged (n : Fin 5) : Reg.loFreq n.val ∉ logRegs := by revert n; decide

theorem atBlock_loState (s : State) (d : Desc) (n : Fin 5) : (s.atBlock d).loState n = s.loState n := atBlock_get ..
theorem atBlock_loFreqReg (s : State) (d : Desc) (n : Fin 5) : (s.atBlock d).loFreqReg n = s.loFreqReg n := congrArg BitVec.toNat (atBlock_rd ..)
theorem atBlock_loRetired (s : State) (d : Desc) (n : Fin 5) : (s.atBlock d).loRetired n = s.loRetired n := congrArg (· != 0) (atBlock_get ..)
theorem atBlock_protect (s : State) (d : Desc) : (s.atBlock d).protect = s.protect := congrArg (· != 0) (atBlock_get ..)
theorem atBlock_loHeld (s : State) (d : Desc) (n : Fin 5) : (s.atBlock d).loHeld n = s.loHeld n :=
  loHeld_of_takers (takers_congr (s := s) (fun p => by rw [atBlock_radio]) (atBlock_rd ..) n)

/-- Registers of a synthesiser are none that a completion reads. -/
theorem synth_not_completed (n : Fin 5) : Reg.topStatus ∉ [Reg.loCtl n.val, Reg.loFreq n.val, Reg.loStat n.val] ∧
    ∀ o ∈ cplRegs, o ∉ [Reg.loCtl n.val, Reg.loFreq n.val, Reg.loStat n.val] := by
  revert n
  decide
/-- A descriptor that has reached the radio's block ends alike after changes of a synthesiser. -/
theorem endsAlike_at_radio {s t : State} {d : Desc} {n : Fin 5} (h : RadioOnly [Reg.loCtl n.val, Reg.loFreq n.val, Reg.loStat n.val] (s.atBlock d) t) :
    EndsAlike d s t :=
  (EndsAlike.refl d s).atBlock.trans (h.endsAlike d (synth_not_completed n).1 (synth_not_completed n).2)

/-! ### TUNE (R359, R376) -/

/-- The synthesiser that TUNE names. -/
def Desc.tuneLo (d : Desc) : Fin 5 := Fin.ofNat 5 (d.f 1 0 3)

/-- TUNE at its block: as `execTune` has it. -/
def State.tuneHere (d : Desc) (s : State) : State :=
  if !freqOk d.tuneLo (d.w 2).toNat then s.bad d 0x40
  else if s.loRetired d.tuneLo then s.finish d stRetired
  else s.loRequest d.tuneLo (.retune d)

section TuneHere

variable {s : State} {d : Desc}

theorem tuneHere_out_of_range (h : freqOk d.tuneLo (d.w 2).toNat = false) : s.tuneHere d = s.bad d 0x40 := by simp [State.tuneHere, h]
theorem tuneHere_retired (h : freqOk d.tuneLo (d.w 2).toNat = true) (hret : s.loRetired d.tuneLo = true) : s.tuneHere d = s.finish d stRetired := by
  simp [State.tuneHere, h, hret]
theorem tuneHere_asks (h : freqOk d.tuneLo (d.w 2).toNat = true) (hret : s.loRetired d.tuneLo = false) :
    s.tuneHere d = s.loRequest d.tuneLo (.retune d) := by simp [State.tuneHere, h, hret]

end TuneHere

theorem loFreq_ne (n : Fin 5) : Reg.loStat n.val ≠ Reg.loFreq n.val ∧ Reg.loFreq n.val ∉ [Reg.loStat n.val, Reg.radioState] := by revert n; decide
/-- A field of LOn_STAT, after a write of LOn_FREQ. -/
theorem wr_loFreq_stat (s : State) (n : Fin 5) (w : Word) (g : FieldRef) (h : g.off = Reg.loStat n.val) : (s.wr (Reg.loFreq n.val) w).get g = s.get g :=
  congrArg (fun w => getF w g.lo g.width) (State.rd_wr_ne _ _ _ _ (h ▸ (loFreq_ne n).1))

section Retune

variable {s : State} {d : Desc} {n : Fin 5} (hq : s.radio.los[n].queue = []) (hr : s.radio.los[n].run = none)
include hq hr

/-- A retune of a descriptor below SYNTH sets the frequency and completes at once. -/
theorem loRequest_retune_below (hst : s.loState n < 2) : s.loRequest n (.retune d) =
    ((s.wr (Reg.loFreq n.val) (d.w 2)).putB (Fld.loStatBusy n.val) false).complete d
      { status := stOK, r1 := packW [(8, 8, s.get (Fld.loStatDiv n.val)), (0, 1, 0)] } := by
  have hstate : (s.wr (Reg.loFreq n.val) (d.w 2)).loState n = s.loState n := wr_loFreq_stat s n _ _ rfl
  rw [loRequest_of_done hq hr (fun he => absurd (he ▸ hst) (by decide)) ((loBegin_retune s n d).trans (loRetune_below hst ..)),
    loDone_retune (fun he => absurd (he ▸ hstate ▸ hst) (by decide)), wr_loFreq_stat s n _ _ rfl]
  rfl

/-- In SYNTH a retune of a descriptor to another frequency sets it and runs. -/
theorem loRequest_retune_moves (hst : s.loState n = 2) (hf : s.radio.los[n].freq ≠ (d.w 2).toNat) : ∃ cal, s.loRequest n (.retune d) =
    (s.wr (Reg.loFreq n.val) (d.w 2)).loStart n (.retune d) ⟨.retune d, 5, (d.w 2).toNat, cal, false, false⟩ := by
  obtain ⟨cal, hb⟩ := loRetune_moves (s := s.wr (Reg.loFreq n.val) (d.w 2)) (by omega : ¬ s.loState n < 2) hf.symm (.retune d) (d.f 1 8 1 == 1)
    (d.f 1 9 1 == 1)
  exact ⟨cal, loRequest_of_run hq hr (fun he => absurd (he ▸ hst) (by decide)) ((loBegin_retune s n d).trans hb)⟩

end Retune

theorem execTune_at_block {s : State} {d : Desc} (hruns : s.runs = true) (hm : s.head = true → d.member = s.me) (ht : s.takes 0x10 d = true)
    (hfree : s.free? .radio = true) : exec (.tune d) s = .next ((s.atBlock d).tuneHere d) := row_of_free hruns hm ht hfree id (State.tuneHere d)

theorem tune_results (s : State) (d : Desc) (n : Fin 5) (hruns : s.runs = true) (hdue : dueHere s 0x10 d) (hm : s.head = true → d.member = s.me)
    (hn : n = Fin.ofNat 5 (d.f 1 0 3)) : answers (.tune d) s fun t =>
      (s.free? .radio = false → ended s t d { status := stPeerReset } ∧ logsOnly s t) ∧
      (s.free? .radio = true → freqOk n (d.w 2).toNat = false → ended s t d { status := stBadDesc, detail := 0x40 } ∧ logsOnly s t) ∧
      (s.free? .radio = true → freqOk n (d.w 2).toNat = true → s.loRetired n = true → ended s t d { status := stRetired } ∧ logsOnly s t) ∧
      (s.free? .radio = true → freqOk n (d.w 2).toNat = true → s.loRetired n = false → s.radio.los[n].queue = [] → s.radio.los[n].run = none →
        s.loState n < 2 →
          t.rd (Reg.loFreq n.val) = d.w 2 ∧ ended s t d { status := stOK, r1 := packW [(8, 8, s.get (Fld.loStatDiv n.val)), (0, 1, 0)] }) ∧
      (s.free? .radio = true → freqOk n (d.w 2).toNat = true → s.loRetired n = false → s.radio.los[n].queue = [] → s.radio.los[n].run = none →
        s.loState n = 2 → s.radio.los[n].freq ≠ (d.w 2).toNat → t.rd (Reg.loFreq n.val) = d.w 2 ∧ t.is (Fld.loStatBusy n.val) = true ∧
          ∃ r, t.radio.los[n].run = some r ∧ r.req = .retune d ∧ r.next = 5 ∧ r.freq = (d.w 2).toNat) := by
  obtain ⟨htakes, ht⟩ := hdue
  cases hfree : s.free? .radio with
  | false =>
    refine answers_of (row_of_held hruns hm htakes hfree _ _) ⟨fun _ => atBlock_complete ht _, ?_, ?_, ?_, ?_⟩ <;>
    exact fun h => absurd h (by decide)
  | true =>
    have hlo : d.tuneLo = n := hn.symm
    have hret : (s.atBlock d).loRetired d.tuneLo = s.loRetired n := hlo ▸ atBlock_loRetired s d n
    have hstate := atBlock_loState s d n
    have hq (h : s.radio.los[n].queue = []) : (s.atBlock d).radio.los[n].queue = [] := by rw [atBlock_radio, h]
    have hr (h : s.radio.los[n].run = none) : (s.atBlock d).radio.los[n].run = none := by rw [atBlock_radio, h]
    refine answers_of (execTune_at_block hruns hm htakes hfree) ⟨fun h => absurd h (by decide), fun _ hf => ?_, fun _ hf hgone => ?_,
      fun _ hf hin hqueue hidle hst => ?_, fun _ hf hin hqueue hidle hst hne => ?_⟩
    · rw [tuneHere_out_of_range (hlo ▸ hf)]
      exact atBlock_complete ht _
    · rw [tuneHere_retired (hlo ▸ hf) (hret.trans hgone)]
      exact atBlock_complete ht _
    · rw [tuneHere_asks (hlo ▸ hf) (hret.trans hin), hlo, loRequest_retune_below (hq hqueue) (hr hidle) (hstate ▸ hst), atBlock_get]
      have honly : RadioOnly [Reg.loCtl n.val, Reg.loFreq n.val, Reg.loStat n.val] (s.atBlock d)
          (((s.atBlock d).wr (Reg.loFreq n.val) (d.w 2)).putB (Fld.loStatBusy n.val) false) :=
        ((RadioOnly.refl _).wr _ _ (by simp)).putB _ _ (by simp)
      refine ⟨?_, (endsAlike_at_radio honly).ended ht _⟩
      rw [((logsOnly.refl _).complete d _).2 _ (loFreq_not_logged n), State.putB_eq, State.rd_put_ne _ _ _ _ (loFreq_ne n).1.symm, State.rd_wr_self]
    · obtain ⟨cal, hrun⟩ := loRequest_retune_moves (d := d) (hq hqueue) (hr hidle) (hstate.trans hst) (by rw [atBlock_radio]; exact hne)
      rw [tuneHere_asks (hlo ▸ hf) (hret.trans hin), hlo, hrun]
      refine ⟨?_, loStart_busy .., _, loStart_run .., rfl, rfl, rfl⟩
      rw [loStart_rd _ _ _ _ _ (loFreq_ne n).2 (loFreq_not_logged n), State.rd_wr_self]

/-! ### RADIO_STATE (R355 to R358, R376, R808) -/

/-- RADIO_STATE at its block, of some synthesisers: as `execRadioState` has it. -/
def State.movesHere (d : Desc) (us : List (Fin 5)) (s : State) : State :=
  let t := d.f 1 8 3
  if stSynth ≤ t && us.any (fun n => s.loFreqReg n == 0) then s.bad d 0x40
  else if us.any (fun n => s.loRetired n) then s.finish d stRetired
  else if s.protect && 0 < t && us.any (fun n => s.loState n == stSleep) then s.finish d stBusyRetry
  else
    let s := s.modRadio (fun r => { r with moves := r.moves ++ [⟨d, us.map (·.val), false, 0⟩] })
    s.forEach us (fun s n => s.loRequest n (.move d t))

theorem allLos_of_mask (n : Fin 5) : allLos.filter (fun m => tb (2 ^ n.val) m.val) = [n] := by revert n; decide

theorem execRadioState_at_block {s : State} {d : Desc} {n : Fin 5} (hruns : s.runs = true) (hm : s.head = true → d.member = s.me)
    (ht : s.takes 0x11 d = true) (hfree : s.free? .radio = true) (hmask : d.f 1 0 5 = 2 ^ n.val) :
    exec (.radioState d) s = .next ((s.atBlock d).movesHere d [n]) := by
  have hone : allLos.filter (fun m => tb (d.f 1 0 5) m.val) = [n] := by rw [hmask, allLos_of_mask]
  rw [← hone]
  exact row_of_free hruns hm ht hfree id (State.movesHere d (allLos.filter (fun m => tb (d.f 1 0 5) m.val)))

/-- A move of one synthesiser is noted with its descriptor. -/
def State.moveNoted (s : State) (d : Desc) (n : Fin 5) : State := s.modRadio (fun r => { r with moves := r.moves ++ [⟨d, [n.val], false, 0⟩] })

section MovesHere

variable {s : State} {d : Desc} {n : Fin 5}

theorem movesHere_one (s : State) (d : Desc) (n : Fin 5) : s.movesHere d [n] =
    if stSynth ≤ d.f 1 8 3 && s.loFreqReg n == 0 then s.bad d 0x40
    else if s.loRetired n then s.finish d stRetired
    else if s.protect && 0 < d.f 1 8 3 && s.loState n == stSleep then s.finish d stBusyRetry
    else (s.moveNoted d n).loRequest n (.move d (d.f 1 8 3)) := by
  simp only [State.movesHere, List.any_cons, List.any_nil, Bool.or_false]
  rfl

theorem movesHere_without_frequency (h : stSynth ≤ d.f 1 8 3) (hf : s.loFreqReg n = 0) : s.movesHere d [n] = s.bad d 0x40 := by
  simp [movesHere_one, h, hf]

variable (hf : stSynth ≤ d.f 1 8 3 → s.loFreqReg n ≠ 0)
include hf

theorem frequency_given : (decide (stSynth ≤ d.f 1 8 3) && s.loFreqReg n == 0) = false := by
  cases h : decide (stSynth ≤ d.f 1 8 3) with
  | false => rfl
  | true => exact beq_false_of_ne (hf (of_decide_eq_true h))

theorem movesHere_retired (hret : s.loRetired n = true) : s.movesHere d [n] = s.finish d stRetired := by
  simp only [movesHere_one, frequency_given hf, hret, Bool.false_eq_true, if_false, if_true]

variable (hret : s.loRetired n = false)
include hret

theorem movesHere_protected (hp : s.protect = true) (hk : 0 < d.f 1 8 3) (hst : s.loState n = stSleep) :
    s.movesHere d [n] = s.finish d stBusyRetry := by
  simp only [movesHere_one, frequency_given hf, hret, hp, hst, hk, decide_true, Bool.and_self, beq_self_eq_true, Bool.false_eq_true, if_false, if_true]

/-- A synthesiser that sleeps only where it is asked to is asked for its move. -/
theorem movesHere_asks (hk : 0 < d.f 1 8 3 → s.loState n ≠ stSleep) :
    s.movesHere d [n] = (s.moveNoted d n).loRequest n (.move d (d.f 1 8 3)) := by
  have hprot : (s.protect && decide (0 < d.f 1 8 3) && s.loState n == stSleep) = false := by
    cases h : decide (0 < d.f 1 8 3) with
    | false => rw [Bool.and_false, Bool.false_and]
    | true => rw [beq_false_of_ne (hk (of_decide_eq_true h)), Bool.and_false]
  simp only [movesHere_one, frequency_given hf, hret, hprot, Bool.false_eq_true, if_false]

end MovesHere

section Moves

variable {s : State} {d : Desc} {n : Fin 5} {k : Nat} (hq : s.radio.los[n].queue = []) (hr : s.radio.los[n].run = none)
include hq hr

/-- A move to where the synthesiser stands, the only one of its descriptor, completes at once. -/
theorem loRequest_move_stays (hst : s.loState n = k) (hk : k < 3) (hm : s.radio.moves = []) : (s.moveNoted d n).loRequest n (.move d k) =
    ((((s.moveNoted d n).put (Fld.loCtlTarget n.val) k).putB (Fld.loStatBusy n.val) false).modRadio (fun r => { r with moves := [] })).complete d
      { status := stOK, r1 := 0 } := by
  have htx : s.loState n ≠ stTx := by simp only [stTx]; omega
  have hmoves : ((s.moveNoted d n).put (Fld.loCtlTarget n.val) k).radio.moves = [⟨d, [n.val], false, 0⟩] :=
    (congrArg (fun l : List RadioMove => l ++ [⟨d, [n.val], false, 0⟩]) hm)
  rw [loRequest_of_done (s := s.moveNoted d n) hq hr htx ((loBegin_move _ n d k).trans (loWay_stays hst.symm)),
    loDone_move_last hmoves (by simp only [stRx]; omega)]
  rfl

/-- A move downwards runs in one step. -/
theorem loRequest_move_down (hst : k < s.loState n) (htx : s.loState n < 4) (hheld : s.loHeld n = false) (hret : s.loRetired n = false) :
    (s.moveNoted d n).loRequest n (.move d k) =
      ((s.moveNoted d n).put (Fld.loCtlTarget n.val) k).loStart n (.move d k) ⟨.move d k, k, s.loFreqReg n, false, false, false⟩ := by
  have hheld' : (s.moveNoted d n).loHeld n = false :=
    (loHeld_of_takers (takers_congr (s := s) (t := s.moveNoted d n) (fun _ => rfl) rfl n)).trans hheld
  exact loRequest_of_run (s := s.moveNoted d n) hq hr (Nat.ne_of_lt htx) ((loBegin_move _ n d k).trans (loWay_down hheld' hret hst))

end Moves

theorem radioState_results (s : State) (d : Desc) (n : Fin 5) (k : Nat) (hruns : s.runs = true) (hdue : dueHere s 0x11 d)
    (hm : s.head = true → d.member = s.me) (hmask : d.f 1 0 5 = 2 ^ n.val) (hk : d.f 1 8 3 = k) : answers (.radioState d) s fun t =>
      (s.free? .radio = false → ended s t d { status := stPeerReset } ∧ logsOnly s t) ∧
      (s.free? .radio = true → stSynth ≤ k → s.loFreqReg n = 0 → ended s t d { status := stBadDesc, detail := 0x40 } ∧ logsOnly s t) ∧
      (s.free? .radio = true → (stSynth ≤ k → s.loFreqReg n ≠ 0) → s.loRetired n = true → ended s t d { status := stRetired } ∧ logsOnly s t) ∧
      (s.free? .radio = true → (stSynth ≤ k → s.loFreqReg n ≠ 0) → s.loRetired n = false → s.protect = true → 0 < k → s.loState n = stSleep →
        ended s t d { status := stBusyRetry } ∧ logsOnly s t) ∧
      (s.free? .radio = true → (stSynth ≤ k → s.loFreqReg n ≠ 0) → s.loRetired n = false → s.radio.los[n].queue = [] → s.radio.los[n].run = none →
        s.loState n = k → k < 3 → s.radio.moves = [] →
          ended s t d { status := stOK } ∧ t.get (Fld.loCtlTarget n.val) = k ∧ t.loState n = k) ∧
      (s.free? .radio = true → s.loRetired n = false → s.radio.los[n].queue = [] → s.radio.los[n].run = none → k < s.loState n → s.loState n < 4 →
        s.loHeld n = false → (stSynth ≤ k → s.loFreqReg n ≠ 0) →
          t.is (Fld.loStatBusy n.val) = true ∧ t.get (Fld.loCtlTarget n.val) = k ∧
          ∃ r, t.radio.los[n].run = some r ∧ r.req = .move d k ∧ r.next = k) := by
  obtain ⟨htakes, ht⟩ := hdue
  subst hk
  cases hfree : s.free? .radio with
  | false =>
    refine answers_of (row_of_held hruns hm htakes hfree _ _) ⟨fun _ => atBlock_complete ht _, ?_, ?_, ?_, ?_, ?_⟩ <;>
    exact fun h => absurd h (by decide)
  | true =>
    have hstate := atBlock_loState s d n
    have hret := atBlock_loRetired s d n
    have hf (h : stSynth ≤ d.f 1 8 3 → s.loFreqReg n ≠ 0) : stSynth ≤ d.f 1 8 3 → (s.atBlock d).loFreqReg n ≠ 0 :=
      fun hk => atBlock_loFreqReg s d n ▸ h hk
    have hq (h : s.radio.los[n].queue = []) : (s.atBlock d).radio.los[n].queue = [] := by rw [atBlock_radio, h]
    have hr (h : s.radio.los[n].run = none) : (s.atBlock d).radio.los[n].run = none := by rw [atBlock_radio, h]
    refine answers_of (execRadioState_at_block hruns hm htakes hfree hmask) ⟨fun h => absurd h (by decide), fun _ hk hzero => ?_,
      fun _ hgiven hgone => ?_, fun _ hgiven hin hp hk hst => ?_, fun _ hgiven hin hqueue hidle hst hk hmoves => ?_,
      fun _ hin hqueue hidle hst htx hheld hgiven => ?_⟩
    · rw [movesHere_without_frequency hk ((atBlock_loFreqReg s d n).trans hzero)]
      exact atBlock_complete ht _
    · rw [movesHere_retired (hf hgiven) (hret.trans hgone)]
      exact atBlock_complete ht _
    · rw [movesHere_protected (hf hgiven) (hret.trans hin) ((atBlock_protect s d).trans hp) hk (hstate.trans hst)]
      exact atBlock_complete ht _
    · rw [movesHere_asks (hf hgiven) (hret.trans hin) (by rw [hstate, hst]; exact fun h => Nat.ne_of_gt h),
        loRequest_move_stays (hq hqueue) (hr hidle) (hstate.trans hst) hk ((congrArg (·.moves) (atBlock_radio s d)).trans hmoves)]
      have honly : RadioOnly [Reg.loCtl n.val, Reg.loFreq n.val, Reg.loStat n.val] (s.atBlock d)
          (((((s.atBlock d).moveNoted d n).put (Fld.loCtlTarget n.val) (d.f 1 8 3)).putB (Fld.loStatBusy n.val) false).modRadio
            (fun r => { r with moves := [] })) :=
        ((((RadioOnly.refl _).modRadio _).put _ _ (by simp)).putB _ _ (by simp)).modRadio _
      have hlogs := fun u : State => (logsOnly.refl u).complete d { status := stOK, r1 := 0 }
      refine ⟨(endsAlike_at_radio honly).ended ht _, ?_, ?_⟩
      · rw [get_of_regsOnly (hlogs _).2 _ (loCtl_not_logged n), State.modRadio_get, State.putB_eq, get_put_other _ _ _ _ (loStat_ne_loCtl n n).symm,
          State.get_put_self _ _ _ (by simp)]
        exact Nat.mod_eq_of_lt (Nat.lt_trans hk (by simp))
      · rw [State.loState, get_of_regsOnly (hlogs _).2 _ (loState_not_logged n), State.modRadio_get, State.putB_eq,
          get_put_bits _ _ _ _ (.inr (by simp))]
        exact (put_target_state _ n _).trans (hstate.trans hst)
    · rw [movesHere_asks (hf hgiven) (hret.trans hin) (by rw [hstate]; exact fun _ => Nat.ne_of_gt (Nat.lt_of_le_of_lt (Nat.zero_le _) hst)),
        loRequest_move_down (hq hqueue) (hr hidle) (hstate ▸ hst) (hstate ▸ htx) ((atBlock_loHeld s d n).trans hheld) (hret.trans hin)]
      refine ⟨loStart_busy .., ?_, _, loStart_run .., rfl, rfl⟩
      rw [State.get, loStart_rd _ _ _ _ _ (loCtl_not_stat n) (loCtl_not_logged n)]
      exact (State.get_put_self _ _ _ (by simp)).trans (Nat.mod_eq_of_lt (Nat.lt_of_lt_of_le (Nat.lt_trans hst htx) (by simp)))

end Sys2Proof.Machine
end

section
/-! Timeouts of a synthesiser: lock, relock and rails (R65, R359, R787), and O31. -/

namespace Sys2Proof.Machine

/-! ### A first failure (R788 to R792) -/

/-- What a failure changes of the fault manager's own data: the times kept of what failed, and the count of failures. -/
def failNoted (keep : List FailLog → List FailLog) (f : Flt) : Flt :=
  { f with fails := keep f.fails, telem := { f.telem with failures := satAdd 65535 f.telem.failures 1 } }

/-- A first failure that the policy does not retire for is noted and reported. -/
theorem fail_reports {s : State} {cls inst : Nat} (hret : s.retired cls inst = false) (hk : s.get (Fld.fltPolicyK cls) ≠ 1)
    (hf : ∀ e ∈ s.flt.fails, ¬(e.cls = cls ∧ e.inst = inst)) :
    ∃ keep, s.fail cls inst false = (s.modFlt (failNoted keep)).fault 0x0F cls inst 1 0 := by
  have hnone : s.flt.fails.find? (fun e => e.cls == cls && e.inst == inst) = none := by simpa using hf
  obtain hz | ⟨k, hk2⟩ : s.get (Fld.fltPolicyK cls) = 0 ∨ ∃ k, s.get (Fld.fltPolicyK cls) = k + 2 :=
    (Nat.eq_zero_or_pos _).imp_right fun hpos => ⟨s.get (Fld.fltPolicyK cls) - 2, by omega⟩
  · refine ⟨id, ?_⟩
    simp [State.fail, hret, hz, State.cond, failNoted, State.modFlt, State.modTelem, b2n]
  · refine ⟨fun l => ⟨cls, inst, [s.flt.ms]⟩ :: l.filter (fun e => !(e.cls == cls && e.inst == inst)), ?_⟩
    simp [State.fail, hret, hk2, hnone, State.cond, failNoted, State.modFlt, State.modTelem, b2n]

theorem fail_effect {s : State} {cls inst : Nat} (hret : s.retired cls inst = false) (hk : s.get (Fld.fltPolicyK cls) ≠ 1)
    (hf : ∀ e ∈ s.flt.fails, ¬(e.cls = cls ∧ e.inst = inst)) : logsOnly s (s.fail cls inst false) ∧
      (s.fail cls inst false).is Fld.fltStatFailure = true ∧
      (s.fail cls inst false).flt.telem.failures = satAdd 65535 s.flt.telem.failures 1 := by
  obtain ⟨keep, he⟩ := fail_reports hret hk hf
  obtain ⟨hbit, hcount⟩ := fault_sets (s.modFlt (failNoted keep)) 0x0F cls inst 1 0 Fld.fltStatFailure rfl rfl (by decide) (by decide)
  rw [he]
  exact ⟨((logsOnly.refl s).modFlt _).fault _ _ _ _ _, hbit, hcount⟩

/-! ### No lock in time (R359, R787) -/

/-- Reporting after changes of the radio, as the statements say it. -/
theorem RadioOnly.logsAnd {offs : List Nat} {s u t : State} (h : RadioOnly offs s u) (k : logsOnly u t) :
    logsAnd offs (s.modRadio (fun _ => t.radio)) t := by
  have e := h.rest
  rw [← k.1] at e
  refine ⟨congrArg (fun v : State => { v with hif := s.hif, pwr := s.pwr, flt := s.flt, lnk := s.lnk, out := s.out, radio := t.radio }) e, ?_⟩
  intro off ho
  simp only [List.mem_append, not_or] at ho
  exact (k.2 off ho.2).trans (h.regs off ho.1)

theorem fltPolicy_not_written (n : Fin 5) : (Fld.fltPolicyK 1).off ∉ [Reg.loStat n.val, Reg.radioState] := by revert n; decide

theorem synthLockTimeout_fails (s : State) (n : Fin 5) (r : LoRun) (k : Nat) (hruns : s.runs = true) (hfree : s.free? .radio = true)
    (hrun : s.radio.los[n].run = some r) (hq : s.radio.los[n].queue = []) (hw : r.waits = false) (hnext : r.next = stSynth)
    (hst : s.loState n = stStandby) (hreq : r.req = .target k) (hret : s.retired 1 n.val = false) (hk : s.get (Fld.fltPolicyK 1) ≠ 1)
    (hf : ∀ e ∈ s.flt.fails, ¬(e.cls = 1 ∧ e.inst = n.val)) : answers (.synthLockTimeout n) s fun t =>
      t.loState n = stStandby ∧ t.radio.los[n].run = none ∧ t.is (Fld.loStatBusy n.val) = false ∧ t.is (Fld.loStatLock n.val) = false ∧
      t.is Fld.fltStatFailure = true ∧ t.flt.telem.failures = satAdd 65535 s.flt.telem.failures 1 ∧
      logsAnd [Reg.loStat n.val, Reg.radioState] (s.modRadio (fun _ => t.radio)) t := by
  have honly := loOff_radioOnly s n stStandby
  have hflt : (s.loOff n stStandby).flt = s.flt := congrArg (·.flt) honly.rest
  have hret' : (s.loOff n stStandby).retired 1 n.val = false :=
    (congrArg (· != 0) (get_of_regsOnly honly.regs ⟨Reg.fltRetireMap0, 8 + n.val, 1⟩ (step_not_written n).1)).trans hret
  have hk' : (s.loOff n stStandby).get (Fld.fltPolicyK 1) ≠ 1 := by
    rw [get_of_regsOnly honly.regs (Fld.fltPolicyK 1) (fltPolicy_not_written n)]
    exact hk
  obtain ⟨hlogs, hbit, hcount⟩ := fail_effect hret' hk' (by rw [hflt]; exact hf)
  have hserve : ((s.loOff n stStandby).fail 1 n.val false).loServe n = (s.loOff n stStandby).fail 1 n.val false :=
    loServe_idle _ n (by rw [hlogs.radio_eq, loOff_lo, hq])
  have he : exec (.synthLockTimeout n) s = .next ((s.loOff n stStandby).fail 1 n.val false) := by
    rw [← hserve]
    change execSynthLockTimeout n s = _
    have hstep : (r.next == 5) = false := by rw [hnext]; rfl
    have hacts : (r.waits || !(false || r.next == stSynth && s.loState n == stStandby)) = false := by simp [hw, hnext, hst]
    simp only [execSynthLockTimeout, inBlock, done, hruns, hfree, hrun, hacts, hstep, hreq, Bool.and_self, if_true, Bool.false_eq_true, if_false]
    rfl
  have hstat (g : FieldRef) (hg : g.off = Reg.loStat n.val) : ((s.loOff n stStandby).fail 1 n.val false).get g = (s.loOff n stStandby).get g :=
    get_of_regsOnly hlogs.2 g (hg ▸ loState_not_logged n)
  refine answers_of he ⟨?_, ?_, ?_, ?_, hbit, hflt ▸ hcount, honly.logsAnd hlogs⟩
  · rw [State.loState, hstat _ rfl]
    exact (loOff_states s n stStandby).2.1
  · rw [hlogs.radio_eq, loOff_lo]
  · rw [State.is, hstat _ rfl]
    exact loOff_busy ..
  · rw [State.is, hstat _ rfl]
    exact loOff_lock ..

theorem synthRelockTimeout_fails (s : State) (n : Fin 5) (hruns : s.runs = true) (hfree : s.free? .radio = true)
    (hrelock : s.radio.los[n].relock = true) (hret : s.retired 1 n.val = false) (hk : s.get (Fld.fltPolicyK 1) ≠ 1)
    (hf : ∀ e ∈ s.flt.fails, ¬(e.cls = 1 ∧ e.inst = n.val)) : answers (.synthRelockTimeout n) s fun t =>
      t.radio.los[n] = { s.radio.los[n] with relock := false } ∧ t.is Fld.fltStatFailure = true ∧
      t.flt.telem.failures = satAdd 65535 s.flt.telem.failures 1 ∧ logsOnly (s.modRadio (fun _ => t.radio)) t := by
  obtain ⟨hlogs, hbit, hcount⟩ := fail_effect (s := s.modLo n (fun l => { l with relock := false })) (cls := 1) (inst := n.val) hret hk hf
  have he : exec (.synthRelockTimeout n) s = .next ((s.modLo n (fun l => { l with relock := false })).fail 1 n.val false) := by
    change execSynthRelockTimeout n s = _
    simp only [execSynthRelockTimeout, inBlock, done, hruns, hfree, hrelock, State.cond, Bool.and_self, if_true]
  refine answers_of he ⟨?_, hbit, hcount, logsOnly.of_modRadio (f := fun r => { r with los := upd r.los n (fun l => { l with relock := false }) }) hlogs⟩
  rw [hlogs.radio_eq, modLo_self]

/-! ### Rails not good in time (R65) -/

theorem radioRailWaitTimeout_ends (s : State) (n : Fin 5) (r : LoRun) (d : Desc) (k : Nat) (hruns : s.runs = true) (hfree : s.free? .radio = true)
    (hrun : s.radio.los[n].run = some r) (hw : r.waits = true) (hreq : r.req = .move d k) (ht : tellable s d) :
    answers (.radioRailWaitTimeout n) s fun t =>
      ended s t d { status := stTimeout } ∧ t.radio.los[n].run = some { r with req := .target k } ∧ logsOnly (s.modRadio (fun _ => t.radio)) t := by
  set u := s.modLo n (fun l => { l with run := some { r with req := .target k } }) with hu
  have he : exec (.radioRailWaitTimeout n) s = .next (u.radioEnds d stTimeout) := by
    have hwaits : (!r.waits) = false := by rw [hw]; rfl
    change execRadioRailWaitTimeout n s = _
    simp only [execRadioRailWaitTimeout, inBlock, done, hruns, hfree, hrun, hwaits, hreq, Bool.and_self, if_true, Bool.false_eq_true, if_false]
    rfl
  have hlogs := (logsOnly.refl (u.modRadio (fun r => { r with moves := r.moves.filter (fun m => m.d != d) }))).finish d stTimeout
  have hends : EndsAlike d s (u.modRadio (fun r => { r with moves := r.moves.filter (fun m => m.d != d) })) :=
    ((EndsAlike.refl d s).modRadio (fun q => { q with los := upd q.los n (fun l => { l with run := some { r with req := .target k } }) })).modRadio _
  refine answers_of he ⟨hends.ended ht _, ?_, ?_⟩
  · rw [State.radioEnds, hlogs.radio_eq]
    exact congrArg LoSt.run (modLo_self s n _)
  · exact logsOnly.of_modRadio (s := s) (f := fun q => { q with
      los := upd q.los n (fun l => { l with run := some { r with req := .target k } })
      moves := q.moves.filter (fun m => m.d != d) }) hlogs

/-- Settles O31, a lemma for each of its clauses. -/
theorem synthesisersMoveTuneAndTimeOut : Obligations.SynthesisersMoveTuneAndTimeOut := by
  refine ⟨loTargetWrite_moves, loTuneWrite_retunes, calInvalidate_discards, ?_, ?_, synthStepDone_tune, synthStepDone_retune_descriptor, ?_, ?_,
    radioState_results, synthLockTimeout_fails, synthRelockTimeout_fails, radioRailWaitTimeout_ends⟩
  · intro s n r cyc k hruns hfree hrun hq hw hreq hnext hk _
    exact synthStepDone_target s n r cyc k hruns hfree hrun hq hw hreq hnext hk
  · intro s n r cyc hruns hfree hrun hw hreq hnext _ hheld hret
    exact synthStepDone_first_step s n r cyc hruns hfree hrun hw hreq hnext hheld hret
  · intro s n r cyc d hruns hfree hrun hq hw hreq hnext _ hmoves ht
    exact synthStepDone_move_ends s n r cyc d hruns hfree hrun hq hw hreq hnext hmoves ht
  · intro s d n hruns hdue hm hn
    exact tune_results s d n hruns hdue hm hn

end Sys2Proof.Machine
end

section
/-! Writes over the bus to registers that act: which field table a served write meets, and where it lands. -/

namespace Sys2Proof.Machine

/-- A register below the SVC block whose table defines every value of its fields `fs`, that is no half of a pair and whose written words nothing
else judges: a served write acts on it at once. -/
structure BusReg (off : Nat) (fs : List Field) : Prop where
  row : (regRow off).map (·.fields) = some fs
  low : off < 0x6800
  written : allRO fs = false
  domains : fs.all (·.dom.isEmpty) = true
  special : off ∉ [Reg.laceShape, Reg.fltPolicy 7, Reg.topSoftReset, Reg.pipSrc, Reg.txPower]
  units : loOfCtl off = none ∧ loOfFreq off = none ∧ pathOfAgc off = none
  pair : isPaired off = false ∧ isPaired (off - 4) = false

theorem BusReg.regWrite {off : Nat} {fs : List Field} (h : BusReg off fs) (s : State) (p : Port) (w : Word) (t : WriteAt) :
    s.regWrite p off w t = s.landWrite p off w fs t := by
  obtain ⟨r, hrow, rfl⟩ := Option.map_eq_some_iff.mp h.row
  have hspec := h.special
  simp only [List.mem_cons, List.not_mem_nil, or_false, not_or] at hspec
  have hlow := h.low
  have hfs : s.fieldsAt off r = r.fields := by simp [State.fieldsAt, hspec]
  have hwd : s.writeDefined off w = true := by simp [State.writeDefined, hspec, h.units]
  have haway : s.svcAway off = false := by simp [State.svcAway, show ¬ 0x6800 ≤ off by omega]
  simp [State.regWrite, hrow, hfs, hwd, show ¬ 0xF004 ≤ off by omega, haway, h.written, fieldsDefined_of_no_domains h.domains, h.pair]

theorem BusReg.hostWrite {off : Nat} {fs : List Field} (h : BusReg off fs) {s : State} {p : Port} (hs : served s p off) (w : Word) (t : WriteAt) :
    s.hostWrite p off w t = s.landWrite p off w fs t := by
  rw [hostWrite_served hs (fun e => h.special (by simp [e])), h.regWrite]

theorem busReg_bootCtl : BusReg Reg.bootCtl [⟨1, 1, .rw, []⟩, ⟨0, 1, .sc, []⟩] := by
  constructor <;> decide

/-- A write of BOOT_CTL takes FORCE_UNTESTED, then acts. -/
theorem hostWrite_bootCtl {s : State} {p : Port} (hs : served s p Reg.bootCtl) (w : Word) (t : WriteAt) :
    s.hostWrite p Reg.bootCtl w t = (s.put Fld.bootCtlForceUntested (getF w 1 1)).bootCtl (getF w 0 1 == 1) := by
  rw [busReg_bootCtl.hostWrite hs]
  rfl

end Sys2Proof.Machine
end

section
/-! A load from host memory as it starts and as it ends in HELD, and what a write of START does in ROM (R77 to R80, R863, R865). -/

namespace Sys2Proof.Machine

/-- BOOT_MISMATCH as a load leaves it: CODE, IMAGE and FETCH are 0 (R82). -/
def State.loadClears (s : State) : State := s.wr Reg.bootMismatch (s.rd Reg.bootMismatch &&& 0xFFFEFFC0#32)

theorem getF_and_of_clear (w m : Word) (lo n : Nat) (h : getF m lo n = 0) : getF (w &&& m) lo n = 0 := by
  apply Nat.eq_of_testBit_eq
  intro i
  have hi := congrArg (·.testBit i) h
  simp only [testBit_getF, Nat.zero_testBit] at hi ⊢
  rw [BitVec.getLsbD_and, Bool.and_left_comm, hi, Bool.and_false]

/-- A load from host memory as it starts: the images are lost, and every read is still to be issued. -/
def State.loadBegins (s : State) : State :=
  let u := s.loadClears
  let a := u.imgAt .svc
  let b := u.imgAt .seq
  let m := max 128 u.pcie.mrrs
  (u.dropImages.setPhase phFetch).modBoot (fun q =>
    { q with fetch := some ⟨[], imgReqs (a.2 / 64 + 1) .svc a.1 m 0 a.2 ++ imgReqs (b.2 / 64 + 1) .seq b.1 m 0 b.2, none⟩ })

theorem startLoad_of_host {s : State} (h : s.source = 0) : s.startLoad = s.loadBegins.fetchStep := by
  have hsrc : (s.loadClears.source == 0) = true := beq_iff_eq.mpr h
  exact if_pos hsrc

/-- An image of some length is asked for from its beginning. -/
theorem imgReqs_of_pos (g : Img) (n addr mrrs len : Nat) (h : len ≠ 0) : ∃ k rest, imgReqs (n + 1) g addr mrrs 0 len = ⟨g, 0, k⟩ :: rest :=
  ⟨_, _, if_neg (by simpa using h)⟩

theorem loadBegins_fetch {s : State} (h : (s.rd Reg.bootSvcLen).toNat ≠ 0) :
    ∃ k rest, s.loadBegins.boot.fetch = some ⟨[], ⟨.svc, 0, k⟩ :: rest, none⟩ := by
  obtain ⟨k, rest, he⟩ := imgReqs_of_pos .svc ((s.loadClears.imgAt .svc).2 / 64) (s.loadClears.imgAt .svc).1 (max 128 s.loadClears.pcie.mrrs)
    (s.loadClears.imgAt .svc).2
    (by simp only [State.imgAt, imgMax, State.loadClears, s.rd_wr_ne Reg.bootMismatch Reg.bootSvcLen _ (by decide)]; omega)
  simp only [State.loadBegins, State.modBoot, he]
  exact ⟨k, _, rfl⟩

/-- With Bus Master Enable set the first reads go out, 32 at most (R863). -/
theorem fetchStep_issues {s : State} {rs : List ReadReq} (hf : s.boot.fetch = some ⟨[], rs, none⟩) (hne : rs ≠ []) (hb : s.pcie.busMaster = true) :
    s.fetchStep = (s.emits ((rs.take 32).map (fun r => .hostRead ((s.imgAt r.img).1 + r.off) r.bytes))).modBoot
      (fun b => { b with fetch := some ⟨rs.take 32, rs.drop 32, none⟩ }) := by
  obtain ⟨r, rest, rfl⟩ := List.exists_cons_of_ne_nil hne
  simp [State.fetchStep, hf, hb]

/-- With Bus Master Enable clear the first read that cannot be issued fails the load (R77, R80). -/
theorem fetchStep_barred {s : State} {r : ReadReq} {rest : List ReadReq} (hf : s.boot.fetch = some ⟨[], r :: rest, none⟩) (hb : s.pcie.busMaster = false) :
    s.fetchStep = (s.modBoot (fun b => { b with fetch := some ⟨[], [], some r.img⟩ })).hold heldCrc (imgCode r.img) true false false := by
  simp [State.fetchStep, hf, hb, State.emits]

/-- What HELD stores of a load that ends there (R80, R86): nothing starts, nothing goes out. -/
theorem hold_of_load (s : State) (code image : Nat) (fetch : Bool) (hc : code < 16) (hi : image < 4) :
    let t := s.hold code image fetch false false
    t.phase = phHeld ∧ t.is Fld.bootCtlStart = false ∧ t.get Fld.bootMismatchCode = code ∧ t.get Fld.bootMismatchImage = image ∧
      t.is Fld.bootMismatchFetch = fetch ∧ t.boot.fetch = none ∧ t.out = s.out := by
  have hbit : ((if fetch = true then 1 else 0) % 2 == 1) = fetch := by cases fetch <;> rfl
  refine ⟨?_, ?_, ?_, ?_, ?_, rfl, rfl⟩ <;>
    simp (disch := decide) [State.hold, State.loadEnds, State.setPhase, State.phase, State.is, State.putB_eq, State.get_put_self, State.get_put_ne,
      b2n, phHeld, hc, hi, hbit]

/-! ### A write of BOOT_CTL (R74, R88, R108, R865) -/

/-- What PCI Express configuration has set stands before a write of START acts. -/
def State.configured (s : State) (busMaster : Bool) (mrrs : Fin 6) : State :=
  s.cond (s.portOpen .pcie) (fun s => s.modPcie (fun p => { p with busMaster := busMaster, mrrs := 128 * 2 ^ mrrs.val }))

theorem served_configured {s : State} {p : Port} {off : Nat} (h : served s p off) (bm : Bool) (mr : Fin 6) : served (s.configured bm mr) p off := by
  unfold State.configured State.cond
  split
  · cases p <;> exact h
  · exact h

theorem exec_bootStart {s : State} {p : Port} (h : served s p Reg.bootCtl) (w : Word) (bm : Bool) (mr : Fin 6) :
    exec (.bootStart p w bm mr) s = .next (((s.configured bm mr).put Fld.bootCtlForceUntested (getF w 1 1)).bootCtl (getF w 0 1 == 1)) :=
  congrArg Host.Outcome.next (hostWrite_bootCtl (served_configured h bm mr) w _)

theorem exec_bootForceUntested {s : State} {p : Port} (h : served s p Reg.bootCtl) (w : Word) :
    exec (.bootForceUntested p w) s = .next ((s.put Fld.bootCtlForceUntested (getF w 1 1)).bootCtl (getF w 0 1 == 1)) :=
  congrArg Host.Outcome.next (hostWrite_bootCtl h w _)

/-- FORCE_UNTESTED reads as written. -/
theorem is_forceUntested (s : State) (w : Word) : (s.put Fld.bootCtlForceUntested (getF w 1 1)).is Fld.bootCtlForceUntested = (getF w 1 1 == 1) := by
  rw [State.is, State.get_put_self _ _ _ (by decide), Nat.mod_eq_of_lt (getF_lt w 1 1)]
  exact bit_ne_zero (getF_lt w 1 1)

/-- Only HELD lets FORCE_UNTESTED start a pair. -/
theorem bootCtl_not_started {s : State} (h : s.phase ≠ phHeld) : s.bootCtl false = s := by
  simp [State.bootCtl, State.cond, h]

/-- START in ROM is held (R865). -/
theorem bootCtl_inRom {s : State} (h : s.phase = phROM) (hsrc : s.source ≠ 2) :
    s.bootCtl true = if s.is Fld.bootCtlStart then s else s.putB Fld.bootCtlStart true := by
  have hstays : (s.putB Fld.bootCtlStart true).phase = phROM := (s.get_put_ne _ _ _ (by decide)).trans h
  cases hs : s.is Fld.bootCtlStart <;> simp [State.bootCtl, State.cond, hs, h, hstays, hsrc, phROM, phHeld]

theorem bootStart_inRom (s : State) (p : Port) (w : Word) (bm : Bool) (mr : Fin 6) (h : served s p Reg.bootCtl) (hp : s.phase = phROM)
    (hsrc : s.source ≠ 2) (hw : getF w 0 1 = 1) : answers (.bootStart p w bm mr) s fun t =>
      t.is Fld.bootCtlStart = true ∧ t.is Fld.bootCtlForceUntested = (getF w 1 1 == 1) ∧
      fieldsOnly [Fld.bootCtlStart, Fld.bootCtlForceUntested] s t ∧ { t with regs := s.regs, pcie := s.pcie } = s := by
  set u := (s.configured bm mr).put Fld.bootCtlForceUntested (getF w 1 1) with hu
  have hregs : (s.configured bm mr).regs = s.regs := by unfold State.configured State.cond; split <;> rfl
  have hrest : { u with regs := s.regs, pcie := s.pcie } = s := by rw [hu]; unfold State.configured State.cond; split <;> rfl
  have hphase : u.phase = phROM := (State.get_put_ne _ _ _ _ (by decide)).trans ((congrArg (fun l => getF (Sparse.get resetWord l _) 0 4) hregs).trans hp)
  have hsource : u.source ≠ 2 := by
    have e := congrArg State.source hrest
    exact fun h2 => hsrc (e.symm.trans h2)
  have hfields : fieldsOnly [Fld.bootCtlStart, Fld.bootCtlForceUntested] s u :=
    fieldsOnly_trans (fieldsOnly_of_regs hregs) (fieldsOnly_put _ _ _ (by simp))
  have he := exec_bootStart h w bm mr
  rw [hw, beq_self_eq_true, bootCtl_inRom hphase hsource] at he
  cases hs : u.is Fld.bootCtlStart with
  | true =>
    rw [hs, if_pos rfl] at he
    exact answers_of he ⟨hs, is_forceUntested _ w, hfields, hrest⟩
  | false =>
    rw [hs, if_neg Bool.false_ne_true] at he
    refine answers_of he ⟨State.is_putB _ _ _ (by decide) (by decide), ?_, fieldsOnly_trans hfields (fieldsOnly_put _ _ _ (by simp)), hrest⟩
    exact (congrArg (· != 0) (State.get_put_ne _ _ _ _ (by decide))).trans (is_forceUntested _ w)

end Sys2Proof.Machine
end

section
/-! START in WAIT_IMAGES and HELD: with Bus Master Enable a load in FETCH, without it HELD_CRC (R74, R77, R78, R80, R863). -/

namespace Sys2Proof.Machine

/-- Where the images stand in host memory and how long they are depends on their addresses and lengths. -/
theorem imgAt_of_regsOnly {offs : List Nat} {s t : State} (h : regsOnly offs s t)
    (ho : ∀ o ∈ [Reg.bootSvcAddrLo, Reg.bootSvcAddrHi, Reg.bootSvcLen, Reg.bootSeqAddrLo, Reg.bootSeqAddrHi, Reg.bootSeqLen], o ∉ offs) (g : Img) :
    t.imgAt g = s.imgAt g := by
  simp only [List.forall_mem_cons] at ho
  obtain ⟨hsl, hsh, hsn, hql, hqh, hqn, -⟩ := ho
  cases g
  · simp only [State.imgAt, get_of_regsOnly h Fld.bootSvcAddrLoAddr hsl, h _ hsh, h _ hsn]
  · simp only [State.imgAt, get_of_regsOnly h Fld.bootSeqAddrLoAddr hql, h _ hqh, h _ hqn]

/-- A load that begins has lost the images and stands in FETCH with BOOT_MISMATCH cleared (R78, R82). -/
theorem loadBegins_state (s : State) :
    s.loadBegins.phase = phFetch ∧ s.loadBegins.is Fld.bootCtlStart = s.is Fld.bootCtlStart ∧ s.loadBegins.get Fld.bootMismatchCode = 0 ∧
      s.loadBegins.get Fld.bootMismatchImage = 0 ∧ s.loadBegins.is Fld.bootMismatchFetch = false ∧
      regsOnly [Reg.bootMismatch, Reg.bootStat] s s.loadBegins := by
  have hmis : s.loadBegins.rd Reg.bootMismatch = s.rd Reg.bootMismatch &&& 0xFFFEFFC0#32 :=
    (State.rd_put_ne s.loadClears.dropImages Fld.bootStatPhase _ _ (by decide)).trans (s.rd_wr_self _ _)
  have hregs : regsOnly [Reg.bootMismatch, Reg.bootStat] s s.loadBegins :=
    regsOnly_trans (regsOnly_wr s _ _ (by simp)) (regsOnly_put s.loadClears.dropImages Fld.bootStatPhase _ (by simp))
  refine ⟨State.get_put_self s.loadClears.dropImages Fld.bootStatPhase _ (by decide),
    congrArg (· != 0) (get_of_regsOnly hregs Fld.bootCtlStart (by decide)), ?_, ?_, ?_, hregs⟩
  · rw [State.get, hmis]; exact getF_and_of_clear _ _ _ _ (by decide)
  · rw [State.get, hmis]; exact getF_and_of_clear _ _ _ _ (by decide)
  · rw [State.is, State.get, hmis, getF_and_of_clear _ _ _ _ (by decide)]; rfl

/-- START in WAIT_IMAGES or HELD starts a load (R74, R108); no pair starts from it unless it ends in HELD with HELD_STEP or HELD_IFG. -/
theorem bootCtl_loads {s t : State} (hs : s.is Fld.bootCtlStart = false) (hsrc : s.source = 0) (hp : s.phase = phWait ∨ s.phase = phHeld)
    (ht : (s.putB Fld.bootCtlStart true).startLoad = t) (hends : t.phase ≠ phHeld ∨ t.get Fld.bootMismatchCode = heldCrc) : s.bootCtl true = t := by
  have hno : (t.phase == phHeld && t.is Fld.bootCtlForceUntested &&
      (t.get Fld.bootMismatchCode == heldStep || t.get Fld.bootMismatchCode == heldIfg)) = false := by
    rcases hends with h | h <;> simp [h, heldCrc, heldStep, heldIfg]
  have hrom : (s.phase == phROM) = false := by rcases hp with h | h <;> rw [h] <;> rfl
  have hload : (s.phase == phWait || s.phase == phHeld) = true := by rcases hp with h | h <;> rw [h] <;> rfl
  simp only [State.bootCtl, State.cond, hs, hsrc, hrom, hload, Bool.not_false, Bool.and_true, if_true, if_false, Bool.false_eq_true, ht,
    show (0 != 2) = true from rfl, hno]

section Loads

variable {s : State} {p : Port} {w : Word} {mr : Fin 6} (h : served s p Reg.bootCtl) (hpcie : s.portOpen .pcie = true) (hsrc : s.source = 0)
  (hp : s.phase = phWait ∨ s.phase = phHeld) (hs : s.is Fld.bootCtlStart = false) (hw : getF w 0 1 = 1) (hlen : (s.rd Reg.bootSvcLen).toNat ≠ 0)

/-- The device with PCI Express configured as the command tells and BOOT_CTL written. -/
def State.startTaken (s : State) (w : Word) (bm : Bool) (mr : Fin 6) : State :=
  ((s.modPcie (fun p => { p with busMaster := bm, mrrs := 128 * 2 ^ mr.val })).put Fld.bootCtlForceUntested (getF w 1 1)).putB Fld.bootCtlStart true

theorem startTaken_regs (s : State) (w : Word) (bm : Bool) (mr : Fin 6) : regsOnly [Reg.bootCtl] s (s.startTaken w bm mr) :=
  regsOnly_trans (regsOnly_put (s.modPcie _) Fld.bootCtlForceUntested _ (by simp)) (regsOnly_put _ Fld.bootCtlStart _ (by simp))

include h hpcie hsrc hp hs hw

theorem exec_bootStart_loads (bm : Bool) {t : State} (ht : (s.startTaken w bm mr).startLoad = t)
    (hends : t.phase ≠ phHeld ∨ t.get Fld.bootMismatchCode = heldCrc) : exec (.bootStart p w bm mr) s = .next t := by
  rw [exec_bootStart h w bm mr, show s.configured bm mr = _ from if_pos hpcie, hw, beq_self_eq_true]
  refine congrArg Host.Outcome.next (bootCtl_loads ?_ hsrc ?_ ht hends)
  · exact (congrArg (· != 0) (State.get_put_ne _ _ _ _ (by decide))).trans hs
  · rw [State.phase, State.get_put_ne _ _ _ _ (by decide)]; exact hp

include hlen

theorem bootStart_fetches : answers (.bootStart p w true mr) s fun t =>
    t.phase = phFetch ∧ t.is Fld.bootCtlStart = true ∧ t.boot.svcImg = [] ∧ t.boot.seqImg = [] ∧ t.get Fld.bootMismatchCode = 0 ∧
    t.get Fld.bootMismatchImage = 0 ∧ t.is Fld.bootMismatchFetch = false ∧ t.pcie.busMaster = true ∧ t.pcie.mrrs = 128 * 2 ^ mr.val ∧
    ∃ f, t.boot.fetch = some f ∧ f.out ≠ [] ∧ f.out.length ≤ 32 ∧ f.failed = none ∧
      t.out = (f.out.map (fun r => Out.hostRead ((s.imgAt r.img).1 + r.off) r.bytes)).reverse ++ s.out := by
  set u := s.startTaken w true mr with hu
  have hregs := startTaken_regs s w true mr
  obtain ⟨hphase, hstart, hcode, himage, hfetch, hbegin⟩ := loadBegins_state u
  obtain ⟨k, rest, hf⟩ := loadBegins_fetch (s := u) (by rw [hregs _ (by decide)]; exact hlen)
  have hstep := fetchStep_issues hf (List.cons_ne_nil _ _) rfl
  have hat : ∀ g, u.loadBegins.imgAt g = s.imgAt g := fun g =>
    (imgAt_of_regsOnly hbegin (by decide) g).trans (imgAt_of_regsOnly hregs (by decide) g)
  simp only [hat] at hstep
  refine answers_of (exec_bootStart_loads h hpcie hsrc hp hs hw true ((startLoad_of_host (s := u) hsrc).trans hstep)
    (.inl (fun e => absurd (hphase.symm.trans e) (by decide)))) ?_
  refine ⟨hphase, hstart.trans (State.is_putB _ _ _ (by decide) (by decide)), rfl, rfl, hcode, himage, hfetch, rfl, rfl, _, rfl, ?_, ?_, rfl, rfl⟩
  · exact List.cons_ne_nil _ _
  · exact List.length_take_le _ _

theorem bootStart_barred : answers (.bootStart p w false mr) s fun t =>
    t.phase = phHeld ∧ t.is Fld.bootCtlStart = false ∧ t.get Fld.bootMismatchCode = heldCrc ∧ t.get Fld.bootMismatchImage = 1 ∧
    t.is Fld.bootMismatchFetch = true ∧ t.boot.fetch = none ∧ t.out = s.out := by
  set u := s.startTaken w false mr with hu
  obtain ⟨k, rest, hf⟩ := loadBegins_fetch (s := u) (by rw [startTaken_regs s w false mr _ (by decide)]; exact hlen)
  have hstep := (startLoad_of_host (s := u) hsrc).trans (fetchStep_barred hf rfl)
  have hheld := hold_of_load (u.loadBegins.modBoot (fun b => { b with fetch := some ⟨[], [], some .svc⟩ })) heldCrc 1 true (by decide) (by decide)
  exact answers_of (exec_bootStart_loads h hpcie hsrc hp hs hw false hstep (.inr hheld.2.2.1)) hheld

end Loads

end Sys2Proof.Machine
end

section
/-! Formation of an epoch (Table 16.4): what adopting an epoch and telling of it leave, and what is under way after step 1. -/

namespace Sys2Proof.Machine

/-! ### Sending, beside the four links' own data -/

/-- The state `t` is `s` but for the data of each of the four links, LNKn_STAT and what has gone out: what the device knows of its Lace stands. -/
structure TrafficOnly (s t : State) : Prop where
  rest : { t with regs := s.regs, lnk := { t.lnk with links := s.lnk.links }, out := s.out } = s
  regs : regsOnly lnkStatRegs s t

namespace TrafficOnly

variable {a s : State}

theorem refl (s : State) : TrafficOnly s s := ⟨rfl, regsOnly_refl _ s⟩
theorem trans {t : State} (h : TrafficOnly a s) (k : TrafficOnly s t) : TrafficOnly a t := by
  refine ⟨?_, regsOnly_trans h.regs k.regs⟩
  have e := h.rest
  rw [← k.rest] at e
  exact e
theorem ite {t : State} (c : Prop) [Decidable c] (h : TrafficOnly a s) (k : TrafficOnly a t) : TrafficOnly a (if c then s else t) := by
  split
  · exact h
  · exact k
theorem cond (h : TrafficOnly a s) (b : Bool) (f : State → State) (hf : TrafficOnly a (f s)) : TrafficOnly a (s.cond b f) := by
  unfold State.cond; split
  · exact hf
  · exact h
theorem forEach {α : Type} (h : TrafficOnly a s) (l : List α) (f : State → α → State) (hf : ∀ t x, TrafficOnly t (f t x)) : TrafficOnly a (s.forEach l f) :=
  forEach_induct (P := TrafficOnly a) (fun t x k => k.trans (hf t x)) l h
theorem emit (h : TrafficOnly a s) (o : Out) : TrafficOnly a (s.emit o) := h.trans ⟨rfl, fun _ _ => rfl⟩
theorem modLink (h : TrafficOnly a s) (k : Fin 4) (f : LinkSt → LinkSt) : TrafficOnly a (s.modLink k f) := h.trans ⟨rfl, fun _ _ => rfl⟩
theorem put (h : TrafficOnly a s) (f : FieldRef) (v : Nat) (hf : f.off ∈ lnkStatRegs) : TrafficOnly a (s.put f v) := h.trans ⟨rfl, regsOnly_put s f v hf⟩

theorem mem_lnkStat (k : Fin 4) : Reg.lnkStat k.val ∈ lnkStatRegs := by revert k; decide

theorem placeFree (h : TrafficOnly a s) (w : Waiting) : TrafficOnly a (s.placeFree w) := .ite _ h (h.modLink _ _)
theorem offer (h : TrafficOnly a s) (k : Fin 4) (w : Waiting) : TrafficOnly a (s.offer k w) :=
  .ite _ (h.modLink _ _) (h.put _ _ (mem_lnkStat k))
theorem pumpN (n : Nat) (k : Fin 4) (h : TrafficOnly a s) : TrafficOnly a (Machine.pumpN n s k) := by
  induction n generalizing s with
  | zero => exact h
  | succ n ih =>
    rw [Machine.pumpN]
    dsimp only
    split
    · exact h
    · exact ih (((h.modLink _ _).emit _).placeFree _)
theorem txFlit (h : TrafficOnly a s) (k : Fin 4) (f : Flit) : TrafficOnly a (s.txFlit k f) := (h.offer k _).pumpN _ k
theorem injectFlit (h : TrafficOnly a s) (f : Flit) : TrafficOnly a (s.injectFlit f) := by
  unfold State.injectFlit
  split
  · exact h.forEach _ _ fun t _ => (refl t).txFlit _ _
  · split
    · exact h
    · exact h.txFlit _ _
theorem sendMsg (h : TrafficOnly a s) (m : Msg) : TrafficOnly a (s.sendMsg m) :=
  .ite _ ((h.emit _).forEach _ _ fun t k => (refl t).forEach _ _ fun u f => (refl u).txFlit k f)
    ((h.emit _).forEach _ _ fun t f => (refl t).injectFlit f)
theorem bootMsg (h : TrafficOnly a s) (dst code tag : Nat) (ws : List Word) : TrafficOnly a (s.bootMsg dst code tag ws) := h.sendMsg _

theorem miswire (h : TrafficOnly a s) (fs : List LinkFault) : TrafficOnly a (s.miswire fs) :=
  h.forEach fs _ fun t x => (refl t).cond _ _ ((refl t).put _ _ (mem_lnkStat (Fin.ofNat 4 x.link)))

theorem lnk_eq (h : TrafficOnly a s) : { s.lnk with links := a.lnk.links } = a.lnk := congrArg (·.lnk) h.rest
theorem forming_eq (h : TrafficOnly a s) : s.lnk.forming = a.lnk.forming := congrArg (·.lnk.forming) h.rest
theorem clk_eq (h : TrafficOnly a s) : s.clk = a.clk := congrArg (·.clk) h.rest
theorem get_eq (h : TrafficOnly a s) (g : FieldRef) (hg : g.off ∉ lnkStatRegs) : s.get g = a.get g := get_of_regsOnly h.regs g hg

end TrafficOnly

theorem mem_out_bootMsg (s : State) (dst code tag : Nat) (ws : List Word) :
    Out.msg { dst := dst, src := s.me, kind := 6, code := code, tag := tag, words := ws } ∈ (s.bootMsg dst code tag ws).out := mem_out_sendMsg s _

/-! ### Adopting an epoch (R670, R671, R673, R674) -/

/-- The new epoch as LACE_EPOCH and the links' data hold it, before each link is told whether it carries the epoch's traffic. -/
def State.epochTaken (s : State) (epoch : Nat) (shape : Word) (mask : Nat) (faults : List LinkFault) : State :=
  ((((((s.put Fld.laceEpochEpoch epoch).putB Fld.laceEpochForming true).miswire faults).modLnk (fun l =>
    { l with shape := shape, routes := mask, breaks := faultBreaks (shapeOf shape) faults, partials := [], loneLace := false
             requests := l.requests.map (fun r => { r with afterBreak := true }) })).putB Fld.exchStatDef0 false).putB Fld.exchStatDef1 false)

theorem adopt_of_epochTaken (s : State) (epoch : Nat) (shape : Word) (mask : Nat) (faults : List LinkFault) :
    TrafficOnly (s.epochTaken epoch shape mask faults) (s.adopt epoch shape mask faults) :=
  (TrafficOnly.refl _).forEach allLinks _ fun t k => ((TrafficOnly.refl t).put _ _ (TrafficOnly.mem_lnkStat k)).modLink k _

/-- What a device reads of the epoch that it has adopted. -/
theorem adopt_reads (s : State) (epoch : Nat) (shape : Word) (mask : Nat) (faults : List LinkFault) :
    let t := s.adopt epoch shape mask faults
    t.epoch = epoch % 65536 ∧ t.is Fld.laceEpochForming = true ∧ t.is Fld.exchStatDef0 = false ∧ t.is Fld.exchStatDef1 = false ∧
      t.lnk.shape = shape ∧ t.lnk.routes = mask ∧ t.lnk.headId = s.lnk.headId := by
  have h := adopt_of_epochTaken s epoch shape mask faults
  have hm := (TrafficOnly.refl ((s.put Fld.laceEpochEpoch epoch).putB Fld.laceEpochForming true)).miswire faults
  have hlnk := h.lnk_eq
  have hepoch : (s.epochTaken epoch shape mask faults).get Fld.laceEpochEpoch = epoch % 65536 :=
    (State.get_put_ne _ _ _ _ (by decide)).trans <| (State.get_put_ne _ _ _ _ (by decide)).trans <| (hm.get_eq _ (by decide)).trans <|
      (State.get_put_ne _ _ _ _ (by decide)).trans (State.get_put_self _ _ _ (by decide))
  have hforming : (s.epochTaken epoch shape mask faults).get Fld.laceEpochForming = 1 :=
    (State.get_put_ne _ _ _ _ (by decide)).trans <| (State.get_put_ne _ _ _ _ (by decide)).trans <| (hm.get_eq _ (by decide)).trans
      (State.get_put_self _ _ _ (by decide))
  have hd0 : (s.epochTaken epoch shape mask faults).get Fld.exchStatDef0 = 0 :=
    (State.get_put_ne _ _ _ _ (by decide)).trans (State.get_put_self _ _ _ (by decide))
  have hd1 : (s.epochTaken epoch shape mask faults).get Fld.exchStatDef1 = 0 := State.get_put_self _ _ _ (by decide)
  refine ⟨(h.get_eq _ (by decide)).trans hepoch, ?_, ?_, ?_, congrArg (·.shape) hlnk, congrArg (·.routes) hlnk,
    (congrArg (·.headId) hlnk).trans (congrArg (·.headId) hm.lnk_eq)⟩
  · rw [State.is, h.get_eq _ (by decide), hforming]; rfl
  · rw [State.is, h.get_eq _ (by decide), hd0]; rfl
  · rw [State.is, h.get_eq _ (by decide), hd1]; rfl

/-! ### What a formation's first steps leave -/

/-- Registers that a formation's first steps may write: LACE_EPOCH, EXCH_STAT, and what posting its records writes. -/
def formRegs : List Nat := [Reg.laceEpoch, Reg.exchStat] ++ recordRegs

/-- The state `t` is `s` but for the ring engine, the links, the head's SYNC, these registers and what has gone out. -/
structure FormsOnly (s t : State) : Prop where
  rest : { t with regs := s.regs, hif := s.hif, lnk := s.lnk, clk := s.clk, out := s.out } = s
  regs : regsOnly formRegs s t

theorem RecordsOnly.formsOnly {s t : State} (h : RecordsOnly s t) : FormsOnly s t :=
  ⟨congrArg (fun u : State => { u with clk := s.clk }) h.rest, regsOnly_mono h.regs (List.subset_append_right _ _)⟩

theorem TrafficOnly.recordsOnly {s t : State} (h : TrafficOnly s t) : RecordsOnly s t :=
  ⟨congrArg (fun u : State => { u with hif := s.hif, lnk := s.lnk }) h.rest, regsOnly_mono h.regs (List.subset_append_right _ _)⟩

theorem TrafficOnly.formsOnly {s t : State} (h : TrafficOnly s t) : FormsOnly s t := h.recordsOnly.formsOnly

namespace FormsOnly

variable {a s : State}

theorem refl (s : State) : FormsOnly s s := ⟨rfl, regsOnly_refl _ s⟩
theorem trans {t : State} (h : FormsOnly a s) (k : FormsOnly s t) : FormsOnly a t := by
  refine ⟨?_, regsOnly_trans h.regs k.regs⟩
  have e := h.rest
  rw [← k.rest] at e
  exact e
theorem ite {t : State} (c : Prop) [Decidable c] (h : FormsOnly a s) (k : FormsOnly a t) : FormsOnly a (if c then s else t) := by
  split
  · exact h
  · exact k
theorem cond (h : FormsOnly a s) (b : Bool) (f : State → State) (hf : FormsOnly a (f s)) : FormsOnly a (s.cond b f) := by
  unfold State.cond; split
  · exact hf
  · exact h
theorem put (h : FormsOnly a s) (f : FieldRef) (v : Nat) (hf : f.off ∈ formRegs) : FormsOnly a (s.put f v) := h.trans ⟨rfl, regsOnly_put s f v hf⟩
theorem modLnk (h : FormsOnly a s) (f : Lnk → Lnk) : FormsOnly a (s.modLnk f) := h.trans ⟨rfl, fun _ _ => rfl⟩
theorem modClk (h : FormsOnly a s) (f : Clk → Clk) : FormsOnly a (s.modClk f) := h.trans ⟨rfl, fun _ _ => rfl⟩
theorem bootMsg (h : FormsOnly a s) (dst code tag : Nat) (ws : List Word) : FormsOnly a (s.bootMsg dst code tag ws) :=
  h.trans ((TrafficOnly.refl s).bootMsg ..).formsOnly
theorem postRec (h : FormsOnly a s) (r : Rec) : FormsOnly a (s.postRec r) := h.trans ((RecordsOnly.refl s).postRec r).formsOnly

theorem epochTaken (h : FormsOnly a s) (epoch : Nat) (shape : Word) (mask : Nat) (fs : List LinkFault) : FormsOnly a (s.epochTaken epoch shape mask fs) := by
  have hnumber := (h.put Fld.laceEpochEpoch epoch (by decide)).put Fld.laceEpochForming 1 (by decide)
  exact ((((hnumber.trans ((TrafficOnly.refl _).miswire fs).formsOnly).modLnk _).put Fld.exchStatDef0 0 (by decide)).put Fld.exchStatDef1 0 (by decide))

theorem adopt (h : FormsOnly a s) (epoch : Nat) (shape : Word) (mask : Nat) (fs : List LinkFault) : FormsOnly a (s.adopt epoch shape mask fs) :=
  (h.epochTaken epoch shape mask fs).trans (adopt_of_epochTaken s epoch shape mask fs).formsOnly

theorem sendArm (h : FormsOnly a s) (fire : Bool) : FormsOnly a (s.sendArm fire) := by
  unfold State.sendArm
  exact (h.modClk _).cond _ _ ((h.modClk _).bootMsg ..)

theorem formSync (h : FormsOnly a s) : FormsOnly a s.formSync := (h.modLnk _).sendArm false

theorem formStep1 (h : FormsOnly a s) (f : Forming) (cands : List Nat) : FormsOnly a (s.formStep1 f cands) := by
  have hadopted := fun e sh mask fs g => (((h.adopt e sh mask fs).modLnk (fun l => { l with forming := g })).modClk (fun c => { c with headSync := none }))
  exact .ite _ (hadopted ..).formSync ((hadopted ..).bootMsg ..)

theorem formStart (h : FormsOnly a s) (d : Option Desc) (mask : Nat) (fs : List LinkFault) : FormsOnly a (s.formStart d mask fs) :=
  (forEach_induct (P := FormsOnly a) (fun _ _ ht => ht.postRec _) _ h).formStep1 _ _

theorem epochOne (h : FormsOnly a s) (fs : List LinkFault) : FormsOnly a (s.epochOne fs) := by
  unfold State.epochOne
  exact h.cond _ _ (h.formStart ..)

theorem me_eq (h : FormsOnly a s) : s.me = a.me := (congrArg State.me h.rest :)
theorem members_eq (h : FormsOnly a s) : s.members = a.members := by
  simp only [State.members, h.regs Reg.laceMembersLo (by decide), h.regs Reg.laceMembersHi (by decide)]

end FormsOnly

end Sys2Proof.Machine
end

section
/-! What is under way after the first steps of a formation. -/

namespace Sys2Proof.Machine

/-! ### The candidates that R657 leaves (R673) -/

theorem mem_of_mem_trimCands {n : Nat} {h : Shape} {me : Nat} {brk : List (Nat × Nat)} {ms : List Nat} {m : Nat} (hm : m ∈ trimCands n h me brk ms) :
    m ∈ ms := by
  induction n generalizing ms with
  | zero => exact hm
  | succ n ih =>
    rw [trimCands] at hm
    split at hm
    · exact hm
    · split at hm
      · exact hm
      · exact List.mem_of_mem_filter (ih hm)

/-- The head itself never goes. -/
theorem self_mem_trimCands (n : Nat) (h : Shape) (me : Nat) (brk : List (Nat × Nat)) {ms : List Nat} (hme : me ∈ ms) : me ∈ trimCands n h me brk ms := by
  induction n generalizing ms with
  | zero => exact hme
  | succ n ih =>
    rw [trimCands]
    split
    · exact hme
    · split
      · exact hme
      · next m hlast =>
        have hne : m ≠ me := by simpa using (List.mem_filter.mp (List.mem_of_getLast? hlast)).2
        exact ih (List.mem_filter.mpr ⟨hme, by simpa using hne.symm⟩)

theorem self_mem_formCands {s : State} (h : s.me < 64) (mask : Nat) : s.me ∈ s.formCands mask :=
  List.mem_filter.mpr ⟨List.mem_range.mpr h, by simp⟩

theorem of_mem_formCands {s : State} {mask m : Nat} (h : m ∈ s.formCands mask) : m = s.me ∨ (m ∈ s.boot.accepted ∧ m ∉ s.boot.excluded) := by
  have hc := (List.mem_filter.mp h).2
  simp only [Bool.or_eq_true, Bool.and_eq_true, beq_iff_eq, List.contains_iff_mem, Bool.not_eq_true', decide_eq_true_eq] at hc
  exact hc.imp_right fun ⟨⟨⟨ha, he⟩, _⟩, _⟩ => ⟨ha, fun hm => by simp [hm] at he⟩

/-! ### Step 3: the head's SYNC (R335) -/

theorem sendArm_traffic (s : State) (fire : Bool) :
    TrafficOnly (s.modClk (fun c => { c with headSync := some ⟨fire, ⟨s.armTile, s.armFrame⟩, false, s.syncMembers⟩ })) (s.sendArm fire) := by
  unfold State.sendArm
  exact (TrafficOnly.refl _).cond _ _ ((TrafficOnly.refl _).bootMsg ..)

theorem sendArm_headSync (s : State) (fire : Bool) : (s.sendArm fire).clk.headSync = some ⟨fire, ⟨s.armTile, s.armFrame⟩, false, s.syncMembers⟩ :=
  congrArg (·.headSync) (sendArm_traffic s fire).clk_eq

theorem syncMembers_of_forming {s : State} {f : Forming} (h : s.lnk.forming = some f) : s.syncMembers = f.cands.filter (· != s.me) := by
  rw [State.syncMembers, h]

/-- Step 3 waits for the SYNC of every candidate but the head. -/
theorem formSync_waits {s : State} {f : Forming} (h : s.lnk.forming = some f) :
    s.formSync.lnk.forming = some { f with step := 3, awaiting := [] } ∧ s.formSync.epoch = s.epoch ∧
      s.formSync.is Fld.laceEpochForming = s.is Fld.laceEpochForming ∧
      ∃ k, s.formSync.clk.headSync = some k ∧ k.fire = false ∧ k.pulsed = false ∧ k.dones = f.cands.filter (· != s.me) := by
  set u := s.modLnk (fun l => { l with forming := l.forming.map (fun f => { f with step := 3, awaiting := [] }) }) with hu
  have hform : u.lnk.forming = some { f with step := 3, awaiting := [] } := congrArg (Option.map _) h
  have ht := sendArm_traffic u false
  refine ⟨ht.forming_eq.trans hform, ht.get_eq Fld.laceEpochEpoch (by decide), congrArg (· != 0) (ht.get_eq Fld.laceEpochForming (by decide)),
    _, sendArm_headSync u false, rfl, rfl, ?_⟩
  rw [syncMembers_of_forming hform]; rfl

/-! ### Step 1 (R673, R674) -/

theorem nextEpoch_lt {e : Nat} (h : e < 65536) : nextEpoch e % 65536 = nextEpoch e := by
  refine Nat.mod_eq_of_lt ?_
  unfold nextEpoch
  split
  · decide
  · next hne => have : e ≠ 0xFFFF := by simpa using hne
                omega

theorem epoch_lt (s : State) : s.epoch < 65536 := getF_lt _ 0 16

/-- The candidates that step 1 keeps of a set. -/
def State.keptCands (s : State) (f : Forming) (cands : List Nat) : List Nat :=
  trimCands 64 (shapeOf (s.rd Reg.laceShape)) s.me (f.faults.map (fun x => (x.member, x.link))) cands

/-- Steps 1 and 2 on a device that has adopted the epoch: the candidates are asked, or with none to ask the SYNC follows. -/
def State.asks (s : State) (f : Forming) (ws : List Word) : State :=
  let s := (s.modLnk (fun l => { l with forming := some f })).modClk (fun c => { c with headSync := none })
  if f.awaiting.isEmpty then s.formSync else s.bootMsg 63 msgEpochSet 0 ws

theorem asks_waits (s : State) (f : Forming) (ws : List Word) (hstep : f.step = 1) :
    (s.asks f ws).epoch = s.epoch ∧ (s.asks f ws).is Fld.laceEpochForming = s.is Fld.laceEpochForming ∧
      ∃ g, (s.asks f ws).lnk.forming = some g ∧ g.cands = f.cands ∧ g.desc = f.desc ∧ g.faults = f.faults ∧ (g.step = 1 ∨ g.step = 3) ∧
        (g.step = 3 → g.awaiting = [] ∧ (s.asks f ws).clk.headSync.isSome = true) := by
  unfold State.asks
  set u := (s.modLnk (fun l => { l with forming := some f })).modClk (fun c => { c with headSync := none }) with hu
  dsimp only
  split
  · obtain ⟨hform, he, hfl, k, hk, -⟩ := formSync_waits (s := u) (f := f) rfl
    exact ⟨he, hfl, _, hform, rfl, rfl, rfl, .inr rfl, fun _ => ⟨rfl, by rw [hk]; rfl⟩⟩
  · have ht := (TrafficOnly.refl u).bootMsg 63 msgEpochSet 0 ws
    exact ⟨ht.get_eq Fld.laceEpochEpoch (by decide), congrArg (· != 0) (ht.get_eq Fld.laceEpochForming (by decide)), f, ht.forming_eq, rfl, rfl, rfl,
      .inl hstep, fun h => absurd (hstep.symm.trans h) (by decide)⟩

/-- After step 1 the next epoch is forming with the candidates that were kept. -/
theorem formStep1_forms (s : State) (f : Forming) (cands : List Nat) :
    (s.formStep1 f cands).epoch = nextEpoch s.epoch ∧ (s.formStep1 f cands).is Fld.laceEpochForming = true ∧
      ∃ g, (s.formStep1 f cands).lnk.forming = some g ∧ g.cands = s.keptCands f cands ∧ g.desc = f.desc ∧ g.faults = f.faults ∧
        (g.step = 1 ∨ g.step = 3) ∧ (g.step = 3 → g.awaiting = [] ∧ (s.formStep1 f cands).clk.headSync.isSome = true) := by
  obtain ⟨he, hflag, -⟩ := adopt_reads s (nextEpoch s.epoch) (s.rd Reg.laceShape) (maskOfList (s.keptCands f cands)) f.faults
  obtain ⟨he', hflag', hforming⟩ := asks_waits (s.adopt (nextEpoch s.epoch) (s.rd Reg.laceShape) (maskOfList (s.keptCands f cands)) f.faults)
    { f with step := 1, cands := s.keptCands f cands, awaiting := (s.keptCands f cands).filter (· != s.me)
             removed := f.removed ++ f.cands.filter (fun m => !(s.keptCands f cands).contains m) }
    ([BitVec.ofNat 32 (nextEpoch s.epoch), s.rd Reg.laceShape, BitVec.ofNat 32 (maskOfList (s.keptCands f cands)),
      BitVec.ofNat 32 (maskOfList (s.keptCands f cands) / 2 ^ 32)] ++ faultWords f.faults) rfl
  exact ⟨he'.trans (he.trans (nextEpoch_lt (epoch_lt s))), hflag'.trans hflag, hforming⟩

/-! ### A formation that starts -/

/-- The records of wrongly wired links are told before step 1. -/
def State.miswiresTold (s : State) (faults : List LinkFault) : State :=
  s.forEach (faults.filter (·.miswired)) (fun s x =>
    s.postRec { s.mkRec 0x0F [packW [(8, 8, evMiswired), (0, 2, x.link)], 0, packW [(0, 16, s.epoch)]] with member := x.member })

theorem miswiresTold_recordsOnly (s : State) (faults : List LinkFault) : RecordsOnly s (s.miswiresTold faults) :=
  forEach_induct (P := RecordsOnly s) (fun _ _ ht => ht.postRec _) _ (RecordsOnly.refl s)

/-- A formation starts under the next number with the head, and with members that were accepted and are not excluded. -/
theorem formStart_forms (s : State) (d : Option Desc) (mask : Nat) (faults : List LinkFault) (hme : s.me < 64) :
    (s.formStart d mask faults).epoch = nextEpoch s.epoch ∧ (s.formStart d mask faults).is Fld.laceEpochForming = true ∧
      ∃ g, (s.formStart d mask faults).lnk.forming = some g ∧ s.me ∈ g.cands ∧
        (∀ m ∈ g.cands, m = s.me ∨ (m ∈ s.boot.accepted ∧ m ∉ s.boot.excluded)) ∧ g.desc = d ∧ g.faults = faults ∧
        (g.step = 1 ∨ g.step = 3) ∧ (g.step = 3 → g.awaiting = [] ∧ (s.formStart d mask faults).clk.headSync.isSome = true) := by
  have hrec := miswiresTold_recordsOnly s faults
  have hepoch : (s.miswiresTold faults).epoch = s.epoch := get_of_regsOnly hrec.regs Fld.laceEpochEpoch (by decide)
  have hself : (s.miswiresTold faults).me = s.me := congrArg (·.me) hrec.rest
  obtain ⟨he, hflag, g, hg, hcands, hdesc, hfaults, hstep, hsync⟩ := formStep1_forms (s.miswiresTold faults)
    ⟨0, s.formCands mask, [], (s.miswiresTold faults).memberList, d, [], faults⟩ (s.formCands mask)
  refine ⟨he.trans (congrArg nextEpoch hepoch), hflag, g, hg, ?_, fun m hm => ?_, hdesc, hfaults, hstep, hsync⟩
  · rw [hcands, State.keptCands, hself]
    exact self_mem_trimCands _ _ _ _ (self_mem_formCands hme mask)
  · rw [hcands] at hm
    exact of_mem_formCands (mem_of_mem_trimCands hm)

end Sys2Proof.Machine
end

section
/-! BOOT_FORCE_UNTESTED: a held pair that starts (R88), and the write that only lands. -/

namespace Sys2Proof.Machine

theorem get_wr_ne (s : State) (o : Nat) (w : Word) (g : FieldRef) (h : g.off ≠ o) : (s.wr o w).get g = s.get g :=
  congrArg (getF · g.lo g.width) (s.rd_wr_ne o g.off w h)

/-- A pair that starts: PHASE, PUSHED, BOOT_IFG and BOOT_DONE tell of it. -/
def State.pairTold (s : State) (pushed : Bool) : State :=
  let s := ((s.loadEnds).setPhase phRun).putB Fld.bootStatPushed pushed
  (s.wr Reg.bootIfg (packW [(24, 8, s.hdr .svc 3 16 8), (16, 8, s.hdr .svc 3 8 8), (8, 8, s.hdr .seq 3 0 8), (0, 8, s.hdr .svc 3 0 8)])).flag
    Fld.spiStatBootDone

/-- A pair that starts: all but the formation of epoch 1. -/
def State.pairRuns (s : State) (pushed untested : Bool) : State :=
  let s := (s.pairTold pushed).cond untested (·.flag Fld.topStatusUntested)
  let s := s.cond s.head (·.wr Reg.svcRosterBase Config.rosterBase)
  s.modBoot (fun b => { b with helloDue := !s.head && !b.refused })

theorem startPair_eq (s : State) (pushed untested : Bool) : s.startPair pushed untested = (s.pairRuns pushed untested).epochOne [] := rfl

theorem pairTold_reads (s : State) (pushed : Bool) : (s.pairTold pushed).phase = phRun ∧ (s.pairTold pushed).is Fld.spiStatBootDone = true ∧
    (s.pairTold pushed).is Fld.bootCtlForceUntested = s.is Fld.bootCtlForceUntested := by
  set u := ((s.loadEnds).setPhase phRun).putB Fld.bootStatPushed pushed with hu
  refine ⟨?_, State.is_flag _ _ (by decide) (by decide), ?_⟩
  · refine (State.get_put_ne _ _ _ _ (by decide)).trans ((get_wr_ne u _ _ _ (by decide)).trans ?_)
    exact (State.get_put_ne _ _ _ _ (by decide)).trans (State.get_put_self _ _ _ (by decide))
  · refine congrArg (· != 0) ((State.get_put_ne _ _ _ _ (by decide)).trans ((get_wr_ne u _ _ _ (by decide)).trans ?_))
    exact (State.get_put_ne _ _ _ _ (by decide)).trans ((State.get_put_ne _ _ _ _ (by decide)).trans (State.get_put_ne _ _ _ _ (by decide)))

/-- Beside that, UNTESTED may be set, the roster's place be told at the head, and a member owe a HELLO. -/
theorem pairRuns_told (s : State) (pushed untested : Bool) :
    regsOnly [Reg.topStatus, Reg.svcRosterBase] (s.pairTold pushed) (s.pairRuns pushed untested) ∧
      (s.pairRuns pushed untested).boot.svcImg = s.boot.svcImg := by
  set u := (s.pairTold pushed).cond untested (·.flag Fld.topStatusUntested) with hu
  have hflag : regsOnly [Reg.topStatus, Reg.svcRosterBase] (s.pairTold pushed) u ∧ u.boot.svcImg = s.boot.svcImg := by
    rw [hu, State.cond]
    split
    · exact ⟨regsOnly_put (s.pairTold pushed) Fld.topStatusUntested _ (by simp), rfl⟩
    · exact ⟨regsOnly_refl _ _, rfl⟩
  have hbase : regsOnly [Reg.topStatus, Reg.svcRosterBase] u (s.pairRuns pushed untested) ∧ (s.pairRuns pushed untested).boot.svcImg = u.boot.svcImg := by
    rw [State.pairRuns, State.cond]
    split
    · exact ⟨regsOnly_wr u _ _ (by simp), rfl⟩
    · exact ⟨regsOnly_refl _ u, rfl⟩
  exact ⟨regsOnly_trans hflag.1 hbase.1, hbase.2.trans hflag.2⟩

/-- An untested pair that runs says so (R88, R144, R732). -/
theorem pairRuns_reads (s : State) (pushed : Bool) :
    let t := s.pairRuns pushed true
    t.phase = phRun ∧ t.is Fld.topStatusUntested = true ∧ t.is Fld.bootCtlForceUntested = s.is Fld.bootCtlForceUntested ∧
      t.is Fld.spiStatBootDone = true ∧ (s.head = true → t.rd Reg.svcRosterBase = Config.rosterBase) := by
  obtain ⟨hphase, hdone, hforce⟩ := pairTold_reads s pushed
  have hregs := (pairRuns_told s pushed true).1
  set u := (s.pairTold pushed).flag Fld.topStatusUntested with hu
  have hu' : (s.pairRuns pushed true).regs = (u.cond u.head (·.wr Reg.svcRosterBase Config.rosterBase)).regs := rfl
  refine ⟨(get_of_regsOnly hregs Fld.bootStatPhase (by decide)).trans hphase, ?_,
    (congrArg (· != 0) (get_of_regsOnly hregs Fld.bootCtlForceUntested (by decide))).trans hforce,
    (congrArg (· != 0) (get_of_regsOnly hregs Fld.spiStatBootDone (by decide))).trans hdone, fun hh => ?_⟩
  · refine (congrArg (· != 0) ?_).trans (State.is_flag (s.pairTold pushed) Fld.topStatusUntested (by decide) (by decide))
    rw [State.get, State.rd, hu', State.cond]
    split
    · exact get_wr_ne u _ _ _ (by decide)
    · rfl
  · rw [State.rd, hu', State.cond, if_pos (show u.head = true from hh)]
    exact u.rd_wr_self _ _

/-- FORCE_UNTESTED starts the pair that HELD_STEP or HELD_IFG held (R88). -/
theorem bootCtl_forces {s : State} (hp : s.phase = phHeld) (hf : s.is Fld.bootCtlForceUntested = true)
    (hc : s.get Fld.bootMismatchCode = heldStep ∨ s.get Fld.bootMismatchCode = heldIfg) :
    s.bootCtl false = (s.pairRuns (s.source == 2) true).epochOne [] := by
  have hcode : (s.get Fld.bootMismatchCode == heldStep || s.get Fld.bootMismatchCode == heldIfg) = true := by rcases hc with h | h <;> simp [h]
  simp [State.bootCtl, State.cond, hp, hf, hcode, startPair_eq]

theorem bootForceUntested_starts (s : State) (p : Port) (w : Word) (h : served s p Reg.bootCtl) (hp : s.phase = phHeld) (hf : getF w 1 1 = 1)
    (hw : getF w 0 1 = 0) (hc : s.get Fld.bootMismatchCode = heldStep ∨ s.get Fld.bootMismatchCode = heldIfg) :
    answers (.bootForceUntested p w) s fun t =>
      t.phase = phRun ∧ t.is Fld.topStatusUntested = true ∧ t.is Fld.bootCtlForceUntested = true ∧ t.is Fld.spiStatBootDone = true ∧
      (s.head = true → t.rd Reg.svcRosterBase = Config.rosterBase) := by
  set u := s.put Fld.bootCtlForceUntested (getF w 1 1) with hu
  have hforce : u.is Fld.bootCtlForceUntested = true := (is_forceUntested s w).trans (by rw [hf]; rfl)
  have he := exec_bootForceUntested h w
  rw [hw, show ((0 : Nat) == 1) = false from rfl, bootCtl_forces ((State.get_put_ne _ _ _ _ (by decide)).trans hp) hforce
    (by rw [State.get_put_ne _ _ _ _ (by decide)]; exact hc)] at he
  obtain ⟨hphase, huntested, hstands, hdone, hroster⟩ := pairRuns_reads u (u.source == 2)
  have hforms := ((FormsOnly.refl (u.pairRuns (u.source == 2) true)).epochOne []).regs
  refine answers_of he ⟨(get_of_regsOnly hforms Fld.bootStatPhase (by decide)).trans hphase, ?_, ?_, ?_, fun hh => (hforms _ (by decide)).trans (hroster hh)⟩
  · exact (congrArg (· != 0) (get_of_regsOnly hforms Fld.topStatusUntested (by decide))).trans huntested
  · exact (congrArg (· != 0) (get_of_regsOnly hforms Fld.bootCtlForceUntested (by decide))).trans (hstands.trans hforce)
  · exact (congrArg (· != 0) (get_of_regsOnly hforms Fld.spiStatBootDone (by decide))).trans hdone

theorem bootForceUntested_lands (s : State) (p : Port) (w : Word) (h : served s p Reg.bootCtl) (hp : s.phase ≠ phHeld) (hw : getF w 0 1 = 0) :
    answers (.bootForceUntested p w) s fun t =>
      t.is Fld.bootCtlForceUntested = (getF w 1 1 == 1) ∧ onlyFields [Fld.bootCtlForceUntested] s t := by
  have he := exec_bootForceUntested h w
  rw [hw, show ((0 : Nat) == 1) = false from rfl, bootCtl_not_started (fun e => hp ((State.get_put_ne _ _ _ _ (by decide)).symm.trans e))] at he
  exact answers_of he ⟨is_forceUntested s w, onlyFields_put s _ _ (by simp)⟩

/-- Settles O10: START in each phase of the boot ROM, and FORCE_UNTESTED in HELD and outside it. -/
theorem loadsStartAsTheHostAsks : Obligations.LoadsStartAsTheHostAsks := by
  unfold Obligations.LoadsStartAsTheHostAsks
  exact ⟨bootStart_inRom, fun _ _ _ _ h hpcie hsrc hp hs hw hlen => bootStart_fetches h hpcie hsrc hp hs hw hlen,
    fun _ _ _ _ h hpcie hsrc hp hs hw hlen => bootStart_barred h hpcie hsrc hp hs hw hlen, bootForceUntested_starts, bootForceUntested_lands⟩

end Sys2Proof.Machine
end

section
/-! Epochs and Lace rest: LACE_FORM, the candidates' answers, and the events of rest (R670 to R675, R777, R778). -/

namespace Sys2Proof.Machine

/-! ### What a completion leaves at the head -/

theorem signalRing_lnk (s : State) (n : Fin 24) : (s.signalRing n).lnk = s.lnk := by
  unfold State.signalRing
  split
  · split
    · exact (apply_ite State.lnk _ _ _).trans (ite_self _)
    · rfl
  · rfl

theorem ringEvent_lnk (s : State) (n : Fin 24) : (s.ringEvent n).lnk = s.lnk := by
  unfold State.ringEvent
  dsimp only
  split
  · exact signalRing_lnk _ n
  · rfl

theorem takeEntry_lnk (s : State) (n : Fin 24) : (s.takeEntry n).2.2.lnk = s.lnk := by
  unfold State.takeEntry
  dsimp only
  split
  · rfl
  · rfl

theorem post_lnk (s : State) (w : HostWrite) : (s.post w).lnk = s.lnk := by
  unfold State.post
  split
  · cases w <;> rfl
  · rfl

theorem writeCpl_lnk (s : State) (ring : Fin 8) (c : CplWait) : (s.writeCpl ring c).lnk = s.lnk := by
  unfold State.writeCpl
  dsimp only
  split
  · rfl
  · split
    · rfl
    · exact (ringEvent_lnk _ _).trans ((post_lnk _ _).trans (takeEntry_lnk _ _))

/-- At the head a completion sends nothing over the links. -/
theorem complete_lnk {s : State} (hh : s.head = true) (d : Desc) (r : Result) : (s.complete d r).lnk = s.lnk := by
  unfold State.complete
  dsimp only
  rw [if_pos (show (s.dropRegion d).head = true from hh)]
  split
  · rfl
  · split
    · rfl
    · split
      · rfl
      · exact writeCpl_lnk _ _ _

/-! ### LACE_FORM (R672, R673) -/

section LaceForm

variable {s : State} {d : Desc} (hruns : s.runs = true) (hh : s.head = true) (ht : s.takes 0x48 d = true) (hfree : s.free? .lnk = true)

/-- At the head a descriptor that reaches its block is noted so in the ring engine alone. -/
theorem atBlock_of_head (hh : s.head = true) (d : Desc) : { s.atBlock d with hif := s.hif } = s := by
  unfold State.atBlock; rw [if_pos hh]; rfl

/-- What a descriptor's mark changes is not its opcode. -/
theorem started?_atBlock (hh : s.head = true) (d : Desc) (ops : List Nat) : (s.atBlock d).started? ops = s.started? ops := by
  have hd : ∀ t : StartedDesc, (if t.d.same d then { t with sent := true } else t).d = t.d := fun t => (apply_ite StartedDesc.d _ _ _).trans (ite_self _)
  rw [State.atBlock, if_pos hh]
  simp only [State.started?, State.modStarted, State.modHif, List.any_map, Function.comp_def, hd]

include hruns hh ht hfree

theorem laceForm_busy (hrun : s.exch.run0.isSome = true) (fs : List LinkFault) : answers (.laceForm d fs) s fun t =>
    t.epoch = s.epoch ∧ t.lnk.forming = s.lnk.forming ∧ t.exch = s.exch ∧ logsOnly s t := by
  have hat := atBlock_of_head hh d
  have hrun' : (s.atBlock d).exch.run0.isSome = true := (congrArg (·.exch.run0.isSome) hat).trans hrun
  have hfree' : (s.atBlock d).free? .lnk = true := (congrArg (·.free? .lnk) hat).trans hfree
  have hlogs : logsOnly s ((s.atBlock d).finish d stBusyRetry) := ((logsOnly.refl s).atBlock d).finish d _
  have he : exec (.laceForm d fs) s = .next ((s.atBlock d).finish d stBusyRetry) := by
    change execLaceForm d fs s = _
    rw [execLaceForm, running_of_runs hruns]
    simp only [State.cond, hh, if_true, State.taking, ht, State.needBlk, hfree', hrun', Bool.true_or]
  refine answers_of he ⟨get_of_regsOnly hlogs.2 Fld.laceEpochEpoch (by decide), ?_, congrArg (·.exch) hlogs.1, hlogs⟩
  have hhead : (s.atBlock d).head = true := (congrArg State.head hat).trans hh
  exact congrArg Lnk.forming ((complete_lnk hhead d _).trans (congrArg State.lnk hat :))

theorem laceForm_forms (hrun0 : s.exch.run0 = none) (hrun1 : s.exch.run1 = none) (hst : s.started? [0x06, 0x07, 0x08] = false)
    (hform : s.lnk.forming = none) (hshape : shapeOk (s.rd Reg.laceShape) = true) (hw2 : d.w 2 = 0) (hw3 : d.w 3 = 0) (hme : s.me < 64)
    (fs : List LinkFault) : answers (.laceForm d fs) s fun t =>
      t.epoch = nextEpoch s.epoch ∧ t.is Fld.laceEpochForming = true ∧ t.members = s.members ∧ ∃ f, t.lnk.forming = some f ∧ f.desc = some d ∧ s.me ∈ f.cands ∧
        (∀ m ∈ f.cands, m = s.me ∨ (m ∈ s.boot.accepted ∧ m ∉ s.boot.excluded)) := by
  have hat := atBlock_of_head hh d
  have hfree' : (s.atBlock d).free? .lnk = true := (congrArg (·.free? .lnk) hat).trans hfree
  have hhead : (s.atBlock d).head = true := (congrArg State.head hat).trans hh
  have hrun0' : (s.atBlock d).exch.run0 = none := (congrArg (·.exch.run0) hat).trans hrun0
  have hrun1' : (s.atBlock d).exch.run1 = none := (congrArg (·.exch.run1) hat).trans hrun1
  have hform' : (s.atBlock d).lnk.forming = none := (congrArg (·.lnk.forming) hat).trans hform
  have hshape' : shapeOk ((s.atBlock d).rd Reg.laceShape) = true := by rw [atBlock_rd]; exact hshape
  set u := (s.atBlock d).commit d with hu
  have hcommit : { u with hif := s.hif } = s := by
    rw [hu, State.commit, if_pos hhead]; exact hat
  have he : exec (.laceForm d fs) s = .next (u.formStart (some d) 0 fs) := by
    change execLaceForm d fs s = _
    rw [execLaceForm, running_of_runs hruns]
    simp [State.cond, hh, State.taking, ht, State.needBlk, hfree', hrun0', hrun1', hform', started?_atBlock hh, hst, hshape', hw2, hw3, bitsOf, hu]
  obtain ⟨hepoch, hflag, g, hg, hmem, hcands, hdesc, -⟩ := formStart_forms u (some d) 0 fs ((congrArg State.me hcommit).trans_lt hme)
  have hmembers := ((FormsOnly.refl u).formStart (some d) 0 fs).members_eq
  have hboot : u.boot = s.boot := (congrArg State.boot hcommit :)
  have hself : u.me = s.me := (congrArg State.me hcommit :)
  rw [hself] at hmem
  rw [hself, hboot] at hcands
  exact answers_of he ⟨hepoch.trans (congrArg (fun v : State => nextEpoch v.epoch) hcommit :), hflag, hmembers.trans (congrArg State.members hcommit :), g, hg,
    hdesc, hmem, hcands⟩

end LaceForm

/-! ### The candidates' answers (R674) -/

theorem epochSetReceive_adopts (s : State) (e : Nat) (sh : Word) (mask : Nat) (fs : List LinkFault) (hruns : s.runs = true) (hh : s.head = false)
    (href : s.boot.refused = false) (hmask : tb mask s.me = true) : answers (.epochSetReceive e sh mask fs) s fun t =>
      t.epoch = e % 65536 ∧ t.is Fld.laceEpochForming = true ∧ t.lnk.shape = sh ∧ t.lnk.routes = mask ∧ t.is Fld.exchStatDef0 = false ∧
      t.is Fld.exchStatDef1 = false ∧ t.members = s.members ∧
      Out.msg { dst := s.headNo, src := s.me, kind := 6, code := msgEpochAck, tag := e, words := [BitVec.ofNat 32 e] } ∈ t.out := by
  set u := s.adopt (e % 65536) sh mask fs with hu
  have he : exec (.epochSetReceive e sh mask fs) s = .next (u.bootMsg s.headNo msgEpochAck e [BitVec.ofNat 32 e]) := by
    change execEpochSetReceive e sh mask fs s = _
    rw [execEpochSetReceive, running_of_runs hruns]
    simp only [State.cond, hh, href, hmask, Bool.not_false, Bool.and_self, if_true]
    rfl
  obtain ⟨hepoch, hflag, hd0, hd1, hshape, hroutes, hid⟩ := adopt_reads s (e % 65536) sh mask fs
  have hforms := (FormsOnly.refl s).adopt (e % 65536) sh mask fs
  have ht := (TrafficOnly.refl u).bootMsg s.headNo msgEpochAck e [BitVec.ofNat 32 e]
  have hlnk := ht.lnk_eq
  have hself : u.me = s.me := hforms.me_eq
  refine answers_of he ⟨?_, ?_, (congrArg (·.shape) hlnk).trans hshape, (congrArg (·.routes) hlnk).trans hroutes, ?_, ?_, (hforms.trans ht.formsOnly).members_eq, ?_⟩
  · exact (ht.get_eq Fld.laceEpochEpoch (by decide)).trans (hepoch.trans (Nat.mod_mod _ _))
  · exact (congrArg (· != 0) (ht.get_eq Fld.laceEpochForming (by decide))).trans hflag
  · exact (congrArg (· != 0) (ht.get_eq Fld.exchStatDef0 (by decide))).trans hd0
  · exact (congrArg (· != 0) (ht.get_eq Fld.exchStatDef1 (by decide))).trans hd1
  · have hsent := mem_out_bootMsg u s.headNo msgEpochAck e [BitVec.ofNat 32 e]
    rw [hself] at hsent
    exact hsent

section Acks

variable {s : State} {f : Forming} {m : Nat} (hruns : s.runs = true) (hform : s.lnk.forming = some f) (hstep : f.step = 1)

/-- The candidate `m` has answered. -/
def Forming.answered (f : Forming) (m : Nat) : Forming := { f with awaiting := f.awaiting.filter (· != m) }

include hruns hform hstep

theorem exec_epochAckReceive (hm : m ∈ f.awaiting) : exec (.epochAckReceive m s.epoch) s =
    .next ((s.modLnk (fun l => { l with forming := some (f.answered m) })).cond (f.answered m).awaiting.isEmpty (·.formSync)) := by
  change execEpochAckReceive m s.epoch s = _
  rw [execEpochAckReceive, running_of_runs hruns]
  rw [hform]
  exact congrArg Host.Outcome.next (if_neg (by simp [hstep, hm]))

theorem epochAckReceive_awaits (hm : m ∈ f.awaiting) (hmore : f.awaiting.filter (· != m) ≠ []) : answers (.epochAckReceive m s.epoch) s fun t =>
    t = s.modLnk (fun l => { l with forming := some (f.answered m) }) := by
  have hsome : (f.answered m).awaiting.isEmpty = false := by simpa [Forming.answered] using hmore
  refine answers_of (exec_epochAckReceive hruns hform hstep hm) ?_
  rw [hsome]; rfl

theorem epochAckReceive_syncs (hm : m ∈ f.awaiting) (hlast : f.awaiting.filter (· != m) = []) : answers (.epochAckReceive m s.epoch) s fun t =>
    t.lnk.forming = some { f with step := 3, awaiting := [] } ∧ t.epoch = s.epoch ∧
    ∃ h, t.clk.headSync = some h ∧ h.fire = false ∧ h.pulsed = false ∧ h.dones = f.cands.filter (· != s.me) := by
  have hnone : (f.answered m).awaiting.isEmpty = true := by simp [Forming.answered, hlast]
  have he := exec_epochAckReceive hruns hform hstep hm
  rw [hnone] at he
  obtain ⟨hf, hepoch, -, hsync⟩ := formSync_waits (s := s.modLnk (fun l => { l with forming := some (f.answered m) })) (f := f.answered m) rfl
  exact answers_of he ⟨hf, hepoch, hsync⟩

theorem epochAckTimeout_repeats (hwait : f.awaiting ≠ []) : answers .epochAckTimeout s fun t =>
    t.epoch = nextEpoch s.epoch ∧ ∃ g, t.lnk.forming = some g ∧ (∀ i ∈ g.cands, i ∈ f.cands ∧ i ∉ f.awaiting) := by
  have he : exec .epochAckTimeout s = .next (s.formStep1 f (f.cands.filter (fun m => !f.awaiting.contains m))) := by
    change execEpochAckTimeout s = _
    rw [execEpochAckTimeout, running_of_runs hruns]
    simp [hform, hstep, hwait, State.cond, State.formWithout]
  obtain ⟨hepoch, -, g, hg, hcands, -⟩ := formStep1_forms s f (f.cands.filter (fun m => !f.awaiting.contains m))
  refine answers_of he ⟨hepoch, g, hg, fun i hi => ?_⟩
  rw [hcands] at hi
  simpa using mem_of_mem_trimCands hi

end Acks

/-! ### Lace rest (R777, R778) -/

theorem traffic_pwr {s t : State} (h : TrafficOnly s t) : t.pwr = s.pwr := congrArg (·.pwr) h.rest

theorem traffic_rest {s t : State} (h : TrafficOnly s t) : t.is Fld.pwrStateRest = s.is Fld.pwrStateRest :=
  congrArg (· != 0) (h.get_eq Fld.pwrStateRest (by decide))

theorem laceRestStart_rests (s : State) (hruns : s.runs = true) (hh : s.head = true) (hin : s.lnk.inEpoch = true) (hothers : s.others ≠ [])
    (hrest : s.is Fld.pwrStateRest = false) (hwait : s.pwr.resumeWait = []) (hready : s.restReady = true) : answers .laceRestStart s fun t =>
      t.is Fld.pwrStateRest = true ∧ t.pwr = { s.pwr with laceHold := false } ∧
      Out.msg { dst := s.me, src := s.me, kind := 7, code := msgRest, tag := 0, bcast := true, words := [] } ∈ t.out ∧ logsOnly s t := by
  set u := (s.putB Fld.pwrStateRest true).modPwr (fun p => { p with laceHold := false }) with hu
  set m : Msg := { dst := s.me, src := s.me, kind := 7, code := msgRest, tag := 0, bcast := true, words := [] } with hm
  have he : exec .laceRestStart s = .next (u.sendMsg m) := by
    change execLaceRestStart s = _
    rw [execLaceRestStart, running_of_runs hruns]
    simp [hh, hin, hothers, hrest, hwait, hready, hu, hm]
  have ht := (TrafficOnly.refl u).sendMsg m
  exact answers_of he ⟨(traffic_rest ht).trans (State.is_putB _ _ _ (by decide) rfl), traffic_pwr ht, mem_out_sendMsg u m,
    (((logsOnly.refl s).putB Fld.pwrStateRest true (by decide)).modPwr _).sendMsg m⟩

theorem restReceive_rests (s : State) (hruns : s.runs = true) (hh : s.head = false) (hin : s.lnk.inEpoch = true) : answers .restReceive s fun t =>
    t = (s.putB Fld.pwrStateRest true).modPwr (fun p => { p with laceHold := false }) := by
  refine answers_of (show execRestReceive s = _ from ?_) rfl
  rw [execRestReceive, running_of_runs hruns]
  simp only [State.cond, hh, hin, Bool.not_false, Bool.and_self, if_true]

theorem pipBeacon_traffic (s : State) : TrafficOnly s s.pipBeacon := by
  unfold State.pipBeacon
  exact (TrafficOnly.refl s).cond _ _ ((TrafficOnly.refl s).sendMsg _)

theorem fireNext_formsOnly (s : State) : FormsOnly s s.fireNext := by
  unfold State.fireNext
  exact (FormsOnly.refl s).cond _ _ ((FormsOnly.refl s).sendArm true)

theorem laceRestEnd_resumes (s : State) (hruns : s.runs = true) (hh : s.head = true) (hrest : s.is Fld.pwrStateRest = true) (hready : s.restReady = false) :
    answers .laceRestEnd s fun t =>
      t.is Fld.pwrStateRest = false ∧ t.pwr = { s.pwr with laceHold := true, resumeWait := s.others.filter (fun m => !s.lnk.lost.contains m) } ∧
      Out.msg { dst := s.me, src := s.me, kind := 7, code := msgResume, tag := 0, bcast := true, words := [] } ∈ t.out := by
  set u := (s.putB Fld.pwrStateRest false).modPwr (fun p => { p with laceHold := true, resumeWait := s.others.filter (fun m => !s.lnk.lost.contains m) }) with hu
  set m : Msg := { dst := s.me, src := s.me, kind := 7, code := msgResume, tag := 0, bcast := true, words := [] } with hm
  set v := (u.sendMsg m).cond ((u.sendMsg m).free? .pip) (·.pipBeacon) with hv
  have he : exec .laceRestEnd s = .next v.fireNext := by
    change execLaceRestEnd s = _
    rw [execLaceRestEnd, running_of_runs hruns]
    simp only [hh, hrest, hready, Bool.not_true, Bool.or_self, Bool.false_eq_true, if_false]
    rfl
  have ht : TrafficOnly u v := ((TrafficOnly.refl u).sendMsg m).cond _ _ (((TrafficOnly.refl u).sendMsg m).trans (pipBeacon_traffic _))
  have hf := fireNext_formsOnly v
  have hout : Keeps (u.sendMsg m) v.fireNext := ((Keeps.refl _).cond _ _ fun _ h => h.pipBeacon).fireNext
  refine answers_of he ⟨?_, (congrArg (·.pwr) hf.rest).trans (traffic_pwr ht), hout.mem_out (mem_out_sendMsg u m)⟩
  exact (congrArg (· != 0) (get_of_regsOnly hf.regs Fld.pwrStateRest (by decide))).trans
    ((traffic_rest ht).trans (State.is_putB _ _ _ (by decide) rfl))

theorem resumeReceive_answers (s : State) (hruns : s.runs = true) (hh : s.head = false) (hin : s.lnk.inEpoch = true) : answers .resumeReceive s fun t =>
    t.is Fld.pwrStateRest = false ∧ t.pwr = { s.pwr with laceHold := true } ∧
    Out.msg { dst := s.headNo, src := s.me, kind := 7, code := msgResumeAck, tag := 0, words := [] } ∈ t.out ∧ logsOnly s t := by
  set u := (s.putB Fld.pwrStateRest false).modPwr (fun p => { p with laceHold := true }) with hu
  set m : Msg := { dst := s.headNo, src := s.me, kind := 7, code := msgResumeAck, tag := 0, words := [] } with hm
  have he : exec .resumeReceive s = .next (u.sendMsg m) := by
    change execResumeReceive s = _
    rw [execResumeReceive, running_of_runs hruns]
    simp only [State.cond, hh, hin, Bool.not_false, Bool.and_self, if_true]
    rfl
  have ht := (TrafficOnly.refl u).sendMsg m
  exact answers_of he ⟨(traffic_rest ht).trans (State.is_putB _ _ _ (by decide) rfl), traffic_pwr ht, mem_out_sendMsg u m,
    (((logsOnly.refl s).putB Fld.pwrStateRest false (by decide)).modPwr _).sendMsg m⟩

theorem fireNext_of_not_fire {s : State} (h : s.is Fld.clkSyncCtlFire = false) : s.fireNext = s := by
  simp [State.fireNext, State.cond, h]

theorem resumeAckReceive_noted (s : State) (m : Nat) (hruns : s.runs = true) (hm : m ∈ s.pwr.resumeWait) (hfire : s.is Fld.clkSyncCtlFire = false) :
    answers (.resumeAckReceive m) s fun t => t = s.modPwr (fun p => { p with resumeWait := p.resumeWait.filter (· != m) }) := by
  refine answers_of (show execResumeAckReceive m s = _ from ?_) rfl
  rw [execResumeAckReceive, running_of_runs hruns]
  simp only [State.cond, List.contains_iff_mem.mpr hm, if_true]
  rw [fireNext_of_not_fire (s := s.modPwr _) hfire]

/-- Settles O21: each event of a formation and of Lace rest, at the head and at a candidate. -/
theorem epochsAndLaceRest : Obligations.EpochsAndLaceRest := by
  unfold Obligations.EpochsAndLaceRest
  exact ⟨fun s d fs hruns hh ht hfree hrun0 hrun1 hst hform hshape hw2 hw3 hme =>
      laceForm_forms hruns hh ht hfree hrun0 hrun1 hst hform hshape hw2 hw3 hme fs,
    fun s d fs hruns hh ht hfree hrun => laceForm_busy hruns hh ht hfree hrun fs, epochSetReceive_adopts,
    fun s f m hruns hform hstep hm hmore => epochAckReceive_awaits hruns hform hstep hm hmore,
    fun s f m hruns hform hstep hm hlast => epochAckReceive_syncs hruns hform hstep hm hlast,
    fun s f hruns hform hstep hwait => epochAckTimeout_repeats hruns hform hstep hwait,
    laceRestStart_rests, restReceive_rests, laceRestEnd_resumes, resumeReceive_answers, resumeAckReceive_noted⟩

end Sys2Proof.Machine
end

section
/-! Joining a Lace: HELLO and its answers, pushes, the forming of epoch 1 after a time, and the start of training (R93 to R102, R639). -/

namespace Sys2Proof.Machine

/-! ### What the boot tree knows, through what reporting changes -/

theorem logsOnly.boot_eq {s t : State} (h : logsOnly s t) : t.boot = s.boot := congrArg (·.boot) h.1

theorem logsOnly.modBoot {s t : State} (h : logsOnly s t) (f : Boot → Boot) : logsOnly (s.modBoot f) (t.modBoot f) :=
  ⟨congrArg (·.modBoot f) h.1, h.2⟩

/-- What only reporting changes after a change of what the boot tree knows has that as it was set. -/
theorem logsOnly.of_modBoot {s t : State} {f : Boot → Boot} (h : logsOnly (s.modBoot f) t) :
    t.boot = f s.boot ∧ logsOnly (s.modBoot (fun _ => t.boot)) t := by
  have hb : t.boot = f s.boot := h.boot_eq
  refine ⟨hb, ?_⟩
  rw [hb]
  exact h

theorem logsOnly.bootMsg {a s : State} (h : logsOnly a s) (dst code tag : Nat) (ws : List Word) : logsOnly a (s.bootMsg dst code tag ws) := h.sendMsg _

/-! ### HELLO at the member that owes it (R94) -/

theorem helloSend_counts (s : State) (halive : s.alive = true) (hh : s.head = false) (hp : s.phase ≠ phROM) (hdue : s.boot.helloDue = true)
    (href : s.boot.refused = false) (htrained : ∃ k ∈ allLinks, s.trained k = true) : answers .helloSend s fun t =>
      t.boot = { s.boot with helloTag := (s.boot.helloTag + 1) % 65536 } ∧ t.get Fld.bootStatHelloCnt = min 255 (s.get Fld.bootStatHelloCnt + 1) ∧
      (∃ ws, Out.msg { dst := s.headNo, src := s.me, kind := 6, code := msgHello, tag := (s.boot.helloTag + 1) % 65536, words := ws } ∈ t.out) := by
  set u := (s.incSat Fld.bootStatHelloCnt).modBoot (fun b => { b with helloTag := (s.boot.helloTag + 1) % 65536 }) with hu
  have hany : allLinks.any (fun k => s.trained k) = true := List.any_eq_true.mpr htrained
  obtain ⟨ws, he⟩ : ∃ ws, exec .helloSend s = .next (u.bootMsg s.headNo msgHello ((s.boot.helloTag + 1) % 65536) ws) := by
    rw [show exec .helloSend s = execHelloSend s from rfl, execHelloSend, live, done, if_pos halive]
    exact ⟨_, congrArg Host.Outcome.next (if_neg (by simp [hh, hp, hdue, href, hany]))⟩
  have ht := (TrafficOnly.refl u).bootMsg s.headNo msgHello ((s.boot.helloTag + 1) % 65536) ws
  exact answers_of he ⟨(congrArg (·.boot) ht.rest :), (ht.get_eq Fld.bootStatHelloCnt (by decide)).trans (get_incSat s _ (by decide)), ws,
    mem_out_bootMsg u _ _ _ ws⟩

theorem answerReceive_ends (s : State) (st : Nat) (halive : s.alive = true) (hh : s.head = false) :
    answers (.answerReceive s.me st s.boot.helloTag) s fun t =>
      t = s.modBoot (fun b => { b with helloDue := b.helloDue && st != 0 && st != 0x80, refused := b.refused || st == 0x80 }) := by
  refine answers_of (show execAnswerReceive s.me st s.boot.helloTag s = _ from ?_) rfl
  rw [execAnswerReceive, live, done, if_pos halive]
  rw [if_neg (by simp [hh])]
  congr 1
  split
  · simp [State.modBoot]
  · simp [State.modBoot]
  · next h0 h80 => simp [State.modBoot, bne_iff_ne.mpr h0, bne_iff_ne.mpr h80, beq_eq_false_iff_ne.mpr h80]

/-! ### HELLO at the head (R93, R95, R99, R100) -/

theorem epochOne_of_epoch {s : State} (h : s.epoch ≠ 0) (fs : List LinkFault) : s.epochOne fs = s := by
  simp [State.epochOne, State.cond, h]

section Hello

variable {s : State} {m : Nat} (halive : s.alive = true) (hh : s.head = true) (hm : m < 64)

/-- The head's answer to a HELLO of a member. -/
def State.answerHello (s : State) (member tag st : Nat) : State :=
  s.bootMsg member msgAnswer tag [packW [(20, 6, member), (0, 8, st)], s.rd Reg.bootSvcCrc, s.rd Reg.bootSeqCrc]

/-- The head knows a member by its UID, and no longer as accepted. -/
def Boot.knows (b : Boot) (member uid : Nat) : Boot :=
  { b with ids := (member, uid) :: b.ids.filter (·.1 != member), accepted := b.accepted.filter (· != member)
           untested := b.untested.filter (· != member) }

theorem answerHello_traffic (s : State) (member tag st : Nat) : TrafficOnly s (s.answerHello member tag st) := (TrafficOnly.refl s).bootMsg ..

theorem answerHello_logsOnly (s : State) (member tag st : Nat) : logsOnly s (s.answerHello member tag st) := (logsOnly.refl s).bootMsg ..

theorem startPush_traffic (s : State) :
    TrafficOnly (s.modBoot (fun b => { b with pushing := true, pushPending := false, pushNo := (s.boot.pushNo + 1) % 256 })) s.startPush :=
  (TrafficOnly.refl _).bootMsg ..

theorem startPush_logsOnly (s : State) :
    logsOnly (s.modBoot (fun b => { b with pushing := true, pushPending := false, pushNo := (s.boot.pushNo + 1) % 256 })) s.startPush :=
  (logsOnly.refl _).bootMsg ..

include halive hh hm

theorem helloReceive_early (ph : Nat) (u : Bool) (sc qc : Word) (uid : BitVec 64) (tag : Nat) (fs : List LinkFault) (hp : s.phase ≠ phRun) :
    answers (.helloReceive m ph u sc qc uid tag fs) s fun t =>
      logsOnly s t ∧ ∃ ws, Out.msg { dst := m, src := s.me, kind := 6, code := msgAnswer, tag := tag, words := ws } ∈ t.out := by
  have he : exec (.helloReceive m ph u sc qc uid tag fs) s = .next (s.answerHello m tag 0x0C) := by
    change execHelloReceive m ph u sc qc uid tag fs s = _
    rw [execHelloReceive, live, done, if_pos halive]
    simp only [hh, Bool.not_true, Bool.false_or, decide_eq_true_eq, Nat.not_le.mpr hm, if_false, bne_iff_ne, ne_eq, hp, not_false_eq_true, if_true]
    rfl
  exact answers_of he ⟨answerHello_logsOnly s m tag _, _, mem_out_bootMsg s _ _ _ _⟩

/-- At a head in RUNNING, a member that is no other by its UID meets the rule of its phase. -/
theorem exec_helloReceive {ph tag : Nat} {u : Bool} {sc qc : Word} {uid : BitVec 64} {fs : List LinkFault} (hp : s.phase = phRun) (hne : m ≠ s.me)
    (hids : ∀ e ∈ s.boot.ids, e.1 = m → e.2 = uid.toNat) :
    exec (.helloReceive m ph u sc qc uid tag fs) s = .next (
      if ph = phWait then
        let s := (s.modBoot (·.knows m uid.toNat)).answerHello m tag 0x00
        if s.boot.pushing then s.modBoot (fun b => { b with pushPending := true }) else s.startPush
      else if ph = phRun then
        let same := sc == s.rd Reg.bootSvcCrc && qc == s.rd Reg.bootSeqCrc
        if same || s.is Fld.bootCtlForceUntested then
          let s := (s.modBoot (·.knows m uid.toNat)).modBoot (fun b => { b with
            accepted := setIns b.accepted m, untested := if u || !same then setIns b.untested m else b.untested })
          (s.answerHello m tag 0x00).epochOne fs
        else ((s.refuse m).modBoot (fun b => { b with excluded := setIns b.excluded m })).answerHello m tag 0x80
      else s.answerHello m tag 0x0C) := by
  have hdup : (m == s.me || s.boot.ids.any (fun e => e.1 == m && e.2 != uid.toNat)) = false := by
    simpa [hne] using hids
  change execHelloReceive m ph u sc qc uid tag fs s = _
  rw [execHelloReceive, live, done, if_pos halive]
  simp only [hh, Bool.not_true, Bool.false_or, decide_eq_true_eq, Nat.not_le.mpr hm, if_false, bne_iff_ne, ne_eq, hp, not_true_eq_false, hdup,
    Bool.false_eq_true, beq_iff_eq]
  rfl

theorem helloReceive_waiting (u : Bool) (sc qc : Word) (uid : BitVec 64) (tag : Nat) (fs : List LinkFault) (hp : s.phase = phRun) (hne : m ≠ s.me)
    (hids : ∀ e ∈ s.boot.ids, e.1 = m → e.2 = uid.toNat) : answers (.helloReceive m phWait u sc qc uid tag fs) s fun t =>
      t.boot.pushing = true ∧ m ∉ t.boot.accepted ∧ (s.boot.pushing = true → t.boot.pushPending = true ∧ t.boot.pushNo = s.boot.pushNo) ∧
      (s.boot.pushing = false → t.boot.pushNo = (s.boot.pushNo + 1) % 256) ∧ logsOnly (s.modBoot (fun _ => t.boot)) t := by
  have hgone : m ∉ s.boot.accepted.filter (· != m) := by simp
  set v := (s.modBoot (·.knows m uid.toNat)).answerHello m tag 0x00 with hv
  have hlogs : logsOnly (s.modBoot (·.knows m uid.toNat)) v := answerHello_logsOnly ..
  have hboot : v.boot = s.boot.knows m uid.toNat := hlogs.boot_eq
  have he := exec_helloReceive (ph := phWait) (u := u) (sc := sc) (qc := qc) (tag := tag) (fs := fs) halive hh hm hp hne hids
  rw [if_pos rfl] at he
  dsimp only at he
  rw [← hv, show v.boot.pushing = s.boot.pushing by rw [hboot]; rfl] at he
  cases hpush : s.boot.pushing with
  | true =>
    rw [hpush, if_pos rfl] at he
    obtain ⟨hb, hl⟩ := logsOnly.of_modBoot (s := s) (f := fun b => { b.knows m uid.toNat with pushPending := true })
      (hlogs.modBoot (fun b => { b with pushPending := true }))
    refine answers_of he ⟨?_, ?_, fun _ => ⟨?_, ?_⟩, fun h => absurd h (by simp), hl⟩ <;> rw [hb]
    · exact hpush
    · exact hgone
    · rfl
  | false =>
    rw [hpush, if_neg Bool.false_ne_true] at he
    obtain ⟨hb, hl⟩ := logsOnly.of_modBoot (s := s)
      (f := fun b => { b.knows m uid.toNat with pushing := true, pushPending := false, pushNo := (v.boot.pushNo + 1) % 256 })
      ((hlogs.modBoot (fun b => { b with pushing := true, pushPending := false, pushNo := (v.boot.pushNo + 1) % 256 })).trans (startPush_logsOnly v))
    refine answers_of he ⟨?_, ?_, fun h => absurd h (by simp), fun _ => ?_, hl⟩ <;> rw [hb]
    · exact hgone
    · rw [hboot]; rfl

theorem helloReceive_same (sc qc : Word) (uid : BitVec 64) (tag : Nat) (fs : List LinkFault) (hp : s.phase = phRun) (hne : m ≠ s.me)
    (hids : ∀ e ∈ s.boot.ids, e.1 = m → e.2 = uid.toNat) (hsc : sc = s.rd Reg.bootSvcCrc) (hqc : qc = s.rd Reg.bootSeqCrc) (hepoch : s.epoch ≠ 0) :
    answers (.helloReceive m phRun false sc qc uid tag fs) s fun t =>
      t.boot.accepted = setIns (s.boot.accepted.filter (· != m)) m ∧ m ∉ t.boot.untested ∧ (m, uid.toNat) ∈ t.boot.ids ∧
      logsOnly (s.modBoot (fun _ => t.boot)) t := by
  set v := (s.modBoot (fun b => { b.knows m uid.toNat with accepted := setIns (b.knows m uid.toNat).accepted m })).answerHello m tag 0x00 with hv
  have hlogs : logsOnly (s.modBoot (fun b => { b.knows m uid.toNat with accepted := setIns (b.knows m uid.toNat).accepted m })) v := answerHello_logsOnly ..
  have hv0 : v.epoch ≠ 0 := fun h => hepoch ((get_of_regsOnly hlogs.2 Fld.laceEpochEpoch (by decide)).symm.trans h)
  have he : exec (.helloReceive m phRun false sc qc uid tag fs) s = .next v := by
    rw [exec_helloReceive halive hh hm hp hne hids, if_neg (by decide), if_pos rfl]
    simp only [hsc, hqc, beq_self_eq_true, Bool.and_self, Bool.true_or, if_true, Bool.not_true, Bool.or_self, Bool.false_eq_true, if_false]
    exact congrArg Host.Outcome.next (epochOne_of_epoch hv0 fs)
  obtain ⟨hb, hl⟩ := hlogs.of_modBoot
  refine answers_of he ⟨?_, ?_, ?_, hl⟩ <;> rw [hb]
  · rfl
  · simp [Boot.knows]
  · exact List.mem_cons_self

theorem helloReceive_refuses (u : Bool) (sc qc : Word) (uid : BitVec 64) (tag : Nat) (fs : List LinkFault) (hp : s.phase = phRun) (hne : m ≠ s.me)
    (hids : ∀ e ∈ s.boot.ids, e.1 = m → e.2 = uid.toNat) (hcrc : sc ≠ s.rd Reg.bootSvcCrc ∨ qc ≠ s.rd Reg.bootSeqCrc)
    (hforce : s.is Fld.bootCtlForceUntested = false) : answers (.helloReceive m phRun u sc qc uid tag fs) s fun t =>
      t.get Fld.bootMismatchMember = m ∧ t.is Fld.bootMismatchRefused = true ∧ t.boot = { s.boot with excluded := setIns s.boot.excluded m } ∧
      t.phase = s.phase ∧ t.epoch = s.epoch := by
  set v := (s.refuse m).modBoot (fun b => { b with excluded := setIns b.excluded m }) with hv
  have hsame : (sc == s.rd Reg.bootSvcCrc && qc == s.rd Reg.bootSeqCrc) = false := by rcases hcrc with h | h <;> simp [h]
  have he : exec (.helloReceive m phRun u sc qc uid tag fs) s = .next (v.answerHello m tag 0x80) := by
    rw [exec_helloReceive halive hh hm hp hne hids, if_neg (by decide), if_pos rfl]
    simp only [hsame, hforce, Bool.or_self, Bool.false_eq_true, if_false]
    rfl
  have ht := answerHello_traffic v m tag 0x80
  have hget : ∀ g : FieldRef, v.get g = (s.refuse m).get g := fun _ => rfl
  have hregs : regsOnly [Reg.bootMismatch] s v :=
    regsOnly_trans (regsOnly_put s Fld.bootMismatchMember m (by simp)) (regsOnly_put _ Fld.bootMismatchRefused _ (by simp))
  refine answers_of he ⟨(ht.get_eq _ (by decide)).trans ?_, (congrArg (· != 0) (ht.get_eq Fld.bootMismatchRefused (by decide))).trans ?_,
    (congrArg (·.boot) ht.rest :), (ht.get_eq Fld.bootStatPhase (by decide)).trans (get_of_regsOnly hregs _ (by decide)),
    (ht.get_eq Fld.laceEpochEpoch (by decide)).trans (get_of_regsOnly hregs _ (by decide))⟩
  · exact (State.get_put_ne _ _ _ _ (by decide)).trans ((State.get_put_self s _ _ (by decide)).trans (Nat.mod_eq_of_lt hm))
  · exact State.is_flag _ _ (by decide) (by decide)

end Hello

/-! ### The end of a push (R95), and the forming of epoch 1 after a time (R101) -/

theorem pushEnd_ends (s : State) (hruns : s.runs = true) (hh : s.head = true) (hpush : s.boot.pushing = true) : answers .pushEnd s fun t =>
    (s.boot.pushPending = false → t = s.modBoot (fun b => { b with pushing := false })) ∧
    (s.boot.pushPending = true → t.boot = { s.boot with pushing := true, pushPending := false, pushNo := (s.boot.pushNo + 1) % 256 } ∧
      logsOnly (s.modBoot (fun _ => t.boot)) t) := by
  have he : exec .pushEnd s = .next ((s.modBoot (fun b => { b with pushing := false })).cond s.boot.pushPending (·.startPush)) := by
    change execPushEnd s = _
    rw [execPushEnd, running_of_runs hruns, State.cond, hh, hpush]
    rfl
  refine answers_of he ⟨fun h => by rw [h]; rfl, fun h => ?_⟩
  rw [h]
  exact logsOnly.of_modBoot (s := s) (f := fun b => { b with pushing := true, pushPending := false, pushNo := (s.boot.pushNo + 1) % 256 })
    (startPush_logsOnly (s.modBoot (fun b => { b with pushing := false })))

theorem epochOneTimeout_forms (s : State) (fs : List LinkFault) (hruns : s.runs = true) (hh : s.head = true) (hme : s.me < 64) (hepoch : s.epoch = 0)
    (hform : s.lnk.forming = none) : answers (.epochOneTimeout fs) s fun t =>
      t.epoch = 1 ∧ t.is Fld.laceEpochForming = true ∧ ∃ f, t.lnk.forming = some f ∧ s.me ∈ f.cands ∧ f.desc = none ∧ f.faults = fs ∧
        (f.step = 1 ∨ f.step = 3) ∧ (f.step = 3 → f.awaiting = [] ∧ t.clk.headSync.isSome = true) := by
  have he : exec (.epochOneTimeout fs) s = .next (s.formStart none 0 fs) := by
    change execEpochOneTimeout fs s = _
    rw [execEpochOneTimeout, running_of_runs hruns]
    simp [State.cond, hh, hepoch, hform]
  obtain ⟨ht, hflag, g, hg, hmem, -, hdesc, hfaults, hstep, hsync⟩ := formStart_forms s none 0 fs hme
  exact answers_of he ⟨ht.trans (by rw [hepoch]; rfl), hflag, g, hg, hmem, hdesc, hfaults, hstep, hsync⟩

/-! ### Training starts (R639) -/

theorem mem_allLinks (k : Fin 4) : k ∈ allLinks := by revert k; decide

theorem lnkStat_ne {j k : Fin 4} (h : j ≠ k) : Reg.lnkStat j.val ≠ Reg.lnkStat k.val := by revert j k; decide

/-- A link that starts to train draws a token, and leaves the other links. -/
theorem trainLink_trains (s : State) (k : Fin 4) :
    (s.trainLink k).linkState k = lkTraining ∧ (s.trainLink k).lnk.links[k].token = Config.linkToken (s.free + 1) % 65536 ∧
      (s.trainLink k).free = s.free + 1 ∧
      (∀ j, j ≠ k → (s.trainLink k).linkState j = s.linkState j ∧ (s.trainLink k).lnk.links[j] = s.lnk.links[j]) ∧
      fieldsOnly (allLinks.map (fun k => Fld.lnkStatState k.val)) s (s.trainLink k) := by
  set u := (s.draw.put (Fld.lnkStatState k.val) lkTraining).modLink k
    (fun l => { l with token := Config.linkToken (s.free + 1) % 65536, retraining := false, failing := 0 }) with hu
  have hout : { s.trainLink k with out := u.out } = u :=
    forEach_induct (P := fun t => { t with out := u.out } = u) (fun t n ht => by unfold State.cond; split <;> exact ht) [0, 1] (s := u) rfl
  have hstate : ∀ j, (s.trainLink k).linkState j = u.linkState j := fun j => (congrArg (·.linkState j) hout :)
  have hlinks : (s.trainLink k).lnk.links = upd s.lnk.links k
    (fun l => { l with token := Config.linkToken (s.free + 1) % 65536, retraining := false, failing := 0 }) := (congrArg (·.lnk.links) hout :)
  refine ⟨(hstate k).trans (State.get_put_self s.draw _ _ (Nat.le_add_right 3 29)), ?_, (congrArg (·.free) hout :), fun j hj => ⟨?_, ?_⟩, ?_⟩
  · rw [hlinks, upd_self]
  · exact (hstate j).trans (State.get_put_ne s.draw _ _ _ (.inl (lnkStat_ne hj)))
  · rw [hlinks, upd_ne _ _ _ _ hj]
  · refine fieldsOnly_trans (fieldsOnly_put s (Fld.lnkStatState k.val) lkTraining ?_) (fieldsOnly_of_regs (congrArg (·.regs) hout :))
    exact List.mem_map_of_mem (mem_allLinks k)

/-- What training starts on a list of links: those of them that were down train, each under a token drawn for it, and no other changes. -/
theorem trainLinks (l : List (Fin 4)) (s : State) :
    let t := s.forEach l (fun s k => s.cond (s.linkState k == lkDown) (·.trainLink k))
    (∀ k ∈ l, s.linkState k = lkDown → t.linkState k = lkTraining ∧
      ∃ n, s.free < n ∧ n ≤ t.free ∧ t.lnk.links[k].token = Config.linkToken n % 65536) ∧
    (∀ j, s.linkState j ≠ lkDown → t.linkState j = s.linkState j ∧ t.lnk.links[j] = s.lnk.links[j]) ∧ s.free ≤ t.free ∧
    fieldsOnly (allLinks.map (fun k => Fld.lnkStatState k.val)) s t := by
  induction l generalizing s with
  | nil => exact ⟨fun _ h => absurd h List.not_mem_nil, fun _ _ => ⟨rfl, rfl⟩, Nat.le_refl _, fieldsOnly_refl _ s⟩
  | cons k l ih =>
    intro t
    by_cases hdown : s.linkState k = lkDown
    · obtain ⟨hstate, htoken, hfree, hothers, hfields⟩ := trainLink_trains s k
      have ht : t = (s.trainLink k).forEach l (fun s k => s.cond (s.linkState k == lkDown) (·.trainLink k)) := by
        simp [t, State.forEach, State.cond, hdown]
      obtain ⟨ihdown, ihup, ihfree, ihfields⟩ := ih (s.trainLink k)
      rw [← ht] at ihdown ihup ihfree ihfields
      obtain ⟨hkstate, hklink⟩ := ihup k (by rw [hstate]; decide)
      have hk : t.linkState k = lkTraining ∧ ∃ n, s.free < n ∧ n ≤ t.free ∧ t.lnk.links[k].token = Config.linkToken n % 65536 :=
        ⟨hkstate.trans hstate, s.free + 1, by omega, by omega, (congrArg LinkSt.token hklink).trans htoken⟩
      refine ⟨fun j hj hjdown => ?_, fun j hj => ?_, by omega, fieldsOnly_trans hfields ihfields⟩
      · by_cases hjk : j = k
        · subst hjk; exact hk
        · obtain ⟨n, hn, hn', htok⟩ := (ihdown j ((List.mem_cons.mp hj).resolve_left hjk) ((hothers j hjk).1.trans hjdown)).2
          exact ⟨(ihdown j ((List.mem_cons.mp hj).resolve_left hjk) ((hothers j hjk).1.trans hjdown)).1, n, by omega, hn', htok⟩
      · have hjk : j ≠ k := fun e => hj (e ▸ hdown)
        obtain ⟨h1, h2⟩ := ihup j (by rw [(hothers j hjk).1]; exact hj)
        exact ⟨h1.trans (hothers j hjk).1, h2.trans (hothers j hjk).2⟩
    · have ht : t = s.forEach l (fun s k => s.cond (s.linkState k == lkDown) (·.trainLink k)) := by
        simp [t, State.forEach, State.cond, hdown]
      rw [ht]
      obtain ⟨ihdown, ihup, ihfree, ihfields⟩ := ih s
      exact ⟨fun j hj hjdown => ihdown j ((List.mem_cons.mp hj).resolve_left fun e => hdown (e ▸ hjdown)) hjdown, ihup, ihfree, ihfields⟩

theorem linkTrainingStart_trains (s : State) (k : Fin 4) (halive : s.alive = true) (hdown : s.linkState k = lkDown) :
    answers .linkTrainingStart s fun t =>
      t.linkState k = lkTraining ∧ (∃ n, s.free < n ∧ n ≤ t.free ∧ t.lnk.links[k].token = Config.linkToken n % 65536) ∧
      (∀ j, s.linkState j ≠ lkDown → t.linkState j = s.linkState j ∧ t.lnk.links[j] = s.lnk.links[j]) ∧
      fieldsOnly (allLinks.map (fun k => Fld.lnkStatState k.val)) s t := by
  obtain ⟨htrains, hothers, -, hfields⟩ := trainLinks allLinks s
  obtain ⟨hstate, htoken⟩ := htrains k (mem_allLinks k) hdown
  exact answers_of (congrArg Host.Outcome.next (if_pos halive)) ⟨hstate, htoken, hothers, hfields⟩

/-- Settles O12: each event of joining a Lace, at the head and at a member, and the start of training. -/
theorem joiningALace : Obligations.JoiningALace := by
  unfold Obligations.JoiningALace
  exact ⟨helloSend_counts,
    fun s m u sc qc uid tag fs halive hh hp hm hne hids => helloReceive_waiting halive hh hm u sc qc uid tag fs hp hne hids,
    fun s m sc qc uid tag fs halive hh hp hm hne hids hsc hqc hepoch =>
      helloReceive_same halive hh hm sc qc uid tag fs hp hne hids hsc hqc hepoch,
    fun s m u sc qc uid tag fs halive hh hp hm hne hids hcrc hforce =>
      helloReceive_refuses halive hh hm u sc qc uid tag fs hp hne hids hcrc hforce,
    fun s m ph u sc qc uid tag fs halive hh hp hm => helloReceive_early halive hh hm ph u sc qc uid tag fs hp,
    pushEnd_ends, answerReceive_ends, epochOneTimeout_forms, linkTrainingStart_trains⟩

end Sys2Proof.Machine
end

section
/-! The words of the images: the BOOT window, the reads of a load, and a pushed pair (R77 to R83, R97, R98, R863). -/

namespace Sys2Proof.Machine

/-! ### Words stored in an image -/

/-- Words put into a sparse map at consecutive places. -/
theorem Sparse.find_insertAll {α : Type} (ws : List α) (i n a : Nat) (m : List (Nat × α)) :
    Sparse.find ((ws.zipIdx n).foldl (fun m w => Sparse.insert m (i + w.2) w.1) m) a =
      if i + n ≤ a ∧ a < i + n + ws.length then ws[a - (i + n)]? else Sparse.find m a := by
  induction ws generalizing n m with
  | nil => simp [show ¬ (i + n ≤ a ∧ a < i + n) by omega]
  | cons w ws ih =>
    rw [List.zipIdx_cons, List.foldl_cons, ih (n + 1), List.length_cons]
    by_cases ha : a = i + n
    · subst ha
      rw [if_neg (by omega), if_pos (by omega), Sparse.find_insert_self, Nat.sub_self]
      rfl
    · rw [Sparse.find_insert_ne _ _ _ _ ha]
      by_cases hin : i + n ≤ a ∧ a < i + n + (ws.length + 1)
      · rw [if_pos (by omega), if_pos hin, show a - (i + n) = (a - (i + (n + 1))) + 1 by omega, List.getElem?_cons_succ]
      · rw [if_neg (by omega), if_neg hin]

theorem img_setImg_self (s : State) (g : Img) (i : Nat) (ws : List Word) :
    (s.setImg g i ws).img g = ws.zipIdx.foldl (fun m w => Sparse.insert m (i + w.2) w.1) (s.img g) := by cases g <;> rfl

theorem img_setImg_ne (s : State) {g h : Img} (hne : h ≠ g) (i : Nat) (ws : List Word) : (s.setImg g i ws).img h = s.img h := by
  cases g <;> cases h
  · exact absurd rfl hne
  · rfl
  · rfl
  · exact absurd rfl hne

theorem imgWord_setImg (s : State) (g : Img) (i j : Nat) (ws : List Word) :
    (s.setImg g i ws).imgWord g j = if h : i ≤ j ∧ j < i + ws.length then ws[j - i]'(by omega) else s.imgWord g j := by
  rw [State.imgWord, Sparse.get, img_setImg_self, Sparse.find_insertAll]
  split
  · next h => rw [dif_pos (by simpa using h), List.getElem?_eq_getElem (by omega)]; rfl
  · next h => rw [dif_neg (by simpa using h)]; rfl

/-- A stored word reads back. -/
theorem imgWord_setImg_mem (s : State) (g : Img) (i k : Nat) (ws : List Word) (h : k < ws.length) : (s.setImg g i ws).imgWord g (i + k) = ws[k] := by
  rw [imgWord_setImg, dif_pos (by omega)]
  simp

theorem imgWord_setImg_ne (s : State) {g h : Img} (hne : h ≠ g) (i j : Nat) (ws : List Word) : (s.setImg g i ws).imgWord h j = s.imgWord h j := by
  rw [State.imgWord, img_setImg_ne s hne]; rfl

/-! ### The window (R81, R83) -/

theorem busReg_bootWinData (i : Fin 64) : BusReg (Reg.bootWinData i.val) [⟨0, 32, .wo, []⟩] := by
  constructor <;> (revert i; decide)

theorem bootWinData_acts (i : Fin 64) : Reg.bootWinData i.val ∉
    [Reg.topSoftReset, Reg.topBlockReset, Reg.topCfg, Reg.hifCtl, Reg.svcRosterSize, Reg.clkRefSel, Reg.spdoCtl, Reg.txPower] := by revert i; decide

theorem hostWrite_bootWinData {s : State} {p : Port} {i : Fin 64} (h : served s p (Reg.bootWinData i.val)) (w : Word) (t : WriteAt) :
    s.hostWrite p (Reg.bootWinData i.val) w t = s.windowWrite w := by
  have hacts := bootWinData_acts i
  simp only [List.mem_cons, List.not_mem_nil, or_false, not_or] at hacts
  have hlow : Reg.bootWinData 0 ≤ Reg.bootWinData i.val ∧ Reg.bootWinData i.val ≤ Reg.bootWinData 63 := by
    have := i.isLt; simp only [Reg.bootWinData]; omega
  rw [(busReg_bootWinData i).hostWrite h]
  simp [State.landWrite, hacts, hlow]

/-- A word for an image that TARGET names, within its length (R81). -/
theorem bootWindowWrite_stores (s : State) (p : Port) (i : Fin 64) (w : Word) (g : Img) (h : served s p (Reg.bootWinData i.val))
    (htarget : s.get Fld.bootWinAddrTarget = imgCode g) (hoff : 4 * s.get Fld.bootWinAddrOffset < imgMax g) :
    answers (.bootWindowWrite p i w) s fun t =>
      t.imgWord g (s.get Fld.bootWinAddrOffset) = w ∧ (∀ h j, h ≠ g ∨ j ≠ s.get Fld.bootWinAddrOffset → t.imgWord h j = s.imgWord h j) ∧
      t.get Fld.bootWinAddrOffset = (s.get Fld.bootWinAddrOffset + 1) % 2 ^ Fld.bootWinAddrOffset.width ∧
      fieldsOnly [Fld.bootWinAddrOffset] s t ∧ { t with regs := s.regs, boot := s.boot } = s := by
  set o := s.get Fld.bootWinAddrOffset with ho
  have hwin : s.windowWrite w = (s.setImg g o [w]).put Fld.bootWinAddrOffset (o + 1) := by
    have hdiv : 4 * o / 4 = o := Nat.mul_div_cancel_left o (by decide)
    unfold State.windowWrite
    cases g
    all_goals
      simp only [imgCode] at htarget
      simp only [htarget, ← ho, hdiv, Nat.reduceBEq, Bool.false_eq_true, Bool.or_self, if_false, if_true, Nat.not_le.mpr hoff, decide_false]
  have himg : ∀ h j, (s.windowWrite w).imgWord h j = (s.setImg g o [w]).imgWord h j := fun h j => by rw [hwin]; cases h <;> rfl
  have hregs : (s.setImg g o [w]).regs = s.regs := rfl
  refine answers_of (congrArg Host.Outcome.next (hostWrite_bootWinData h w _)) ⟨?_, fun k j hj => ?_, ?_, ?_, ?_⟩
  · rw [himg]; exact imgWord_setImg_mem s g o 0 [w] (by simp)
  · rw [himg]
    by_cases hk : k = g
    · subst hk
      have hjo : j ≠ o := hj.resolve_left (by simp)
      rw [imgWord_setImg, dif_neg (by simp only [List.length_singleton]; omega)]
    · exact imgWord_setImg_ne s hk o j [w]
  · rw [hwin]; exact State.get_put_self _ _ _ (by decide)
  · rw [hwin]; exact fieldsOnly_put (s.setImg g o [w]) _ _ (by simp)
  · rw [hwin]; rfl

/-- With no image named, or past its length, WIN_ERR alone (R83). -/
theorem bootWindowWrite_refuses (s : State) (p : Port) (i : Fin 64) (w : Word) (h : served s p (Reg.bootWinData i.val))
    (hbad : s.get Fld.bootWinAddrTarget = 0 ∨ s.get Fld.bootWinAddrTarget = 3 ∨ imgMax .svc ≤ 4 * s.get Fld.bootWinAddrOffset) :
    answers (.bootWindowWrite p i w) s fun t => t.is Fld.bootStatWinErr = true ∧ onlyFields [Fld.bootStatWinErr] s t := by
  have hmax : ∀ g, imgMax g ≤ imgMax .svc := fun g => by cases g <;> decide
  have hwin : s.windowWrite w = s.flag Fld.bootStatWinErr := by
    refine if_pos ?_
    rcases hbad with hbad | hbad | hbad
    · simp [hbad]
    · simp [hbad]
    · simp only [Bool.or_eq_true, decide_eq_true_eq]
      exact .inr (Nat.le_trans (hmax _) hbad)
  refine answers_of (congrArg Host.Outcome.next ((hostWrite_bootWinData h w _).trans hwin)) ⟨State.is_flag _ _ (by decide) (by decide), ?_⟩
  exact onlyFields_put s _ _ (by simp)

/-! ### The reads of a load (R79, R80, R863) -/

/-- With nothing left to issue and reads in flight, a load waits. -/
theorem fetchStep_waits {s : State} {f : Fetch} (hf : s.boot.fetch = some f) (htodo : f.todo = []) (hout : f.out ≠ []) : s.fetchStep = s := by
  obtain ⟨out, todo, failed⟩ := f
  subst htodo
  have hsame : (s.emits []).modBoot (fun b => { b with fetch := some ⟨out, [], failed⟩ }) = s := by
    rw [← hf]; rfl
  have hne : out.isEmpty = false := by simpa using hout
  cases failed <;> simpa [State.fetchStep, hf, hne] using hsame

/-- With nothing in flight and a read that failed, a load ends in HELD (R80). -/
theorem fetchStep_fails {s : State} {g : Img} (hf : s.boot.fetch = some ⟨[], [], some g⟩) : s.fetchStep = s.hold heldCrc (imgCode g) true false false := by
  have hsame : (s.emits []).modBoot (fun b => { b with fetch := some ⟨[], [], some g⟩ }) = s := by
    rw [← hf]; rfl
  have he : s.fetchStep = ((s.emits []).modBoot (fun b => { b with fetch := some ⟨[], [], some g⟩ })).hold heldCrc (imgCode g) true false false := by
    simp [State.fetchStep, hf]
  rw [he, hsame]

theorem imageReadComplete_stores (s : State) (f : Fetch) (i : Nat) (r : ReadReq) (ws : List Word) (halive : s.alive = true) (hf : s.boot.fetch = some f)
    (hr : f.out[i]? = some r) (hlen : 2 ≤ f.out.length) (htodo : f.todo = []) (hbytes : r.bytes = 4 * ws.length) :
    answers (.imageReadComplete i (some ws)) s fun t =>
      t.boot.fetch = some { f with out := f.out.eraseIdx i } ∧ (∀ k, (h : k < ws.length) → t.imgWord r.img (r.off / 4 + k) = ws[k]) ∧
      { t with boot := s.boot } = s := by
  have hi : i < f.out.length := (List.getElem?_eq_some_iff.mp hr).1
  have hrest : f.out.eraseIdx i ≠ [] := List.ne_nil_of_length_pos (by rw [List.length_eraseIdx_of_lt hi]; omega)
  set u := s.modBoot (fun b => { b with fetch := some { f with out := f.out.eraseIdx i } }) with hu
  set t := u.setImg r.img (r.off / 4) ws with ht
  have htake : ws.take ((r.bytes + 3) / 4) = ws := List.take_of_length_le (by omega)
  have hfetch : t.boot.fetch = some { f with out := f.out.eraseIdx i } := by rw [ht, State.setImg]; cases r.img <;> rfl
  have he : exec (.imageReadComplete i (some ws)) s = .next t := by
    change execImageReadComplete i (some ws) s = _
    rw [execImageReadComplete, live, done, if_pos halive]
    simp only [hf, hr, htake, Option.isNone_some, Bool.false_and, Bool.false_eq_true, if_false]
    exact congrArg Host.Outcome.next (fetchStep_waits hfetch htodo hrest)
  exact answers_of he ⟨hfetch, fun k hk => imgWord_setImg_mem u r.img _ k ws hk, rfl⟩

theorem imageReadComplete_fails (s : State) (r : ReadReq) (halive : s.alive = true) (hf : s.boot.fetch = some ⟨[r], [], none⟩) :
    answers (.imageReadComplete 0 none) s fun t =>
      t.phase = phHeld ∧ t.get Fld.bootMismatchCode = heldCrc ∧ t.get Fld.bootMismatchImage = imgCode r.img ∧ t.is Fld.bootMismatchFetch = true ∧
      t.is Fld.bootCtlStart = false ∧ t.boot.fetch = none := by
  set u := s.modBoot (fun b => { b with fetch := some ⟨[], [], some r.img⟩ }) with hu
  have he : exec (.imageReadComplete 0 none) s = .next (u.hold heldCrc (imgCode r.img) true false false) := by
    change execImageReadComplete 0 none s = _
    rw [execImageReadComplete, live, done, if_pos halive]
    simp only [hf, List.getElem?_cons_zero]
    exact congrArg Host.Outcome.next (fetchStep_fails (s := u) rfl)
  obtain ⟨hphase, hstart, hcode, himage, hfetch, hnone, -⟩ := hold_of_load u heldCrc (imgCode r.img) true (by decide) (by cases r.img <;> decide)
  exact answers_of he ⟨hphase, hcode, himage, hfetch, hstart, hnone⟩

/-! ### Bus Master Enable cleared (R77) -/

theorem busMasterClear_stops (s : State) (f : Fetch) (halive : s.alive = true) (hf : s.boot.fetch = some f) (hout : f.out ≠ [])
    (hfailed : f.failed = none) : answers .busMasterClear s fun t =>
      t.pcie = { s.pcie with busMaster := false } ∧ (∃ g, t.boot.fetch = some { f with todo := [], failed := some g }) ∧
      { t with pcie := s.pcie, boot := s.boot } = s := by
  obtain ⟨r, hr⟩ : ∃ r, (f.todo ++ f.out).head? = some r := Option.ne_none_iff_exists'.mp (by simp [List.head?_eq_none_iff, hout])
  set t := (s.modPcie (fun p => { p with busMaster := false })).modBoot (fun b => { b with fetch := some { f with todo := [], failed := some r.img } }) with ht
  have he : exec .busMasterClear s = .next t := by
    change execBusMasterClear s = _
    rw [execBusMasterClear, live, done, if_pos halive]
    simp only [show (s.modPcie (fun p => { p with busMaster := false })).boot.fetch = some f from hf, hfailed, hr, Option.map_some]
    exact congrArg Host.Outcome.next (fetchStep_waits (s := t) rfl rfl hout)
  exact answers_of he ⟨rfl, ⟨r.img, rfl⟩, rfl⟩

theorem busMasterClear_idle (s : State) (halive : s.alive = true) (hf : s.boot.fetch = none) :
    answers .busMasterClear s fun t => t = s.modPcie (fun p => { p with busMaster := false }) := by
  refine answers_of (show execBusMasterClear s = _ from ?_) rfl
  rw [execBusMasterClear, live, done, if_pos halive]
  simp only [show (s.modPcie (fun p => { p with busMaster := false })).boot.fetch = none from hf]

/-! ### A pushed pair (R97, R98) -/

/-- The check of a pair ends in RUNNING, or as HELD: what both give, the check gives. -/
theorem judgeImages_of {P : State → Prop} (s : State) (pushed force : Bool) (hrun : ∀ v : State, v.boot = s.boot → P (v.startPair pushed false))
    (hhold : ∀ (v : State) c i, v.boot = s.boot → P (v.hold c i false pushed force)) : P (s.judgeImages pushed force) := by
  have hcond : ∀ (v : State) (b : Bool) (o : Nat) (w : State → Word), v.boot = s.boot → (v.cond b (fun u => u.wr o (w u))).boot = s.boot := by
    intro v b o w hv
    unfold State.cond
    split
    · exact hv
    · exact hv
  unfold State.judgeImages
  dsimp only
  have hv := hcond _ (decide (4 ≤ s.checkImages.1)) Reg.bootSeqCrc (·.imgWord .seq 15) <|
    hcond _ (decide (3 ≤ s.checkImages.1)) Reg.bootSvcCrc (·.imgWord .svc 15) <|
    hcond _ (decide (2 ≤ s.checkImages.1)) Reg.bootSeqVer (·.imgWord .seq 2) <|
    hcond (s.setPhase phCheck) (decide (1 ≤ s.checkImages.1)) Reg.bootSvcVer (·.imgWord .svc 2) rfl
  split
  · exact hrun _ hv
  · exact hhold _ _ _ hv

/-- A pair that starts has the images that were checked. -/
theorem startPair_runs (s : State) (pushed untested : Bool) :
    (s.startPair pushed untested).boot.svcImg = s.boot.svcImg ∧ (s.startPair pushed untested).phase = phRun := by
  rw [startPair_eq]
  have hforms := (FormsOnly.refl (s.pairRuns pushed untested)).epochOne []
  obtain ⟨hregs, himg⟩ := pairRuns_told s pushed untested
  exact ⟨(congrArg (·.boot.svcImg) hforms.rest :).trans himg, (get_of_regsOnly hforms.regs Fld.bootStatPhase (by decide)).trans
    ((get_of_regsOnly hregs Fld.bootStatPhase (by decide)).trans (pairTold_reads s pushed).1)⟩

theorem hold_ends (s : State) (code image : Nat) (pushed force : Bool) :
    (s.hold code image false pushed force).boot.svcImg = s.boot.svcImg ∧
      ((s.hold code image false pushed force).phase = phWait ∨ (s.hold code image false pushed force).phase = phHeld ∨
        (s.hold code image false pushed force).phase = phRun) := by
  unfold State.hold
  dsimp only
  split
  · obtain ⟨himg, hphase⟩ := startPair_runs
      (((s.put Fld.bootMismatchCode code).put Fld.bootMismatchImage image).putB Fld.bootMismatchFetch false) pushed true
    exact ⟨himg, .inr (.inr hphase)⟩
  · refine ⟨rfl, ?_⟩
    split
    · exact .inl (State.get_put_self _ _ _ (by decide))
    · exact .inr (.inl (State.get_put_self _ _ _ (by decide)))

theorem pushReceive_replaces (s : State) (force : Bool) (svc seq : List Word) (i : Nat) (halive : s.alive = true) (hsrc : s.source = 2)
    (hp : s.phase = phWait) (h : i < svc.length) : answers (.pushReceive true force svc seq) s fun t =>
      t.imgWord .svc i = svc[i] ∧ (t.phase = phWait ∨ t.phase = phHeld ∨ t.phase = phRun) := by
  set u := ((s.wr Reg.bootMismatch (s.rd Reg.bootMismatch &&& 0xFFFEFFC0#32)).dropImages.setImg .svc 0 svc).setImg .seq 0 seq with hu
  have hword : Sparse.get (Config.stagedWord (imgCode .svc)) u.boot.svcImg i = svc[i] := by
    have hself := imgWord_setImg_mem (s.wr Reg.bootMismatch (s.rd Reg.bootMismatch &&& 0xFFFEFFC0#32)).dropImages .svc 0 i svc h
    rwa [Nat.zero_add] at hself
  refine answers_of (show execPushReceive true force svc seq s = .next (u.judgeImages true (force || u.is Fld.bootCtlForceUntested)) from ?_) ?_
  · rw [execPushReceive, live, done, if_pos halive]
    exact congrArg Host.Outcome.next (if_neg (by simp [hsrc, hp]))
  · refine judgeImages_of (P := fun t => t.imgWord .svc i = svc[i] ∧ (t.phase = phWait ∨ t.phase = phHeld ∨ t.phase = phRun)) u true _ (fun v hv => ?_) (fun v c k hv => ?_)
    · obtain ⟨himg, hphase⟩ := startPair_runs v true false
      exact ⟨by rw [← hword, ← hv, ← himg]; rfl, .inr (.inr hphase)⟩
    · obtain ⟨himg, hphase⟩ := hold_ends v c k true (force || u.is Fld.bootCtlForceUntested)
      exact ⟨by rw [← hword, ← hv, ← himg]; rfl, hphase⟩

theorem pushReceive_ignored (s : State) (force : Bool) (svc seq : List Word) (halive : s.alive = true) (h : s.phase ≠ phWait ∨ s.source ≠ 2) :
    answers (.pushReceive true force svc seq) s fun t => t = s := by
  refine answers_of (show execPushReceive true force svc seq s = .next s from ?_) rfl
  rw [execPushReceive, live, done, if_pos halive]
  exact congrArg Host.Outcome.next (if_pos (by rcases h with h | h <;> simp [h]))

/-- Settles O11: the window, the ends of a load's reads, Bus Master Enable cleared, and a push. -/
theorem imagesArriveWordByWord : Obligations.ImagesArriveWordByWord := by
  unfold Obligations.ImagesArriveWordByWord
  exact ⟨bootWindowWrite_stores, bootWindowWrite_refuses, imageReadComplete_stores, imageReadComplete_fails, busMasterClear_stops, busMasterClear_idle,
    pushReceive_replaces, pushReceive_ignored⟩

end Sys2Proof.Machine
end

section
/-! What losses of lock and of links leave: the clocks' own data, Lace time, and the registers of the reference and of the system ADPLL. -/

namespace Sys2Proof.Machine

/-- CLK_REF_SEL, CLK_SYS_CTL and CLK_SYS_STAT. -/
def clockRegs : List Nat := [Reg.clkRefSel, Reg.clkSysCtl, Reg.clkSysStat]

/-- The clocks' own data, the tile sequence number and the registers of the reference and of the system ADPLL are in `t` as in `s`. -/
structure ClocksStand (s t : State) : Prop where
  clk : t.clk = s.clk
  tile : t.tile = s.tile
  regs : ∀ o ∈ clockRegs, t.rd o = s.rd o

namespace ClocksStand

variable {a s : State}

theorem refl (s : State) : ClocksStand s s := ⟨rfl, rfl, fun _ _ => rfl⟩
theorem trans {t : State} (h : ClocksStand a s) (k : ClocksStand s t) : ClocksStand a t :=
  ⟨k.clk.trans h.clk, k.tile.trans h.tile, fun o ho => (k.regs o ho).trans (h.regs o ho)⟩
theorem ite {t : State} (c : Prop) [Decidable c] (h : ClocksStand a s) (k : ClocksStand a t) : ClocksStand a (if c then s else t) := by
  split
  · exact h
  · exact k
theorem cond (h : ClocksStand a s) (b : Bool) (f : State → State) (hf : ClocksStand a (f s)) : ClocksStand a (s.cond b f) := ite _ hf h
theorem forEach {α : Type} (h : ClocksStand a s) (l : List α) (f : State → α → State) (hf : ∀ t x, ClocksStand t (f t x)) : ClocksStand a (s.forEach l f) :=
  forEach_induct (P := ClocksStand a) (fun t x k => k.trans (hf t x)) l h
/-- A change of other data. -/
theorem same {t : State} (h : ClocksStand a s) (hc : t.clk = s.clk) (ht : t.tile = s.tile) (hr : t.regs = s.regs) : ClocksStand a t :=
  h.trans ⟨hc, ht, fun o _ => congrArg (Sparse.get resetWord · o) hr⟩
theorem put (h : ClocksStand a s) (f : FieldRef) (v : Nat) (hf : f.off ∉ clockRegs) : ClocksStand a (s.put f v) :=
  h.trans ⟨rfl, rfl, fun o ho => s.rd_put_ne f v o fun e => hf (e ▸ ho)⟩
theorem logs {t : State} (h : ClocksStand a s) (k : logsOnly s t) : ClocksStand a t :=
  h.trans ⟨congrArg (·.clk) k.1, congrArg (·.tile) k.1, fun o ho => k.2 o ((show ∀ o ∈ clockRegs, o ∉ logRegs by decide) o ho)⟩
theorem paths {t : State} (h : ClocksStand a s) (k : PathsOnly s t) : ClocksStand a t :=
  h.trans ⟨congrArg (·.clk) k.rest, congrArg (·.tile) k.rest,
    fun o ho => k.regs o ((show ∀ o ∈ clockRegs, o ∉ [Reg.radioState] by decide) o ho)⟩
theorem is_eq (h : ClocksStand a s) (g : FieldRef) (hg : g.off ∈ clockRegs) : s.is g = a.is g :=
  congrArg (fun w => getF w g.lo g.width != 0) (h.regs _ hg)

/-! ### A break of the epoch (R676 to R681) -/

theorem complete (h : ClocksStand a s) (d : Desc) (r : Result) : ClocksStand a (s.complete d r) := h.logs ((logsOnly.refl s).complete d r)
theorem finishOpt (h : ClocksStand a s) (d : Option Desc) (r : Result) : ClocksStand a (s.finishOpt d r) := h.logs ((logsOnly.refl s).finishOpt d r)
theorem memberRec (h : ClocksStand a s) (ev m : Nat) : ClocksStand a (s.memberRec ev m) := h.logs ((logsOnly.refl s).record _ _)

theorem setRun (h : ClocksStand a s) (xid : Nat) (r : Option ExchRun) : ClocksStand a (s.setRun xid r) := by
  have hexch : ClocksStand a (s.modExch (fun e => if xid == 0 then { e with run0 := r } else { e with run1 := r })) := h.same rfl rfl rfl
  refine hexch.put _ _ ?_
  split
  · decide
  · decide

theorem endExch (h : ClocksStand a s) (xid status : Nat) : ClocksStand a (s.endExch xid status) := by
  unfold State.endExch
  split
  · exact h
  · next r _ =>
    have hkept : ∀ f g, ClocksStand a (if xid == 0 then (s.setRun xid none).modExch f else (s.setRun xid none).modExch g) :=
      fun f g => .ite _ ((h.setRun xid none).same rfl rfl rfl) ((h.setRun xid none).same rfl rfl rfl)
    exact ((hkept _ _).finishOpt _ _).forEach _ _ fun t d => (refl t).complete d _

theorem endCollectives (h : ClocksStand a s) : ClocksStand a s.endCollectives :=
  ((h.endExch 0 stPeerLost).endExch 1 stPeerLost).forEach _ _ fun t _ => (refl t).complete _ _

theorem calLost (h : ClocksStand a s) : ClocksStand a s.calLost := by
  unfold State.calLost
  split
  · next r _ =>
    have hround : ClocksStand a ((s.modCal (fun c => { c with round := none, runs := [] })).put Fld.calStatPhase 0) :=
      (h.same (t := s.modCal _) rfl rfl rfl).put Fld.calStatPhase 0 (by decide)
    exact .ite _ h (hround.forEach _ _ fun t d => (refl t).complete d _)
  · exact h

theorem finishLost (h : ClocksStand a s) (d : Option Desc) : ClocksStand a (s.finishLost d) := by
  unfold State.finishLost
  split
  · exact h
  · next d =>
    refine .ite _ ?_ (.ite _ ?_ (.ite _ ?_ (h.complete d _)))
    · exact (h.same (t := s.draw) rfl rfl rfl).finishOpt _ _
    · exact (h.same (t := s.capCancel d) rfl rfl rfl).complete d _
    · exact (h.same (t := s.modHif _) rfl rfl rfl).complete d _

theorem loseMember (h : ClocksStand a s) (m : Nat) : ClocksStand a (s.loseMember m) := by
  unfold State.loseMember
  refine .ite _ h ?_
  extract_lets u v w gone x y
  have hu : ClocksStand a u := h.same rfl rfl rfl
  have hw : ClocksStand a w := ((hu.cond s.head _ (hu.memberRec _ _)).calLost).same rfl rfl rfl
  have hx : ClocksStand a x := hw.same rfl rfl rfl
  exact (hx.forEach gone _ fun t r => (refl t).finishLost r.desc).same rfl rfl rfl

theorem addBreak (h : ClocksStand a s) (b : Break) : ClocksStand a (s.addBreak b) := by
  unfold State.addBreak
  extract_lets first u v w
  have hu : ClocksStand a u := h.same rfl rfl rfl
  have hbroken : ClocksStand a (u.putB Fld.laceEpochBroken true) := hu.put _ _ (by decide)
  have hv : ClocksStand a v := .ite _ (hbroken.cond _ _ (hbroken.memberRec _ _)).endCollectives hu
  have hw : ClocksStand a w := .ite _ (hv.loseMember _) hv
  exact hw.forEach _ _ fun t m => (refl t).cond _ _ ((refl t).loseMember m)

theorem reportBreak (h : ClocksStand a s) (k : Fin 4) (kind : Nat) : ClocksStand a (s.reportBreak k kind) :=
  ((h.same (t := s.modLnk _) rfl rfl rfl).forEach allLinks _ fun t _ => (refl t).cond _ _ ((refl t).same rfl rfl rfl)).addBreak _

/-! ### A link that goes down (R641, R642) -/

theorem modLink (h : ClocksStand a s) (k : Fin 4) (f : LinkSt → LinkSt) : ClocksStand a (s.modLink k f) := h.same rfl rfl rfl

theorem lnkStat_mem (k : Fin 4) : Reg.lnkStat k.val ∉ clockRegs ∧ Reg.lnkPartner k.val ∉ clockRegs ∧ Reg.lnkLanes k.val ∉ clockRegs := by
  revert k; decide

theorem retree (h : ClocksStand a s) : ClocksStand a s.retree := by
  unfold State.retree
  refine .ite _ h ?_
  extract_lets best u v adv
  have hu : ClocksStand a u := by
    unfold u
    clear_value best
    rcases best with _ | ⟨k, b⟩
    · exact h.same rfl rfl rfl
    · exact h.same rfl rfl rfl
  have hv : ClocksStand a v := hu.forEach allLinks _ fun t k => (refl t).put _ _ (lnkStat_mem k).1
  exact .ite _ hv (hv.forEach allLinks _ fun t k => (refl t).cond _ _ ((refl t).same rfl rfl rfl))

theorem linkLost (h : ClocksStand a s) (k : Fin 4) (kind : Nat) : ClocksStand a (s.linkLost k kind) := by
  obtain ⟨hstat, hpartner, hlanes⟩ := lnkStat_mem k
  unfold State.linkLost
  extract_lets inEp n u v w x y z
  have hu : ClocksStand a u := (h.put (Fld.lnkStatState k.val) lkDown hstat).put (Fld.lnkStatDownEv k.val) _ hstat
  have hv : ClocksStand a v := (hu.put (Fld.lnkStatDownCnt k.val) _ hstat).put (Fld.lnkStatDiscard k.val) _ hstat
  have hw : ClocksStand a w := hv.put (Fld.lnkStatInEpoch k.val) _ hstat
  have hx : ClocksStand a x := hw.logs ((logsOnly.refl w).record _ _)
  have hy : ClocksStand a y := (hx.logs ((logsOnly.refl x).dropWaiting k)).modLink k _
  have hz : ClocksStand a z := .ite _ (hy.reportBreak k kind) hy
  exact ((hz.put (Fld.lnkPartnerValid k.val) _ hpartner).put (Fld.lnkLanesActive k.val) 0 hlanes).retree

/-! ### A synthesiser and the audio outputs that are gated (R321, R531) -/

theorem clockFault (h : ClocksStand a s) (inst kind : Nat) : ClocksStand a (s.clockFault inst kind) :=
  .ite _ (h.logs ((logsOnly.refl s).fltBit _ (by decide))) (h.logs ((logsOnly.refl s).fault ..))

theorem loStat_mem (n : Fin 5) : Reg.loStat n.val ∉ clockRegs := by revert n; decide

theorem setLoState (h : ClocksStand a s) (n : Fin 5) (v : Nat) : ClocksStand a (s.setLoState n v) := by
  have hpaths : ClocksStand s (s.cond (v != stRx) (·.forEach (s.takers n) (fun s p => s.modPath p (fun q => { q with rxTile := false })))) :=
    (refl s).cond _ _ ((refl s).forEach _ _ fun t _ => (refl t).same rfl rfl rfl)
  exact ((h.trans hpaths).put (Fld.loStatState n.val) v (loStat_mem n)).put ⟨Reg.radioState, 4 * n.val, 3⟩ v (show Reg.radioState ∉ clockRegs by decide)

theorem endBeacon (h : ClocksStand a s) (b : BeaconReq) (status : Nat) : ClocksStand a (s.endBeacon b status) :=
  ((h.same (t := s.modTag _) rfl rfl rfl).put Fld.tagDutyUsedUsed _ (by decide)).finishOpt _ _

theorem sendEnds (h : ClocksStand a s) (status : Nat) : ClocksStand a (s.sendEnds status) := by
  unfold State.sendEnds
  split
  · exact h
  · extract_lets u v
    have hu : ClocksStand a u := h.same rfl rfl rfl
    have hv : ClocksStand a v := hu.cond _ _ (hu.setLoState loT stSynth)
    split
    · exact .ite _ ((hv.same (t := v.modTag _) rfl rfl rfl).endBeacon _ status) hv
    · exact hv

theorem loLoss (h : ClocksStand a s) (n : Fin 5) (kind : Nat) : ClocksStand a (s.loLoss n kind) := by
  unfold State.loLoss
  refine .ite _ h ?_
  extract_lets u v w x
  have hu : ClocksStand a u := by
    refine (h.put _ _ (loStat_mem n)).put _ _ ?_
    split
    · exact loStat_mem n
    · exact loStat_mem n
  have hv : ClocksStand a v := hu.same rfl rfl rfl
  have hw : ClocksStand a w := hv.paths ((PathsOnly.refl v).gapAll _)
  have hx : ClocksStand a x := hw.cond _ _ (hw.sendEnds stTimeout)
  exact hx.clockFault n.val kind

theorem sapStat_mem (o : Fin 4) : Reg.sapStat o.val ∉ clockRegs := by revert o; decide

theorem audViews (h : ClocksStand a s) : ClocksStand a s.audViews :=
  (h.forEach _ _ fun t o => (((((refl t).put _ _ (sapStat_mem o)).put _ _ (sapStat_mem o)).put _ _ (sapStat_mem o)).put _ _ (sapStat_mem o)).put _ _
    (sapStat_mem o)).put Fld.audStartCtlWaiting _ (by decide)

theorem audGate (h : ClocksStand a s) (tell : Bool) : ClocksStand a (s.audGate tell) := by
  unfold State.audGate
  extract_lets on u v
  have hu : ClocksStand a u := (h.put Fld.clkAudStatLock _ (by decide)).same rfl rfl rfl
  have hv : ClocksStand a v := hu.forEach on _ fun t _ => (refl t).same rfl rfl rfl
  exact (hv.cond _ _ (hv.logs ((logsOnly.refl v).cond _ _ fun _ ht => ht.record _ _))).audViews

theorem audLoss (h : ClocksStand a s) (kind : Nat) : ClocksStand a (s.audLoss kind) := by
  unfold State.audLoss
  refine .ite _ h ?_
  extract_lets u
  have hu : ClocksStand a u := by
    refine ClocksStand.put (h.put _ _ ?_) Fld.clkAudStatGated _ (by decide)
    split
    · decide
    · decide
  exact (hu.audGate true).clockFault 6 kind

theorem misaligned (h : ClocksStand a s) : ClocksStand a s.misaligned := by
  unfold State.misaligned
  exact h.cond _ _ (h.put Fld.clkSyncStatAligned _ (by decide))

end ClocksStand

end Sys2Proof.Machine
end

section
/-! Synthesisers that lose lock: what the end of a send and a fault leave of their locks and of the power state. -/

namespace Sys2Proof.Machine

theorem loStat_ne_pwrState (n : Fin 5) : Reg.loStat n.val ≠ Reg.pwrState := by revert n; decide

/-! ### The power state through a completion and a fault -/

theorem pst_put_ne (s : State) (f : FieldRef) (v : Nat) (h : f.off ≠ Reg.pwrState ∨ 3 ≤ f.lo) : (s.put f v).pst = s.pst :=
  s.get_put_ne f Fld.pwrStateState v (h.imp Ne.symm .inr)

theorem RecordsOnly.pst_eq {s t : State} (h : RecordsOnly s t) : t.pst = s.pst := get_of_regsOnly h.regs Fld.pwrStateState (by decide)

theorem RecordsOnly.writeCpl {a s : State} (h : RecordsOnly a s) (ring : Fin 8) (c : CplWait) : RecordsOnly a (s.writeCpl ring c) :=
  .ite _ (h.put _ _ (RecordsOnly.mem_drops _)) (.ite _ (h.modRing _ _) (((h.takeEntry _).post _).ringEvent _))

theorem complete_pst (s : State) (d : Desc) (r : Result) : (s.complete d r).pst = s.pst := by
  have hdrop : RecordsOnly s (s.dropRegion d) := (RecordsOnly.refl s).modHif _
  unfold State.complete
  extract_lets u
  split
  · split
    · exact hdrop.pst_eq
    · next x _ =>
      have hended : RecordsOnly s ((u.modHif (fun h => { h with started := h.started.eraseP (fun t => t.d.same d) })).cancelEnded d x.committed) :=
        (hdrop.modHif _).modHif _
      dsimp only
      split
      · exact (pst_put_ne _ _ _ (.inl (by decide))).trans hended.pst_eq
      · split
        · exact (hended.put _ _ (RecordsOnly.mem_drops _)).pst_eq
        · exact (hended.writeCpl _ _).pst_eq
  · exact (hdrop.trans (((LinksOnly.refl u).modLnk _).sendMsg _).recordsOnly).pst_eq

/-- Waking may move LAST, and begins an exit; STATE moves later. -/
theorem wake_pst (s : State) (i : Nat) : (s.wake i).pst = s.pst := by
  unfold State.wake
  extract_lets row target source dwelt
  have hdwelt : dwelt.pst = s.pst := pst_put_ne s _ _ (.inl (by decide))
  split
  · rfl
  · split
    · split
      · next t _ _ =>
        have hready : ∀ u : State, (u.readyFrom t).pst = u.pst := fun u => by
          unfold State.readyFrom State.cond
          split
          · exact pst_put_ne u _ _ (.inl (by decide))
          · rfl
        exact (hready _).trans ((pst_put_ne _ _ _ (.inr (by decide))).trans hdwelt)
      · exact hdwelt
    · exact hdwelt

theorem fltBit_pst (s : State) (f : FieldRef) (hf : f.off ≠ Reg.pwrState) : (s.fltBit f).pst = s.pst :=
  (wake_pst _ 7).trans ((pst_put_ne _ _ _ (.inl (by decide))).trans (pst_put_ne s f _ (.inl hf)))

theorem fault_pst (s : State) (code cls inst i0 i1 : Nat) (f : FieldRef) (hcode : faultBit code = some f) (hf : f.off ≠ Reg.pwrState) :
    (s.fault code cls inst i0 i1).pst = s.pst := by
  have hbit := fltBit_pst s f hf
  unfold State.fault
  simp only [hcode]
  split
  · exact ((RecordsOnly.refl _).faultRec ..).pst_eq.trans hbit
  · exact hbit

theorem clockFault_pst (s : State) (inst kind : Nat) : (s.clockFault inst kind).pst = s.pst := by
  unfold State.clockFault
  split
  · exact fltBit_pst s _ (by decide)
  · exact fault_pst s _ _ _ _ _ Fld.fltStatClock rfl (by decide)

/-- A loss is told in FLT_STAT.CLOCK (R323, R801). -/
theorem clockFault_sets (s : State) (inst kind : Nat) : (s.clockFault inst kind).is Fld.fltStatClock = true := by
  unfold State.clockFault
  split
  · exact (fltBit_sets s Fld.fltStatClock rfl (by decide) (by decide)).2
  · exact (fault_sets s 0x02 0 inst kind 0 Fld.fltStatClock rfl rfl (by decide) (by decide)).1

theorem clockFault_logsOnly (s : State) (inst kind : Nat) : logsOnly s (s.clockFault inst kind) :=
  logsOnly.ite _ ((logsOnly.refl s).fltBit _ (by decide)) ((logsOnly.refl s).fault ..)

/-! ### The end of a send -/

/-- The synthesisers' own data, their status beside STATE, and the power state are in `t` as in `s`. -/
structure LocksStand (s t : State) : Prop where
  los : t.radio.los = s.radio.los
  gets : ∀ (n : Fin 5) (g : FieldRef), g.off = Reg.loStat n.val → 3 ≤ g.lo → t.get g = s.get g
  pst : t.pst = s.pst

namespace LocksStand

variable {a s : State}

theorem refl (s : State) : LocksStand s s := ⟨rfl, fun _ _ _ _ => rfl, rfl⟩
theorem trans {t : State} (h : LocksStand a s) (k : LocksStand s t) : LocksStand a t :=
  ⟨k.los.trans h.los, fun n g hg hlo => (k.gets n g hg hlo).trans (h.gets n g hg hlo), k.pst.trans h.pst⟩
theorem ite {t : State} (c : Prop) [Decidable c] (h : LocksStand a s) (k : LocksStand a t) : LocksStand a (if c then s else t) := by
  split
  · exact h
  · exact k
theorem cond (h : LocksStand a s) (b : Bool) (f : State → State) (hf : LocksStand a (f s)) : LocksStand a (s.cond b f) := ite _ hf h
theorem same {t : State} (h : LocksStand a s) (hl : t.radio.los = s.radio.los) (hr : t.regs = s.regs) : LocksStand a t :=
  h.trans ⟨hl, fun _ g _ _ => congrArg (fun l => getF (Sparse.get resetWord l g.off) g.lo g.width) hr,
    congrArg (fun l => getF (Sparse.get resetWord l Reg.pwrState) 0 3) hr⟩
theorem put (h : LocksStand a s) (f : FieldRef) (v : Nat) (hf : (∀ n : Fin 5, f.off ≠ Reg.loStat n.val) ∨ f.lo + f.width ≤ 3) (hp : f.off ≠ Reg.pwrState) :
    LocksStand a (s.put f v) :=
  h.trans ⟨rfl, fun n g hg hlo => s.get_put_ne f g v (hf.imp (fun hf e => hf n (e.symm.trans hg)) fun hf => .inl (by omega)),
    pst_put_ne s f v (.inl hp)⟩
theorem paths {t : State} (h : LocksStand a s) (k : PathsOnly s t) : LocksStand a t :=
  h.trans ⟨k.los, fun n g hg _ => k.get g (by rw [hg]; exact loStat_ne_radioState n), get_of_regsOnly k.regs Fld.pwrStateState (by decide)⟩
theorem complete (h : LocksStand a s) (d : Desc) (r : Result) : LocksStand a (s.complete d r) := by
  have hlogs := (logsOnly.refl s).complete d r
  exact h.trans ⟨congrArg (·.radio.los) hlogs.1, fun n g hg _ => get_of_regsOnly hlogs.2 g (by rw [hg]; exact loState_not_logged n), complete_pst s d r⟩

theorem setLoState (h : LocksStand a s) (n : Fin 5) (v : Nat) : LocksStand a (s.setLoState n v) := by
  obtain ⟨u, hu, he⟩ := setLoState_paths s n v
  rw [he]
  have hstate := (h.paths hu).put (Fld.loStatState n.val) v (.inr (Nat.le_refl 3)) (loStat_ne_pwrState n)
  exact hstate.put ⟨Reg.radioState, 4 * n.val, 3⟩ v (.inl fun m => (loStat_ne_radioState m).symm) (show Reg.radioState ≠ Reg.pwrState by decide)

theorem sendEnds (h : LocksStand a s) (status : Nat) : LocksStand a (s.sendEnds status) := by
  unfold State.sendEnds
  split
  · exact h
  · extract_lets u v
    have hu : LocksStand a u := h.same rfl rfl
    have hv : LocksStand a v := hu.cond _ _ (hu.setLoState loT stSynth)
    split
    · next b _ =>
      have hduty : LocksStand a (((v.modTag (fun t => { t with cur := none })).modTag
        (fun t => { t with reserved := t.reserved - b.left * b.onAir })).putDuty) :=
        (hv.same (t := (v.modTag _).modTag _) rfl rfl).put Fld.tagDutyUsedUsed _ (.inl (by decide)) (by decide)
      refine .ite _ ?_ hv
      unfold State.endBeacon State.finishOpt
      dsimp only
      split
      · exact hduty.complete _ _
      · exact hduty
    · exact hv

end LocksStand

/-! ### A synthesiser that loses lock or reference (R321, R323) -/

/-- The lock is lost: LOCK clears, the flag of its kind is set, the outputs are gated, and the paths carry GAP. -/
def State.loUnlocked (s : State) (n : Fin 5) (told : FieldRef) (relock : Bool) : State :=
  let s := ((s.putB (Fld.loStatLock n.val) false).flag told).modLo n (fun l => { l with gated := true, relock := relock })
  s.gapAll (s.takers n)

theorem loUnlocked_paths (s : State) (n : Fin 5) (told : FieldRef) (relock : Bool) :
    PathsOnly (((s.putB (Fld.loStatLock n.val) false).flag told).modLo n (fun l => { l with gated := true, relock := relock }))
      (s.loUnlocked n told relock) := (PathsOnly.refl _).gapAll _

theorem loUnlocked_pst (s : State) (n : Fin 5) (told : FieldRef) (relock : Bool) (ht : told.off = Reg.loStat n.val) :
    (s.loUnlocked n told relock).pst = s.pst :=
  (get_of_regsOnly (loUnlocked_paths s n told relock).regs Fld.pwrStateState (by decide)).trans
    ((pst_put_ne _ told _ (.inl (by rw [ht]; exact loStat_ne_pwrState n))).trans (pst_put_ne s (Fld.loStatLock n.val) _ (.inl (loStat_ne_pwrState n))))

theorem get_modLo (s : State) (n : Fin 5) (f : LoSt → LoSt) (g : FieldRef) : (s.modLo n f).get g = s.get g := rfl

theorem loUnlocked_lo (s : State) (n : Fin 5) (relock : Bool) :
    let t := s.loUnlocked n (Fld.loStatLol n.val) relock
    t.get (Fld.loStatLock n.val) = 0 ∧ t.get (Fld.loStatLol n.val) = 1 ∧ t.radio.los[n].gated = true := by
  have hpaths := loUnlocked_paths s n (Fld.loStatLol n.val) relock
  set u := s.putB (Fld.loStatLock n.val) false with hu
  refine ⟨?_, ?_, ?_⟩
  · rw [hpaths.get (Fld.loStatLock n.val) (loStat_ne_radioState n), get_modLo]
    refine (get_put_bits u (Fld.loStatLol n.val) (Fld.loStatLock n.val) _ (.inr (by simp))).trans ?_
    rw [hu, State.putB_eq, State.get_put_self s (Fld.loStatLock n.val) _ (by simp)]
    rfl
  · rw [hpaths.get (Fld.loStatLol n.val) (loStat_ne_radioState n), get_modLo]
    refine (State.get_put_self u (Fld.loStatLol n.val) _ (by simp)).trans ?_
    simp
  · rw [hpaths.los]
    exact congrArg LoSt.gated (modLo_self _ n _)

/-- A send on the air that the transmit synthesiser carried ends. -/
def State.loSendEnds (s : State) (n : Fin 5) : State := s.cond (n == loT) (·.sendEnds stTimeout)

theorem loSendEnds_locks (s : State) (n : Fin 5) : LocksStand s (s.loSendEnds n) := by
  unfold State.loSendEnds
  exact (LocksStand.refl s).cond _ _ ((LocksStand.refl s).sendEnds stTimeout)

theorem loLoss_eq {s : State} {n : Fin 5} (hst : stSynth ≤ s.loState n) (hlock : s.is (Fld.loStatLock n.val) = true) (kind : Nat) :
    s.loLoss n kind = ((s.loUnlocked n (if kind == 0 then Fld.loStatLol n.val else Fld.loStatLor n.val) (kind == 0)).loSendEnds n).clockFault n.val kind :=
  if_neg (by simp [hlock, Nat.not_lt.mpr hst])

theorem loLoss_pst (s : State) (n : Fin 5) (kind : Nat) : (s.loLoss n kind).pst = s.pst := by
  by_cases hstands : s.loState n < stSynth ∨ s.is (Fld.loStatLock n.val) = false
  · have he : s.loLoss n kind = s := if_pos (by simpa using hstands)
    rw [he]
  · simp only [not_or, not_lt, Bool.not_eq_false] at hstands
    rw [loLoss_eq hstands.1 hstands.2, clockFault_pst]
    refine (loSendEnds_locks _ n).pst.trans (loUnlocked_pst s n _ _ ?_)
    split
    · rfl
    · rfl

/-- A synthesiser that loses lock is out of lock and gated, and LOL and FLT_STAT.CLOCK tell of it. -/
theorem loLoss_of_lock {s : State} {n : Fin 5} (hst : stSynth ≤ s.loState n) (hlock : s.is (Fld.loStatLock n.val) = true) :
    let t := s.loLoss n 0
    t.is (Fld.loStatLock n.val) = false ∧ t.is (Fld.loStatLol n.val) = true ∧ t.radio.los[n].gated = true ∧ t.is Fld.fltStatClock = true := by
  obtain ⟨hunlocked, hlol, hgated⟩ := loUnlocked_lo s n true
  have he : s.loLoss n 0 = ((s.loUnlocked n (Fld.loStatLol n.val) true).loSendEnds n).clockFault n.val 0 := loLoss_eq hst hlock 0
  set u := (s.loUnlocked n (Fld.loStatLol n.val) true).loSendEnds n with hu
  have hlocks : LocksStand (s.loUnlocked n (Fld.loStatLol n.val) true) u := loSendEnds_locks _ n
  have hfault := clockFault_logsOnly u n.val 0
  have hget : ∀ g : FieldRef, g.off = Reg.loStat n.val → 3 ≤ g.lo → (u.clockFault n.val 0).get g = (s.loUnlocked n (Fld.loStatLol n.val) true).get g :=
    fun g hg hlo => (get_of_regsOnly hfault.2 g (by rw [hg]; exact loState_not_logged n)).trans (hlocks.gets n g hg hlo)
  rw [he]
  refine ⟨?_, ?_, ?_, clockFault_sets u _ _⟩
  · rw [State.is, hget (Fld.loStatLock n.val) rfl (by simp), hunlocked]; rfl
  · rw [State.is, hget (Fld.loStatLol n.val) rfl (by simp), hlol]; rfl
  · rw [hfault.radio_eq, hlocks.los]
    exact hgated

end Sys2Proof.Machine
end

section
/-! The reference and the ADPLLs: detection, selection, locks and losses (R71, R315 to R325, R339). -/

namespace Sys2Proof.Machine

theorem exec_live {f : State → State} {s : State} (h : s.alive = true) : live s f = .next (f s) := congrArg Host.Outcome.next (if_pos h)

/-! ### Detection (R71, R315, R317) -/

theorem refDetectWindowEnd_selects (s : State) (halive : s.alive = true) (hp : s.phase = phROM) (hlock : s.is Fld.clkSysStatLock = false) :
    answers .refDetectWindowEnd s fun t =>
      t.is Fld.clkRefSelSel = s.is Fld.clkRefSelRefDet ∧
      t.is Fld.clkRefSelXtalRun = (s.is Fld.clkRefSelXtalRun && !(s.is Fld.clkRefSelRefDet && !s.is Fld.clkSysCtlXtalKeep)) ∧
      onlyFields [Fld.clkRefSelSel, Fld.clkRefSelXtalRun] s t := by
  set u := s.putB Fld.clkRefSelSel (s.is Fld.clkRefSelRefDet) with hu
  have hsel : u.is Fld.clkRefSelSel = s.is Fld.clkRefSelRefDet := State.is_putB _ _ _ (by decide) rfl
  have honly : onlyFields [Fld.clkRefSelSel, Fld.clkRefSelXtalRun] s u := onlyFields_put s Fld.clkRefSelSel _ (by simp)
  have hrun : u.is Fld.clkRefSelXtalRun = s.is Fld.clkRefSelXtalRun := congrArg (· != 0) (State.get_put_ne _ _ _ _ (by decide))
  have he : exec .refDetectWindowEnd s = .next (u.cond (s.is Fld.clkRefSelRefDet && !s.is Fld.clkSysCtlXtalKeep) (·.putB Fld.clkRefSelXtalRun false)) := by
    change execRefDetectWindowEnd s = _
    rw [execRefDetectWindowEnd, exec_live halive, State.cond, hp, hlock]
    rfl
  refine answers_of he ?_
  unfold State.cond
  split
  · next h =>
    refine ⟨(congrArg (· != 0) (State.get_put_ne u _ _ _ (by decide))).trans hsel, ?_, onlyFields_put' Fld.clkRefSelXtalRun _ (by simp) honly⟩
    rw [State.is_putB u _ _ (by decide) rfl, h, Bool.not_true, Bool.and_false]
  · next h => exact ⟨hsel, by rw [hrun, Bool.eq_false_of_not_eq_true h, Bool.not_false, Bool.and_true], honly⟩

theorem refclkDetected_sets (s : State) (halive : s.alive = true) (hpst : s.pst < 3) :
    answers .refclkDetected s fun t => t.is Fld.clkRefSelRefDet = true ∧ onlyFields [Fld.clkRefSelRefDet] s t := by
  have he : exec .refclkDetected s = .next (s.putB Fld.clkRefSelRefDet true) := by
    change execRefclkDetected s = _
    rw [execRefclkDetected, exec_live halive, State.cond, if_pos (decide_eq_true hpst)]
  exact answers_of he ⟨State.is_putB _ _ _ (by decide) rfl, onlyFields_put s _ _ (by simp)⟩

theorem refDetFall_clears (s : State) (halive : s.alive = true) :
    answers .refDetFall s fun t => t.is Fld.clkRefSelRefDet = false ∧ onlyFields [Fld.clkRefSelRefDet] s t :=
  answers_of (show execRefDetFall s = _ from exec_live halive) ⟨State.is_putB _ _ _ (by decide) rfl, onlyFields_put s _ _ (by simp)⟩

theorem crystalStarted_runs (s : State) (halive : s.alive = true) (hpst : s.pst < 3)
    (hkept : s.is Fld.clkRefSelSel = false ∨ s.is Fld.clkSysCtlXtalKeep = true) :
    answers .crystalStarted s fun t => t.is Fld.clkRefSelXtalRun = true ∧ onlyFields [Fld.clkRefSelXtalRun] s t := by
  have hon : (decide (s.pst < 3) && (!s.is Fld.clkRefSelSel || s.is Fld.clkSysCtlXtalKeep)) = true := by rcases hkept with h | h <;> simp [h, hpst]
  have he : exec .crystalStarted s = .next (s.putB Fld.clkRefSelXtalRun true) := by
    change execCrystalStarted s = _
    rw [execCrystalStarted, exec_live halive, State.cond, if_pos hon]
  exact answers_of he ⟨State.is_putB _ _ _ (by decide) rfl, onlyFields_put s _ _ (by simp)⟩

/-! ### Locks (R69, R320, R322, R339) -/

/-- The first internal SYNC: tile 0 and Lace time 0 (R339). -/
theorem internalSync_first {s : State} (h : s.clk.synced = false) :
    s.internalSync.clk.synced = true ∧ s.internalSync.tile = 0 ∧ s.internalSync.clk.audFrame = 0 ∧ regsOnly [Reg.clkSyncStat] s s.internalSync := by
  have hcount := regsOnly_put (offs := [Reg.clkSyncStat]) s Fld.clkSyncStatCount (s.get Fld.clkSyncStatCount + 1) (by simp)
  unfold State.internalSync State.cond
  simp only [h, Bool.not_false, if_true]
  split
  · exact ⟨rfl, rfl, rfl, regsOnly_trans hcount (regsOnly_put _ Fld.clkSyncStatAligned _ (by simp))⟩
  · exact ⟨rfl, rfl, rfl, hcount⟩

/-- With no START that waits, WAIT_IMAGES loads nothing. -/
theorem waitImages_idle {s : State} (h : s.is Fld.bootCtlStart = false) :
    s.waitImages.phase = phWait ∧ { s.waitImages with regs := s.regs, boot := s.boot, pwr := s.pwr } = s ∧
      s.waitImages.boot.svcImg = s.boot.svcImg ∧ s.waitImages.boot.seqImg = s.boot.seqImg ∧ regsOnly [Reg.bootStat, Reg.pwrWakeSrc] s s.waitImages := by
  set u := (((s.setPhase phWait).modBoot (fun b => { b with helloDue := !s.head && !b.refused })).orF Fld.pwrWakeSrcSrc s.pwr.d4Wake).modPwr
    (fun p => { p with d4Wake := 0 }) with hu
  have hregs : regsOnly [Reg.bootStat, Reg.pwrWakeSrc] s u :=
    regsOnly_trans (regsOnly_put s Fld.bootStatPhase phWait (by simp)) (regsOnly_put (s.setPhase phWait) Fld.pwrWakeSrcSrc _ (by simp))
  have hstart : u.is Fld.bootCtlStart = false := (congrArg (· != 0) (get_of_regsOnly hregs Fld.bootCtlStart (by decide))).trans h
  have he : s.waitImages = u := by
    change u.cond (u.is Fld.bootCtlStart) (·.startLoad) = u
    rw [hstart]; rfl
  rw [he]
  exact ⟨(State.get_put_ne _ _ _ _ (by decide)).trans (State.get_put_self s Fld.bootStatPhase phWait (by decide)), rfl, rfl, rfl, hregs⟩

theorem adpllLock_first (s : State) (cycle : Nat) (halive : s.alive = true) (href : s.refThere = true) (hpst : s.pst < 2)
    (hlock : s.is Fld.clkSysStatLock = false) (hsync : s.clk.synced = false) (hstart : s.is Fld.bootCtlStart = false) :
    answers (.adpllLock 5 cycle) s fun t =>
      t.is Fld.clkSysStatLock = true ∧ t.is Fld.clkSysStatGated = false ∧ t.clk.synced = true ∧ t.tile = 0 ∧ t.clk.audFrame = 0 ∧ t.phase = phWait := by
  set u := (s.putB Fld.clkSysStatLock true).putB Fld.clkSysStatGated false with hu
  have he : exec (.adpllLock 5 cycle) s = .next u.internalSync.waitImages := by
    change execAdpllLock 5 cycle s = _
    rw [execAdpllLock, exec_live halive, if_neg (by simp [href, hpst]), if_pos (by decide), State.cond, hlock, Bool.not_false, if_pos rfl, State.sysLock]
    simp only [hsync, Bool.not_false, if_true, Bool.true_or]
    rfl
  obtain ⟨hsynced, htile, hframe, hregs⟩ := internalSync_first (s := u) hsync
  have hstart' : u.internalSync.is Fld.bootCtlStart = false :=
    (congrArg (· != 0) ((get_of_regsOnly hregs Fld.bootCtlStart (by decide)).trans
      ((State.get_put_ne _ _ _ _ (by decide)).trans (State.get_put_ne s _ _ _ (by decide))))).trans hstart
  obtain ⟨hphase, hrest, -, -, hregs'⟩ := waitImages_idle hstart'
  have hclk : u.internalSync.waitImages.clk = u.internalSync.clk := (congrArg State.clk hrest :)
  have htile' : u.internalSync.waitImages.tile = u.internalSync.tile := (congrArg State.tile hrest :)
  have hstat : u.internalSync.waitImages.rd Reg.clkSysStat = u.rd Reg.clkSysStat := (hregs' _ (by decide)).trans (hregs _ (by decide))
  refine answers_of he ⟨?_, ?_, (congrArg (·.synced) hclk).trans hsynced, htile'.trans htile, (congrArg (·.audFrame) hclk).trans hframe, hphase⟩
  · rw [State.is, State.get, hstat]
    exact (congrArg (· != 0) (State.get_put_ne _ Fld.clkSysStatGated Fld.clkSysStatLock _ (by decide))).trans (State.is_putB s _ _ (by decide) rfl)
  · rw [State.is, State.get, hstat]
    exact State.is_putB _ Fld.clkSysStatGated _ (by decide) rfl

/-- The unit of a synthesiser. -/
theorem loUnit (n : Fin 5) : ((Fin.ofNat 7 n.val).val == 5) = false ∧ ((Fin.ofNat 7 n.val).val == 6) = false ∧
    Fin.ofNat 5 (Fin.ofNat 7 n.val).val = n := by revert n; decide

theorem adpllLock_ungates (s : State) (cycle : Nat) (n : Fin 5) (halive : s.alive = true) (href : s.refThere = true) (hpst : s.pst < 2)
    (hfree : s.free? .radio = true) (hgated : s.radio.los[n].gated = true) (hrelock : s.radio.los[n].relock = false) :
    answers (.adpllLock (Fin.ofNat 7 n.val) cycle) s fun t => t.radio.los[n].gated = false ∧ t.is (Fld.loStatLock n.val) = true := by
  obtain ⟨h5, h6, hn⟩ := loUnit n
  set u := (s.modLo n (fun l => { l with gated := false, relock := false })).putB (Fld.loStatLock n.val) true with hu
  have he : exec (.adpllLock (Fin.ofNat 7 n.val) cycle) s =
      .next (u.cond (u.loState n == stRx) (fun s => s.forEach (s.takers n) (fun s p => s.gapEnd p (s.cleanTile cycle)))) := by
    change execAdpllLock (Fin.ofNat 7 n.val) cycle s = _
    rw [execAdpllLock, exec_live halive, if_neg (by simp [href, hpst]), h5, if_neg Bool.false_ne_true, h6, if_neg Bool.false_ne_true, hn,
      State.cond, if_pos hfree, State.loRelock]
    dsimp only
    rw [hgated, if_neg (by simp), hrelock]
    rfl
  have hpaths : PathsOnly u (u.cond (u.loState n == stRx) (fun s => s.forEach (s.takers n) (fun s p => s.gapEnd p (s.cleanTile cycle)))) := by
    unfold State.cond
    split
    · exact (PathsOnly.refl u).forEach _ _ fun t p => (PathsOnly.refl t).gapEnd p _
    · exact PathsOnly.refl u
  refine answers_of he ⟨?_, ?_⟩
  · rw [hpaths.los]
    exact congrArg LoSt.gated (modLo_self s n _)
  · rw [State.is, hpaths.get (Fld.loStatLock n.val) (loStat_ne_radioState n)]
    exact State.is_putB _ (Fld.loStatLock n.val) true (by simp) rfl

theorem audViews_clkAudStat (s : State) : s.audViews.rd Reg.clkAudStat = s.rd Reg.clkAudStat := by
  have hstat : ∀ o : Fin 4, Reg.clkAudStat ≠ Reg.sapStat o.val := by decide
  refine (State.rd_put_ne _ _ _ _ (by decide)).trans ?_
  refine forEach_induct (P := fun t => t.rd Reg.clkAudStat = s.rd Reg.clkAudStat) (fun t o h => ?_) [0, 1, 2] rfl
  exact (State.rd_put_ne _ _ _ _ (hstat o)).trans <| (State.rd_put_ne _ _ _ _ (hstat o)).trans <| (State.rd_put_ne _ _ _ _ (hstat o)).trans <|
    (State.rd_put_ne _ _ _ _ (hstat o)).trans <| (State.rd_put_ne _ _ _ _ (hstat o)).trans h

theorem adpllLock_audio (s : State) (cycle : Nat) (halive : s.alive = true) (href : s.refThere = true) (hpst : s.pst < 2) (hsrc : s.audSrc ≠ 0)
    (hlock : s.is Fld.clkAudStatLock = false) : answers (.adpllLock 6 cycle) s fun t =>
      t.is Fld.clkAudStatLock = true ∧ t.is Fld.clkAudStatGated = false ∧ t.aud.gated = false := by
  set u := ((s.putB Fld.clkAudStatLock true).putB Fld.clkAudStatGated false).modAud (fun a => { a with gated := false, lockFor := some 0, block := 192 }) with hu
  have he : exec (.adpllLock 6 cycle) s = .next u.audViews := by
    change execAdpllLock 6 cycle s = _
    rw [execAdpllLock, exec_live halive, if_neg (by simp [href, hpst]), if_neg (by decide), if_pos (by decide), State.cond, hlock,
      if_pos (by simp [hsrc])]
    rfl
  refine answers_of he ⟨?_, ?_, congrArg (·.gated) (audViews_aud u)⟩
  · rw [State.is, State.get, audViews_clkAudStat]
    exact (congrArg (· != 0) (State.get_put_ne _ Fld.clkAudStatGated Fld.clkAudStatLock _ (by decide))).trans (State.is_putB s _ _ (by decide) rfl)
  · rw [State.is, State.get, audViews_clkAudStat]
    exact State.is_putB _ Fld.clkAudStatGated _ (by decide) rfl

/-! ### Losses (R321, R323, R325) -/

/-- CLK_SYS_STAT as a loss of kind `kind` leaves it. -/
def State.sysUnlocked (s : State) (kind : Nat) : State :=
  (((s.putB Fld.clkSysStatLock false).putB Fld.clkSysStatGated true).flag (if kind == 0 then Fld.clkSysStatLol else Fld.clkSysStatLor)).incSat
    Fld.clkSysStatLossCnt

/-- What a loss does beside CLK_SYS_STAT, before it is told as a fault. -/
def State.clocksGated (s : State) : State :=
  ((s.misaligned.selfRefresh true).gapAll allPaths).forEach allLinks (fun s k =>
    if s.trained k || s.lnk.links[k].retraining then s.linkLost k 0
    else s.cond (s.linkState k == lkTraining) (·.put (Fld.lnkStatState k.val) lkDown))

theorem sysLoss_eq {s : State} (hlock : s.is Fld.clkSysStatLock = true) (hpst : s.pst < 2) (kind : Nat) :
    s.sysLoss kind = (s.sysUnlocked kind).clocksGated.clockFault 5 kind :=
  if_neg (by simp [hlock, hpst])

theorem clocksGated_stand (s : State) : ClocksStand s s.clocksGated := by
  have hself := (ClocksStand.refl s).misaligned.put Fld.refreshStatSelf (b2n true) (by decide)
  refine (hself.paths ((PathsOnly.refl _).gapAll allPaths)).forEach _ _ fun t k => ?_
  exact .ite _ ((ClocksStand.refl t).linkLost k 0) ((ClocksStand.refl t).cond _ _ ((ClocksStand.refl t).put _ _ (ClocksStand.lnkStat_mem k).1))

theorem sysLoss_stand (s : State) (kind : Nat) (hlock : s.is Fld.clkSysStatLock = true) (hpst : s.pst < 2) :
    ClocksStand (s.sysUnlocked kind) (s.sysLoss kind) := by
  rw [sysLoss_eq hlock hpst]
  exact (clocksGated_stand _).clockFault 5 kind

theorem sysUnlocked_lock (s : State) (kind : Nat) : (s.sysUnlocked kind).is Fld.clkSysStatLock = false := by
  have hcount : (s.sysUnlocked kind).get Fld.clkSysStatLock = (((s.putB Fld.clkSysStatLock false).putB Fld.clkSysStatGated true).flag
    (if kind == 0 then Fld.clkSysStatLol else Fld.clkSysStatLor)).get Fld.clkSysStatLock := State.get_put_ne _ _ _ _ (by decide)
  have hflag : ((s.putB Fld.clkSysStatLock false).putB Fld.clkSysStatGated true).get Fld.clkSysStatLock = 0 :=
    (State.get_put_ne _ _ _ _ (by decide)).trans (State.get_put_self s _ _ (by decide))
  rw [State.is, hcount, State.flag_eq]
  split
  · rw [State.get_put_ne _ _ _ _ (by decide), hflag]; rfl
  · rw [State.get_put_ne _ _ _ _ (by decide), hflag]; rfl

/-- A loss that the system ADPLL meets ends out of lock, whether it was locked before or not. -/
theorem sysLoss_lock (s : State) (kind : Nat) (hpst : s.pst < 2) : (s.sysLoss kind).is Fld.clkSysStatLock = false := by
  by_cases hlock : s.is Fld.clkSysStatLock = true
  · rw [(sysLoss_stand s kind hlock hpst).is_eq _ (by decide), sysUnlocked_lock]
  · rw [State.sysLoss, if_pos (by simp [hlock])]
    exact Bool.eq_false_of_not_eq_true hlock

/-- A loss leaves Lace time, the clocks' own data and the reference that is selected. -/
theorem sysLoss_keeps (s : State) (kind : Nat) :
    (s.sysLoss kind).clk = s.clk ∧ (s.sysLoss kind).tile = s.tile ∧ (s.sysLoss kind).rd Reg.clkRefSel = s.rd Reg.clkRefSel := by
  by_cases hlock : s.is Fld.clkSysStatLock = true ∧ s.pst < 2
  · have h := sysLoss_stand s kind hlock.1 hlock.2
    refine ⟨h.clk, h.tile, (h.regs _ (by decide)).trans ?_⟩
    have hflag : ∀ (u : State) (b : Bool), (u.flag (if b then Fld.clkSysStatLol else Fld.clkSysStatLor)).rd Reg.clkRefSel = u.rd Reg.clkRefSel :=
      fun u b => State.rd_put_ne _ _ _ _ (by cases b <;> decide)
    exact (State.rd_put_ne _ _ _ _ (by decide)).trans ((hflag _ _).trans
      ((State.rd_put_ne _ _ _ _ (by decide)).trans (State.rd_put_ne _ _ _ _ (by decide))))
  · rw [State.sysLoss, if_pos (by simp only [Bool.or_eq_true, Bool.not_eq_true', decide_eq_true_eq]; by_cases h : s.is Fld.clkSysStatLock = true
                                  · exact .inr (Nat.le_of_not_lt fun hp => hlock ⟨h, hp⟩)
                                  · exact .inl (Bool.eq_false_of_not_eq_true h))]
    exact ⟨rfl, rfl, rfl⟩

theorem adpllLossOfLock_system (s : State) (halive : s.alive = true) (hlock : s.is Fld.clkSysStatLock = true) (hpst : s.pst < 2) :
    answers (.adpllLossOfLock 5) s fun t =>
      t.is Fld.clkSysStatLock = false ∧ t.is Fld.clkSysStatGated = true ∧ t.is Fld.clkSysStatLol = true ∧ t.is Fld.fltStatClock = true := by
  have he : exec (.adpllLossOfLock 5) s = .next (s.sysLoss 0) := by
    change execAdpllLossOfLock 5 s = _
    rw [execAdpllLossOfLock, exec_live halive, if_pos (by decide)]
  have hstand := sysLoss_stand s 0 hlock hpst
  have hcount : ∀ g : FieldRef, Fld.clkSysStatLossCnt.lo + 8 ≤ g.lo ∨ g.lo + g.width ≤ Fld.clkSysStatLossCnt.lo →
      (s.sysUnlocked 0).get g = (((s.putB Fld.clkSysStatLock false).putB Fld.clkSysStatGated true).flag Fld.clkSysStatLol).get g :=
    fun g hg => State.get_put_ne _ Fld.clkSysStatLossCnt g _ (.inr hg)
  refine answers_of he ⟨sysLoss_lock s 0 hpst, ?_, ?_, ?_⟩
  · rw [hstand.is_eq _ (by decide), State.is, hcount _ (by decide)]
    exact (congrArg (· != 0) (State.get_put_ne _ _ _ _ (by decide))).trans (State.is_putB _ _ _ (by decide) rfl)
  · rw [hstand.is_eq _ (by decide), State.is, hcount _ (by decide)]
    exact State.is_flag _ _ (by decide) (by decide)
  · rw [sysLoss_eq hlock hpst]
    exact clockFault_sets _ _ _

theorem adpllLossOfLock_synthesiser (s : State) (n : Fin 5) (halive : s.alive = true) (hfree : s.free? .radio = true) (hst : 2 ≤ s.loState n)
    (hlock : s.is (Fld.loStatLock n.val) = true) : answers (.adpllLossOfLock (Fin.ofNat 7 n.val)) s fun t =>
      t.is (Fld.loStatLock n.val) = false ∧ t.is (Fld.loStatLol n.val) = true ∧ t.radio.los[n].gated = true ∧ t.is Fld.fltStatClock = true := by
  obtain ⟨h5, h6, hn⟩ := loUnit n
  have he : exec (.adpllLossOfLock (Fin.ofNat 7 n.val)) s = .next (s.loLoss n 0) := by
    change execAdpllLossOfLock (Fin.ofNat 7 n.val) s = _
    rw [execAdpllLossOfLock, exec_live halive, h5, if_neg Bool.false_ne_true, h6, if_neg Bool.false_ne_true, hn, State.cond, if_pos hfree]
  exact answers_of he (loLoss_of_lock hst hlock)

/-! ### Loss of the reference (R321, R325) -/

theorem refLoss_result (s : State) : s.refLoss.clk = { s.clk with refLost := true } ∧ s.refLoss.tile = s.tile ∧
    s.refLoss.rd Reg.clkRefSel = s.rd Reg.clkRefSel ∧ (s.pst < 2 → s.refLoss.is Fld.clkSysStatLock = false) := by
  set u := s.forEach allLos (fun s n => s.loLoss n 1) with hu
  have hlos : ClocksStand s u := (ClocksStand.refl s).forEach _ _ fun t n => (ClocksStand.refl t).loLoss n 1
  have hpst : u.pst = s.pst := forEach_induct (P := fun t => t.pst = s.pst) (fun t n h => (loLoss_pst t n 1).trans h) allLos rfl
  obtain ⟨hclk, htile, hsel⟩ := sysLoss_keeps u 1
  have hlock := sysLoss_lock u 1
  have haud := (ClocksStand.refl (u.sysLoss 1)).audLoss 1
  have he : s.refLoss = (((u.sysLoss 1).audLoss 1).modClk (fun c => { c with refLost := true })).misaligned := rfl
  rw [he]
  generalize (u.sysLoss 1).audLoss 1 = v at haud
  generalize u.sysLoss 1 = w at haud hclk htile hsel hlock
  have hmis := (ClocksStand.refl (v.modClk (fun c => { c with refLost := true }))).misaligned
  refine ⟨hmis.clk.trans ?_, hmis.tile.trans (haud.tile.trans (htile.trans hlos.tile)), ?_, fun h => ?_⟩
  · exact congrArg (fun c : Clk => { c with refLost := true }) (haud.clk.trans (hclk.trans hlos.clk))
  · exact (hmis.regs _ (by decide)).trans ((haud.regs _ (by decide)).trans (hsel.trans (hlos.regs _ (by decide))))
  · exact (hmis.is_eq Fld.clkSysStatLock (by decide)).trans ((haud.is_eq Fld.clkSysStatLock (by decide)).trans (hlock (hpst.trans_lt h)))

theorem adpllLossOfRef_gates (s : State) (halive : s.alive = true) (hsync : s.clk.synced = true) (hlost : s.clk.refLost = false) (hpst : s.pst < 2) :
    answers .adpllLossOfRef s fun t => t.clk.refLost = true ∧ t.is Fld.clkSysStatLock = false ∧ t.tile = s.tile := by
  have he : exec .adpllLossOfRef s = .next s.refLoss := by
    change execAdpllLossOfRef s = _
    rw [execAdpllLossOfRef, exec_live halive, State.cond, if_pos (by simp [hsync, hlost]; omega)]
  obtain ⟨hclk, htile, -, hlock⟩ := refLoss_result s
  exact answers_of he ⟨congrArg (·.refLost) hclk, hlock hpst, htile⟩

/-! ### A write of CLK_REF_SEL (R317) -/

theorem busReg_clkRefSel : BusReg Reg.clkRefSel [⟨16, 1, .w1c, []⟩, ⟨9, 1, .ro, []⟩, ⟨8, 1, .ro, []⟩, ⟨0, 1, .rw, []⟩] := by
  constructor <;> decide

/-- REJ clears where it is written 1. -/
def State.rejCleared (s : State) (w : Word) : State := s.wr Reg.clkRefSel (s.rd Reg.clkRefSel &&& ~~~(w &&& 0x10000#32))

theorem exec_refSelectWrite {s : State} {p : Port} {w : Word} (h : served s p Reg.clkRefSel) :
    exec (.refSelectWrite p w) s = .next ((s.rejCleared w).refSelect (getF w 0 1 == 1)) :=
  congrArg Host.Outcome.next (busReg_clkRefSel.hostWrite h w _)

theorem rejCleared_onlyFields (s : State) (w : Word) : onlyFields [Fld.clkRefSelRej] s (s.rejCleared w) := by
  refine ⟨rfl, fun off i hi => ?_⟩
  by_cases hoff : off = Reg.clkRefSel
  · subst hoff
    have hne : i ≠ 16 := fun e => by
      have := hi Fld.clkRefSelRej (by simp) rfl
      simp only at this
      omega
    have hbit : (0x10000#32).getLsbD i = false := by
      rw [show (0x10000#32) = BitVec.twoPow 32 16 from by decide, BitVec.getLsbD_twoPow]
      simp [Ne.symm hne]
    rw [State.rejCleared, State.rd_wr_self, BitVec.getLsbD_and, BitVec.getLsbD_not, BitVec.getLsbD_and, hbit, Bool.and_false, Bool.not_false, Bool.and_true]
    by_cases hlt : i < 32
    · rw [decide_eq_true hlt, Bool.and_true]
    · rw [decide_eq_false hlt, Bool.and_false, BitVec.getLsbD_of_ge _ _ (Nat.le_of_not_lt hlt)]
  · rw [State.rejCleared, s.rd_wr_ne _ _ _ hoff]

/-- A field apart from those that may have changed reads as before. -/
theorem get_of_fieldsOnly {fs : List FieldRef} {s t : State} (h : fieldsOnly fs s t) (g : FieldRef)
    (hg : ∀ f ∈ fs, f.off = g.off → g.lo + g.width ≤ f.lo ∨ f.lo + f.width ≤ g.lo) : t.get g = s.get g := by
  apply Nat.eq_of_testBit_eq
  intro i
  rw [State.get, State.get, testBit_getF, testBit_getF]
  by_cases hi : i < g.width
  · rw [h g.off (g.lo + i) fun f hf hoff => (hg f hf hoff).imp (by omega) (by omega)]
  · simp [hi]

theorem rejCleared_is (s : State) (w : Word) (g : FieldRef) (hg : g.off = Reg.clkRefSel → g.lo + g.width ≤ 16) : (s.rejCleared w).is g = s.is g :=
  congrArg (· != 0) (get_of_fieldsOnly (rejCleared_onlyFields s w).2 g fun f hf hoff => by
    rw [List.mem_singleton.mp hf] at hoff ⊢
    exact .inl (hg hoff.symm))

theorem refSelectWrite_rejects (s : State) (p : Port) (w : Word) (h : served s p Reg.clkRefSel)
    (hnot : (if getF w 0 1 = 1 then s.is Fld.clkRefSelRefDet else s.is Fld.clkRefSelXtalRun) = false) :
    answers (.refSelectWrite p w) s fun t => t.is Fld.clkRefSelRej = true ∧ onlyFields [Fld.clkRefSelRej] s t := by
  set u := s.rejCleared w with hu
  have hdet : u.is Fld.clkRefSelRefDet = s.is Fld.clkRefSelRefDet := rejCleared_is s w _ (by decide)
  have hrun : u.is Fld.clkRefSelXtalRun = s.is Fld.clkRefSelXtalRun := rejCleared_is s w _ (by decide)
  have hrej : u.refSelect (getF w 0 1 == 1) = u.flag Fld.clkRefSelRej := by
    refine if_pos ?_
    rw [hdet, hrun]
    split at hnot
    · next hw => simp [hw, hnot]
    · next hw => simp [hw, hnot]
  refine answers_of ((exec_refSelectWrite h).trans (congrArg _ hrej)) ⟨State.is_flag _ _ (by decide) (by decide), ?_⟩
  exact onlyFields_put' Fld.clkRefSelRej _ (by simp) (rejCleared_onlyFields s w)

theorem refSelectWrite_selects (s : State) (p : Port) (w : Word) (h : served s p Reg.clkRefSel)
    (hthere : (if getF w 0 1 = 1 then s.is Fld.clkRefSelRefDet else s.is Fld.clkRefSelXtalRun) = true)
    (hother : s.is Fld.clkRefSelSel ≠ (getF w 0 1 == 1)) : answers (.refSelectWrite p w) s fun t =>
      t.is Fld.clkRefSelSel = (getF w 0 1 == 1) ∧ (s.clk.synced = true → t.clk.refLost = true) := by
  set u := s.rejCleared w with hu
  set b := getF w 0 1 == 1 with hb
  have hdet : u.is Fld.clkRefSelRefDet = s.is Fld.clkRefSelRefDet := rejCleared_is s w _ (by decide)
  have hrun : u.is Fld.clkRefSelXtalRun = s.is Fld.clkRefSelXtalRun := rejCleared_is s w _ (by decide)
  have hsel : u.is Fld.clkRefSelSel = s.is Fld.clkRefSelSel := rejCleared_is s w _ (by decide)
  set v := (u.putB Fld.clkRefSelSel b).cond (u.clk.synced && !u.clk.refLost) (·.refLoss) with hv
  have hsels : u.refSelect b = v.crystalStops := by
    refine (if_neg ?_).trans (if_neg ?_)
    · rw [hdet, hrun]
      split at hthere
      · next hw => simp [hb, hw, hthere]
      · next hw => simp [hb, hw, hthere]
    · rw [hsel]
      simpa using fun e => hother e.symm
  have hvsel : v.is Fld.clkRefSelSel = b := by
    have hput := State.is_putB u Fld.clkRefSelSel b (by decide) rfl
    rw [hv, State.cond]
    split
    · exact (congrArg (fun w => getF w 0 1 != 0) (refLoss_result (u.putB Fld.clkRefSelSel b)).2.2.1).trans hput
    · exact hput
  have hstops : v.crystalStops.is Fld.clkRefSelSel = v.is Fld.clkRefSelSel ∧ v.crystalStops.clk = v.clk := by
    unfold State.crystalStops State.cond
    split
    · exact ⟨congrArg (· != 0) (State.get_put_ne v _ _ _ (by decide)), rfl⟩
    · exact ⟨rfl, rfl⟩
  refine answers_of ((exec_refSelectWrite h).trans (congrArg _ hsels)) ⟨hstops.1.trans hvsel, fun hsync => ?_⟩
  rw [hstops.2, hv, State.cond]
  split
  · exact congrArg (·.refLost) (refLoss_result (u.putB Fld.clkRefSelSel b)).1
  · next hno =>
    have hlost : ¬(s.clk.synced && !s.clk.refLost) = true := hno
    rw [hsync, Bool.true_and, Bool.not_eq_true', Bool.not_eq_false] at hlost
    exact hlost

/-- Settles O9: detection and selection of the reference, the locks of each ADPLL, and the losses of lock and of reference. -/
theorem referenceAndLocks : Obligations.ReferenceAndLocks := by
  unfold Obligations.ReferenceAndLocks
  exact ⟨refDetectWindowEnd_selects, refclkDetected_sets, refDetFall_clears, crystalStarted_runs, adpllLock_first, adpllLock_ungates, adpllLock_audio,
    adpllLossOfLock_system, adpllLossOfLock_synthesiser, adpllLossOfRef_gates, refSelectWrite_rejects, refSelectWrite_selects⟩

end Sys2Proof.Machine
end

section
/-! A soft reset: what it keeps and what it clears (R67 to R70, R106, R182). -/

namespace Sys2Proof.Machine

/-- A sparse map without the entries that a test drops. -/
theorem Sparse.find_filter {α : Type} (m : List (Nat × α)) (p : Nat → Bool) (a : Nat) :
    Sparse.find (m.filter (fun e => p e.1)) a = if p a then Sparse.find m a else none := by
  induction m with
  | nil => simp [Sparse.find]
  | cons e m ih =>
    obtain ⟨k, v⟩ := e
    by_cases hk : k = a
    · subst hk
      cases hp : p k <;> simp [hp, Sparse.find, ih]
    · cases hp : p k <;> simp [hp, Sparse.find, ih, hk]

theorem softCleared_rd (s : State) (off : Nat) : s.softCleared.rd off = if softKeeps off then s.rd off else resetWord off := by
  rw [State.rd, Sparse.get, State.softCleared]
  dsimp only
  rw [Sparse.find_filter]
  split <;> rfl

/-- Registers that mirror the retirement map. -/
def mirrorRegs : List Nat := allLos.map (fun n => Reg.loStat n.val) ++ allLinks.map (fun k => Reg.lnkLanes k.val) ++ lnkStatRegs ++ [Reg.storeCtl]

theorem onlyRegs_refl (offs : List Nat) (s : State) : onlyRegs offs s s := ⟨rfl, regsOnly_refl offs s⟩
theorem onlyRegs_trans {offs : List Nat} {s t u : State} (h : onlyRegs offs s t) (k : onlyRegs offs t u) : onlyRegs offs s u := by
  refine ⟨?_, regsOnly_trans h.2 k.2⟩
  have e := h.1
  rw [← k.1] at e
  exact e
theorem onlyRegs_put {offs : List Nat} {a s : State} (h : onlyRegs offs a s) (f : FieldRef) (v : Nat) (hf : f.off ∈ offs) : onlyRegs offs a (s.put f v) :=
  onlyRegs_trans h ⟨rfl, regsOnly_put s f v hf⟩
theorem onlyRegs_cond {offs : List Nat} {a s : State} (h : onlyRegs offs a s) (b : Bool) (f : State → State) (hf : onlyRegs offs a (f s)) :
    onlyRegs offs a (s.cond b f) := by
  unfold State.cond
  split
  · exact hf
  · exact h

theorem mem_mirrorRegs : (∀ n : Fin 5, Reg.loStat n.val ∈ mirrorRegs) ∧ (∀ k : Fin 4, Reg.lnkLanes k.val ∈ mirrorRegs ∧ Reg.lnkStat k.val ∈ mirrorRegs) := by
  decide

theorem retiredMirrors_onlyRegs (s : State) : onlyRegs mirrorRegs s s.retiredMirrors := by
  unfold State.retiredMirrors
  extract_lets u v n
  have hu : onlyRegs mirrorRegs s u := forEach_induct (P := onlyRegs mirrorRegs s)
    (fun t n ht => onlyRegs_cond ht _ _ (onlyRegs_put ht (Fld.loStatRetired n.val) _ (mem_mirrorRegs.1 n))) allLos (onlyRegs_refl _ s)
  have hv : onlyRegs mirrorRegs s v := forEach_induct (P := onlyRegs mirrorRegs s)
    (fun t k ht => onlyRegs_cond (onlyRegs_put ht (Fld.lnkLanesRetired k.val) _ (mem_mirrorRegs.2 k).1) _ _
      (onlyRegs_put (onlyRegs_put ht (Fld.lnkLanesRetired k.val) _ (mem_mirrorRegs.2 k).1) (Fld.lnkStatState k.val) _ (mem_mirrorRegs.2 k).2)) allLinks hu
  exact onlyRegs_put (onlyRegs_put hv Fld.storeCtlBanksLost _ (by decide)) Fld.storeCtlNoTiles _ (by decide)

/-- The state of a soft reset before a device that has synchronised enters WAIT_IMAGES. -/
def State.softMirrored (s : State) : State :=
  ((((s.softCleared.putB Fld.topCfgCompat6 s.top.straps.compat6).putB Fld.clkSysStatLock (s.is Fld.clkSysStatLock)).putB Fld.clkRefSelRej false).putB
    Fld.clkSyncStatAligned (s.is Fld.clkSyncStatAligned && (s.head || s.lnk.loneLace))).retiredMirrors

theorem softReset_eq (s : State) : s.softReset = s.softMirrored.cond s.clk.synced (·.waitImages) := rfl

/-- Registers that a soft reset writes after it has cleared the state. -/
def softRegs : List Nat := [Reg.topCfg, Reg.clkSysStat, Reg.clkRefSel, Reg.clkSyncStat] ++ mirrorRegs

theorem softMirrored_onlyRegs (s : State) : onlyRegs softRegs s.softCleared s.softMirrored := by
  have hputs := onlyRegs_put (onlyRegs_put (onlyRegs_put (onlyRegs_put (onlyRegs_refl softRegs s.softCleared) Fld.topCfgCompat6
    (b2n s.top.straps.compat6) (by decide)) Fld.clkSysStatLock (b2n (s.is Fld.clkSysStatLock)) (by decide)) Fld.clkRefSelRej (b2n false) (by decide))
    Fld.clkSyncStatAligned (b2n (s.is Fld.clkSyncStatAligned && (s.head || s.lnk.loneLace))) (by decide)
  have hmirrors := retiredMirrors_onlyRegs ((((s.softCleared.putB Fld.topCfgCompat6 s.top.straps.compat6).putB Fld.clkSysStatLock
    (s.is Fld.clkSysStatLock)).putB Fld.clkRefSelRej false).putB Fld.clkSyncStatAligned (s.is Fld.clkSyncStatAligned && (s.head || s.lnk.loneLace)))
  exact onlyRegs_trans hputs ⟨hmirrors.1, regsOnly_mono hmirrors.2 (List.subset_append_right _ _)⟩

/-- A soft reset leaves what it has cleared, but for registers, what the boot ROM starts with, and the wake events it shows. -/
theorem softReset_rest (s : State) :
    { s.softReset with regs := s.softCleared.regs, boot := s.softCleared.boot, pwr := s.softCleared.pwr } = s.softCleared ∧
      s.softReset.boot.svcImg = [] ∧ s.softReset.boot.seqImg = [] ∧ regsOnly ([Reg.bootStat, Reg.pwrWakeSrc] ++ softRegs) s.softCleared s.softReset ∧
      regsOnly [Reg.bootStat, Reg.pwrWakeSrc] s.softMirrored s.softReset ∧ s.softReset.phase = (if s.clk.synced then phWait else phROM) := by
  obtain ⟨hrest, hregs⟩ := softMirrored_onlyRegs s
  have hstart : s.softMirrored.is Fld.bootCtlStart = false := by
    have hreset : s.softCleared.rd Reg.bootCtl = resetWord Reg.bootCtl := (softCleared_rd s _).trans (if_neg (by decide))
    rw [State.is, State.get, hregs _ (by decide), hreset]
    decide
  have hrom : s.softMirrored.phase = phROM := by
    have hreset : s.softCleared.rd Reg.bootStat = resetWord Reg.bootStat := (softCleared_rd s _).trans (if_neg (by decide))
    rw [State.phase, State.get, hregs _ (by decide), hreset]
    decide
  have hboot : s.softMirrored.boot = s.softCleared.boot := (congrArg State.boot hrest :)
  have hall : regsOnly ([Reg.bootStat, Reg.pwrWakeSrc] ++ softRegs) s.softCleared s.softMirrored := regsOnly_mono hregs (List.subset_append_right _ _)
  obtain ⟨hphase, hwait, hsvc, hseq, hregs'⟩ := waitImages_idle hstart
  rw [softReset_eq, State.cond]
  split
  · refine ⟨?_, hsvc.trans (congrArg Boot.svcImg hboot), hseq.trans (congrArg Boot.seqImg hboot),
      regsOnly_trans hall (regsOnly_mono hregs' (List.subset_append_left _ _)), hregs', hphase⟩
    have e := congrArg (fun u : State => { u with regs := s.softCleared.regs, boot := s.softCleared.boot, pwr := s.softCleared.pwr }) hwait
    refine e.trans ((congrArg (fun u : State => { u with boot := s.softCleared.boot, pwr := s.softCleared.pwr }) hrest).trans rfl)
  · exact ⟨congrArg (fun u : State => { u with boot := s.softCleared.boot, pwr := s.softCleared.pwr }) hrest, congrArg Boot.svcImg hboot,
      congrArg Boot.seqImg hboot, hall, regsOnly_refl _ _, hrom⟩

end Sys2Proof.Machine
end

section
/-! Soft resets by TOP_SOFT_RESET and by the SPI pair of frames, and the silence after (R67 to R70, R137 to R140, R182 to R184). -/

namespace Sys2Proof.Machine

/-! ### What a device reads after a soft reset -/

theorem softReset_keeps (s : State) :
    let t := s.softReset
    t.env = s.env ∧ t.top.straps = s.top.straps ∧ t.top.silent = true ∧ t.top.softPending = false ∧ t.tile = s.tile ∧
      (∀ a, t.storeRead a = storeBlank a) ∧ t.engine = false ∧ t.spi.armed = false ∧ t.svc = State.reset.svc ∧ t.exch = State.reset.exch := by
  obtain ⟨hrest, -, -, hregs, -, -⟩ := softReset_rest s
  have hstore : s.softReset.store = s.softCleared.store := (congrArg State.store hrest :)
  have hengine : s.softCleared.rd Reg.hifCtl = resetWord Reg.hifCtl := (softCleared_rd s _).trans (if_neg (by decide))
  refine ⟨(congrArg State.env hrest :), (congrArg (·.top.straps) hrest :), (congrArg (·.top.silent) hrest :), (congrArg (·.top.softPending) hrest :),
    (congrArg State.tile hrest :), fun a => ?_, ?_, (congrArg (·.spi.armed) hrest :), (congrArg State.svc hrest :), (congrArg State.exch hrest :)⟩
  · rw [State.storeRead, hstore]; rfl
  · rw [State.engine, State.is, State.get, hregs _ (by decide), hengine]
    decide

/-- A register that a soft reset neither writes nor keeps reads its reset value; one that it keeps reads as before. -/
theorem softReset_rd (s : State) {off : Nat} (h : off ∉ [Reg.bootStat, Reg.pwrWakeSrc] ++ softRegs) :
    s.softReset.rd off = if softKeeps off then s.rd off else resetWord off :=
  ((softReset_rest s).2.2.2.1 off h).trans (softCleared_rd s off)

/-- A field outside the mirrors and BOOT_STAT reads as the soft reset wrote it. -/
theorem softReset_get (s : State) (g : FieldRef) (h : g.off ∉ [Reg.bootStat, Reg.pwrWakeSrc]) (hm : g.off ∉ mirrorRegs) :
    s.softReset.get g = ((((s.softCleared.putB Fld.topCfgCompat6 s.top.straps.compat6).putB Fld.clkSysStatLock (s.is Fld.clkSysStatLock)).putB
      Fld.clkRefSelRej false).putB Fld.clkSyncStatAligned (s.is Fld.clkSyncStatAligned && (s.head || s.lnk.loneLace))).get g :=
  (get_of_regsOnly (softReset_rest s).2.2.2.2.1 g h).trans (get_of_regsOnly (retiredMirrors_onlyRegs _).2 g hm)

/-- The system ADPLL stays locked, and the reference selected (R67). -/
theorem softReset_clocks (s : State) : s.softReset.is Fld.clkSysStatLock = s.is Fld.clkSysStatLock ∧
    s.softReset.is Fld.clkRefSelSel = s.is Fld.clkRefSelSel := by
  constructor
  · rw [State.is, softReset_get s Fld.clkSysStatLock (by decide) (by decide), State.putB_eq, State.get_put_ne _ _ _ _ (.inl (by decide)),
      State.putB_eq, State.get_put_ne _ _ _ _ (.inl (by decide))]
    exact State.is_putB _ _ _ (by decide) rfl
  · have hkept : s.softCleared.rd Reg.clkRefSel = s.rd Reg.clkRefSel := (softCleared_rd s _).trans (if_pos (by decide))
    rw [State.is, softReset_get s Fld.clkRefSelSel (by decide) (by decide), State.putB_eq, State.get_put_ne _ _ _ _ (.inl (by decide)),
      State.putB_eq, State.get_put_ne _ _ _ _ (.inr (.inr (by decide))), State.putB_eq, State.get_put_ne _ _ _ _ (.inl (by decide)),
      State.putB_eq, State.get_put_ne _ _ _ _ (.inl (by decide)), State.get, hkept]
    rfl

/-- What Table 3.1 keeps of the registers, and those of an epoch, which it does not. -/
theorem softReset_regs (s : State) : (∀ n : Fin 4, s.softReset.rd (Reg.topScratch n.val) = s.rd (Reg.topScratch n.val)) ∧
    (∀ m ∈ [Reg.fltRetireMap0, Reg.fltRetireMap1, Reg.fltRetireMap2, Reg.fltRetireMap3], s.softReset.rd m = s.rd m) ∧
    s.softReset.epoch = 0 ∧ s.softReset.members = 0 := by
  have hscratch : ∀ n : Fin 4, Reg.topScratch n.val ∉ [Reg.bootStat, Reg.pwrWakeSrc] ++ softRegs ∧ softKeeps (Reg.topScratch n.val) = true := by
    decide
  have hmap : ∀ m ∈ [Reg.fltRetireMap0, Reg.fltRetireMap1, Reg.fltRetireMap2, Reg.fltRetireMap3],
      m ∉ [Reg.bootStat, Reg.pwrWakeSrc] ++ softRegs ∧ softKeeps m = true := by decide
  refine ⟨fun n => ?_, fun m hm => ?_, ?_, ?_⟩
  · rw [softReset_rd s (hscratch n).1, if_pos (hscratch n).2]
  · rw [softReset_rd s (hmap m hm).1, if_pos (hmap m hm).2]
  · rw [State.epoch, State.get, softReset_rd s (by decide), if_neg (by decide)]; rfl
  · rw [State.members, softReset_rd s (by decide), softReset_rd s (by decide), if_neg (by decide), if_neg (by decide)]; rfl

/-! ### A write of TOP_SOFT_RESET (R182, R184) -/

theorem regWrite_topSoftReset (s : State) (p : Port) (w : Word) (t : WriteAt) :
    s.regWrite p Reg.topSoftReset w t = if w = 0x50F70001 then s.landWrite p Reg.topSoftReset w [⟨16, 16, .wo, []⟩, ⟨0, 1, .wo, []⟩] t
      else s.encErr p Reg.topSoftReset := by
  have hrow : (regRow Reg.topSoftReset).map (·.fields) = some [⟨16, 16, .wo, []⟩, ⟨0, 1, .wo, []⟩] := by decide
  obtain ⟨r, hr, hfs⟩ := Option.map_eq_some_iff.mp hrow
  have hat : s.fieldsAt Reg.topSoftReset r = [⟨16, 16, .wo, []⟩, ⟨0, 1, .wo, []⟩] := hfs
  have hwritten : (allRO [(⟨16, 16, .wo, []⟩ : Field), ⟨0, 1, .wo, []⟩] || s.svcAway Reg.topSoftReset) = false := by
    simp [State.svcAway, show ¬ 26624 ≤ Reg.topSoftReset by decide, show allRO [(⟨16, 16, .wo, []⟩ : Field), ⟨0, 1, .wo, []⟩] = false by decide]
  have hdef : s.writeDefined Reg.topSoftReset w = (w == 0x50F70001#32) := rfl
  have hpair : isPaired Reg.topSoftReset = false ∧ isPaired (Reg.topSoftReset - 4) = false := by decide
  simp only [State.regWrite, hr, hat, hwritten, hdef, fieldsDefined_of_no_domains (fs := [⟨16, 16, .wo, []⟩, ⟨0, 1, .wo, []⟩]) rfl,
    show ¬ 0xF004 ≤ Reg.topSoftReset by decide, hpair]
  by_cases hw : w = 0x50F70001
  · subst hw
    rfl
  · simp

theorem exec_topSoftReset {s : State} {p : Port} (h : served s p Reg.topSoftReset) (w : Word) :
    exec (.topSoftReset p w) s = .next (s.regWrite p Reg.topSoftReset w s.now).softDue := by
  obtain ⟨hopen, hreach⟩ := h
  refine congrArg Host.Outcome.next ?_
  rw [State.hostWrite, if_pos hopen, State.serveWrite, hreach]
  rfl

/-- The key resets the device, through every port but the service core's. -/
theorem topSoftReset_resets (s : State) (p : Port) (h : served s p Reg.topSoftReset) (hp : p ≠ .svc) :
    exec (.topSoftReset p 0x50F70001) s = .next s.softReset := by
  rw [exec_topSoftReset h, regWrite_topSoftReset, if_pos rfl]
  have hland : s.landWrite p Reg.topSoftReset 0x50F70001 [⟨16, 16, .wo, []⟩, ⟨0, 1, .wo, []⟩] s.now = s.softReset := by
    simp [State.landWrite, hp]
  rw [hland, softDue_of_not_pending (softReset_keeps s).2.2.2.1]

/-- The service core's write waits while a completion is on its way to host memory (R184). -/
theorem topSoftReset_waits (s : State) (h : served s .svc Reg.topSoftReset) (hcpl : ∃ n a ws, HostWrite.completion n a ws ∈ s.hif.outq) :
    exec (.topSoftReset .svc 0x50F70001) s = .next (s.modTop (fun t => { t with softPending := true })) := by
  rw [exec_topSoftReset h, regWrite_topSoftReset, if_pos rfl]
  have hland : s.landWrite .svc Reg.topSoftReset 0x50F70001 [⟨16, 16, .wo, []⟩, ⟨0, 1, .wo, []⟩] s.now =
      s.modTop (fun t => { t with softPending := true }) := rfl
  obtain ⟨n, a, ws, hmem⟩ := hcpl
  have hany : s.hif.outq.any (·.isCpl) = true := List.any_eq_true.mpr ⟨_, hmem, rfl⟩
  rw [hland, State.softDue, State.cond, if_neg]
  rw [show (s.modTop (fun t => { t with softPending := true })).hif = s.hif from rfl, hany]
  simp

/-- A refused access sets its flag in TOP_STATUS and names itself in TOP_ERR_ADDR. -/
theorem accErr_onlyRegs (s : State) (f : FieldRef) (cause : Nat) (p : Port) (write : Bool) (off : Nat) (hf : f.off = Reg.topStatus) :
    onlyRegs [Reg.topStatus, Reg.topErrAddr] s (s.accErr f cause p write off) := by
  refine onlyRegs_trans (onlyRegs_put (onlyRegs_refl _ s) f _ ?_) (onlyRegs_wr _ _ _ (by decide))
  rw [hf]
  decide

theorem accErr_is (s : State) (f : FieldRef) (cause : Nat) (p : Port) (write : Bool) (off : Nat) (hf : f.off = Reg.topStatus)
    (h : f.lo + f.width ≤ 32) (hw : 0 < f.width) : (s.accErr f cause p write off).is f = true := by
  have hne : f.off ≠ Reg.topErrAddr := by rw [hf]; decide
  rw [State.accErr, State.is, get_wr_ne _ _ _ _ hne]
  exact State.is_flag s f h hw

theorem topSoftReset_refuses (s : State) (p : Port) (w : Word) (h : served s p Reg.topSoftReset) (hw : w ≠ 0x50F70001)
    (hsoft : s.top.softPending = false) : exec (.topSoftReset p w) s = .next (s.encErr p Reg.topSoftReset) := by
  rw [exec_topSoftReset h, regWrite_topSoftReset, if_neg hw]
  exact congrArg Host.Outcome.next (softDue_of_not_pending hsoft)

/-! ### The pair of SPI frames (R137 to R139) -/

/-- A frame that ends counts, shows its command and disarms. -/
theorem frameEnds_spi {s : State} (h : s.top.silent = false) (c : Nat) : (s.frameEnds (some c)).spi = { s.spi with armed := false } := by
  rw [State.frameEnds, if_neg (by simp [h])]
  rfl

theorem frameEnds_onlyRegs {s : State} (h : s.top.silent = false) (c : Nat) :
    onlyRegs [Reg.spiStat, Reg.spiFrameCnt] (s.modSpi (fun p => { p with armed := false })) (s.frameEnds (some c)) := by
  rw [State.frameEnds, if_neg (by simp [h])]
  exact onlyRegs_put (onlyRegs_put (onlyRegs_refl _ _) Fld.spiFrameCntCount _ (by decide)) Fld.spiStatLastCmd _ (by decide)

theorem frameEnds_get {s : State} (h : s.top.silent = false) (c : Nat) (g : FieldRef) (hg : g.off = Reg.spiStat)
    (hlast : Fld.spiStatLastCmd.lo + Fld.spiStatLastCmd.width ≤ g.lo ∨ g.lo + g.width ≤ Fld.spiStatLastCmd.lo) : (s.frameEnds (some c)).get g = s.get g := by
  rw [State.frameEnds, if_neg (by simp [h])]
  refine (State.get_put_ne _ Fld.spiStatLastCmd g _ (.inr hlast)).trans (State.get_put_ne _ Fld.spiFrameCntCount g _ (.inl ?_))
  rw [hg]
  decide

theorem frameEnds_lastCmd {s : State} (h : s.top.silent = false) (c : Nat) (hc : c < 256) : (s.frameEnds (some c)).get Fld.spiStatLastCmd = c := by
  rw [State.frameEnds, if_neg (by simp [h])]
  exact (State.get_put_self _ Fld.spiStatLastCmd c (by decide)).trans (Nat.mod_eq_of_lt hc)

theorem not_silent_of_spi {s : State} (h : s.portOpen .spi = true) : s.top.silent = false := by
  simp only [State.portOpen, Bool.and_eq_true, Bool.not_eq_true'] at h
  exact h.1.2

theorem spiResetArm_eq {s : State} {n : Nat} (h : s.portOpen .spi = true) (hn : 8 ≤ n) :
    exec (.spiResetArm n) s = .next (((s.cond (n != 8) (·.flag Fld.spiStatBadcmd)).frameEnds (some 0xF0)).modSpi (fun p => { p with armed := n == 8 })) := by
  refine congrArg Host.Outcome.next ?_
  rw [State.frame, if_pos h, if_neg (by omega)]

theorem spiResetArm_arms (s : State) (h : s.portOpen .spi = true) : answers (.spiResetArm 8) s fun t =>
    t.spi = { s.spi with armed := true } ∧ t.get Fld.spiStatLastCmd = 0xF0 ∧ onlyRegs [Reg.spiStat, Reg.spiFrameCnt] (s.modSpi (fun _ => t.spi)) t := by
  have hsilent := not_silent_of_spi h
  refine answers_of (spiResetArm_eq h (le_refl 8)) ?_
  have hcond : s.cond (8 != 8) (·.flag Fld.spiStatBadcmd) = s := rfl
  rw [hcond]
  have hspi := frameEnds_spi hsilent 0xF0
  have hregs := frameEnds_onlyRegs hsilent 0xF0
  have hlast := frameEnds_lastCmd hsilent 0xF0 (by decide)
  generalize s.frameEnds (some 0xF0) = u at hspi hregs hlast
  have harmed : (u.modSpi (fun p => { p with armed := 8 == 8 })).spi = { s.spi with armed := true } := by
    change { u.spi with armed := true } = _
    rw [hspi]
  refine ⟨harmed, hlast, ?_, hregs.2⟩
  rw [harmed]
  exact (congrArg (fun v : State => { v with spi := { s.spi with armed := true } }) hregs.1 :)

theorem spiResetArm_badcmd (s : State) (n : Nat) (h : s.portOpen .spi = true) (hn : 8 < n) :
    answers (.spiResetArm n) s fun t => t.spi.armed = false ∧ t.is Fld.spiStatBadcmd = true := by
  have hne : n ≠ 8 := by omega
  refine answers_of (spiResetArm_eq h hn.le) ⟨beq_false_of_ne hne, ?_⟩
  have hcond : s.cond (n != 8) (·.flag Fld.spiStatBadcmd) = s.flag Fld.spiStatBadcmd := if_pos (by simp [hne])
  have hget : (((s.flag Fld.spiStatBadcmd).frameEnds (some 0xF0)).is Fld.spiStatBadcmd) = true := by
    rw [State.is, frameEnds_get (not_silent_of_spi h : (s.flag Fld.spiStatBadcmd).top.silent = false) _ Fld.spiStatBadcmd rfl (by decide)]
    exact State.is_flag s Fld.spiStatBadcmd (by decide) (by decide)
  rw [hcond]
  exact hget

theorem spiResetFire_resets (s : State) (h : s.portOpen .spi = true) (harmed : s.spi.armed = true) : exec (.spiResetFire 8) s = .next s.softReset := by
  refine congrArg Host.Outcome.next ?_
  rw [State.frame, if_pos h, if_neg (by omega), harmed]
  rfl

theorem spiResetFire_badcmd (s : State) (n : Nat) (h : s.portOpen .spi = true) (harmed : s.spi.armed = false) (hn : 8 ≤ n) :
    answers (.spiResetFire n) s fun t => t.spi.armed = false ∧ t.is Fld.spiStatBadcmd = true ∧ onlyRegs [Reg.spiStat, Reg.spiFrameCnt] s t := by
  have hsilent : (s.flag Fld.spiStatBadcmd).top.silent = false := not_silent_of_spi h
  have hexec : exec (.spiResetFire n) s = .next ((s.flag Fld.spiStatBadcmd).frameEnds (some 0xF5)) := by
    refine congrArg Host.Outcome.next ?_
    rw [State.frame, if_pos h, if_neg (by omega), harmed, Bool.and_false]
    rfl
  have hflag : onlyRegs [Reg.spiStat, Reg.spiFrameCnt] s (s.flag Fld.spiStatBadcmd) :=
    onlyRegs_put (onlyRegs_refl _ s) Fld.spiStatBadcmd _ (by decide)
  have hsame : (s.flag Fld.spiStatBadcmd).modSpi (fun p => { p with armed := false }) = s.flag Fld.spiStatBadcmd := by
    have e : { s.spi with armed := false } = s.spi := by rw [← harmed]
    exact (congrArg (fun x => { s.flag Fld.spiStatBadcmd with spi := x }) e :)
  refine answers_of hexec ⟨congrArg Spi.armed (frameEnds_spi hsilent 0xF5), ?_, onlyRegs_trans hflag ?_⟩
  · rw [State.is, frameEnds_get hsilent _ Fld.spiStatBadcmd rfl (by decide)]
    exact State.is_flag s Fld.spiStatBadcmd (by decide) (by decide)
  · have e := frameEnds_onlyRegs hsilent 0xF5
    rw [hsame] at e
    exact e

/-- Settles O14: each clause from what a soft reset keeps, the write of TOP_SOFT_RESET, and the two frames. -/
theorem softResetsAndTheirFrames : Obligations.SoftResetsAndTheirFrames := by
  unfold Obligations.SoftResetsAndTheirFrames
  refine ⟨fun s p h hp => answers_of (topSoftReset_resets s p h hp) ?_, fun s h hcpl => answers_of (topSoftReset_waits s h hcpl) rfl,
    fun s p w h hw hsoft => answers_of (topSoftReset_refuses s p w h hw hsoft)
      ⟨accErr_is _ _ _ _ _ _ rfl (by decide) (by decide), accErr_onlyRegs _ _ _ _ _ _ rfl⟩,
    fun s => answers_of rfl rfl, fun s halive hsoft => answers_of ((exec_live halive).trans (congrArg Host.Outcome.next (if_pos hsoft))) ?_,
    spiResetArm_arms, spiResetArm_badcmd, fun s h harmed => answers_of (spiResetFire_resets s h harmed) ?_, spiResetFire_badcmd,
    fun s => answers_of rfl rfl⟩
  all_goals obtain ⟨henv, hstraps, hsilent, hpending, htile, hstore, hengine, hspi, hsvc, hexch⟩ := softReset_keeps s
  · obtain ⟨hscratch, hmap, hepoch, hmembers⟩ := softReset_regs s
    obtain ⟨-, hsvcImg, hseqImg, -, -, hphase⟩ := softReset_rest s
    exact ⟨henv, hstraps, hsilent, htile, hscratch, hmap, hstore, hengine, hepoch, hmembers, hsvc, hexch, hsvcImg, hseqImg, (softReset_clocks s).1,
      (softReset_clocks s).2, hphase⟩
  · exact ⟨hpending, hsilent, hengine, htile, hstore⟩
  · exact ⟨hspi, hsilent, hstraps, htile, hengine, hstore⟩

end Sys2Proof.Machine
end

section
/-! What goes out when the host takes writes again (R236, R257, R785), and the words of the MSI-X structures (R204, R232). -/

namespace Sys2Proof.Machine

/-! ### While the host takes writes, nothing waits -/

/-- The host takes writes, and none waits in the outbound buffer. -/
def HostTakes (s : State) : Prop := s.hif.accepts = true ∧ s.pcie.d3hot = false ∧ s.hif.outq = []

namespace HostTakes

variable {s : State}

theorem ite {t : State} (c : Prop) [Decidable c] (h : HostTakes s) (k : HostTakes t) : HostTakes (if c then s else t) := by
  split
  · exact h
  · exact k
theorem forEach {α : Type} (h : HostTakes s) (l : List α) (f : State → α → State) (hf : ∀ t x, HostTakes t → HostTakes (f t x)) : HostTakes (s.forEach l f) :=
  forEach_induct (P := HostTakes) hf l h
theorem emit (h : HostTakes s) (o : Out) : HostTakes (s.emit o) := h
theorem modRing (h : HostTakes s) (n : Fin 24) (f : RingSt → RingSt) : HostTakes (s.modRing n f) := h
theorem put (h : HostTakes s) (f : FieldRef) (v : Nat) : HostTakes (s.put f v) := h

theorem post (h : HostTakes s) (w : HostWrite) : HostTakes (s.post w) := by
  unfold State.post
  rw [if_pos (by simp [h.1, h.2.1])]
  cases w <;> exact h
theorem sendVector (h : HostTakes s) (v : Nat) : HostTakes (s.sendVector v) := .ite _ h h
theorem sendWaiting (h : HostTakes s) (i : Fin 32) (v : Nat) :
    HostTakes ((s.modHif (fun h => { h with msix := upd h.msix i (fun e => { e with pending := false }) })).sendVector v) := by
  exact sendVector (s := s.modHif _) (by exact h) v
theorem signalRing (h : HostTakes s) (n : Fin 24) : HostTakes (s.signalRing n) := by
  unfold State.signalRing
  split
  · split
    · exact (h.sendVector _).modRing n _
    · exact h
  · exact h
theorem ringEvent (h : HostTakes s) (n : Fin 24) : HostTakes (s.ringEvent n) := .ite _ ((h.modRing n _).signalRing n) (h.modRing n _)
theorem takeEntry (h : HostTakes s) (n : Fin 24) : HostTakes (s.takeEntry n).2.2 := .ite _ h h
theorem writeRec (h : HostTakes s) (n : Fin 24) (r : Rec) : HostTakes (s.writeRec n r) := (((h.takeEntry n).modRing n _).post _).ringEvent n
theorem reportDrops (h : HostTakes s) (n : Fin 24) : HostTakes (s.reportDrops n) := .ite _ h ((h.modRing n _).writeRec n _)
theorem toRing (h : HostTakes s) (n : Fin 24) (r : Rec) : HostTakes (s.toRing n r) :=
  .ite _ (((h.reportDrops n).modRing n _).put _ _) ((h.reportDrops n).writeRec n r)
theorem bufferRec (h : HostTakes s) (r : Rec) : HostTakes (s.bufferRec r) := .ite _ h h
theorem takeRec (h : HostTakes s) (r : Rec) : HostTakes (s.takeRec r) := by
  unfold State.takeRec
  split
  · exact h.bufferRec r
  · split
    · exact h
    · exact .ite _ (h.toRing _ r) (h.bufferRec _)
theorem unbuffer (h : HostTakes s) (r : Rec) : HostTakes (s.unbuffer r) := by
  unfold State.unbuffer
  split
  · exact h.toRing _ r
  · exact h.takeRec _
theorem flushBuf (h : HostTakes s) : HostTakes s.flushBuf := by
  have hout : HostTakes ((s.modHif (fun h => { h with buf := [], bufDrops := 0 })).forEach s.hif.buf State.unbuffer) :=
    forEach (s := s.modHif _) (by exact h) _ _ fun _ r ht => ht.unbuffer r
  exact .ite _ h (.ite _ (hout.takeRec _) hout)
theorem sendPending (h : HostTakes s) : HostTakes s.sendPending :=
  .ite _ h (h.forEach _ _ fun _ v ht => .ite _ (ht.sendWaiting _ v) ht)

end HostTakes

/-! ### What draining leaves -/

namespace RecordsOnly

variable {a s : State}

theorem forEach {α : Type} (h : RecordsOnly a s) (l : List α) (f : State → α → State) (hf : ∀ t x, RecordsOnly a t → RecordsOnly a (f t x)) :
    RecordsOnly a (s.forEach l f) := forEach_induct (P := RecordsOnly a) hf l h
theorem unbuffer (h : RecordsOnly a s) (r : Rec) : RecordsOnly a (s.unbuffer r) := by
  unfold State.unbuffer
  split
  · exact h.toRing _ r
  · exact h.takeRec _
theorem flushBuf (h : RecordsOnly a s) : RecordsOnly a s.flushBuf := by
  have hout := (h.modHif (fun h => { h with buf := [], bufDrops := 0 })).forEach s.hif.buf State.unbuffer fun _ r ht => ht.unbuffer r
  exact .ite _ h (.ite _ (hout.takeRec _) hout)
theorem sendPending (h : RecordsOnly a s) : RecordsOnly a s.sendPending :=
  .ite _ h (h.forEach _ _ fun _ v ht => .ite _ ((ht.modHif _).sendVector v) ht)
theorem drain (h : RecordsOnly a s) : RecordsOnly a s.drain :=
  .ite _ h ((((h.modHif _).forEach _ _ fun _ w ht => ht.post w).flushBuf.forEach _ _ fun _ n ht => ht.signalRing n).sendPending)
theorem logsOnly (h : RecordsOnly a s) : logsOnly a s :=
  ⟨congrArg (fun u : State => { u with pwr := a.pwr, flt := a.flt }) h.rest, regsOnly_mono h.regs (by decide)⟩

end RecordsOnly

theorem post_takes {s : State} (h : HostTakes s) (n : Fin 24) (a : Nat) (ws : List Word) :
    s.post (.completion n a ws) = s.emit (.hostWrite a ws) ∧ s.post (.record n a ws) = s.emit (.hostWrite a ws) ∧
      s.post (.tile n a ws) = s.emit (.hostWrite a ws) := by
  have hgoes : (s.hif.accepts && !s.pcie.d3hot) = true := by simp [h.1, h.2.1]
  simp [State.post, hgoes]

/-- Every write that is posted goes out, whatever is posted after it. -/
theorem mem_out_posts {q : List HostWrite} {s : State} (h : HostTakes s) {w : HostWrite} (hw : w ∈ q) {o : Out}
    (ho : ∀ t, HostTakes t → o ∈ (t.post w).out) : o ∈ (s.forEach q State.post).out := by
  induction q generalizing s with
  | nil => cases hw
  | cons x q ih =>
    rcases List.mem_cons.mp hw with rfl | hq
    · exact Keeps.mem_out (Keeps.forEach (.refl _) q _ fun _ y ht => ht.post y) (ho s h)
    · exact ih (h.post x) hq

/-- A device whose host takes writes empties its outbound buffer. -/
theorem drain_takes {s : State} (haccepts : s.hif.accepts = true) (hd0 : s.pcie.d3hot = false) :
    HostTakes s.drain ∧ ∀ n a ws, HostWrite.completion n a ws ∈ s.hif.outq ∨ HostWrite.record n a ws ∈ s.hif.outq ∨ HostWrite.tile n a ws ∈ s.hif.outq →
      Out.hostWrite a ws ∈ s.drain.out := by
  have hclosed : (!s.hif.accepts || s.pcie.d3hot) = false := by simp [haccepts, hd0]
  have hempty : HostTakes (s.modHif (fun h => { h with outq := [] })) := ⟨haccepts, hd0, rfl⟩
  have hposts : HostTakes ((s.modHif (fun h => { h with outq := [] })).forEach s.hif.outq State.post) := hempty.forEach _ _ fun _ w ht => ht.post w
  have hsent : ∀ o, o ∈ ((s.modHif (fun h => { h with outq := [] })).forEach s.hif.outq State.post).out → o ∈ s.drain.out := by
    intro o ho
    rw [State.drain, if_neg (by simp [hclosed])]
    exact Keeps.mem_out (Keeps.sendPending (Keeps.forEach (Keeps.flushBuf (.refl _)) allRings _ fun _ n ht => ht.signalRing n)) ho
  refine ⟨?_, fun n a ws hmem => hsent _ ?_⟩
  · rw [State.drain, if_neg (by simp [hclosed])]
    exact (hposts.flushBuf.forEach _ _ fun _ n ht => ht.signalRing n).sendPending
  · rcases hmem with hmem | hmem | hmem
    · exact mem_out_posts hempty hmem fun t ht => by rw [(post_takes ht n a ws).1]; exact List.mem_cons_self
    · exact mem_out_posts hempty hmem fun t ht => by rw [(post_takes ht n a ws).2.1]; exact List.mem_cons_self
    · exact mem_out_posts hempty hmem fun t ht => by rw [(post_takes ht n a ws).2.2]; exact List.mem_cons_self

theorem softDue_drain {s : State} (h : s.top.softPending = false) : s.drain.softDue = s.drain :=
  softDue_of_not_pending ((congrArg (·.top.softPending) (RecordsOnly.refl s).drain.rest).trans h)

theorem pciPmD0Return_drains (s : State) (halive : s.alive = true) (hd3 : s.pcie.d3hot = true) (haccepts : s.hif.accepts = true)
    (hsoft : s.top.softPending = false) : answers .pciPmD0Return s fun t =>
    t.pcie = { s.pcie with d3hot := false } ∧ t.hif.outq = [] ∧
    (∀ n a ws, HostWrite.completion n a ws ∈ s.hif.outq ∨ HostWrite.record n a ws ∈ s.hif.outq ∨ HostWrite.tile n a ws ∈ s.hif.outq → Out.hostWrite a ws ∈ t.out) ∧
    logsOnly (s.modPcie (fun _ => t.pcie)) t := by
  have hexec : exec .pciPmD0Return s = .next (s.modPcie (fun p => { p with d3hot := false })).drain := by
    refine (exec_live (f := fun s => s.cond s.pcie.d3hot (fun s => ((s.modPcie (fun p => { p with d3hot := false })).drain).softDue)) halive).trans
      (congrArg Host.Outcome.next ?_)
    exact (if_pos hd3).trans (softDue_drain (s := s.modPcie (fun p => { p with d3hot := false })) hsoft)
  have hrec := (RecordsOnly.refl (s.modPcie (fun p => { p with d3hot := false }))).drain
  obtain ⟨⟨-, -, hempty⟩, hsent⟩ := drain_takes (s := s.modPcie (fun p => { p with d3hot := false })) haccepts rfl
  have hpcie : (s.modPcie (fun p => { p with d3hot := false })).drain.pcie = { s.pcie with d3hot := false } := (congrArg State.pcie hrec.rest :)
  refine answers_of hexec ⟨hpcie, hempty, hsent, ?_⟩
  rw [hpcie]
  exact hrec.logsOnly

theorem hostWriteResume_drains (s : State) (halive : s.alive = true) (hd0 : s.pcie.d3hot = false) (hsoft : s.top.softPending = false) :
    answers (.hostWriteResume true) s fun t => t.hif.accepts = true ∧ t.hif.outq = [] ∧
    (∀ n a ws, HostWrite.completion n a ws ∈ s.hif.outq ∨ HostWrite.record n a ws ∈ s.hif.outq ∨ HostWrite.tile n a ws ∈ s.hif.outq → Out.hostWrite a ws ∈ t.out) ∧
    logsOnly s t := by
  have hexec : exec (.hostWriteResume true) s = .next (s.modHif (fun h => { h with accepts := true })).drain :=
    (exec_live (f := fun s => ((s.modHif (fun h => { h with accepts := true })).drain).softDue) halive).trans
      (congrArg Host.Outcome.next (softDue_drain (s := s.modHif (fun h => { h with accepts := true })) hsoft))
  obtain ⟨⟨haccepts, -, hempty⟩, hsent⟩ := drain_takes (s := s.modHif (fun h => { h with accepts := true })) rfl hd0
  exact answers_of hexec ⟨haccepts, hempty, hsent, ((RecordsOnly.refl s).modHif _).drain.logsOnly⟩

theorem hostWriteResume_holds (s : State) (halive : s.alive = true) (hsoft : s.top.softPending = false) :
    exec (.hostWriteResume false) s = .next (s.modHif (fun h => { h with accepts := false })) :=
  (exec_live (f := fun s => ((s.modHif (fun h => { h with accepts := false })).drain).softDue) halive).trans (congrArg Host.Outcome.next (softDue_of_not_pending (s := s.modHif (fun h => { h with accepts := false })) hsoft))

/-! ### MSI-X (R204, R232) -/

/-- The ring engine's data in `h` are those in `g` but for the pending bits of vectors. -/
structure PendingOnly (g h : Hif) : Prop where
  rest : { h with msix := g.msix } = g
  vector : ∀ v : Fin 32, h.msix[v].addr = g.msix[v].addr ∧ h.msix[v].data = g.msix[v].data ∧ h.msix[v].masked = g.msix[v].masked

namespace PendingOnly

theorem refl (h : Hif) : PendingOnly h h := ⟨rfl, fun _ => ⟨rfl, rfl, rfl⟩⟩
theorem trans {f g h : Hif} (k : PendingOnly f g) (l : PendingOnly g h) : PendingOnly f h := by
  refine ⟨?_, fun v => ?_⟩
  · have e := k.rest
    rw [← l.rest] at e
    exact e
  · obtain ⟨ha, hd, hm⟩ := l.vector v
    obtain ⟨ka, kd, km⟩ := k.vector v
    exact ⟨ha.trans ka, hd.trans kd, hm.trans km⟩

theorem pending (h : Hif) (i : Fin 32) (b : Bool) : PendingOnly h { h with msix := upd h.msix i (fun e => { e with pending := b }) } := by
  refine ⟨rfl, fun v => ?_⟩
  by_cases hv : v = i
  · subst hv
    simp only [upd_self, and_self]
  · simp only [upd_ne _ _ _ _ hv, and_self]

theorem sendVector (s : State) (v : Nat) : PendingOnly s.hif (s.sendVector v).hif := by
  unfold State.sendVector
  dsimp only
  split
  · exact pending s.hif _ true
  · exact refl _

theorem sendPending (s : State) : PendingOnly s.hif s.sendPending.hif := by
  unfold State.sendPending
  split
  · exact refl _
  · refine forEach_induct (P := fun t => PendingOnly s.hif t.hif) (fun t v ht => ht.trans ?_) _ (refl _)
    dsimp only
    unfold State.cond
    split
    · exact (pending t.hif (Fin.ofNat 32 v) false).trans (sendVector (t.modHif (fun h =>
        { h with msix := upd h.msix (Fin.ofNat 32 v) (fun e => { e with pending := false }) })) v)
    · exact refl _

end PendingOnly

theorem getF_bit (w : Word) (i : Nat) : (getF w i 1 == 1) = w.getLsbD i := by
  have hlt := getF_lt w i 1
  have hbit := testBit_getF w i 1 0
  obtain h | h : getF w i 1 = 0 ∨ getF w i 1 = 1 := by omega
  · rw [h] at hbit ⊢
    simpa using hbit
  · rw [h] at hbit ⊢
    simpa using hbit

theorem msixTableWrite_enables (s : State) (w : Word) (halive : s.alive = true) (hperst : s.env.perstLow = false) :
    answers (.msixTableWrite none w) s fun t =>
    t.hif.msixEnable = w.getLsbD 31 ∧ t.hif.msixMask = w.getLsbD 30 ∧ (∀ v : Fin 32, t.hif.msix[v].addr = s.hif.msix[v].addr ∧ t.hif.msix[v].data = s.hif.msix[v].data) ∧
    logsOnly s t := by
  have hexec : exec (.msixTableWrite none w) s =
      .next (s.modHif (fun h => { h with msixEnable := getF w 31 1 == 1, msixMask := getF w 30 1 == 1 })).sendPending := by
    change execMsixTableWrite none w s = _
    rw [execMsixTableWrite, exec_live halive, if_neg (by simp [hperst])]
  have hsent := PendingOnly.sendPending (s.modHif (fun h => { h with msixEnable := getF w 31 1 == 1, msixMask := getF w 30 1 == 1 }))
  refine answers_of hexec ⟨?_, ?_, fun v => ⟨(hsent.vector v).1, (hsent.vector v).2.1⟩, ((RecordsOnly.refl s).modHif _).sendPending.logsOnly⟩
  · exact (congrArg Hif.msixEnable hsent.rest :).trans (getF_bit w 31)
  · exact (congrArg Hif.msixMask hsent.rest :).trans (getF_bit w 30)

/-- What a write of word `k` of a table entry makes of the entry's data and mask. -/
def MsixVec.written (e : MsixVec) (k : Nat) (w : Word) : MsixVec :=
  if k = 2 then { e with data := w } else { e with masked := getF w 0 1 == 1 }

/-- A write of the data or of the mask of a table entry changes that entry, then the vectors that may go out do. -/
theorem exec_msixTableWrite (s : State) (v : Fin 32) (k : Nat) (w : Word) (hk : k = 2 ∨ k = 3) (halive : s.alive = true) (hperst : s.env.perstLow = false)
    (hd0 : s.pcie.d3hot = false) : exec (.msixTableWrite (some (0x800 + 16 * v.val + 4 * k)) w) s =
      .next (s.modHif (fun h => { h with msix := upd h.msix v (fun e => e.written k w) })).sendPending := by
  have hv := v.isLt
  have hi : Fin.ofNat 32 ((0x800 + 16 * v.val + 4 * k - 0x800) / 16) = v := Fin.ext (by simp only [Fin.ofNat]; omega)
  have hword : (0x800 + 16 * v.val + 4 * k) / 4 % 4 = k := by omega
  have hin : (decide (0x800 + 16 * v.val + 4 * k < 0x800) || decide (0xA00 ≤ 0x800 + 16 * v.val + 4 * k) || s.pcie.d3hot) = false := by
    simp only [hd0, Bool.or_false, Bool.or_eq_false_iff, decide_eq_false_iff_not]
    omega
  change execMsixTableWrite (some (0x800 + 16 * v.val + 4 * k)) w s = _
  rw [execMsixTableWrite, exec_live halive, if_neg (by simp [hperst])]
  dsimp only
  rw [if_neg (by simp [hin]), hi, hword]
  rcases hk with rfl | rfl <;> rfl

theorem msixTableWrite_data (s : State) (v : Fin 32) (w : Word) (halive : s.alive = true) (hperst : s.env.perstLow = false) (hd0 : s.pcie.d3hot = false) :
    answers (.msixTableWrite (some (0x808 + 16 * v.val)) w) s fun t =>
    t.hif.msix[v].data = w ∧ t.hif.msix[v].addr = s.hif.msix[v].addr ∧ t.hif.msix[v].masked = s.hif.msix[v].masked ∧
    (∀ u : Fin 32, u ≠ v → t.hif.msix[u].data = s.hif.msix[u].data ∧ t.hif.msix[u].addr = s.hif.msix[u].addr ∧ t.hif.msix[u].masked = s.hif.msix[u].masked) ∧
    logsOnly s t := by
  have hexec := exec_msixTableWrite s v 2 w (.inl rfl) halive hperst hd0
  rw [show 0x800 + 16 * v.val + 4 * 2 = 0x808 + 16 * v.val by omega] at hexec
  have hsent := PendingOnly.sendPending (s.modHif (fun h => { h with msix := upd h.msix v (fun e => e.written 2 w) }))
  have hself : (upd s.hif.msix v (fun e => e.written 2 w))[v] = s.hif.msix[v].written 2 w := upd_self _ _ _
  obtain ⟨haddr, hdata, hmasked⟩ := hsent.vector v
  refine answers_of hexec ⟨hdata.trans (congrArg MsixVec.data hself), (haddr.trans (congrArg MsixVec.addr hself :)).trans rfl,
    (hmasked.trans (congrArg MsixVec.masked hself :)).trans rfl, fun u hu => ?_, ((RecordsOnly.refl s).modHif _).sendPending.logsOnly⟩
  have hother : (upd s.hif.msix v (fun e => e.written 2 w))[u] = s.hif.msix[u] := upd_ne _ _ _ _ hu
  obtain ⟨haddr, hdata, hmasked⟩ := hsent.vector u
  exact ⟨hdata.trans (congrArg MsixVec.data hother), haddr.trans (congrArg MsixVec.addr hother), hmasked.trans (congrArg MsixVec.masked hother)⟩

theorem msixTableWrite_mask (s : State) (v : Fin 32) (w : Word) (halive : s.alive = true) (hperst : s.env.perstLow = false) (hd0 : s.pcie.d3hot = false) :
    answers (.msixTableWrite (some (0x80C + 16 * v.val)) w) s fun t =>
    t.hif.msix[v].masked = w.getLsbD 0 ∧ t.hif.msix[v].data = s.hif.msix[v].data ∧ logsOnly s t := by
  have hexec := exec_msixTableWrite s v 3 w (.inr rfl) halive hperst hd0
  rw [show 0x800 + 16 * v.val + 4 * 3 = 0x80C + 16 * v.val by omega] at hexec
  have hsent := PendingOnly.sendPending (s.modHif (fun h => { h with msix := upd h.msix v (fun e => e.written 3 w) }))
  have hself : (upd s.hif.msix v (fun e => e.written 3 w))[v] = s.hif.msix[v].written 3 w := upd_self _ _ _
  obtain ⟨-, hdata, hmasked⟩ := hsent.vector v
  exact answers_of hexec ⟨(hmasked.trans (congrArg MsixVec.masked hself)).trans (getF_bit w 0), (hdata.trans (congrArg MsixVec.data hself :)).trans rfl,
    ((RecordsOnly.refl s).modHif _).sendPending.logsOnly⟩

end Sys2Proof.Machine
end

section
/-! The resets of the host's function: PERST_N low and function level reset (R73, R258, R785, R786, R864). -/

namespace Sys2Proof.Machine

/-! ### The descriptors that a reset of the HIF block has orphaned end (R258) -/

/-- Of `a`, where every descriptor started is an orphan, only the descriptors, the updates, the captures and the links have moved on. -/
structure OrphansEnd (a s : State) : Prop where
  rest : { s with regs := a.regs, hif := a.hif, lnk := a.lnk, samp := a.samp, svc := a.svc, out := a.out } = a
  regs : regsOnly (Reg.topStaleCnt :: lnkStatRegs) a s
  rings : s.hif.rings = a.hif.rings
  outq : s.hif.outq = a.hif.outq
  orphans : ∀ x ∈ s.hif.started, x.orphan = true

namespace OrphansEnd

variable {a s : State}

theorem ite {t : State} (c : Prop) [Decidable c] (h : OrphansEnd a s) (k : OrphansEnd a t) : OrphansEnd a (if c then s else t) := by
  split
  · exact h
  · exact k
theorem forEach {α : Type} (h : OrphansEnd a s) (l : List α) (f : State → α → State) (hf : ∀ t x, OrphansEnd a t → OrphansEnd a (f t x)) :
    OrphansEnd a (s.forEach l f) := forEach_induct (P := OrphansEnd a) hf l h
theorem start (h : ∀ x ∈ s.hif.started, x.orphan = true) : OrphansEnd s s := ⟨rfl, regsOnly_refl _ s, rfl, rfl, h⟩

theorem modHif (h : OrphansEnd a s) (f : Hif → Hif) (hrings : (f s.hif).rings = s.hif.rings) (houtq : (f s.hif).outq = s.hif.outq)
    (hstarted : (f s.hif).started ⊆ s.hif.started) : OrphansEnd a (s.modHif f) :=
  ⟨h.rest, h.regs, hrings.trans h.rings, houtq.trans h.outq, fun x hx => h.orphans x (hstarted hx)⟩
theorem modSamp (h : OrphansEnd a s) (f : Samp → Samp) : OrphansEnd a (s.modSamp f) := ⟨h.rest, h.regs, h.rings, h.outq, h.orphans⟩
theorem modSvc (h : OrphansEnd a s) (f : Svc → Svc) : OrphansEnd a (s.modSvc f) := ⟨h.rest, h.regs, h.rings, h.outq, h.orphans⟩
theorem stale (h : OrphansEnd a s) : OrphansEnd a (s.inc Fld.topStaleCntCount) :=
  ⟨h.rest, regsOnly_trans h.regs (regsOnly_put s Fld.topStaleCntCount _ (by decide)), h.rings, h.outq, h.orphans⟩

theorem links {t : State} (h : OrphansEnd a s) (k : LinksOnly s t) : OrphansEnd a t := by
  have hhif : t.hif = s.hif := (congrArg State.hif k.rest :)
  refine ⟨?_, regsOnly_trans h.regs (regsOnly_mono k.regs (List.subset_cons_self _ _)), hhif ▸ h.rings, hhif ▸ h.outq, hhif ▸ h.orphans⟩
  have e := h.rest
  rw [← k.rest] at e
  exact e

theorem dropRegion (h : OrphansEnd a s) (d : Desc) : OrphansEnd a (s.dropRegion d) := h.modHif _ rfl rfl (List.Subset.refl _)
theorem cancelEnded (h : OrphansEnd a s) (d : Desc) (c : Bool) : OrphansEnd a (s.cancelEnded d c) := h.modHif _ rfl rfl (List.Subset.refl _)
theorem unstart (h : OrphansEnd a s) (d : Desc) : OrphansEnd a (s.modHif (fun h => { h with started := h.started.eraseP (fun t => t.d.same d) })) :=
  h.modHif _ rfl rfl List.eraseP_subset
theorem answer (h : OrphansEnd a s) (d : Desc) (r : Result) (ws : List Word) : OrphansEnd a (s.answer d r ws) := by
  unfold State.answer
  exact h.links (((LinksOnly.refl s).modLnk _).sendMsg _)

/-- An orphan's end is counted, no more. -/
theorem complete (h : OrphansEnd a s) (d : Desc) (r : Result) : OrphansEnd a (s.complete d r) := by
  have hdrop := h.dropRegion d
  unfold State.complete
  generalize s.dropRegion d = u at hdrop
  dsimp only
  split
  · split
    · exact hdrop
    · next t ht =>
      rw [if_pos (hdrop.orphans t (List.mem_of_find?_eq_some ht))]
      exact ((hdrop.unstart d).cancelEnded d _).stale
  · exact hdrop.answer d r []

theorem setReqUsed (h : OrphansEnd a s) (peer n : Nat) : OrphansEnd a (s.setReqUsed peer n) := h.links ((LinksOnly.refl s).modLnk _)
theorem sendReq (h : OrphansEnd a s) (m : Msg) (d : Option Desc) : OrphansEnd a (s.sendReq m d) :=
  h.links (LinksOnly.ite _ ((((LinksOnly.refl s).modLnk _).modLnk _).sendMsg _) (((LinksOnly.refl s).modLnk _).modLnk _))

theorem capEnd (h : OrphansEnd a s) (r : Fin 4) (status : Nat) : OrphansEnd a (s.capEnd r status) := by
  unfold State.capEnd
  split
  · exact (h.modSamp _).complete _ _
  · exact h
theorem capDrop (h : OrphansEnd a s) (r : Fin 4) (status : Nat) : OrphansEnd a (s.capDrop r status) := by
  unfold State.capDrop
  split
  · exact capEnd (.ite _ (h.sendReq _ _) h) r status
  · exact h
theorem regionReset (h : OrphansEnd a s) (r : Fin 8) : OrphansEnd a (s.regionReset r) := by
  unfold State.regionReset
  extract_lets st u
  have hwait : OrphansEnd a u := by
    unfold u
    split
    · exact (h.modHif _ rfl rfl List.eraseP_subset).cancelEnded _ _
    · exact h
  split
  · exact .ite _ (hwait.complete _ _) hwait
  · exact hwait
theorem restoreReset (h : OrphansEnd a s) : OrphansEnd a s.restoreReset := by
  unfold State.restoreReset
  split
  · exact (h.modHif _ rfl rfl (List.Subset.refl _)).complete _ _
  · exact h

end OrphansEnd

/-! ### The reset of the HIF block -/

/-- The HIF block as its reset leaves it, before the descriptors that it orphans end. -/
def State.hifCleared (s : State) : State :=
  ((((s.clearRegs 0x0800 0x0C00).add Fld.topStaleCntCount
    ((s.hif.outq.filter (·.isCpl)).length + (s.hif.rings.toList.map (fun r => r.cplWait.length)).sum)).modHif (fun h =>
      { h with rings := Vector.replicate 24 ringReset, rr := 0, outq := [], bufDrops := h.bufDrops + (s.hif.outq.filter (·.isRec)).length
               started := h.started.map (fun t => { t with orphan := true }) })).modTop (fun t =>
        { t with blk := upd t.blk Blk.hif.idx (fun b => { b with gen := b.gen + 1 }) }))

theorem hifReset_orphansEnd (s : State) : OrphansEnd s.hifCleared s.hifReset := by
  have horphans : ∀ x ∈ s.hifCleared.hif.started, x.orphan = true := by
    intro x hx
    obtain ⟨y, -, rfl⟩ := List.mem_map.mp (show x ∈ s.hif.started.map (fun t => { t with orphan := true }) from hx)
    rfl
  have hstart := OrphansEnd.start horphans
  refine OrphansEnd.ite _ hstart ?_
  have hcaps := hstart.forEach allPaths (fun s r => s.capDrop r stPeerReset) fun _ r ht => ht.capDrop r _
  exact (((hcaps.forEach _ _ fun _ d ht => (ht.modSvc _).complete d _).forEach allCmd State.regionReset fun _ r ht => ht.regionReset r).restoreReset)

/-- Every register of the HIF block reads its reset value. -/
def HifRegsReset (s : State) : Prop := ∀ off, 0x800 ≤ off → off < 0xC00 → s.rd off = resetWord off

theorem hifCleared_regs (s : State) : HifRegsReset s.hifCleared ∧ s.hifCleared.rd Reg.bootStat = s.rd Reg.bootStat := by
  have hput : ∀ off, off ≠ Reg.topStaleCnt → s.hifCleared.rd off = (s.clearRegs 0x0800 0x0C00).rd off :=
    fun off hoff => State.rd_put_ne (s.clearRegs 0x0800 0x0C00) Fld.topStaleCntCount _ off hoff
  have hstale : Reg.topStaleCnt < 0x800 := by decide
  refine ⟨fun off hlo hhi => ?_, ?_⟩
  · rw [hput off (by omega), State.rd_clearRegs, if_pos ⟨hlo, hhi⟩]
  · rw [hput _ (by decide), State.rd_clearRegs, if_neg (by decide)]

theorem hifReset_result (s : State) : s.hifReset.env = s.env ∧ s.hifReset.pcie = s.pcie ∧ s.hifReset.phase = s.phase ∧ HifRegsReset s.hifReset ∧
    s.hifReset.hif.rings = Vector.replicate 24 ringReset ∧ s.hifReset.hif.outq = [] := by
  have h := hifReset_orphansEnd s
  obtain ⟨hregs, hboot⟩ := hifCleared_regs s
  have hout : ∀ o ∈ Reg.topStaleCnt :: lnkStatRegs, ¬(0x800 ≤ o ∧ o < 0xC00) := by decide
  refine ⟨(congrArg State.env h.rest :), (congrArg State.pcie h.rest :), ?_, fun off hlo hhi => ?_, h.rings, h.outq⟩
  · exact congrArg (fun w => getF w Fld.bootStatPhase.lo Fld.bootStatPhase.width) ((h.regs _ (by decide)).trans hboot)
  · exact (h.regs off fun hmem => hout off hmem ⟨hlo, hhi⟩).trans (hregs off hlo hhi)

/-! ### The reset of the function -/

/-- A load in FETCH is abandoned; beside that nothing changes. -/
theorem fetchAbort_rest (s : State) : { s.fetchAbort with regs := s.regs, boot := s.boot } = s ∧ regsOnly [Reg.bootCtl, Reg.bootStat] s s.fetchAbort := by
  unfold State.fetchAbort State.cond
  split
  · exact ⟨rfl, regsOnly_trans (regsOnly_put s Fld.bootCtlStart _ (by decide)) (regsOnly_put _ Fld.bootStatPhase _ (by decide))⟩
  · exact ⟨rfl, regsOnly_refl _ s⟩

theorem fetchAbort_ends {s : State} (h : s.phase = phFetch) :
    s.fetchAbort.phase = phWait ∧ s.fetchAbort.boot.fetch = none ∧ s.fetchAbort.is Fld.bootCtlStart = false := by
  have habort : s.fetchAbort = s.loadEnds.setPhase phWait := if_pos (by simp [h])
  rw [habort]
  refine ⟨State.get_put_self _ Fld.bootStatPhase phWait (by decide), rfl, ?_⟩
  rw [State.is, State.setPhase, State.get_put_ne _ Fld.bootStatPhase Fld.bootCtlStart _ (.inl (by decide))]
  exact State.is_putB s Fld.bootCtlStart false (by decide) rfl

/-- What PERST_N low and function level reset do to the function. -/
def State.functionGone (s : State) : State := s.hifReset.fetchAbort.functionReset

theorem functionGone_result (s : State) : s.functionGone.env = s.env ∧ s.functionGone.pcie = ⟨s.pcie.retry, false, 512, false, 0⟩ ∧
    HifRegsReset s.functionGone ∧ s.functionGone.hif.rings = Vector.replicate 24 ringReset ∧ s.functionGone.hif.outq = [] ∧
    (s.phase = phFetch → s.functionGone.phase = phWait ∧ s.functionGone.boot.fetch = none ∧ s.functionGone.is Fld.bootCtlStart = false) := by
  obtain ⟨henv, hpcie, hphase, hregs, hrings, houtq⟩ := hifReset_result s
  obtain ⟨hrest, habort⟩ := fetchAbort_rest s.hifReset
  have hhif : s.hifReset.fetchAbort.hif = s.hifReset.hif := (congrArg State.hif hrest :)
  have hretry : s.hifReset.fetchAbort.pcie = s.pcie := (congrArg State.pcie hrest :).trans hpcie
  have hboot : ∀ o ∈ [Reg.bootCtl, Reg.bootStat], ¬(0x800 ≤ o ∧ o < 0xC00) := by decide
  refine ⟨(congrArg State.env hrest :).trans henv, ?_, fun off hlo hhi => ?_, (congrArg Hif.rings hhif :).trans hrings,
    (congrArg Hif.outq hhif :).trans houtq, fun hfetch => fetchAbort_ends (hphase.trans hfetch)⟩
  · exact (congrArg (fun p : Pcie => (⟨p.retry, false, 512, false, 0⟩ : Pcie)) hretry :)
  · exact (habort off fun hmem => hboot off hmem ⟨hlo, hhi⟩).trans (hregs off hlo hhi)

/-- With the HIF block's registers at reset, the engine and every ring are disabled. -/
theorem HifRegsReset.disabled {s : State} (h : HifRegsReset s) : s.engine = false ∧ ∀ n : Fin 24, s.is (Fld.hifRingCtlEn n.val) = false := by
  have hring : ∀ n : Fin 24, 0x800 ≤ Reg.hifRingCtl n.val ∧ Reg.hifRingCtl n.val < 0xC00 ∧
      getF (resetWord (Reg.hifRingCtl n.val)) (Fld.hifRingCtlEn n.val).lo (Fld.hifRingCtlEn n.val).width = 0 := by decide
  refine ⟨?_, fun n => ?_⟩
  · rw [State.engine, State.is, State.get, h _ (by decide) (by decide)]
    decide
  · obtain ⟨hlo, hhi, hzero⟩ := hring n
    rw [State.is, State.get, h (Fld.hifRingCtlEn n.val).off hlo hhi]
    exact congrArg (· != 0) hzero

theorem ringReset_at {rings : Vector RingSt 24} (h : rings = Vector.replicate 24 ringReset) (n : Fin 24) : rings[n].held = [] ∧ rings[n].seq = 0 := by
  have hn : rings[n] = ringReset := by simp [h]
  rw [hn]
  exact ⟨rfl, rfl⟩

/-- Settles O13: the function's resets from what the HIF block's reset leaves, the drain and the MSI-X words from their own laws. -/
theorem theHostsFunctionAndItsResets : Obligations.TheHostsFunctionAndItsResets := by
  unfold Obligations.TheHostsFunctionAndItsResets
  refine ⟨fun s halive => ?_, fun s hdead => ?_, fun s => answers_of rfl ⟨rfl, rfl, rfl, rfl⟩, fun s halive hperst => ?_,
    fun s halive hperst => answers_of ((exec_live halive).trans (congrArg Host.Outcome.next (if_pos (by simp [hperst])))) rfl,
    fun s halive hperst => answers_of ((exec_live halive).trans (congrArg Host.Outcome.next (if_pos (by simp [hperst])))) rfl,
    fun s halive hd3 haccepts hsoft => pciPmD0Return_drains s halive hd3 haccepts hsoft, hostWriteResume_drains,
    fun s halive hsoft => answers_of (hostWriteResume_holds s halive hsoft) rfl,
    fun s sub halive hperst => answers_of ((exec_live halive).trans (congrArg Host.Outcome.next (if_pos (by simp [hperst])))) rfl,
    fun s halive => answers_of (exec_live (f := fun s => s.modPcie (fun p => { p with aspmL1 := 0 })) halive) rfl, msixTableWrite_enables, msixTableWrite_data, msixTableWrite_mask⟩
  · obtain ⟨henv, hpcie, hregs, hrings, houtq, hfetch⟩ := functionGone_result (s.modEnv (fun p => { p with perstLow := true }))
    obtain ⟨hengine, hen⟩ := hregs.disabled
    have hexec : exec .perstNAssert s = .next ((s.modEnv (fun p => { p with perstLow := true })).functionGone.modPcie (fun p => { p with retry := true })) :=
      congrArg Host.Outcome.next (if_pos halive)
    refine answers_of hexec ⟨henv, ?_, hengine, fun n => ⟨hen n, ringReset_at hrings n⟩, houtq, rfl, rfl, hfetch, fun _ => hregs⟩
    exact (congrArg (fun p : Pcie => { p with retry := true }) hpcie :)
  · exact answers_of (congrArg Host.Outcome.next (if_neg (by simp [show (s.modEnv (fun p => { p with perstLow := true })).alive = false from hdead]))) rfl
  · obtain ⟨henv, hpcie, hregs, hrings, houtq, hfetch⟩ := functionGone_result s
    obtain ⟨hengine, hen⟩ := hregs.disabled
    have hexec : exec .functionLevelReset s = .next s.functionGone :=
      (exec_live halive).trans (congrArg Host.Outcome.next (if_pos (by simp [hperst])))
    exact answers_of hexec ⟨henv, hpcie, hengine, fun n => ⟨hen n, (ringReset_at hrings n).1⟩, houtq, rfl, fun h => ⟨(hfetch h).1, (hfetch h).2.1⟩⟩

end Sys2Proof.Machine
end

section
/-! Writes and reads of the setup space through a port (R104, R151, R152, R164, R166, R168, R172, R177). -/

namespace Sys2Proof.Machine

/-! ### Writes by REGISTER_WRITE -/

theorem exec_registerWrite {s : State} {p : Port} (h : s.portOpen p = true) (off : Nat) (ws : List Word) :
    exec (.registerWrite p off ws true) s = .next (writeRun s p off (ws.take 64)).softDue := by
  refine congrArg Host.Outcome.next ?_
  rw [if_neg (by simp [h]), if_neg (by simp)]

/-- One word of a register that leaves the ports alone. -/
theorem exec_registerWrite_one {s : State} {p : Port} {off : Nat} (h : s.portOpen p = true) (hoff : off < 0x10000) (w : Word)
    (hsoft : (s.serveWrite p off w s.now).top.softPending = false) :
    exec (.registerWrite p off [w] true) s = .next (s.serveWrite p off w s.now) := by
  have hrun : writeRun s p off [w] = s.serveWrite p off w s.now := by
    rw [writeRun, Nat.mod_eq_of_lt hoff]
    rfl
  rw [exec_registerWrite h]
  exact congrArg Host.Outcome.next ((congrArg State.softDue hrun).trans (softDue_of_not_pending hsoft))

theorem serveWrite_ok {s : State} {p : Port} {off : Nat} (h : s.reach p off = .ok) (w : Word) (t : WriteAt) :
    s.serveWrite p off w t = s.regWrite p off w t := by
  rw [State.serveWrite, h]

/-- TOP_SCRATCHn is met alike in every phase and every power state. -/
theorem reach_topScratch_ok (s : State) (p : Port) (n : Fin 4) :
    s.reach p (Reg.topScratch n.val) = .ok ↔ (s.top.silent && p != .svc) = false := by
  have hmod : Reg.topScratch n.val % 4 = 0 := by revert n; decide
  have hat : blockAt (Reg.topScratch n.val) = some true := by revert n; decide
  have hreg : isReg (Reg.topScratch n.val) = true := by revert n; decide
  have hblk : blkAt (Reg.topScratch n.val) = none := by revert n; decide
  have hearly : earlyBlock (Reg.topScratch n.val) = true := by revert n; decide
  cases hsilent : s.top.silent && p != .svc <;> simp [State.reach, hsilent, hmod, hat, hreg, hblk, hearly]

theorem topScratch_next (n : Fin 3) : Reg.topScratch n.val + 4 = Reg.topScratch (n.val + 1) := by revert n; decide
theorem topScratch_lt (n : Fin 4) : Reg.topScratch n.val < 0x10000 := by revert n; decide

theorem registerWrite_scratch (s : State) (p : Port) (n : Fin 4) (w : Word) (h : served s p (Reg.topScratch n.val)) (hsoft : s.top.softPending = false) :
    exec (.registerWrite p (Reg.topScratch n.val) [w] true) s = .next (s.wr (Reg.topScratch n.val) w) := by
  have hland : s.serveWrite p (Reg.topScratch n.val) w s.now = s.wr (Reg.topScratch n.val) w :=
    (serveWrite_ok h.2 w s.now).trans (regWrite_topScratch s p n w s.now)
  rw [exec_registerWrite_one h.1 (topScratch_lt n) w (by rw [hland]; exact hsoft), hland]

theorem registerWrite_scratches (s : State) (p : Port) (n : Fin 3) (v w : Word) (h : served s p (Reg.topScratch n.val)) (hsoft : s.top.softPending = false) :
    exec (.registerWrite p (Reg.topScratch n.val) [v, w] true) s = .next ((s.wr (Reg.topScratch n.val) v).wr (Reg.topScratch (n.val + 1)) w) := by
  have hmod : Reg.topScratch n.val % 0x10000 = Reg.topScratch n.val ∧ Reg.topScratch (n.val + 1) % 0x10000 = Reg.topScratch (n.val + 1) :=
    ⟨Nat.mod_eq_of_lt (topScratch_lt n.castSucc), Nat.mod_eq_of_lt (topScratch_lt n.succ)⟩
  have hfirst : s.serveWrite p (Reg.topScratch n.val) v s.now = s.wr (Reg.topScratch n.val) v :=
    (serveWrite_ok h.2 v s.now).trans (regWrite_topScratch s p n.castSucc v s.now)
  have hreach : (s.wr (Reg.topScratch n.val) v).reach p (Reg.topScratch (n.val + 1)) = .ok :=
    (reach_topScratch_ok _ p n.succ).mpr ((reach_topScratch_ok s p n.castSucc).mp h.2)
  have hsecond : (s.wr (Reg.topScratch n.val) v).serveWrite p (Reg.topScratch (n.val + 1)) w (s.wr (Reg.topScratch n.val) v).now =
      (s.wr (Reg.topScratch n.val) v).wr (Reg.topScratch (n.val + 1)) w :=
    (serveWrite_ok hreach w _).trans (regWrite_topScratch _ p n.succ w _)
  have hrun : writeRun s p (Reg.topScratch n.val) [v, w] = (s.wr (Reg.topScratch n.val) v).wr (Reg.topScratch (n.val + 1)) w := by
    rw [writeRun, hmod.1, hfirst, writeRun, topScratch_next, hmod.2, hsecond]
    rfl
  rw [exec_registerWrite h.1]
  exact congrArg Host.Outcome.next ((congrArg State.softDue hrun).trans (softDue_of_not_pending hsoft))

/-! ### TOP_STATUS and TOP_PART -/

/-- A W1C bit falls when it is written 1; the rest of the word stands. -/
theorem getLsbD_applyField_w1c (old w acc : Word) (k j : Nat) (hk : k < 32) :
    (applyField old w acc ⟨k, 1, .w1c, []⟩).getLsbD j = if j = k then old.getLsbD j && !w.getLsbD j else acc.getLsbD j := by
  by_cases hj : j = k
  · subst hj
    have hin : j ≤ j ∧ j < j + 1 ∧ j < 32 := ⟨le_rfl, j.lt_succ_self, hk⟩
    simp only [applyField, getLsbD_setF, testBit_getF, hin, and_self, if_true, Nat.sub_self, Nat.add_zero]
    simp [hk]
  · have hout : ¬(k ≤ j ∧ j < k + 1 ∧ j < 32) := by omega
    simp only [applyField, getLsbD_setF, hout, hj, if_false]

/-- The fields of TOP_STATUS: its W1C flags, and those that show what the device is. -/
def topStatusFields : List Field :=
  [⟨13, 1, .w1c, []⟩, ⟨12, 1, .w1c, []⟩, ⟨11, 1, .w1c, []⟩, ⟨10, 1, .w1c, []⟩, ⟨9, 1, .w1c, []⟩, ⟨8, 1, .w1c, []⟩, ⟨2, 1, .ro, []⟩, ⟨1, 1, .ro, []⟩,
   ⟨0, 1, .ro, []⟩]

theorem getLsbD_topStatus (old w : Word) (j : Nat) : (applyFields topStatusFields old w).getLsbD j =
    (old.getLsbD j && !(decide (8 ≤ j) && decide (j < 14) && w.getLsbD j)) := by
  simp only [applyFields, topStatusFields, List.foldl_cons, List.foldl_nil]
  rw [show ∀ acc, applyField old w acc ⟨2, 1, .ro, []⟩ = acc from fun _ => rfl, show ∀ acc, applyField old w acc ⟨1, 1, .ro, []⟩ = acc from fun _ => rfl,
    show ∀ acc, applyField old w acc ⟨0, 1, .ro, []⟩ = acc from fun _ => rfl]
  simp only [getLsbD_applyField_w1c, Nat.reduceLT]
  by_cases hin : 8 ≤ j ∧ j < 14
  · obtain ⟨hlo, hhi⟩ := hin
    interval_cases j <;> simp
  · have hne : ∀ k, 8 ≤ k → k < 14 → j ≠ k := by omega
    have hout : (decide (8 ≤ j) && decide (j < 14)) = false := by simpa using hin
    simp [hne, hout]

theorem plainReg_topStatus : PlainReg Reg.topStatus := by constructor <;> decide

theorem regWrite_topStatus (s : State) (p : Port) (w : Word) (t : WriteAt) :
    s.regWrite p Reg.topStatus w t = s.wr Reg.topStatus (applyFields topStatusFields (s.rd Reg.topStatus) w) := by
  have hrow : (regRow Reg.topStatus).map (·.fields) = some topStatusFields := by decide
  obtain ⟨r, hr, hfs⟩ := Option.map_eq_some_iff.mp hrow
  rw [plainReg_topStatus.regWrite s p w t hr (by rw [hfs]; rfl) (by rw [hfs]; exact fieldsDefined_of_no_domains rfl w), hfs]

theorem registerWrite_topStatus (s : State) (p : Port) (w : Word) (h : served s p Reg.topStatus) (hsoft : s.top.softPending = false) :
    answers (.registerWrite p Reg.topStatus [w] true) s fun t =>
    (∀ i, (t.rd Reg.topStatus).getLsbD i = ((s.rd Reg.topStatus).getLsbD i && !(decide (8 ≤ i) && decide (i < 14) && w.getLsbD i))) ∧ onlyRegs [Reg.topStatus] s t := by
  have hland := (serveWrite_ok h.2 w s.now).trans (regWrite_topStatus s p w s.now)
  have hexec := exec_registerWrite_one (off := Reg.topStatus) h.1 (by decide) w (by rw [hland]; exact hsoft)
  rw [hland] at hexec
  refine answers_of hexec ⟨fun i => ?_, onlyRegs_wr s _ _ (by decide)⟩
  rw [State.rd_wr_self]
  exact getLsbD_topStatus _ w i

theorem regWrite_topPart (s : State) (p : Port) (w : Word) (t : WriteAt) : s.regWrite p Reg.topPart w t = s := by
  have hrow : (regRow Reg.topPart).map (·.fields) = some [⟨0, 32, .ro, []⟩] := by decide
  obtain ⟨r, hr, hfs⟩ := Option.map_eq_some_iff.mp hrow
  have hat : s.fieldsAt Reg.topPart r = [⟨0, 32, .ro, []⟩] := hfs
  simp [State.regWrite, hr, hat, allRO]

theorem registerWrite_topPart (s : State) (p : Port) (w : Word) (h : served s p Reg.topPart) (hsoft : s.top.softPending = false) :
    exec (.registerWrite p Reg.topPart [w] true) s = .next s := by
  have hland := (serveWrite_ok h.2 w s.now).trans (regWrite_topPart s p w s.now)
  rw [exec_registerWrite_one h.1 (by decide) w (by rw [hland]; exact hsoft), hland]

/-! ### Accesses that are refused -/

theorem registerWrite_partial (s : State) (off : Nat) (ws : List Word) (h : s.portOpen .pcie = true) (hsilent : s.top.silent = false) :
    exec (.registerWrite .pcie off ws false) s = .next (s.accErr Fld.topStatusBeErr 3 .pcie true (off % 0x10000)) := by
  refine congrArg Host.Outcome.next ?_
  rw [if_neg (by simp [h]), if_pos (by rfl)]
  exact if_pos (by simp [hsilent])

theorem registerWrite_closed (s : State) (p : Port) (off : Nat) (ws : List Word) (full : Bool) (h : s.portOpen p = false) :
    exec (.registerWrite p off ws full) s = .next s := congrArg Host.Outcome.next (if_pos (by simp [h]))

theorem registerWrite_misaligned (s : State) (p : Port) (off : Nat) (w : Word) (h : s.portOpen p = true) (hsilent : s.top.silent = false)
    (hsoft : s.top.softPending = false) (hoff : off < 0x10000) (hmod : off % 4 ≠ 0) :
    exec (.registerWrite p off [w] true) s = .next (s.rsvdAcc p true off) := by
  have hreach : s.reach p off = .reserved false := by simp [State.reach, hsilent, hmod]
  have hrefused : s.serveWrite p off w s.now = s.rsvdAcc p true off := by
    rw [State.serveWrite, hreach]
    rfl
  rw [exec_registerWrite_one h hoff w (by rw [hrefused]; exact hsoft), hrefused]

/-! ### Reads by LO_HALF_READ -/

theorem exec_loHalfRead {s : State} {p : Port} {off : Nat} (h : s.portOpen p = true) (hoff : off < 0x10000) :
    exec (.loHalfRead p off 1) s = .next ((s.serveRead p off).2.emit (.words p [(s.serveRead p off).1])) := by
  refine congrArg Host.Outcome.next ?_
  rw [if_neg (by simp [h])]
  have hrun : readRun (min 1 128) s p off = ([(s.serveRead p off).1], (s.serveRead p off).2) := by
    change readRun 1 s p off = _
    rw [readRun, Nat.mod_eq_of_lt hoff]
    rfl
  rw [hrun]

theorem serveRead_held {s : State} {p : Port} {off : Nat} (h : s.reach p off = .held) :
    s.serveRead p off = (0, (s.accErr Fld.topStatusBlkAcc 4 p false off).cond (p == .spi) (·.flag Fld.spiStatLate)) := by
  rw [State.serveRead, h]
  rfl

/-- SPI notes a late access beside the flag of the refusal. -/
theorem lateNoted {s u : State} (h : onlyRegs [Reg.topStatus, Reg.topErrAddr] s u) (hset : u.is Fld.topStatusBlkAcc = true) (late : Bool) :
    (u.cond late (·.flag Fld.spiStatLate)).is Fld.topStatusBlkAcc = true ∧ (u.cond late (·.flag Fld.spiStatLate)).out = s.out ∧
      regsOnly [Reg.topStatus, Reg.topErrAddr, Reg.spiStat] s (u.cond late (·.flag Fld.spiStatLate)) := by
  have hout : u.out = s.out := (congrArg State.out h.1 :)
  have hregs : regsOnly [Reg.topStatus, Reg.topErrAddr, Reg.spiStat] s u := regsOnly_mono h.2 (by decide)
  cases late
  · exact ⟨hset, hout, hregs⟩
  · refine ⟨?_, hout, regsOnly_trans hregs (regsOnly_put u Fld.spiStatLate (2 ^ 1 - 1) (by decide))⟩
    exact (congrArg (· != 0) (State.get_put_ne u Fld.spiStatLate Fld.topStatusBlkAcc (2 ^ 1 - 1) (.inl (by decide)))).trans hset

theorem loHalfRead_held (s : State) (p : Port) (off : Nat) (h : s.portOpen p = true) (hoff : off < 0x10000) (hheld : s.reach p off = .held) :
    answers (.loHalfRead p off 1) s fun t =>
    t.is Fld.topStatusBlkAcc = true ∧ t.out = .words p [0] :: s.out ∧ regsOnly [Reg.topStatus, Reg.topErrAddr, Reg.spiStat] s t := by
  have hexec := exec_loHalfRead h hoff
  rw [serveRead_held hheld] at hexec
  obtain ⟨hset, hout, hregs⟩ := lateNoted (accErr_onlyRegs s Fld.topStatusBlkAcc 4 p false off rfl)
    (accErr_is s Fld.topStatusBlkAcc 4 p false off rfl (by decide) (by decide)) (p == .spi)
  exact answers_of hexec ⟨hset, congrArg (Out.words p [0] :: ·) hout, hregs⟩

theorem loHalfRead_single (s : State) (p : Port) (off : Nat) (h : served s p off) (hoff : off < 0x10000) (hlo : isPairLo off = false)
    (hhi : off < 4 ∨ isPairLo (off - 4) = false) : exec (.loHalfRead p off 1) s = .next (s.emit (.words p [s.regView off])) := by
  have hpair : (decide (4 ≤ off) && isPairLo (off - 4)) = false := by
    rcases hhi with hhi | hhi
    · simp [show ¬ 4 ≤ off by omega]
    · simp [hhi]
  have hread : s.serveRead p off = (s.regView off, s) := by
    rw [State.serveRead, h.2]
    simp [hlo, hpair]
  rw [exec_loHalfRead h.1 hoff, hread]

theorem loHalfRead_low (s : State) (p : Port) (off : Nat) (h : served s p off) (hoff : off < 0x10000) (hlo : isPairLo off = true) :
    exec (.loHalfRead p off 1) s = .next ((s.modTop (fun t => { t with rdShadow := upd t.rdShadow p.idx (fun _ => some (off, s.regView (off + 4))) })).emit
      (.words p [s.regView off])) := by
  have hread : s.serveRead p off = (s.regView off, s.modTop (fun t => { t with rdShadow := upd t.rdShadow p.idx (fun _ => some (off, s.regView (off + 4))) })) := by
    rw [State.serveRead, h.2]
    exact if_pos hlo
  rw [exec_loHalfRead h.1 hoff, hread]

theorem loHalfRead_high (s : State) (p : Port) (off : Nat) (w : Word) (h : served s p (off + 4)) (hoff : off + 4 < 0x10000) (hlo : isPairLo off = true)
    (hhi : isPairLo (off + 4) = false) (hkept : s.top.rdShadow[p.idx] = some (off, w)) :
    exec (.loHalfRead p (off + 4) 1) s = .next (s.emit (.words p [w])) := by
  have hread : s.serveRead p (off + 4) = (w, s) := by
    rw [State.serveRead, h.2]
    dsimp only
    rw [if_neg (by simp [hhi]), if_pos (by simp [hlo]), hkept]
    exact congrArg (·, s) (if_pos (by simp))
  rw [exec_loHalfRead h.1 hoff, hread]

end Sys2Proof.Machine
end

section
/-! Registers that are paired for writes: PIP_COUNT and the octet mask (R172, R173, R265, R272, R395). -/

namespace Sys2Proof.Machine

/-! ### The halves of a pair -/

/-- The field table of both halves of a paired register. -/
theorem regRow_pair (pip : Bool) : (regRow (pairLo pip)).map (·.fields) = some [⟨0, 32, .rw, []⟩] ∧
    (regRow (pairLo pip + 4)).map (·.fields) = some [⟨0, 32, .rw, []⟩] := by
  cases pip <;> decide

/-- What the guards of a write ask of an offset, where its table is one RW field of 32 bits. -/
structure WholeReg (off : Nat) : Prop where
  low : off < 0x6800
  special : off ∉ [Reg.laceShape, Reg.fltPolicy 7, Reg.topSoftReset, Reg.pipSrc, Reg.txPower]
  units : loOfCtl off = none ∧ loOfFreq off = none ∧ pathOfAgc off = none

theorem wholeReg_pair (pip : Bool) : WholeReg (pairLo pip) ∧ WholeReg (pairLo pip + 4) := by
  cases pip <;> exact ⟨⟨by decide, by decide, by decide⟩, ⟨by decide, by decide, by decide⟩⟩

theorem WholeReg.guards {off : Nat} (h : WholeReg off) (s : State) (r : RegRow) (hr : r.fields = [⟨0, 32, .rw, []⟩]) (w : Word) :
    (decide (0xF004 ≤ off) = false) ∧ (allRO (s.fieldsAt off r) || s.svcAway off) = false ∧
      (!fieldsDefined (s.fieldsAt off r) w && off != Reg.txPower || !s.writeDefined off w) = false := by
  have hlow := h.low
  have hspec := h.special
  simp only [List.mem_cons, List.not_mem_nil, or_false, not_or] at hspec
  have hat : s.fieldsAt off r = [⟨0, 32, .rw, []⟩] := by simp [State.fieldsAt, hspec, hr]
  have hwd : s.writeDefined off w = true := by simp [State.writeDefined, hspec, h.units]
  refine ⟨decide_eq_false (by omega), ?_, ?_⟩
  · rw [hat]
    simp [State.svcAway, show ¬ 0x6800 ≤ off by omega, allRO]
  · rw [hat, hwd]
    simp [fieldsDefined]

theorem isPaired_halves (pip : Bool) : isPaired (pairLo pip) = true ∧ isPaired (pairLo pip + 4) = false := by cases pip <;> decide

/-- The low half waits in the port's shadow. -/
theorem regWrite_pairLo (s : State) (p : Port) (pip : Bool) (w : Word) (t : WriteAt) : s.regWrite p (pairLo pip) w t =
    s.modTop (fun q => { q with wrShadow := upd q.wrShadow p.idx (fun _ => some (pairLo pip, w)) }) := by
  obtain ⟨r, hr, hfs⟩ := Option.map_eq_some_iff.mp (regRow_pair pip).1
  obtain ⟨hdbg, hro, hdef⟩ := (wholeReg_pair pip).1.guards s r hfs w
  simp only [State.regWrite, hr, hdbg, hro, hdef, (isPaired_halves pip).1, Bool.false_and, Bool.false_eq_true, if_false, if_true]

/-- The high half lands with the low half that waits. -/
theorem regWrite_pairHi (s : State) (p : Port) (pip : Bool) (l h : Word) (t : WriteAt) (hwait : s.top.wrShadow[p.idx] = some (pairLo pip, l)) :
    s.regWrite p (pairLo pip + 4) h t =
      (s.modTop (fun q => { q with wrShadow := upd q.wrShadow p.idx (fun _ => none) })).landPair (pairLo pip) l h t := by
  obtain ⟨r, hr, hfs⟩ := Option.map_eq_some_iff.mp (regRow_pair pip).2
  obtain ⟨hdbg, hro, hdef⟩ := (wholeReg_pair pip).2.guards s r hfs h
  have hlo : (decide (4 ≤ pairLo pip + 4) && isPaired (pairLo pip)) = true := by
    rw [(isPaired_halves pip).1]
    simp
  simp only [State.regWrite, hr, hdbg, hro, hdef, (isPaired_halves pip).2, hlo, Nat.add_sub_cancel, hwait, beq_self_eq_true, Bool.false_and,
    Bool.false_eq_true, if_false, if_true]

theorem pair_not_softReset (pip : Bool) : pairLo pip ≠ Reg.topSoftReset ∧ pairLo pip + 4 ≠ Reg.topSoftReset := by cases pip <;> decide

theorem pairedLoWrite_waits (s : State) (p : Port) (pip : Bool) (w : Word) (h : served s p (pairLo pip)) : exec (.pairedLoWrite p pip w) s =
    .next (s.modTop (fun q => { q with wrShadow := upd q.wrShadow p.idx (fun _ => some (pairLo pip, w)) })) :=
  congrArg Host.Outcome.next ((hostWrite_served h (pair_not_softReset pip).1 w _).trans (regWrite_pairLo s p pip w _))

theorem pairedHiWrite_lands (s : State) (p : Port) (pip : Bool) (l h : Word) (ns cyc : Nat) (hs : served s p (pairLo pip + 4))
    (hwait : s.top.wrShadow[p.idx] = some (pairLo pip, l)) : exec (.pairedHiWrite p pip h ns cyc) s =
      .next ((s.modTop (fun q => { q with wrShadow := upd q.wrShadow p.idx (fun _ => none) })).landPair (pairLo pip) l h ⟨ns, cyc, false, []⟩) :=
  congrArg Host.Outcome.next ((hostWrite_served hs (pair_not_softReset pip).2 h _).trans (regWrite_pairHi s p pip l h _ hwait))

/-! ### The octet mask (R395) -/

theorem landPair_mask (s : State) (l h : Word) (t : WriteAt) :
    let u := s.landPair Reg.sampOctetMaskLo l h t
    u.rd Reg.sampOctetMaskLo = l ∧ u.rd Reg.sampOctetMaskHi = h ∧ u.top = s.top ∧ regsOnly [Reg.sampOctetMaskLo, Reg.sampOctetMaskHi] s u ∧
      u.samp = { s.samp with pend := s.samp.pend ++ [(s.maskTile, false, l.toNat + h.toNat * 2 ^ 32)] } := by
  have hland : s.landPair Reg.sampOctetMaskLo l h t = ((s.wr Reg.sampOctetMaskLo l).wr Reg.sampOctetMaskHi h).sampMaskLands :=
    if_neg (by decide)
  have hlo : ((s.wr Reg.sampOctetMaskLo l).wr Reg.sampOctetMaskHi h).rd Reg.sampOctetMaskLo = l :=
    (State.rd_wr_ne _ _ _ _ (by decide)).trans (State.rd_wr_self _ _ _)
  have hhi : ((s.wr Reg.sampOctetMaskLo l).wr Reg.sampOctetMaskHi h).rd Reg.sampOctetMaskHi = h := State.rd_wr_self _ _ _
  dsimp only
  rw [hland]
  refine ⟨hlo, hhi, rfl, regsOnly_trans (regsOnly_wr s Reg.sampOctetMaskLo l (by decide)) (regsOnly_wr _ Reg.sampOctetMaskHi h (by decide)), ?_⟩
  exact (congrArg₂ (fun a b : Word => { s.samp with pend := s.samp.pend ++ [(s.maskTile, false, a.toNat + b.toNat * 2 ^ 32)] }) hlo hhi :)

/-! ### Numbers of 64 bits, two's complement -/

theorem unsgn_lt (v : Int) : unsgn 64 v < 2 ^ 64 := by
  rw [unsgn]
  omega
theorem sgn_unsgn_sgn (n : Nat) : sgn 64 (unsgn 64 (sgn 64 n)) = sgn 64 n := by
  simp only [sgn, unsgn]
  split <;> split <;> omega

/-- The two halves of a word of 64 bits make its value. -/
theorem halves_toNat (v : BitVec 64) : (v.extractLsb' 0 32).toNat + (v.extractLsb' 32 32).toNat * 2 ^ 32 = v.toNat := by
  simp only [BitVec.extractLsb'_toNat, Nat.shiftRight_eq_div_pow]
  have := v.isLt
  omega
theorem sgn_toNat (v : BitVec 64) : sgn 64 v.toNat = v.toInt := by
  have hv := v.isLt
  rw [sgn, BitVec.toInt_eq_toNat_cond, Nat.mod_eq_of_lt hv]
  split <;> split <;> omega

end Sys2Proof.Machine
end

section
/-! The pip count as a host write leaves it (R265, R272), and what else an edge and a jump write. -/

namespace Sys2Proof.Machine

/-! ### What leaves the count -/

/-- The pip count's two registers stand. -/
structure CountStands (a s : State) : Prop where
  rd : ∀ off ∈ [Reg.pipCountLo, Reg.pipCountHi], s.rd off = a.rd off

namespace CountStands

variable {a s : State}

theorem refl (s : State) : CountStands s s := ⟨fun _ _ => rfl⟩
theorem trans {t : State} (h : CountStands a s) (k : CountStands s t) : CountStands a t :=
  ⟨fun off ho => (k.rd off ho).trans (h.rd off ho)⟩
theorem of_regsOnly {offs : List Nat} (h : regsOnly offs a s) (hoffs : ∀ off ∈ [Reg.pipCountLo, Reg.pipCountHi], off ∉ offs) : CountStands a s :=
  ⟨fun off ho => h off (hoffs off ho)⟩
theorem ite {t : State} (c : Prop) [Decidable c] (h : CountStands a s) (k : CountStands a t) : CountStands a (if c then s else t) := by
  split
  · exact h
  · exact k
theorem forEach {α : Type} (h : CountStands a s) (l : List α) (f : State → α → State) (hf : ∀ t x, CountStands a t → CountStands a (f t x)) :
    CountStands a (s.forEach l f) := forEach_induct (P := CountStands a) hf l h
theorem put (h : CountStands a s) (f : FieldRef) (v : Nat) (hf : f.off ∉ [Reg.pipCountLo, Reg.pipCountHi]) : CountStands a (s.put f v) :=
  h.trans ⟨fun off ho => State.rd_put_ne s f v off fun e => hf (e ▸ ho)⟩
theorem modPip (h : CountStands a s) (f : Pip → Pip) : CountStands a (s.modPip f) := ⟨h.rd⟩
theorem records {t : State} (h : CountStands a s) (k : RecordsOnly s t) : CountStands a t := h.trans (of_regsOnly k.regs (by decide))
theorem wakes {t : State} (h : CountStands a s) (k : WakesOnly s t) : CountStands a t := h.trans (of_regsOnly k.regs (by decide))

theorem pipCount (h : CountStands a s) : s.pipCount = a.pipCount := by
  simp only [State.pipCount, h.rd Reg.pipCountLo (by decide), h.rd Reg.pipCountHi (by decide)]

theorem setSince (h : CountStands a s) (ns : Nat) : CountStands a (s.setSince ns) := (h.modPip _).put Fld.pipFracFrac _ (by decide)
theorem edgeRate (h : CountStands a s) (ns : Nat) (down : Bool) : CountStands a (s.edgeRate ns down) :=
  (((h.modPip _).put Fld.pipRatePeriod _ (by decide)).put Fld.pipRateDir _ (by decide)).setSince 0
theorem commitFiring (h : CountStands a s) (e : PipEvent) (dir tile cycle skipped : Nat) : CountStands a (s.commitFiring e dir tile cycle skipped) := ⟨h.rd⟩
theorem cutShort (h : CountStands a s) (tile cycle : Nat) : CountStands a (s.cutShort tile cycle) := h.forEach _ _ fun _ _ ht => ht.commitFiring ..
theorem sendNotice (h : CountStands a s) (dir : Nat) (old new : Int) (frac tile cycle : Nat) (revised : Bool) :
    CountStands a (s.sendNotice dir old new frac tile cycle revised) := by
  unfold State.sendNotice
  exact h.records ((LinksOnly.refl s).sendMsg _).recordsOnly
theorem noticeRemote (h : CountStands a s) (dir : Nat) (old new : Int) (ns : Nat) : CountStands a (s.noticeRemote dir old new ns) := by
  unfold State.noticeRemote
  refine .ite _ h ?_
  extract_lets tile cyc jump late u v hit fracs per w
  have hu : CountStands a u := h.forEach _ _ fun _ _ ht => ht.sendNotice ..
  have hv : CountStands a v := .ite _ (hu.modPip _) hu
  have hw : CountStands a w := hv.forEach _ _ fun _ _ ht => ht.sendNotice ..
  exact hw.modPip _
theorem backstep (h : CountStands a s) (kind : Nat) (old new : Int) : CountStands a (s.backstep kind old new) :=
  (h.put Fld.pipBackstepCntCount _ (by decide)).records ((RecordsOnly.refl _).record _ _)
theorem guardWake (h : CountStands a s) (qualified : Bool) : CountStands a (s.guardWake qualified) :=
  .ite _ (h.wakes ((WakesOnly.refl s).wake 5)) h

end CountStands

/-! ### The count after an edge and after a jump -/

theorem setPipCount_pipCount (s : State) (c : Int) : (s.setPipCount c).pipCount = sgn 64 (unsgn 64 c) := by
  have hlt := unsgn_lt c
  have hlo : (s.setPipCount c).rd Reg.pipCountLo = BitVec.ofNat 32 (unsgn 64 c) :=
    (State.rd_wr_ne _ _ _ _ (by decide)).trans (State.rd_wr_self _ _ _)
  have hhi : (s.setPipCount c).rd Reg.pipCountHi = BitVec.ofNat 32 (unsgn 64 c >>> 32) := State.rd_wr_self _ _ _
  rw [State.pipCount, hlo, hhi]
  refine congrArg (sgn 64) ?_
  simp only [BitVec.toNat_ofNat, Nat.shiftRight_eq_div_pow]
  omega

/-- An edge steps the count of before by one, whatever else it commits, notices and wakes. -/
theorem pipEdge_pipCount (s : State) (down : Bool) (ns cycle : Nat) :
    (s.pipEdge down ns cycle).pipCount = sgn 64 (unsgn 64 (sgn 64 (unsgn 64 (if down then s.pipCount - 1 else s.pipCount + 1)))) := by
  have hbefore : ∀ tile cyc, CountStands s (((s.setCycle cycle).edgeRate ns down).cutShort tile cyc) := fun tile cyc =>
    ((CountStands.edgeRate (a := s) (s := s.setCycle cycle) ⟨fun _ _ => rfl⟩ ns down).cutShort tile cyc)
  unfold State.pipEdge
  extract_lets u tile cyc v old new x ed hit per y z w tooFar b
  have hold : old = s.pipCount := (hbefore tile cyc).pipCount
  have hx : x.pipCount = sgn 64 (unsgn 64 new) := setPipCount_pipCount v new
  have hy : CountStands x y := (CountStands.refl x).forEach _ _ fun _ _ ht => .ite _ (ht.commitFiring ..) (ht.modPip _)
  have hw : CountStands x w := .ite _ ((hy.noticeRemote ..).modPip _) (hy.noticeRemote ..)
  have hb : CountStands x b := .ite _ ((hw.modPip _).backstep ..) hw
  rw [(hb.guardWake _).pipCount, hx]
  unfold new
  rw [hold]

theorem pipJump_pipCount (s : State) (kind : Nat) (new : Int) : (s.pipJump kind new).pipCount = sgn 64 (unsgn 64 new) := by
  unfold State.pipJump
  extract_lets old u hit tile cyc v w x y
  have hu : u.pipCount = sgn 64 (unsgn 64 new) := ((CountStands.refl (s.setPipCount new)).setSince 0).pipCount.trans (setPipCount_pipCount s new)
  have hv : CountStands u v := (CountStands.refl u).forEach _ _ fun _ _ ht => ht.commitFiring ..
  have hy : CountStands u y := .ite _ (((hv.noticeRemote ..).modPip _).backstep ..) ((hv.noticeRemote ..).modPip _)
  exact (hy.guardWake _).pipCount.trans hu

/-- With SRC HOST the count becomes the value written. -/
theorem pipHostWrite_pipCount (s : State) (n ns cycle : Nat) (h : s.pipSrc = srcHost) : (s.pipHostWrite (sgn 64 n) ns cycle).pipCount = sgn 64 n := by
  unfold State.pipHostWrite
  rw [if_neg (by simp [h])]
  extract_lets c
  split
  · next hup =>
    have hv : sgn 64 n = s.pipCount + 1 := by simpa using hup
    rw [pipEdge_pipCount, if_neg (by simp), ← hv, sgn_unsgn_sgn, sgn_unsgn_sgn]
  · split
    · next hdown =>
      have hv : sgn 64 n = s.pipCount - 1 := by simpa using hdown
      rw [pipEdge_pipCount, if_pos rfl, ← hv, sgn_unsgn_sgn, sgn_unsgn_sgn]
    · split
      · next hsame => exact (by simpa using hsame : sgn 64 n = s.pipCount).symm
      · rw [pipJump_pipCount, sgn_unsgn_sgn]

/-- With another source the value written is lost. -/
theorem pipHostWrite_lost {s : State} (h : s.pipSrc ≠ srcHost) (v : Int) (ns cycle : Nat) : s.pipHostWrite v ns cycle = s := if_pos (by simpa using h)

/-! ### PIP_COUNT written whole (R272) -/

theorem landPair_pipCount (s : State) (l h : Word) (t : WriteAt) : s.landPair Reg.pipCountLo l h t =
    s.pipHostWrite (sgn 64 (l.toNat + h.toNat * 2 ^ 32)) t.ns t.cycle := if_pos (by decide)

theorem landPair_sets {s : State} (hsrc : s.pipSrc = srcHost) (l h : Word) (t : WriteAt) :
    (s.landPair Reg.pipCountLo l h t).pipCount = sgn 64 (l.toNat + h.toNat * 2 ^ 32) := by
  rw [landPair_pipCount, pipHostWrite_pipCount _ _ _ _ hsrc]

/-- Both halves through one port: the low half waits, the high half lands the pair. -/
theorem exec_pipCountHostWrite (s : State) (p : Port) (v : BitVec 64) (ns cyc : Nat) (hlo : served s p Reg.pipCountLo) (hhi : served s p Reg.pipCountHi) :
    exec (.pipCountHostWrite p v ns cyc) s =
      .next ((s.modTop (fun q => { q with wrShadow := upd q.wrShadow p.idx (fun _ => none) })).pipHostWrite (sgn 64 v.toNat) ns cyc) := by
  let u := s.modTop (fun q => { q with wrShadow := upd q.wrShadow p.idx (fun _ => some (Reg.pipCountLo, v.extractLsb' 0 32)) })
  have hwaits : s.hostWrite p Reg.pipCountLo (v.extractLsb' 0 32) s.now = u :=
    (hostWrite_served hlo (by decide) _ _).trans (regWrite_pairLo s p true _ _)
  have hserved : served u p Reg.pipCountHi := hhi
  have hkept : u.top.wrShadow[p.idx] = some (Reg.pipCountLo, v.extractLsb' 0 32) := upd_self _ _ _
  have hlands := (hostWrite_served hserved (by decide) (v.extractLsb' 32 32) ⟨ns, cyc, false, []⟩).trans (regWrite_pairHi u p true _ _ _ hkept)
  have hclear : u.modTop (fun q => { q with wrShadow := upd q.wrShadow p.idx (fun _ => none) }) =
      s.modTop (fun q => { q with wrShadow := upd q.wrShadow p.idx (fun _ => none) }) := by
    have htwice : upd (upd s.top.wrShadow p.idx (fun _ => some (Reg.pipCountLo, v.extractLsb' 0 32))) p.idx (fun _ => none) =
        upd s.top.wrShadow p.idx (fun _ => none) := by simp [upd]
    exact (congrArg (fun x => s.modTop (fun q => { q with wrShadow := x })) htwice :)
  refine congrArg Host.Outcome.next ?_
  rw [hwaits]
  refine hlands.trans ?_
  rw [hclear]
  refine (landPair_pipCount _ _ _ _).trans ?_
  rw [halves_toNat]

/-- Settles O15: each clause from the law of its register, of its refusal, or of its pair. -/
theorem setupAccessesActOnTheirRegisters : Obligations.SetupAccessesActOnTheirRegisters := by
  unfold Obligations.SetupAccessesActOnTheirRegisters
  refine ⟨fun s p n w h hsoft => answers_of (registerWrite_scratch s p n w h hsoft) rfl,
    fun s p n v w h hsoft => answers_of (registerWrite_scratches s p n v w h hsoft) rfl, registerWrite_topStatus,
    fun s p w h hsoft => answers_of (registerWrite_topPart s p w h hsoft) rfl,
    fun s off ws h hsilent => answers_of (registerWrite_partial s off ws h hsilent)
      ⟨accErr_is _ _ _ _ _ _ rfl (by decide) (by decide), accErr_onlyRegs _ _ _ _ _ _ rfl⟩,
    fun s p off ws full h => answers_of (registerWrite_closed s p off ws full h) rfl,
    fun s h => answers_of (congrArg Host.Outcome.next (if_pos h)) rfl,
    fun s p off w h hsilent hsoft hoff hmod => answers_of (registerWrite_misaligned s p off w h hsilent hsoft hoff hmod)
      ⟨accErr_is _ _ _ _ _ _ rfl (by decide) (by decide), accErr_onlyRegs _ _ _ _ _ _ rfl⟩,
    loHalfRead_held, fun s p off h hoff hlo hhi => answers_of (loHalfRead_single s p off h hoff hlo hhi) rfl,
    fun s p off h hoff hlo => answers_of (loHalfRead_low s p off h hoff hlo) ⟨rfl, rfl, rfl⟩,
    fun s p off w h hoff hlo hhi hkept => answers_of (loHalfRead_high s p off w h hoff hlo hhi hkept) rfl,
    fun s p pip w h => answers_of (pairedLoWrite_waits s p pip w h) rfl, fun s p l h ns cyc hs hwait => ?_,
    fun s p l h ns cyc hs hwait hsrc => ?_, fun s p v ns cyc hlo hhi hsrc => ?_, fun s p v ns cyc hlo hhi hsrc => ?_⟩
  · obtain ⟨hlo, hhi, htop, hregs, hsamp⟩ := landPair_mask (s.modTop (fun q => { q with wrShadow := upd q.wrShadow p.idx (fun _ => none) })) l h
      ⟨ns, cyc, false, []⟩
    exact answers_of (pairedHiWrite_lands s p false l h ns cyc hs hwait)
      ⟨hlo, hhi, (congrArg (fun q : Top => q.wrShadow[p.idx]) htop).trans (upd_self _ _ _), hregs, hsamp⟩
  · have hsame : (s.modTop (fun q => { q with wrShadow := upd q.wrShadow p.idx (fun _ => none) })).pipSrc = srcHost := hsrc
    exact answers_of (pairedHiWrite_lands s p true l h ns cyc hs hwait) (landPair_sets hsame l h _)
  · have hsame : (s.modTop (fun q => { q with wrShadow := upd q.wrShadow p.idx (fun _ => none) })).pipSrc = srcHost := hsrc
    exact answers_of (exec_pipCountHostWrite s p v ns cyc hlo hhi) ((pipHostWrite_pipCount _ _ ns cyc hsame).trans (sgn_toNat v))
  · have hsame : (s.modTop (fun q => { q with wrShadow := upd q.wrShadow p.idx (fun _ => none) })).pipSrc ≠ srcHost := hsrc
    exact answers_of (exec_pipCountHostWrite s p v ns cyc hlo hhi) (pipHostWrite_lost hsame _ _ _)

end Sys2Proof.Machine
end

section
/-! Frames of the SPI setup port (R119 to R136, R142): what each returns, what it marks when it ends, and what it leaves. -/

namespace Sys2Proof.Machine

theorem fieldsOnly_mono {fs gs : List FieldRef} {s t : State} (h : fieldsOnly fs s t) (hsub : fs ⊆ gs) : fieldsOnly gs s t :=
  fun off i hi => h off i fun f hf => hi f (hsub hf)

/-! ### The end of a frame (R139, SPI_FRAME_CNT, LAST_CMD) -/

theorem frame_open {s : State} (h : s.portOpen .spi = true) (f : State → State) : s.frame f = f s := if_pos h

/-- The fields that the end of a frame writes: the counter, and with the command byte complete the command noted. -/
def frameMarks : Option Nat → List FieldRef
  | some _ => [Fld.spiStatLastCmd, Fld.spiFrameCntCount]
  | none => [Fld.spiFrameCntCount]

theorem frameEnds_fieldsOnly (s : State) (cmd : Option Nat) : fieldsOnly (frameMarks cmd) s (s.frameEnds cmd) := by
  unfold State.frameEnds
  split
  · exact fieldsOnly_refl _ s
  · cases cmd with
    | none => exact fieldsOnly_put s Fld.spiFrameCntCount _ (by decide)
    | some c =>
      have hcount : fieldsOnly (frameMarks (some c)) s (s.inc Fld.spiFrameCntCount) :=
        fieldsOnly_put s Fld.spiFrameCntCount _ (List.mem_cons_of_mem _ (List.mem_singleton_self _))
      exact fieldsOnly_trans hcount (fieldsOnly_put _ Fld.spiStatLastCmd c List.mem_cons_self)

theorem frameEnds_rest (s : State) (cmd : Option Nat) : { s.frameEnds cmd with regs := s.regs, spi := s.spi } = s := by
  unfold State.frameEnds
  split
  · rfl
  · cases cmd <;> rfl

theorem frameEnds_out (s : State) (cmd : Option Nat) : (s.frameEnds cmd).out = s.out := (congrArg State.out (frameEnds_rest s cmd) :)

theorem frameEnds_disarms {s : State} (h : s.top.silent = false) (cmd : Option Nat) : (s.frameEnds cmd).spi.armed = false := by
  rw [State.frameEnds, if_neg (by simp [h])]
  rfl

theorem frameEnds_count {s : State} (h : s.top.silent = false) (c : Nat) : (s.frameEnds (some c)).get Fld.spiFrameCntCount =
    (s.get Fld.spiFrameCntCount + 1) % 2 ^ Fld.spiFrameCntCount.width := by
  rw [State.frameEnds, if_neg (by simp [h])]
  exact (State.get_put_ne _ Fld.spiStatLastCmd Fld.spiFrameCntCount c (.inl (by decide))).trans
    (State.get_put_self s Fld.spiFrameCntCount _ (by decide))

/-- A flag of SPI_STAT reads after the end of a frame as it did before. -/
theorem frameEnds_is (s : State) (cmd : Option Nat) (f : FieldRef) (hoff : f.off = Reg.spiStat) (hlo : f.lo + f.width ≤ 24) :
    (s.frameEnds cmd).is f = s.is f := by
  have hcount : f.off ≠ Fld.spiFrameCntCount.off := by rw [hoff]; decide
  have hmarks : ∀ g ∈ frameMarks cmd, g.off = f.off → f.lo + f.width ≤ g.lo ∨ g.lo + g.width ≤ f.lo := by
    intro g hg hgf
    cases cmd with
    | none => exact absurd (List.mem_singleton.mp hg ▸ hgf).symm hcount
    | some c =>
      obtain rfl | hg := List.mem_cons.mp hg
      · exact .inl hlo
      · exact absurd (List.mem_singleton.mp hg ▸ hgf).symm hcount
  exact congrArg (· != 0) (get_of_fieldsOnly (frameEnds_fieldsOnly s cmd) f hmarks)

/-- A frame with an error: its flag is set beside what its end marks. -/
theorem flagged_frameEnds {s : State} (h : s.top.silent = false) (cmd : Option Nat) (f : FieldRef) (hoff : f.off = Reg.spiStat)
    (hlo : f.lo + f.width ≤ 24) (hw : 0 < f.width) :
    let t := (s.flag f).frameEnds cmd
    t.is f = true ∧ t.spi.armed = false ∧ fieldsOnly (f :: frameMarks cmd) s t ∧ { t with regs := s.regs, spi := s.spi } = s := by
  have hset : (s.flag f).is f = true := State.is_flag s f (by omega) hw
  have hflag : fieldsOnly (f :: frameMarks cmd) s (s.flag f) := fieldsOnly_put s f _ List.mem_cons_self
  have hend : fieldsOnly (f :: frameMarks cmd) (s.flag f) ((s.flag f).frameEnds cmd) :=
    fieldsOnly_mono (frameEnds_fieldsOnly _ cmd) (List.subset_cons_self _ _)
  exact ⟨(frameEnds_is _ cmd f hoff hlo).trans hset, frameEnds_disarms (s := s.flag f) h cmd, fieldsOnly_trans hflag hend,
    (congrArg (fun u : State => { u with regs := s.regs }) (frameEnds_rest (s.flag f) cmd) :)⟩

/-! ### What a read leaves (R120 to R127) -/

/-- A refusal sets flags in registers, and does no more. -/
theorem refused_rest (s : State) (r : Reach) (p : Port) (write : Bool) (off : Nat) : { s.refused r p write off with regs := s.regs } = s := by
  have hflag : ∀ (u : State) (b : Bool) (f : FieldRef), { u.cond b (·.flag f) with regs := u.regs } = u := fun u b f => by cases b <;> rfl
  cases r with
  | ok => rfl
  | silent => rfl
  | early => exact hflag s _ _
  | reserved e => exact (congrArg (fun u : State => { u with regs := s.regs }) (hflag (s.rsvdAcc p write off) _ _) :)
  | doze => exact (congrArg (fun u : State => { u with regs := s.regs }) (hflag (s.accErr Fld.topStatusDozeAcc 6 p write off) _ _) :)
  | held => exact (congrArg (fun u : State => { u with regs := s.regs }) (hflag (s.accErr Fld.topStatusBlkAcc 4 p write off) _ _) :)

theorem serveRead_rest (s : State) (p : Port) (off : Nat) : { (s.serveRead p off).2 with regs := s.regs, top := s.top } = s := by
  unfold State.serveRead
  split
  · split
    · rfl
    · split
      · split <;> rfl
      · rfl
  · exact (congrArg (fun u : State => { u with top := s.top }) (refused_rest s _ p false off) :)

theorem readRun_rest (n : Nat) (s : State) (p : Port) (off : Nat) : { (readRun n s p off).2 with regs := s.regs, top := s.top } = s := by
  induction n generalizing s off with
  | zero => rfl
  | succ n ih =>
    exact (congrArg (fun u : State => { u with regs := s.regs, top := s.top }) (ih (s.serveRead p (off % 0x10000)).2 (off + 4)) :).trans
      (serveRead_rest s p _)

theorem aligned_of_reach_ok {s : State} {p : Port} {off : Nat} (h : s.reach p off = .ok) : off % 4 = 0 := by
  by_contra hmod
  rw [State.reach] at h
  split at h
  · cases h
  · rw [if_pos (by simpa using hmod)] at h
    cases h

/-- A register that is no half of a pair answers its view, and the read leaves the state alone. -/
theorem serveRead_single {s : State} {p : Port} {off : Nat} (h : s.reach p off = .ok) (hlo : isPairLo off = false)
    (hhi : off < 4 ∨ isPairLo (off - 4) = false) : s.serveRead p off = (s.regView off, s) := by
  have hpair : (decide (4 ≤ off) && isPairLo (off - 4)) = false := by
    rcases hhi with hhi | hhi
    · simp [show ¬ 4 ≤ off by omega]
    · simp [hhi]
  rw [State.serveRead, h]
  simp [hlo, hpair]

/-! ### READ and FAST_READ (R119, R124) -/

/-- One word of a register that is served, within the command's rate. -/
theorem spiReads_single {s : State} (cmd : Nat) {a : BitVec 16} (h : s.portOpen .spi = true) (hreach : s.reach .spi a.toNat = .ok)
    (hlo : isPairLo a.toNat = false) (hhi : a.toNat < 4 ∨ isPairLo (a.toNat - 4) = false) :
    s.spiReads cmd a 1 false = (s.emit (.words .spi [s.regView a.toNat])).frameEnds (some cmd) := by
  have hrun : readRun 1 s .spi a.toNat = ([s.regView a.toNat], s) := by
    rw [readRun, Nat.mod_eq_of_lt a.isLt, serveRead_single hreach hlo hhi]
    rfl
  rw [State.spiReads, frame_open h]
  simp only [aligned_of_reach_ok hreach, hrun, State.overclock]
  rfl

theorem spiRead_word (s : State) (a : BitVec 16) (fast : Bool) (h : s.portOpen .spi = true) (hreach : s.reach .spi a.toNat = .ok)
    (hlo : isPairLo a.toNat = false) (hhi : a.toNat < 4 ∨ isPairLo (a.toNat - 4) = false) :
    answers (if fast then .spiFastRead a 1 false else .spiRead a 1 false) s fun t =>
      t.out = .words .spi [s.regView a.toNat] :: s.out ∧ t.get Fld.spiStatLastCmd = (if fast then 0x0B else 0x03) ∧ t.spi.armed = false ∧
      t.get Fld.spiFrameCntCount = (s.get Fld.spiFrameCntCount + 1) % 2 ^ Fld.spiFrameCntCount.width ∧ fieldsOnly [Fld.spiStatLastCmd, Fld.spiFrameCntCount] s t ∧
      { t with regs := s.regs, spi := s.spi, out := s.out } = s := by
  let cmd : Nat := if fast then 0x0B else 0x03
  let u := s.emit (.words .spi [s.regView a.toNat])
  have hexec : exec (if fast then .spiFastRead a 1 false else .spiRead a 1 false) s = .next (s.spiReads cmd a 1 false) := by cases fast <;> rfl
  have hsilent : u.top.silent = false := not_silent_of_spi h
  have hcmd : cmd < 256 := by unfold cmd; split <;> decide
  rw [spiReads_single cmd h hreach hlo hhi] at hexec
  exact answers_of hexec ⟨frameEnds_out u _, frameEnds_lastCmd hsilent cmd hcmd, frameEnds_disarms hsilent _, frameEnds_count hsilent cmd,
    frameEnds_fieldsOnly u (some cmd), (congrArg (fun v : State => { v with out := s.out }) (frameEnds_rest u (some cmd)) :)⟩

/-- A frame clocked above its command's rate returns as many words as it has word clocks, each drawn at the counter of free values. -/
theorem spiReads_tooFast {s : State} (cmd : Nat) (a : BitVec 16) (n : Nat) (h : s.portOpen .spi = true) :
    let t := s.spiReads cmd a n true
    ∃ ws, ws.length = n ∧ t.out = .words .spi ws :: s.out ∧ t.free = s.free + n ∧
      (∀ i, (h : i < ws.length) → ws[i] = Config.overclocked (s.free + i)) := by
  rw [State.spiReads, frame_open h]
  extract_lets addr r o t
  have hr : r.1.length = n ∧ { r.2 with regs := s.regs, top := s.top } = s := by
    unfold r
    split
    · exact ⟨List.length_replicate, by unfold State.cond; split <;> rfl⟩
    · exact ⟨readRun_length n s .spi addr, readRun_rest n s .spi addr⟩
  obtain ⟨hlen, hrest⟩ := hr
  have hfree : r.2.free = s.free := (congrArg State.free hrest :)
  have ho : o = (r.1.zipIdx.map (fun x => Config.overclocked (r.2.free + x.2)), r.2.drawN r.1.length) := rfl
  have hend := frameEnds_rest (o.2.emit (.words .spi o.1)) (some cmd)
  refine ⟨o.1, ?_, ?_, ?_, fun i hi => ?_⟩
  · rw [ho, List.length_map, List.length_zipIdx, hlen]
  · exact (congrArg State.out hend :).trans (congrArg (Out.words .spi o.1 :: ·) (congrArg State.out hrest :))
  · exact (congrArg State.free hend :).trans (congrArg₂ (· + ·) hfree hlen)
  · simp [ho, hfree]

/-! ### WRITE (R128, R129) -/

theorem topScratch_not_marked (n : Fin 4) : Reg.topScratch n.val ∉ [Reg.spiStat, Reg.spiFrameCnt] := by revert n; decide

theorem exec_spiWrite_scratch {s : State} {n : Fin 4} (h : served s .spi (Reg.topScratch n.val)) (w : Word) (cut : Bool) :
    exec (.spiWrite (BitVec.ofNat 16 (Reg.topScratch n.val)) [w] cut) s =
      .next (((s.wr (Reg.topScratch n.val) w).cond cut (·.flag Fld.spiStatPartial)).frameEnds (some 0x02)) := by
  have haddr : (BitVec.ofNat 16 (Reg.topScratch n.val)).toNat = Reg.topScratch n.val := Nat.mod_eq_of_lt (topScratch_lt n)
  have hland : writeRun s .spi (Reg.topScratch n.val) [w] = s.wr (Reg.topScratch n.val) w := by
    rw [writeRun, Nat.mod_eq_of_lt (topScratch_lt n), serveWrite_ok h.2]
    exact regWrite_topScratch s .spi n w s.now
  have hcut : (cut && !(s.wr (Reg.topScratch n.val) w).top.silent) = cut := by
    rw [show (s.wr (Reg.topScratch n.val) w).top.silent = false from not_silent_of_spi h.1]
    exact Bool.and_true cut
  refine congrArg Host.Outcome.next ((frame_open h.1 _).trans ?_)
  simp only [haddr, aligned_of_reach_ok h.2, bne_self_eq_false, Bool.false_eq_true, if_false, hland, hcut]

/-- A cut inside a further word sets PARTIAL, which otherwise stands. -/
theorem cond_partial_is (s : State) (cut : Bool) :
    (s.cond cut (·.flag Fld.spiStatPartial)).is Fld.spiStatPartial = (s.is Fld.spiStatPartial || cut) := by
  cases cut with
  | false => exact (Bool.or_false _).symm
  | true => exact (State.is_flag s Fld.spiStatPartial (by decide) (by decide)).trans (Bool.or_true _).symm

theorem cond_partial_onlyRegs (s : State) (cut : Bool) : onlyRegs [Reg.spiStat] s (s.cond cut (·.flag Fld.spiStatPartial)) :=
  onlyRegs_cond (onlyRegs_refl _ s) cut _ (onlyRegs_put (onlyRegs_refl _ s) Fld.spiStatPartial _ (by decide))

theorem spiWrite_scratch (s : State) (n : Fin 4) (w : Word) (cut : Bool) (h : served s .spi (Reg.topScratch n.val)) :
    answers (.spiWrite (BitVec.ofNat 16 (Reg.topScratch n.val)) [w] cut) s fun t =>
    t.rd (Reg.topScratch n.val) = w ∧ t.get Fld.spiStatLastCmd = 0x02 ∧ t.spi.armed = false ∧ t.is Fld.spiStatPartial = (s.is Fld.spiStatPartial || cut) ∧
    regsOnly [Reg.topScratch n.val, Reg.spiStat, Reg.spiFrameCnt] s t ∧ { t with regs := s.regs, spi := s.spi } = s := by
  have hoff := topScratch_not_marked n
  obtain ⟨hstat, -⟩ := not_or.mp (List.mem_cons.not.mp hoff)
  have hexec := exec_spiWrite_scratch h w cut
  have hpartial := cond_partial_is (s.wr (Reg.topScratch n.val) w) cut
  obtain ⟨hrest, hregs⟩ := cond_partial_onlyRegs (s.wr (Reg.topScratch n.val) w) cut
  generalize (s.wr (Reg.topScratch n.val) w).cond cut (·.flag Fld.spiStatPartial) = u at hexec hpartial hrest hregs
  have hsilent : u.top.silent = false := (congrArg (·.top.silent) hrest :).trans (not_silent_of_spi h.1)
  have hend : regsOnly [Reg.spiStat, Reg.spiFrameCnt] u (u.frameEnds (some 0x02)) := (frameEnds_onlyRegs hsilent 0x02).2
  have hsince : regsOnly [Reg.spiStat, Reg.spiFrameCnt] (s.wr (Reg.topScratch n.val) w) (u.frameEnds (some 0x02)) :=
    regsOnly_trans (regsOnly_mono hregs (by decide)) hend
  have hkept : (s.wr (Reg.topScratch n.val) w).is Fld.spiStatPartial = s.is Fld.spiStatPartial :=
    congrArg (· != 0) (get_wr_ne s _ w Fld.spiStatPartial (Ne.symm hstat))
  refine answers_of hexec ⟨(hsince _ hoff).trans (s.rd_wr_self _ w), frameEnds_lastCmd hsilent 0x02 (by decide), frameEnds_disarms hsilent _, ?_,
    regsOnly_trans (regsOnly_wr s _ w List.mem_cons_self) (regsOnly_mono hsince (List.subset_cons_self _ _)), ?_⟩
  · rw [frameEnds_is u _ Fld.spiStatPartial rfl (by decide), hpartial, hkept]
  · exact (congrArg (fun v : State => { v with regs := s.regs, spi := s.spi }) (frameEnds_rest u (some 0x02)) :).trans
      (congrArg (fun v : State => { v with regs := s.regs, spi := s.spi }) hrest :)

/-! ### STATUS and WAKE (R135, R136) -/

theorem spiStatus_words (s : State) (n : Nat) (h : s.portOpen .spi = true) : answers (.spiStatus n false) s fun t =>
    t.out = .words .spi (List.replicate n s.spiStatus) :: s.out ∧ t.get Fld.spiStatLastCmd = 0x05 ∧
    fieldsOnly [Fld.spiStatLastCmd, Fld.spiFrameCntCount] s t ∧ { t with regs := s.regs, spi := s.spi, out := s.out } = s := by
  let u := s.emit (.words .spi (List.replicate n s.spiStatus))
  have hexec : exec (.spiStatus n false) s = .next (u.frameEnds (some 0x05)) := congrArg Host.Outcome.next (frame_open h _)
  have hsilent : u.top.silent = false := not_silent_of_spi h
  exact answers_of hexec ⟨frameEnds_out u _, frameEnds_lastCmd hsilent 0x05 (by decide), frameEnds_fieldsOnly u (some 0x05),
    (congrArg (fun v : State => { v with out := s.out }) (frameEnds_rest u (some 0x05)) :)⟩

theorem exec_spiWake {s : State} (h : s.portOpen .spi = true) : exec .spiWake s = .next ((s.cond s.runs (·.wake 2)).frameEnds (some 0xAB)) :=
  congrArg Host.Outcome.next (frame_open h _)

/-- A device that dozes, with no entry under way, begins its exit at an event that wakes it there (R774). -/
theorem wake_exits {s : State} {i : Nat} (hrow : (wakeRow i).1.contains s.pst = true) (hpst : s.pst ≠ 0) (hentry : s.pwr.entry = none) :
    (s.wake i).pwr.exiting = true ∧ (s.wake i).pwr.dwell = (s.pwr.dwell || (wakeRow i).2) ∧
      (s.wake i).get Fld.pwrWakeSrcSrc = (s.get Fld.pwrWakeSrcSrc ||| 2 ^ i) % 2 ^ 12 := by
  unfold State.wake
  extract_lets row target source dwelt
  have htarget : row.1.contains target = true := by rw [show target = s.pst from if_neg (by simpa using hpst)]; exact hrow
  have hnone : dwelt.pwr.entry = none := hentry
  rw [if_neg (by simp only [htarget]; decide), hnone]
  exact ⟨rfl, rfl, State.get_put_self s Fld.pwrWakeSrcSrc _ (by decide)⟩

/-- In D0 with no entry under way no event wakes. -/
theorem wake_awake {s : State} {i : Nat} (hrow : (wakeRow i).1.contains 0 = false) (hpst : s.pst = 0) (hentry : s.pwr.entry = none) : s.wake i = s := by
  unfold State.wake
  exact if_pos (by simp only [hpst, hentry]; simpa using hrow)

theorem spiWake_wakes (s : State) (h : s.portOpen .spi = true) (hruns : s.runs = true) (hpst : s.pst = 2) (hentry : s.pwr.entry = none) :
    answers .spiWake s fun t =>
    t.pwr.exiting = true ∧ t.pwr.dwell = true ∧ (t.get Fld.pwrWakeSrcSrc).testBit 2 = true ∧ t.get Fld.spiStatLastCmd = 0xAB := by
  have hexec := exec_spiWake h
  rw [show s.cond s.runs (·.wake 2) = s.wake 2 from if_pos hruns] at hexec
  obtain ⟨hexit, hdwell, hsource⟩ := wake_exits (i := 2) (by rw [hpst]; rfl) (by omega) hentry
  have hpwr : ((s.wake 2).frameEnds (some 0xAB)).pwr = (s.wake 2).pwr := (congrArg State.pwr (frameEnds_rest (s.wake 2) (some 0xAB)) :)
  have hsilent : (s.wake 2).top.silent = false := (congrArg Top.silent (wake_top s 2)).trans (not_silent_of_spi h)
  have hkept : ((s.wake 2).frameEnds (some 0xAB)).get Fld.pwrWakeSrcSrc = (s.wake 2).get Fld.pwrWakeSrcSrc :=
    get_of_regsOnly (frameEnds_onlyRegs hsilent 0xAB).2 Fld.pwrWakeSrcSrc (by decide)
  refine answers_of hexec ⟨(congrArg Pwr.exiting hpwr).trans hexit, (congrArg Pwr.dwell hpwr).trans (hdwell.trans (Bool.or_true _)), ?_,
    frameEnds_lastCmd hsilent 0xAB (by decide)⟩
  rw [hkept, hsource, Nat.testBit_mod_two_pow, Nat.testBit_or, Nat.testBit_two_pow_self, Bool.or_true]
  rfl

theorem spiWake_inD0 (s : State) (h : s.portOpen .spi = true) (hpst : s.pst = 0) (hentry : s.pwr.entry = none) : answers .spiWake s fun t =>
    t.get Fld.spiStatLastCmd = 0xAB ∧ fieldsOnly [Fld.spiStatLastCmd, Fld.spiFrameCntCount] s t ∧ { t with regs := s.regs, spi := s.spi } = s := by
  have hexec := exec_spiWake h
  have hawake : s.cond s.runs (·.wake 2) = s := (congrArg (fun u => if s.runs then u else s) (wake_awake rfl hpst hentry)).trans (ite_self s)
  rw [hawake] at hexec
  exact answers_of hexec ⟨frameEnds_lastCmd (not_silent_of_spi h) 0xAB (by decide), frameEnds_fieldsOnly s (some 0xAB), frameEnds_rest s _⟩

/-! ### Frames in error (R123, R132) -/

theorem spiUnknownCommand_badcmd (s : State) (c : BitVec 8) (h : s.portOpen .spi = true) (hc : c.toNat ∉ spiCommands) :
    answers (.spiUnknownCommand c) s fun t =>
    t.is Fld.spiStatBadcmd = true ∧ t.get Fld.spiStatLastCmd = c.toNat ∧ t.spi.armed = false ∧
    fieldsOnly [Fld.spiStatBadcmd, Fld.spiStatLastCmd, Fld.spiFrameCntCount] s t ∧ { t with regs := s.regs, spi := s.spi } = s := by
  have hexec : exec (.spiUnknownCommand c) s = .next ((s.flag Fld.spiStatBadcmd).frameEnds (some c.toNat)) :=
    congrArg Host.Outcome.next ((frame_open h _).trans (if_neg (by simpa using hc)))
  have hsilent := not_silent_of_spi h
  obtain ⟨hset, hdisarmed, hfields, hrest⟩ := flagged_frameEnds hsilent (some c.toNat) Fld.spiStatBadcmd rfl (by decide) (by decide)
  exact answers_of hexec ⟨hset, frameEnds_lastCmd (s := s.flag Fld.spiStatBadcmd) hsilent c.toNat c.isLt, hdisarmed, hfields, hrest⟩

theorem spiShortFrame_inAddress (s : State) (c : BitVec 8) (h : s.portOpen .spi = true) (hc : c = 0x03 ∨ c = 0x0B ∨ c = 0x02) :
    answers (.spiShortFrame (some c)) s fun t =>
    t.is Fld.spiStatShort = true ∧ t.get Fld.spiStatLastCmd = c.toNat ∧ t.spi.armed = false ∧
    fieldsOnly [Fld.spiStatShort, Fld.spiStatLastCmd, Fld.spiFrameCntCount] s t := by
  have haddressed : [0x03, 0x0B, 0x02].contains c.toNat = true := by rcases hc with rfl | rfl | rfl <;> rfl
  have hexec : exec (.spiShortFrame (some c)) s = .next ((s.flag Fld.spiStatShort).frameEnds (some c.toNat)) :=
    congrArg Host.Outcome.next ((frame_open h _).trans (if_pos haddressed))
  have hsilent := not_silent_of_spi h
  obtain ⟨hset, hdisarmed, hfields, -⟩ := flagged_frameEnds hsilent (some c.toNat) Fld.spiStatShort rfl (by decide) (by decide)
  exact answers_of hexec ⟨hset, frameEnds_lastCmd (s := s.flag Fld.spiStatShort) hsilent c.toNat c.isLt, hdisarmed, hfields⟩

theorem spiShortFrame_inCommand (s : State) (h : s.portOpen .spi = true) : answers (.spiShortFrame none) s fun t =>
    t.is Fld.spiStatShort = true ∧ t.spi.armed = false ∧ fieldsOnly [Fld.spiStatShort, Fld.spiFrameCntCount] s t := by
  have hexec : exec (.spiShortFrame none) s = .next ((s.flag Fld.spiStatShort).frameEnds none) := congrArg Host.Outcome.next (frame_open h _)
  obtain ⟨hset, hdisarmed, hfields, -⟩ := flagged_frameEnds (not_silent_of_spi h) none Fld.spiStatShort rfl (by decide) (by decide)
  exact answers_of hexec ⟨hset, hdisarmed, hfields⟩

/-! ### The two statements -/

/-- Settles O50: the frame is the identity on the state. -/
theorem aFrameWithoutAClockDoesNothing : Obligations.AFrameWithoutAClockDoesNothing := fun _ => rfl

/-- Settles O18: each kind of frame from its own lemma, and the edge of SPI_CS_N by whether the device is in D4. -/
theorem spiFramesOfThePort : Obligations.SpiFramesOfThePort := by
  unfold Obligations.SpiFramesOfThePort
  exact ⟨spiRead_word, fun s a n h => answers_of rfl (spiReads_tooFast 0x0B a n h), spiWrite_scratch, spiStatus_words, spiWake_wakes, spiWake_inD0,
    spiUnknownCommand_badcmd, spiShortFrame_inAddress, spiShortFrame_inCommand, fun s => answers_of (aFrameWithoutAClockDoesNothing s) rfl,
    fun s hd4 => answers_of (congrArg Host.Outcome.next (if_pos hd4)) rfl,
    fun s hawake => answers_of (congrArg Host.Outcome.next (if_neg (by simp [hawake]))) rfl⟩

end Sys2Proof.Machine
end

section
/-! Reads of the high half of a pair, writes of registers that are RO throughout, and the JTAG instructions (R154, R166, R169, R846, R847). -/

namespace Sys2Proof.Machine

/-! ### The high half of a pair (R168, R169) -/

/-- No register is the low half of one pair and the high half of another. -/
theorem isPairLo_high {lo : Nat} (h : isPairLo lo = true) : isPairLo (lo + 4) = false := by
  have hrings : ∀ n : Fin 24, isPairLo (Reg.hifRingBaseLo n.val + 4) = false := by decide
  rw [isPairLo, Bool.or_eq_true, List.contains_iff_mem, List.any_eq_true] at h
  rcases h with hfixed | ⟨n, -, hn⟩
  · exact (show ∀ off ∈ [Reg.topUniqueLo, Reg.bootSvcAddrLo, Reg.bootSeqAddrLo, Reg.pipCountLo, Reg.sampOctetMaskLo, Reg.laceMembersLo],
      isPairLo (off + 4) = false by decide) lo hfixed
  · rw [← eq_of_beq hn]
    exact hrings n

/-- With no word of the pair in the port's read shadow the high half reads live. -/
theorem loHalfRead_high_live (s : State) (p : Port) (lo : Nat) (h : served s p (lo + 4)) (hoff : lo + 4 < 0x10000) (hlo : isPairLo lo = true)
    (hother : ∀ w, s.top.rdShadow[p.idx] ≠ some (lo, w)) : exec (.loHalfRead p (lo + 4) 1) s = .next (s.emit (.words p [s.regView (lo + 4)])) := by
  have hread : s.serveRead p (lo + 4) = (s.regView (lo + 4), s) := by
    rw [State.serveRead, h.2]
    dsimp only
    rw [if_neg (by simp [isPairLo_high hlo]), if_pos (by simp [hlo])]
    split
    · next tag w hshadow =>
      have htag : tag ≠ lo := by rintro rfl; exact hother w hshadow
      rw [if_neg (by simpa using htag)]
    · rfl
  rw [exec_loHalfRead h.1 hoff, hread]

/-- Settles O52: the high half reads from the port's shadow where that is tagged with the pair, and live where it is not. -/
theorem theHighHalfIsReadFromThePortsShadow : Obligations.TheHighHalfIsReadFromThePortsShadow := by
  unfold Obligations.TheHighHalfIsReadFromThePortsShadow
  intro s p lo h hoff hlo
  exact ⟨fun w hkept => answers_of (loHalfRead_high s p lo w h hoff hlo (isPairLo_high hlo) hkept) rfl,
    fun hother => answers_of (loHalfRead_high_live s p lo h hoff hlo hother) rfl⟩

/-! ### Registers that are RO throughout (R166) -/

/-- A write that reaches RO fields alone leaves the state as it is. -/
theorem regWrite_readOnly {s : State} {p : Port} {off : Nat} {r : RegRow} (hrow : regRow off = some r) (hro : ∀ f ∈ s.fieldsAt off r, f.acc = .ro)
    (hdbg : off < 0xF004 ∨ p = .jtag) (w : Word) (t : WriteAt) : s.regWrite p off w t = s := by
  have hport : (decide (0xF004 ≤ off) && p != .jtag) = false := by
    rcases hdbg with hlow | rfl
    · simp [hlow]
    · simp
  have hall : allRO (s.fieldsAt off r) = true := List.all_eq_true.mpr fun f hf => beq_iff_eq.mpr (hro f hf)
  rw [State.regWrite, hrow]
  dsimp only
  rw [hport, hall]
  rfl

/-- Settles O51: the write is served, meets RO fields alone, and no soft reset is due after it. -/
theorem writesOfReadOnlyRegistersDoNothing : Obligations.WritesOfReadOnlyRegistersDoNothing := by
  unfold Obligations.WritesOfReadOnlyRegistersDoNothing
  intro s p off w r h hoff hrow hro hdbg hsoft
  have hland : s.serveWrite p off w s.now = s := (serveWrite_ok h.2 w s.now).trans (regWrite_readOnly hrow hro hdbg w s.now)
  have hexec := exec_registerWrite_one h.1 hoff w (by rw [hland]; exact hsoft)
  exact answers_of (hexec.trans (congrArg Host.Outcome.next hland)) rfl

/-! ### The JTAG instructions (R154, R846, R847) -/

/-- A command of the test port takes effect while the device is alive. -/
theorem answers_live {c : Instr} {s : State} {f : State → State} {P : State → Prop} (hc : exec c s = live s f) (h : s.alive = true) (hP : P (f s)) :
    answers c s P := answers_of (hc.trans (exec_live h)) hP

/-- The state with an instruction loaded and the outcome of the last access shifted out (R154). -/
def State.regaccScanned (s : State) : State := (s.jtagIr 0b100010#6 false false).emit (.jtag s.jtag.regacc.toNat)

/-- A scan of REGACC without VALID makes no access. -/
theorem jtagRegacc_scans {s : State} (h : s.portOpen .jtag = true) (wr : Bool) (off : BitVec 16) (w : Word) :
    exec (.jtagRegacc wr false off w false) s = .next s.regaccScanned :=
  congrArg Host.Outcome.next (if_neg (by simp [h]))

theorem regaccOffset {off : Nat} (h : off < 0x10000) : (BitVec.ofNat 16 off).toNat = off := by simpa using h

/-- A scan with VALID writes the register after the outcome of the access before has gone out. -/
theorem jtagRegacc_writes {s u : State} {off : Nat} {w : Word} (h : s.portOpen .jtag = true) (hlt : off < 0x10000)
    (hland : s.regaccScanned.serveWrite .jtag off w s.now = u) :
    exec (.jtagRegacc true true (BitVec.ofNat 16 off) w false) s = .next (u.modJtag (fun p => { p with regacc := regaccOf true (BitVec.ofNat 16 off) 0 })) := by
  subst hland
  refine congrArg Host.Outcome.next ((if_neg (by simp [h])).trans ?_)
  dsimp only
  rw [regaccOffset hlt]
  rfl

/-- A scan with VALID reads the register likewise, and holds what it read. -/
theorem jtagRegacc_reads {s : State} {off : Nat} {r : Word} (w : Word) (h : s.portOpen .jtag = true) (hlt : off < 0x10000)
    (hread : s.regaccScanned.serveRead .jtag off = (r, s.regaccScanned)) : exec (.jtagRegacc false true (BitVec.ofNat 16 off) w false) s =
      .next (s.regaccScanned.modJtag (fun p => { p with regacc := regaccOf true (BitVec.ofNat 16 off) r })) := by
  refine congrArg Host.Outcome.next ((if_neg (by simp [h])).trans ?_)
  dsimp only
  rw [regaccOffset hlt]
  exact congrArg (fun q : Word × State => q.2.modJtag (fun p => { p with regacc := regaccOf true (BitVec.ofNat 16 off) q.1 })) hread

theorem regacc_held (s : State) (g : BitVec 50) : (s.modJtag (fun p => { p with regacc := g })).jtag.regacc = g := rfl

theorem jtagRegacc_scratch (s : State) (n : Fin 4) (w : Word) (h : served s .jtag (Reg.topScratch n.val)) :
    answers (.jtagRegacc true true (BitVec.ofNat 16 (Reg.topScratch n.val)) w false) s fun t =>
      t.rd (Reg.topScratch n.val) = w ∧ t.jtag.ir = 0b100010 ∧ t.jtag.regacc = regaccOf true (BitVec.ofNat 16 (Reg.topScratch n.val)) 0 ∧
      t.out = .jtag s.jtag.regacc.toNat :: s.out ∧ regsOnly [Reg.topScratch n.val] s t ∧ { t with regs := s.regs, jtag := s.jtag, out := s.out } = s := by
  have hreach : s.regaccScanned.reach .jtag (Reg.topScratch n.val) = .ok := (reach_topScratch_ok _ .jtag n).mpr ((reach_topScratch_ok s .jtag n).mp h.2)
  have hland : s.regaccScanned.serveWrite .jtag (Reg.topScratch n.val) w s.now = s.regaccScanned.wr (Reg.topScratch n.val) w :=
    (serveWrite_ok hreach w s.now).trans (regWrite_topScratch _ .jtag n w s.now)
  exact answers_of (jtagRegacc_writes h.1 (topScratch_lt n) hland) ⟨(State.modJtag_rd _ _ _).trans (State.rd_wr_self s.regaccScanned _ w), rfl, regacc_held _ _, rfl, regsOnly_wr s _ w (by simp), rfl⟩

theorem jtagRegacc_register (s : State) (off : Nat) (w : Word) (h : served s .jtag off) (hlt : off < 0x10000) (hlo : isPairLo off = false)
    (hhi : off < 4 ∨ isPairLo (off - 4) = false) : answers (.jtagRegacc false true (BitVec.ofNat 16 off) w false) s fun t =>
      t.jtag.regacc = regaccOf true (BitVec.ofNat 16 off) (s.regView off) ∧ { t with jtag := s.jtag, out := s.out } = s := by
  have hreach : s.regaccScanned.reach .jtag off = .ok := h.2
  have hview : s.regaccScanned.regView off = s.regView off := rfl
  have hread := serveRead_single hreach hlo hhi
  rw [hview] at hread
  exact answers_of (jtagRegacc_reads w h.1 hlt hread) ⟨rfl, rfl⟩

/-- The codes of no listed instruction select BYPASS. -/
theorem jtagBypass_loads (s : State) (c : BitVec 6) (h : s.alive = true) (hc : c.toNat ∉ jtagCodes) :
    answers (.jtagBypass c) s fun t => t = s.modJtag (fun p => { p with ir := c, drives := false, highz := false }) := by
  have hexec : exec (.jtagBypass c) s = live s fun s => if jtagCodes.contains c.toNat then s else s.jtagIr c false false := rfl
  exact answers_live hexec h (if_neg (by simpa using hc))

/-- A command of the test port that leaves EN_MAIN and EN_RF leaves them alive or not. -/
theorem live_keeps_supplyEnables {s t : State} {f : State → State} (hf : (f s).supplyEnables = s.supplyEnables) (h : live s f = .next t) :
    t.supplyEnables = s.supplyEnables := by
  cases h
  split
  · exact hf
  · rfl

/-- Settles O16: each instruction is its effect on the test port while the device is alive, and REGACC's access that of its port. -/
theorem jtagInstructionsAndTheirScans : Obligations.JtagInstructionsAndTheirScans := by
  unfold Obligations.JtagInstructionsAndTheirScans
  refine ⟨fun s b v h => answers_live (f := fun s => (s.jtagIr 0b000000#6 true false).boundaryScan b v) rfl h rfl,
    fun s b v h => answers_live (f := fun s => (s.jtagIr 0b000010#6 false false).boundaryScan b v) rfl h rfl,
    fun s h => answers_live (f := fun s => (s.jtagIr 0b000001#6 false false).emit (.jtag 0x17340B4D)) rfl h rfl,
    fun s h => answers_live (f := (·.jtagIr 0b000011#6 true false)) rfl h rfl, fun s h => answers_live (f := (·.jtagIr 0b000100#6 false true)) rfl h rfl,
    jtagBypass_loads, fun s wr off w h => answers_of (jtagRegacc_scans (s := s) h wr off w) rfl, jtagRegacc_scratch, jtagRegacc_register,
    fun s t i hi hexec => ?_⟩
  rcases hi with ⟨b, v, rfl⟩ | rfl | rfl
  · exact live_keeps_supplyEnables (f := fun s => (s.jtagIr 0b000000#6 true false).boundaryScan b v) rfl hexec
  · exact live_keeps_supplyEnables (f := (·.jtagIr 0b000011#6 true false)) rfl hexec
  · exact live_keeps_supplyEnables (f := (·.jtagIr 0b000100#6 false true)) rfl hexec

end Sys2Proof.Machine
end

section
/-! Every command ends in a next state, which keeps the queue and only adds to what has gone out. -/

namespace Sys2Proof.Machine

/-! ### What the events of the board add to -/

theorem Grows.ite {s t u : State} (c : Prop) [Decidable c] (h : Grows s t) (k : Grows s u) : Grows s (if c then t else u) := by
  split
  · exact h
  · exact k

theorem sampleStraps_grows (s : State) (st : Straps) : Grows s (s.sampleStraps st) := (Grows.modTop s _).trans ((Keeps.refl _).putB _ _).grows

theorem leaveD4_grows (s : State) (st : Straps) : Grows s (s.leaveD4 st) := by
  unfold State.leaveD4
  extract_lets wakes por silent booted
  have hbooted : Grows s booted := ((Keeps.refl s).hardReset por).grows.trans (sampleStraps_grows _ st)
  exact hbooted.trans (((Keeps.refl _).modSpi _).modPwr _).grows

/-- An event of the board keeps the queue, and adds to what has gone out and to the free values, as any command does. -/
theorem boardEvent_grows {c : Instr} {s t : State} (hb : BoardEvent c) (h : exec c s = .next t) : Grows s t := by
  cases hb with
  | railGood r =>
    change execRailGood r s = .next t at h
    cases h
    have hrail : Grows s (s.setRail r true) := Grows.modEnv s _
    exact .ite _ (.refl s) (hrail.trans (((Keeps.refl _).cond _ _ fun _ k => k.modTop _ rfl).cond _ _ fun _ k => k.railsBack).grows)
  | railLost r =>
    change execRailLost r s = .next t at h
    cases h
    have hrail : Grows s (s.setRail r false) := Grows.modEnv s _
    refine .ite _ (.refl s) (hrail.trans ?_)
    exact (Keeps.ite _ (Keeps.ite _ (.refl _) ((Keeps.refl _).hardReset true)) ((Keeps.refl _).cond _ _ fun _ k => k.radioRailLost _)).grows
  | powerOnResetRelease st =>
    change execPowerOnResetRelease st s = .next t at h
    cases h
    exact .ite _ (.refl s) ((Grows.modTop s _).trans (((Keeps.refl _).modSpi _).grows.trans (sampleStraps_grows _ st)))
  | resetNAssert ns =>
    change execResetNAssert ns s = .next t at h
    cases h
    have hlow : Grows s (s.modEnv fun p => { p with resetLow := true }) := Grows.modEnv s _
    exact .ite _ (Keeps.refl s).draw.grows (hlow.trans (Keeps.ite _ (Keeps.refl _).draw ((Keeps.refl _).draw.hardReset _)).grows)
  | resetNRelease st ns =>
    change execResetNRelease st ns s = .next t at h
    cases h
    have hhigh : Grows s (s.modEnv fun p => { p with resetLow := false }).draw := (Grows.modEnv s _).trans (Keeps.refl _).draw.grows
    exact .ite _ (Keeps.refl s).draw.grows (.ite _ (hhigh.trans (((Keeps.refl _).modPwr _).grows.trans (leaveD4_grows _ st)))
      (.ite _ hhigh (hhigh.trans (sampleStraps_grows _ st))))
  | perstNAssert =>
    change execPerstNAssert s = .next t at h
    cases h
    have hlow : Grows s (s.modEnv fun p => { p with perstLow := true }) := Grows.modEnv s _
    exact hlow.trans ((Keeps.refl _).cond _ _ fun _ k => k.hifReset.fetchAbort.functionReset.modPcie _).grows
  | perstNRelease =>
    change execPerstNRelease s = .next t at h
    cases h
    exact (Grows.modEnv s _).trans (((Keeps.refl _).modPcie _).modPwr _).grows
  | d4Wake st =>
    change execD4Wake st s = .next t at h
    cases h
    exact .ite _ (leaveD4_grows s st) (.refl s)

/-- Every command keeps the queue, and only adds to what has gone out and to the free values. -/
theorem exec_grows {c : Instr} {s t : State} (h : exec c s = .next t) : Grows s t := by
  rcases boardEvent_or_keeps c s with hb | hk
  · exact boardEvent_grows hb h
  · exact (hk t h).grows

/-- The arm of every command ends in a next state: none faults, none is refused. -/
theorem exec_next (c : Instr) (s : State) : ∃ t, exec c s = .next t := by
  cases c <;> exact ⟨_, rfl⟩

/-- Settles O2: a next state from the arm of each command, which keeps what every command keeps. -/
theorem everyCommandAnswersWithTheQueueUntouched : Obligations.EveryCommandAnswersWithTheQueueUntouched := by
  unfold Obligations.EveryCommandAnswersWithTheQueueUntouched
  intro c s
  obtain ⟨t, h⟩ := exec_next c s
  have hgrows := exec_grows h
  exact answers_of h ⟨hgrows.pending, hgrows.out, hgrows.free⟩

end Sys2Proof.Machine
end

section
/-! What the hold of a block leaves: the other blocks' holds and generations, the straps and the tile sequence number (R175 to R181). -/

namespace Sys2Proof.Machine

/-- The holds and generations of the blocks, the straps and the tile sequence number are in `t` as in `s`. -/
structure BlocksStand (s t : State) : Prop where
  blk : t.top.blk = s.top.blk
  straps : t.top.straps = s.top.straps
  tile : t.tile = s.tile

namespace BlocksStand

variable {a s : State}

theorem refl (s : State) : BlocksStand s s := ⟨rfl, rfl, rfl⟩
theorem trans {t : State} (h : BlocksStand a s) (k : BlocksStand s t) : BlocksStand a t :=
  ⟨k.blk.trans h.blk, k.straps.trans h.straps, k.tile.trans h.tile⟩
theorem ite {t : State} (c : Prop) [Decidable c] (h : BlocksStand a s) (k : BlocksStand a t) : BlocksStand a (if c then s else t) := by
  split
  · exact h
  · exact k
theorem cond (h : BlocksStand a s) (b : Bool) (f : State → State) (hf : BlocksStand a (f s)) : BlocksStand a (s.cond b f) := ite _ hf h
theorem forEach {α : Type} (h : BlocksStand a s) (l : List α) (f : State → α → State) (hf : ∀ t x, BlocksStand t (f t x)) : BlocksStand a (s.forEach l f) :=
  forEach_induct (P := BlocksStand a) (fun t x k => k.trans (hf t x)) l h
/-- A change of other data. -/
theorem same {t : State} (h : BlocksStand a s) (hb : t.top.blk = s.top.blk) (hs : t.top.straps = s.top.straps) (ht : t.tile = s.tile) : BlocksStand a t :=
  h.trans ⟨hb, hs, ht⟩
theorem put (h : BlocksStand a s) (f : FieldRef) (v : Nat) : BlocksStand a (s.put f v) := h.same rfl rfl rfl
theorem wr (h : BlocksStand a s) (off : Nat) (w : Word) : BlocksStand a (s.wr off w) := h.same rfl rfl rfl
theorem logs {t : State} (h : BlocksStand a s) (k : logsOnly s t) : BlocksStand a t :=
  h.same (congrArg (·.top.blk) k.1) (congrArg (·.top.straps) k.1) (congrArg (·.tile) k.1)
theorem radio {t : State} {offs : List Nat} (h : BlocksStand a s) (k : RadioOnly offs s t) : BlocksStand a t :=
  h.same (congrArg (·.top.blk) k.rest) (congrArg (·.top.straps) k.rest) (congrArg (·.tile) k.rest)

theorem finish (h : BlocksStand a s) (d : Desc) (status : Nat) : BlocksStand a (s.finish d status) := h.logs ((logsOnly.refl s).finish d status)
theorem partDone (h : BlocksStand a s) (d : Desc) (r : Result) : BlocksStand a (s.partDone d r) := h.logs ((logsOnly.refl s).partDone d r)
theorem finishOpt (h : BlocksStand a s) (d : Option Desc) (r : Result) : BlocksStand a (s.finishOpt d r) := h.logs ((logsOnly.refl s).finishOpt d r)

/-! ### The sends and the synthesisers (R868) -/

theorem endBeacon (h : BlocksStand a s) (b : BeaconReq) (status : Nat) : BlocksStand a (s.endBeacon b status) :=
  ((h.same (t := s.modTag _) rfl rfl rfl).put Fld.tagDutyUsedUsed _).finishOpt _ _

theorem serveEnds (h : BlocksStand a s) (status : Nat) : BlocksStand a (s.serveEnds status) := by
  unfold State.serveEnds
  split
  · exact .ite _ h ((h.same (t := s.modTag _) rfl rfl rfl).endBeacon _ status)
  · exact h

theorem sendEnds (h : BlocksStand a s) (status : Nat) : BlocksStand a (s.sendEnds status) := by
  unfold State.sendEnds
  split
  · exact h
  · extract_lets u v
    have hu : BlocksStand a u := h.same rfl rfl rfl
    have hv : BlocksStand a v := hu.cond _ _ (hu.radio (setLoState_radioOnly u loT stSynth))
    split
    · exact .ite _ ((hv.same (t := v.modTag _) rfl rfl rfl).endBeacon _ status) hv
    · exact hv

theorem radioEnds (h : BlocksStand a s) (d : Desc) (status : Nat) : BlocksStand a (s.radioEnds d status) :=
  (h.same (t := s.modRadio _) rfl rfl rfl).finish d status

theorem loFlush (h : BlocksStand a s) (n : Fin 5) (status : Nat) : BlocksStand a (s.loFlush n status) := by
  unfold State.loFlush
  extract_lets l rs ds u
  have hu : BlocksStand a u := h.same rfl rfl rfl
  have hends := hu.forEach ds (fun s d => s.radioEnds d status) fun t d => (refl t).radioEnds d status
  exact hends.cond _ _ (hends.serveEnds status)

theorem radiosSleep (h : BlocksStand a s) (send moves : Nat) : BlocksStand a (s.radiosSleep send moves) :=
  (h.sendEnds send).forEach allLos _ fun t n => (((refl t).loFlush n moves).radio (loOff_radioOnly _ n stSleep)).put _ _

/-! ### The exchange (R724) -/

theorem setRun (h : BlocksStand a s) (xid : Nat) (r : Option ExchRun) : BlocksStand a (s.setRun xid r) := h.same rfl rfl rfl

theorem endExch (h : BlocksStand a s) (xid status : Nat) : BlocksStand a (s.endExch xid status) := by
  unfold State.endExch
  split
  · exact h
  · next r _ =>
    have hkept : ∀ f g, BlocksStand a (if xid == 0 then (s.setRun xid none).modExch f else (s.setRun xid none).modExch g) :=
      fun f g => .ite _ ((h.setRun xid none).same rfl rfl rfl) ((h.setRun xid none).same rfl rfl rfl)
    exact ((hkept _ _).finishOpt _ _).forEach _ _ fun t d => (refl t).finish d stOK

theorem tellOthers (h : BlocksStand a s) (code : Nat) (ws : List Word) : BlocksStand a (s.tellOthers code ws) :=
  h.forEach _ _ fun t _ => (refl t).logs ((logsOnly.refl t).sendReq _ _)

/-! ### What each block's hold does to its function -/

theorem pipHeld (h : BlocksStand a s) : BlocksStand a s.pipHeld := h.same rfl rfl rfl

theorem modRadio (h : BlocksStand a s) (f : Radio → Radio) : BlocksStand a (s.modRadio f) := h.same rfl rfl rfl

theorem radioHeld (h : BlocksStand a s) : BlocksStand a s.radioHeld := by
  unfold State.radioHeld
  exact (h.radiosSleep stPeerReset stPeerReset).modRadio _

theorem capEnd (h : BlocksStand a s) (r : Fin 4) (status : Nat) : BlocksStand a (s.capEnd r status) := by
  unfold State.capEnd
  split
  · next c _ => exact (h.same (t := s.setCap r none) rfl rfl rfl).logs ((logsOnly.refl _).complete c.d _)
  · exact h

theorem sampHeld (h : BlocksStand a s) : BlocksStand a s.sampHeld := by
  have hends := h.forEach allPaths (fun s r => match s.samp.caps[r] with
    | some c => if c.member == s.me then s.capEnd r stPeerReset else s
    | none => s) fun t r => by
      split
      · exact .ite _ ((refl t).capEnd r stPeerReset) (refl t)
      · exact refl t
  exact hends.same rfl rfl rfl

theorem calHeld (h : BlocksStand a s) : BlocksStand a s.calHeld :=
  (h.same (t := s.modCal _) rfl rfl rfl).forEach _ _ fun t d => (refl t).finish d stPeerReset

theorem modBcst (h : BlocksStand a s) (f : Bcst → Bcst) : BlocksStand a (s.modBcst f) := h.same rfl rfl rfl

theorem bcstHeld (h : BlocksStand a s) : BlocksStand a s.bcstHeld := by
  unfold State.bcstHeld
  extract_lets src u w
  have hu : BlocksStand a u := h.forEach allPaths _ fun t i =>
    ((refl t).same (t := t.modSrc i _) rfl rfl rfl).forEach _ _ fun t d => (refl t).finish d stPeerReset
  have hw : BlocksStand a w := by
    unfold w
    split
    · exact hu.logs ((logsOnly.refl u).complete _ _)
    · exact hu
  exact hw.modBcst _

theorem audHeld (h : BlocksStand a s) : BlocksStand a s.audHeld := by
  unfold State.audHeld
  extract_lets ds r reset u v
  have hv : BlocksStand a v := (h.same (t := u) rfl rfl rfl).forEach ds _ fun t d => (refl t).finish d stPeerReset
  clear_value r
  cases r with
  | none => exact hv
  | some d => exact hv.logs ((logsOnly.refl v).complete _ _)

theorem closeSets (h : BlocksStand a s) (p : OpenSet → Bool) (status : Nat) : BlocksStand a (s.closeSets p status) := by
  refine (h.same (t := s.modTag _) rfl rfl rfl).forEach _ _ fun t o => ?_
  split
  · exact (refl t).partDone _ _
  · exact refl t

theorem tagHeld (h : BlocksStand a s) : BlocksStand a s.tagHeld := by
  unfold State.tagHeld
  extract_lets u bs v os w x
  have hu : BlocksStand a u := h.sendEnds stPeerReset
  have hv : BlocksStand a v := (hu.same (t := u.modTag _) rfl rfl rfl).forEach bs _ fun t b => (refl t).endBeacon b stPeerReset
  have hw : BlocksStand a w := (hv.same (t := v.modTag _) rfl rfl rfl).forEach os _ fun t o => (refl t).partDone o.1 _
  exact (hw.closeSets _ stPeerReset).same rfl rfl rfl

theorem lnkHeld (h : BlocksStand a s) : BlocksStand a s.lnkHeld :=
  ((h.cond s.head _ (h.same (t := s.wr _ _) rfl rfl rfl)).put Fld.laceEpochStaleDrop 0).forEach allLinks _ fun t _ => (refl t).same rfl rfl rfl

theorem exchHeld (h : BlocksStand a s) : BlocksStand a s.exchHeld := by
  have hends := (h.endExch 0 stPeerReset).endExch 1 stPeerReset
  exact (hends.cond _ _ (hends.tellOthers msgExchHeld [])).same rfl rfl rfl

theorem retiredMirrors (h : BlocksStand a s) : BlocksStand a s.retiredMirrors := by
  have hlos := h.forEach allLos (fun s n => s.cond (s.retired 1 n.val) (·.putB (Fld.loStatRetired n.val) true)) fun t _ =>
    (refl t).cond _ _ ((refl t).put _ _)
  have hlinks := hlos.forEach allLinks (fun s k =>
    (s.put (Fld.lnkLanesRetired k.val) (b2n (s.retired 2 (2 * k.val)) + 2 * b2n (s.retired 2 (2 * k.val + 1)))).cond (s.retired 3 k.val)
      (·.put (Fld.lnkStatState k.val) lkRetired)) fun t _ => ((refl t).put _ _).cond _ _ (((refl t).put _ _).put _ _)
  exact (hlinks.put _ _).put _ _

theorem clearRegs (h : BlocksStand a s) (lo hi : Nat) : BlocksStand a (s.clearRegs lo hi) := h.same rfl rfl rfl

/-- What a hold does to a block other than HIF leaves the holds, the straps and the tile. -/
theorem blkCleared (h : BlocksStand a s) (b : Blk) (hb : b ≠ .hif) : BlocksStand a (s.blkCleared b) := by
  cases b with
  | hif => exact absurd rfl hb
  | pip => exact h.pipHeld.clearRegs _ _
  | radio => exact (h.radioHeld.clearRegs _ _).retiredMirrors
  | samp => exact h.sampHeld.clearRegs _ _
  | cal => exact h.calHeld.clearRegs _ _
  | bcst => exact h.bcstHeld.clearRegs _ _
  | aud => exact h.audHeld.clearRegs _ _
  | tag => exact h.tagHeld.clearRegs _ _
  | lnk => exact h.lnkHeld
  | exch => exact (h.exchHeld.clearRegs _ _).wr _ _

end BlocksStand

end Sys2Proof.Machine
end

section
/-! Holding and releasing one block (R175 to R181), the reply of an earlier generation (R179) and COMPAT6 (R185). -/

namespace Sys2Proof.Machine

theorem Blk.all_idx (b : Blk) : Blk.all[b.idx.val]? = some b := by cases b <;> rfl
theorem Blk.mem_all (b : Blk) : b ∈ Blk.all := List.mem_of_getElem? b.all_idx
theorem Blk.idx_inj {b c : Blk} (h : c.idx = b.idx) : c = b := Option.some.inj (by rw [← c.all_idx, ← b.all_idx, h])

theorem blkSt_upd_self (s : State) (b : Blk) (f : BlkSt → BlkSt) :
    (s.modTop (fun t => { t with blk := upd t.blk b.idx f })).blkSt b = f (s.blkSt b) := upd_self ..
theorem blkSt_upd_gen (s : State) (b : Blk) (f : BlkSt → BlkSt) (hf : ∀ q, (f q).gen = q.gen) :
    ((s.modTop (fun t => { t with blk := upd t.blk b.idx f })).blkSt b).gen = (s.blkSt b).gen := by rw [blkSt_upd_self, hf]
theorem blkSt_upd_ne (s : State) {b c : Blk} (f : BlkSt → BlkSt) (h : c ≠ b) :
    (s.modTop (fun t => { t with blk := upd t.blk b.idx f })).blkSt c = s.blkSt c := upd_ne _ _ _ _ fun e => h (Blk.idx_inj e)
theorem free?_congr {s t : State} {b : Blk} (h : t.blkSt b = s.blkSt b) : t.free? b = s.free? b := by rw [State.free?, h, State.free?]
theorem hold_of_free {s : State} {b : Blk} (h : s.free? b = true) : (s.blkSt b).hold = .free := by simpa [State.free?] using h

theorem BlocksStand.blkSt_eq {s t : State} (h : BlocksStand s t) (c : Blk) : t.blkSt c = s.blkSt c := by rw [State.blkSt, h.blk, State.blkSt]

/-- What a hold does to a block's function leaves the other blocks, the straps and the tile; the generation of HIF has advanced with it. -/
theorem blkCleared_stands (s : State) (b : Blk) :
    ((s.blkCleared b).blkSt b).gen = (s.blkSt b).gen + (if b = .hif then 1 else 0) ∧ (∀ c, c ≠ b → (s.blkCleared b).blkSt c = s.blkSt c) ∧
      (s.blkCleared b).top.straps = s.top.straps ∧ (s.blkCleared b).tile = s.tile := by
  by_cases hb : b = .hif
  · subst hb
    have hrest := (hifReset_orphansEnd s).rest
    have htop : s.hifReset.top = s.hifCleared.top := congrArg (·.top) hrest
    have hblk : ∀ c, s.hifReset.blkSt c = s.hifCleared.blkSt c := fun c => by rw [State.blkSt, htop, State.blkSt]
    refine ⟨?_, fun c hc => ?_, congrArg (·.straps) htop, congrArg (·.tile) hrest⟩
    · rw [if_pos rfl]
      exact congrArg BlkSt.gen ((hblk .hif).trans (upd_self ..))
    · exact (hblk c).trans (upd_ne _ _ _ _ fun e => hc (Blk.idx_inj e))
  · have h := (BlocksStand.refl s).blkCleared b hb
    rw [if_neg hb]
    exact ⟨by rw [h.blkSt_eq]; exact (BitVec.add_zero _).symm, fun c _ => h.blkSt_eq c, h.straps, h.tile⟩

/-- A block whose hold ends with the clearing of its registers. -/
theorem blkCleared_regs (s : State) {b : Blk} (hb : b ∈ [Blk.pip, .samp, .cal, .bcst, .aud, .tag]) (off : Nat) (hlo : b.base ≤ off) (hhi : off < b.base + b.size) :
    (s.blkCleared b).rd off = resetWord off := by
  have hclear : ∃ t : State, s.blkCleared b = t.clearRegs b.base (b.base + b.size) := by
    cases b with
    | pip | samp | cal | bcst | aud | tag => exact ⟨_, rfl⟩
    | hif | radio | lnk | exch => simp at hb
  obtain ⟨t, ht⟩ := hclear
  rw [ht, State.rd_clearRegs, if_pos ⟨hlo, hhi⟩]

/-- A free block becomes held, under the next generation. -/
theorem holdBlk_holds {s : State} {b : Blk} (h : s.free? b = true) :
    ((s.holdBlk b).blkSt b).hold = .held ∧ ((s.holdBlk b).blkSt b).gen = (s.blkSt b).gen + 1 ∧ (∀ c, c ≠ b → (s.holdBlk b).blkSt c = s.blkSt c) ∧
      (s.holdBlk b).top.straps = s.top.straps ∧ (s.holdBlk b).tile = s.tile ∧ ∀ off, (s.holdBlk b).rd off = (s.blkCleared b).rd off := by
  have hnot : ((s.blkSt b).hold == .held) = false := by rw [hold_of_free h]; rfl
  obtain ⟨hgen, hother, hstraps, htile⟩ := blkCleared_stands s b
  have hblk : (s.holdBlk b).blkSt b =
      { hold := .held, gen := if b == .hif then ((s.blkCleared b).blkSt b).gen else ((s.blkCleared b).blkSt b).gen + 1 } := by
    rw [State.holdBlk, if_neg (by simp [hnot])]
    exact upd_self ..
  rw [hgen] at hblk
  refine ⟨by rw [hblk], ?_, fun c hc => ?_, ?_, ?_, fun off => ?_⟩
  · rw [hblk]
    cases b with
    | hif => rfl
    | _ => exact congrArg (· + 1) (BitVec.add_zero _)
  all_goals rw [State.holdBlk, if_neg (by simp [hnot])]
  · exact (upd_ne _ _ _ _ fun e => hc (Blk.idx_inj e)).trans (hother c hc)
  · exact hstraps
  · exact htile
  · rfl

theorem releaseBlk_of_free {s : State} {b : Blk} (h : s.free? b = true) : s.releaseBlk b = s := by
  rw [State.releaseBlk, State.cond, if_neg (by simp [hold_of_free h])]

/-- One block's part of a write of TOP_BLOCK_RESET. -/
def State.blockWritten (w : Word) (s : State) (b : Blk) : State := if getF w b.bit 1 == 1 then s.holdBlk b else s.releaseBlk b

theorem blockWritten_idle {s : State} {b : Blk} {w : Word} (hw : getF w b.bit 1 = 0) (h : s.free? b = true) : s.blockWritten w b = s := by
  rw [State.blockWritten, if_neg (by simp [hw]), releaseBlk_of_free h]

theorem forEach_idle {α : Type} {s : State} {f : State → α → State} : ∀ {l : List α}, (∀ x ∈ l, f s x = s) → s.forEach l f = s
  | [], _ => rfl
  | x :: l, h => by
    rw [State.forEach, List.foldl_cons, h x (List.mem_cons_self ..)]
    exact forEach_idle fun y hy => h y (List.mem_cons_of_mem _ hy)

/-- An act on one of a list's elements alone. -/
theorem forEach_single {α : Type} [DecidableEq α] {s : State} {f : State → α → State} {a : α} {l : List α} (hl : l.Nodup) (ha : a ∈ l)
    (hbefore : ∀ x, x ≠ a → f s x = s) (hafter : ∀ x, x ≠ a → f (f s a) x = f s a) : s.forEach l f = f s a := by
  obtain ⟨l₁, l₂, rfl⟩ := List.append_of_mem ha
  have hout := List.nodup_middle.mp hl
  simp only [List.nodup_cons, List.mem_append, not_or] at hout
  obtain ⟨⟨hfst, hsnd⟩, -⟩ := hout
  have h1 : s.forEach l₁ f = s := forEach_idle fun x hx => hbefore x fun e => hfst (e ▸ hx)
  have h2 : (f s a).forEach l₂ f = f s a := forEach_idle fun x hx => hafter x fun e => hsnd (e ▸ hx)
  rw [State.forEach, List.foldl_append, List.foldl_cons]
  exact (congrArg (fun t => (f t a).forEach l₂ f) h1).trans h2

/-- A write of TOP_BLOCK_RESET that asks something of one block alone. -/
theorem writeBlockReset_single {s : State} {w : Word} {b : Blk} (hidle : ∀ c, c ≠ b → s.free? c = true ∧ getF w c.bit 1 = 0)
    (hstands : ∀ c, c ≠ b → (s.blockWritten w b).blkSt c = s.blkSt c) : s.writeBlockReset w = s.blockWritten w b :=
  forEach_single (f := fun s c => s.blockWritten w c) (by decide) b.mem_all (fun c hc => blockWritten_idle (hidle c hc).2 (hidle c hc).1)
    fun c hc => blockWritten_idle (hidle c hc).2 ((free?_congr (hstands c hc)).trans (hidle c hc).1)

theorem getF_blockBit (b c : Blk) : getF (BitVec.ofNat 32 (2 ^ b.bit)) c.bit 1 = if c = b then 1 else 0 :=
  (show ∀ b ∈ Blk.all, ∀ c ∈ Blk.all, getF (BitVec.ofNat 32 (2 ^ b.bit)) c.bit 1 = if c = b then 1 else 0 by decide) b b.mem_all c c.mem_all

theorem busReg_topBlockReset : BusReg Reg.topBlockReset ([24, 22, 18, 16, 14, 12, 10, 8, 6, 2].map fun i => ⟨i, 1, .rw, []⟩) := by
  constructor <;> decide

theorem hostWrite_topBlockReset {s : State} {p : Port} (h : served s p Reg.topBlockReset) (w : Word) (t : WriteAt) :
    s.hostWrite p Reg.topBlockReset w t = s.writeBlockReset w := by
  rw [busReg_topBlockReset.hostWrite h]
  rfl

theorem blockResetHold_holds (s : State) (p : Port) (b : Blk) (h : served s p Reg.topBlockReset) (hfree : ∀ c, s.free? c = true) :
    answers (.blockResetHold p (BitVec.ofNat 32 (2 ^ b.bit))) s fun t =>
      (t.blkSt b).hold = .held ∧ (t.blkSt b).gen = (s.blkSt b).gen + 1 ∧ (∀ c, c ≠ b → t.blkSt c = s.blkSt c) ∧ t.top.straps = s.top.straps ∧
      t.tile = s.tile ∧ (b ∈ [Blk.pip, .samp, .cal, .bcst, .aud, .tag] → ∀ off, b.base ≤ off → off < b.base + b.size → t.rd off = resetWord off) := by
  obtain ⟨hhold, hgen, hother, hstraps, htile, hregs⟩ := holdBlk_holds (hfree b)
  have hact : s.blockWritten (BitVec.ofNat 32 (2 ^ b.bit)) b = s.holdBlk b := if_pos (by rw [getF_blockBit, if_pos rfl]; rfl)
  have hwrite : s.writeBlockReset (BitVec.ofNat 32 (2 ^ b.bit)) = s.holdBlk b := by
    rw [writeBlockReset_single (b := b) (fun c hc => ⟨hfree c, by rw [getF_blockBit, if_neg hc]⟩) (by rwa [hact]), hact]
  have hexec : exec (.blockResetHold p (BitVec.ofNat 32 (2 ^ b.bit))) s = .next (s.holdBlk b) :=
    congrArg Host.Outcome.next ((hostWrite_topBlockReset h _ _).trans hwrite)
  exact answers_of hexec ⟨hhold, hgen, hother, hstraps, htile, fun hb off hlo hhi => (hregs off).trans (blkCleared_regs s hb off hlo hhi)⟩

theorem blockResetRelease_releases (s : State) (p : Port) (w : Word) (b : Blk) (h : served s p Reg.topBlockReset) (hheld : (s.blkSt b).hold = .held)
    (hw : getF w b.bit 1 = 0) (hidle : ∀ c, c ≠ b → s.free? c = true ∧ getF w c.bit 1 = 0) : answers (.blockResetRelease p w) s fun t =>
      (t.blkSt b).hold = .releasing ∧ (t.blkSt b).gen = (s.blkSt b).gen ∧ (∀ c, c ≠ b → t.blkSt c = s.blkSt c) ∧
      { t with top := { t.top with blk := s.top.blk } } = s := by
  have hact : s.blockWritten w b = s.modTop (fun t => { t with blk := upd t.blk b.idx (fun q => { q with hold := .releasing }) }) := by
    rw [State.blockWritten, if_neg (by simp [hw]), State.releaseBlk, State.cond, if_pos (by simp [hheld])]
  have hwrite := writeBlockReset_single hidle (by rw [hact]; exact fun c hc => blkSt_upd_ne s _ hc)
  rw [hact] at hwrite
  have hexec : exec (.blockResetRelease p w) s = .next _ := congrArg Host.Outcome.next ((hostWrite_topBlockReset h _ _).trans hwrite)
  exact answers_of hexec ⟨congrArg BlkSt.hold (blkSt_upd_self s b _), blkSt_upd_gen s b _ fun _ => rfl, fun c hc => blkSt_upd_ne s _ hc, rfl⟩

theorem blockReleaseDone_frees (s : State) (b : Blk) (h : s.alive = true) (hrel : (s.blkSt b).hold = .releasing) : answers (.blockReleaseDone b) s fun t =>
    t.free? b = true ∧ (t.blkSt b).gen = (s.blkSt b).gen ∧ (∀ c, c ≠ b → t.blkSt c = s.blkSt c) ∧ { t with top := { t.top with blk := s.top.blk } } = s := by
  have hact : s.cond ((s.blkSt b).hold == .releasing) (·.modTop (fun t => { t with blk := upd t.blk b.idx (fun q => { q with hold := .free }) })) =
      s.modTop (fun t => { t with blk := upd t.blk b.idx (fun q => { q with hold := .free }) }) := if_pos (by simp [hrel])
  have hexec : exec (.blockReleaseDone b) s = .next _ := (exec_live h).trans (congrArg Host.Outcome.next hact)
  refine answers_of hexec ⟨?_, blkSt_upd_gen s b _ fun _ => rfl, fun c hc => blkSt_upd_ne s _ hc, rfl⟩
  rw [State.free?, blkSt_upd_self]
  rfl

theorem staleReply_counts (s : State) (b : Blk) (g : BitVec 8) (h : s.alive = true) : answers (.staleReply b g) s fun t =>
    (g = (s.blkSt b).gen → t = s) ∧ (g ≠ (s.blkSt b).gen → t.get Fld.topStaleCntCount = (s.get Fld.topStaleCntCount + 1) % 2 ^ Fld.topStaleCntCount.width ∧
      onlyFields [Fld.topStaleCntCount] s t) := by
  refine answers_of (exec_live h) ⟨fun hg => ?_, fun hg => ?_⟩
  · exact if_neg (by simp [hg])
  · rw [if_pos (show (g != (s.blkSt b).gen) = true by simpa using hg)]
    exact ⟨State.get_put_self _ _ _ (by decide), onlyFields_put _ _ _ (by simp)⟩

/-! ### COMPAT6 (R185) -/

theorem busReg_topCfg : BusReg Reg.topCfg [⟨0, 1, .rw, []⟩] := by
  constructor <;> decide

theorem getF_bit_ne_zero (w : Word) (i : Nat) : (getF w i 1 != 0) = w.getLsbD i := by
  rw [← getF_bit]
  have hlt := getF_lt w i 1
  obtain h | h : getF w i 1 = 0 ∨ getF w i 1 = 1 := by omega
  all_goals rw [h]; rfl

/-- A field of one bit that a write has set to the word's bit 0. -/
theorem is_put_getF_zero (s : State) (f : FieldRef) (w : Word) (h : f.lo + f.width ≤ 32) (hw : f.width = 1) : (s.put f (getF w 0 1)).is f = w.getLsbD 0 := by
  rw [State.is, State.get_put_self _ _ _ h, hw, Nat.mod_eq_of_lt (getF_lt w 0 1), getF_bit_ne_zero]

theorem compat6Write_takes (s : State) (p : Port) (w : Word) (h : served s p Reg.topCfg) (heng : s.engine = false) : answers (.compat6Write p w) s fun t =>
    t.is Fld.topCfgCompat6 = w.getLsbD 0 ∧ onlyFields [Fld.topCfgCompat6] s t := by
  have hland : s.landWrite p Reg.topCfg w [⟨0, 1, .rw, []⟩] s.now = s.put Fld.topCfgCompat6 (getF w 0 1) := by
    unfold State.landWrite
    rw [heng]
    rfl
  have hexec : exec (.compat6Write p w) s = .next _ := congrArg Host.Outcome.next ((busReg_topCfg.hostWrite h w _).trans hland)
  exact answers_of hexec ⟨is_put_getF_zero s _ w (by decide) rfl, onlyFields_put _ _ _ (by simp)⟩

theorem compat6Write_refused (s : State) (p : Port) (w : Word) (h : served s p Reg.topCfg) (heng : s.engine = true)
    (hne : s.is Fld.topCfgCompat6 ≠ w.getLsbD 0) : answers (.compat6Write p w) s fun t =>
      t.is Fld.topStatusCfgRej = true ∧ t.is Fld.topCfgCompat6 = s.is Fld.topCfgCompat6 ∧ onlyRegs [Reg.topStatus, Reg.topErrAddr] s t := by
  have hdiff : (getF w 0 1 != getF (s.rd Reg.topCfg) 0 1) = true := by
    have hold : s.is Fld.topCfgCompat6 = (getF (s.rd Reg.topCfg) 0 1 != 0) := rfl
    rw [bne_iff_ne]
    intro e
    exact hne (by rw [hold, ← e, getF_bit_ne_zero])
  have hland : s.landWrite p Reg.topCfg w [⟨0, 1, .rw, []⟩] s.now = s.accErr Fld.topStatusCfgRej 5 p true Reg.topCfg := by
    unfold State.landWrite
    extract_lets old
    rw [heng, hdiff]
    rfl
  have hexec : exec (.compat6Write p w) s = .next _ := congrArg Host.Outcome.next ((busReg_topCfg.hostWrite h w _).trans hland)
  have honly := accErr_onlyRegs s Fld.topStatusCfgRej 5 p true Reg.topCfg rfl
  refine answers_of hexec ⟨accErr_is _ _ _ _ _ _ rfl (by decide) (by decide), ?_, honly⟩
  exact congrArg (· != 0) (get_of_regsOnly honly.2 Fld.topCfgCompat6 (by decide))

end Sys2Proof.Machine
end

section
/-! The debug port's access to the sample store (R190), and holding and releasing blocks. -/

namespace Sys2Proof.Machine

/-- The fields of DBG_CTL (Table 5.10). -/
def dbgCtlFields : List Field := [⟨3, 1, .w1c, []⟩, ⟨2, 1, .rw, []⟩, ⟨1, 1, .sc, []⟩, ⟨0, 1, .rw, []⟩]

/-- DBG_CTL as a write leaves it, before an access. -/
def State.dbgWritten (s : State) (w : Word) : State := s.wr Reg.dbgCtl (applyFields dbgCtlFields (s.rd Reg.dbgCtl) w)

theorem dbgCtl_row : (regRow Reg.dbgCtl).map (·.fields) = some dbgCtlFields := by decide

theorem hostWrite_dbgCtl {s : State} (h : served s .jtag Reg.dbgCtl) (w : Word) (t : WriteAt) :
    s.hostWrite .jtag Reg.dbgCtl w t = (s.dbgWritten w).cond (getF w 1 1 == 1) (·.dbgGo t.flips) := by
  obtain ⟨r, hrow, hfields⟩ := Option.map_eq_some_iff.mp dbgCtl_row
  have hfs : s.fieldsAt Reg.dbgCtl r = dbgCtlFields := hfields
  have hwd : s.writeDefined Reg.dbgCtl w = true := by
    have hunits : loOfCtl Reg.dbgCtl = none ∧ loOfFreq Reg.dbgCtl = none ∧ pathOfAgc Reg.dbgCtl = none := by decide
    simp [State.writeDefined, hunits]
  have haway : s.svcAway Reg.dbgCtl = false := Bool.and_eq_false_iff.mpr (.inr (by decide))
  have hpair : isPaired Reg.dbgCtl = false ∧ isPaired (Reg.dbgCtl - 4) = false := by decide
  have hwritten : allRO dbgCtlFields = false := by decide
  have hland : s.landWrite .jtag Reg.dbgCtl w dbgCtlFields t = (s.dbgWritten w).cond (getF w 1 1 == 1) (·.dbgGo t.flips) := rfl
  rw [hostWrite_served h (by decide), ← hland]
  simp [State.regWrite, hrow, hfs, hwd, haway, hwritten, hpair, fieldsDefined_of_no_domains (fs := dbgCtlFields) (by decide)]

theorem exec_dbgGo {s : State} (h : served s .jtag Reg.dbgCtl) (w : Word) (hw : getF w 1 1 = 1) (flips : List (Nat × Bool)) :
    exec (.dbgGo w flips) s = .next ((s.dbgWritten w).dbgGo flips) := by
  refine congrArg Host.Outcome.next ((hostWrite_dbgCtl h w _).trans ?_)
  rw [State.cond, if_pos (by rw [hw]; rfl)]

theorem dbgWritten_onlyRegs (s : State) (w : Word) : onlyRegs [Reg.dbgCtl] s (s.dbgWritten w) := onlyRegs_wr _ _ _ (by decide)

theorem dbgWritten_en (s : State) (w : Word) : (s.dbgWritten w).is Fld.dbgCtlEn = w.getLsbD 0 := by
  rw [State.is, State.get, State.dbgWritten, State.rd_wr_self]
  simp only [applyFields, dbgCtlFields, List.foldl_cons, List.foldl_nil, applyField]
  rw [getF_setF_self _ _ _ _ (by decide), Nat.mod_eq_of_lt (getF_lt w 0 1), getF_bit_ne_zero]

theorem dbgWritten_wr (s : State) (w : Word) : (s.dbgWritten w).is Fld.dbgCtlWr = w.getLsbD 2 := by
  rw [State.is, State.get, State.dbgWritten, State.rd_wr_self]
  simp only [applyFields, dbgCtlFields, List.foldl_cons, List.foldl_nil, applyField]
  rw [getF_setF_ne _ _ _ _ _ _ (by decide), getF_setF_self _ _ _ _ (by decide), Nat.mod_eq_of_lt (getF_lt w 2 1), getF_bit_ne_zero]

theorem dbgWritten_rd (s : State) (w : Word) {off : Nat} (h : off ≠ Reg.dbgCtl) : (s.dbgWritten w).rd off = s.rd off := State.rd_wr_ne _ _ _ _ h

theorem dbgWritten_storeRead (s : State) (w : Word) (a : Nat) : (s.dbgWritten w).storeRead a = s.storeRead a := rfl
theorem put_storeRead (s : State) (f : FieldRef) (v a : Nat) : (s.put f v).storeRead a = s.storeRead a := rfl

theorem dbgWritten_get (s : State) (w : Word) (f : FieldRef) (h : f.off ≠ Reg.dbgCtl) : (s.dbgWritten w).get f = s.get f :=
  congrArg (getF · f.lo f.width) (dbgWritten_rd s w h)

theorem dbgWritten_reqRetired (s : State) (w : Word) : (s.dbgWritten w).reqRetired 8 = s.reqRetired 8 := by
  have hmap : (s.dbgWritten w).retired 6 8 = s.retired 6 8 := congrArg (· != 0) (dbgWritten_get s w ⟨Reg.fltRetireMap2, 8, 1⟩ (by decide))
  rw [State.reqRetired, hmap, State.reqRetired]
  rfl

/-- The debug port's access is made: the address is in the store, EN is set and its requester is not retired. -/
structure DbgAccess (u : State) (a : Nat) : Prop where
  en : u.is Fld.dbgCtlEn = true
  addr : u.get Fld.dbgStoreAddrWord = a
  live : u.reqRetired 8 = false
  inside : a < u.storeWords

section
variable {s u : State} {a : Nat} {w : Word} {flips : List (Nat × Bool)}

theorem dbgWritten_access (hen : w.getLsbD 0 = true) (hret : s.reqRetired 8 = false) (hin : s.get Fld.dbgStoreAddrWord < s.storeWords) :
    DbgAccess (s.dbgWritten w) (s.get Fld.dbgStoreAddrWord) where
  en := (dbgWritten_en s w).trans hen
  addr := dbgWritten_get s w _ (by decide)
  live := (dbgWritten_reqRetired s w).trans hret
  inside := hin

theorem dbgGo_writes (h : DbgAccess u a) (hwr : u.is Fld.dbgCtlWr = true) :
    u.dbgGo flips = (u.storeWrite a (u.rd Reg.dbgStoreData)).put Fld.dbgStoreAddrWord (a + 1) := by
  obtain ⟨hen, haddr, hret, hin⟩ := h
  simp [State.dbgGo, hen, haddr, hret, hwr, Nat.not_le_of_lt hin]

theorem eccRead_clean (rank : Nat) (h : a ∉ u.store.ue) : u.eccRead rank a 1 [] = (u, false) := by
  simp [State.eccRead, List.range_one, h]

theorem dbgGo_reads (h : DbgAccess u a) (hwr : u.is Fld.dbgCtlWr = false) (hclean : a ∉ u.store.ue) :
    u.dbgGo [] = (u.wr Reg.dbgStoreData (u.storeRead a)).put Fld.dbgStoreAddrWord (a + 1) := by
  obtain ⟨hen, haddr, hret, hin⟩ := h
  simp [State.dbgGo, hen, haddr, hret, hwr, Nat.not_le_of_lt hin, eccRead_clean 8 hclean]

theorem dbgGo_disabled (hen : u.is Fld.dbgCtlEn = false) : u.dbgGo flips = u := by
  simp [State.dbgGo, hen]

theorem storeWrite_inside {v : Word} (h : a < u.storeWords) :
    (u.storeWrite a v).storeRead a = v ∧ (∀ b, b ≠ a → (u.storeWrite a v).storeRead b = u.storeRead b) ∧ ∀ off, (u.storeWrite a v).rd off = u.rd off := by
  rw [State.storeWrite, if_pos h]
  exact ⟨Sparse.get_put_self .., fun b hb => Sparse.get_put_ne _ _ _ _ _ hb, fun _ => rfl⟩

end

theorem dbgGo_writesTheStore (s : State) (h : served s .jtag Reg.dbgCtl) (hret : s.reqRetired 8 = false) (hin : s.get Fld.dbgStoreAddrWord < s.storeWords) :
    answers (.dbgGo 7 []) s fun t =>
      t.storeRead (s.get Fld.dbgStoreAddrWord) = s.rd Reg.dbgStoreData ∧ (∀ a, a ≠ s.get Fld.dbgStoreAddrWord → t.storeRead a = s.storeRead a) ∧
      t.get Fld.dbgStoreAddrWord = (s.get Fld.dbgStoreAddrWord + 1) % 2 ^ 22 ∧ regsOnly [Reg.dbgCtl, Reg.dbgStoreAddr] s t := by
  have hgo := dbgGo_writes (flips := []) (dbgWritten_access (w := 7) (by decide) hret hin) ((dbgWritten_wr s 7).trans (by decide))
  rw [dbgWritten_rd s 7 (by decide)] at hgo
  obtain ⟨hword, hother, hregs⟩ := storeWrite_inside (u := s.dbgWritten 7) (v := s.rd Reg.dbgStoreData) (a := s.get Fld.dbgStoreAddrWord) hin
  refine answers_of (exec_dbgGo h 7 (by decide) []) ?_
  rw [hgo]
  refine ⟨(put_storeRead ..).trans hword, fun a ha => (put_storeRead ..).trans ((hother a ha).trans (dbgWritten_storeRead s 7 a)), State.get_put_self _ Fld.dbgStoreAddrWord _ (by decide), fun off hoff => ?_⟩
  have hne : off ≠ Reg.dbgCtl ∧ off ≠ Reg.dbgStoreAddr := by simpa using hoff
  rw [State.rd_put_ne _ _ _ _ hne.2, hregs, dbgWritten_rd s 7 hne.1]

theorem dbgGo_readsTheStore (s : State) (h : served s .jtag Reg.dbgCtl) (hret : s.reqRetired 8 = false) (hin : s.get Fld.dbgStoreAddrWord < s.storeWords)
    (hclean : s.get Fld.dbgStoreAddrWord ∉ s.store.ue) : answers (.dbgGo 3 []) s fun t =>
      t.rd Reg.dbgStoreData = s.storeRead (s.get Fld.dbgStoreAddrWord) ∧ t.get Fld.dbgStoreAddrWord = (s.get Fld.dbgStoreAddrWord + 1) % 2 ^ 22 ∧
      onlyRegs [Reg.dbgCtl, Reg.dbgStoreAddr, Reg.dbgStoreData] s t := by
  have hgo := dbgGo_reads (dbgWritten_access (w := 3) (by decide) hret hin) ((dbgWritten_wr s 3).trans (by decide)) hclean
  refine answers_of (exec_dbgGo h 3 (by decide) []) ?_
  rw [hgo]
  refine ⟨?_, State.get_put_self _ Fld.dbgStoreAddrWord _ (by decide), ?_⟩
  · rw [State.rd_put_ne _ _ _ _ (by decide), State.rd_wr_self]
    rfl
  · exact onlyRegs_put (onlyRegs_trans (onlyRegs_wr s _ _ (by decide)) (onlyRegs_wr _ _ _ (by decide))) _ _ (by decide)

theorem dbgGo_withoutEn (s : State) (flips : List (Nat × Bool)) (h : served s .jtag Reg.dbgCtl) :
    answers (.dbgGo 2 flips) s fun t => t.is Fld.dbgCtlEn = false ∧ onlyRegs [Reg.dbgCtl] s t := by
  have hen : (s.dbgWritten 2).is Fld.dbgCtlEn = false := (dbgWritten_en s 2).trans (by decide)
  refine answers_of (exec_dbgGo h 2 (by decide) flips) ?_
  rw [dbgGo_disabled hen]
  exact ⟨hen, dbgWritten_onlyRegs s 2⟩

/-- Settles O17, a command at a time: the hold of a free block, the start and the end of its release, a stale reply, COMPAT6, and the debug port. -/
theorem blocksHeldAndReleased : Obligations.BlocksHeldAndReleased := by
  unfold Obligations.BlocksHeldAndReleased
  exact ⟨blockResetHold_holds, blockResetRelease_releases, blockReleaseDone_frees, staleReply_counts, compat6Write_takes, compat6Write_refused,
    dbgGo_writesTheStore, dbgGo_readsTheStore, dbgGo_withoutEn⟩

end Sys2Proof.Machine
end

section
/-! CAPTURE_START and CAPTURE_STOP at the member that makes the tiles (R416 to R420). -/

namespace Sys2Proof.Machine

/-! ### The sampler's own data, through what reporting changes -/

theorem logsOnly.samp_eq {s t : State} (h : logsOnly s t) : t.samp = s.samp := congrArg (·.samp) h.1

theorem logsOnly.modSamp {s t : State} (h : logsOnly s t) (f : Samp → Samp) : logsOnly (s.modSamp f) (t.modSamp f) :=
  ⟨congrArg (·.modSamp f) h.1, h.2⟩

/-- What only reporting changes after a change of the sampler's own data has that as it was set. -/
theorem logsOnly.of_modSamp {s t : State} {f : Samp → Samp} (h : logsOnly (s.modSamp f) t) : logsOnly (s.modSamp (fun _ => t.samp)) t := by
  rw [h.samp_eq]
  exact h

theorem logsOnly.samp_same {s t : State} (h : logsOnly s t) : logsOnly (s.modSamp (fun _ => t.samp)) t := logsOnly.of_modSamp (f := id) h

theorem EndsAlike.modSamp {d : Desc} {a s : State} (h : EndsAlike d a s) (f : Samp → Samp) : EndsAlike d a (s.modSamp f) :=
  h.trans ⟨⟨rfl, rfl, rfl, rfl, rfl, rfl, rfl, fun _ _ => rfl⟩, rfl⟩

theorem setCap_self (s : State) (r : Fin 4) (c : Option Capture) : (s.setCap r c).samp.caps[r] = c := upd_self ..
theorem setCap_ne (s : State) {r q : Fin 4} (c : Option Capture) (h : q ≠ r) : (s.setCap r c).samp.caps[q] = s.samp.caps[q] := upd_ne _ _ _ _ h

/-! ### What the mark of a descriptor at its block leaves -/

theorem atBlock_is (s : State) (d : Desc) : ∃ h l, s.atBlock d = { s with hif := h, lnk := l } := by
  unfold State.atBlock
  split
  · exact ⟨_, _, rfl⟩
  · exact ⟨_, _, rfl⟩

section
variable (s : State) (d e : Desc)

theorem atBlock_samp : (s.atBlock d).samp = s.samp := ((logsOnly.refl s).atBlock d).samp_eq
theorem atBlock_tile : (s.atBlock d).tile = s.tile := congrArg (·.tile) ((logsOnly.refl s).atBlock d).1
theorem atBlock_ringOn (n : Fin 24) : (s.atBlock d).ringOn n = s.ringOn n := by obtain ⟨h, l, e⟩ := atBlock_is s d; rw [e]; rfl
theorem atBlock_octets : (s.atBlock d).octets = s.octets := by obtain ⟨h, l, e⟩ := atBlock_is s d; rw [e]; rfl
theorem atBlock_capGone : (s.atBlock d).capGone = s.capGone := by obtain ⟨h, l, e⟩ := atBlock_is s d; rw [e]; rfl
theorem atBlock_pretrigBad : (s.atBlock d).pretrigBad e = s.pretrigBad e := by obtain ⟨h, l, e⟩ := atBlock_is s d; rw [e]; rfl

end

/-! ### CAPTURE_START -/

/-- The capture that a CAPTURE_START asks for, before its first tile. -/
def Desc.capture (d : Desc) : Capture :=
  { d := d, octet := d.f 1 8 6, member := d.member, mode := d.f 1 4 2, count := (d.w 2).toNat, pretrig := d.f 1 16 5
    start := (d.w 3).toNat, first := none, next := 0, written := 0, dropped := 0, last := 0, stop := none, lastDue := none }

/-- The ring of a capture's descriptor. -/
def Desc.capNo (d : Desc) : Fin 4 := Fin.ofNat 4 (d.f 1 0 2)

/-- CAPTURE_START at the head, where the head itself makes the tiles. -/
def State.captureHere (s : State) (d : Desc) : State :=
  if !s.capGone && s.pretrigBad d then s.bad d dtOperand
  else if (s.samp.caps[d.capNo]).isSome then s.finish d stBusyRetry
  else if !s.ringOn (capRing d.capNo) then s.finish d stCancelled
  else s.capStart d

theorem exec_captureStart {s : State} {d : Desc} (hr : s.runs = true) (hh : s.head = true) (ht : s.takes 0x28 d = true) (hm : d.member = s.me) :
    exec (.captureStart d) s = .next ((s.atBlock d).captureHere d) := by
  refine (running_of_runs hr _).trans (congrArg Host.Outcome.next ?_)
  refine (if_pos ht).trans ?_
  have hh' := (atBlock_head s d).trans hh
  have hm' : d.member = (s.atBlock d).me := hm.trans (atBlock_me s d).symm
  simp only [hh', hm', beq_self_eq_true, bne_self_eq_false, Bool.true_and, Bool.and_false, Bool.false_eq_true, if_false]
  rfl

section
variable {s : State} {d : Desc}

theorem capStart_gone (hb : s.free? .samp = true) (h : s.capGone = true) : s.capStart d = s.finish d stRetired := by
  rw [State.capStart, needBlk_of_free hb, if_pos h]

theorem capStart_octetOut (hb : s.free? .samp = true) (h : s.capGone = false) (hp : s.pretrigBad d = false) (ho : d.f 1 8 6 ∉ s.octets) :
    s.capStart d = s.bad d 0x41 := by
  simp [State.capStart, needBlk_of_free hb, h, hp, ho]

theorem capStart_begins (hb : s.free? .samp = true) (h : s.capGone = false) (hp : s.pretrigBad d = false) (ho : d.f 1 8 6 ∈ s.octets)
    (hmode : d.f 1 4 2 = 0) : s.capStart d = s.setCap d.capNo (some (d.capture.begin s.tile.toNat)) := by
  simp [State.capStart, needBlk_of_free hb, h, hp, ho, hmode, Desc.capNo, Desc.capture]

/-- A capture that starts leaves the sampler's other data; one that is refused leaves all. -/
theorem capStart_logs (s : State) (d : Desc) : ∃ f, logsOnly (s.modSamp f) (s.capStart d) := by
  have hends (status detail : Nat) : ∃ f, logsOnly (s.modSamp f) (s.complete d { status := status, detail := detail }) :=
    ⟨id, (logsOnly.refl s).complete d _⟩
  cases hb : s.free? .samp with
  | false =>
    rw [State.capStart, needBlk_of_held hb]
    exact hends stPeerReset 0
  | true =>
    rw [State.capStart, needBlk_of_free hb]
    extract_lets r c
    split
    · exact hends stRetired 0
    · split
      · exact hends stBadDesc dtOperand
      · split
        · exact hends stBadDesc 0x41
        · split
          · exact hends stBadDesc 0x42
          · exact ⟨_, logsOnly.refl _⟩

theorem captureHere_logs (s : State) (d : Desc) : ∃ f, logsOnly (s.modSamp f) (s.captureHere d) := by
  unfold State.captureHere
  split
  · exact ⟨id, (logsOnly.refl s).bad d dtOperand⟩
  · split
    · exact ⟨id, (logsOnly.refl s).finish d stBusyRetry⟩
    · split
      · exact ⟨id, (logsOnly.refl s).finish d stCancelled⟩
      · exact capStart_logs s d

/-- The descriptor ends without an effect on the sampler. -/
theorem atBlock_complete_samp (ht : tellable s d) (r : Result) :
    ended s ((s.atBlock d).complete d r) d r ∧ ((s.atBlock d).complete d r).samp = s.samp :=
  have h := atBlock_complete ht r
  ⟨h.1, h.2.samp_eq⟩

theorem captureHere_pretrig (hgone : s.capGone = false) (hp : s.pretrigBad d = true) : s.captureHere d = s.bad d dtOperand :=
  if_pos (by simp [hgone, hp])

variable (hok : s.capGone = true ∨ s.pretrigBad d = false)
include hok

theorem captureHere_busy (hc : (s.samp.caps[d.capNo]).isSome = true) : s.captureHere d = s.finish d stBusyRetry := by
  rw [State.captureHere, if_neg (by rcases hok with h | h <;> simp [h]), if_pos hc]

theorem captureHere_off (hc : s.samp.caps[d.capNo] = none) (hon : s.ringOn (capRing d.capNo) = false) : s.captureHere d = s.finish d stCancelled := by
  rw [State.captureHere, if_neg (by rcases hok with h | h <;> simp [h]), if_neg (by simp [hc]), if_pos (by simp [hon])]

theorem captureHere_starts (hc : s.samp.caps[d.capNo] = none) (hon : s.ringOn (capRing d.capNo) = true) : s.captureHere d = s.capStart d := by
  rw [State.captureHere, if_neg (by rcases hok with h | h <;> simp [h]), if_neg (by simp [hc]), if_neg (by simp [hon])]

end

theorem capGone_head {s : State} (hh : s.head = true) : s.capGone = (s.reqRetired 2 || s.reqRetired 6 || s.effDepth.isNone) := by
  rw [State.capGone, hh, Bool.true_and]

theorem captureStart_starts (s : State) (d : Desc) (r : Fin 4) (hr : s.runs = true) (hh : s.head = true) (hdue : dueHere s 0x28 d) (hm : d.member = s.me)
    (hrd : r = Fin.ofNat 4 (d.f 1 0 2)) : answers (.captureStart d) s fun t =>
    logsOnly (s.modSamp (fun _ => t.samp)) t ∧
    (s.capGone = false → s.pretrigBad d = true → ended s t d { status := stBadDesc, detail := dtOperand } ∧ t.samp = s.samp) ∧
    ((s.capGone = true ∨ s.pretrigBad d = false) →
      ((s.samp.caps[r]).isSome = true → ended s t d { status := stBusyRetry } ∧ t.samp = s.samp) ∧
      (s.samp.caps[r] = none → s.ringOn (capRing r) = false → ended s t d { status := stCancelled } ∧ t.samp = s.samp) ∧
      (s.samp.caps[r] = none → s.ringOn (capRing r) = true → s.free? .samp = false → ended s t d { status := stPeerReset } ∧ t.samp = s.samp) ∧
      (s.samp.caps[r] = none → s.ringOn (capRing r) = true → s.free? .samp = true → (s.reqRetired 2 = true ∨ s.reqRetired 6 = true ∨ s.effDepth = none) →
        ended s t d { status := stRetired } ∧ t.samp = s.samp)) ∧
    (∀ dep, s.samp.caps[r] = none → s.ringOn (capRing r) = true → s.free? .samp = true → s.reqRetired 2 = false → s.reqRetired 6 = false → s.effDepth = some dep → d.f 1 16 5 < dep →
      (d.f 1 8 6 ∉ s.octets → ended s t d { status := stBadDesc, detail := 0x41 } ∧ t.samp = s.samp) ∧
      (d.f 1 8 6 ∈ s.octets → d.f 1 4 2 = 0 → (∀ q : Fin 4, q ≠ r → t.samp.caps[q] = s.samp.caps[q]) ∧ ∃ c, t.samp.caps[r] = some c ∧ c.d = d ∧
        c.octet = d.f 1 8 6 ∧ c.count = (d.w 2).toNat ∧ c.first = some ((s.tile.toNat + 2 ^ 32 - d.f 1 16 5) % 2 ^ 32) ∧ some c.next = c.first ∧ c.written = 0 ∧ c.dropped = 0)) := by
  subst hrd
  refine answers_of (exec_captureStart hr hh hdue.1 hm) ?_
  have hends (res : Result) := atBlock_complete_samp hdue.2 res
  have hgone := atBlock_capGone s d
  have hpre := atBlock_pretrigBad s d d
  have hfree := atBlock_free? s d .samp
  have hcap : (s.atBlock d).samp.caps[d.capNo] = s.samp.caps[d.capNo] := by rw [atBlock_samp]
  have hon := atBlock_ringOn s d (capRing d.capNo)
  refine ⟨?_, fun hg hp => ?_, fun hok => ⟨fun hc => ?_, fun hc ho => ?_, fun hc ho hb => ?_, fun hc ho hb hret => ?_⟩, fun dep hc ho hb h2 h6 hdep hlt => ?_⟩
  · obtain ⟨f, hf⟩ := captureHere_logs (s.atBlock d) d
    exact ((((logsOnly.refl s).atBlock d).modSamp f).trans hf).of_modSamp
  · rw [captureHere_pretrig (hgone.trans hg) (hpre.trans hp)]
    exact hends _
  · rw [captureHere_busy (by rwa [hgone, hpre]) (by rwa [hcap])]
    exact hends _
  · rw [captureHere_off (by rwa [hgone, hpre]) (hcap.trans hc) (hon.trans ho)]
    exact hends _
  · rw [captureHere_starts (by rwa [hgone, hpre]) (hcap.trans hc) (hon.trans ho), State.capStart, needBlk_of_held (hfree.trans hb)]
    exact hends _
  · have hg : s.capGone = true := by rcases hret with h | h | h <;> simp [capGone_head hh, h]
    rw [captureHere_starts (.inl (hgone.trans hg)) (hcap.trans hc) (hon.trans ho), capStart_gone (hfree.trans hb) (hgone.trans hg)]
    exact hends _
  · have hg : s.capGone = false := by simp [capGone_head hh, h2, h6, hdep]
    have hp : s.pretrigBad d = false := by simp [State.pretrigBad, hdep, hlt]
    rw [captureHere_starts (.inr (hpre.trans hp)) (hcap.trans hc) (hon.trans ho)]
    refine ⟨fun hout => ?_, fun hin hmode => ?_⟩
    · rw [capStart_octetOut (hfree.trans hb) (hgone.trans hg) (hpre.trans hp) (by rwa [atBlock_octets])]
      exact hends _
    · rw [capStart_begins (hfree.trans hb) (hgone.trans hg) (hpre.trans hp) (by rwa [atBlock_octets]) hmode, atBlock_tile]
      refine ⟨fun q hq => ?_, _, setCap_self .., rfl, rfl, rfl, rfl, rfl, rfl, rfl⟩
      exact (setCap_ne _ _ hq).trans (by rw [atBlock_samp])

/-! ### CAPTURE_STOP -/

/-- CAPTURE_STOP at the member that makes the tiles, its block free. -/
def State.stopHere (s : State) (d : Desc) : State :=
  match s.samp.caps[d.capNo] with
  | some c => if c.stop.isSome then s.finish d stNotFound else s.setCap d.capNo (some { c with stop := some d })
  | none => s.finish d stNotFound

theorem stopHere_logs (s : State) (d : Desc) : ∃ f, logsOnly (s.modSamp f) (s.stopHere d) := by
  unfold State.stopHere
  split
  · split
    · exact ⟨id, (logsOnly.refl s).finish d stNotFound⟩
    · exact ⟨_, logsOnly.refl _⟩
  · exact ⟨id, (logsOnly.refl s).finish d stNotFound⟩

theorem captureStop_stops (s : State) (d : Desc) (r : Fin 4) (hr : s.runs = true) (hdue : dueHere s 0x29 d) (hm : s.head = true → d.member = s.me)
    (hrd : r = Fin.ofNat 4 (d.f 1 0 2)) : answers (.captureStop d) s fun t =>
    logsOnly (s.modSamp (fun _ => t.samp)) t ∧
    (s.free? .samp = false → ended s t d { status := stPeerReset } ∧ t.samp = s.samp) ∧
    (s.free? .samp = true → s.samp.caps[r] = none → ended s t d { status := stNotFound } ∧ t.samp = s.samp) ∧
    (∀ c, s.free? .samp = true → s.samp.caps[r] = some c → c.stop.isSome = true → ended s t d { status := stNotFound } ∧ t.samp = s.samp) ∧
    (∀ c, s.free? .samp = true → s.samp.caps[r] = some c → c.stop = none → t.samp.caps[r] = some { c with stop := some d } ∧
      ∀ q : Fin 4, q ≠ r → t.samp.caps[q] = s.samp.caps[q]) := by
  subst hrd
  have hends (res : Result) := atBlock_complete_samp hdue.2 res
  cases hb : s.free? .samp with
  | false =>
    refine answers_of (row_of_held hr hm hdue.1 hb id (·.stopHere d)) ?_
    exact ⟨(atBlock_complete hdue.2 _).2.samp_same, fun _ => hends _, nofun, nofun, nofun⟩
  | true =>
    refine answers_of (row_of_free hr hm hdue.1 hb id (·.stopHere d)) ?_
    have hcap : (s.atBlock d).samp.caps[d.capNo] = s.samp.caps[d.capNo] := by rw [atBlock_samp]
    refine ⟨?_, nofun, fun _ hc => ?_, fun c _ hc hstop => ?_, fun c _ hc hstop => ?_⟩
    · obtain ⟨f, hf⟩ := stopHere_logs (s.atBlock d) d
      exact ((((logsOnly.refl s).atBlock d).modSamp f).trans hf).of_modSamp
    · rw [State.stopHere, hcap.trans hc]
      exact hends _
    · simp only [State.stopHere, hcap.trans hc, hstop, if_true]
      exact hends _
    · simp only [State.stopHere, hcap.trans hc, hstop, Option.isSome_none, Bool.false_eq_true, if_false]
      exact ⟨setCap_self .., fun q hq => (setCap_ne _ _ hq).trans (by rw [atBlock_samp])⟩

end Sys2Proof.Machine
end

section
/-! The tiles that a capture writes into its ring, or drops and counts (R228, R229, R419, R421). -/

namespace Sys2Proof.Machine

/-! ### Signals of a ring and the commit point leave the registers -/

theorem sendVector_regs (s : State) (v : Nat) : (s.sendVector v).regs = s.regs := by
  unfold State.sendVector
  extract_lets i e
  split <;> rfl
theorem signalRing_regs (s : State) (n : Fin 24) : (s.signalRing n).regs = s.regs := by
  unfold State.signalRing
  split
  · split
    · exact sendVector_regs ..
    · rfl
  · rfl
theorem ringEvent_regs (s : State) (n : Fin 24) : (s.ringEvent n).regs = s.regs := by
  unfold State.ringEvent
  extract_lets u
  split
  · exact signalRing_regs ..
  · rfl
theorem ringEvent_get (s : State) (n : Fin 24) (f : FieldRef) : (s.ringEvent n).get f = s.get f :=
  congrArg (fun m => getF (Sparse.get resetWord m f.off) f.lo f.width) (ringEvent_regs s n)

theorem commit_of_head {s : State} (hh : s.head = true) (d : Desc) : s.commit d = s.modStarted d (fun t => { t with committed := true }) := if_pos hh

theorem capRing_val (r : Fin 4) : (capRing r).val = 20 + r.val := by revert r; decide

/-! ### One tile of a capture -/

/-- The capture after its next tile, written when there was room. -/
def Capture.stepped (c : Capture) (seq : Nat) (room : Bool) : Capture :=
  { c with next := (c.next + 1) % 2 ^ 32, last := seq, written := c.written + b2n room, dropped := c.dropped + b2n (!room) }

/-- The words of a capture's tile that the store keeps here. -/
def State.tileWords (s : State) (c : Capture) (seq : Nat) : List Word :=
  ((s.samp.tiles.find? (fun t => t.octet == c.octet && t.seq == seq)).map (·.words)).getD []

/-- A tile that the store keeps goes out: its ring is on and has room, and so has the outbound buffer. -/
def State.tileRoom (s : State) (r : Fin 4) (ws : List Word) : Bool :=
  !ws.isEmpty && (s.ringOn (capRing r) && 0 < s.ringRoom (capRing r) && s.outBytes + 4160 ≤ 65536)

/-- A tile goes into the next entry of its ring. -/
def State.tileStored (s : State) (r : Fin 4) (ws : List Word) : State :=
  ((s.takeEntry (capRing r)).2.2.post (.tile (capRing r) (s.takeEntry (capRing r)).1 ws)).ringEvent (capRing r)

/-- A tile is dropped and counted. -/
def State.tileDropped (s : State) (r : Fin 4) (seq : Nat) : State :=
  (s.modRing (capRing r) (fun q => { q with drops := q.drops + 1, dropFirst := if q.drops == 0 then seq else q.dropFirst
                                            dropLast := seq })).inc (Fld.hifDropCntCount (capRing r).val)

/-- The ring after a capture's tile. -/
def State.tileDone (s : State) (r : Fin 4) (c : Capture) (seq : Nat) : State :=
  if s.tileRoom r (s.tileWords c seq) then (s.commit c.d).tileStored r (s.tileWords c seq) else (s.commit c.d).tileDropped r seq

/-- A tile of a capture is due at the head, which makes the tiles itself. -/
structure TileDue (s : State) (r : Fin 4) (c : Capture) (x seq : Nat) : Prop where
  runs : s.runs = true
  head : s.head = true
  cap : s.samp.caps[r] = some c
  mine : c.member = s.me
  first : c.first = some x
  next : seq = c.next
  done : seq ≠ s.tile.toNat
  past : seqLater seq s.tile.toNat = false

section
variable {s : State} {r : Fin 4} {c : Capture} {x seq : Nat}

/-- The capture's count is full. -/
def Capture.full (c : Capture) : Bool := c.count != 0 && decide (c.count ≤ c.written + c.dropped)

theorem exec_captureTileWrite (h : TileDue s r c x seq) : exec (.captureTileWrite r seq []) s =
    .next (let u := (s.tileDone r c seq).setCap r (some (c.stepped seq (s.tileRoom r (s.tileWords c seq))))
      if (c.stepped seq (s.tileRoom r (s.tileWords c seq))).full then u.capEnd r stOK else u.capSettle r) := by
  obtain ⟨hruns, hhead, hcap, hmine, hfirst, hnext, hdone, hpast⟩ := h
  change execCaptureTileWrite r seq [] s = _
  refine Eq.trans (running_of_runs hruns _) (congrArg Host.Outcome.next ?_)
  have hcommit : (s.commit c.d).head = true := by rw [commit_of_head hhead]; exact hhead
  have htake : (s.tileAt seq && seq == s.tile.toNat) = false := by simp [hdone]
  simp only [hcap, hfirst, hmine, hhead, hcommit, hpast, htake, ← hnext, Option.isNone_some, Bool.false_and, Bool.false_eq_true, if_false, Bool.or_self,
    bne_self_eq_false, beq_self_eq_true, if_true, Bool.not_true, Bool.false_or, State.tileDone, State.tileStored, State.tileDropped, State.tileRoom,
    State.tileWords, Capture.stepped, Capture.full]
  rfl

/-! ### What storing and dropping a tile leave -/

theorem capEnd_setCap (s : State) (r : Fin 4) (c : Capture) (status : Nat) :
    ∃ f, (s.setCap r (some c)).capEnd r status = (s.modSamp f).complete c.d (capResult c status) ∧ (f s.samp).caps[r] = none := by
  refine ⟨fun q => { q with caps := upd (upd q.caps r (fun _ => some c)) r (fun _ => none) }, ?_, upd_self ..⟩
  rw [State.capEnd, setCap_self]
  rfl

theorem capSettle_open (s : State) (r : Fin 4) (c : Capture) (h : c.lastDue = none) : (s.setCap r (some c)).capSettle r = s.setCap r (some c) := by
  rw [State.capSettle, setCap_self]
  simp [h]

theorem tileDropped_logs (s : State) (r : Fin 4) (seq : Nat) : logsOnly s (s.tileDropped r seq) :=
  ((logsOnly.refl s).modRing _ _).inc _ (mem_hifDropCnt _)

theorem tileStored_logs (s : State) (r : Fin 4) (ws : List Word) : logsOnly s (s.tileStored r ws) :=
  (((logsOnly.refl s).takeEntry _).post _).ringEvent _

theorem tileDone_logs (s : State) (r : Fin 4) (c : Capture) (seq : Nat) : logsOnly s (s.tileDone r c seq) := by
  have hcommit := (logsOnly.refl s).commit c.d
  exact .ite _ (hcommit.trans (tileStored_logs ..)) (hcommit.trans (tileDropped_logs ..))

theorem takeEntry_prod (s : State) (r : Fin 4) :
    (s.takeEntry (capRing r)).2.2 = s.put (Fld.hifRingHeadProducer (capRing r).val) ((s.prod (capRing r) + 1) % s.ringSize (capRing r)) := by
  have hhigh : decide ((capRing r).val < 20) = false := by rw [capRing_val]; exact decide_eq_false (by omega)
  simp only [State.takeEntry, hhigh, Bool.and_false, Bool.false_eq_true, if_false]

theorem takeEntry_addr (s : State) (r : Fin 4) : (s.takeEntry (capRing r)).1 = s.ringBase (capRing r) + s.prod (capRing r) * 4160 := by
  have hbytes : s.entryBytes (capRing r) = 4160 := by
    have hval := capRing_val r
    rw [State.entryBytes, if_neg (by omega), if_neg (by omega), if_neg (by omega)]
  rw [State.takeEntry, hbytes]

theorem tileStored_prod (s : State) (r : Fin 4) (ws : List Word) :
    (s.tileStored r ws).prod (capRing r) = (s.prod (capRing r) + 1) % s.ringSize (capRing r) % 2 ^ 16 := by
  have hpost : ∀ (t : State) (w : HostWrite) (f : FieldRef), (t.post w).get f = t.get f := by
    intro t w f
    unfold State.post
    split
    · split <;> rfl
    · rfl
  rw [State.tileStored, State.prod, ringEvent_get, hpost, takeEntry_prod]
  exact State.get_put_self _ _ _ (by simp)

theorem tileStored_writes (s : State) (r : Fin 4) (ws : List Word) (hacc : s.hif.accepts = true) (hd3 : s.pcie.d3hot = false) :
    Out.hostWrite (s.ringBase (capRing r) + s.prod (capRing r) * 4160) ws ∈ (s.tileStored r ws).out := by
  refine Keeps.mem_out (Keeps.ringEvent (.refl _) _) ?_
  rw [takeEntry_addr]
  simp [State.post, takeEntry_hif, takeEntry_pcie, hacc, hd3, State.emit]

/-! ### The tile's step (O34) -/

theorem tileRoom_of_free (hws : s.tileWords c seq ≠ []) (hon : s.ringOn (capRing r) = true) (hroom : 0 < s.ringRoom (capRing r)) (hout : s.hif.outq = []) :
    s.tileRoom r (s.tileWords c seq) = true := by
  simp [State.tileRoom, hws, hon, hroom, State.outBytes, hout]

theorem tileRoom_of_none (h : s.tileWords c seq = [] ∨ s.ringRoom (capRing r) = 0) : s.tileRoom r (s.tileWords c seq) = false := by
  rcases h with h | h <;> simp [State.tileRoom, h]

theorem commit_drops (hh : s.head = true) (d : Desc) : ((s.commit d).tileDropped r seq).get (Fld.hifDropCntCount (capRing r).val) =
      (s.get (Fld.hifDropCntCount (capRing r).val) + 1) % 2 ^ 32 ∧ ((s.commit d).tileDropped r seq).out = s.out := by
  rw [commit_of_head hh]
  exact ⟨State.get_put_self _ (Fld.hifDropCntCount (capRing r).val) _ (by simp), rfl⟩

theorem captureTileWrite_goesOn (s : State) (r : Fin 4) (c : Capture) (x seq : Nat) (ws : List Word) (hr : s.runs = true) (hh : s.head = true)
    (hc : s.samp.caps[r] = some c) (hm : c.member = s.me) (hx : c.first = some x) (hn : seq = c.next) (hd : seq ≠ s.tile.toNat)
    (hp : seqLater seq s.tile.toNat = false) (hlast : c.lastDue = none) (hcount : c.count = 0 ∨ c.written + c.dropped + 1 < c.count)
    (hws : ws = ((s.samp.tiles.find? (fun t => t.octet == c.octet && t.seq == seq)).map (·.words)).getD []) : answers (.captureTileWrite r seq []) s fun t =>
      (ws ≠ [] → s.ringOn (capRing r) = true → 0 < s.ringRoom (capRing r) → s.hif.outq = [] → s.hif.accepts = true → s.pcie.d3hot = false →
        Out.hostWrite (s.ringBase (capRing r) + s.prod (capRing r) * 4160) ws ∈ t.out ∧ t.prod (capRing r) = (s.prod (capRing r) + 1) % s.ringSize (capRing r) % 2 ^ 16 ∧
        t.samp.caps[r] = some { c with next := (c.next + 1) % 2 ^ 32, last := seq, written := c.written + 1 } ∧ logsOnly (s.modSamp (fun _ => t.samp)) t) ∧
      (ws = [] ∨ s.ringRoom (capRing r) = 0 → t.get (Fld.hifDropCntCount (capRing r).val) = (s.get (Fld.hifDropCntCount (capRing r).val) + 1) % 2 ^ 32 ∧
        t.samp.caps[r] = some { c with next := (c.next + 1) % 2 ^ 32, last := seq, dropped := c.dropped + 1 } ∧ t.out = s.out ∧
        logsOnly (s.modSamp (fun _ => t.samp)) t) := by
  have hwords : ws = s.tileWords c seq := hws
  have hnotFull : ∀ room, (c.stepped seq room).full = false := by
    intro room
    have hsum : (c.stepped seq room).written + (c.stepped seq room).dropped = c.written + c.dropped + 1 := by
      cases room
      · exact (Nat.add_assoc ..).symm
      · exact Nat.add_right_comm ..
    have hsame : (c.stepped seq room).count = c.count := rfl
    rw [Capture.full, hsum, hsame]
    rcases hcount with h | h
    · simp [h]
    · simp [Nat.not_le_of_lt h]
  have hexec : exec (.captureTileWrite r seq []) s = .next ((s.tileDone r c seq).setCap r (some (c.stepped seq (s.tileRoom r ws)))) := by
    rw [exec_captureTileWrite ⟨hr, hh, hc, hm, hx, hn, hd, hp⟩, hnotFull, ← hwords]
    exact congrArg Host.Outcome.next (capSettle_open _ _ _ hlast)
  have hlogs : ∀ o, logsOnly (s.modSamp (fun _ => ((s.tileDone r c seq).setCap r o).samp)) ((s.tileDone r c seq).setCap r o) :=
    fun o => ((tileDone_logs s r c seq).modSamp (fun q => { q with caps := upd q.caps r (fun _ => o) })).of_modSamp
  subst hwords
  refine answers_of hexec ⟨fun hne hon hroom hout hacc hd3 => ?_, fun hnone => ?_⟩
  · have hfits := tileRoom_of_free hne hon hroom hout
    have hdone : s.tileDone r c seq = (s.commit c.d).tileStored r (s.tileWords c seq) := if_pos hfits
    refine ⟨?_, ?_, ?_, hlogs _⟩
    · rw [hdone, commit_of_head hh]
      exact tileStored_writes (s.modStarted c.d _) r _ hacc hd3
    · rw [hdone, commit_of_head hh]
      exact tileStored_prod (s.modStarted c.d _) r _
    · rw [setCap_self, hfits]
      rfl
  · have hfull := tileRoom_of_none (r := r) hnone
    have hdone : s.tileDone r c seq = (s.commit c.d).tileDropped r seq := if_neg (by simp [hfull])
    obtain ⟨hget, hout⟩ := commit_drops (r := r) (seq := seq) hh c.d
    refine ⟨?_, ?_, ?_, hlogs _⟩
    · rw [hdone]
      exact hget
    · rw [setCap_self, hfull]
      rfl
    · rw [hdone]
      exact hout

theorem EndsAlike.tileDropped {d : Desc} {a s : State} (h : EndsAlike d a s) (r : Fin 4) (seq : Nat) : EndsAlike d a (s.tileDropped r seq) := by
  have hne : ∀ n : Fin 24, Reg.hifDropCnt n.val ≠ Reg.topStatus ∧ Reg.hifDropCnt n.val ∉ cplRegs := by decide
  have hring : EndsAlike d s (s.modRing (capRing r) (fun q => { q with drops := q.drops + 1, dropFirst := if q.drops == 0 then seq else q.dropFirst
                                                                       dropLast := seq })) :=
    ⟨⟨rfl, rfl, rfl, rfl, rfl, rfl, rfl, fun _ _ => rfl⟩, rfl⟩
  exact (h.trans hring).trans ⟨.wr d _ (Reg.hifDropCnt (capRing r).val) _ (hne _).1 (hne _).2, rfl⟩

theorem captureTileWrite_ends (s : State) (r : Fin 4) (c : Capture) (x seq : Nat) (hr : s.runs = true) (hh : s.head = true)
    (hc : s.samp.caps[r] = some c) (hm : c.member = s.me) (hx : c.first = some x) (hn : seq = c.next) (hd : seq ≠ s.tile.toNat)
    (hp : seqLater seq s.tile.toNat = false) (hcount : c.count = c.written + c.dropped + 1) (htiles : s.samp.tiles = []) (htell : tellable s c.d) :
    answers (.captureTileWrite r seq []) s fun t =>
      t.samp.caps[r] = none ∧ ended s t c.d { status := stOK, r0 := BitVec.ofNat 32 c.written, r1 := BitVec.ofNat 32 (c.dropped + 1)
                                              r2 := BitVec.ofNat 32 ((x + c.pretrig) % 2 ^ 32), r3 := BitVec.ofNat 32 seq } := by
  have hnone : s.tileWords c seq = [] := by simp [State.tileWords, htiles]
  have hroom := tileRoom_of_none (r := r) (.inl hnone)
  have hdone : s.tileDone r c seq = (s.commit c.d).tileDropped r seq := if_neg (by simp [hroom])
  have hfull : (c.stepped seq false).full = true := by simp [Capture.full, Capture.stepped, b2n, hcount]
  obtain ⟨f, hend, hcaps⟩ := capEnd_setCap ((s.commit c.d).tileDropped r seq) r (c.stepped seq false) stOK
  have hexec : exec (.captureTileWrite r seq []) s =
      .next ((((s.commit c.d).tileDropped r seq).modSamp f).complete c.d (capResult (c.stepped seq false) stOK)) := by
    rw [exec_captureTileWrite ⟨hr, hh, hc, hm, hx, hn, hd, hp⟩, hroom, hdone, hfull]
    exact congrArg Host.Outcome.next hend
  have hresult : capResult (c.stepped seq false) stOK = { status := stOK, r0 := BitVec.ofNat 32 c.written, r1 := BitVec.ofNat 32 (c.dropped + 1)
                                                          r2 := BitVec.ofNat 32 ((x + c.pretrig) % 2 ^ 32), r3 := BitVec.ofNat 32 seq } := by
    rw [capResult, show (c.stepped seq false).first = some x from hx]
    rfl
  rw [hresult] at hexec
  refine answers_of hexec ⟨?_, ((((EndsAlike.refl c.d s).commit).tileDropped r seq).modSamp f).ended htell _⟩
  rw [((logsOnly.refl _).complete c.d _).samp_eq]
  exact hcaps

end

/-- Settles O34, a command at a time: the refusals and the start, CAPTURE_STOP, and a capture's tile with and without the end of its count. -/
theorem capturesStartWriteAndStop : Obligations.CapturesStartWriteAndStop := by
  unfold Obligations.CapturesStartWriteAndStop
  exact ⟨captureStart_starts, captureStop_stops, captureTileWrite_goesOn, captureTileWrite_ends⟩

end Sys2Proof.Machine
end

section
/-! Calibration rounds: CAL_RUN, the start of a round, the owners' sums, a member's values, a coefficient written, and a timeout (R434 to R455). -/

namespace Sys2Proof.Machine

/-! ### The calibration unit's own data, through what reporting changes -/

theorem logsOnly.cal_eq {s t : State} (h : logsOnly s t) : t.cal = s.cal := congrArg (·.cal) h.1

theorem logsOnly.modCal {s t : State} (h : logsOnly s t) (f : Cal → Cal) : logsOnly (s.modCal f) (t.modCal f) :=
  ⟨congrArg (·.modCal f) h.1, h.2⟩

/-- What only reporting changes after a change of the calibration unit's own data has that as it was set. -/
theorem logsOnly.of_modCal {s t : State} {f : Cal → Cal} (h : logsOnly (s.modCal f) t) : logsOnly (s.modCal (fun _ => t.cal)) t := by
  rw [h.cal_eq]
  exact h

theorem EndsAlike.modCal {d : Desc} {a s : State} (h : EndsAlike d a s) (f : Cal → Cal) : EndsAlike d a (s.modCal f) :=
  h.trans ⟨⟨rfl, rfl, rfl, rfl, rfl, rfl, rfl, fun _ _ => rfl⟩, rfl⟩

theorem inBlock_served {b : Blk} {s : State} (hr : s.runs = true) (hb : s.free? b = true) (f : State → State) : inBlock b s f = .next (f s) := by
  simp [inBlock, done, hr, hb]

/-- A change of the calibration unit's own data with PHASE, after what reporting changes. -/
theorem logsAnd_put_phase {s t : State} (f : Cal → Cal) (h : logsOnly (s.modCal f) t) (v : Nat) :
    logsAnd [Reg.calStat] (s.modCal (fun _ => (t.put Fld.calStatPhase v).cal)) (t.put Fld.calStatPhase v) := by
  have hcal : (t.put Fld.calStatPhase v).cal = f s.cal := h.cal_eq
  rw [hcal]
  refine ⟨h.1, fun off hoff => ?_⟩
  rw [List.singleton_append, List.mem_cons, not_or] at hoff
  exact (State.rd_put_ne _ _ _ _ hoff.1).trans (h.2 off hoff.2)

/-! ### CAL_RUN (R434, R455) -/

theorem atBlock_cal (s : State) (d : Desc) : (s.atBlock d).cal = s.cal := ((logsOnly.refl s).atBlock d).cal_eq
theorem atBlock_out (s : State) (d : Desc) : (s.atBlock d).out = s.out := by obtain ⟨h, l, e⟩ := atBlock_is s d; rw [e]
theorem atBlock_calLeads (s : State) (d : Desc) : (s.atBlock d).calLeads = s.calLeads := by
  have hin : (s.atBlock d).lnk.inEpoch = s.lnk.inEpoch := by
    unfold State.atBlock
    split <;> rfl
  rw [State.calLeads, atBlock_head, hin, State.calLeads]

/-- A CAL_RUN waits for its round. -/
def State.calWaits (s : State) (d : Desc) : State := s.modCal (fun c => { c with waiting := c.waiting ++ [d] })

section
variable {s : State} {d : Desc}

theorem exec_calRun (hr : s.runs = true) (ht : s.takes 0x40 d = true) (hm : s.head = true → d.member = s.me) (hb : s.free? .cal = true) :
    exec (.calRun d) s = .next (if s.calLeads then ((s.atBlock d).calWaits d).calTriggered 2 else (s.atBlock d).calWaits d) := by
  rw [← atBlock_calLeads s d]
  exact row_of_free hr hm ht hb _ _

theorem calTriggered_first (hr : s.cal.round = none) (ht : s.cal.trigger = none) (cause : Nat) : s.calTriggered cause =
    (s.modCal (fun c => { c with trigger := some ((s.tile.toNat + 4) % 2 ^ 32, cause) })).put Fld.calStatPhase 1 := by
  rw [State.calTriggered, if_neg (by simp [hr, ht])]

theorem calTriggered_again (h : s.cal.round.isSome = true ∨ s.cal.trigger.isSome = true) (cause : Nat) : s.calTriggered cause = s :=
  if_pos (by rcases h with h | h <;> simp [h])

end

theorem calRun_waits (s : State) (d : Desc) (hr : s.runs = true) (hdue : dueHere s 0x40 d) (hm : s.head = true → d.member = s.me) :
    answers (.calRun d) s fun t =>
    (s.free? .cal = false → ended s t d { status := stPeerReset } ∧ logsOnly s t) ∧
    (s.free? .cal = true → s.calLeads = true → s.cal.round = none → s.cal.trigger = none →
      t.cal = { s.cal with waiting := s.cal.waiting ++ [d], trigger := some ((s.tile.toNat + 4) % 2 ^ 32, 2) } ∧ t.get Fld.calStatPhase = 1 ∧ t.out = s.out ∧
      logsAnd [Reg.calStat] (s.modCal (fun _ => t.cal)) t) ∧
    (s.free? .cal = true → (s.calLeads = false ∨ s.cal.round.isSome = true ∨ s.cal.trigger.isSome = true) →
      t.cal = { s.cal with waiting := s.cal.waiting ++ [d] } ∧ t.out = s.out ∧ logsOnly (s.modCal (fun _ => t.cal)) t) := by
  cases hb : s.free? .cal with
  | false => exact answers_of (row_of_held hr hm hdue.1 hb _ _) ⟨fun _ => atBlock_complete hdue.2 _, nofun, nofun⟩
  | true =>
    refine answers_of (exec_calRun hr hdue.1 hm hb) ⟨nofun, fun _ hl hround htrig => ?_, fun _ hnot => ?_⟩
    · have hwaits : ((s.atBlock d).calWaits d).cal.round = none ∧ ((s.atBlock d).calWaits d).cal.trigger = none :=
        ⟨(congrArg Cal.round (atBlock_cal s d)).trans hround, (congrArg Cal.trigger (atBlock_cal s d)).trans htrig⟩
      rw [if_pos hl, calTriggered_first hwaits.1 hwaits.2]
      have htile : ((s.atBlock d).calWaits d).tile = s.tile := atBlock_tile s d
      rw [htile]
      refine ⟨?_, State.get_put_self _ Fld.calStatPhase 1 (by decide), atBlock_out s d, ?_⟩
      · exact congrArg (fun c : Cal => { c with waiting := c.waiting ++ [d], trigger := some ((s.tile.toNat + 4) % 2 ^ 32, 2) }) (atBlock_cal s d)
      · exact logsAnd_put_phase (fun c => { c with waiting := c.waiting ++ [d], trigger := some ((s.tile.toNat + 4) % 2 ^ 32, 2) })
          (((logsOnly.refl s).atBlock d).modCal _) 1
    · have hstays : (if s.calLeads then ((s.atBlock d).calWaits d).calTriggered 2 else (s.atBlock d).calWaits d) = (s.atBlock d).calWaits d := by
        split
        · next hl =>
          refine calTriggered_again ?_ 2
          have hcal := atBlock_cal s d
          rcases hnot with h | h | h
          · rw [hl] at h
            exact absurd h (by decide)
          · exact .inl ((congrArg (fun c : Cal => c.round.isSome) hcal).trans h)
          · exact .inr ((congrArg (fun c : Cal => c.trigger.isSome) hcal).trans h)
        · rfl
      rw [hstays]
      refine ⟨?_, atBlock_out s d, logsOnly.of_modCal (((logsOnly.refl s).atBlock d).modCal (fun c => { c with waiting := c.waiting ++ [d] }))⟩
      exact congrArg (fun c : Cal => { c with waiting := c.waiting ++ [d] }) (atBlock_cal s d)

/-! ### The start of a round (R436 to R439) -/

/-- The round that begins with the current tile. -/
def State.newRound (s : State) (cause items mask : Nat) : CalRound :=
  { first := s.tile.toNat, items := items, paths := s.roundPaths mask, cause := cause, ctl := s.rd Reg.calCtl, solving := false
    lostPaths := 0, written := 0, stats := [], sums := [], owners := [], values := none }

/-- The calibration unit's own data as a round begins. -/
def Cal.begun (c : Cal) (r : CalRound) : Cal := { c with round := some r, trigger := none, runs := c.waiting, waiting := [] }

theorem calBegin_eq (s : State) (cause items mask : Nat) :
    s.calBegin cause items mask = (s.modCal (·.begun (s.newRound cause items mask))).put Fld.calStatPhase 2 := rfl

theorem calRoundStart_member (s : State) (cause items mask : Nat) (hr : s.runs = true) (hb : s.free? .cal = true) (hround : s.cal.round = none)
    (hl : s.calLeads = false) : answers (.calRoundStart cause items mask) s fun t =>
    (∃ r, t.cal.round = some r ∧ r.first = s.tile.toNat ∧ r.items = items ∧ r.paths = s.roundPaths mask ∧ r.cause = cause ∧ r.solving = false) ∧ t.cal.runs = s.cal.waiting ∧
    t.cal.waiting = [] ∧ t.cal.trigger = none ∧ t.get Fld.calStatPhase = 2 ∧ onlyFields [Fld.calStatPhase] (s.modCal (fun _ => t.cal)) t := by
  have hexec : exec (.calRoundStart cause items mask) s = .next (s.calBegin cause items mask) := by
    change execCalRoundStart cause items mask s = _
    refine Eq.trans (inBlock_served hr hb _) (congrArg Host.Outcome.next ?_)
    simp [hround, hl]
  refine answers_of hexec ?_
  rw [calBegin_eq]
  exact ⟨⟨_, rfl, rfl, rfl, rfl, rfl, rfl⟩, rfl, rfl, rfl, State.get_put_self _ Fld.calStatPhase 2 (by decide), onlyFields_put _ _ _ (by simp)⟩

/-- What a set of waiting CAL_RUNs asks a round to do. -/
def State.askedItems (s : State) (w : List Desc) : Nat :=
  if w.isEmpty then s.get Fld.calCtlEn else w.foldl (fun a d => a ||| (if d.f 1 0 4 == 0 then s.get Fld.calCtlEn else d.f 1 0 4)) 0

theorem exec_calRoundStart_leads {s : State} {x c : Nat} (cause items mask : Nat) (hr : s.runs = true) (hb : s.free? .cal = true) (hround : s.cal.round = none)
    (hl : s.calLeads = true) (htrig : s.cal.trigger = some (x, c)) (hat : s.tileAt x = true) (hslot : s.is Fld.calCtlSlotted = false) :
    ∃ t, execCalRoundStart cause items mask s = .next t ∧
      logsOnly (s.calBegin (if s.cal.waiting.isEmpty then c else 2) (s.askedItems s.cal.waiting) 15) t := by
  refine ⟨_, inBlock_served hr hb _, ?_⟩
  simp only [hround, Option.isSome_none, Bool.false_eq_true, if_false, hl, Bool.not_true, htrig, hslot, Bool.false_and, hat, Bool.or_self]
  exact (logsOnly.refl _).cond _ _ fun _ ht => ht.sendMsg _

theorem calRoundStart_leads (s : State) (x c cause items mask : Nat) (hr : s.runs = true) (hb : s.free? .cal = true) (hround : s.cal.round = none)
    (hl : s.calLeads = true) (htrig : s.cal.trigger = some (x, c)) (hat : s.tileAt x = true) (hslot : s.is Fld.calCtlSlotted = false) :
    answers (.calRoundStart cause items mask) s fun t =>
      (∃ r, t.cal.round = some r ∧ r.first = s.tile.toNat ∧ r.paths = s.roundPaths 15 ∧ r.solving = false ∧
        (s.cal.waiting = [] → r.items = s.get Fld.calCtlEn ∧ r.cause = c) ∧ (∀ d, s.cal.waiting = [d] → d.f 1 0 4 ≠ 0 → r.items = d.f 1 0 4 ∧ r.cause = 2)) ∧
      t.cal.runs = s.cal.waiting ∧ t.cal.trigger = none ∧ t.get Fld.calStatPhase = 2 ∧ logsAnd [Reg.calStat] (s.modCal (fun _ => t.cal)) t := by
  obtain ⟨t, hexec, hlogs⟩ := exec_calRoundStart_leads cause items mask hr hb hround hl htrig hat hslot
  rw [calBegin_eq] at hlogs
  have hcal : t.cal = s.cal.begun (s.newRound (if s.cal.waiting.isEmpty then c else 2) (s.askedItems s.cal.waiting) 15) := hlogs.cal_eq
  refine answers_of hexec ⟨⟨_, congrArg Cal.round hcal, rfl, rfl, rfl, fun hw => ?_, fun d hw hd => ?_⟩, congrArg Cal.runs hcal, congrArg Cal.trigger hcal, ?_, ?_⟩
  · simp [State.newRound, State.askedItems, hw]
  · simp [State.newRound, State.askedItems, hw, hd]
  · exact (get_of_regsOnly hlogs.2 Fld.calStatPhase (by decide)).trans (State.get_put_self _ Fld.calStatPhase 2 (by decide))
  · rw [hcal]
    refine ⟨congrArg (fun u : State => { u with regs := s.regs }) hlogs.1, fun off hoff => ?_⟩
    rw [List.singleton_append, List.mem_cons, not_or] at hoff
    exact (hlogs.2 off hoff.2).trans (State.rd_put_ne _ _ _ _ hoff.1)

theorem calRoundStart_early (s : State) (x c cause items mask : Nat) (hr : s.runs = true) (hb : s.free? .cal = true) (hl : s.calLeads = true)
    (htrig : s.cal.trigger = some (x, c)) (hat : s.tileAt x = false) : answers (.calRoundStart cause items mask) s fun t => t = s := by
  refine ⟨_, show execCalRoundStart cause items mask s = _ from inBlock_served hr hb _, ?_⟩
  simp only [hl, htrig, hat, Bool.not_true, Bool.not_false, Bool.true_or, Bool.false_eq_true, if_false, if_true, ite_self]

end Sys2Proof.Machine
end

section
/-! The solve tile's sums and values, a coefficient written, and a CAL_RUN's timeout (R433, R450, R451, R455). -/

namespace Sys2Proof.Machine

/-! ### The owners' sums and a member's values (R433) -/

/-- The round after one owner's sums. -/
def CalRound.summed (r : CalRound) (o : Nat) (sums : List CalSum) : CalRound :=
  { r with sums := sums.foldl addSum r.sums, owners := r.owners.filter (· != o) }

theorem exec_calSumsReceive {s : State} {r : CalRound} {o : Nat} (sums : List CalSum) (hr : s.runs = true) (hb : s.free? .cal = true) (hh : s.head = true)
    (hround : s.cal.round = some r) (hsolving : r.solving = true) (ho : o ∈ r.owners) :
    exec (.calSumsReceive o sums) s = .next (s.modCal (fun c => { c with round := some (r.summed o sums) })).calSolved := by
  change execCalSumsReceive o sums s = _
  refine Eq.trans (inBlock_served hr hb _) (congrArg Host.Outcome.next ?_)
  simp only [hround, hh, hsolving, List.contains_iff_mem.mpr ho, Bool.not_true, Bool.or_self, Bool.false_eq_true, if_false, CalRound.summed]

theorem calSumsReceive_waits (s : State) (r : CalRound) (o : Nat) (sums : List CalSum) (hr : s.runs = true) (hb : s.free? .cal = true) (hh : s.head = true)
    (hround : s.cal.round = some r) (hsolving : r.solving = true) (ho : o ∈ r.owners) (hleft : r.owners.filter (· != o) ≠ []) :
    answers (.calSumsReceive o sums) s fun t =>
      t = s.modCal (fun c => { c with round := some { r with sums := sums.foldl addSum r.sums, owners := r.owners.filter (· != o) } }) := by
  have hsolved : (s.modCal (fun c => { c with round := some (r.summed o sums) })).calSolved = s.modCal (fun c => { c with round := some (r.summed o sums) }) := by
    have hwait : (!(r.summed o sums).owners.isEmpty) = true := by simpa [CalRound.summed] using hleft
    exact if_pos hwait
  exact answers_of (exec_calSumsReceive sums hr hb hh hround hsolving ho) hsolved

theorem calSolved_solves {s : State} {r : CalRound} (hround : s.cal.round = some r) (ho : r.owners = []) :
    logsOnly (s.modCal (fun c => { c with round := some { r with values := some (s.calValues r s.me) } })) s.calSolved := by
  rw [State.calSolved, hround]
  simp only [ho, List.isEmpty_nil, Bool.not_true, Bool.false_eq_true, if_false]
  exact (logsOnly.refl _).cond _ _ fun _ ht => ht.forEach _ _ fun _ _ hu => hu.sendMsg _

theorem calSumsReceive_solves (s : State) (r : CalRound) (o : Nat) (sums : List CalSum) (hr : s.runs = true) (hb : s.free? .cal = true) (hh : s.head = true)
    (hround : s.cal.round = some r) (hsolving : r.solving = true) (ho : o ∈ r.owners) (hlast : r.owners.filter (· != o) = []) :
    answers (.calSumsReceive o sums) s fun t =>
      (∃ q, t.cal.round = some q ∧ q.sums = sums.foldl addSum r.sums ∧ q.owners = [] ∧ q.values = some (s.calValues q s.me)) ∧
      logsOnly (s.modCal (fun _ => t.cal)) t := by
  have hlogs := calSolved_solves (s := s.modCal (fun c => { c with round := some (r.summed o sums) })) rfl hlast
  have hcal := hlogs.cal_eq
  refine answers_of (exec_calSumsReceive sums hr hb hh hround hsolving ho) ⟨⟨_, congrArg Cal.round hcal, rfl, hlast, rfl⟩, ?_⟩
  rw [hcal]
  exact hlogs

theorem calValuesReceive_takes (s : State) (r : CalRound) (vs : List CalValue) (hr : s.runs = true) (hb : s.free? .cal = true) (hh : s.head = false)
    (hround : s.cal.round = some r) (hsolving : r.solving = true) : answers (.calValuesReceive vs) s fun t =>
      t = s.modCal (fun c => { c with round := some { r with values := some vs } }) := by
  refine ⟨_, show execCalValuesReceive vs s = _ from inBlock_served hr hb _, ?_⟩
  simp only [hround, State.cond, hsolving, hh, Bool.not_false, Bool.and_self, if_true]

/-! ### A coefficient written (R450, R451) -/

/-- The offset of a path's coefficient register. -/
abbrev coeffOff (x : Fin 4) (i : Fin 6) : Nat := Reg.calDcI x.val + 4 * i.val

/-- The width of a coefficient: 20 bits for the two of DC, 16 for the others. -/
def coeffWidth (i : Fin 6) : Nat := if i.val < 2 then 20 else 16

theorem coeffWidth_le (i : Fin 6) : 0 + coeffWidth i ≤ 32 := by revert i; decide

theorem busReg_coeff (x : Fin 4) (i : Fin 6) : BusReg (coeffOff x i) [⟨0, coeffWidth i, .rw, []⟩] := by
  constructor <;> revert x i <;> decide

theorem coeffOff_acts (x : Fin 4) (i : Fin 6) : coeffOff x i ∉ actingRegs ∧ ¬(Reg.bootWinData 0 ≤ coeffOff x i ∧ coeffOff x i ≤ Reg.bootWinData 63) ∧
    ringOfCtl (coeffOff x i) = none ∧ ringOfPlace (coeffOff x i) = none ∧ loOfCtl (coeffOff x i) = none ∧ sapOfCtl (coeffOff x i) = none ∧
    mapOf (coeffOff x i) = none ∧ loOfCalmode (coeffOff x i) = none ∧ pathOfCal (coeffOff x i) = some x := by
  revert x i; decide

theorem coeffOff_ne (x : Fin 4) (i : Fin 6) : Reg.calLastTemp x.val ≠ coeffOff x i ∧ (Fld.tempTemp (x.val + 2)).off ≠ coeffOff x i := by revert x i; decide

theorem landWrite_coeff (s : State) (p : Port) (x : Fin 4) (i : Fin 6) (w : Word) (t : WriteAt) :
    s.landWrite p (coeffOff x i) w [⟨0, coeffWidth i, .rw, []⟩] t = (s.put ⟨coeffOff x i, 0, coeffWidth i⟩ (getF w 0 (coeffWidth i))).calWritten x := by
  obtain ⟨hact, hwin, hctl, hplace, hlo, hsap, hmap, hmode, hcal⟩ := coeffOff_acts x i
  have hput : s.wr (coeffOff x i) (applyFields [⟨0, coeffWidth i, .rw, []⟩] (s.rd (coeffOff x i)) w) =
      s.put ⟨coeffOff x i, 0, coeffWidth i⟩ (getF w 0 (coeffWidth i)) := rfl
  rw [← hput]
  simp only [actingRegs, List.mem_cons, not_or] at hact
  simp [State.landWrite, State.afterWrite, hwin, hctl, hplace, hlo, hsap, hmap, hmode, hcal, hact]

/-- What a write of a coefficient changes while no round runs. -/
theorem calWritten_idle {s : State} (x : Fin 4) (hround : s.cal.round = none) : s.calWritten x =
    (s.wr (Reg.calLastTemp x.val) (s.tempNow x)).modCal
      (fun _ => { s.cal with paths := upd s.cal.paths x (fun c => { c with writeAt := some (c.writeAt.getD s.maskTile) }) }) := by
  have hcal : (s.wr (Reg.calLastTemp x.val) (s.tempNow x)).cal = s.cal := rfl
  have htile : (s.wr (Reg.calLastTemp x.val) (s.tempNow x)).maskTile = s.maskTile := rfl
  simp only [State.calWritten, State.modCalPath, State.modCal, hcal, htile, hround, Option.map_none]

theorem calCoeffWrite_acts (s : State) (p : Port) (x : Fin 4) (i : Fin 6) (w : Word) (h : served s p (coeffOff x i)) (hround : s.cal.round = none) :
    answers (.calCoeffWrite p x i w) s fun t =>
    t.get ⟨Reg.calDcI x.val + 4 * i.val, 0, if i.val < 2 then 20 else 16⟩ = getF w 0 (if i.val < 2 then 20 else 16) ∧
    t.rd (Reg.calLastTemp x.val) = packW [(31, 1, 1), (0, 16, s.get (Fld.tempTemp (x.val + 2)))] ∧
    t.cal = { s.cal with paths := upd s.cal.paths x (fun c => { c with writeAt := some (c.writeAt.getD s.maskTile) }) } ∧
    onlyRegs [Reg.calDcI x.val + 4 * i.val, Reg.calLastTemp x.val] (s.modCal (fun _ => t.cal)) t := by
  obtain ⟨hlast, htemp⟩ := coeffOff_ne x i
  have hexec : exec (.calCoeffWrite p x i w) s = .next ((s.put ⟨coeffOff x i, 0, coeffWidth i⟩ (getF w 0 (coeffWidth i))).calWritten x) :=
    congrArg Host.Outcome.next (((busReg_coeff x i).hostWrite h w _).trans (landWrite_coeff ..))
  rw [calWritten_idle x (show (s.put _ _).cal.round = none from hround)] at hexec
  refine answers_of hexec ⟨?_, ?_, rfl, rfl, ?_⟩
  · refine (get_wr_ne _ _ _ ⟨coeffOff x i, 0, coeffWidth i⟩ hlast.symm).trans ((State.get_put_self s _ _ (coeffWidth_le i)).trans ?_)
    exact Nat.mod_eq_of_lt (getF_lt w 0 _)
  · have hsensor : (s.put ⟨coeffOff x i, 0, coeffWidth i⟩ (getF w 0 (coeffWidth i))).get (Fld.tempTemp (x.val + 2)) = s.get (Fld.tempTemp (x.val + 2)) :=
      get_put_other _ _ _ _ htemp
    refine (State.rd_wr_self _ _ _).trans ?_
    rw [State.tempNow, hsensor]
  · exact regsOnly_trans (regsOnly_put s ⟨coeffOff x i, 0, coeffWidth i⟩ _ (by simp)) (regsOnly_wr _ _ _ (by simp))

/-! ### CAL_RUN's timeout (R455) -/

theorem calRunTimeout_ends (s : State) (d : Desc) (hr : s.runs = true) (hb : s.free? .cal = true) (hw : d ∈ s.cal.waiting) (ht : tellable s d) :
    answers (.calRunTimeout d) s fun t =>
    t.cal = { s.cal with waiting := s.cal.waiting.filter (· != d) } ∧ ended s t d { status := stTimeout } ∧ logsOnly (s.modCal (fun _ => t.cal)) t := by
  have hexec : exec (.calRunTimeout d) s = .next ((s.modCal (fun c => { c with waiting := c.waiting.filter (· != d) })).finish d stTimeout) := by
    change execCalRunTimeout d s = _
    exact Eq.trans (inBlock_served hr hb _) (congrArg Host.Outcome.next (if_pos (List.contains_iff_mem.mpr hw)))
  have hlogs := (logsOnly.refl (s.modCal (fun c => { c with waiting := c.waiting.filter (· != d) }))).finish d stTimeout
  exact answers_of hexec ⟨hlogs.cal_eq, ((EndsAlike.refl d s).modCal _).ended ht _, hlogs.of_modCal⟩

end Sys2Proof.Machine
end

section
/-! What a tile boundary does outside the calibration unit leaves that unit's own data and its registers (R387). -/

namespace Sys2Proof.Machine

/-- An offset of the CAL block. -/
def calBlock (off : Nat) : Bool := decide (0x3000 ≤ off) && decide (off < 0x3800)

/-- The calibration unit's own data, its registers and the tile sequence number are in `t` as in `s`. -/
structure CalStands (s t : State) : Prop where
  cal : t.cal = s.cal
  tile : t.tile = s.tile
  regs : ∀ off, calBlock off = true → t.rd off = s.rd off

theorem calBlock_logRegs : ∀ off ∈ logRegs, calBlock off = false := by decide
theorem calBlock_lo (n : Fin 5) : calBlock (Reg.loStat n.val) = false ∧ calBlock (Reg.loCtl n.val) = false ∧ calBlock (Reg.loFreq n.val) = false := by
  revert n; decide

namespace CalStands

variable {a s : State}

theorem refl (s : State) : CalStands s s := ⟨rfl, rfl, fun _ _ => rfl⟩
theorem trans {t : State} (h : CalStands a s) (k : CalStands s t) : CalStands a t :=
  ⟨k.cal.trans h.cal, k.tile.trans h.tile, fun off ho => (k.regs off ho).trans (h.regs off ho)⟩
theorem ite {t : State} (c : Prop) [Decidable c] (h : CalStands a s) (k : CalStands a t) : CalStands a (if c then s else t) := by
  split
  · exact h
  · exact k
theorem cond (h : CalStands a s) (b : Bool) (f : State → State) (hf : CalStands a (f s)) : CalStands a (s.cond b f) := ite _ hf h
theorem forEach {α : Type} (h : CalStands a s) (l : List α) (f : State → α → State) (hf : ∀ t x, CalStands t (f t x)) : CalStands a (s.forEach l f) :=
  forEach_induct (P := CalStands a) (fun t x k => k.trans (hf t x)) l h
/-- A change of other data. -/
theorem same {t : State} (h : CalStands a s) (hc : t.cal = s.cal) (ht : t.tile = s.tile) (hr : t.regs = s.regs) : CalStands a t :=
  h.trans ⟨hc, ht, fun off _ => congrArg (Sparse.get resetWord · off) hr⟩
theorem wr (h : CalStands a s) (off : Nat) (w : Word) (ho : calBlock off = false) : CalStands a (s.wr off w) :=
  h.trans ⟨rfl, rfl, fun p hp => s.rd_wr_ne off p w fun e => by rw [e, ho] at hp; exact absurd hp (by decide)⟩
theorem put (h : CalStands a s) (f : FieldRef) (v : Nat) (hf : calBlock f.off = false) : CalStands a (s.put f v) := h.wr _ _ hf
theorem regsOnly {t : State} {offs : List Nat} (h : CalStands a s) (hc : t.cal = s.cal) (ht : t.tile = s.tile) (hr : Machine.regsOnly offs s t)
    (hoffs : ∀ off ∈ offs, calBlock off = false) : CalStands a t :=
  h.trans ⟨hc, ht, fun off ho => hr off fun hmem => by rw [hoffs off hmem] at ho; exact absurd ho (by decide)⟩
theorem logs {t : State} (h : CalStands a s) (k : logsOnly s t) : CalStands a t :=
  h.regsOnly k.cal_eq (congrArg (·.tile) k.1) k.2 calBlock_logRegs
theorem radio {t : State} {offs : List Nat} (h : CalStands a s) (k : RadioOnly offs s t) (hoffs : ∀ off ∈ offs, calBlock off = false) : CalStands a t :=
  h.regsOnly (congrArg (·.cal) k.rest) (congrArg (·.tile) k.rest) k.regs hoffs
theorem paths {t : State} (h : CalStands a s) (k : PathsOnly s t) : CalStands a t :=
  h.regsOnly (congrArg (·.cal) k.rest) (congrArg (·.tile) k.rest) k.regs (by decide)

theorem modSamp (h : CalStands a s) (f : Samp → Samp) : CalStands a (s.modSamp f) := h.same rfl rfl rfl
theorem modAgc (h : CalStands a s) (p : Fin 4) (f : AgcSt → AgcSt) : CalStands a (s.modAgc p f) := h.same rfl rfl rfl
theorem modPath (h : CalStands a s) (p : Fin 4) (f : PathSt → PathSt) : CalStands a (s.modPath p f) := h.same rfl rfl rfl
theorem modStore (h : CalStands a s) (f : Store → Store) : CalStands a (s.modStore f) := h.same rfl rfl rfl
theorem modTag (h : CalStands a s) (f : Tag → Tag) : CalStands a (s.modTag f) := h.same rfl rfl rfl
theorem modExch (h : CalStands a s) (f : Exch → Exch) : CalStands a (s.modExch f) := h.same rfl rfl rfl
theorem modLo (h : CalStands a s) (n : Fin 5) (f : LoSt → LoSt) : CalStands a (s.modLo n f) := h.same rfl rfl rfl
theorem modRadio (h : CalStands a s) (f : Radio → Radio) : CalStands a (s.modRadio f) := h.same rfl rfl rfl
theorem modSrc (h : CalStands a s) (n : Fin 4) (f : Source → Source) : CalStands a (s.modSrc n f) := h.same rfl rfl rfl
theorem complete (h : CalStands a s) (d : Desc) (r : Result) : CalStands a (s.complete d r) := h.logs ((logsOnly.refl s).complete d r)
theorem finishOpt (h : CalStands a s) (d : Option Desc) (r : Result) : CalStands a (s.finishOpt d r) := h.logs ((logsOnly.refl s).finishOpt d r)
theorem partDone (h : CalStands a s) (d : Desc) (r : Result) : CalStands a (s.partDone d r) := h.logs ((logsOnly.refl s).partDone d r)
theorem commit (h : CalStands a s) (d : Desc) : CalStands a (s.commit d) := h.logs ((logsOnly.refl s).commit d)

/-! ### Sources and tiles -/

theorem bcstTile (h : CalStands a s) : CalStands a s.bcstTile := by
  refine h.forEach allPaths _ fun t i => .ite _ (refl t) ?_
  extract_lets flags er n u
  have hu : CalStands t u := (refl t).modSrc i _
  exact .ite _ (hu.modSrc i _) (.ite _ (hu.modSrc i _) hu)

theorem tileEnds (h : CalStands a s) : CalStands a s.tileEnds := by
  unfold State.tileEnds
  exact h.modSamp _

theorem agc_mem (p : Fin 4) : calBlock (Reg.agcCtl p.val) = false := by revert p; decide

theorem sampViews (h : CalStands a s) : CalStands a s.sampViews :=
  h.forEach allPaths _ fun t p =>
    ((((refl t).put (Fld.agcCtlCode p.val) _ (agc_mem p)).put ⟨Reg.ovrStat, 8 + p.val, 1⟩ _ (show calBlock Reg.ovrStat = false by decide)).put
      ⟨Reg.ovrStat, 4 + p.val, 1⟩ _ (show calBlock Reg.ovrStat = false by decide)).put ⟨Reg.ovrStat, 12 + p.val, 1⟩ _ (show calBlock Reg.ovrStat = false by decide)

theorem agcBoundary (h : CalStands a s) (p : Fin 4) (peak : Int) : CalStands a (s.agcBoundary p peak) := by
  unfold State.agcBoundary
  extract_lets u x c target raw code
  have hu : CalStands a u := h.modAgc p _
  exact .ite _ (hu.modAgc p _) (.ite _ (hu.modAgc p _) (hu.modAgc p _))

theorem agcTile (h : CalStands a s) (peaks : List Int) : CalStands a (s.agcTile peaks) := by
  refine h.forEach allPaths _ fun t p => ?_
  split
  · exact (refl t).agcBoundary p _
  · exact refl t

theorem sampApply (h : CalStands a s) : CalStands a s.sampApply := (h.modSamp _).put Fld.storeCtlDepthCut _ (by decide)

theorem episodeTile (h : CalStands a s) : CalStands a s.episodeTile := by
  unfold State.episodeTile
  extract_lets m t
  refine .ite _ h ?_
  split
  · exact h.modSamp _
  · exact .ite _ h (h.modSamp _)

theorem sampTile (h : CalStands a s) : CalStands a s.sampTile := (h.modSamp _).sampViews.episodeTile

/-! ### Paths and synthesisers -/

theorem loOff (h : CalStands a s) (n : Fin 5) (v : Nat) : CalStands a (s.loOff n v) :=
  h.radio (loOff_radioOnly s n v) (by
    intro off ho
    rw [List.mem_cons, List.mem_singleton] at ho
    rcases ho with rfl | rfl
    · exact (calBlock_lo n).1
    · decide)

theorem loDone (h : CalStands a s) (n : Fin 5) (req : LoReq) (cal : Bool) : CalStands a (s.loDone n req cal) := by
  have hbusy : CalStands a (s.putB (Fld.loStatBusy n.val) false) := h.put _ _ (calBlock_lo n).1
  cases req with
  | target t => exact hbusy
  | tune force => exact hbusy.put (Fld.loCtlTune n.val) _ (calBlock_lo n).2.1
  | move d t =>
    simp only [State.loDone]
    split
    · exact (hbusy.modRadio _).complete d _
    · exact hbusy.modRadio _
  | place i f => exact hbusy.modSrc _ _
  | probe f => exact hbusy
  | send f => exact hbusy
  | retune d => exact hbusy.complete d _

theorem loBegin (h : CalStands a s) (n : Fin 5) (req : LoReq) : CalStands a (s.loBegin n req).1 := by
  have hfreq (w : Word) : CalStands a (s.wr (Reg.loFreq n.val) w) := h.wr _ _ (calBlock_lo n).2.2
  unfold State.loBegin
  extract_lets st freq retune move
  have hretune : ∀ {u}, CalStands a u → ∀ f force noCal, CalStands a (retune u f force noCal).1 := by
    intro u hu f force noCal
    simp only [retune]
    split
    · exact hu
    · split <;> exact hu
  have hmove : ∀ {u}, CalStands a u → ∀ t, CalStands a (move u t).1 := by
    intro u hu t
    have hput : CalStands a (u.put (Fld.loCtlTarget n.val) t) := hu.put _ _ (calBlock_lo n).2.1
    simp only [move]
    split
    · exact hput
    · split
      · exact hput
      · split <;> exact hput
  cases req with
  | target t => exact hmove h t
  | move d t => exact hmove h t
  | tune force => exact hretune h _ _ _
  | retune d => exact hretune (hfreq _) _ _ _
  | place i f => exact hretune (hfreq _) _ _ _
  | probe f => exact hretune h _ _ _
  | send f =>
    simp only
    split
    · exact hmove (hfreq _) _
    · exact hretune (hfreq _) _ _ _

theorem loStart (h : CalStands a s) (n : Fin 5) (req : LoReq) (r : LoRun) : CalStands a (s.loStart n req r) := by
  obtain ⟨c, hc, -, hpaths, -⟩ := loStart_paths s n req r
  exact ((h.logs hc).radio (loBusy_radioOnly c n r) (by simpa using (calBlock_lo n).1)).paths hpaths

theorem loServeN (n : Fin 5) : ∀ (k : Nat) {s : State}, CalStands a s → CalStands a (Machine.loServeN k s n)
  | 0, _, h => h
  | k + 1, s, h => by
    rw [Machine.loServeN]
    dsimp only
    split
    · exact h
    · next req rest _ =>
      refine .ite _ h ?_
      have hbegin := (h.modLo n (fun l => { l with queue := rest })).loBegin n req
      split
      · exact loServeN n k (hbegin.loDone n req false)
      · next r _ => exact hbegin.loStart n req r

theorem loRequest (h : CalStands a s) (n : Fin 5) (req : LoReq) : CalStands a (s.loRequest n req) := loServeN n _ (h.modLo n _)

theorem pathBoundary (h : CalStands a s) : CalStands a s.pathBoundary := by
  unfold State.pathBoundary
  extract_lets held u
  have hu : CalStands a u := h.forEach allPaths _ fun t p =>
    .ite _ (refl t) (.ite _ (((refl t).modPath p _).paths ((PathsOnly.refl _).gapEnd p _)) (((refl t).modPath p _).paths ((PathsOnly.refl _).gapStart p)))
  exact hu.forEach allLos _ fun t n =>
    .ite _ ((((refl t).modLo n _).loOff n stSleep).forEach _ _ fun v q => (refl v).loDone n q false) (.ite _ ((refl t).loRequest n _) (refl t))

theorem pathTile (h : CalStands a s) : CalStands a s.pathTile :=
  h.forEach allPaths _ fun t p => ((refl t).modPath p _).paths ((PathsOnly.refl _).setClean p _)

/-! ### Captures, banks, the tag air interface and the exchange -/

theorem capEnd (h : CalStands a s) (r : Fin 4) (status : Nat) : CalStands a (s.capEnd r status) := by
  unfold State.capEnd
  split
  · exact (h.modSamp _).complete _ _
  · exact h

theorem capSettle (h : CalStands a s) (r : Fin 4) : CalStands a (s.capSettle r) := by
  unfold State.capSettle
  split
  · exact h
  · split
    · exact h.cond _ _ (h.capEnd r stOK)
    · exact h

theorem capBoundary (h : CalStands a s) : CalStands a s.capBoundary := by
  refine h.forEach allPaths _ fun t r => ?_
  split
  · exact refl t
  · exact .ite _ (refl t) ((((refl t).modSamp _).finishOpt _ _).capSettle r)

theorem shrink (h : CalStands a s) : CalStands a s.shrink := by
  unfold State.shrink
  exact h.modStore _

theorem moveBoundary (h : CalStands a s) (m : BankMove) : CalStands a (s.moveBoundary m) := by
  unfold State.moveBoundary
  split
  · exact .ite _ h.shrink (.ite _ ((h.shrink.modStore _).put Fld.storeCtlMigrating _ (by decide)) (h.shrink.modStore _))
  · exact h.modStore _
  · exact h.modStore _

theorem bankBoundary (h : CalStands a s) : CalStands a s.bankBoundary :=
  ((h.modStore _).forEach _ _ fun t m => (refl t).moveBoundary m).put Fld.storeCtlMigrating _ (by decide)

theorem closeSets (h : CalStands a s) (p : OpenSet → Bool) (status : Nat) : CalStands a (s.closeSets p status) := by
  refine (h.modTag _).forEach _ _ fun t o => ?_
  split
  · exact (refl t).partDone _ _
  · exact refl t

theorem planBoundary (h : CalStands a s) : CalStands a s.planBoundary := by
  unfold State.planBoundary
  split
  · exact h
  · exact .ite _ h ((h.modTag _).partDone _ _)

theorem lbtBoundary (h : CalStands a s) : CalStands a s.lbtBoundary := by
  unfold State.lbtBoundary
  split
  · exact h
  · split
    · exact h
    · refine .ite _ ?_ h
      extract_lets u n
      have hcur : CalStands a u := h.modTag _
      split
      · exact hcur.cond _ _ (hcur.logs ((logsOnly.refl _).sendReq _ _))
      · exact hcur

theorem tagBoundary (h : CalStands a s) : CalStands a s.tagBoundary := by
  unfold State.tagBoundary
  extract_lets u off v w due x
  refine .ite _ h ?_
  have hv : CalStands a v := (h.modTag _).planBoundary.closeSets _ stOK
  have hw : CalStands a w := hv.cond _ _ (hv.modTag _)
  have hx : CalStands a x := (hw.modTag _).forEach due _ fun t o => .ite _ (((refl t).commit o.1).partDone o.1 _) (((refl t).commit o.1).modTag _)
  exact hx.lbtBoundary

theorem setRun (h : CalStands a s) (xid : Nat) (r : Option ExchRun) : CalStands a (s.setRun xid r) := by
  refine (h.modExch _).put _ _ ?_
  split <;> decide

theorem endExch (h : CalStands a s) (xid status : Nat) : CalStands a (s.endExch xid status) := by
  unfold State.endExch
  split
  · exact h
  · next r _ =>
    have hkept : ∀ f g, CalStands a (if xid == 0 then (s.setRun xid none).modExch f else (s.setRun xid none).modExch g) :=
      fun f g => .ite _ ((h.setRun xid none).modExch f) ((h.setRun xid none).modExch g)
    exact ((hkept _ _).finishOpt _ _).forEach _ _ fun t d => (refl t).complete d _

/-- What the tile that ended asks of a slot of the exchange. -/
theorem exchBoundary (h : CalStands a s) : CalStands a s.exchBoundary := by
  unfold State.exchBoundary
  extract_lets n u v
  have hu : CalStands a u := h.modExch _
  have hv : CalStands a v := by
    unfold v
    split
    · exact .ite _ (((hu.modExch _).commit _).complete _ _) hu
    · exact hu
  refine hv.forEach [0, 1] _ fun t xid => ?_
  split
  · exact refl t
  · next r _ =>
    refine .ite _ ?_ ((refl t).cond _ _ ((refl t).endExch xid stOK))
    extract_lets u v
    have hu : CalStands t u := (refl t).setRun xid _
    have hv : CalStands t v := by
      unfold v
      split
      · exact hu.commit _
      · exact hu
    split
    · exact hv.cond _ _ (hv.modExch _)
    · exact hv

end CalStands

end Sys2Proof.Machine
end

section
/-! Calibration at a tile boundary: a set that a host write has left in the registers comes into use (R395, R450), and O35. -/

namespace Sys2Proof.Machine

/-! ### The registers and the sets of a path -/

/-- The offsets of a path's coefficients and of its LAST_TEMP. -/
def calOffs (x : Fin 4) : List Nat := (calRegs x.val).map (·.1) ++ [Reg.calLastTemp x.val]

theorem calOffs_block (x : Fin 4) : ∀ off ∈ calOffs x, calBlock off = true := by revert x; decide

theorem regSet_congr {s t : State} {x : Fin 4} (h : ∀ off ∈ calOffs x, t.rd off = s.rd off) : t.regSet x = s.regSet x := by
  have hlast : t.rd (Reg.calLastTemp x.val) = s.rd (Reg.calLastTemp x.val) := h _ (by simp [calOffs])
  have hcoeffs : (calRegs x.val).map (fun r => t.rd r.1) = (calRegs x.val).map (fun r => s.rd r.1) :=
    List.map_congr_left fun r hr => h _ (List.mem_append_left _ (List.mem_map_of_mem hr))
  rw [State.regSet, hlast, hcoeffs, State.regSet]

theorem CalStands.regSet_eq {s t : State} (h : CalStands s t) (x : Fin 4) : t.regSet x = s.regSet x :=
  regSet_congr fun off ho => h.regs off (calOffs_block x off ho)

/-- A list of registers with the words that they take. -/
abbrev writes (s : State) (l : List ((Nat × Nat) × Word)) : State := s.forEach l (fun s e => s.wr e.1.1 e.2)

theorem writes_cal (s : State) (l : List ((Nat × Nat) × Word)) : (writes s l).cal = s.cal :=
  forEach_induct (P := fun t => t.cal = s.cal) (f := fun s e => s.wr e.1.1 e.2) (fun _ _ h => h) l rfl

theorem writes_other : ∀ (l : List ((Nat × Nat) × Word)) (s : State) (off : Nat), off ∉ l.map (·.1.1) → (writes s l).rd off = s.rd off
  | [], _, _, _ => rfl
  | e :: l, s, off, h => by
    rw [List.map_cons, List.mem_cons, not_or] at h
    exact (writes_other l (s.wr e.1.1 e.2) off h.2).trans (State.rd_wr_ne _ _ _ _ h.1)

/-- A register takes the word that it reads. -/
theorem wr_rd_self (s : State) (off p : Nat) : (s.wr off (s.rd off)).rd p = s.rd p := by
  by_cases h : p = off
  · rw [h, State.rd_wr_self]
  · exact State.rd_wr_ne _ _ _ _ h

theorem writes_same : ∀ (l : List ((Nat × Nat) × Word)) (s : State), (∀ e ∈ l, e.2 = s.rd e.1.1) → ∀ off, (writes s l).rd off = s.rd off
  | [], _, _, _ => rfl
  | e :: l, s, h, off => by
    have hfirst : e.2 = s.rd e.1.1 := h e (List.mem_cons_self ..)
    have hwr : ∀ p, (s.wr e.1.1 e.2).rd p = s.rd p := fun p => hfirst ▸ wr_rd_self s e.1.1 p
    have hrest := writes_same l (s.wr e.1.1 e.2) (fun f hf => (h f (List.mem_cons_of_mem _ hf)).trans (hwr _).symm) off
    exact hrest.trans (hwr off)

/-- A set's use of a path, stored for its band. -/
def CalPath.takes (q : CalPath) (c : CalSet) : CalPath := { q with use := c, sets := match q.band with
  | some b => (b, c) :: q.sets.filter (·.1 != b)
  | none => q.sets }

theorem calApply_cal (s : State) (p : Fin 4) (c : CalSet) : (s.calApply p c).cal = { s.cal with paths := upd s.cal.paths p (·.takes c) } :=
  congrArg (fun k : Cal => { k with paths := upd k.paths p (·.takes c) }) (writes_cal s ((calRegs p.val).zip c.coeffs))

theorem calApply_rd_eq (s : State) (p : Fin 4) (c : CalSet) (off : Nat) : (s.calApply p c).rd off =
    ((writes s ((calRegs p.val).zip c.coeffs)).wr (Reg.calLastTemp p.val) c.temp).rd off := rfl
theorem modCalPath_rd (s : State) (p : Fin 4) (f : CalPath → CalPath) (off : Nat) : (s.modCalPath p f).rd off = s.rd off := rfl

theorem calApply_regSet (s : State) (p : Fin 4) (off : Nat) : (s.calApply p (s.regSet p)).rd off = s.rd off := by
  have hcoeffs : ∀ e ∈ (calRegs p.val).zip (s.regSet p).coeffs, e.2 = s.rd e.1.1 := by
    intro e he
    have hzip : (calRegs p.val).zip (s.regSet p).coeffs = (calRegs p.val).map (fun r => (r, s.rd r.1)) := by
      simpa [State.regSet] using List.zip_map' (f := id) (g := fun r => s.rd r.1) (l := calRegs p.val)
    rw [hzip] at he
    obtain ⟨r, -, rfl⟩ := List.mem_map.mp he
    rfl
  have hsame := writes_same _ s hcoeffs
  have htemp : (s.regSet p).temp = (writes s ((calRegs p.val).zip (s.regSet p).coeffs)).rd (Reg.calLastTemp p.val) := (hsame _).symm
  have hlast := wr_rd_self (writes s ((calRegs p.val).zip (s.regSet p).coeffs)) (Reg.calLastTemp p.val) off
  rw [← htemp] at hlast
  exact (calApply_rd_eq ..).trans (hlast.trans (hsame off))

/-! ### The sets that come into use -/

/-- A path has taken a set that a write asked for, and no round runs. -/
structure SetUsed (x : Fin 4) (c : CalSet) (s : State) : Prop where
  use : s.cal.paths[x].use = c
  done : s.cal.paths[x].writeAt = none
  idle : s.cal.round = none

namespace SetUsed

variable {x : Fin 4} {c : CalSet} {s : State}

theorem of_cal {t : State} (h : SetUsed x c s) (k : t.cal = s.cal) : SetUsed x c t := ⟨k ▸ h.use, k ▸ h.done, k ▸ h.idle⟩
theorem cond (h : SetUsed x c s) (b : Bool) (f : State → State) (hf : SetUsed x c (f s)) : SetUsed x c (s.cond b f) := by
  unfold State.cond
  split
  · exact hf
  · exact h
theorem forEach {α : Type} (h : SetUsed x c s) (l : List α) (f : State → α → State) (hf : ∀ t, ∀ e ∈ l, SetUsed x c t → SetUsed x c (f t e)) :
    SetUsed x c (s.forEach l f) := by
  induction l generalizing s with
  | nil => exact h
  | cons e l ih => exact ih (hf s e (List.mem_cons_self ..) h) fun t y hy => hf t y (List.mem_cons_of_mem _ hy)

theorem calRecord (h : SetUsed x c s) (w : Word) : SetUsed x c (s.calRecord w) :=
  h.of_cal ((logsOnly.refl s).cond (s.is Fld.calCtlRec) (fun u => u.record 0x09 _) fun _ ht => ht.record _ _).cal_eq

theorem band (h : SetUsed x c s) (p : Fin 4) (b : Bool × Nat) : SetUsed x c (s.modCalPath p (fun q => { q with band := some b })) := by
  by_cases hp : x = p
  · subst hp
    exact ⟨(congrArg CalPath.use (upd_self ..)).trans h.use, (congrArg CalPath.writeAt (upd_self ..)).trans h.done, h.idle⟩
  · exact ⟨(congrArg CalPath.use (upd_ne _ _ _ _ hp)).trans h.use, (congrArg CalPath.writeAt (upd_ne _ _ _ _ hp)).trans h.done, h.idle⟩

theorem calApply_ne (h : SetUsed x c s) {p : Fin 4} (hp : p ≠ x) (e : CalSet) : SetUsed x c (s.calApply p e) := by
  have hpath : (s.calApply p e).cal.paths[x] = s.cal.paths[x] := by
    rw [calApply_cal]
    exact upd_ne _ _ _ _ hp.symm
  exact ⟨hpath ▸ h.use, hpath ▸ h.done, by rw [calApply_cal]; exact h.idle⟩

theorem calRaise (h : SetUsed x c s) (cause : Nat) : SetUsed x c (s.calRaise cause) := by
  unfold State.calRaise State.calTriggered
  split
  · split
    · exact h
    · exact ⟨h.use, h.done, h.idle⟩
  · exact h.of_cal ((logsOnly.refl s).sendReq _ _).cal_eq

end SetUsed

/-- The sets that writes have left in the registers of paths come into use. -/
def State.applyWritten (s : State) (p : Fin 4) : State := (s.calApply p (s.regSet p)).modCalPath p (fun c => { c with writeAt := none })

/-- Until a path's written set is taken its registers hold it; then the path uses it. -/
structure SetWaits (x : Fin 4) (c : CalSet) (s : State) : Prop where
  regs : s.regSet x = c
  idle : s.cal.round = none
  taken : s.cal.paths[x].writeAt = none → s.cal.paths[x].use = c

theorem applyWritten_path (s : State) (p : Fin 4) : (s.applyWritten p).cal.paths[p].use = s.regSet p ∧ (s.applyWritten p).cal.paths[p].writeAt = none := by
  have hpath : (s.applyWritten p).cal.paths[p] = { (s.calApply p (s.regSet p)).cal.paths[p] with writeAt := none } := upd_self ..
  have huse : (s.calApply p (s.regSet p)).cal.paths[p].use = s.regSet p := by
    rw [calApply_cal]
    exact congrArg CalPath.use (upd_self ..)
  rw [hpath]
  exact ⟨huse, rfl⟩

theorem applyWritten_ne (s : State) {x p : Fin 4} (h : p ≠ x) : (s.applyWritten p).cal.paths[x] = s.cal.paths[x] := by
  have hfst : (s.applyWritten p).cal.paths[x] = (s.calApply p (s.regSet p)).cal.paths[x] := upd_ne _ _ _ _ h.symm
  rw [hfst, calApply_cal]
  exact upd_ne _ _ _ _ h.symm

theorem applyWritten_regSet (s : State) (x p : Fin 4) : (s.applyWritten p).regSet x = s.regSet x :=
  regSet_congr fun off _ => (modCalPath_rd ..).trans (calApply_regSet s p off)

theorem SetWaits.applyWritten {x : Fin 4} {c : CalSet} {s : State} (h : SetWaits x c s) (p : Fin 4) : SetWaits x c (s.applyWritten p) := by
  have hidle : (s.applyWritten p).cal.round = none := by
    have hround : (s.applyWritten p).cal.round = (s.calApply p (s.regSet p)).cal.round := rfl
    rw [hround, calApply_cal]
    exact h.idle
  refine ⟨(applyWritten_regSet s x p).trans h.regs, hidle, fun hdone => ?_⟩
  by_cases hp : p = x
  · subst hp
    exact (applyWritten_path s p).1.trans h.regs
  · rw [applyWritten_ne s hp] at hdone ⊢
    exact h.taken hdone

theorem applyWritten_done {x : Fin 4} : ∀ (l : List (Fin 4)) (s : State), x ∈ l ∨ s.cal.paths[x].writeAt = none →
    (s.forEach l State.applyWritten).cal.paths[x].writeAt = none
  | [], _, h => h.resolve_left (by simp)
  | p :: l, s, h => by
    refine applyWritten_done l (s.applyWritten p) ?_
    by_cases hp : p = x
    · subst hp
      exact .inr (applyWritten_path s p).2
    · rw [applyWritten_ne s hp]
      exact h.imp_left fun hmem => (List.mem_cons.mp hmem).resolve_left (Ne.symm hp)

theorem applyWritten_uses {x : Fin 4} {l : List (Fin 4)} {s : State} (hx : x ∈ l) (hidle : s.cal.round = none) (hwait : s.cal.paths[x].writeAt ≠ none) :
    SetUsed x (s.regSet x) (s.forEach l State.applyWritten) := by
  have hdone := applyWritten_done l s (.inl hx)
  have hwaits : SetWaits x (s.regSet x) (s.forEach l State.applyWritten) :=
    forEach_induct (P := SetWaits x (s.regSet x)) (fun _ p h => h.applyWritten p) l ⟨rfl, hidle, fun h => absurd h hwait⟩
  exact ⟨hwaits.taken hdone, hdone, hwaits.idle⟩

/-! ### The tile boundary -/

theorem mem_allPaths (x : Fin 4) : x ∈ allPaths := by revert x; decide

theorem calBoundary_uses (s : State) (x : Fin 4) (stats : List CalStat) (sums : List CalSum) (hidle : s.cal.round = none) (a : Nat)
    (hwrite : s.cal.paths[x].writeAt = some a) (hat : s.tileAt a = true) : SetUsed x (s.regSet x) (s.calBoundary stats sums) := by
  unfold State.calBoundary
  extract_lets t due u v first stored fresh w y z g moved m
  have hx : x ∈ due := List.mem_filter.mpr ⟨mem_allPaths x, by rw [hwrite]; exact hat⟩
  have hu : SetUsed x (s.regSet x) u := applyWritten_uses hx hidle (by rw [hwrite]; exact Option.some_ne_none a)
  have hv : SetUsed x (s.regSet x) v := hu.cond _ _ (hu.calRecord _)
  have hw : SetUsed x (s.regSet x) w := hv.forEach first _ fun t p _ ht => ht.band p _
  have hstored : ∀ e ∈ stored, e.1 ≠ x := by
    intro e he
    obtain ⟨p, -, hp⟩ := List.mem_filterMap.mp he
    dsimp only at hp
    split at hp
    · exact absurd hp (by simp)
    · next hkeep =>
      obtain ⟨q, -, rfl⟩ := Option.map_eq_some_iff.mp hp
      intro hpx
      exact hkeep (by simp [show p = x from hpx, hx])
  have hy : SetUsed x (s.regSet x) y := hw.forEach stored _ fun t e he ht => ht.calApply_ne (hstored e he) _
  have hz : SetUsed x (s.regSet x) z := hy.cond _ _ (hy.calRecord _)
  have hg : SetUsed x (s.regSet x) g := hz.cond _ _ (hz.calRaise 3)
  have hm : SetUsed x (s.regSet x) m := hg.forEach allPaths _ fun t p _ ht => ht.of_cal rfl
  rw [hm.idle]
  exact hm

theorem tileAt_of_eq {s : State} {a : Nat} (h : s.tile.toNat = a % 2 ^ 32) : s.tileAt a = true := by
  rw [State.tileAt, h, beq_self_eq_true, Bool.true_or]

/-- The tile count moves on. -/
theorem setTile_next (s : State) (f : Pip → Pip) : ((s.setTile (s.tile + 1)).modPip f).cal = s.cal ∧ ((s.setTile (s.tile + 1)).modPip f).tile = s.tile + 1 ∧
    ∀ x, ((s.setTile (s.tile + 1)).modPip f).regSet x = s.regSet x := ⟨rfl, rfl, fun _ => rfl⟩

theorem tileBoundary_uses (s : State) (x : Fin 4) (peaks : List Int) (stats : List CalStat) (sums : List CalSum) (hidle : s.cal.round = none)
    (hwrite : s.cal.paths[x].writeAt = some ((s.tile.toNat + 1) % 2 ^ 32)) : SetUsed x (s.regSet x) (s.tileBoundary peaks stats sums) := by
  unfold State.tileBoundary
  extract_lets u v w y z g m k c e b
  have hv : CalStands s v := by
    have hu : CalStands s u := (CalStands.refl s).cond _ _ (CalStands.refl s).tileEnds
    exact hu.cond _ _ hu.bcstTile
  have hm : CalStands w m := by
    have hy : CalStands w y := (CalStands.refl w).cond _ _ (CalStands.refl w).pathBoundary
    have hz : CalStands w z := hy.cond _ _ (hy.sampApply.agcTile peaks)
    exact hz.pathTile.cond _ _ hz.pathTile.sampTile
  obtain ⟨hwcal, hwtile, hwregs⟩ := setTile_next v (fun p => { p with cycle := 0 })
  have hcal : m.cal = s.cal := hm.cal.trans (hwcal.trans hv.cal)
  have htile : m.tile = s.tile + 1 := hm.tile.trans (hwtile.trans (by rw [hv.tile]))
  have hregs : m.regSet x = s.regSet x := (hm.regSet_eq x).trans ((hwregs x).trans (hv.regSet_eq x))
  have hat : m.tileAt ((s.tile.toNat + 1) % 2 ^ 32) = true := by
    refine tileAt_of_eq ?_
    rw [htile, BitVec.toNat_add, Nat.mod_mod]
    rfl
  have hround : m.cal.round = none := by rw [hcal, hidle]
  have hwait : m.cal.paths[x].writeAt = some ((s.tile.toNat + 1) % 2 ^ 32) := by rw [hcal, hwrite]
  have hk : SetUsed x (m.regSet x) k := calBoundary_uses m x stats sums hround _ hwait hat
  rw [hregs] at hk
  have hrest : CalStands k b := by
    have hc : CalStands k c := (CalStands.refl k).cond _ _ (CalStands.refl k).capBoundary
    exact hc.bankBoundary.tagBoundary
  exact hk.of_cal (hrest.cond _ _ hrest.exchBoundary).cal

theorem tileBoundary_usesWritten (s : State) (x : Fin 4) (peaks : List Int) (stats : List CalStat) (sums : List CalSum) (halive : s.alive = true)
    (hsync : s.clk.synced = true) (href : s.clk.refLost = false) (hd3 : s.pst ≠ 3) (hidle : s.cal.round = none)
    (hwrite : s.cal.paths[x].writeAt = some ((s.tile.toNat + 1) % 2 ^ 32)) : answers (.tileBoundary peaks stats sums) s fun t =>
      t.cal.paths[x].use = s.regSet x ∧ t.cal.paths[x].writeAt = none := by
  have hexec : exec (.tileBoundary peaks stats sums) s = .next (s.tileBoundary peaks stats sums) :=
    (exec_live halive).trans (congrArg Host.Outcome.next (if_pos (by simp [hsync, href, hd3])))
  have hused := tileBoundary_uses s x peaks stats sums hidle hwrite
  exact answers_of hexec ⟨hused.use, hused.done⟩

/-- Settles O35, a command at a time: CAL_RUN, the three starts of a round, the owners' sums, a member's values, a coefficient, the boundary, a timeout. -/
theorem calibrationRoundsAndWrites : Obligations.CalibrationRoundsAndWrites := by
  unfold Obligations.CalibrationRoundsAndWrites
  exact ⟨calRun_waits, calRoundStart_member, calRoundStart_leads, calRoundStart_early, calSumsReceive_waits, calSumsReceive_solves,
    calValuesReceive_takes, calCoeffWrite_acts, tileBoundary_usesWritten, calRunTimeout_ends⟩

end Sys2Proof.Machine
end

section
/-! UPDATE_REGION as it arrives: it runs, waits, or is refused (R241 to R244, R254). -/

namespace Sys2Proof.Machine

/-! ### Which operations leave the regions -/

theorem post_regions (s : State) (w : HostWrite) : (s.post w).hif.regions = s.hif.regions := by
  unfold State.post
  split
  · split <;> rfl
  · rfl
theorem sendVector_regions (s : State) (v : Nat) : (s.sendVector v).hif.regions = s.hif.regions := by
  unfold State.sendVector
  extract_lets i e
  split <;> rfl
theorem signalRing_regions (s : State) (n : Fin 24) : (s.signalRing n).hif.regions = s.hif.regions := by
  unfold State.signalRing
  split
  · split
    · exact sendVector_regions ..
    · rfl
  · rfl
theorem ringEvent_regions (s : State) (n : Fin 24) : (s.ringEvent n).hif.regions = s.hif.regions := by
  unfold State.ringEvent
  extract_lets u
  split
  · exact signalRing_regions ..
  · rfl
theorem putCpl_regions (s : State) (ring : Fin 8) (c : CplWait) : (s.putCpl ring c).hif.regions = s.hif.regions :=
  (ringEvent_regions ..).trans ((post_regions ..).trans (congrArg Hif.regions (takeEntry_hif ..)))
theorem writeCpl_regions (s : State) (ring : Fin 8) (c : CplWait) : (s.writeCpl ring c).hif.regions = s.hif.regions := by
  unfold State.writeCpl
  extract_lets n
  split
  · rfl
  · split
    · rfl
    · exact putCpl_regions ..
theorem sendMsg_hif (s : State) (m : Msg) : (s.sendMsg m).hif = s.hif := congrArg (·.hif) ((LinksOnly.refl s).sendMsg m).rest
theorem sendReq_hif (s : State) (m : Msg) (d : Option Desc) : (s.sendReq m d).hif = s.hif := by
  unfold State.sendReq
  extract_lets tag n u
  split
  · exact sendMsg_hif ..
  · rfl

/-- A completion touches no region but the one that ran its descriptor. -/
theorem complete_regions (s : State) (d : Desc) (r : Result) : (s.complete d r).hif.regions = (s.dropRegion d).hif.regions := by
  unfold State.complete
  extract_lets u
  split
  · split
    · rfl
    · split
      · rfl
      · split
        · rfl
        · exact writeCpl_regions ..
  · exact congrArg Hif.regions (sendMsg_hif ..)

theorem dropRegion_region (s : State) (d : Desc) (i : Fin 8) :
    (s.dropRegion d).region i = if (s.region i).running == some d then { s.region i with running := none, data := none } else s.region i := by
  simp [State.dropRegion, State.region, State.modHif]

theorem complete_region (s : State) (d : Desc) (r : Result) (i : Fin 8) :
    (s.complete d r).region i = if (s.region i).running == some d then { s.region i with running := none, data := none } else s.region i :=
  (congrArg (fun v : Vector RegionSt 8 => v[i]) (complete_regions s d r)).trans (dropRegion_region s d i)

theorem complete_region_ne {s : State} {d : Desc} {i : Fin 8} (h : (s.region i).running ≠ some d) (r : Result) : (s.complete d r).region i = s.region i := by
  rw [complete_region, if_neg (by simpa using h)]

theorem modRegion_self (s : State) (i : Fin 8) (f : RegionSt → RegionSt) : (s.modRegion i f).region i = f (s.region i) := upd_self ..

theorem EndsAlike.modRegion {d : Desc} {a s : State} (h : EndsAlike d a s) (i : Fin 8) (f : RegionSt → RegionSt) : EndsAlike d a (s.modRegion i f) :=
  h.trans ⟨⟨rfl, rfl, rfl, rfl, rfl, rfl, rfl, fun _ _ => rfl⟩, rfl⟩

theorem EndsAlike.emit {d : Desc} {a s : State} (h : EndsAlike d a s) (o : Out) : EndsAlike d a (s.emit o) :=
  h.trans ⟨⟨rfl, rfl, rfl, rfl, rfl, rfl, rfl, fun _ _ => rfl⟩, rfl⟩

/-- The mark of one descriptor leaves how another ends. -/
theorem EndsAlike.mark {e : Desc} {a s : State} (h : EndsAlike e a s) (d : Desc) : EndsAlike e a (s.atBlock d) := by
  unfold State.atBlock
  split
  · exact h.trans ⟨.modStarted e s d _ (fun _ => ⟨rfl, rfl, rfl⟩), rfl⟩
  · exact h.trans ⟨.modLnk e s _, rfl⟩

/-! ### The mark of a descriptor at its block leaves the regions and what they ask -/

section
variable (s : State) (d : Desc)

theorem atBlock_region (i : Fin 8) : (s.atBlock d).region i = s.region i := by
  unfold State.atBlock
  split <;> rfl
theorem atBlock_crateGone : (s.atBlock d).crateGone = s.crateGone := by obtain ⟨h, l, e⟩ := atBlock_is s d; rw [e]; rfl
theorem atBlock_regionGone (i : Fin 8) : (s.atBlock d).regionGone i = s.regionGone i := by rw [State.regionGone, atBlock_crateGone, State.regionGone]

/-- A SNAPSHOT or RESTORE other than `d` that has reached its block. -/
def StartedDesc.otherBlob (t : StartedDesc) : Bool := (t.d.opcode == 0x07 || t.d.opcode == 0x08) && t.sent && !t.d.same d

theorem atBlock_blobRuns : (s.atBlock d).blobRuns d = s.blobRuns d := by
  unfold State.atBlock
  split
  · have hsame : ∀ t : StartedDesc, (if t.d.same d then { t with sent := true } else t).otherBlob d = t.otherBlob d := by
      intro t
      cases h : t.d.same d <;> simp [StartedDesc.otherBlob, h]
    have hany : (s.hif.started.map (fun t => if t.d.same d then { t with sent := true } else t)).any (·.otherBlob d) = s.hif.started.any (·.otherBlob d) := by
      rw [List.any_map]
      exact congrArg s.hif.started.any (funext hsame)
    exact hany
  · rfl

/-- A descriptor of the head that is due has been started. -/
theorem started_of_takes {s : State} {op : Nat} {d : Desc} (hh : s.head = true) (ht : s.takes op d = true) : ∃ x, s.findStarted d = some x := by
  rw [State.takes, if_pos hh, Bool.and_eq_true] at ht
  cases h : s.findStarted d with
  | none => simp [h] at ht
  | some x => exact ⟨x, rfl⟩

theorem findStarted_modStarted {s : State} {d : Desc} {x : StartedDesc} (hx : s.findStarted d = some x) (f : StartedDesc → StartedDesc)
    (hf : ∀ y, (f y).d = y.d) : (s.modStarted d f).findStarted d = some (f x) := by
  have hfound : ∀ l : List StartedDesc, l.find? (fun t => t.d.same d) = some x →
      (l.map (fun t => if t.d.same d then f t else t)).find? (fun t => t.d.same d) = some (f x) := by
    intro l
    induction l with
    | nil => nofun
    | cons y l ih =>
      intro h
      rw [List.find?_cons] at h
      rw [List.map_cons, List.find?_cons]
      cases hy : y.d.same d with
      | true =>
        rw [hy] at h
        cases h
        simp [hf, hy]
      | false =>
        rw [hy] at h
        simp [hy, ih h]
  exact hfound s.hif.started hx

end

/-! ### The arrival -/

section
variable {s : State} {d : Desc} {i : Fin 8}

/-- The rows of the eight regions. -/
def regionRows (d : Desc) : List (Instr × Fin 8) :=
  [(.updateBeamWeights d, 0), (.updateOwnershipMap d, 1), (.updateAfList d, 2), (.updateRecallList d, 3), (.updateSpdoTemplate d, 4),
   (.updateTagPlan d, 5), (.updateRoster d, 6), (.updatePipTable d, 7)]

section
variable (hr : s.runs = true) (hh : s.head = true) (d : Desc)
include hr hh

theorem execUpdateOwnershipMap_head : execUpdateOwnershipMap d s = .next (s.updateRegion 1 d) := by
  rw [execUpdateOwnershipMap, running_of_runs hr, if_pos hh]
theorem execUpdateRecallList_head : execUpdateRecallList d s = .next (s.updateRegion 3 d) := by
  rw [execUpdateRecallList, running_of_runs hr]
  exact congrArg Host.Outcome.next (if_pos hh)
theorem execUpdateTagPlan_head : execUpdateTagPlan d s = .next (s.updateRegion 5 d) := by
  rw [execUpdateTagPlan, running_of_runs hr, if_pos hh]
theorem execUpdateRoster_head : execUpdateRoster d s = .next (s.updateRegion 6 d) := by
  rw [execUpdateRoster, running_of_runs hr]
  exact congrArg Host.Outcome.next (if_pos hh)

end

theorem exec_updateRegion {c : Instr} (hc : (c, i) ∈ regionRows d) (hr : s.runs = true) (hh : s.head = true ∨ i ∈ [(0 : Fin 8), 2, 4, 7]) :
    exec c s = .next (s.updateRegion i d) := by
  simp only [regionRows, List.mem_cons, Prod.mk.injEq, List.not_mem_nil, or_false] at hc
  have hhead : i ∉ [(0 : Fin 8), 2, 4, 7] → s.head = true := fun hi => hh.resolve_right hi
  rcases hc with ⟨rfl, rfl⟩ | ⟨rfl, rfl⟩ | ⟨rfl, rfl⟩ | ⟨rfl, rfl⟩ | ⟨rfl, rfl⟩ | ⟨rfl, rfl⟩ | ⟨rfl, rfl⟩ | ⟨rfl, rfl⟩
  · exact running_of_runs hr (·.updateRegion 0 d)
  · exact (execUpdateOwnershipMap_head hr (hhead (by decide)) d)
  · exact running_of_runs hr (·.updateRegion 2 d)
  · exact (execUpdateRecallList_head hr (hhead (by decide)) d)
  · exact running_of_runs hr (·.updateRegion 4 d)
  · exact (execUpdateTagPlan_head hr (hhead (by decide)) d)
  · exact (execUpdateRoster_head hr (hhead (by decide)) d)
  · exact running_of_runs hr (·.updateRegion 7 d)

/-- What becomes of an update that acts at this member. -/
def State.regionRow (s : State) (i : Fin 8) (d : Desc) : State :=
  match regionBlk i with
  | some b => s.needBlk b d (·.regionArrive d)
  | none => if s.regionGone i then s.finish d stRetired else s.regionArrive d

theorem updateRegion_here (hi : d.regionNo = i) (ht : s.takes 0x06 d = true) (hblob : s.blobRuns d = false) (hm : regionMember i.val = true → d.member = s.me) :
    s.updateRegion i d = (s.atBlock d).regionRow i d := by
  have haway : (regionMember i.val && d.member != s.me) = false := by
    cases h : regionMember i.val with
    | false => rfl
    | true => simp [hm h]
  unfold State.updateRegion State.taking
  simp only [hi, bne_self_eq_false, Bool.false_eq_true, if_false, ht, if_true, atBlock_blobRuns, hblob, Bool.and_false, atBlock_me, Bool.and_assoc, haway]
  rfl

theorem regionRow_arrives (hfree : ∀ b, regionBlk i = some b → s.free? b = true) (hgone : s.regionGone i = false) : s.regionRow i d = s.regionArrive d := by
  unfold State.regionRow
  split
  · next b hb => exact needBlk_of_free (hfree b hb) _ _
  · exact if_neg (by simp [hgone])

theorem regionRow_held {b : Blk} (hb : regionBlk i = some b) (hheld : s.free? b = false) : s.regionRow i d = s.finish d stPeerReset := by
  rw [State.regionRow, hb]
  exact needBlk_of_held hheld _ _

theorem regionRow_retired (hb : regionBlk i = none) (hgone : s.regionGone i = true) : s.regionRow i d = s.finish d stRetired := by
  rw [State.regionRow, hb]
  exact if_pos hgone

end

end Sys2Proof.Machine
end

section
/-! What an update of a region does as it arrives, as it starts and as its data comes in (R241 to R245, R263, R296, R503, R692). -/

namespace Sys2Proof.Machine

/-! ### The exchange's own data, through what reporting changes -/

theorem logsOnly.exch_eq {s t : State} (h : logsOnly s t) : t.exch = s.exch := congrArg (·.exch) h.1

theorem logsOnly.modExch {s t : State} (h : logsOnly s t) (f : Exch → Exch) : logsOnly (s.modExch f) (t.modExch f) :=
  ⟨congrArg (·.modExch f) h.1, h.2⟩

/-- What only reporting changes after a change of the exchange's own data has that as it was set. -/
theorem logsOnly.of_modExch {s t : State} {f : Exch → Exch} (h : logsOnly (s.modExch f) t) : logsOnly (s.modExch (fun _ => t.exch)) t := by
  rw [h.exch_eq]
  exact h

theorem EndsAlike.modExch {d : Desc} {a s : State} (h : EndsAlike d a s) (f : Exch → Exch) : EndsAlike d a (s.modExch f) :=
  h.trans ⟨⟨rfl, rfl, rfl, rfl, rfl, rfl, rfl, fun _ _ => rfl⟩, rfl⟩

section
variable {s : State} {d : Desc} {i : Fin 8}

/-! ### The arrival of an update -/

theorem regionRun_logs (s : State) (d : Desc) : logsOnly s (s.regionRun d) :=
  (((logsOnly.refl s).modHif _).commit d).cond _ _ fun _ ht => ht.sendReq _ _

theorem commit_region (s : State) (d : Desc) (i : Fin 8) : (s.commit d).region i = s.region i := by
  unfold State.commit
  split <;> rfl

theorem regionRun_region (hi : d.regionNo = i) :
    (s.regionRun d).region i = { running := some d, waiting := (s.region i).waiting, data := none } := by
  have hsend : ∀ (t : State) (b : Bool) (m : Msg), (t.cond b (·.sendReq m none)).region i = t.region i := by
    intro t b m
    unfold State.cond
    split
    · exact congrArg (fun h : Hif => h.regions[i]) (sendReq_hif ..)
    · rfl
  subst hi
  exact (hsend _ _ _).trans ((commit_region ..).trans (modRegion_self ..))

theorem regionRun_committed {x : StartedDesc} (hh : s.head = true) (hx : s.findStarted d = some x) :
    ∃ y, (s.regionRun d).findStarted d = some y ∧ y.committed = true := by
  have hlast : s.regionRun d = (s.modRegion d.regionNo (fun r => { r with running := some d, data := none })).modStarted d (fun t => { t with committed := true }) := by
    have hcommit := commit_of_head (s := s.modRegion d.regionNo (fun r => { r with running := some d, data := none })) hh d
    rw [State.regionRun, hcommit]
    refine if_neg ?_
    change ¬ (!s.head) = true
    simp [hh]
  rw [hlast]
  exact ⟨_, findStarted_modStarted (s := s.modRegion d.regionNo _) hx _ fun _ => rfl, rfl⟩

theorem regionArrive_runs (hrun : (s.region d.regionNo).running = none) : s.regionArrive d = s.regionRun d := if_pos (by rw [hrun]; rfl)

theorem regionArrive_waits (hrun : (s.region d.regionNo).running.isSome = true) (hw : (s.region d.regionNo).waiting = none) :
    s.regionArrive d = s.modRegion d.regionNo (fun r => { r with waiting := some d }) := by
  have hnot : (s.region d.regionNo).running.isNone = false := by rw [Option.isNone_eq_false_iff]; exact hrun
  simp only [State.regionArrive, hnot, hw, Bool.false_eq_true, if_false]

theorem regionArrive_supersedes {old : Desc} (hrun : (s.region d.regionNo).running.isSome = true) (hw : (s.region d.regionNo).waiting = some old) :
    s.regionArrive d = (s.modRegion d.regionNo (fun r => { r with waiting := some d })).finish old stSuperseded := by
  have hnot : (s.region d.regionNo).running.isNone = false := by rw [Option.isNone_eq_false_iff]; exact hrun
  simp only [State.regionArrive, hnot, hw, Bool.false_eq_true, if_false]

end

theorem updateRegion_arrives (s : State) (d : Desc) (c : Instr) (i : Fin 8)
    (hc : (c, i) ∈ [(Instr.updateBeamWeights d, (0 : Fin 8)), (.updateOwnershipMap d, 1), (.updateAfList d, 2), (.updateRecallList d, 3),
      (.updateSpdoTemplate d, 4), (.updateTagPlan d, 5), (.updateRoster d, 6), (.updatePipTable d, 7)])
    (hr : s.runs = true) (hh : s.head = true ∨ i ∈ [(0 : Fin 8), 2, 4, 7]) (hi : d.regionNo = i) (hdue : dueHere s 0x06 d) (hblob : s.blobRuns d = false)
    (hm : regionMember i.val = true → d.member = s.me) (hfree : ∀ b, regionBlk i = some b → s.free? b = true) (hgone : s.regionGone i = false) :
    ((s.region i).running = none → answers c s fun t => (t.region i).running = some d ∧ (t.region i).waiting = (s.region i).waiting ∧ (t.region i).data = none ∧
      (s.head = true → ∃ x, t.findStarted d = some x ∧ x.committed = true) ∧ logsOnly s t) ∧
    ((s.region i).running.isSome = true → (s.region i).waiting = none → answers c s fun t =>
      (t.region i).running = (s.region i).running ∧ (t.region i).waiting = some d ∧ logsOnly s t) ∧
    (∀ old, (s.region i).running.isSome = true → (s.region i).waiting = some old → old ≠ d → (s.region i).running ≠ some old → tellable s old → answers c s fun t =>
      (t.region i).waiting = some d ∧ ended s t old { status := stSuperseded } ∧ logsOnly s t) := by
  have hexec : exec c s = .next ((s.atBlock d).regionArrive d) := by
    rw [exec_updateRegion hc hr hh, updateRegion_here hi hdue.1 hblob hm, regionRow_arrives (fun b hb => (atBlock_free? s d b).trans (hfree b hb))
      ((atBlock_regionGone s d i).trans hgone)]
  have hlogs := (logsOnly.refl s).atBlock d
  subst hi
  have hregion := atBlock_region s d d.regionNo
  have hrunning := congrArg RegionSt.running hregion
  have hwaiting := congrArg RegionSt.waiting hregion
  refine ⟨fun hrun => ?_, fun hrun hw => ?_, fun old hrun hw _ hne htell => ?_⟩
  · rw [regionArrive_runs (hrunning.trans hrun)] at hexec
    refine answers_of hexec ⟨?_, ?_, ?_, fun hhead => ?_, hlogs.trans (regionRun_logs _ d)⟩
    · rw [regionRun_region rfl]
    · rw [regionRun_region rfl, hregion]
    · rw [regionRun_region rfl]
    · obtain ⟨x, hx⟩ := started_of_takes hhead hdue.1
      have hmark : (s.atBlock d).findStarted d = some { x with sent := true } := by
        rw [State.atBlock, if_pos hhead]
        exact findStarted_modStarted hx _ fun _ => rfl
      exact regionRun_committed ((atBlock_head s d).trans hhead) hmark
  · rw [regionArrive_waits (by rwa [hrunning]) (hwaiting.trans hw)] at hexec
    refine answers_of hexec ⟨?_, ?_, hlogs.modHif _⟩
    · rw [modRegion_self]
      exact hrunning
    · rw [modRegion_self]
  · rw [regionArrive_supersedes (by rwa [hrunning]) (hwaiting.trans hw)] at hexec
    refine answers_of hexec ⟨?_, (((EndsAlike.refl old s).mark d).modRegion _ _).ended htell _, (hlogs.modHif _).finish old _⟩
    have hother : (((s.atBlock d).modRegion d.regionNo (fun r => { r with waiting := some d })).region d.regionNo).running ≠ some old := by
      rw [modRegion_self]
      exact hrunning ▸ hne
    rw [State.finish, complete_region_ne hother, modRegion_self]

theorem updateRegion_held (s : State) (d : Desc) (c : Instr) (i : Fin 8) (b : Blk)
    (hc : (c, i, b) ∈ [(Instr.updateBeamWeights d, (0 : Fin 8), Blk.exch), (.updateAfList d, 2, .bcst), (.updateSpdoTemplate d, 4, .aud), (.updatePipTable d, 7, .pip)])
    (hr : s.runs = true) (hi : d.regionNo = i) (hdue : dueHere s 0x06 d) (hblob : s.blobRuns d = false) (hm : d.member = s.me) (hheld : s.free? b = false) :
    answers c s fun t => ended s t d { status := stPeerReset } ∧ logsOnly s t := by
  have hrow : (c, i) ∈ regionRows d ∧ i ∈ [(0 : Fin 8), 2, 4, 7] ∧ regionBlk i = some b := by
    simp only [List.mem_cons, Prod.mk.injEq, List.not_mem_nil, or_false] at hc
    rcases hc with ⟨rfl, rfl, rfl⟩ | ⟨rfl, rfl, rfl⟩ | ⟨rfl, rfl, rfl⟩ | ⟨rfl, rfl, rfl⟩
    all_goals exact ⟨by simp [regionRows], by decide, rfl⟩
  obtain ⟨hmem, hown, hblk⟩ := hrow
  have hexec := exec_updateRegion hmem hr (.inr hown)
  rw [updateRegion_here hi hdue.1 hblob (fun _ => hm), regionRow_held hblk ((atBlock_free? s d b).trans hheld)] at hexec
  exact answers_of hexec (atBlock_complete hdue.2 _)

theorem updateRegion_retired (s : State) (d : Desc) (c : Instr) (i : Fin 8) (hc : (c, i) ∈ [(Instr.updateRecallList d, (3 : Fin 8)), (.updateRoster d, 6)])
    (hr : s.runs = true) (hh : s.head = true) (hi : d.regionNo = i) (hdue : dueHere s 0x06 d) (hblob : s.blobRuns d = false) (hcrate : s.crateGone = true) :
    answers c s fun t => ended s t d { status := stRetired } ∧ logsOnly s t := by
  have hrow : (c, i) ∈ regionRows d ∧ (regionMember i.val = false ∧ regionBlk i = none ∧ (i == 3 || i == 6) = true) := by
    simp only [List.mem_cons, Prod.mk.injEq, List.not_mem_nil, or_false] at hc
    rcases hc with ⟨rfl, rfl⟩ | ⟨rfl, rfl⟩
    all_goals exact ⟨by simp [regionRows], by decide⟩
  obtain ⟨hmem, hfar, hblk, hkept⟩ := hrow
  have hgone : (s.atBlock d).regionGone i = true := by rw [State.regionGone, atBlock_crateGone, hkept, hcrate]; rfl
  have hexec := exec_updateRegion hmem hr (.inl hh)
  rw [updateRegion_here hi hdue.1 hblob (by simp [hfar]), regionRow_retired hblk hgone] at hexec
  exact answers_of hexec (atBlock_complete hdue.2 _)

/-! ### An update that waited starts -/

theorem updateRegionRun_starts (s : State) (i : Fin 8) (d : Desc) (hr : s.runs = true) (hrun : (s.region i).running = none) (hw : (s.region i).waiting = some d)
    (hi : d.regionNo = i) (hfree : ∀ b, regionBlk i = some b → s.free? b = true) (hgone : s.regionGone i = false) : answers (.updateRegionRun i) s fun t =>
      (t.region i).running = some d ∧ (t.region i).waiting = none ∧ (t.region i).data = none ∧ logsOnly s t := by
  have hexec : exec (.updateRegionRun i) s = .next ((s.modRegion i (fun r => { r with waiting := none })).regionRun d) := by
    change execUpdateRegionRun i s = _
    rw [execUpdateRegionRun, running_of_runs hr]
    simp only [hrun, hw]
    split
    · next b hb => exact congrArg Host.Outcome.next (needBlk_of_free (s := s.modRegion i _) (hfree b hb) _ _)
    · exact congrArg Host.Outcome.next (if_neg (by rw [show (s.modRegion i _).regionGone i = s.regionGone i from rfl, hgone]; decide))
  have hregion := regionRun_region (s := s.modRegion i (fun r => { r with waiting := none })) hi
  rw [modRegion_self] at hregion
  refine answers_of hexec ⟨?_, ?_, ?_, ((logsOnly.refl s).modHif _).trans (regionRun_logs _ d)⟩
  all_goals rw [hregion]

/-! ### A map that comes with its data (R692) -/

theorem updateOwnershipMap_taken (s : State) (d : Desc) (hr : s.runs = true) (hh : s.head = false) (hi : d.regionNo = 1) (hdue : dueHere s 0x06 d)
    (hjudge : mapJudge (d.words.drop 10) = none) : answers (.updateOwnershipMap d) s fun t =>
      t.exch = { s.exch with map := some (d.words.drop 10) } ∧ ended s t d { status := stOK } ∧ logsOnly (s.modExch (fun _ => t.exch)) t := by
  have happly : (s.atBlock d).laceRegion d = ((s.atBlock d).modExch (fun e => { e with map := some (d.words.drop 10) })).complete d { status := stOK } := by
    have hhead := (atBlock_head s d).trans hh
    have hspread : (s.atBlock d).spread d (d.words.drop 10) = s.atBlock d := if_neg (by simp [hhead])
    have hpart : ∀ f r, ((s.atBlock d).modExch f).partDone d r = ((s.atBlock d).modExch f).complete d r := fun f r => if_neg (by
      rw [show ((s.atBlock d).modExch f).head = false from hhead]; decide)
    rw [State.laceRegion, hi]
    simp only [regionBlk, State.regionApply, hi, Fin.val_one, hjudge, hspread, hpart]
  have hexec : exec (.updateOwnershipMap d) s = .next ((s.atBlock d).laceRegion d) := by
    change execUpdateOwnershipMap d s = _
    rw [execUpdateOwnershipMap, running_of_runs hr, if_neg (by simp [hh])]
    exact congrArg Host.Outcome.next ((if_pos (by rw [hi]; rfl)).trans (if_pos hdue.1))
  rw [happly] at hexec
  have hlogs := (((logsOnly.refl s).atBlock d).modExch (fun e => { e with map := some (d.words.drop 10) })).complete d { status := stOK }
  exact answers_of hexec ⟨hlogs.exch_eq, ((EndsAlike.refl d s).atBlock.modExch _).ended hdue.2 _, hlogs.of_modExch⟩

/-! ### The data of a running update (R244, R245, R263) -/

/-- An update runs at the head, which has Bus Master Enable and reads its data; no member works on it and it has no data yet. -/
structure DataDue (s : State) (d : Desc) (x : StartedDesc) : Prop where
  runs : s.runs = true
  head : s.head = true
  master : s.pcie.busMaster = true
  awake : s.pcie.d3hot = false
  op : d.opcode = 0x06
  running : (s.region d.regionNo).running = some d
  empty : (s.region d.regionNo).data = none
  started : s.findStarted d = some x
  waits : x.waits = []

/-- The head has read the data of an update. -/
def State.dataRead (s : State) (d : Desc) : State := s.emit (.hostRead (d.addr 2) (4 * ((d.w 4).toNat / 4)))

/-- The data of an update is in: its region holds it, and it acts; or its read failed. -/
def State.dataActs (s : State) (d : Desc) : Option (List Word) → State
  | none => (s.dataRead d).bad d dtDmaRead
  | some ws => ((s.dataRead d).modRegion d.regionNo (fun r => { r with data := some ws })).regionApply d ws

section
variable {s : State} {d : Desc} {x : StartedDesc} {ws : List Word}

theorem exec_regionDataRead (h : DataDue s d x) (data : Option (List Word)) (hfits : ∀ ws, data = some ws → ws.length = (d.w 4).toNat / 4) :
    exec (.regionDataReadComplete d data) s = .next (s.dataActs d data) := by
  obtain ⟨hruns, hhead, hmaster, hawake, hop, hrun, hempty, hx, hwaits⟩ := h
  change execRegionDataReadComplete d data s = _
  rw [execRegionDataReadComplete, running_of_runs hruns]
  refine congrArg Host.Outcome.next ?_
  extract_lets n fits read region u
  have hfit : fits = true := by
    unfold fits
    cases data with
    | none => rfl
    | some ws => exact beq_iff_eq.mpr (hfits ws rfl)
  have hguard : (d.opcode != 0x06 || !fits || (s.head && (s.pcie.d3hot || !s.pcie.busMaster))) = false := by simp [hfit, hop, hmaster, hawake]
  have hidle : (region.running != some d || region.data.isSome) = false := by simp [region, hrun, hempty]
  have hread : u = s.dataRead d := if_pos hhead
  rw [if_neg (by rw [hguard]; decide)]
  split
  · next heq =>
    rw [hx] at heq
    cases heq
    simp at hwaits
  · rw [if_neg (by rw [hidle]; decide), hread]
    cases data <;> rfl

theorem DataDue.of_tellable (hr : s.runs = true) (hh : s.head = true) (hm : s.pcie.busMaster = true) (hop : d.opcode = 0x06)
    (hrun : (s.region d.regionNo).running = some d) (hempty : (s.region d.regionNo).data = none) (ht : tellable s d) (hx : s.findStarted d = some x)
    (hw : x.waits = []) : DataDue s d x :=
  ⟨hr, hh, hm, (ht hh).2.2.2.2, hop, hrun, hempty, hx, hw⟩

theorem dataRead_logs (s : State) (d : Desc) : logsOnly s (s.dataRead d) := (logsOnly.refl s).emit _

/-- What runs in a region ends there with its completion. -/
theorem complete_frees {i : Fin 8} (h : (s.region i).running = some d) (r : Result) : ((s.complete d r).region i).running = none := by
  rw [complete_region, h, beq_self_eq_true, if_pos rfl]

/-! ### What the data of regions 2 and 7 does -/

theorem regionApply_list (hi : d.regionNo = 2) (h : listJudge (itemsOf 4 128 ws) = none) :
    s.regionApply d ws = s.modBcst (fun b => { b with listNext := some (d, itemsOf 4 128 ws) }) := by
  simp only [State.regionApply, hi, Fin.val_two, h]

theorem regionApply_table (hi : d.regionNo = 7) (h : tableJudge ws = none) :
    s.regionApply d ws = (s.pipTable ws (d.f 5 0 1 == 1)).complete d { status := stOK } := by
  simp [State.regionApply, hi, h, State.regionDone]

theorem regionApply_badTable {dt : Nat} (hi : d.regionNo = 7) (h : tableJudge ws = some dt) :
    s.regionApply d ws = s.complete d { status := stBadDesc, detail := dt } := by
  simp [State.regionApply, hi, h, State.regionDone]

end

/-- The events of a table go into their slots. -/
def slotsAfter (l : List (List Word)) (slots : List (Nat × PipEvent)) : List (Nat × PipEvent) :=
  l.foldl (fun m e => match (if (eventOf e).dir == 0 then none else some (eventOf e)) with
    | some v => Sparse.insert m (eventOf e).slot v
    | none => Sparse.erase m (eventOf e).slot) slots

theorem setSlots_eq : ∀ (l : List (List Word)) (s : State),
    s.forEach l (fun s e => s.setSlot (eventOf e).slot (if (eventOf e).dir == 0 then none else some (eventOf e))) =
      s.modPip (fun p => { p with slots := slotsAfter l p.slots })
  | [], _ => rfl
  | _ :: l, _ => setSlots_eq l _

theorem pipTable_whole (s : State) (ws : List Word) : s.pipTable ws false = s.modPip (fun p => { p with slots := slotsAfter (entries 257 ws) [] }) :=
  setSlots_eq (entries 257 ws) (s.modPip (fun p => { p with slots := [] }))

theorem pipTable_part (s : State) (ws : List Word) : s.pipTable ws true = s.modPip (fun p => { p with slots := slotsAfter (entries 257 ws) p.slots }) :=
  setSlots_eq (entries 257 ws) s

section
variable (s : State) (d : Desc) (x : StartedDesc) (ws : List Word) (hr : s.runs = true) (hh : s.head = true) (hm : s.pcie.busMaster = true)
include hr hh hm

theorem regionDataRead_fails (hop : d.opcode = 0x06) (hrun : (s.region d.regionNo).running = some d) (hempty : (s.region d.regionNo).data = none)
    (ht : tellable s d) (hx : s.findStarted d = some x) (hw : x.waits = []) : answers (.regionDataReadComplete d none) s fun t =>
      ended s t d { status := stBadDesc, detail := dtDmaRead } ∧ (t.region d.regionNo).running = none ∧ logsOnly s t :=
  answers_of (exec_regionDataRead (.of_tellable hr hh hm hop hrun hempty ht hx hw) none nofun)
    ⟨((EndsAlike.refl d s).emit _).ended ht _, complete_frees (s := s.dataRead d) hrun _, (dataRead_logs s d).bad d _⟩

theorem regionDataRead_list (hd3 : s.pcie.d3hot = false) (hop : d.opcode = 0x06) (hi : d.regionNo = 2) (hrun : (s.region 2).running = some d)
    (hempty : (s.region 2).data = none) (hx : s.findStarted d = some x) (hw : x.waits = []) (hlen : ws.length = (d.w 4).toNat / 4)
    (hjudge : listJudge (itemsOf 4 128 ws) = none) : answers (.regionDataReadComplete d (some ws)) s fun t =>
      t.bcst = { s.bcst with listNext := some (d, itemsOf 4 128 ws) } ∧ (t.region 2).running = some d ∧ Out.hostRead (d.addr 2) (4 * ws.length) ∈ t.out := by
  have hdata : DataDue s d x := ⟨hr, hh, hm, hd3, hop, hi ▸ hrun, hi ▸ hempty, hx, hw⟩
  refine answers_of (exec_regionDataRead hdata (some ws) fun v hv => by rw [← Option.some.inj hv, hlen]) ?_
  rw [State.dataActs, regionApply_list hi hjudge, hi]
  refine ⟨rfl, ?_, ?_⟩
  · exact (congrArg RegionSt.running (modRegion_self (s.dataRead d) 2 _)).trans hrun
  · rw [hlen]
    exact List.mem_cons_self

theorem regionDataRead_table (hop : d.opcode = 0x06) (hi : d.regionNo = 7) (hrun : (s.region 7).running = some d) (hempty : (s.region 7).data = none)
    (ht : tellable s d) (hx : s.findStarted d = some x) (hw : x.waits = []) (hlen : ws.length = (d.w 4).toNat / 4) (hjudge : tableJudge ws = none)
    (hwhole : d.f 5 0 1 = 0) : answers (.regionDataReadComplete d (some ws)) s fun t =>
      ended s t d { status := stOK } ∧ (t.region 7).running = none ∧ (∀ n, t.slotEv n = ((s.modPip (fun p => { p with slots := [] })).pipTable ws true).slotEv n) ∧
      t.pip.commits = s.pip.commits := by
  have hdata : DataDue s d x := .of_tellable hr hh hm hop (hi ▸ hrun) (hi ▸ hempty) ht hx hw
  refine answers_of (exec_regionDataRead hdata (some ws) fun v hv => by rw [← Option.some.inj hv, hlen]) ?_
  have hpart : (d.f 5 0 1 == 1) = false := by rw [hwhole]; rfl
  rw [State.dataActs, regionApply_table hi hjudge, hpart, hi, pipTable_whole, pipTable_part]
  have hpip := ((logsOnly.refl _).complete d { status := stOK }).pip_eq (s := ((s.dataRead d).modRegion 7 (fun r => { r with data := some ws })).modPip
    (fun p => { p with slots := slotsAfter (entries 257 ws) [] }))
  refine ⟨((((EndsAlike.refl d s).emit _).modRegion 7 _).modPip _).ended ht _, complete_frees ?_ _, fun n => ?_, (congrArg Pip.commits hpip :)⟩
  · exact (congrArg RegionSt.running (modRegion_self (s.dataRead d) 7 _)).trans hrun
  · exact congrArg (fun p : Pip => Sparse.find p.slots n) hpip

theorem regionDataRead_badTable (dt : Nat) (hop : d.opcode = 0x06) (hi : d.regionNo = 7) (hrun : (s.region 7).running = some d) (hempty : (s.region 7).data = none)
    (ht : tellable s d) (hx : s.findStarted d = some x) (hw : x.waits = []) (hlen : ws.length = (d.w 4).toNat / 4) (hjudge : tableJudge ws = some dt) :
    answers (.regionDataReadComplete d (some ws)) s fun t => ended s t d { status := stBadDesc, detail := dt } ∧ t.pip = s.pip ∧ logsOnly s t := by
  have hdata : DataDue s d x := .of_tellable hr hh hm hop (hi ▸ hrun) (hi ▸ hempty) ht hx hw
  refine answers_of (exec_regionDataRead hdata (some ws) fun v hv => by rw [← Option.some.inj hv, hlen]) ?_
  rw [State.dataActs, regionApply_badTable hi hjudge]
  have hlogs := ((dataRead_logs s d).modHif (fun h => { h with regions := upd h.regions d.regionNo (fun r => { r with data := some ws }) })).complete d
    { status := stBadDesc, detail := dt }
  exact ⟨(((EndsAlike.refl d s).emit _).modRegion _ _).ended ht _, hlogs.pip_eq, hlogs⟩

end

/-- Settles O26: the arrival of an update with its refusals, the start of one that waited, a map that comes with its data, and the data of regions 2 and 7. -/
theorem updatesOfRegionsArriveRunAndAct : Obligations.UpdatesOfRegionsArriveRunAndAct := by
  unfold Obligations.UpdatesOfRegionsArriveRunAndAct
  exact ⟨updateRegion_arrives, updateRegion_held, updateRegion_retired, updateRegionRun_starts, updateOwnershipMap_taken,
    fun s d x hr hh hm => regionDataRead_fails s d x hr hh hm, fun s d x ws hr hh hm => regionDataRead_list s d x ws hr hh hm,
    fun s d x ws hr hh hm => regionDataRead_table s d x ws hr hh hm, fun s d x ws dt hr hh hm => regionDataRead_badTable s d x ws hr hh hm dt⟩

end Sys2Proof.Machine
end

section
/-! The internal buffer of event records through every step (R226, R227). -/

namespace Sys2Proof.Machine

/-- A step that answers a next state keeps what every command keeps of the state, beside the queue's front. -/
theorem step_buf {s t : State} (h : step s = .next t) : t.hif.buf.length ≤ max 256 s.hif.buf.length := by
  unfold step at h
  split at h
  · cases h
    exact Nat.le_max_right ..
  · exact (exec_grows h).buf

/-- Settles O5: a step adds to the buffer only while it holds fewer than 256 records. -/
theorem recordBufferHoldsAtMost256 : Obligations.RecordBufferHoldsAtMost256 := by
  unfold Obligations.RecordBufferHoldsAtMost256
  intro s t hbuf h
  exact (step_buf h).trans (Nat.max_le.mpr ⟨le_rfl, hbuf⟩)

end Sys2Proof.Machine
end

section
/-! Writes of HIF_CTL and of the registers of a ring: where they land, and what a ring in use refuses (R197 to R200). -/

namespace Sys2Proof.Machine

/-! ### A refusal names its ring -/

/-- The flags of HIF_STAT that a refusal of a ring sets. -/
def ringFlags : List FieldRef := [Fld.hifStatDbErr, Fld.hifStatCfgErr, Fld.hifStatFetchErr]

theorem ringErr_sets (s : State) {f : FieldRef} (hf : f ∈ ringFlags) {n : Nat} (hn : n < 32) :
    (s.ringErr f n).is f = true ∧ (s.ringErr f n).get Fld.hifStatErrRing = n := by
  have hfield : f.lo + f.width ≤ 16 ∧ 0 < f.width := (show ∀ g ∈ ringFlags, g.lo + g.width ≤ 16 ∧ 0 < g.width by decide) f hf
  constructor
  · have hstands : (s.ringErr f n).get f = (s.flag f).get f := State.get_put_ne _ _ _ _ (.inr (.inr hfield.1))
    rw [State.is, hstands]
    exact s.is_flag f (by omega) hfield.2
  · exact (State.get_put_self _ _ _ (by decide)).trans (Nat.mod_eq_of_lt hn)

theorem ringErr_onlyFields (s : State) (f : FieldRef) (n : Nat) : onlyFields [f, Fld.hifStatErrRing] s (s.ringErr f n) :=
  onlyFields_trans (onlyFields_put s f _ (by simp)) (onlyFields_put _ _ _ (by simp))

theorem ringErr_onlyRegs (s : State) {f : FieldRef} (hf : f ∈ ringFlags) (n : Nat) : onlyRegs [Reg.hifStat] s (s.ringErr f n) := by
  have hoff : f.off = Reg.hifStat := (show ∀ g ∈ ringFlags, g.off = Reg.hifStat by decide) f hf
  exact onlyRegs_put (onlyRegs_put (onlyRegs_refl _ s) f _ (by simp [hoff])) _ _ (by simp)

/-! ### What a ring's control register reads as -/

theorem ringOfCtl_hifRingCtl (n : Fin 24) : ringOfCtl (Reg.hifRingCtl n.val) = some n := by revert n; decide

/-- ACTIVE is told live. -/
theorem regView_hifRingCtl (s : State) (n : Fin 24) :
    s.regView (Reg.hifRingCtl n.val) = setF (s.rd (Reg.hifRingCtl n.val)) 2 1 (b2n (s.ringActive n)) := by
  have hother : Reg.hifRingCtl n.val ∉ [Reg.topStraps, Reg.topStatus, Reg.topBlockReset, Reg.topUniqueLo, Reg.topUniqueHi, Reg.bootStat, Reg.hifStat,
      Reg.pipSrc, Reg.pwrState, Reg.pwrNextLead, Reg.scrubStat, Reg.bcstStat, Reg.rdsStat, Reg.dabStat, Reg.clkAudStat] := by revert n; decide
  simp only [List.mem_cons, List.not_mem_nil, or_false, not_or] at hother
  simp [State.regView, hother, ringOfCtl_hifRingCtl]

theorem active_reads (s : State) (n : Fin 24) : getF (s.regView (Reg.hifRingCtl n.val)) 2 1 = b2n (s.ringActive n) := by
  rw [regView_hifRingCtl, getF_setF_self _ _ _ _ (by decide)]
  cases s.ringActive n <;> rfl

theorem en_reads (s : State) (n : Fin 24) : getF (s.regView (Reg.hifRingCtl n.val)) 0 1 = s.get (Fld.hifRingCtlEn n.val) := by
  rw [regView_hifRingCtl, getF_setF_ne _ _ _ _ _ _ (by decide)]
  rfl

theorem b2n_eq_one (b : Bool) : b2n b = 1 ↔ b = true := by cases b <;> decide
theorem b2n_eq_zero (b : Bool) : b2n b = 0 ↔ b = false := by cases b <;> decide

/-! ### A write of HIF_CTL (R197, R198) -/

theorem busReg_hifCtl : BusReg Reg.hifCtl [⟨0, 1, .rw, []⟩] := by
  constructor <;> decide

theorem hostWrite_hifCtl {s : State} {p : Port} (hs : served s p Reg.hifCtl) (w : Word) (t : WriteAt) : s.hostWrite p Reg.hifCtl w t = s.writeHifCtl w :=
  busReg_hifCtl.hostWrite hs w t

/-- One word written by REGISTER_WRITE to a register that acts. -/
theorem BusReg.exec_registerWrite {off : Nat} {fs : List Field} (h : BusReg off fs) {s : State} {p : Port} (hs : served s p off) (w : Word)
    (hsoft : (s.landWrite p off w fs s.now).top.softPending = false) :
    exec (.registerWrite p off [w] true) s = .next (s.landWrite p off w fs s.now) := by
  have hland : s.serveWrite p off w s.now = s.landWrite p off w fs s.now := (serveWrite_ok hs.2 w s.now).trans (h.regWrite s p w s.now)
  have hlow := h.low
  rw [exec_registerWrite_one hs.1 (by omega) w (by rw [hland]; exact hsoft), hland]

theorem mem_allRings (n : Fin 24) : n ∈ allRings := by revert n; decide

/-- The lowest-numbered ring of a kind is the first found. -/
theorem allRings_find {q : Fin 24 → Bool} {n : Fin 24} (hn : q n = true) (hlow : ∀ m < n, q m = false) : allRings.find? q = some n := by
  have hat : ∀ m : Fin 24, allRings[m.val]'(by simp [allRings]) = m := by decide
  rw [List.find?_eq_some_iff_getElem]
  refine ⟨hn, n.val, by simp [allRings], hat n, fun j hj => ?_⟩
  have hj' : allRings[j]'(by simp [allRings]; omega) = ⟨j, by omega⟩ := hat ⟨j, by omega⟩
  rw [hj', hlow _ hj]
  rfl

theorem writeHifCtl_active {s : State} {w : Word} {n : Fin 24} (hw : getF w 0 1 = 0) (hn : s.ringActive n = true) (hlow : ∀ m < n, s.ringActive m = false) :
    s.writeHifCtl w = s.ringErr Fld.hifStatCfgErr n.val := by
  rw [State.writeHifCtl, if_neg (by simp [hw]), allRings_find hn hlow]

/-- Settles O53: both commands land on HIF_CTL, where the lowest-numbered ACTIVE ring is the first found. -/
theorem theEngineStaysOnWhileARingIsActive : Obligations.TheEngineStaysOnWhileARingIsActive := by
  unfold Obligations.TheEngineStaysOnWhileARingIsActive
  intro s p w n hs hw hactive hlow
  rw [active_reads, b2n_eq_one] at hactive
  simp only [active_reads, b2n_eq_zero] at hlow
  have hrefused := writeHifCtl_active hw hactive hlow
  obtain ⟨hset, hring⟩ := ringErr_sets s (f := Fld.hifStatCfgErr) (by decide) (n := n.val) (by omega)
  have honly := ringErr_onlyRegs s (f := Fld.hifStatCfgErr) (by decide) n.val
  have hkept := honly.2 Reg.hifCtl (by decide)
  refine ⟨answers_of ?_ ⟨hset, hring, hkept, honly⟩, fun hsoft => answers_of ?_ ⟨hset, hring, hkept, honly⟩⟩
  · exact congrArg Host.Outcome.next ((hostWrite_hifCtl hs w s.now).trans hrefused)
  · have hland : s.landWrite p Reg.hifCtl w [⟨0, 1, .rw, []⟩] s.now = s.ringErr Fld.hifStatCfgErr n.val := hrefused
    rw [busReg_hifCtl.exec_registerWrite hs w (by rw [hland]; exact hsoft), hland]

/-! ### A write of a ring's base or size (R200) -/

/-- A base or size register of a ring. -/
def ringPlaces (n : Nat) : List Nat := [Reg.hifRingBaseLo n, Reg.hifRingBaseHi n, Reg.hifRingSize n]

/-- What the setup map says of a base or size register: it belongs to its ring and to no other unit. -/
structure PlaceReg (n : Fin 24) (off : Nat) : Prop where
  low : off < 0x6800
  acting : off ∉ actingRegs
  window : ¬(Reg.bootWinData 0 ≤ off ∧ off ≤ Reg.bootWinData 63)
  ringCtl : ringOfCtl off = none
  ringPlace : ringOfPlace off = some n
  units : loOfCtl off = none ∧ loOfFreq off = none ∧ pathOfAgc off = none
  pair : isPaired off = false ∧ isPaired (off - 4) = false

theorem placeReg {n : Fin 24} {off : Nat} (h : off ∈ ringPlaces n.val) : PlaceReg n off := by
  constructor <;> (revert n off; decide)

/-- A word that a base or size register's field table defines. -/
theorem place_defined {n : Fin 24} {off : Nat} {w : Word}
    (h : off = Reg.hifRingBaseLo n.val ∨ off = Reg.hifRingBaseHi n.val ∨ off = Reg.hifRingSize n.val ∧ 4 ≤ getF w 0 5 ∧ getF w 0 5 ≤ 16) :
    ∃ r, regRow off = some r ∧ allRO r.fields = false ∧ fieldsDefined r.fields w = true := by
  have hlo : ∀ m : Fin 24, ∃ r, regRow (Reg.hifRingBaseLo m.val) = some r ∧ r.fields = [⟨12, 20, .rw, []⟩] := by decide
  have hhi : ∀ m : Fin 24, ∃ r, regRow (Reg.hifRingBaseHi m.val) = some r ∧ r.fields = [⟨0, 32, .rw, []⟩] := by decide
  have hsize : ∀ m : Fin 24, ∃ r, regRow (Reg.hifRingSize m.val) = some r ∧ r.fields = [⟨0, 5, .rw, [(4, 16)]⟩] := by decide
  rcases h with rfl | rfl | ⟨rfl, hfour, hsixteen⟩
  · obtain ⟨r, hrow, hfs⟩ := hlo n
    exact ⟨r, hrow, by rw [hfs]; rfl, by rw [hfs]; rfl⟩
  · obtain ⟨r, hrow, hfs⟩ := hhi n
    exact ⟨r, hrow, by rw [hfs]; rfl, by rw [hfs]; rfl⟩
  · obtain ⟨r, hrow, hfs⟩ := hsize n
    exact ⟨r, hrow, by rw [hfs]; rfl, by simp [hfs, fieldsDefined, hfour, hsixteen]⟩

theorem PlaceReg.regWrite {n : Fin 24} {off : Nat} (h : PlaceReg n off) (s : State) (p : Port) (w : Word) (t : WriteAt) {r : RegRow}
    (hrow : regRow off = some r) (hro : allRO r.fields = false) (hdef : fieldsDefined r.fields w = true) :
    s.regWrite p off w t = s.writeRingPlace n off w := by
  have hact := h.acting
  simp only [actingRegs, List.mem_cons, not_or] at hact
  have hfs : s.fieldsAt off r = r.fields := by simp [State.fieldsAt, hact]
  have hwd : s.writeDefined off w = true := by simp [State.writeDefined, hact, h.units]
  have hlow := h.low
  have haway : s.svcAway off = false := by simp [State.svcAway, show ¬ 0x6800 ≤ off by omega]
  have hland : s.landWrite p off w r.fields t = s.writeRingPlace n off w := by
    simp [State.landWrite, hact, h.window, h.ringCtl, h.ringPlace]
  simp [State.regWrite, hrow, hfs, hwd, show ¬ 0xF004 ≤ off by omega, haway, hro, hdef, h.pair, hland]

theorem writeRingPlace_in_use {s : State} {n : Fin 24} (h : s.is (Fld.hifRingCtlEn n.val) = true ∨ s.ringActive n = true) (off : Nat) (w : Word) :
    s.writeRingPlace n off w = s.ringErr Fld.hifStatCfgErr n.val := if_pos (by simpa using h)

/-- Settles O54: the write lands on its ring, which refuses it while EN or ACTIVE reads 1. -/
theorem theBaseAndSizeOfARingInUseStay : Obligations.TheBaseAndSizeOfARingInUseStay := by
  unfold Obligations.TheBaseAndSizeOfARingInUseStay
  intro s p w n off hoff hs hsoft hused
  have hmem : off ∈ ringPlaces n.val := by
    rcases hoff with rfl | rfl | ⟨rfl, -⟩ <;> simp [ringPlaces]
  have hplace := placeReg hmem
  have hlow := hplace.low
  have hin : s.is (Fld.hifRingCtlEn n.val) = true ∨ s.ringActive n = true := by
    rw [en_reads, active_reads, b2n_eq_one] at hused
    exact hused.imp_left fun h => by rw [State.is, h]; rfl
  obtain ⟨r, hrow, hro, hdef⟩ := place_defined hoff
  have hland : s.serveWrite p off w s.now = s.ringErr Fld.hifStatCfgErr n.val :=
    (serveWrite_ok hs.2 w s.now).trans ((hplace.regWrite s p w s.now hrow hro hdef).trans (writeRingPlace_in_use hin off w))
  have hexec := exec_registerWrite_one (off := off) hs.1 (by omega) w (by rw [hland]; exact hsoft)
  rw [hland] at hexec
  have honly := ringErr_onlyRegs s (f := Fld.hifStatCfgErr) (by decide) n.val
  have hstat : off ∉ [Reg.hifStat] := (show ∀ m : Fin 24, ∀ o ∈ ringPlaces m.val, o ∉ [Reg.hifStat] by decide) n off hmem
  exact answers_of hexec ⟨(ringErr_sets s (f := Fld.hifStatCfgErr) (by decide) (n := n.val) (by omega)).1, honly.2 off hstat, honly⟩

end Sys2Proof.Machine
end

section
/-! The engine's enable and the enables of the rings (R197 to R203). -/

namespace Sys2Proof.Machine

/-! ### The engine (R197, R198) -/

/-- Bus Master Enable stands as configuration has set it, where the function takes configuration. -/
def State.withBusMaster (s : State) (bm : Bool) : State := s.modPcie (fun p => { p with busMaster := if s.portOpen .pcie then bm else p.busMaster })

theorem exec_hifEngineEnable {s : State} {p : Port} (hs : served s p Reg.hifCtl) (w : Word) (bm : Bool) :
    exec (.hifEngineEnable p w bm) s = .next ((s.withBusMaster bm).writeHifCtl w) := by
  have hset : s.cond (s.portOpen .pcie) (fun s => s.modPcie (fun p => { p with busMaster := bm })) = s.withBusMaster bm := by
    unfold State.withBusMaster State.cond
    split <;> rfl
  have hserved : served (s.withBusMaster bm) p Reg.hifCtl := hs
  change execHifEngineEnable p w bm s = _
  rw [execHifEngineEnable, hset]
  exact congrArg Host.Outcome.next (hostWrite_hifCtl hserved w _)

/-- With nothing kept and nothing dropped there is nothing to write. -/
theorem flushBuf_of_empty {s : State} (hbuf : s.hif.buf = []) (hdrops : s.hif.bufDrops = 0) : s.flushBuf = s := by
  have hsame : s.modHif (fun h => { h with buf := [], bufDrops := 0 }) = s := by
    rw [← hbuf, ← hdrops]
    rfl
  unfold State.flushBuf
  split
  · rfl
  · simp only [hsame, hbuf, hdrops]
    rfl

theorem hifEngineEnable_at_head (s : State) (p : Port) (w : Word) (bm : Bool) (hs : served s p Reg.hifCtl) (hh : s.head = true) (he : s.engine = false)
    (hbuf : s.hif.buf = []) (hdrops : s.hif.bufDrops = 0) (hw : getF w 0 1 = 1) : answers (.hifEngineEnable p w bm) s fun t =>
    t.engine = true ∧ (s.portOpen .pcie = true → t.pcie.busMaster = bm) ∧ fieldsOnly [Fld.hifCtlEngineEn] s t ∧
    { t with regs := s.regs, pcie := s.pcie, hif := { t.hif with buf := s.hif.buf, bufDrops := s.hif.bufDrops } } = s := by
  have hland : (s.withBusMaster bm).writeHifCtl w = (s.withBusMaster bm).putB Fld.hifCtlEngineEn true := by
    have hhead : (s.withBusMaster bm).head = true := hh
    have hoff : (s.withBusMaster bm).engine = false := he
    rw [State.writeHifCtl, if_pos (by simp [hw]), if_neg (by simp [hhead]), if_neg (by simp [hoff])]
    exact flushBuf_of_empty hbuf hdrops
  refine answers_of (exec_hifEngineEnable hs w bm) ?_
  rw [hland]
  exact ⟨State.is_putB _ _ _ (by decide) rfl, fun hopen => if_pos hopen, fieldsOnly_put (s.withBusMaster bm) _ _ (by simp), rfl⟩

theorem hifEngineEnable_elsewhere (s : State) (p : Port) (w : Word) (bm : Bool) (hs : served s p Reg.hifCtl) (hh : s.head = false) (hw : getF w 0 1 = 1) :
    answers (.hifEngineEnable p w bm) s fun t => t.is Fld.hifStatNotHead = true ∧ t.engine = s.engine ∧ fieldsOnly [Fld.hifStatNotHead] s t := by
  have hland : (s.withBusMaster bm).writeHifCtl w = (s.withBusMaster bm).flag Fld.hifStatNotHead := by
    have hhead : (s.withBusMaster bm).head = false := hh
    rw [State.writeHifCtl, if_pos (by simp [hw]), if_pos (by simp [hhead])]
  refine answers_of (exec_hifEngineEnable hs w bm) ?_
  rw [hland]
  have hengine := (s.withBusMaster bm).get_put_ne Fld.hifStatNotHead Fld.hifCtlEngineEn (2 ^ 1 - 1) (.inl (by decide))
  exact ⟨State.is_flag _ _ (by decide) (by decide), congrArg (· != 0) hengine, fieldsOnly_put (s.withBusMaster bm) _ _ (by simp)⟩

theorem exec_hifEngineDisable {s : State} {p : Port} (hs : served s p Reg.hifCtl) (w : Word) :
    exec (.hifEngineDisable p w) s = .next (s.writeHifCtl w) := congrArg Host.Outcome.next (hostWrite_hifCtl hs w s.now)

theorem hifEngineDisable_idle (s : State) (p : Port) (w : Word) (hs : served s p Reg.hifCtl) (hw : getF w 0 1 = 0) (hidle : ∀ n, s.ringActive n = false) :
    answers (.hifEngineDisable p w) s fun t => t.engine = false ∧ onlyFields [Fld.hifCtlEngineEn] s t := by
  have hnone : allRings.find? (fun n => s.ringActive n) = none := List.find?_eq_none.mpr fun n _ => by simp [hidle n]
  refine answers_of (exec_hifEngineDisable hs w) ?_
  rw [State.writeHifCtl, if_neg (by simp [hw]), hnone]
  exact ⟨State.is_putB _ _ _ (by decide) rfl, onlyFields_put _ _ _ (by simp)⟩

theorem hifEngineDisable_in_use (s : State) (p : Port) (w : Word) (n : Fin 24) (hs : served s p Reg.hifCtl) (he : s.engine = true) (hw : getF w 0 1 = 0)
    (hn : s.ringActive n = true) : answers (.hifEngineDisable p w) s fun t =>
    t.engine = true ∧ t.is Fld.hifStatCfgErr = true ∧ onlyRegs [Reg.hifStat] s t := by
  have hsome : (allRings.find? (fun m => s.ringActive m)).isSome = true := List.find?_isSome.mpr ⟨n, mem_allRings n, hn⟩
  obtain ⟨m, hm⟩ := Option.isSome_iff_exists.mp hsome
  refine answers_of (exec_hifEngineDisable hs w) ?_
  rw [State.writeHifCtl, if_neg (by simp [hw]), hm]
  have honly := ringErr_onlyRegs s (f := Fld.hifStatCfgErr) (by decide) m.val
  have hengine := get_of_regsOnly honly.2 Fld.hifCtlEngineEn (by decide)
  exact ⟨(congrArg (· != 0) hengine).trans he, (ringErr_sets s (f := Fld.hifStatCfgErr) (by decide) (n := m.val) (by omega)).1, honly⟩

/-! ### A write of HIF_RINGn_CTL (R199 to R203, R223) -/

theorem busReg_hifRingCtl (n : Fin 24) : BusReg (Reg.hifRingCtl n.val)
    [⟨17, 15, .rw, []⟩, ⟨8, 8, .rw, []⟩, ⟨3, 1, .ro, []⟩, ⟨2, 1, .ro, []⟩, ⟨0, 1, .rw, []⟩] := by
  constructor <;> (revert n; decide)

theorem hifRingCtl_alone (n : Fin 24) : Reg.hifRingCtl n.val ∉ actingRegs ∧
    ¬(Reg.bootWinData 0 ≤ Reg.hifRingCtl n.val ∧ Reg.hifRingCtl n.val ≤ Reg.bootWinData 63) := by revert n; decide

/-- A control register is none of those that a refusal or a drop of a ring writes. -/
theorem hifRingCtl_not_told (m n : Fin 24) : Reg.hifRingCtl m.val ∉ [Reg.hifStat] ∧ Reg.hifRingCtl m.val ∉ [Reg.hifDropCnt n.val] := by
  revert m n; decide
theorem hifRingCtl_ne {m n : Fin 24} (h : m ≠ n) : Reg.hifRingCtl m.val ∉ [Reg.hifRingCtl n.val, Reg.hifDropCnt n.val] := by
  revert m n; decide
theorem hifCtl_no_ring (n : Fin 24) : Reg.hifCtl ∉ [Reg.hifRingCtl n.val, Reg.hifDropCnt n.val] := by
  revert n; decide

/-- A register that is a ring's control register alone. -/
theorem landWrite_ringCtl {n : Fin 24} {off : Nat} (hact : off ∉ actingRegs) (hwindow : ¬(Reg.bootWinData 0 ≤ off ∧ off ≤ Reg.bootWinData 63))
    (hring : ringOfCtl off = some n) (s : State) (p : Port) (w : Word) (fs : List Field) (t : WriteAt) : s.landWrite p off w fs t = s.writeRingCtl n w := by
  simp only [actingRegs, List.mem_cons, not_or] at hact
  simp [State.landWrite, hact, hwindow, hring]

theorem hostWrite_hifRingCtl {s : State} {p : Port} {n : Fin 24} (hs : served s p (Reg.hifRingCtl n.val)) (w : Word) (t : WriteAt) :
    s.hostWrite p (Reg.hifRingCtl n.val) w t = s.writeRingCtl n w :=
  ((busReg_hifRingCtl n).hostWrite hs w t).trans
    (landWrite_ringCtl (hifRingCtl_alone n).1 (hifRingCtl_alone n).2 (ringOfCtl_hifRingCtl n) s p w _ t)

/-- HOLDOFF, and TYPE_MASK of an event ring, are taken before EN acts. -/
def State.ringCtlTaken (s : State) (n : Fin 24) (w : Word) : State :=
  (s.put (Fld.hifRingCtlHoldoff n.val) (getF w 8 8)).cond (decide (16 ≤ n.val) && decide (n.val < 20))
    (·.put (Fld.hifRingCtlTypeMask n.val) (getF w 17 15))

theorem get_cond_put (s : State) (b : Bool) (f g : FieldRef) (v : Nat) (h : g.off ≠ f.off ∨ f.lo + f.width ≤ g.lo ∨ g.lo + g.width ≤ f.lo) :
    (s.cond b (·.put f v)).get g = s.get g := by
  unfold State.cond
  split
  · exact s.get_put_ne f g v h
  · rfl

section
variable (s : State) (n : Fin 24) (w : Word)

theorem ringCtlTaken_get (f : FieldRef) (h : f.off ≠ Reg.hifRingCtl n.val ∨ f.lo + f.width ≤ 8) : (s.ringCtlTaken n w).get f = s.get f :=
  (get_cond_put _ _ _ _ _ (h.imp id fun h => .inr (h.trans (by simp)))).trans (State.get_put_ne _ _ _ _ (h.imp id .inr))

theorem ringCtlTaken_holdoff : (s.ringCtlTaken n w).get (Fld.hifRingCtlHoldoff n.val) = getF w 8 8 :=
  (get_cond_put _ _ _ _ _ (.inr (.inr (by simp)))).trans
    ((State.get_put_self _ _ _ (by simp)).trans (Nat.mod_eq_of_lt (getF_lt w 8 8)))

theorem ringCtlTaken_onlyRegs : onlyRegs [Reg.hifRingCtl n.val] s (s.ringCtlTaken n w) :=
  have hheld := onlyRegs_put (onlyRegs_refl [Reg.hifRingCtl n.val] s) (Fld.hifRingCtlHoldoff n.val) (getF w 8 8) (by simp)
  onlyRegs_cond hheld _ _ (onlyRegs_put hheld _ _ (by simp))

theorem ringCtlTaken_hif : (s.ringCtlTaken n w).hif = s.hif := congrArg (·.hif) (ringCtlTaken_onlyRegs s n w).1
theorem ringCtlTaken_samp : (s.ringCtlTaken n w).samp = s.samp := congrArg (·.samp) (ringCtlTaken_onlyRegs s n w).1
theorem ringCtlTaken_is_en : (s.ringCtlTaken n w).is (Fld.hifRingCtlEn n.val) = s.is (Fld.hifRingCtlEn n.val) :=
  congrArg (· != 0) (ringCtlTaken_get s n w _ (.inr (by simp)))

end

theorem writeRingCtl_enables {s : State} {n : Fin 24} {w : Word} (hen : s.is (Fld.hifRingCtlEn n.val) = false) (hw : getF w 0 1 = 1) :
    s.writeRingCtl n w = (s.ringCtlTaken n w).ringEnable n := by
  have hstill := (ringCtlTaken_is_en s n w).trans hen
  unfold State.ringCtlTaken at hstill ⊢
  simp only [State.writeRingCtl, hstill, hw, beq_self_eq_true]

theorem writeRingCtl_disables {s : State} {n : Fin 24} {w : Word} (hen : s.is (Fld.hifRingCtlEn n.val) = true) (hw : getF w 0 1 = 0) :
    s.writeRingCtl n w = (s.ringCtlTaken n w).ringDisable n := by
  have hstill := (ringCtlTaken_is_en s n w).trans hen
  unfold State.ringCtlTaken at hstill ⊢
  simp only [State.writeRingCtl, hstill, hw]
  rfl

/-! ### EN is set (R199) -/

/-- A ring starts: EN set, HALTED clear, both indices 0, no doorbell and no signal kept. -/
def State.ringStarted (s : State) (n : Fin 24) : State :=
  ((((s.putB (Fld.hifRingCtlEn n.val) true).putB (Fld.hifRingCtlHalted n.val) false).put (Fld.hifRingHeadProducer n.val) 0).put
    (Fld.hifRingTailConsumer n.val) 0).modRing n (fun r => { r with doorbell := none, unsignalled := false })

/-- The first pass of a ring that the device writes carries PHASE 1. -/
def State.ringPhased (s : State) (n : Fin 24) : State :=
  (s.ringStarted n).cond (decide (8 ≤ n.val) && decide (n.val < 20)) (·.put (Fld.hifRingHeadPhase n.val) 1)

theorem ringEnable_legal {s : State} {n : Fin 24} (hlow : 4 ≤ s.get (Fld.hifRingSizeLog2 n.val)) (hhigh : s.get (Fld.hifRingSizeLog2 n.val) ≤ 16) :
    s.ringEnable n = s.ringPhased n := by
  unfold State.ringEnable
  extract_lets l t
  rw [if_neg (by simpa [l] using ⟨hlow, hhigh⟩)]
  rfl

theorem ringEnable_illegal {s : State} {n : Fin 24} (h : s.get (Fld.hifRingSizeLog2 n.val) < 4 ∨ 16 < s.get (Fld.hifRingSizeLog2 n.val)) :
    s.ringEnable n = s.ringErr Fld.hifStatCfgErr n.val := if_pos (by simpa using h)

section
variable (s : State) (n : Fin 24)

theorem ringStarted_en : (s.ringStarted n).get (Fld.hifRingCtlEn n.val) = 1 := by
  rw [State.ringStarted, State.modRing_get, State.get_put_ne _ _ _ _ (.inl (by simp)), State.get_put_ne _ _ _ _ (.inl (by simp)),
    State.putB_eq _ (Fld.hifRingCtlHalted n.val), State.get_put_ne _ _ _ _ (by simp)]
  exact State.get_put_self _ _ _ (by simp)
theorem ringStarted_holdoff : (s.ringStarted n).get (Fld.hifRingCtlHoldoff n.val) = s.get (Fld.hifRingCtlHoldoff n.val) := by
  rw [State.ringStarted, State.modRing_get, State.get_put_ne _ _ _ _ (.inl (by simp)), State.get_put_ne _ _ _ _ (.inl (by simp)),
    State.putB_eq _ (Fld.hifRingCtlHalted n.val), State.get_put_ne _ _ _ _ (by simp), State.putB_eq, State.get_put_ne _ _ _ _ (by simp)]
theorem ringStarted_prod : (s.ringStarted n).prod n = 0 := by
  rw [State.prod, State.ringStarted, State.modRing_get, State.get_put_ne _ _ _ _ (.inl (by simp))]
  exact State.get_put_self _ _ _ (by simp)
theorem ringStarted_cons : (s.ringStarted n).cons n = 0 := by
  rw [State.cons, State.ringStarted, State.modRing_get]
  exact State.get_put_self _ _ _ (by simp)
theorem ringStarted_doorbell : (s.ringStarted n).hif.rings[n].doorbell = none := congrArg RingSt.doorbell (upd_self ..)
theorem ringStarted_regsOnly : regsOnly [Reg.hifRingCtl n.val, Reg.hifRingHead n.val, Reg.hifRingTail n.val] s (s.ringStarted n) := by
  intro off h
  have hen := onlyRegs_put (onlyRegs_refl [Reg.hifRingCtl n.val, Reg.hifRingHead n.val, Reg.hifRingTail n.val] s) (Fld.hifRingCtlEn n.val) (b2n true) (List.mem_cons_self ..)
  have hgo := onlyRegs_put hen (Fld.hifRingCtlHalted n.val) (b2n false) (List.mem_cons_self ..)
  have hhead := onlyRegs_put hgo (Fld.hifRingHeadProducer n.val) 0 (by simp)
  rw [State.ringStarted, State.modRing_rd]
  exact (onlyRegs_put hhead (Fld.hifRingTailConsumer n.val) 0 (by simp)).2 off h

theorem ringPhased_get (f : FieldRef) (h : f.off ≠ Reg.hifRingHead n.val ∨ f.lo + f.width ≤ 16) : (s.ringPhased n).get f = (s.ringStarted n).get f :=
  get_cond_put _ _ _ _ _ (h.imp id .inr)
theorem ringPhased_phase (h8 : 8 ≤ n.val) (h20 : n.val < 20) : (s.ringPhased n).is (Fld.hifRingHeadPhase n.val) = true := by
  rw [State.ringPhased, State.cond, if_pos (by simp [h8, h20]), State.is, State.get_put_self _ _ _ (by simp)]
  rfl
theorem ringPhased_doorbell : (s.ringPhased n).hif.rings[n].doorbell = none := by
  unfold State.ringPhased State.cond
  split
  · exact (congrArg (fun h : Hif => h.rings[n].doorbell) (State.put_hif ..)).trans (ringStarted_doorbell s n)
  · exact ringStarted_doorbell s n
theorem ringPhased_regsOnly : regsOnly [Reg.hifRingCtl n.val, Reg.hifRingHead n.val, Reg.hifRingTail n.val] s (s.ringPhased n) := by
  unfold State.ringPhased State.cond
  split
  · exact regsOnly_trans (ringStarted_regsOnly s n) (regsOnly_put _ _ _ (by simp))
  · exact ringStarted_regsOnly s n

end

theorem exec_ringEnable {s : State} {p : Port} {n : Fin 24} {w : Word} (hs : served s p (Reg.hifRingCtl n.val))
    (hen : s.is (Fld.hifRingCtlEn n.val) = false) (hw : getF w 0 1 = 1) : exec (.ringEnable p n w) s = .next ((s.ringCtlTaken n w).ringEnable n) :=
  congrArg Host.Outcome.next ((hostWrite_hifRingCtl hs w s.now).trans (writeRingCtl_enables hen hw))

theorem ringEnable_starts (s : State) (p : Port) (n : Fin 24) (w : Word) (hs : served s p (Reg.hifRingCtl n.val))
    (hen : s.is (Fld.hifRingCtlEn n.val) = false) (hw : getF w 0 1 = 1) (hlow : 4 ≤ s.get (Fld.hifRingSizeLog2 n.val))
    (hhigh : s.get (Fld.hifRingSizeLog2 n.val) ≤ 16) : answers (.ringEnable p n w) s fun t =>
      t.is (Fld.hifRingCtlEn n.val) = true ∧ t.prod n = 0 ∧ t.cons n = 0 ∧ t.get (Fld.hifRingCtlHoldoff n.val) = getF w 8 8 ∧
      (8 ≤ n.val → n.val < 20 → t.is (Fld.hifRingHeadPhase n.val) = true) ∧ t.hif.rings[n].doorbell = none ∧
      regsOnly [Reg.hifRingCtl n.val, Reg.hifRingHead n.val, Reg.hifRingTail n.val] s t := by
  have hsize := ringCtlTaken_get s n w (Fld.hifRingSizeLog2 n.val) (.inl (by simp))
  have hexec := exec_ringEnable hs hen hw
  rw [ringEnable_legal (by rw [hsize]; exact hlow) (by rw [hsize]; exact hhigh)] at hexec
  have htaken := ringCtlTaken_onlyRegs s n w
  have hheld := ringCtlTaken_holdoff s n w
  generalize s.ringCtlTaken n w = u at hexec htaken hheld
  have hpast := ringPhased_get u n
  have hphase := ringPhased_phase u n
  have hdoorbell := ringPhased_doorbell u n
  have hregs := ringPhased_regsOnly u n
  generalize u.ringPhased n = t at hexec hpast hphase hdoorbell hregs
  refine answers_of hexec ⟨?_, ?_, ?_, ?_, hphase, hdoorbell, regsOnly_trans (regsOnly_mono htaken.2 (by simp)) hregs⟩
  · rw [State.is, hpast _ (.inl (by simp)), ringStarted_en]
    rfl
  · rw [State.prod, hpast _ (.inr (by simp))]
    exact ringStarted_prod u n
  · rw [State.cons, hpast _ (.inl (by simp))]
    exact ringStarted_cons u n
  · rw [hpast _ (.inl (by simp)), ringStarted_holdoff, hheld]

theorem ringEnable_refused (s : State) (p : Port) (n : Fin 24) (w : Word) (hs : served s p (Reg.hifRingCtl n.val))
    (hen : s.is (Fld.hifRingCtlEn n.val) = false) (hw : getF w 0 1 = 1)
    (hsize : s.get (Fld.hifRingSizeLog2 n.val) < 4 ∨ 16 < s.get (Fld.hifRingSizeLog2 n.val)) : answers (.ringEnable p n w) s fun t =>
      t.is (Fld.hifRingCtlEn n.val) = false ∧ t.is Fld.hifStatCfgErr = true ∧ t.get Fld.hifStatErrRing = n.val := by
  have hexec := exec_ringEnable hs hen hw
  rw [ringEnable_illegal (by rwa [ringCtlTaken_get s n w _ (.inl (by simp))])] at hexec
  obtain ⟨hset, hring⟩ := ringErr_sets (s.ringCtlTaken n w) (f := Fld.hifStatCfgErr) (by decide) (n := n.val) (by omega)
  have hstands := get_of_regsOnly (ringErr_onlyRegs (s.ringCtlTaken n w) (f := Fld.hifStatCfgErr) (by decide) n.val).2 (Fld.hifRingCtlEn n.val)
    (hifRingCtl_not_told n n).1
  exact answers_of hexec ⟨(congrArg (· != 0) hstands).trans ((ringCtlTaken_is_en s n w).trans hen), hset, hring⟩

/-! ### EN is cleared (R201 to R203) -/

/-- A ring is off: EN clear, no doorbell and no signal kept. -/
def State.ringOff (s : State) (n : Fin 24) : State :=
  (s.putB (Fld.hifRingCtlEn n.val) false).modRing n (fun r => { r with doorbell := none, unsignalled := false })

/-- The effects of a cleared EN on what waits leave the sampler, the registers but for the ring's drop counter, and the ring without doorbell or signal. -/
structure RingQuiet (n : Fin 24) (u t : State) : Prop where
  regs : regsOnly [Reg.hifDropCnt n.val] u t
  samp : t.samp = u.samp
  doorbell : t.hif.rings[n].doorbell = u.hif.rings[n].doorbell
  unsignalled : t.hif.rings[n].unsignalled = u.hif.rings[n].unsignalled

namespace RingQuiet

variable {n : Fin 24} {u t : State}

theorem refl (n : Fin 24) (u : State) : RingQuiet n u u := ⟨regsOnly_refl _ _, rfl, rfl, rfl⟩
theorem add (h : RingQuiet n u t) (k : Nat) : RingQuiet n u (t.add (Fld.hifDropCntCount n.val) k) :=
  ⟨regsOnly_trans h.regs (regsOnly_put t (Fld.hifDropCntCount n.val) _ (by simp)), h.samp, h.doorbell, h.unsignalled⟩
theorem modHif (h : RingQuiet n u t) (f : Hif → Hif) (hf : (f t.hif).rings = t.hif.rings) : RingQuiet n u (t.modHif f) :=
  ⟨h.regs, h.samp, (congrArg (fun v : Vector RingSt 24 => v[n].doorbell) hf).trans h.doorbell,
    (congrArg (fun v : Vector RingSt 24 => v[n].unsignalled) hf).trans h.unsignalled⟩
theorem modRing (h : RingQuiet n u t) (f : RingSt → RingSt) (hf : ∀ q, (f q).doorbell = q.doorbell ∧ (f q).unsignalled = q.unsignalled) :
    RingQuiet n u (t.modRing n f) :=
  ⟨h.regs, h.samp, (congrArg RingSt.doorbell (upd_self ..)).trans ((hf _).1.trans h.doorbell),
    (congrArg RingSt.unsignalled (upd_self ..)).trans ((hf _).2.trans h.unsignalled)⟩
theorem modRing_ne (h : RingQuiet n u t) {m : Fin 24} (hm : n ≠ m) (f : RingSt → RingSt) : RingQuiet n u (t.modRing m f) :=
  ⟨h.regs, h.samp, (congrArg RingSt.doorbell (upd_ne _ _ _ _ hm)).trans h.doorbell, (congrArg RingSt.unsignalled (upd_ne _ _ _ _ hm)).trans h.unsignalled⟩

end RingQuiet

theorem cmdRing_val (r : Fin 8) : (cmdRing r).val = r.val := by revert r; decide

/-- A command ring that holds no descriptor, a completion ring, and an event or capture ring without a capture. -/
theorem ringDisable_quiet {s : State} {n : Fin 24} (hheld : s.hif.rings[n].held = []) (hcap : 20 ≤ n.val → s.samp.caps[Fin.ofNat 4 n.val] = none) :
    RingQuiet n (s.ringOff n) (s.ringDisable n) ∧ (16 ≤ n.val → (s.ringDisable n).hif.rings[n].drops = 0) := by
  have hnone : (s.ringOff n).hif.rings[n].held = [] := (congrArg RingSt.held (upd_self ..)).trans hheld
  have hidle : 20 ≤ n.val → (s.ringOff n).samp.caps[Fin.ofNat 4 n.val] = none := hcap
  unfold State.ringDisable
  rw [← State.ringOff]
  generalize s.ringOff n = u at hnone hidle
  have hquiet := RingQuiet.refl n u
  extract_lets off r hs k v
  have hv : RingQuiet n u v := hquiet.modRing _ fun _ => ⟨rfl, rfl⟩
  have hdrops : v.hif.rings[n].drops = 0 := congrArg RingSt.drops (upd_self ..)
  split
  · rw [show hs = [] from hnone]
    exact ⟨hquiet.modRing _ fun _ => ⟨rfl, rfl⟩, by omega⟩
  · split
    · next hcmd _ =>
      have hne : n ≠ cmdRing r := fun he => hcmd (by rw [he, cmdRing_val]; exact r.isLt)
      exact ⟨((hquiet.modRing_ne hne _).add k).modHif _ rfl, by omega⟩
    · split
      · exact ⟨hv, fun _ => hdrops⟩
      · next hlow =>
        have hno : v.samp.caps[Fin.ofNat 4 n.val] = none := hidle (by omega)
        rw [State.capDrop, hno]
        exact ⟨hv, fun _ => hdrops⟩

theorem ringOff_reads (s : State) (n : Fin 24) : (s.ringOff n).is (Fld.hifRingCtlEn n.val) = false ∧ regsOnly [Reg.hifRingCtl n.val] s (s.ringOff n) ∧
    (s.ringOff n).hif.rings[n] = { s.hif.rings[n] with doorbell := none, unsignalled := false } := by
  refine ⟨?_, fun off h => ?_, upd_self ..⟩
  · rw [State.ringOff, State.modRing_is]
    exact State.is_putB _ _ _ (by simp) rfl
  · rw [State.ringOff, State.modRing_rd]
    exact regsOnly_put s (Fld.hifRingCtlEn n.val) _ (by simp) off h

theorem ringDisable_stops (s : State) (p : Port) (n : Fin 24) (w : Word) (hs : served s p (Reg.hifRingCtl n.val))
    (hen : s.is (Fld.hifRingCtlEn n.val) = true) (hw : getF w 0 1 = 0) (hheld : s.hif.rings[n].held = [])
    (hcap : 20 ≤ n.val → s.samp.caps[Fin.ofNat 4 n.val] = none) : answers (.ringDisable p n w) s fun t =>
      t.is (Fld.hifRingCtlEn n.val) = false ∧ t.ringOn n = false ∧ t.hif.rings[n].doorbell = none ∧ t.hif.rings[n].unsignalled = false ∧
      (16 ≤ n.val → t.hif.rings[n].drops = 0) ∧ (∀ m, m ≠ n → t.ringOn m = s.ringOn m) ∧ t.samp = s.samp := by
  have hexec : exec (.ringDisable p n w) s = .next ((s.ringCtlTaken n w).ringDisable n) :=
    congrArg Host.Outcome.next ((hostWrite_hifRingCtl hs w s.now).trans (writeRingCtl_disables hen hw))
  have htaken := ringCtlTaken_onlyRegs s n w
  have hhif := ringCtlTaken_hif s n w
  have hsamp := ringCtlTaken_samp s n w
  generalize s.ringCtlTaken n w = u at hexec htaken hhif hsamp
  obtain ⟨hq, hdrops⟩ := ringDisable_quiet (s := u) (n := n) (by rw [hhif]; exact hheld) (by rw [hsamp]; exact hcap)
  obtain ⟨hoff, hregs, hring⟩ := ringOff_reads u n
  have hreads : (u.ringDisable n).is (Fld.hifRingCtlEn n.val) = false :=
    (congrArg (· != 0) (get_of_regsOnly hq.regs (Fld.hifRingCtlEn n.val) (hifRingCtl_not_told n n).2)).trans hoff
  have hall : regsOnly [Reg.hifRingCtl n.val, Reg.hifDropCnt n.val] s (u.ringDisable n) :=
    regsOnly_trans (regsOnly_mono htaken.2 (by simp)) (regsOnly_trans (regsOnly_mono hregs (by simp)) (regsOnly_mono hq.regs (by simp)))
  refine answers_of hexec ⟨hreads, by rw [State.ringOn, hreads, Bool.and_false], hq.doorbell.trans (congrArg RingSt.doorbell hring),
    hq.unsignalled.trans (congrArg RingSt.unsignalled hring), hdrops, fun m hm => ?_, hq.samp.trans hsamp⟩
  have hengine : (u.ringDisable n).engine = s.engine := congrArg (· != 0) (get_of_regsOnly hall Fld.hifCtlEngineEn (hifCtl_no_ring n))
  have hother : (u.ringDisable n).is (Fld.hifRingCtlEn m.val) = s.is (Fld.hifRingCtlEn m.val) :=
    congrArg (· != 0) (get_of_regsOnly hall (Fld.hifRingCtlEn m.val) (hifRingCtl_ne hm))
  rw [State.ringOn, State.ringOn, hengine, hother]

end Sys2Proof.Machine
end

section
/-! Doorbells, signals and reports of drops (R205 to R208, R225, R229, R231), and O19. -/

namespace Sys2Proof.Machine

/-! ### Doorbells as they arrive (R205, R206) -/

theorem ringFin_val {n : Nat} (h : n < 24) : (ringFin n).val = n := Nat.mod_eq_of_lt h

/-- What DOORBELL_ARRIVAL at the offset of a ring does in the device's own form. -/
theorem exec_doorbellArrival {s : State} {n : Nat} (hr : s.runs = true) (hb : s.free? .hif = true) (hp : s.env.perstLow = false) (hd3 : s.pcie.d3hot = false)
    (h6 : s.compat6 = false) (hn : n < 24) (w : Word) (full : Bool) : exec (.doorbellArrival (8 * n) w full) s =
      .next (if full && s.doorbellOk (ringFin n) (getF w 0 16) then (s.modRing (ringFin n) (fun r => { r with doorbell := some (getF w 0 16) })).wake 0
        else s.ringErr Fld.hifStatDbErr n) := by
  have hof : s.doorbellOf (8 * n) w = some (ringFin n, getF w 0 16) := by
    have hdiv : 8 * n / 8 = n := by omega
    simp [State.doorbellOf, h6, hdiv, show 8 * n < 0xC0 by omega]
  have hbar : (!s.free? .hif || s.env.perstLow || s.pcie.d3hot || decide (0x1000 ≤ 8 * n) || (decide (0x800 ≤ 8 * n) && decide (8 * n < 0xA00)) ||
      (decide (0xC00 ≤ 8 * n) && decide (8 * n < 0xC04))) = false := by
    simp [hb, hp, hd3]
    omega
  change execDoorbellArrival (8 * n) w full s = _
  rw [execDoorbellArrival, running_of_runs hr]
  simp only [hbar, hof, ringFin_val hn, Bool.false_eq_true, if_false]

theorem doorbellArrival_noted (s : State) (n i : Nat) (w : Word) (hr : s.runs = true) (hb : s.free? .hif = true) (hp : s.env.perstLow = false)
    (hd3 : s.pcie.d3hot = false) (h6 : s.compat6 = false) (hpst : s.pst = 0) (hentry : s.pwr.entry = none) (hn : n < 24)
    (hof : s.doorbellOf (8 * n) w = some (ringFin n, i)) (hok : s.doorbellOk (ringFin n) i = true) : answers (.doorbellArrival (8 * n) w true) s fun t =>
      t = s.modRing (ringFin n) (fun r => { r with doorbell := some i }) := by
  have hi : i = getF w 0 16 := by
    rw [State.doorbellOf, if_neg (by simp [h6])] at hof
    split at hof
    · injection hof with hpair
      exact (congrArg Prod.snd hpair).symm
    · nomatch hof
  subst hi
  refine answers_of (exec_doorbellArrival hr hb hp hd3 h6 hn w true) ?_
  rw [if_pos (by simp [hok])]
  exact wake_awake (s := s.modRing (ringFin n) _) rfl hpst hentry

theorem doorbellArrival_refused (s : State) (n : Nat) (w : Word) (full : Bool) (hr : s.runs = true) (hb : s.free? .hif = true)
    (hp : s.env.perstLow = false) (hd3 : s.pcie.d3hot = false) (h6 : s.compat6 = false) (hn : n < 24)
    (hno : full = false ∨ s.doorbellOk (ringFin n) (getF w 0 16) = false) : answers (.doorbellArrival (8 * n) w full) s fun t =>
      t.is Fld.hifStatDbErr = true ∧ t.get Fld.hifStatErrRing = n ∧ onlyFields [Fld.hifStatDbErr, Fld.hifStatErrRing] s t := by
  have hbar : (full && s.doorbellOk (ringFin n) (getF w 0 16)) = false := by
    rcases hno with rfl | hno
    · rfl
    · rw [hno, Bool.and_false]
  refine answers_of (exec_doorbellArrival hr hb hp hd3 h6 hn w full) ?_
  rw [if_neg (by simp [hbar])]
  obtain ⟨hset, hring⟩ := ringErr_sets s (f := Fld.hifStatDbErr) (by decide) (n := n) (by omega)
  exact ⟨hset, hring, ringErr_onlyFields s _ n⟩

/-! ### Doorbells as they are taken (R207, R208) -/

/-- The state whose ring has no doorbell left to take. -/
def State.doorbellGone (s : State) (n : Fin 24) : State := s.modRing n (fun r => { r with doorbell := none })

theorem doorbellGone_doorbell (s : State) (n : Fin 24) : (s.doorbellGone n).hif.rings[n].doorbell = none := congrArg RingSt.doorbell (upd_self ..)

/-- The index that the host owns: the producer's of a command ring, the consumer's of any other. -/
def hostIndex (n : Fin 24) : FieldRef := if n.val < 8 then Fld.hifRingHeadProducer n.val else Fld.hifRingTailConsumer n.val

theorem exec_doorbellTake {s : State} {n : Fin 24} {i : Nat} (hr : s.runs = true) (hpst : s.pst = 0) (hdb : s.hif.rings[n].doorbell = some i)
    (hok : s.doorbellOk n i = true) : exec (.doorbellTake n) s =
      .next (if 8 ≤ n.val ∧ n.val < 16 then ((s.doorbellGone n).put (hostIndex n) i).putWaiting (Fin.ofNat 8 n.val)
        else (s.doorbellGone n).put (hostIndex n) i) := by
  have hstill : (s.doorbellGone n).doorbellOk n i = true := hok
  unfold State.doorbellGone at hstill ⊢
  change execDoorbellTake n s = _
  rw [execDoorbellTake, running_of_runs hr]
  simp only [hdb, hpst, hstill, hostIndex]
  by_cases hcmd : n.val < 8
  · simp [hcmd, show ¬ 8 ≤ n.val by omega]
  · simp [hcmd, show 8 ≤ n.val by omega]

theorem doorbellTaken (s : State) {n : Fin 24} {i : Nat} (hi : i < 2 ^ 16) :
    ((s.doorbellGone n).put (hostIndex n) i).hif.rings[n].doorbell = none ∧
      (if n.val < 8 then ((s.doorbellGone n).put (hostIndex n) i).prod n = i else ((s.doorbellGone n).put (hostIndex n) i).cons n = i) := by
  refine ⟨(congrArg (fun h : Hif => h.rings[n].doorbell) (State.put_hif ..)).trans (doorbellGone_doorbell s n), ?_⟩
  have hset (f : FieldRef) (hf : f.lo + f.width ≤ 32) (hw : f.width = 16) : ((s.doorbellGone n).put f i).get f = i := by
    rw [State.get_put_self _ _ _ hf, hw, Nat.mod_eq_of_lt hi]
  unfold hostIndex
  split
  · exact hset (Fld.hifRingHeadProducer n.val) (by simp) rfl
  · exact hset (Fld.hifRingTailConsumer n.val) (by simp) rfl

theorem doorbellTake_moves (s : State) (n : Fin 24) (i : Nat) (hr : s.runs = true) (hpst : s.pst = 0) (hdb : s.hif.rings[n].doorbell = some i)
    (hok : s.doorbellOk n i = true) (hi : i < 2 ^ 16) (hkind : n.val < 8 ∨ 16 ≤ n.val) : answers (.doorbellTake n) s fun t =>
      t.hif.rings[n].doorbell = none ∧ (if n.val < 8 then t.prod n = i else t.cons n = i) ∧
      onlyFields [Fld.hifRingHeadProducer n.val, Fld.hifRingTailConsumer n.val] (s.modHif (fun _ => t.hif)) t := by
  refine answers_of ((exec_doorbellTake hr hpst hdb hok).trans (congrArg Host.Outcome.next (if_neg (by omega)))) ?_
  obtain ⟨hgone, hindex⟩ := doorbellTaken s (n := n) hi
  refine ⟨hgone, hindex, onlyFields_put (s.doorbellGone n) (hostIndex n) i ?_⟩
  unfold hostIndex
  split <;> simp

theorem doorbellTake_completions (s : State) (n : Fin 24) (i : Nat) (hr : s.runs = true) (hpst : s.pst = 0) (hdb : s.hif.rings[n].doorbell = some i)
    (hok : s.doorbellOk n i = true) (hi : i < 2 ^ 16) (h8 : 8 ≤ n.val) (h16 : n.val < 16)
    (hwait : s.hif.rings[cmdRing (Fin.ofNat 8 n.val)].cplWait = []) : answers (.doorbellTake n) s fun t =>
      t.hif.rings[n].doorbell = none ∧ t.cons n = i := by
  refine answers_of ((exec_doorbellTake hr hpst hdb hok).trans (congrArg Host.Outcome.next (if_pos ⟨h8, h16⟩))) ?_
  obtain ⟨hgone, hindex⟩ := doorbellTaken s (n := n) hi
  rw [if_neg (by omega)] at hindex
  have hne : cmdRing (Fin.ofNat 8 n.val) ≠ n := by
    intro he
    have hval := cmdRing_val (Fin.ofNat 8 n.val)
    rw [he] at hval
    have := (Fin.ofNat 8 n.val).isLt
    omega
  have hnone : ((s.doorbellGone n).put (hostIndex n) i).hif.rings[cmdRing (Fin.ofNat 8 n.val)].cplWait = [] :=
    (congrArg (fun h : Hif => h.rings[cmdRing (Fin.ofNat 8 n.val)].cplWait) (State.put_hif ..)).trans ((congrArg RingSt.cplWait (upd_ne _ _ _ _ hne)).trans hwait)
  have hstay (t : State) (r : Fin 8) (h : t.hif.rings[cmdRing r].cplWait = []) : t.putWaiting r = t := by
    rw [State.putWaiting, h]
    rfl
  rw [hstay _ _ hnone]
  exact ⟨hgone, hindex⟩

/-! ### Signals (R231) -/

theorem ringVector_lt {s : State} {n : Fin 24} {v : Nat} (h : s.ringVector n = some v) : v < 32 := by
  unfold State.ringVector at h
  extract_lets k w at h
  split at h
  · cases h
    exact getF_lt w (8 * k) 5
  · nomatch h

theorem msixSend_signals (s : State) (n : Fin 24) (v : Nat) (ha : s.alive = true) (hun : s.hif.rings[n].unsignalled = true) (hopen : s.hostOpen = true)
    (hacc : s.hif.accepts = true) (hen : s.hif.msixEnable = true) (hmask : s.hif.msixMask = false) (hv : s.ringVector n = some v)
    (hvec : s.hif.msix[Fin.ofNat 32 v].masked = false) : answers (.msixSend n) s fun t =>
      t.out = .msix v s.hif.msix[Fin.ofNat 32 v].addr.toNat s.hif.msix[Fin.ofNat 32 v].data :: s.out ∧ t.hif.rings[n].unsignalled = false ∧
      { t with hif := s.hif, out := s.out } = s := by
  have hnum : (Fin.ofNat 32 v).val = v := Nat.mod_eq_of_lt (ringVector_lt hv)
  have hsend : s.sendVector v = s.emit (.msix v s.hif.msix[Fin.ofNat 32 v].addr.toNat s.hif.msix[Fin.ofNat 32 v].data) := by
    unfold State.sendVector
    have hclear : (s.hif.msixMask || s.hif.msix[Fin.ofNat 32 v].masked) = false := by rw [hmask, hvec, Bool.or_self]
    extract_lets x e
    rw [show (s.hif.msixMask || e.masked) = false from hclear, if_neg Bool.false_ne_true]
    exact congrArg (fun k => s.emit (.msix k e.addr.toNat e.data)) hnum
  have hsignal : s.signalRing n = (s.sendVector v).modRing n (fun r => { r with unsignalled := false }) := by
    rw [State.signalRing, if_pos (by rw [hun, hopen, hacc, hen]; rfl), hv]
  have hexec : exec (.msixSend n) s = .next (s.signalRing n) := exec_live ha
  rw [hsignal, hsend] at hexec
  exact answers_of hexec ⟨rfl, congrArg RingSt.unsignalled (upd_self ..), rfl⟩

/-! ### What signals and records leave of the rings' own data -/

theorem upd_upd {α : Type} {n : Nat} (v : Vector α n) (i : Fin n) (f g : α → α) : upd (upd v i f) i g = upd v i (fun x => g (f x)) := by
  simp [upd]

theorem sendVector_hif (s : State) (v : Nat) : ∃ m, (s.sendVector v).hif = { s.hif with msix := m } := by
  unfold State.sendVector
  extract_lets i e
  split
  · exact ⟨_, rfl⟩
  · exact ⟨s.hif.msix, rfl⟩
theorem post_hif (s : State) (w : HostWrite) : ∃ q, (s.post w).hif = { s.hif with outq := q } := by
  unfold State.post
  split
  · refine ⟨s.hif.outq, ?_⟩
    split <;> rfl
  · exact ⟨_, rfl⟩

/-- An event of a ring touches that ring's signal and the pending bits of MSI-X alone. -/
theorem ringEvent_hif (s : State) (n : Fin 24) :
    ∃ b m, (s.ringEvent n).hif = { s.hif with rings := upd s.hif.rings n (fun r => { r with unsignalled := b }), msix := m } := by
  unfold State.ringEvent
  extract_lets u
  have hu : u.hif = { s.hif with rings := upd s.hif.rings n (fun r => { r with unsignalled := true }) } := rfl
  have hwaits : ∃ b m, u.hif = { s.hif with rings := upd s.hif.rings n (fun r => { r with unsignalled := b }), msix := m } := ⟨true, s.hif.msix, hu⟩
  split
  · unfold State.signalRing
    split
    · split
      · next v _ =>
        obtain ⟨m, hm⟩ := sendVector_hif u v
        refine ⟨false, m, ?_⟩
        have hsent : ((u.sendVector v).modRing n (fun r => { r with unsignalled := false })).hif =
          { (u.sendVector v).hif with rings := upd (u.sendVector v).hif.rings n (fun r => { r with unsignalled := false }) } := rfl
        rw [hsent, hm, hu, upd_upd]
      · exact hwaits
    · exact hwaits
  · exact hwaits

theorem ringEvent_rings (s : State) (n : Fin 24) : ∃ b, (s.ringEvent n).hif.rings = upd s.hif.rings n (fun r => { r with unsignalled := b }) := by
  obtain ⟨b, m, h⟩ := ringEvent_hif s n
  exact ⟨b, congrArg Hif.rings h⟩

theorem post_rings (s : State) (w : HostWrite) : (s.post w).hif.rings = s.hif.rings := by
  obtain ⟨q, h⟩ := post_hif s w
  rw [h]

/-- A record written into a ring takes the ring's next sequence number. -/
theorem writeRec_rings (s : State) (n : Fin 24) (r : Rec) :
    ∃ b, (s.writeRec n r).hif.rings = upd s.hif.rings n (fun q => { q with seq := q.seq + 1, unsignalled := b }) := by
  unfold State.writeRec
  extract_lets seq e ws u
  obtain ⟨b, hb⟩ := ringEvent_rings (u.post (.record n e.1 ws)) n
  have hu : u.hif.rings = upd s.hif.rings n (fun q => { q with seq := q.seq + 1 }) :=
    congrArg (fun h : Hif => upd h.rings n (fun q => { q with seq := q.seq + 1 })) (takeEntry_hif s n)
  refine ⟨b, ?_⟩
  rw [hb, post_rings, hu, upd_upd]

theorem writeRec_ring_ne (s : State) {n m : Fin 24} (r : Rec) (h : m ≠ n) : (s.writeRec n r).hif.rings[m] = s.hif.rings[m] := by
  obtain ⟨b, hb⟩ := writeRec_rings s n r
  exact (congrArg (fun v : Vector RingSt 24 => v[m]) hb).trans (upd_ne _ _ _ _ h)

theorem reportDrops_ring_ne (s : State) {n m : Fin 24} (h : m ≠ n) : (s.reportDrops n).hif.rings[m] = s.hif.rings[m] := by
  unfold State.reportDrops
  extract_lets q u
  split
  · rfl
  · exact (writeRec_ring_ne u _ h).trans (upd_ne _ _ _ _ h)

theorem toRing_ring_ne (s : State) {n m : Fin 24} (r : Rec) (h : m ≠ n) : (s.toRing n r).hif.rings[m] = s.hif.rings[m] := by
  unfold State.toRing
  extract_lets u
  refine Eq.trans ?_ (reportDrops_ring_ne s h)
  split
  · exact (congrArg (fun x : Hif => x.rings[m]) (State.inc_hif ..)).trans (upd_ne _ _ _ _ h)
  · exact writeRec_ring_ne u r h

theorem recRing_is_event {s : State} {typ : Nat} {n : Fin 24} (h : s.recRing typ = some n) : n.val < 20 :=
  (show ∀ m ∈ [16, 17, 18, 19].map ringFin, m.val < 20 by decide) n (List.mem_of_find?_eq_some h)

theorem bufferRec_rings (s : State) (r : Rec) : (s.bufferRec r).hif.rings = s.hif.rings := by
  unfold State.bufferRec
  split <;> rfl

/-- A record touches no ring but the event rings. -/
theorem record_ring (s : State) (typ : Nat) (body : List Word) {m : Fin 24} (hm : 20 ≤ m.val) : (s.record typ body).hif.rings[m] = s.hif.rings[m] := by
  have hbuffer (r : Rec) : (s.bufferRec r).hif.rings[m] = s.hif.rings[m] := congrArg (fun v : Vector RingSt 24 => v[m]) (bufferRec_rings s r)
  unfold State.record State.postRec
  split
  · unfold State.takeRec
    split
    · exact hbuffer _
    · split
      · rfl
      · next n hn =>
        have hne : m ≠ n := by
          rintro rfl
          have := recRing_is_event hn
          omega
        split
        · exact toRing_ring_ne s _ hne
        · exact hbuffer _
  · split
    · exact congrArg (fun h : Hif => h.rings[m]) (sendReq_hif ..)
    · exact hbuffer _

/-! ### Reports of drops (R225, R229) -/

theorem takeEntry_moves (s : State) (n : Fin 24) : (s.takeEntry n).2.2.prod n = (s.prod n + 1) % s.ringSize n % 2 ^ 16 := by
  have hput : (s.put (Fld.hifRingHeadProducer n.val) ((s.prod n + 1) % s.ringSize n)).prod n = (s.prod n + 1) % s.ringSize n % 2 ^ 16 :=
    State.get_put_self _ _ _ (by simp)
  unfold State.takeEntry
  extract_lets p ph p' u v
  have hv : v.prod n = u.prod n := by
    unfold v
    split
    · exact State.get_put_ne u (Fld.hifRingHeadPhase n.val) (Fld.hifRingHeadProducer n.val) (b2n !ph) (by simp)
    · rfl
  exact hv.trans hput

theorem post_get (s : State) (w : HostWrite) (f : FieldRef) : (s.post w).get f = s.get f := by
  unfold State.post
  split
  · split <;> rfl
  · rfl

theorem writeRec_prod (s : State) (n : Fin 24) (r : Rec) : (s.writeRec n r).prod n = (s.prod n + 1) % s.ringSize n % 2 ^ 16 := by
  unfold State.writeRec
  extract_lets seq e ws u
  rw [State.prod, ringEvent_get, post_get]
  exact takeEntry_moves s n

/-- The count of a ring's drops has been told. -/
def State.dropsTold (s : State) (n : Fin 24) : State := s.modRing n (fun q => { q with drops := 0 })
/-- The OVERLOAD record of SOURCE 1 that a ring owes. -/
def State.dropsRec (s : State) (n : Fin 24) : Rec :=
  (s.dropsTold n).mkRec 0x0E (overloadBody n.val 1 s.hif.rings[n].drops s.hif.rings[n].dropFirst s.hif.rings[n].dropLast)

theorem reportDrops_owed {s : State} {n : Fin 24} (hdrops : s.hif.rings[n].drops ≠ 0) (hon : s.ringOn n = true) (hroom : s.ringRoom n ≠ 0) :
    s.reportDrops n = (s.dropsTold n).writeRec n (s.dropsRec n) := by
  refine if_neg ?_
  rw [beq_false_of_ne hdrops, beq_false_of_ne hroom, hon]
  exact Bool.false_ne_true

theorem overloadPost_reports (s : State) (n : Fin 24) (ha : s.alive = true) (hacc : s.hif.accepts = true) (hd3 : s.pcie.d3hot = false)
    (hdrops : s.hif.rings[n].drops ≠ 0) (hon : s.ringOn n = true) (hroom : 0 < s.ringRoom n) : answers (.overloadPost n) s fun t =>
    t.hif.rings[n].drops = 0 ∧ t.hif.rings[n].seq = s.hif.rings[n].seq + 1 ∧ t.prod n = (s.prod n + 1) % s.ringSize n % 2 ^ 16 ∧ logsOnly s t := by
  have hlogs := (logsOnly.refl s).reportDrops n
  have hexec : exec (.overloadPost n) s = .next (s.reportDrops n) := (exec_live ha).trans (congrArg Host.Outcome.next (if_pos (by simp [hacc, hd3])))
  rw [reportDrops_owed hdrops hon (by omega)] at hexec hlogs
  obtain ⟨b, hb⟩ := writeRec_rings (s.dropsTold n) n (s.dropsRec n)
  have hring : ((s.dropsTold n).writeRec n (s.dropsRec n)).hif.rings[n] =
      { s.hif.rings[n] with drops := 0, seq := s.hif.rings[n].seq + 1, unsignalled := b } := by
    refine (congrArg (fun v : Vector RingSt 24 => v[n]) hb).trans ((upd_self ..).trans ?_)
    rw [show (s.dropsTold n).hif.rings[n] = { s.hif.rings[n] with drops := 0 } from upd_self ..]
  exact answers_of hexec ⟨congrArg RingSt.drops hring, congrArg RingSt.seq hring, writeRec_prod (s.dropsTold n) n _, hlogs⟩

theorem captureDropReport_reports (s : State) (r : Fin 4) (ha : s.alive = true) (hdrops : s.hif.rings[capRing r].drops ≠ 0)
    (hon : s.ringOn (capRing r) = true) (hroom : 0 < s.ringRoom (capRing r)) (hout : s.outBytes + 4160 ≤ 65536) :
    answers (.captureDropReport r) s fun t => t.hif.rings[capRing r].drops = 0 ∧ logsOnly s t := by
  have hdue : (s.hif.rings[capRing r].drops == 0 || !s.ringOn (capRing r) || s.ringRoom (capRing r) == 0 || decide (65536 < s.outBytes + 4160)) = false := by
    rw [beq_false_of_ne hdrops, hon, beq_false_of_ne (show s.ringRoom (capRing r) ≠ 0 by omega), decide_eq_false (by omega)]
    rfl
  have hexec : exec (.captureDropReport r) s = .next ((s.dropsTold (capRing r)).record 0x0E (overloadBody (capRing r).val 2 s.hif.rings[capRing r].drops
      s.hif.rings[capRing r].dropFirst s.hif.rings[capRing r].dropLast)) := by
    change execCaptureDropReport r s = _
    rw [execCaptureDropReport, exec_live ha]
    exact congrArg Host.Outcome.next (if_neg (by rw [hdue]; exact Bool.false_ne_true))
  refine answers_of hexec ⟨?_, ((logsOnly.refl s).modRing _ _).record _ _⟩
  · rw [record_ring _ _ _ (by rw [capRing_val]; omega)]
    exact congrArg RingSt.drops (upd_self ..)

/-- Settles O19: the enables of the engine and of a ring, doorbells as they arrive and as they are taken, signals, and the two reports of drops. -/
theorem ringsAndDoorbells : Obligations.RingsAndDoorbells := by
  unfold Obligations.RingsAndDoorbells
  exact ⟨hifEngineEnable_at_head, hifEngineEnable_elsewhere, fun s p w hs _ hw => hifEngineDisable_idle s p w hs hw, hifEngineDisable_in_use,
    ringEnable_starts, ringEnable_refused, ringDisable_stops, doorbellArrival_noted, doorbellArrival_refused, doorbellTake_moves, doorbellTake_completions,
    msixSend_signals, overloadPost_reports, captureDropReport_reports⟩

end Sys2Proof.Machine
end

section
/-! What a completion leaves of the ring engine's own data, and what a state that a descriptor ends in may differ by. -/

namespace Sys2Proof.Machine

/-! ### A completion and the ring engine (R215 to R220) -/

/-- The ring engine's own data are as before, but for the rings' own, the writes that wait, and what MSI-X has pending. -/
def HifTold (s t : State) : Prop := ∃ v m q, t.hif = { s.hif with rings := v, msix := m, outq := q }

theorem HifTold.refl (s : State) : HifTold s s := ⟨s.hif.rings, s.hif.msix, s.hif.outq, rfl⟩
theorem HifTold.trans {s t u : State} (h : HifTold s t) (k : HifTold t u) : HifTold s u := by
  obtain ⟨v, m, q, ht⟩ := h
  obtain ⟨v', m', q', hu⟩ := k
  exact ⟨v', m', q', by rw [hu, ht]⟩
theorem HifTold.post (s : State) (w : HostWrite) : HifTold s (s.post w) := by
  obtain ⟨q, h⟩ := post_hif s w
  exact ⟨s.hif.rings, s.hif.msix, q, h⟩
theorem HifTold.ringEvent (s : State) (n : Fin 24) : HifTold s (s.ringEvent n) := by
  obtain ⟨b, m, h⟩ := ringEvent_hif s n
  exact ⟨_, m, s.hif.outq, h⟩
theorem HifTold.takeEntry (s : State) (n : Fin 24) : HifTold s (s.takeEntry n).2.2 :=
  ⟨s.hif.rings, s.hif.msix, s.hif.outq, takeEntry_hif s n⟩
theorem HifTold.putCpl (s : State) (ring : Fin 8) (c : CplWait) : HifTold s (s.putCpl ring c) :=
  ((HifTold.takeEntry s (cplRing ring)).trans (.post _ _)).trans (.ringEvent _ _)
theorem HifTold.writeCpl (s : State) (ring : Fin 8) (c : CplWait) : HifTold s (s.writeCpl ring c) := by
  unfold State.writeCpl
  extract_lets n
  split
  · exact ⟨s.hif.rings, s.hif.msix, s.hif.outq, State.inc_hif ..⟩
  · split
    · exact ⟨_, s.hif.msix, s.hif.outq, rfl⟩
    · exact .putCpl s ring c

/-- A completion leaves the RESTORE that waits for its blob, and learns of no CANCEL that was not on its way. -/
theorem complete_hif (s : State) (d : Desc) (r : Result) :
    (s.complete d r).hif.restore = s.hif.restore ∧ ∀ c ∈ (s.complete d r).hif.cancels, ∃ x ∈ s.hif.cancels, x.d = c.d := by
  have hdrop : (s.dropRegion d).hif.restore = s.hif.restore ∧ ∀ c ∈ (s.dropRegion d).hif.cancels, ∃ x ∈ s.hif.cancels, x.d = c.d :=
    ⟨rfl, fun c hc => ⟨c, hc, rfl⟩⟩
  unfold State.complete
  extract_lets u
  have hu : u.hif.restore = s.hif.restore ∧ ∀ c ∈ u.hif.cancels, ∃ x ∈ s.hif.cancels, x.d = c.d := hdrop
  split
  · split
    · exact hu
    · next t _ =>
      extract_lets e
      have he : e.hif.restore = s.hif.restore ∧ ∀ c ∈ e.hif.cancels, ∃ x ∈ s.hif.cancels, x.d = c.d := by
        refine ⟨hu.1, fun c hc => ?_⟩
        obtain ⟨y, hy, rfl⟩ := List.mem_map.mp hc
        obtain ⟨x, hx, hd⟩ := hu.2 y hy
        refine ⟨x, hx, hd.trans ?_⟩
        split <;> rfl
      split
      · exact he
      · split
        · exact he
        · obtain ⟨v, m, q, h⟩ := HifTold.writeCpl e d.ring (e.cplOf d r)
          rw [h]
          exact he
  · have h : (u.answer d r []).hif = u.hif := sendMsg_hif ..
    rw [h]
    exact hu

/-- A change of the ring engine's data that leaves whether completions are owed and whether the host takes them. -/
theorem EndsAlike.modHif {d : Desc} {a s : State} (h : EndsAlike d a s) (f : Hif → Hif) (hs : (f s.hif).started = s.hif.started)
    (ha : (f s.hif).accepts = s.hif.accepts) : EndsAlike d a (s.modHif f) :=
  h.trans ⟨⟨rfl, rfl, rfl, rfl, ha, congrArg (fun l : List StartedDesc => (l.find? (fun t => t.d.same d)).map (fun x => (x.orphan, x.dropped))) hs,
    rfl, fun _ _ => rfl⟩, rfl⟩

end Sys2Proof.Machine
end

section
/-! Descriptors from their fetch to their start (R196, R211, R212, R233, R263, R867), NOP, FENCE and CANCEL (R237 to R239), and O24. -/

namespace Sys2Proof.Machine

/-! ### The fetch (R196, R233, R263, R867) -/

theorem exec_descriptorFetchComplete {s : State} {r : Fin 8} {ws : List Word} (hr : s.runs = true) (hnext : s.nextFetch = some r) (h6 : s.compat6 = false)
    (hws : ws.length = 8) : exec (.descriptorFetchComplete ws) s = .next (((((s.fetchRead r).put (Fld.hifRingTailConsumer (cmdRing r).val)
      ((s.cons (cmdRing r) + 1) % s.ringSize (cmdRing r))).modHif (fun h => { h with fetchNo := s.hif.fetchNo + 1 })).modRing (cmdRing r)
      (fun q => { q with held := q.held ++ [⟨⟨r, s.cons (cmdRing r), ws⟩, s.hif.fetchNo⟩] })).ringEvent (cmdRing r)) := by
  have hwords : ((ws.take (if s.compat6 then 6 else 8)) ++ List.replicate 8 0).take 8 = ws := by
    rw [h6, if_neg Bool.false_ne_true, List.take_of_length_le hws.le, List.take_append_of_le_length hws.ge, List.take_of_length_le hws.le]
  change execDescriptorFetchComplete ws s = _
  rw [execDescriptorFetchComplete, running_of_runs hr]
  simp only [hnext, hwords]

/-- An entry has been read from a command ring; its event is still to signal. -/
def State.entryTaken (s : State) (r : Fin 8) (ws : List Word) : State :=
  (((s.fetchRead r).put (Fld.hifRingTailConsumer (cmdRing r).val) ((s.cons (cmdRing r) + 1) % s.ringSize (cmdRing r))).modHif
    (fun h => { h with fetchNo := s.hif.fetchNo + 1 })).modRing (cmdRing r)
      (fun q => { q with held := q.held ++ [⟨⟨r, s.cons (cmdRing r), ws⟩, s.hif.fetchNo⟩] })

theorem entryTaken_cons (s : State) (r : Fin 8) (ws : List Word) :
    (s.entryTaken r ws).cons (cmdRing r) = (s.cons (cmdRing r) + 1) % s.ringSize (cmdRing r) % 2 ^ 16 := by
  rw [State.cons, State.entryTaken, State.modRing_get, State.modHif_get]
  exact State.get_put_self _ _ _ (by simp)

theorem entryTaken_regsOnly (s : State) (r : Fin 8) (ws : List Word) : regsOnly [Reg.hifRingTail (cmdRing r).val] s (s.entryTaken r ws) := by
  intro off h
  rw [State.entryTaken, State.modRing_rd, State.modHif_rd]
  exact regsOnly_put (s.fetchRead r) (Fld.hifRingTailConsumer (cmdRing r).val) _ (by simp) off h

theorem entryTaken_held (s : State) (r : Fin 8) (ws : List Word) :
    (s.entryTaken r ws).hif.rings[cmdRing r].held = s.hif.rings[cmdRing r].held ++ [⟨⟨r, s.cons (cmdRing r), ws⟩, s.hif.fetchNo⟩] :=
  congrArg RingSt.held (upd_self ..)

theorem entryBytes_cmdRing {s : State} (h6 : s.compat6 = false) (r : Fin 8) : s.entryBytes (cmdRing r) = 32 := by
  rw [State.entryBytes, if_pos (by rw [cmdRing_val]; exact r.isLt), if_neg (by simp [h6])]

theorem entryTaken_reads {s : State} (h6 : s.compat6 = false) (r : Fin 8) (ws : List Word) :
    Out.hostRead (s.ringBase (cmdRing r) + s.cons (cmdRing r) * 32) 32 ∈ (s.entryTaken r ws).out := by
  have hout : (s.entryTaken r ws).out = .hostRead (s.ringBase (cmdRing r) + s.cons (cmdRing r) * s.entryBytes (cmdRing r)) (s.entryBytes (cmdRing r)) :: s.out := rfl
  rw [hout, entryBytes_cmdRing h6]
  exact List.mem_cons_self

/-- The ring engine's data and what has gone out are all that two states differ in. -/
def HifAndOut (s t : State) : Prop := { t with hif := s.hif, out := s.out } = s

theorem sendVector_hifAndOut (s : State) (v : Nat) : HifAndOut s (s.sendVector v) := by
  unfold State.sendVector
  extract_lets i e
  split
  · exact rfl
  · exact rfl

/-- Signals touch the ring engine and what has gone out alone. -/
theorem signalRing_hifAndOut (s : State) (n : Fin 24) : HifAndOut s (s.signalRing n) := by
  unfold State.signalRing
  split
  · split
    · exact sendVector_hifAndOut _ _
    · exact rfl
  · exact rfl

theorem ringEvent_hifAndOut (s : State) (n : Fin 24) : HifAndOut s (s.ringEvent n) := by
  unfold State.ringEvent
  extract_lets u
  split
  · exact congrArg (fun t : State => { t with hif := s.hif }) (signalRing_hifAndOut u n)
  · exact rfl

theorem descriptorFetchComplete_takes (s : State) (r : Fin 8) (ws : List Word) (hr : s.runs = true) (hnext : s.nextFetch = some r)
    (h6 : s.compat6 = false) (hws : ws.length = 8) : answers (.descriptorFetchComplete ws) s fun t =>
    t.cons (cmdRing r) = (s.cons (cmdRing r) + 1) % s.ringSize (cmdRing r) % 2 ^ 16 ∧
    t.hif.rings[cmdRing r].held = s.hif.rings[cmdRing r].held ++ [⟨⟨r, s.cons (cmdRing r), ws⟩, s.hif.fetchNo⟩] ∧ t.hif.fetchNo = s.hif.fetchNo + 1 ∧
    Out.hostRead (s.ringBase (cmdRing r) + s.cons (cmdRing r) * 32) 32 ∈ t.out ∧ regsOnly [Reg.hifRingTail (cmdRing r).val] s t ∧
    { t with regs := s.regs, hif := s.hif, out := s.out } = s := by
  have hexec := exec_descriptorFetchComplete hr hnext h6 hws
  rw [← State.entryTaken] at hexec
  have hcons := entryTaken_cons s r ws
  have hregs := entryTaken_regsOnly s r ws
  have hheld := entryTaken_held s r ws
  have hread := entryTaken_reads h6 r ws
  have hno : (s.entryTaken r ws).hif.fetchNo = s.hif.fetchNo + 1 := rfl
  have hrest : { s.entryTaken r ws with regs := s.regs, hif := s.hif, out := s.out } = s := rfl
  generalize s.entryTaken r ws = u at hexec hcons hregs hheld hread hno hrest
  obtain ⟨b, m, hhif⟩ := ringEvent_hif u (cmdRing r)
  refine answers_of hexec ⟨?_, ?_, ?_, (Keeps.refl u).ringEvent _ |>.mem_out hread, fun off h => ?_, ?_⟩
  · rw [State.cons, ringEvent_get]
    exact hcons
  · rw [hhif]
    exact (congrArg RingSt.held (upd_self ..)).trans hheld
  · rw [hhif]
    exact hno
  · rw [State.rd, ringEvent_regs]
    exact hregs off h
  · exact (congrArg (fun t : State => { t with regs := s.regs, hif := s.hif, out := s.out }) (ringEvent_hifAndOut u _)).trans hrest

theorem ringCtl_tail_apart (n : Fin 24) : (Reg.hifRingCtl n.val ∉ logRegs ∧ Reg.hifRingTail n.val ∉ logRegs) ∧
    Reg.hifRingCtl n.val ∉ [Reg.hifStat] ∧ Reg.hifRingTail n.val ∉ [Reg.hifStat] := by revert n; decide

/-- An entry could not be read: its ring is halted and its error noted; the completion is still to write. -/
def State.fetchHalted (s : State) (r : Fin 8) : State := (s.fetchRead r).putB (Fld.hifRingCtlHalted (cmdRing r).val) true
def State.fetchFailed (s : State) (r : Fin 8) : State := (s.fetchHalted r).ringErr Fld.hifStatFetchErr (cmdRing r).val

theorem fetchHalted_cons (s : State) (r : Fin 8) : (s.fetchHalted r).get (Fld.hifRingTailConsumer (cmdRing r).val) = s.cons (cmdRing r) :=
  State.get_put_ne (s.fetchRead r) (Fld.hifRingCtlHalted (cmdRing r).val) (Fld.hifRingTailConsumer (cmdRing r).val) (b2n true) (.inl (by simp))
theorem fetchHalted_halted (s : State) (r : Fin 8) : (s.fetchHalted r).is (Fld.hifRingCtlHalted (cmdRing r).val) = true :=
  State.is_putB _ _ _ (by simp) rfl

theorem exec_descriptorFetchFail {s : State} {r : Fin 8} (hr : s.runs = true) (hnext : s.nextFetch = some r) : exec .descriptorFetchFail s =
    .next ((s.fetchFailed r).writeCpl r ⟨s.me, 0, 0, s.cons (cmdRing r), { status := stBadDesc, detail := dtDmaRead }⟩) := by
  change execDescriptorFetchFail s = _
  rw [execDescriptorFetchFail, running_of_runs hr]
  simp only [hnext]
  rfl

theorem descriptorFetchFail_halts (s : State) (r : Fin 8) (hr : s.runs = true) (hnext : s.nextFetch = some r) : answers .descriptorFetchFail s fun t =>
    t.is (Fld.hifRingCtlHalted (cmdRing r).val) = true ∧ t.is Fld.hifStatFetchErr = true ∧ t.get Fld.hifStatErrRing = (cmdRing r).val ∧
    t.cons (cmdRing r) = s.cons (cmdRing r) ∧ t.hif.started = s.hif.started := by
  have hstands : onlyRegs [Reg.hifStat] (s.fetchHalted r) (s.fetchFailed r) := ringErr_onlyRegs _ (by decide) _
  obtain ⟨hset, hring⟩ : (s.fetchFailed r).is Fld.hifStatFetchErr = true ∧ (s.fetchFailed r).get Fld.hifStatErrRing = (cmdRing r).val :=
    ringErr_sets _ (by decide) (by omega)
  have hstarted : (s.fetchFailed r).hif.started = s.hif.started := congrArg (·.hif.started) hstands.1
  obtain ⟨⟨hctl, htail⟩, hctlStat, htailStat⟩ := ringCtl_tail_apart (cmdRing r)
  have hhalted : (s.fetchFailed r).is (Fld.hifRingCtlHalted (cmdRing r).val) = true := by
    rw [State.is, get_of_regsOnly hstands.2 _ hctlStat]
    exact fetchHalted_halted s r
  have hcons := (get_of_regsOnly hstands.2 (Fld.hifRingTailConsumer (cmdRing r).val) htailStat).trans (fetchHalted_cons s r)
  have hexec := exec_descriptorFetchFail hr hnext
  generalize s.fetchFailed r = e at *
  generalize (⟨s.me, 0, 0, s.cons (cmdRing r), { status := stBadDesc, detail := dtDmaRead }⟩ : CplWait) = c at hexec
  have hlogs : logsOnly e (e.writeCpl r c) := (logsOnly.refl e).writeCpl r c
  obtain ⟨v, m, q, hhif⟩ := HifTold.writeCpl e r c
  refine answers_of hexec ⟨?_, ?_, ?_, ?_, ?_⟩
  · rw [State.is, get_of_regsOnly hlogs.2 _ hctl]
    exact hhalted
  · rw [State.is, get_of_regsOnly hlogs.2 _ (by decide)]
    exact hset
  · rw [get_of_regsOnly hlogs.2 _ (by decide)]
    exact hring
  · rw [State.cons, get_of_regsOnly hlogs.2 _ htail]
    exact hcons
  · rw [hhif]
    exact hstarted

/-! ### The start (R201, R211, R212, R237) -/

/-- A descriptor just started. -/
def HeldDesc.begins (h : HeldDesc) : StartedDesc := ⟨h.d, h.no, startCommits h.d.opcode, false, [], { status := stOK }, false, false⟩

/-- The oldest descriptor of a ring has started. -/
def State.begins (s : State) (r : Fin 8) (h : HeldDesc) (rest : List HeldDesc) : State :=
  (s.modRing (cmdRing r) (fun q => { q with held := rest })).modHif (fun x => { x with started := x.started ++ [h.begins] })

section
variable {s : State} {r : Fin 8} {h : HeldDesc} {rest : List HeldDesc}

/-- What the start of a descriptor comes to once it has left the descriptors held. -/
theorem exec_descriptorStart (hr : s.runs = true) (hheld : s.hif.rings[cmdRing r].held = h :: rest) (hgo : s.startable r h = true) :
    exec (.descriptorStart r) s = .next (match s.judge h.d with
      | some t => (s.begins r h rest).bad h.d t
      | none =>
        if h.d.memberScoped && !s.isMember h.d.member then (s.begins r h rest).finish h.d stNotFound
        else if h.d.laceScoped && s.is Fld.laceEpochBroken then (s.begins r h rest).finish h.d stPeerLost
        else s.begins r h rest) := by
  change execDescriptorStart r s = _
  rw [execDescriptorStart, running_of_runs hr]
  simp only [hheld, hgo, Bool.not_true, Bool.false_eq_true, if_false]
  rfl

theorem begins_findStarted (hnew : s.findStarted h.d = none) : (s.begins r h rest).findStarted h.d = some h.begins := by
  have hlist : (s.begins r h rest).hif.started = s.hif.started ++ [h.begins] := rfl
  unfold State.findStarted at hnew ⊢
  rw [hlist, List.find?_append, hnew]
  simp [HeldDesc.begins, Desc.same]

/-- A started descriptor whose ring has room for its completion can be told at once. -/
theorem begins_tellable (hgo : s.startable r h = true) (hring : h.d.ring = r) (hnew : s.findStarted h.d = none) (hacc : s.hif.accepts = true)
    (hd3 : s.pcie.d3hot = false) : tellable (s.begins r h rest) h.d := by
  unfold State.startable at hgo
  simp only [Bool.and_eq_true, State.ringOn, State.cplRoom, decide_eq_true_eq] at hgo
  obtain ⟨⟨⟨⟨-, -, hen⟩, hroom⟩, -⟩, -⟩ := hgo
  intro _
  rw [hring]
  exact ⟨⟨h.begins, begins_findStarted hnew, rfl, rfl⟩, hen, (Nat.zero_lt_of_lt hroom).ne', hacc, hd3⟩

/-- The started descriptor completes at once. -/
theorem begins_complete (hh : s.head = true) (hgo : s.startable r h = true) (hring : h.d.ring = r) (hnew : s.findStarted h.d = none)
    (hacc : s.hif.accepts = true) (hd3 : s.pcie.d3hot = false) (x : Result) :
    ended s ((s.begins r h rest).complete h.d x) h.d x ∧ logsOnly s ((s.begins r h rest).complete h.d x) := by
  have hhead : (s.begins r h rest).head = true := hh
  obtain ⟨ph, a, hm⟩ := complete_writes (s.begins r h rest) h.d x hhead (begins_tellable hgo hring hnew hacc hd3)
  refine ⟨?_, (((logsOnly.refl s).modRing _ _).modHif _).complete _ _⟩
  rw [ended, if_pos hh]
  exact ⟨ph, a, hm⟩

end

theorem descriptorStart_starts (s : State) (r : Fin 8) (h : HeldDesc) (rest : List HeldDesc) (hr : s.runs = true)
    (hheld : s.hif.rings[cmdRing r].held = h :: rest) (hgo : s.startable r h = true) (hjudge : s.judge h.d = none)
    (hmember : h.d.memberScoped = true → s.isMember h.d.member = true) (hlace : h.d.laceScoped = true → s.is Fld.laceEpochBroken = false) :
    answers (.descriptorStart r) s fun t => t.hif.rings[cmdRing r].held = rest ∧
      t.hif.started = s.hif.started ++ [⟨h.d, h.no, startCommits h.d.opcode, false, [], { status := stOK }, false, false⟩] ∧ { t with hif := s.hif } = s := by
  have hexec := exec_descriptorStart hr hheld hgo
  have hin : (h.d.memberScoped && !s.isMember h.d.member) = false := by
    cases hscope : h.d.memberScoped <;> simp [hmember, hscope]
  have hwhole : (h.d.laceScoped && s.is Fld.laceEpochBroken) = false := by
    cases hscope : h.d.laceScoped <;> simp [hlace, hscope]
  rw [hjudge] at hexec
  simp only [hin, hwhole, Bool.false_eq_true, if_false] at hexec
  exact answers_of hexec ⟨congrArg RingSt.held (upd_self ..), rfl, rfl⟩

theorem descriptorStart_malformed (s : State) (r : Fin 8) (h : HeldDesc) (rest : List HeldDesc) (dt : Nat) (hr : s.runs = true) (hh : s.head = true)
    (hheld : s.hif.rings[cmdRing r].held = h :: rest) (hgo : s.startable r h = true) (hring : h.d.ring = r) (hnew : s.findStarted h.d = none)
    (hacc : s.hif.accepts = true) (hd3 : s.pcie.d3hot = false) (hjudge : s.judge h.d = some dt) : answers (.descriptorStart r) s fun t =>
      ended s t h.d { status := stBadDesc, detail := dt } ∧ logsOnly s t := by
  have hexec := exec_descriptorStart hr hheld hgo
  rw [hjudge] at hexec
  exact answers_of hexec (begins_complete hh hgo hring hnew hacc hd3 _)

theorem descriptorStart_outside (s : State) (r : Fin 8) (h : HeldDesc) (rest : List HeldDesc) (hr : s.runs = true) (hh : s.head = true)
    (hheld : s.hif.rings[cmdRing r].held = h :: rest) (hgo : s.startable r h = true) (hring : h.d.ring = r) (hnew : s.findStarted h.d = none)
    (hacc : s.hif.accepts = true) (hd3 : s.pcie.d3hot = false) (hjudge : s.judge h.d = none) (hscope : h.d.memberScoped = true)
    (hout : s.isMember h.d.member = false) : answers (.descriptorStart r) s fun t => ended s t h.d { status := stNotFound } ∧ logsOnly s t := by
  have hexec := exec_descriptorStart hr hheld hgo
  rw [hjudge] at hexec
  simp only [hscope, hout, Bool.not_false, Bool.and_self, if_true] at hexec
  exact answers_of hexec (begins_complete hh hgo hring hnew hacc hd3 _)

/-! ### NOP and FENCE (R237, R238) -/

theorem taking_of_takes {s : State} {op : Nat} {d : Desc} (h : s.takes op d = true) (act : State → State) : s.taking op d act = act (s.atBlock d) := if_pos h

theorem nop_ends (s : State) (d : Desc) (hr : s.runs = true) (hdue : dueHere s 0x01 d) : answers (.nop d) s fun t =>
    ended s t d { status := stOK } ∧ logsOnly s t := by
  have hexec : exec (.nop d) s = .next (s.taking 0x01 d (·.finish d stOK)) := running_of_runs hr _
  rw [taking_of_takes hdue.1] at hexec
  exact answers_of hexec (atBlock_complete hdue.2 _)

theorem fence_ends (s : State) (d : Desc) (hr : s.runs = true) (hdue : dueHere s 0x02 d) : answers (.fence d) s fun t =>
    ended s t d { status := stOK } ∧ logsOnly s t := by
  have hexec : exec (.fence d) s = .next (s.taking 0x02 d (·.finish d stOK)) := running_of_runs hr _
  rw [taking_of_takes hdue.1] at hexec
  exact answers_of hexec (atBlock_complete hdue.2 _)

/-! ### CANCEL as it starts (R239) -/

/-- The started descriptors that a CANCEL of a ring and a TAG names. -/
def cancelNames (r : Fin 8) (tag : Nat) (t : StartedDesc) : Bool := t.d.ring == r && t.d.tag == tag && !t.orphan

/-- The ring and the TAG that a CANCEL names. -/
def Desc.cancelRing (d : Desc) : Fin 8 := Fin.ofNat 8 (d.f 1 0 3)
def Desc.cancelTag (d : Desc) : Nat := d.f 1 16 16

/-- The mark of a descriptor at its block leaves which started descriptor a CANCEL finds. -/
theorem atBlock_find {s : State} (hh : s.head = true) (d : Desc) (r : Fin 8) (tag : Nat) : (s.atBlock d).hif.started.find? (cancelNames r tag) =
    (s.hif.started.find? (cancelNames r tag)).map (fun t => if t.d.same d then { t with sent := true } else t) := by
  have hlist : (s.atBlock d).hif.started = s.hif.started.map (fun t => if t.d.same d then { t with sent := true } else t) := by
    rw [State.atBlock, if_pos hh]
    rfl
  have hsame : cancelNames r tag ∘ (fun t => if t.d.same d then { t with sent := true } else t) = cancelNames r tag := by
    funext t
    simp only [Function.comp_apply]
    split <;> rfl
  rw [hlist, List.find?_map, hsame]

theorem atBlock_held {s : State} (hh : s.head = true) (d : Desc) (r : Fin 8) :
    (s.atBlock d).hif.rings[cmdRing r].held = s.hif.rings[cmdRing r].held := by
  rw [State.atBlock, if_pos hh]
  rfl

/-- What CANCEL comes to at the head. -/
theorem exec_cancel {s : State} {d : Desc} (hr : s.runs = true) (hh : s.head = true) (ht : s.takes 0x03 d = true) : exec (.cancel d) s =
    .next (match (s.atBlock d).hif.started.find? (cancelNames d.cancelRing d.cancelTag) with
      | some t => if t.d.opcode == 0x03 then (s.atBlock d).finish d stCancelLate
        else (s.atBlock d).modHif (fun h => { h with cancels := h.cancels ++ [⟨d, t.d, none⟩] })
      | none => match (s.atBlock d).hif.rings[cmdRing d.cancelRing].held.find? (fun x => x.d.tag == d.cancelTag) with
        | some x => if x.d.opcode == 0x03 then (s.atBlock d).finish d stCancelLate
          else (((s.atBlock d).modRing (cmdRing d.cancelRing) (fun q => { q with held := q.held.erase x })).writeCpl d.cancelRing
            ((s.atBlock d).cplOf x.d { status := stCancelled })).finish d stOK
        | none => (s.atBlock d).finish d stNotFound) := by
  change execCancel d s = _
  rw [execCancel, running_of_runs hr, State.cond, if_pos hh, taking_of_takes ht]
  rfl

theorem cancel_of_nothing (s : State) (d : Desc) (hr : s.runs = true) (hh : s.head = true) (hdue : dueHere s 0x03 d)
    (hstarted : ∀ x ∈ s.hif.started, ¬(x.d.ring = Fin.ofNat 8 (d.f 1 0 3) ∧ x.d.tag = d.f 1 16 16 ∧ x.orphan = false))
    (hheld : ∀ x ∈ s.hif.rings[cmdRing (Fin.ofNat 8 (d.f 1 0 3))].held, x.d.tag ≠ d.f 1 16 16) : answers (.cancel d) s fun t =>
      ended s t d { status := stNotFound } ∧ logsOnly s t := by
  have hno : s.hif.started.find? (cancelNames d.cancelRing d.cancelTag) = none := by
    refine List.find?_eq_none.mpr fun x hx hname => hstarted x hx ?_
    simpa [cancelNames, Desc.cancelRing, Desc.cancelTag, and_assoc] using hname
  have hnone : s.hif.rings[cmdRing d.cancelRing].held.find? (fun x => x.d.tag == d.cancelTag) = none :=
    List.find?_eq_none.mpr fun x hx hname => hheld x hx (eq_of_beq hname)
  have hexec := exec_cancel hr hh hdue.1
  rw [atBlock_find hh, hno] at hexec
  simp only [Option.map_none, atBlock_held hh, hnone] at hexec
  exact answers_of hexec (atBlock_complete hdue.2 _)

theorem cancel_on_its_way (s : State) (d : Desc) (x : StartedDesc) (hr : s.runs = true) (hh : s.head = true) (hdue : dueHere s 0x03 d)
    (hx : s.hif.started.find? (fun t => t.d.ring == Fin.ofNat 8 (d.f 1 0 3) && t.d.tag == d.f 1 16 16 && !t.orphan) = some x) (hop : x.d.opcode ≠ 0x03) :
    answers (.cancel d) s fun t => t.hif.cancels = s.hif.cancels ++ [⟨d, x.d, none⟩] ∧ t.out = s.out ∧ { t with hif := s.hif } = s := by
  have hfound : s.hif.started.find? (cancelNames d.cancelRing d.cancelTag) = some x := hx
  have hd : (if x.d.same d then { x with sent := true } else x).d = x.d := by split <;> rfl
  have hexec := exec_cancel hr hh hdue.1
  rw [atBlock_find hh, hfound] at hexec
  simp only [Option.map_some, hd, beq_false_of_ne hop, Bool.false_eq_true, if_false] at hexec
  rw [State.atBlock, if_pos hh] at hexec
  exact answers_of hexec ⟨rfl, rfl, rfl⟩

theorem cancel_of_cancel (s : State) (d : Desc) (x : StartedDesc) (hr : s.runs = true) (hh : s.head = true) (hdue : dueHere s 0x03 d)
    (hx : s.hif.started.find? (fun t => t.d.ring == Fin.ofNat 8 (d.f 1 0 3) && t.d.tag == d.f 1 16 16 && !t.orphan) = some x) (hop : x.d.opcode = 0x03) :
    answers (.cancel d) s fun t => ended s t d { status := stCancelLate } ∧ logsOnly s t := by
  have hfound : s.hif.started.find? (cancelNames d.cancelRing d.cancelTag) = some x := hx
  have hd : (if x.d.same d then { x with sent := true } else x).d = x.d := by split <;> rfl
  have hexec := exec_cancel hr hh hdue.1
  rw [atBlock_find hh, hfound] at hexec
  simp only [Option.map_some, hd, hop, beq_self_eq_true, if_true] at hexec
  exact answers_of hexec (atBlock_complete hdue.2 _)

/-! ### CANCEL as it reaches its target (R239) -/

theorem cancelDone_forgets (s : State) (d : Desc) (status : Nat) : ∀ c ∈ (s.cancelDone d status).hif.cancels, c.d ≠ d := by
  intro c hc
  obtain ⟨x, hx, hd⟩ := (complete_hif _ d _).2 c hc
  have hkept := (List.mem_filter.mp (show x ∈ s.hif.cancels.filter (fun c => !c.d.same d) from hx)).2
  rw [← hd]
  simpa [Desc.same] using hkept

theorem cancelDone_ends {s : State} {d : Desc} (ht : tellable s d) (status : Nat) : ended s (s.cancelDone d status) d { status := status } :=
  EndsAlike.ended ((EndsAlike.refl d s).modHif (fun h => { h with cancels := h.cancels.filter (fun c => !c.d.same d) }) rfl rfl) ht _

/-- With no TAG_BEACON anywhere none is called back. -/
theorem beaconCancel_idle {s : State} (hcur : s.tag.cur = none) (hqueue : s.tag.queue = []) (hgaps : s.tag.gaps = []) (d : Desc) :
    s.beaconCancel d = s := by
  simp only [State.beaconCancel, hcur, hqueue, hgaps, List.find?_nil]

theorem exec_cancelArrival {s : State} {d : Desc} (hr : s.runs = true) (hop : d.opcode = 0x03) (target : Desc) : exec (.cancelArrival d target) s =
    .next (if s.head then s.cancelHead d target else s.cancelMember d target) := by
  change execCancelArrival d target s = _
  rw [execCancelArrival, running_of_runs hr, State.cond, if_pos (by simp [hop])]

theorem cancelArrival_late (s : State) (d target : Desc) (c : CancelSt) (x : StartedDesc) (hr : s.runs = true) (hh : s.head = true) (hop : d.opcode = 0x03)
    (ht : tellable s d) (hc : s.hif.cancels.find? (fun c => c.d.same d && c.target.same target) = some c) (hended : c.ended = none)
    (hx : s.findStarted target = some x) (hcommit : x.committed = true) : answers (.cancelArrival d target) s fun t =>
      (∀ c ∈ t.hif.cancels, c.d ≠ d) ∧ (s.tag.cur = none → s.tag.queue = [] → s.tag.gaps = [] → ended s t d { status := stCancelLate }) := by
  have hexec := exec_cancelArrival hr hop target
  rw [if_pos hh, State.cancelHead, hc] at hexec
  simp only [hended, hx, hcommit, if_true] at hexec
  refine answers_of hexec ⟨cancelDone_forgets _ d _, fun hcur hqueue hgaps => ?_⟩
  rw [beaconCancel_idle hcur hqueue hgaps]
  exact cancelDone_ends ht _

theorem cancelArrival_unknown (s : State) (d target : Desc) (hr : s.runs = true) (hh : s.head = false) (hop : d.opcode = 0x03)
    (hserved : ∀ x ∈ s.lnk.served, x.1 ≠ target) : answers (.cancelArrival d target) s fun t => ended s t d { status := stNotFound } ∧ logsOnly s t := by
  have hnone : s.lnk.served.find? (fun x => x.1.same target) = none :=
    List.find?_eq_none.mpr fun x hx => by simpa [Desc.same] using hserved x hx
  have hexec := exec_cancelArrival hr hop target
  rw [if_neg (by simp [hh]), State.cancelMember, hnone] at hexec
  exact answers_of hexec ⟨ended_answer hh rfl rfl d _, (logsOnly.refl s).answer d _ []⟩

/-- Settles O24: the fetch and its failure, the start with its refusals, NOP and FENCE, and CANCEL as it starts and as it reaches its target. -/
theorem descriptorsAreFetchedAndStarted : Obligations.DescriptorsAreFetchedAndStarted := by
  unfold Obligations.DescriptorsAreFetchedAndStarted
  exact ⟨descriptorFetchComplete_takes, descriptorFetchFail_halts, descriptorStart_starts, descriptorStart_malformed, descriptorStart_outside, nop_ends,
    fence_ends, cancel_of_nothing, cancel_on_its_way, cancel_of_cancel,
    fun s d target c x hr hh hop ht _ _ hc hended hx => cancelArrival_late s d target c x hr hh hop ht hc hended hx, cancelArrival_unknown⟩

end Sys2Proof.Machine
end

section
/-! SNAPSHOT and RESTORE (R246 to R254, R263), and O27. -/

namespace Sys2Proof.Machine

/-! ### The last part of a descriptor of several members -/

theorem same_iff {d e : Desc} : d.same e = true ↔ d = e := by simp [Desc.same]

theorem findStarted_d {s : State} {d : Desc} {x : StartedDesc} (hx : s.findStarted d = some x) : x.d = d := by
  have hsame : x.d.same d = true := List.find?_some (p := fun t : StartedDesc => t.d.same d) hx
  exact same_iff.mp hsame

/-- A started descriptor replaced by a note on it is found as that note. -/
theorem findStarted_replaced {s : State} {d : Desc} {x y : StartedDesc} (hx : s.findStarted d = some x) (hy : y.d = d) :
    (s.modStarted d (fun _ => y)).findStarted d = some y := by
  have hnote : s.modStarted d (fun _ => y) = s.modStarted d (fun t => { y with d := t.d }) := by
    refine congrArg (fun f => s.modHif (fun h => { h with started := h.started.map f })) (funext fun t => ?_)
    split
    · next h =>
      change y = { y with d := t.d }
      rw [same_iff.mp h, ← hy]
    · rfl
  rw [hnote, findStarted_modStarted hx (fun t => { y with d := t.d }) (fun _ => rfl), findStarted_d hx, ← hy]

theorem EndsAlike.replaced {d : Desc} {a s : State} (h : EndsAlike d a s) {x y : StartedDesc} (hx : s.findStarted d = some x) (hy : y.d = d)
    (ho : y.orphan = x.orphan) (hdr : y.dropped = x.dropped) : EndsAlike d a (s.modStarted d (fun _ => y)) := by
  refine h.trans ⟨⟨rfl, rfl, rfl, rfl, rfl, ?_, rfl, fun _ _ => rfl⟩, rfl⟩
  rw [findStarted_replaced hx hy, hx, Option.map_some, Option.map_some, ho, hdr]

theorem lacePart_last {s : State} {d : Desc} {m : Nat} {x : StartedDesc} (hx : s.findStarted d = some x) (hwaits : x.waits = [m]) (r : Result) :
    s.lacePart d m r = (s.modStarted d (fun _ => { x with waits := [], part := mergeResult x.part r })).complete d (mergeResult x.part r) := by
  have hnone : x.waits.filter (· != m) = [] := by simp [hwaits]
  rw [State.lacePart, hx]
  simp only [hnone, List.isEmpty_nil, if_true]

/-! ### The blob (R246, R247, R249) -/

theorem blobOf_shape (s : State) (mask : Nat) (sections : List Word) :
    ∃ rest, 15 ≤ rest.length ∧ s.blobOf mask sections = (blobMagic :: rest).set 15 (blobCrc (blobMagic :: rest)) :=
  ⟨_, by simp, rfl⟩

theorem blobOf_magic (s : State) (mask : Nat) (sections : List Word) : (s.blobOf mask sections).getD 0 0 = blobMagic := rfl

/-- The word that holds the CRC is not covered by it. -/
theorem blobCrc_set (ws : List Word) (c : Word) : blobCrc (ws.set 15 c) = blobCrc ws := by
  rw [blobCrc, blobCrc, List.take_set_of_le (Nat.le_refl 15), List.drop_set_of_lt (by omega)]

theorem blobOf_crc (s : State) (mask : Nat) (sections : List Word) : (s.blobOf mask sections).getD 15 0 = blobCrc (s.blobOf mask sections) := by
  obtain ⟨rest, hlen, hblob⟩ := blobOf_shape s mask sections
  rw [hblob, blobCrc_set, List.getD_eq_getElem?_getD, List.getElem?_set_self (by simpa using hlen), Option.getD_some]

/-! ### SNAPSHOT (R246 to R252) -/

theorem atBlock_blobHeld (s : State) (d : Desc) (mask : Nat) : (s.atBlock d).blobHeld mask = s.blobHeld mask := by
  obtain ⟨h, l, e⟩ := atBlock_is s d
  rw [e]
  rfl

/-- The blob that a SNAPSHOT makes, `others` holding the sections of the other members. -/
def State.snapshotBlob (s : State) (d : Desc) (others : List (Nat × List Word)) : List Word :=
  s.blobOf (d.f 1 0 5) (s.memberList.flatMap fun m =>
    if m == s.me then s.ownSections (d.f 1 0 5) else ((others.find? (·.1 == m)).map (·.2)).getD [])

theorem exec_snapshot {s : State} {d : Desc} (others : List (Nat × List Word)) (hr : s.runs = true) (hh : s.head = true) (ht : s.takes 0x07 d = true)
    (hruns : s.blobRuns d = false) (hheld : s.blobHeld (d.f 1 0 5) = false) (hcrate : s.crateGone = false) : exec (.snapshot d others 0) s =
      .next (let b := (s.atBlock d).snapshotBlob d others
        if (d.w 4).toNat < 4 * b.length then (s.atBlock d).complete d { status := stBadDesc, detail := dtLength, r0 := BitVec.ofNat 32 (4 * b.length) }
        else ((s.atBlock d).post (.data (d.addr 2) b)).complete d { status := stOK, r0 := BitVec.ofNat 32 (4 * b.length) }) := by
  have hsnap : (if tb (d.f 1 0 5) 3 then stitchStatus 0 else none) = none := ite_self none
  change execSnapshot d others 0 s = _
  rw [execSnapshot, running_of_runs hr, State.cond, if_pos hh, taking_of_takes ht]
  simp only [atBlock_blobRuns, hruns, atBlock_crateGone, hcrate, Bool.and_false, atBlock_blobHeld, hheld, hsnap, Bool.false_eq_true, if_false]
  rfl

theorem snapshot_writes (s : State) (d : Desc) (others : List (Nat × List Word)) (hr : s.runs = true) (hh : s.head = true) (hdue : dueHere s 0x07 d)
    (hruns : s.blobRuns d = false) (hheld : s.blobHeld (d.f 1 0 5) = false) (hcrate : s.crateGone = false) : answers (.snapshot d others 0) s fun t =>
    logsOnly s t ∧ ∃ b, b.getD 0 0 = blobMagic ∧ b.getD 15 0 = blobCrc b ∧
      (if (d.w 4).toNat < 4 * b.length then ended s t d { status := stBadDesc, detail := dtLength, r0 := BitVec.ofNat 32 (4 * b.length) }
       else Out.hostWrite (d.addr 2) b ∈ t.out ∧ ended s t d { status := stOK, r0 := BitVec.ofNat 32 (4 * b.length) }) := by
  obtain ⟨ht, htell⟩ := hdue
  obtain ⟨-, -, -, hacc, hd3⟩ := (EndsAlike.refl d s).atBlock.toTellsAlike.tellable_of htell ((atBlock_head s d).trans hh)
  have hexec := exec_snapshot others hr hh ht hruns hheld hcrate
  have hmagic : ((s.atBlock d).snapshotBlob d others).getD 0 0 = blobMagic := blobOf_magic ..
  have hcrc : ((s.atBlock d).snapshotBlob d others).getD 15 0 = blobCrc ((s.atBlock d).snapshotBlob d others) := blobOf_crc ..
  generalize (s.atBlock d).snapshotBlob d others = b at hexec hmagic hcrc
  by_cases hlen : (d.w 4).toNat < 4 * b.length
  · simp only [if_pos hlen] at hexec
    obtain ⟨hend, hlogs⟩ := atBlock_complete htell { status := stBadDesc, detail := dtLength, r0 := BitVec.ofNat 32 (4 * b.length) }
    exact answers_of hexec ⟨hlogs, b, hmagic, hcrc, by rwa [if_pos hlen]⟩
  · simp only [if_neg hlen, post_data_of_accepts _ _ _ hacc hd3] at hexec
    refine answers_of hexec ⟨(((logsOnly.refl s).atBlock d).emit _).complete d _, b, hmagic, hcrc, ?_⟩
    rw [if_neg hlen]
    exact ⟨((Keeps.refl _).complete d _).mem_out List.mem_cons_self, ((EndsAlike.refl d s).atBlock.emit _).ended htell _⟩

/-! ### RESTORE as it begins (R253, R254) -/

/-- An update that runs or waits for its data, as RESTORE asks (R254). -/
def StartedDesc.isUpdate (t : StartedDesc) : Bool := t.d.opcode == 0x06 && t.sent

/-- The mark of a descriptor other than an update leaves whether the device is quiet. -/
theorem atBlock_restoreBusy {s : State} {d : Desc} (hop : d.opcode ≠ 0x06) : (s.atBlock d).restoreBusy = s.restoreBusy := by
  unfold State.atBlock
  split
  · have hsame : ∀ t : StartedDesc, (if t.d.same d then { t with sent := true } else t).isUpdate = t.isUpdate := by
      intro t
      split
      · next h => simp [StartedDesc.isUpdate, same_iff.mp h, hop]
      · rfl
    have hany : (s.hif.started.map (fun t => if t.d.same d then { t with sent := true } else t)).any (·.isUpdate) = s.hif.started.any (·.isUpdate) := by
      rw [List.any_map]
      exact congrArg s.hif.started.any (funext hsame)
    exact congrArg (fun b => allLos.any (fun n => s.loState n != stSleep) || s.exch.run0.isSome || s.exch.run1.isSome
      || s.hif.regions.toList.any (fun r => r.running.isSome || r.waiting.isSome) || b) hany
  · rfl

theorem opcode_of_takes {s : State} {op : Nat} {d : Desc} (ht : s.takes op d = true) : d.opcode = op := by
  rw [State.takes, Bool.and_eq_true] at ht
  exact eq_of_beq ht.1

theorem exec_restore {s : State} {d : Desc} (rb : Bool) (hr : s.runs = true) (hh : s.head = true) (ht : s.takes 0x08 d = true) : exec (.restore d rb) s =
    .next (if s.blobRuns d || rb || s.restoreBusy then (s.atBlock d).finish d stBusyRetry
      else if (tb (d.f 1 0 5) 3 || tb (d.f 1 0 5) 4) && s.crateGone then (s.atBlock d).finish d stRetired
      else (s.atBlock d).modHif (fun h => { h with restore := some d })) := by
  have hop : d.opcode ≠ 0x06 := by simp [opcode_of_takes ht]
  change execRestore d rb s = _
  rw [execRestore, running_of_runs hr, State.cond, if_pos hh, taking_of_takes ht]
  simp only [atBlock_blobRuns, atBlock_restoreBusy hop, atBlock_crateGone]

theorem restore_waits (s : State) (d : Desc) (hr : s.runs = true) (hh : s.head = true) (hdue : dueHere s 0x08 d) (hruns : s.blobRuns d = false)
    (hquiet : s.restoreBusy = false) (hcrate : s.crateGone = false) : answers (.restore d false) s fun t =>
    t.hif.restore = some d ∧ t.out = s.out ∧ { t with hif := s.hif } = s := by
  have hexec := exec_restore false hr hh hdue.1
  simp only [hruns, hquiet, hcrate, Bool.or_self, Bool.and_false, Bool.false_eq_true, if_false] at hexec
  rw [State.atBlock, if_pos hh] at hexec
  exact answers_of hexec ⟨rfl, rfl, rfl⟩

theorem restore_refused (s : State) (d : Desc) (rb : Bool) (hr : s.runs = true) (hh : s.head = true) (hdue : dueHere s 0x08 d)
    (hbusy : rb = true ∨ s.restoreBusy = true) : answers (.restore d rb) s fun t => ended s t d { status := stBusyRetry } ∧ logsOnly s t := by
  have hexec := exec_restore rb hr hh hdue.1
  rw [if_pos (by rcases hbusy with h | h <;> simp [h])] at hexec
  exact answers_of hexec (atBlock_complete hdue.2 _)

/-! ### The blob that a RESTORE reads (R249, R263) -/

/-- RESTORE has its blob, or has failed to read it, and waits for it no longer. -/
def State.blobRead (s : State) (d : Desc) : State := (s.emit (.hostRead (d.addr 2) (d.w 4).toNat)).modHif (fun h => { h with restore := none })

/-- What the sections of a good blob come to. -/
def State.applyBlob (s : State) (d : Desc) (ws : List Word) : State :=
  let mask := d.f 1 0 5 &&& getF (ws.getD 1 0) 16 5
  let xs := (sectionsOf 1024 (ws.drop 16)).filter (fun x => 1 ≤ x.kind && tb mask (x.kind - 1))
  let skipped := (xs.filter (fun x => !s.isMember x.member)).length
  let away := s.others.filter (fun m => xs.any (·.member == m))
  let s := s.modStarted d (fun t => { t with waits := s.me :: away, part := { status := stOK, r1 := BitVec.ofNat 32 skipped } })
  let s := s.forEach away (fun s m => s.sendReq
    { dst := m, src := s.me, kind := 2, code := msgRestore, tag := 0
      words := [BitVec.ofNat 32 (s.lnk.tagNo % 65536), placeWord d] ++
        (xs.filter (·.member == m)).flatMap (fun x => blobSection x.kind x.region x.member 0 x.body) } (some d))
  let r := s.restoreAll (xs.filter (·.member == s.me))
  r.1.lacePart d s.me { status := stOK, r0 := BitVec.ofNat 32 r.2 }

theorem blobRead_restore (s : State) (d : Desc) : (s.blobRead d).hif.restore = none := rfl
theorem blobRead_ends (s : State) (d : Desc) : EndsAlike d s (s.blobRead d) := ((EndsAlike.refl d s).emit _).modHif _ rfl rfl
theorem blobRead_logsOnly (s : State) (d : Desc) : logsOnly s (s.blobRead d) := ((logsOnly.refl s).emit _).modHif _

theorem exec_restoreBlobReadComplete {s : State} {d : Desc} (blob : Option (List Word)) (hr : s.runs = true) (hh : s.head = true)
    (hw : s.hif.restore = some d) (hbm : s.pcie.busMaster = true) (ht : tellable s d) : exec (.restoreBlobReadComplete d blob) s =
      .next (match blob with
        | none => (s.blobRead d).bad d dtDmaRead
        | some ws => match s.blobJudge (d.w 4).toNat ws with
          | some t => (s.blobRead d).bad d t
          | none => (s.blobRead d).applyBlob d ws) := by
  obtain ⟨-, -, -, -, hd3⟩ := ht hh
  change execRestoreBlobReadComplete d blob s = _
  rw [execRestoreBlobReadComplete, running_of_runs hr, if_neg (by simp [hw, hbm, hd3])]
  cases blob with
  | none => rfl
  | some ws => rfl

/-- A blob that is no good ends its RESTORE alone. -/
theorem blobRead_bad {s : State} {d : Desc} (ht : tellable s d) (dt : Nat) : ended s ((s.blobRead d).bad d dt) d { status := stBadDesc, detail := dt } ∧
    ((s.blobRead d).bad d dt).hif.restore = none ∧ logsOnly s ((s.blobRead d).bad d dt) :=
  ⟨(blobRead_ends s d).ended ht _, (complete_hif (s.blobRead d) d _).1.trans (blobRead_restore s d), (blobRead_logsOnly s d).complete d _⟩

theorem restoreBlobReadComplete_unread (s : State) (d : Desc) (hr : s.runs = true) (hh : s.head = true) (hw : s.hif.restore = some d)
    (hbm : s.pcie.busMaster = true) (ht : tellable s d) : answers (.restoreBlobReadComplete d none) s fun t =>
    ended s t d { status := stBadDesc, detail := dtDmaRead } ∧ t.hif.restore = none ∧ logsOnly s t :=
  answers_of (exec_restoreBlobReadComplete none hr hh hw hbm ht) (blobRead_bad ht _)

theorem restoreBlobReadComplete_bad (s : State) (d : Desc) (ws : List Word) (dt : Nat) (hr : s.runs = true) (hh : s.head = true)
    (hw : s.hif.restore = some d) (hbm : s.pcie.busMaster = true) (ht : tellable s d) (hbad : s.blobJudge (d.w 4).toNat ws = some dt) :
    answers (.restoreBlobReadComplete d (some ws)) s fun t =>
      ended s t d { status := stBadDesc, detail := dt } ∧ t.hif.restore = none ∧ logsOnly s t := by
  have hexec := exec_restoreBlobReadComplete (some ws) hr hh hw hbm ht
  simp only [hbad] at hexec
  exact answers_of hexec (blobRead_bad ht dt)

/-! ### A blob of beam weights for this member -/

/-- What is noted of a RESTORE whose sections are all of this member. -/
def ownRestore (me : Nat) (t : StartedDesc) : StartedDesc := { t with waits := [me], part := { status := stOK, r1 := BitVec.ofNat 32 0 } }
/-- What is noted of it once one section of them has been applied. -/
def ownRestored (t : StartedDesc) : StartedDesc := { t with waits := [], part := { status := stOK, r0 := 1 } }

theorem applyBlob_weights {s : State} {d : Desc} {ws body : List Word} {x : StartedDesc} (hx : s.findStarted d = some x)
    (hsec : sectionsOf 1024 (ws.drop 16) = [⟨3, 0, s.me, body⟩]) (hmask : tb (d.f 1 0 5 &&& getF (ws.getD 1 0) 16 5) 2 = true)
    (hgood : weightsJudge body = none) (hmember : s.isMember s.me = true) : s.applyBlob d ws =
      (((s.modStarted d (ownRestore s.me)).modExch (fun e => { e with weights := some body })).modStarted d
        (fun _ => ownRestored x)).complete d { status := stOK, r0 := 1 } := by
  have haway : s.others.filter (fun m => [(⟨3, 0, s.me, body⟩ : Section)].any (·.member == m)) = [] := by
    refine List.filter_eq_nil_iff.mpr fun m hm => ?_
    have hne : m ≠ s.me := by simpa using (List.mem_filter.mp hm).2
    simpa using hne.symm
  have hown : ([(⟨3, 0, s.me, body⟩ : Section)].filter fun x => 1 ≤ x.kind && tb (d.f 1 0 5 &&& getF (ws.getD 1 0) 16 5) (x.kind - 1)) =
      [⟨3, 0, s.me, body⟩] := by simpa using hmask
  have hskip : ([(⟨3, 0, s.me, body⟩ : Section)].filter fun x => !s.isMember x.member) = [] := by simp [hmember]
  have hmine : ([(⟨3, 0, s.me, body⟩ : Section)].filter fun x => x.member == s.me) = [⟨3, 0, s.me, body⟩] := by simp
  have hall : (s.modStarted d (ownRestore s.me)).restoreAll [⟨3, 0, s.me, body⟩] =
      ((s.modStarted d (ownRestore s.me)).modExch (fun e => { e with weights := some body }), 1) := by
    simp [State.restoreAll, State.restoreSection, State.restoreRegion, hgood, b2n]
  have hfound : ((s.modStarted d (ownRestore s.me)).modExch (fun e => { e with weights := some body })).findStarted d = some (ownRestore s.me x) :=
    findStarted_modStarted hx _ (fun _ => rfl)
  have happly : s.applyBlob d ws = ((s.modStarted d (ownRestore s.me)).restoreAll [⟨3, 0, s.me, body⟩]).1.lacePart d s.me
      { status := stOK, r0 := BitVec.ofNat 32 ((s.modStarted d (ownRestore s.me)).restoreAll [⟨3, 0, s.me, body⟩]).2 } := by
    rw [State.applyBlob, hsec]
    simp only [hown, haway, hskip]
    exact congrArg (fun l => ((s.modStarted d (ownRestore s.me)).restoreAll l).1.lacePart d s.me
      { status := stOK, r0 := BitVec.ofNat 32 ((s.modStarted d (ownRestore s.me)).restoreAll l).2 }) hmine
  rw [happly, hall, lacePart_last hfound rfl]
  rfl

/-- A good blob of beam weights for this member ends its RESTORE in any state that tells it as the state before did. -/
theorem applyBlob_weights_ends {s u : State} {d : Desc} {ws body : List Word} (hh : s.head = true) (ht : tellable s d) (hends : EndsAlike d s u)
    (hlogs : logsOnly s u) (hsec : sectionsOf 1024 (ws.drop 16) = [⟨3, 0, u.me, body⟩])
    (hmask : tb (d.f 1 0 5 &&& getF (ws.getD 1 0) 16 5) 2 = true) (hbody : weightsJudge body = none) (hmember : u.isMember u.me = true) :
    (u.applyBlob d ws).exch = { s.exch with weights := some body } ∧ ended s (u.applyBlob d ws) d { status := stOK, r0 := 1 } ∧
      (u.applyBlob d ws).hif.restore = u.hif.restore ∧ logsOnly (s.modExch (fun _ => (u.applyBlob d ws).exch)) (u.applyBlob d ws) := by
  obtain ⟨⟨x, hx, -, -⟩, -⟩ := hends.toTellsAlike.tellable_of ht (hends.toTellsAlike.head.trans hh)
  have hd : x.d = d := findStarted_d hx
  rw [applyBlob_weights hx hsec hmask hbody hmember]
  have hnoted : ((u.modStarted d (ownRestore u.me)).modExch (fun e => { e with weights := some body })).findStarted d = some (ownRestore u.me x) :=
    findStarted_modStarted hx _ (fun _ => rfl)
  have hown : EndsAlike d s (u.modStarted d (ownRestore u.me)) := hends.trans ⟨.modStarted d _ d _ (fun _ => ⟨rfl, rfl, rfl⟩), rfl⟩
  have hset : logsOnly (s.modExch (fun e => { e with weights := some body }))
      ((u.modStarted d (ownRestore u.me)).modExch (fun e => { e with weights := some body })) := (hlogs.modStarted d _).modExch _
  have hdone := (hset.modStarted d (fun _ => ownRestored x)).complete d { status := stOK, r0 := 1 }
  exact ⟨hdone.exch_eq, ((hown.modExch _).replaced (y := ownRestored x) hnoted hd rfl rfl).ended ht _, (complete_hif _ d _).1, hdone.of_modExch⟩

theorem restoreBlobReadComplete_weights (s : State) (d : Desc) (ws body : List Word) (hr : s.runs = true) (hh : s.head = true)
    (hw : s.hif.restore = some d) (hbm : s.pcie.busMaster = true) (ht : tellable s d) (hgood : s.blobJudge (d.w 4).toNat ws = none)
    (hsec : sectionsOf 1024 (ws.drop 16) = [⟨3, 0, s.me, body⟩]) (hmask : tb (d.f 1 0 5 &&& getF (ws.getD 1 0) 16 5) 2 = true)
    (hbody : weightsJudge body = none) (hmember : s.isMember s.me = true) : answers (.restoreBlobReadComplete d (some ws)) s fun t =>
      t.exch = { s.exch with weights := some body } ∧ ended s t d { status := stOK, r0 := 1 } ∧ t.hif.restore = none ∧
      logsOnly (s.modExch (fun _ => t.exch)) t := by
  have hexec := exec_restoreBlobReadComplete (some ws) hr hh hw hbm ht
  simp only [hgood] at hexec
  exact answers_of hexec (applyBlob_weights_ends hh ht (blobRead_ends s d) (blobRead_logsOnly s d) hsec hmask hbody hmember)

/-- Settles O27: SNAPSHOT and its blob, RESTORE as it begins, and what it does with the blob it reads. -/
theorem snapshotsAndRestores : Obligations.SnapshotsAndRestores := by
  unfold Obligations.SnapshotsAndRestores
  exact ⟨snapshot_writes, restore_waits, restore_refused, restoreBlobReadComplete_unread, restoreBlobReadComplete_bad, restoreBlobReadComplete_weights⟩

end Sys2Proof.Machine
end

section
/-! The pip timebase across the Lace: beacons, the loss of beacons and notices (R298 to R305). -/

namespace Sys2Proof.Machine

theorem sgn_unsgn_of_fits {v : Int} (hlo : -(2 ^ 63) ≤ v) (hhi : v < 2 ^ 63) : sgn 64 (unsgn 64 v) = v := by
  have hmod : (v % (2 ^ 64 : Nat)).toNat % 2 ^ 64 = (v % 2 ^ 64).toNat := by omega
  rw [sgn, unsgn]
  simp only [hmod]
  split <;> omega

/-! ### A beacon from the head (R298, R299) -/

/-- The time of a beacon has been taken, with the fraction as of it. -/
def State.beaconTimed (s : State) (ns cyc : Nat) : State := (s.setCycle cyc).setSince ns

theorem beaconTimed_onlyRegs (s : State) (ns cyc : Nat) :
    onlyRegs [Reg.pipFrac] (s.modPip (fun p => { p with since := ns, cycle := cyc % 245760 })) (s.beaconTimed ns cyc) :=
  onlyRegs_put (onlyRegs_refl _ _) Fld.pipFracFrac _ (by decide)

theorem beaconTimed_count (s : State) (ns cyc : Nat) : (s.beaconTimed ns cyc).pipCount = s.pipCount :=
  (CountStands.setSince (a := s) (s := s.setCycle cyc) ⟨fun _ _ => rfl⟩ ns).pipCount

theorem beaconTimed_rate (s : State) (ns cyc : Nat) : (s.beaconTimed ns cyc).rd Reg.pipRate = s.rd Reg.pipRate :=
  State.rd_put_ne _ Fld.pipFracFrac _ _ (by decide)

theorem fracAt_lt (ns per : Nat) : fracAt ns per < 2 ^ 16 := by
  rw [fracAt]
  split <;> omega

theorem beaconTimed_frac (s : State) (ns cyc : Nat) : (s.beaconTimed ns cyc).get Fld.pipFracFrac = fracAt ns s.pipPeriod :=
  (State.get_put_self _ Fld.pipFracFrac _ (by decide)).trans (Nat.mod_eq_of_lt (fracAt_lt ..))

/-- The beacon that carries the count of `s` with a fraction and a cycle. -/
def State.beaconMsg (s : State) (frac : Word) (cyc : Nat) : Msg :=
  { dst := s.me, src := s.me, kind := 4, code := msgBeacon, tag := 0, bcast := true,
    words := [BitVec.ofNat 32 (unsgn 64 s.pipCount), BitVec.ofNat 32 (unsgn 64 s.pipCount >>> 32), frac, s.rd Reg.pipRate, s.tile, BitVec.ofNat 32 cyc] }

theorem exec_pipBeaconSend {s : State} {ns cyc : Nat} (hr : s.runs = true) (hb : s.free? .pip = true) :
    exec (.pipBeaconSend ns cyc) s = .next (s.beaconTimed ns cyc).pipBeacon := by
  change execPipBeaconSend ns cyc s = _
  exact inBlock_served hr hb _

/-- Whether a beacon goes out is as it was before its time was taken. -/
theorem beaconTimed_sends (s : State) (ns cyc : Nat) :
    ((s.beaconTimed ns cyc).head && !(s.beaconTimed ns cyc).others.isEmpty && !(s.beaconTimed ns cyc).is Fld.pwrStateRest) =
      (s.head && !s.others.isEmpty && !s.is Fld.pwrStateRest) := by
  have hregs := (beaconTimed_onlyRegs s ns cyc).2
  have hrest : (s.beaconTimed ns cyc).is Fld.pwrStateRest = s.is Fld.pwrStateRest :=
    congrArg (· != 0) (get_of_regsOnly hregs Fld.pwrStateRest (by decide))
  have hmembers : (s.beaconTimed ns cyc).members = s.members :=
    congrArg₂ (fun lo hi : Word => lo.toNat + hi.toNat * 2 ^ 32) (hregs Reg.laceMembersLo (by decide)) (hregs Reg.laceMembersHi (by decide))
  have hothers : (s.beaconTimed ns cyc).others = s.others := congrArg (fun m => (bitsOf 64 m).filter (· != s.me)) hmembers
  rw [hrest, hothers]
  rfl

/-- What only reporting changes after a change of these registers. -/
theorem logsAnd_of_onlyRegs {offs : List Nat} {a s t : State} (h : onlyRegs offs a s) (k : logsOnly s t) : logsAnd offs a t := by
  obtain ⟨hs, hregs⟩ := h
  obtain ⟨ht, hlogs⟩ := k
  refine ⟨?_, regsOnly_trans (regsOnly_mono hregs (List.subset_append_left ..)) (regsOnly_mono hlogs (List.subset_append_right ..))⟩
  rw [← ht] at hs
  rw [← hs]

theorem pipBeaconSend_sends (s : State) (ns cyc : Nat) (hr : s.runs = true) (hb : s.free? .pip = true) (hh : s.head = true) (ho : s.others ≠ [])
    (hrest : s.is Fld.pwrStateRest = false) : answers (.pipBeaconSend ns cyc) s fun t =>
    let n := unsgn 64 s.pipCount
    Out.msg { dst := s.me, src := s.me, kind := 4, code := msgBeacon, tag := 0, bcast := true
              words := [BitVec.ofNat 32 n, BitVec.ofNat 32 (n >>> 32), t.rd Reg.pipFrac, s.rd Reg.pipRate, s.tile, BitVec.ofNat 32 (cyc % 245760)] } ∈ t.out ∧
    t.get Fld.pipFracFrac = fracAt ns s.pipPeriod ∧ t.pipCount = s.pipCount ∧
    logsAnd [Reg.pipFrac] (s.modPip (fun p => { p with since := ns, cycle := cyc % 245760 })) t := by
  have hexec := exec_pipBeaconSend (ns := ns) (cyc := cyc) hr hb
  have hsends : (s.head && !s.others.isEmpty && !s.is Fld.pwrStateRest) = true := by simp [hh, ho, hrest]
  rw [State.pipBeacon, State.cond, if_pos ((beaconTimed_sends s ns cyc).trans hsends), beaconTimed_count, beaconTimed_rate] at hexec
  have hsent : exec (.pipBeaconSend ns cyc) s = .next ((s.beaconTimed ns cyc).sendMsg (s.beaconMsg ((s.beaconTimed ns cyc).rd Reg.pipFrac) (cyc % 245760))) :=
    hexec
  have hstands := beaconTimed_onlyRegs s ns cyc
  have hcount := beaconTimed_count s ns cyc
  have hfrac := beaconTimed_frac s ns cyc
  generalize s.beaconTimed ns cyc = u at hsent hstands hcount hfrac
  have hlinks := (LinksOnly.refl u).sendMsg (s.beaconMsg (u.rd Reg.pipFrac) (cyc % 245760))
  refine answers_of hsent ⟨?_, ?_, ?_, logsAnd_of_onlyRegs hstands ((logsOnly.refl u).sendMsg _)⟩
  · rw [hlinks.regs Reg.pipFrac (by decide)]
    exact mem_out_sendMsg _ _
  · rw [get_of_regsOnly hlinks.regs _ (by decide)]
    exact hfrac
  · exact (CountStands.of_regsOnly hlinks.regs (by decide)).pipCount.trans hcount

theorem pipBeaconSend_silent (s : State) (ns cyc : Nat) (hr : s.runs = true) (hb : s.free? .pip = true)
    (hno : s.head = false ∨ s.others = [] ∨ s.is Fld.pwrStateRest = true) : answers (.pipBeaconSend ns cyc) s fun t =>
    t.out = s.out ∧ t.lnk = s.lnk ∧ onlyRegs [Reg.pipFrac] (s.modPip (fun p => { p with since := ns, cycle := cyc % 245760 })) t := by
  have hexec := exec_pipBeaconSend (ns := ns) (cyc := cyc) hr hb
  have hsends : (s.head && !s.others.isEmpty && !s.is Fld.pwrStateRest) = false := by rcases hno with h | h | h <;> simp [h]
  rw [State.pipBeacon, State.cond, if_neg (by rw [beaconTimed_sends, hsends]; simp)] at hexec
  exact answers_of hexec ⟨rfl, rfl, beaconTimed_onlyRegs s ns cyc⟩

/-! ### A beacon at a member (R300, R302) -/

/-- The registers that a jump of the pip count writes. -/
def jumpRegs : List Nat := [Reg.pipCountLo, Reg.pipCountHi, Reg.pipRate, Reg.pipFrac, Reg.pipBackstepCnt]

/-- The pip timebase alone has moved, beside what reporting changes, and it still knows whether beacons come. -/
structure PipMoved (a s : State) : Prop where
  rest : { s with regs := a.regs, hif := a.hif, pwr := a.pwr, flt := a.flt, lnk := a.lnk, out := a.out, pip := a.pip } = a
  regs : regsOnly (jumpRegs ++ logRegs) a s
  beaconOk : s.pip.beaconOk = a.pip.beaconOk

namespace PipMoved

variable {a s : State}

theorem refl (s : State) : PipMoved s s := ⟨rfl, regsOnly_refl _ s, rfl⟩
theorem trans {t : State} (h : PipMoved a s) (k : PipMoved s t) : PipMoved a t := by
  refine ⟨?_, regsOnly_trans h.regs k.regs, k.beaconOk.trans h.beaconOk⟩
  have e := h.rest
  rw [← k.rest] at e
  exact e
theorem cond (h : PipMoved a s) (b : Bool) (f : State → State) (hf : PipMoved s (f s)) : PipMoved a (s.cond b f) := by
  cases b
  · exact h
  · exact h.trans hf
theorem forEach {α : Type} (h : PipMoved a s) (l : List α) (f : State → α → State) (hf : ∀ t x, PipMoved t (f t x)) : PipMoved a (s.forEach l f) :=
  forEach_induct (P := PipMoved a) (fun t x k => k.trans (hf t x)) l h
theorem put (h : PipMoved a s) (f : FieldRef) (v : Nat) (hf : f.off ∈ jumpRegs) : PipMoved a (s.put f v) :=
  h.trans ⟨rfl, regsOnly_put s f v (List.mem_append_left _ hf), rfl⟩
theorem wr (h : PipMoved a s) (off : Nat) (w : Word) (ho : off ∈ jumpRegs) : PipMoved a (s.wr off w) :=
  h.trans ⟨rfl, regsOnly_wr s off w (List.mem_append_left _ ho), rfl⟩
theorem modPip (h : PipMoved a s) (f : Pip → Pip) (hf : (f s.pip).beaconOk = s.pip.beaconOk) : PipMoved a (s.modPip f) :=
  h.trans ⟨rfl, fun _ _ => rfl, hf⟩
theorem logs (h : PipMoved a s) {t : State} (k : logsOnly s t) : PipMoved a t :=
  h.trans ⟨congrArg (fun x : State => { x with pip := s.pip }) k.1, regsOnly_mono k.2 (List.subset_append_right ..), congrArg Pip.beaconOk k.pip_eq⟩

theorem setPipCount (h : PipMoved a s) (c : Int) : PipMoved a (s.setPipCount c) := (h.wr _ _ (by decide)).wr _ _ (by decide)
theorem setSince (h : PipMoved a s) (ns : Nat) : PipMoved a (s.setSince ns) := (h.modPip _ rfl).put _ _ (by decide)
theorem commitFiring (h : PipMoved a s) (e : PipEvent) (dir tile cycle skipped : Nat) : PipMoved a (s.commitFiring e dir tile cycle skipped) :=
  h.trans ⟨rfl, fun _ _ => rfl, rfl⟩
theorem backstep (h : PipMoved a s) (kind : Nat) (old new : Int) : PipMoved a (s.backstep kind old new) :=
  (h.put Fld.pipBackstepCntCount _ (by decide)).logs ((logsOnly.refl _).record _ _)
theorem guardWake (h : PipMoved a s) (qualified : Bool) : PipMoved a (s.guardWake qualified) := by
  unfold State.guardWake
  extract_lets g near
  exact h.cond _ _ ((PipMoved.refl s).logs (t := s.wake 5) ((logsOnly.refl s).wake 5))

/-- At a member a jump of the count notices nobody. -/
theorem noticeRemote (h : PipMoved a s) (hh : s.head = false) (dir : Nat) (old new : Int) (ns : Nat) : PipMoved a (s.noticeRemote dir old new ns) := by
  rw [State.noticeRemote, if_pos (by simp [hh])]
  exact h

theorem head (h : PipMoved a s) : s.head = a.head := by
  have e := congrArg State.head h.rest
  exact e

theorem pipJump (hh : s.head = false) (kind : Nat) (new : Int) : PipMoved s (s.pipJump kind new) := by
  unfold State.pipJump
  extract_lets old u hit tile cyc v w x y
  have hu : PipMoved s u := ((PipMoved.refl s).setPipCount new).setSince 0
  have hv : PipMoved s v := hu.forEach _ _ fun t e => (PipMoved.refl t).commitFiring ..
  have hw : PipMoved s w := hv.noticeRemote (hv.head.trans hh) ..
  have hx : PipMoved s x := hw.modPip _ rfl
  exact (hx.cond _ _ ((PipMoved.refl x).backstep ..)).guardWake _

theorem logsAnd (h : PipMoved a s) : logsAnd jumpRegs (a.modPip (fun _ => s.pip)) s :=
  ⟨congrArg (fun x : State => { x with pip := s.pip }) h.rest, h.regs⟩

end PipMoved

/-- A member has a beacon: it knows that beacons come, and its count is the beacon's. -/
def State.beaconHeard (s : State) (count : Int) : State :=
  if decide (1 < (count - s.pipCount).natAbs) then (s.modPip (fun p => { p with beaconOk := true })).pipJump 4 count
  else (s.modPip (fun p => { p with beaconOk := true })).setPipCount count

theorem beaconHeard_moved {s : State} (hh : s.head = false) (count : Int) : PipMoved (s.modPip (fun p => { p with beaconOk := true })) (s.beaconHeard count) := by
  unfold State.beaconHeard
  split
  · exact .pipJump (s := s.modPip _) hh 4 count
  · exact (PipMoved.refl _).setPipCount count

theorem beaconHeard_count (s : State) {count : Int} (hlo : -(2 ^ 63) ≤ count) (hhi : count < 2 ^ 63) : (s.beaconHeard count).pipCount = count := by
  unfold State.beaconHeard
  split
  · rw [pipJump_pipCount, sgn_unsgn_of_fits hlo hhi]
  · rw [setPipCount_pipCount, sgn_unsgn_of_fits hlo hhi]

theorem exec_pipBeaconReceive {s : State} {count : Int} {frac : Nat} {rate : Word} (hr : s.runs = true) (hb : s.free? .pip = true) :
    exec (.pipBeaconReceive count frac rate) s = .next (if s.pipSrc != srcLace || s.head then s
      else ((s.beaconHeard count).wr Reg.pipRate rate).put Fld.pipFracFrac frac) := by
  change execPipBeaconReceive count frac rate s = _
  exact inBlock_served hr hb _

theorem pipBeaconReceive_taken (s : State) (count : Int) (frac : Nat) (rate : Word) (hr : s.runs = true) (hb : s.free? .pip = true)
    (hh : s.head = false) (hsrc : s.pipSrc = srcLace) (hlo : -(2 ^ 63) ≤ count) (hhi : count < 2 ^ 63) :
    answers (.pipBeaconReceive count frac rate) s fun t => t.pip.beaconOk = true ∧ t.pipCount = count ∧ t.rd Reg.pipRate = rate ∧
      t.get Fld.pipFracFrac = frac % 65536 ∧
      logsAnd [Reg.pipCountLo, Reg.pipCountHi, Reg.pipRate, Reg.pipFrac, Reg.pipBackstepCnt] (s.modPip (fun _ => t.pip)) t := by
  have hexec := exec_pipBeaconReceive (count := count) (frac := frac) (rate := rate) hr hb
  rw [if_neg (by simp [hh, hsrc])] at hexec
  have hmoved := beaconHeard_moved hh count
  have hcount := beaconHeard_count s hlo hhi
  generalize s.beaconHeard count = u at *
  have hstands : CountStands u ((u.wr Reg.pipRate rate).put Fld.pipFracFrac frac) :=
    (CountStands.of_regsOnly (regsOnly_wr (offs := [Reg.pipRate]) u Reg.pipRate rate (by decide)) (by decide)).put _ _ (by decide)
  have hall := (hmoved.wr Reg.pipRate rate (by decide)).put Fld.pipFracFrac frac (by decide)
  refine answers_of hexec ⟨hall.beaconOk, hstands.pipCount.trans hcount, ?_, State.get_put_self _ Fld.pipFracFrac frac (by decide), hall.logsAnd⟩
  rw [State.rd_put_ne _ _ _ _ (by decide), State.rd_wr_self]

theorem pipBeaconReceive_elsewhere (s : State) (count : Int) (frac : Nat) (rate : Word) (hr : s.runs = true) (hb : s.free? .pip = true)
    (hno : s.head = true ∨ s.pipSrc ≠ srcLace) : answers (.pipBeaconReceive count frac rate) s fun t => t = s := by
  refine answers_of (exec_pipBeaconReceive hr hb) ?_
  rw [if_pos (by rcases hno with h | h <;> simp [h])]

theorem pipLockLoss_forgets (s : State) (hr : s.runs = true) (hb : s.free? .pip = true) : answers .pipLockLoss s fun t =>
    t = if s.pipSrc = srcLace then s.modPip (fun p => { p with beaconOk := false }) else s := by
  have hexec : exec .pipLockLoss s = .next (s.cond (s.pipSrc == srcLace) (·.modPip (fun p => { p with beaconOk := false }))) := inBlock_served (b := .pip) hr hb _
  refine answers_of hexec ?_
  simp [State.cond]

end Sys2Proof.Machine
end

section
/-! Notices of an edge at a member (R303 to R305). -/

namespace Sys2Proof.Machine

/-! ### Firings of several slots -/

theorem find_mem {α : Type} {m : List (Nat × α)} {n : Nat} {e : α} (h : Sparse.find m n = some e) : (n, e) ∈ m := by
  induction m with
  | nil => nomatch h
  | cons x m ih =>
    rw [Sparse.find] at h
    split at h
    · next hk =>
      cases h
      exact hk ▸ List.mem_cons_self
    · exact List.mem_cons_of_mem _ (ih h)

/-- A sorted list holds one value for a key. -/
theorem sorted_unique {α : Type} {m : List (Nat × α)} (h : Sparse.sorted m = true) {n : Nat} {a b : α} (ha : (n, a) ∈ m) (hb : (n, b) ∈ m) : a = b := by
  have hnodup : (m.map Prod.fst).Nodup := ((Sparse.sorted_iff m).mp h).imp (fun hlt => hlt.ne)
  exact congrArg Prod.snd (List.inj_on_of_nodup_map hnodup ha hb rfl)

theorem commitFiring_slot_self (s : State) (e : PipEvent) (dir tile cycle skipped : Nat) :
    (s.commitFiring e dir tile cycle skipped).slotEv e.slot = afterFiring e skipped := by
  have hslots : (s.commitFiring e dir tile cycle skipped).slotEv e.slot = Sparse.find (match afterFiring e skipped with
    | some f => Sparse.insert s.pip.slots e.slot f
    | none => Sparse.erase s.pip.slots e.slot) e.slot := rfl
  rw [hslots]
  cases afterFiring e skipped with
  | none => exact Sparse.find_erase_self ..
  | some f => exact Sparse.find_insert_self ..

theorem commitFiring_slot_ne (s : State) (e : PipEvent) (dir tile cycle skipped : Nat) {n : Nat} (h : n ≠ e.slot) :
    (s.commitFiring e dir tile cycle skipped).slotEv n = s.slotEv n := by
  have hslots : (s.commitFiring e dir tile cycle skipped).slotEv n = Sparse.find (match afterFiring e skipped with
    | some f => Sparse.insert s.pip.slots e.slot f
    | none => Sparse.erase s.pip.slots e.slot) n := rfl
  rw [hslots]
  cases afterFiring e skipped with
  | none => exact Sparse.find_erase_ne _ _ _ h
  | some f => exact Sparse.find_insert_ne _ _ _ _ h

/-- The events of these slots commit, each at the same instant of an edge. -/
def State.fireAll (s : State) (hits : List (Nat × PipEvent)) (dir tile cycle : Nat) : State :=
  s.forEach hits (fun s x => s.commitFiring x.2 dir tile cycle 0)

section
variable (dir tile cycle : Nat)

theorem fireAll_cons (s : State) (x : Nat × PipEvent) (hits : List (Nat × PipEvent)) :
    s.fireAll (x :: hits) dir tile cycle = (s.commitFiring x.2 dir tile cycle 0).fireAll hits dir tile cycle := rfl

theorem fireAll_pip (s : State) (hits : List (Nat × PipEvent)) : s.fireAll hits dir tile cycle = s.modPip (fun _ => (s.fireAll hits dir tile cycle).pip) := by
  induction hits generalizing s with
  | nil => rfl
  | cons x hits ih =>
    rw [fireAll_cons]
    exact ih (s.commitFiring x.2 dir tile cycle 0)

theorem fireAll_commits (s : State) (hits : List (Nat × PipEvent)) {c : PipCommit} (hc : c ∈ s.pip.commits) :
    c ∈ (s.fireAll hits dir tile cycle).pip.commits := by
  induction hits generalizing s with
  | nil => exact hc
  | cons x hits ih => exact ih (s.commitFiring x.2 dir tile cycle 0) (List.mem_append_left _ hc)

/-- A slot that no hit names keeps its event. -/
theorem fireAll_slot_ne (s : State) {hits : List (Nat × PipEvent)} {n : Nat} (h : ∀ x ∈ hits, n ≠ x.2.slot) :
    (s.fireAll hits dir tile cycle).slotEv n = s.slotEv n := by
  induction hits generalizing s with
  | nil => rfl
  | cons x hits ih =>
    rw [fireAll_cons, ih _ fun y hy => h y (List.mem_cons_of_mem _ hy)]
    exact commitFiring_slot_ne s x.2 _ _ _ _ (h x List.mem_cons_self)

/-- Each hit fires once, its slot taking what follows the firing. -/
theorem fireAll_hit (s : State) {hits : List (Nat × PipEvent)} (hslot : ∀ x ∈ hits, x.2.slot = x.1) (hkeys : (hits.map Prod.fst).Pairwise (· < ·))
    {n : Nat} {e : PipEvent} (hmem : (n, e) ∈ hits) :
    ⟨{ e with qual := none }, dir, tile, cycle, e.fired + 1, 0⟩ ∈ (s.fireAll hits dir tile cycle).pip.commits ∧
      (s.fireAll hits dir tile cycle).slotEv n = afterFiring e 0 := by
  induction hits generalizing s with
  | nil => nomatch hmem
  | cons x hits ih =>
    rw [List.map_cons, List.pairwise_cons] at hkeys
    obtain ⟨hfirst, hlater⟩ := hkeys
    have htail : ∀ y ∈ hits, y.2.slot = y.1 := fun y hy => hslot y (List.mem_cons_of_mem _ hy)
    rw [fireAll_cons]
    rcases List.mem_cons.mp hmem with rfl | hin
    · have hn : e.slot = n := hslot (n, e) List.mem_cons_self
      refine ⟨fireAll_commits _ _ _ _ _ (List.mem_append_right _ List.mem_cons_self), ?_⟩
      rw [fireAll_slot_ne _ _ _ _ fun y hy => htail y hy ▸ (hfirst y.1 (List.mem_map_of_mem hy)).ne, ← hn]
      exact commitFiring_slot_self s e _ _ _ _
    · exact ih _ htail hlater hin

end

/-! ### A notice of an edge (R303 to R305) -/

/-- Whether a notice of an edge fires an event at the edge itself. -/
def noticeHits (count : Int) (down : Bool) (x : Nat × PipEvent) : Bool := x.2.frac == 0 && x.2.qual.isNone && edgeQualifies x.2 count down

theorem exec_pipNoticeReceive {s : State} {ed : Nat} {old count : Int} {tile cyc : Nat} (hr : s.runs = true) (hb : s.free? .pip = true)
    (hh : s.head = false) (hsrc : s.pipSrc = srcLace) (hok : s.pip.beaconOk = true) (hed : ed ≠ 3) : exec (.pipNoticeReceive ed old count 0 tile cyc false) s =
      .next ((s.setPipCount count).fireAll (s.pip.slots.filter (noticeHits count (ed == 2))) ed tile cyc) := by
  change execPipNoticeReceive ed old count 0 tile cyc false s = _
  rw [execPipNoticeReceive, inBlock_served hr hb, if_neg (by simp [hh, hsrc, hok])]
  simp only [beq_false_of_ne hed, Bool.false_eq_true, if_false, beq_self_eq_true, if_true]
  rfl

theorem pipNoticeReceive_early (s : State) (ed : Nat) (old count : Int) (frac tile cyc : Nat) (rev : Bool) (hr : s.runs = true) (hb : s.free? .pip = true)
    (hno : s.pip.beaconOk = false) : answers (.pipNoticeReceive ed old count frac tile cyc rev) s fun t => t = s := by
  have hexec : exec (.pipNoticeReceive ed old count frac tile cyc rev) s = .next s := by
    change execPipNoticeReceive ed old count frac tile cyc rev s = _
    rw [execPipNoticeReceive, inBlock_served hr hb, if_pos (by simp [hno])]
  exact answers_of hexec rfl

theorem setPipCount_onlyRegs (s : State) (c : Int) : onlyRegs [Reg.pipCountLo, Reg.pipCountHi] s (s.setPipCount c) :=
  onlyRegs_trans (onlyRegs_wr s _ _ (by decide)) (onlyRegs_wr _ _ _ (by decide))

theorem pipNoticeReceive_edge (s : State) (ed : Nat) (old count : Int) (tile cyc : Nat) (hr : s.runs = true) (hb : s.free? .pip = true)
    (hh : s.head = false) (hsrc : s.pipSrc = srcLace) (hok : s.pip.beaconOk = true) (hed : ed = 1 ∨ ed = 2) (hlo : -(2 ^ 63) ≤ count)
    (hhi : count < 2 ^ 63) (hsorted : Sparse.sorted s.pip.slots = true) (hslot : ∀ x ∈ s.pip.slots, x.2.slot = x.1) :
    answers (.pipNoticeReceive ed old count 0 tile cyc false) s fun t =>
      t.pipCount = count ∧ onlyRegs [Reg.pipCountLo, Reg.pipCountHi] (s.modPip (fun _ => t.pip)) t ∧
      (∀ n e, s.slotEv n = some e → if e.frac = 0 ∧ e.qual = none ∧ edgeQualifies e count (ed == 2) = true then
        ⟨e, ed, tile, cyc, e.fired + 1, 0⟩ ∈ t.pip.commits ∧ t.slotEv n = afterFiring e 0 else t.slotEv n = some e) := by
  have hexec := exec_pipNoticeReceive (old := old) (tile := tile) (cyc := cyc) (count := count) hr hb hh hsrc hok (by omega : ed ≠ 3)
  have hhits : ∀ x ∈ s.pip.slots.filter (noticeHits count (ed == 2)), x.2.slot = x.1 := fun x hx => hslot x (List.mem_filter.mp hx).1
  have hkeys := (Sparse.sorted_iff _).mp (Sparse.sorted_filter s.pip.slots (noticeHits count (ed == 2)) hsorted)
  have hcount : (s.setPipCount count).pipCount = count := (setPipCount_pipCount s count).trans (sgn_unsgn_of_fits hlo hhi)
  have hstands := setPipCount_onlyRegs s count
  have hslots : ∀ n, (s.setPipCount count).slotEv n = s.slotEv n := fun n => rfl
  generalize s.setPipCount count = u at hexec hcount hstands hslots
  have hpip := fireAll_pip ed tile cyc u (s.pip.slots.filter (noticeHits count (ed == 2)))
  refine answers_of hexec ⟨?_, ?_, fun n e hn => ?_⟩
  · rw [hpip]
    exact hcount
  · rw [hpip]
    exact ⟨congrArg (fun x : State => x.modPip (fun _ => (u.fireAll (s.pip.slots.filter (noticeHits count (ed == 2))) ed tile cyc).pip)) hstands.1, hstands.2⟩
  · split
    · next hfires =>
      obtain ⟨hfrac, hqual, hedge⟩ := hfires
      have hmem : (n, e) ∈ s.pip.slots.filter (noticeHits count (ed == 2)) :=
        List.mem_filter.mpr ⟨find_mem hn, by simp [noticeHits, hfrac, hqual, hedge]⟩
      have he : { e with qual := none } = e := by rw [← hqual]
      obtain ⟨hcommit, hafter⟩ := fireAll_hit ed tile cyc u hhits hkeys hmem
      exact ⟨he ▸ hcommit, hafter⟩
    · next hstays =>
      rw [fireAll_slot_ne ed tile cyc u fun x hx hsame => ?_, hslots, hn]
      obtain ⟨hin, hhit⟩ := List.mem_filter.mp hx
      have hkey : x.1 = n := ((hslot x hin).symm.trans hsame.symm)
      have hfound : x.2 = e := sorted_unique hsorted (hkey ▸ hin : (n, x.2) ∈ s.pip.slots) (find_mem hn)
      exact hstays (by simpa [noticeHits, hfound, and_assoc] using hhit)

end Sys2Proof.Machine
end

section
/-! Descriptors of member scope sent to the member they name (R234, R659, R777), and O30. -/

namespace Sys2Proof.Machine

/-! ### One request -/

/-- A request joins those that wait for an answer; it goes out while its peer grants a credit, else it waits for one. -/
theorem sendReq_request (s : State) (m : Msg) (d : Option Desc) : ⟨s.lnk.tagNo % 65536, m.dst, d, false⟩ ∈ (s.sendReq m d).lnk.requests ∧
    (if s.reqUsed m.dst < 2 then Out.msg { m with tag := s.lnk.tagNo % 65536 } ∈ (s.sendReq m d).out
     else (s.sendReq m d).lnk.reqQueue = s.lnk.reqQueue ++ [{ m with tag := s.lnk.tagNo % 65536 }] ∧ (s.sendReq m d).out = s.out) := by
  unfold State.sendReq
  extract_lets tag m' u
  have hin : (⟨tag, m.dst, d, false⟩ : Request) ∈ u.lnk.requests := List.mem_append_right _ List.mem_cons_self
  have hused : u.reqUsed m'.dst = s.reqUsed m.dst := rfl
  rw [hused]
  split
  · have htraffic := (TrafficOnly.refl (u.setReqUsed m'.dst (s.reqUsed m.dst + 1))).sendMsg m'
    refine ⟨?_, mem_out_sendMsg _ _⟩
    have hsame := congrArg Lnk.requests htraffic.lnk_eq
    exact hsame ▸ hin
  · exact ⟨hin, rfl, rfl⟩

/-! ### The way to another member (R234) -/

/-- The request that carries a descriptor to the member it names. -/
def State.carryMsg (s : State) (d : Desc) : Msg :=
  { dst := d.member, src := s.me, kind := 2, code := d.opcode, tag := s.lnk.tagNo % 65536, words := s.forwardWords d }

/-- What the head notes of a descriptor that it sends away. -/
def sentAway (m : Nat) (t : StartedDesc) : StartedDesc := { t with sent := true, waits := [m] }

theorem forward_of_reaches {s : State} {d : Desc} {m : Nat} (h : s.reaches m = true) : s.forward d m = (s.modStarted d (sentAway m)).sendReq
    { dst := m, src := s.me, kind := 2, code := d.opcode, tag := 0, words := s.forwardWords d } (some d) := if_pos h

/-- A descriptor that is due at the head and names another member goes there. -/
theorem atMember_away {s : State} {op : Nat} {d : Desc} (hh : s.head = true) (ht : s.takes op d = true) (hm : d.member ≠ s.me) (seen act : State → State) :
    s.atMember op d seen act = (seen (s.atBlock d)).forward d d.member := by
  simp [State.atMember, taking_of_takes ht, hh, hm]

theorem forward_carries {s u : State} {d : Desc} (hreach : u.reaches d.member = true) (hlnk : u.lnk = s.lnk) (hme : u.me = s.me) (hout : u.out = s.out) :
    ⟨s.lnk.tagNo % 65536, d.member, some d, false⟩ ∈ (u.forward d d.member).lnk.requests ∧
    (if s.reqUsed d.member < 2 then Out.msg (s.carryMsg d) ∈ (u.forward d d.member).out
     else (u.forward d d.member).lnk.reqQueue = s.lnk.reqQueue ++ [s.carryMsg d] ∧ (u.forward d d.member).out = s.out) := by
  have hused : s.reqUsed d.member = (u.modStarted d (sentAway d.member)).reqUsed d.member := by
    rw [State.reqUsed, State.reqUsed, ← hlnk]
    rfl
  have hmsg : s.carryMsg d = { dst := d.member, src := u.me, kind := 2, code := d.opcode, tag := u.lnk.tagNo % 65536, words := u.forwardWords d } := by
    rw [State.carryMsg, State.forwardWords, State.forwardWords, hlnk, hme]
  rw [forward_of_reaches hreach, hused, hmsg, ← hlnk, ← hout]
  exact sendReq_request (u.modStarted d (sentAway d.member)) _ _

/-- Which instruction takes a descriptor of member scope to the member it names, and what it does with one of this member. -/
theorem exec_memberScoped {s : State} {d : Desc} {c : Instr} (hr : s.runs = true)
    (hc : (c, d.opcode) ∈ [(Instr.tune d, 0x10), (.radioState d, 0x11), (.tagBeacon d true, 0x12), (.bcstSelect d, 0x18), (.bcstFollow d, 0x19),
      (.captureStop d, 0x29), (.audioRoute d, 0x50)]) : ∃ act, exec c s = .next (s.atMember d.opcode d id act) := by
  simp only [List.mem_cons, Prod.mk.injEq, List.not_mem_nil, or_false] at hc
  rcases hc with ⟨rfl, hop⟩ | ⟨rfl, hop⟩ | ⟨rfl, hop⟩ | ⟨rfl, hop⟩ | ⟨rfl, hop⟩ | ⟨rfl, hop⟩ | ⟨rfl, hop⟩
  all_goals rw [hop]
  · exact ⟨_, (running_of_runs hr _ : execTune d s = _)⟩
  · exact ⟨_, (running_of_runs hr _ : execRadioState d s = _)⟩
  · exact ⟨_, (running_of_runs hr _ : execTagBeacon d true s = _)⟩
  · exact ⟨_, (running_of_runs hr _ : execBcstSelect d s = _)⟩
  · exact ⟨_, (running_of_runs hr _ : execBcstFollow d s = _)⟩
  · exact ⟨_, (running_of_runs hr _ : execCaptureStop d s = _)⟩
  · exact ⟨_, (running_of_runs hr _ : execAudioRoute d s = _)⟩

theorem atBlock_lnk {s : State} (hh : s.head = true) (d : Desc) : (s.atBlock d).lnk = s.lnk := by
  rw [State.atBlock, if_pos hh]
  rfl
theorem atBlock_reaches {s : State} (hh : s.head = true) (d : Desc) (m : Nat) : (s.atBlock d).reaches m = s.reaches m := by
  rw [State.atBlock, if_pos hh]
  rfl

theorem memberScoped_forwarded (s : State) (d : Desc) (c : Instr) (hr : s.runs = true) (hh : s.head = true) (ht : s.takes d.opcode d = true)
    (hc : (c, d.opcode) ∈ [(Instr.tune d, 0x10), (.radioState d, 0x11), (.tagBeacon d true, 0x12), (.bcstSelect d, 0x18), (.bcstFollow d, 0x19),
      (.captureStop d, 0x29), (.audioRoute d, 0x50)]) (hm : d.member ≠ s.me) (hreach : s.reaches d.member = true) : answers c s fun t =>
      let m : Msg := { dst := d.member, src := s.me, kind := 2, code := d.opcode, tag := s.lnk.tagNo % 65536, words := s.forwardWords d }
      ⟨s.lnk.tagNo % 65536, d.member, some d, false⟩ ∈ t.lnk.requests ∧ (if s.reqUsed d.member < 2 then Out.msg m ∈ t.out else t.lnk.reqQueue = s.lnk.reqQueue ++ [m] ∧ t.out = s.out) ∧
      logsOnly s t := by
  obtain ⟨act, hexec⟩ := exec_memberScoped hr hc
  rw [atMember_away hh ht hm, id] at hexec
  obtain ⟨hwaits, hgoes⟩ := forward_carries (s := s) (u := s.atBlock d) ((atBlock_reaches hh d _).trans hreach) (atBlock_lnk hh d) (atBlock_me s d) (atBlock_out s d)
  exact answers_of hexec ⟨hwaits, hgoes, ((logsOnly.refl s).atBlock d).forward d _⟩

/-- What the head notes of an event that it sends to another member. -/
def noted (m : Nat) (e : PipEvent) (p : Pip) : Pip :=
  { p with remote := (p.remote.filter (fun r => !(r.1 == m && r.2.slot == e.slot))) ++ (if e.dir == 0 then [] else [(m, e)]) }

theorem mem_noted (m : Nat) {e : PipEvent} (hdir : e.dir ≠ 0) (p : Pip) : (m, e) ∈ (noted m e p).remote :=
  List.mem_append_right _ (by simp [hdir])

theorem pipEventArm_forwarded (s : State) (d : Desc) (e : PipEvent) (hr : s.runs = true) (hh : s.head = true) (hdue : dueHere s 0x20 d)
    (he : e = eventOf (d.words.drop 1)) (hm : d.member ≠ s.me) (hreach : s.reaches d.member = true) (hused : s.reqUsed d.member < 2) :
    answers (.pipEventArm d) s fun t =>
    Out.msg { dst := d.member, src := s.me, kind := 2, code := 0x20, tag := s.lnk.tagNo % 65536, words := s.forwardWords d } ∈ t.out ∧ t.pip.slots = s.pip.slots ∧
    (e.dir ≠ 0 → (d.member, e) ∈ t.pip.remote) ∧ logsOnly (s.modPip (fun _ => t.pip)) t := by
  have hop := opcode_of_takes hdue.1
  have hexec : exec (.pipEventArm d) s = .next (((s.atBlock d).noteRemote d.member e).forward d d.member) := by
    change execPipEventArm d s = _
    rw [execPipEventArm, running_of_runs hr, atMember_away hh hdue.1 hm, he]
  have hlogs : logsOnly (s.modPip (noted d.member e)) (((s.atBlock d).noteRemote d.member e).forward d d.member) :=
    (((logsOnly.refl s).atBlock d).modPip (noted d.member e)).forward d d.member
  obtain ⟨hpip, hlogsOf⟩ := hlogs.of_modPip
  obtain ⟨-, hgoes⟩ := forward_carries (s := s) (u := (s.atBlock d).noteRemote d.member e)
    ((atBlock_reaches hh d _).trans hreach) (atBlock_lnk hh d) (atBlock_me s d) (atBlock_out s d)
  rw [if_pos hused, State.carryMsg, hop] at hgoes
  refine answers_of hexec ⟨hgoes, (congrArg Pip.slots hpip).trans rfl, fun hdir => ?_, hlogsOf⟩
  rw [hpip]
  exact mem_noted d.member hdir s.pip

/-- Settles O30: beacons, their loss and notices, and descriptors forwarded to the member they name. -/
theorem thePipIsCarriedAcrossTheLace : Obligations.ThePipIsCarriedAcrossTheLace := by
  unfold Obligations.ThePipIsCarriedAcrossTheLace
  exact ⟨pipBeaconSend_sends, pipBeaconSend_silent, pipBeaconReceive_taken, pipBeaconReceive_elsewhere, pipNoticeReceive_early, pipNoticeReceive_edge,
    pipLockLoss_forgets, memberScoped_forwarded, pipEventArm_forwarded⟩

end Sys2Proof.Machine
end
